-- ==== Sys2Proof/Word.lean ====
section
/-! DEFINITION. The word types of the block (00_scope: bytes, 32-bit registers, 64-byte packets; values
are little-endian, bit 0 the least significant). Everything a command computes on them stands in
Machine/Ops.lean. -/

namespace Sys2Proof

/-- One byte. -/
abbrev Byte := BitVec 8

/-- One 32-bit BAR0 register. -/
abbrev Word := BitVec 32

/-- One 64-bit quantity (a host address, the time anchor). -/
abbrev DWord := BitVec 64

end Sys2Proof
end

