-- ==== Sys2Proof/Syntax.lean ====
section
/-! DEFINITION. The commands of the block, one constructor per row of the opcode table, and the data they bring in
from outside: what a requester, a link partner, a pin, a sensor or the passage of time presents to the block. -/

namespace Sys2Proof

/-- What a rill packet has suffered on its way (Table 9-6): nothing, a corrected error, an uncorrectable error in its
header, or one in its payload; or that its payload was read from a poisoned buffer, which is no error of the rill. -/
inductive Damage where
  | none | corrected | header | payload | poisoned
  deriving DecidableEq, Repr

/-- One rill packet: the header fields of Table 9-4 and the payload. `typ` is the raw TYPE code of Table 9-5. -/
structure Packet where
  typ : Nat
  vc : Nat
  flits : Nat
  dstDev : Nat
  dstTer : Nat
  dstEngine : Bool
  srcDev : Nat
  srcTer : Nat
  srcEngine : Bool
  slot : Nat
  buf : Nat
  offset : Nat
  runSeq : Nat
  graph : Nat
  arg : Nat
  data : List Byte
  damage : Damage
  /-- terrace that saw the damage, and its input port (TER_ERR.PORT) -/
  errTer : Fin 64
  errPort : Fin 5
  deriving DecidableEq, Repr

/-- What a received TLP shows of itself: the requester and the header that HIF_VLOG keeps (Table 12-6). -/
structure Tlp where
  rid : BitVec 16
  hdr : BitVec 128
  deriving DecidableEq, Repr

/-- How a read the block issued has completed (Table 12-7). -/
inductive ReadResult where
  | data (bytes : List Byte)
  | ur
  | ca
  | poisoned
  | timeout
  deriving DecidableEq, Repr

/-- Which read of the block timed out (R322): a ring fetch, a list fetch, or a read of a command. -/
inductive ReadSrc where
  | ring (ring : Fin 1024)
  | list (ring : Fin 1024)
  | cmd (cid : Nat)
  deriving DecidableEq, Repr

/-- One failure a self-test finds (Table 19-4): what the test measured, before its consequence. -/
structure Finding where
  test : Nat
  block : Nat
  ter : Nat
  index : Nat
  step : Nat
  row : Nat
  col : Nat
  bit : Nat
  expected : Nat
  measured : Nat
  deriving DecidableEq, Repr

/-- The voltages that the eight reference columns of one basin hold after one tracking evaluation, in 1/1,000,000 of an
untrimmed ladder code, signed (R197). -/
structure TrackRead where
  basin : Nat
  rc : List Int
  deriving DecidableEq, Repr

/-- What the analogue side and the flash hold for one self-test: what its tests measured beyond their limits, and its tracking
evaluations, those of one basin in the order they ran; a basin with none in the list reads nominal voltages (log 7). -/
structure TestIn where
  findings : List Finding
  reads : List TrackRead
  deriving DecidableEq, Repr

/-- What a start meets (Table 4-2): lock time, firmware, flash, tank, self-test. -/
structure StartIn where
  lockUs : BitVec 8
  fwOk : Bool
  flashOk : Bool
  /-- the flash part answers in quad mode (Table 2-6, SINGLE_BIT) -/
  quadOk : Bool
  fw : Word
  /-- measured header-tank capacitance, µF -/
  tankUf : Nat
  test : TestIn
  deriving DecidableEq, Repr

/-- What a stop of the main domain leaves of the operations in progress: for each row batch that the header tank could not
finish, its command and the rows finished (R416); whether the tank failed while the journal entry of the batch or erase in
progress was being written, before its first pulse (R418); how far a life-cycle transition had come, none or its keys stored and that many
copies of its fuse burnt (R516); and whether a dry-down commit was torn. -/
structure PowerCut where
  unfinished : List (Nat × Nat)
  entry : Bool
  fuse : Option Nat
  torn : Bool
  deriving DecidableEq, Repr

/-- What a microphone channel's input balls present over a stretch of time (R131, Table 5-6). -/
inductive MicInput where
  /-- sine tones, each a frequency in mHz and a peak differential amplitude in µV; frequency 0 is a DC offset -/
  | tones (ts : List (Nat × Nat))
  | openMic
  | shorted
  /-- the common mode lies outside Table 5-7 -/
  | badCommonMode
  deriving DecidableEq, Repr

/-- A stretch of a hop, in µs, and the input over it. -/
structure MicPiece where
  us : Nat
  input : MicInput
  deriving DecidableEq, Repr

/-- A capability of Table 12-2, those of its last row included. -/
inductive Cap where
  | powerManagement | msix | pciExpress | aer | sriov | ari | serialNumber | ltr | l1Substates | secondaryPcie
  | physicalLayer16 | physicalLayer32 | laneMargining
  | msi | ats | pri | pasid | tph | resizableBar
  deriving DecidableEq, Repr

/-- A configuration register, by what it holds (R294 to R297, R302, R303, R312; log 43). -/
inductive CfgReg where
  | ids | classRevision | subsystem | interruptPin
  /-- a BAR: 0 BAR0, 1 BAR2, 2 BAR4, 3 VF BAR0, 4 VF BAR2; its upper half -/
  | bar (i : Fin 5) (hi : Bool)
  /-- whether the capability list has a capability -/
  | present (c : Cap)
  | command | powerState | msixControl | deviceCaps | deviceControl | deviceCaps2 | deviceControl2
  | linkCaps | linkStatus | aerControl | sriovVfs | sriovOffsets | sriovDevice | sriovControl
  | serialLow | serialHigh | l1Caps
  deriving DecidableEq, Repr

/-- A configuration request (R115, R303): a read of a register, or a write of one of the controls the block consults. -/
inductive CfgReq where
  | read (func : Fin 16) (reg : CfgReg)
  | assign (rid : BitVec 16)
  | vfEnable (on : Bool)
  | memorySpace (on : Bool)
  | vfMemorySpace (on : Bool)
  | bar (i : Fin 5) (value : DWord)
  /-- Device Control: Max Payload Size and Max Read Request Size codes, and Relaxed Ordering -/
  | deviceControl (payload readRequest : Fin 8) (relaxed : Bool)
  /-- Device Control 2: completion-timeout range and disable -/
  | completionTimeout (range : Fin 16) (disable : Bool)
  | ecrc (generate check : Bool)
  | msixControl (func : Fin 16) (enable mask : Bool)
  | aspmL1 (on : Bool)
  | pmeStatusClear
  | other
  deriving DecidableEq, Repr

/-- What one access does to the flags of a word (R388). -/
inductive FlagOp where
  | set (word : Fin 8) (value : Word)
  | clear (word : Fin 8) (value : Word)
  | read (word : Fin 8)
  deriving DecidableEq, Repr

/-- A flag access: of an engine, the SET_FLAG at the head of a ring; of the host; of an HK core (R388, R389). -/
inductive FlagAccess where
  | engine (ring : Fin 1024)
  | host (op : FlagOp)
  | hk (core : Fin 2) (op : FlagOp)
  deriving DecidableEq, Repr

/-- What an HK core does with the mailbox (R392, R393): a store, the oldest pending store becoming visible, a load, KFENCE. -/
inductive HkMem where
  | store (addr : BitVec 16) (bytes : List Byte)
  | drain
  | load (addr : BitVec 16) (len : Nat)
  | fence
  deriving DecidableEq, Repr

/-- What an access to a register, a flag or the mailbox does: a write or a read of BAR0 or VF BAR0, and the accesses that no
row of the table names (log 39): a read at an offset of a doorbell page, the flag accesses of one cycle, a mailbox access of
an HK core. The last two name their own addresses and take no function, offset or width. -/
inductive RegAccess where
  | write (value : DWord)
  | read
  | doorbellRead (page : Fin 1024) (len : Nat)
  | flags (cycle : List FlagAccess)
  | hkMem (core : Fin 2) (op : HkMem)
  deriving DecidableEq, Repr

/-- What an overvoltage detector reports: a trip, with what a stop of the main domain cuts, or the return of its rail
(Table 4-3, log 39). -/
inductive OvEdge where
  | trip (cut : PowerCut)
  | back
  deriving DecidableEq, Repr

/-- The header of a CSI-2 short packet: its virtual channel, and whether one wrong bit of it was corrected (R293). -/
structure CsiShort where
  vc : Fin 4
  corrected : Bool
  deriving DecidableEq, Repr

/-- A used flit slot of a link frame: its channel, VC0 to VC2 or 3 link management, and its flit (Table 18-1). -/
structure FlitSlot where
  chan : Fin 4
  flit : BitVec 256
  deriving DecidableEq, Repr

/-- A cascade link frame (Table 18-1): the fields of its control blocks with the CRC they carry, its 7 flit slots, and, as a
receiver sees it, whether every sync header was right. -/
structure LinkFrame where
  seq : Nat
  ack : Nat
  nak : Bool
  credits : List Nat
  slots : List (Option FlitSlot)
  sync : Bool
  crc : Word
  deriving DecidableEq, Repr

/-- What HK_DEBUG does to the housekeeping cores (Table 20-8). -/
inductive HkOp where
  | halt (core : Fin 2)
  | resume (core : Fin 2)
  | other
  deriving DecidableEq, Repr

/-- Work the master sends a member (R463): loading a graph's part (each slot's number, bank and first line in the order
of the slot records, and whether a frame reservation holds its terraces), unloading it, one run's part, a setting; joining or
leaving a pair, with the two DEV_UIDs and the number of the pairing, which stands for the salt of R518; and giving a run up.
`part` goes the other way: a member reports the end of its part of a run, for the device numbers it answers to (log 23). -/
inductive Work where
  | load (handle : Nat) (cgd : List Byte) (slots : List (Nat × Nat × Nat)) (bound : Bool)
  | unload (handle : Nat)
  | run (handle runSeq : Nat) (exact : Bool) (theta : List Nat)
  | threshold (handle layer thetaZ : Nat)
  | exact (handle : Nat) (on : Bool)
  | pair (k active standby : Nat) (async : Bool) (uidA uidS : DWord) (n : Nat)
  | unpair (k : Nat)
  | cut (handle runSeq : Nat) (zero : Bool)
  | part (handle runSeq : Nat) (devs : List Nat) (evals skipped : Nat) (fault : Option Nat)
  deriving DecidableEq, Repr

/-- The commands, in the order of the opcode table. -/
inductive Instr where
  | vauxGood
  | vauxLoss (cut : PowerCut)
  | strapLatch (samples : List (BitVec 5))
  | mainRailGood (rail : Fin 6)
  | railTimeout
  | mainRailLoss (rail : Fin 6) (cut : PowerCut)
  | dryToSentry (rail : Fin 6)
  | railOvervoltage (rail : Fin 6) (edge : OvEdge)
  | thermalWarning (tj : BitVec 16)
  | thermalTrip (tj : BitVec 16) (cut : PowerCut)
  | pllLossOfLock (cut : PowerCut)
  | hkWatchdogExpire (core : Fin 2) (cut : PowerCut)
  | internalFatalError (code : DWord) (cut : PowerCut)
  | perstNRise (start : StartIn)
  | startRelease
  | perstNAssert (cut : PowerCut)
  | configRequest (req : CfgReq)
  | crystalDetected
  | crystalLost
  | trimWindowClose (trim : BitVec 12)
  | uptimeTick
  | hopBoundary (chans : List (List MicPiece)) (refs : List (List Int))
  | featureBankSwitch (chan : Fin 16)
  | dozeIdleTimeout
  | dozeExitDone
  | pwrReqDoze
  | pwrReqRun
  | pwrReqEconomy
  | pwrPeakClr
  | fclkSwitchDone
  | terracePowerGood (ter : Fin 64)
  | terraceIdleTimeout (ter : Fin 64)
  | peripheryHoldExpire (basin : Fin 4096)
  | peripheryPowerGood (basin : Fin 4096)
  | shutdown (ring : Fin 1024)
  | dryDrainDone (test : TestIn)
  | drydownCommit (tankMv : Nat)
  | drydoneRise
  | pmeTurnOff (tlp : Tlp)
  | doorbellSqTail (func : Fin 16) (page : Fin 1024) (value : Nat) (tlp : Tlp)
  | doorbellCqHead (func : Fin 16) (page : Fin 1024) (value : Nat) (tlp : Tlp)
  | doorbellStrayWrite (func : Fin 16) (page : Fin 1024) (tlp : Tlp)
  | bar0BadSizeAccess (func : Fin 16) (isRead : Bool) (tlp : Tlp)
  | malformedTlp (tlp : Tlp)
  | poisonedWrite (func : Fin 16) (tlp : Tlp)
  | ecrcMismatch (tlp : Tlp)
  | unsupportedRequest (func : Fin 16) (tlp : Tlp)
  | unexpectedCompletion (tlp : Tlp)
  | completionTimeout (src : ReadSrc)
  | flr (func : Fin 16)
  | hotReset
  | dlDown
  | busMasterEnableChange (func : Fin 16) (on : Bool)
  | powerstateD3hot
  | powerstateD0
  | aspmL1Idle (sub : Fin 3)
  | msixUnmask (func : Fin 16) (entry : Option (Fin 1040))
  | registerWrite (func : Fin 16) (offset : Nat) (acc : RegAccess) (wide : Bool) (tlp : Tlp)
  | tmrUptimeLoRead (wide : Bool)
  | slcFrameIdxLoRead (wide : Bool)
  | tmrAnchorHiWrite (value : Word)
  | sysLockWrite (value : Word)
  | sntRptRdWrite (value : Word)
  | sntRptLostClr (value : Word)
  | hifVlogRdWrite (value : Word)
  | hifRblkOwnerWrite (hi : Bool) (value : Word) (tlp : Tlp)
  | ringEnable (func : Fin 16) (ring : Fin 1024) (value : Word) (tlp : Tlp)
  | ringDisable (func : Fin 16) (ring : Fin 1024) (value : Word) (tlp : Tlp)
  | ringDescriptorWrite (func : Fin 16) (ring : Fin 1024) (offset : Fin 64) (value : DWord) (wide : Bool) (tlp : Tlp)
  | slcFrameCfgWrite (value : Word)
  | kflagSetWrite (word : Fin 8) (value : Word)
  | kflagClrWrite (word : Fin 8) (value : Word)
  | cscRctlGo (value : Word)
  | remoteAccessDone (result : Fin 4) (data : Word)
  | bar4Access (addr : Nat) (write : Option (List Byte)) (len : Nat) (tlp : Tlp)
  | ringFetchCompletion (ring : Fin 1024) (result : ReadResult)
  | sluiceDecision
  | ringModTimer (ring : Fin 1024)
  | nop (ring : Fin 1024)
  | fence (ring : Fin 1024)
  | timestamp (ring : Fin 1024)
  | waitFlag (ring : Fin 1024)
  | waitFlagSatisfied (ring : Fin 1024)
  | waitFlagDeadline (ring : Fin 1024)
  | setFlag (ring : Fin 1024)
  | listCall (ring : Fin 1024)
  | listFetchCompletion (ring : Fin 1024) (result : ReadResult)
  | timeAnchor (ring : Fin 1024)
  | graphLoad (ring : Fin 1024)
  | cgdReadComplete (cid : Nat) (result : ReadResult)
  | graphUnload (ring : Fin 1024)
  | graphRelease (handle : Nat)
  | graphRun (ring : Fin 1024)
  | graphRunFrame (ring : Fin 1024)
  | tensorIn (ring : Fin 1024)
  | tensorOut (ring : Fin 1024)
  | layerThreshold (ring : Fin 1024)
  | exactMode (ring : Fin 1024)
  | runHeadWake (cid : Nat)
  | runComplete (cid : Nat)
  | afeConfig (ring : Fin 1024)
  | sentinelArm (ring : Fin 1024)
  | sentinelDisarm (ring : Fin 1024)
  | featureRoute (ring : Fin 1024)
  | csiConfig (ring : Fin 1024)
  | intakeConfig (ring : Fin 1024)
  | imageOpen (ring : Fin 1024)
  | programRows (ring : Fin 1024) (record : ReadResult) (high : Bool)
  | programBatchDone (stuck : Option (Nat × Nat)) (high : Bool)
  | tankWaitTimeout
  | verify (ring : Fin 1024)
  | eraseBasin (ring : Fin 1024)
  | eraseDone
  | recalibrate (ring : Fin 1024) (reads : List TrackRead)
  | holdupQuery (ring : Fin 1024)
  | imageClose (ring : Fin 1024)
  | tankComparatorCross (above : Bool) (mv : Nat)
  | tankBoostThreshold (stop : Bool) (mv : Nat)
  | segmentQueue (ring : Fin 1024)
  | jump (ring : Fin 1024)
  | streamStart (ring : Fin 1024)
  | streamStop (ring : Fin 1024)
  | tdmConfig (ring : Fin 1024)
  | tdmFrame
  | tdmFsEdge (sckOffset : Nat)
  | tdmFsMissing
  | tdmSckLost
  | streamUnitArrival (stream : Fin 32) (bytes : List Byte)
  | prefetchCompletion (stream : Fin 32) (result : ReadResult)
  | bistRun (ring : Fin 1024)
  | mapoutRead (ring : Fin 1024)
  | lifecycleAdvance (ring : Fin 1024) (token : ReadResult)
  | retirementResume (n : Nat)
  | logRead (ring : Fin 1024)
  | mirrorControl (ring : Fin 1024)
  | snapshotEndAck (pair : Fin 3)
  | cascadeEnum (ring : Fin 1024)
  | drydownInvalidate (ring : Fin 1024)
  | basinFire (handle place : Nat) (cis : Fin 3)
  | evaluationComplete (handle place : Nat)
  | trackingEvaluation (read : TrackRead)
  | rideAlongWindow (basin : Fin 4096)
  | forwardPacket (handle place edge : Nat) (cis : Fin 3)
  | actData (p : Packet)
  | tensorData (p : Packet)
  | readReq (p : Packet)
  | readData (p : Packet)
  | credit (p : Packet)
  | prewake (p : Packet)
  | maintWr (p : Packet)
  | maintRd (p : Packet)
  | maintResp (p : Packet)
  | moatSet (p : Packet)
  | fsyncEdge
  | frameTimerExpire
  | fsyncMissed
  | fireInstant (handle : Nat)
  | csiFrameStart (port : Fin 2) (head : CsiShort)
  | csiFrameEnd (port : Fin 2) (head : CsiShort)
  | csiLongPacket (port : Fin 2) (vc : Fin 4) (dt : Nat) (corrected dropped : Bool) (crcOk : Bool) (payload : List Byte)
  | intakeDelivery (cid : Nat) (unit : Fin 2)
  | cascadeFrameRx (up : Bool) (frame : LinkFrame)
  | cascadeTrainingDone (up : Bool) (lanes : BitVec 4) (partnerOk : Bool)
  | enumerationMessage (n : Nat) (reply : Option (DWord × Nat))
  | chainEndTimeout
  | memberReleaseReport (dev : Fin 8) (uid : DWord) (fw epoch : Word)
  | heartbeatSend
  | heartbeatReceive (dev : Fin 8) (mirSeq : Nat)
  | memberLost (dev : Fin 8)
  | dryRelay
  | mirrorRecordRx (bytes : List Byte)
  | mirrorAckRx (pair : Fin 3) (seq : Nat)
  | mirrorAckTimeout (pair : Fin 3)
  | remoteAccessMessage (offset : Nat) (write : Option Word)
  | smbusBlockRead (code : Byte)
  | smbusAlertResponse
  | smbusProtocolError (cause : Nat)
  | smbusSclTimeout
  | tapReset
  | extest (pins : List Bool)
  | samplePreload (pins : List Bool)
  | idcode
  | clamp
  | highz
  | hkDebug (op : HkOp)
  | hkRelease (start : StartIn)
  | fabricAccess (ter : Fin 64) (offset : Nat) (write : Option Word)
  | cisternAccess (addr : Nat) (write : Option (List Byte)) (len : Nat)
  | fuseRead
  | testMode
  | bypass
  | dozeEntryDone
  | dataReadCompletion (cid : Nat) (result : ReadResult)
  | flowControlCreditReturn (n : Nat)
  | verifyDone (record : ReadResult) (below above : Option Nat) (reads : List TrackRead)
  | bistRunDone (test : TestIn)
  | lifecycleTransitionDone (idPub : List Byte)
  | micbiasCurrentLimit (k : Fin 4)
  | preamplifierClip (chan : Fin 16)
  | thermalWarningReturn (tj : BitVec 16)
  | laneStopState (port : Fin 2) (stop : BitVec 4) (clkHs deskew : Bool)
  | linkUp (speed width : Nat) (credits : Option Nat)
  | mirrorResendRequest (pair : Fin 3) (seq : Nat)
  | routingTableWrite (table : List Nat) (alsoNum : Option Nat)
  | masterWorkMessage (ring tag opcode : Nat) (work : Work)
  deriving DecidableEq, Repr

end Sys2Proof
end

