-- ==== Sys2Proof/Decode.lean ====
section
/-! DEFINITION. The command a word spells by the opcode table's bits. No row of the table gives bits: commands reach
the block as bus requests, packets, pins and instants, so no word spells one. -/

namespace Sys2Proof

/-- The command that the word `w` of `nbits` bits spells: none, since no row gives bits. -/
def decodeTableWord (_nbits _w : Nat) : Option Instr := none

end Sys2Proof
end

