-- ==== Sys2Proof/Config.lean ====
section
/-! DEFINITION. What the spec leaves open: free values (opaque, without a body, so that a statement holds for every
value), and the cryptographic functions, of which the spec names the standard and the model keeps the name (log 8, 9). -/

namespace Sys2Proof.Config

/-- A byte the spec leaves open (log 9), by the number of the draw. -/
opaque freeByte : Nat → Byte

/-- An integer the spec leaves open (log 9), by the number of the draw. -/
opaque freeInt : Nat → Int

/-- A decision the spec leaves open (log 9), by the number of the draw. -/
opaque freeBool : Nat → Bool

/-- Voltage that a reference column holds at a ride-along compare, in 1/1,000,000 ladder code, by draw (log 9). -/
opaque refVoltage : Nat → Int

/-- Departure of one comparison's column voltage from nominal, in 1/1,000,000 ladder code (R221, log 12), by draw. The
readers clamp it to the bound E of Table 8-5. -/
opaque columnError : Nat → Int

/-- Gain of AFE channel (first) at gain step (second) under a preamplifier trim (third), less nominal, in mdB; its readers
hold it to Table 5-5 (R156, log 41). -/
opaque afeGain : Nat → Nat → Int → Int

/-- Departure from the log law, in mdB: channel, band (40 is the overall level), log offset and slope trims, band level in
1/1,000,000,000 of full scale (Table 5-5, log 41). -/
opaque afeLaw : Nat → Nat → Int → Int → Nat → Int

/-- Centre-frequency error of a band in ppm: channel, band, gm trim (Table 5-5, log 41). -/
opaque afeCentre : Nat → Nat → Int → Int

/-- Q of a band in 1/100: channel, band, gm trim (Table 5-5, log 41). -/
opaque afeQ : Nat → Nat → Int → Nat

/-- Error of the time constant in 1/1,000: channel, TAU (Table 5-5, log 41). -/
opaque afeTau : Nat → Nat → Int

/-- What the 20 kHz low-pass leaves of a tone above 12 kHz, in ppm, by its frequency in mHz (R131, log 41). -/
opaque lowPass : Nat → Nat

/-- Weight levels x AON cycles of one pass-A code and of one sixteenth of the pass-B full scale (R160, R161, log 42). -/
opaque sntLsbA : Nat
opaque sntLsbB : Nat

/-- Bound of a sentinel column's departure from nominal, in 1/1,000 LSB (log 42). -/
opaque sntError : Nat

/-- A packet has reached an output port of its route and waits there: by the number of the draw, its place among the packets
on the rill, the port (R245, log 45). -/
opaque rillReady : Nat → Nat → Nat → Bool

/-- What check 7, 8 or 9 of GRAPH_LOAD finds of a placement on another device, by command, check and placement: 0 sound (R268,
log 46). -/
opaque memberFinding : Nat → Nat → Nat → Nat

/-- Time, in ns, until the terraces that a run uses on other devices are good, by draw (R27, log 46). -/
opaque memberStaging : Nat → Nat

/-- The end of a Weight Engine command, by its number, is a Weight Engine event of Table 12-4, of which the spec names none
(R308, log 43). -/
opaque weightEvent : Nat → Bool

/-- Time an FLR takes, in µs; its reader holds it to the 100 ms of R318 (log 43). -/
opaque flrTime : Nat → Nat

/-- The ECDSA P-384 signature (third argument) of the bytes (second) verifies under the key (first) (R275, R513). -/
opaque ecdsaVerifies : List Byte → List Byte → List Byte → Bool

/-- AES key unwrap of the second argument under the key slot's bytes (first): the content key, or none (R273, R517). -/
opaque unwrapKey : List Byte → List Byte → Option (List Byte)

/-- AES-256-GCM: key, nonce, additional data, ciphertext followed by the 16-byte tag; the plaintext, or none where
authentication fails (R274, R519). -/
opaque gcmOpen : List Byte → List Byte → List Byte → List Byte → Option (List Byte)

/-- AES-256-GCM encryption: key, nonce, additional data, plaintext; ciphertext and tag (R519). -/
opaque gcmSeal : List Byte → List Byte → List Byte → List Byte → List Byte

/-- The pair key two devices derive (R518): active DEV_UID, standby DEV_UID, number of the pairing. -/
opaque pairKey : Nat → Nat → Nat → List Byte

/-- The peer's identity certificate verifies under this device's LC1 (R518): LC1, peer number. -/
opaque peerCertified : List Byte → Nat → Bool

/-- LC0, the life-cycle public key fused in MANUFACTURE (R511). -/
opaque lc0 : List Byte

/-- The test wrapping key and the test signer of MANUFACTURE (Table 20-5). -/
opaque testWrap : List Byte
opaque testSign : List Byte

/-- The transport key (Table 20-5). -/
opaque transportKey : List Byte

end Sys2Proof.Config
end

