-- ==== Sys2Proof/WellFormed.lean ====
section
/-! DEFINITION. Well-formed commands: operands that some event of the hardware can bring. A meaning answers an operand that
fails these checks with the fault illFormed. -/

namespace Sys2Proof

/-- STRAP_LATCH brings the eight samples of R51, five strap bits each. -/
def strapWf (samples : List (BitVec 5)) : Bool := samples.length == 8

/-- HOP_BOUNDARY brings what each of the 16 channels' inputs presented over the hop that ends (R131, R134), and the raw
readings of the 4 reference columns of each of the 16 sentinels (R159, R164). -/
def hopWf (chans : List (List MicPiece)) (refs : List (List Int)) : Bool :=
  chans.length == 16 && refs.length == 16 && refs.all (fun x => x.length == 4)

/-- TRACKING_EVALUATION brings the eight reference columns of one physical basin (R197). -/
def trackWf (read : TrackRead) : Bool := read.rc.length == 8 && decide (read.basin < 4096)

/-- The command is well-formed. -/
def Instr.wf : Instr → Bool
  | .strapLatch samples => strapWf samples
  | .hopBoundary chans refs => hopWf chans refs
  | .trackingEvaluation read => trackWf read
  | _ => true

end Sys2Proof
end

