-- ==== Sys2Proof/Machine/State.lean ====
section
/-! DEFINITION. The state of the block as plain data, its reset value, and the two reasons a step can stop.
Every field's line reads: name | width | chapter and rule that give it | reset value. A reset the spec does not give
names the log entry that chose it. -/

namespace Sys2Proof.Machine

/-! ### Power, rails and clocks (chapter 03) -/

/-- Device states of Table 3-4 (R80). -/
inductive DevState where
  | off | sentry | doze | run | economy | dry | fault
  deriving DecidableEq, Repr

/-- PWR_STATE.REQ_RESULT. -/
inductive ReqResult where
  | none | pending | done | refusedReservation | refusedMirror | refusedState
  deriving DecidableEq, Repr

/-- Control domain of one terrace (R94, R97): off, waiting for a staging slot, charging since an uptime, power-good. -/
inductive TerPower where
  | off | staged
  | charging (since : Nat)
  | good
  deriving DecidableEq, Repr

/-- A basin periphery that is not off (R94, R99): waking until power-good, or on, with a token pending or not. -/
inductive Periph where
  | waking
  | good (token : Bool)
  deriving DecidableEq, Repr

/-- TMR_START.KIND. -/
inductive StartKind where
  | quick | full
  deriving DecidableEq, Repr

/-- TMR_START.RESULT. -/
inductive StartResult where
  | pass | passDegraded | bootFail
  deriving DecidableEq, Repr

/-- A start in progress, PERST_N edge to release (R83, R114). -/
structure Start where
  /-- TMR_UPTIME at the PERST_N edge. -/
  edgeAt : Nat
  kind : StartKind
  /-- Table 4-1 code. -/
  reason : Nat
  result : StartResult
  dryAge : Word
  /-- firmware and flash were read sound (R118) -/
  booted : Bool
  /-- BOOT_SRC = HOLD keeps the HK cores in reset (R57); the start goes on at HK_RELEASE. -/
  held : Bool
  deriving DecidableEq, Repr

/-- Power, rails and clocks. -/
structure Power where
  /-- PWR_STATE.STATE | 4 | 03 R80 | 0x3 (RUN) -/
  dev : DevState
  /-- PWR_STATE.PREV | 4 | 03 R101 | 0x1 (SENTRY) -/
  prev : DevState
  /-- PWR_STATE.REQ_RESULT | 3 | 03 R101 | 0 NONE -/
  reqResult : ReqResult
  /-- start in progress (PWR_STATE.STARTING is 1 while some) | 1 | 03 R83 | none -/
  start : Option Start
  /-- DOZE entry in progress | 1 | 03 R82 | false -/
  dozeEntering : Bool
  /-- state left for DOZE, RUN or ECONOMY | 1 | 03 R86 | RUN -/
  dozeFrom : DevState
  /-- DOZE exit in progress, and the state it goes to | - | 03 R82, R86 | none -/
  dozeExit : Option DevState
  /-- the DRY trigger that waits for the DOZE exit | 1 | 04 R121 | false -/
  dryAfterExit : Bool
  /-- FCLK switch in its pause (R91), and the state it goes to | - | 03 R91 | none -/
  fclkTo : Option DevState
  /-- PWR_CTRL.AUTO_DOZE | 1 | 03 | 1 -/
  autoDoze : Bool
  /-- PWR_CTRL.STAGE_MAX | 4 | 03 R97 | 0x4 -/
  stageMax : Nat
  /-- PWR_DOZE_IDLE.IDLE_US | 24 | 03 | 0x7D0 -/
  idleUs : Nat
  /-- PWR_HOLD.BSN_HOLD | 16 | 03 R94 | 0x400 -/
  bsnHold : Nat
  /-- PWR_HOLD.TER_IDLE | 16 | 03 R94 | 0x64 -/
  terIdle : Nat
  /-- PWR_BUDGET.BUDGET_MW | 16 | 03 R100 | 0x88B8 -/
  budget : Nat
  /-- PWR_EST.PEAK_MW | 16 | 03 | 0 -/
  peak : Nat
  /-- the sluice has formed the estimate since release: PWR_EST.EST_MW holds its reset value 0 until then | 1 | 03 R573, 00 R18 | false (log 39) -/
  estFormed : Bool
  /-- PWR_RAIL.GOOD | 6 | 03 R67 | 0x3F -/
  railGood : BitVec 6
  /-- PWR_RAIL.OV | 6 | 03 R67 | 0 -/
  railOv : BitVec 6
  /-- PWR_FAULT[6:0] MAIN_LOSS RAIL_OV RAIL_TIMEOUT THERMAL PLL_UNLOCK HK_WDOG INTERNAL | 7 | 03 | 0 -/
  fault : BitVec 7
  /-- PWR_FAULT.RAIL | 6 | 03 | 0 -/
  faultRail : BitVec 6
  /-- PWR_TJ.TJ | 16 | 03 | DESIGN CHOICE 0 (log 2) -/
  tj : BitVec 16
  /-- PWR_TJ.TJ_MAX | 16 | 03 | DESIGN CHOICE 0 (log 2) -/
  tjMax : BitVec 16
  /-- thermal warning element is beyond its threshold | 1 | 04 R120 | false (Normal) -/
  hot : Bool
  /-- thermal trip element latched | 1 | 04 R120 | false (Normal) -/
  tripped : Bool
  /-- the previous main-domain session ended in FAULT (Table 4-1 row 1) | 1 | 04 R111 | DESIGN CHOICE false (log 2) -/
  endedInFault : Bool
  /-- PWR_TER_ON: control domain of each terrace T0..T63 | 64 x 2 | 03 R94, R97 | all off -/
  terraces : List TerPower
  /-- terraces that wait for a staging slot, oldest first | 64 | 03 R97 | none -/
  stageQ : List Nat
  /-- basin peripheries that are not off, by terrace*64+physical basin, rising | 4096 | 03 R94 | none -/
  periph : List (Nat × Periph)
  /-- CLK_STATUS.XTAL_PRESENT | 1 | 03 R77 | DESIGN CHOICE 1 (log 2) -/
  xtal : Bool
  /-- CLK_STATUS.XTAL_LOST | 1 | 03 | 0 -/
  xtalLost : Bool
  /-- CLK_STATUS.LOCK_US | 8 | 03 | DESIGN CHOICE 0 (log 2) -/
  lockUs : BitVec 8
  /-- CLK_STATUS.AON_TRIM | 12 | 03 R77 | DESIGN CHOICE 0 (log 2) -/
  aonTrim : BitVec 12
  deriving DecidableEq, Repr

/-! ### Pins the device drives or latches (chapter 02) -/

/-- CSC_ROLE as latched (Table 2-6; the reserved code latches as SINGLE). -/
inductive Role where
  | single | master | member
  deriving DecidableEq, Repr

/-- BOOT_SRC as latched (Table 2-6; the reserved code latches as QUAD). -/
inductive BootSrc where
  | quad | singleBit | hold
  deriving DecidableEq, Repr

/-- Straps and pins. -/
structure Pins where
  /-- straps latched since VAUX arrived | 1 | 02 R51 | true -/
  latched : Bool
  /-- CSC_ROLE | 2 | 02 R54 | DESIGN CHOICE SINGLE, the code of an unconnected strap (log 2) -/
  role : Role
  /-- BOOT_SRC | 2 | 02 R54 | DESIGN CHOICE QUAD, the code of an unconnected strap (log 2) -/
  boot : BootSrc
  /-- TEST_EN | 1 | 02 R54 | DESIGN CHOICE 0, the code of an unconnected strap (log 2) -/
  testEn : Bool
  /-- SYS_STRAP role reserved code flag | 1 | 02 R54 | false -/
  roleResv : Bool
  /-- SYS_STRAP boot reserved code flag | 1 | 02 R54 | false -/
  bootResv : Bool
  /-- SYS_STRAP.ROLE_UNSTABLE | 1 | 02 R55 | false -/
  roleUnst : Bool
  /-- SYS_STRAP.BOOT_UNSTABLE | 1 | 02 R55 | false -/
  bootUnst : Bool
  /-- SYS_STRAP.TEST_UNSTABLE | 1 | 02 R55 | false -/
  testUnst : Bool
  /-- SYS_STRAP override flag for HOLD, of this start | 1 | 02 R56 | false -/
  bootOver : Bool
  /-- SYS_STRAP override flag for TEST_EN, of this start | 1 | 02 R56 | false -/
  testOver : Bool
  /-- PERST_N as the synchroniser sees it, true = high | 1 | 04 R120 | true -/
  perstHigh : Bool
  /-- WAKE_N driven low by the device (SNT_WAKE.WAKE_N_LOW) | 1 | 06 R169 | false -/
  wakeLow : Bool
  /-- DRYDONE | 1 | 02 R49 | false (low) -/
  dryDone : Bool
  /-- ALERT_N driven low | 1 | 21 R542 | false -/
  alertLow : Bool
  deriving DecidableEq, Repr

/-! ### Time (chapter 04) -/

/-- The TMR block. -/
structure Time where
  /-- TMR_UPTIME, microseconds since the cold start | 64 | 04 R103 | DESIGN CHOICE 0 (log 2) -/
  uptime : Nat
  /-- FCLK-domain copy of TMR_UPTIME | 64 | 03 R79 | DESIGN CHOICE 0 (log 2) -/
  copy : Nat
  /-- TMR_UPTIME_HI latch | 32 | 04 | DESIGN CHOICE 0 (log 2) -/
  hiLatch : Word
  /-- TMR_EPOCH | 32 | 04 R105 | flash; DESIGN CHOICE 1 (log 3) -/
  epoch : Word
  /-- epoch-pending flag | 1 | 04 R102 | false -/
  epochPending : Bool
  /-- TMR_STATUS.EPOCH_SAT | 1 | 04 R106 | DESIGN CHOICE 0 (log 2) -/
  epochSat : Bool
  /-- TMR_STATUS.ACCURACY | 1 | 04 R108 | DESIGN CHOICE 0 (log 2) -/
  accuracy : Bool
  /-- TMR_STATUS.UNTRIMMED | 1 | 04 | 1 -/
  untrimmed : Bool
  /-- TMR_ANCHOR | 64 | 04 R109 | 0 (no anchor written since the cold start) -/
  anchor : DWord
  /-- TMR_ANCHOR_AT | 64 | 04 R109 | 0 (no anchor written since the cold start) -/
  anchorAt : Nat
  /-- TMR_STATUS.ANCHOR_VALID | 1 | 04 R109 | false -/
  anchorValid : Bool
  /-- TMR_START.KIND | 2 | 04 R111 | DESIGN CHOICE FULL (log 2) -/
  startKind : StartKind
  /-- TMR_START.REASON | 4 | 04 R111 | DESIGN CHOICE 1 NO_RECORD (log 2) -/
  startReason : Nat
  /-- TMR_START.RESULT | 2 | 04 R117 | DESIGN CHOICE PASS (log 2) -/
  startResult : StartResult
  /-- TMR_START.DURATION_MS | 16 | 04 | DESIGN CHOICE 420 (log 2) -/
  startMs : Nat
  /-- TMR_DRYAGE | 32 | 04 | DESIGN CHOICE 0xFFFFFFFF, no record read (log 2) -/
  dryAge : Word
  /-- TMR_RELEASE | 64 | 04 | DESIGN CHOICE 0 (log 2) -/
  releaseAt : Nat
  deriving DecidableEq, Repr

/-! ### The analogue front end (chapter 05) -/

/-- Trims of one AFE channel: preamplifier gain, rectifier offset, log-amplifier offset and slope, band gm trims (R155). -/
structure AfeTrim where
  gain : Int
  rect : Int
  logOff : Int
  logSlope : Int
  gm : List Int
  deriving DecidableEq, Repr

/-- One AFE channel. Feature values are in units of 1/1,200,000 of full scale (log 11). -/
structure AfeChan where
  /-- AFE_CH_EN.EN | 1 | 05 R141 | 0 -/
  en : Bool
  /-- AFE_CHn_CFG.GAIN | 3 | 05 R131 | 0 -/
  gain : Nat
  /-- AFE_CHn_CFG.TAU | 3 | 05 R133 | 0x2 -/
  tau : Nat
  /-- channel domain powered | 1 | 05 R142 | false -/
  powered : Bool
  /-- AFE_CHn_STAT.SETTLE | 8 | 05 R144 | 0 -/
  settle : Nat
  /-- the next valid hop is the first since the channel settled: its deltas are 0 | 1 | 05 R144 | false -/
  firstValid : Bool
  /-- AFE_CHn_STAT.CLIP_CNT | 16 | 05 | 0 -/
  clipCnt : Nat
  /-- preamplifier exceeded full scale during the current hop | 1 | 05 R157 | false -/
  clipNow : Bool
  /-- band levels, the integrator outputs, in 1/1,000,000,000 of band full scale | 40 values | 05 R133 | all 0 -/
  level : List Nat
  /-- the channel was looped back and rejoins at the next hop boundary | 1 | 19 R496 | false -/
  rejoin : Bool
  /-- trims in use | 44 values | 05 R155 | flash; DESIGN CHOICE 0 (log 3) -/
  trim : AfeTrim
  /-- trims in the calibration area of the flash | 44 values | 05 R155 | flash; DESIGN CHOICE 0 (log 3) -/
  flash : AfeTrim
  /-- log values of the previous hop, the second hold | 40 values | 05 R135 | all 0 -/
  prevLog : List Int
  /-- the 82 held features the sentinel rows see | 82 values | 05 R135 | all 0 -/
  feat : List Int
  /-- the 82 features on the channel's feature-bus lane | 82 values | 05 R150 | all 0 -/
  lane : List Int
  /-- the lane's bank switch waits for an evaluation's settle | 1 | 05 R150 | false -/
  switchWait : Bool
  deriving DecidableEq, Repr

/-- MICBIAS[k]. -/
structure MicBias where
  /-- AFE_MICBIAS.EN | 1 | 05 R152 | 0 -/
  en : Bool
  /-- AFE_MICBIAS.VSEL | 2 | 05 R152 | 0 -/
  vsel : Nat
  /-- AFE_MICBIAS.ILIM | 1 | 05 R152 | 0 -/
  ilim : Bool
  deriving DecidableEq, Repr

/-- The parameters of AFE_CONFIG (Table 13-3). -/
structure AfeCfg where
  chEn : BitVec 16
  chMask : BitVec 16
  hop : Nat
  hopValid : Bool
  mic : BitVec 16
  micMask : BitVec 4
  gain : List Nat
  tau : List Nat
  deriving DecidableEq, Repr

/-- An accepted AFE_CONFIG that waits for its hop boundary (R142). -/
structure AfePend where
  cfg : AfeCfg
  /-- the command's number in flight -/
  cid : Nat
  /-- TMR_UPTIME from which a hop boundary applies it: acceptance, plus 2.0 ms where a channel is newly enabled -/
  notBefore : Nat
  deriving DecidableEq, Repr

/-- The AFE block. -/
structure Afe where
  /-- AFE_CTRL.HOP | 2 | 05 R134 | 0x1 -/
  hop : Nat
  /-- start of the hop grid: the cold start, or the boundary where the period last changed, in µs of uptime | 64 | 05 R134 | 0 -/
  gridAt : Nat
  /-- uptime of the last hop boundary | 64 | 05 R134 | none -/
  hopAt : Option Nat
  /-- AFE_HOPCNT | 32 | 05 R135 | DESIGN CHOICE 0 (log 2) -/
  hopCnt : Word
  /-- the 16 channels | 16 | 05 R140 | cold-start values -/
  chans : List AfeChan
  /-- the 4 MICBIAS outputs | 4 | 05 R140 | disabled -/
  mic : List MicBias
  /-- AFE_CLIP | 16 | 05 | 0 -/
  clip : BitVec 16
  /-- AFE_CAL.PASS | 16 | 05 R154 | DESIGN CHOICE 0xFFFF, the start's result was PASS (log 2) -/
  calPass : BitVec 16
  /-- AFE_CAL.UNCHECKED | 16 | 05 R154 | DESIGN CHOICE 0, nothing armed (log 2) -/
  unchecked : BitVec 16
  /-- AFE_CTRL.LOOPBACK | 1 | 05 | 0 -/
  loopback : Bool
  /-- AFE_ROUTE_b: the lane that feeds B(b) of T0, b = 0..15 | 16 x 5 | 05 R146 | none -/
  route : List (Option Nat)
  /-- accepted AFE_CONFIG commands awaiting their boundary (AFE_CTRL.PENDING) | - | 05 R142 | none -/
  pend : List AfePend
  deriving DecidableEq, Repr

/-! ### The sentinels (chapter 06) -/

/-- SNT_CHn_RULE and RULE2: the parameters of SENTINEL_ARM. -/
structure SntRule where
  /-- MASK | 16 | 06 R166 | 0 -/
  mask : BitVec 16
  /-- ENTER_TH | 4 | 06 R161 | 0 -/
  enterTh : Nat
  /-- EXIT_TH | 4 | 06 R161 | 0 -/
  exitTh : Nat
  /-- ENTRY_P | 4 | 06 R166 | 0 -/
  entryP : Nat
  /-- EXIT_P | 6 | 06 R166 | 0 -/
  exitP : Nat
  /-- THETA_A | 4 | 06 | 0 -/
  thetaA : Nat
  /-- REPORT | 2 | 06 R171 | 0 -/
  report : Nat
  /-- WAKE_HOST | 1 | 06 R168 | 0 -/
  wakeHost : Bool
  /-- WAKE_DEV | 1 | 06 R168 | 0 -/
  wakeDev : Bool
  deriving DecidableEq, Repr

/-- One sentinel and its wake rule. -/
structure Sentinel where
  /-- SNT_STATE.ARMED | 1 | 06 R177 | 0 -/
  armed : Bool
  /-- sentinel domain powered | 1 | 06 R177 | false -/
  powered : Bool
  /-- SNT_CHn_RULE, RULE2 | 42 | 06 | 0 -/
  rule : SntRule
  /-- SNT_CHn_STAT.STATE, true = ACTIVE | 1 | 06 R166 | 0 QUIET -/
  active : Bool
  /-- SNT_CHn_STAT.COUNT, counter C | 6 | 06 R166 | 0 -/
  count : Nat
  /-- the next evaluated hop is the calibration hop | 1 | 06 R163 | false -/
  calib : Bool
  /-- hidden latches of the last evaluation | 48 x 4 | 06 R160 | 0 -/
  latches : List Nat
  /-- SNT_CHn_STAT.TRIM, quarter-LSB steps | 8 | 06 R164 | 0 -/
  trim : Int
  /-- SNT_CHn_STAT.TRIM_SAT | 1 | 06 R164 | 0 -/
  trimSat : Bool
  /-- consecutive hops with the reference reading on one side, signed by the side | 5 | 06 R164 | 0 -/
  drift : Int
  /-- SNT_CHn_STAT.ENTER_LAST | 16 | 06 | 0 -/
  enterLast : BitVec 16
  /-- reports since arming, modulo 256 | 8 | 06 R172 | 0 -/
  seq : Nat
  /-- SNT_CHn_WAKERPT | 128 | 06 R168 | 0 -/
  wakeRpt : BitVec 128
  deriving DecidableEq, Repr

/-- An accepted SENTINEL_ARM (some rule) or SENTINEL_DISARM (none) that waits for the next boundary (R177). -/
structure SntPend where
  chan : Nat
  rule : Option SntRule
  cid : Nat
  deriving DecidableEq, Repr

/-- The SNT block. -/
structure Snt where
  /-- the 16 sentinels | 16 | 06 R181 | disarmed -/
  s : List Sentinel
  /-- SNT_WAKE.ENTRY | 16 | 06 R168 | 0 -/
  entry : BitVec 16
  /-- SNT_RPT_WR | 16 | 06 R173 | 0 -/
  wr : BitVec 16
  /-- SNT_RPT_RD | 16 | 06 R176 | 0 -/
  rd : BitVec 16
  /-- SNT_RPT_CTRL.IRQ_LEVEL | 7 | 06 R175 | 0x1 -/
  irqLevel : Nat
  /-- SNT_RPT_LOST | 16 | 06 R174 | 0 -/
  lost : Nat
  /-- SNT_RPT, 64 reports of 16 B | 64 x 128 | 06 R173 | 0 -/
  rpt : List (BitVec 128)
  /-- sentinel device interrupt waiting for release or for RUN (Table 6-3) | 1 | 06 R168 | false -/
  irqWait : Bool
  /-- accepted arm and disarm commands awaiting the boundary | - | 06 R177 | none -/
  pend : List SntPend
  deriving DecidableEq, Repr

/-! ### Basins, terraces and the rill (chapters 07 to 09) -/

/-- A byte memory in its one canonical form: addresses strictly rising, no entry equal to 0, which is what an
unlisted address reads as (log 10). -/
abbrev Memory := List Host.Cell

/-- A table by number: an entry not listed is the default its reader names. -/
abbrev Tab (α : Type) := List (Nat × α)

/-- BSN_STATE.WSTATE (R206). -/
inductive WState where
  | erased | programming | valid | dirty | failed
  deriving DecidableEq, Repr

/-- One physical basin: B(b) of T(t) is entry 64t + b; the sentinels are terrace 64, entries 4096 to 4111 (R180). -/
structure Basin where
  /-- BSN_STATE.WSTATE | 3 | 07 R206 | DESIGN CHOICE ERASED (log 3) -/
  wstate : WState
  /-- BSN_PROG.DIRTY_CAUSE, 0 none 1 POWER 2 TARGET | 2 | 16 R397 | DESIGN CHOICE 0 (log 3) -/
  cause : Nat
  /-- BSN_ID.SLOT, none = 0x3F | 6 | 07 R183 | flash; DESIGN CHOICE slot b, none for B62 and B63 (log 3) -/
  slot : Option Nat
  /-- BSN_ID.MAPPED_OUT | 1 | 07 | flash; DESIGN CHOICE 0 (log 3) -/
  mappedOut : Bool
  /-- BSN_TRIM.GAIN | 8 | 07 R192 | DESIGN CHOICE 0 (log 2) -/
  gain : Int
  /-- BSN_TRIM.OFFSET | 8 | 07 R192 | DESIGN CHOICE 0 (log 2) -/
  offset : Int
  /-- BSN_TRIM.TRIM_SAT | 1 | 07 R202 | 0 -/
  trimSat : Bool
  /-- BSN_TRIM.REF_FAULT | 1 | 07 R199 | 0 -/
  refFault : Bool
  /-- rows whose reference cells hold the patterns of Table 7-3, the others being at level 0 | 1,024 | 07 R196 | DESIGN CHOICE none, erased (log 3) -/
  refRows : BitVec 1024
  /-- BSN_TRIM_AT | 32 | 07 | DESIGN CHOICE 0 (log 2) -/
  trimAt : Word
  /-- BSN_REF.READS | 16 | 07 R201 | 0 -/
  reads : Nat
  /-- BSN_REF.TRACKS | 16 | 07 R197 | DESIGN CHOICE 0 (log 2) -/
  tracks : Nat
  /-- group of the next tracking evaluation | 4 | 07 R197 | 0 -/
  trackGroup : Nat
  /-- ride-along compares not yet in a closed window, oldest first: reference column, read above E | 256 x 4 | 07 R201 | none -/
  win : List (Nat × Bool)
  /-- BSN_EVCNT | 32 | 07 | 0 -/
  evCnt : Word
  /-- BSN_SKIP | 32 | 08 R215 | 0 -/
  skip : Word
  /-- BSN_EARLY | 32 | 08 R214 | 0 -/
  early : Word
  /-- BSN_ALLZERO | 32 | 08 R217 | 0 -/
  allZero : Word
  /-- BSN_SROW_m: data row replaced by spare row m | 8 x 11 | 07 R194 | fuse; DESIGN CHOICE none (log 3) -/
  sRow : List (Option Nat)
  /-- BSN_SCOL_j: data column replaced by spare column j | 4 x 10 | 07 R194 | fuse; DESIGN CHOICE none (log 3) -/
  sCol : List (Option Nat)
  /-- BSN_TAG | 64 | 10 R276 | DESIGN CHOICE 0, never programmed (log 3) -/
  tag : DWord
  /-- BSN_WEAR | 32 | 16 R422 | DESIGN CHOICE 0 (log 3) -/
  wear : Nat
  /-- BSN_PROG.TAGS_USED | 3 | 16 R410 | DESIGN CHOICE 0 (log 3) -/
  tagsUsed : Nat
  /-- sentinel marked failed by the last self-test that covered it | 1 | 06 R178 | false -/
  snFailed : Bool
  deriving DecidableEq, Repr

/-- One terrace: moat, counters, errors, cistern banks. -/
structure Terrace where
  /-- TER_STATE.MOAT_LOCAL | 1 | 09 R251 | 0 -/
  moatLocal : Bool
  /-- TER_STATE.MOAT_PORTS, N E S W | 4 | 09 R251 | 0 -/
  moatPorts : BitVec 4
  /-- TER_FIRE | 32 | 09 | 0 -/
  fire : Word
  /-- TER_CREDIT_WAIT | 32 | 09 | 0 -/
  creditWait : Word
  /-- TER_RILL_FLITS_p, p = N E S W local | 5 x 32 | 09 | 0 -/
  flits : List Word
  /-- TER_ERR.CORRECTED | 12 | 09 R253 | 0 -/
  corrected : Nat
  /-- TER_ERR.UNCORR_RILL | 1 | 09 R253 | 0 -/
  uncorrRill : Bool
  /-- TER_ERR.UNCORR_CIS | 1 | 09 R253 | 0 -/
  uncorrCis : Bool
  /-- TER_ERR.BAD_PKT | 1 | 09 R253 | 0 -/
  badPkt : Bool
  /-- TER_ERR.PORT | 3 | 09 | 0 -/
  errPort : Nat
  /-- cistern banks withdrawn by self-test | 16 | 19 R500 | flash; DESIGN CHOICE none (log 3) -/
  withdrawn : BitVec 16
  deriving DecidableEq, Repr

/-! ### Graphs (chapter 10) -/

/-- One placement record of a CGD (Table 10-2). -/
structure Placement where
  layer : Nat
  signedIn : Bool
  feature : Bool
  offIn : Bool
  offOut : Bool
  dev : Nat
  ter : Nat
  gang : Nat
  lane : Nat
  slots : List Nat
  fanin : Nat
  cols : Nat
  colBase : Nat
  group : Nat
  p : Nat
  q : Nat
  scale : Nat
  thetaZ : Nat
  biasRows : Nat
  step : Nat
  inSlot : Nat
  outSlot : Nat
  edgeFirst : Nat
  edgeCount : Nat
  rf : Nat
  laneB : Nat
  wCycles : Nat
  doneRun : Nat
  doneEco : Nat
  tags : List DWord
  deriving DecidableEq, Repr

/-- One slot record (Table 10-3). -/
structure SlotRec where
  dev : Nat
  ter : Nat
  isOut : Bool
  bufs : Nat
  lines : Nat
  bank : Nat
  deriving DecidableEq, Repr

/-- One edge record (Table 10-4). -/
structure EdgeRec where
  src : Nat
  colFirst : Nat
  colCount : Nat
  toPort : Bool
  delay : Bool
  dst : Nat
  halfOff : Nat
  hops : Nat
  allow : Nat
  deriving DecidableEq, Repr

/-- One port record (Table 10-5); kind 0 TENSOR_IN, 1 TENSOR_OUT, 2 intake plane, 3 stream source. -/
structure PortRec where
  kind : Nat
  unit : Nat
  slot : Nat
  bytes : Nat
  deriving DecidableEq, Repr

/-- A CGD: the header figures the device keeps, and the four tables. -/
structure Cgd where
  devices : Nat
  wcRun : Nat
  wcEco : Nat
  energy : Nat
  imageId : Nat
  places : List Placement
  edges : List EdgeRec
  slots : List SlotRec
  ports : List PortRec
  deriving DecidableEq, Repr

/-- One buffer of a slot (R232, R236). -/
structure Buffer where
  /-- half-line written mask -/
  mask : List Bool
  /-- zero map, one bit per 16 bytes -/
  zmap : List Bool
  complete : Bool
  poisoned : Bool
  /-- run sequence number of the data held -/
  runSeq : Nat
  deriving DecidableEq, Repr

/-- One reserved cistern slot of a loaded graph (R230). -/
structure Slot where
  /-- number of the slot within its terrace, 0..1023 -/
  num : Nat
  dev : Nat
  ter : Nat
  isOut : Bool
  bank : Nat
  line0 : Nat
  lines : Nat
  bufs : List Buffer
  deriving DecidableEq, Repr

/-- One scoreboard entry (Table 9-2) of a placement. -/
structure Score where
  nextIn : Nat
  outCredits : Nat
  nextOut : Nat
  runSeq : Nat
  deriving DecidableEq, Repr

/-- Data that a port of a loaded graph holds for one run at the engine port (R267, R381). -/
structure PortData where
  port : Nat
  runSeq : Nat
  bytes : List Byte
  deriving DecidableEq, Repr

/-- One loaded graph: its tables in the terraces and the values stored with it. -/
structure Graph where
  handle : Nat
  /-- the function (0 physical, 1..15 virtual) whose ring loaded it -/
  owner : Nat
  /-- the CGD as loaded, which a snapshot sends (R473) -/
  raw : List Byte
  cgd : Cgd
  /-- physical basins bound to each placement's members, top first (R270) -/
  phys : List (List Nat)
  slots : List Slot
  score : List Score
  /-- edge credits, by edge index, then one for each port record (R238, R249) -/
  credit : List Nat
  /-- stored zero threshold of each placement (R224) -/
  theta : List Nat
  /-- stored exact setting (R224) -/
  exact : Bool
  /-- run sequence number of the next run to start, modulo 2^16 -/
  nextSeq : Nat
  /-- GRAPH_UNLOAD accepted: number of its command in flight -/
  unload : Option Nat
  /-- the class-0 reservation: FRAME_OFFSET_US and FRAME_WINDOW_US (R367) -/
  frame : Option (Nat × Nat)
  /-- the ring that loaded it (Table 14-3) -/
  loadRing : Nat
  /-- on a member: the master's frame reservation keeps the graph's terraces powered (R368) -/
  bound : Bool
  /-- data at the engine port -/
  ports : List PortData
  deriving DecidableEq, Repr

/-- An evaluation in flight (R211): everything it will write, fixed when it fired. -/
structure Eval where
  handle : Nat
  place : Nat
  runSeq : Nat
  outBuf : Nat
  /-- output vector, one byte per column -/
  out : List Byte
  skipped : Nat
  phases : Nat
  early : Bool
  exact : Bool
  cycles : Nat
  deriving DecidableEq, Repr

/-- Engine-port space that a READ_REQ reserved: the buffer and half-line whose READ_DATA will take it, and the requesting
engine-port buffer (R246). -/
structure ReadPlace where
  dev : Nat
  ter : Nat
  slot : Nat
  buf : Nat
  offset : Nat
  dest : Nat
  deriving DecidableEq, Repr

/-- An output buffer written and waiting in its terrace's forwarder, oldest first (R239). -/
structure Forward where
  handle : Nat
  place : Nat
  runSeq : Nat
  buf : Nat
  /-- edge indices whose packet has not been sent -/
  edges : List Nat
  deriving DecidableEq, Repr

/-! ### Camera intake (chapter 11) -/

/-- One CSI-2 port. -/
structure CsiPort where
  /-- CSI_Pn_CFG.EN | 1 | 11 R290 | 0 -/
  en : Bool
  /-- lanes 1, 2 or 4 (CSI_Pn_CFG.LANES) | 2 | 11 R290 | 0 (1 lane) -/
  lanes : Nat
  /-- CSI_Pn_CFG.RATE_MBPS | 12 | 11 R290 | 0 -/
  rate : Nat
  /-- CSI_Pn_STAT.STOP | 4 | 11 | 0 -/
  stop : BitVec 4
  /-- CSI_Pn_STAT.CLK_HS | 1 | 11 | 0 -/
  clkHs : Bool
  /-- CSI_Pn_STAT.DESKEW | 1 | 11 | 0 -/
  deskew : Bool
  /-- CSI_Pn_ECC.CORRECTED | 16 | 11 R293 | 0 -/
  corrected : Nat
  /-- CSI_Pn_ECC.DROPPED | 16 | 11 R293 | 0 -/
  dropped : Nat
  /-- CSI_Pn_CRC.CRC_LINES | 16 | 11 R293 | 0 -/
  crcLines : Nat
  /-- CSI_Pn_CRC.UNSUP_DT | 16 | 11 R293 | 0 -/
  unsup : Nat
  deriving DecidableEq, Repr

/-- One band of INTAKE_CONFIG (R286). -/
structure Band where
  plane : Nat
  port : Nat
  firstRow : Nat
  rows : Nat
  deriving DecidableEq, Repr

/-- The settings of INTAKE_CONFIG. -/
structure IntakeCfg where
  port : Nat
  vc : Nat
  dt : Nat
  x0 : Nat
  y0 : Nat
  w : Nat
  h : Nat
  k : Nat
  planes : Nat
  /-- DAMAGE 0 DROP, 1 REPORT, 2 USE -/
  damage : Nat
  stale : Bool
  maxAge : Nat
  handle : Nat
  bands : List Band
  deriving DecidableEq, Repr

/-- A frame in one part of a unit's frame store (R282). -/
structure CamFrame where
  /-- TMR_UPTIME at Frame Start -/
  fsAt : Nat
  /-- lines received since Frame Start -/
  line : Nat
  /-- cropped source samples, by plane, then line, then sample; missing lines are absent -/
  raw : List (List (List Byte))
  /-- the output planes, formed at Frame End -/
  planes : List (List Byte)
  damaged : Bool
  /-- delivered to some run -/
  sent : Bool
  deriving DecidableEq, Repr

/-- One intake unit. -/
structure Intake where
  /-- settings in force | - | 11 R291 | none -/
  cfg : Option IntakeCfg
  /-- settings that wait for the next Frame Start | - | 11 R291 | none -/
  next : Option IntakeCfg
  /-- frame being received | 16 KiB part | 11 R282 | none -/
  cur : Option CamFrame
  /-- newest complete frame | 16 KiB part | 11 R282 | none -/
  newest : Option CamFrame
  /-- frame being delivered | 16 KiB part | 11 R282 | none -/
  deliver : Option CamFrame
  /-- CSI_Un_FRAMES.COMPLETE | 16 | 11 | 0 -/
  complete : Nat
  /-- CSI_Un_FRAMES.DAMAGED | 16 | 11 R289 | 0 -/
  damaged : Nat
  /-- CSI_Un_DELIV.REPEATED | 16 | 11 R285 | 0 -/
  repeated : Nat
  /-- CSI_Un_DELIV.SUPERSEDED | 16 | 11 R285 | 0 -/
  superseded : Nat
  /-- CSI_Un_ZERO | 16 | 11 R288 | 0 -/
  zero : Nat
  /-- CSI_Un_AGE | 32 | 11 | 0 -/
  age : Word
  /-- CSI_Un_FS | 32 | 11 | 0 -/
  fs : Word
  deriving DecidableEq, Repr

/-! ### The host interface (chapter 12) -/

/-- One HIF_VLOG entry (Table 12-6). -/
structure VlogEntry where
  uptime : Nat
  seq : Nat
  kind : Nat
  action : Nat
  rid : Nat
  func : Nat
  ring : Nat
  hdr : BitVec 128
  deriving DecidableEq, Repr

/-- One MSI-X table entry and its PBA bit. -/
structure Msix where
  addr : DWord
  data : Word
  masked : Bool
  pending : Bool
  deriving DecidableEq, Repr

/-- The HIF block and the PCI functions' state that a command consults. Lists of 16 are by function. -/
structure Hif where
  /-- HIF_LINK.SPEED | 3 | 12 R295 | DESIGN CHOICE 5 (log 2) -/
  speed : Nat
  /-- HIF_LINK.WIDTH | 4 | 12 R295 | DESIGN CHOICE 8 (log 2) -/
  width : Nat
  /-- link trained (L0 or an L1 substate) | 1 | 12 R295 | true -/
  up : Bool
  /-- link in L1 (ASPM) or an L1 substate | 1 | 12 R312 | false -/
  inL1 : Bool
  /-- link in L1.2, LCLK stopped | 1 | 12 R312 | false -/
  inL12 : Bool
  /-- L2/L3 Ready requested after PME_TO_Ack | 1 | 12 R316 | false -/
  l23 : Bool
  /-- link in L1.1 | 1 | 12 Table 12-5 | false -/
  inL11 : Bool
  /-- HIF_LINK_CNT.RECOVERY | 16 | 12 | 0 -/
  recovery : Nat
  /-- HIF_LINK_CNT.L12 | 16 | 12 | 0 -/
  l12 : Nat
  /-- HIF_RBLK_OWNER, 16 blocks | 16 x 4 | 12 R298 | 0 -/
  owner : List Nat
  /-- HIF_VEC_COAL_f.SHIFT | 16 x 3 | 12 R307 | 0 -/
  coal : List Nat
  /-- HIF_DEVVEC_EN | 16 | 12 R308 | 0 -/
  devEn : BitVec 16
  /-- HIF_DEVVEC_STAT | 16 | 12 R308 | 0 -/
  devStat : BitVec 16
  /-- HIF_LTR.FRAME | 10 | 12 | 0x14 -/
  ltrFrame : Nat
  /-- HIF_LTR.RUN | 10 | 12 | 0x64 -/
  ltrRun : Nat
  /-- HIF_LTR.DOZE | 10 | 12 | 0x3E8 -/
  ltrDoze : Nat
  /-- HIF_ASPM.L1_IDLE_US | 10 | 12 R312 | 0x14 -/
  l1Idle : Nat
  /-- HIF_VLOG_STAT.WR | 16 | 12 R321 | 0 -/
  vlogWr : BitVec 16
  /-- HIF_VLOG_RD.RD | 16 | 12 R321 | 0 -/
  vlogRd : BitVec 16
  /-- HIF_VLOG_STAT.LOST | 16 | 12 R321 | 0 -/
  vlogLost : Nat
  /-- HIF_VLOG, entries by position 0..63 | 64 x 256 | 12 R321 | none written -/
  vlog : Tab VlogEntry
  /-- SR-IOV VF Enable | 1 | 12 R298 | PRESUMED 0, the PCI Express default (log 21) -/
  vfEn : Bool
  /-- routing ID of the PF, as captured from configuration writes | 16 | 12 Table 12-6 | PRESUMED 0, none captured (log 21) -/
  rid : BitVec 16
  /-- Memory Space Enable of the PF | 1 | 12 Table 12-7 | PRESUMED 0, the PCI Express default (log 43) -/
  mse : Bool
  /-- VF Memory Space Enable | 1 | 12 Table 12-7 | PRESUMED 0, the PCI Express default (log 43) -/
  vfMse : Bool
  /-- TMR_UPTIME at which the last FLR of each function completes: until then its BARs do not decode | 16 x 64 | 12 R318 | 0 -/
  flrEnd : List Nat
  /-- base addresses in BAR0, BAR2, BAR4, VF BAR0, VF BAR2 | 5 x 64 | 12 R302 | PRESUMED 0, none assigned (log 43) -/
  bars : List DWord
  /-- Subsystem Vendor ID and Subsystem ID | 32 | 12 R297 | flash; DESIGN CHOICE 0 (log 3) -/
  subsys : Word
  /-- Max Payload Size, B | - | 12 R294 | PRESUMED 128, the PCI Express default (log 43) -/
  mps : Nat
  /-- Max Read Request Size, B | - | 12 R294 | PRESUMED 512, the PCI Express default (log 43) -/
  mrrs : Nat
  /-- Relaxed Ordering enabled | 1 | 12 R294 | PRESUMED 1, the PCI Express default (log 43) -/
  relaxed : Bool
  /-- ECRC generation and checking enabled | 2 | 12 R294 | PRESUMED 0, the PCI Express default (log 43) -/
  ecrcGen : Bool
  ecrcCheck : Bool
  /-- completion-timeout range and disable | 4 + 1 | 12 R294 | PRESUMED 0, the default range, enabled (log 43) -/
  toRange : Nat
  toDisable : Bool
  /-- Bus Master Enable by function | 16 | 12 R314 | PRESUMED 0, the PCI Express default (log 21) -/
  bme : List Bool
  /-- PF PowerState is D3hot | 1 | 12 R313 | PRESUMED D0 (log 21) -/
  d3hot : Bool
  /-- PME_Status | 1 | 12 R315 | PRESUMED 0 (log 21) -/
  pmeStatus : Bool
  /-- ASPM L1 enabled in Link Control | 1 | 12 R312 | PRESUMED 0 (log 21) -/
  aspmL1 : Bool
  /-- MSI-X Enable by function | 16 | 12 R309 | PRESUMED 0 (log 21) -/
  msixEn : List Bool
  /-- MSI-X Function Mask by function | 16 | 12 R309 | PRESUMED 0 (log 21) -/
  msixFm : List Bool
  /-- MSI-X table and PBA, function*2048 + entry; unlisted: address 0, data 0, masked, not pending | 1040 + 15x960 | 12 R307 | PRESUMED masked (log 21) -/
  msix : Tab Msix
  deriving DecidableEq, Repr

/-! ### Rings and commands (chapters 13, 14) -/

/-- A LIST_CALL in progress on a ring (R348). -/
structure ListCtx where
  /-- the LIST_CALL's number in flight -/
  cid : Nat
  addr : DWord
  entries : Nat
  /-- the list fetch has been issued -/
  issued : Bool
  /-- the list fetch has returned -/
  fetched : Bool
  /-- packets not yet consumed, 64 bytes each -/
  rest : List (List Byte)
  consumed : Nat
  deriving DecidableEq, Repr

/-- One ring pair: its descriptor and the decoder's places for it. -/
structure Ring where
  /-- RING_SQ_BASE | 64 | 13 R324 | 0 -/
  sqBase : DWord
  /-- RING_CQ_BASE | 64 | 13 R324 | 0 -/
  cqBase : DWord
  /-- RING_CTRL.EN | 1 | 13 R326 | 0 -/
  en : Bool
  /-- RING_CTRL.LOG2SIZE | 4 | 13 R324 | 0 -/
  log2 : Nat
  /-- RING_CTRL.ENGINE | 3 | 13 | 0 -/
  engine : Nat
  /-- RING_CTRL.CLASS | 2 | 13 | 0 -/
  cls : Nat
  /-- RING_CTRL.PRIO | 3 | 13 | 0 -/
  prio : Nat
  /-- RING_CTRL.IRQ_EN | 1 | 13 R357 | 0 -/
  irqEn : Bool
  /-- RING_MOD.COUNT | 8 | 13 R357 | 0 -/
  modCount : Nat
  /-- RING_MOD.TIMER_US | 16 | 13 R357 | 0 -/
  modTimer : Nat
  /-- RING_SQ.HEAD | 16 | 13 R328 | 0 -/
  sqHead : Nat
  /-- RING_SQ.TAIL | 16 | 13 R328 | 0 -/
  sqTail : Nat
  /-- RING_CQ.TAIL | 16 | 13 R331 | 0 -/
  cqTail : Nat
  /-- RING_CQ.HEAD | 16 | 13 R329 | 0 -/
  cqHead : Nat
  /-- RING_STAT.ACTIVE | 1 | 13 R326 | 0 -/
  active : Bool
  /-- RING_STAT.HALTED | 1 | 13 R359 | 0 -/
  halted : Bool
  /-- RING_STAT.PHASE | 1 | 13 R331 | 0 -/
  phase : Bool
  /-- RING_STAT.HALT_CAUSE | 4 | 13 R359 | 0 -/
  haltCause : Nat
  /-- RING_STAT.RESERVED | 16 | 13 R330 | 0 -/
  reserved : Nat
  /-- RING_FAULT_ADDR | 64 | 13 R359 | 0 -/
  faultAddr : DWord
  /-- RING_DONE_CNT | 32 | 13 | 0 -/
  doneCnt : Word
  /-- fetched, unadmitted packets, oldest first | 4 x 64 B | 13 R332 | none -/
  places : List (List Byte)
  /-- entries of the fetch read outstanding | 0..4 | 13 R332 | 0 -/
  fetching : Nat
  /-- lists being run, innermost first (RING_STAT.IN_LIST) | 2 levels | 13 R348 | none -/
  lists : List ListCtx
  /-- records written since the last signal | 8 | 13 R357 | 0 -/
  unsig : Nat
  /-- TMR_UPTIME of the oldest record not yet signalled | 64 | 13 R357 | none -/
  unsigAt : Option Nat
  /-- the model's own: number of the decoder's fetch that last took from this ring, for the turn order | - | 13 R332 | 0 -/
  turn : Nat
  deriving DecidableEq, Repr

/-- An admitted run of a graph: its booking and what it has gathered (R361, R227). -/
structure Run where
  handle : Nat
  runSeq : Nat
  /-- booked start, in ns of uptime -/
  start : Nat
  /-- admitted bound, in ns of uptime -/
  bound : Nat
  /-- the frame index and the end of the window (ns), for a run booked in a window -/
  window : Option (Nat × Nat)
  /-- θz of every placement and the exact setting as stored at admission (R224) -/
  theta : List Nat
  exact : Bool
  /-- staged buffers given to the run, by port: host address, or none (R346, R347) -/
  bufs : List (Nat × Option DWord)
  /-- tensors for its ports, held until the run has begun: source (0 and 1 intake units, 2 the host), port, bytes -/
  feeds : List (Nat × Nat × List Byte)
  /-- the head wake starts no earlier than this, in ns of uptime (R576) -/
  notBefore : Nat
  /-- the head wake has started, and with it the run has its run sequence number (R576) -/
  begun : Bool
  /-- placements of this device that have written their output -/
  doneP : List Nat
  /-- ports whose tensor has been delivered in full -/
  doneT : List Nat
  /-- run lost or poisoned data, or a member: the basin word of its BASIN_FAULT (R253, R460, Table 13-11) -/
  fault : Option Nat
  /-- received a damaged camera frame with REPORT: the unit (R289) -/
  damaged : Option Nat
  /-- first port with no staged buffer (R347), or starved stream port (R428) -/
  underrun : Option Nat
  /-- TENSOR_IN ports whose host read has returned -/
  readPorts : List Nat
  /-- CONTENTION cause if the run ends late (Table 14-3) -/
  lateCause : Nat
  /-- the ring of the command whose fault handling held the graph, with cause 5 (Table 14-3) -/
  faultRing : Option Nat
  /-- the ring of the run whose packet last held a port that a packet of this run waited for (Table 14-3) -/
  behind : Option Nat
  /-- devices of the chain that have reported the end of their part of the run -/
  parts : List Nat
  deriving DecidableEq, Repr

/-- A PROGRAM_ROWS in progress (R406). -/
structure Prog where
  session : Nat
  /-- physical basin, 64t + b -/
  basin : Nat
  ter : Nat
  slot : Nat
  /-- next row to program, and rows left -/
  row : Nat
  left : Nat
  /-- rows of the batch in progress; 0 when none -/
  batch : Nat
  /-- waiting for tank energy since (R415) -/
  waitFrom : Option Nat
  /-- target levels of the rows, by row offset from the first -/
  target : List (List Byte)
  /-- first row and columns of the command's target -/
  row0 : Nat
  tag : DWord
  /-- the command programs the record's last rows (tag written at its end) -/
  full : Bool
  deriving DecidableEq, Repr

/-- What an admitted command still has to do. -/
inductive Body where
  | plain
  | waitFlag (flag : Nat) (val : Bool) (deadline : Nat)
  /-- entries of the list; the entries consumed when a disable or halt cut it (R327) -/
  | listCall (entries : Nat) (cut : Option Nat)
  | graphLoad (addr : DWord) (len : Nat) (bind : Bool) (offset window : Nat)
  | graphUnload (handle : Nat)
  | run (r : Run)
  | afe
  | sentinel
  | csi (port : Nat)
  | imageOpen (addr : DWord) (len : Nat)
  | program (p : Prog)
  | verify (session : Nat) (record : Nat) (basin : Nat) (ter slot : Nat) (same : Bool)
  | erase (basin : Nat) (ter slot : Nat) (started : Bool)
  | recal (basins : List Nat) (ter slot : Nat)
  | bist (scope ter index tests : Nat) (addr : DWord) (bytes : Nat)
  /-- the state to move to, the payload to store, and since when it waits for the tank (R515) -/
  | lifecycle (target : Nat) (payload : List Byte) (waitFrom : Option Nat)
  | mirror (op mode peer : Nat)
  | dataWrite
  | segment
  | shutdown
  deriving DecidableEq, Repr

/-- How a command ends: STATUS, DETAIL, LATENESS, and the CAUSE and holder ring of CONTENTION (R353 to R355). -/
structure End where
  status : Nat
  detail : Nat
  late : Nat
  cause : Nat
  holder : Option Nat
  deriving DecidableEq, Repr

/-- One admitted command that has not ended. -/
structure Cmd where
  /-- its number in flight, unique among commands -/
  cid : Nat
  ring : Nat
  tag : Nat
  opcode : Nat
  irqNow : Bool
  /-- the LIST_CALL it was listed in -/
  parent : Option Nat
  /-- TMR_UPTIME at admission -/
  start : Nat
  /-- DEADLINE in µs for LATENESS; none when it has none -/
  deadline : Option Nat
  evals : Nat
  skipped : Nat
  /-- contribution to the committed-power estimate, mW (R376) -/
  power : Nat
  /-- its DMA writes and record are to be discarded (R314, R318, R359) -/
  detached : Bool
  /-- pairs, each with the number of its records through the command's LAST record (R474) -/
  mir : List (Nat × Nat)
  /-- ended, waiting for the standby's acknowledgement (R474) -/
  held : Option End
  body : Body
  deriving DecidableEq, Repr

/-- A host buffer staged on a port (R345). -/
structure Staged where
  handle : Nat
  port : Nat
  addr : DWord
  deriving DecidableEq, Repr

/-- The sluice: SLC block, frames and waiting commands. -/
structure Sluice where
  /-- SLC_CTRL.SHARE_PCT | 7 | 14 | 0x55 -/
  share : Nat
  /-- SLC_CTRL.XALLOW_NS | 16 | 14 R361 | 0x3E8 -/
  xallow : Nat
  /-- SLC_FRAME_CFG.SRC, 0 NONE 1 FSYNC 2 TIMER | 2 | 14 R363 | 0 -/
  src : Nat
  /-- SLC_FRAME_CFG.PERIOD_US | 16 | 14 R363 | 0x411B -/
  period : Nat
  /-- SRC and PERIOD_US in force since the last frame start | 18 | 14 R363 | 0, 0x411B -/
  curSrc : Nat
  curPeriod : Nat
  /-- FSYNC was selected from NONE: its next edge is accepted whatever its timing | 1 | 14 R363 | false -/
  firstEdge : Bool
  /-- SLC_FRAME_IDX, none before the first frame start | 48 | 14 R365 | 0 -/
  frame : Option Nat
  /-- SLC_FRAME_IDX_HI latch | 16 | 14 R365 | 0 -/
  idxHi : Nat
  /-- TMR_UPTIME at the current frame start (SLC_FRAME_AT) | 64 | 14 | 0 -/
  frameAt : Nat
  /-- SLC_FRAME_MEAS | 24 | 14 | 0 -/
  meas : Nat
  /-- SLC_FSYNC_CNT.EARLY | 16 | 14 R364 | 0 -/
  early : Nat
  /-- SLC_FSYNC_CNT.MISSED | 16 | 14 R364 | 0 -/
  missed : Nat
  /-- TMR_UPTIME of the starts of earlier frames, latest first, as far back as LATENESS can count | - | 14 R369 | none -/
  starts : List Nat
  /-- handles whose fire instant of the current frame has passed | - | 14 R369 | none -/
  fired : List Nat
  /-- handles whose window of the current frame has been released | - | 14 R371 | none -/
  released : List Nat
  /-- SLC_BOOK.PEAK | 13 | 14 | 0 -/
  peak : Nat
  /-- SLC_CNT_A.REF_CAPACITY | 16 | 14 | 0 -/
  refCap : Nat
  /-- SLC_CNT_A.REF_DEADLINE | 16 | 14 | 0 -/
  refDl : Nat
  /-- SLC_CNT_B.REF_POWER | 16 | 14 | 0 -/
  refPow : Nat
  /-- SLC_CNT_B.DONE_LATE | 16 | 14 | 0 -/
  late : Nat
  /-- rings whose head command has reached the sluice and waits, in order of arrival (SLC_WAITING) | - | 14 R373 | none -/
  waiting : List Nat
  deriving DecidableEq, Repr

/-! ### The Weight Engine (chapter 16) -/

/-- One basin record of an opened image (Table 10-8). -/
structure CwiRec where
  ter : Nat
  slot : Nat
  rows : Nat
  cols : Nat
  tag : DWord
  /-- offset of the record in the image -/
  off : Nat
  deriving DecidableEq, Repr

/-- An open session (R402). -/
structure Session where
  num : Nat
  func : Nat
  addr : DWord
  len : Nat
  imageId : Nat
  recs : List CwiRec
  /-- the image's header, authenticated with every record (R274) -/
  hdr : List Byte
  /-- the unwrapped content key, which no access reads out (R402) -/
  key : List Byte
  /-- IMAGE_CLOSE accepted: its command in flight -/
  closing : Option Nat
  deriving DecidableEq, Repr

/-- One journal entry (Table 16-5), with its basin by number; entries are used in ascending order. -/
structure JEntry where
  erase : Bool
  ter : Nat
  slot : Nat
  basin : Nat
  firstRow : Nat
  count : Nat
  /-- rows (or the erase) finished -/
  done : Nat
  /-- bytes 0 to 5 were written whole: CHECK and MARK hold -/
  sound : Bool
  deriving DecidableEq, Repr

/-- The Weight Engine. -/
structure Wpe where
  /-- WPE_STATE.SESSIONS: sessions open | 4 | 16 R402 | none -/
  sessions : List Session
  /-- WPE_STATE.PWR_GOOD | 1 | 16 R399 | 0 -/
  powered : Bool
  /-- WPE_LAST_ROW.ROW | 10 | 16 | 0 -/
  lastRow : Nat
  /-- WPE_LAST_ROW.TER | 7 | 16 | 0 -/
  lastTer : Nat
  /-- WPE_LAST_ROW.SLOT | 6 | 16 | 0 -/
  lastSlot : Nat
  /-- WPE_TANK_C.C_UF | 13 | 16 R413 | DESIGN CHOICE 0 (log 2) -/
  tankUf : Nat
  /-- WPE_TANK_C.CAP_MAX | 1 | 16 R413 | DESIGN CHOICE 0 (log 2) -/
  capMax : Bool
  /-- WPE_TANK_C.ABSENT | 1 | 16 R413 | DESIGN CHOICE 1: no tank measured (log 2) -/
  absent : Bool
  /-- WPE_TANK_V.V_MV | 16 | 16 R414 | DESIGN CHOICE 0 (log 2) -/
  tankMv : Nat
  /-- WPE_TANK_V.ABOVE_MIN, header-tank comparator | 1 | 04 R120 | DESIGN CHOICE 0, its power-up state (log 2) -/
  aboveMin : Bool
  /-- header-tank boost regulator charging | 1 | 04 R120 | true, its power-up state -/
  charging : Bool
  /-- journal strip, entries in use | 512 x 64 | 16 R417 | DESIGN CHOICE empty (log 3) -/
  journal : List JEntry
  /-- WPE_JRNL.ERASES | 22 | 16 R419 | DESIGN CHOICE 0 (log 3) -/
  jrnlErases : Nat
  /-- WPE_CNT.WAITS | 16 | 16 | 0 -/
  waits : Nat
  /-- WPE_CNT.HOLDUP_LOW | 16 | 16 | 0 -/
  holdups : Nat
  /-- WPE_ROWS | 32 | 16 | 0 -/
  rows : Word
  /-- WPE_OPEN_ERR.CHECK | 3 | 16 R400 | 0 -/
  errCheck : Nat
  /-- WPE_OPEN_ERR.OFFSET | 29 | 16 R400 | 0 -/
  errOff : Nat
  /-- WPE_DIRTY, WPE_DIRTY_CNT: basins made DIRTY by this start's scan, terrace and slot; the first 16 are shown | - | 16 R420 | DESIGN CHOICE none (log 2) -/
  dirty : List (Nat × Nat)
  deriving DecidableEq, Repr

/-! ### Streams (chapter 17) -/

/-- One queued segment (R430). -/
structure Segment where
  cid : Nat
  segId : Nat
  /-- SRC 1: from the port -/
  fromPort : Bool
  units : Nat
  addr : DWord
  /-- units output -/
  done : Nat
  /-- zero frames inserted while it was current (R433) -/
  zeros : Nat
  /-- units read ahead by DMA, for SRC 0 (4 KiB at most) -/
  fetched : List (List Byte)
  /-- units of the read outstanding, 0 for none -/
  asked : Nat
  /-- the host read for its next unit failed -/
  readFail : Bool
  deriving DecidableEq, Repr

/-- One output stream. -/
structure Stream where
  /-- STR_STARTED bit | 1 | 17 R426 | 0 -/
  started : Bool
  /-- the function that started it | 4 | 17 R424 | 0 -/
  owner : Nat
  /-- STR_Sn_CFG.KIND | 2 | 17 | 0 -/
  kind : Nat
  /-- STR_Sn_CFG.DEST | 2 | 17 | 0 -/
  dest : Nat
  /-- STR_Sn_CFG.TDM_SLOTS | 8 | 17 | 0 -/
  slots : BitVec 8
  /-- STR_Sn_CFG.PORT | 8 | 17 | 0 -/
  port : Nat
  /-- graph that feeds it, 0 none | 16 | 17 | 0 -/
  handle : Nat
  /-- unit size in bytes | - | 17 R425 | 0 -/
  unitB : Nat
  /-- STR_Sn_KEEP | 13 | 17 R431 | 0x1000 -/
  keep : Nat
  /-- arrival FIFO, oldest unit first | 16 KiB | 17 R427 | empty -/
  fifo : List (List Byte)
  /-- segments queued, the current one first while `cur` | 64 | 17 R430 | none -/
  segs : List Segment
  /-- STR_Sn_CUR.VALID: the head of the queue is current | 1 | 17 R431 | 0 -/
  cur : Bool
  /-- TDM output has begun (R432) | 1 | 17 | false -/
  begun : Bool
  /-- the segment before the current one was SRC 1 and directly precedes it | 1 | 17 R431 | false -/
  afterPort : Bool
  /-- the current segment followed one that ended normally and has output no unit | 1 | 17 R437 | false -/
  succ : Bool
  /-- the jump latched: its command and target | - | 17 R437 | none -/
  jump : Option (Nat × Nat)
  /-- STREAM_STOP latched: its command, 0 for a stop without one (DRY, FLR) | - | 17 R441 | none -/
  stop : Option Nat
  /-- detached by GRAPH_UNLOAD, the cut still to be made at the next boundary | 1 | 17 R429 | false -/
  detach : Bool
  /-- STR_Sn_FIFO.DROP | 16 | 17 R427 | 0 -/
  drop : Nat
  /-- STR_Sn_DISCARD | 32 | 17 R431 | 0 -/
  discard : Word
  /-- STR_Sn_ZEROS | 32 | 17 R434 | 0 -/
  zeros : Word
  /-- STR_Sn_TOTAL | 32 | 17 | 0 -/
  total : Word
  deriving DecidableEq, Repr

/-- The Stream Engine and the TDM port. -/
structure Streams where
  /-- the 32 streams | 32 | 17 | stopped -/
  s : List Stream
  /-- STR_TDM_CFG.CONFIGURED | 1 | 17 R442 | 0 -/
  conf : Bool
  /-- STR_TDM_CFG.MODE, true master | 1 | 17 R442 | 0 -/
  master : Bool
  /-- STR_TDM_CFG.SLOTS | 4 | 17 R442 | 0 -/
  nslots : Nat
  /-- STR_TDM_CFG.LINES | 2 | 17 R442 | 0 -/
  lines : BitVec 2
  /-- STR_TDM_CFG.POL | 2 | 17 R443 | 0 -/
  pol : BitVec 2
  /-- STR_TDM_STAT.LOCKED | 1 | 17 | 0 -/
  locked : Bool
  /-- STR_TDM_STAT.SCK_LOST | 1 | 17 R447 | 0 -/
  sckLost : Bool
  /-- STR_TDM_STAT.RESYNC | 16 | 17 R446 | 0 -/
  resync : Nat
  /-- an FS has set the instant of the next one: false from TDM_CONFIG, and from a missing FS, to the next FS | 1 | 17 R446 | false -/
  fsDue : Bool
  /-- resynchronising: the next frame carries 0 in every slot | 1 | 17 R446 | false -/
  zeroNext : Bool
  /-- the present TDM frame: 32-bit value of each slot address | 8 x 32 | 17 R444 | 0 -/
  frame : List Word
  /-- STR_EVENT | 32 | 17 R427 | 0 -/
  event : Word
  deriving DecidableEq, Repr

/-! ### Cascade and mirroring (chapter 18) -/

/-- CSC_PORTn_STAT.STATE. -/
inductive PortState where
  | off | training | up | retraining | down
  deriving DecidableEq, Repr

/-- One cascade port. -/
structure CascPort where
  /-- CSC_PORTn_STAT.STATE | 3 | 18 R451 | DESIGN CHOICE off, the ports of a SINGLE device (log 2) -/
  state : PortState
  /-- CSC_PORTn_STAT.DEGRADED | 1 | 18 R451 | 0 -/
  degraded : Bool
  /-- CSC_PORTn_STAT.LANES_OK | 4 | 18 R451 | DESIGN CHOICE 0 (log 2) -/
  lanesOk : BitVec 4
  /-- CSC_PORTn_ERR.FRAME_ERR | 16 | 18 R450 | 0 -/
  frameErr : Nat
  /-- CSC_PORTn_ERR.RETRAINS | 16 | 18 R450 | 0 -/
  retrains : Nat
  /-- last frame received in order and intact | 12 | 18 R449 | DESIGN CHOICE 0xFFF: the first frame is 0 (log 23) -/
  rxSeq : Nat
  /-- next frame to send | 12 | 18 R449 | DESIGN CHOICE 0 (log 23) -/
  txSeq : Nat
  /-- last frame acknowledged; the replay buffer holds up to 64 after it | 12 | 18 R450 | DESIGN CHOICE 0xFFF (log 23) -/
  ackSeq : Nat
  /-- consecutive discarded frames | 4 | 18 R450 | 0 -/
  bad : Nat
  /-- consecutive failed trainings | 2 | 18 R451 | 0 -/
  fails : Nat
  /-- credits held per channel, VC0 VC1 VC2 management | 4 x 7 | 18 R452 | 64 32 16 64 -/
  credits : List Nat
  /-- packets in the bridge that wait for credit, oldest first | - | 18 R452 | none -/
  queue : List Packet
  /-- the last of VC0 and VC2 whose packet was sent | 1 | 18 R452 | DESIGN CHOICE 2, so that VC0 is first (log 23) -/
  lastVc : Nat
  /-- frames sent and not acknowledged, oldest first | 64 | 18 R450 | none -/
  replay : List LinkFrame
  /-- flits received of the packet in progress, by channel | 4 | 18 R452 | none -/
  rxPart : List (List (BitVec 256))
  /-- credits to be given back, by channel | 4 | 18 R452 | 0 -/
  owed : List Nat
  deriving DecidableEq, Repr

/-- A chain table entry as the master knows it (Table 18-3). -/
structure Member where
  /-- STATE 0 absent 1 starting 2 serving 3 lost 4 fenced 5 alias -/
  state : Nat
  role : Nat
  /-- device that now serves the number -/
  alias_ : Nat
  links : Nat
  uid : DWord
  fw : Word
  epoch : Word
  /-- last mirror sequence number in its heartbeat -/
  mirSeq : Nat
  deriving DecidableEq, Repr

/-- One mirror record (Table 18-4): its header fields, its payload, and the command it belongs to (R469). -/
structure MirOut where
  seq : Nat
  typ : Nat
  first : Bool
  last : Bool
  ring : Nat
  tag : Nat
  opcode : Nat
  handle : Nat
  runSeq : Nat
  /-- TMR_UPTIME at emission -/
  uptime : Nat
  payload : List Byte
  /-- terrace and slot of a basin it touches -/
  basin : Option (Nat × Nat)
  deriving DecidableEq, Repr

/-- A mirrored pair (MIR_PAIRk). -/
structure Pair where
  /-- MIR_PAIRk.ACTIVE | 3 | 18 R472 | 0 -/
  active : Nat
  /-- MIR_PAIRk.STANDBY | 3 | 18 R472 | 0 -/
  standby : Nat
  /-- MIR_PAIRk.MODE, true asynchronous | 1 | 18 R474 | 0 -/
  async : Bool
  /-- MIR_PAIRk.STATE 0 none 1 pending 2 syncing 3 MIRRORING 4 SUSPENDED 5 FAILED_OVER | 3 | 18 R472 | 0 -/
  state : Nat
  /-- records emitted, last SEQ plus 1 (MIR_PAIRk_SEQ.EMITTED) | 48 | 18 R469 | 0 -/
  emitted : Nat
  /-- records acknowledged, last SEQ acknowledged plus 1 (MIR_PAIRk_SEQ.ACKED) | 48 | 18 R470 | 0 -/
  acked : Nat
  /-- records emitted and not acknowledged, oldest first | 127 | 18 R475 | none -/
  window : List MirOut
  /-- records that wait for space in the window, oldest first | - | 18 R475 | none -/
  queue : List MirOut
  /-- the pair key (R518) | 256 | 20 R518 | none -/
  key : Option (List Byte)
  /-- command of the OP 2 that waits for SNAPSHOT_END's acknowledgement | - | 18 R473 | none -/
  snapCid : Option Nat
  /-- command of the OP 3 that waits for the drain | - | 18 R479 | none -/
  failCid : Option Nat
  deriving DecidableEq, Repr

/-- The CSC/MIR block. -/
structure Casc where
  /-- CSC_CHAIN.DEVICE | 3 | 18 R454 | DESIGN CHOICE 0 (log 2) -/
  device : Nat
  /-- the device has a number | 1 | 18 R454 | true -/
  numbered : Bool
  /-- CSC_CHAIN.LENGTH | 4 | 18 R454 | DESIGN CHOICE 1 (log 2) -/
  length : Nat
  /-- CSC_CHAIN.FENCED | 1 | 18 R480 | 0 -/
  fenced : Bool
  /-- the second number a standby accepts after failover | 3 | 18 R478 | none -/
  alsoNum : Option Nat
  /-- UP port | - | 18 | off -/
  portUp : CascPort
  /-- DOWN port | - | 18 | off -/
  portDn : CascPort
  /-- CSC_ROUTE.DIR by device number: 0 local 1 UP 2 DOWN 3 none | 8 x 2 | 18 R456 | 0 -/
  route : List Nat
  /-- CSC_ERR.NOROUTE | 16 | 18 R466 | 0 -/
  noRoute : Nat
  /-- CSC_ERR.MGMT_BAD | 16 | 18 R483 | 0 -/
  mgmtBad : Nat
  /-- CSC_RCTL | 29 | 18 R463 | 0 -/
  rctl : Word
  /-- CSC_RCTL.GO reads 1: the access latched when it started (control word, data) | - | 18 R463 | none -/
  rgo : Option (Word × Word)
  /-- CSC_RDATA | 32 | 18 R463 | 0 -/
  rdata : Word
  /-- CSC_RSTAT.RESULT | 2 | 18 R463 | 0 -/
  rres : Nat
  /-- chain table, by device number 0..7 (master) | 8 | 18 R457 | absent but for the device itself -/
  chain : List Member
  /-- MIR_CTRL.SYNC_ALLOW_NS | 16 | 18 R474 | 0x2710 -/
  syncAllow : Nat
  /-- MIR_CTRL.WINDOW | 7 | 18 R475 | 0x40 -/
  window : Nat
  /-- the pending active device of OP 1, with its mode | - | 18 R472 | none -/
  pendAct : Option (Nat × Bool)
  /-- MIR_PAIR0..2 | 3 | 18 R467 | none -/
  pairs : List Pair
  /-- MIR_REPORT_STAT.VALID | 1 | 18 R482 | 0 -/
  repValid : Bool
  /-- MIR_REPORT | 4 KiB | 18 R482 | 0 -/
  report : List Byte
  /-- on a standby: last SEQ applied, by pair index | 3 x 48 | 18 R470 | none -/
  applied : List (Option Nat)
  /-- on a standby: shadows it holds, by handle | - | 18 R471 | none -/
  shadows : List Graph
  /-- on a standby: CGD bytes of the GRAPH_LOAD record being gathered | - | 18 Table 18-5 | none -/
  gather : List Byte
  /-- on a standby: basins whose mirrored cell operation is incomplete | - | 18 R478 | none -/
  openCells : List Nat
  /-- on a standby: slot numbers, banks and lines the master gave a mirrored graph, by handle (log 23) | - | 18 R471 | none -/
  numbering : Tab (List (Nat × Nat × Nat))
  /-- the same: handles of such graphs that a frame reservation holds | - | 18 R480, 14 R368 | none -/
  boundShadows : List Nat
  deriving DecidableEq, Repr

/-! ### Self-test, logs and the dry-down record (chapters 04, 19) -/

/-- One failure record as kept in flash (Table 19-4). -/
structure FailRec where
  uptime : Nat
  seq : Nat
  kind : Nat
  finding : Finding
  device : Nat
  outcome : Nat
  deriving DecidableEq, Repr

/-- One device log entry (Table 19-9). -/
structure LogEntry where
  uptime : Nat
  seq : Nat
  source : Nat
  event : Nat
  arg0 : Word
  arg1 : DWord
  deriving DecidableEq, Repr

/-- The copy of the map-out table that a self-test has not rewritten yet, with the marks that go with it (R501). -/
structure MapSave where
  basins : Tab Basin
  withdrawn : List (BitVec 16)
  ctlFailed : BitVec 64
  spareBad : List (Nat × Nat)
  gen : Word
  deriving DecidableEq, Repr

/-- The dry-down record in flash (Table 19-8); `torn` says that its CRC does not hold. -/
structure DryRecord where
  /-- STATE 0xFF valid, 0x0F invalidated, 0x00 consumed -/
  state : Nat
  holdup : Bool
  epoch : Word
  fw : Word
  uptime : Nat
  anchor : DWord
  anchorAt : Nat
  anchorValid : Bool
  mapGen : Word
  mapCrc : Word
  fails : Nat
  mappedOut : Nat
  torn : Bool
  deriving DecidableEq, Repr

/-- Steps of an ordered shutdown (Table 4-4): waiting for started commands, self-test, commit, DRYDONE. -/
inductive DryPhase where
  | drain | selfTest | committed | done
  deriving DecidableEq, Repr

/-- The BIST block and what self-test keeps. -/
structure Bist where
  /-- uptime, in ms, at which a self-test last derived the trims of every basin: AT_MS of those no table entry changes | 32 | 04 R116 | DESIGN CHOICE 0 (log 2) -/
  trimAt : Word
  /-- BIST_STAT.LAST_KIND | 3 | 19 | DESIGN CHOICE 2 full (log 2) -/
  lastKind : Nat
  /-- BIST_STAT.INVALIDATE_PENDING | 1 | 19 R507 | 0 -/
  invPending : Bool
  /-- BIST_STAT.FAILS | 16 | 19 | DESIGN CHOICE 0 (log 2) -/
  fails : Nat
  /-- BIST_FLOG.NEXT_SEQ | 32 | 19 R498 | flash; DESIGN CHOICE 0 (log 3) -/
  flogNext : Nat
  /-- failure log, oldest first | 256 x 32 B | 19 R498 | flash; DESIGN CHOICE empty (log 3) -/
  flog : List FailRec
  /-- BIST_DLOG.NEXT_SEQ, full count since the cold start | 32 | 19 R508 | DESIGN CHOICE 0 (log 2) -/
  dlogNext : Nat
  /-- BIST_DLOG.LOST | 16 | 19 R508 | DESIGN CHOICE 0 (log 2) -/
  dlogLost : Nat
  /-- device log, oldest first | 1024 x 32 B | 19 R508 | DESIGN CHOICE empty (log 2) -/
  dlog : List LogEntry
  /-- BIST_MAP.GEN | 32 | 19 R501 | flash; DESIGN CHOICE 0 (log 3) -/
  mapGen : Word
  /-- terraces whose control failed | 64 | 19 R499 | flash; DESIGN CHOICE none (log 3) -/
  ctlFailed : BitVec 64
  /-- BIST_AFE.AFE_FAILED | 16 | 19 R499 | DESIGN CHOICE 0 (log 2) -/
  afeFailed : BitVec 16
  /-- BIST_SUPPLY: rails [5:0], PUMP_LOW, PUMP_HIGH | 8 | 19 R494 | DESIGN CHOICE 0 (log 2) -/
  supply : BitVec 8
  /-- during the self-test of a start or a dry-down, the map-out table that stands until it ends | - | 19 R501 | none -/
  mapOld : Option MapSave
  /-- spare rows and columns withdrawn from hard repair: basin, element (rows 0..7, columns 8..11) | - | 19 R490 | flash; DESIGN CHOICE none (log 3) -/
  spareBad : List (Nat × Nat)
  /-- dry-down record in flash | 128 B | 19 R506 | flash; DESIGN CHOICE none (log 3) -/
  record : Option DryRecord
  /-- the ordered shutdown in progress | - | 04 R121 | none -/
  dry : Option DryPhase
  /-- the command of the SHUTDOWN that is in progress | - | 04 R124 | none -/
  dryCid : Option Nat
  /-- failures of the dry-down in progress | 16 | 19 R506 | 0 -/
  dryFails : Nat
  deriving DecidableEq, Repr

/-! ### Life-cycle and keys (chapter 20) -/

/-- Life-cycle states, codes 0 to 4 (R511). -/
inductive LcState where
  | manufacture | provisioned | deployed | service | retired
  deriving DecidableEq, Repr

/-- A key slot: its identifier and the bytes it was installed from; no access reads it out (R517). -/
structure KeySlot where
  id : Word
  blob : List Byte
  deriving DecidableEq, Repr

/-- The LCS block: fuses and key store. -/
structure Lcs where
  /-- transition fuses one copy of which alone reads burnt, which does not count: 0 provisioning, 1 deployment, 2 retirement, 3 to 34 service entry, 35 to 66 service exit | 67 | 20 R509 | fuse; DESIGN CHOICE none (log 3) -/
  fuseOne : List Nat
  /-- provisioning fuse, two copies at least | 1 | 20 R509 | fuse; DESIGN CHOICE unburnt (log 3) -/
  fProv : Bool
  /-- deployment fuse | 1 | 20 R509 | fuse; DESIGN CHOICE unburnt (log 3) -/
  fDepl : Bool
  /-- retirement fuse | 1 | 20 R509 | fuse; DESIGN CHOICE unburnt (log 3) -/
  fRet : Bool
  /-- service-entry fuses burnt | 32 | 20 R509 | fuse; DESIGN CHOICE 0 (log 3) -/
  svcIn : Nat
  /-- service-exit fuses burnt | 32 | 20 R509 | fuse; DESIGN CHOICE 0 (log 3) -/
  svcOut : Nat
  /-- LCS_STATE.ACTIVE, the state in force | 3 | 20 R512 | fuse; MANUFACTURE by R509 from the choice above (log 3) -/
  active : LcState
  /-- debug TAP instructions, BIST_RUN and hard repair closed by leaving SERVICE | 1 | 20 R512 | false -/
  closed : Bool
  /-- DEV_UID | 64 | 20 | fuse; DESIGN CHOICE 0 (log 3) -/
  uid : DWord
  /-- wrapping keys 1..4 | 4 | 20 R517 | fuse; DESIGN CHOICE empty (log 3) -/
  wrap : List (Option KeySlot)
  /-- signer keys 1..4 | 4 | 20 R517 | fuse; DESIGN CHOICE empty (log 3) -/
  sign : List (Option KeySlot)
  /-- LC1 public key | 49 B | 20 R517 | fuse; DESIGN CHOICE empty (log 3) -/
  lc1 : Option (List Byte)
  /-- identity public key (LCS_IDPUB), present with the key pair | 49 B | 20 R517 | fuse; DESIGN CHOICE empty (log 3) -/
  idPub : Option (List Byte)
  /-- identity certificate | 96 B | 20 R517 | fuse; DESIGN CHOICE empty (log 3) -/
  cert : Option (List Byte)
  /-- LCS_KEYS.TEST_KEYS | 1 | 20 R517 | fuse; DESIGN CHOICE present (log 3) -/
  testKeys : Bool
  /-- transport key present | 1 | 20 R517 | fuse; DESIGN CHOICE present (log 3) -/
  transport : Bool
  /-- LCS_KEYS.DESTROYED | 1 | 20 R524 | fuse; DESIGN CHOICE 0 (log 3) -/
  destroyed : Bool
  /-- LCS_LAST.STATUS | 8 | 20 R514 | 0 -/
  lastStatus : Nat
  /-- LCS_LAST.CHECK | 3 | 20 R514 | 0 -/
  lastCheck : Nat
  /-- LCS_RETIRE.NEXT as saved in flash | 13 | 20 R525 | flash; DESIGN CHOICE 0 (log 3) -/
  retireNext : Nat
  /-- next index of the erasure in progress | 13 | 20 R525 | 0 -/
  retireAt : Nat
  /-- LCS_RETIRE.RUNNING | 1 | 20 R525 | 0 -/
  retiring : Bool
  /-- the retirement command in flight, if this session's | - | 20 R524 | none -/
  retireCid : Option Nat
  deriving DecidableEq, Repr

/-! ### SYS block, SMBus and TAP (chapters 20, 21) -/

/-- SYS registers, the SMBus target's state and the TAP. -/
structure Sys where
  /-- SYS_LOCK.LOCK | 1 | 21 R538 | 0 -/
  lock : Bool
  /-- SYS_SCRATCH | 32 | 21 | 0 -/
  scratch : Word
  /-- SYS_FW | 32 | 21 | DESIGN CHOICE 0 (log 2) -/
  fw : Word
  /-- SYS_REV.SILICON | 4 | 21 | fuse; DESIGN CHOICE 0 (log 3) -/
  rev : BitVec 4
  /-- manufacturer identity of IDCODE | 11 | 20 R522 | fuse; DESIGN CHOICE 0 (log 3) -/
  mfr : BitVec 11
  /-- SYS_SMB.ADDR | 7 | 21 R540 | flash; DESIGN CHOICE 0 (log 3) -/
  smbAddr : BitVec 7
  /-- SYS_SMB.LAST | 4 | 21 R543 | DESIGN CHOICE 0 (log 2) -/
  smbLast : Nat
  /-- SYS_SMB.ERRORS | 16 | 21 R543 | DESIGN CHOICE 0 (log 2) -/
  smbErrors : Nat
  /-- the SMBus target's own TMR_UPTIME_HI latch | 32 | 21 R541 | DESIGN CHOICE 0 (log 2) -/
  smbHi : Word
  /-- a main power-up has happened since the cold start | 1 | 21 R540 | true -/
  mainUp : Bool
  /-- TAP instruction register | 8 | 20 R522 | IDCODE 0x02, the instruction of Test-Logic-Reset -/
  tapIr : BitVec 8
  /-- boundary register | - | 20 R523 | DESIGN CHOICE empty (log 2) -/
  boundary : List Bool
  /-- HK0 and HK1 halted by HK_DEBUG | 2 | 20 R522 | 0 -/
  hkHalt : BitVec 2
  /-- TEST_MODE instruction in force | 1 | 20 R522 | false -/
  testMode : Bool
  /-- production test modes entered by TEST_EN at this start | 1 | 02 R54, R56 | false -/
  testStrap : Bool
  deriving DecidableEq, Repr

/-! ### What leaves the block -/

/-- A message over link management (R452 to R463, R469). -/
inductive LinkMsg where
  | enumerate (n : Nat)
  | enumReply (n : Nat) (uid : DWord) (strap : Nat)
  | heartbeat (dev : Nat) (st : DevState) (mirSeq : Nat)
  | released (dev : Nat) (uid : DWord) (fw epoch : Word)
  | route (dev : Nat) (tab : List Nat) (alsoNum : Option Nat)
  | dry
  | remote (dev offset : Nat) (write : Option Word)
  | remoteReply (result : Nat) (data : Word)
  | mirror (bytes : List Byte)
  | mirrorAck (pair seq : Nat)
  | mirrorResend (pair seq : Nat)
  | frame (f : LinkFrame)
  | work (dev ring tag opcode : Nat) (w : Work)
  deriving DecidableEq, Repr

/-- One thing the block sends or drives (log 6). -/
inductive Emit where
  /-- completion record written at a host address for a function -/
  | record (ring func : Nat) (addr : DWord) (bytes : List Byte)
  /-- DMA write -/
  | dma (func : Nat) (addr : DWord) (bytes : List Byte)
  /-- DMA write that carries the Relaxed Ordering attribute (R294) -/
  | dmaRelaxed (func : Nat) (addr : DWord) (bytes : List Byte)
  /-- DMA read request -/
  | read (func : Nat) (addr : DWord) (len : Nat)
  /-- MSI-X write of an entry -/
  | msi (func entry : Nat)
  | pme
  | pmeToAck
  | l23Request
  | l1Request
  /-- LTR message, its value and scale for snoop and no-snoop alike -/
  | ltr (value scale : Nat)
  | cfgRetry
  | cfgDone
  /-- request answered with UR, CA; AER error reported, by KIND of Table 12-7 -/
  | ur
  | ca
  | aer (kind : Nat)
  /-- read data returned -/
  | data (bytes : List Byte)
  /-- what a load or a flag read of an HK core returns -/
  | hk (core : Nat) (bytes : List Byte)
  | link (up : Bool) (m : LinkMsg)
  /-- one TDM frame, by slot address -/
  | tdm (slots : List Word)
  | smb (bytes : List Byte)
  | smbNack
  | tap (bits : List Bool)
  deriving DecidableEq, Repr

/-- A posted write that waits for flow-control credit, with the edge credit its issue returns (R381, R386). -/
structure Posted where
  e : Emit
  /-- graph handle and edge index -/
  credit : Option (Nat × Nat)
  /-- the command it belongs to, and that command's ring -/
  src : Option (Nat × Nat)
  deriving DecidableEq, Repr

/-! ### Outcomes and the whole state -/

/-- Faults of a step. -/
inductive Fault where
  /-- Raised by a meaning whose operands are no event the block can see (Instr.wf fails): too few band levels, a
  packet that is not 64 bytes. Safe: the model stops where no hardware event corresponds. -/
  | illFormed
  deriving DecidableEq, Repr

/-- Refusals of a step. -/
inductive Refusal where
  /-- Raised by an arm of exec whose command has no meaning yet. Safe: nothing is claimed of it. -/
  | notModelled (mnemonic : String)
  deriving DecidableEq, Repr

/-- The whole block. -/
structure State where
  /-- the model's own: commands waiting, first in, first out | - | log 1 | empty -/
  pending : List Instr
  /-- PWR/CLK block | - | 03 | see Power -/
  pwr : Power
  /-- straps and pins | - | 02 | see Pins -/
  pins : Pins
  /-- TMR block | - | 04 | see Time -/
  tmr : Time
  /-- AFE block | - | 05 | see Afe -/
  afe : Afe
  /-- SNT block | - | 06 | see Snt -/
  snt : Snt
  /-- basins by number, unlisted: Basin.initial | 4112 | 07 R183 | none listed -/
  basins : Tab Basin
  /-- terraces T0..T63 | 64 | 09 | see Terrace -/
  ters : List Terrace
  /-- cisterns, 64 x 1 MiB, address t*0x100000 + 64a + j | 64 MiB | 09 R228 | DESIGN CHOICE 0 (log 10) -/
  cistern : Memory
  /-- weight levels, address ((64t + b)*1024 + row)*512 + column, two's complement | 4112 basins | 07 R184 | DESIGN CHOICE 0, erased (log 3) -/
  weights : Memory
  /-- loaded graphs | 255 | 10 R269 | none -/
  graphs : List Graph
  /-- evaluations in flight | 3968 | 08 R211 | none -/
  evals : List Eval
  /-- output buffers waiting in the forwarders, oldest first | - | 09 R239 | none -/
  fwds : List Forward
  /-- packets in transit on the rill | - | 09 R243 | none -/
  rill : List Packet
  /-- round robin at each output port, terrace*5 + port: the channel of VC0 and VC2 last served; unlisted VC2 | 320 | 09 R245 | DESIGN CHOICE VC2, so that VC0 is first (log 45) -/
  rillVc : Tab Nat
  /-- round robin at each output port and channel, (terrace*5 + port)*3 + VC: the input port last served; unlisted local | 960 | 09 R245 | DESIGN CHOICE local, so that north is first (log 45) -/
  rillIn : Tab Nat
  /-- CSI-2 ports | 2 | 11 | see CsiPort -/
  csi : List CsiPort
  /-- intake units | 2 | 11 | see Intake -/
  intake : List Intake
  /-- HIF block | - | 12 | see Hif -/
  hif : Hif
  /-- ring pairs by global number, unlisted: Ring.initial | 1024 | 13 R323 | none listed -/
  rings : Tab Ring
  /-- commands admitted and not ended | - | 13 R333 | none -/
  cmds : List Cmd
  /-- host buffers staged on ports, oldest first | 16 per port | 13 R345 | none -/
  staged : List Staged
  /-- SLC block | - | 14 | see Sluice -/
  slc : Sluice
  /-- Weight Engine | - | 16 | see Wpe -/
  wpe : Wpe
  /-- Stream Engine | - | 17 | see Streams -/
  str : Streams
  /-- CSC/MIR block | - | 18 | see Casc -/
  casc : Casc
  /-- BIST block, logs, dry-down | - | 19 | see Bist -/
  bist : Bist
  /-- LCS block | - | 20 | see Lcs -/
  lcs : Lcs
  /-- SYS block, SMBus, TAP | - | 21 | see Sys -/
  sys : Sys
  /-- KFLAG, the 256 hardware flags | 256 | 15 R388 | 0 -/
  flags : BitVec 256
  /-- KMBX mailbox SRAM | 64 KiB | 15 | 0 -/
  kmbx : Memory
  /-- mailbox stores of HK0 and HK1 that are not visible to the other agents yet, oldest first: address, bytes | 2 | 15 R392 | none -/
  hkStores : List (List (Nat × List Byte))
  /-- MAINT_RD outstanding at the engine port | 5 | 15 R382 | 0 -/
  maintOut : Nat
  /-- MAINT_RD that wait at the engine port for response space, oldest first | - | 15 R382 | none -/
  maintQ : List Packet
  /-- engine-port space reserved by READ_REQ | - | 09 R246, 15 R382 | none -/
  readSpace : List ReadPlace
  /-- posted flow-control credits in hand, none = not limited | - | 15 R386 | DESIGN CHOICE not limited (log 19) -/
  fc : Option Nat
  /-- posted writes that wait for credit, oldest first | - | 15 R386 | none -/
  postQ : List Posted
  /-- data reads of commands that wait until their function may master: function, address, length | - | 12 R314 | none -/
  readQ : List (Nat × DWord × Nat)
  /-- the model's own: commands whose dropped results have their log entry | - | 12 R314 | none -/
  dropped : List Nat
  /-- the model's own: number of the next admitted command | - | log 5 | 1 -/
  nextCid : Nat
  /-- the model's own: fetch reads issued so far, for the turn order | - | 13 R332 | 0 -/
  fetches : Nat
  /-- the model's own: counter of free values drawn | - | log 9 | DESIGN CHOICE 0 -/
  free : Nat
  /-- the model's own: everything the block has sent or driven, newest first | - | log 6 | empty -/
  out : List Emit
  deriving DecidableEq, Repr

/-! ### Reset: first release to the host after a cold start (R18) -/

/-- A basin as an erased device carries it: slot b on B(b), B62 and B63 spare (R183); a sentinel holds its own number. -/
def Basin.initial (n : Nat) : Basin :=
  { wstate := .erased, cause := 0
    slot := if n < 4096 then (if n % 64 < 62 then some (n % 64) else none) else some (n - 4096)
    mappedOut := false, gain := 0, offset := 0, trimSat := false, refFault := false, refRows := 0, trimAt := 0
    reads := 0, tracks := 0, trackGroup := 0, win := []
    evCnt := 0, skip := 0, early := 0, allZero := 0
    sRow := List.replicate 8 none, sCol := List.replicate 4 none, tag := 0, wear := 0, tagsUsed := 0
    snFailed := false }

/-- A ring descriptor at release: every field 0. -/
def Ring.initial : Ring :=
  { sqBase := 0, cqBase := 0, en := false, log2 := 0, engine := 0, cls := 0, prio := 0, irqEn := false
    modCount := 0, modTimer := 0, sqHead := 0, sqTail := 0, cqTail := 0, cqHead := 0, active := false
    halted := false, phase := false, haltCause := 0, reserved := 0, faultAddr := 0, doneCnt := 0
    places := [], fetching := 0, lists := [], unsig := 0, unsigAt := none, turn := 0 }

/-- An MSI-X entry nothing has written: masked (log 21). -/
def Msix.initial : Msix := { addr := 0, data := 0, masked := true, pending := false }

/-- A terrace at release. -/
def Terrace.initial : Terrace :=
  { moatLocal := false, moatPorts := 0, fire := 0, creditWait := 0, flits := List.replicate 5 0
    corrected := 0, uncorrRill := false, uncorrCis := false, badPkt := false, errPort := 0, withdrawn := 0 }

/-- AFE trims that no loop-back has written (log 3). -/
def AfeTrim.initial : AfeTrim := { gain := 0, rect := 0, logOff := 0, logSlope := 0, gm := List.replicate 40 0 }

/-- An AFE channel after a cold start (R140). -/
def AfeChan.initial : AfeChan :=
  { en := false, gain := 0, tau := 2, powered := false, settle := 0, firstValid := false, clipCnt := 0
    clipNow := false, level := List.replicate 40 0, rejoin := false, trim := AfeTrim.initial, flash := AfeTrim.initial
    prevLog := List.replicate 40 0, feat := List.replicate 82 0
    lane := List.replicate 82 0, switchWait := false }

/-- AFE after a cold start (R140): every channel and MICBIAS disabled, HOP 1. -/
def Afe.initial : Afe :=
  { hop := 1, gridAt := 0, hopAt := none, hopCnt := 0, chans := List.replicate 16 AfeChan.initial
    mic := List.replicate 4 { en := false, vsel := 0, ilim := false }
    clip := 0, calPass := 0xFFFF, unchecked := 0, loopback := false
    route := List.replicate 16 none, pend := [] }

/-- A sentinel after a cold start (R181). -/
def Sentinel.initial : Sentinel :=
  { armed := false, powered := false
    rule := { mask := 0, enterTh := 0, exitTh := 0, entryP := 0, exitP := 0, thetaA := 0, report := 0,
              wakeHost := false, wakeDev := false }
    active := false, count := 0, calib := false, latches := List.replicate 48 0, trim := 0, trimSat := false, drift := 0, enterLast := 0
    seq := 0, wakeRpt := 0 }

/-- SNT after a cold start (R181). -/
def Snt.initial : Snt :=
  { s := List.replicate 16 Sentinel.initial, entry := 0, wr := 0, rd := 0, irqLevel := 1, lost := 0
    rpt := List.replicate 64 0, irqWait := false, pend := [] }

/-- A CSI-2 port at release. -/
def CsiPort.initial : CsiPort :=
  { en := false, lanes := 1, rate := 0, stop := 0, clkHs := false, deskew := false, corrected := 0
    dropped := 0, crcLines := 0, unsup := 0 }

/-- An intake unit at release. -/
def Intake.initial : Intake :=
  { cfg := none, next := none, cur := none, newest := none, deliver := none, complete := 0, damaged := 0
    repeated := 0, superseded := 0, zero := 0, age := 0, fs := 0 }

/-- A stream that was never started; KEEP holds its reset value. -/
def Stream.initial : Stream :=
  { started := false, owner := 0, kind := 0, dest := 0, slots := 0, port := 0, handle := 0, unitB := 0
    keep := 0x1000, fifo := [], segs := [], cur := false, begun := false, afterPort := false, succ := false, jump := none
    stop := none, detach := false, drop := 0, discard := 0, zeros := 0, total := 0 }

/-- The Stream Engine at release. -/
def Streams.initial : Streams :=
  { s := List.replicate 32 Stream.initial, conf := false, master := false, nslots := 0, lines := 0, pol := 0
    locked := false, sckLost := false, resync := 0, fsDue := false, zeroNext := false, frame := List.replicate 8 0, event := 0 }

/-- A cascade port that is not powered. -/
def CascPort.initial : CascPort :=
  { state := .off, degraded := false, lanesOk := 0, frameErr := 0, retrains := 0, rxSeq := 0xFFF, txSeq := 0
    ackSeq := 0xFFF, bad := 0, fails := 0, credits := [64, 32, 16, 64], queue := []
    lastVc := 2, replay := [], rxPart := List.replicate 4 [], owed := List.replicate 4 0 }

/-- The chain table entry of a number the chain does not hold. -/
def Member.absent (n : Nat) : Member :=
  { state := 0, role := 0, alias_ := n, links := 0, uid := 0, fw := 0, epoch := 0, mirSeq := 0 }

/-- A pair that does not exist. -/
def Pair.initial : Pair :=
  { active := 0, standby := 0, async := false, state := 0, emitted := 0, acked := 0, window := [], queue := [], key := none
    snapCid := none, failCid := none }

/-- CSC/MIR of a SINGLE device at release. -/
def Casc.initial : Casc :=
  { device := 0, numbered := true, length := 1, fenced := false, alsoNum := none
    portUp := CascPort.initial, portDn := CascPort.initial, route := List.replicate 8 0
    noRoute := 0, mgmtBad := 0, rctl := 0, rgo := none, rdata := 0, rres := 0
    chain := { Member.absent 0 with state := 2 } :: ((List.range 7).map (fun n => Member.absent (n + 1)))
    syncAllow := 0x2710, window := 0x40, pendAct := none, pairs := List.replicate 3 Pair.initial
    repValid := false, report := [], applied := [none, none, none], shadows := [], gather := [], openCells := []
    numbering := [], boundShadows := [] }

/-- HIF at release. -/
def Hif.initial : Hif :=
  { speed := 5, width := 8, up := true, inL1 := false, inL12 := false, inL11 := false, l23 := false, recovery := 0, l12 := 0
    owner := List.replicate 16 0, coal := List.replicate 16 0, devEn := 0, devStat := 0
    ltrFrame := 0x14, ltrRun := 0x64, ltrDoze := 0x3E8, l1Idle := 0x14
    vlogWr := 0, vlogRd := 0, vlogLost := 0, vlog := [], vfEn := false, rid := 0, mse := false, vfMse := false
    flrEnd := List.replicate 16 0, bars := List.replicate 5 0, subsys := 0, mps := 128, mrrs := 512, relaxed := true
    ecrcGen := false, ecrcCheck := false, toRange := 0, toDisable := false, bme := List.replicate 16 false
    d3hot := false, pmeStatus := false, aspmL1 := false, msixEn := List.replicate 16 false
    msixFm := List.replicate 16 false, msix := [] }

/-- SLC at release. -/
def Sluice.initial : Sluice :=
  { share := 0x55, xallow := 0x3E8, src := 0, period := 0x411B, curSrc := 0, curPeriod := 0x411B, firstEdge := false
    frame := none, idxHi := 0, frameAt := 0, meas := 0, early := 0, missed := 0, starts := [], fired := [], released := []
    peak := 0, refCap := 0, refDl := 0, refPow := 0, late := 0, waiting := [] }

/-- WPE at release. -/
def Wpe.initial : Wpe :=
  { sessions := [], powered := false, lastRow := 0, lastTer := 0, lastSlot := 0, tankUf := 0, capMax := false
    absent := true, tankMv := 0, aboveMin := false, charging := true, journal := [], jrnlErases := 0
    waits := 0, holdups := 0, rows := 0, errCheck := 0, errOff := 0, dirty := [] }

/-- BIST at release. -/
def Bist.initial : Bist :=
  { trimAt := 0, lastKind := 2, invPending := false, fails := 0, flogNext := 0, flog := [], dlogNext := 0, dlogLost := 0
    dlog := [], mapGen := 0, ctlFailed := 0, afeFailed := 0, supply := 0, mapOld := none, spareBad := [], record := none
    dry := none, dryCid := none, dryFails := 0 }

/-- LCS with no fuse burnt: MANUFACTURE by R509, the test and transport keys present (Table 20-5). -/
def Lcs.initial : Lcs :=
  { fuseOne := [], fProv := false, fDepl := false, fRet := false, svcIn := 0, svcOut := 0, active := .manufacture
    closed := false, uid := 0, wrap := List.replicate 4 none, sign := List.replicate 4 none, lc1 := none
    idPub := none, cert := none, testKeys := true, transport := true, destroyed := false, lastStatus := 0
    lastCheck := 0, retireNext := 0, retireAt := 0, retiring := false, retireCid := none }

/-- SYS at release. -/
def Sys.initial : Sys :=
  { lock := false, scratch := 0, fw := 0, rev := 0, mfr := 0, smbAddr := 0, smbLast := 0, smbErrors := 0
    smbHi := 0, mainUp := true, tapIr := 0x02, boundary := [], hkHalt := 0, testMode := false, testStrap := false }

/-- PWR/CLK at release. -/
def Power.initial : Power :=
  { dev := .run, prev := .sentry, reqResult := .none, start := none, dozeEntering := false, dozeFrom := .run
    dozeExit := none, dryAfterExit := false, fclkTo := none, autoDoze := true, stageMax := 4, idleUs := 0x7D0
    bsnHold := 0x400, terIdle := 0x64, budget := 0x88B8, peak := 0, estFormed := false, railGood := 0x3F, railOv := 0, fault := 0
    faultRail := 0, tj := 0, tjMax := 0, hot := false, tripped := false, endedInFault := false
    terraces := List.replicate 64 .off, stageQ := [], periph := [], xtal := true, xtalLost := false, lockUs := 0, aonTrim := 0 }

/-- TMR at release. -/
def Time.initial : Time :=
  { uptime := 0, copy := 0, hiLatch := 0, epoch := 1, epochPending := false, epochSat := false, accuracy := false
    untrimmed := true, anchor := 0, anchorAt := 0, anchorValid := false, startKind := .full, startReason := 1
    startResult := .pass, startMs := 420, dryAge := 0xFFFFFFFF, releaseAt := 0 }

/-- Straps unconnected, PERST_N released, every output in its reset state (Table 2-5). -/
def Pins.initial : Pins :=
  { latched := true, role := .single, boot := .quad, testEn := false, roleResv := false, bootResv := false
    roleUnst := false, bootUnst := false, testUnst := false
    bootOver := false, testOver := false, perstHigh := true, wakeLow := false, dryDone := false, alertLow := false }

/-- The block right after its first release to the host following a cold start (R18, log 2). -/
def State.reset : State :=
  { pending := [], pwr := Power.initial, pins := Pins.initial, tmr := Time.initial, afe := Afe.initial
    snt := Snt.initial, basins := [], ters := List.replicate 64 Terrace.initial, cistern := [], weights := []
    graphs := [], evals := [], fwds := [], rill := [], rillVc := [], rillIn := [], csi := List.replicate 2 CsiPort.initial
    intake := List.replicate 2 Intake.initial, hif := Hif.initial, rings := [], cmds := [], staged := []
    slc := Sluice.initial, wpe := Wpe.initial, str := Streams.initial, casc := Casc.initial
    bist := Bist.initial, lcs := Lcs.initial, sys := Sys.initial, flags := 0, kmbx := [], hkStores := [[], []], maintOut := 0, maintQ := []
    readSpace := [], fc := none, postQ := [], readQ := [], dropped := [], nextCid := 1, fetches := 0, free := 0, out := [] }

end Sys2Proof.Machine
end

