-- ==== Sys2Proof/Machine/Ops.lean ====
section
/-! DEFINITION. The named operations over bytes, memories, tables and the registers of every block: the one place that
reads and writes them. Meanings call these. -/

namespace Sys2Proof.Machine

/-! ### Bytes and numbers (R7, R8: little-endian, bit 0 least significant) -/

/-- The low `n` bytes of `v`, lowest first (R8). -/
def leBytes (n v : Nat) : List Byte := (List.range n).map (fun i => BitVec.ofNat 8 (v / 256 ^ i))

/-- The number that bytes spell, lowest first (R8). -/
def leNat : List Byte → Nat
  | [] => 0
  | b :: bs => b.toNat + 256 * leNat bs

/-- Field of `n` bytes at offset `off` of a byte string; bytes beyond its end count as 0. -/
def fieldAt (bs : List Byte) (off n : Nat) : Nat := leNat ((bs.drop off).take n)

/-- The `n` bytes at offset `off`. -/
def sliceAt (bs : List Byte) (off n : Nat) : List Byte := (bs.drop off).take n

/-- Bits [lo + n - 1 : lo] of a number (R7). -/
def bitsAt (v lo n : Nat) : Nat := v / 2 ^ lo % 2 ^ n

/-- Bit `i` of a number. -/
def bitAt (v i : Nat) : Bool := v / 2 ^ i % 2 == 1

/-- 1 or 0. -/
def b2n (b : Bool) : Nat := if b then 1 else 0

/-- A counter of the spec that saturates at `max` (R16). -/
def satInc (max v : Nat) : Nat := if v < max then v + 1 else v

/-- A counter of 32 bits that wraps to 0. -/
def wrapInc (w : Word) : Word := w + 1

/-- ⌈a / b⌉. -/
def ceilDiv (a b : Nat) : Nat := (a + (b - 1)) / b

/-- An integer held in [lo, hi]. -/
def clampInt (lo hi v : Int) : Int := if v < lo then lo else if hi < v then hi else v

/-- n / d rounded to the nearest integer, halves away from zero, for d > 0. -/
def roundDiv (n : Int) (d : Nat) : Int :=
  if 0 ≤ n then ((2 * n.toNat + d) / (2 * d) : Nat) else -(((2 * (-n).toNat + d) / (2 * d) : Nat) : Int)

/-- The low `w` bits of an integer in two's complement. -/
def intBits (w : Nat) (i : Int) : Nat := (i % (2 ^ w : Nat)).toNat

/-- A byte as a two's-complement integer. -/
def byteInt (b : Byte) : Int := b.toInt

/-- Bit `i` of a vector set to `v`. -/
def setBit {n : Nat} (x : BitVec n) (i : Nat) (v : Bool) : BitVec n :=
  if v then x ||| BitVec.ofNat n (2 ^ i) else x &&& ~~~(BitVec.ofNat n (2 ^ i))

/-- One step of CRC-32C, reflected, over one bit. -/
def crcBit (c : Word) : Word := if c.getLsbD 0 then (c >>> 1) ^^^ 0x82F63B78#32 else c >>> 1

/-- CRC-32C (Castagnoli) of a byte string, initial value and final XOR all ones (R449, R469, R501, R506). -/
def crc32c (bs : List Byte) : Word :=
  ~~~(bs.foldl (fun c b => crcBit (crcBit (crcBit (crcBit (crcBit (crcBit (crcBit (crcBit (c ^^^ b.setWidth 32)))))))))
    0xFFFFFFFF#32)

/-! ### Memories in canonical form (log 10) -/

/-- The byte at an address; an unlisted address reads 0 (log 10). -/
def Memory.read (m : Memory) (a : Nat) : Byte :=
  match m.find? (fun c => c.1 == a) with
  | some c => c.2
  | none => 0

/-- One byte written, keeping addresses rising and listing no 0. -/
def Memory.write (m : Memory) (a : Nat) (b : Byte) : Memory :=
  match m with
  | [] => if b = 0 then [] else [(a, b)]
  | (x, v) :: t =>
    if a < x then (if b = 0 then (x, v) :: t else (a, b) :: (x, v) :: t)
    else if a = x then (if b = 0 then t else (a, b) :: t)
    else (x, v) :: Memory.write t a b

/-- Consecutive bytes read from `a`. -/
def Memory.readN (m : Memory) (a n : Nat) : List Byte := (List.range n).map (fun i => Memory.read m (a + i))

/-- Consecutive bytes written from `a`. -/
def Memory.writeN (m : Memory) (a : Nat) : List Byte → Memory
  | [] => m
  | b :: bs => Memory.writeN (Memory.write m a b) (a + 1) bs

/-- Every address in [lo, hi) set to 0. -/
def Memory.clear (m : Memory) (lo hi : Nat) : Memory := m.filter (fun c => !(decide (lo ≤ c.1) && decide (c.1 < hi)))

/-- The canonical form: addresses strictly rising, no entry 0. -/
def Memory.wf : Memory → Bool
  | [] => true
  | c :: t => decide (c.2 ≠ 0) && t.all (fun d => decide (c.1 < d.1)) && Memory.wf t

/-! ### Tables by number -/

/-- The entry of a number, if listed. -/
def Tab.get? {α : Type} (t : Tab α) (n : Nat) : Option α := (t.find? (fun e => e.1 == n)).map (fun e => e.2)

/-- The entry of a number, or a default. -/
def Tab.getD {α : Type} (t : Tab α) (n : Nat) (d : α) : α := (Tab.get? t n).getD d

/-- The entry of a number set, numbers kept rising. -/
def Tab.set {α : Type} (t : Tab α) (n : Nat) (v : α) : Tab α :=
  match t with
  | [] => [(n, v)]
  | (x, w) :: r => if n < x then (n, v) :: (x, w) :: r else if n = x then (n, v) :: r else (x, w) :: Tab.set r n v

/-- The entry of a number removed. -/
def Tab.del {α : Type} (t : Tab α) (n : Nat) : Tab α := t.filter (fun e => e.1 != n)

/-! ### Registers by number -/

/-- Descriptor and places of ring g (R323). -/
def State.ring (s : State) (g : Nat) : Ring := Tab.getD s.rings g Ring.initial

/-- Ring g changed. -/
def State.updRing (s : State) (g : Nat) (f : Ring → Ring) : State := { s with rings := Tab.set s.rings g (f (s.ring g)) }

/-- Physical basin n = 64t + b, or sentinel n - 4096 (R180, R183). -/
def State.basin (s : State) (n : Nat) : Basin := Tab.getD s.basins n (Basin.initial n)

/-- Basin n changed. -/
def State.updBasin (s : State) (n : Nat) (f : Basin → Basin) : State :=
  { s with basins := Tab.set s.basins n (f (s.basin n)) }

/-- Terrace t. -/
def State.ter (s : State) (t : Nat) : Terrace := s.ters.getD t Terrace.initial

/-- Terrace t changed. -/
def State.updTer (s : State) (t : Nat) (f : Terrace → Terrace) : State := { s with ters := s.ters.modify t f }

/-- Power of terrace t's control domain. -/
def State.terPower (s : State) (t : Nat) : TerPower := s.pwr.terraces.getD t .off

/-- Power of terrace t's control domain set. -/
def State.setTerPower (s : State) (t : Nat) (p : TerPower) : State :=
  { s with pwr := { s.pwr with terraces := s.pwr.terraces.set t p } }

/-- Whether basin n's periphery is power-good. -/
def State.periphGood (s : State) (n : Nat) : Bool :=
  match Tab.get? s.pwr.periph n with
  | some (.good _) => true
  | _ => false

/-- AFE channel n. -/
def State.chan (s : State) (n : Nat) : AfeChan := s.afe.chans.getD n AfeChan.initial

/-- AFE channel n changed. -/
def State.updChan (s : State) (n : Nat) (f : AfeChan → AfeChan) : State :=
  { s with afe := { s.afe with chans := s.afe.chans.modify n f } }

/-- Sentinel n. -/
def State.sentinel (s : State) (n : Nat) : Sentinel := s.snt.s.getD n Sentinel.initial

/-- Sentinel n changed. -/
def State.updSentinel (s : State) (n : Nat) (f : Sentinel → Sentinel) : State :=
  { s with snt := { s.snt with s := s.snt.s.modify n f } }

/-- Some sentinel is armed. -/
def State.anyArmed (s : State) : Bool := s.snt.s.any (fun x => x.armed)

/-- Stream i. -/
def State.stream (s : State) (i : Nat) : Stream := s.str.s.getD i Stream.initial

/-- Stream i changed. -/
def State.updStream (s : State) (i : Nat) (f : Stream → Stream) : State :=
  { s with str := { s.str with s := s.str.s.modify i f } }

/-- Intake unit u. -/
def State.unit (s : State) (u : Nat) : Intake := s.intake.getD u Intake.initial

/-- Intake unit u changed. -/
def State.updUnit (s : State) (u : Nat) (f : Intake → Intake) : State := { s with intake := s.intake.modify u f }

/-- CSI-2 port p. -/
def State.csiPort (s : State) (p : Nat) : CsiPort := s.csi.getD p CsiPort.initial

/-- CSI-2 port p changed. -/
def State.updCsi (s : State) (p : Nat) (f : CsiPort → CsiPort) : State := { s with csi := s.csi.modify p f }

/-- Pair k (MIR_PAIRk). -/
def State.pair (s : State) (k : Nat) : Pair := s.casc.pairs.getD k Pair.initial

/-- Pair k changed. -/
def State.updPair (s : State) (k : Nat) (f : Pair → Pair) : State :=
  { s with casc := { s.casc with pairs := s.casc.pairs.modify k f } }

/-- The loaded graph with a handle. -/
def State.graph? (s : State) (h : Nat) : Option Graph := s.graphs.find? (fun g => g.handle == h)

/-- The loaded graph with a handle changed. -/
def State.updGraph (s : State) (h : Nat) (f : Graph → Graph) : State :=
  { s with graphs := s.graphs.map (fun g => if g.handle == h then f g else g) }

/-- The admitted command with a number. -/
def State.cmd? (s : State) (c : Nat) : Option Cmd := s.cmds.find? (fun x => x.cid == c)

/-- The admitted command with a number changed. -/
def State.updCmd (s : State) (c : Nat) (f : Cmd → Cmd) : State :=
  { s with cmds := s.cmds.map (fun x => if x.cid == c then f x else x) }

/-- The run of an admitted command changed. -/
def State.updRun (s : State) (c : Nat) (f : Run → Run) : State :=
  s.updCmd c (fun x => match x.body with
    | .run r => { x with body := .run (f r) }
    | _ => x)

/-- The number of free values drawn, and the state after the draw (log 9). -/
def State.draw (s : State) : Nat × State := (s.free, { s with free := s.free + 1 })

/-- The main domain is out of reset: PERST_N is high and no start is in progress (R73, R83, R119). -/
def State.mainLive (s : State) : Bool := s.pins.perstHigh && s.pwr.start.isNone

/-! ### Time -/

/-- TMR_UPTIME[47:0] as the FCLK domain copies it (R79, R107). -/
def State.now48 (s : State) : Nat := s.tmr.copy % 2 ^ 48

/-! ### What the block sends (log 6) -/

/-- One thing sent or driven. -/
def State.emit (s : State) (e : Emit) : State := { s with out := e :: s.out }

/-- A TLP is sent or received: the link leaves L1 (R312). -/
def State.leaveL1 (s : State) : State := { s with hif := { s.hif with inL1 := false, inL11 := false, inL12 := false } }

/-- A posted write: sent at once, or held until the host returns posted credit (R386). -/
def State.post (s0 : State) (e : Emit) (credit src : Option (Nat × Nat)) : State :=
  let s := s0.leaveL1
  let p : Posted := { e := e, credit := credit, src := src }
  match s.fc with
  | none => s.emit e
  | some 0 => { s with postQ := s.postQ ++ [p] }
  | some (n + 1) => if s.postQ.isEmpty then { s.emit e with fc := some n } else { s with postQ := s.postQ ++ [p] }

/-- The requests that a transfer of `len` bytes is made of, none above `max` bytes: offset and length of each (R294). -/
def requestsOf (max len : Nat) : List (Nat × Nat) :=
  (List.range (ceilDiv len max)).map (fun i => (max * i, min max (len - max * i)))

/-- The posted writes that a write of a byte string is made of (R294); `relaxed` says that the write may carry the Relaxed
Ordering attribute. -/
def State.writesOf (s : State) (f : Nat) (addr : DWord) (bytes : List Byte) (relaxed : Bool) : List Emit :=
  (requestsOf s.hif.mps bytes.length).map (fun r =>
    let a := addr + BitVec.ofNat 64 r.1
    if relaxed && s.hif.relaxed then .dmaRelaxed f a (sliceAt bytes r.1 r.2) else .dma f a (sliceAt bytes r.1 r.2))

/-- A byte string written by posted writes; the last one carries the edge credit. -/
def State.postWrite (s : State) (f : Nat) (addr : DWord) (bytes : List Byte) (relaxed : Bool) (credit src : Option (Nat × Nat)) : State :=
  let es := s.writesOf f addr bytes relaxed
  (es.zipIdx.map (fun e => (e.1, if e.2 + 1 = es.length then credit else none))).foldl (fun t e => t.post e.1 e.2 src) s

/-- A DMA read issued as its requests (R294). -/
def State.issueRead (s : State) (f : Nat) (addr : DWord) (len : Nat) : State :=
  (requestsOf s.hif.mrrs len).foldl (fun t r => t.leaveL1.emit (.read f (addr + BitVec.ofNat 64 r.1) r.2)) s

/-! ### Functions, rings and blocks (R298, R299) -/

/-- The function that owns ring g: block 0 is the PF's (R298). -/
def State.ringFunc (s : State) (g : Nat) : Nat := if g < 64 then 0 else s.hif.owner.getD (g / 64) 0

/-- Local index of ring g in its owner's numbering (R299). -/
def State.ringLocal (s : State) (g : Nat) : Nat :=
  64 * ((List.range (g / 64)).filter (fun b => s.ringFunc (64 * b) == s.ringFunc g)).length + g % 64

/-- Global number of local ring i of a function (R299). -/
def State.ringGlobal (s : State) (f i : Nat) : Option Nat :=
  (((List.range 16).filter (fun b => s.ringFunc (64 * b) == f))[i / 64]?).map (fun b => 64 * b + i % 64)

/-- A function may master: Bus Master Enable is 1 and the PF is in D0 (R314). -/
def State.mayMaster (s : State) (f : Nat) : Bool := s.hif.bme.getD f false && !s.hif.d3hot

/-! ### MSI-X (R307, R309) -/

/-- The MSI-X table key of an entry of a function. -/
def msixKey (f e : Nat) : Nat := f * 2048 + e

/-- The MSI-X entry of a function. -/
def State.msixEntry (s : State) (f e : Nat) : Msix := Tab.getD s.hif.msix (msixKey f e) Msix.initial

/-- An entry's pending bit set or cleared. -/
def State.setMsixPending (s : State) (f e : Nat) (p : Bool) : State :=
  { s with hif := { s.hif with msix := Tab.set s.hif.msix (msixKey f e) { s.msixEntry f e with pending := p } } }

/-- An MSI-X message of an entry: sent, or kept pending while the entry or the function is masked or the function may
not master (R309). With MSI-X Enable 0 nothing is sent or kept (log 21). -/
def State.signal (s : State) (f e : Nat) : State :=
  if !s.hif.msixEn.getD f false then s
  else if (s.msixEntry f e).masked || s.hif.msixFm.getD f false || !s.mayMaster f then s.setMsixPending f e true
  else s.post (.msi f e) none none

/-- Device interrupt k raised: STAT bit set; on a 0-to-1 change with EN set the entry is signalled (R308), as a PME
while the PF is in D3hot (R315). -/
def State.devVec (s : State) (k : Nat) : State :=
  if s.hif.devStat.getLsbD k then s
  else
    let s1 := { s with hif := { s.hif with devStat := setBit s.hif.devStat k true } }
    if !s.hif.devEn.getLsbD k then s1
    else if s.hif.d3hot then
      ({ s1 with hif := { s1.hif with pmeStatus := true } }.emit .pme).setMsixPending 0 k true
    else s1.signal 0 k

/-- MSI-X entry of ring g (R307). -/
def State.ringEntry (s : State) (g : Nat) : Nat :=
  let f := s.ringFunc g
  (if f = 0 then 16 else 0) + s.ringLocal g / 2 ^ s.hif.coal.getD f 0

/-! ### The two logs -/

/-- A violation written into HIF_VLOG (R321); a new entry raises HOST_VIOLATION (Table 12-4). -/
def State.vlog (s : State) (kind action rid func ring : Nat) (hdr : BitVec 128) : State :=
  let h := s.hif
  let e : VlogEntry := { uptime := s.now48, seq := h.vlogWr.toNat, kind := kind, action := action,
                         rid := rid, func := func, ring := ring, hdr := hdr }
  let full := decide ((h.vlogWr - h.vlogRd).toNat ≥ 64)
  State.devVec { s with hif := { h with vlog := Tab.set h.vlog (h.vlogWr.toNat % 64) e, vlogWr := h.vlogWr + 1,
                                        vlogLost := if full then satInc 0xFFFF h.vlogLost else h.vlogLost,
                                        vlogRd := if full then h.vlogRd + 1 else h.vlogRd } } 2

/-- A violation by a received TLP. -/
def State.vlogTlp (s : State) (kind action func ring : Nat) (t : Tlp) : State :=
  s.vlog kind action t.rid.toNat func ring t.hdr

/-- An entry of the device log, overwriting the oldest of 1,024 (R508); it raises DEVICE_LOG. -/
def State.dlog (s : State) (source event : Nat) (arg0 : Word) (arg1 : DWord) : State :=
  let b := s.bist
  let e : LogEntry := { uptime := s.now48, seq := b.dlogNext, source := source, event := event,
                        arg0 := arg0, arg1 := arg1 }
  let full := decide (b.dlog.length ≥ 1024)
  State.devVec { s with bist := { b with dlog := (if full then b.dlog.drop 1 else b.dlog) ++ [e],
                                         dlogNext := b.dlogNext + 1,
                                         dlogLost := if full then satInc 0xFFFF b.dlogLost else b.dlogLost } } 3

/-! ### Terrace-and-slot addressing (R398) -/

/-- Physical basin that holds a logical slot of a terrace, or the sentinel of terrace 64 (R180, R398). -/
def State.physOf (s : State) (ter slot : Nat) : Option Nat :=
  if ter = 64 then (if slot < 16 then some (4096 + slot) else none)
  else ((List.range 64).map (fun b => 64 * ter + b)).find? (fun n => decide ((s.basin n).slot = some slot) && decide (slot < 62))

/-- Terrace number a basin number belongs to, 64 for a sentinel. -/
def basinTer (n : Nat) : Nat := if n < 4096 then n / 64 else 64

/-- The basin address word of Tables 13-11 and 19-10: terrace [6:0], device [9:7], slot [15:10], 0x3F for none. -/
def basinWord (ter dev : Nat) (slot : Option Nat) : Nat := ter % 128 + 128 * (dev % 8) + 1024 * (slot.getD 63 % 64)

/-- The physical basin belongs to a loaded graph, or to a shadow (R37, R471). -/
def State.basinInGraph (s : State) (n : Nat) : Bool :=
  (s.graphs ++ s.casc.shadows).any (fun g => g.phys.any (fun l => l.contains n))

/-- Key of one weight in `weights`: basin, row, column (R184). -/
def weightKey (basin row col : Nat) : Nat := (basin * 1024 + row) * 512 + col

/-- The weight level stored at a row and column of a basin (R184). -/
def State.weight (s : State) (basin row col : Nat) : Int := byteInt (Memory.read s.weights (weightKey basin row col))

end Sys2Proof.Machine
end

