-- ==== Sys2Proof/Machine/Flags.lean ====
section
/-! DEFINITION. Status codes, and the words that report an outcome: the CONTENTION and DETAIL words and the completion
record (R352 to R356), and the interrupt flags of a ring (R357). -/

namespace Sys2Proof.Machine

/-! ### Status codes (Table 13-10) -/

def stDone : Nat := 0x00
def stDoneLate : Nat := 0x01
def stCapacity : Nat := 0x10
def stDeadline : Nat := 0x11
def stPower : Nat := 0x12
def stState : Nat := 0x13
def stMalformed : Nat := 0x20
def stBadOpcode : Nat := 0x21
def stBadParam : Nat := 0x22
def stAccess : Nat := 0x23
def stHoldup : Nat := 0x30
def stInterrupted : Nat := 0x31
def stDirty : Nat := 0x32
def stFault : Nat := 0x40
def stMappedOut : Nat := 0x41
def stUncertain : Nat := 0x50
def stCancelled : Nat := 0x51
def stDamaged : Nat := 0x60
def stUnderrun : Nat := 0x61

/-- An outcome with a DETAIL word and nothing of lateness or contention. -/
def endOf (status detail : Nat) : End := { status := status, detail := detail, late := 0, cause := 0, holder := none }

/-- DONE with DETAIL 0. -/
def endDone : End := endOf stDone 0

/-- BAD_PARAM naming the byte offset of the failing field (R355). -/
def endParam (off : Nat) : End := endOf stBadParam off

/-- REFUSED_STATE. -/
def endState : End := endOf stState 0

/-- ACCESS_DENIED with its cause (Table 13-11). -/
def endAccess (cause : Nat) : End := endOf stAccess cause

/-- The CONTENTION word in a record of ring g (R354). -/
def State.contention (s : State) (g : Nat) (e : End) : Nat :=
  if e.status = stDoneLate ∨ e.status = stCapacity ∨ e.status = stDeadline ∨ e.status = stPower then
    let none3 := 4 * 0x3FF + 4096 * e.cause
    if e.cause = 0 ∨ e.cause = 3 then none3
    else match e.holder with
      | none => none3
      | some h =>
        if s.ringFunc g = 0 then (s.ring h).cls + 4 * h + 4096 * e.cause
        else (s.ring h).cls + 4 * (if s.ringFunc h = s.ringFunc g then s.ringLocal h else 0x3FF) + 4096 * e.cause
  else 0

/-- The 32 bytes of a completion record (Table 13-9). -/
def recordBytes (tag status flags ring opcode start fin late cont evals skipped detail : Nat) : List Byte :=
  leBytes 2 tag ++ leBytes 1 status ++ leBytes 1 flags ++ leBytes 2 ring ++ leBytes 1 opcode ++ leBytes 6 start ++
  leBytes 6 fin ++ leBytes 2 (min late 0xFFFF) ++ leBytes 2 cont ++ leBytes 2 (min evals 0xFFFF) ++
  leBytes 3 (min skipped 0xFFFFFF) ++ leBytes 4 detail

/-- FLAGS of a record: PHASE, ENGINE, IN_LIST (Table 13-9). -/
def recordFlags (phase : Bool) (engine : Nat) (inList : Bool) : Nat := b2n phase + 2 * engine + 16 * b2n inList

/-- The ring signals its vector now: count, IRQ_NOW, or a status other than DONE and DONE_LATE (R357). -/
def Ring.triggers (r : Ring) (irqNow : Bool) (status : Nat) : Bool :=
  r.irqEn && (decide (max 1 r.modCount ≤ r.unsig) || irqNow || !(status == stDone || status == stDoneLate))

/-- A ring's vector signalled; its count and timer restart (R357). -/
def State.signalRing (s : State) (g : Nat) : State :=
  (s.updRing g (fun r => { r with unsig := 0, unsigAt := none })).signal (s.ringFunc g) (s.ringEntry g)

end Sys2Proof.Machine
end

