-- ==== Sys2Proof/Machine/Operands.lean ====
section
/-! DEFINITION. The 64-byte command packet: header, the parameters of every opcode, and checks 1 to 5 of R339, which
depend on the packet, its ring and the life-cycle state alone (Tables 13-1 to 13-8). -/

namespace Sys2Proof.Machine

/-! ### Header (Table 13-1) -/

def pktOp (p : List Byte) : Nat := fieldAt p 0 1
def pktFlags (p : List Byte) : Nat := fieldAt p 1 1
def pktIrqNow (p : List Byte) : Bool := bitAt (pktFlags p) 0
def pktBarrier (p : List Byte) : Bool := bitAt (pktFlags p) 1
def pktTag (p : List Byte) : Nat := fieldAt p 2 2
def pktLen (p : List Byte) : Nat := fieldAt p 4 1
/-- Ring entries the packet occupies (R337). -/
def pktEntries (p : List Byte) : Nat := max 1 (bitsAt (pktLen p) 0 4)
def pktDeadline (p : List Byte) : Nat := fieldAt p 6 6
/-- Parameter of `n` bytes at packet offset `off`. -/
def par (p : List Byte) (off n : Nat) : Nat := fieldAt p off n

/-- Engine that an opcode belongs to: 0 SE, 1 IE, 2 WE, 3 STE, 4 ME; 8 for a generic opcode (Tables 13-3 to 13-8). -/
def opcodeEngine (op : Nat) : Option Nat :=
  if op ≤ 0x06 then some 8
  else if 0x10 ≤ op ∧ op ≤ 0x17 then some 1
  else if 0x20 ≤ op ∧ op ≤ 0x25 then some 0
  else if 0x30 ≤ op ∧ op ≤ 0x36 then some 2
  else if 0x40 ≤ op ∧ op ≤ 0x44 then some 3
  else if 0x50 ≤ op ∧ op ≤ 0x57 then some 4
  else none

/-- The parameter bytes an opcode's row names: offset and size (Tables 13-3 to 13-8). -/
def paramFields (op : Nat) : List (Nat × Nat) :=
  match op with
  | 0x02 => [(0x10, 8)]
  | 0x03 => [(0x10, 2)]
  | 0x04 => [(0x10, 2)]
  | 0x05 => [(0x10, 12)]
  | 0x06 => [(0x10, 8)]
  | 0x10 => [(0x10, 13), (0x20, 8)]
  | 0x11 => [(0x10, 2)]
  | 0x12 => [(0x10, 2)]
  | 0x13 => [(0x10, 2)]
  | 0x14 => [(0x10, 3), (0x14, 12)]
  | 0x15 => [(0x10, 3), (0x14, 12)]
  | 0x16 => [(0x10, 5)]
  | 0x17 => [(0x10, 3)]
  | 0x20 => [(0x10, 26)]
  | 0x21 => [(0x10, 9)]
  | 0x22 => [(0x10, 1)]
  | 0x23 => [(0x10, 3)]
  | 0x24 => [(0x10, 3), (0x14, 2)]
  | 0x25 => [(0x10, 22), (0x28, 24)]
  | 0x30 => [(0x10, 12)]
  | 0x31 => [(0x10, 1), (0x12, 6)]
  | 0x32 => [(0x10, 1), (0x12, 2)]
  | 0x33 => [(0x10, 2)]
  | 0x34 => [(0x10, 2)]
  | 0x36 => [(0x10, 1)]
  | 0x40 => [(0x10, 16)]
  | 0x41 => [(0x10, 1), (0x12, 2)]
  | 0x42 => [(0x10, 7)]
  | 0x43 => [(0x10, 1)]
  | 0x44 => [(0x10, 8)]
  | 0x50 => [(0x10, 3), (0x14, 16)]
  | 0x51 => [(0x10, 12)]
  | 0x52 => [(0x10, 1), (0x18, 12)]
  | 0x53 => [(0x10, 1), (0x14, 16)]
  | 0x54 => [(0x10, 3)]
  | 0x55 => [(0x10, 12)]
  | _ => []

/-- A packet offset lies in a named parameter. -/
def offsetNamed (op off : Nat) : Bool := (paramFields op).any (fun f => decide (f.1 ≤ off) && decide (off < f.1 + f.2))

/-- MALFORMED with its cause and byte offset (Table 13-11). -/
def endMalformed (cause off : Nat) : End := endOf stMalformed (cause + 256 * off)

/-- The first of a list of (offset, fault) that is a fault. -/
def firstFault (l : List (Nat × Bool)) : Option Nat := (l.find? (fun e => e.2)).map (fun e => e.1)

/-- Check 1: the header, the lowest faulty offset first (Table 13-1, R337). -/
def checkHeader (p : List Byte) : Option End :=
  if pktFlags p / 4 ≠ 0 then some (endMalformed 3 1)
  else if pktLen p ≠ 1 then some (endMalformed 1 4)
  else (firstFault ((5, fieldAt p 5 1 != 0) :: (List.range 4).map (fun i => (12 + i, fieldAt p (12 + i) 1 != 0)))).map
    (endMalformed 2)

/-- Check 3: a reserved parameter byte is non-zero (R336). -/
def checkReserved (p : List Byte) : Option End :=
  (firstFault ((List.range 48).map (fun i => (16 + i, !offsetNamed (pktOp p) (16 + i) && fieldAt p (16 + i) 1 != 0)))).map
    (endMalformed 4)

/-- DEADLINE accepted by the opcode and the ring's class (R338, Table 13-2). -/
def deadlineBad (p : List Byte) (cls : Nat) : Bool :=
  let d := pktDeadline p
  match pktOp p with
  | 0x12 => decide (cls = 0) || (decide (cls = 1) && decide (d = 0))
  | 0x13 => decide (cls ≠ 0)
  | 0x03 => false
  | _ => decide (d ≠ 0)

/-- Parameter faults of AFE_CONFIG: only selected items are judged (R572). -/
def afeFaults (p : List Byte) : List (Nat × Bool) :=
  (List.range 16).map (fun n => (0x14 + n,
    bitAt (par p 0x10 2) n && (bitAt (par p (0x14 + n) 1) 3 || bitAt (par p (0x14 + n) 1) 7 ||
      decide (5 < bitsAt (par p (0x14 + n) 1) 4 3)))) ++
  [(0x24, bitsAt (par p 0x24 1) 2 5 != 0), (0x25, decide (15 < par p 0x25 1))] ++
  (List.range 4).map (fun k => (0x26 + k, bitAt (par p 0x25 1) k && decide (7 < par p (0x26 + k) 1)))

/-- Planes a data type has, as a PLANES mask (Table 11-2); 0 for a data type not received. -/
def planesOfDt (dt : Nat) : Nat :=
  if dt = 0x2A ∨ dt = 0x2B ∨ dt = 0x2C then 1 else if dt = 0x1E ∨ dt = 0x24 then 7 else 0

/-- Width of a plane of a data type after decimation: chroma planes of YUV422 are half width (R280, R281). -/
def planeWidth (dt w k plane : Nat) : Nat := if dt = 0x1E ∧ plane ≠ 0 then w / (2 * k) else w / k

/-- Bytes of the selected planes after crop and decimation (R283). -/
def planesBytes (dt w h k planes : Nat) : Nat :=
  ((List.range 3).map (fun i => if bitAt planes i then planeWidth dt w k i * (h / k) else 0)).sum

/-- Parameter faults of INTAKE_CONFIG that depend on the packet alone (Table 11-3 row 1, R281, R283, R286). -/
def intakeFaults (p : List Byte) : List (Nat × Bool) :=
  let dt := par p 0x13 1
  let w := par p 0x18 2
  let h := par p 0x1A 2
  let k := par p 0x1C 1
  let kOk := k == 1 || k == 2 || k == 4
  let m := if dt = 0x1E then 2 * k else k
  let planes := par p 0x1D 1
  let nb := par p 0x1F 1
  [(0x10, decide (1 < par p 0x10 1)), (0x11, decide (1 < par p 0x11 1)), (0x12, decide (3 < par p 0x12 1)),
   (0x13, planesOfDt dt == 0),
   (0x14, decide (4096 < par p 0x14 2 + w)), (0x16, decide (4096 < par p 0x16 2 + h)),
   (0x18, w == 0 || (kOk && w % m != 0)), (0x1A, h == 0 || (kOk && h % m != 0)),
   (0x1C, !kOk),
   (0x1D, planes == 0 || decide (planes &&& planesOfDt dt ≠ planes) ||
     (kOk && decide (16384 < planesBytes dt w h k planes))),
   (0x1E, decide (7 < par p 0x1E 1) || bitsAt (par p 0x1E 1) 0 2 == 3), (0x1F, decide (4 < nb))] ++
  (List.range 4).flatMap (fun b =>
    let o := 0x28 + 6 * b
    let pl := par p o 1
    let rows := par p (o + 4) 2
    if b < nb then
      [(o, decide (2 < pl) || !bitAt planes pl), (o + 2, kOk && decide (h / k < par p (o + 2) 2 + rows)),
       (o + 4, rows == 0 || (kOk && decide (4096 < planeWidth dt w k pl * rows)))]
    else (List.range 6).map (fun i => (o + i, fieldAt p (o + i) 1 != 0)))

/-- TESTS bits a scope of BIST_RUN allows besides REPAIR (R502, R504). -/
def bistTests (scope : Nat) : Nat :=
  match scope with
  | 0 => 0x3FFE
  | 1 => 0x03FC
  | 2 => 0x03E0
  | 3 => 0x0018
  | _ => 0x3800

/-- Parameter faults of LIFECYCLE_ADVANCE: the part of check 1 of Table 20-4 that the packet alone decides. -/
def tokenFaults (target addr len : Nat) : List (Nat × Bool) :=
  [(0x10, decide (4 < target)), (0x18, addr % 16 != 0), (0x20, decide (len < 160) || decide (2048 < len))]

/-- Parameter faults of an opcode that depend on the packet and the ring alone, offsets rising (R339 check 5).
`nested` says that the packet stands in a list called from a list (R349). -/
def paramFaults (p : List Byte) (nested : Bool) : List (Nat × Bool) :=
  let b (off : Nat) : Nat := par p off 1
  match pktOp p with
  | 0x02 => [(0x10, par p 0x10 8 % 8 != 0)]
  | 0x03 => [(0x11, decide (1 < b 0x11))]
  | 0x04 => [(0x11, decide (1 < b 0x11))]
  | 0x05 => [(0, nested), (0x10, par p 0x10 8 % 64 != 0), (0x18, par p 0x18 4 == 0 || decide (65536 < par p 0x18 4))]
  | 0x10 => [(0x10, par p 0x10 8 % 16 != 0), (0x1C, decide (1 < b 0x1C)), (0x20, b 0x1C == 0 && par p 0x20 4 != 0),
             (0x24, b 0x1C == 0 && par p 0x24 4 != 0)]
  | 0x16 => [(0x14, decide (15 < b 0x14))]
  | 0x17 => [(0x12, decide (1 < b 0x12))]
  | 0x20 => afeFaults p
  | 0x21 => [(0x10, decide (15 < b 0x10)), (0x11, decide (15 < b 0x11) || bitsAt (b 0x11) 0 2 == 3), (0x12, par p 0x12 2 == 0),
             (0x14, b 0x14 == 0 || decide (15 < b 0x14)), (0x15, b 0x15 == 0 || decide (15 < b 0x15) || decide (b 0x14 < b 0x15)),
             (0x16, b 0x16 == 0 || decide (15 < b 0x16)), (0x17, b 0x17 == 0 || decide (63 < b 0x17)), (0x18, decide (15 < b 0x18))]
  | 0x22 => [(0x10, decide (15 < b 0x10))]
  | 0x23 => [(0x10, decide (61 < b 0x10)), (0x11, decide (15 < b 0x11)), (0x12, decide (1 < b 0x12))]
  | 0x24 => [(0x10, decide (1 < b 0x10)), (0x11, decide (1 < b 0x11)), (0x12, !(b 0x12 == 1 || b 0x12 == 2 || b 0x12 == 4)),
             (0x14, decide (par p 0x14 2 < 80) || decide (2500 < par p 0x14 2))]
  | 0x25 => intakeFaults p
  | 0x30 => [(0x10, par p 0x10 8 % 16 != 0)]
  | 0x31 => [(0x16, par p 0x16 2 == 0 || decide (1024 < par p 0x16 2))]
  | 0x33 => [(0x10, decide (64 < b 0x10)), (0x11, if b 0x10 = 64 then decide (15 < b 0x11) else decide (61 < b 0x11))]
  | 0x34 => if b 0x10 = 0xFF ∧ b 0x11 = 0xFF then []
            else [(0x10, decide (64 < b 0x10)), (0x11, if b 0x10 = 64 then decide (15 < b 0x11) else decide (61 < b 0x11))]
  | 0x40 => [(0x10, decide (31 < b 0x10)), (0x11, decide (1 < b 0x11)), (0x14, par p 0x14 4 == 0 || decide (16777216 < par p 0x14 4)),
             (0x18, b 0x11 == 0 && par p 0x18 8 % 4 != 0)]
  | 0x41 => [(0x10, decide (31 < b 0x10))]
  | 0x42 => [(0x10, decide (31 < b 0x10)), (0x11, decide (2 < b 0x11)),
             (0x12, par p 0x12 2 == 0 && (b 0x11 != 0 || b 0x14 != 0xFF)),
             (0x15, b 0x15 == 0 || decide (3 < b 0x15) || (bitAt (b 0x15) 0 && b 0x11 != 0)),
             (0x16, if b 0x11 = 0 then b 0x16 == 0 else b 0x16 != 0)]
  | 0x43 => [(0x10, decide (31 < b 0x10))]
  | 0x44 => [(0x10, decide (1 < b 0x10)), (0x11, b 0x11 == 0 || decide (8 < b 0x11)),
             (0x12, b 0x12 == 0 || decide (3 < b 0x12) ||
               decide (8 < b 0x11 * (b2n (bitAt (b 0x12) 0) + b2n (bitAt (b 0x12) 1)))),
             (0x13, decide (3 < b 0x13)), (0x14, par p 0x14 4 != 48000)]
  | 0x50 => [(0x10, decide (4 < b 0x10)), (0x11, decide (1 ≤ b 0x10 ∧ b 0x10 ≤ 3 ∧ 63 < b 0x11)),
             (0x12, decide (b 0x10 = 2 ∧ 63 < b 0x12) || decide (3 ≤ b 0x10 ∧ 15 < b 0x12)),
             (0x14, par p 0x14 4 % 2 ^ 31 &&& bistTests (b 0x10) != par p 0x14 4 % 2 ^ 31), (0x20, par p 0x20 4 % 32 != 0)]
  | 0x51 => [(0x18, decide (par p 0x18 4 < 1184))]
  | 0x52 => tokenFaults (b 0x10) (par p 0x18 8) (par p 0x20 4)
  | 0x53 => [(0x10, decide (1 < b 0x10))]
  | 0x54 => [(0x10, decide (3 < b 0x10)), (0x11, decide (1 < b 0x11)), (0x12, decide (7 < b 0x12))]
  | 0x55 => [(0x18, decide (par p 0x18 4 < 256))]
  | _ => []

/-- Opcodes accepted in the life-cycle state in force (Table 20-6, R520). -/
def lifecycleAllows (st : LcState) (closed : Bool) (op : Nat) : Bool :=
  if op ≤ 0x06 then true
  else match st with
    | .retired => op == 0x51 || op == 0x53 || op == 0x57
    | .manufacture => op != 0x54
    | .provisioned => op != 0x50 && op != 0x54
    | .deployed => op != 0x50
    | .service => !(op == 0x50 && closed)

/-- Flags a ring's function may name (R342). -/
def flagAllowed (func flag : Nat) : Bool :=
  if func = 0 then decide (32 ≤ flag ∧ flag ≤ 255)
  else decide (128 + 8 * (func - 1) ≤ flag ∧ flag ≤ 135 + 8 * (func - 1))

/-- Checks 1 to 5 of R339 in order: how a packet at the head of ring g is rejected, or none. -/
def State.checkPacket (s : State) (g : Nat) (p : List Byte) (nested : Bool) : Option End :=
  let r := s.ring g
  let f := s.ringFunc g
  let op := pktOp p
  match checkHeader p with
  | some e => some e
  | none =>
    if !(opcodeEngine op == some 8 || opcodeEngine op == some r.engine) then some (endOf stBadOpcode 0)
    else match checkReserved p with
      | some e => some e
      | none =>
        if !lifecycleAllows s.lcs.active s.lcs.closed op then some (endAccess 1)
        else if (op = 0x03 ∨ op = 0x04) ∧ !flagAllowed f (par p 0x10 1) then some (endAccess 3)
        else (firstFault ((0, nested && op == 0x05) :: (6, deadlineBad p r.cls) :: paramFaults p nested)).map endParam

end Sys2Proof.Machine
end

