-- ==== Sys2Proof/Machine/Records.lean ====
section
/-! DEFINITION. Rings at work: fetch, the head packet, admission, completion records, the end of a command and of the
list it stands in (R326 to R359). -/

namespace Sys2Proof.Machine

/-- Ring decoders work: in RUN, ECONOMY, and in DRY until DRYDONE, where every packet they fetch ends REFUSED_STATE (R122,
R127, Table 21-3). -/
def State.decodersRun (s : State) : Bool :=
  s.mainLive && (match s.pwr.dev with
    | .run => true
    | .economy => true
    | .dry => !s.pins.dryDone
    | _ => false)

/-- Engines work: in RUN, ECONOMY, and in DRY until the drain has ended (R82, R122, R124). -/
def State.enginesRun (s : State) : Bool :=
  s.mainLive && (match s.pwr.dev with
    | .run => true
    | .economy => true
    | .dry => decide (s.bist.dry = some .drain)
    | _ => false)

/-! ### Ring pointers (R324, R328, R330) -/

/-- Entries of the ring. -/
def Ring.size (r : Ring) : Nat := 2 ^ r.log2

/-- Entries written by software and not yet fetched (R328). -/
def Ring.unfetched (r : Ring) : Nat := (r.sqTail + r.size - r.sqHead) % r.size

/-- Free completion slots F (R330). -/
def Ring.freeSlots (r : Ring) : Nat := r.size - 1 - (r.cqTail + r.size - r.cqHead) % r.size - r.reserved

/-- The packet at the head of the ring and the number of lists around it (R348). -/
def Ring.headPacket (r : Ring) : Option (List Byte × Nat) :=
  if !r.en || r.halted then none
  else match r.lists with
    | [] => r.places.head?.map (fun p => (p, 0))
    | c :: _ => if c.fetched then c.rest.head?.map (fun p => (p, r.lists.length)) else none

/-- The head packet's entries are all present (R337). -/
def Ring.covered (r : Ring) (n : Nat) : Bool :=
  match r.lists with
  | _ :: _ => true
  | [] => decide (n ≤ r.places.length) || (r.fetching == 0 && decide (n - r.places.length ≤ r.unfetched))

/-- The head packet stands in a list and its LEN passes the list's end (R350). -/
def Ring.overruns (r : Ring) (n : Nat) : Bool :=
  match r.lists with
  | c :: _ => decide (c.rest.length < n)
  | [] => false

/-- The head packet's `n` entries consumed; lists with nothing left are left (R337, R348, R350). -/
def Ring.consume (r : Ring) (n : Nat) : Ring :=
  match r.lists with
  | c :: cs =>
    let c' := { c with rest := c.rest.drop n, consumed := c.consumed + min n c.rest.length }
    { r with lists := (c' :: cs).dropWhile (fun x => x.fetched && x.rest.isEmpty) }
  | [] =>
    { r with places := r.places.drop n, sqHead := (r.sqHead + (n - r.places.length)) % r.size }

/-! ### Fetching (R332) -/

/-- The ring can be fetched from now. -/
def State.fetchable (s : State) (g : Nat) : Bool :=
  let r := s.ring g
  s.decodersRun && r.en && !r.halted && r.fetching == 0 && decide (r.places.length < 4) && decide (0 < r.unfetched) &&
    s.mayMaster (s.ringFunc g) &&
    decide ((s.rings.filter (fun e => decide (0 < e.2.fetching) && e.2.engine == r.engine)).length < 16)

/-- Ring a is fetched from before ring b: class, then PRIO, then the one whose turn came longest ago (R332). -/
def fetchBefore (a b : Nat × Ring) : Bool :=
  if a.2.cls ≠ b.2.cls then decide (a.2.cls < b.2.cls)
  else if a.2.prio ≠ b.2.prio then decide (b.2.prio < a.2.prio)
  else decide (a.2.turn < b.2.turn)

/-- The next ring to fetch from. -/
def State.nextFetch (s : State) : Option Nat :=
  ((s.rings.filter (fun e => s.fetchable e.1)).foldl
    (fun best e => match best with
      | none => some e
      | some b => if fetchBefore e b then some e else some b) none).map (fun e => e.1)

/-- One fetch read issued: up to the free places, not across the ring's end (R332). -/
def State.fetchRing (s : State) (g : Nat) : State :=
  let r := s.ring g
  let n := min (min (4 - r.places.length) r.unfetched) (r.size - r.sqHead)
  ({ s.updRing g (fun r => { r with fetching := n, sqHead := (r.sqHead + n) % r.size, turn := s.fetches + 1 }) with
      fetches := s.fetches + 1 } : State).issueRead (s.ringFunc g) (r.sqBase + BitVec.ofNat 64 (64 * r.sqHead)) (64 * n)

/-- Fetch reads issued while any ring can be fetched from. -/
def State.fetchAll (fuel : Nat) (s : State) : State :=
  match fuel with
  | 0 => s
  | n + 1 => match s.nextFetch with
    | none => s
    | some g => State.fetchAll n (s.fetchRing g)

/-- The list fetch of ring g issued, if it waits and the function may master (R314, R348). -/
def State.fetchList (s : State) (g : Nat) : State :=
  match (s.ring g).lists with
  | [] => s
  | c :: cs =>
    if c.issued || !s.mayMaster (s.ringFunc g) || !s.decodersRun then s
    else (s.updRing g (fun r => { r with lists := { c with issued := true } :: cs })).issueRead (s.ringFunc g) c.addr (64 * c.entries)

/-- Every fetch that can be issued now, of lists and of ring entries. -/
def State.fetchWork (s : State) : State :=
  State.fetchAll 1024 (s.rings.foldl (fun t e => t.fetchList e.1) s)

/-! ### Completion records (R331, R335, R352) -/

/-- The one log entry that says that results of a command of ring g were dropped (R314). -/
def State.dropResults (s : State) (cid : Option Nat) (g : Nat) : State :=
  let f := s.ringFunc g
  let log (s : State) : State := s.vlog 0x0D 5 (s.hif.rid.toNat + f) f g 0
  match cid with
  | none => log s
  | some c => if s.dropped.contains c then s else log { s with dropped := c :: s.dropped }

/-- A record of ring g written at CQ_TAIL, and the ring's vector signalled where R357 says; discarded on a halted ring
or for a detached command (R318, R359), and with a log entry where the function may not master (R314). A member writes
none: its work is the master's, which writes the record (R463). `cid` is the command's number, where it was admitted. -/
def State.writeRecord (s : State) (g tag op : Nat) (inList irqNow detached : Bool) (cid : Option Nat) (start evals skipped : Nat)
    (e : End) : State :=
  let r := s.ring g
  let f := s.ringFunc g
  if r.halted || s.pins.role == .member then s
  else if detached || !s.mayMaster f then s.dropResults cid g
  else
    let bytes := recordBytes tag e.status (recordFlags r.phase r.engine inList) (s.ringLocal g) op start s.now48 e.late
      (s.contention g e) evals skipped e.detail
    let tail := (r.cqTail + 1) % r.size
    let s1 := (s.post (.record g f (r.cqBase + BitVec.ofNat 64 (32 * r.cqTail)) bytes) none (cid.map (fun c => (c, g)))).updRing g (fun r =>
      { r with cqTail := tail, phase := if tail = 0 then !r.phase else r.phase, doneCnt := r.doneCnt + 1,
               unsig := r.unsig + 1, unsigAt := match r.unsigAt with
                 | some t => some t
                 | none => some s.tmr.uptime })
    if (s1.ring g).triggers irqNow e.status then s1.signalRing g else s1

/-- The refusal counters of SLC (SLC_CNT_A, SLC_CNT_B). -/
def State.countEnd (s : State) (st : Nat) : State :=
  let c := s.slc
  { s with slc := { c with refCap := if st = stCapacity then satInc 0xFFFF c.refCap else c.refCap,
                           refDl := if st = stDeadline then satInc 0xFFFF c.refDl else c.refDl,
                           refPow := if st = stPower then satInc 0xFFFF c.refPow else c.refPow,
                           late := if st = stDoneLate then satInc 0xFFFF c.late else c.late } }

/-- A disabled or halted ring with no admitted command left is inactive (R327, R359). -/
def State.ringIdle (s : State) (g : Nat) : State :=
  let r := s.ring g
  if (!r.en || r.halted) && !s.cmds.any (fun c => c.ring == g && !c.detached) then
    s.updRing g (fun r => { r with active := false, reserved := 0 })
  else s

/-- The command's record waits for mirroring (R474, R475): a synchronous pair has not acknowledged the command's LAST
record, or an asynchronous one has had no space to emit it. -/
def State.mirrorHolds (s : State) (c : Cmd) : Bool :=
  c.mir.any (fun m =>
    let p := s.pair m.1
    (p.state == 2 || p.state == 3) && (if p.async then decide (p.emitted < m.2) else decide (p.acked < m.2)))

/-- Time by which `now` is past `d`, both TMR_UPTIME[47:0] and compared modulo 2^48 (R107): 0 where it is not. -/
def past48 (now d : Nat) : Nat :=
  let x := (now + 2 ^ 48 - d % 2 ^ 48) % 2 ^ 48
  if x < 2 ^ 47 then x else 0

/-- CONTENTION of a command that ends late without having been refused (Table 14-3): the fault handling that held its graph;
what the host or a degraded link did, which names none; else the run whose packet held the port its final packet waited on,
and a free value where no wait of it was seen. For a record that mirroring held the spec names no cause: a free value. -/
def State.lateBlame (s : State) (x : Cmd) : Nat × Option Nat :=
  match x.body with
  | .run r =>
    let port (p : CascPort) : Bool := p.state == .up && p.degraded
    if x.held.isSome then ((Config.freeInt s.free).natAbs % 16, none)
    else if r.lateCause = 5 then (5, r.faultRing)
    else if r.lateCause = 0 ∨ s.hif.speed < 5 ∨ s.hif.width < 8 ∨ s.fc = some 0 ∨ !s.postQ.isEmpty ∨ port s.casc.portUp ∨ port s.casc.portDn
    then (0, none)
    else (4, some (r.behind.getD ((Config.freeInt s.free).natAbs % 1024)))
  | _ => (0, none)

/-- The end of a command as its record tells it now: LATENESS is END minus the deadline, and a command that would have ended
DONE ends DONE_LATE (R353). A refusal for the deadline keeps the lateness it would have had. -/
def State.lateEnd (s : State) (x : Cmd) (e : End) : End :=
  match x.deadline with
  | none => e
  | some d =>
    let late := past48 s.now48 d
    if e.status = stDeadline ∨ late = 0 then e
    else if e.status = stDone then
      { e with status := stDoneLate, late := late, cause := (s.lateBlame x).1, holder := (s.lateBlame x).2 }
    else { e with late := late }

/-- The WEIGHT device vector, where the end of a Weight Engine command is an event that raises it (R308, log 43). -/
def State.weightEvent (s : State) (x : Cmd) : State :=
  if x.opcode / 16 == 3 && Config.weightEvent x.cid then s.devVec 7 else s

/-- An admitted command ends: its record is written or discarded, its slot, booking and power are returned (R330,
R376); a record that a synchronous pair must acknowledge first is held (R474). -/
def State.endCmd (s : State) (c : Nat) (e : End) : State :=
  match s.cmd? c with
  | none => s
  | some x =>
    if s.mirrorHolds x then s.updCmd c (fun y => { y with held := some e })
    else
      let e' := s.lateEnd x e
      let s1 := ({ s with cmds := s.cmds.filter (fun y => y.cid != c) }).updRing x.ring
        (fun r => { r with reserved := if x.detached then r.reserved else r.reserved - 1 })
      (((s1.countEnd e'.status).writeRecord x.ring x.tag x.opcode x.parent.isSome x.irqNow x.detached (some c) x.start
        x.evals x.skipped e').ringIdle x.ring).weightEvent x

/-- A LIST_CALL whose list is consumed and whose listed commands have all ended (R351). -/
def State.listEnded (s : State) (x : Cmd) : Bool :=
  match x.body with
  | .listCall _ _ => !(s.ring x.ring).lists.any (fun l => l.cid == x.cid) && !s.cmds.any (fun y => y.parent == some x.cid)
  | _ => false

/-- LIST_CALLs that have ended write their records, inner before outer (R351). -/
def State.closeLists (fuel : Nat) (s : State) : State :=
  match fuel with
  | 0 => s
  | n + 1 => match s.cmds.find? (fun x => s.listEnded x) with
    | none => s
    | some x => State.closeLists n (s.endCmd x.cid (match x.body with
      | .listCall _ (some k) => endOf stCancelled k
      | _ => endDone))

/-- An admitted command names the session (R404). -/
def Cmd.namesSession (c : Cmd) (n : Nat) : Bool :=
  match c.body with
  | .program p => p.session == n
  | .verify k _ _ _ _ _ => k == n
  | _ => false

/-- A cell operation: PROGRAM_ROWS, ERASE_BASIN, VERIFY (R399). -/
def Cmd.isCellOp (c : Cmd) : Bool := c.opcode == 0x31 || c.opcode == 0x32 || c.opcode == 0x33

/-- The Weight Engine domain goes off when the last session is closed and no cell operation runs or waits (R399,
Table 3-7). -/
def State.wpeIdle (s : State) : State :=
  if s.wpe.sessions.isEmpty && !s.cmds.any Cmd.isCellOp &&
      !s.rings.any (fun e => match e.2.headPacket with
        | some (p, _) => pktOp p == 0x31 || pktOp p == 0x32 || pktOp p == 0x33
        | none => false)
  then { s with wpe := { s.wpe with powered := false } } else s

/-- Sessions whose IMAGE_CLOSE waits for nothing more close, and its record is written (R404). -/
def State.closeSessions (fuel : Nat) (s : State) : State :=
  match fuel with
  | 0 => s
  | n + 1 =>
    match s.wpe.sessions.find? (fun x => x.closing.isSome && !s.cmds.any (fun c => c.namesSession x.num)) with
    | none => s
    | some x =>
      let s1 := { s with wpe := { s.wpe with sessions := s.wpe.sessions.filter (fun y => y.num != x.num) } }
      State.closeSessions n ((s1.endCmd (x.closing.getD 0) endDone).wpeIdle)

/-! ### The head of a ring (R333, R337, R339, R340) -/

/-- LCS_LAST. -/
def State.lcsLast (s : State) (status check : Nat) : State :=
  { s with lcs := { s.lcs with lastStatus := status, lastCheck := check } }

/-- Check 1 of Table 20-4, where the packet alone decides it, is recorded in LCS_LAST (R514). -/
def State.noteLifecycle (s : State) (p : List Byte) (e : End) : State :=
  if pktOp p = 0x52 ∧ [0x10, 0x18, 0x20].any (fun o => e == endParam o) then s.lcsLast stBadParam 1 else s

/-- The record of a packet that is never admitted: START and END are the time it is written (R340). -/
def State.rejectPacket (s : State) (g : Nat) (p : List Byte) (depth n : Nat) (e : End) : State :=
  (((s.noteLifecycle p e).countEnd e.status).updRing g (fun r => r.consume n)).writeRecord g (pktTag p) (pktOp p) (decide (0 < depth))
    (pktIrqNow p) false none s.now48 0 0 e

/-- The LIST_CALLs that the head packet of ring g stands in, innermost first (R348, R349). -/
def State.ancestors (s : State) (g : Nat) : List Nat :=
  match (s.ring g).lists.head? with
  | none => []
  | some l => l.cid :: (((s.cmd? l.cid).bind (fun c => c.parent)).toList)

/-- How the head packet of ring g is rejected without admission: checks 1 to 5, a list overrun, and in DRY (R122). -/
def State.headFault (s : State) (g : Nat) (p : List Byte) : Option End :=
  if (s.ring g).overruns (pktEntries p) then
    some (if pktFlags p / 4 ≠ 0 then endMalformed 3 1 else endMalformed 5 4)
  else match s.checkPacket g p (decide (2 ≤ (s.ancestors g).length)) with
    | some e => some e
    | none => if s.pwr.dev = .dry then some endState else none

/-- A WAIT_FLAG ahead of the head packet holds the ring, and with it the checks of every later packet (R333, R343). -/
def State.ringWaits (s : State) (g : Nat) : Bool :=
  s.cmds.any (fun c => c.ring == g && !c.detached && match c.body with
    | .waitFlag _ _ _ => true
    | _ => false)

/-- The head packet rejected, if it is to be and a completion slot is free. -/
def State.rejectHead (s : State) (g : Nat) : Option State :=
  match (s.ring g).headPacket with
  | none => none
  | some (p, depth) =>
    let r := s.ring g
    let n := pktEntries p
    if s.decodersRun && r.covered n && decide (1 ≤ r.freeSlots) && !s.ringWaits g then
      (s.headFault g p).map (s.rejectPacket g p depth n)
    else none

/-- Head packets rejected while they are to be. -/
def State.settleLoop (fuel : Nat) (s : State) (g : Nat) : State :=
  match fuel with
  | 0 => s
  | n + 1 => match s.rejectHead g with
    | none => s
    | some s' => State.settleLoop n s' g

/-- Packets a ring holds, listed ones included. -/
def Ring.held (r : Ring) : Nat := r.places.length + (r.lists.map (fun l => l.rest.length)).sum

/-- What follows a change of ring g: head packets rejected, lists closed, further fetches issued. -/
def State.settle (s : State) (g : Nat) : State :=
  ((State.settleLoop ((s.ring g).held + 1) s g).closeLists 3).fetchWork

/-- An admitted command ends, with what follows from it for its ring, its list and its session. -/
def State.finish (s : State) (c : Nat) (e : End) : State :=
  match s.cmd? c with
  | none => s
  | some x => (((s.endCmd c e).closeLists 3).closeSessions 4).settle x.ring

/-! ### Admission (R330, R333, R334) -/

/-- No command ahead of the head packet in its ring is still unended; the lists it stands in do not count (R334). -/
def State.earlierEnded (s : State) (g : Nat) : Bool :=
  !s.cmds.any (fun c => c.ring == g && !c.detached && !(s.ancestors g).contains c.cid)

/-- The head packet of ring g, if it is an `op` that passed checks 1 to 5 and may be admitted now; `barrier` says
that the opcode is admitted as if BARRIER = 1. -/
def State.ready (s : State) (g op : Nat) (barrier : Bool) : Option (List Byte) :=
  match (s.ring g).headPacket with
  | none => none
  | some (p, _) =>
    let r := s.ring g
    if pktOp p == op && s.enginesRun && r.covered (pktEntries p) && decide (1 ≤ r.freeSlots) &&
        (s.headFault g p).isNone && !s.ringWaits g && (!(barrier || pktBarrier p) || s.earlierEnded g)
    then some p else none

/-- The head packet of ring g admitted as a command with a body: it leaves the ring and holds a slot (R330). -/
def State.accept (s : State) (g : Nat) (p : List Byte) (body : Body) (deadline : Option Nat) (power : Nat) : State :=
  let r := s.ring g
  let c : Cmd := { cid := s.nextCid, ring := g, tag := pktTag p, opcode := pktOp p, irqNow := pktIrqNow p,
                   parent := r.lists.head?.map (fun l => l.cid), start := s.now48, deadline := deadline, evals := 0,
                   skipped := 0, power := power, detached := false, mir := [], held := none, body := body }
  ({ s with cmds := s.cmds ++ [c], nextCid := s.nextCid + 1 }).updRing g
    (fun r => { r.consume (pktEntries p) with reserved := r.reserved + 1 })

/-- The head packet admitted and ended at once. -/
def State.complete (s : State) (g : Nat) (p : List Byte) (e : End) : State :=
  (s.accept g p .plain none 0).finish s.nextCid e

/-- The meaning of an opcode row: the head packet of ring g, where it is that opcode and may be admitted, is given to
`k`; where not, it waits and the state is unchanged (log 5). -/
def State.onHead (s : State) (g op : Nat) (barrier : Bool) (k : List Byte → State) : State :=
  match s.ready g op barrier with
  | none => s
  | some p => k p

/-! ### Halting and disabling (R327, R359) -/

/-- Fetched and listed packets dropped without records; a LIST_CALL in progress will end CANCELLED with the entries
consumed, once its admitted commands have ended (R327, R351). -/
def State.dropRing (s : State) (g : Nat) : State :=
  let lists := (s.ring g).lists
  let cut (c : Cmd) (n : Nat) : Nat := ((lists.find? (fun l => l.cid == c.cid)).map (fun l => l.consumed)).getD n
  let s1 := { s.updRing g (fun r => { r with places := [], fetching := 0, lists := [] }) with
              slc := { s.slc with waiting := s.slc.waiting.filter (fun x => x != g) }
              cmds := s.cmds.map (fun (c : Cmd) => match c.body with
                | .listCall n none => if c.ring = g then { c with body := .listCall n (some (cut c n)) } else c
                | _ => c) }
  (s1.closeLists 3).ringIdle g

/-- A ring halts (R359): cause and address recorded, its vector and PF device entry 4 signalled, unadmitted packets
dropped; the records of its admitted commands will be discarded. -/
def State.haltRing (s : State) (g cause : Nat) (addr : DWord) : State :=
  let s0 := s.updRing g (fun r => { r with halted := true, haltCause := cause, faultAddr := addr })
  let s1 := if (s.ring g).irqEn then s0.signalRing g else s0
  ((s1.devVec 4).dropRing g).fetchWork

end Sys2Proof.Machine
end

