-- ==== Sys2Proof/Machine/Service.lean ====
section
/-! DEFINITION. Which block answers a host access in which device state (Table 21-3), and the DOZE trigger that an
access is (Table 3-5). -/

namespace Sys2Proof.Machine

/-- The rows of Table 21-3. -/
inductive BlockGroup where
  /-- PWR/CLK and TMR -/
  | island
  /-- SYS, HIF, LCS, AFE, SNT -/
  | host
  /-- RING, SLC, WPE, STR, CSI, CSC/MIR, BIST, KFLAG, KMBX -/
  | engine
  /-- the TER region and BAR4 -/
  | fabric
  /-- BAR2 and VF BAR2 -/
  | doorbell
  deriving DecidableEq, Repr

/-- A block acts on an access, now or once the device has left DOZE; otherwise it reads 0 and discards writes (R528). -/
def State.answers (s : State) (b : BlockGroup) : Bool :=
  match s.pwr.dev with
  | .run => true
  | .economy => true
  | .doze => true
  | .dry =>
    if s.pins.dryDone then b == .island
    else match s.bist.dry with
      | some .drain => true
      | _ => b != .fabric
  | .fault => b == .island || b == .host
  | _ => false

/-- The host interface is there and no start is in progress: a request can reach a BAR (R115, Table 3-7). -/
def State.hostUp (s : State) : Bool :=
  s.pins.role != .member && s.mainLive && s.pwr.dev != .sentry && s.pwr.dev != .off

/-- A DOZE trigger (Table 3-5): it abandons a DOZE entry, or begins the exit to the state left for DOZE (R86). A request for
DOZE whose entry is abandoned reads REFUSED_STATE (DESIGN CHOICE, log 40). -/
def State.touch (s : State) : State :=
  let p := s.pwr
  if p.dozeEntering then
    { s with pwr := { p with dozeEntering := false, reqResult := if p.reqResult = .pending then .refusedState else p.reqResult } }
  else if p.dev = .doze ∧ p.dozeExit = none then { s with pwr := { p with dozeExit := some p.dozeFrom } }
  else s

/-- An access to a block: discarded where the block does not answer; a DOZE trigger outside PWR/CLK and TMR. A write
that arrives in DOZE is applied on arrival and acts when the engines run again (log 5). -/
def State.access (s : State) (b : BlockGroup) (k : State → State) : State :=
  if !s.answers b then s else k (if b = .island then s else s.touch)

/-- A function's BARs decode: Memory Space Enable is 1, for a VF with VF Enable, and no FLR of it is in progress (R318, R322). -/
def State.decodes (s : State) (f : Nat) : Bool :=
  (if f = 0 then s.hif.mse else s.hif.vfEn && s.hif.vfMse) && decide (s.hif.flrEnd.getD f 0 ≤ s.tmr.uptime)

/-- A memory request reaches the BARs of a function. -/
def State.reaches (s : State) (f : Nat) : Bool := s.hostUp && s.decodes f

/-- A violation of a received TLP with its AER error, where the host interface serves. -/
def State.misbehave (s : State) (kind action func : Nat) (tlp : Tlp) : State :=
  if s.hostUp then (s.leaveL1.emit (.aer kind)).vlogTlp kind action func 0xFFFF tlp else s

/-- The header of a request whose row of the table brings none: a free value (log 9, log 43). -/
def State.anyTlp (s : State) : Tlp × State :=
  ({ rid := BitVec.ofInt 16 (Config.freeInt s.free), hdr := BitVec.ofInt 128 (Config.freeInt (s.free + 1)) }, { s with free := s.free + 2 })

/-- A request that no BAR takes: answered with UR where it is a read, and logged (Table 12-7). -/
def State.noBar (s : State) (f : Nat) (isRead : Bool) (tlp : Option Tlp) : State :=
  let x := match tlp with
    | some t => (t, s)
    | none => s.anyTlp
  (if isRead then x.2.emit .ur else x.2).misbehave 0x04 1 f x.1

/-- A write of the host through a BAR of function f, which needs a host interface that has been released. -/
def State.hostAccess (s : State) (f : Nat) (tlp : Option Tlp) (b : BlockGroup) (k : State → State) : State :=
  if !s.hostUp then s else if !s.decodes f then s.noBar f false tlp else s.leaveL1.access b k

/-- A read of the host: the data returned, 0 from a block that does not answer (R528). -/
def State.hostRead (s : State) (f : Nat) (tlp : Option Tlp) (b : BlockGroup) (len : Nat) (k : State → State)
    (data : State → List Byte) : State :=
  if !s.hostUp then s
  else if !s.decodes f then s.noBar f true tlp
  else if !s.answers b then s.leaveL1.emit (.data (List.replicate len 0))
  else s.leaveL1.access b (fun t => (k t).emit (.data (data s)))

/-- A DMA write of an admitted command, under the number of the function that owns its ring: dropped, with one log entry for
the command, while that function may not master or the command is detached (R301, R314, R318). -/
def State.dmaWrite (s : State) (cid : Nat) (addr : DWord) (bytes : List Byte) (relaxed : Bool) : State :=
  match s.cmd? cid with
  | none => s
  | some c =>
    if c.detached || !s.mayMaster (s.ringFunc c.ring) then s.dropResults (some cid) c.ring
    else s.postWrite (s.ringFunc c.ring) addr bytes relaxed none (some (cid, c.ring))

/-- A DMA read of a function, held while it may not master (R314, log 17). -/
def State.dmaRead (s : State) (f : Nat) (addr : DWord) (len : Nat) : State :=
  if s.mayMaster f then s.issueRead f addr len else { s with readQ := s.readQ ++ [(f, addr, len)] }

/-- Held reads of functions that may master again. -/
def State.releaseReads (s : State) : State :=
  (s.readQ.filter (fun r => s.mayMaster r.1)).foldl (fun t r => t.issueRead r.1 r.2.1 r.2.2)
    { s with readQ := s.readQ.filter (fun r => !s.mayMaster r.1) }

/-- A command's data read failed: logged, with its AER error where there is one (Table 12-7). -/
def State.readFailed (s : State) (g kind : Nat) : State :=
  let f := s.ringFunc g
  (if kind = 0x0B then s else s.emit (.aer kind)).vlog kind 3 (s.hif.rid.toNat + f) f g 0

/-- KIND and HALT_CAUSE of a failed read; none for data. -/
def failCode : ReadResult → Option (Nat × Nat)
  | .data _ => none
  | .ur => some (0x0B, 2)
  | .ca => some (0x0B, 3)
  | .poisoned => some (0x0C, 4)
  | .timeout => some (0x0A, 1)

/-- ACCESS_DENIED of a failed data read (Table 13-11). -/
def endRead : End := endAccess 4

/-- The bytes of a read, exactly `n` of them. -/
def readBytes (n : Nat) (bs : List Byte) : List Byte := (bs ++ List.replicate (n - bs.length) 0).take n

/-- The head packet admitted, `k` done, and the command ended. -/
def State.completeWith (s : State) (g : Nat) (p : List Byte) (k : State → State) (e : End) : State :=
  (k (s.accept g p .plain none 0)).finish s.nextCid e

/-- The head packet ended with a refusal of check 6: it is admitted and ends at once without effect (R339). -/
def State.refuse (s : State) (g : Nat) (p : List Byte) (e : End) : State :=
  (s.rejectPacket g p ((s.ring g).lists.length) (pktEntries p) e).settle g

end Sys2Proof.Machine
end

