-- ==== Sys2Proof/Machine/PowerEst.lean ====
section
/-! DEFINITION. Switched domains and the committed-power estimate: terrace staging (R94 to R98), the static part
(R573), contributions and the power check (R100, R376), and the booking of staging time (R361 P). -/

namespace Sys2Proof.Machine

/-! ### Cistern banks -/

/-- Number of this device as graphs name it. -/
def State.me (s : State) : Nat := s.casc.device

/-- A device number that this device answers to: its own, or after a failover also the old active device's (R478). -/
def State.isMe (s : State) (d : Nat) : Bool := d == s.casc.device || s.casc.alsoNum == some d

/-- Bank k of terrace t holds a reserved slot of a loaded graph, or of a shadow, whose slots are reserved as a loaded graph's
are (R94, R230, R471). -/
def State.bankReserved (s : State) (t k : Nat) : Bool :=
  s.graphs.any (fun g => g.slots.any (fun x => s.isMe x.dev && x.ter == t && x.bank == k)) ||
  s.casc.shadows.any (fun g => g.slots.any (fun x => x.ter == t && x.bank == k))

/-- Reserved banks of terrace t. -/
def State.banksReserved (s : State) (t : Nat) : Nat := ((List.range 16).filter (fun k => s.bankReserved t k)).length

/-! ### The estimate (R573, Table 3-8) -/

/-- The static part in tenths of a milliwatt. -/
def State.staticTenths (s : State) : Nat :=
  let base := match s.pwr.dev with
    | .run => 24000
    | .economy => 24000
    | _ => 0
  let ters := ((List.range 64).map (fun t =>
    let n := s.banksReserved t
    if s.terPower t = .good then 400 + 15 * n else n)).sum
  base + ters + 600 * (s.csi.filter (fun p => p.en)).length +
    2500 * (b2n (s.casc.portUp.state == .up) + b2n (s.casc.portDn.state == .up)) + 1500 * b2n s.wpe.powered

/-- WC of a graph at the current FCLK, in ns (R361). -/
def State.wcNs (s : State) (g : Graph) : Nat := if s.pwr.dev = .economy then g.cgd.wcEco else g.cgd.wcRun

/-- Contribution of a graph's run, or of a frame-bound graph: ENERGY_NJ x 1,000 / WC, rounded up (R376). -/
def State.graphPower (s : State) (g : Graph) : Nat := ceilDiv (g.cgd.energy * 1000) (max 1 (s.wcNs g))

/-- A graph's contribution while it is frame-bound, until the last run of its unload (R376). -/
def State.boundPower (s : State) (g : Graph) : Nat := if g.frame.isSome then s.graphPower g else 0

/-- The committed-power estimate, PWR_EST.EST_MW. -/
def State.estimate (s : State) : Nat :=
  ceilDiv s.staticTenths 10 + (s.cmds.map (fun c => c.power)).sum + (s.graphs.map (fun g => s.boundPower g)).sum

/-- PWR_EST.PEAK_MW follows the estimate. -/
def State.notePeak (s : State) : State :=
  { s with pwr := { s.pwr with peak := max s.pwr.peak (min 0xFFFF s.estimate), estFormed := true } }

/-- The ring whose admitted commands and loaded frame-bound graphs contribute most; the lower number on a tie
(Table 14-3). -/
def State.powerHolder (s : State) : Option Nat :=
  let parts := s.cmds.map (fun c => (c.ring, c.power)) ++ s.graphs.map (fun g => (g.loadRing, s.boundPower g))
  let total (r : Nat) : Nat := ((parts.filter (fun x => x.1 == r)).map (fun x => x.2)).sum
  (((parts.filter (fun x => decide (0 < x.2))).map (fun x => x.1)).foldl (fun best r => match best with
    | none => some r
    | some b => if total b < total r ∨ (total r = total b ∧ r < b) then some r else some b) none)

/-- The power check of R100: refused with the holder, or none. -/
def State.powerRefusal (s : State) (mw : Nat) : Option End :=
  if s.pwr.budget < s.estimate + mw then some { endOf stPower 0 with cause := 2, holder := s.powerHolder } else none

/-! ### Terrace staging (R97) -/

/-- Terraces charging now. -/
def State.chargingCount (s : State) : Nat :=
  (s.pwr.terraces.filter (fun p => match p with
    | .charging _ => true
    | _ => false)).length

/-- Waiting terraces start to charge while STAGE_MAX allows (R97). -/
def State.stageMore (fuel : Nat) (s : State) : State :=
  match fuel with
  | 0 => s
  | n + 1 => match s.pwr.stageQ with
    | [] => s
    | t :: q =>
      if s.chargingCount < s.pwr.stageMax then
        State.stageMore n (({ s with pwr := { s.pwr with stageQ := q } }).setTerPower t (.charging s.tmr.uptime))
      else s

/-- Terrace t is needed: an unpowered one is staged (R94, R96). -/
def State.needTerrace (s : State) (t : Nat) : State :=
  if s.terPower t = .off ∧ t < 64 then
    State.stageMore 64 (({ s with pwr := { s.pwr with stageQ := s.pwr.stageQ ++ [t] } }).setTerPower t .staged)
  else s

/-- Every terrace of a list is needed. -/
def State.needTerraces (s : State) (ts : List Nat) : State := (ts.foldl State.needTerrace s).notePeak

/-- Insertion of a number into a rising list. -/
def insertNat (x : Nat) : List Nat → List Nat
  | [] => [x]
  | y :: ys => if x ≤ y then x :: y :: ys else y :: insertNat x ys

/-- Instants, in ns, at which terraces of a queue report good: `free` holds the instants at which staging slots come
free, rising; each terrace takes the earliest and charges for 8 µs (R97). -/
def stageTimes (free : List Nat) : List Nat → List (Nat × Nat)
  | [] => []
  | t :: q => match free with
    | [] => []
    | f :: fs => (t, f + 8000) :: stageTimes (insertNat (f + 8000) fs) q

/-- Staging slots: the instants at which they come free, now for an idle one. -/
def State.stageSlots (s : State) : List Nat :=
  let now := 1000 * s.tmr.uptime
  let busy := s.pwr.terraces.foldl (fun acc p => match p with
    | .charging since => insertNat (max now (1000 * since + 8000)) acc
    | _ => acc) []
  let held := busy.drop (busy.length - s.pwr.stageMax)
  List.replicate (s.pwr.stageMax - held.length) now ++ held

/-- Instant at which terrace t, charging or good, is good. -/
def State.goodAt (s : State) (t : Nat) : Nat :=
  match s.terPower t with
  | .charging since => max (1000 * s.tmr.uptime) (1000 * since + 8000)
  | _ => 1000 * s.tmr.uptime

/-- The terraces of a list that must still be staged. -/
def State.unstaged (s : State) (ts : List Nat) : List Nat :=
  ts.filter (fun t => match s.terPower t with
    | .off => true
    | .staged => true
    | _ => false)

/-- P of R361: the instant at which the terraces are good, counted behind every terrace that waits. -/
def State.stagedBy (s : State) (ts : List Nat) : Nat :=
  let times := stageTimes s.stageSlots (s.pwr.stageQ ++ ts.filter (fun t => s.terPower t == .off))
  (ts.map (fun t => match times.find? (fun x => x.1 == t) with
    | some x => x.2
    | none => s.goodAt t)).foldl max (1000 * s.tmr.uptime)

/-- The same on an otherwise idle fabric: behind the terraces of the list that are powering up already, and no other (check 2 of
Table 14-2). -/
def State.stagedIdle (s : State) (ts : List Nat) : Nat :=
  let own : State := { s with pwr := { s.pwr with terraces := s.pwr.terraces.mapIdx (fun t p => if ts.contains t then p else .off) } }
  let times := stageTimes own.stageSlots (s.unstaged ts)
  (ts.map (fun t => match times.find? (fun x => x.1 == t) with
    | some x => x.2
    | none => s.goodAt t)).foldl max (1000 * s.tmr.uptime)

/-! ### Basin peripheries (R94, R99) -/

/-- An evaluation in flight uses basin n. -/
def State.basinBusy (s : State) (n : Nat) : Bool :=
  s.evals.any (fun e => match (s.graph? e.handle).bind (fun g => g.phys[e.place]?) with
    | some l => l.contains n
    | none => false)

/-- A pre-wake token, or a run's head wake, reaches the periphery of basin n: an unpowered one starts to wake, a powered
one restarts its hold timer, and a busy one is unaffected (R99, R250). -/
def State.wakePeriph (s : State) (n : Nat) : State :=
  if s.basinBusy n then s
  else { s with pwr := { s.pwr with periph := Tab.set s.pwr.periph n (match Tab.get? s.pwr.periph n with
    | some (.good _) => .good true
    | _ => .waking) } }

/-- The token of basin n's periphery is used: the basin evaluates. -/
def State.usePeriph (s : State) (n : Nat) : State :=
  match Tab.get? s.pwr.periph n with
  | some (.good _) => { s with pwr := { s.pwr with periph := Tab.set s.pwr.periph n (.good false) } }
  | _ => s

end Sys2Proof.Machine
end

