-- ==== Sys2Proof/Machine/Link.lean ====
section
/-! DEFINITION. Rill packets as flits and cascade link frames as bits: their layouts, what a port checks of a frame, and the
frames it sends (R247, R448 to R452; byte and bit orders of log 23). -/

namespace Sys2Proof.Machine

/-! ### Packets as flits (R247, Tables 9-4, 9-5) -/

/-- Channel and payload flits (least, most) of a TYPE. -/
def packetType (t : Nat) : Option (Nat × Nat × Nat) :=
  match t with
  | 0x01 => some (0, 1, 16)
  | 0x02 => some (0, 1, 16)
  | 0x03 => some (0, 0, 0)
  | 0x10 => some (1, 0, 0)
  | 0x11 => some (1, 0, 0)
  | 0x12 => some (1, 1, 16)
  | 0x20 => some (2, 0, 1)
  | 0x21 => some (2, 0, 0)
  | 0x22 => some (2, 1, 1)
  | 0x23 => some (2, 0, 0)
  | _ => none

/-- The fields of a header flit, first bit, width and value; every other bit is 0 (R247, Table 9-4). -/
def packetFields (p : Packet) : List (Nat × Nat × Nat) :=
  [(0, 8, p.typ), (8, 2, p.vc), (10, 5, p.flits), (16, 3, p.dstDev), (20, 6, p.dstTer), (26, 1, b2n p.dstEngine),
   (32, 3, p.srcDev), (36, 6, p.srcTer), (42, 1, b2n p.srcEngine), (48, 10, p.slot), (58, 2, p.buf), (64, 7, p.offset),
   (80, 16, p.runSeq), (96, 16, p.graph), (112, 16, p.arg)]

/-- The header flit (R247). -/
def packetHeader (p : Packet) : BitVec 256 :=
  BitVec.ofNat 256 (((packetFields p).map (fun f => f.2.2 % 2 ^ f.2.1 * 2 ^ f.1)).sum)

/-- Payload flit n: bytes 32n to 32n + 31 of the packet's data (R247). -/
def payloadFlit (p : Packet) (n : Nat) : BitVec 256 := BitVec.ofNat 256 (fieldAt p.data (32 * n) 32)

/-- The flits of a packet, its header first. -/
def packetFlits (p : Packet) : List (BitVec 256) := packetHeader p :: (List.range p.flits).map (payloadFlit p)

/-- The packet that a header flit and its payload flits spell. -/
def packetOf (header : BitVec 256) (payload : List (BitVec 256)) : Packet :=
  let f (lo n : Nat) : Nat := bitsAt header.toNat lo n
  { typ := f 0 8, vc := f 8 2, flits := f 10 5, dstDev := f 16 3, dstTer := f 20 6, dstEngine := f 26 1 == 1
    srcDev := f 32 3, srcTer := f 36 6, srcEngine := f 42 1 == 1, slot := f 48 10, buf := f 58 2, offset := f 64 7
    runSeq := f 80 16, graph := f 96 16, arg := f 112 16, data := payload.flatMap (fun x => leBytes 32 x.toNat)
    damage := .none, errTer := 0, errPort := 4 }

/-- TYPE known, VC its own, FLITS in range and the flits received, every field within its bits (Tables 9-4, 9-6). -/
def packetSound (p : Packet) : Bool :=
  match packetType p.typ with
  | none => false
  | some (vc, lo, hi) => p.vc == vc && decide (lo ≤ p.flits) && decide (p.flits ≤ hi) && p.data.length == 32 * p.flits &&
      (packetFields p).all (fun f => decide (f.2.2 < 2 ^ f.2.1))

/-! ### Link frames (R448, R449, Table 18-1) -/

/-- A flit slot's 3 bits of SLOTS: valid and channel. -/
def slotBits (x : Option FlitSlot) : Nat :=
  match x with
  | some y => 1 + 2 * y.chan.val
  | none => 0

/-- Bits [223:0] of the control blocks: SEQ, ACK_SEQ, NAK, SLOTS, CREDITS (Table 18-1). -/
def frameControl (f : LinkFrame) : Nat :=
  f.seq % 4096 + 2 ^ 12 * (f.ack % 4096) + 2 ^ 24 * b2n f.nak +
  2 ^ 25 * ((List.range 7).map (fun i => 8 ^ i * slotBits ((f.slots[i]?).join))).sum +
  2 ^ 46 * ((List.range 4).map (fun i => 64 ^ i * (f.credits.getD i 0 % 64))).sum

/-- The 14 data blocks as bytes: the flit slots, an empty one as 0. -/
def frameData (f : LinkFrame) : List Byte :=
  (List.range 7).flatMap (fun i => leBytes 32 ((((f.slots[i]?).join).map (fun x => x.flit.toNat)).getD 0))

/-- CRC of a frame, over blocks 0 to 13 and bits [223:0] of the control blocks (Table 18-1). -/
def frameCrc (f : LinkFrame) : Word := crc32c (frameData f ++ leBytes 28 (frameControl f))

/-- The 16 blocks of a frame, each a sync header and 128 bits: two for each flit slot, then the control blocks (R448, R449). -/
def frameBlocks (f : LinkFrame) : List (BitVec 4 × BitVec 128) :=
  (List.range 14).map (fun i => (0b1010, BitVec.ofNat 128 (fieldAt (frameData f) (16 * i) 16))) ++
  [(0b0101, BitVec.ofNat 128 (frameControl f)),
   (0b0101, BitVec.ofNat 128 (frameControl f / 2 ^ 128 + 2 ^ 96 * f.crc.toNat))]

/-- Lane of block i: of four, or of two where the port is degraded (R449, R451). -/
def CascPort.lane (p : CascPort) (i : Nat) : Nat := i % (if p.degraded then 2 else 4)

/-- The receiver's checks of a frame hold: every sync header, and the CRC (R450). -/
def frameIntact (f : LinkFrame) : Bool := f.sync && f.crc == frameCrc f

/-! ### A port -/

/-- A cascade port: UP or DOWN. -/
def State.port (s : State) (up : Bool) : CascPort := if up then s.casc.portUp else s.casc.portDn

/-- A cascade port changed. -/
def State.updPort (s : State) (up : Bool) (f : CascPort → CascPort) : State :=
  { s with casc := if up then { s.casc with portUp := f s.casc.portUp } else { s.casc with portDn := f s.casc.portDn } }

/-- The frame that a port sends next, with up to 7 flits: it acknowledges what the port has received, and gives back credits,
63 of a channel at most. -/
def CascPort.nextFrame (p : CascPort) (slots : List FlitSlot) (nak : Bool) : LinkFrame :=
  let f : LinkFrame := { seq := p.txSeq, ack := p.rxSeq, nak := nak, credits := p.owed.map (fun n => min 63 n)
                         slots := (List.range 7).map (fun i => slots[i]?), sync := true, crc := 0 }
  { f with crc := frameCrc f }

/-- A frame sent: kept among the last 64 for a replay (R450). -/
def State.sendFrame (s : State) (up : Bool) (slots : List FlitSlot) (nak : Bool) : State :=
  let f := (s.port up).nextFrame slots nak
  (s.updPort up (fun p => { p with
    txSeq := (p.txSeq + 1) % 4096, owed := p.owed.map (fun n => n - 63)
    replay := (p.replay ++ [f]).drop (p.replay.length + 1 - 64) })).emit (.link up (.frame f))

/-- Flits sent in frames of 7. -/
def State.sendFlits (fuel : Nat) (s : State) (up : Bool) (flits : List FlitSlot) : State :=
  match fuel, flits with
  | 0, _ => s
  | _, [] => s
  | n + 1, fs => State.sendFlits n (s.sendFrame up (fs.take 7) false) up (fs.drop 7)

/-- The flits of packets, each on its channel. -/
def packetSlots (ps : List Packet) : List FlitSlot :=
  ps.flatMap (fun p => (packetFlits p).map (fun x => { chan := Fin.ofNat 4 p.vc, flit := x }))

/-- Packets of the bridge that go while each channel holds credit for all of a packet's flits (R452). -/
def drainBridge (credits : List Nat) : List Packet → List Nat × List Packet × List Packet
  | [] => (credits, [], [])
  | p :: q =>
    let blocked := decide (credits.getD p.vc 0 < 1 + p.flits)
    if blocked then
      let r := drainBridge (credits.set p.vc 0) q
      (r.1.set p.vc (credits.getD p.vc 0), r.2.1, p :: r.2.2)
    else
      let r := drainBridge (credits.set p.vc (credits.getD p.vc 0 - (1 + p.flits))) q
      (r.1, p :: r.2.1, r.2.2)

/-- Two queues merged, one of each in turn. -/
def inTurn {α : Type} : List α → List α → List α
  | [], b => b
  | a, [] => a
  | x :: a, y :: b => x :: y :: inTurn a b

/-- The packets of a port's queue in the order its frames take them: VC1 first, the others packet by packet in round robin
(R452). -/
def CascPort.inOrder (p : CascPort) : List Packet :=
  let vc (n : Nat) : List Packet := p.queue.filter (fun x => x.vc == n)
  vc 1 ++ (if p.lastVc = 0 then inTurn (vc 2) (vc 0) else inTurn (vc 0) (vc 2))

/-- The bridge of a port sends what its credits allow. -/
def State.bridgeSend (s : State) (up : Bool) : State :=
  let port := s.port up
  if port.state ≠ .up then s
  else
    let r := drainBridge port.credits port.inOrder
    let fs := packetSlots r.2.1
    (s.updPort up (fun p => { p with
      credits := r.1, queue := r.2.2
      lastVc := (((r.2.1.filter (fun x => x.vc != 1)).getLast?).map (fun x => x.vc)).getD p.lastVc })).sendFlits fs.length up fs

end Sys2Proof.Machine
end

