-- ==== Sys2Proof/Machine/Rill.lean ====
section
/-! DEFINITION. The rill: routes, sending and receiving packets, buffers and credits, and the engine port's deliveries
(R229 to R253, R381, R464, R466). -/

namespace Sys2Proof.Machine

/-! ### Routes (R241, R242); ports 0 N, 1 E, 2 S, 3 W, 4 local -/

/-- Routers a packet leaves on its way from terrace t to the target terrace, each with its output port. -/
def meshPath (fuel t target : Nat) : List (Nat × Nat) :=
  match fuel with
  | 0 => []
  | n + 1 =>
    if t % 8 < target % 8 then (t, 1) :: meshPath n (t + 1) target
    else if target % 8 < t % 8 then (t, 3) :: meshPath n (t - 1) target
    else if t / 8 < target / 8 then (t, 2) :: meshPath n (t + 8) target
    else if target / 8 < t / 8 then (t, 0) :: meshPath n (t - 8) target
    else []

/-- The whole route inside one device, exit port included. -/
def route (start target exit : Nat) : List (Nat × Nat) := meshPath 16 start target ++ [(target, exit)]

/-- Terrace a packet enters this device's mesh at, by its source (R242). -/
def packetStart (p : Packet) (isMe : Nat → Bool) : Nat :=
  if !isMe p.srcDev then 31 else if p.srcEngine then 24 else p.srcTer

/-- The route of a packet inside this device. -/
def packetRoute (p : Packet) (isMe : Nat → Bool) : List (Nat × Nat) :=
  if !isMe p.dstDev then route (packetStart p isMe) 31 1
  else if p.dstEngine then route (packetStart p isMe) 24 3
  else route (packetStart p isMe) p.dstTer 4

/-- Input port of the next router for an output port. -/
def oppositePort (port : Nat) : Nat := (port + 2) % 4

/-- Port of its first router that a packet comes in by: local, or the link of the engine port or of the bridge (R242). -/
def packetEntry (p : Packet) (isMe : Nat → Bool) : Nat := if !isMe p.srcDev then 1 else if p.srcEngine then 3 else 4

/-- One router on a packet's route: its terrace, the port the packet comes in by and the port it goes out by. -/
structure Hop where
  ter : Nat
  inp : Nat
  out : Nat
  deriving DecidableEq, Repr

/-- The routers a packet crosses in this device: none where the first discards it as malformed, none from the one on that
cannot read its header (R242, Table 9-6). -/
def State.way (s : State) (p : Packet) : List Hop :=
  let r := packetRoute p s.isMe
  let hops := (r.zip (packetEntry p s.isMe :: r.map (fun h => oppositePort h.2))).map (fun x =>
    ({ ter := x.1.1, inp := x.2, out := x.1.2 } : Hop))
  if !packetSound p then []
  else if p.damage = .header then hops.takeWhile (fun h => h.ter != p.errTer.val)
  else hops

/-- A port of a router is moated. -/
def State.portMoated (s : State) (t port : Nat) : Bool :=
  if port = 4 then (s.ter t).moatLocal else (s.ter t).moatPorts.getLsbD port

/-- Some port on the packet's route is moated, as input or as output: a VC0 or VC1 packet waits there (R251). -/
def State.moated (s : State) (p : Packet) : Bool :=
  decide (p.vc < 2) && (s.way p).any (fun h => s.portMoated h.ter h.inp || s.portMoated h.ter h.out)

/-- Nothing bars the packet's route: no moat (R251), and every router on it powered (R96). -/
def State.wayClear (s : State) (p : Packet) : Bool :=
  !s.moated p && (s.way p).all (fun h => s.terPower h.ter == .good)

/-! ### Arbitration (R245, log 45) -/

/-- The packet sent is the one that arrives, whatever the rill has done to it since. -/
def packetCarries (q p : Packet) : Bool :=
  decide ({ q with damage := p.damage, errTer := p.errTer, errPort := p.errPort } = p) &&
  (q.damage == .none || q.damage == p.damage || p.damage == .header)

/-- The packets in transit without one of them. -/
def State.rillLess (s : State) (p : Packet) : List Packet := s.rill.eraseP (fun q => packetCarries q p)

/-- Place of a packet among those in transit, in the order sent. -/
def State.rillPlace (s : State) (p : Packet) : Nat := (s.rill.findIdx? (fun q => packetCarries q p)).getD s.rill.length

/-- Number of an output port. -/
def Hop.port (h : Hop) : Nat := 5 * h.ter + h.out

/-- Where packet q, at hop h', and packet p, at hop h, both wait for one output port, q is served before p: VC1 before all,
VC0 and VC2 in turn, and within a VC the input ports in turn; from one input port in the order sent. -/
def State.servedFirst (s : State) (q p : Packet) (h' h : Hop) (qEarlier : Bool) : Bool :=
  if q.vc = p.vc then
    let last := Tab.getD s.rillIn (3 * h.port + p.vc) 4
    if h'.inp = h.inp then qEarlier else decide ((h'.inp + 4 - last) % 5 < (h.inp + 4 - last) % 5)
  else if q.vc = 1 then true
  else if p.vc = 1 then false
  else Tab.getD s.rillVc h.port 2 == p.vc

/-- A packet that holds an output port of the route before this one may have it: sent before it on the same route and VC, or
ready at one of those ports and served before it there. Which packets are ready when is a free value: the spec gives it by
clock cycles (R243, R248). -/
def State.rillAhead (s : State) (p : Packet) : Option Packet :=
  let place := s.rillPlace p
  (s.rill.zipIdx.find? (fun x =>
    let q := x.1
    let earlier := decide (x.2 < place)
    x.2 != place &&
    ((earlier && q.vc == p.vc && s.way q == s.way p) ||
      (s.way p).any (fun h => (s.way q).any (fun h' =>
        h'.port == h.port && Config.rillReady s.free x.2 h.port && s.servedFirst q p h' h earlier))))).map (fun x => x.1)

/-- It is the packet's turn at every output port of its route. -/
def State.rillTurn (s : State) (p : Packet) : Bool := (s.rillAhead p).isNone

/-! ### Errors (R253) -/

/-- The started run of a graph with a run sequence number. -/
def State.runOf (s : State) (h seq : Nat) : Option Nat :=
  (s.cmds.find? (fun c => match c.body with
    | .run r => r.handle == h && r.begun && r.runSeq == seq
    | _ => false)).map (fun c => c.cid)

/-- A started run has lost or poisoned data, seen at terrace t: it will end with BASIN_FAULT. -/
def State.failRun (s : State) (h seq t : Nat) : State :=
  match s.runOf h seq with
  | none => s
  | some c => s.updRun c (fun r => { r with fault := some (r.fault.getD (basinWord t s.me none)) })

/-- The run of a packet waits behind another packet's: the ring of that packet's run is kept (Table 14-3). -/
def State.noteBehind (s : State) (p : Packet) : State :=
  let run (q : Packet) : Option Nat := s.runOf q.graph q.runSeq
  match run p, ((s.rillAhead p).bind run).bind s.cmd? with
  | some c, some x => s.updRun c (fun r => { r with behind := some x.ring })
  | _, _ => s

/-- Fault handling for a command of ring g delays the runs of a graph, or of every graph whose route it holds (Table 14-3,
R379). -/
def State.delayRuns (s : State) (g : Nat) (which : Run → Bool) : State :=
  { s with cmds := s.cmds.map (fun (c : Cmd) => match c.body with
      | .run r => if which r then { c with body := .run { r with lateCause := 5, faultRing := some g } } else c
      | _ => c) }

/-- A packet is discarded as malformed at terrace t: TER_ERR.BAD_PKT, and its run fails. -/
def State.badPacket (s : State) (p : Packet) (t : Nat) : State :=
  (s.updTer t (fun x => { x with badPkt := true })).failRun p.graph p.runSeq t

/-- TER_ERR of a terrace. -/
def Terrace.err (t : Terrace) : Nat :=
  t.corrected % 4096 + 2 ^ 12 * b2n t.uncorrRill + 2 ^ 13 * b2n t.uncorrCis + 2 ^ 14 * b2n t.badPkt + 2 ^ 16 * (t.errPort % 8)

/-- An uncorrectable error seen at terrace t, noted in its TER_ERR and in the device log (R253, Table 19-10). -/
def State.uncorrectable (s : State) (t : Nat) (f : Terrace → Terrace) : State :=
  let s1 := s.updTer t f
  s1.dlog 4 1 (BitVec.ofNat 32 t) (BitVec.ofNat 64 (s1.ter t).err)

/-- What Table 9-6 does to a packet on its way: none where it is discarded. -/
def State.transit (s : State) (p : Packet) : State × Bool :=
  let t := p.errTer.val
  match p.damage with
  | .header => ((s.uncorrectable t (fun x => { x with uncorrRill := true, errPort := p.errPort.val })).failRun p.graph p.runSeq t, false)
  | .payload => ((s.uncorrectable t (fun x => { x with uncorrRill := true, errPort := p.errPort.val })).failRun p.graph p.runSeq t, true)
  | .corrected => (s.updTer t (fun x => { x with corrected := satInc 0xFFF x.corrected, errPort := p.errPort.val }), true)
  | .poisoned => (s, true)
  | .none => (s, true)

/-- The payload is not sound: an error of the rill in it, or a poisoned buffer it was read from (Table 9-6). -/
def packetBad (p : Packet) : Bool := p.damage == .payload || p.damage == .poisoned

/-! ### Sending -/

/-- A packet crosses one router: its flits counted (TER_RILL_FLITS), and the port's turns taken (R245). -/
def State.crossHop (s : State) (p : Packet) (h : Hop) : State :=
  let t := s.updTer h.ter (fun x => { x with flits := x.flits.modify h.out (fun v => v + BitVec.ofNat 32 (1 + p.flits)) })
  { t with rillVc := if p.vc = 1 then t.rillVc else Tab.set t.rillVc h.port p.vc
           rillIn := Tab.set t.rillIn (3 * h.port + p.vc) h.inp }

/-- A packet has crossed its whole way and is in transit no more. -/
def State.leaveRill (s : State) (p : Packet) : State :=
  (s.way p).foldl (fun t h => t.crossHop p h) { s with rill := s.rillLess p }

/-- A packet at the cascade bridge: by CSC_ROUTE to a port, or discarded with NOROUTE and logged; the spec names no port
for the log entry's words, which are free values (R456, R466, R483, log 9). -/
def State.bridgeOn (s : State) (p : Packet) : State :=
  match s.casc.route.getD p.dstDev 3 with
  | 1 => ({ s with casc := { s.casc with portUp := { s.casc.portUp with queue := s.casc.portUp.queue ++ [p] } } }).bridgeSend true
  | 2 => ({ s with casc := { s.casc with portDn := { s.casc.portDn with queue := s.casc.portDn.queue ++ [p] } } }).bridgeSend false
  | _ => (({ s with casc := { s.casc with noRoute := satInc 0xFFFF s.casc.noRoute }, free := s.free + 1 }).dlog 5 4
      (BitVec.ofInt 32 (Config.freeInt s.free)) (BitVec.ofInt 64 (Config.freeInt s.free))).failRun p.graph p.runSeq 31

/-- A packet of this device handed to the bridge; what a fenced device emits is discarded (R478). -/
def State.bridge (s : State) (p : Packet) : State := if s.casc.fenced then s else s.bridgeOn p

/-- Packets for other devices whose route is clear leave through the bridge, VC1 first, then VC0 and VC2 in turn (R242,
R245). -/
def State.flushBridge (s : State) : State :=
  let out := s.rill.filter (fun p => !s.isMe p.dstDev && s.wayClear p)
  let vc (n : Nat) : List Packet := out.filter (fun p => p.vc == n)
  (vc 1 ++ inTurn (vc 0) (vc 2)).foldl (fun t p => (t.leaveRill p).bridge p) s

/-- A packet in transit: the routers on its route are powered up where they are not (R96). -/
def State.enterRill (s : State) (p : Packet) : State :=
  let s1 := s.needTerraces ((s.way p).map (fun h => h.ter))
  { s1 with rill := s1.rill ++ [p] }

/-- A packet sent into the rill: it is in transit, or at the bridge where its way there is clear. -/
def State.send (s : State) (p : Packet) : State :=
  let s1 := s.enterRill p
  if s.isMe p.dstDev then s1 else s1.flushBridge

/-- A packet of this device with no payload and no slot. -/
def State.bare (s : State) (typ vc : Nat) : Packet :=
  { typ := typ, vc := vc, flits := 0, dstDev := s.me, dstTer := 0, dstEngine := false, srcDev := s.me, srcTer := 0
    srcEngine := false, slot := 0, buf := 0, offset := 0, runSeq := 0, graph := 0, arg := 0, data := []
    damage := .none, errTer := 0, errPort := 4 }

/-- Routers of this device that a graph's edges are routed through. -/
def State.graphRouters (s : State) (g : Graph) : List Nat :=
  g.cgd.edges.flatMap (fun e => match g.cgd.places[e.src]?, g.cgd.slots[e.dst]? with
    | some pl, x =>
      let dev := if e.toPort then 0 else (x.map (fun y => y.dev)).getD 0
      if s.isMe pl.dev || s.isMe dev then
        (packetRoute { s.bare 0x01 0 with srcDev := pl.dev, srcTer := pl.ter, dstDev := dev, dstEngine := e.toPort
                                          dstTer := (x.map (fun y => y.ter)).getD 0 } s.isMe).map (fun h => h.1)
      else []
    | none, _ => [])

/-- An uncorrectable error at terrace t, of a run's packet or buffer: the other runs routed through it are delayed by its handling
(R379, Table 14-3). -/
def State.holdRoute (s : State) (h seq t : Nat) : State :=
  match (s.runOf h seq).bind s.cmd? with
  | none => s
  | some x => s.delayRuns x.ring (fun r => !(r.handle == h && r.runSeq == seq) &&
      (s.graph? r.handle).any (fun g => (s.graphRouters g).contains t))

/-- Bytes padded with 0 to whole 32-byte flits (R232). -/
def padFlits (bs : List Byte) : List Byte := bs ++ List.replicate (32 * ceilDiv bs.length 32 - bs.length) 0

/-! ### Arrival -/

/-- A packet reaches its destination: it waits while a port of its route is moated, a router on it not powered, or another
packet's turn comes first (R96, R245, R251); otherwise it leaves the rill, and what Table 9-6 leaves of it is given to `k`. -/
def State.arrive (s : State) (p : Packet) (k : State → State) : State :=
  if s.moated p then s
  else if !s.wayClear p then s.needTerraces ((s.way p).map (fun h => h.ter))
  else if !s.rillTurn p then { (s.noteBehind p) with free := s.free + 1 }
  else
    let s1 := s.leaveRill p
    if !(packetSound p) then s1.badPacket p (packetStart p s.isMe)
    else
      let d := s1.transit p
      let t := if p.damage = .header ∨ p.damage = .payload then d.1.holdRoute p.graph p.runSeq p.errTer.val else d.1
      if d.2 then k t else t

/-- The loaded graph and index of a cistern slot by its number in a terrace. -/
def State.slotAt (s : State) (t num : Nat) : Option (Graph × Nat) :=
  s.graphs.findSome? (fun g => (g.slots.findIdx? (fun x => s.isMe x.dev && x.ter == t && x.num == num)).map (fun i => (g, i)))

/-- The placement that consumes a slot record (R255). -/
def Graph.consumer (g : Graph) (slot : Nat) : Option Nat := g.cgd.places.findIdx? (fun p => p.inSlot == slot)

/-- A half-line of a placement's input buffer holds a row that a producer writes (R232). -/
def Placement.producerRow (p : Placement) (h : Nat) : Bool :=
  (List.range 32).any (fun i =>
    let r := 32 * h + i
    decide (r < p.fanin - p.biasRows) && !(p.feature && decide (r < 82)) &&
      !(p.laneB != 0xFF && decide (1024 ≤ r) && decide (r < 1106)))

/-- Mask of an empty buffer of `lines` lines: half-lines with no producer row count as written (R232). -/
def Placement.emptyMask (p : Placement) (lines : Nat) : List Bool := (List.range (2 * lines)).map (fun h => !p.producerRow h)

/-- Cistern address of a buffer of a slot (R228, R230). -/
def Slot.addr (x : Slot) (buf : Nat) : Nat := x.ter * 0x100000 + (x.bank * 1024 + x.line0 + buf * x.lines) * 64

/-- Bytes of a buffer. -/
def State.bufferBytes (s : State) (x : Slot) (buf n : Nat) : List Byte := Memory.readN s.cistern (x.addr buf) n

/-- A list entry-wise overwritten from a position. -/
def overlay {α : Type} (l : List α) (at_ : Nat) (new : List α) : List α :=
  l.take at_ ++ new ++ l.drop (at_ + new.length)

/-- Zero map of whole half-lines: one bit per 16 bytes (R232). -/
def zeroMap (bs : List Byte) : List Bool :=
  (List.range (bs.length / 16)).map (fun q => (sliceAt bs (16 * q) 16).all (fun b => b == 0))

/-- A buffer as it takes data of run `seq`: what an earlier run left in its mask and map is gone (R232, R236, log 18). -/
def Buffer.serving (b : Buffer) (empty : List Bool) (seq : Nat) : Buffer :=
  if b.runSeq = seq then b
  else { mask := empty, zmap := List.replicate (2 * empty.length) true, complete := false, poisoned := false, runSeq := seq }

/-- The mask of the buffer that follows a completed one is cleared, unless it already takes the next run's data (R232,
log 18). -/
def Buffer.cleared (b : Buffer) (empty : List Bool) (seq : Nat) : Buffer :=
  if b.runSeq = (seq + 1) % 65536 then b else { b with mask := empty }

/-- Half-lines written into a buffer of an input slot: bytes, mask, zero map, poison; a buffer that becomes complete
clears the mask of the one that follows it (R232, R236). -/
def State.writeBuffer (s : State) (g : Graph) (slot buf half seq : Nat) (bs : List Byte) (poison : Bool) : State :=
  match g.slots[slot]?, (g.consumer slot).bind (fun i => g.cgd.places[i]?) with
  | some x, some pl =>
    let s1 := { s with cistern := Memory.writeN s.cistern (x.addr buf + 32 * half) bs }
    let empty := pl.emptyMask x.lines
    let put (b0 : Buffer) : Buffer :=
      let b := b0.serving empty seq
      let mask := overlay b.mask half (List.replicate (bs.length / 32) true)
      { b with mask := mask, zmap := overlay b.zmap (2 * half) (zeroMap bs)
               poisoned := b.poisoned || poison, complete := b.complete || mask.all (fun v => v) }
    let bufs := x.bufs.modify buf put
    let done := ((bufs[buf]?).map (fun b => b.complete)).getD false &&
      !((x.bufs[buf]?).map (fun b => b.complete && b.runSeq == seq)).getD false
    let bufs' := if done then bufs.modify ((buf + 1) % x.bufs.length) (fun b => b.cleared empty seq) else bufs
    s1.updGraph g.handle (fun g => { g with slots := g.slots.set slot { x with bufs := bufs' } })
  | _, _ => s

/-- An ACT_DATA or TENSOR_DATA packet writes its destination buffer, or is discarded there (R253). -/
def State.writeSlot (s : State) (p : Packet) : State :=
  match s.slotAt p.dstTer p.slot with
  | none => s.badPacket p p.dstTer
  | some (g, i) =>
    match g.slots[i]? with
    | none => s.badPacket p p.dstTer
    | some x =>
      if x.isOut ∨ x.bufs.length ≤ p.buf ∨ 2 * x.lines < p.offset + p.flits then s.badPacket p p.dstTer
      else s.writeBuffer g i p.buf p.offset p.runSeq p.data (packetBad p)

/-! ### Credits -/

/-- A CREDIT packet to whoever writes through index `idx` of a graph: an edge's producer, or the engine port for a
port delivery (R237, R381); `seq` is the run whose data frees the space. -/
def State.sendCredit (s : State) (g : Graph) (idx fromTer : Nat) (fromEngine : Bool) (seq : Nat) : State :=
  let base := { s.bare 0x10 1 with srcTer := fromTer, srcEngine := fromEngine, runSeq := seq % 65536, graph := g.handle, arg := idx }
  match g.cgd.edges[idx]? with
  | some e => match g.cgd.places[e.src]? with
    | some pl => s.send { base with dstDev := pl.dev, dstTer := pl.ter }
    | none => s
  | none => s.send { base with dstDev := 0, dstEngine := true }

/-- Credit indices of everything that writes into a slot: edges, then port deliveries (R237, R267). -/
def Graph.writers (g : Graph) (slot : Nat) : List Nat :=
  (List.range g.cgd.edges.length).filter (fun i => match g.cgd.edges[i]? with
    | some e => !e.toPort && e.dst == slot
    | none => false) ++
  ((List.range g.cgd.ports.length).filter (fun i => match g.cgd.ports[i]? with
    | some o => (o.kind == 0 || o.kind == 2) && o.slot == slot
    | none => false)).map (fun i => g.cgd.edges.length + i)

/-! ### Port deliveries from the engine port (R249, R267) -/

/-- The TENSOR_DATA packets of a port's tensor: 512 bytes each, from half-line 0 of the slot. -/
def State.tensorPackets (s : State) (g : Graph) (x : Slot) (seq : Nat) (bs : List Byte) : List Packet :=
  let padded := padFlits bs
  (List.range (ceilDiv padded.length 512)).map (fun i =>
    let d := sliceAt padded (512 * i) 512
    { s.bare 0x02 0 with flits := d.length / 32, dstDev := x.dev, dstTer := x.ter, srcEngine := true, slot := x.num,
                         buf := seq % max 1 x.bufs.length, offset := 16 * i, runSeq := seq, graph := g.handle, data := d })

/-- Tensors waiting at the engine port for graph h sent while their port holds a credit, oldest first. -/
def State.deliverPorts (fuel : Nat) (s : State) (h : Nat) : State :=
  match fuel with
  | 0 => s
  | n + 1 =>
    match s.graph? h with
    | none => s
    | some g =>
      let ready (d : PortData) : Bool :=
        (match g.cgd.ports[d.port]? with
          | some o => o.kind == 0 || o.kind == 2
          | none => false) && decide (0 < g.credit.getD (g.cgd.edges.length + d.port) 0)
      match g.ports.find? ready with
      | none => s
      | some d =>
        match (g.cgd.ports[d.port]?).bind (fun o => g.slots[o.slot]?) with
        | none => s
        | some x =>
          let s1 := s.updGraph h (fun g => { g with ports := g.ports.erase d
                                                    credit := g.credit.modify (g.cgd.edges.length + d.port) (fun c => c - 1) })
          State.deliverPorts n ((s.tensorPackets g x d.runSeq d.bytes).foldl State.send s1) h

/-- A tensor put at the engine port for a run, and sent when its credit is held. -/
def State.portData (s : State) (h port seq : Nat) (bs : List Byte) : State :=
  (s.updGraph h (fun g => { g with ports := g.ports ++ [{ port := port, runSeq := seq, bytes := bs }] })).deliverPorts 64 h

/-! ### The engine port (R381) -/

/-- The edge that a packet to the engine port travels on. -/
def Graph.portEdge (g : Graph) (p : Packet) : Option Nat :=
  g.cgd.edges.findIdx? (fun e => e.toPort && e.dst == p.slot && e.halfOff == p.offset &&
    (match g.cgd.places[e.src]? with
      | some pl => pl.dev == p.srcDev && pl.ter == p.srcTer
      | none => false))

/-- The run of a command has edge e's output written or discarded at its port. -/
def Run.portDone (r : Run) (e : Nat) : Run := { r with doneT := r.doneT ++ [e] }

/-- The run sequence number of a command, where it is a run. -/
def State.seqOf (s : State) (cid : Nat) : Nat :=
  match (s.cmd? cid).map Cmd.body with
  | some (.run r) => r.runSeq
  | _ => 0

/-- A posted write is issued, or dropped: what waited for it in the engine port is done, and its credit returns (R381, R386). -/
def State.postDone (s : State) (p : Posted) : State :=
  match p.credit with
  | none => s
  | some (h, e) =>
    let cid := p.src.map (fun x => x.1)
    let s1 := match cid with
      | some c => s.updRun c (fun r => r.portDone e)
      | none => s
    match s1.graph? h with
    | some g => s1.sendCredit g e 24 true ((cid.map s.seqOf).getD 0)
    | none => s1

/-- A tensor output issued as posted writes to the run's staged buffer. Its credit returns when the last is issued, and so
does the run's end; writes that wait for the host's flow-control credit make a late end the host's (R386, Table 14-3). -/
def State.writeOutput (s : State) (cid ring : Nat) (addr : DWord) (bytes : List Byte) (credit : Nat × Nat) : State :=
  let s1 := s.postWrite (s.ringFunc ring) addr bytes true (some credit) (some (cid, ring))
  if s.postQ.length < s1.postQ.length then s1.updRun cid (fun r => { r with lateCause := 0 })
  else s1.postDone { e := .dma (s.ringFunc ring) addr bytes, credit := some credit, src := some (cid, ring) }

/-- Stream data kept at the engine port for its unit (R427). -/
def Graph.keepUnit (g : Graph) (p : Packet) : Graph :=
  let here (d : PortData) : Bool := d.port == p.slot && d.runSeq == p.runSeq
  let old := ((g.ports.find? here).map (fun d => d.bytes)).getD []
  let base := old ++ List.replicate (32 * p.offset - old.length) 0
  { g with ports := g.ports.filter (fun d => !here d) ++
      [{ port := p.slot, runSeq := p.runSeq, bytes := overlay base (32 * p.offset) p.data }] }

/-- An output packet at the engine port: a TENSOR_OUT edge's data goes to the run's staged buffer by DMA and its credit
returns, or it is discarded with its credit, with a log entry where the function may not master (R314, R347, R381); a stream
port keeps the data for its unit (R427), and without a started stream discards it and ends the run with UNDERRUN (R428). -/
def State.engineData (s : State) (p : Packet) : State :=
  match s.graph? p.graph with
  | none => s.badPacket p 24
  | some g =>
    match g.portEdge p, g.cgd.ports[p.slot]? with
    | some e, some o =>
      let run := s.runOf p.graph p.runSeq
      let upd (s : State) (f : Run → Run) : State := match run with
        | some c => s.updRun c f
        | none => s
      let discard (s : State) : State := (upd s (fun r => r.portDone e)).sendCredit g e 24 true p.runSeq
      if o.kind = 3 then
        (if s.str.s.any (fun x => x.started && x.handle == p.graph && x.port == p.slot) then
          (upd s (fun r => r.portDone e)).updGraph g.handle (fun g => g.keepUnit p)
        else discard (upd s (fun r => { r with underrun := some (min p.slot (r.underrun.getD p.slot)) })))
      else
        match run.bind s.cmd? with
        | none => discard s
        | some c =>
          match c.body with
          | .run r =>
            match (r.bufs.find? (fun b => b.1 == p.slot)).bind (fun b => b.2) with
            | none => discard s
            | some a =>
              if packetBad p then discard s
              else if c.detached ∨ !s.mayMaster (s.ringFunc c.ring) then discard (s.dropResults (some c.cid) c.ring)
              else s.writeOutput c.cid c.ring (a + BitVec.ofNat 64 (32 * p.offset)) (p.data.take (o.bytes - 32 * p.offset))
                (g.handle, e)
          | _ => discard s
    | _, _ => s.badPacket p 24

/-! ### Arriving packets -/

/-- ACT_DATA: half-lines into an input buffer, or an output at the engine port (R232, R381). -/
def execActData (p : Packet) (s : State) : Host.Outcome State Fault Refusal :=
  .next (s.arrive p (fun s => if p.typ ≠ 0x01 then s.badPacket p (packetStart p s.isMe)
    else if p.dstEngine then s.engineData p else s.writeSlot p))

/-- TENSOR_DATA: an input buffer from TENSOR_IN, intake or recurrence (R232). -/
def execTensorData (p : Packet) (s : State) : Host.Outcome State Fault Refusal :=
  .next (s.arrive p (fun s => if p.typ ≠ 0x02 ∨ p.dstEngine then s.badPacket p (packetStart p s.isMe) else s.writeSlot p))

/-- The places that a READ_REQ of this device's engine port reserves before it is issued, one per READ_DATA (R246, R382). -/
def readPlaces (p : Packet) (n : Nat) : List ReadPlace :=
  (List.range n).map (fun i =>
    { dev := p.dstDev, ter := p.dstTer, slot := p.slot, buf := p.buf, offset := 16 * i, dest := p.arg })

/-- READ_REQ: the named buffer returned as READ_DATA into the space the request reserved (R246). -/
def execReadReq (p : Packet) (s : State) : Host.Outcome State Fault Refusal :=
  .next (s.arrive p (fun s =>
    if p.typ ≠ 0x03 then s.badPacket p (packetStart p s.isMe)
    else match (s.slotAt p.dstTer p.slot).bind (fun gi => gi.1.slots[gi.2]?) with
      | none => s.badPacket p p.dstTer
      | some x =>
        if x.bufs.length ≤ p.buf then s.badPacket p p.dstTer
        else
          let bs := s.bufferBytes x p.buf (64 * x.lines)
          let n := ceilDiv bs.length 512
          let mine := p.srcEngine && s.isMe p.srcDev
          (List.range n).foldl (fun t i =>
            let d := sliceAt bs (512 * i) 512
            t.send { s.bare 0x12 1 with flits := d.length / 32, dstDev := p.srcDev, dstEngine := true, srcDev := p.dstDev
                                        srcTer := p.dstTer, slot := p.slot, buf := p.buf, offset := 16 * i, runSeq := p.runSeq
                                        graph := p.graph, data := d })
            { s with readSpace := if mine then s.readSpace ++ readPlaces p n else s.readSpace }))

/-- The place reserved for a READ_DATA. -/
def State.readPlace? (s : State) (p : Packet) : Option ReadPlace :=
  s.readSpace.find? (fun x => x.dev == p.srcDev && x.ter == p.srcTer && x.slot == p.slot && x.buf == p.buf && x.offset == p.offset)

/-- READ_DATA: the engine-port space that its READ_REQ reserved takes the data and passes it on; without such space it is a
write into what nothing reserved (R246, Tables 9-6, 15-1). -/
def execReadData (p : Packet) (s : State) : Host.Outcome State Fault Refusal :=
  .next (s.arrive p (fun s =>
    if p.typ ≠ 0x12 ∨ !p.dstEngine then s.badPacket p (packetStart p s.isMe)
    else match s.readPlace? p with
      | none => s.badPacket p 24
      | some x => ({ s with readSpace := s.readSpace.erase x } : State).emit (.data p.data)))

/-- CREDIT: the edge credit of edge ARG incremented (R238); at the engine port, a waiting tensor may now go. -/
def execCredit (p : Packet) (s : State) : Host.Outcome State Fault Refusal :=
  .next (s.arrive p (fun s =>
    if p.typ ≠ 0x10 then s.badPacket p (packetStart p s.isMe)
    else (s.updGraph p.graph (fun g => { g with credit := g.credit.modify p.arg (fun c => c + 1) })).deliverPorts 64 p.graph))

/-- Physical basins of the placement of a loaded graph that holds a logical slot of a terrace; else the basin that the
map-out table gives the slot (R99, R270). -/
def State.wakeTargets (s : State) (t slot : Nat) : List Nat :=
  match s.graphs.findSome? (fun g => (g.cgd.places.findIdx? (fun pl =>
      s.isMe pl.dev && pl.ter == t && (pl.slots.take pl.gang).contains slot)).bind (fun i => g.phys[i]?)) with
  | some l => l
  | none => (s.physOf t slot).toList

/-- PREWAKE: the periphery of slot ARG, and with it those of its ganged set, wakes or holds (R99, R250). -/
def execPrewake (p : Packet) (s : State) : Host.Outcome State Fault Refusal :=
  .next (s.arrive p (fun s =>
    if p.typ ≠ 0x11 then s.badPacket p (packetStart p s.isMe)
    else (s.wakeTargets p.dstTer p.arg).foldl State.wakePeriph s))

/-- MOAT_SET: the moat set (ARG bit 8) or cleared on the ports that ARG[4:0] names, N E S W local (R251, log 15). -/
def execMoatSet (p : Packet) (s : State) : Host.Outcome State Fault Refusal :=
  .next (s.arrive p (fun s =>
    if p.typ ≠ 0x23 then s.badPacket p (packetStart p s.isMe)
    else
      let on := bitAt p.arg 8
      let mask : BitVec 4 := BitVec.ofNat 4 (p.arg % 16)
      (s.updTer p.dstTer (fun x =>
        { x with moatPorts := if on then x.moatPorts ||| mask else x.moatPorts &&& ~~~mask
                 moatLocal := if bitAt p.arg 4 then on else x.moatLocal })).flushBridge))

/-! ### Forwarding (R238 to R240) -/

/-- An edge of a graph can be sent on now. -/
def Graph.edgeOpen (g : Graph) (e : Nat) : Bool := decide (0 < g.credit.getD e 0)

/-- The next transfer of terrace t's forwarder: oldest buffer first, edges in descriptor order, passing only edges
without credit; an older buffer that still waits on an edge keeps a later one off that edge (R239). -/
def State.nextForward (s : State) (t : Nat) : Option (Forward × Nat) :=
  let mine := s.fwds.filter (fun f => match (s.graph? f.handle).bind (fun g => g.cgd.places[f.place]?) with
    | some pl => pl.ter == t && s.isMe pl.dev
    | none => false)
  mine.findSome? (fun f => match s.graph? f.handle with
    | none => none
    | some g => (f.edges.find? (fun e => g.edgeOpen e &&
        ((mine.find? (fun f' => f'.handle == f.handle && f'.edges.contains e)) == some f))).map (fun e => (f, e)))

/-- The packet of one edge for one output buffer (R239, R247, R260). -/
def State.edgePacket (s : State) (g : Graph) (pl : Placement) (f : Forward) (e : EdgeRec) (bad : Bool) : Option Packet :=
  match g.slots[pl.outSlot]? with
  | none => none
  | some x =>
    let d := padFlits (Memory.readN s.cistern (x.addr f.buf + e.colFirst) e.colCount)
    let base := { s.bare 0x01 0 with flits := d.length / 32, srcDev := pl.dev, srcTer := pl.ter, offset := e.halfOff, graph := g.handle
                                     data := d, damage := if bad then .poisoned else .none
                                     errTer := Fin.ofNat 64 pl.ter }
    if e.toPort then some { base with dstDev := 0, dstEngine := true, slot := e.dst, runSeq := f.runSeq }
    else match g.slots[e.dst]? with
      | none => none
      | some y =>
        let seq := (f.runSeq + b2n e.delay) % 65536
        some { base with dstDev := y.dev, dstTer := y.ter, slot := y.num, buf := seq % max 1 y.bufs.length, runSeq := seq }

/-- FORWARD_PACKET: the packet of an edge leaves, taking its credit; after the last edge the output buffer and its
credit return (R238 to R240). `cis`: 0 the line read was sound, 1 corrected, 2 uncorrectable. -/
def execForwardPacket (handle place edge : Nat) (cis : Fin 3) (s : State) : Host.Outcome State Fault Refusal :=
  .next (
    match s.graph? handle with
    | none => s
    | some g =>
      match g.cgd.places[place]?, g.cgd.edges[edge]? with
      | some pl, some e =>
        match s.nextForward pl.ter with
        | none => s
        | some (f, i) =>
          if f.handle ≠ handle ∨ f.place ≠ place ∨ i ≠ edge ∨ s.terPower pl.ter ≠ .good then s
          else match s.edgePacket g pl f e (cis.val == 2) with
            | none => s
            | some p =>
              let s1 := match cis.val with
                | 1 => s.updTer pl.ter (fun x => { x with corrected := satInc 0xFFF x.corrected })
                | 2 => (s.uncorrectable pl.ter (fun x => { x with uncorrCis := true })).failRun handle f.runSeq pl.ter |>.holdRoute handle f.runSeq pl.ter
                | _ => s
              let f' := { f with edges := f.edges.erase edge }
              let last := f'.edges.isEmpty
              let s2 := { s1 with fwds := if last then s1.fwds.erase f else s1.fwds.map (fun x => if x == f then f' else x) }
              let s3 := s2.updGraph handle (fun g =>
                { g with credit := g.credit.modify edge (fun c => c - 1)
                         score := if last then g.score.modify place (fun z => { z with outCredits := z.outCredits + 1 })
                                  else g.score })
              s3.send p
      | _, _ => s)

end Sys2Proof.Machine
end

