-- ==== Sys2Proof/Machine/MirrorOps.lean ====
section
/-! DEFINITION. Mirror records as the active device emits them (R468 to R475), and the release of commands that wait
for their acknowledgement. The master accounts for the same records, and the active device alone sends them. -/

namespace Sys2Proof.Machine

/-- The 32-byte header of a mirror record of pair k (Table 18-4). -/
def MirOut.header (m : MirOut) (k : Nat) : List Byte :=
  leBytes 6 m.seq ++ leBytes 2 (m.payload.length + (if m.typ = 0x20 then 16 else 0)) ++ leBytes 1 m.typ ++ leBytes 1 (b2n m.first + 2 * b2n m.last) ++
  leBytes 2 m.ring ++ leBytes 2 m.tag ++ leBytes 1 m.opcode ++ leBytes 1 k ++ leBytes 2 m.handle ++ leBytes 2 m.runSeq ++
  leBytes 6 (m.uptime % 2 ^ 48) ++ leBytes 6 0

/-- The nonce of an encrypted record: SEQ, PAIR and five zero bytes (R519). -/
def mirNonce (seq k : Nat) : List Byte := leBytes 6 seq ++ leBytes 1 k ++ leBytes 5 0

/-- A PROGRAM_BATCH payload: terrace, slot, first row, row count in clear (log 16), then the rows. -/
def batchClear : Nat := 5

/-- The payload as sent: the rows of a PROGRAM_BATCH are encrypted under the pair key, the header authenticated (R519). -/
def MirOut.sealed (m : MirOut) (k : Nat) (key : List Byte) : List Byte :=
  if m.typ = 0x20 then
    m.payload.take batchClear ++ Config.gcmSeal key (mirNonce m.seq k) (m.header k) (m.payload.drop batchClear)
  else m.payload

/-- A whole mirror record, its CRC over header and payload (R469). -/
def MirOut.bytes (m : MirOut) (k : Nat) (key : List Byte) : List Byte :=
  let body := m.header k ++ m.sealed k key
  body ++ leBytes 4 (crc32c body).toNat

/-- Direction of a device number in CSC_ROUTE: UP, else DOWN. -/
def State.routesUp (s : State) (dev : Nat) : Bool := s.casc.route.getD dev 3 == 1

/-- Queued records of pair k emitted while the window allows (R475). -/
def State.mirrorPump (fuel : Nat) (s : State) (k : Nat) : State :=
  match fuel with
  | 0 => s
  | n + 1 =>
    let p := s.pair k
    match p.queue with
    | [] => s
    | m :: q =>
      if (p.state = 2 ∨ p.state = 3) ∧ p.window.length < s.casc.window then
        let m' := { m with uptime := s.tmr.uptime }
        let s1 := s.updPair k (fun p => { p with queue := q, window := p.window ++ [m'], emitted := m.seq + 1 })
        let s2 := if s.me = p.active ∧ s.pins.role ≠ .single
          then s1.emit (.link (s.routesUp p.standby) (.mirror (m'.bytes k (p.key.getD [])))) else s1
        State.mirrorPump n s2 k
      else s

/-- Number of records of pair k emitted or queued: the next SEQ (R469). -/
def Pair.nextSeq (p : Pair) : Nat := p.emitted + p.queue.length

/-- Records of one command put into pair k's queue, the first marked FIRST and the last LAST. Each part is TYPE,
payload and the basin it touches. -/
def State.mirrorPush (s : State) (k ring tag opcode handle runSeq : Nat)
    (parts : List (Nat × List Byte × Option (Nat × Nat))) (cmdFirst cmdLast : Bool) : State :=
  let base := (s.pair k).nextSeq
  let recs := parts.mapIdx (fun i x =>
    ({ seq := base + i, typ := x.1, first := cmdFirst && i == 0, last := cmdLast && i + 1 == parts.length, ring := ring
       tag := tag, opcode := opcode, handle := handle, runSeq := runSeq, uptime := 0, payload := x.2.1
       basin := x.2.2 } : MirOut))
  (s.updPair k (fun p => { p with queue := p.queue ++ recs })).mirrorPump 128 k

/-- The pairs that mirror, or will mirror once their snapshot is sent, whose active device is one of the devices. -/
def State.pairsFor (s : State) (devs : List Nat) : List Nat :=
  (List.range 3).filter (fun k => ((s.pair k).state == 2 || (s.pair k).state == 3) && devs.contains (s.pair k).active)

/-- Records of admitted command c for every pair concerned; with the LAST record the command waits for it (R474). -/
def State.mirrorCmd (s : State) (c : Nat) (devs : List Nat) (handle runSeq : Nat)
    (parts : Nat → List (Nat × List Byte × Option (Nat × Nat))) (cmdFirst cmdLast : Bool) : State :=
  match s.cmd? c with
  | none => s
  | some x =>
    (s.pairsFor devs).foldl (fun t k =>
      let ps := parts k
      let t1 := t.mirrorPush k x.ring x.tag x.opcode handle runSeq ps cmdFirst cmdLast
      if cmdLast then t1.updCmd c (fun y => { y with mir := y.mir ++ [(k, (t.pair k).nextSeq + ps.length)] }) else t1) s

/-- Devices a graph has placements on. -/
def Graph.devs (g : Graph) : List Nat := (g.cgd.places.map (fun p => p.dev)).eraseDups

/-- Bytes cut into pieces of `n`. -/
def chunks (n : Nat) (bs : List Byte) : List (List Byte) :=
  (List.range (max 1 (ceilDiv bs.length n))).map (fun i => sliceAt bs (n * i) n)

/-- Commands that no longer wait for mirroring end (R474). -/
def State.releaseHeld (fuel : Nat) (s : State) : State :=
  match fuel with
  | 0 => s
  | n + 1 =>
    match s.cmds.find? (fun c => c.held.isSome && !s.mirrorHolds c) with
    | none => s
    | some c => State.releaseHeld n ((s.updCmd c.cid (fun y => { y with mir := [] })).finish c.cid (c.held.getD endDone))

/-- Every mirroring ends without a failover, and the pairing or failover that waited ends: at DRY entry and where the
main domain stops (R461, R519). -/
def State.mirrorStop (s : State) : State :=
  let waits := s.casc.pairs.flatMap (fun (p : Pair) => p.snapCid.toList ++ p.failCid.toList)
  let s0 := waits.foldl (fun t c => t.finish c endState) s
  let s1 := { s0 with casc := { s0.casc with pairs := List.replicate 3 Pair.initial, pendAct := none } }
  s1.releaseHeld (s1.cmds.length + 1)

/-- The sluice's allowance for a synchronous pair (R474), in ns, for a command on the devices. -/
def State.syncAllowNs (s : State) (devs : List Nat) : Nat :=
  if (s.pairsFor devs).any (fun k => !(s.pair k).async) then s.casc.syncAllow else 0

/-- Admission of mirrored commands is stopped by an OP 3 that drains the pair (R479). -/
def State.mirrorStopped (s : State) (devs : List Nat) : Bool :=
  (s.pairsFor devs).any (fun k => (s.pair k).failCid.isSome)

end Sys2Proof.Machine
end

