-- ==== Sys2Proof/Machine/Cgd.lean ====
section
/-! DEFINITION. The Cusol Graph Descriptor: its layout and checks 1 to 5 of GRAPH_LOAD, which need no device state
(R254 to R268, R208 to R220, R249, R465). -/

namespace Sys2Proof.Machine

/-- A failed check: its code, table, index and status (R268). -/
structure LoadFail where
  check : Nat
  table : Nat
  index : Nat
  status : Nat
  deriving DecidableEq, Repr

/-- The end of a GRAPH_LOAD that failed a check (Table 13-11). -/
def LoadFail.toEnd (f : LoadFail) : End := endOf f.status (f.check * 2 ^ 28 + f.table * 2 ^ 26 + f.index)

/-- A failure that lies in the header or concerns no single record. -/
def headFail (check status : Nat) : LoadFail := { check := check, table := 0, index := 0xFFFF, status := status }

/-- The first record of a table that a predicate finds bad. -/
def firstBad {α : Type} (l : List α) (bad : Nat → α → Bool) : Option Nat :=
  (l.mapIdx (fun i x => (i, bad i x))).findSome? (fun e => if e.2 then some e.1 else none)

/-- The failure of a check at the first bad record of a table. -/
def tableFail {α : Type} (check status table : Nat) (l : List α) (bad : Nat → α → Bool) : Option LoadFail :=
  (firstBad l bad).map (fun i => { check := check, table := table, index := i, status := status })

/-! ### Layout (Tables 10-1 to 10-5) -/

/-- The records of a table: offset field, count field, record size. -/
def cgdTable (b : List Byte) (offAt countAt size : Nat) : List (List Byte) :=
  (List.range (fieldAt b countAt 2)).map (fun i => sliceAt b (fieldAt b offAt 4 + size * i) size)

/-- Offset field, count field and record size of the four tables. -/
def cgdTables : List (Nat × Nat × Nat) := [(0x1C, 0x12, 96), (0x20, 0x14, 16), (0x24, 0x16, 16), (0x28, 0x18, 16)]

def parsePlace (r : List Byte) : Placement :=
  let flags := fieldAt r 0x02 2
  { layer := fieldAt r 0x00 2, signedIn := bitAt flags 0, feature := bitAt flags 1, offIn := bitAt flags 2
    offOut := bitAt flags 3, dev := fieldAt r 0x04 1, ter := fieldAt r 0x05 1, gang := fieldAt r 0x06 1
    lane := fieldAt r 0x07 1, slots := (sliceAt r 0x08 4).map (fun b => b.toNat), fanin := fieldAt r 0x0C 2
    cols := fieldAt r 0x0E 2, colBase := fieldAt r 0x10 2, group := fieldAt r 0x12 1, p := fieldAt r 0x13 1
    q := fieldAt r 0x14 1, scale := fieldAt r 0x15 1, thetaZ := fieldAt r 0x16 1, biasRows := fieldAt r 0x17 1
    step := fieldAt r 0x18 2, inSlot := fieldAt r 0x1A 2, outSlot := fieldAt r 0x1C 2, edgeFirst := fieldAt r 0x1E 2
    edgeCount := fieldAt r 0x20 1, rf := fieldAt r 0x21 1, laneB := fieldAt r 0x22 1, wCycles := fieldAt r 0x24 4
    doneRun := fieldAt r 0x28 4, doneEco := fieldAt r 0x2C 4
    tags := (List.range 4).map (fun m => BitVec.ofNat 64 (fieldAt r (0x30 + 8 * m) 8)) }

def parseSlot (r : List Byte) : SlotRec :=
  { dev := fieldAt r 0 1, ter := fieldAt r 1 1, isOut := fieldAt r 2 1 == 1, bufs := fieldAt r 3 1
    lines := fieldAt r 4 1, bank := fieldAt r 5 1 }

def parseEdge (r : List Byte) : EdgeRec :=
  { src := fieldAt r 0x00 2, colFirst := fieldAt r 0x02 2, colCount := fieldAt r 0x04 2, toPort := fieldAt r 0x06 1 == 1
    delay := fieldAt r 0x07 1 == 1, dst := fieldAt r 0x08 2, halfOff := fieldAt r 0x0A 1, hops := fieldAt r 0x0B 1
    allow := fieldAt r 0x0C 2 }

def parsePort (r : List Byte) : PortRec :=
  { kind := fieldAt r 0 1, unit := fieldAt r 1 1, slot := fieldAt r 2 2, bytes := fieldAt r 4 4 }

/-- The CGD that the bytes hold. -/
def parseCgd (b : List Byte) : Cgd :=
  { devices := fieldAt b 0x10 1, wcRun := fieldAt b 0x2C 4, wcEco := fieldAt b 0x30 4, energy := fieldAt b 0x34 4
    imageId := fieldAt b 0x38 4, places := (cgdTable b 0x1C 0x12 96).map parsePlace
    edges := (cgdTable b 0x20 0x14 16).map parseEdge, slots := (cgdTable b 0x24 0x16 16).map parseSlot
    ports := (cgdTable b 0x28 0x18 16).map parsePort }

/-! ### Check 1 -/

/-- Every byte of a field is 0. -/
def zeroField (r : List Byte) (off n : Nat) : Bool := fieldAt r off n == 0

/-- A table lies inside the CGD after its header, on a 16-byte boundary. -/
def tablePlaced (b : List Byte) (t : Nat × Nat × Nat) : Bool :=
  let off := fieldAt b t.1 4
  decide (0x40 ≤ off) && off % 16 == 0 && decide (off + fieldAt b t.2.1 2 * t.2.2 ≤ fieldAt b 0x08 4)

/-- Two tables share a byte. -/
def tablesMeet (b : List Byte) (t u : Nat × Nat × Nat) : Bool :=
  let lo (x : Nat × Nat × Nat) : Nat := fieldAt b x.1 4
  let hi (x : Nat × Nat × Nat) : Nat := fieldAt b x.1 4 + fieldAt b x.2.1 2 * x.2.2
  decide (max (lo t) (lo u) < min (hi t) (hi u))

/-- CRC-32C over the CGD with its CRC field taken as 0 (Table 10-1). -/
def cgdCrc (b : List Byte) : Word := crc32c (b.take 0x0C ++ leBytes 4 0 ++ b.drop 0x10)

/-- Check 1 on the header of a CGD of `len` bytes. -/
def cgdHeaderOk (b : List Byte) (len : Nat) : Bool :=
  fieldAt b 0x00 4 == 0x4447434B && fieldAt b 0x04 2 == 1 && fieldAt b 0x08 4 == len &&
  fieldAt b 0x0C 4 == (cgdCrc b).toNat && cgdTables.all (fun t => tablePlaced b t) &&
  cgdTables.Pairwise (fun t u => tablesMeet b t u = false) &&
  zeroField b 0x06 2 && zeroField b 0x11 1 && zeroField b 0x1A 2 && zeroField b 0x3C 4

/-- Check 1. -/
def cgdCheck1 (b : List Byte) (len : Nat) : Option LoadFail :=
  if !cgdHeaderOk b len then some (headFail 1 stMalformed)
  else (tableFail 1 stMalformed 0 (cgdTable b 0x1C 0x12 96) (fun _ r => !(zeroField r 0x23 1 && zeroField r 0x50 16))).or
    ((tableFail 1 stMalformed 1 (cgdTable b 0x20 0x14 16) (fun _ r => !zeroField r 0x0E 2)).or
    ((tableFail 1 stMalformed 2 (cgdTable b 0x24 0x16 16) (fun _ r => !zeroField r 0x06 10)).or
     (tableFail 1 stMalformed 3 (cgdTable b 0x28 0x18 16) (fun _ r => !zeroField r 0x08 8))))

/-! ### Check 2 -/

/-- Rows of a group. -/
def Placement.groupRows (p : Placement) : Nat := 16 * 2 ^ p.group

/-- A value lies in [lo, hi]. -/
def inRange (lo hi v : Nat) : Bool := decide (lo ≤ v) && decide (v ≤ hi)

/-- Check 2 on a placement record; its FLAGS as stored. -/
def placeRangeOk (p : Placement) (flags : Nat) : Bool :=
  decide (flags < 16) && decide (p.dev ≤ 7) && decide (p.ter ≤ 63) && inRange 1 4 p.gang &&
  (p.slots.take p.gang).all (fun x => decide (x ≤ 61)) && (p.slots.drop p.gang).all (fun x => x == 0xFF) &&
  inRange ((p.gang - 1) * 1024 + 1) (p.gang * 1024) p.fanin && inRange 1 512 p.cols && decide (p.group ≤ 2) &&
  inRange 1 8 p.p && inRange 1 8 p.q && decide (p.scale ≤ 5) && decide (p.thetaZ ≤ min 15 (2 ^ p.q - 1)) &&
  decide (p.biasRows ≤ min 64 p.fanin) && inRange 1 1023 p.step && decide ((2 ^ p.q - 1) * p.step ≤ 1023) &&
  inRange 1 16 p.edgeCount && (p.inSlot != 0xFFFF || (p.feature && p.fanin == 82)) &&
  (p.tags.drop p.gang).all (fun t => t == 0) &&
  (if p.feature then decide (82 ≤ p.fanin) && decide (p.lane ≤ 15) && [1, 2, 4, 8, 16, 32, 64].contains p.rf
   else p.lane == 0xFF && p.rf == 1) &&
  (p.laneB == 0xFF || (decide (p.laneB ≤ 15) && p.feature && p.gang == 2 && decide (1106 ≤ p.fanin)))

/-- Check 2 on an edge record: its fields as stored, and its columns within its producer's. -/
def edgeRangeOk (c : Cgd) (e : EdgeRec) (r : List Byte) : Bool :=
  inRange 1 512 e.colCount && decide (fieldAt r 6 1 ≤ 1) && decide (fieldAt r 7 1 ≤ 1) && decide (e.halfOff ≤ 127) &&
  (match c.places[e.src]? with
    | some p => decide (e.colFirst + e.colCount ≤ p.cols)
    | none => true)

/-- Check 2 on a slot record. -/
def slotRangeOk (x : SlotRec) (r : List Byte) : Bool :=
  decide (x.dev ≤ 7) && decide (x.ter ≤ 63) && decide (fieldAt r 2 1 ≤ 1) && [1, 2, 4].contains x.bufs &&
  inRange 1 (if x.isOut then 8 else 64) x.lines && (decide (x.bank ≤ 15) || x.bank == 0xFF)

/-- Check 2 on a port record. -/
def portRangeOk (o : PortRec) : Bool :=
  decide (o.kind ≤ 3) && decide (o.unit ≤ b2n (o.kind == 2)) && (o.kind == 0 || o.kind == 2 || o.slot == 0xFFFF)

/-- Check 2. -/
def cgdCheck2 (b : List Byte) (c : Cgd) : Option LoadFail :=
  if !(fieldAt b 0x08 4 % 16 == 0 && inRange 1 8 c.devices && inRange 1 31744 c.places.length &&
      decide (1 ≤ c.edges.length) && decide (1 ≤ c.slots.length) && inRange 1 64 c.ports.length) then
    some (headFail 2 stBadParam)
  else (tableFail 2 stBadParam 0 (c.places.zip (cgdTable b 0x1C 0x12 96)) (fun _ x => !placeRangeOk x.1 (fieldAt x.2 2 2))).or
    ((tableFail 2 stBadParam 1 (c.edges.zip (cgdTable b 0x20 0x14 16)) (fun _ x => !edgeRangeOk c x.1 x.2)).or
    ((tableFail 2 stBadParam 2 (c.slots.zip (cgdTable b 0x24 0x16 16)) (fun _ x => !slotRangeOk x.1 x.2)).or
     (tableFail 2 stBadParam 3 c.ports (fun _ o => !portRangeOk o))))

/-! ### Check 3 -/

/-- The placement that consumes a slot record. -/
def Cgd.consumer (c : Cgd) (slot : Nat) : Option Nat := c.places.findIdx? (fun p => p.inSlot == slot)

/-- Half-lines that an edge writes. -/
def EdgeRec.halfLines (e : EdgeRec) : List Nat := (List.range (ceilDiv e.colCount 32)).map (fun i => e.halfOff + i)

/-- Half-lines of a slot that segments and port deliveries write, each as often as it is written (R266, R267). -/
def Cgd.covered (c : Cgd) (slot : Nat) : List Nat :=
  (c.edges.filter (fun e => !e.toPort && e.dst == slot)).flatMap EdgeRec.halfLines ++
  (c.ports.filter (fun o => (o.kind == 0 || o.kind == 2) && o.slot == slot)).flatMap
    (fun o => List.range (ceilDiv o.bytes 32))

/-- A logical slot of a terrace of a device. -/
def Placement.members (p : Placement) : List (Nat × Nat × Nat) := (p.slots.take p.gang).map (fun x => (p.dev, p.ter, x))

/-- Check 3 on placement i. -/
def placeRefsOk (c : Cgd) (i : Nat) (p : Placement) : Bool :=
  (p.inSlot == 0xFFFF || (match c.slots[p.inSlot]? with
    | some x => !x.isOut && x.dev == p.dev && x.ter == p.ter && x.lines == ceilDiv p.fanin 64 &&
        c.consumer p.inSlot == some i
    | none => false)) &&
  (match c.slots[p.outSlot]? with
    | some x => x.isOut && x.dev == p.dev && x.ter == p.ter && x.lines == ceilDiv p.cols 64 &&
        c.places.findIdx? (fun p' => p'.outSlot == p.outSlot) == some i
    | none => false) &&
  decide (p.edgeFirst + p.edgeCount ≤ c.edges.length) &&
  ((c.edges.drop p.edgeFirst).take p.edgeCount).all (fun e => e.src == i) &&
  !(p.signedIn && c.edges.any (fun e => !e.toPort && e.dst == p.inSlot)) &&
  !(p.feature && p.ter != 0) && decide (p.members.Nodup) &&
  !((c.places.take i).any (fun p' => p'.members.any (fun m => p.members.contains m)))

/-- Check 3 on edge j. -/
def edgeRefsOk (c : Cgd) (j : Nat) (e : EdgeRec) : Bool :=
  (match c.places[e.src]? with
    | some p => decide (p.edgeFirst ≤ j) && decide (j < p.edgeFirst + p.edgeCount)
    | none => false) &&
  (if e.toPort then !e.delay && (match c.ports[e.dst]? with
      | some o => o.kind == 1 || o.kind == 3
      | none => false)
   else match c.slots[e.dst]? with
      | some x => !x.isOut && !(e.delay && x.bufs == 1)
      | none => false)

/-- Check 3 on slot record k: named once, and each half-line with a producer row covered exactly once, no other. -/
def slotRefsOk (c : Cgd) (k : Nat) (x : SlotRec) : Bool :=
  if x.isOut then c.places.any (fun p => p.outSlot == k)
  else match (c.consumer k).bind (fun i => c.places[i]?) with
    | none => false
    | some p => let cov := c.covered k
      (List.range (2 * x.lines)).all (fun h => cov.count h == b2n (p.producerRow h)) &&
      cov.all (fun h => decide (h < 2 * x.lines))

/-- Check 3 on a port record: a delivery names an input slot. -/
def portRefsOk (c : Cgd) (o : PortRec) : Bool :=
  if o.kind = 0 ∨ o.kind = 2 then (match c.slots[o.slot]? with
    | some x => !x.isOut
    | none => false)
  else true

/-- Check 3. -/
def cgdCheck3 (c : Cgd) : Option LoadFail :=
  (tableFail 3 stBadParam 0 c.places (fun i p => !placeRefsOk c i p)).or
  ((tableFail 3 stBadParam 1 c.edges (fun j e => !edgeRefsOk c j e)).or
  ((tableFail 3 stBadParam 2 c.slots (fun k x => !slotRefsOk c k x)).or
   (tableFail 3 stBadParam 3 c.ports (fun _ o => !portRefsOk c o))))

/-! ### Check 4 -/

/-- Placements fed by an edge of placement i within the run. -/
def Cgd.feeds (c : Cgd) (i : Nat) : List Nat :=
  c.edges.filterMap (fun e => if e.src = i ∧ !e.toPort ∧ !e.delay then c.consumer e.dst else none)

/-- Placements that a set reaches, in at most `fuel` more steps. -/
def Cgd.reach (c : Cgd) (fuel : Nat) (seen : List Nat) : List Nat :=
  match fuel with
  | 0 => seen
  | n + 1 => Cgd.reach c n (seen ++ (seen.flatMap c.feeds).filter (fun x => !seen.contains x)).eraseDups

/-- Check 4: the lowest placement on a cycle. -/
def cgdCheck4 (c : Cgd) : Option LoadFail :=
  tableFail 4 stBadParam 0 c.places (fun i _ => (c.reach c.places.length (c.feeds i).eraseDups).contains i)

/-! ### Check 5 (R209, R210, R220, R249, R464, R465) -/

/-- The groups of a placement, of its whole fan-in (R204). -/
def Placement.groups (p : Placement) : Nat := ceilDiv p.fanin p.groupRows

/-- Row r of the set is a feature row (R148). -/
def Placement.featureRow (p : Placement) (r : Nat) : Bool :=
  p.feature && (decide (r < 82) || (p.laneB != 0xFF && decide (1024 ≤ r) && decide (r < 1106)))

/-- Group g holds a feature row. -/
def Placement.featureGroup (p : Placement) (g : Nat) : Bool :=
  (List.range p.groupRows).any (fun i => p.featureRow (g * p.groupRows + i))

/-- Group g holds a bias row (R257). -/
def Placement.biasGroup (p : Placement) (g : Nat) : Bool :=
  (List.range p.groupRows).any (fun i =>
    let r := g * p.groupRows + i
    decide (p.fanin - p.biasRows ≤ r) && decide (r < p.fanin))

/-- N, the phases of an evaluation (R210). -/
def Placement.phases (p : Placement) : Nat :=
  p.groups + (p.rf - 1) * ((List.range p.groups).filter (fun g => p.featureGroup g)).length

/-- L, the cycles of a phase (R209). -/
def Placement.phaseLen (p : Placement) : Nat := if p.feature then 32 else max 8 (2 ^ p.p / 8)

/-- W, the exact-mode worst case in cycles (R220). -/
def Placement.worst (p : Placement) : Nat := 24 + p.phases * p.phaseLen + 8 + 12 + 12 * p.q

/-- The output ports of a packet's route, as (device, router, port), its hop count H, and the cascade links it crosses
(R242, R465). -/
def routeOf (fromDev fromTer : Nat) (fromEngine : Bool) (toDev toTer : Nat) (toEngine : Bool) :
    List (Nat × Nat × Nat) × Nat × Nat :=
  let start := if fromEngine then 24 else fromTer
  let exit := if toEngine then 3 else 4
  let target := if toEngine then 24 else toTer
  let on (d : Nat) (l : List (Nat × Nat)) : List (Nat × Nat × Nat) := l.map (fun h => (d, h.1, h.2))
  let ends := b2n fromEngine + b2n toEngine
  if fromDev = toDev then
    let r := route start target exit
    (on fromDev r, r.length - 1 + ends, 0)
  else
    let a := route start 31 1
    let z := route 31 target exit
    (on fromDev a ++ on toDev z, a.length + z.length + ends, max fromDev toDev - min fromDev toDev)

/-- Traffic of the graph's own run: an edge, or a port delivery of so many packets. -/
structure Flow where
  ports : List (Nat × Nat × Nat)
  hops : Nat
  links : Nat
  packets : Nat
  deriving DecidableEq, Repr

/-- The flow of an edge. -/
def Cgd.edgeFlow (c : Cgd) (e : EdgeRec) : Flow :=
  let pl := c.places[e.src]?
  let dev := (pl.map (fun p => p.dev)).getD 0
  let ter := (pl.map (fun p => p.ter)).getD 0
  let dst := c.slots[e.dst]?
  let r := if e.toPort then routeOf dev ter false 0 0 true
    else routeOf dev ter false ((dst.map (fun x => x.dev)).getD 0) ((dst.map (fun x => x.ter)).getD 0) false
  { ports := r.1, hops := r.2.1, links := r.2.2, packets := 1 }

/-- The flow of a port delivery (R267). -/
def Cgd.portFlow (c : Cgd) (o : PortRec) : Flow :=
  let dst := c.slots[o.slot]?
  let r := routeOf 0 0 true ((dst.map (fun x => x.dev)).getD 0) ((dst.map (fun x => x.ter)).getD 0) false
  { ports := r.1, hops := r.2.1, links := r.2.2, packets := ceilDiv o.bytes 512 }

/-- Every flow of a graph: its edges, delay edges included, then its port deliveries. -/
def Cgd.flows (c : Cgd) : List Flow :=
  c.edges.map c.edgeFlow ++ (c.ports.filter (fun o => o.kind == 0 || o.kind == 2)).map c.portFlow

/-- The contention allowance of a flow: 17 cycles times the other packets on the busiest output port of its route. -/
def allowance (all : List Flow) (f : Flow) : Nat :=
  17 * (f.ports.map (fun p => ((all.filter (fun x => x.ports.contains p)).map (fun x => x.packets)).sum - f.packets)).foldl max 0

/-- D of R464 for a packet of f flits over k links, in tenths of a nanosecond. -/
def bridgeTenths (k f : Nat) : Nat := if k = 0 then 0 else 1400 + 1000 * (k - 1) + 24 * f

/-- Flits of an edge's packet, its header included. -/
def EdgeRec.flits (e : EdgeRec) : Nat := 1 + ceilDiv e.colCount 32

/-- What consumers wait for: producer, consumer, and the tenths of a nanosecond added to the producer's output and to
its start. -/
def Cgd.waits (c : Cgd) (all : List Flow) (per : Nat) : List (Nat × Nat × Nat × Nat) :=
  c.edges.filterMap (fun e =>
    if e.toPort ∨ e.delay then none
    else (c.consumer e.dst).map (fun d =>
      let f := c.edgeFlow e
      (e.src, d, 10 * per * (8 + 4 * f.hops + e.flits + 1 + allowance all f) + bridgeTenths f.links e.flits,
        10 * per * (4 + 4 * f.hops) + 3000 + bridgeTenths f.links 1)))

/-- Start of each placement's evaluation that its port deliveries allow, in tenths of a nanosecond from the first reset
cycle, 300 ns after the run's start (R249). -/
def Cgd.deliveredAt (c : Cgd) (all : List Flow) (per : Nat) (i : Nat) : Nat :=
  (c.ports.map (fun o =>
    if (o.kind = 0 ∨ o.kind = 2) ∧ c.consumer o.slot = some i then
      let f := c.portFlow o
      10 * per * (8 + 4 * f.hops + 17 * f.packets + allowance all f + 1) + bridgeTenths f.links (17 * f.packets) - 3000
    else 0)).foldl max 0

/-- One round: every start raised to what its producers allow. -/
def relax (c : Cgd) (per : Nat) (waits : List (Nat × Nat × Nat × Nat)) (starts : List Nat) : List Nat :=
  waits.foldl (fun st w =>
    let s0 := st.getD w.1 0
    let w0 := ((c.places[w.1]?).map (fun p => p.worst)).getD 0
    st.modify w.2.1 (fun x => max x (max (s0 + 10 * per * w0 + w.2.2.1) (s0 + w.2.2.2)))) starts

/-- Rounds until nothing can change. -/
def relaxAll (c : Cgd) (per : Nat) (waits : List (Nat × Nat × Nat × Nat)) (fuel : Nat) (starts : List Nat) : List Nat :=
  match fuel with
  | 0 => starts
  | n + 1 => relaxAll c per waits n (relax c per waits starts)

/-- DONE of every placement in tenths of a nanosecond, at `per` ns a cycle. -/
def Cgd.doneTenths (c : Cgd) (per : Nat) : List Nat :=
  let all := c.flows
  let starts := relaxAll c per (c.waits all per) c.places.length ((List.range c.places.length).map (c.deliveredAt all per))
  c.places.mapIdx (fun i p => starts.getD i 0 + 10 * per * p.worst)

/-- WC in tenths of a nanosecond: the head wake, and the last output written at its slot or at the engine port. -/
def Cgd.wcTenths (c : Cgd) (per : Nat) : Nat :=
  let all := c.flows
  let done := c.doneTenths per
  let atPort := c.edges.map (fun e =>
    if e.toPort then
      let f := c.edgeFlow e
      done.getD e.src 0 + 10 * per * (8 + 4 * f.hops + e.flits + allowance all f) + bridgeTenths f.links e.flits
    else 0)
  3000 + (done ++ atPort).foldl max 0

/-- Check 5. -/
def cgdCheck5 (c : Cgd) : Option LoadFail :=
  let run := c.doneTenths 1
  let eco := c.doneTenths 2
  (tableFail 5 stBadParam 0 c.places (fun i p => decide (p.wCycles < p.worst) || decide (10 * p.doneRun < run.getD i 0) ||
    decide (10 * p.doneEco < eco.getD i 0))).or
  (if 10 * c.wcRun < c.wcTenths 1 ∨ 10 * c.wcEco < c.wcTenths 2 then some (headFail 5 stBadParam) else none)

/-- Checks 1 to 5 on the bytes of a CGD read for a command that gave `len`. -/
def cgdStatic (b : List Byte) (len : Nat) : Option LoadFail :=
  match cgdCheck1 b len with
  | some f => some f
  | none =>
    let c := parseCgd b
    (cgdCheck2 b c).or ((cgdCheck3 c).or ((cgdCheck4 c).or (cgdCheck5 c)))

end Sys2Proof.Machine
end

