-- ==== Sys2Proof/Machine/GraphLoad.lean ====
section
/-! DEFINITION. Loading and releasing graphs: checks 6 to 11 of GRAPH_LOAD, the tables it writes, GRAPH_UNLOAD and the
settings stored with a loaded graph (R224, R225, R260 to R272, R345, R367, R574). -/

namespace Sys2Proof.Machine

/-! ### Checks 6 to 9 -/

/-- Check 6: every DEV is below the chain length. -/
def State.cgdCheck6 (s : State) (c : Cgd) : Option LoadFail :=
  (tableFail 6 stMappedOut 0 c.places (fun _ p => decide (s.casc.length ≤ p.dev))).or
  (tableFail 6 stMappedOut 2 c.slots (fun _ x => decide (s.casc.length ≤ x.dev)))

/-- Physical basins of a placement of this device, top member first (R270); none where a slot is not available. -/
def State.bind (s : State) (p : Placement) : Option (List Nat) := (p.slots.take p.gang).mapM (fun x => s.physOf p.ter x)

/-- The basins form a set of R203, and for feature rows a set among B0 to B15. -/
def setFits (p : Placement) (l : List Nat) : Bool :=
  (l.mapIdx (fun m n => n == l.headD 0 + 8 * m)).all (fun b => b) && (!p.feature || decide (l.getLastD 0 % 64 < 16))

/-- The member device is released and serves (R455). -/
def State.serving (s : State) (dev : Nat) : Bool :=
  s.isMe dev || (s.casc.chain[dev]?).any (fun m => m.state == 2 ||
    (m.state == 5 && (s.casc.chain[m.alias_]?).any (fun a => a.state == 2)))

/-- What a check finds of placement i, which is on a member: what its map-out table, its selectors and its basins hold is
known there and not in this device, a free value by command (R268, log 46); 0 is sound. -/
def memberFinding (cid check i : Nat) : Nat := Config.memberFinding cid check i

/-- Check 7. -/
def State.cgdCheck7 (s : State) (cid : Nat) (c : Cgd) : Option LoadFail :=
  tableFail 7 stMappedOut 0 c.places (fun i p =>
    if s.isMe p.dev then (match s.bind p with
      | some l => !setFits p l
      | none => true)
    else s.serving p.dev && memberFinding cid 7 i != 0)

/-- The lane connected to a physical basin of T0 (R146). -/
def State.laneOf (s : State) (n : Nat) : Option Nat := (s.afe.route.getD n none)

/-- The device whose slots, lines and basins a device number takes: a standby holds its active device's too (R471). -/
def State.hw (s : State) (d : Nat) : Nat :=
  ((s.casc.pairs.find? (fun p => decide (2 ≤ p.state) && p.active == d)).map (fun p => p.standby)).getD d

/-- Another graph holds a member of the placement: by basin on this device, by logical slot on another. -/
def State.memberTaken (s : State) (p : Placement) (l : List Nat) : Bool :=
  if s.isMe p.dev then l.any (fun n => s.basinInGraph n)
  else s.graphs.any (fun g => g.cgd.places.any (fun q => q.members.any (fun m =>
    p.members.any (fun n => s.hw n.1 == s.hw m.1 && n.2 == m.2))))

/-- The lanes routed to a feature placement are those it names (check 8). -/
def State.lanesMatch (s : State) (p : Placement) (l : List Nat) : Bool :=
  !p.feature || (s.laneOf (l.getD 0 0) == some p.lane &&
    (p.gang != 2 || s.laneOf (l.getD 1 0) == (if p.laneB = 0xFF then none else some p.laneB)))

/-- Check 8. -/
def State.cgdCheck8 (s : State) (cid : Nat) (c : Cgd) : Option LoadFail :=
  tableFail 8 stState 0 c.places (fun i p =>
    let l := (s.bind p).getD []
    s.memberTaken p l || (if s.isMe p.dev then !s.lanesMatch p l else p.feature && s.serving p.dev && memberFinding cid 8 i != 0))

/-- The status of check 9 for a placement: a DIRTY member, else a FAILED one, else one that is not VALID with its TAG. -/
def State.memberStatus (s : State) (p : Placement) (l : List Nat) : Option Nat :=
  let has (w : WState) : Bool := l.any (fun n => (s.basin n).wstate == w)
  if has .dirty then some stDirty
  else if has .failed then some stFault
  else if (l.zip p.tags).all (fun e => (s.basin e.1).wstate == .valid && (s.basin e.1).tag == e.2) then none
  else some stState

/-- A device of the graph that the master has declared lost (R460). -/
def State.lostDev (s : State) (g : Graph) : Option Nat :=
  if s.pins.role = .master then
    (g.cgd.places.map (fun p => p.dev)).find? (fun d => (s.casc.chain[d]?).any (fun m => m.state == 3 || m.state == 4))
  else none

/-- The basin word that names a lost device: the spec names no terrace, which is a free value (R460, log 9). -/
def State.lostWord (s : State) (dev : Nat) : Nat := basinWord ((Config.freeInt s.free).toNat % 128) dev none

/-- Check 9. -/
def State.cgdCheck9 (s : State) (cid : Nat) (c : Cgd) : Option LoadFail :=
  (c.places.mapIdx (fun i p =>
    (if s.isMe p.dev then s.memberStatus p ((s.bind p).getD [])
     else if s.serving p.dev then ([none, some stDirty, some stFault].getD (memberFinding cid 9 i) (some stState))
     else some stState).map
      (fun st => ({ check := 9, table := 0, index := i, status := st } : LoadFail)))).findSome? (fun x => x)

/-! ### Check 10: slots, banks and lines (R228 to R231, R500) -/

/-- A number below `n` that satisfies `ok`: which one is left open, so a drawn one where it is allowed (log 9). -/
def State.pick (s : State) (n : Nat) (ok : Nat → Bool) : Option Nat × State :=
  let c := (Config.freeInt s.free).toNat % max 1 n
  (if decide (c < n) && ok c then some c else (List.range n).find? ok, { s with free := s.free + 1 })

/-- The same, or the first such number where `first` holds. -/
def State.pickOr (s : State) (first : Bool) (n : Nat) (ok : Nat → Bool) : Option Nat × State :=
  if first then ((List.range n).find? ok, s) else s.pick n ok

/-- Every slot reserved, of loaded graphs and shadows. -/
def State.reservedSlots (s : State) : List Slot := (s.graphs ++ s.casc.shadows).flatMap (fun g => g.slots)

/-- Lines of a slot. -/
def Slot.span (x : Slot) : Nat := x.bufs.length * x.lines

/-- `need` lines of a bank from line a are inside it and unreserved. -/
def State.linesFree (s : State) (taken : List Slot) (dev ter bank need a : Nat) : Bool :=
  decide (a + need ≤ 1024) && taken.all (fun x => !(s.hw x.dev == s.hw dev && x.ter == ter && x.bank == bank) ||
    decide (a + need ≤ x.line0) || decide (x.line0 + x.span ≤ a))

/-- A bank can take a slot: not withdrawn, at most 4 input slots (R231), and the lines free. -/
def State.bankTakes (s : State) (taken : List Slot) (x : SlotRec) (bank : Nat) : Bool :=
  !(s.isMe x.dev && (s.ter x.ter).withdrawn.getLsbD bank) &&
  (x.isOut || decide ((taken.filter (fun y => s.hw y.dev == s.hw x.dev && y.ter == x.ter && y.bank == bank && !y.isOut)).length < 4)) &&
  (List.range 1024).any (fun a => s.linesFree taken x.dev x.ter bank (x.bufs * x.lines) a)

/-- An empty buffer that serves run sequence numbers congruent to b (R236). -/
def Buffer.fresh (mask : List Bool) (b : Nat) : Buffer :=
  { mask := mask, zmap := List.replicate (2 * mask.length) true, complete := !mask.isEmpty && mask.all (fun v => v)
    poisoned := false, runSeq := b }

/-- Buffers of a new slot of a graph. -/
def Cgd.freshBufs (c : Cgd) (i : Nat) (x : SlotRec) : List Buffer :=
  let mask := if x.isOut then [] else match (c.consumer i).bind (fun k => c.places[k]?) with
    | some p => p.emptyMask x.lines
    | none => []
  (List.range x.bufs).map (Buffer.fresh mask)

/-- A bank, lines and a number chosen for slot record i. -/
def State.placeSlot (s : State) (first : Bool) (c : Cgd) (taken : List Slot) (i : Nat) (x : SlotRec) : Option Slot × State :=
  let b := s.pickOr first 16 (fun k => (x.bank == 0xFF || x.bank == k) && s.bankTakes taken x k)
  match b.1 with
  | none => (none, b.2)
  | some bank =>
    let a := b.2.pickOr first 1024 (fun a => s.linesFree taken x.dev x.ter bank (x.bufs * x.lines) a)
    let n := a.2.pickOr first 1024 (fun n => !taken.any (fun y => s.hw y.dev == s.hw x.dev && y.ter == x.ter && y.num == n))
    match a.1, n.1 with
    | some line, some num =>
      (some { num := num, dev := x.dev, ter := x.ter, isOut := x.isOut, bank := bank, line0 := line, lines := x.lines
              bufs := c.freshBufs i x }, n.2)
    | _, _ => (none, n.2)

/-- Slots placed for the records from number i on, or the first that cannot be. -/
def State.placeFrom (s : State) (first : Bool) (c : Cgd) (taken : List Slot) (i : Nat) :
    List SlotRec → Except Nat (List Slot) × State
  | [] => (.ok [], s)
  | x :: xs =>
    match s.placeSlot first c taken i x with
    | (none, s') => (.error i, s')
    | (some y, s') => match State.placeFrom s' first c (taken ++ [y]) (i + 1) xs with
      | (.ok ys, t) => (.ok (y :: ys), t)
      | (.error k, t) => (.error k, t)

/-- Every slot record placed where the device chooses, else each at the first place it fits; check 10 fails only where that
does not fit either (R265, log 9). -/
def State.placeSlots (s : State) (c : Cgd) (taken : List Slot) (recs : List SlotRec) : Except Nat (List Slot) × State :=
  match s.placeFrom false c taken 0 recs with
  | (.ok l, t) => (.ok l, t)
  | (.error _, t) => t.placeFrom true c taken 0 recs

/-! ### Check 11 (Table 14-1) -/

/-- WC of a CGD at the current FCLK, in ns (R361). -/
def State.wcOf (s : State) (c : Cgd) : Nat := if s.pwr.dev = .economy then c.wcEco else c.wcRun

/-- Outcome of a frame binding of `window` µs at `offset` µs, for a contribution of `mw`. -/
def State.frameBinding (s : State) (wc mw offset window : Nat) : Option End :=
  let z := s.slc
  let need := wc + z.xallow
  let top := 11 * 2 ^ 28 + 0xFFFF
  if z.curSrc = 0 then some (endOf stState top)
  else if 1000 * window < need then
    some { endOf stDeadline top with late := ceilDiv (need - 1000 * window) 1000, cause := 3 }
  else if z.share * z.curPeriod < 100 * window ∨ 15 * z.curPeriod < 16 * (offset + window) then
    some { endOf stCapacity top with cause := 1 }
  else (s.powerRefusal mw).map (fun e => { e with detail := top })

/-! ### The tables of a loaded graph (R261, R269) -/

/-- Starting credit of an edge: its slot's buffers, one fewer for a delay edge; two at the engine port (R238, R261,
R381). -/
def Cgd.edgeCredit (c : Cgd) (e : EdgeRec) : Nat :=
  if e.toPort then 2 else ((c.slots[e.dst]?).map (fun x => x.bufs)).getD 0 - b2n e.delay

/-- Starting credit of a port's deliveries: its slot's buffers. -/
def Cgd.portCredit (c : Cgd) (o : PortRec) : Nat :=
  if o.kind = 0 ∨ o.kind = 2 then ((c.slots[o.slot]?).map (fun x => x.bufs)).getD 0 else 0

/-- The graph as GRAPH_LOAD writes it. -/
def newGraph (raw : List Byte) (c : Cgd) (handle owner ring : Nat) (phys : List (List Nat)) (slots : List Slot) (frame : Option (Nat × Nat)) :
    Graph :=
  { handle := handle, owner := owner, raw := raw, cgd := c, phys := phys, slots := slots
    score := c.places.map (fun p => { nextIn := 0, outCredits := ((c.slots[p.outSlot]?).map (fun x => x.bufs)).getD 0
                                      nextOut := 0, runSeq := 0 })
    credit := c.edges.map c.edgeCredit ++ c.ports.map c.portCredit
    theta := c.places.map (fun p => p.thetaZ), exact := false, nextSeq := 0, unload := none, frame := frame
    loadRing := ring, bound := false, ports := [] }

/-- Delay-edge segments of the buffers that serve run `seq` written with 0, and their mask bits set (R261, R262). -/
def State.presetDelay (s : State) (h seq : Nat) : State :=
  match s.graph? h with
  | none => s
  | some g => g.cgd.edges.foldl (fun t e =>
      if !e.delay ∨ e.toPort then t
      else match t.graph? h with
        | none => t
        | some g' => match g'.slots[e.dst]? with
          | some x =>
            if t.isMe x.dev then
              t.writeBuffer g' e.dst (seq % max 1 x.bufs.length) e.halfOff seq
                (List.replicate (32 * ceilDiv e.colCount 32) 0) false
            else t
          | none => t) s

/-- Terraces of this device that a graph names, or that its edges are routed through (R98). -/
def State.graphTers (s : State) (g : Graph) : List Nat :=
  let c := g.cgd
  let named := (c.places.filter (fun p => s.isMe p.dev)).map (fun p => p.ter) ++
    (c.slots.filter (fun x => s.isMe x.dev)).map (fun x => x.ter)
  let through := (c.flows.flatMap (fun f => f.ports)).filterMap (fun p => if s.isMe p.1 then some p.2.1 else none)
  (named ++ through).eraseDups

/-- Every terrace a graph uses or routes through on this device is good (R98). -/
def State.tersGood (s : State) (g : Graph) : Bool := (s.graphTers g).all (fun t => s.terPower t == .good)

/-- Physical basins of every placement; none for another device's. -/
def State.bindAll (s : State) (c : Cgd) : List (List Nat) :=
  c.places.map (fun p => if s.isMe p.dev then (s.bind p).getD [] else [])

/-- A loaded graph enters the tables of its terraces (R269). -/
def State.install (s : State) (g : Graph) : State :=
  ((({ s with graphs := s.graphs ++ [g] }).presetDelay g.handle 0).needTerraces (s.graphTers g)).notePeak

/-- Members of the chain told of work of theirs on a graph, for command `cid` (R463). -/
def State.tellMembers (s : State) (cid : Nat) (g : Graph) (w : Work) : State :=
  match s.cmd? cid with
  | none => s
  | some c =>
    if s.pins.role = .master then
      (g.devs.filter (fun d => !s.isMe d && s.casc.route.getD d 3 != 3)).foldl
        (fun t d => t.emit (.link (t.routesUp d) (.work d c.ring c.tag c.opcode w))) s
    else s

/-- Slot numbers, banks and lines of a graph's slots, in the order of its slot records. -/
def Graph.numbers (g : Graph) : List (Nat × Nat × Nat) := g.slots.map (fun x => (x.num, x.bank, x.line0))

/-- The standbys that will hold a shadow of the graph are told its slots' numbers (R471, log 23). -/
def State.numberShadows (s : State) (c : Cmd) (g : Graph) : State :=
  if s.pins.role = .master then
    (s.pairsFor g.devs).foldl (fun t k =>
      let d := (t.pair k).standby
      t.emit (.link (t.routesUp d) (.work d c.ring c.tag c.opcode (.load g.handle [] g.numbers g.frame.isSome)))) s
  else s

/-! ### GRAPH_LOAD -/

/-- GRAPH_LOAD: admitted, and the whole CGD read (R268); it waits while an OP 3 drains a pair (R479). -/
def execGraphLoad (ring : Fin 1024) (s : State) : Host.Outcome State Fault Refusal :=
  let g := ring.val
  .next (s.onHead g 0x10 false (fun p => if s.casc.pairs.any (fun p => p.failCid.isSome) then s else
    let addr := BitVec.ofNat 64 (par p 0x10 8)
    let len := par p 0x18 4
    let bind := par p 0x1C 1 == 1
    ((s.accept g p (.graphLoad addr len bind (par p 0x20 4) (par p 0x24 4)) none 0).dmaRead (s.ringFunc g) addr len).settle g))

/-- The first failing check of Table 10-6 on a CGD, checks 1 to 9. -/
def State.loadChecks (s : State) (cid : Nat) (b : List Byte) (len : Nat) : Option LoadFail :=
  let c := parseCgd b
  (cgdStatic b len).or ((s.cgdCheck6 c).or ((s.cgdCheck7 cid c).or ((s.cgdCheck8 cid c).or (s.cgdCheck9 cid c))))

/-- The records a GRAPH_LOAD sends to a standby: the CGD in pieces (Table 18-5). -/
def loadRecords (b : List Byte) : List (Nat × List Byte × Option (Nat × Nat)) := (chunks 4060 b).map (fun x => (0x10, x, none))

/-- A BIST_RUN is admitted (R505). -/
def State.bistRunning (s : State) : Bool := s.cmds.any (fun c => c.opcode == 0x50)

/-- Checks made and tables written for the GRAPH_LOAD command c (R268, R574); none are made while a BIST_RUN is admitted
(R505). A graph whose owner was reset meanwhile is unloaded with it (R318). -/
def State.loadGraph (s : State) (c : Cmd) (b : List Byte) (len : Nat) (bind : Bool) (offset window : Nat) : State :=
  if s.bistRunning then s.finish c.cid endState
  else match s.loadChecks c.cid b len with
  | some f => s.finish c.cid f.toEnd
  | none =>
    let cgd := parseCgd b
    match s.placeSlots cgd s.reservedSlots cgd.slots with
    | (.error i, _) =>
      s.finish c.cid (({ check := 10, table := 2, index := i, status := stCapacity } : LoadFail).toEnd)
    | (.ok slots, s1) =>
      if 256 ≤ s.graphs.length then s.finish c.cid (headFail 10 stCapacity).toEnd
      else
        let mw := ceilDiv (cgd.energy * 1000) (max 1 (s.wcOf cgd))
        match if bind then s.frameBinding (s.wcOf cgd) mw offset window else none with
        | some e => s.finish c.cid e
        | none =>
          let hs := s1.pick 65536 (fun h => h != 0 && !(s1.graphs ++ s1.casc.shadows).any (fun g => g.handle == h))
          let h := hs.1.getD 1
          let g0 := newGraph b cgd h (s.ringFunc c.ring) c.ring (s.bindAll cgd) slots (if bind then some (offset, window) else none)
          let g : Graph := if c.detached then { g0 with unload := some 0 } else g0
          let s2 := (((hs.2.install g).tellMembers c.cid g (.load h b g.numbers bind)).numberShadows c g).mirrorCmd c.cid g.devs h 0 (fun _ => loadRecords b) true true
          s2.finish c.cid (endOf stDone h)

/-- CGD_READ_COMPLETE: the read of a GRAPH_LOAD ends, and its checks are made (R268, R574). -/
def execCgdReadComplete (cid : Nat) (result : ReadResult) (s : State) : Host.Outcome State Fault Refusal :=
  .next (match s.cmd? cid with
    | none => s
    | some c => match c.body with
      | .graphLoad _ len bind offset window =>
        match result, failCode result with
        | .data bytes, _ => s.loadGraph c (readBytes len bytes) len bind offset window
        | _, some (kind, _) => (s.readFailed c.ring kind).finish cid endRead
        | _, none => s
      | _ => s)

/-! ### GRAPH_UNLOAD and release (R262, R272) -/

/-- The loaded graph that a command may name: one whose unloading has not been accepted (R272). -/
def State.liveGraph (s : State) (h : Nat) : Option Graph := (s.graph? h).filter (fun g => g.unload.isNone)

/-- Admitted runs of a graph. -/
def State.runsOf (s : State) (h : Nat) : List Nat :=
  s.cmds.filterMap (fun c => match c.body with
    | .run r => if r.handle = h then some c.cid else none
    | _ => none)

/-- Banks that hold no reserved slot any more lose what they held (R95): they read as memory nothing has written. -/
def State.dropBanks (s : State) (ters : List Nat) : State :=
  ters.foldl (fun t x => (List.range 16).foldl (fun u k =>
    if u.bankReserved x k then u
    else { u with cistern := Memory.clear u.cistern (x * 0x100000 + k * 0x10000) (x * 0x100000 + (k + 1) * 0x10000) }) t) s

/-- A stream fed by a port of the graph is detached from it (R429): its FIFO is emptied, and the cut follows at its next
boundary. -/
def Stream.detached (x : Stream) : Stream := { x with port := 0xFF, handle := 0, fifo := [], detach := true }

/-- An intake unit bound to the graph becomes idle (R292). -/
def Intake.unbound (u : Intake) (h : Nat) : Intake :=
  if (u.cfg.map (fun k => k.handle)) = some h ∨ (u.next.map (fun k => k.handle)) = some h
  then { u with cfg := none, next := none, cur := none, newest := none, deliver := none } else u

/-- The graph released: its slots, entries and handle, the buffers staged on it, its streams and its intake units. -/
def State.releaseGraph (s : State) (g : Graph) : State :=
  let h := g.handle
  let s1 : State := { s with
    graphs := s.graphs.filter (fun x => x.handle != h)
    staged := s.staged.filter (fun x => x.handle != h)
    evals := s.evals.filter (fun x => x.handle != h)
    fwds := s.fwds.filter (fun x => x.handle != h)
    slc := { s.slc with released := s.slc.released.filter (fun x => x != h), fired := s.slc.fired.filter (fun x => x != h) }
    str := { s.str with s := s.str.s.map (fun (x : Stream) => if x.started && x.handle == h then x.detached else x) }
    intake := s.intake.map (fun (u : Intake) => u.unbound h) }
  s1.dropBanks (((g.slots.filter (fun x => s.isMe x.dev)).map (fun x => x.ter)).eraseDups)

/-- GRAPH_UNLOAD: its frame reservation ends, and it waits for the graph's admitted runs (R272). -/
def execGraphUnload (ring : Fin 1024) (s : State) : Host.Outcome State Fault Refusal :=
  let g := ring.val
  .next (s.onHead g 0x11 false (fun p =>
    let h := par p 0x10 2
    match s.liveGraph h with
    | none => s.refuse g p (endParam 0x10)
    | some x => if s.mirrorStopped x.devs then s else ((s.accept g p (.graphUnload h) none 0).updGraph h (fun x => { x with unload := some s.nextCid })).settle g))

/-- GRAPH_RELEASE: the last admitted run of an unloading graph has completed (R272). -/
def execGraphRelease (handle : Nat) (s : State) : Host.Outcome State Fault Refusal :=
  .next (match s.graph? handle with
    | none => s
    | some g => match g.unload with
      | none => s
      | some c =>
        if !(s.runsOf handle).isEmpty then s
        else
          let s1 := (s.tellMembers c g (.unload handle)).mirrorCmd c g.devs handle 0 (fun _ => [(0x11, [], none)]) true true
          (s1.releaseGraph g).finish c endDone)

/-! ### Stored settings (R224 to R226) -/

/-- Payload of a GRAPH_SETTING record (Table 18-5). -/
def settingPayload (layer theta : Nat) (exact : Bool) : List Byte := leBytes 2 layer ++ leBytes 1 theta ++ leBytes 1 (b2n exact)

/-- The stored threshold of every placement of a layer. -/
def Graph.setTheta (g : Graph) (layer theta : Nat) : Graph :=
  { g with theta := (g.cgd.places.zip g.theta).map (fun x => if x.1.layer = layer then theta else x.2) }

/-- LAYER_THRESHOLD (R224, R225). -/
def execLayerThreshold (ring : Fin 1024) (s : State) : Host.Outcome State Fault Refusal :=
  let r := ring.val
  .next (s.onHead r 0x16 false (fun p =>
    let h := par p 0x10 2
    let layer := par p 0x12 2
    let theta := par p 0x14 1
    match s.liveGraph h with
    | none => s.refuse r p (endParam 0x10)
    | some g =>
      let qs := (g.cgd.places.filter (fun x => x.layer == layer)).map (fun x => x.q)
      if qs.isEmpty then s.refuse r p (endParam 0x12)
      else if min 15 (2 ^ qs.foldl min 8 - 1) < theta then s.refuse r p (endParam 0x14)
      else if s.mirrorStopped g.devs then s
      else s.completeWith r p (fun t =>
        ((t.updGraph h (fun x => x.setTheta layer theta)).tellMembers s.nextCid g (.threshold h layer theta)).mirrorCmd s.nextCid g.devs
          h 0 (fun _ => [(0x12, settingPayload layer theta g.exact, none)]) true true) endDone))

/-- EXACT_MODE (R224 to R226). -/
def execExactMode (ring : Fin 1024) (s : State) : Host.Outcome State Fault Refusal :=
  let r := ring.val
  .next (s.onHead r 0x17 false (fun p =>
    let h := par p 0x10 2
    let on := par p 0x12 1 == 1
    match s.liveGraph h with
    | none => s.refuse r p (endParam 0x10)
    | some g => if s.mirrorStopped g.devs then s else s.completeWith r p (fun t =>
        let pl := g.cgd.places.head?
        ((t.updGraph h (fun x => { x with exact := on })).tellMembers s.nextCid g (.exact h on)).mirrorCmd s.nextCid g.devs h 0
          (fun _ => [(0x12, settingPayload ((pl.map (fun x => x.layer)).getD 0) (g.theta.headD 0) on, none)]) true true) endDone))

/-! ### Staging buffers on ports (R345) -/

/-- A buffer staged on a port of kind `kind`. -/
def State.stage (s : State) (r op kind : Nat) : State :=
  s.onHead r op false (fun p =>
    let h := par p 0x10 2
    let port := par p 0x12 1
    match s.liveGraph h with
    | none => s.refuse r p (endParam 0x10)
    | some g => match g.cgd.ports[port]? with
      | none => s.refuse r p (endParam 0x12)
      | some o =>
        if o.kind ≠ kind then s.refuse r p (endParam 0x12)
        else if o.bytes ≠ par p 0x14 4 then s.refuse r p (endParam 0x14)
        else if 16 ≤ (s.staged.filter (fun x => x.handle == h && x.port == port)).length then s.refuse r p (endOf stCapacity 0)
        else s.completeWith r p (fun t =>
          { t with staged := t.staged ++ [{ handle := h, port := port, addr := BitVec.ofNat 64 (par p 0x18 8) }] }) endDone)

/-- TENSOR_IN. -/
def execTensorIn (ring : Fin 1024) (s : State) : Host.Outcome State Fault Refusal := .next (s.stage ring.val 0x14 0)

/-- TENSOR_OUT. -/
def execTensorOut (ring : Fin 1024) (s : State) : Host.Outcome State Fault Refusal := .next (s.stage ring.val 0x15 1)

end Sys2Proof.Machine
end

