-- ==== Sys2Proof/Machine/Evaluate.lean ====
section
/-! DEFINITION. Evaluations: what a placement reads, when it fires, what each column yields, and the trims
(R187 to R227, R235 to R237, R250, R257, R575). -/

namespace Sys2Proof.Machine

/-! ### Inputs (R148, R187, R207, R257) -/

/-- Units that one pulse step counts as in A(j): feature values are in 1/1,200,000 of full scale, full scale being 256
steps (log 11). -/
def Placement.unit (p : Placement) : Int := if p.feature then 1200000 else 1

/-- Feature i at a value within its range that the spec does not fix (Table 5-4, Table 5-6). -/
def freeFeature (i draw : Nat) : Int :=
  clampInt (if i < 40 ∨ i = 80 then 0 else -1200000) 1200000 (Config.freeInt draw)

/-- The clamp of R187 on an input byte. -/
def clampInput (p : Placement) (b : Byte) : Int :=
  if p.signedIn then clampInt (-(2 ^ p.p - 1 : Nat)) (2 ^ p.p - 1 : Nat) (byteInt b) else min (b.toNat : Int) (2 ^ p.p - 1 : Nat)

/-- Steps that row r of the set is driven with, in units, from the bytes of the input buffer; a bias row is driven in every
evaluation, whatever else the row would carry (R257). -/
def State.rowInput (s : State) (p : Placement) (bytes : List Byte) (r : Nat) : Int :=
  if p.fanin ≤ r then 0
  else if p.fanin - p.biasRows ≤ r then (2 ^ p.p - 1 : Nat) * p.unit
  else if p.feature ∧ r < 82 then 256 * (s.chan p.lane).lane.getD r 0
  else if p.featureRow r then 256 * (s.chan p.laneB).lane.getD (r - 1024) 0
  else clampInput p (bytes.getD r 0) * p.unit

/-- Times a group is driven: RF where it holds a feature row (R148). -/
def Placement.repeats (p : Placement) (g : Nat) : Nat := if p.featureGroup g then p.rf else 1

/-- Inputs of a placement, by set row. -/
def State.rowInputs (s : State) (p : Placement) (bytes : List Byte) : List Int := (List.range p.fanin).map (s.rowInput p bytes)

/-- A(j) of R207, in units: the weight of each row's member times its input, times the group's repeats. -/
def State.dot (s : State) (p : Placement) (phys : List Nat) (inputs : List Int) (j : Nat) : Int :=
  (inputs.mapIdx (fun r v => s.weight (phys.getD (r / 1024) 0) (r % 1024) j * v * (p.repeats (r / p.groupRows) : Nat))).sum

/-! ### Skipping (R215 to R218, R258) -/

/-- The 16 rows from row 16q carry input 0: by the zero map (R232), or, where the fan-in ends among them, byte by byte, the
rows at or beyond it counting as 0 (R215). -/
def quarterZero (p : Placement) (bytes : List Byte) (zmap : List Bool) (q : Nat) : Bool :=
  if p.fanin ≤ 16 * q then true
  else if 16 * (q + 1) ≤ p.fanin then zmap.getD q true
  else (List.range (p.fanin - 16 * q)).all (fun i => bytes.getD (16 * q + i) 0 == 0)

/-- Every row of group g carries input 0. -/
def groupZero (p : Placement) (bytes : List Byte) (zmap : List Bool) (g : Nat) : Bool :=
  let n := p.groupRows / 16
  (List.range n).all (fun i => quarterZero p bytes zmap (g * n + i))

/-- Group g is skipped in a non-exact evaluation. -/
def Placement.skips (p : Placement) (bytes : List Byte) (zmap : List Bool) (g : Nat) : Bool :=
  !p.featureGroup g && !p.biasGroup g && groupZero p bytes zmap g

/-- Phases skipped. -/
def Placement.skipped (p : Placement) (bytes : List Byte) (zmap : List Bool) (exact : Bool) : Nat :=
  if exact then 0 else ((List.range p.groups).filter (fun g => p.skips bytes zmap g)).length

/-! ### Comparing (R190 to R193, R213, R219, R221) -/

/-- E of Table 8-5 in ladder codes. -/
def errorBound (group : Nat) (exact : Bool) : Nat :=
  (match group with
    | 0 => 4
    | 1 => 5
    | _ => 8) - b2n exact

/-- Error of one comparison in 1/1,000,000 code: less than E either way, so that a column at least E from a threshold is
read exactly (R221, R223, log 12). -/
def compareError (draw group : Nat) (exact : Bool) : Int :=
  let b : Int := (errorBound group exact * 1000000 : Nat) - 1
  clampInt (-b) b (Config.columnError draw)

/-- Units of 1/1,000,000 ladder code that a dot product is compared in: the layer's SCALE and the units of A(j). -/
def Placement.codeUnit (p : Placement) : Int := (2 ^ p.scale : Nat) * p.unit

/-- Effective threshold of code c/`den`, offset by quarter codes through the OFFSET path: c (1 + GAIN / 1,024) + OFFSET / 4
(R192, R219), in 1/4,096 code x 1,000,000 den. -/
def threshold (c : Int) (den : Int) (gain offset quarters : Int) : Int :=
  c * 1000000 * (1024 + gain) * 4 + (offset + quarters) * 1024 * 1000000 * den

/-- Voltage a column holds for a nominal voltage and its error, both in 1/1,000,000 code / den: the cells of the basin act on
it as its trims record (R192, R221), in the units of `threshold`. -/
def heldVoltage (nominal err : Int) (den gain offset : Int) : Int :=
  (nominal + err * den) * (1024 + gain) * 4 + offset * 1024 * 1000000 * den

/-- One comparison of a column of dot product a (in units) against code c under the trims, offset by `quarters` quarter
codes: 1 where the held voltage is at or above the effective threshold (R190 to R192). -/
def compareOnce (p : Placement) (trims : Int × Int) (a : Int) (c : Nat) (quarters : Int) (err : Int) : Bool :=
  decide (threshold (c * p.codeUnit) p.codeUnit trims.1 trims.2 quarters ≤ heldVoltage (1024 * a) err p.codeUnit trims.1 trims.2)

/-- compare(c) of R213: one comparison, or the majority of three in exact mode (R219). -/
def compareCode (p : Placement) (trims : Int × Int) (exact : Bool) (a : Int) (c draw : Nat) : Bool :=
  let one (i : Nat) (q : Int) : Bool := compareOnce p trims a c q (compareError (draw + i) p.group exact)
  if exact then
    let x := one 0 (-1)
    let y := one 1 0
    let z := one 2 1
    (x && y) || (y && z) || (x && z)
  else one 0 0

/-- The trials of R213 from bit i - 1 down. -/
def sar (p : Placement) (trims : Int × Int) (exact : Bool) (a : Int) (draw : Nat) (i y : Nat) : Nat :=
  match i with
  | 0 => y
  | k + 1 =>
    let trial := y + 2 ^ k
    sar p trims exact a (draw + 3) k (if compareCode p trims exact a (trial * p.step) draw then trial else y)

/-- Draws a column takes: the zero compare and eight trials, three each. -/
def drawsPerColumn : Nat := 27

/-- The nominal voltage lies within E of the zero threshold (R222). -/
def nearZero (p : Placement) (theta : Nat) (exact : Bool) (a : Int) : Bool :=
  decide ((1024 * a - (theta * p.step : Nat) * 1000000 * p.codeUnit).natAbs < (errorBound p.group exact * 1000000 : Nat) * p.codeUnit.natAbs)

/-- Output of a column: none where it fails the zero compare (R213); near the zero threshold a passing column lies from θz to
θz + ⌈E / STEP⌉ (R222). -/
def columnOut (p : Placement) (trims : Int × Int) (theta : Nat) (exact : Bool) (a : Int) (draw : Nat) : Option Nat :=
  if compareCode p trims exact a (theta * p.step) draw then
    let y := max (sar p trims exact a (draw + 3) p.q 0) theta
    some (if nearZero p theta exact a then min y (theta + ceilDiv (errorBound p.group exact) p.step) else y)
  else none

/-! ### Ride-along reads (R200, R201, Table 7-3) -/

/-- Level of reference column k on the row. -/
def refLevel (k row : Nat) : Int :=
  match k with
  | 0 => 63
  | 1 => -63
  | 2 => 32
  | 3 => -32
  | 4 => 8
  | 5 => -8
  | 6 => 0
  | _ => if row % 2 = 0 then 63 else -63

/-- Level of reference column k of a basin on a row: its pattern where the row's reference cells have been programmed, else
that of an erased cell (R196). -/
def Basin.refCell (b : Basin) (k row : Nat) : Int := if b.refRows.getLsbD row then refLevel k row else 0

/-- Expected code of reference column k at SCALE 5, in 1/32,000,000 code: 1.024/1,000 x the signed sum of level x steps
(R199, R200). -/
def refExpected (inputs : List Int) (k : Nat) : Int := 1024 * (inputs.mapIdx (fun r v => refLevel k r * v)).sum

/-- Reference column k is compared: its expected code is not beyond the ladder, nor below 16 for RC0 to RC5 (R200). -/
def refCompared (inputs : List Int) (k : Nat) : Bool :=
  let e := (refExpected inputs k).natAbs
  decide (e ≤ 1023 * 32 * 1000000) && (decide (6 ≤ k) || decide (16 * 32 * 1000000 ≤ e))

/-- One ride-along compare: the held voltage, straight where the expected code is not negative and swapped where it is, against
its magnitude on the trimmed ladder (R192, R200). -/
def refAbove (inputs : List Int) (trims : Int × Int) (k draw : Nat) : Bool :=
  let e := refExpected inputs k
  let v := Config.refVoltage draw * 32 * 4096
  decide ((e.natAbs : Int) * (1024 + trims.1) * 4 + trims.2 * 1024 * 1000000 * 32 ≤ if 0 ≤ e then v else -v)

/-- The ride-along compares of an evaluation: which reference columns, each read above its expected code or not; the voltage
they hold is the cells' (log 9). -/
def rideAlong (inputs : List Int) (trims : Int × Int) (draw : Nat) : List (Nat × Bool) :=
  ((List.range 8).filter (fun k => refCompared inputs k)).map (fun k => (k, refAbove inputs trims k (draw + k)))

/-! ### Firing (R24, R205, R235 to R237, R250) -/

/-- Settings of the run that the next firing serves: its stored θz values and exact setting (R224). -/
def State.settings (s : State) (g : Graph) (seq : Nat) : List Nat × Bool :=
  match (s.runOf g.handle seq).bind s.cmd? with
  | some c => match c.body with
    | .run r => (r.theta, r.exact)
    | _ => (g.theta, g.exact)
  | none => (g.theta, g.exact)

/-- The run `seq` of a graph has begun: its number has been given out (R576). -/
def Graph.begun (g : Graph) (seq : Nat) : Bool := decide (0 < (g.nextSeq + 65536 - seq) % 65536) &&
  decide ((g.nextSeq + 65536 - seq) % 65536 ≤ 64)

/-- A half-line of the placement's input holds a producer row. -/
def Placement.hasProducer (p : Placement) : Bool := (List.range (2 * ceilDiv p.fanin 64)).any (fun h => p.producerRow h)

/-- The input of the next firing: the slot and buffer, or none for a first layer fed wholly by the feature bus; false
where it is not present (R236). -/
def Graph.inputOf (g : Graph) (p : Placement) (z : Score) : Bool × Option (Nat × Slot × Buffer) :=
  if p.inSlot = 0xFFFF then (true, none)
  else match (g.slots[p.inSlot]?).bind (fun x => (x.bufs[z.nextIn]?).map (fun b => (p.inSlot, x, b))) with
    | none => (false, none)
    | some (i, x, b) => (b.complete && !b.poisoned && (b.runSeq == z.runSeq || !p.hasProducer), some (i, x, b))

/-- A lane that feeds the placement waits to switch banks (R150). -/
def State.laneWaits (s : State) (p : Placement) : Bool :=
  p.feature && ((s.chan p.lane).switchWait || (p.laneB != 0xFF && (s.chan p.laneB).switchWait))

/-- An evaluation of the placement is in flight. -/
def State.evaluating (s : State) (h place : Nat) : Bool := s.evals.any (fun e => e.handle == h && e.place == place)

/-- The run of number `seq` has evaluated, or every terrace it uses or routes through is good (R98). -/
def State.mayBegin (s : State) (g : Graph) (seq : Nat) : Bool :=
  (((s.runOf g.handle seq).bind s.cmd?).any (fun c => decide (0 < c.evals))) || s.tersGood g

/-- All conditions of R24, R98, R205 and R206 but the inputs; none fires in the pause of a change of FCLK (R91). -/
def State.mayFire (s : State) (g : Graph) (place : Nat) (p : Placement) (z : Score) (phys : List Nat) : Bool :=
  s.isMe p.dev && decide (0 < z.outCredits) && !s.evaluating g.handle place && g.begun z.runSeq &&
  s.terPower p.ter == .good && s.mayBegin g z.runSeq && phys.all (fun n => (s.basin n).wstate == .valid && s.periphGood n) && !s.laneWaits p &&
  s.enginesRun && s.pwr.fclkTo.isNone

/-- Tokens to the consumers of a firing placement, one per consumer slot: directly on the same terrace, by PREWAKE
elsewhere (R250). -/
def State.prewakeConsumers (s : State) (g : Graph) (p : Placement) (seq : Nat) : State :=
  let es := (g.cgd.edges.drop p.edgeFirst).take p.edgeCount
  let cons := (es.filterMap (fun e => if e.toPort then none else g.consumer e.dst)).eraseDups
  cons.foldl (fun t i => match g.cgd.places[i]? with
    | none => t
    | some c =>
      if t.isMe c.dev ∧ c.ter = p.ter then (g.phys.getD i []).foldl State.wakePeriph t
      else t.send { t.bare 0x11 1 with dstDev := c.dev, dstTer := c.ter, srcTer := p.ter, runSeq := seq, graph := g.handle
                                       arg := c.slots.headD 0 }) s

/-- The input buffer released at the settle step, and a CREDIT sent to every producer that writes into it (R237). -/
def State.releaseInput (s : State) (g : Graph) (p : Placement) (inp : Option (Nat × Slot × Buffer)) (buf : Nat) : State :=
  match inp with
  | none => s
  | some (i, x, b) =>
    let x' : Slot := { x with bufs := x.bufs.set buf { b with complete := !p.hasProducer } }
    let s1 := s.updGraph g.handle (fun g => { g with slots := g.slots.set i x' })
    (g.writers i).foldl (fun t w => t.sendCredit g w p.ter false b.runSeq) s1

/-- Cycles of an evaluation (Table 8-2, R217, R220). -/
def evalCycles (p : Placement) (exact allSkipped early : Bool) (skipped : Nat) : Nat :=
  if exact then p.worst
  else if allSkipped then 24
  else 36 + (p.phases - skipped) * p.phaseLen + (if early then 0 else 4 * p.q)

/-- What an evaluation will write, fixed when it fires: its outputs, and what it skipped (R207 to R223). -/
def State.evaluate (s : State) (g : Graph) (place : Nat) (p : Placement) (z : Score) (phys : List Nat)
    (bytes : List Byte) (zmap : List Bool) : Eval :=
  let set := s.settings g z.runSeq
  let exact := set.2
  let theta := if exact then 0 else set.1.getD place 0
  let skipped := p.skipped bytes zmap exact
  let all := !exact && skipped == p.phases
  let inputs := s.rowInputs p bytes
  let bottom := s.basin (phys.getLastD 0)
  let cols := (List.range p.cols).map (fun j =>
    if all then none else columnOut p (bottom.gain, bottom.offset) theta exact (s.dot p phys inputs j) (s.free + drawsPerColumn * j))
  let early := !exact && !all && cols.all (fun c => c.isNone)
  { handle := g.handle, place := place, runSeq := z.runSeq, outBuf := z.nextOut
    out := cols.map (fun c => BitVec.ofNat 8 (c.getD 0)), skipped := skipped, phases := p.phases, early := early
    exact := exact, cycles := evalCycles p exact all early skipped }

/-- The scoreboard entry after a firing (R237). -/
def Score.fired (z : Score) (inBufs outBufs : Nat) : Score :=
  { nextIn := (z.nextIn + 1) % max 1 inBufs, outCredits := z.outCredits - 1
    nextOut := (z.nextOut + 1) % max 1 outBufs, runSeq := (z.runSeq + 1) % 65536 }

/-- A placement fires: everything it reads is read, and what it will write is fixed (R211, R235). -/
def State.fire (s : State) (g : Graph) (place : Nat) (p : Placement) (z : Score) (phys : List Nat)
    (inp : Option (Nat × Slot × Buffer)) (corrected : Bool) : State :=
  let bytes := match inp with
    | some (_, x, _) => s.bufferBytes x z.nextIn p.fanin
    | none => []
  let zmap := match inp with
    | some (_, _, b) => b.zmap
    | none => []
  let ev := s.evaluate g place p z phys bytes zmap
  let allSkipped := !ev.exact && ev.skipped == ev.phases
  let bottom := phys.getLastD 0
  let low := (s.rowInputs p bytes).drop (1024 * (phys.length - 1))
  let trims := ((s.basin bottom).gain, (s.basin bottom).offset)
  let reads := if p.feature || allSkipped then [] else rideAlong low trims (s.free + drawsPerColumn * p.cols)
  let s1 := { s with evals := s.evals ++ [ev], free := s.free + drawsPerColumn * p.cols + 8 }
  let s2 := s1.updBasin bottom (fun b => { b with win := b.win ++ reads, reads := min 0xFFFF (b.reads + reads.length) })
  let s3 := s2.updTer p.ter (fun t => { t with fire := t.fire + 1, corrected := if corrected then satInc 0xFFF t.corrected else t.corrected })
  let s4 := s3.updGraph g.handle (fun g => { g with score := g.score.modify place (fun z => z.fired
    (((g.slots[p.inSlot]?).map (fun x => x.bufs.length)).getD 1) (((g.slots[p.outSlot]?).map (fun x => x.bufs.length)).getD 1)) })
  let s5 := match s4.runOf g.handle z.runSeq with
    | some c => s4.updCmd c (fun x => { x with evals := x.evals + 1, skipped := x.skipped + ev.skipped })
    | none => s4
  ((phys.foldl State.usePeriph s5).prewakeConsumers g p z.runSeq).releaseInput g p inp z.nextIn

/-- BASIN_FIRE: the placement fires where all its conditions hold (R24, R235). `cis`: 0 the lines read were sound, 1
corrected, 2 uncorrectable, which poisons the buffer (R253). -/
def execBasinFire (handle place : Nat) (cis : Fin 3) (s : State) : Host.Outcome State Fault Refusal :=
  .next (match s.graph? handle with
    | none => s
    | some g => match g.cgd.places[place]?, g.score[place]? with
      | some p, some z =>
        let phys := g.phys.getD place []
        let inp := g.inputOf p z
        if !(inp.1 && s.mayFire g place p z phys) then s
        else match cis.val, inp.2 with
          | 2, some (i, x, b) =>
            let x' : Slot := { x with bufs := x.bufs.set z.nextIn { b with poisoned := true } }
            ((s.uncorrectable p.ter (fun t => { t with uncorrCis := true })).updGraph handle (fun g =>
              { g with slots := g.slots.set i x' })).failRun handle z.runSeq p.ter
          | k, _ => s.fire g place p z phys inp.2 (k == 1)
      | _, _ => s)

/-- Counters of the bottom member (R214, R215, R217, R575). -/
def Basin.counted (b : Basin) (e : Eval) : Basin :=
  let all := !e.exact && e.skipped == e.phases
  { b with evCnt := b.evCnt + 1, skip := b.skip + BitVec.ofNat 32 e.skipped
           early := if e.early then b.early + 1 else b.early, allZero := if all then b.allZero + 1 else b.allZero }

/-- EVALUATION_COMPLETE: the output vector is written to its reserved buffer and its forwarder takes it (R211, R239). -/
def execEvaluationComplete (handle place : Nat) (s : State) : Host.Outcome State Fault Refusal :=
  .next (match s.evals.find? (fun e => e.handle == handle && e.place == place), s.graph? handle with
    | some e, some g => match g.cgd.places[place]? with
      | some p =>
        let fw : Forward := { handle := handle, place := place, runSeq := e.runSeq, buf := e.outBuf,
                              edges := (List.range p.edgeCount).map (fun i => p.edgeFirst + i) }
        let cis := match g.slots[p.outSlot]? with
          | some x => Memory.writeN s.cistern (x.addr e.outBuf) e.out
          | none => s.cistern
        let s1 : State := { s with evals := s.evals.filter (fun x => !(x.handle == handle && x.place == place))
                                   cistern := cis, fwds := s.fwds ++ [fw] }
        let s2 := s1.updBasin ((g.phys.getD place []).getLastD 0) (fun b => b.counted e)
        match s2.runOf handle e.runSeq with
        | some c => s2.updRun c (fun r => { r with doneP := r.doneP ++ [place] })
        | none => s2
      | none => s
    | _, _ => s)

/-! ### Trims (R197 to R202) -/

/-- Milliseconds of TMR_UPTIME, low 32 bits (BSN_TRIM_AT). -/
def State.nowMs (s : State) : Word := BitVec.ofNat 32 (s.tmr.uptime / 1000)

/-- A trim held in -128 to +127. -/
def holdTrim (v : Int) : Int := clampInt (-128) 127 v

/-- Trims set, and TRIM_SAT where one would pass its limit (R202). -/
def Basin.setTrims (b : Basin) (gain offset : Int) (at_ : Word) : Basin :=
  { b with gain := holdTrim gain, offset := holdTrim offset
           trimSat := b.trimSat || holdTrim gain != gain || holdTrim offset != offset, trimAt := at_ }

/-- Expected code of reference column k in a tracking evaluation, times 1,000,000: 64 rows at input 255, SCALE 1. -/
def trackExpected (k : Nat) : Int := 512 * 255 * ((List.range 64).map (fun r => refLevel k r)).sum

/-- A 10-bit successive approximation of a voltage in 1/1,000,000 code on the untrimmed ladder. -/
def sar10 (v : Int) : Nat :=
  (List.range 10).foldr (fun i y => if ((y + 2 ^ i : Nat) : Int) * 1000000 ≤ v then y + 2 ^ i else y) 0

/-- The signed reading of a reference column: the compare at code 0 in straight polarity selects the polarity of the successive
approximation (R197). -/
def trackReading (v : Int) : Int := if 0 ≤ v then sar10 v else -(sar10 (-v) : Int)

/-- The readings of the eight reference columns. -/
def readingsOf (r : TrackRead) : List Int := r.rc.map trackReading

/-- The voltages of a basin whose cells conduct as nominal. -/
def nominalRc : List Int := (List.range 8).map trackExpected

/-- Tracking evaluations of basin n: those the operand lists, or 16 of nominal voltages (R488, log 7). -/
def readingsFor (reads : List TrackRead) (n : Nat) : List (List Int) :=
  let l := (reads.filter (fun r => r.basin == n)).map readingsOf
  if l.isEmpty then List.replicate 16 (nominalRc.map trackReading) else l

/-- GAIN and OFFSET that the readings give (R199). -/
def trackTrims (rc : List Int) : Int × Int :=
  let r (k : Nat) : Int := rc.getD k 0
  let m := (r 0 - r 6) + (-(r 1) + r 6)
  (roundDiv (m * 1000000 - 1024 * (63 * 16320)) (63 * 16320), 4 * r 6)

/-- A reading lies within ±2 codes of its expected value under the trims. -/
def trackWithin (gain offset : Int) (k : Nat) (reading : Int) : Bool :=
  let e := trackExpected k * (1024 + gain) + offset * 256 * 1000000
  decide ((reading * 1024 * 1000000 - e).natAbs ≤ 2 * 1024 * 1000000)

/-- The readings verify under the trims they give (R199). -/
def trackVerifies (rc : List Int) : Bool :=
  let t := trackTrims rc
  [2, 3, 4, 5, 7].all (fun k => trackWithin (holdTrim t.1) (holdTrim t.2) k (rc.getD k 0))

/-- A basin after one tracking evaluation: new trims, or the old ones and a reference fault (R199). -/
def Basin.tracked (b : Basin) (rc : List Int) (at_ : Word) : Basin :=
  let c := { b with tracks := satInc 0xFFFF b.tracks, trackGroup := (b.trackGroup + 1) % 16 }
  if trackVerifies rc then
    let t := trackTrims rc
    { c.setTrims t.1 t.2 at_ with refFault := false }
  else { c with refFault := true }

/-- A tracking evaluation of one basin. -/
def State.track (s : State) (r : TrackRead) : State := s.updBasin r.basin (fun b => b.tracked (readingsOf r) s.nowMs)

/-- An admitted run uses the basin (R198). -/
def State.basinInRun (s : State) (n : Nat) : Bool :=
  s.graphs.any (fun g => !(s.runsOf g.handle).isEmpty && g.phys.any (fun l => l.contains n))

/-- TRACKING_EVALUATION: HK1 tracks an idle VALID or FAILED basin that no admitted run uses; the work stages a terrace that is not
powered, which is tracked once it is good (R94, R197, R198, R206). -/
def execTrackingEvaluation (read : TrackRead) (s : State) : Host.Outcome State Fault Refusal :=
  let b := s.basin read.basin
  if !trackWf read then .fault .illFormed
  else .next (if (b.wstate = .valid ∨ b.wstate = .failed) ∧ !s.basinInRun read.basin ∧ s.enginesRun ∧ s.pwr.fclkTo.isNone ∧
      s.sys.hkHalt.getLsbD 1 = false
    then (if s.terPower (read.basin / 64) = .good then s.track read else s.needTerraces [read.basin / 64]) else s)

/-- One step of a trim by the fraction of `n` compares that read above E: more than 5/8, fewer than 3/8 (R201). -/
def trimStep (n hi : Nat) : Int := if 5 * n < 8 * hi then 1 else if 8 * hi < 3 * n then -1 else 0

/-- RIDE_ALONG_WINDOW: a window of 256 reads closes and steps the trims (R201, R202). -/
def execRideAlongWindow (basin : Fin 4096) (s : State) : Host.Outcome State Fault Refusal :=
  let b := s.basin basin.val
  .next (if b.win.length < 256 then s
    else
      let w := b.win.take 256
      let g := w.filter (fun x => decide (x.1 ≤ 1))
      let o := w.filter (fun x => x.1 == 6)
      let hi (l : List (Nat × Bool)) : Nat := (l.filter (fun x => x.2)).length
      let dg := trimStep g.length (hi g)
      let dofs := trimStep o.length (hi o)
      s.updBasin basin.val (fun b =>
        let c := { b with win := b.win.drop 256 }
        if dg = 0 ∧ dofs = 0 then c else c.setTrims (b.gain + dg) (b.offset + dofs) s.nowMs))

end Sys2Proof.Machine
end

