-- ==== Sys2Proof/Machine/Camera.lean ====
section
/-! DEFINITION. Camera intake: CSI-2 ports, intake units, and the frames that runs receive (R278 to R293). -/

namespace Sys2Proof.Machine

/-! ### Pixels (R280) -/

/-- Data types whose long packets a unit can take (Table 11-1). -/
def dtSupported (dt : Nat) : Bool := planesOfDt dt != 0

/-- Pixels that a payload holds. -/
def pixelCount (dt n : Nat) : Nat :=
  match dt with
  | 0x2B => n / 5 * 4
  | 0x2C => n / 3 * 2
  | 0x1E => n / 4 * 2
  | 0x24 => n / 3
  | _ => n

/-- Place in the payload of the sample of plane `k` of pixel x (Table 11-2): RAW10 and RAW12 keep the upper 8 bits. -/
def sampleAt (dt k x : Nat) : Nat :=
  match dt with
  | 0x2B => x / 4 * 5 + x % 4
  | 0x2C => x / 2 * 3 + x % 2
  | 0x1E => if k = 0 then 2 * x + 1 else if k = 1 then x / 2 * 4 else x / 2 * 4 + 2
  | 0x24 => 3 * x + (2 - k)
  | _ => x

/-- Samples of plane `k` of the crop window in one line: chroma planes of YUV422 at half width; a missing pixel reads 0. -/
def cropLine (c : IntakeCfg) (k : Nat) (payload : List Byte) : List Byte :=
  let have_ := min 4096 (pixelCount c.dt payload.length)
  let half := c.dt = 0x1E ∧ k ≠ 0
  (List.range (if half then c.w / 2 else c.w)).map (fun i =>
    let x := if half then 2 * (c.x0 / 2 + i) else c.x0 + i
    if x < have_ then payload.getD (sampleAt c.dt k x) 0 else 0)

/-- Planes of a data type. -/
def planeCount (dt : Nat) : Nat := if planesOfDt dt = 7 then 3 else 1

/-- A row of k x k blocks averaged, rounding to nearest (R281). -/
def decimateRow (k width : Nat) (rows : List (List Byte)) : List Byte :=
  (List.range width).map (fun x =>
    let sum := (rows.map (fun r => ((sliceAt r (k * x) k).map (fun b => b.toNat)).sum)).sum
    BitVec.ofNat 8 ((sum + k * k / 2) / (k * k)))

/-- An output plane from the cropped lines of its source plane. -/
def decimate (c : IntakeCfg) (k : Nat) (lines : List (List Byte)) : List Byte :=
  (List.range (c.h / c.k)).flatMap (fun y => decimateRow c.k (planeWidth c.dt c.w c.k k) ((lines.drop (c.k * y)).take c.k))

/-! ### Frames (R279, R282, R284) -/

/-- A frame at its Frame Start. -/
def CamFrame.start (at_ : Nat) : CamFrame := { fsAt := at_, line := 0, raw := [], planes := [], damaged := false, sent := false }

/-- Line n lies inside the crop window. -/
def IntakeCfg.inCrop (c : IntakeCfg) (n : Nat) : Bool := decide (c.y0 ≤ n) && decide (n < c.y0 + c.h)

/-- A line that arrived, or one lost to its header, enters the open frame. -/
def CamFrame.addLine (f : CamFrame) (c : IntakeCfg) (lost crcOk : Bool) (payload : List Byte) : CamFrame :=
  let px := pixelCount c.dt payload.length
  let bad := lost || !crcOk || decide (4096 < px) || decide (px < c.x0 + c.w)
  let crop := c.inCrop f.line
  { f with line := f.line + 1, damaged := f.damaged || (crop && bad)
           raw := if crop then f.raw ++ [(List.range (planeCount c.dt)).map (fun k => cropLine c k (if lost then [] else payload))]
                  else f.raw }

/-- A frame at its end: missing lines read 0 and damage it, and its planes are formed. -/
def CamFrame.close (f : CamFrame) (c : IntakeCfg) (cut : Bool) : CamFrame :=
  let blank := (List.range (planeCount c.dt)).map (fun k => cropLine c k [])
  let lines := f.raw ++ List.replicate (c.h - f.raw.length) blank
  { f with damaged := f.damaged || cut || decide (f.raw.length < c.h), raw := []
           planes := (List.range (planeCount c.dt)).map (fun k =>
             if bitAt c.planes k then decimate c k (lines.map (fun l => l.getD k [])) else []) }

/-- The open frame of a unit ends: counted, and the newest complete frame unless DAMAGE drops it (R282, R289). -/
def Intake.endFrame (u : Intake) (cut : Bool) : Intake :=
  match u.cfg, u.cur with
  | some c, some f0 =>
    let f := f0.close c cut
    let u1 := { u with cur := none, complete := satInc 0xFFFF u.complete
                       damaged := if f.damaged then satInc 0xFFFF u.damaged else u.damaged }
    if f.damaged ∧ c.damage = 0 then u1
    else { u1 with newest := some f, fs := BitVec.ofNat 32 f.fsAt
                   superseded := match u.newest with
                     | some o => if o.sent then u.superseded else satInc 0xFFFF u.superseded
                     | none => u.superseded }
  | _, _ => u

/-- Settings take packets of a port and virtual channel. -/
def IntakeCfg.takes (c : IntakeCfg) (port vc : Nat) : Bool := c.port == port && c.vc == vc

/-- A Frame Start for a unit: an open frame of the channel is cut short and ends damaged (R293); waiting settings apply and empty
the store (R291). -/
def Intake.frameStart (u0 : Intake) (port vc now : Nat) : Intake :=
  let mine := (u0.cfg.map (fun c => c.takes port vc)) == some true
  let u := if mine then u0.endFrame true else u0
  if (u.next.map (fun c => c.takes port vc)) = some true then
    let c := u.next
    if (c.map (fun x => x.bands.isEmpty)) = some true then
      { u with cfg := none, next := none, cur := none, newest := none, deliver := none }
    else { u with cfg := c, next := none, cur := some (CamFrame.start now), newest := none, deliver := none }
  else if mine then { u with cur := some (CamFrame.start now) }
  else u

/-- CSI-2 packets reach a port that is enabled and powered. -/
def State.csiLive (s : State) (port : Nat) : Bool := (s.csiPort port).en

/-- A packet whose header had one wrong bit is used, and counted (R293). -/
def State.countCorrected (s : State) (port : Nat) (corrected : Bool) : State :=
  if corrected then s.updCsi port (fun p => { p with corrected := satInc 0xFFFF p.corrected }) else s

/-- CSI_FRAME_START. -/
def execCsiFrameStart (port : Fin 2) (head : CsiShort) (s : State) : Host.Outcome State Fault Refusal :=
  .next (if s.csiLive port.val then
      { s.countCorrected port.val head.corrected with intake := s.intake.map (fun (u : Intake) => u.frameStart port.val head.vc.val s.tmr.uptime) } else s)

/-- CSI_FRAME_END: the open frames of the channel end (R282); ignored where none is open (R293). -/
def execCsiFrameEnd (port : Fin 2) (head : CsiShort) (s : State) : Host.Outcome State Fault Refusal :=
  .next (if s.csiLive port.val then
      { s.countCorrected port.val head.corrected with intake := s.intake.map (fun (u : Intake) =>
        if (u.cfg.map (fun c => c.takes port.val head.vc.val)) = some true then u.endFrame false else u) }
    else s)

/-- A unit takes a long packet whose channel and data type it selects, inside a frame (R279). -/
def Intake.takeLine (u : Intake) (port vc dt : Nat) (lost crcOk : Bool) (payload : List Byte) : Intake :=
  match u.cfg, u.cur with
  | some c, some f => if c.takes port vc && c.dt == dt then { u with cur := some (f.addLine c lost crcOk payload) } else u
  | _, _ => u

/-- CSI_LONG_PACKET: header and payload checks, and the line (R279 to R281, R284, R293). -/
def execCsiLongPacket (port : Fin 2) (vc : Fin 4) (dt : Nat) (corrected dropped crcOk : Bool) (payload : List Byte)
    (s : State) : Host.Outcome State Fault Refusal :=
  .next (
    if !s.csiLive port.val then s
    else
      let unsup := !dropped && !dtSupported dt && dt != 0x12
      let s1 := s.updCsi port.val (fun p =>
        { p with corrected := if corrected && !dropped then satInc 0xFFFF p.corrected else p.corrected
                 dropped := if dropped then satInc 0xFFFF p.dropped else p.dropped
                 crcLines := if !dropped && !crcOk then satInc 0xFFFF p.crcLines else p.crcLines
                 unsup := if unsup then satInc 0xFFFF p.unsup else p.unsup })
      if dropped || dtSupported dt then
        { s1 with intake := s1.intake.map (fun (u : Intake) => u.takeLine port.val vc.val dt dropped crcOk payload) }
      else s1)

/-! ### Commands (R290, R291) -/

/-- A unit reads the port. -/
def State.portRead (s : State) (port : Nat) : Bool :=
  s.intake.any (fun u => (u.cfg.map (fun c => c.port)) == some port || (u.next.map (fun c => c.port)) == some port)

/-- CSI_CONFIG: the port set, its counters cleared; disabling completes at once, enabling when its lanes are in stop
state (R290). -/
def execCsiConfig (ring : Fin 1024) (s : State) : Host.Outcome State Fault Refusal :=
  let g := ring.val
  .next (s.onHead g 0x24 false (fun p =>
    let port := par p 0x10 1
    let en := par p 0x11 1 == 1
    if s.portRead port then s.refuse g p endState
    else
      let c : CsiPort := { CsiPort.initial with en := en, lanes := par p 0x12 1, rate := par p 0x14 2 }
      let s1 := ((s.accept g p (.csi port) none 0).updCsi port (fun _ => c)).notePeak
      if en then s1.settle g else s1.finish s.nextCid endDone))

/-- LANE_STOP_STATE: the state of a port's lanes; with every configured lane in stop state, its CSI_CONFIG completes
(R290). -/
def execLaneStopState (port : Fin 2) (stop : BitVec 4) (clkHs deskew : Bool) (s : State) :
    Host.Outcome State Fault Refusal :=
  let c := s.csiPort port.val
  .next (
    if !c.en then s
    else
      let s1 := s.updCsi port.val (fun p => { p with stop := stop, clkHs := clkHs, deskew := p.deskew || deskew })
      if (List.range c.lanes).all (fun k => stop.getLsbD k) then
        (s1.cmds.filterMap (fun x => match x.body with
          | .csi q => if q = port.val then some x.cid else none
          | _ => none)).foldl (fun t k => t.finish k endDone) s1
      else s1)

/-- The settings an INTAKE_CONFIG packet carries (Table 13-5). -/
def intakeOf (p : List Byte) : IntakeCfg :=
  { port := par p 0x11 1, vc := par p 0x12 1, dt := par p 0x13 1, x0 := par p 0x14 2, y0 := par p 0x16 2
    w := par p 0x18 2, h := par p 0x1A 2, k := par p 0x1C 1, planes := par p 0x1D 1, damage := bitsAt (par p 0x1E 1) 0 2
    stale := bitAt (par p 0x1E 1) 2, maxAge := par p 0x20 4, handle := par p 0x24 2
    bands := (List.range (par p 0x1F 1)).map (fun b =>
      { plane := par p (0x28 + 6 * b) 1, port := par p (0x29 + 6 * b) 1, firstRow := par p (0x2A + 6 * b) 2
        rows := par p (0x2C + 6 * b) 2 }) }

/-- Bytes of a band (R286). -/
def IntakeCfg.bandBytes (c : IntakeCfg) (b : Band) : Nat := planeWidth c.dt c.w c.k b.plane * b.rows

/-- The lowest offset at which the bands do not fit the graph's ports (Table 11-3 row 2, R286). -/
def bandFault (c : IntakeCfg) (unit : Nat) (g : Graph) : Option Nat :=
  firstFault ((c.bands.mapIdx (fun i b => [
    (0x29 + 6 * i, match g.cgd.ports[b.port]? with
      | some o => o.kind != 2 || o.unit != unit
      | none => true),
    (0x2C + 6 * i, match g.cgd.ports[b.port]? with
      | some o => o.bytes != c.bandBytes b
      | none => false)])).flatten)

/-- INTAKE_CONFIG (Table 11-3): it applies at the next Frame Start on its channel. -/
def execIntakeConfig (ring : Fin 1024) (s : State) : Host.Outcome State Fault Refusal :=
  let r := ring.val
  .next (s.onHead r 0x25 false (fun p =>
    let unit := par p 0x10 1
    let c := intakeOf p
    match s.liveGraph c.handle with
    | none => s.refuse r p (endParam 0x24)
    | some g => match bandFault c unit g with
      | some off => s.refuse r p (endParam off)
      | none =>
        if !(s.csiPort c.port).en then s.refuse r p endState
        else s.completeWith r p (fun t => t.updUnit unit (fun u =>
          { u with next := some c, complete := 0, damaged := 0, repeated := 0, superseded := 0, zero := 0 })) endDone))

/-! ### Delivery to runs (R285 to R289) -/

/-- Bytes of one band of a frame's planes, or zeros. -/
def bandOf (c : IntakeCfg) (f : Option CamFrame) (b : Band) : List Byte :=
  let n := c.bandBytes b
  match f with
  | some x => sliceAt (x.planes.getD b.plane []) (planeWidth c.dt c.w c.k b.plane * b.firstRow) n
  | none => List.replicate n 0

/-- The settings of a unit that is bound to graph h: those in force, or those that wait while it has none. -/
def Intake.bound (u : Intake) (h : Nat) : Option IntakeCfg :=
  let of (c : Option IntakeCfg) : Option IntakeCfg := c.filter (fun x => x.handle == h && !x.bands.isEmpty)
  (of u.cfg).or (of u.next)

/-- The frame a unit selects for a run admitted now: the newest complete one, none where zeros are sent (R285, R288). -/
def Intake.select (u : Intake) (c : IntakeCfg) (now : Nat) : Option CamFrame :=
  if u.cfg ≠ some c then none
  else u.newest.filter (fun f => !(c.stale && decide (f.fsAt + c.maxAge < now)))

/-- Counters, and the frame being delivered, of a unit that has selected for a run. -/
def Intake.selected (u : Intake) (f : Option CamFrame) (now : Nat) : Intake :=
  match f with
  | none => { u with zero := satInc 0xFFFF u.zero }
  | some x => { u with repeated := if x.sent then satInc 0xFFFF u.repeated else u.repeated
                       age := BitVec.ofNat 32 (now - x.fsAt), deliver := some { x with sent := true }
                       newest := u.newest.map (fun n => { n with sent := true }) }

/-- What a run admitted now takes from both units: the bands, and the unit whose damaged frame it must report. -/
def State.takeFrames (s : State) (h : Nat) : State × List (Nat × Nat × List Byte) × Option Nat :=
  (List.range 2).foldl (fun acc i =>
    let u := acc.1.unit i
    match u.bound h with
    | none => acc
    | some c =>
      let f := u.select c s.tmr.uptime
      let bad := c.damage == 1 && (f.map (fun x => x.damaged)).getD false
      (acc.1.updUnit i (fun u => u.selected f s.tmr.uptime), acc.2.1 ++ c.bands.map (fun b => (i, b.port, bandOf c f b)),
        if bad then acc.2.2.or (some i) else acc.2.2)) (s, [], none)

/-- Tensors of one source that a begun run holds for its ports are handed over. -/
def State.feedPorts (s : State) (cid source : Nat) : State :=
  match s.cmd? cid with
  | none => s
  | some c => match c.body with
    | .run r =>
      if !r.begun then s
      else
        let s1 := s.updRun cid (fun r => { r with feeds := r.feeds.filter (fun f => f.1 != source) })
        (r.feeds.filter (fun f => f.1 == source)).foldl (fun t f => t.portData r.handle f.2.1 r.runSeq f.2.2) s1
    | _ => s

/-- INTAKE_DELIVERY: a unit's bands are sent to the run's slots, each as its credit allows (R285, R287). -/
def execIntakeDelivery (cid : Nat) (unit : Fin 2) (s : State) : Host.Outcome State Fault Refusal :=
  .next ((s.feedPorts cid unit.val).updUnit unit.val (fun u => { u with deliver := none }))

end Sys2Proof.Machine
end

