-- ==== Sys2Proof/Machine/SluiceOps.lean ====
section
/-! DEFINITION. The sluice: bookings, frames, the decision of each FCLK cycle, and runs from admission to their record
(R26, R262, R346, R347, R360 to R379, R576). Times of bookings are in nanoseconds of TMR_UPTIME. -/

namespace Sys2Proof.Machine

/-- TMR_UPTIME in ns. -/
def State.nowNs (s : State) : Nat := 1000 * s.tmr.uptime

/-- The period in force, in ns. -/
def State.periodNs (s : State) : Nat := 1000 * s.slc.curPeriod

/-- An uptime given as TMR_UPTIME[47:0], as a count of µs: before or after now by less than 2^47 (R107). -/
def State.absolute (s : State) (d : Nat) : Int :=
  let x : Nat := (d % 2 ^ 48 + 2 ^ 48 - s.now48) % 2 ^ 48
  (s.tmr.copy : Int) + (if x < 2 ^ 47 then (x : Int) else (x : Int) - 2 ^ 48)

/-! ### Bookings (R361, R362, R378) -/

/-- Booked runs that have not completed: command and run. -/
def State.bookings (s : State) : List (Cmd × Run) :=
  s.cmds.filterMap (fun c => match c.body with
    | .run r => some (c, r)
    | _ => none)

/-- Booked runs of one graph. -/
def State.booked (s : State) (h : Nat) : List (Cmd × Run) := s.bookings.filter (fun b => b.2.handle == h)

/-- The booking that ends latest, the later one between equals. -/
def latest (l : List (Cmd × Run)) : Option (Cmd × Run) :=
  l.foldl (fun best b => match best with
    | none => some b
    | some x => if x.2.bound ≤ b.2.bound then some b else some x) none

/-- The ring with the most bookings, the lower number between equals (log 9). -/
def State.busiestRing (s : State) : Option Nat :=
  let rings := s.bookings.map (fun b => b.1.ring)
  rings.foldl (fun best r => match best with
    | none => some r
    | some x => if rings.count x < rings.count r ∨ (rings.count r = rings.count x ∧ r < x) then some r else some x) none

/-- REFUSED_CAPACITY with its holder (Table 14-3). -/
def endCapacity (holder : Option Nat) : End := { endOf stCapacity 0 with cause := 1, holder := holder }

/-- Check 1 of Table 14-2. -/
def State.tableFull (s : State) (h : Nat) : Option End :=
  if 4096 ≤ s.bookings.length then some (endCapacity s.busiestRing)
  else if 64 ≤ (s.booked h).length then some (endCapacity ((latest (s.booked h)).map (fun b => b.1.ring)))
  else none

/-- WC + XALLOW_NS of a run, and SYNC_ALLOW_NS where a synchronous pair mirrors it (R361, R474). -/
def State.runNeed (s : State) (g : Graph) : Nat := s.wcNs g + s.slc.xallow + s.syncAllowNs g.devs

/-- The frame reservation, which ends when GRAPH_UNLOAD is accepted (R272). -/
def Graph.window (g : Graph) : Option (Nat × Nat) := if g.unload.isSome then none else g.frame

/-- Fire instant and end of the current frame's window, in ns. -/
def State.windowNow (s : State) (f : Nat × Nat) : Nat × Nat :=
  let fire := 1000 * (s.slc.frameAt + f.1)
  (fire, fire + 1000 * f.2)

/-- Spans in which a window of a frame-bound graph may lie, as far as the horizon reaches, each with the number of frames from
the current one (R370). -/
def State.frameSpans (s : State) (g : Graph) : List (Nat × Nat × Nat) :=
  match g.window with
  | none => []
  | some f =>
    let last := 1000 * s.slc.frameAt
    (if s.slc.released.contains g.handle then [] else [(0, s.windowNow f)]) ++
    (List.range 8).map (fun i => let k := i + 1
      (k, last + k * 15 * s.periodNs / 16 + 1000 * f.1, last + k * 5 * s.periodNs / 4 + 1000 * (f.1 + f.2)))

/-- The spans alone. -/
def State.spans (s : State) (g : Graph) : List (Nat × Nat) := (s.frameSpans g).map (fun x => x.2)

/-- The earliest start from `t` on whose booking of `need` overlaps no span. -/
def clearOf (spans : List (Nat × Nat)) (need : Nat) (fuel t : Nat) : Nat :=
  match fuel with
  | 0 => t
  | n + 1 => match spans.find? (fun x => decide (t < x.2) && decide (x.1 < t + need)) with
    | some x => clearOf spans need n x.2
    | none => t

/-- Bound of the graph's latest booking outside its windows (E of R361). -/
def State.bookedUntil (s : State) (h : Nat) : Nat :=
  (((s.booked h).filter (fun b => b.2.window.isNone)).map (fun b => b.2.bound)).foldl max s.nowNs

/-- Time that the terraces which a run uses on other devices of the chain still need to be good: the spec does not say how the
master knows it, a free value (R27, R97, log 46). -/
def State.memberStaging (s : State) (g : Graph) : Nat :=
  if g.devs.all (fun d => s.isMe d) then 0 else Config.memberStaging s.free

/-- P of R361 for a run of the graph. -/
def State.runStaged (s : State) (g : Graph) : Nat := max (s.stagedBy (s.graphTers g)) (s.nowNs + s.memberStaging g)

/-- S of R361, kept clear of the spans of R370. -/
def State.bookStart (s : State) (g : Graph) : Nat :=
  clearOf (s.spans g) (s.runNeed g) 10 (max (s.bookedUntil g.handle) (s.runStaged g))

/-- The horizon: four periods from admission (R362). -/
def State.horizon (s : State) : Nat := s.nowNs + 4 * s.periodNs

/-- The head wake is held until the end of the last span that lies between admission and S (R576). -/
def State.heldUntil (s : State) (g : Graph) (start : Nat) : Nat :=
  (((s.spans g).filter (fun x => decide (s.nowNs < x.2) && decide (x.2 ≤ start))).map (fun x => x.2)).foldl max 0

/-- The ring of the admitted run whose terraces stage last ahead of a run of the graph (Table 14-3): the last terrace that
waits to stage, else the one that will be good last, terraces of the graph itself left out. -/
def State.stagingRing (s : State) (g : Graph) : Option Nat :=
  let own := s.graphTers g
  let charging := (List.range 64).filter (fun t => !own.contains t && (match s.terPower t with
    | .charging _ => true
    | _ => false))
  let lastGood := charging.foldl (fun best t => match best with
    | none => some t
    | some b => if s.goodAt b ≤ s.goodAt t then some t else some b) none
  let last := ((s.pwr.stageQ.filter (fun t => !own.contains t)).getLast?).or lastGood
  match last with
  | none => none
  | some t => (s.bookings.find? (fun b => match s.graph? b.2.handle with
      | some g => (s.graphTers g).contains t
      | none => false)).map (fun b => b.1.ring)

/-- The ring that stands before a booking (Table 14-3): that of the run booked in the window it was kept clear of, or, for a
window not yet claimed, the ring that loaded the graph; that of the booking ahead of it; or of the staging ahead of it. -/
def State.ahead (s : State) (g : Graph) (start : Nat) : Option Nat :=
  match (s.frameSpans g).find? (fun x => x.2.2 == start), s.slc.frame with
  | some x, some k =>
    some ((((s.booked g.handle).find? (fun b => (b.2.window.map (fun w => w.1)) == some (k + x.1))).map (fun b => b.1.ring)).getD g.loadRing)
  | _, _ =>
    if start = s.bookedUntil g.handle ∧ s.nowNs < start then
      (latest ((s.booked g.handle).filter (fun b => b.2.window.isNone))).map (fun b => b.1.ring)
    else s.stagingRing g

/-- REFUSED_DEADLINE for a bound (ns) beyond a deadline (µs): LATENESS is the excess, rounded up (R353). -/
def endLate (bound : Nat) (deadline : Int) (cause : Nat) (holder : Option Nat) : End :=
  { endOf stDeadline 0 with late := ceilDiv ((bound : Int) - 1000 * deadline).toNat 1000, cause := cause, holder := holder }

/-! ### Admission (R346, R361, R375) -/

/-- The first TENSOR port of a graph with no staged buffer (R347). -/
def State.unstagedPort (s : State) (g : Graph) : Option Nat :=
  firstBad g.cgd.ports (fun i o => decide (o.kind ≤ 1) && !s.staged.any (fun x => x.handle == g.handle && x.port == i))

/-- The oldest staged buffer of each TENSOR port, given to a run (R346). -/
def State.takeStaged (s : State) (g : Graph) : State × List (Nat × Option DWord) :=
  (List.range g.cgd.ports.length).foldl (fun acc i =>
    match g.cgd.ports[i]? with
    | some o =>
      if o.kind ≤ 1 then
        match acc.1.staged.find? (fun x => x.handle == g.handle && x.port == i) with
        | some b => ({ acc.1 with staged := acc.1.staged.erase b }, acc.2 ++ [(i, some b.addr)])
        | none => (acc.1, acc.2 ++ [(i, none)])
      else acc
    | none => acc) (s, [])

/-- DMA reads of the input buffers a run was given. -/
def State.readInputs (s : State) (g : Graph) (f : Nat) (bufs : List (Nat × Option DWord)) : State :=
  bufs.foldl (fun t b => match g.cgd.ports[b.1]?, b.2 with
    | some o, some a => if o.kind = 0 then t.dmaRead f a o.bytes else t
    | _, _ => t) s

/-- A run admitted and booked (R346, R361, R376): it takes its buffers, its camera frames, its settings, and the
terraces it uses are staged. -/
def State.admitRun (s : State) (r : Nat) (p : List Byte) (g : Graph) (start bound : Nat) (window : Option (Nat × Nat))
    (notBefore : Nat) (deadline : Option Nat) : State :=
  let st := s.takeStaged g
  let fr := st.1.takeFrames g.handle
  let zeros := (st.2.filter (fun b => b.2.isNone && (g.cgd.ports[b.1]?).any (fun o => o.kind == 0))).map
    (fun b => (2, b.1, List.replicate (((g.cgd.ports[b.1]?).map (fun o => o.bytes)).getD 0) 0))
  let run : Run :=
    { handle := g.handle, runSeq := 0, start := start, bound := bound, window := window, theta := g.theta, exact := g.exact
      bufs := st.2, feeds := fr.2.1 ++ zeros, notBefore := notBefore, begun := false, doneP := [], doneT := [], fault := none
      damaged := fr.2.2, underrun := (st.2.find? (fun b => b.2.isNone)).map (fun b => b.1), readPorts := []
      lateCause := if g.devs.any (fun d => (s.casc.chain[d]?).any (fun m => m.state == 5)) then 5 else 4, faultRing := none, behind := none, parts := [] }
  let s1 := fr.1.accept r p (.run run) deadline (if g.frame.isSome then 0 else s.graphPower g)
  let s2 := ((s1.readInputs g (s.ringFunc r) st.2).needTerraces (s.graphTers g)).notePeak
  { s2 with slc := { s2.slc with peak := max s2.slc.peak s2.bookings.length, waiting := s2.slc.waiting.filter (fun x => x != r) } }

/-- A waiting command leaves the sluice refused. -/
def State.refuseRun (s : State) (r : Nat) (p : List Byte) (e : End) : State :=
  ({ s with free := s.free + 1, slc := { s.slc with waiting := s.slc.waiting.filter (fun x => x != r) } }).refuse r p e

/-- The outcome of Table 14-2 for a GRAPH_RUN of a ring of class 1 to 3: refused with an end, waiting, or booked. -/
inductive Verdict where
  | refused (e : End)
  | waits
  | booked (start bound : Nat)
  deriving DecidableEq, Repr

/-- Checks 4 and 5 of Table 14-2 for a start and a bound. -/
def State.bookVerdict (s : State) (g : Graph) (cls : Nat) (deadline : Int) (start : Nat) : Verdict :=
  let bound := start + s.runNeed g
  if g.window.isSome ∧ s.slc.frame.isNone then (if cls = 1 then .refused (endCapacity none) else .waits)
  else if s.horizon < bound then
    (if cls = 1 then .refused (endCapacity ((latest (s.booked g.handle)).map (fun b => b.1.ring))) else .waits)
  else if cls = 1 ∧ 1000 * deadline < (bound : Int) then .refused (endLate bound deadline 4 (s.ahead g start))
  else .booked start bound

/-- Table 14-2 for GRAPH_RUN. -/
def State.runVerdict (s : State) (g : Graph) (cls : Nat) (deadline : Int) : Verdict :=
  match s.tableFull g.handle with
  | some e => .refused e
  | none =>
    let idle := max (s.stagedIdle (s.graphTers g)) (s.nowNs + s.memberStaging g) + s.runNeed g
    if cls = 1 ∧ 1000 * deadline < (idle : Int) then .refused (endLate idle deadline 3 none)
    else match s.powerRefusal (if g.frame.isSome then 0 else s.graphPower g) with
      | some e => .refused e
      | none => s.bookVerdict g cls deadline (s.bookStart g)

/-- A GRAPH_RUN decided (R372, R373, R375). -/
def State.decideRun (s : State) (r : Nat) (p : List Byte) : State :=
  match s.liveGraph (par p 0x10 2) with
  | none => s.refuseRun r p (endParam 0x10)
  | some g => match s.unstagedPort g with
    | some i => s.refuseRun r p (endOf stState i)
    | none =>
      if s.mirrorStopped g.devs then s
      else
        let d := pktDeadline p
        match s.runVerdict g (s.ring r).cls (s.absolute d) with
        | .refused e => s.refuseRun r p e
        | .waits => s
        | .booked start bound =>
          (s.admitRun r p g start bound none (s.heldUntil g start) (if d = 0 then none else some d)).settle r

/-! ### GRAPH_RUN_FRAME (R369) -/

/-- TMR_UPTIME at the start of a frame, none where it lies too far back to be told (R369). -/
def State.frameStart (s : State) (f : Nat) : Option Nat :=
  match s.slc.frame with
  | none => none
  | some k => if f = k then some s.slc.frameAt else if f < k then s.slc.starts[k - f - 1]? else none

/-- REFUSED_DEADLINE of a frame whose window has too little left: the bound would end after the window by so much. -/
def State.endWindow (s : State) (g : Graph) (f : Nat × Nat) (frame : Nat) : End :=
  match s.frameStart frame with
  | some at_ => endLate (s.nowNs + s.runNeed g) ((at_ + f.1 + f.2 : Nat) : Int) 3 none
  | none => { endOf stDeadline 0 with late := 0xFFFF, cause := 3 }

/-- The run booked in the window of a frame. -/
def State.windowRun (s : State) (h frame : Nat) : Option (Cmd × Run) :=
  (s.booked h).find? (fun b => (b.2.window.map (fun w => w.1)) == some frame)

/-- A run booked in the window of a frame, current or to come, whose start is `last` (µs) nominally. -/
def State.bookWindow (s : State) (r : Nat) (p : List Byte) (g : Graph) (f : Nat × Nat) (frame last : Nat) : State :=
  let fire := 1000 * (last + f.1)
  let end_ := fire + 1000 * f.2
  (s.admitRun r p g fire (fire + s.runNeed g) (some (frame, end_)) fire (some (last + f.1 + f.2))).settle r

/-- A GRAPH_RUN_FRAME for the current frame whose fire instant has passed. -/
def State.afterFire (s : State) (r : Nat) (p : List Byte) (g : Graph) (f : Nat × Nat) (frame : Nat) : State :=
  let w := s.windowNow f
  if w.2 < s.nowNs + s.runNeed g then s.refuseRun r p (s.endWindow g f frame)
  else if !s.slc.released.contains g.handle then
    s.refuseRun r p (endCapacity ((s.windowRun g.handle frame).map (fun b => b.1.ring)))
  else
    let start := max (s.bookedUntil g.handle) (s.runStaged g)
    let bound := start + s.runNeed g
    let end_ := s.slc.frameAt + f.1 + f.2
    if 1000 * end_ < bound then s.refuseRun r p (endLate bound (end_ : Nat) 4 (s.ahead g start))
    else (s.admitRun r p g start bound none 0 (some end_)).settle r

/-- A GRAPH_RUN_FRAME decided (R369). -/
def State.decideFrame (s : State) (r : Nat) (p : List Byte) : State :=
  match s.liveGraph (par p 0x10 2) with
  | none => s.refuseRun r p (endParam 0x10)
  | some g => match g.window with
    | none => s.refuseRun r p endState
    | some f =>
      if s.mirrorStopped g.devs then s
      else match s.tableFull g.handle with
        | some e => s.refuseRun r p e
        | none => match s.slc.frame with
          | none => s
          | some k =>
            let frame := pktDeadline p
            if frame < k then s.refuseRun r p (s.endWindow g f frame)
            else if frame = k ∧ (s.slc.fired.contains g.handle ∨ (s.windowNow f).1 < s.nowNs) then s.afterFire r p g f frame
            else
              let last := s.slc.frameAt + (frame - k) * s.slc.curPeriod
              if s.horizon < 1000 * (last + f.1) + s.runNeed g then s
              else match s.windowRun g.handle frame with
                | some b => s.refuseRun r p (endCapacity (some b.1.ring))
                | none => s.bookWindow r p g f frame last

/-! ### The decision of a cycle (R374) -/

/-- Ring a is considered before ring b, both waiting, `i` and `j` their places in the order of arrival. -/
def considerBefore (a b : Ring) (ga gb i j : Nat) : Bool :=
  if a.cls ≠ b.cls then decide (a.cls < b.cls)
  else if a.prio ≠ b.prio then decide (b.prio < a.prio)
  else if a.cls ≤ 1 then decide (ga < gb) else decide (i < j)

/-- A waiting ring put into its place among those considered before it. -/
def State.placeRing (s : State) (x : Nat × Nat) : List (Nat × Nat) → List (Nat × Nat)
  | [] => [x]
  | y :: l => if considerBefore (s.ring x.2) (s.ring y.2) x.2 y.2 x.1 y.1 then x :: y :: l else y :: s.placeRing x l

/-- The waiting rings in the order in which the sluice considers them. -/
def State.considered (s : State) : List Nat :=
  ((s.slc.waiting.mapIdx (fun i g => (i, g))).foldl (fun l x => s.placeRing x l) []).map (fun x => x.2)

/-- One waiting ring's head command decided; a ring whose head is no run any more stops waiting. -/
def State.decide1 (s : State) (r : Nat) : State :=
  match (s.ring r).headPacket with
  | none => { s with slc := { s.slc with waiting := s.slc.waiting.filter (fun x => x != r) } }
  | some (p, _) =>
    if pktOp p = 0x12 then s.onHead r 0x12 false (s.decideRun r)
    else if pktOp p = 0x13 then s.onHead r 0x13 false (s.decideFrame r)
    else { s with slc := { s.slc with waiting := s.slc.waiting.filter (fun x => x != r) } }

/-- The runs that the sluice considers before the head command of ring r, decided: another command that needs its decision
comes after them (R360, R374). -/
def State.decideAhead (s : State) (r : Nat) : State :=
  if !(s.enginesRun && s.pwr.dev != .dry) then s
  else (s.considered.filter (fun x => x != r && considerBefore (s.ring x) (s.ring r) x r (s.slc.waiting.idxOf x) s.slc.waiting.length)).foldl
    State.decide1 s

/-- SLUICE_DECISION: every ready command booked or refused, in the order of R374. -/
def execSluiceDecision (s : State) : Host.Outcome State Fault Refusal :=
  .next (if s.enginesRun && s.pwr.dev != .dry then s.considered.foldl State.decide1 s else s)

/-- The head command of ring r reaches the sluice and waits for its decision. -/
def State.toSluice (s : State) (r : Nat) : State :=
  if s.slc.waiting.contains r then s else { s with slc := { s.slc with waiting := s.slc.waiting ++ [r] } }

/-- A GRAPH_RUN or GRAPH_RUN_FRAME that the checks before the sluice refuse (R339, R347, Table 13-4). -/
def State.runRefusal (s : State) (p : List Byte) (frame : Bool) : Option End :=
  match s.liveGraph (par p 0x10 2) with
  | none => some (endParam 0x10)
  | some g => match s.lostDev g with
    | some d => some (endOf stFault (s.lostWord d))
    | none => if frame then (if g.window.isNone then some endState else none)
      else (s.unstagedPort g).map (fun i => endOf stState i)

/-- GRAPH_RUN: the checks before the sluice; then it waits for the decision (R347, R360). -/
def execGraphRun (ring : Fin 1024) (s : State) : Host.Outcome State Fault Refusal :=
  .next (s.onHead ring.val 0x12 false (fun p => match s.runRefusal p false with
    | some e => s.refuseRun ring.val p e
    | none => s.toSluice ring.val))

/-- GRAPH_RUN_FRAME: the checks before the sluice; then it waits for the decision (R360, R369). -/
def execGraphRunFrame (ring : Fin 1024) (s : State) : Host.Outcome State Fault Refusal :=
  .next (s.onHead ring.val 0x13 false (fun p => match s.runRefusal p true with
    | some e => s.refuseRun ring.val p e
    | none => s.toSluice ring.val))

/-! ### A run begins (R26, R98, R576) -/

/-- First-layer placements: no edge of the same run feeds them. -/
def Cgd.firstLayer (c : Cgd) : List Nat :=
  (List.range c.places.length).filter (fun i => !c.edges.any (fun e => !e.toPort && !e.delay && c.consumer e.dst == some i))

/-- The peripheries of a graph's first-layer basins wake (R26). -/
def State.headWake (s : State) (g : Graph) : State :=
  (g.cgd.firstLayer.flatMap (fun i => g.phys.getD i [])).foldl State.wakePeriph s

/-- A run starts: its run sequence number is given out, its peripheries wake, its host tensors go to its ports, and the
members that hold part of its graph are told. -/
def State.beginRun (s : State) (cid : Nat) : State :=
  match (s.cmd? cid).bind (fun c => match c.body with
    | .run r => some r
    | _ => none) with
  | none => s
  | some r => match s.graph? r.handle with
    | none => s
    | some g =>
      let s1 := (s.updRun cid (fun r => { r with begun := true, runSeq := g.nextSeq })).updGraph g.handle
        (fun g => { g with nextSeq := (g.nextSeq + 1) % 65536 })
      ((s1.headWake g).tellMembers cid g (.run g.handle g.nextSeq r.exact r.theta)).feedPorts cid 2

/-- No earlier run of the graph outside its windows still waits to begin. -/
def State.inTurn (s : State) (h cid : Nat) : Bool :=
  (s.booked h).all (fun b => b.2.begun || b.2.window.isSome || decide (cid ≤ b.1.cid))

/-- RUN_HEAD_WAKE: an admitted run begins as soon as its terraces are good and no span holds it back (R26, R576). -/
def execRunHeadWake (cid : Nat) (s : State) : Host.Outcome State Fault Refusal :=
  .next (match (s.cmd? cid).bind (fun c => match c.body with
      | .run r => some r
      | _ => none) with
    | none => s
    | some r => match s.graph? r.handle with
      | none => s
      | some g =>
        if r.begun || r.window.isSome || !s.enginesRun || !s.tersGood g || decide (s.nowNs < r.notBefore) || !s.inTurn r.handle cid
        then s else s.beginRun cid)

/-- FIRE_INSTANT: the run booked in the window fires, or the window is released for the frame (R369, R371, R379). -/
def execFireInstant (handle : Nat) (s : State) : Host.Outcome State Fault Refusal :=
  .next (match s.graph? handle, s.slc.frame with
    | some g, some k => match g.frame with
      | none => s
      | some f =>
        if s.slc.fired.contains handle ∨ s.nowNs < (s.windowNow f).1 then s
        else
          let s1 := { s with slc := { s.slc with fired := s.slc.fired ++ [handle] } }
          match s.windowRun handle k with
          | some b => if s.enginesRun then s1.beginRun b.1.cid else s1
          | none => { s1 with slc := { s1.slc with released := s1.slc.released ++ [handle] } }
    | _, _ => s)

/-! ### A run ends (R227, R262, R378, R473) -/

/-- A port delivery of run `seq` has been sent and not released. -/
def State.portHeld (s : State) (g : Graph) (seq : Nat) (o : PortRec) : Bool :=
  (o.kind == 0 || o.kind == 2) && (match g.slots[o.slot]? with
    | some x => s.rill.any (fun p => p.graph == g.handle && p.srcEngine && p.runSeq == seq && p.slot == x.num && p.dstTer == x.ter) ||
        x.bufs.any (fun b => b.runSeq == seq && b.mask.headD false)
    | none => false) &&
  !((g.consumer o.slot).any (fun i => match g.score[i]? with
    | some z => decide ((z.runSeq + 65536 - seq) % 65536 ≠ 0) && decide ((z.runSeq + 65536 - seq) % 65536 ≤ 64)
    | none => false))

/-- A placement that has not fired for run `seq` passes it by, and output buffers the run still holds return. -/
def State.passBy (s : State) (g : Graph) (seq i : Nat) (z : Score) : Score :=
  let held := (s.evals.any (fun v => v.handle == g.handle && v.place == i && v.runSeq == seq)) ||
    (s.fwds.any (fun f => f.handle == g.handle && f.place == i && f.runSeq == seq))
  let nb (k : Option Nat) : Nat := max 1 (((k.bind (fun j => g.slots[j]?)).map (fun x => x.bufs.length)).getD 1)
  let pl := g.cgd.places[i]?
  if z.runSeq = seq then { z with nextIn := (z.nextIn + 1) % nb (pl.map (fun p => p.inSlot))
                                  nextOut := (z.nextOut + 1) % nb (pl.map (fun p => p.outSlot))
                                  runSeq := (seq + 1) % 65536 }
  else if held then { z with outCredits := z.outCredits + 1 } else z

/-- The packet travels on a delay edge of the graph (R260). -/
def Graph.delayPacket (g : Graph) (p : Packet) : Bool :=
  p.typ == 0x01 && g.cgd.edges.any (fun e => e.delay && e.halfOff == p.offset && (match g.slots[e.dst]? with
    | some x => x.num == p.slot && x.ter == p.dstTer && x.dev == p.dstDev
    | none => false))

/-- The producer of an edge has sent its packet of run `seq`. -/
def State.edgeSent (s : State) (g : Graph) (i seq : Nat) (e : EdgeRec) : Bool :=
  let fired (k : Nat) : Bool := match g.score[k]? with
    | some z => decide ((z.runSeq + 65536 - seq) % 65536 ≠ 0) && decide ((z.runSeq + 65536 - seq) % 65536 ≤ 64)
    | none => false
  fired e.src && !s.evals.any (fun v => v.handle == g.handle && v.place == e.src && v.runSeq == seq) &&
    !s.fwds.any (fun f => f.handle == g.handle && f.place == e.src && f.runSeq == seq && f.edges.contains i)

/-- The consumer of an edge has fired for run `seq`. -/
def Graph.edgeUsed (g : Graph) (seq : Nat) (e : EdgeRec) : Bool :=
  (g.consumer e.dst).any (fun k => match g.score[k]? with
    | some z => decide ((z.runSeq + 65536 - seq) % 65536 ≠ 0) && decide ((z.runSeq + 65536 - seq) % 65536 ≤ 64)
    | none => false)

/-- Credit of edge i once run `seq` is given up: what its packets hold comes back. A delay edge is as loaded where the state
starts anew (R262); else the state the run took in goes on in place of what it has not sent (log 16). -/
def State.clearedCredit (s : State) (g : Graph) (seq : Nat) (zero : Bool) (i : Nat) (e : EdgeRec) : Nat :=
  let c := g.credit.getD i 0
  if e.toPort then c
  else if !e.delay then c + b2n (s.edgeSent g i seq e && !g.edgeUsed seq e)
  else if zero then g.cgd.edgeCredit e
  else c + b2n (!g.edgeUsed seq e) - b2n (!s.edgeSent g i seq e)

/-- Delay-edge segments of run `seq` that nothing has written, and that no packet is bringing, take what stands in the buffer of
run `src`: the state of the run before, or what mirroring has put there (R262, R478, log 16). -/
def State.fillDelay (s : State) (h seq src : Nat) : State :=
  match s.graph? h with
  | none => s
  | some g => g.cgd.edges.foldl (fun t e =>
      if !e.delay ∨ e.toPort then t
      else match (t.graph? h).bind (fun g' => (g'.slots[e.dst]?).map (fun x => (g', x))) with
        | none => t
        | some (g', x) =>
          let nb := max 1 x.bufs.length
          let written := (x.bufs[seq % nb]?).any (fun b => b.runSeq == seq && b.mask.getD e.halfOff false)
          let coming := t.rill.any (fun p => p.graph == h && p.runSeq == seq && g'.delayPacket p && p.slot == x.num && p.offset == e.halfOff)
          if t.isMe x.dev && !written && !coming then
            t.writeBuffer g' e.dst (seq % nb) e.halfOff seq
              (Memory.readN t.cistern (x.addr (src % nb) + 32 * e.halfOff) (32 * ceilDiv e.colCount 32)) false
          else t) s

/-- The edges whose credit for a port waits with data of run `seq` that is given up: packets on their way to the port and
tensors kept there for a stream (R381). -/
def State.portEdgesHeld (s : State) (g : Graph) (seq : Nat) : List Nat :=
  (s.rill.filter (fun p => p.graph == g.handle && p.runSeq == seq && p.typ == 0x01 && p.dstEngine)).filterMap g.portEdge ++
  (g.ports.filter (fun d => d.runSeq == seq && (g.cgd.ports[d.port]?).any (fun o => o.kind == 3))).flatMap (fun d =>
    (List.range g.cgd.edges.length).filter (fun i => (g.cgd.edges[i]?).any (fun e => e.toPort && e.dst == d.port)))

/-- A run of the graph is given up: its buffers are cleared and the credits its packets hold return (R253, R381). With `zero`,
its delay-edge segments for the next run are reset as GRAPH_LOAD sets them (R262). -/
def State.clearRun (s : State) (h seq : Nat) (zero : Bool) : State :=
  match s.graph? h with
  | none => s
  | some g =>
    let credit := (g.cgd.edges.mapIdx (s.clearedCredit g seq zero)) ++
      (g.cgd.ports.mapIdx (fun i o => g.credit.getD (g.cgd.edges.length + i) 0 + b2n (s.portHeld g seq o)))
    let slots := g.slots.mapIdx (fun i x => { x with bufs := x.bufs.map (fun b =>
      if b.runSeq = seq ∧ !x.isOut then
        Buffer.fresh (match (g.consumer i).bind (fun k => g.cgd.places[k]?) with
          | some p => p.emptyMask x.lines
          | none => []) ((seq + x.bufs.length) % 65536)
      else b) })
    let g' : Graph := { g with credit := credit, slots := slots, score := g.score.mapIdx (fun i z => s.passBy g seq i z)
                               ports := g.ports.filter (fun d => d.runSeq != seq) }
    let next := (seq + 1) % 65536
    let mine (p : Packet) : Bool := p.graph == h && ((p.runSeq == seq && (p.typ == 0x01 || p.typ == 0x02)) ||
      (zero && p.runSeq == next && g.delayPacket p))
    let s1 : State := { s with
      evals := s.evals.filter (fun v => !(v.handle == h && v.runSeq == seq))
      fwds := s.fwds.filter (fun f => !(f.handle == h && f.runSeq == seq))
      rill := s.rill.filter (fun p => !mine p) }
    let s2 := s1.updGraph h (fun _ => g')
    let s3 := (s.portEdgesHeld g seq).foldl (fun t e => t.sendCredit g e 24 true seq) s2
    if zero then s3.presetDelay h next else s3.fillDelay h next seq

/-- All outputs of a run are written: its placements on this device, its packets to ports, and, on the master of a chain, the
parts that its members have reported. -/
def State.runDone (s : State) (g : Graph) (r : Run) : Bool :=
  (List.range g.cgd.places.length).all (fun i => match g.cgd.places[i]? with
    | some p => !s.isMe p.dev || r.doneP.contains i
    | none => true) &&
  (List.range g.cgd.edges.length).all (fun i => match g.cgd.edges[i]? with
    | some e => !e.toPort || s.me != 0 || r.doneT.contains i
    | none => true) &&
  (s.pins.role != .master || g.devs.all (fun d => s.isMe d || r.parts.contains d))

/-- How a run that has run ends: a lost run, an underrun, a damaged frame, or DONE, which its record turns into DONE_LATE where
it passed its deadline (R253, R289, R347, R353). -/
def Run.ended (r : Run) : End :=
  match r.fault with
  | some w => endOf stFault w
  | none => match r.underrun with
    | some p => endOf stUnderrun p
    | none => match r.damaged with
      | some u => endOf stDamaged u
      | none => endDone

/-- Delay-edge segments that run `seq` wrote for the next run, as RUN_STATE carries them (Table 18-5, log 16). -/
def State.runState (s : State) (g : Graph) (seq : Nat) : List Byte :=
  g.cgd.edges.flatMap (fun e =>
    if !e.delay then [] else match g.slots[e.dst]? with
      | some x =>
        let n := ceilDiv e.colCount 32
        leBytes 2 e.dst ++ leBytes 1 e.halfOff ++ leBytes 1 n ++
          Memory.readN s.cistern (x.addr ((seq + 1) % max 1 x.bufs.length) + 32 * e.halfOff) (32 * n)
      | none => [])

/-- The mirror records of a run: its delay-edge segments, or a MARK (R468). -/
def State.runRecords (s : State) (g : Graph) (seq : Nat) : List (Nat × List Byte × Option (Nat × Nat)) :=
  if g.cgd.edges.any (fun e => e.delay) then (chunks 4060 (s.runState g seq)).map (fun b => (0x13, b, none))
  else [(0x14, [], none)]

/-- A member of a chain tells the master how its part of a run ended (R227, R463, log 23). -/
def State.reportPart (s : State) (cid : Nat) (g : Graph) (r : Run) : State :=
  match s.cmd? cid with
  | none => s
  | some c =>
    if s.pins.role = .member then
      s.emit (.link true (.work 0 c.ring c.tag c.opcode (.part g.handle r.runSeq (g.devs.filter (fun d => s.isMe d)) c.evals c.skipped r.fault)))
    else s

/-- A begun run ends with an outcome; `clear` says that it is given up, which the members of the chain are told. With
BASIN_FAULT its recurrent state starts anew (R262), and the other runs of its graph are delayed by fault handling. -/
def State.endRun (s : State) (cid : Nat) (g : Graph) (r : Run) (clear : Bool) (e : End) : State :=
  let zero := e.status == stFault
  let ring := ((s.cmd? cid).map (fun c => c.ring)).getD 0
  let s0 := if clear then ((s.clearRun g.handle r.runSeq zero).delayRuns ring (fun x => x.handle == r.handle && zero)).tellMembers cid g
      (.cut g.handle r.runSeq zero)
    else s
  let s1 := s0.reportPart cid g r
  let s2 := s1.mirrorCmd cid g.devs g.handle r.runSeq (fun _ => s1.runRecords g r.runSeq) true true
  ({ s2 with free := s2.free + 1 }).finish cid e

/-- RUN_COMPLETE: a run whose last output is written, or that has lost data, ends (R227, R253). -/
def execRunComplete (cid : Nat) (s : State) : Host.Outcome State Fault Refusal :=
  .next (match s.cmd? cid with
    | none => s
    | some c => match c.body with
      | .run r => match s.graph? r.handle with
        | none => s
        | some g =>
          if !r.begun || c.held.isSome || !(r.fault.isSome || s.runDone g r) then s
          else s.endRun cid g r r.fault.isSome r.ended
      | _ => s)

/-- The lowest TENSOR_IN port of a run whose host read has not returned. -/
def unreadPort (g : Graph) (r : Run) (read : List Nat) : Option Nat :=
  (r.bufs.find? (fun b => b.2.isSome && !read.contains b.1 && (g.cgd.ports[b.1]?).any (fun o => o.kind == 0))).map (fun b => b.1)

/-- The host read of an input buffer returns for a run: its tensor is handed over, or the run ends (R249, R346, Table
12-7). A read that returns after the run's start makes a late end its own cause (Table 14-3). -/
def State.inputRead (s : State) (c : Cmd) (r : Run) (result : ReadResult) : State :=
  match s.graph? r.handle with
  | none => s
  | some g => match result, failCode result with
    | .data bytes, _ => match unreadPort g r r.readPorts with
      | none => s
      | some port =>
        let n := ((g.cgd.ports[port]?).map (fun o => o.bytes)).getD 0
        (s.updRun c.cid (fun r => { r with feeds := r.feeds ++ [(2, port, readBytes n bytes)], readPorts := r.readPorts ++ [port]
                                           lateCause := if r.begun then 0 else r.lateCause })).feedPorts c.cid 2
    | _, some (kind, _) =>
      let s1 := s.readFailed c.ring kind
      if r.begun then s1.endRun c.cid g r true endRead else s1.finish c.cid endRead
    | _, none => s

end Sys2Proof.Machine
end

