-- ==== Sys2Proof/Machine/Weights.lean ====
section
/-! DEFINITION. The Weight Engine: images and sessions, cell operations, the header tank and the journal strip
(R37, R184, R185, R273 to R277, R397 to R423). -/

namespace Sys2Proof.Machine

/-! ### The header tank (R413 to R415) -/

/-- Tank voltage as the ladder gives it, in mV, rounded down to 50 mV (R414). -/
def State.tankStep (s : State) : Nat := s.wpe.tankMv / 50 * 50

/-- Twice the usable energy E in pJ: C (V² − 9.0²) above minimum, else 0 (R414). -/
def State.tankE2 (s : State) : Nat :=
  if s.wpe.aboveMin then s.wpe.tankUf * (s.tankStep * s.tankStep - 81000000) else 0

/-- Need of a batch of n rows, in µJ: 1.25 x (n x 80 + 60) (R415). -/
def batchNeed (n : Nat) : Nat := 100 * n + 75

/-- E covers a need in a quarter of 1 µJ. -/
def State.tankCovers4 (s : State) (quarters : Nat) : Bool := decide (500000 * quarters ≤ s.tankE2)

/-- A full tank would cover a need in a quarter of 1 µJ. -/
def State.tankCould4 (s : State) (quarters : Nat) : Bool := decide (500000 * quarters ≤ s.wpe.tankUf * (14000 * 14000 - 81000000))

/-- E covers a need in µJ. -/
def State.tankCovers (s : State) (uj : Nat) : Bool := s.tankCovers4 (4 * uj)

/-- A full tank would cover a need in µJ. -/
def State.tankCould (s : State) (uj : Nat) : Bool := s.tankCould4 (4 * uj)

/-- A quotient whose rounding the spec does not give: down or up, as a free choice (log 9). -/
def State.roundFree (s : State) (n d : Nat) : Nat := n / d + (if n % d = 0 then 0 else b2n (Config.freeBool s.free))

/-- Usable energy in units of 10 µJ. -/
def State.tankE10 (s : State) : Nat := s.roundFree s.tankE2 20000000

/-! ### The journal strip (R417 to R420) -/

/-- CRC-8, polynomial 0x07, initial value 0 (Table 16-5). -/
def crc8 (bs : List Byte) : BitVec 8 :=
  bs.foldl (fun c b => (List.range 8).foldl (fun c _ => if c.getLsbD 7 then (c <<< 1) ^^^ 0x07 else c <<< 1) (c ^^^ b)) 0

/-- The 8 bytes of an entry (Table 16-5); a CHECK that was not written whole reads wrong, and a MARK as erased. -/
def JEntry.bytes (e : JEntry) : List Byte :=
  let head := leBytes 1 (e.ter + 128 * b2n e.erase) ++ leBytes 1 e.slot ++ leBytes 2 (e.firstRow + 1024 * (e.count - 1))
  head ++ (if e.sound then [crc8 head, 0x5A] else [crc8 head ^^^ 1, 0xFF]) ++ leBytes 2 (2 ^ 16 - 2 ^ e.done)

/-- The strip as it reads: erased bytes 0xFF behind the entries in use (R417). -/
def Wpe.strip (w : Wpe) : List Byte :=
  w.journal.flatMap JEntry.bytes ++ List.replicate (4096 - 8 * w.journal.length) 0xFF

/-- CHECK and MARK of an entry hold (R420). -/
def entryValid (b : List Byte) : Bool := b[4]? == some (crc8 (b.take 4)) && b[5]? == some 0x5A

/-- A DONE bit still reads 1 for a row of the entry, or for its erase (R420). -/
def entryOpen (b : List Byte) : Bool :=
  (List.range (fieldAt b 2 2 / 1024 % 16 + 1)).any (fun i => bitAt (fieldAt b 6 2) i)

/-- A full strip whose entries are all closed is erased before the next entry (R419). -/
def State.journalRoom (s : State) : State :=
  if 512 ≤ s.wpe.journal.length ∧ s.wpe.journal.all (fun e => decide (e.count ≤ e.done)) then
    { s with wpe := { s.wpe with journal := [], jrnlErases := satInc (2 ^ 22 - 1) s.wpe.jrnlErases } }
  else s

/-- An entry opened. -/
def State.journalOpen (s : State) (e : JEntry) : State :=
  let t := s.journalRoom
  { t with wpe := { t.wpe with journal := t.wpe.journal ++ [e] } }

/-- The open entry, which is the last one, closed. -/
def State.journalClose (s : State) : State :=
  { s with wpe := { s.wpe with journal := s.wpe.journal.mapIdx (fun i (e : JEntry) =>
      if i + 1 = s.wpe.journal.length then { e with done := e.count } else e) } }

/-- The map-out table kept as it stands while a self-test runs (R501). -/
def State.mapSave (s : State) : State :=
  let m : MapSave := { basins := s.basins, withdrawn := s.ters.map (fun (t : Terrace) => t.withdrawn), ctlFailed := s.bist.ctlFailed
                       spareBad := s.bist.spareBad, gen := s.bist.mapGen }
  { s with bist := { s.bist with mapOld := some m } }

/-! ### Cells (R184, R185, R194, R406 to R408) -/

/-- Columns and rows of data of a basin, or of a sentinel. -/
def basinCols (n : Nat) : Nat := if n < 4096 then 512 else 64
def basinRows (n : Nat) : Nat := if n < 4096 then 1024 else 256

/-- The target level of a column of a row: 0 beyond the record's columns (R274). -/
def targetLevel (row : List Byte) (c : Nat) : Int := byteInt (row.getD c 0)

/-- Some cell of the pair of level `w` lies more than half a level above the target `t` (R184, R407). -/
def cellHigh (w t : Int) : Bool := decide (w ≠ 0) && (decide (w * t ≤ 0) || decide (t.natAbs < w.natAbs))

/-- Some cell of the pair lies below the target. -/
def cellLow (w t : Int) : Bool := decide (t ≠ 0) && (decide (w * t ≤ 0) || decide (w.natAbs < t.natAbs))

/-- Targets of the rows of a batch, with their row numbers. -/
def Prog.batchRows (p : Prog) (n : Nat) : List (Nat × List Byte) :=
  (List.range n).map (fun i => (p.row + i, p.target.getD (p.row + i - p.row0) []))

/-- Every cell of the rows satisfies `ok` of its level and its target. -/
def State.rowsAll (s : State) (basin : Nat) (rows : List (Nat × List Byte)) (ok : Int → Int → Bool) : Bool :=
  rows.all (fun r => (List.range (basinCols basin)).all (fun c => ok (s.weight basin r.1 c) (targetLevel r.2 c)))

/-- The level a cell pair ends at: the target, or, for the cell that reached the pulse limit, a level between the one it
had and the target, which the spec leaves open (R408, log 9). A plaintext level beyond ±63 ends where the cells end, which
the spec leaves open too, but no lower than it was, on the target's cell (R185, R274). -/
def endLevel (draw : Nat) (stuck : Bool) (w t : Int) : Int :=
  if stuck then
    let m := w.natAbs + (Config.freeInt draw).natAbs % max 1 (t.natAbs - w.natAbs)
    if t < 0 then -(m : Int) else (m : Int)
  else if t.natAbs ≤ 63 then t
  else
    let m := w.natAbs + (Config.freeInt draw).natAbs % (64 - min 63 w.natAbs)
    if t < 0 then -(m : Int) else (m : Int)

/-- Reference cells programmed with a batch of rows; those of the rows beyond the record's with its last row (R196). -/
def Basin.programRefs (b : Basin) (rows : List Nat) (full : Bool) : Basin :=
  { b with refRows := if full then BitVec.allOnes 1024 else rows.foldl (fun v r => setBit v r true) b.refRows }

/-- Every cell of a batch, data and reference, lies at its target (R407). -/
def State.atTarget (s : State) (p : Prog) (n : Nat) : Bool :=
  s.rowsAll p.basin (p.batchRows n) (fun w t => w == t) &&
  (List.range n).all (fun i => (s.basin p.basin).refRows.getLsbD (p.row + i)) &&
  (!(p.full && p.left == n) || (s.basin p.basin).refRows == BitVec.allOnes 1024)

/-- The data cells of the rows of a batch programmed. -/
def State.programRows (s : State) (basin : Nat) (rows : List (Nat × List Byte)) (stuck : Option (Nat × Nat)) : State :=
  let put (m : Memory) (r : Nat × List Byte) : Memory :=
    Memory.writeN m (weightKey basin r.1 0) ((List.range (basinCols basin)).map (fun c =>
      BitVec.ofInt 8 (endLevel s.free (stuck == some (r.1, c)) (s.weight basin r.1 c) (targetLevel r.2 c))))
  { s with weights := rows.foldl put s.weights, free := s.free + 1 }

/-- The whole basin tunnelled: data and reference cells, tag and state marks (R405). -/
def State.tunnel (s : State) (basin : Nat) : State :=
  ({ s with weights := Memory.clear s.weights (weightKey basin 0 0) (weightKey (basin + 1) 0 0) }).updBasin basin
    (fun b => { b with wstate := .erased, tag := 0, tagsUsed := 0, cause := 0, refRows := 0 })

/-- The weight state DIRTY with a cause: 1 POWER, 2 TARGET (R397). -/
def State.makeDirty (s : State) (basin cause : Nat) : State :=
  s.updBasin basin (fun b => { b with wstate := .dirty, cause := cause })

/-! ### Images (R273 to R275, R400) -/

/-- Header faults of a CWI of `len` bytes, by offset, ascending (Table 10-7); `sent` says that a record names terrace 64. -/
def cwiHeaderFaults (b : List Byte) (len : Nat) (sent : Option Bool) : List (Nat × Bool) :=
  [(0, fieldAt b 0 4 != 0x4957434B), (4, fieldAt b 4 2 != 1),
   (6, decide (1 < fieldAt b 6 2) || (match sent with
      | some v => v != bitAt (fieldAt b 6 2) 0
      | none => false)),
   (8, fieldAt b 8 4 != len || decide (fieldAt b 8 4 < 224)),
   (0xC, fieldAt b 0xC 2 == 0 || decide (3984 < fieldAt b 0xC 2)), (0xE, decide (15 < fieldAt b 0xE 1)),
   (0xF, fieldAt b 0xF 1 != 0)] ++
  (List.range 24).map (fun i => (0x48 + i, fieldAt b (0x48 + i) 1 != 0)) ++
  (List.range 28).map (fun i => (0x64 + i, fieldAt b (0x64 + i) 1 != 0))

/-- Faults of a basin record's clear header at offset o, with its terrace and slot taken by an earlier record (Table
10-8). -/
def cwiRecordFaults (b : List Byte) (o lim : Nat) (taken : Bool) : List (Nat × Bool) :=
  let sent := fieldAt b o 1 == 64
  let rows := fieldAt b (o + 2) 2
  let cols := fieldAt b (o + 4) 2
  [(o, decide (lim < o + 32) || decide (64 < fieldAt b o 1) || taken),
   (o + 1, decide ((if sent then 15 else 61) < fieldAt b (o + 1) 1)),
   (o + 2, rows == 0 || decide ((if sent then 256 else 1024) < rows)),
   (o + 4, cols == 0 || decide ((if sent then 64 else 512) < cols)),
   (o + 6, fieldAt b (o + 6) 2 != 0), (o + 8, fieldAt b (o + 8) 8 == 0),
   (o + 0x1C, fieldAt b (o + 0x1C) 4 != rows * cols || decide (lim < o + 48 + rows * cols))]

/-- The basin records of a CWI from position `pos`, each at the next multiple of 16 behind zero bytes, or the offset of
the first fault (R273, R274). -/
def cwiRecords (b : List Byte) (lim n pos : Nat) (seen : List CwiRec) : Except Nat (List CwiRec) :=
  match n with
  | 0 => .ok seen
  | k + 1 =>
    let o := 16 * ceilDiv pos 16
    let gap := (List.range (o - pos)).map (fun i => (pos + i, fieldAt b (pos + i) 1 != 0))
    let taken := seen.any (fun r => r.ter == fieldAt b o 1 && r.slot == fieldAt b (o + 1) 1)
    match firstFault (gap ++ cwiRecordFaults b o lim taken) with
    | some e => .error e
    | none =>
      let rows := fieldAt b (o + 2) 2
      let cols := fieldAt b (o + 4) 2
      let r : CwiRec := { ter := fieldAt b o 1, slot := fieldAt b (o + 1) 1, rows := rows, cols := cols
                          tag := BitVec.ofNat 64 (fieldAt b (o + 8) 8), off := o }
      cwiRecords b lim k (o + 48 + rows * cols) (seen ++ [r])

/-- Check 2 of Table 16-2: the records, or the offset of the lowest fault. -/
def cwiCheck (b : List Byte) (len : Nat) : Except Nat (List CwiRec) :=
  match firstFault (cwiHeaderFaults b len none) with
  | some e => .error e
  | none => match cwiRecords b (len - 96) (fieldAt b 0xC 2) 128 [] with
    | .error e => .error e
    | .ok recs => match firstFault (cwiHeaderFaults b len (some (recs.any (fun r => r.ter == 64)))) with
      | some e => .error e
      | none => .ok recs

/-- The device wrapping key that KEY_ID names in the state in force (R517, Table 20-5). -/
def State.wrappingKey (s : State) (id : Nat) : Option (List Byte) :=
  if s.lcs.active = .manufacture then (if id = 0 ∧ s.lcs.testKeys then some Config.testWrap else none)
  else match (s.lcs.wrap.find? (fun k => match k with
      | some x => x.id.toNat == id
      | none => false)).join with
    | some x => Config.unwrapKey Config.transportKey x.blob
    | none => none

/-- The signer key that SIGNER_ID names in the state in force. -/
def State.signerKey (s : State) (id : Nat) : Option (List Byte) :=
  if s.lcs.active = .manufacture then (if id = 0 ∧ s.lcs.testKeys then some Config.testSign else none)
  else ((s.lcs.sign.find? (fun k => match k with
      | some x => x.id.toNat == id
      | none => false)).join).map (fun x => x.blob)

/-- The keys of a provisioning payload (Table 20-3): wrapping slots as wrapped under the transport key, signer slots. -/
def payloadSlots (pay : List Byte) (base size off len n : Nat) : List (Option KeySlot) :=
  (List.range 4).map (fun i =>
    if i < n then some { id := BitVec.ofNat 32 (fieldAt pay (base + size * i) 4), blob := sliceAt pay (base + size * i + off) len }
    else none)

/-- The keys and the certificate of a transition stored, and the test keys destroyed; an identity key pair that an earlier try
has generated is unchanged (R516, Table 20-1). -/
def Lcs.store (l : Lcs) (target : Nat) (pay idPub : List Byte) : Lcs :=
  match l.active, target with
  | .manufacture, 1 =>
    { l with lc1 := some (sliceAt pay 0 49), wrap := payloadSlots pay 0x34 48 8 40 (fieldAt pay 0x31 1)
             sign := payloadSlots pay (0x34 + 48 * fieldAt pay 0x31 1) 56 7 49 (fieldAt pay 0x32 1)
             idPub := some (l.idPub.getD (readBytes 49 idPub)), testKeys := false }
  | .provisioned, 2 => { l with cert := some pay }
  | _, _ => l

/-- Number of the fuse that a transition burns (R509, Table 20-1). -/
def Lcs.fuseOf (l : Lcs) (target : Nat) : Option Nat :=
  match l.active, target with
  | .manufacture, 1 => some 0
  | .provisioned, 2 => some 1
  | .deployed, 3 => some (3 + l.svcIn)
  | .service, 2 => some (35 + l.svcOut)
  | _, _ => none

/-- The fuse of a transition burnt, two copies at least; leaving SERVICE closes the debug access at once (R512). -/
def Lcs.burn (l : Lcs) (target : Nat) : Lcs :=
  let l1 := { l with fuseOne := l.fuseOne.filter (fun n => some n != l.fuseOf target) }
  match l.active, target with
  | .manufacture, 1 => { l1 with fProv := true }
  | .provisioned, 2 => { l1 with fDepl := true }
  | .deployed, 3 => { l1 with svcIn := l.svcIn + 1 }
  | .service, 2 => { l1 with svcOut := l.svcOut + 1, closed := true }
  | _, _ => l

/-- Keys and certificate stored, and then the fuse burnt (R516). -/
def Lcs.transition (l : Lcs) (target : Nat) (pay idPub : List Byte) : Lcs := (l.store target pay idPub).burn target

/-- A transition cut by a loss of power with its keys stored and `copies` copies of its fuse burnt: below two, the old state stays
in force (R509, R516). -/
def Lcs.cutTransition (l : Lcs) (target : Nat) (pay idPub : List Byte) (copies : Nat) : Lcs :=
  let l1 := l.store target pay idPub
  if 2 ≤ copies then { l1.burn target with closed := l.closed }
  else if copies = 1 then { l1 with fuseOne := ((l1.fuseOf target).toList ++ l1.fuseOne).eraseDups }
  else l1

/-- The content key of an image, where KEY_ID is held and WRAPPED_KEY unwraps (check 4). -/
def State.contentKey (s : State) (b : List Byte) : Option (List Byte) :=
  (s.wrappingKey (fieldAt b 0x14 4)).bind (fun k => Config.unwrapKey k (sliceAt b 0x20 40))

/-- The signature of an image verifies (check 5, R275). -/
def State.imageSigned (s : State) (b : List Byte) (len : Nat) : Bool :=
  match s.signerKey (fieldAt b 0x60 4) with
  | some k => Config.ecdsaVerifies k (b.take (len - 96)) (sliceAt b (len - 96) 96)
  | none => false

/-- A failed IMAGE_OPEN records its check and offset. -/
def State.openFailed (s : State) (c check off : Nat) (e : End) : State :=
  ({ s with wpe := { s.wpe with errCheck := check, errOff := off } }).finish c e

/-- The checks of Table 16-2 in order, and the session opened: which free number it takes is left open (log 9). -/
def State.openImage (s : State) (c : Cmd) (addr : DWord) (len : Nat) (b : List Byte) : State :=
  if 4 ≤ s.wpe.sessions.length then s.openFailed c.cid 1 0 (endOf stCapacity 0)
  else match cwiCheck b len with
    | .error o => s.openFailed c.cid 2 o (endParam 0x10)
    | .ok recs =>
      if BitVec.ofNat 64 (fieldAt b 0x18 8) ≠ s.lcs.uid then s.openFailed c.cid 3 0 (endAccess 5)
      else match s.contentKey b with
        | none => s.openFailed c.cid 4 0 (endAccess 5)
        | some key =>
          if !s.imageSigned b len then s.openFailed c.cid 5 0 (endAccess 5)
          else
            let pk := s.pick 5 (fun n => n != 0 && !s.wpe.sessions.any (fun x => x.num == n))
            let num := pk.1.getD 1
            let t := pk.2
            let x : Session := { num := num, func := t.ringFunc c.ring, addr := addr, len := len
                                 imageId := fieldAt b 0x10 4, recs := recs, hdr := b.take 128, key := key, closing := none }
            ({ t with wpe := { t.wpe with sessions := t.wpe.sessions ++ [x] } }).finish c.cid (endOf stDone num)

/-- IMAGE_OPEN: the Weight Engine powers up and the image is read (R399, R400). -/
def execImageOpen (ring : Fin 1024) (s : State) : Host.Outcome State Fault Refusal :=
  let g := ring.val
  .next (s.onHead g 0x30 false (fun p =>
    let addr := BitVec.ofNat 64 (par p 0x10 8)
    let len := par p 0x18 4
    let t := s.accept g p (.imageOpen addr len) none 0
    ((({ t with wpe := { t.wpe with powered := true } }).notePeak).dmaRead (s.ringFunc g) addr len).settle g))

/-- The read of an image ends (R400, Table 12-7). -/
def State.imageRead (s : State) (c : Cmd) (addr : DWord) (len : Nat) (result : ReadResult) : State :=
  match result, failCode result with
  | .data bytes, _ => s.openImage c addr len (readBytes len bytes)
  | _, some (kind, _) => (s.readFailed c.ring kind).finish c.cid endRead
  | _, none => s

/-! ### Sessions (R402, R404) -/

/-- The open session that a command of ring g names, or how the command ends. -/
def State.sessionOf (s : State) (g num : Nat) : Except End Session :=
  match s.wpe.sessions.find? (fun x => x.num == num) with
  | none => .error (endParam 0x10)
  | some x => if x.func = s.ringFunc g then .ok x else .error (endAccess 2)

/-- IMAGE_CLOSE: waits for every admitted command that names the session, then closes it (R404). -/
def execImageClose (ring : Fin 1024) (s : State) : Host.Outcome State Fault Refusal :=
  let g := ring.val
  .next (s.onHead g 0x36 false (fun p =>
    match s.sessionOf g (par p 0x10 1) with
    | .error e => s.refuse g p e
    | .ok x =>
      if x.closing.isSome then s
      else
        let t := s.accept g p .plain none 0
        let close (y : Session) : Session := if y.num = x.num then { y with closing := some s.nextCid } else y
        (State.closeSessions 4 { t with wpe := { t.wpe with sessions := t.wpe.sessions.map close } }).settle g))

/-! ### What a cell operation meets first (R398, R405, R409, R411, R421) -/

/-- DETAIL word of a basin by its logical slot on this device (Table 13-11). -/
def State.slotWord (s : State) (ter slot : Nat) : Nat := basinWord ter s.me (some slot)

/-- Basin n is the weight array of an armed sentinel (R180). -/
def State.armedBasin (s : State) (n : Nat) : Bool := decide (4096 ≤ n) && (s.sentinel (n - 4096)).armed

/-- The physical basin a cell operation may act on, or how it ends: REFUSED_STATE while a pump has failed (Table 19-5);
MAPPED_OUT; REFUSED_STATE in a loaded graph or an armed sentinel; BASIN_FAULT for a FAILED sentinel (R356). -/
def State.cellBasin (s : State) (ter slot : Nat) : Except End Nat :=
  if s.bist.supply.getLsbD 6 || s.bist.supply.getLsbD 7 then .error endState
  else match s.physOf ter slot with
  | none => .error (endOf stMappedOut (s.slotWord ter slot))
  | some n =>
    if s.basinInGraph n || s.armedBasin n then .error endState
    else if (s.basin n).wstate = .failed then .error (endOf stFault (s.slotWord ter slot))
    else .ok n

/-- How a command that names a DIRTY basin ends (R421). -/
def State.dirtyEnd (s : State) (n ter slot : Nat) : Option End :=
  let b := s.basin n
  if b.wstate = .dirty then some (endOf (if b.cause = 1 then stInterrupted else stDirty) (s.slotWord ter slot)) else none

/-- Another cell operation is admitted (R399). -/
def State.cellBusy (s : State) : Bool := s.cmds.any Cmd.isCellOp

/-- The Weight Engine powers up for a cell operation (Table 3-7). -/
def State.wpePower (s : State) : State := ({ s with wpe := { s.wpe with powered := true } }).notePeak

/-- The terrace of a cell operation is staged (R94); a sentinel has none. -/
def State.cellTerrace (s : State) (ter : Nat) : State := if ter < 64 then s.needTerraces [ter] else s

/-! ### PROGRAM_ROWS (R406 to R409, R415) -/

/-- The program a command carries. -/
def Cmd.prog? (c : Cmd) : Option Prog :=
  match c.body with
  | .program p => some p
  | _ => none

/-- The program of a command changed. -/
def State.updProg (s : State) (c : Nat) (f : Prog → Prog) : State :=
  s.updCmd c (fun x => match x.body with
    | .program p => { x with body := .program (f p) }
    | _ => x)

/-- HOLDUP_LOW with the need, given in a quarter of 1 µJ, and the energy in hand, both in 10 µJ (Table 13-11). -/
def State.endHoldup (s : State) (quarters : Nat) : End :=
  endOf stHoldup (s.roundFree quarters 40 % 65536 + 65536 * (s.tankE10 % 65536))

/-- A command ended by the tank, for a need in a quarter of 1 µJ. -/
def State.holdupEnd (s : State) (c quarters : Nat) : State :=
  (({ s with wpe := { s.wpe with holdups := satInc 0xFFFF s.wpe.holdups }, free := s.free + 1 }).finish c (s.endHoldup quarters))

/-- A PROGRAM_ROWS ended by the tank, for a need in µJ. -/
def State.holdupLow (s : State) (c need : Nat) : State := s.holdupEnd c (4 * need)

/-- A batch starts: the basin is PROGRAMMING, and the batch is in the journal unless every cell is at its target
already (R397, R407, R418). -/
def State.openBatch (s : State) (c : Nat) (p : Prog) (n : Nat) : State :=
  let s1 := (s.updBasin p.basin (fun b => { b with wstate := .programming, tag := 0, cause := 0 })).updProg c
    (fun p => { p with batch := n, waitFrom := none })
  if s.atTarget p n then s1
  else s1.journalOpen { erase := false, ter := p.ter, slot := p.slot, basin := p.basin, firstRow := p.row, count := n, done := 0, sound := true }

/-- The next batch of a PROGRAM_ROWS: tank first, then pre-read; `high` says that the pre-read finds a cell that has
drifted above its target (R407, R415, Table 16-3). -/
def State.nextBatch (s : State) (c : Nat) (p : Prog) (high : Bool) : State :=
  let n := min 16 p.left
  let need := batchNeed n
  if !s.tankCovers need then
    if s.tankCould need then
      if p.waitFrom.isSome then s
      else ({ s with wpe := { s.wpe with waits := satInc 0xFFFF s.wpe.waits } }).updProg c
        (fun p => { p with waitFrom := some s.tmr.uptime, batch := 0 })
    else s.holdupLow c need
  else if high || !s.rowsAll p.basin (p.batchRows n) (fun w t => !cellHigh w t) then
    (s.makeDirty p.basin 2).finish c (endOf stDirty (s.slotWord p.ter p.slot))
  else s.openBatch c p n

/-- The plaintext rows of a record, where its tag authenticates it (R274, R406). -/
def Session.openRecord (x : Session) (r : CwiRec) (b : List Byte) : Option (List (List Byte)) :=
  let n := r.rows * r.cols
  (Config.gcmOpen x.key (sliceAt b 0x10 12) (x.hdr ++ b.take 32) (sliceAt b 32 (n + 16))).map
    (fun t => (List.range r.rows).map (fun i => sliceAt t (i * r.cols) r.cols))

/-- What Table 16-3 decides before the record is read: the session and its record, or the end. -/
def State.programCheck (s : State) (g : Nat) (p : List Byte) : Except End (Session × CwiRec × Nat) :=
  match s.sessionOf g (par p 0x10 1) with
  | .error e => .error e
  | .ok x => match x.recs[par p 0x12 2]? with
    | none => .error (endParam 0x12)
    | some r =>
      if r.rows < par p 0x14 2 + par p 0x16 2 then .error (endParam 0x14)
      else match s.cellBasin r.ter r.slot with
        | .error e => .error e
        | .ok n => match s.dirtyEnd n r.ter r.slot with
          | some e => .error e
          | none =>
            let b := s.basin n
            if b.wstate = .valid ∧ b.tag = r.tag then .error endDone
            else if b.wstate = .valid ∧ 4 ≤ b.tagsUsed then .error endState
            else .ok (x, r, n)

/-- An outcome decided when a cell operation is presented: DONE at once is an admission, every other end a refusal. -/
def State.decided (s : State) (g : Nat) (p : List Byte) (e : End) : State :=
  if e.status = stDone then s.complete g p e else s.refuse g p e

/-- The named record has been read for an admitted PROGRAM_ROWS: it is authenticated, and the first batch is prepared. -/
def State.programRecord (s : State) (c : Cmd) (x : Session) (r : CwiRec) (n row left : Nat) (record : ReadResult)
    (high : Bool) : State :=
  match record, failCode record with
  | .data bytes, _ =>
    match x.openRecord r (readBytes (r.rows * r.cols + 48) bytes) with
    | none => s.finish c.cid (endAccess 5)
    | some rows =>
      let pr : Prog := { session := x.num, basin := n, ter := r.ter, slot := r.slot, row := row, left := left, batch := 0
                         waitFrom := none, target := (rows.drop row).take left, row0 := row, tag := r.tag
                         full := decide (row + left = r.rows) }
      (s.updCmd c.cid (fun c => { c with body := .program pr })).nextBatch c.cid pr high
  | _, some (kind, _) => (s.readFailed c.ring kind).finish c.cid endRead
  | _, none => s

/-- PROGRAM_ROWS: presented when no other cell operation is admitted; the checks of Table 16-3, the power check, then
its record and its first batch (R399, R406, R409, R376). -/
def execProgramRows (ring : Fin 1024) (record : ReadResult) (high : Bool) (s : State) : Host.Outcome State Fault Refusal :=
  let g := ring.val
  .next (s.onHead g 0x31 false (fun p =>
    let s := s.decideAhead g
    if s.cellBusy then s
    else match s.programCheck g p with
      | .error e => s.decided g p e
      | .ok (x, r, n) => match s.powerRefusal 2200 with
        | some e => s.refuse g p e
        | none =>
          if !s.mayMaster (s.ringFunc g) then s
          else
            let row := par p 0x14 2
            let left := par p 0x16 2
            let pr : Prog := { session := x.num, basin := n, ter := r.ter, slot := r.slot, row := row, left := left, batch := 0
                               waitFrom := none, target := [], row0 := row, tag := r.tag, full := false }
            let t := (((s.accept g p (.program pr) none 2200).wpePower).cellTerrace r.ter).dmaRead (s.ringFunc g)
              (x.addr + BitVec.ofNat 64 r.off) (r.rows * r.cols + 48)
            match t.cmd? s.nextCid with
            | none => t
            | some c => (t.programRecord c x r n row left record high).settle g))

/-- The records of one batch: up to seven rows each (Table 18-5). -/
def Prog.records (p : Prog) : List (Nat × List Byte × Option (Nat × Nat)) :=
  (chunks 3584 ((p.batchRows p.batch).flatMap (fun r => readBytes 512 r.2))).mapIdx (fun i (rows : List Byte) =>
    (0x20, leBytes 1 p.ter ++ leBytes 1 p.slot ++ leBytes 2 (p.row + 7 * i) ++ leBytes 1 (rows.length / 512) ++ rows,
      some (p.ter, p.slot)))

/-- The batch of a PROGRAM_ROWS finished: its rows hold their levels and its journal entry is closed. -/
def State.closeBatch (s : State) (c : Nat) (p : Prog) (stuck : Option (Nat × Nat)) : State :=
  let s1 := (s.programRows p.basin (p.batchRows p.batch) stuck).updBasin p.basin (fun b =>
    b.programRefs ((List.range p.batch).map (fun i => p.row + i)) (p.full && p.left == p.batch))
  let s2 := if s.atTarget p p.batch then s1 else s1.journalClose
  ({ s2 with wpe := { s2.wpe with lastRow := p.row + p.batch - 1, lastTer := p.ter, lastSlot := p.slot
                                  rows := s2.wpe.rows + BitVec.ofNat 32 p.batch } }).updProg c
    (fun p => { p with row := p.row + p.batch, left := p.left - p.batch, batch := 0 })

/-- A batch in progress ends (R123, R406, R408). -/
def State.batchDone (s : State) (c : Cmd) (p : Prog) (stuck : Option (Nat × Nat)) (high : Bool) : State :=
  let last := p.left == p.batch || stuck.isSome || s.pwr.dev == .dry
  let s1 := (s.closeBatch c.cid p stuck).mirrorCmd c.cid [s.me] 0 0 (fun _ => p.records) (p.row == p.row0) last
  match stuck with
  | some rc => (s1.dlog 3 2 (BitVec.ofNat 32 (s.slotWord p.ter p.slot)) (BitVec.ofNat 64 (rc.1 % 1024 + 65536 * (rc.2 % 1024)))).finish
      c.cid (endOf stFault (s.slotWord p.ter p.slot))
  | none =>
    if p.left = p.batch then s1.finish c.cid endDone
    else if s.pwr.dev = .dry then s1.finish c.cid (endOf stCancelled 0)
    else match (s1.cmd? c.cid).bind Cmd.prog? with
      | some p' => s1.nextBatch c.cid p' high
      | none => s1

/-- The PROGRAM_ROWS in progress. -/
def State.programming (s : State) : Option (Cmd × Prog) := s.cmds.findSome? (fun c => (c.prog?).map (fun p => (c, p)))

/-- PROGRAM_BATCH_DONE: the slowest row of the batch ends (R406, R408). -/
def execProgramBatchDone (stuck : Option (Nat × Nat)) (high : Bool) (s : State) : Host.Outcome State Fault Refusal :=
  .next (match s.programming with
    | some (c, p) => if p.batch = 0 ∨ c.held.isSome then s else s.batchDone c p stuck high
    | none => s)

/-! ### VERIFY (R411) -/

/-- What R411 decides before the record is read. -/
def State.verifyCheck (s : State) (g : Nat) (p : List Byte) : Except End (Session × CwiRec × Nat) :=
  match s.sessionOf g (par p 0x10 1) with
  | .error e => .error e
  | .ok x => match x.recs[par p 0x12 2]? with
    | none => .error (endParam 0x12)
    | some r => match s.cellBasin r.ter r.slot with
      | .error e => .error e
      | .ok n => match s.dirtyEnd n r.ter r.slot with
        | some e => .error e
        | none =>
          let b := s.basin n
          if b.wstate = .erased ∨ (b.wstate = .valid ∧ b.tag ≠ r.tag) then .error endState else .ok (x, r, n)

/-- VERIFY: presented when no other cell operation is admitted; its record is read again (R399, R411). -/
def execVerify (ring : Fin 1024) (s : State) : Host.Outcome State Fault Refusal :=
  let g := ring.val
  .next (s.onHead g 0x32 false (fun p =>
    if s.cellBusy then s
    else match s.verifyCheck g p with
      | .error e => s.decided g p e
      | .ok (x, r, n) =>
        let body : Body := .verify x.num (par p 0x12 2) n r.ter r.slot ((s.basin n).wstate == .valid)
        ((((s.accept g p body none 0).wpePower).cellTerrace r.ter).dmaRead (s.ringFunc g) (x.addr + BitVec.ofNat 64 r.off)
          (r.rows * r.cols + 48)).settle g))

/-- Row [9:0] and column [25:16] of the first cell of a basin whose level and target satisfy `bad`. -/
def State.firstCell (s : State) (n : Nat) (rows : List (List Byte)) (bad : Int → Int → Bool) : Option Nat :=
  (List.range (basinRows n)).findSome? (fun r =>
    ((List.range (basinCols n)).find? (fun c => bad (s.weight n r c) (targetLevel (rows.getD r []) c))).map
      (fun c => r + 65536 * c))

/-- The first row whose reference cells are below their pattern, with the column of RC0 (R411, Table 19-4). -/
def State.firstRef (s : State) (n : Nat) : Option Nat :=
  ((List.range (basinRows n)).find? (fun r => !(s.basin n).refRows.getLsbD r)).map (fun r => r + 65536 * 516)

/-- The cell of the lower row among what the comparison measured and what the levels say. -/
def lowerRow (a b : Option Nat) : Option Nat :=
  match a, b with
  | some x, some y => if y % 1024 < x % 1024 then some y else some x
  | none, y => y
  | x, none => x

/-- The tag committed and the basin VALID, with fresh trims (R410, R411). -/
def State.commitTag (s : State) (n : Nat) (tag : DWord) (reads : List TrackRead) : State :=
  let s1 := s.updBasin n (fun b => { b with tag := tag, tagsUsed := min 4 (b.tagsUsed + 1), wstate := .valid, cause := 0 })
  if n < 4096 then
    s1.updBasin n (fun b => (readingsFor (reads.map (fun r => { r with basin := n })) n).foldl (fun b rc => b.tracked rc s.nowMs) b)
  else s1

/-- VERIFY's comparison judged: `below` and `above` name the first cell measured so, as row [9:0] and column [25:16]. -/
def State.verifyJudge (s : State) (c : Cmd) (n ter slot : Nat) (same : Bool) (tag : DWord) (rows : List (List Byte))
    (below above : Option Nat) (reads : List TrackRead) : State :=
  let lo := lowerRow (lowerRow below (s.firstCell n rows cellLow)) (s.firstRef n)
  let hi := lowerRow above (s.firstCell n rows cellHigh)
  let word := s.slotWord ter slot
  if same then
    match lowerRow lo hi with
    | none => s.finish c.cid endDone
    | some rc => (s.dlog 3 4 (BitVec.ofNat 32 word) (BitVec.ofNat 64 (rc % 2 ^ 26))).finish c.cid (endOf stFault word)
  else match lo, hi with
    | some rc, _ => s.finish c.cid (endOf stState (rc % 1024))
    | none, some _ => (s.makeDirty n 2).finish c.cid (endOf stDirty word)
    | none, none =>
      ((s.commitTag n tag reads).mirrorCmd c.cid [s.me] 0 0
        (fun _ => [(0x22, leBytes 1 ter ++ leBytes 1 slot ++ leBytes 8 tag.toNat, some (ter, slot))]) true true).finish c.cid endDone

/-- VERIFY_DONE: the record is authenticated again and every cell has been compared (R411). -/
def execVerifyDone (record : ReadResult) (below above : Option Nat) (reads : List TrackRead) (s : State) :
    Host.Outcome State Fault Refusal :=
  .next (match s.cmds.findSome? (fun c => match c.body with
      | .verify x k n ter slot same => if c.held.isNone then some (c, x, k, n, ter, slot, same) else none
      | _ => none) with
    | none => s
    | some (c, num, k, n, ter, slot, same) =>
      match s.wpe.sessions.find? (fun x => x.num == num) with
      | none => s.finish c.cid (endOf stCancelled 0)
      | some x => match x.recs[k]?, record, failCode record with
        | some r, .data bytes, _ => match x.openRecord r (readBytes (r.rows * r.cols + 48) bytes) with
          | none => s.finish c.cid (endAccess 5)
          | some rows => s.verifyJudge c n ter slot same r.tag rows below above reads
        | _, _, some (kind, _) => (s.readFailed c.ring kind).finish c.cid endRead
        | _, _, none => s)

/-! ### ERASE_BASIN (R405, R422) -/

/-- Wear counted before the first tunnelling pulse, with a log entry at WORN (R422). -/
def State.countWear (s : State) (n ter slot : Nat) : State :=
  let w := (s.basin n).wear
  let s1 := s.updBasin n (fun b => { b with wear := satInc 0xFFFF b.wear })
  if 10000 ≤ w then s1.dlog 3 3 (BitVec.ofNat 32 (s.slotWord ter slot)) (BitVec.ofNat 64 (satInc 0xFFFF w + 65536)) else s1

/-- ERASE_BASIN: presented when no other cell operation is admitted (R399, R405). -/
def execEraseBasin (ring : Fin 1024) (s : State) : Host.Outcome State Fault Refusal :=
  let g := ring.val
  .next (s.onHead g 0x33 false (fun p =>
    let ter := par p 0x10 1
    let slot := par p 0x11 1
    let s := s.decideAhead g
    if s.cellBusy then s
    else match s.cellBasin ter slot with
      | .error e => s.refuse g p e
      | .ok n =>
        if (s.basin n).wstate = .erased then s.complete g p endDone
        else match s.powerRefusal 100 with
          | some e => s.refuse g p e
          | none =>
            (((((s.accept g p (.erase n ter slot true) none 100).wpePower).cellTerrace ter).journalOpen
              { erase := true, ter := ter, slot := slot, basin := n, firstRow := 0, count := 1, done := 0, sound := true }).countWear
              n ter slot).settle g))

/-- ERASE_DONE: the basin is ERASED and its journal entry closed (R405). -/
def execEraseDone (s : State) : Host.Outcome State Fault Refusal :=
  .next (match s.cmds.findSome? (fun c => match c.body with
      | .erase n ter slot true => if c.held.isNone then some (c.cid, n, ter, slot) else none
      | _ => none) with
    | none => s
    | some (c, n, ter, slot) =>
      ((((s.tunnel n).journalClose).updCmd c (fun x => { x with body := .erase n ter slot false })).mirrorCmd c [s.me] 0 0
        (fun _ => [(0x21, leBytes 1 ter ++ leBytes 1 slot, some (ter, slot))]) true true).finish c endDone)

/-! ### RECALIBRATE and HOLDUP_QUERY (R414, R423) -/

/-- Logical slot that a physical basin holds. -/
def State.slotOf (s : State) (n : Nat) : Option Nat := if n < 4096 then (s.basin n).slot else some (n - 4096)

/-- Tracking evaluations of the basins in turn, stopping at the first basin that sets REF_FAULT. -/
def State.recalibrate (s : State) (basins : List Nat) (reads : List TrackRead) : State × Option Nat :=
  match basins with
  | [] => (s, none)
  | n :: ns =>
    let rs := readingsFor reads n
    let t := s.updBasin n (fun b => rs.foldl (fun b rc => b.tracked rc s.nowMs) b)
    if rs.any (fun rc => !trackVerifies rc) then (t, some n) else t.recalibrate ns reads

/-- The basins a RECALIBRATE tracks, or how it ends (R423). -/
def State.recalTargets (s : State) (ter slot : Nat) : Except End (List Nat) :=
  if ter = 0xFF then
    .ok ((List.range 4096).filter (fun n => (s.basin n).wstate == .valid && !s.basinInGraph n))
  else match s.physOf ter slot with
    | none => .error (endOf stMappedOut (s.slotWord ter slot))
    | some n =>
      match s.dirtyEnd n ter slot with
      | some e => .error e
      | none => if (s.basin n).wstate ≠ .valid ∨ s.armedBasin n then .error endState else .ok [n]

/-- RECALIBRATE: each named basin taken while idle, `reads` holding what its row groups read; a basin that an admitted run
uses is waited for (R198, R423). -/
def execRecalibrate (ring : Fin 1024) (reads : List TrackRead) (s : State) : Host.Outcome State Fault Refusal :=
  let g := ring.val
  .next (s.onHead g 0x34 false (fun p =>
    match s.recalTargets (par p 0x10 1) (par p 0x11 1) with
    | .error e => s.refuse g p e
    | .ok ns =>
      if ns.any (fun n => s.basinInRun n) then s
      else
        let t := (s.needTerraces (((ns.filter (fun n => decide (n < 4096))).map (fun n => n / 64)).eraseDups)).recalibrate ns reads
        match t.2 with
        | none => t.1.complete g p endDone
        | some n => t.1.complete g p (endOf stFault (basinWord (basinTer n) s.me (s.slotOf n)))))

/-- HOLDUP_QUERY: usable energy in 10 µJ and measured capacitance (Table 13-6). -/
def execHoldupQuery (ring : Fin 1024) (s : State) : Host.Outcome State Fault Refusal :=
  let g := ring.val
  .next (s.onHead g 0x35 false (fun p =>
    ({ s with free := s.free + 1 }).complete g p (endOf stDone (s.tankE10 % 65536 + 65536 * (s.wpe.tankUf % 65536)))))

end Sys2Proof.Machine
end

