-- ==== Sys2Proof/Machine/SelfTest.lean ====
section
/-! DEFINITION. Self-test, map-out, hard repair, the failure and device logs, and the commands over them
(R484 to R508). What a test measured arrives as findings and readings (log 7). -/

namespace Sys2Proof.Machine

/-! ### What a self-test covers (Table 19-1, R484, R502) -/

/-- A self-test: KIND of Table 19-4, its TESTS mask by test code, and the scope of BIST_RUN (0 for the whole device). -/
structure TestJob where
  kind : Nat
  tests : Nat
  scope : Nat
  ter : Nat
  index : Nat
  deriving DecidableEq, Repr

/-- The tests of a quick, full and dry-down self-test (Table 19-1). -/
def kindTests (kind : Nat) : Nat :=
  match kind with
  | 1 => 0x0C6A
  | 2 => 0x1F76
  | _ => 0x3FB6

/-- The self-test of a start or a dry-down. -/
def TestJob.ofKind (kind : Nat) : TestJob := { kind := kind, tests := kindTests kind, scope := 0, ter := 0, index := 0 }

/-- BLOCK codes that a test can fail (Tables 19-1 and 19-4). -/
def testBlocks (test : Nat) : List Nat :=
  match test with
  | 0x01 => [10, 11]
  | 0x02 => [4, 5, 6, 7]
  | 0x03 => [3, 5]
  | 0x04 => [3, 5]
  | 0x0A => [9]
  | 0x0B => [8]
  | 0x0C => [8]
  | 0x0D => [8]
  | t => if 5 ≤ t ∧ t ≤ 9 then [1, 2, 5] else []

/-- The physical basin a finding names. -/
def findingBasin (f : Finding) : Nat := 64 * f.ter + f.index

/-- The finding lies in the scope of the self-test. -/
def TestJob.inScope (j : TestJob) (f : Finding) : Bool :=
  match j.scope with
  | 0 => true
  | 1 => f.ter == j.ter
  | 2 => f.ter == j.ter && f.index == j.index
  | 3 => f.ter == j.ter && f.index == j.index
  | _ => f.index == j.index

/-- The block of a finding exists, and the test runs on it: 0x05 on VALID basins, 0x06 of a quick self-test on the
others, 0x0A on disarmed sentinels, AFE tests on channels whose sentinel is disarmed (Table 19-1). -/
def State.testRuns (s : State) (j : TestJob) (f : Finding) : Bool :=
  match f.block with
  | 3 => decide (f.ter < 64) && decide (f.index < 16)
  | 4 => decide (f.ter < 64)
  | 5 => decide (f.ter < 64)
  | 8 => decide (f.index < 16) && !(s.sentinel f.index).armed
  | 9 => decide (f.index < 16) && !(s.sentinel f.index).armed
  | 10 => decide (1 ≤ f.index) && decide (f.index < 6)
  | 11 => decide (f.index < 2)
  | b =>
    if b = 1 ∨ b = 2 then
      decide (f.ter < 64) && decide (f.index < 64) &&
        (let valid := (s.basin (findingBasin f)).wstate == .valid
         if f.test = 5 then valid else if f.test = 6 ∧ j.kind = 1 then !valid else true)
    else true

/-- Level that a test column's mask-fixed element is equivalent to, on every data and spare row (R195); the data and reference
columns have none. -/
def testLevel (col : Nat) : Int := if col = 524 then 32 else if col = 525 then -32 else 0

/-- What a loop-back expects to read of a test column after `n` row phases at input 255, in 1/1,000,000 ladder code: a column of
the other sign fails every compare and reads 0 (R490). -/
def loopCode (col n : Nat) (crossed : Bool) : Nat := ((if crossed then -1 else 1) * testLevel col * 255 * n * 1024).toNat

/-- Operating range of a main rail in mV, in PWR_RAIL order (Table 3-1). -/
def railRange (rail : Nat) : Nat × Nat := [(3135, 3465), (720, 800), (1710, 1890), (3135, 3465), (810, 890), (1140, 1260)].getD rail (0, 0)

/-- The supply and pump check passes a voltage in mV: a main rail in its range, a pump within 3 % of 7.5 V or 11 V (R494). -/
def supplyPasses (block index mv : Nat) : Bool :=
  if block = 10 then decide ((railRange index).1 ≤ mv) && decide (mv ≤ (railRange index).2)
  else
    let nominal := if index = 0 then 7500 else 11000
    decide (97 * nominal ≤ 100 * mv) && decide (100 * mv ≤ 103 * nominal)

/-- A step of a cistern march: whether it goes through the lines upwards, the byte it reads where it reads one, and the byte it
writes then; the last read writes nothing. -/
abbrev MarchStep := Bool × Option Byte × Option Byte

/-- The light march, over every line: each background written and read back (R491). -/
def lightMarch : List MarchStep := [0x55, 0xAA].flatMap (fun b : Byte => [(true, none, some b), (true, some b, none)])

/-- March C− for one data background: w0; ↑(r0, w1); ↑(r1, w0); ↓(r0, w1); ↓(r1, w0); r0 (R491). -/
def marchC (b : Byte) : List MarchStep :=
  [(true, none, some b), (true, some b, some (~~~b)), (true, some (~~~b), some b), (false, some b, some (~~~b)),
   (false, some (~~~b), some b), (true, some b, none)]

/-- The steps of a cistern test. -/
def marchSteps (test : Nat) : List MarchStep := if test = 3 then lightMarch else [0x00, 0x55, 0x33, 0x0F].flatMap marchC

/-- A cistern byte fails where a march reads it: it expects a byte that one of its steps reads, and the bit named differs
(R491). -/
def marchFails (f : Finding) : Bool :=
  (marchSteps f.test).any (fun x => x.2.1 == some (BitVec.ofNat 8 f.expected)) &&
  (decide (7 < f.bit) || bitAt f.expected f.bit != bitAt f.measured f.bit) && f.expected != f.measured

/-- Expected code of a loop-back reading in 1/1,000,000 code and how far it may lie off in codes (Table 19-3); a reference code of a
sentinel may lie 1 LSB off. -/
def loopLimit (f : Finding) : Option (Nat × Nat) :=
  match f.test with
  | 6 => let e := loopCode f.col 64 (f.step % 2 == 1); some (e, if e = 0 then 0 else 8)
  | 7 => let e := loopCode f.col 16 (f.step % 2 == 1); some (e, if e = 0 then 0 else 6)
  | 8 => ([4, 8, 16, 32, 64].find? (fun n => (loopCode 524 n false + 500000) / 1000000 == f.expected)).map (fun n => (loopCode 524 n false, 3))
  | 9 => some (0, 2)
  | 10 => some (f.expected * 1000000, 1)
  | _ => none

/-- What a test measured lies beyond its limits (R491, R494, Table 19-3); the router, terrace control and AFE tests bring only what
failed. -/
def findingFails (f : Finding) : Bool :=
  match loopLimit f with
  | some (e, lim) => decide (lim * 1000000 < ((f.measured * 1000000 : Nat) - (e : Int)).natAbs) || (f.test == 8 && f.bit != 0xFF)
  | none =>
    if f.block = 10 ∨ f.block = 11 then !supplyPasses f.block f.index f.measured
    else if f.block = 3 then marchFails f
    else f.test != 8

/-- The finding with the expected code that its record carries. -/
def findingJudged (f : Finding) : Finding :=
  match loopLimit f with
  | some (e, _) => { f with expected := (e + 500000) / 1000000 }
  | none => f

/-- The results of R199 are all accepted, and no trim reaches a limit of R202 (R488). -/
def refPass (rs : List (List Int)) : Bool :=
  rs.all (fun rc =>
    let t := trackTrims rc
    trackVerifies rc && decide (-128 < t.1) && decide (t.1 < 127) && decide (-128 < t.2) && decide (t.2 < 127))

/-- The reference check fails: the 16 row groups, and then the second check of all of them (R488). -/
def refFails (rs : List (List Int)) : Bool :=
  !refPass (rs.take 16) && ((rs.drop 16).isEmpty || !refPass ((rs.drop 16).take 16))

/-- The failure that the reference check of basin n records: the first reference column off its expected code. -/
def refFinding (n : Nat) (rs : List (List Int)) : Finding :=
  let rc := (rs.find? (fun rc => !refPass [rc])).getD []
  let t := trackTrims rc
  let k := ([2, 3, 4, 5, 7].find? (fun k => !trackWithin (holdTrim t.1) (holdTrim t.2) k (rc.getD k 0))).getD 0
  { test := 5, block := if n % 64 < 62 then 1 else 2, ter := n / 64, index := n % 64, step := 0, row := 0xFFFF, col := 516 + k
    bit := 0xFF, expected := ((trackExpected k).natAbs + 500000) / 1000000, measured := (rc.getD k 0).natAbs }

/-- The failures of the reference check over the VALID basins in scope (R488). -/
def State.refFindings (s : State) (j : TestJob) (reads : List TrackRead) : List Finding :=
  if !bitAt j.tests 5 then []
  else (((s.basins.map (fun e => e.1)).filter (fun n => decide (n < 4096) && (s.basin n).wstate == .valid &&
    refFails (readingsFor reads n))).map (fun n => refFinding n (readingsFor reads n))).filter (fun f => j.inScope f)

/-- The findings that the self-test makes, in the order of its tests. -/
def State.findings (s : State) (j : TestJob) (t : TestIn) : List Finding :=
  let fs := (t.findings.filter (fun f => f.test != 5 && bitAt j.tests f.test && (testBlocks f.test).contains f.block && j.inScope f &&
    s.testRuns j f && findingFails f)).map findingJudged
  fs.filter (fun f => decide (f.test < 5)) ++ s.refFindings j t.reads ++ fs.filter (fun f => decide (5 < f.test))

/-! ### Spare rows and columns (R490, R503) -/

/-- The spare row (0 to 7) or column (8 to 11) that a finding on a basin is about. -/
def spareElement (f : Finding) : Option Nat :=
  if 1024 ≤ f.row ∧ f.row < 1032 then some (f.row - 1024)
  else if 512 ≤ f.col ∧ f.col < 516 then some (8 + (f.col - 512))
  else none

/-- A spare element of a basin is not in use. -/
def Basin.elementFree (b : Basin) (e : Nat) : Bool :=
  if e < 8 then b.sRow.getD e none == none else b.sCol.getD (e - 8) none == none

/-- A finding that is about a basin. -/
def onBasin (f : Finding) : Bool := f.block == 1 || f.block == 2

/-- The finding is an unused spare row or column. -/
def State.unusedSpare (s : State) (f : Finding) : Option Nat :=
  if onBasin f then (spareElement f).filter (fun e => (s.basin (findingBasin f)).elementFree e) else none

/-- The findings that fail basin n itself. -/
def State.basinFindings (s : State) (fs : List Finding) (n : Nat) : List Finding :=
  fs.filter (fun f => onBasin f && findingBasin f == n && (s.unusedSpare f).isNone)

/-! ### Map-out (Table 19-5, R499 to R501) -/

/-- Logical slots of terrace t that no basin holds (TER_STATE.LOGICAL is 62 less these). -/
def State.slotsLost (s : State) (t : Nat) : Nat := ((List.range 62).filter (fun k => (s.physOf t k).isNone)).length

/-- A free spare basin of a terrace that has passed: B62 before B63. -/
def State.freeSpare (s : State) (fs : List Finding) (t : Nat) : Option Nat :=
  [64 * t + 62, 64 * t + 63].find? (fun n =>
    let b := s.basin n
    b.slot.isNone && b.wstate != .failed && (s.basinFindings fs n).isEmpty)

/-- A basin FAILED: its slot moves to a spare, or is lost; with the OUTCOME. -/
def State.mapOutBasin (s : State) (fs : List Finding) (n : Nat) : State × Nat :=
  let s1 := s.updBasin n (fun b => { b with wstate := .failed, mappedOut := true, slot := none })
  match (s.basin n).slot with
  | none => (s1, 1)
  | some k => match s1.freeSpare fs (n / 64) with
    | some m => (s1.updBasin m (fun b => { b with slot := some k }), 2)
    | none => (s1, 3)

/-- Data rows and data columns that the findings of a basin lie on; none where one lies elsewhere (R503). -/
def repairPlan (fs : List Finding) : Option (List Nat × List Nat) :=
  fs.foldl (fun acc f => acc.bind (fun a =>
    if f.row < 1024 then some (if a.1.contains f.row then a.1 else a.1 ++ [f.row], a.2)
    else if f.row = 0xFFFF ∧ f.col < 512 then some (a.1, if a.2.contains f.col then a.2 else a.2 ++ [f.col])
    else none)) (some ([], []))

/-- The free passing spare elements lo to hi - 1 of basin n. -/
def State.passingSpares (s : State) (fs : List Finding) (n lo hi : Nat) : List Nat :=
  (List.range hi).filter (fun e => decide (lo ≤ e) && (s.basin n).elementFree e && !s.bist.spareBad.contains (n, e) &&
    !fs.any (fun f => onBasin f && findingBasin f == n && spareElement f == some e))

/-- Rows and columns substituted by fuses, each by the next free passing spare (R503). -/
def Basin.substitute (b : Basin) (rows cols : List (Nat × Nat)) : Basin :=
  { b with sRow := rows.foldl (fun l x => l.set x.2 (some x.1)) b.sRow
           sCol := cols.foldl (fun l x => l.set (x.2 - 8) (some x.1)) b.sCol }

/-- What a self-test does to a basin it finds failing: hard repair where it qualifies (R503), else map-out. A retest of a
repaired basin fails where its finding of test 0x07 or 0x08 comes a second time (log 7). -/
def State.failBasin (s : State) (fs : List Finding) (repair : Bool) (n : Nat) : State × Nat :=
  let mine := s.basinFindings fs n
  let plan := (repairPlan mine).filter (fun a => decide (a.1.length ≤ (s.passingSpares fs n 0 8).length) &&
    decide (a.2.length ≤ (s.passingSpares fs n 8 12).length))
  match plan with
  | some (rows, cols) =>
    if !repair then s.mapOutBasin fs n
    else if (s.basin n).wstate ≠ .erased then (s, 8)
    else
      let s1 := s.updBasin n (fun b => b.substitute (rows.zip (s.passingSpares fs n 0 8)) (cols.zip (s.passingSpares fs n 8 12)))
      let again := mine.any (fun f => (f.test == 7 || f.test == 8) && decide (2 ≤ mine.count f))
      if again then s1.mapOutBasin fs n else (s1, 7)
  | none => s.mapOutBasin fs n

/-- The 64-bit word that a cistern finding lies in has two failing bits or more (R492). -/
def wordFails (fs : List Finding) (f : Finding) : Bool :=
  decide (255 ≤ f.bit) || fs.any (fun x => x.block == 3 && x.ter == f.ter && x.index == f.index && x.row == f.row &&
    x.col / 8 == f.col / 8 && (x.col != f.col || x.bit != f.bit))

/-- The consequence of one finding and its OUTCOME (Table 19-5); `seen` holds the outcomes of basins already judged. -/
def State.consequence (s : State) (fs : List Finding) (repair : Bool) (seen : List (Nat × Nat)) (f : Finding) :
    State × Nat × List (Nat × Nat) :=
  let n := findingBasin f
  match f.block with
  | 3 =>
    if wordFails fs f then (s.updTer f.ter (fun t => { t with withdrawn := setBit t.withdrawn f.index true }), 1, seen)
    else (s, 6, seen)
  | 5 =>
    ((List.range 64).foldl (fun t b => t.updBasin (64 * f.ter + b) (fun x => { x with slot := none }))
      { s with bist := { s.bist with ctlFailed := setBit s.bist.ctlFailed f.ter true } }, 3, seen)
  | 8 => ({ s with bist := { s.bist with afeFailed := setBit s.bist.afeFailed f.index true } }, 1, seen)
  | 9 => (s.updBasin (4096 + f.index) (fun b => { b with snFailed := true }), 1, seen)
  | 10 => ({ s with bist := { s.bist with supply := setBit s.bist.supply f.index true } }, 5, seen)
  | 11 => ({ s with bist := { s.bist with supply := setBit s.bist.supply (6 + f.index) true } }, 1, seen)
  | b =>
    if b = 1 ∨ b = 2 then
      match s.unusedSpare f with
      | some e =>
        ({ s with bist := { s.bist with spareBad := if s.bist.spareBad.contains (n, e) then s.bist.spareBad else s.bist.spareBad ++ [(n, e)] } },
          1, seen)
      | none => match seen.find? (fun x => x.1 == n) with
        | some x => (s, x.2, seen)
        | none =>
          let r := s.failBasin fs repair n
          (r.1, r.2, (n, r.2) :: seen)
    else (s, 4, seen)

/-! ### Failure records (Table 19-4, R497, R498) -/

/-- A failure record put into flash, of which the last 256 are kept, with its device log entry (R498). -/
def State.failRecord (s : State) (kind outcome : Nat) (f : Finding) : State :=
  let b := s.bist
  let r : FailRec := { uptime := s.now48, seq := b.flogNext, kind := kind, finding := f, device := s.me, outcome := outcome }
  let s1 : State := { s with bist := { b with flog := (b.flog ++ [r]).drop (b.flog.length + 1 - 256), flogNext := (b.flogNext + 1) % 2 ^ 32 } }
  s1.dlog 2 1 (BitVec.ofNat 32 b.flogNext) 0

/-- The 32 bytes of a failure record (Table 19-4). -/
def FailRec.bytes (r : FailRec) : List Byte :=
  let f := r.finding
  leBytes 6 r.uptime ++ leBytes 2 0 ++ leBytes 4 r.seq ++ leBytes 1 r.kind ++ leBytes 1 f.block ++ leBytes 1 r.device ++
  leBytes 1 f.ter ++ leBytes 1 (if f.block = 11 then 0xFF else f.index) ++ leBytes 1 f.test ++ leBytes 2 f.step ++ leBytes 2 f.row ++ leBytes 2 f.col ++
  leBytes 1 f.bit ++ leBytes 1 r.outcome ++ leBytes 2 0 ++ leBytes 2 f.expected ++ leBytes 2 f.measured

/-- The 32 bytes of a device log entry (Table 19-9). -/
def LogEntry.bytes (e : LogEntry) : List Byte :=
  leBytes 6 e.uptime ++ leBytes 2 0 ++ leBytes 4 e.seq ++ leBytes 1 e.source ++ leBytes 1 e.event ++ leBytes 2 0 ++
  leBytes 4 e.arg0.toNat ++ leBytes 4 0 ++ leBytes 8 e.arg1.toNat

/-- Two findings share the block and the test for which at most 16 records are made (R497). -/
def sameSource (a b : Finding) : Bool := a.test == b.test && a.block == b.block && a.ter == b.ter && a.index == b.index

/-- The findings judged in order, each with its consequence and, up to 16 per block and test, its record. -/
def State.judge (s : State) (all : List Finding) (kind : Nat) (repair : Bool) (seen : List (Nat × Nat)) (past : List Finding) :
    List Finding → State × List FailRec
  | [] => (s, [])
  | f :: fs =>
    let r := s.consequence all repair seen f
    if (past.filter (sameSource f)).length < 16 then
      let s1 := r.1.failRecord kind r.2.1 f
      let rest := State.judge s1 all kind repair r.2.2 (f :: past) fs
      (rest.1, (s1.bist.flog.getLast?).toList ++ rest.2)
    else State.judge r.1 all kind repair r.2.2 (f :: past) fs

/-! ### The map-out table (Table 19-6, R501) -/

/-- Sentinel n is FAILED. -/
def State.sentinelFailed (s : State) (n : Nat) : Bool := (s.basin (4096 + n)).wstate == .failed || (s.basin (4096 + n)).snFailed

/-- The number whose bit i is `f i`, for i < n. -/
def bitsOf (n : Nat) (f : Nat → Bool) : Nat := ((List.range n).map (fun i => if f i then 2 ^ i else 0)).sum

/-- The entry of terrace t. -/
def State.mapTerrace (s : State) (t : Nat) : List Byte :=
  leBytes 8 (bitsOf 64 (fun b => (s.basin (64 * t + b)).wstate == .failed)) ++
  leBytes 1 ((s.basin (64 * t + 62)).slot.getD 0xFF) ++ leBytes 1 ((s.basin (64 * t + 63)).slot.getD 0xFF) ++
  leBytes 1 (b2n (s.bist.ctlFailed.getLsbD t)) ++ leBytes 1 (s.slotsLost t) ++ leBytes 4 0

/-- What the table holds beside its header. -/
def State.mapBody (s : State) : List Byte :=
  leBytes 2 (bitsOf 16 s.sentinelFailed) ++ leBytes 14 0 ++ (List.range 64).flatMap s.mapTerrace ++
  s.ters.flatMap (fun t => leBytes 2 t.withdrawn.toNat)

/-- The table of a generation, its CRC taken over it with the CRC field 0. -/
def mapTable (gen : Word) (body : List Byte) : List Byte :=
  let head := leBytes 4 0x544F4D4B ++ leBytes 2 1 ++ leBytes 2 0 ++ leBytes 4 gen.toNat
  head ++ leBytes 4 (crc32c (head ++ leBytes 4 0 ++ body)).toNat ++ body

/-- The map-out table in force. -/
def State.mapOut (s : State) : List Byte := mapTable s.bist.mapGen s.mapBody

/-- CRC of the map-out table in force. -/
def State.mapCrc (s : State) : Word := BitVec.ofNat 32 (fieldAt s.mapOut 0x0C 4)

/-! ### One self-test -/

/-- AFE channels that a self-test covers with a tone loop-back. -/
def State.loopBack (s : State) (j : TestJob) (n : Nat) : Bool :=
  decide (bitsAt j.tests 11 3 ≠ 0) && (j.scope == 0 || (j.scope == 4 && j.index == n)) && !(s.sentinel n).armed

/-- A channel after its tone loop-back: log and gm trims recomputed from the tone response, by no formula of the spec (log 9);
its rows carry the tone's features until the next hop boundary, where an enabled channel rejoins (R154, R155, R496). -/
def AfeChan.looped (x : AfeChan) (draw : Nat) : AfeChan :=
  let f := (List.range 82).map (fun i => freeFeature i (draw + i))
  { x with trim := { x.trim with logOff := Config.freeInt (draw + 82), logSlope := Config.freeInt (draw + 83)
                                 gm := (List.range 40).map (fun k => Config.freeInt (draw + 84 + k)) }
           feat := f, lane := f, switchWait := false, rejoin := true }

/-- PASS, UNCHECKED, AFE_FAILED and the trims after the loop-backs of a self-test; a channel that a test of the whole device
skipped keeps its trims from flash (R154, R155, R499). -/
def State.loopResults (s : State) (j : TestJob) : State :=
  (List.range 16).foldl (fun t n =>
    if s.loopBack j n then
      let fail := t.bist.afeFailed.getLsbD n
      ({ t with afe := { t.afe with calPass := setBit t.afe.calPass n (!fail), unchecked := setBit t.afe.unchecked n false }
                free := t.free + 128 } : State).updChan n (fun x => x.looped t.free)
    else if decide (bitsAt j.tests 11 3 ≠ 0) && j.scope == 0 then
      ({ t with afe := { t.afe with unchecked := setBit t.afe.unchecked n true } } : State).updChan n (fun x => { x with trim := x.flash })
    else t) s

/-- Before the tests: what the blocks under test held of an earlier test of the same kind is gone (R487, R494, R499). -/
def State.testBegin (s : State) (j : TestJob) : State :=
  let s1 : State := if bitAt j.tests 1 ∧ j.scope = 0 then { s with bist := { s.bist with supply := 0 } } else s
  let s2 := (List.range 16).foldl (fun t n => if s.loopBack j n then
    { t with bist := { t.bist with afeFailed := setBit t.bist.afeFailed n false } } else t) s1
  let s2 := if bitAt j.tests 0x0A ∧ j.scope = 0 then (List.range 16).foldl (fun t n =>
    if (s.sentinel n).armed ∨ !(s.basin (4096 + n)).snFailed then t else t.updBasin (4096 + n) (fun b => { b with snFailed := false })) s2 else s2
  if bitsAt j.tests 3 2 = 0 then s2
  else
    let lo := if j.scope = 0 then 0 else j.ter * 0x100000 + (if j.scope = 3 then j.index * 0x10000 else 0)
    let len := if j.scope = 0 then 64 * 0x100000 else if j.scope = 3 then 0x10000 else 0x100000
    { s2 with cistern := Memory.clear s2.cistern lo (lo + len) }

/-- The basin lies in the scope of the self-test. -/
def TestJob.covers (j : TestJob) (n : Nat) : Bool :=
  match j.scope with
  | 0 => decide (n < 4096)
  | 1 => n / 64 == j.ter
  | _ => n == 64 * j.ter + j.index

/-- Trims that the reference check derives for one basin: by its tracking evaluations where it is VALID (R488), OFFSET from the
RC6 readings and GAIN 0 where it is ERASED, PROGRAMMING or DIRTY (R489); a FAILED basin is left alone. -/
def Basin.rederived (b : Basin) (rs : List (List Int)) (at_ : Word) : Basin :=
  match b.wstate with
  | .valid => rs.foldl (fun b rc => b.tracked rc at_) b
  | .failed => b
  | _ => b.setTrims 0 (roundDiv (4 * (rs.map (fun rc => rc.getD 6 0)).sum) rs.length) at_

/-- Trims re-derived for every basin in scope by the reference check (R116, R487 to R489). A basin that neither the state nor
the operand lists is erased and nominal: its trims are 0, derived now. -/
def State.rederive (s : State) (j : TestJob) (reads : List TrackRead) : State :=
  if !bitAt j.tests 5 then s
  else
    let ns := ((s.basins.map (fun e => e.1) ++ reads.map (fun r => r.basin)).eraseDups).filter j.covers
    let s1 : State := if j.scope = 0 then { s with bist := { s.bist with trimAt := s.nowMs } } else s
    ns.foldl (fun t n => t.updBasin n (fun b => b.rederived (readingsFor reads n) s.nowMs)) s1

/-- A self-test run whole: its trims, its findings judged, the map-out table written where it changed; and the records. -/
def State.selfTest (s : State) (j : TestJob) (t : TestIn) (repair : Bool) : State × List FailRec :=
  let fs := s.findings j t
  let s1 := (s.testBegin j).rederive j t.reads
  let r := s1.judge fs j.kind repair [] [] fs
  let s2 := r.1.loopResults j
  let s3 : State := { s2 with bist := { s2.bist with lastKind := j.kind, fails := min 0xFFFF fs.length } }
  (if s3.mapBody = s.mapBody then s3 else { s3 with bist := { s3.bist with mapGen := s3.bist.mapGen + 1 } }, r.2)

/-- Some record says that a basin, a cistern bank, an AFE channel or a terrace has failed (R117): also one about a basin that is
FAILED already (DESIGN CHOICE, log 40). -/
def degraded (rs : List FailRec) : Bool :=
  rs.any (fun r => match r.finding.block with
    | 1 => r.outcome == 2 || r.outcome == 3 || (r.outcome == 1 && (spareElement r.finding).isNone)
    | 2 => r.outcome == 2 || r.outcome == 3 || (r.outcome == 1 && (spareElement r.finding).isNone)
    | 3 => r.outcome == 1
    | 5 => true
    | 8 => true
    | _ => false)

/-- Some record says that a router, the engine port or the bridge has failed (Table 19-5). -/
def routerFailed (rs : List FailRec) : Bool := rs.any (fun r => r.finding.block == 4 || r.finding.block == 6 || r.finding.block == 7)

/-! ### BIST_RUN (R502 to R505) -/

/-- Terraces that the tests of a BIST_RUN power: AFE tests read through T0 (R485, R495). -/
def bistTerraces (scope ter : Nat) : List Nat :=
  match scope with
  | 0 => List.range 64
  | 4 => [0]
  | _ => [ter]

/-- The moats a BIST_RUN sets while it runs, or clears: local ports where basins or cisterns are under test, the four
neighbour-facing ports where the router is (R252). -/
def State.testMoats (s : State) (scope ter tests : Nat) (on : Bool) : State :=
  if scope = 4 then s
  else (bistTerraces scope ter).foldl (fun t k => t.updTer k (fun x =>
    { x with moatLocal := if bitsAt tests 3 7 ≠ 0 then on else x.moatLocal
             moatPorts := if bitAt tests 2 then (if on then 0xF else 0) else x.moatPorts })) s

/-- BIST_RUN (Table 19-7). -/
def execBistRun (ring : Fin 1024) (s : State) : Host.Outcome State Fault Refusal :=
  let g := ring.val
  .next (s.onHead g 0x50 false (fun p =>
    let scope := par p 0x10 1
    let index := par p 0x12 1
    let s := s.decideAhead g
    if !s.graphs.isEmpty || !s.casc.shadows.isEmpty || (scope == 0 && s.anyArmed) || (scope == 4 && (s.sentinel index).armed) then
      s.refuse g p endState
    else match s.powerRefusal 18000 with
      | some e => s.refuse g p e
      | none =>
        let s0 := s.testMoats scope (par p 0x11 1) (par p 0x14 4) true
        let s1 : State := { s0 with afe := { s.afe with loopback := bitsAt (par p 0x14 4) 11 3 != 0 && (scope == 0 || scope == 4) } }
        ((s1.accept g p (.bist scope (par p 0x11 1) index (par p 0x14 4) (BitVec.ofNat 64 (par p 0x18 8)) (par p 0x20 4)) none 18000).needTerraces
          (bistTerraces scope (par p 0x11 1))).settle g))

/-- BIST_RUN_DONE: the tests have run; records written up to the buffer, and DONE with both counts (R504). -/
def execBistRunDone (test : TestIn) (s : State) : Host.Outcome State Fault Refusal :=
  .next (match s.cmds.findSome? (fun c => match c.body with
      | .bist scope ter index tests addr bytes => some (c, scope, ter, index, tests, addr, bytes)
      | _ => none) with
    | none => s
    | some (c, scope, ter, index, tests, addr, bytes) =>
      let job : TestJob := { kind := 4, tests := tests % 2 ^ 31, scope := scope, ter := ter, index := index }
      let r := ({ s with afe := { s.afe with loopback := false } } : State).testMoats scope ter tests false |>.selfTest job test (bitAt tests 31)
      let out := r.2.take (bytes / 32)
      let s1 := if out.isEmpty then r.1 else r.1.dmaWrite c.cid addr (out.flatMap FailRec.bytes) false
      s1.finish c.cid (endOf stDone (out.length % 65536 + 65536 * r.1.bist.fails)))

/-! ### MAPOUT_READ, LOG_READ, DRYDOWN_INVALIDATE (R501, R507, R508) -/

/-- MAPOUT_READ: the table in force written to ADDR. -/
def execMapoutRead (ring : Fin 1024) (s : State) : Host.Outcome State Fault Refusal :=
  let g := ring.val
  .next (s.onHead g 0x51 false (fun p =>
    s.completeWith g p (fun t => t.dmaWrite s.nextCid (BitVec.ofNat 64 (par p 0x10 8)) s.mapOut false) endDone))

/-- Entries of a log from sequence number `first`, oldest first, as bytes. -/
def State.logBytes (s : State) (failures : Bool) (first : Nat) : List (List Byte) :=
  if failures then (s.bist.flog.filter (fun r => decide (first ≤ r.seq))).map FailRec.bytes
  else (s.bist.dlog.filter (fun e => decide (first ≤ e.seq))).map LogEntry.bytes

/-- LOG_READ: the retained entries up to BYTES, and their count (R498, R508). -/
def execLogRead (ring : Fin 1024) (s : State) : Host.Outcome State Fault Refusal :=
  let g := ring.val
  .next (s.onHead g 0x53 false (fun p =>
    let out := (s.logBytes (par p 0x10 1 == 1) (par p 0x14 4)).take (par p 0x20 4 / 32)
    s.completeWith g p (fun t => if out.isEmpty then t
      else t.dmaWrite s.nextCid (BitVec.ofNat 64 (par p 0x18 8)) out.flatten false) (endOf stDone (out.length % 65536))))

/-- DRYDOWN_INVALIDATE (R507). -/
def execDrydownInvalidate (ring : Fin 1024) (s : State) : Host.Outcome State Fault Refusal :=
  let g := ring.val
  .next (s.onHead g 0x56 false (fun p =>
    s.completeWith g p (fun s => { s with bist := { s.bist with invPending := true } }) endDone))

end Sys2Proof.Machine
end

