-- ==== Sys2Proof/Machine/Frames.lean ====
section
/-! DEFINITION. Frames: their source, the edges and timers that start one, and the bookings that follow a frame's start
(R363 to R366). -/

namespace Sys2Proof.Machine

/-- A run booked in the window of frame f follows the start of frame k: its instants counted from that start. -/
def Run.follow (r : Run) (k now period offset window : Nat) : Run :=
  match r.window with
  | some (f, _) =>
    if k ≤ f ∧ !r.begun then
      let fire := 1000 * (now + (f - k) * period + offset)
      { r with start := fire, bound := fire + (r.bound - r.start), notBefore := fire, window := some (f, fire + 1000 * window) }
    else r
  | none => r

/-- A window run's command follows the start of frame k, with the end of its window as its deadline. -/
def State.followFrame (s : State) (k : Nat) (c : Cmd) : Cmd :=
  match c.body with
  | .run r => match (s.graph? r.handle).bind (fun g => g.frame) with
    | some f =>
      let r' := r.follow k s.slc.frameAt s.slc.curPeriod f.1 f.2
      { c with body := .run r', deadline := match r.begun, r'.window with
          | false, some (_, e) => some (e / 1000)
          | _, _ => c.deadline }
    | none => c
  | _ => c

/-- A frame starts: the index advances, and settings that waited for it apply (R363, R365). -/
def State.startFrame (s : State) : State :=
  let z := s.slc
  let now := s.tmr.uptime
  let k := match z.frame with
    | none => 0
    | some k => min (2 ^ 48 - 1) (k + 1)
  let s1 : State := { s with slc := { z with
    frame := some k, frameAt := now, meas := if z.frame.isNone then 0 else min (2 ^ 24 - 1) (now - z.frameAt)
    starts := if z.frame.isNone then [] else (z.frameAt :: z.starts).take 20
    fired := [], released := [], curSrc := z.src, curPeriod := z.period, firstEdge := false } }
  { s1 with cmds := s1.cmds.map (fun (c : Cmd) => s1.followFrame k c) }

/-- FSYNC_EDGE: accepted from 15/16 of a period after the last frame start, or as the first; else ignored and counted
(R363, R364). -/
def execFsyncEdge (s : State) : Host.Outcome State Fault Refusal :=
  let z := s.slc
  .next (
    if z.curSrc ≠ 1 then s
    else if z.firstEdge ∨ 15 * z.curPeriod ≤ 16 * (s.tmr.uptime - z.frameAt) then s.startFrame
    else { s with slc := { z with early := satInc 0xFFFF z.early } })

/-- FRAME_TIMER_EXPIRE: a frame every PERIOD_US (R363). -/
def execFrameTimerExpire (s : State) : Host.Outcome State Fault Refusal :=
  let z := s.slc
  .next (if z.curSrc = 2 ∧ z.frameAt + z.curPeriod ≤ s.tmr.uptime then s.startFrame else s)

/-- FSYNC_MISSED: no edge accepted by 5/4 of a period: a frame starts and is counted (R364). -/
def execFsyncMissed (s : State) : Host.Outcome State Fault Refusal :=
  let z := s.slc
  .next (
    if z.curSrc = 1 ∧ !z.firstEdge ∧ 5 * z.curPeriod ≤ 4 * (s.tmr.uptime - z.frameAt) then
      ({ s with slc := { z with missed := satInc 0xFFFF z.missed } }).startFrame
    else s)

/-- SLC_FRAME_CFG written: SRC 3 is discarded, PERIOD_US is held in 4,170 to 33,300; from NONE the change applies at once
(R363). -/
def State.frameCfgWrite (s : State) (v : Word) : State :=
  let n := v.toNat
  let z := s.slc
  let bad := bitsAt n 0 2 == 3
  let src := if bad then z.src else bitsAt n 0 2
  let period := max 4170 (min 33300 (bitsAt n 16 16))
  let z1 : Sluice := { z with src := src, period := period, early := if bad then z.early else 0
                              missed := if bad then z.missed else 0 }
  if z.curSrc ≠ 0 then { s with slc := z1 }
  else
    let s1 : State := { s with slc := { z1 with curSrc := src, curPeriod := period, firstEdge := src == 1 } }
    if src = 2 then s1.startFrame else s1

/-- SLC_FRAME_CFG_WRITE. -/
def execSlcFrameCfgWrite (value : Word) (s : State) : Host.Outcome State Fault Refusal :=
  .next (s.hostAccess 0 none .engine (fun s => s.frameCfgWrite value))

end Sys2Proof.Machine
end

