-- ==== Sys2Proof/Machine/Signal.lean ====
section
/-! DEFINITION. What an AFE channel makes of its input: full scale, filter bank, integrators and log law, in fixed point,
within the accuracies of Table 5-5 (R131 to R138, R155 to R157, log 41). -/

namespace Sys2Proof.Machine

/-! ### Fixed-point arithmetic -/

/-- ⌊√n⌋ for n below 2^128, by its bits from the highest. -/
def isqrt (n : Nat) : Nat :=
  (List.range 64).foldr (fun i r => if (r + 2 ^ i) * (r + 2 ^ i) ≤ n then r + 2 ^ i else r) 0

/-- e^(-t / tau) in 1/2^40, by (1 - z + z²/2)^65536 with z = t / (65536 tau). -/
def decay (t tau : Nat) : Nat :=
  if 32 * tau ≤ t then 0
  else
    let z := t * 2 ^ 40 / (tau * 65536)
    (List.range 16).foldl (fun y _ => y * y / 2 ^ 40) (2 ^ 40 - z + z * z / 2 ^ 41)

/-- The first `fuel` fraction bits of log2 (y / 2^40), for y in [2^40, 2^41). -/
def log2Bits : Nat → Nat → Nat → Nat
  | 0, _, acc => acc
  | fuel + 1, y, acc =>
    let q := y * y / 2 ^ 40
    if 2 ^ 41 ≤ q then log2Bits fuel (q / 2) (2 * acc + 1) else log2Bits fuel q (2 * acc)

/-- (60 + L) / 60 in 1/1,200,000, not yet clamped, for a level of l > 0 in 1/1,000,000,000 of full scale, L = 20 log10
(R136): 400,000 log10 (l / 1,000,000). -/
def logLevel (l : Nat) : Int :=
  let m := l * 2 ^ 40 / 1000000
  let e := Nat.log2 m
  let y := if 40 ≤ e then m / 2 ^ (e - 40) else m * 2 ^ (40 - e)
  (((e : Int) - 40) * 4194304 + log2Bits 22 y 0) * 12041199827 / (100000 * 4194304)

/-! ### Preamplifier and filter bank (R131, R132) -/

/-- Input full scale in µV peak, by GAIN (Table 5-1). -/
def fullScale (gain : Nat) : Nat :=
  match gain with
  | 0 => 1600000
  | 1 => 801900
  | 2 => 401900
  | 3 => 201400
  | 4 => 100900
  | 5 => 50600
  | 6 => 25360
  | _ => 12710

/-- f(k) = 100 Hz x 120^(k/39), to the nearest mHz (R132). -/
def bandCentres : List Nat :=
  [100000, 113061, 127828, 144523, 163399, 184740, 208869, 236149, 266992, 301864, 341290, 385865, 436263, 493242, 557664,
   630500, 712849, 805953, 911218, 1030231] ++
  [1164788, 1316919, 1488920, 1683386, 1903251, 2151833, 2432881, 2750636, 3109893, 3516073, 3975303, 4494512, 5081534,
   5745227, 6495604, 7343987, 8303176, 9387643, 10613751, 12000000]

/-- The 20 Hz high-pass: squared gain at f mHz, as numerator and denominator (R131). -/
def highPass (f : Nat) : Nat × Nat := (f * f, f * f + 20000 * 20000)

/-- Squared magnitude at f of a second-order band-pass of centre c and quality q/100, as numerator and denominator
(R132). -/
def bandPass (f c q : Nat) : Nat × Nat :=
  let d := if f ≤ c then c * c - f * f else f * f - c * c
  (10000 * (f * c) * (f * c), 10000 * (f * c) * (f * c) + q * q * d * d)

/-- The band as it stands after trim: its centre and Q within Table 5-5. -/
def bandCentre (ch k : Nat) (gm : Int) : Nat :=
  (bandCentres.getD k 0) * (1000000 + clampInt (-30000) 30000 (Config.afeCentre ch k gm)).toNat / 1000000
def bandQ (ch k : Nat) (gm : Int) : Nat := max 750 (min 880 (Config.afeQ ch k gm))

/-- What the 20 kHz low-pass leaves of a level: all of it up to 12 kHz, a free part of it above (R131, log 41). -/
def lowPassed (f l : Nat) : Nat := if f ≤ 12000000 then l else l * min 1000000 (Config.lowPass f) / 1000000

/-- Steady level of band k for one tone, in 1/1,000,000,000 of band full scale, which is the level of a full-scale sine at
f(k) (R133). -/
def toneLevel (ch gain k : Nat) (gm : Int) (f uv : Nat) : Nat :=
  let fk := bandCentres.getD k 0
  let h := highPass f
  let hk := highPass fk
  let b := bandPass f (bandCentre ch k gm) (bandQ ch k gm)
  let fs := fullScale gain
  lowPassed f (isqrt (10 ^ 18 * (uv * uv * h.1 * hk.2 * b.1) / (fs * fs * h.2 * hk.1 * b.2)))

/-- Preamplifier output for one tone, in 1/1,000,000,000 of its full scale. -/
def preampLevel (gain f uv : Nat) : Nat :=
  let h := highPass f
  lowPassed f (isqrt (10 ^ 18 * (uv * uv * h.1) / (fullScale gain * fullScale gain * h.2)))

/-- The preamplifier clips: a tone beyond full scale does, tones that pass it only together may (R157, log 41). -/
def clips (gain draw : Nat) (ts : List (Nat × Nat)) : Bool :=
  let ls := ts.map (fun t => preampLevel gain t.1 t.2)
  ls.any (fun l => decide (10 ^ 9 < l)) || (decide (10 ^ 9 < ls.sum) && Config.freeBool draw)

/-- A natural number between lo and hi that the spec leaves open. -/
def freeBetween (lo hi draw : Nat) : Nat := max lo (min hi (Config.freeInt draw).toNat)

/-- Mean rectified level of several tones in one band: not below twice the largest less their sum, nor above the sum; where
between, the spec does not say (log 41). -/
def mixLevel (ls : List Nat) (draw : Nat) : Nat :=
  match ls with
  | [] => 0
  | [l] => l
  | _ => freeBetween (2 * ls.foldl max 0 - ls.sum) ls.sum draw

/-- Steady levels of the 40 bands for an input (R131 to R133, Table 5-6). -/
def steadyLevels (ch gain : Nat) (gm : List Int) (i : MicInput) (draw : Nat) : List Nat :=
  match i with
  | .openMic => List.replicate 40 0
  | .shorted => List.replicate 40 0
  | .badCommonMode => (List.range 40).map (fun k => freeBetween 0 (2 * 10 ^ 9) (draw + k))
  | .tones ts =>
    (List.range 40).map (fun k =>
      let l := mixLevel (ts.map (fun t => toneLevel ch gain k (gm.getD k 0) t.1 t.2)) (draw + k)
      if !clips gain (draw + 40) ts then l
      else if 10 ^ 9 ≤ l then 10 ^ 9
      else freeBetween 0 (10 ^ 9) (draw + k))

/-! ### Integrators (R133) -/

/-- τ in µs: 2 ms x 2^TAU, within Table 5-5. -/
def tauUs (ch tau : Nat) : Nat := 2 * 2 ^ tau * (1000 + clampInt (-100) 100 (Config.afeTau ch tau)).toNat

/-- A leaky integrator at level l after t µs towards the steady level u. -/
def integrate (l u t tau : Nat) : Nat :=
  if l = u then l else ((u : Int) + ((l : Int) - u) * (decay t tau : Nat) / 2 ^ 40).toNat

/-- The pieces held to a hop of t µs: what they do not cover is silence, what goes beyond it is not of this hop. -/
def fitPieces (t : Nat) : List MicPiece → List MicPiece
  | [] => [{ us := t, input := .tones [] }]
  | p :: ps => if t ≤ p.us then [{ p with us := t }] else p :: fitPieces (t - p.us) ps

/-- A powered channel integrates the stretches of a hop; `draw` numbers its free values, 64 to a stretch (R133, R157). -/
def AfeChan.listen (x : AfeChan) (ch : Nat) : List MicPiece → Nat → AfeChan
  | [], _ => x
  | p :: ps, draw =>
    let u := steadyLevels ch x.gain x.trim.gm p.input draw
    let c := match p.input with
      | .tones ts => clips x.gain (draw + 40) ts
      | _ => false
    AfeChan.listen { x with level := List.zipWith (fun l v => integrate l v p.us (tauUs ch x.tau)) x.level u
                            clipNow := x.clipNow || c } ch ps (draw + 64)

/-! ### Log law, deltas and summary (R136 to R139) -/

/-- Gain error of a channel at a gain step, in mdB: within 0.5 dB, adjacent steps within 0.2 dB (Table 5-5). -/
def gainError (ch : Nat) (trim : Int) : Nat → Int
  | 0 => clampInt (-500) 500 (Config.afeGain ch 0 trim)
  | g + 1 => clampInt (-500) 500 (gainError ch trim g + clampInt (-200) 200 (Config.afeGain ch (g + 1) trim))

/-- A log feature from a level, in 1/1,200,000: clamp((60 + L) / 60, 0, 1), within the gain and log-law errors of Table 5-5
(R136). -/
def logFeature (ch k gain : Nat) (t : AfeTrim) (l : Nat) : Int :=
  if l = 0 then 0
  else
    let n := logLevel l + 20 * gainError ch t.gain gain
    if n ≤ 0 then 0
    else if 1200000 ≤ n then 1200000
    else clampInt 0 1200000 (n + 20 * clampInt (-500) 500 (Config.afeLaw ch k t.logOff t.logSlope l))

/-- A delta feature: twice the change since the previous hop, held in ±1, within 0.01 of delta full scale (R137). -/
def deltaFeature (x prev : Int) (draw : Nat) : Int :=
  clampInt (-1200000) 1200000 (2 * (x - prev) + clampInt (-12000) 12000 (Config.freeInt draw))

/-- The 40 log features of a channel. -/
def AfeChan.logs (x : AfeChan) (ch : Nat) : List Int := x.level.mapIdx (fun k l => logFeature ch k x.gain x.trim l)

/-- The 82 features of a hop (Table 5-4): log levels, deltas, overall level, tilt. -/
def AfeChan.features (x : AfeChan) (ch : Nat) (first : Bool) (draw : Nat) : List Int :=
  let v := x.logs ch
  v ++ v.mapIdx (fun k a => if first then 0 else deltaFeature a (x.prevLog.getD k 0) (draw + k)) ++
    [logFeature ch 40 x.gain x.trim (x.level.sum / 40), ((v.drop 20).sum - (v.take 20).sum) / 20]

end Sys2Proof.Machine
end

