-- ==== Sys2Proof/Machine/Analog.lean ====
section
/-! DEFINITION. The analogue front end and the sentinels: AFE_CONFIG, arming, hop boundaries, the wake rule, reports, and
the feature bus (R131 to R181, R572). -/

namespace Sys2Proof.Machine

/-! ### Settings as accepted commands will leave them (R142, R143, R177) -/

/-- The sentinel of channel n as its accepted commands will leave it: armed or not. -/
def State.willBeArmed (s : State) (n : Nat) : Bool :=
  match (s.snt.pend.filter (fun p => p.chan == n)).getLast? with
  | some p => p.rule.isSome
  | none => (s.sentinel n).armed

/-- A sentinel is armed, or an accepted command will arm it. -/
def State.armedOrArming (s : State) (n : Nat) : Bool := (s.sentinel n).armed || s.willBeArmed n

/-- The enable of channel n as accepted AFE_CONFIGs will leave it. -/
def State.willBeEnabled (s : State) (n : Nat) : Bool :=
  s.afe.pend.foldl (fun e p => if p.cfg.chMask.getLsbD n then p.cfg.chEn.getLsbD n else e) (s.chan n).en

/-! ### AFE_CONFIG (R141 to R144, R152, R572) -/

/-- The parameters of an AFE_CONFIG packet (Table 13-5). -/
def afeOf (p : List Byte) : AfeCfg :=
  { chEn := BitVec.ofNat 16 (par p 0x12 2), chMask := BitVec.ofNat 16 (par p 0x10 2), hop := bitsAt (par p 0x24 1) 0 2
    hopValid := bitAt (par p 0x24 1) 7
    mic := BitVec.ofNat 16 (((List.range 4).map (fun k => 16 ^ k * bitsAt (par p (0x26 + k) 1) 0 3)).sum)
    micMask := BitVec.ofNat 4 (par p 0x25 1)
    gain := (List.range 16).map (fun n => bitsAt (par p (0x14 + n) 1) 0 3)
    tau := (List.range 16).map (fun n => bitsAt (par p (0x14 + n) 1) 4 3) }

/-- The command changes GAIN, TAU or the enable of channel n. -/
def AfeCfg.changesChan (c : AfeCfg) (n : Nat) (x : AfeChan) : Bool :=
  c.chMask.getLsbD n && (c.chEn.getLsbD n != x.en || c.gain.getD n 0 != x.gain || c.tau.getD n 0 != x.tau)

/-- The settings of MICBIAS[k] in the command. -/
def AfeCfg.micOf (c : AfeCfg) (k : Nat) : Bool × Nat := (c.mic.getLsbD (4 * k), bitsAt c.mic.toNat (4 * k + 1) 2)

/-- The command changes HOP or a MICBIAS setting. -/
def State.afeShared (s : State) (c : AfeCfg) : Bool :=
  (c.hopValid && c.hop != s.afe.hop) || (List.range 4).any (fun k =>
    c.micMask.getLsbD k && ((s.afe.mic[k]?).map (fun m => (m.en, m.vsel)) != some (c.micOf k)))

/-- R143, and a channel that failed its loop-back (Table 19-5). -/
def State.afeRefused (s : State) (c : AfeCfg) : Bool :=
  (List.range 16).any (fun n => s.armedOrArming n && c.changesChan n (s.chan n)) ||
  (s.afeShared c && (List.range 16).any s.armedOrArming) ||
  (List.range 16).any (fun n => c.chMask.getLsbD n && c.chEn.getLsbD n && s.bist.afeFailed.getLsbD n)

/-- Channels the command newly enables: one that an earlier command will enable has not joined yet, so this command waits
its own 2.0 ms as well (R142). -/
def State.newlyEnabled (s : State) (c : AfeCfg) (n : Nat) : Bool :=
  c.chMask.getLsbD n && c.chEn.getLsbD n && !(s.chan n).en

/-- AFE_CONFIG: it applies at a hop boundary; a channel it newly enables is powered at once, and then the boundary is one
at least 2.0 ms later (R142). -/
def execAfeConfig (ring : Fin 1024) (s : State) : Host.Outcome State Fault Refusal :=
  let g := ring.val
  .next (s.onHead g 0x20 false (fun p =>
    let c := afeOf p
    if s.afeRefused c then s.refuse g p endState
    else
      let new := (List.range 16).filter (s.newlyEnabled c)
      let t := s.accept g p .afe none 0
      let t1 := new.foldl (fun t n => t.updChan n (fun x => { x with powered := true })) t
      ({ t1 with afe := { t1.afe with pend := t1.afe.pend ++ [({ cfg := c, cid := s.nextCid, notBefore := s.tmr.uptime + (if new.isEmpty then 0 else 2000) } : AfePend)] } } : State).settle g))

/-- Settling hops: ⌈5τ / hop period⌉, at least 1 (R144). -/
def settleHops (tau hop : Nat) : Nat := max 1 (ceilDiv (2 ^ (tau + 1)) (2 ^ hop))

/-- Channel n after an AFE_CONFIG with hop code `hop` in force (R142, R144, R145). N counts hops of the period in force with
that command; a later command of the same boundary that changes HOP leaves the count (DESIGN CHOICE, log 41). -/
def AfeCfg.applyChan (c : AfeCfg) (hop n : Nat) (x : AfeChan) : AfeChan :=
  if !c.chMask.getLsbD n then x
  else
    let en := c.chEn.getLsbD n
    let gain := c.gain.getD n 0
    let tau := c.tau.getD n 0
    let joins := en && !x.en
    let moved := en && x.en && (gain != x.gain || tau != x.tau)
    { x with en := en, gain := gain, tau := tau, powered := en
             settle := if joins || moved then settleHops tau hop else if en then x.settle else 0
             firstValid := if joins || moved then false else x.firstValid
             clipCnt := if joins then 0 else x.clipCnt, clipNow := if joins then false else x.clipNow }

/-- The AFE after an AFE_CONFIG at the boundary `now`: a new period starts a new grid there (R134). -/
def Afe.apply (a : Afe) (c : AfeCfg) (now : Nat) : Afe :=
  let hop := if c.hopValid then c.hop else a.hop
  { a with hop := hop, gridAt := if hop = a.hop then a.gridAt else now, chans := a.chans.mapIdx (fun n x => c.applyChan hop n x)
           mic := a.mic.mapIdx (fun k m => if c.micMask.getLsbD k then { m with en := (c.micOf k).1, vsel := (c.micOf k).2 } else m) }

/-- Accepted AFE_CONFIGs whose boundary this is apply in order of acceptance, and their records are written (R142). -/
def State.applyAfe (s : State) : State :=
  let due := s.afe.pend.filter (fun p => decide (p.notBefore ≤ s.tmr.uptime))
  let s1 : State := { s with afe := { s.afe with pend := s.afe.pend.filter (fun p => decide (s.tmr.uptime < p.notBefore)) } }
  due.foldl (fun t p => ({ t with afe := t.afe.apply p.cfg s.tmr.uptime }).finish p.cid endDone) s1

/-! ### SENTINEL_ARM and SENTINEL_DISARM (R167, R177 to R179) -/

/-- The rule that a SENTINEL_ARM packet carries. -/
def ruleOf (p : List Byte) : SntRule :=
  { mask := BitVec.ofNat 16 (par p 0x12 2), enterTh := par p 0x14 1, exitTh := par p 0x15 1, entryP := par p 0x16 1
    exitP := par p 0x17 1, thetaA := par p 0x18 1, report := bitsAt (par p 0x11 1) 0 2
    wakeHost := bitAt (par p 0x11 1) 2, wakeDev := bitAt (par p 0x11 1) 3 }

/-- How a SENTINEL_ARM of channel n with sound parameters ends at once (Table 6-5). -/
def State.armRefusal (s : State) (n : Nat) : Option End :=
  let b := s.basin (4096 + n)
  if s.willBeArmed n then some endState
  else if !(s.chan n).en || !s.willBeEnabled n then some endState
  else match b.wstate with
    | .erased => some endState
    | .programming => some endState
    | .dirty => some (endOf stDirty (basinWord 64 s.me (some n)))
    | .failed => some (endOf stFault (basinWord 64 s.me (some n)))
    | .valid => if b.snFailed then some (endOf stFault (basinWord 64 s.me (some n))) else none

/-- An accepted command waits for its boundary. -/
def State.sentinelPend (s : State) (g : Nat) (p : List Byte) (n : Nat) (rule : Option SntRule) : State :=
  let t := s.accept g p .sentinel none 0
  let t1 := if rule.isSome then t.updSentinel n (fun x => { x with powered := true }) else t
  ({ t1 with snt := { t1.snt with pend := t1.snt.pend ++ [({ chan := n, rule := rule, cid := s.nextCid } : SntPend)] } } : State).settle g

/-- SENTINEL_ARM. -/
def execSentinelArm (ring : Fin 1024) (s : State) : Host.Outcome State Fault Refusal :=
  let g := ring.val
  .next (s.onHead g 0x21 false (fun p =>
    let n := par p 0x10 1
    match s.armRefusal n with
    | some e => s.refuse g p e
    | none => s.sentinelPend g p n (some (ruleOf p))))

/-- SENTINEL_DISARM: a channel not armed is refused (Table 13-5). -/
def execSentinelDisarm (ring : Fin 1024) (s : State) : Host.Outcome State Fault Refusal :=
  let g := ring.val
  .next (s.onHead g 0x22 false (fun p =>
    let n := par p 0x10 1
    if s.willBeArmed n then s.sentinelPend g p n none else s.refuse g p endState))

/-- A sentinel as an accepted command leaves it: QUIET and about to calibrate, or disarmed with its last state (R163,
R177, R179). -/
def Sentinel.apply (x : Sentinel) (rule : Option SntRule) : Sentinel :=
  match rule with
  | some r => { x with armed := true, powered := true, rule := r, active := false, count := 0, calib := true, drift := 0, seq := 0 }
  | none => { x with armed := false, powered := false }

/-- The first accepted command of each channel applies, and its record is written; a later one waits for the next
boundary (R177, R178). -/
def State.applySentinels (s : State) : State :=
  (List.range 16).foldl (fun t n =>
    match t.snt.pend.find? (fun p => p.chan == n) with
    | none => t
    | some p =>
      ((({ t with snt := { t.snt with pend := t.snt.pend.erase p } }).updSentinel n (fun x => x.apply p.rule)).finish p.cid endDone)) s

/-! ### Features of a hop (R135 to R139, R144, R145, R157) -/

/-- Hop period in µs (R134). -/
def Afe.period (a : Afe) : Nat := 5000 * 2 ^ a.hop

/-- A hop boundary falls now: a multiple of the period on the grid, once (R134). -/
def State.hopDue (s : State) : Bool :=
  decide (s.pwr.dev ≠ .off) && decide (s.afe.gridAt ≤ s.tmr.uptime) && (s.tmr.uptime - s.afe.gridAt) % s.afe.period == 0 &&
  s.afe.hopAt != some s.tmr.uptime

/-- A channel whose settling has run one hop further, or that rejoins after a loop-back (R144, R496). -/
def AfeChan.tickSettle (x : AfeChan) (hop : Nat) : AfeChan :=
  if x.rejoin then { x with rejoin := false, settle := if x.en then settleHops x.tau hop else 0, firstValid := false }
  else if x.en ∧ 0 < x.settle then { x with settle := x.settle - 1, firstValid := x.settle == 1 } else x

/-- Channel `ch` hears the hop that ends, unless it is not powered (R131 to R133). -/
def AfeChan.hear (x : AfeChan) (ch period : Nat) (ps : List MicPiece) (draw : Nat) : AfeChan :=
  if x.powered then x.listen ch (fitPieces period ps) draw else { x with level := List.replicate 40 0 }

/-- The common mode is out of range at the end of the hop: the features are undefined (Table 5-6). -/
def undefinedAt (period : Nat) (ps : List MicPiece) : Bool :=
  ((fitPieces period ps).getLast?).any (fun p => p.input == .badCommonMode)

/-- A channel at the feature-valid instant: its features, or 0 while it is disabled or settling (R144, R145). -/
def AfeChan.hop (x : AfeChan) (ch : Nat) (undef : Bool) (draw : Nat) : AfeChan :=
  let c := { x with clipCnt := if x.en && x.clipNow then satInc 0xFFFF x.clipCnt else x.clipCnt, clipNow := false }
  if x.en ∧ x.settle = 0 then
    if undef then
      { c with feat := (List.range 82).map (fun i => freeFeature i (draw + i))
               prevLog := (List.range 40).map (fun i => freeFeature i (draw + i)), firstValid := false }
    else { c with feat := x.features ch x.firstValid draw, prevLog := x.logs ch, firstValid := false }
  else { c with feat := List.replicate 82 0 }

/-- Free values that a channel numbers in one hop. -/
def hopDraws (chans : List (List MicPiece)) : Nat := 64 * ((chans.map List.length).foldl max 0 + 4)

/-- The integrators and preamplifiers over the hop that ends (R131 to R133, R157). -/
def State.hearHop (s : State) (chans : List (List MicPiece)) : State :=
  let cs := (List.zip s.afe.chans chans).mapIdx (fun n x => x.1.hear n s.afe.period x.2 (s.free + n * hopDraws chans))
  let clip := (List.range 16).foldl (fun c n =>
    if (cs[n]?).any (fun x => x.clipNow) && !(s.chan n).clipNow then setBit c n true else c) s.afe.clip
  { s with afe := { s.afe with chans := cs, clip := clip }, free := s.free + 16 * hopDraws chans }

/-- The feature-valid instant of every channel (R135). -/
def State.formFeatures (s : State) (period : Nat) (chans : List (List MicPiece)) : State :=
  { s with
    afe := { s.afe with hopCnt := s.afe.hopCnt + 1
                        chans := (List.zip s.afe.chans chans).mapIdx (fun n x =>
                          x.1.hop n (undefinedAt period x.2) (s.free + 128 * n)) }
    free := s.free + 2048 }

/-- An evaluation in flight reads the lane (R150). -/
def State.laneBusy (s : State) (n : Nat) : Bool :=
  s.evals.any (fun e => match (s.graph? e.handle).bind (fun g => g.cgd.places[e.place]?) with
    | some p => p.feature && (p.lane == n || p.laneB == n)
    | none => false)

/-- The lane of a channel takes its new features, or its bank switch waits (R150). -/
def State.switchLane (s : State) (n : Nat) : State :=
  if s.laneBusy n then s.updChan n (fun x => { x with switchWait := true })
  else s.updChan n (fun x => { x with lane := x.feat, switchWait := false })

/-! ### One sentinel evaluation (R160 to R166) -/

/-- What the two passes of an evaluation read: the hidden latches and the class bits at both thresholds. -/
structure SntRead where
  latches : List Nat
  enter : BitVec 16
  exit : BitVec 16
  deriving DecidableEq, Repr

/-- What one evaluation of a sentinel gives. -/
structure SntOut where
  st : Sentinel
  enter : BitVec 16
  exit : BitVec 16
  hidden : Nat
  entry : Bool
  leave : Bool
  /-- a counting hop: not the calibration hop -/
  counts : Bool
  deriving DecidableEq, Repr

/-- One comparison of a sentinel column against code c: a charge in units of 1/`lsb` LSB, the trim in quarters of an LSB,
and a departure within the bound (R160, R165, log 42). -/
def sntCompare (charge : Int) (lsb : Nat) (trim : Int) (c draw : Nat) : Bool :=
  let err := clampInt (-(Config.sntError : Int)) Config.sntError (Config.columnError draw)
  decide (0 ≤ 1000 * charge + (250 * trim + err - 1000 * (c : Int)) * (max 1 lsb : Nat))

/-- Rows that pass A drives, in 1/1,200,000 of an AON cycle: the held features, full scale at 16 cycles, and the bias row
(Table 6-1). -/
def passARows (feat : List Int) : List (Nat × Int) :=
  (List.range 82).map (fun i => (i, 16 * feat.getD i 0)) ++ [(82, 16 * 1200000)]

/-- Rows that pass B drives, in AON cycles: the hidden latches and the bias row. -/
def passBRows (latches : List Nat) : List (Nat × Int) :=
  (List.range 48).map (fun i => (128 + i, (latches.getD i 0 : Int))) ++ [(176, 16)]

/-- Charge of column j of sentinel n over driven rows. -/
def State.sntCharge (s : State) (n : Nat) (rows : List (Nat × Int)) (j : Nat) : Int :=
  (rows.map (fun x => s.weight (4096 + n) x.1 j * x.2)).sum

/-- A hidden unit: 0 where its column fails the compare against θA, else its 4-bit code (Table 6-2, steps 4 to 6). -/
def hiddenCode (charge : Int) (trim : Int) (thetaA draw : Nat) : Nat :=
  let lsb := Config.sntLsbA * 1200000
  if sntCompare charge lsb trim thetaA draw then
    (List.range 4).foldr (fun i y => if sntCompare charge lsb trim (y + 2 ^ i) (draw + 1 + i) then y + 2 ^ i else y) 0
  else 0

/-- Class bits at a threshold; 0 where every hidden latch holds 0 (R161). -/
def classBits (charges : List Int) (trim : Int) (th : Nat) (dark : Bool) (draw : Nat) : BitVec 16 :=
  BitVec.ofNat 16 (if dark then 0 else ((List.range 16).map (fun k =>
    if sntCompare (charges.getD k 0) Config.sntLsbB trim th (draw + k) then 2 ^ k else 0)).sum)

/-- Passes A and B of sentinel n over the held features (R160 to R162); `draw` numbers its free values. -/
def State.sntRead (s : State) (n : Nat) (x : Sentinel) (feat : List Int) (draw : Nat) : SntRead :=
  let latches := (List.range 48).map (fun j => hiddenCode (s.sntCharge n (passARows feat) j) x.trim x.rule.thetaA (draw + 8 * j))
  let dark := latches.all (fun v => v == 0)
  let scores := (List.range 16).map (fun k => s.sntCharge n (passBRows latches) (48 + k))
  { latches := latches, enter := classBits scores x.trim x.rule.enterTh dark (draw + 384)
    exit := classBits scores x.trim x.rule.exitTh dark (draw + 400) }

/-- The wake rule at step 12 of a counting hop (R166). -/
def Sentinel.wake (x : Sentinel) (settling : Bool) (enter exit : BitVec 16) : Sentinel × Bool × Bool :=
  if !x.active then
    let c := if settling then 0 else if enter &&& x.rule.mask ≠ 0 then x.count + 1 else 0
    if x.rule.entryP ≤ c then ({ x with active := true, count := 0 }, true, false) else ({ x with count := c }, false, false)
  else
    let c := if exit &&& x.rule.mask ≠ 0 then 0 else x.count + 1
    if x.rule.exitP ≤ c then ({ x with active := false, count := 0 }, false, true) else ({ x with count := c }, false, false)

/-- Which side of its expected code the mean reference reading lies on, by more than 1 LSB (R164): `refs` are the raw
readings less their expected codes, in 1/1,000 LSB, and the trim adds a quarter LSB a step. -/
def driftSide (refs : List Int) (trim : Int) : Int :=
  let sum := refs.sum + 250 * trim * refs.length
  if 1000 * (refs.length : Int) < sum then 1 else if sum < -(1000 * (refs.length : Int)) then -1 else 0

/-- Drift tracking: after 16 consecutive hops on one side the trim steps a quarter LSB towards the expected code (R164). -/
def Sentinel.track (x : Sentinel) (refs : List Int) : Sentinel :=
  let side := driftSide refs x.trim
  let d := if side = 0 then 0 else if side * x.drift < 0 then side else x.drift + side
  if d.natAbs < 16 then { x with drift := d }
  else
    let t := clampInt (-32) 32 (x.trim - side)
    { x with drift := 0, trim := t, trimSat := x.trimSat || t.natAbs == 32 }

/-- The calibration hop: the trim is set from the reference columns, to what value the spec does not say (R163, log 9). -/
def Sentinel.calibrate (x : Sentinel) (draw : Nat) : Sentinel :=
  let t := clampInt (-32) 32 (Config.freeInt draw)
  { x with calib := false, trim := t, trimSat := x.trimSat || t.natAbs == 32 }

/-- One evaluation of an armed sentinel. The trim it read with is the one in force before it: a step takes effect at the
next pass A (R165). -/
def Sentinel.evaluate (x : Sentinel) (r : SntRead) (refs : List Int) (settling : Bool) (draw : Nat) : SntOut :=
  let hid := (r.latches.filter (fun v => v != 0)).length
  if x.calib then
    { st := { x.calibrate draw with enterLast := r.enter, latches := r.latches }, enter := r.enter, exit := r.exit
      hidden := hid, entry := false, leave := false, counts := false }
  else
    let w := (x.track refs).wake settling r.enter r.exit
    { st := { w.1 with enterLast := r.enter, latches := r.latches }, enter := r.enter, exit := r.exit, hidden := hid
      entry := w.2.1, leave := w.2.2, counts := true }

/-! ### Reports (R171 to R176) -/

/-- The report mode selects this hop (R171). -/
def SntOut.reports (o : SntOut) : Bool :=
  match o.st.rule.report with
  | 1 => o.counts && (o.st.active || o.leave)
  | 2 => o.counts
  | _ => false

/-- The 16 bytes of a report, as a number (Table 6-4). -/
def SntOut.report (o : SntOut) (n : Nat) (hopCnt : Word) (tv : Nat) : BitVec 128 :=
  BitVec.ofNat 128 (leNat (leBytes 2 o.enter.toNat ++ leBytes 2 o.exit.toNat ++ leBytes 4 hopCnt.toNat ++
    leBytes 4 (tv % 2 ^ 32) ++ leBytes 1 (n + 16 * b2n o.st.active + 32 * b2n o.entry + 64 * b2n o.leave) ++
    leBytes 1 (o.st.count % 64 + 64 * b2n o.st.trimSat) ++ leBytes 1 o.hidden ++ leBytes 1 o.st.seq))

/-- The sentinel device interrupt under the conditions of Table 6-3: at once in RUN and ECONOMY, else once released or in
RUN (R168, R175). -/
def State.sentinelIrq (s : State) : State :=
  if s.mainLive ∧ (s.pwr.dev = .run ∨ s.pwr.dev = .economy) then s.devVec 1
  else { s with snt := { s.snt with irqWait := true } }

/-- A report written into the ring; the interrupt where the unread count reaches IRQ_LEVEL (R173 to R175). -/
def State.putReport (s : State) (r : BitVec 128) : State :=
  let z := s.snt
  let old := (z.wr - z.rd).toNat
  let full := decide (64 ≤ old)
  let s1 : State := { s with snt := { z with rpt := z.rpt.set (z.wr.toNat % 64) r, wr := z.wr + 1
                                             rd := if full then z.rd + 1 else z.rd
                                             lost := if full then satInc 0xFFFF z.lost else z.lost } }
  if old < z.irqLevel ∧ z.irqLevel ≤ (s1.snt.wr - s1.snt.rd).toNat then s1.sentinelIrq else s1

/-- The actions on an entry edge (R168 to R170, Table 6-3). -/
def State.entryEdge (s : State) (n : Nat) (r : BitVec 128) : State :=
  let s1 := ({ s with snt := { s.snt with entry := setBit s.snt.entry n true } }).updSentinel n (fun x => { x with wakeRpt := r })
  let rule := (s.sentinel n).rule
  let s2 : State := if s.pwr.dev = .sentry ∧ s.pwr.start.isNone ∧ rule.wakeHost then { s1 with pins := { s1.pins with wakeLow := true } } else s1
  (if s.mainLive ∧ (s.pwr.dev = .doze ∨ s.pwr.dozeEntering) ∧ rule.wakeDev then s2.touch else s2).sentinelIrq

/-- An armed sentinel evaluates its hop over the features its channel holds (R160): rule, report and actions. -/
def State.sentinelHop (s : State) (n : Nat) (refs : List Int) : State :=
  let x := s.sentinel n
  if !x.armed then s
  else
    let o := x.evaluate (s.sntRead n x (s.chan n).feat (s.free + 1)) refs (decide ((s.chan n).settle ≠ 0)) s.free
    let r := o.report n s.afe.hopCnt (s.tmr.uptime + 250)
    let rep := o.reports
    let s1 := ({ s with free := s.free + 512 }).updSentinel n
      (fun _ => { o.st with seq := if rep then (o.st.seq + 1) % 256 else o.st.seq })
    let s2 := if rep then s1.putReport r else s1
    if o.entry then s2.entryEdge n r else s2

/-- HOP_BOUNDARY: where one falls, the hop that ends is heard, accepted settings apply, features form and become valid, and
armed sentinels evaluate (R134, R135, R142, R150, R160, R177). -/
def execHopBoundary (chans : List (List MicPiece)) (refs : List (List Int)) (s : State) : Host.Outcome State Fault Refusal :=
  if !hopWf chans refs then .fault .illFormed
  else if !s.hopDue then .next s
  else
    let period := s.afe.period
    let s0 := s.hearHop chans
    let s1 : State := { s0 with afe := { s0.afe with hopAt := some s.tmr.uptime
                                                     chans := s0.afe.chans.map (fun x => x.tickSettle s0.afe.hop) } }
    let s2 := s1.applyAfe.applySentinels.formFeatures period chans
    let s3 := (List.range 16).foldl State.switchLane s2
    .next ((refs.mapIdx (fun n h => (n, h))).foldl (fun t x => t.sentinelHop x.1 x.2) s3)

/-- FEATURE_BANK_SWITCH: the evaluation that held a lane's switch back has settled (R150). -/
def execFeatureBankSwitch (chan : Fin 16) (s : State) : Host.Outcome State Fault Refusal :=
  .next (s.updChan chan.val (fun x => if x.switchWait then { x with lane := x.feat, switchWait := false } else x))

/-! ### Routes, limits and clipping (R146, R147, R152, R157) -/

/-- FEATURE_ROUTE. -/
def execFeatureRoute (ring : Fin 1024) (s : State) : Host.Outcome State Fault Refusal :=
  let g := ring.val
  .next (s.onHead g 0x23 false (fun p =>
    let slot := par p 0x10 1
    match (s.physOf 0 slot).filter (fun n => decide (n < 16)) with
    | none => s.refuse g p (endOf stMappedOut (basinWord 0 s.me (some slot)))
    | some n =>
      if s.basinInGraph n then s.refuse g p endState
      else s.completeWith g p (fun s =>
        { s with afe := { s.afe with route := s.afe.route.set n (if par p 0x12 1 = 1 then some (par p 0x11 1) else none) } }) endDone))

/-- MICBIAS_CURRENT_LIMIT: an enabled output enters its current limit (R152). -/
def execMicbiasCurrentLimit (k : Fin 4) (s : State) : Host.Outcome State Fault Refusal :=
  .next (if s.pwr.dev = .off then s
    else { s with afe := { s.afe with mic := s.afe.mic.modify k.val (fun m => if m.en then { m with ilim := true } else m) } })

/-- PREAMPLIFIER_CLIP: a powered channel's preamplifier exceeds full scale (Table 5-6). -/
def execPreamplifierClip (chan : Fin 16) (s : State) : Host.Outcome State Fault Refusal :=
  .next (if s.pwr.dev = .off ∨ !(s.chan chan.val).powered then s
    else ({ s with afe := { s.afe with clip := setBit s.afe.clip chan.val true } }).updChan chan.val (fun x => { x with clipNow := true }))

end Sys2Proof.Machine
end

