-- ==== Sys2Proof/Machine/PcieCfg.lean ====
section
/-! DEFINITION. Words made of fields, and what the configuration registers of the PCI Express functions read (R294 to R297,
R302, R303, R312, log 43). -/

namespace Sys2Proof.Machine

/-- A 32-bit register from its fields: lowest bit and value of each. -/
def fieldsWord (l : List (Nat × Nat)) : Word := BitVec.ofNat 32 ((l.map (fun f => 2 ^ f.1 * f.2)).sum)

/-- A count as a field of `w` bits shows it. What a field reads that cannot hold its count is left open (R20, log 39); the
bits beside it keep their own meaning. -/
def fitField (w v : Nat) : Nat := if v < 2 ^ w then v else (Config.freeInt v).natAbs % 2 ^ w

/-- The low or high half of a 64-bit value. -/
def halfWord (v : Nat) (hi : Bool) : Word := BitVec.ofNat 32 (if hi then v / 2 ^ 32 else v)

/-- SYS_ID: vendor and device (R526). -/
def sysId : Word := 0x72401F7D

/-- Entries of the MSI-X table of a function (R307). -/
def msixCount (f : Nat) : Nat := if f = 0 then 1040 else 960

/-! ### The configuration space -/

/-- Size code of a payload or read-request limit: 128 x 2^code bytes. -/
def limitCode (bytes : Nat) : Nat := Nat.log2 (bytes / 128)

/-- Bytes each BAR spans: BAR0, BAR2, BAR4, VF BAR0, VF BAR2 (Table 12-3). -/
def barSizes : List Nat := [0x2000000, 0x400000, 0x4000000, 0x20000, 0x400000]

/-- HOLD and the debug access of Table 20-7 are open. -/
def LcState.debuggable (l : LcState) : Bool := l == .manufacture || l == .service

/-- A BAR register: base, 64-bit type, and Prefetchable for BAR4; BAR4 reads 0 in a life-cycle state that does not implement
it, as enumerated at the last start (R302, R303, R512). -/
def State.barReg (s : State) (i : Nat) : DWord :=
  if i = 2 ∧ !s.lcs.active.debuggable then 0
  else s.hif.bars.getD i 0 ||| (if i = 2 then 0xC#64 else 0x4#64)

/-- The capabilities of Table 12-2 of the physical function, or of a virtual one. -/
def capPresent (vf : Bool) : Cap → Bool
  | .msix | .pciExpress | .aer | .ari => true
  | .powerManagement | .sriov | .serialNumber | .ltr | .l1Substates | .secondaryPcie | .physicalLayer16 | .physicalLayer32
  | .laneMargining => !vf
  | .msi | .ats | .pri | .pasid | .tph | .resizableBar => false

/-- What a configuration register of function f reads, its fields where PCI Express 5.0 has them (PRESUMED, log 43). -/
def State.readCfg (s : State) (f : Nat) (r : CfgReg) : Word :=
  let h := s.hif
  match r with
  | .ids => sysId
  | .classRevision => fieldsWord [(0, s.sys.rev.toNat), (8, 0x120000)]
  | .subsystem => h.subsys
  | .interruptPin => 0
  | .bar i hi => if f = 0 then halfWord (s.barReg i.val).toNat hi else 0
  | .present c => fieldsWord [(0, b2n (capPresent (f != 0) c))]
  | .command => fieldsWord [(1, b2n (if f = 0 then h.mse else false)), (2, b2n (h.bme.getD f false))]
  | .powerState => if f = 0 then fieldsWord [(0, if h.d3hot then 3 else 0), (3, 1), (15, b2n h.pmeStatus)] else 0
  | .msixControl => fieldsWord [(16, msixCount f - 1), (30, b2n (h.msixFm.getD f false)), (31, b2n (h.msixEn.getD f false))]
  | .deviceCaps => fieldsWord [(0, 2), (28, 1)]
  | .deviceControl => if f = 0 then fieldsWord [(4, b2n h.relaxed), (5, limitCode h.mps), (12, limitCode h.mrrs)] else 0
  | .deviceCaps2 => fieldsWord [(0, 0xF), (4, 1), (11, b2n (f = 0)), (16, 1), (17, 1)]
  | .deviceControl2 => if f = 0 then fieldsWord [(0, h.toRange), (4, b2n h.toDisable)] else 0
  | .linkCaps => fieldsWord [(0, 5), (4, 8), (10, 2), (15, 4)]
  | .linkStatus => fieldsWord [(0, if h.aspmL1 then 2 else 0), (16, h.speed), (20, h.width)]
  | .aerControl => fieldsWord [(5, 1), (6, b2n h.ecrcGen), (7, 1), (8, b2n h.ecrcCheck)]
  | .sriovVfs => if f = 0 then fieldsWord [(0, 15), (16, 15)] else 0
  | .sriovOffsets => if f = 0 then fieldsWord [(0, 1), (16, 1)] else 0
  | .sriovDevice => if f = 0 then fieldsWord [(16, 0x7240)] else 0
  | .sriovControl => if f = 0 then fieldsWord [(0, b2n h.vfEn), (3, b2n h.vfMse)] else 0
  | .serialLow => if f = 0 then halfWord s.lcs.uid.toNat false else 0
  | .serialHigh => if f = 0 then halfWord s.lcs.uid.toNat true else 0
  | .l1Caps => if f = 0 then fieldsWord [(0, 0x1F), (8, 30), (16, 1), (19, 5)] else 0

end Sys2Proof.Machine
end

