-- ==== Sys2Proof/Machine/RingOps.lean ====
section
/-! DEFINITION. Doorbells, ring descriptors, fetches, the generic opcodes and the hardware flags (chapters 12, 13, 15). -/

namespace Sys2Proof.Machine

/-! ### Doorbells (R306, R328, R329) -/

/-- The ring a doorbell page of a function stands for (R302, R529). -/
def State.pageRing (s : State) (func page : Nat) : Option Nat := if func = 0 then some page else s.ringGlobal func page

/-- A doorbell write judged in the order of R306, then given to `k`. -/
def State.doorbell (s : State) (func page value : Nat) (tlp : Tlp) (k : State → Nat → State) : State :=
  s.hostAccess func (some tlp) .doorbell (fun s =>
    match s.pageRing func page with
    | none => s.vlogTlp 0x06 0 func 0xFFFF tlp
    | some g =>
      if func = 0 ∧ s.ringFunc g ≠ 0 then s.vlogTlp 0x07 0 func g tlp
      else if !(s.ring g).en || decide ((s.ring g).size ≤ value) then s.vlogTlp 0x06 0 func g tlp
      else k s g)

/-- DOORBELL_SQ_TAIL: the submission tail set, and the fetches it allows (R328, R332). -/
def execDoorbellSqTail (func : Fin 16) (page : Fin 1024) (value : Nat) (tlp : Tlp) (s : State) :
    Host.Outcome State Fault Refusal :=
  .next (s.doorbell func.val page.val value tlp (fun s g => (s.updRing g (fun r => { r with sqTail := value })).settle g))

/-- DOORBELL_CQ_HEAD: the completion head set, unless it would pass RING_CQ.TAIL (R329). -/
def execDoorbellCqHead (func : Fin 16) (page : Fin 1024) (value : Nat) (tlp : Tlp) (s : State) :
    Host.Outcome State Fault Refusal :=
  .next (s.doorbell func.val page.val value tlp (fun s g =>
    let r := s.ring g
    if (r.cqTail + r.size - r.cqHead) % r.size < (value + r.size - r.cqHead) % r.size then s.vlogTlp 0x06 0 func.val g tlp
    else (s.updRing g (fun r => { r with cqHead := value })).settle g))

/-- DOORBELL_STRAY_WRITE: a write elsewhere in a doorbell page, discarded and logged (R306). -/
def execDoorbellStrayWrite (func : Fin 16) (page : Fin 1024) (tlp : Tlp) (s : State) :
    Host.Outcome State Fault Refusal :=
  .next (s.hostAccess func.val (some tlp) .doorbell (fun s => s.vlogTlp 0x08 0 func.val ((s.pageRing func.val page.val).getD 0xFFFF) tlp))

/-! ### Descriptors (R300, R304, R325 to R327) -/

/-- A ring enabled: pointers 0, PHASE 1, HALTED clear, ACTIVE set (R326); RING_DONE_CNT counts since enable. -/
def Ring.enabled (r : Ring) : Ring :=
  { r with en := true, sqHead := 0, sqTail := 0, cqTail := 0, cqHead := 0, reserved := 0, phase := true,
           halted := false, active := true, doneCnt := 0, places := [], fetching := 0, lists := [], unsig := 0,
           unsigAt := none }

/-- A ring disabled (R327). -/
def State.disableRing (s : State) (g : Nat) : State :=
  ((s.updRing g (fun r => { r with en := false })).dropRing g).fetchWork

/-- A write of RING_CTRL to ring g (R300, R325, R326, R327). -/
def State.ringCtrlWrite (s : State) (func g : Nat) (v : Word) (tlp : Tlp) : State :=
  let r := s.ring g
  let n := v.toNat
  let lg := bitsAt n 1 4
  let eng := bitsAt n 5 3
  let cls := bitsAt n 8 2
  let prio := bitsAt n 10 3
  let en := bitAt n 0
  let log (s : State) : State := s.vlogTlp 0x0E 0 func g tlp
  if 4 < eng ∨ lg < 6 then log s
  else if r.active then
    let bad := decide (lg ≠ r.log2) || decide (eng ≠ r.engine) || decide (cls ≠ r.cls) || decide (prio ≠ r.prio) ||
      (en && !r.en)
    let s1 := s.updRing g (fun r => { r with irqEn := bitAt n 13 })
    let s2 := if r.en && !en then s1.disableRing g else s1
    if bad then log s2 else s2
  else if s.ringFunc g ≠ 0 ∧ eng ≠ 1 ∧ eng ≠ 3 then log s
  else
    let s1 := s.updRing g (fun r => { r with log2 := lg, engine := eng, cls := cls, prio := prio, irqEn := bitAt n 13 })
    if en && !r.en then s1.updRing g Ring.enabled
    else if r.en && !en then s1.disableRing g
    else s1

/-- A write of one of the two base registers: `cq` says which, `lo` the first byte written and `wide` 8 bytes; its
change is discarded and logged while the ring is active (R324, R325). -/
def State.ringBaseWrite (s : State) (func g : Nat) (cq : Bool) (hi wide : Bool) (v : DWord) (tlp : Tlp) : State :=
  let r := s.ring g
  let old := if cq then r.cqBase else r.sqBase
  let raw : DWord :=
    if wide then v
    else if hi then (old &&& 0xFFFFFFFF#64) ||| (v <<< 32)
    else (old &&& 0xFFFFFFFF00000000#64) ||| (v &&& 0xFFFFFFFF#64)
  let new := raw &&& 0xFFFFFFFFFFFFF000#64
  if new = old then s
  else if r.active then s.vlogTlp 0x0E 0 func g tlp
  else s.updRing g (fun r => if cq then { r with cqBase := new } else { r with sqBase := new })

/-- A write of RING_MOD (R357): it applies from the next record. -/
def State.ringModWrite (s : State) (g : Nat) (v : Word) : State :=
  s.updRing g (fun r => { r with modCount := bitsAt v.toNat 0 8, modTimer := bitsAt v.toNat 16 16 })

/-- A write inside a ring's descriptor, by the view it comes through (R304). -/
def State.descWrite (s : State) (func ring offset : Nat) (v : DWord) (wide : Bool) (tlp : Tlp) : State :=
  match s.pageRing func ring with
  | none => s
  | some g =>
    if s.ringFunc g ≠ func then s.vlogTlp 0x0E 0 func g tlp
    else
      let lo : Word := v.setWidth 32
      let hi : Word := (v >>> 32).setWidth 32
      match offset with
      | 0x00 => s.ringBaseWrite func g false false wide v tlp
      | 0x04 => if wide then s else s.ringBaseWrite func g false true false v tlp
      | 0x08 => s.ringBaseWrite func g true false wide v tlp
      | 0x0C => if wide then s else s.ringBaseWrite func g true true false v tlp
      | 0x10 => (if wide then s.ringModWrite g hi else s).ringCtrlWrite func g lo tlp
      | 0x14 => if wide then s else s.ringModWrite g lo
      | _ => s

/-- RING_ENABLE: a RING_CTRL write that sets EN (R326). -/
def execRingEnable (func : Fin 16) (ring : Fin 1024) (value : Word) (tlp : Tlp) (s : State) :
    Host.Outcome State Fault Refusal :=
  .next (s.hostAccess func.val (some tlp) .engine (fun s => s.descWrite func.val ring.val 0x10 (value.setWidth 64) false tlp))

/-- RING_DISABLE: a RING_CTRL write that clears EN (R327). -/
def execRingDisable (func : Fin 16) (ring : Fin 1024) (value : Word) (tlp : Tlp) (s : State) :
    Host.Outcome State Fault Refusal :=
  .next (s.hostAccess func.val (some tlp) .engine (fun s => s.descWrite func.val ring.val 0x10 (value.setWidth 64) false tlp))

/-- RING_DESCRIPTOR_WRITE: any other write inside a descriptor (R325). -/
def execRingDescriptorWrite (func : Fin 16) (ring : Fin 1024) (offset : Fin 64) (value : DWord) (wide : Bool)
    (tlp : Tlp) (s : State) : Host.Outcome State Fault Refusal :=
  .next (s.hostAccess func.val (some tlp) .engine (fun s => s.descWrite func.val ring.val offset.val value wide tlp))

/-! ### Fetches (R332, R348, Table 12-7) -/

/-- The first `n` packets of a fetched block. -/
def packetsOf (n : Nat) (bytes : List Byte) : List (List Byte) := (List.range n).map (fun i => sliceAt bytes (64 * i) 64)

/-- A fetch of ring g failed: logged with KIND, the AER error signalled where there is one, and the ring halted with
`cause` (Table 12-7, R359). -/
def State.fetchFailed (s : State) (g kind cause : Nat) (addr : DWord) : State :=
  let f := s.ringFunc g
  let s1 := if kind = 0x0B then s else s.emit (.aer kind)
  (s1.vlog kind 4 (s.hif.rid.toNat + f) f g 0).haltRing g cause addr

/-- Host address of the ring fetch outstanding. -/
def Ring.fetchAddr (r : Ring) : DWord := r.sqBase + BitVec.ofNat 64 (64 * ((r.sqHead + r.size - r.fetching) % r.size))

/-- RING_FETCH_COMPLETION: packets fill the ring's places and are checked, or the ring halts (R332, R359). -/
def execRingFetchCompletion (ring : Fin 1024) (result : ReadResult) (s : State) : Host.Outcome State Fault Refusal :=
  let g := ring.val
  let r := s.ring g
  .next (
    if r.fetching = 0 then s
    else match result, failCode result with
      | .data bytes, _ =>
        (s.updRing g (fun r => { r with places := r.places ++ packetsOf r.fetching bytes, fetching := 0 })).settle g
      | _, some (kind, cause) => s.fetchFailed g kind cause r.fetchAddr
      | _, none => s)

/-- LIST_FETCH_COMPLETION: the innermost list of the ring has been read (R348), or its fetch failed and the ring halts
(R351). -/
def execListFetchCompletion (ring : Fin 1024) (result : ReadResult) (s : State) : Host.Outcome State Fault Refusal :=
  let g := ring.val
  .next (
    match (s.ring g).lists with
    | [] => s
    | c :: cs =>
      if c.fetched || !c.issued then s
      else match result, failCode result with
        | .data bytes, _ =>
          (s.updRing g (fun r => { r with lists := { c with fetched := true, rest := packetsOf c.entries bytes } :: cs })).settle g
        | _, some (kind, cause) => s.fetchFailed g kind cause c.addr
        | _, none => s)

/-- RING_MOD_TIMER: TIMER_US have passed since the oldest record not signalled (R357). -/
def execRingModTimer (ring : Fin 1024) (s : State) : Host.Outcome State Fault Refusal :=
  let r := s.ring ring.val
  .next (match r.unsigAt with
    | none => s
    | some t => if r.irqEn && decide (r.modTimer ≠ 0) && decide (t + r.modTimer ≤ s.tmr.uptime) then s.signalRing ring.val else s)

/-! ### Generic opcodes (Table 13-3) -/

/-- NOP: DONE. -/
def execNop (ring : Fin 1024) (s : State) : Host.Outcome State Fault Refusal :=
  .next (s.onHead ring.val 0x00 false (fun p => s.complete ring.val p endDone))

/-- FENCE: admitted as if BARRIER = 1; DONE (R334). -/
def execFence (ring : Fin 1024) (s : State) : Host.Outcome State Fault Refusal :=
  .next (s.onHead ring.val 0x01 true (fun p => s.complete ring.val p endDone))

/-- TIMESTAMP: TMR_UPTIME written to ADDR where it is not 0, ahead of the record (R344, R335). -/
def execTimestamp (ring : Fin 1024) (s : State) : Host.Outcome State Fault Refusal :=
  let g := ring.val
  .next (s.onHead g 0x02 false (fun p =>
    s.completeWith g p (fun t =>
      if par p 0x10 8 = 0 then t
      else t.dmaWrite s.nextCid (BitVec.ofNat 64 (par p 0x10 8)) (leBytes 8 s.tmr.copy) false) endDone))

/-- REFUSED_DEADLINE of a wait that gives up at `d`, with the time it is past. -/
def State.waitGiveUp (s : State) (d : Nat) : End := { endOf stDeadline 0 with late := past48 s.now48 d }

/-- WAIT_FLAG: admitted, and ended at once where the flag has the value or the deadline has passed (R343). -/
def execWaitFlag (ring : Fin 1024) (s : State) : Host.Outcome State Fault Refusal :=
  let g := ring.val
  .next (s.onHead g 0x03 false (fun p =>
    let flag := par p 0x10 1
    let val := par p 0x11 1 == 1
    let d := pktDeadline p
    let s1 := s.accept g p (.waitFlag flag val d) none 0
    if s.flags.getLsbD flag == val then s1.finish s.nextCid endDone
    else if d ≠ 0 ∧ 0 < past48 s.now48 d then s1.finish s.nextCid (s.waitGiveUp d)
    else s1.settle g))

/-- The WAIT_FLAG that waits on ring g: its number, flag, value and deadline. -/
def State.waiting (s : State) (g : Nat) : Option (Nat × Nat × Bool × Nat) :=
  s.cmds.findSome? (fun c => if c.ring = g then match c.body with
    | .waitFlag f v d => some (c.cid, f, v, d)
    | _ => none
    else none)

/-- WAIT_FLAG_SATISFIED: the flag equals VALUE (R343, R391). -/
def execWaitFlagSatisfied (ring : Fin 1024) (s : State) : Host.Outcome State Fault Refusal :=
  .next (match s.waiting ring.val with
    | some (cid, f, v, _) => if s.enginesRun && s.flags.getLsbD f == v then s.finish cid endDone else s
    | none => s)

/-- WAIT_FLAG_DEADLINE: the deadline passes first (R343). -/
def execWaitFlagDeadline (ring : Fin 1024) (s : State) : Host.Outcome State Fault Refusal :=
  .next (match s.waiting ring.val with
    | some (cid, f, v, d) =>
      if s.enginesRun && s.flags.getLsbD f != v && decide (d ≠ 0) && decide (0 < past48 s.now48 d)
      then s.finish cid (s.waitGiveUp d) else s
    | none => s)

/-- SET_FLAG at the head of ring g: admitted as a barrier, the flag written before the record is queued (R343, R391). -/
def State.setFlagHead (s : State) (g : Nat) : State :=
  s.onHead g 0x04 true (fun p =>
    s.completeWith g p (fun s => { s with flags := setBit s.flags (par p 0x10 1) (par p 0x11 1 == 1) }) endDone)

/-- SET_FLAG. -/
def execSetFlag (ring : Fin 1024) (s : State) : Host.Outcome State Fault Refusal := .next (s.setFlagHead ring.val)

/-- LIST_CALL: the list is read, and its packets run in place of the LIST_CALL (R348). -/
def execListCall (ring : Fin 1024) (s : State) : Host.Outcome State Fault Refusal :=
  let g := ring.val
  .next (s.onHead g 0x05 false (fun p =>
    let n := par p 0x18 4
    let c : ListCtx := { cid := s.nextCid, addr := BitVec.ofNat 64 (par p 0x10 8), entries := n, issued := false
                         fetched := false, rest := [], consumed := 0 }
    ((s.accept g p (.listCall n none) none 0).updRing g (fun r => { r with lists := c :: r.lists })).settle g))

/-- The anchor stored and the uptime captured (R109). -/
def State.setAnchor (s : State) (a : DWord) : State :=
  { s with tmr := { s.tmr with anchor := a, anchorAt := s.tmr.uptime, anchorValid := true } }

/-- TIME_ANCHOR; its record's START carries TMR_ANCHOR_AT (R109, R344). -/
def execTimeAnchor (ring : Fin 1024) (s : State) : Host.Outcome State Fault Refusal :=
  let g := ring.val
  .next (s.onHead g 0x06 false (fun p =>
    s.completeWith g p (fun t => (t.setAnchor (BitVec.ofNat 64 (par p 0x10 8))).updCmd s.nextCid
      (fun c => { c with start := s.tmr.uptime % 2 ^ 48 })) endDone))

/-! ### Hardware flags (R388, R389) -/

/-- The flags of word w that the host may write: 32 to 255 (R342). -/
def hostFlags (w : Nat) (v : Word) : BitVec 256 := if w = 0 then 0 else (v.setWidth 256) <<< (32 * w)

/-- The flags of word w that an HK core writes: it reaches all 256 (R342, log 44). -/
def wordFlags (w : Nat) (v : Word) : BitVec 256 := (v.setWidth 256) <<< (32 * w)

/-- KFLAG_SET_WRITE: the named flags set together. -/
def execKflagSetWrite (word : Fin 8) (value : Word) (s : State) : Host.Outcome State Fault Refusal :=
  .next (s.hostAccess 0 none .engine (fun s => { s with flags := s.flags ||| hostFlags word.val value }))

/-- KFLAG_CLR_WRITE: the named flags cleared together. -/
def execKflagClrWrite (word : Fin 8) (value : Word) (s : State) : Host.Outcome State Fault Refusal :=
  .next (s.hostAccess 0 none .engine (fun s => { s with flags := s.flags &&& ~~~(hostFlags word.val value) }))

/-! ### HK0 and HK1: the mailbox and the flags (R388 to R396) -/

/-- An HK core runs its firmware: the main domain is out of reset and clocked, and no debugger has halted the core (Table
3-4, R522). -/
def State.hkRuns (s : State) (core : Nat) : Bool :=
  s.mainLive && !s.sys.hkHalt.getLsbD core && (s.pwr.dev == .run || s.pwr.dev == .economy || s.pwr.dev == .dry)

/-- Mailbox stores of a core that the other agents do not see yet, oldest first (R392). -/
def State.hkPending (s : State) (core : Nat) : List (Nat × List Byte) := s.hkStores.getD core []

/-- The oldest pending store of a core becomes visible to every agent (R392). -/
def State.hkDrain (s : State) (core : Nat) : State :=
  match s.hkPending core with
  | [] => s
  | (a, bs) :: r => { s with kmbx := Memory.writeN s.kmbx a bs, hkStores := s.hkStores.set core r }

/-- KFENCE: every earlier store of the core becomes visible, in program order, before any later load of it (R393). -/
def State.kfence (s : State) (core : Nat) : State :=
  { s with kmbx := (s.hkPending core).foldl (fun m x => Memory.writeN m x.1 x.2) s.kmbx, hkStores := s.hkStores.set core [] }

/-- The accesses a mailbox access of an HK core is made of: a naturally aligned one of 1, 2 or 4 bytes is one (R394), any other
is one for each byte (log 44). -/
def hkParts (addr len : Nat) : List (Nat × Nat) :=
  if (len = 1 ∨ len = 2 ∨ len = 4) ∧ addr % len = 0 then [(addr, len)] else (List.range len).map (fun i => ((addr + i) % 0x10000, 1))

/-- The byte of the mailbox that a load of a core returns: of the core's own latest pending store to the address, else what
every agent sees (R392). -/
def State.hkByte (s : State) (core a : Nat) : Byte :=
  match (s.hkPending core).reverse.find? (fun x => decide (x.1 ≤ a) && decide (a < x.1 + x.2.length)) with
  | some x => x.2.getD (a - x.1) 0
  | none => Memory.read s.kmbx a

/-- A mailbox access of an HK core (R392, R393): a load may go ahead of the core's earlier stores to other addresses. -/
def State.hkMem (s : State) (core : Nat) (op : HkMem) : State :=
  if !s.hkRuns core then s
  else match op with
    | .store a bs =>
      let parts := (hkParts a.toNat bs.length).zipIdx.map (fun x => (x.1.1, sliceAt bs (x.2 * x.1.2) x.1.2))
      { s with hkStores := s.hkStores.set core (s.hkPending core ++ parts) }
    | .drain => s.hkDrain core
    | .load a n => s.emit (.hk core ((hkParts a.toNat n).flatMap (fun x => (List.range x.2).map (fun i => s.hkByte core (x.1 + i)))))
    | .fence => s.kfence core

/-- Place of a flag access in the order of one cycle: engines, host, HK0, HK1 (R389). -/
def flagPlace : FlagAccess → Nat
  | .engine _ => 0
  | .host _ => 1
  | .hk core _ => 2 + core.val

/-- The flags after an access, with the flags that its agent may write given by `mask`. -/
def flagApply (op : FlagOp) (mask : Nat → Word → BitVec 256) (flags : BitVec 256) : BitVec 256 :=
  match op with
  | .set w v => flags ||| mask w.val v
  | .clear w v => flags &&& ~~~(mask w.val v)
  | .read _ => flags

/-- What an access reads: the word, as KFLAG_VAL. -/
def flagValue (op : FlagOp) (flags : BitVec 256) : Option (List Byte) :=
  match op with
  | .read w => some (leBytes 4 ((flags >>> (32 * w.val)).setWidth 32 : Word).toNat)
  | _ => none

/-- One flag access performed (R388); that of an HK core acts as a KFENCE first (R390). -/
def State.flagAccess (s : State) (tlp : Tlp) : FlagAccess → State
  | .engine g => s.setFlagHead g.val
  | .host op => match op with
    | .read w => s.hostRead 0 (some tlp) .engine 4 (fun t => t) (fun t => (flagValue (FlagOp.read w) t.flags).getD [])
    | _ => s.hostAccess 0 (some tlp) .engine (fun t => { t with flags := flagApply op hostFlags t.flags })
  | .hk core op =>
    if !s.hkRuns core.val then s
    else
      let t := s.kfence core.val
      let u : State := { t with flags := flagApply op wordFlags t.flags }
      match flagValue op t.flags with
      | some bs => u.emit (.hk core.val bs)
      | none => u

/-- The flag accesses that reach the flag block in one cycle, in the total order (R388, R389). -/
def State.flagCycle (s : State) (cycle : List FlagAccess) (tlp : Tlp) : State :=
  ((List.range 4).flatMap (fun k => cycle.filter (fun a => flagPlace a == k))).foldl (fun t a => t.flagAccess tlp a) s

end Sys2Proof.Machine
end

