-- ==== Sys2Proof/Machine/Streams.lean ====
section
/-! DEFINITION. The Stream Engine and the TDM port: streams, segments, jumps, stops, prefetch and frames (R424 to R447). -/

namespace Sys2Proof.Machine

/-! ### Units and segments (Table 17-1, R431, R433) -/

/-- The stream plays to TDM (DEST[0]). -/
def Stream.framed (x : Stream) : Bool := bitAt x.dest 0

/-- Channels of an audio stream: the bits of its TDM_SLOTS (R425). -/
def slotCount (mask : Nat) : Nat := ((List.range 8).filter (fun i => bitAt mask i)).length

/-- Unit size in FIFO and host memory for a port of `bytes` bytes (Table 17-1). -/
def unitSize (kind mask bytes : Nat) : Nat :=
  match kind with
  | 0 => 4 * slotCount mask
  | 1 => bytes
  | _ => 512

/-- Unit size at the port. -/
def portUnit (kind mask bytes : Nat) : Nat := if kind = 0 then 2 * slotCount mask else unitSize kind mask bytes

/-- A unit from the port as the FIFO keeps it: a port sample v becomes (v - 32,768) x 2^16 (R425). -/
def convertUnit (kind : Nat) (bs : List Byte) : List Byte :=
  if kind = 0 then (List.range (bs.length / 2)).flatMap (fun i => leBytes 4 ((fieldAt bs (2 * i) 2 + 32768) % 65536 * 65536))
  else bs

/-- The current segment's next unit has arrived or been fetched (R434). -/
def Stream.unitReady (x : Stream) (g : Segment) : Bool := if g.fromPort then !x.fifo.isEmpty else !g.fetched.isEmpty

/-- The last unit of a segment has been output, or its next one could not be read (R433). -/
def Segment.over (g : Segment) : Bool := g.done == g.units || (g.readFail && g.fetched.isEmpty)

/-- How a segment's command ends; `cut` says that a jump or a stop ended it (R433). -/
def Segment.outcome (g : Segment) (cut : Bool) : End :=
  if g.readFail then endRead
  else endOf (if cut then stCancelled else if 0 < g.zeros then stUnderrun else stDone)
    (g.done % 2 ^ 24 + 2 ^ 24 * min 255 g.zeros)

/-- The head of the queue becomes current; unless it directly follows a segment from the port, one from the port keeps
the newest KEEP units of the FIFO (R431). -/
def Stream.makeCurrent (x : Stream) : Stream :=
  match x.segs with
  | [] => { x with cur := false, afterPort := false, succ := false }
  | g :: _ =>
    let drop := if g.fromPort && !x.afterPort then x.fifo.length - x.keep else 0
    { x with cur := true, fifo := x.fifo.drop drop, discard := x.discard + BitVec.ofNat 32 drop, afterPort := g.fromPort }

/-- The head segment of stream i ends and its record is written. -/
def State.closeSegment (s : State) (i : Nat) (cut : Bool) : State :=
  match (s.stream i).segs with
  | [] => s
  | g :: rest =>
    (s.updStream i (fun x => { x with segs := rest, cur := false, succ := !cut })).finish g.cid (g.outcome cut)

/-- Segments that are over end, and the next becomes current (R431, R433). -/
def State.advanceStream (fuel : Nat) (s : State) (i : Nat) : State :=
  match fuel with
  | 0 => s
  | n + 1 =>
    let x := s.stream i
    match x.segs with
    | [] => s.updStream i (fun x => { x with cur := false, afterPort := false, succ := false })
    | g :: _ =>
      if !x.cur then State.advanceStream n (s.updStream i Stream.makeCurrent) i
      else if g.over then State.advanceStream n (s.closeSegment i false) i
      else s

/-! ### Prefetch (R431) -/

/-- Bytes of a stream's prefetch buffer. -/
def prefetchBytes : Nat := 4096

/-- Units of a segment from host memory that no read has asked for. -/
def Segment.unread (g : Segment) : Nat := if g.fromPort || g.readFail then 0 else g.units - g.done - g.fetched.length

/-- The next read ahead of a stream: the command of its segment and the units. The target of a latched jump is read
first; else the current segment and the one behind it share the buffer. -/
def Stream.nextRead (x : Stream) : Option (Segment × Nat) :=
  let cap := max 1 (prefetchBytes / max 1 x.unitB)
  let target := (x.jump.bind (fun j => x.segs.find? (fun g => g.segId == j.2))).filter
    (fun g => decide (0 < g.unread) && decide (g.fetched.length < cap))
  match target with
  | some g => some (g, min g.unread (cap - g.fetched.length))
  | none =>
    let l := x.segs.take 2
    let ahead := (l.map (fun g => g.fetched.length)).sum
    (l.find? (fun g => decide (0 < g.unread))).bind (fun g =>
      if ahead < cap then some (g, min g.unread (cap - ahead)) else none)

/-- A segment of stream i, by its command, changed. -/
def State.updSegment (s : State) (i cid : Nat) (f : Segment → Segment) : State :=
  s.updStream i (fun x => { x with segs := x.segs.map (fun g => if g.cid = cid then f g else g) })

/-- Stream i reads ahead where it can. -/
def State.prefetch (s : State) (i : Nat) : State :=
  let x := s.stream i
  if !x.started || x.segs.any (fun g => decide (0 < g.asked)) then s
  else match x.nextRead with
    | none => s
    | some (g, n) =>
      (s.updSegment i g.cid (fun g => { g with asked := n })).dmaRead x.owner
        (g.addr + BitVec.ofNat 64 (x.unitB * (g.done + g.fetched.length))) (x.unitB * n)

/-! ### Boundaries: detaching, jumps and stops (R429, R435 to R441) -/

/-- Segments queued ahead of `k` of them end as cut. -/
def State.cutSegments (s : State) (i k : Nat) : State :=
  (List.range k).foldl (fun t _ => t.closeSegment i true) s

/-- Segments from the port of a detached stream end: a current one is cut, queued ones are cancelled, in queue order. -/
def State.detachStream (s : State) (i : Nat) : State :=
  let x := s.stream i
  let gone := x.segs.filter (fun g => g.fromPort)
  let curGone := x.cur && (x.segs.head?.any (fun g => g.fromPort))
  gone.foldl (fun t g => t.finish g.cid (g.outcome true))
    (s.updStream i (fun x => { x with segs := x.segs.filter (fun g => !g.fromPort), detach := false
                                      cur := x.cur && !curGone, succ := x.succ && !curGone }))

/-- A stream as a stop leaves it. -/
def Stream.stopped (x : Stream) : Stream :=
  { x with started := false, fifo := [], segs := [], cur := false, begun := false, afterPort := false, succ := false
           jump := none, stop := none, detach := false }

/-- A stop takes effect: the current segment is cut, queued ones are cancelled, then the STREAM_STOP's record (R441). -/
def State.doStop (s : State) (i cid : Nat) : State :=
  ((s.cutSegments i (s.stream i).segs.length).updStream i Stream.stopped).finish cid endDone

/-- A jump takes effect (R437, R439); `atEnd` says that the current segment had ended normally. -/
def State.doJump (s : State) (i cid target : Nat) (atEnd : Bool) : State :=
  let s0 := s.updStream i (fun x => { x with jump := none })
  match (s.stream i).segs.findIdx? (fun g => g.segId == target) with
  | none => s0.finish cid (endOf stCancelled 0)
  | some k =>
    let s1 := ((s0.cutSegments i k).updStream i Stream.makeCurrent).updStream i (fun x => { x with succ := atEnd })
    let x := s1.stream i
    s1.finish cid (endOf stDone (b2n atEnd + 2 * b2n (!x.segs.head?.any x.unitReady)))

/-- A unit boundary of stream i: what is latched takes effect, and segments succeed one another. -/
def State.boundary (s : State) (i : Nat) : State :=
  let x := s.stream i
  let ended := x.cur && x.segs.head?.any Segment.over
  let atEnd := ended || (x.cur && x.succ && x.segs.head?.any (fun g => g.done == 0))
  if x.detach || x.jump.isSome || x.stop.isSome then
    let s1 := if ended then s.closeSegment i false else s
    let s2 := if x.detach then s1.detachStream i else s1
    match x.stop, x.jump with
    | some c, _ => s2.doStop i c
    | none, some (c, target) => (s2.doJump i c target atEnd).advanceStream 66 i
    | none, none => s2.advanceStream 66 i
  else s.advanceStream 66 i

/-! ### Output (R430, R432, R434) -/

/-- The current segment of stream i outputs its next unit: the unit, copied to host memory where the stream has that
destination (R430). -/
def State.takeUnit (s : State) (i : Nat) : State × List Byte :=
  let x := s.stream i
  match x.segs with
  | [] => (s, [])
  | g :: rest =>
    let u := (if g.fromPort then x.fifo.head? else g.fetched.head?).getD []
    let g' : Segment := { g with done := g.done + 1, fetched := if g.fromPort then g.fetched else g.fetched.drop 1 }
    let s1 := s.updStream i (fun x => { x with segs := g' :: rest, fifo := if g.fromPort then x.fifo.drop 1 else x.fifo
                                               total := x.total + 1, succ := false })
    let base := g.addr &&& 0xFFFFFFFFFFFFFF00#64
    if g.fromPort && bitAt x.dest 1 then (s1.dmaWrite g.cid (base + BitVec.ofNat 64 (x.unitB * g.done)) u true, u)
    else (s1, u)

/-- A stream that does not play to TDM outputs every unit that is ready, and reads ahead (R432). -/
def State.pumpLoop (fuel : Nat) (s : State) (i : Nat) : State :=
  match fuel with
  | 0 => s
  | n + 1 =>
    let x := s.stream i
    match x.segs with
    | g :: _ => if x.cur && x.unitReady g then State.pumpLoop n ((s.takeUnit i).1.advanceStream 66 i) i else s
    | [] => s

/-- Units a stream holds. -/
def Stream.heldUnits (x : Stream) : Nat := x.fifo.length + (x.segs.map (fun g => g.fetched.length)).sum

/-- What follows a change of stream i: one that does not play to TDM meets its boundary at once (log 22). -/
def State.pump (s : State) (i : Nat) : State :=
  if !(s.stream i).started then s
  else
    let s1 := if (s.stream i).framed then s
      else let t := s.boundary i
           t.pumpLoop ((t.stream i).heldUnits + 1) i
    s1.prefetch i

/-- A stop latched on stream i; a latched jump, and an earlier stop, end CANCELLED (R438, R441). A stop without a command
names the number 0. -/
def State.latchStop (s : State) (i cid : Nat) : State :=
  let x := s.stream i
  if !x.started then s
  else
    let keep := cid == 0 && x.stop.isSome
    let lost := (x.jump.map (fun j => j.1)).toList ++ (if keep then [] else (x.stop.filter (fun c => c != 0)).toList)
    let s1 := lost.foldl (fun t c => t.finish c (endOf stCancelled 0))
      (s.updStream i (fun x => { x with jump := none, stop := if keep then x.stop else some cid }))
    s1.pump i

/-- Every started stream that satisfies `p` stops at its next boundary (R123, R318). -/
def State.stopStreams (s : State) (p : Stream → Bool) : State :=
  (List.range 32).foldl (fun t i => if (t.stream i).started && p (t.stream i) then t.latchStop i 0 else t) s

/-! ### The commands of the Stream Engine -/

/-- The stream a command names, started by the ring's own function (R424, R430, R436, R441). -/
def State.streamRefusal (s : State) (g i : Nat) : Option End :=
  let x := s.stream i
  if !x.started then some endState else if x.owner ≠ s.ringFunc g then some (endAccess 2) else none

/-- Outcomes of SEGMENT_QUEUE on a started stream (R430). -/
def segmentRefusal (x : Stream) (p : List Byte) : Option End :=
  let src := par p 0x11 1
  let addr := par p 0x18 8
  if x.segs.any (fun g => g.segId == par p 0x12 2) then some (endParam 0x12)
  else if src = 0 ∧ x.kind ≠ 0 then some (endParam 0x11)
  else if src = 1 ∧ x.port = 0xFF then some (endParam 0x11)
  else if src = 1 ∧ (addr % 256 ≠ x.port ∨ (addr / 256 ≠ 0) ≠ (bitAt x.dest 1 = true)) then some (endParam 0x18)
  else if 64 ≤ x.segs.length then some (endOf stCapacity 0)
  else none

/-- SEGMENT_QUEUE. -/
def execSegmentQueue (ring : Fin 1024) (s : State) : Host.Outcome State Fault Refusal :=
  let g := ring.val
  .next (s.onHead g 0x40 false (fun p =>
    let i := par p 0x10 1
    match (s.streamRefusal g i).or (segmentRefusal (s.stream i) p) with
    | some e => s.refuse g p e
    | none =>
      let seg : Segment := { cid := s.nextCid, segId := par p 0x12 2, fromPort := par p 0x11 1 == 1, units := par p 0x14 4
                             addr := BitVec.ofNat 64 (par p 0x18 8), done := 0, zeros := 0, fetched := [], asked := 0, readFail := false }
      let t := (s.accept g p .segment none 0).updStream i (fun x => { x with segs := x.segs ++ [seg] })
      (((if (t.stream i).cur then t else t.updStream i Stream.makeCurrent).pump i).settle g)))

/-- JUMP: latched, a jump already latched ending CANCELLED (R436 to R438). -/
def execJump (ring : Fin 1024) (s : State) : Host.Outcome State Fault Refusal :=
  let g := ring.val
  .next (s.onHead g 0x41 false (fun p =>
    let i := par p 0x10 1
    let x := s.stream i
    let behind := if x.cur then x.segs.drop 1 else x.segs
    match s.streamRefusal g i with
    | some e => s.refuse g p e
    | none =>
      if !behind.any (fun y => y.segId == par p 0x12 2) then s.refuse g p (endParam 0x12)
      else
        let t := s.accept g p .segment none 0
        let t1 := if x.stop.isSome then t.finish s.nextCid (endOf stCancelled 0)
          else (x.jump.toList.foldl (fun t j => t.finish j.1 (endOf stCancelled 0)) t).updStream i
            (fun x => { x with jump := some (s.nextCid, par p 0x12 2) })
        (t1.pump i).settle g))

/-- The KIND 3 port that a STREAM_START names fits it (Table 17-1, Table 17-2 row 2). -/
def streamPortOk (g : Graph) (port kind mask : Nat) : Bool :=
  match g.cgd.ports[port]? with
  | none => false
  | some o => o.kind == 3 && (match kind with
      | 0 => decide (0 < o.bytes) && o.bytes % (2 * slotCount mask) == 0
      | 1 => decide (1 ≤ o.bytes) && decide (o.bytes ≤ 4096)
      | _ => decide (0 < o.bytes) && o.bytes % 512 == 0)

/-- Slot addresses of the TDM port: SLOTS for each enabled line (R444). -/
def Streams.addresses (x : Streams) : Nat := x.nslots * slotCount x.lines.toNat

/-- Table 17-2 behind the checks on the packet alone. -/
def State.streamStartRefusal (s : State) (p : List Byte) : Option End :=
  let kind := par p 0x11 1
  let h := par p 0x12 2
  let port := par p 0x14 1
  let tdm := bitAt (par p 0x15 1) 0
  let mask := par p 0x16 1
  if (s.graph? h).any (fun g => g.unload.isSome) then some (endParam 0x12)
  else if h = 0 ∧ port ≠ 0xFF then some (endParam 0x14)
  else if (s.graph? h).any (fun g => !streamPortOk g port kind mask) then some (endParam 0x14)
  else if tdm && s.str.conf && decide (2 ^ s.str.addresses ≤ mask) then some (endParam 0x16)
  else if (s.stream (par p 0x10 1)).started || (h != 0 && (s.graph? h).isNone) ||
      s.str.s.any (fun x => x.started && h != 0 && x.handle == h && x.port == port) then some endState
  else if tdm && (!s.str.conf || s.str.s.any (fun x => x.started && x.framed && decide (x.slots &&& BitVec.ofNat 8 mask ≠ 0))) then
    some endState
  else none

/-- STREAM_START (R426). -/
def execStreamStart (ring : Fin 1024) (s : State) : Host.Outcome State Fault Refusal :=
  let g := ring.val
  .next (s.onHead g 0x42 false (fun p =>
    match s.streamStartRefusal p with
    | some e => s.refuse g p e
    | none => s.completeWith g p (fun t =>
        let h := par p 0x12 2
        let mask := par p 0x16 1
        let bytes := (((s.graph? h).bind (fun x => x.cgd.ports[par p 0x14 1]?)).map (fun o => o.bytes)).getD 0
        t.updStream (par p 0x10 1) (fun x =>
          { Stream.initial with started := true, owner := s.ringFunc g, kind := par p 0x11 1, dest := par p 0x15 1
                                slots := BitVec.ofNat 8 mask, port := par p 0x14 1, handle := h
                                unitB := unitSize (par p 0x11 1) mask bytes, keep := x.keep })) endDone))

/-- STREAM_STOP (R441). -/
def execStreamStop (ring : Fin 1024) (s : State) : Host.Outcome State Fault Refusal :=
  let g := ring.val
  .next (s.onHead g 0x43 false (fun p =>
    let i := par p 0x10 1
    match s.streamRefusal g i with
    | some e => s.refuse g p e
    | none => ((s.accept g p .segment none 0).latchStop i s.nextCid).settle g))

/-- TDM_CONFIG (R424, R442). -/
def execTdmConfig (ring : Fin 1024) (s : State) : Host.Outcome State Fault Refusal :=
  let g := ring.val
  .next (s.onHead g 0x44 false (fun p =>
    if s.ringFunc g ≠ 0 then s.refuse g p (endAccess 2)
    else if s.str.s.any (fun x => x.started && x.framed) then s.refuse g p endState
    else s.completeWith g p (fun t =>
      let master := par p 0x10 1 == 1
      { t with str := { t.str with conf := true, master := master, nslots := par p 0x11 1, lines := BitVec.ofNat 2 (par p 0x12 1)
                                   pol := BitVec.ofNat 2 (par p 0x13 1), locked := master, resync := 0, fsDue := false, zeroNext := false
                                   frame := List.replicate 8 0 } }) endDone))

/-! ### TDM frames (R432, R434, R443 to R447) -/

/-- The sample that TDM stream i outputs in a frame, none for zeros. -/
def State.tdmUnit (s : State) (i : Nat) : State × List Byte :=
  let x := s.stream i
  let ready := x.cur && x.segs.head?.any x.unitReady
  if !x.begun && !ready then (s, [])
  else
    let s1 := s.updStream i (fun x => { x with begun := true })
    if ready then s1.takeUnit i
    else
      (s1.updStream i (fun x => { x with
        zeros := x.zeros + 1, afterPort := x.cur && x.afterPort
        segs := if x.cur then x.segs.mapIdx (fun k (g : Segment) => if k = 0 then { g with zeros := g.zeros + 1 } else g) else x.segs }), [])

/-- The samples of one unit laid on the slot addresses of a stream (R444). -/
def placeUnit (mask : BitVec 8) (u : List Byte) (frame : List Word) : List Word :=
  frame.mapIdx (fun a v =>
    if mask.getLsbD a then BitVec.ofNat 32 (fieldAt u (4 * slotCount (mask.toNat % 2 ^ a)) 4) else v)

/-- One frame of TDM stream i. -/
def State.tdmStream (acc : State × List Word) (i : Nat) : State × List Word :=
  let x := acc.1.stream i
  if !(x.started && x.framed) then acc
  else
    let s1 := acc.1.boundary i
    if !(s1.stream i).started then (s1, acc.2)
    else
      let r := s1.tdmUnit i
      (r.1.prefetch i, if r.2.isEmpty then acc.2 else placeUnit x.slots r.2 acc.2)

/-- What TDM_SD[l] carries over the present frame, by SCK period: the slots of an enabled line, MSB first; none: high impedance
(R443, R444). -/
def Streams.sdBits (x : Streams) (l : Fin 2) : Option (List Bool) :=
  if x.conf && x.lines.getLsbD l.val then
    some ((List.range x.nslots).flatMap (fun p => (List.range 32).map (fun k =>
      (x.frame.getD (if l.val = 1 ∧ x.lines.getLsbD 0 then x.nslots + p else p) 0).getLsbD (31 - k))))
  else none

/-- Level of TDM_FS in SCK period k of a frame: active, high with POL[0] set, in the last period, the one before the MSB of the
next frame's first slot (R443). -/
def Streams.fsLevel (x : Streams) (k : Nat) : Bool := (k + 1 == 32 * x.nslots) == x.pol.getLsbD 0

/-- The device launches TDM_SD on the falling edge of TDM_SCK, and samples TDM_FS on the rising one; else the other way (R443,
Table 13-7). -/
def Streams.launchFalling (x : Streams) : Bool := x.pol.getLsbD 1

/-- TDM_FRAME: a frame starts; every TDM stream outputs one sample or a zero, and the frame after a resynchronisation
carries 0 in every slot (R446). -/
def execTdmFrame (s : State) : Host.Outcome State Fault Refusal :=
  .next (
    if !s.str.conf || !s.enginesRun then s
    else
      let r := if s.str.zeroNext then ({ s with str := { s.str with zeroNext := false } }, List.replicate 8 0)
        else (List.range 32).foldl State.tdmStream (s, List.replicate 8 0)
      ({ r.1 with str := { r.1.str with frame := r.2 } }).emit (.tdm (r.2.take r.1.str.addresses)))

/-- STR_TDM_STAT. -/
def Streams.tdmStat (x : Streams) : Nat := b2n x.locked + 2 * b2n x.sckLost + 65536 * (x.resync % 65536)

/-- A resynchronisation (R446). -/
def State.resync (s : State) : State :=
  let s1 : State := { s with str := { s.str with locked := false, zeroNext := true, resync := satInc 0xFFFF s.str.resync } }
  (s1.dlog 7 1 0 (BitVec.ofNat 64 s1.str.tdmStat)).devVec 8

/-- The TDM port follows a frame sync from outside. -/
def State.tdmSlave (s : State) : Bool := s.str.conf && !s.str.master && s.enginesRun

/-- TDM_FS_EDGE: an active FS, `sckOffset` SCK periods after the one before it; the first after TDM_CONFIG has none to be
measured from, and the one after a missing FS is waited for (R446, log 22). -/
def execTdmFsEdge (sckOffset : Nat) (s : State) : Host.Outcome State Fault Refusal :=
  let due := 32 * s.str.nslots
  .next (
    if !s.tdmSlave then s
    else if !s.str.fsDue || (decide (due ≤ sckOffset + 2) && decide (sckOffset ≤ due + 2)) then
      { s with str := { s.str with locked := true, fsDue := true } }
    else s.resync)

/-- TDM_FS_MISSING: no FS by two SCK periods after the expected instant (R446). -/
def execTdmFsMissing (s : State) : Host.Outcome State Fault Refusal :=
  .next (if s.tdmSlave && s.str.fsDue then ({ s with str := { s.str with fsDue := false } } : State).resync else s)

/-- TDM_SCK_LOST: a slave sees no SCK edge for 1 ms (Table 17-3). -/
def execTdmSckLost (s : State) : Host.Outcome State Fault Refusal :=
  .next (
    if !s.tdmSlave then s
    else
      let s1 : State := { s with str := { s.str with sckLost := true } }
      s1.dlog 7 2 0 (BitVec.ofNat 64 s1.str.tdmStat))

/-! ### Arrivals (R381, R427) -/

/-- A unit appended to stream i's FIFO, the oldest discarded until it fits (R427). -/
def State.appendUnit (s : State) (i : Nat) (u : List Byte) : State :=
  let x := s.stream i
  let room := 16384 / max 1 x.unitB
  let lost := x.fifo.length + 1 - room
  let s1 := s.updStream i (fun x => { x with fifo := x.fifo.drop lost ++ [u], drop := min 0xFFFF (x.drop + lost) })
  if lost = 0 then s1
  else
    ({ s1 with str := { s1.str with event := setBit s1.str.event i true } }).devVec 8

/-- Edges of a graph to one of its ports. -/
def Graph.edgesTo (g : Graph) (port : Nat) : List Nat :=
  (List.range g.cgd.edges.length).filter (fun k => (g.cgd.edges[k]?).any (fun e => e.toPort && e.dst == port))

/-- The oldest data of a port whose edges have all delivered. -/
def State.portUnits (s : State) (g : Graph) (port : Nat) : Option PortData :=
  g.ports.find? (fun d => d.port == port && (match (s.runOf g.handle d.runSeq).bind s.cmd? with
    | some c => (match c.body with
      | .run r => (g.edgesTo port).all (fun e => r.doneT.contains e)
      | _ => true)
    | none => true))

/-- The next unit that waits at the port of stream i, taken; the edges' credits return with the last (R381). -/
def State.arrivedUnit (s : State) (i : Nat) (bytes : List Byte) : State × List Byte :=
  let x := s.stream i
  match s.graph? x.handle with
  | none => (s, bytes)
  | some g =>
    let size := (((g.cgd.ports[x.port]?).map (fun o => o.bytes)).getD 0)
    match s.portUnits g x.port with
    | none => (s, bytes)
    | some d =>
      let n := portUnit x.kind x.slots.toNat size
      let rest := (d.bytes.take size).drop n
      let put (l : List PortData) : List PortData :=
        if rest.length < max 1 n then l.erase d else l.map (fun y => if y == d then { y with bytes := rest } else y)
      let s1 := s.updGraph x.handle (fun g => { g with ports := put g.ports })
      (if rest.length < max 1 n then (g.edgesTo x.port).foldl (fun t e => t.sendCredit g e 24 true d.runSeq) s1 else s1, d.bytes.take n)

/-- STREAM_UNIT_ARRIVAL: the unit that waits at the stream's port, or, where none is held there, the one that comes in. -/
def execStreamUnitArrival (stream : Fin 32) (bytes : List Byte) (s : State) : Host.Outcome State Fault Refusal :=
  let i := stream.val
  let x := s.stream i
  .next (
    if !x.started || x.port == 0xFF || x.handle == 0 || !s.enginesRun then s
    else
      let r := s.arrivedUnit i bytes
      let size := (((s.graph? x.handle).bind (fun g => g.cgd.ports[x.port]?)).map (fun o => o.bytes)).getD 0
      (r.1.appendUnit i (convertUnit x.kind (readBytes (portUnit x.kind x.slots.toNat size) r.2))).pump i)

/-- PREFETCH_COMPLETION: a read ahead returns, or fails and ends its segment at that unit (R431, R433). -/
def execPrefetchCompletion (stream : Fin 32) (result : ReadResult) (s : State) : Host.Outcome State Fault Refusal :=
  let i := stream.val
  let x := s.stream i
  .next (match x.segs.find? (fun g => decide (0 < g.asked)) with
    | none => s
    | some g => match result, failCode result with
      | .data bytes, _ =>
        let units := (List.range g.asked).map (fun k => readBytes x.unitB (sliceAt bytes (x.unitB * k) x.unitB))
        (s.updSegment i g.cid (fun y => { y with fetched := y.fetched ++ units, asked := 0 })).pump i
      | _, some (kind, _) =>
        ((((s.cmd? g.cid).map (fun c => s.readFailed c.ring kind)).getD s).updSegment i g.cid
          (fun y => { y with asked := 0, readFail := true })).pump i
      | _, none => s)

end Sys2Proof.Machine
end

