-- ==== Sys2Proof/Machine/Power.lean ====
section
/-! DEFINITION. Rails, device states, clocks and switched domains: what a stop of the main domain leaves, FAULT and SENTRY,
DOZE and its exit, the fabric clock, terraces and peripheries, and the always-on clock (chapter 03, R102 to R108, R120). -/

namespace Sys2Proof.Machine

/-! ### What a stop leaves of the cell operations (R89, R416) -/

/-- The level of a cell that the tank left unfinished: between the one it had and its target (R416, log 9). -/
def partLevel (draw : Nat) (w t : Int) : Int :=
  let m : Nat := w.natAbs + (Config.freeInt draw).natAbs % (t.natAbs - w.natAbs + 1)
  clampInt (-63) 63 (if t < 0 then -(m : Int) else (m : Int))

/-- Rows whose programming the tank did not finish. -/
def State.leaveRows (s : State) (basin : Nat) (rows : List (Nat × List Byte)) : State :=
  let put (m : Memory) (r : Nat × List Byte) : Memory :=
    Memory.writeN m (weightKey basin r.1 0) ((List.range (basinCols basin)).map (fun c =>
      BitVec.ofInt 8 (partLevel (s.free + r.1 * 512 + c) (s.weight basin r.1 c) (targetLevel r.2 c))))
  { s with weights := rows.foldl put s.weights, free := s.free + 1024 * 512 }

/-- The open journal entry, which is the last one, with `k` of its rows finished (R418). -/
def State.journalPart (s : State) (k : Nat) : State :=
  { s with wpe := { s.wpe with journal := s.wpe.journal.mapIdx (fun i (e : JEntry) =>
      if i + 1 = s.wpe.journal.length then { e with done := k } else e) } }

/-- The open journal entry was not written whole, so that no pulse of its operation has been given (R418, R420). -/
def State.journalTorn (s : State) : State :=
  { s with wpe := { s.wpe with journal := s.wpe.journal.mapIdx (fun i (e : JEntry) =>
      if i + 1 = s.wpe.journal.length then { e with sound := false } else e) } }

/-- The batch in progress finishes from the tank, or ends after the `k` rows that the tank could finish (R416). -/
def State.cutBatch (s : State) (c : Cmd) (p : Prog) (cut : PowerCut) : State :=
  if p.batch = 0 then s
  else match cut.unfinished.find? (fun u => u.1 == c.cid && decide (u.2 < p.batch)) with
    | none => s.closeBatch c.cid p none
    | some (_, k) =>
      let rows := p.batchRows p.batch
      if s.atTarget p p.batch then s.closeBatch c.cid p none
      else if cut.entry then s.journalTorn
      else (((s.programRows p.basin (rows.take k) none).updBasin p.basin (fun b =>
        b.programRefs ((rows.take k).map (fun r => r.1)) false)).leaveRows p.basin (rows.drop k)).journalPart k

/-- The basin that the command's erase is tunnelling now. -/
def Cmd.erasing? (c : Cmd) : Option Nat :=
  match c.body with
  | .erase n _ _ true => if c.held.isNone then some n else none
  | _ => none

/-- An erase in progress is abandoned, its journal entry left open; what its cells then hold the spec does not say (R416, log 9). -/
def State.cutErase (s : State) (basin : Nat) (cut : PowerCut) : State :=
  if cut.entry then s.journalTorn
  else
    let put (m : Memory) (r : Nat) : Memory :=
      Memory.writeN m (weightKey basin r 0) ((List.range (basinCols basin)).map (fun c =>
        BitVec.ofInt 8 (clampInt (-63) 63 (Config.freeInt (s.free + r * 512 + c)))))
    ({ s with weights := (List.range (basinRows basin)).foldl put s.weights, free := s.free + 1024 * 512 + 1 } : State).updBasin basin
      (fun b => { b with refRows := BitVec.ofInt 1024 (Config.freeInt (s.free + 1024 * 512)) })

/-- A self-test is cut before its end: the map-out table, which is written there, is unchanged; the failure records stay (R501). -/
def State.mapRestore (s : State) : State :=
  match s.bist.mapOld with
  | none => s
  | some m =>
    { s with
      basins := s.basins.map (fun (e : Nat × Basin) =>
        let o := Tab.getD m.basins e.1 (Basin.initial e.1)
        (e.1, { e.2 with wstate := o.wstate, mappedOut := o.mappedOut, slot := o.slot, snFailed := o.snFailed }))
      ters := s.ters.mapIdx (fun i (t : Terrace) => { t with withdrawn := m.withdrawn.getD i 0 })
      bist := { s.bist with ctlFailed := m.ctlFailed, spareBad := m.spareBad, mapGen := m.gen, mapOld := none } }

/-- What a stop of the main domain does to the cell operations, the self-test, the life-cycle transition and the commit in progress
(R126, R416, R501, R516). -/
def State.applyCut (s : State) (cut : PowerCut) : State :=
  let s1 := s.cmds.foldl (fun t c => match c.prog? with
    | some p => t.cutBatch c p cut
    | none => match c.erasing? with
      | some n => t.cutErase n cut
      | none => t) s.mapRestore
  let r : DryRecord :=
    { state := 0xFF, holdup := false, epoch := s.tmr.epoch, fw := s.sys.fw, uptime := s.tmr.uptime, anchor := s.tmr.anchor
      anchorAt := s.tmr.anchorAt, anchorValid := s.tmr.anchorValid, mapGen := s.bist.mapGen, mapCrc := 0, fails := 0
      mappedOut := 0, torn := true }
  let s2 : State := match cut.fuse, s.cmds.findSome? (fun c => match c.body with
      | .lifecycle target pay none => if target = 4 then none else some (target, pay)
      | _ => none) with
    | some n, some (target, pay) =>
      { s1 with lcs := s1.lcs.cutTransition target pay ((List.range 49).map (fun i => Config.freeByte (s1.free + i))) n, free := s1.free + 49 }
    | _, _ => s1
  if cut.torn && s.bist.dry == some .selfTest then { s2 with bist := { s2.bist with record := some r } } else s2

/-! ### Resets of the main domain (R18, R81, R140, R181) -/

/-- What a basin keeps when the main domain stops: its weights' state, its trims and its place (R192, R397). -/
def Basin.mainReset (b : Basin) : Basin :=
  { b with trimSat := false, refFault := false, reads := 0, tracks := 0, trackGroup := 0, win := [], evCnt := 0, skip := 0
           early := 0, allZero := 0 }

/-- A cascade port held in reset, or one that starts to train. -/
def CascPort.ofOn (on : Bool) : CascPort := { CascPort.initial with state := if on then .training else .off }

/-- CSC/MIR in reset, with its ports on or off: a MASTER has a DOWN port, a MEMBER both and no number (Table 2-6, R454); a
fenced device stays fenced (R480). -/
def Casc.mainReset (c : Casc) (role : Role) (on : Bool) : Casc :=
  { Casc.initial with numbered := role != .member, fenced := c.fenced, portUp := CascPort.ofOn (on && role == .member)
                      portDn := CascPort.ofOn (on && role != .single) }

/-- CSC/MIR as FAULT leaves it: the ports, their bridges and the routing go on, for traffic between other devices (R453); what
HK1 kept of the chain and of pairs is lost. -/
def Casc.faultReset (c : Casc) : Casc :=
  { Casc.initial with device := c.device, numbered := c.numbered, length := c.length, fenced := c.fenced, alsoNum := c.alsoNum
                      portUp := c.portUp, portDn := c.portDn, route := c.route, noRoute := c.noRoute, mgmtBad := c.mgmtBad }

/-- Everything in the fabric, the engines and the HK cores is lost (R81, R87, R129). -/
def State.resetEngines (s : State) : State :=
  { s with
    basins := s.basins.map (fun (e : Nat × Basin) => (e.1, e.2.mainReset))
    ters := s.ters.map (fun (t : Terrace) => { Terrace.initial with withdrawn := t.withdrawn })
    cistern := [], graphs := [], evals := [], fwds := [], rill := [], rillVc := [], rillIn := []
    csi := List.replicate 2 CsiPort.initial, intake := List.replicate 2 Intake.initial
    rings := [], cmds := [], staged := [], slc := Sluice.initial
    wpe := { Wpe.initial with tankUf := s.wpe.tankUf, capMax := s.wpe.capMax, absent := s.wpe.absent, tankMv := s.wpe.tankMv
                              aboveMin := s.wpe.aboveMin, charging := s.wpe.charging, journal := s.wpe.journal
                              jrnlErases := s.wpe.jrnlErases }
    str := Streams.initial, casc := s.casc.faultReset
    bist := { s.bist with dry := none, dryCid := none, dryFails := 0 }
    lcs := { s.lcs with retiring := false, retireCid := none }
    sys := { s.sys with hkHalt := 0 }
    afe := { s.afe with pend := [], loopback := false
                        chans := s.afe.chans.map (fun (x : AfeChan) => { x with powered := x.en }) }
    snt := { s.snt with pend := [], s := s.snt.s.map (fun (x : Sentinel) => { x with powered := x.armed }) }
    flags := 0, kmbx := [], hkStores := [[], []], maintOut := 0, maintQ := [], readSpace := [], postQ := [], readQ := []
    pwr := { s.pwr with terraces := List.replicate 64 .off, stageQ := [], periph := [], dozeEntering := false, dozeExit := none
                        dryAfterExit := false, fclkTo := none
                        reqResult := if s.pwr.reqResult = .pending then .refusedState else s.pwr.reqResult } }

/-- The whole main domain is in reset: the engines, the host interface but for its log (R321), and the settings of the
blocks it holds. -/
def State.resetMain (s : State) : State :=
  let t := s.resetEngines
  let h := t.hif
  { t with
    casc := s.casc.mainReset s.pins.role false
    hif := { Hif.initial with up := false, subsys := h.subsys, vlogWr := h.vlogWr, vlogRd := h.vlogRd, vlogLost := h.vlogLost, vlog := h.vlog }
    fc := none
    sys := { t.sys with scratch := 0, tapIr := 0x02, boundary := [], testMode := false, testStrap := false }
    lcs := { t.lcs with lastStatus := 0, lastCheck := 0 }
    pwr := { t.pwr with start := none, reqResult := .none, autoDoze := true, stageMax := 4, idleUs := 0x7D0, bsnHold := 0x400
                        terIdle := 0x64, budget := 0x88B8, peak := 0, estFormed := false } }

/-! ### FAULT (R87, R89) -/

/-- The device is in one of the states that a trigger takes to FAULT (Table 3-5): DRY counts while DRYDONE is low, which a
start from DRY is too (R83); after DRYDONE only a fall of a main rail or a new start leaves DRY (R127). -/
def State.mayFault (s : State) : Bool :=
  (s.pwr.start.isNone && (s.pwr.dev == .doze || s.pwr.dev == .run || s.pwr.dev == .economy)) ||
  (s.pwr.dev == .dry && !s.pins.dryDone)

/-- PWR_FAULT as a number. -/
def Power.faultWord (p : Power) : Nat := p.fault.toNat + 256 * p.faultRail.toNat

/-- Entry to FAULT with bit `bit` of PWR_FAULT; `rail` names the rail of an overvoltage, `code` goes to the device log. A
start from DRY that was in progress ends with it (log 40). -/
def State.enterFault (s : State) (bit : Nat) (rail : Option Nat) (code : DWord) (cut : PowerCut) : State :=
  if !s.mayFault then s
  else
    let t := (s.applyCut cut).resetEngines
    let p := t.pwr
    let t1 : State := { t with
      pwr := { p with dev := .fault, prev := p.dev, start := none, fault := setBit p.fault bit true, endedInFault := true
                      faultRail := match rail with
                        | some r => setBit 0 r true
                        | none => p.faultRail }
      pins := { t.pins with alertLow := true } }
    if t1.pins.perstHigh then (t1.dlog 1 1 (BitVec.ofNat 32 t1.pwr.faultWord) code).devVec 0 else t1

/-- The always-on island has its supply: VAUX is good. -/
def State.islandUp (s : State) : Bool := s.pwr.railGood.getLsbD 0

/-- RAIL_OVERVOLTAGE: an overvoltage detector trips, and a main rail's takes the device to FAULT (R67, R87); or the rail
returns to 3 % below the threshold and the detector is armed again (Table 4-3, log 39). -/
def execRailOvervoltage (rail : Fin 6) (edge : OvEdge) (s : State) : Host.Outcome State Fault Refusal :=
  let at' (high : Bool) : State := { s with pwr := { s.pwr with railOv := setBit s.pwr.railOv rail.val high } }
  .next (if !s.islandUp then s
    else match edge with
      | .back => at' false
      | .trip cut =>
        if s.pwr.railOv.getLsbD rail.val then s
        else if rail.val = 0 then at' true else (at' true).enterFault 1 (some rail.val) 0 cut)

/-- The junction temperature and its highest value since VAUX (PWR_TJ). -/
def State.setTj (s : State) (tj : BitVec 16) : State :=
  { s with pwr := { s.pwr with tj := tj, tjMax := if s.pwr.tjMax.toInt < tj.toInt then tj else s.pwr.tjMax } }

/-- PWR_TJ as a number. -/
def Power.tjWord (p : Power) : Nat := p.tj.toNat + 65536 * p.tjMax.toNat

/-- THERMAL_WARNING: Tj reaches the grade maximum (R90, R120). -/
def execThermalWarning (tj : BitVec 16) (s : State) : Host.Outcome State Fault Refusal :=
  .next (if s.pwr.hot ∨ s.pwr.dev = .off then s
    else
      let t := s.setTj tj
      let t1 : State := { t with pwr := { t.pwr with hot := true }, pins := { t.pins with alertLow := true } }
      if s.mainLive ∧ s.pwr.dev ≠ .sentry then (t1.dlog 1 2 (BitVec.ofNat 32 t1.pwr.tjWord) 0).devVec 0 else t1)

/-- THERMAL_WARNING_RETURN: Tj falls to 5 °C below the grade maximum, and the warning is armed again (R120). -/
def execThermalWarningReturn (tj : BitVec 16) (s : State) : Host.Outcome State Fault Refusal :=
  .next (if s.pwr.dev = .off ∨ !s.pwr.hot then s
    else
      let t := s.setTj tj
      { t with pwr := { t.pwr with hot := false } })

/-- THERMAL_TRIP: Tj reaches 5 °C above the grade maximum (R90). -/
def execThermalTrip (tj : BitVec 16) (cut : PowerCut) (s : State) : Host.Outcome State Fault Refusal :=
  .next (if s.pwr.dev = .off then s
    else
      let t := s.setTj tj
      ({ t with pwr := { t.pwr with tripped := true } }).enterFault 3 none 0 cut)

/-- PLL_LOSS_OF_LOCK (R87). -/
def execPllLossOfLock (cut : PowerCut) (s : State) : Host.Outcome State Fault Refusal := .next (s.enterFault 4 none 0 cut)

/-- HK_WATCHDOG_EXPIRE (R87). -/
def execHkWatchdogExpire (core : Fin 2) (cut : PowerCut) (s : State) : Host.Outcome State Fault Refusal :=
  .next (if s.sys.hkHalt.getLsbD core.val then s else s.enterFault 5 none 0 cut)

/-- INTERNAL_FATAL_ERROR (R87); `code` is the internal error code of the device log. -/
def execInternalFatalError (code : DWord) (cut : PowerCut) (s : State) : Host.Outcome State Fault Refusal :=
  .next (s.enterFault 6 none code cut)

/-! ### SENTRY and OFF (R82, R88, R129) -/

/-- The main domain loses its rails: SENTRY. The device log and what waited for a dry-down are lost with it. -/
def State.enterSentry (s : State) (cut : PowerCut) : State :=
  let t := (s.applyCut cut).resetMain
  { t with pwr := { t.pwr with dev := .sentry, prev := if s.pwr.dev = .sentry then s.pwr.prev else s.pwr.dev }
           bist := { t.bist with dlog := [], invPending := false } }

/-- A main rail not good any more: its monitor and its overvoltage detector lose it. -/
def State.railGone (s : State) (rail : Nat) : State :=
  { s with pwr := { s.pwr with railGood := setBit s.pwr.railGood rail false, railOv := setBit s.pwr.railOv rail false } }

/-- The dry-down has raised DRYDONE, which stays high until PERST_N is next released: rails may be removed (R49, R74). -/
def State.dryFinished (s : State) : Bool := s.pwr.dev == .dry && s.pins.dryDone

/-- MAIN_RAIL_LOSS: a surprise loss, unless the device was in SENTRY or had raised DRYDONE (R82, R88, R129). -/
def execMainRailLoss (rail : Fin 6) (cut : PowerCut) (s : State) : Host.Outcome State Fault Refusal :=
  .next (
    if rail.val = 0 ∨ !s.pwr.railGood.getLsbD rail.val then s
    else
      let t := s.railGone rail.val
      if s.pwr.dev = .off ∨ (s.pwr.dev = .sentry ∧ s.pwr.start.isNone) then t
      else if s.dryFinished then t.enterSentry cut
      else
        let u := t.enterSentry cut
        { u with pwr := { u.pwr with fault := setBit u.pwr.fault 0 true, faultRail := setBit 0 rail.val true } })

/-- DRY_TO_SENTRY: the first main rail falls after DRYDONE (Table 3-5). -/
def execDryToSentry (rail : Fin 6) (s : State) : Host.Outcome State Fault Refusal :=
  .next (if rail.val = 0 ∨ !s.pwr.railGood.getLsbD rail.val ∨ !s.dryFinished then s
    else (s.railGone rail.val).enterSentry { unfinished := [], entry := false, fuse := none, torn := false })

/-- MAIN_RAIL_GOOD: a monitor reports good (R67); with VDDH the header-tank elements start afresh (R120). -/
def execMainRailGood (rail : Fin 6) (s : State) : Host.Outcome State Fault Refusal :=
  .next (
    if rail.val = 0 ∨ s.pwr.railGood.getLsbD rail.val ∨ !s.islandUp then s
    else
      let t : State := { s with pwr := { s.pwr with railGood := setBit s.pwr.railGood rail.val true } }
      if rail.val = 3 then { t with wpe := { t.wpe with aboveMin := false, charging := true } } else t)

/-- Every main rail is good. -/
def Power.mainGood (p : Power) : Bool := p.railGood.toNat / 2 == 31

/-- RAIL_TIMEOUT: 50 ms after the first main rail, some main rail is not good (R71). -/
def execRailTimeout (s : State) : Host.Outcome State Fault Refusal :=
  .next (if !s.islandUp ∨ s.pwr.mainGood ∨ s.pwr.railGood.toNat / 2 = 0 then s
    else { s with pwr := { s.pwr with fault := setBit s.pwr.fault 2 true }, pins := { s.pins with alertLow := true } })

/-- VAUX_LOSS: OFF; everything but flash, fuses and cells is lost (R75, R82, R104, R140, R181). -/
def execVauxLoss (cut : PowerCut) (s : State) : Host.Outcome State Fault Refusal :=
  let t := (s.applyCut cut).resetMain
  .next { t with
    pwr := { Power.initial with dev := .off, prev := s.pwr.dev, railGood := 0, xtal := false
                                autoDoze := true, endedInFault := s.pwr.endedInFault }
    pins := { Pins.initial with latched := false }
    tmr := { Time.initial with epoch := s.tmr.epoch, epochPending := s.tmr.epochPending, epochSat := s.tmr.epochSat }
    afe := { Afe.initial with chans := s.afe.chans.map (fun x => { AfeChan.initial with trim := x.flash, flash := x.flash }) }
    snt := Snt.initial
    hif := { Hif.initial with up := false, subsys := s.hif.subsys }
    wpe := { t.wpe with tankUf := 0, capMax := false, absent := true, aboveMin := false, charging := true }
    bist := { t.bist with dlog := [], dlogNext := 0, dlogLost := 0, invPending := false, supply := 0, afeFailed := 0 }
    casc := Casc.initial
    sys := { t.sys with smbLast := 0, smbErrors := 0, smbHi := 0, mainUp := false } }

/-- VAUX_GOOD: a cold start (R102): uptime 0 and counting, no anchor, no PWR_FAULT bit, the epoch pending. PWR_STATE.PREV
reads SENTRY, there being no code for OFF. -/
def execVauxGood (s : State) : Host.Outcome State Fault Refusal :=
  .next (if s.pwr.dev ≠ .off ∨ s.pwr.railGood.getLsbD 0 then s
    else { s with
      pwr := { s.pwr with railGood := setBit s.pwr.railGood 0 true, fault := 0, faultRail := 0, prev := .sentry }
      tmr := { Time.initial with epoch := s.tmr.epoch, epochSat := s.tmr.epochSat, epochPending := true } })

/-- A strap bit over its eight samples: stable, and its value. -/
def strapBit (samples : List (BitVec 5)) (i : Nat) : Bool × Bool :=
  let bs := samples.map (fun x => x.getLsbD i)
  (bs.all (fun b => b) || bs.all (fun b => !b), bs.all (fun b => b))

/-- CSC_ROLE by code (Table 2-6). -/
def roleOf (code : Nat) : Role := if code = 1 then .master else if code = 2 then .member else .single

/-- BOOT_SRC by code (Table 2-6). -/
def bootOf (code : Nat) : BootSrc := if code = 1 then .singleBit else if code = 2 then .hold else .quad

/-- STRAP_LATCH: eight samples of CSC_ROLE [1:0], BOOT_SRC [3:2] and TEST_EN [4]; one that is not stable latches as 0 and
is flagged (R51, R54, R55). The island then reaches SENTRY (Table 3-5). -/
def execStrapLatch (samples : List (BitVec 5)) (s : State) : Host.Outcome State Fault Refusal :=
  if !strapWf samples then .fault .illFormed
  else .next (
    if s.pins.latched ∨ !s.pwr.railGood.getLsbD 0 ∨ s.pwr.dev ≠ .off then s
    else
      let b := strapBit samples
      let roleOk := (b 0).1 && (b 1).1
      let bootOk := (b 2).1 && (b 3).1
      let role := if roleOk then b2n (b 0).2 + 2 * b2n (b 1).2 else 0
      let boot := if bootOk then b2n (b 2).2 + 2 * b2n (b 3).2 else 0
      { s with
        pins := { s.pins with latched := true, role := roleOf role, boot := bootOf boot, testEn := (b 4).1 && (b 4).2
                              roleResv := role == 3, bootResv := boot == 3, roleUnst := !roleOk, bootUnst := !bootOk
                              testUnst := !(b 4).1 }
        pwr := { s.pwr with dev := .sentry }
        casc := s.casc.mainReset (roleOf role) false })

/-! ### The always-on clock (R77, R103, R106 to R108) -/

/-- UPTIME_TICK: one microsecond; the FCLK copy follows, and UNTRIMMED is set while ACCURACY reads 0. From the first tick
after release PWR_EST shows the estimate (log 39). -/
def execUptimeTick (s : State) : Host.Outcome State Fault Refusal :=
  .next (if !s.islandUp then s
    else { s with tmr := { s.tmr with uptime := (s.tmr.uptime + 1) % 2 ^ 64, copy := (s.tmr.uptime + 1) % 2 ^ 64
                                      untrimmed := s.tmr.untrimmed || !s.tmr.accuracy }
                  pwr := { s.pwr with estFormed := s.pwr.estFormed || s.mainLive } })

/-- CRYSTAL_DETECTED: 1,024 edges have been counted (Table 4-3). -/
def execCrystalDetected (s : State) : Host.Outcome State Fault Refusal :=
  .next (if s.islandUp then { s with pwr := { s.pwr with xtal := true } } else s)

/-- CRYSTAL_LOST: 250 µs without an edge (R77). -/
def execCrystalLost (s : State) : Host.Outcome State Fault Refusal :=
  .next (if s.islandUp ∧ s.pwr.xtal then
      { s with pwr := { s.pwr with xtal := false, xtalLost := true }, tmr := { s.tmr with accuracy := false } }
    else s)

/-- TRIM_WINDOW_CLOSE: the RC is trimmed (R77, R108). -/
def execTrimWindowClose (trim : BitVec 12) (s : State) : Host.Outcome State Fault Refusal :=
  .next (if s.islandUp ∧ s.pwr.xtal then
      { s with pwr := { s.pwr with aonTrim := trim }, tmr := { s.tmr with accuracy := true } }
    else s)

/-! ### DOZE (R81 to R86) -/

/-- Mirroring is enabled (Table 3-5, R85). -/
def State.mirroring (s : State) : Bool :=
  s.casc.pendAct.isSome || s.casc.pairs.any (fun p => decide (1 ≤ p.state) && decide (p.state ≤ 4))

/-- A cascade port is trained. -/
def State.portTrained (s : State) : Bool := s.casc.portUp.state == .up || s.casc.portDn.state == .up

/-- A ring holds an unfetched or unfinished command. -/
def State.ringBusy (s : State) : Bool :=
  !s.cmds.isEmpty || s.rings.any (fun e => e.2.en && !e.2.halted &&
    (decide (0 < e.2.unfetched) || !e.2.places.isEmpty || decide (0 < e.2.fetching) || !e.2.lists.isEmpty))

/-- R84. -/
def State.idle (s : State) : Bool :=
  !s.ringBusy && !s.str.s.any (fun x => x.started) && !s.csi.any (fun p => p.en) && !s.mirroring && !s.portTrained

/-- PWR_STATE.REQ_RESULT set. -/
def State.reqResult (s : State) (r : ReqResult) : State := { s with pwr := { s.pwr with reqResult := r } }

/-- The device is in RUN or ECONOMY, released. -/
def State.running (s : State) : Bool := s.mainLive && (s.pwr.dev == .run || s.pwr.dev == .economy)

/-- The entry to DOZE begins (Table 3-5). -/
def State.beginDoze (s : State) : State := { s with pwr := { s.pwr with dozeEntering := true } }

/-- DOZE_IDLE_TIMEOUT: idle for PWR_DOZE_IDLE with AUTO_DOZE set (Table 3-5). -/
def execDozeIdleTimeout (s : State) : Host.Outcome State Fault Refusal :=
  .next (if s.running ∧ s.pwr.autoDoze ∧ s.idle ∧ s.pwr.fclkTo = none ∧ !s.pwr.dozeEntering then s.beginDoze else s)

/-- The largest LTR encoding, a value of 10 bits in units of 32^scale ns, that does not exceed a latency in µs. -/
def ltrCode (us : Nat) : Nat × Nat :=
  if 1000 * us < 1024 then (1000 * us, 0) else if 1000 * us < 32 * 1024 then (1000 * us / 32, 1) else (min 1023 (1000 * us / 1024), 2)

/-- An LTR message of a latency in µs. -/
def State.ltr (s : State) (us : Nat) : State := s.leaveL1.emit (.ltr (ltrCode us).1 (ltrCode us).2)

/-- A class-0 reservation exists: a loaded graph holds a window (R367, R272). -/
def State.reservation (s : State) : Bool := s.graphs.any (fun g => g.window.isSome)

/-- LTR sent on entry to a device state (Table 12-5). -/
def State.sendLtr (s : State) : State :=
  if s.pins.role = .member then s
  else match s.pwr.dev with
    | .run => s.ltr (if s.reservation then s.hif.ltrFrame else s.hif.ltrRun)
    | .economy => s.ltr (if s.reservation then s.hif.ltrFrame else s.hif.ltrRun)
    | .doze => s.ltr s.hif.ltrDoze
    | _ => s

/-- DOZE_ENTRY_DONE: DOZE is reached; terraces, peripheries and the Weight Engine go off, banks with reservations stay in
retention (Table 3-4, Table 3-7, R81). -/
def execDozeEntryDone (s : State) : Host.Outcome State Fault Refusal :=
  .next (if !s.pwr.dozeEntering then s
    else
      let p := s.pwr
      State.sendLtr { s with
        pwr := { p with dev := .doze, prev := p.dev, dozeFrom := p.dev, dozeEntering := false
                        terraces := List.replicate 64 .off, stageQ := [], periph := []
                        reqResult := if p.reqResult = .pending then .done else p.reqResult }
        wpe := { s.wpe with powered := false } })

/-- A change between RUN and ECONOMY begins: firing stops (R91). -/
def State.beginSwitch (s : State) (d : DevState) : State :=
  { s with pwr := { s.pwr with fclkTo := some d, reqResult := .pending } }

/-- FCLK_SWITCH_DONE: the evaluations in flight have finished and FCLK has switched (R91); a run admitted under the other
frequency's bound that ends late owes it to the change (R93). -/
def execFclkSwitchDone (s : State) : Host.Outcome State Fault Refusal :=
  .next (match s.pwr.fclkTo with
    | none => s
    | some d =>
      if !s.evals.isEmpty then s
      else
        let t : State := { s with
          pwr := { s.pwr with dev := d, prev := if d = s.pwr.dev then s.pwr.prev else s.pwr.dev, fclkTo := none, reqResult := .done }
          cmds := s.cmds.map (fun (c : Cmd) => match c.body with
            | .run r => { c with body := .run { r with lateCause := 0 } }
            | _ => c) }
        t.notePeak.sendLtr)

/-! ### PWR_CTRL.REQ (R85, R86, R91, R92) -/

/-- A request naming DOZE (R85). In the pause of a clock switch and during an exit from DOZE it reads REFUSED_STATE, where the
spec is silent (DESIGN CHOICE, log 40). -/
def State.reqDoze (s : State) : State :=
  match s.pwr.dev with
  | .run => if s.mirroring || s.portTrained then s.reqResult .refusedMirror
      else if !s.idle || s.pwr.fclkTo.isSome then s.reqResult .refusedState else (s.beginDoze).reqResult .pending
  | .economy => if s.mirroring || s.portTrained then s.reqResult .refusedMirror
      else if !s.idle || s.pwr.fclkTo.isSome then s.reqResult .refusedState else (s.beginDoze).reqResult .pending
  | .doze => if s.pwr.dozeExit.isSome then s.reqResult .refusedState else s.reqResult .done
  | _ => s.reqResult .refusedState

/-- PWR_REQ_DOZE. -/
def execPwrReqDoze (s : State) : Host.Outcome State Fault Refusal := .next (s.hostAccess 0 none .island State.reqDoze)

/-- The class-0 reservations do not fit at 500 MHz (R92): the worst case there of some frame-bound graph exceeds its window,
or the class-0 share of the period (Table 14-1). -/
def State.economyOverruns (s : State) : Bool :=
  s.graphs.any (fun g => match g.window with
    | some f =>
      let need := g.cgd.wcEco + s.slc.xallow
      decide (1000 * f.2 < need) || decide (1000 * s.slc.share * s.slc.curPeriod < 100 * need)
    | none => false)

/-- A request naming RUN or ECONOMY. One that names the other state while an exit from DOZE has already begun redirects the
exit (DESIGN CHOICE, log 40). -/
def State.reqRun (s : State) (d : DevState) : State :=
  match s.pwr.dev with
  | .doze =>
    if d = .economy ∧ s.economyOverruns then s.reqResult .refusedReservation
    else { s with pwr := { s.pwr with dozeExit := some d, reqResult := .pending } }
  | .run =>
    let s0 : State := { s with pwr := { s.pwr with dozeEntering := false } }
    if d = .economy ∧ s.economyOverruns then s0.reqResult .refusedReservation
    else if d = .run ∧ s.pwr.fclkTo.isNone then s0.reqResult .done else s0.beginSwitch d
  | .economy =>
    let s0 : State := { s with pwr := { s.pwr with dozeEntering := false } }
    if d = .economy ∧ s.economyOverruns then s0.reqResult .refusedReservation
    else if d = .economy ∧ s.pwr.fclkTo.isNone then s0.reqResult .done else s0.beginSwitch d
  | _ => s.reqResult .refusedState

/-- PWR_REQ_RUN. -/
def execPwrReqRun (s : State) : Host.Outcome State Fault Refusal :=
  .next (s.hostAccess 0 none .island (fun s => s.reqRun .run))

/-- PWR_REQ_ECONOMY. -/
def execPwrReqEconomy (s : State) : Host.Outcome State Fault Refusal :=
  .next (s.hostAccess 0 none .island (fun s => s.reqRun .economy))

/-- PWR_PEAK_CLR: PEAK_MW takes the current estimate. -/
def execPwrPeakClr (s : State) : Host.Outcome State Fault Refusal :=
  .next (s.hostAccess 0 none .island (fun s => { s with pwr := { s.pwr with peak := min 0xFFFF s.estimate } }))

/-! ### Terraces and basin peripheries (R94 to R99) -/

/-- TERRACE_POWER_GOOD: a charging terrace is good and the next one that waits starts (R97). -/
def execTerracePowerGood (ter : Fin 64) (s : State) : Host.Outcome State Fault Refusal :=
  .next (match s.terPower ter.val with
    | .charging _ => ((State.stageMore 64 (s.setTerPower ter.val .good)).notePeak).flushBridge
    | _ => s)

/-- Work is present on terrace t: an admitted run, a cell operation or a frame reservation uses it, or packets wait for it (R94,
R368). -/
def State.terUsed (s : State) (t : Nat) : Bool :=
  s.graphs.any (fun g => (g.window.isSome || g.bound || !(s.runsOf g.handle).isEmpty) && (s.graphTers g).contains t) ||
  s.bistRunning || s.cmds.any (fun c => match c.body with
    | .program p => p.ter == t
    | .verify _ _ _ ter _ _ => ter == t
    | .erase _ ter _ _ => ter == t
    | _ => false) || s.evals.any (fun e => match (s.graph? e.handle).bind (fun g => g.cgd.places[e.place]?) with
    | some p => p.ter == t && s.isMe p.dev
    | none => false) ||
  s.rill.any (fun p => (packetRoute p s.isMe).any (fun x => x.1 == t))

/-- Terraces that frame reservations keep powered in RUN and ECONOMY (R368). -/
def State.heldTers (s : State) : List Nat :=
  ((s.graphs.filter (fun g => g.window.isSome || g.bound)).flatMap (fun g => s.graphTers g)).eraseDups

/-- TERRACE_IDLE_TIMEOUT: TER_IDLE after its last use an unused terrace goes off, its peripheries with it; its reserved banks
stay in retention (R94, R95). -/
def execTerraceIdleTimeout (ter : Fin 64) (s : State) : Host.Outcome State Fault Refusal :=
  .next (if s.terPower ter.val = .good ∧ !s.terUsed ter.val
    then ({ s with pwr := { s.pwr with periph := s.pwr.periph.filter (fun e => e.1 / 64 != ter.val) } } : State).setTerPower ter.val .off
    else s)

/-- PERIPHERY_HOLD_EXPIRE: BSN_HOLD cycles after its last evaluation an idle periphery goes off; where a token has restarted
the hold timer, the timer that expires is the earlier one, and the restarted one runs on (R94, R99, R250, log 40). -/
def execPeripheryHoldExpire (basin : Fin 4096) (s : State) : Host.Outcome State Fault Refusal :=
  .next (match Tab.get? s.pwr.periph basin.val with
    | some (.good token) =>
      if s.basinBusy basin.val then s
      else if token then { s with pwr := { s.pwr with periph := Tab.set s.pwr.periph basin.val (.good false) } }
      else { s with pwr := { s.pwr with periph := Tab.del s.pwr.periph basin.val } }
    | _ => s)

/-- PERIPHERY_POWER_GOOD: 300 ns after its token a waking periphery is good (R99). -/
def execPeripheryPowerGood (basin : Fin 4096) (s : State) : Host.Outcome State Fault Refusal :=
  .next (match Tab.get? s.pwr.periph basin.val with
    | some .waking => { s with pwr := { s.pwr with periph := Tab.set s.pwr.periph basin.val (.good true) } }
    | _ => s)

end Sys2Proof.Machine
end

