-- ==== Sys2Proof/Machine/Dry.lean ====
section
/-! DEFINITION. Ordered shutdown: entry to DRY, the drain, the dry-down self-test, the record and DRYDONE; the exit from
DOZE that a trigger may wait for (chapter 04, R121 to R128, R506, R507). -/

namespace Sys2Proof.Machine

/-! ### Entry to DRY (R121 to R123, R461) -/

/-- The device state as DRY finds it: a change of FCLK in its pause completes first, every other request is refused. -/
def State.dryState (s : State) : State :=
  let p := s.pwr
  let sw := p.fclkTo.isSome
  { s with
    pwr := { p with dev := .dry, prev := p.fclkTo.getD p.dev, dozeEntering := false, dozeExit := none, dryAfterExit := false
                    fclkTo := none, reqResult := if p.reqResult = .pending then (if sw then .done else .refusedState) else p.reqResult }
    cmds := if sw then s.cmds.map (fun (c : Cmd) => match c.body with
        | .run r => { c with body := .run { r with lateCause := 0 } }
        | _ => c) else s.cmds
    slc := { s.slc with waiting := [] }
    bist := { s.bist with dry := some .drain, dryFails := 0 } }

/-- How entry to DRY ends an admitted command that has not started: a wait on a flag, a run whose head wake has not begun;
or a PROGRAM_ROWS between its batches (R122). -/
def Cmd.dryEnd (c : Cmd) : Option End :=
  match c.body with
  | .waitFlag _ _ _ => some endState
  | .run r => if r.begun then none else some endState
  | .program p => if p.batch = 0 then some (endOf stCancelled 0) else none
  | _ => none

/-- Commands that entry to DRY ends. -/
def State.dryCommands (s : State) : State :=
  s.cmds.foldl (fun t c => match c.dryEnd with
    | some e => if c.held.isSome then t else t.finish c.cid e
    | none => t) s

/-- The master tells every serving member (R461). -/
def State.relayDry (s : State) : State :=
  if s.pins.role = .master then
    ((List.range 8).filter (fun d => !s.isMe d && (s.casc.chain[d]?).any (fun m => m.state == 2))).foldl
      (fun t d => t.emit (.link (t.routesUp d) .dry)) s
  else s

/-- Every ring's head packets judged. -/
def State.settleAll (s : State) : State := s.rings.foldl (fun t e => t.settle e.1) s

/-- Entry to DRY: unstarted commands are refused, mirroring stops, streams stop at their next boundary (R122, R123). -/
def State.enterDry (s : State) : State :=
  (((((s.leaveL1).dryState).relayDry.mirrorStop).dryCommands).stopStreams (fun _ => true)).settleAll

/-- SHUTDOWN (R121). -/
def execShutdown (ring : Fin 1024) (s : State) : Host.Outcome State Fault Refusal :=
  let g := ring.val
  .next (s.onHead g 0x57 false (fun p =>
    let t := s.accept g p .shutdown none 0
    ({ t with bist := { t.bist with dryCid := some s.nextCid } } : State).enterDry))

/-! ### DOZE exit (Table 3-6, R86, R168) -/

/-- The sentinel device interrupt that waited is raised (Table 6-3). -/
def State.raiseIrq (s : State) : State :=
  if s.snt.irqWait then ({ s with snt := { s.snt with irqWait := false } } : State).devVec 1 else s

/-- DOZE_EXIT_DONE: RUN or ECONOMY is reached; what arrived in DOZE takes effect, the terraces of
frame reservations power up again (R368), and a DRY trigger that waited acts. -/
def execDozeExitDone (s : State) : Host.Outcome State Fault Refusal :=
  .next (match s.pwr.dozeExit with
    | none => s
    | some d =>
      if s.pwr.dev ≠ .doze then s
      else
        let p := s.pwr
        let t : State := { s with pwr := { p with dev := d, prev := .doze, dozeExit := none, dryAfterExit := false
                                                  reqResult := if p.reqResult = .pending then .done else p.reqResult } }
        let u := (t.needTerraces t.heldTers).sendLtr.settleAll.fetchWork.raiseIrq
        if p.dryAfterExit then u.enterDry else u)

/-! ### PME_Turn_Off (R316) -/

/-- PME_TURN_OFF: acknowledged; in D3hot the device enters DRY, through the DOZE exit where it is in DOZE (R121, R316); in D0
it is logged. -/
def execPmeTurnOff (tlp : Tlp) (s : State) : Host.Outcome State Fault Refusal :=
  .next (if !s.hostUp then s
    else if !s.hif.d3hot then (s.emit .pmeToAck).vlogTlp 0x0F 6 0 0xFFFF tlp
    else
      let t := (({ s with hif := { s.hif with l23 := true } } : State).emit .pmeToAck).emit .l23Request
      match s.pwr.dev with
      | .run => t.enterDry
      | .economy => t.enterDry
      | .doze =>
        let u := t.touch
        { u with pwr := { u.pwr with dryAfterExit := true } }
      | _ => t)

/-! ### The dry-down (Table 4-4) -/

/-- A command and the LIST_CALLs it stands in. -/
def State.lineage (s : State) (cid : Nat) : List Nat :=
  let up (l : List Nat) : List Nat := ((l.getLast?.bind s.cmd?).bind (fun c => c.parent)).toList
  let one := [cid] ++ up [cid]
  one ++ (if one.length = 2 then up one else [])

/-- No started command remains but the SHUTDOWN itself and the LIST_CALLs it stands in, which end after it (log 40). -/
def State.drained (s : State) : Bool :=
  s.cmds.all (fun c => (s.bist.dryCid.map s.lineage).any (fun l => l.contains c.cid))

/-- The host-facing engines power down: graphs, streams, sessions and ports are gone, and with them every reservation of a
cistern bank (R95, R124, R271). -/
def State.enginesOff (s : State) : State :=
  ({ s with graphs := [], evals := [], fwds := [], rill := [], staged := [], csi := List.replicate 2 CsiPort.initial
            intake := List.replicate 2 Intake.initial, str := Streams.initial
            wpe := { s.wpe with sessions := [], powered := false } } : State).dropBanks
    (((s.graphs.flatMap (fun g => g.slots)).map (fun x => x.ter)).eraseDups)

/-- DRY_DRAIN_DONE: SHUTDOWN's record is written and the dry-down self-test runs (R124, R484). -/
def execDryDrainDone (test : TestIn) (s : State) : Host.Outcome State Fault Refusal :=
  .next (if s.pwr.dev ≠ .dry ∨ s.bist.dry ≠ some .drain ∨ !s.mainLive ∨ !s.drained then s
    else
      let t := match s.bist.dryCid with
        | some c => s.finish c endDone
        | none => s
      let u := (t.enginesOff.mapSave.selfTest (TestJob.ofKind 3) test false).1
      { u with bist := { u.bist with dry := some .selfTest, dryCid := none, dryFails := u.bist.fails } })

/-- Basins that are FAILED, device-wide. -/
def State.failedBasins (s : State) : Nat := (s.basins.filter (fun e => decide (e.1 < 4096) && e.2.wstate == .failed)).length

/-- The record that a commit writes (Table 19-8). -/
def State.dryRecord (s : State) : DryRecord :=
  { state := if s.bist.invPending then 0x0F else 0xFF, holdup := s.tankCovers 125, epoch := s.tmr.epoch, fw := s.sys.fw
    uptime := s.tmr.uptime, anchor := if s.tmr.anchorValid then s.tmr.anchor else 0
    anchorAt := if s.tmr.anchorValid then s.tmr.anchorAt else 0, anchorValid := s.tmr.anchorValid
    mapGen := s.bist.mapGen, mapCrc := s.mapCrc, fails := s.bist.dryFails, mappedOut := s.failedBasins, torn := false }

/-- The record as the flash holds it, its CRC with STATE taken as 0xFF; a torn one's does not hold (Table 19-8). -/
def DryRecord.bytes (r : DryRecord) : List Byte :=
  let body (state : Nat) : List Byte :=
    leBytes 4 0x5952444B ++ leBytes 2 1 ++ leBytes 1 state ++ leBytes 1 (b2n r.holdup) ++ leBytes 4 r.epoch.toNat ++
    leBytes 4 r.fw.toNat ++ leBytes 8 r.uptime ++ leBytes 8 r.anchor.toNat ++ leBytes 8 r.anchorAt ++ leBytes 1 (b2n r.anchorValid) ++
    leBytes 3 0 ++ leBytes 4 r.mapGen.toNat ++ leBytes 4 r.mapCrc.toNat ++ leBytes 2 r.fails ++ leBytes 2 r.mappedOut ++ leBytes 68 0
  body r.state ++ leBytes 4 ((crc32c (body 0xFF)).toNat + b2n r.torn)

/-- DRYDOWN_COMMIT, which also writes the AFE trims back to flash (R155): with the tank at `tankMv` once the check holds or has waited 100 ms, the record is written (R110, R125,
R506, R507). -/
def execDrydownCommit (tankMv : Nat) (s : State) : Host.Outcome State Fault Refusal :=
  .next (if s.pwr.dev ≠ .dry ∨ s.bist.dry ≠ some .selfTest ∨ !s.mainLive then s
    else
      let t : State := { s with wpe := { s.wpe with tankMv := tankMv / 50 * 50 } }
      { t with bist := { t.bist with record := some t.dryRecord, dry := some .committed, invPending := false, mapOld := none }
               afe := { t.afe with chans := t.afe.chans.map (fun x => { x with flash := x.trim }) } })

/-- DRYDONE_RISE: the record has been read back sound (R49, R126). -/
def execDrydoneRise (s : State) : Host.Outcome State Fault Refusal :=
  .next (if s.pwr.dev ≠ .dry ∨ s.bist.dry ≠ some .committed ∨ !s.mainLive then s
    else { s with bist := { s.bist with dry := some .done }, pins := { s.pins with dryDone := true } })

end Sys2Proof.Machine
end

