-- ==== Sys2Proof/Machine/Start.lean ====
section
/-! DEFINITION. A start from the PERST_N edge to release, its abandonment, and the life-cycle state it derives (chapter 04,
R56, R57, R73, R83, R105, R111 to R119, R420, R413, R509, R525). -/

namespace Sys2Proof.Machine

/-! ### Fuses (R509, R510) -/

/-- The state that the transition fuses hold. -/
def Lcs.fused (l : Lcs) : LcState :=
  if l.fRet then .retired
  else if l.svcOut < l.svcIn then .service
  else if l.fDepl then .deployed
  else if l.fProv then .provisioned
  else .manufacture

/-- TRANS_SEQ: transition fuses burnt. -/
def Lcs.transSeq (l : Lcs) : Nat := b2n l.fProv + b2n l.fDepl + b2n l.fRet + l.svcIn + l.svcOut

/-! ### Steps of a start (Table 4-2) -/

/-- The epoch at the first main power-up after a cold start (R105, R106). -/
def Time.startEpoch (t : Time) : Time :=
  if t.epochPending then
    let e : Word := if t.epoch = 0xFFFFFFFF then t.epoch else t.epoch + 1
    { t with epoch := e, epochPending := false, epochSat := e == 0xFFFFFFFF }
  else t

/-- Table 4-1, first match: kind and reason. R112 lets nothing else decide, so a loss before step 9 of a start, or between the
commit and DRYDONE, leaves a record that a later start finds valid (log 40). -/
def State.startKind (s : State) (fw : Word) : StartKind × Nat :=
  if s.pwr.endedInFault then (.full, 5)
  else match s.bist.record with
    | none => (.full, 1)
    | some r =>
      if r.state = 0x00 then (.full, 1)
      else if r.torn then (.full, 2)
      else if r.state = 0x0F then (.full, 3)
      else if r.fw ≠ fw then (.full, 4)
      else if r.mapGen ≠ s.bist.mapGen ∨ r.mapCrc ≠ s.mapCrc then (.full, 6)
      else (.quick, 0)

/-- TMR_DRYAGE at a decision point: all ones where no record was read or its epoch differs; an age that the field cannot
hold is left open (log 9). With TMR_EPOCH saturated a record from before a VAUX loss has an equal epoch and its age is reported
as a number (DESIGN CHOICE, log 40). -/
def State.startAge (s : State) (decision : Nat) : Word :=
  match s.bist.record with
  | none => 0xFFFFFFFF
  | some r =>
    if r.state = 0x00 ∨ r.torn ∨ r.epoch ≠ s.tmr.epoch then 0xFFFFFFFF
    else
      let ms := s.roundFree (decision - r.uptime) 1000
      if ms < 0xFFFFFFFF then BitVec.ofNat 32 ms else BitVec.ofInt 32 (Config.freeInt s.free)

/-- A valid entry that is open: its basin is DIRTY, with a log entry and a place in WPE_DIRTY. The tag of a basin whose erase was
cut is left open (R276, R420, log 9). -/
def State.scanEntry (s : State) (e : JEntry) : State :=
  if !entryValid e.bytes || !entryOpen e.bytes then s
  else
    let t := s.makeDirty e.basin 1
    let t1 := if e.erase then { t.updBasin e.basin (fun b => { b with tag := BitVec.ofInt 64 (Config.freeInt s.free) }) with free := s.free + 1 }
      else t
    let t2 := t1.dlog 3 1 (BitVec.ofNat 32 (s.slotWord e.ter e.slot)) 0
    { t2 with wpe := { t2.wpe with dirty := (t2.wpe.dirty ++ [(e.ter, e.slot)]).eraseDups } }

/-- The journal scan; the strip is erased when every mark has been written (R420). -/
def State.journalScan (s : State) : State :=
  let t := s.wpe.journal.foldl State.scanEntry { s with wpe := { s.wpe with dirty := [] } }
  if s.wpe.journal.isEmpty then t
  else { t with wpe := { t.wpe with journal := [], jrnlErases := satInc (2 ^ 22 - 1) t.wpe.jrnlErases } }

/-- The measured header-tank capacitance (R413): a step of 50 mV at 120 mA beyond 1.958 ms ends the measurement. -/
def Wpe.measure (w : Wpe) (uf : Nat) : Wpe :=
  if 23496 < 5 * uf then { w with tankUf := 4700, capMax := true, absent := false }
  else if uf < 10 then { w with tankUf := 0, capMax := false, absent := true }
  else { w with tankUf := uf, capMax := false, absent := false }

/-- The firmware is read in single-bit mode: the strap says so, while QUAD, and HOLD once the cores are released, read in quad
mode (Table 2-6, R56, log 40). -/
def Pins.singleBit (p : Pins) : Bool := p.boot == .singleBit

/-- The flash can be read in the mode that the strap selects: a part without quad mode only bit by bit (Table 2-6). -/
def State.flashReads (s : State) (x : StartIn) : Bool := x.flashOk && (x.quadOk || s.pins.singleBit)

/-- Steps 4 to 8 of a start whose PERST_N edge was at `edgeAt`, with the decision point at `decision`. Where the firmware or
the flash fails, kind and reason are left open (R118, log 9). -/
def State.runStart (s : State) (edgeAt decision : Nat) (x : StartIn) : State :=
  if !x.fwOk ∨ !s.flashReads x then
    let st : Start := { edgeAt := edgeAt, kind := if Config.freeBool s.free then .quick else .full
                        reason := (Config.freeInt s.free).natAbs % 7, result := .bootFail, dryAge := 0xFFFFFFFF
                        booted := false, held := false }
    { s with pwr := { s.pwr with start := some st }, free := s.free + 1 }
  else
    let t : State := { s with tmr := s.tmr.startEpoch, sys := { s.sys with fw := x.fw } }
    let k := t.startKind x.fw
    let age := t.startAge decision
    let t1 := ({ t with free := t.free + 1 } : State).journalScan
    let t2 : State := { t1 with wpe := t1.wpe.measure x.tankUf }
    let r := t2.mapSave.selfTest (TestJob.ofKind (if k.1 = .quick then 1 else 2)) x.test false
    let st : Start := { edgeAt := edgeAt, kind := k.1, reason := k.2
                        result := if routerFailed r.2 then .bootFail else if degraded r.2 then .passDegraded else .pass
                        dryAge := age, booted := true, held := false }
    { r.1 with pwr := { r.1.pwr with start := some st } }

/-- BOOT_SRC = HOLD is honoured (R56). -/
def State.holds (s : State) : Bool := s.pins.boot == .hold && s.lcs.active.debuggable

/-- Steps 1 to 3: the life-cycle state derived and the straps judged by it, TEST_EN honoured in MANUFACTURE; the cascade ports
start to train (R54, R56, R454, R480, R509). -/
def State.beginStart (s : State) (x : StartIn) : State :=
  let st := s.lcs.fused
  { s with lcs := { s.lcs with active := st, closed := false }
           pins := { s.pins with bootOver := s.pins.boot == .hold && !st.debuggable
                                 testOver := s.pins.testEn && st != .manufacture }
           casc := ({ s.casc with fenced := false }).mainReset s.pins.role true
           sys := { s.sys with mainUp := true, testStrap := s.pins.testEn && st == .manufacture }
           pwr := { s.pwr with lockUs := x.lockUs } }

/-- PERST_N_RISE: WAKE_N and DRYDONE are released (R49, R169), and with every main rail good a start begins (R73). -/
def execPerstNRise (start : StartIn) (s : State) : Host.Outcome State Fault Refusal :=
  .next (if s.pins.perstHigh ∨ !s.islandUp then s
    else
      let t : State := { s with pins := { s.pins with perstHigh := true, wakeLow := false, dryDone := false } }
      if s.pwr.dev = .off ∨ !s.pwr.mainGood then t
      else
        let u := t.beginStart start
        let at_ := s.tmr.uptime
        if u.holds then
          { u with pwr := { u.pwr with start := some { edgeAt := at_, kind := .full, reason := 0, result := .pass
                                                       dryAge := 0xFFFFFFFF, booted := false, held := true } } }
        else u.runStart at_ (at_ + 4000) start)

/-- HK_RELEASE: the held HK cores are released and the start goes on from there (R57, Table 20-8). -/
def execHkRelease (start : StartIn) (s : State) : Host.Outcome State Fault Refusal :=
  .next (if !s.islandUp ∨ !s.pwr.mainGood then s
    else if !s.lcs.active.debuggable ∨ s.lcs.closed then { s with sys := { s.sys with tapIr := 0xFF } }
    else
      let t : State := { s with sys := { s.sys with tapIr := 0x11 } }
      match s.pwr.start with
      | some st => if st.held then t.runStart st.edgeAt (s.tmr.uptime + 4000) start else t
      | none => t)

/-! ### Release (R113, R114, R118) -/

/-- Step 9: the record consumed and the TMR block written. A release into FAULT for want of firmware or flash leaves the record
as it is (DESIGN CHOICE, log 40). -/
def State.writeStart (s : State) (st : Start) : State :=
  { s with
    bist := if st.booted then { s.bist with record := s.bist.record.map (fun (r : DryRecord) => { r with state := 0x00 }), mapOld := none }
      else { s.bist with mapOld := none }
    tmr := { s.tmr with startKind := st.kind, startReason := st.reason, startResult := st.result, dryAge := st.dryAge
                        startMs := min 0xFFFF (s.roundFree (s.tmr.uptime - st.edgeAt) 1000), releaseAt := s.tmr.uptime }
    hif := { s.hif with vlogWr := 0, vlogRd := 0, vlogLost := 0, vlog := [] }
    sys := { s.sys with lock := false }, free := s.free + 1 }

/-- A member tells the master that it has released (R114, R455). -/
def State.tellRelease (s : State) : State :=
  if s.pins.role = .member ∧ s.casc.numbered then s.emit (.link true (.released s.casc.device s.lcs.uid s.sys.fw s.tmr.epoch)) else s

/-- START_RELEASE: RUN, or FAULT after a boot failure (R83, R114, R118); an erasure of retirement goes on (R525). -/
def execStartRelease (s : State) : Host.Outcome State Fault Refusal :=
  .next (match s.pwr.start with
    | none => s
    | some st =>
      if st.held then s
      else
        let t := s.writeStart st
        let bad := st.result == .bootFail
        let t1 : State := { t with
          pwr := { t.pwr with dev := if bad then .fault else .run, prev := s.pwr.dev, start := none, estFormed := false, peak := 0, endedInFault := bad
                              fault := if bad then setBit t.pwr.fault 6 true else t.pwr.fault }
          pins := { t.pins with alertLow := t.pins.alertLow || bad } }
        let t2 := if bad then
            ((t1.resetEngines).dlog 1 1 (BitVec.ofNat 32 t1.pwr.faultWord) 0).devVec 0
          else { t1 with lcs := { t1.lcs with retiring := t1.lcs.active == .retired && decide (t1.lcs.retireNext < 4112)
                                              retireAt := t1.lcs.retireNext } }
        t2.raiseIrq.sendLtr.tellRelease)

/-- PERST_N_ASSERT: a start or a dry-down is abandoned and the main domain reset; PWR_STATE.STATE does not change (R83, R88,
R119). A record that was not yet verified does not count as committed (R126). -/
def execPerstNAssert (cut : PowerCut) (s : State) : Host.Outcome State Fault Refusal :=
  .next (if !s.pins.perstHigh ∨ !s.islandUp then s
    else
      let t : State := { s with pins := { s.pins with perstHigh := false } }
      if s.pwr.dev = .off ∨ (s.pwr.dev = .sentry ∧ s.pwr.start.isNone) then t
      else
        let u := (t.applyCut { cut with torn := false }).resetMain
        if s.bist.dry = some .committed then
          { u with bist := { u.bist with record := u.bist.record.map (fun (r : DryRecord) => { r with state := 0x00 }) } }
        else u)

end Sys2Proof.Machine
end

