-- ==== Sys2Proof/Machine/HostEvents.lean ====
section
/-! DEFINITION. What the host and the link partner do beside register and doorbell accesses: misbehaviour, resets, bus
mastering, power management, interrupts unmasked, reads completed and credits returned (chapter 12). -/

namespace Sys2Proof.Machine

/-! ### Misbehaviour (R305, R322, Table 12-7) -/

/-- BAR0_BAD_SIZE_ACCESS: a read completes with Completer Abort, a write is discarded; both are logged (R305). -/
def execBar0BadSizeAccess (func : Fin 16) (isRead : Bool) (tlp : Tlp) (s : State) : Host.Outcome State Fault Refusal :=
  .next (if !s.hostUp then s
    else if !s.decodes func.val then s.noBar func.val isRead (some tlp)
    else (if isRead then s.emit .ca else s).misbehave 0x05 2 func.val tlp)

/-- MALFORMED_TLP. -/
def execMalformedTlp (tlp : Tlp) (s : State) : Host.Outcome State Fault Refusal := .next (s.misbehave 0x01 0 0 tlp)

/-- POISONED_WRITE: a write that no BAR takes is an unsupported request before it is a poisoned one. -/
def execPoisonedWrite (func : Fin 16) (tlp : Tlp) (s : State) : Host.Outcome State Fault Refusal :=
  .next (if s.hostUp ∧ !s.decodes func.val then s.noBar func.val false (some tlp) else s.misbehave 0x02 0 func.val tlp)

/-- ECRC_MISMATCH, where checking is enabled (R294); otherwise the check word is not looked at, and the TLP acts as what it
carries does, by its own row. -/
def execEcrcMismatch (tlp : Tlp) (s : State) : Host.Outcome State Fault Refusal :=
  .next (if s.hif.ecrcCheck then s.misbehave 0x03 0 0 tlp else s)

/-- UNSUPPORTED_REQUEST. -/
def execUnsupportedRequest (func : Fin 16) (tlp : Tlp) (s : State) : Host.Outcome State Fault Refusal :=
  .next (if !s.hostUp then s else s.noBar func.val true (some tlp))

/-- UNEXPECTED_COMPLETION. -/
def execUnexpectedCompletion (tlp : Tlp) (s : State) : Host.Outcome State Fault Refusal := .next (s.misbehave 0x09 0 0 tlp)

/-- A command's own data read failed with KIND `kind`: it ends ACCESS_DENIED, and a stream's segment ends at that unit
(Table 12-7, R433). -/
def State.commandReadFailed (s : State) (c : Cmd) (kind : Nat) : State :=
  if c.held.isSome then s
  else match c.body with
    | .graphLoad _ _ _ _ _ => (s.readFailed c.ring kind).finish c.cid endRead
    | .imageOpen _ _ => (s.readFailed c.ring kind).finish c.cid endRead
    | .verify _ _ _ _ _ _ => (s.readFailed c.ring kind).finish c.cid endRead
    | .run r => match s.graph? r.handle with
      | none => s
      | some g =>
        if (unreadPort g r r.readPorts).isNone then s
        else
          let t := s.readFailed c.ring kind
          if r.begun then t.endRun c.cid g r true endRead else t.finish c.cid endRead
    | .segment => match s.str.s.findIdx? (fun x => x.segs.any (fun g => g.cid == c.cid && decide (0 < g.asked))) with
      | none => s
      | some i => ((s.readFailed c.ring kind).updSegment i c.cid (fun y => { y with asked := 0, readFail := true })).pump i
    | _ => s

/-- COMPLETION_TIMEOUT, which the host may disable (R294): a ring or list fetch halts its ring, a command's read fails its
command. -/
def execCompletionTimeout (src : ReadSrc) (s : State) : Host.Outcome State Fault Refusal :=
  .next (if s.hif.toDisable then s else match src with
    | .ring g => if (s.ring g.val).fetching = 0 then s else s.fetchFailed g.val 0x0A 1 (s.ring g.val).fetchAddr
    | .list g => match (s.ring g.val).lists with
      | c :: _ => if c.issued && !c.fetched then s.fetchFailed g.val 0x0A 1 c.addr else s
      | [] => s
    | .cmd cid => match s.cmd? cid with
      | some c => s.commandReadFailed c 0x0A
      | none => s)

/-- DATA_READ_COMPLETION: the host data of a run or an image arrives (R346, R400). -/
def execDataReadCompletion (cid : Nat) (result : ReadResult) (s : State) : Host.Outcome State Fault Refusal :=
  .next (match s.cmd? cid with
    | none => s
    | some c =>
      if c.held.isSome then s
      else match c.body with
        | .run r => s.inputRead c r result
        | .imageOpen addr len => s.imageRead c addr len result
        | _ => s)

/-! ### Interrupts that waited (R309, R315) -/

/-- Pending messages of a function sent, where its entries may send now. -/
def State.flushMsix (s : State) (f : Nat) : State :=
  s.hif.msix.foldl (fun t x =>
    if x.1 / 2048 == f && x.2.pending && !x.2.masked && t.hif.msixEn.getD f false && !t.hif.msixFm.getD f false && t.mayMaster f
    then (t.setMsixPending f (x.1 % 2048) false).post (.msi f (x.1 % 2048)) none none else t) s

/-- Pending messages of every function. -/
def State.flushAllMsix (s : State) : State := (List.range 16).foldl State.flushMsix s

/-- MSIX_UNMASK: an entry's mask bit, or with no entry the function mask, is cleared. -/
def execMsixUnmask (func : Fin 16) (entry : Option (Fin 1040)) (s : State) : Host.Outcome State Fault Refusal :=
  let f := func.val
  .next (if !s.hostUp then s
    else match entry with
      | none => ({ s with hif := { s.hif with msixFm := s.hif.msixFm.set f false } } : State).flushMsix f
      | some e =>
        if f ≠ 0 ∧ 960 ≤ e.val then s
        else
          let x : Msix := { s.msixEntry f e.val with masked := false }
          ({ s with hif := { s.hif with msix := Tab.set s.hif.msix (msixKey f e.val) x } } : State).flushMsix f)

/-! ### Resets (R318 to R320) -/

/-- The function that a posted write belongs to. -/
def Emit.func? : Emit → Option Nat
  | .record _ f _ _ => some f
  | .dma f _ _ => some f
  | .dmaRelaxed f _ _ => some f
  | .msi f _ => some f
  | _ => none

/-- A posted write dropped: what it held returns, a message stays pending (R309), and the drop of a command's result has its
one log entry (R314, R381). -/
def State.dropPost (s : State) (p : Posted) : State :=
  let t := match p.e with
    | .msi f e => s.setMsixPending f e true
    | _ => match p.src with
      | some (c, g) => s.dropResults (some c) g
      | none => s
  t.postDone p

/-- A ring after FLR of the function that owns it: every field 0 (R318, R323); the decoder's turn order is no field of it. -/
def Ring.flr (r : Ring) : Ring := { Ring.initial with turn := r.turn }

/-- R318 for one function. A graph whose load is still in flight is unloaded as soon as it is installed; the commands in flight
go on detached; the BARs do not decode until the reset completes, within 100 ms (log 43). The function's own configuration
registers take their defaults (PRESUMED, log 43). -/
def State.flrFunction (s : State) (f : Nat) : State :=
  let u := (List.range 1024).foldl (fun u g => if u.ringFunc g == f && (u.ring g).en then u.disableRing g else u) s
  let u1 := (u.postQ.filter (fun p => p.e.func? == some f)).foldl State.dropPost
    { u with postQ := u.postQ.filter (fun p => p.e.func? != some f) }
  let t : State := { u1 with rings := u1.rings.map (fun e => if u1.ringFunc e.1 = f then (e.1, e.2.flr) else e) }
  let t1 : State := { t with
    cmds := t.cmds.map (fun (c : Cmd) => if t.ringFunc c.ring = f then { c with detached := true } else c)
    graphs := t.graphs.map (fun (g : Graph) => if g.owner = f ∧ g.unload.isNone then { g with unload := some 0 } else g)
    wpe := { t.wpe with sessions := t.wpe.sessions.map (fun (x : Session) =>
      if x.func = f ∧ x.closing.isNone then { x with closing := some 0 } else x) }
    hif := { t.hif with msix := t.hif.msix.filter (fun x => x.1 / 2048 != f), coal := t.hif.coal.set f 0
                        msixEn := t.hif.msixEn.set f false, msixFm := t.hif.msixFm.set f false, bme := t.hif.bme.set f false
                        flrEnd := t.hif.flrEnd.set f (t.tmr.uptime + Config.flrTime t.free % 100001) }
    free := t.free + 1 }
  let opens := (t1.cmds.filter (fun c => t1.ringFunc c.ring == f && (match c.body with
    | .imageOpen _ _ => true
    | _ => false))).map (fun c => c.cid)
  ((opens.foldl (fun u c => u.finish c (endOf stCancelled 0)) t1).stopStreams (fun x => x.owner == f)).closeSessions 5

/-- The VFs reset by R318, and VF Enable cleared (R319). -/
def State.flrVfs (s : State) : State :=
  let t := ((List.range 15).map (fun i => i + 1)).foldl State.flrFunction s
  { t with hif := { t.hif with vfEn := false, vfMse := false } }

/-- Host-interface reset: every function's, and the HIF settings; the log and its counters survive it (R321). -/
def State.hifReset (s : State) : State :=
  let t := (s.flrVfs).flrFunction 0
  { t with hif := { t.hif with devEn := 0, devStat := 0, ltrFrame := 0x14, ltrRun := 0x64, ltrDoze := 0x3E8, l1Idle := 0x14
                               d3hot := false, mse := false, bars := List.replicate 5 0, mrrs := 512, relaxed := true
                               ecrcGen := false, ecrcCheck := false, toRange := 0, toDisable := false } }

/-- FLR: of the PF it resets every VF too (R318, R319). -/
def execFlr (func : Fin 16) (s : State) : Host.Outcome State Fault Refusal :=
  .next (if !s.hostUp then s
    else if func.val = 0 then s.hifReset
    else if s.hif.vfEn then s.flrFunction func.val else s)

/-- Posted writes that wait for credit are dropped with the link, and the edge credits they hold return (R381). -/
def State.dropPosts (s : State) : State :=
  s.postQ.foldl State.postDone { s with postQ := [], fc := none }

/-- What Hot Reset and DL_Down share (R320). -/
def State.linkReset (s : State) : State :=
  let t := s.hifReset.dropPosts
  { t with hif := { t.hif with inL1 := false, inL11 := false, inL12 := false, l23 := false, mps := 128, aspmL1 := false, pmeStatus := false } }

/-- HOT_RESET. -/
def execHotReset (s : State) : Host.Outcome State Fault Refusal := .next (if s.hostUp then s.linkReset else s)

/-- DL_DOWN. -/
def execDlDown (s : State) : Host.Outcome State Fault Refusal :=
  let t := if s.hostUp then s.linkReset else s
  .next { t with hif := { t.hif with up := false } }

/-! ### Bus mastering and power management (R312 to R315) -/

/-- Requests that waited until their function may master go out. -/
def State.resumeMaster (s : State) : State := s.fetchWork.releaseReads.flushAllMsix

/-- BUS_MASTER_ENABLE_CHANGE, of a function that is there. -/
def execBusMasterEnableChange (func : Fin 16) (on : Bool) (s : State) : Host.Outcome State Fault Refusal :=
  .next (if !s.hostUp ∨ (func.val ≠ 0 ∧ !s.hif.vfEn) then s
    else
      let t : State := { s with hif := { s.hif with bme := s.hif.bme.set func.val on } }
      if on then t.resumeMaster else t)

/-- POWERSTATE_D3HOT: every function stops fetching, device interrupts go as PMEs. -/
def execPowerstateD3hot (s : State) : Host.Outcome State Fault Refusal :=
  .next (if s.hostUp then { s with hif := { s.hif with d3hot := true } } else s)

/-- POWERSTATE_D0. -/
def execPowerstateD0 (s : State) : Host.Outcome State Fault Refusal :=
  .next (if s.hostUp then ({ s with hif := { s.hif with d3hot := false } } : State).resumeMaster else s)

/-- ASPM_L1_IDLE: L1 is requested where Table 12-5 has it, in RUN, ECONOMY and DOZE; `sub` names the substate that follows, 1
L1.1 and 2 L1.2, which DOZE alone has (R312). -/
def execAspmL1Idle (sub : Fin 3) (s : State) : Host.Outcome State Fault Refusal :=
  .next (if !s.hostUp ∨ !s.hif.aspmL1 ∨ !s.hif.up ∨ s.hif.inL1 ∨ !(s.pwr.dev == .run || s.pwr.dev == .economy || s.pwr.dev == .doze) then s
    else
      let doze := s.pwr.dev == .doze
      let l12 := doze && sub.val == 2
      ({ s with hif := { s.hif with inL1 := true, inL11 := doze && sub.val == 1, inL12 := l12
                                    l12 := if l12 then satInc 0xFFFF s.hif.l12 else s.hif.l12 } } : State).emit .l1Request)

/-! ### Configuration requests and the link (R115, R295, R298, R319) -/

/-- A base address as a BAR keeps it: aligned to the BAR's size, so that all ones read back as the size probe of R302; BAR4
keeps none where the life-cycle state in force implements no BAR4 (R303). -/
def State.barWrite (s : State) (i : Nat) (v : DWord) : State :=
  if i = 2 ∧ !s.lcs.active.debuggable then s
  else { s with hif := { s.hif with bars := s.hif.bars.set i (v &&& ~~~(BitVec.ofNat 64 (barSizes.getD i 1 - 1))) } }

/-- A released device's answer to a configuration request. -/
def State.configure (s : State) (req : CfgReq) : State :=
  let h := s.hif
  match req with
  | .read f r => s.emit (.data (leBytes 4 (s.readCfg f.val r).toNat))
  | .assign rid => { s with hif := { h with rid := rid } }
  | .vfEnable on => if on then { s with hif := { h with vfEn := true } } else if h.vfEn then s.flrVfs else s
  | .memorySpace on => { s with hif := { h with mse := on } }
  | .vfMemorySpace on => { s with hif := { h with vfMse := on } }
  | .bar i v => s.barWrite i.val v
  | .deviceControl p r relaxed => { s with hif := { h with
      mps := if p.val ≤ 2 then 128 * 2 ^ p.val else h.mps, mrrs := if r.val ≤ 5 then 128 * 2 ^ r.val else h.mrrs, relaxed := relaxed } }
  | .completionTimeout range disable => { s with hif := { h with toRange := range.val, toDisable := disable } }
  | .ecrc gen check => { s with hif := { h with ecrcGen := gen, ecrcCheck := check } }
  | .msixControl f enable mask =>
    State.flushMsix { s with hif := { h with msixEn := h.msixEn.set f.val enable, msixFm := h.msixFm.set f.val mask } } f.val
  | .aspmL1 on => { s with hif := { h with aspmL1 := on } }
  | .pmeStatusClear => { s with hif := { h with pmeStatus := false } }
  | .other => s

/-- The function that a configuration request addresses. -/
def cfgFunc : CfgReq → Nat
  | .read f _ => f.val
  | .msixControl f _ _ => f.val
  | _ => 0

/-- CONFIG_REQUEST: Retry Status between link-up and release, else completed (R57, R115, R127); a VF that does not exist answers
Unsupported Request (Table 12-7). -/
def execConfigRequest (req : CfgReq) (s : State) : Host.Outcome State Fault Refusal :=
  .next (if s.pins.role = .member then s
    else if s.pwr.start.isSome then (if s.hif.up then s.emit .cfgRetry else s)
    else if !s.hostUp then s
    else if cfgFunc req ≠ 0 ∧ !s.hif.vfEn then s.noBar (cfgFunc req) true none
    else (s.leaveL1.configure req).emit .cfgDone)

/-- The link's rates and widths (Table 12-1). -/
def linkLegal (speed width : Nat) : Bool :=
  decide (1 ≤ speed) && decide (speed ≤ 5) && (width == 1 || width == 2 || width == 4 || width == 8)

/-- Posted writes that wait go out while credit lasts, and return the edge credits they hold; one whose function may not master
by then is dropped (R314, R381, R386). -/
def State.drainPosts (fuel : Nat) (s : State) : State :=
  match fuel with
  | 0 => s
  | n + 1 => match s.fc, s.postQ with
    | some 0, _ => s
    | _, [] => s
    | f, p :: q =>
      State.drainPosts n (if p.e.func?.any (fun f => !s.mayMaster f) then ({ s with postQ := q } : State).dropPost p
        else (({ s with postQ := q, fc := f.map (fun k => k - 1) } : State).leaveL1.emit p.e).postDone p)

/-- LINK_UP: the link has trained to L0 (R295). A link that was up has been through Recovery. -/
def execLinkUp (speed width : Nat) (credits : Option Nat) (s : State) : Host.Outcome State Fault Refusal :=
  .next (if !linkLegal speed width ∨ s.pins.role = .member ∨ (!s.hostUp ∧ s.pwr.start.isNone) then s
    else
      let h := s.hif
      let t : State := { s with
        hif := { h with speed := speed, width := width, up := true, inL1 := false, inL11 := false, inL12 := false
                        recovery := if h.up && s.pwr.start.isNone then satInc 0xFFFF h.recovery else h.recovery }
        fc := if h.up then s.fc else credits }
      t.drainPosts (t.postQ.length + 1))

/-- FLOW_CONTROL_CREDIT_RETURN: the host returns `n` posted credits (R386). -/
def execFlowControlCreditReturn (n : Nat) (s : State) : Host.Outcome State Fault Refusal :=
  .next (match s.fc with
    | none => s
    | some k => ({ s with fc := some (k + n) } : State).drainPosts (s.postQ.length + 1))

end Sys2Proof.Machine
end

