-- ==== Sys2Proof/Machine/Mirror.lean ====
section
/-! DEFINITION. Mirrored pairs: MIRROR_CONTROL, snapshots, acknowledgements, suspension, failover and its report on the
master; the records a standby applies; the work a member receives from the master (R463, R467 to R482). -/

namespace Sys2Proof.Machine

/-! ### The log of the ports -/

/-- CSC_PORTn_ERR. -/
def CascPort.errWord (p : CascPort) : Nat := p.frameErr + 65536 * p.retrains

/-- An event of a port in the device log: 1 frame discarded, 2 retrain, 3 port DOWN, 4 message discarded (Table 19-10). -/
def State.portLog (s : State) (up : Bool) (event : Nat) : State :=
  s.dlog 5 event (if up then 0 else 1) (BitVec.ofNat 64 (s.port up).errWord)

/-- A link-management message discarded (Table 18-10). -/
def State.mgmtBad (s : State) (up : Bool) : State :=
  ({ s with casc := { s.casc with mgmtBad := satInc 0xFFFF s.casc.mgmtBad } }).portLog up 4

/-- A case of Table 18-10 for which Table 19-10 names no event: which of the four is logged is a free value (log 9). -/
def State.portLogFree (s : State) (up : Bool) : State :=
  ({ s with free := s.free + 1 }).portLog up (1 + (Config.freeInt s.free).toNat % 4)

/-! ### The chain as the master knows it -/

/-- A chain table entry changed. -/
def State.updMember (s : State) (d : Nat) (f : Member → Member) : State :=
  { s with casc := { s.casc with chain := s.casc.chain.modify d f } }

/-- Chain table entry of a device number. -/
def State.member (s : State) (d : Nat) : Member := s.casc.chain.getD d (Member.absent d)

/-- Index of the pair a device belongs to (R467); a pending active device counts for OP 0 alone. -/
def State.pairIdx (s : State) (d : Nat) (pendingToo : Bool) : Option Nat :=
  (List.range 3).find? (fun k =>
    let p := s.pair k
    (decide (2 ≤ p.state) && (p.active == d || p.standby == d)) || (pendingToo && p.state == 1 && p.active == d))

/-- A message sent to a device of the chain over link management, if it is routed to. -/
def State.tell (s : State) (d : Nat) (m : LinkMsg) : State :=
  if s.casc.route.getD d 3 = 3 then s else s.emit (.link (s.routesUp d) m)

/-- Routing table of device x in a chain of `len`, device numbers of `alias_` served elsewhere (R456, R478). -/
def routeTable (len x : Nat) (alias_ : Nat → Nat) : List Nat :=
  (List.range 8).map (fun d => if len ≤ d then 3 else if alias_ d = x then 0 else if alias_ d < x then 1 else 2)

/-- The device that serves a number. -/
def State.servedBy (s : State) (d : Nat) : Nat := if (s.member d).state = 5 then (s.member d).alias_ else d

/-- Routing tables written into every device of the chain (R456). -/
def State.writeRoutes (s : State) : State :=
  let len := s.casc.length
  let own := (routeTable len 0 s.servedBy).mapIdx (fun d r => if (s.member d).state = 3 then 3 else r)
  let t : State := { s with casc := { s.casc with route := own } }
  (List.range len).foldl (fun u x =>
    if x = 0 then u
    else u.emit (.link false (.route x (routeTable len x s.servedBy)
      ((List.range len).find? (fun d => d != x && s.servedBy d == x))))) t

/-! ### Suspension and snapshots (R473, R475, R476) -/

/-- The commands that wait on pair k itself end REFUSED_STATE. -/
def State.endWaits (s : State) (k : Nat) : State :=
  let p := s.pair k
  (p.snapCid.toList ++ p.failCid.toList).foldl (fun t c => t.finish c endState)
    (s.updPair k (fun p => { p with snapCid := none, failCid := none }))

/-- Pair k is suspended: it emits no records, and what waited for it goes on (R476). -/
def State.suspend (s : State) (k : Nat) : State :=
  let p := s.pair k
  let s1 := s.updPair k (fun p => { p with state := 4, window := [], queue := [] })
  let s2 := (s1.dlog 6 1 (BitVec.ofNat 32 k) (BitVec.ofNat 64 (p.acked - 1))).devVec 5
  (s2.endWaits k).releaseHeld (s2.cmds.length + 1)

/-- The settings and the delay-edge state of a mirrored graph, as a snapshot carries them: one GRAPH_SETTING for each
layer, one RUN_STATE where the graph has delay edges (R473, Table 18-5). -/
def Graph.settingParts (g : Graph) : List (Nat × List Byte × Option (Nat × Nat)) :=
  let layers := (g.cgd.places.map (fun p => p.layer)).eraseDups
  layers.map (fun l =>
    (0x12, settingPayload l ((((g.cgd.places.zip g.theta).find? (fun x => x.1.layer == l)).map (fun x => x.2)).getD 0) g.exact, none))

/-- The snapshot of pair k put into its queue, for a MIRROR_CONTROL of a ring and tag (R473). -/
def State.snapshot (s : State) (k ring tag : Nat) : State :=
  let one (t : State) (h seq : Nat) (parts : List (Nat × List Byte × Option (Nat × Nat))) : State :=
    t.mirrorPush k ring tag 0x54 h seq parts true true
  let graphs := s.graphs.filter (fun g => g.devs.contains (s.pair k).active)
  let s1 := one s 0 0 [(0x01, [], none)]
  let s2 := graphs.foldl (fun t g =>
    let last := (g.nextSeq + 65535) % 65536
    let t1 := one t g.handle 0 (loadRecords g.raw)
    let t2 := g.settingParts.foldl (fun u p => one u g.handle 0 [p]) t1
    one t2 g.handle last (t.runRecords g last)) s1
  one s2 0 0 [(0x02, [], none)]

/-! ### Failover (R477 to R482) -/

/-- An admitted command has an effect on a device, and may still write its record. -/
def State.touchesDev (s : State) (c : Cmd) (k dev : Nat) : Bool :=
  c.mir.any (fun m => m.1 == k) || (match c.body with
    | .run r => (s.graph? r.handle).any (fun g => g.devs.contains dev)
    | .graphUnload h => (s.graph? h).any (fun g => g.devs.contains dev)
    | _ => false)

/-- One 16-byte entry of the failover report (Table 18-9). -/
def reportEntry (kind status ring tag opcode seq basin : Nat) : List Byte :=
  leBytes 1 kind ++ leBytes 1 status ++ leBytes 2 ring ++ leBytes 2 tag ++ leBytes 1 opcode ++ leBytes 1 0 ++
  leBytes 6 seq ++ leBytes 2 basin

/-- First of the records with each key. -/
def firstBy {α : Type} [DecidableEq α] (key : MirOut → Option α) : List MirOut → List MirOut
  | [] => []
  | m :: l => match key m with
    | none => firstBy key l
    | some x => m :: (firstBy key l).filter (fun y => key y != some x)

/-- Entries of the report: commands whose completion was written though some record was not applied, and basins of
cell operations that are incomplete (R478, R481). -/
def State.reportEntries (s : State) (lost : List MirOut) : List (List Byte) :=
  let pending (m : MirOut) : Bool := s.cmds.any (fun c => c.ring == m.ring && c.tag == m.tag && c.opcode == m.opcode)
  let cmds := firstBy (fun m => if pending m then none else some (m.ring, m.tag, m.opcode)) lost
  let cells := firstBy (fun m => m.basin) lost
  (cmds.map (fun m => reportEntry 1 0x50 m.ring m.tag m.opcode m.seq 0) ++
   cells.map (fun m => reportEntry 2 0x32 m.ring m.tag m.opcode m.seq
     (((m.basin.map (fun b => b.1 % 128 + 128 * (b.2 % 64)))).getD 0))).take 254

/-- The failover report (Tables 18-8, 18-9), padded to its 4 KiB. When the standby served, within 200 µs of the
decision, is a free value (log 9). -/
def State.failReport (s : State) (p : Pair) (cause : Nat) (entries : List (List Byte)) : List Byte :=
  let served := s.now48 + (Config.freeInt s.free).toNat % 201
  let b := leBytes 2 1 ++ leBytes 2 entries.length ++ leBytes 1 p.active ++ leBytes 1 p.standby ++ leBytes 1 cause ++
    leBytes 1 (b2n p.async) ++ leBytes 6 (p.acked - 1) ++ leBytes 2 0 ++ leBytes 6 s.now48 ++ leBytes 6 (served % 2 ^ 48) ++
    leBytes 4 0 ++ entries.flatten
  b ++ List.replicate (4096 - b.length) 0

/-- An admitted command ends with an outcome that is not its own: a begun run clears what it left. -/
def State.abortCmd (s : State) (c : Cmd) (e : End) : State :=
  let s0 := s.updCmd c.cid (fun y => { y with mir := [], held := none })
  match c.body with
  | .run r => match s.graph? r.handle with
    | some g => if r.begun && c.held.isNone then s0.endRun c.cid g r true e else s0.finish c.cid e
    | none => s0.finish c.cid e
  | .graphUnload h => (s0.updGraph h (fun g => { g with unload := none })).finish c.cid e
  | _ => s0.finish c.cid e

/-- The pair fails over: the active device's number is routed to the standby, commands with an effect on it end
UNCERTAIN_REPLAY, the report is written (R478, R479). CAUSE 1 heartbeats lost, 2 OP 3. -/
def State.failover (s : State) (k cause : Nat) : State :=
  let p := s.pair k
  let lost := p.window ++ p.queue
  let s1 := (s.updPair k (fun p => { p with state := 5, window := [], queue := [], key := none, failCid := none })).updMember
    p.active (fun m => { m with state := 5, alias_ := p.standby })
  let s2 := s1.writeRoutes
  let entries := s.reportEntries lost
  let victims := s2.cmds.filter (fun c => s2.touchesDev c k p.active)
  let s3 := victims.foldl (fun t c => t.abortCmd c (endOf stUncertain 0)) s2
  let s4 : State := { s3 with free := s3.free + 1, casc := { s3.casc with repValid := true, report := s.failReport p cause entries } }
  (s4.dlog 6 2 (BitVec.ofNat 32 k) (BitVec.ofNat 64 (p.acked - 1))).devVec 5

/-- An OP 3 whose pair is drained: no admitted command is mirrored on it and no record is unacknowledged (R479). -/
def State.drainFailover (s : State) (k : Nat) : State :=
  let p := s.pair k
  match p.failCid with
  | none => s
  | some c =>
    if p.state = 3 ∧ p.window.isEmpty ∧ p.queue.isEmpty ∧ !s.cmds.any (fun x => s.touchesDev x k p.active || x.opcode == 0x10)
    then (s.failover k 2).finish c endDone
    else s

/-! ### MIRROR_CONTROL (R472, Table 18-6) -/

/-- PEER may join a pair: a serving member that belongs to none. -/
def State.mayPair (s : State) (peer : Nat) : Bool :=
  s.pins.role == .master && peer != 0 && (s.member peer).state == 2 && (s.pairIdx peer false).isNone

/-- The basins of the loaded graphs on a device, by terrace and slot, in table order. -/
def State.mirroredCells (s : State) (dev : Nat) : List (Nat × Nat) :=
  (s.graphs.flatMap (fun g => g.cgd.places.flatMap (fun p => if p.dev = dev then p.members.map (fun m => m.2) else []))).eraseDups

/-- The slot of the active device that PEER cannot take (Table 18-6). Whether PEER has a VALID basin with the tag in a
slot is a fact of PEER, which the active device reads over the link: a free value for each slot (log 9). Lines that are
taken name their terrace and no slot (log 23). -/
def State.pairConflict (s : State) (active peer : Nat) : Option Nat :=
  let theirs := s.mirroredCells peer
  let cell := ((s.mirroredCells active).mapIdx (fun i c => (i, c))).find? (fun e =>
    theirs.contains e.2 || !Config.freeBool (s.free + 1 + e.1))
  let slots := s.graphs.flatMap (fun g => g.slots)
  let line := (slots.filter (fun x => x.dev == active)).find? (fun x =>
    slots.any (fun y => y.dev == peer && y.ter == x.ter && y.bank == x.bank && decide (x.line0 < y.line0 + y.span) &&
      decide (y.line0 < x.line0 + x.span)))
  match cell with
  | some e => some (basinWord e.2.1 peer (some e.2.2))
  | none => line.map (fun x => basinWord x.ter peer none)

/-- A frame window of a mirrored graph does not hold the synchronous allowance. -/
def State.syncTooShort (s : State) (active : Nat) : Bool :=
  s.graphs.any (fun g => g.devs.contains active && g.frame.any (fun f =>
    decide (1000 * f.2 < s.wcOf g.cgd + s.slc.xallow + s.casc.syncAllow)))

/-- OP 2: how it is refused (Table 18-6, R518). Whether the active device has a basin in PROGRAMMING is its own fact. -/
def State.pairRefusal (s : State) (peer : Nat) : Option End :=
  match s.casc.pendAct with
  | none => some endState
  | some (a, async) =>
    if a = peer then some endState
    else if Config.freeBool s.free then some endState
    else match s.pairConflict a peer with
      | some w => some (endOf stState w)
      | none =>
        if !async && s.syncTooShort a then some (endOf stCapacity 0)
        else if !(Config.peerCertified (leBytes 8 (s.member a).uid.toNat) peer &&
            Config.peerCertified (leBytes 8 (s.member peer).uid.toNat) a) then some (endAccess 5)
        else none

/-- Pair k formed by OP 2 as command `cid`: both members are told, the standby is given the slots of the mirrored graphs,
and the snapshot begins (R473). -/
def State.formPair (s : State) (k cid ring tag a peer : Nat) (async : Bool) : State :=
  let ua := (s.member a).uid
  let us := (s.member peer).uid
  let key := Config.pairKey ua.toNat us.toNat s.free
  let np : Pair := { Pair.initial with active := a, standby := peer, async := async, state := 2, key := some key, snapCid := some cid }
  let w : Work := .pair k a peer async ua us s.free
  let s1 := ({ s with casc := { s.casc with pendAct := none } }).updPair k (fun _ => np)
  let s2 := (s1.tell peer (.work peer ring tag 0x54 w)).tell a (.work a ring tag 0x54 w)
  let s3 := (s.graphs.filter (fun g => g.devs.contains a)).foldl (fun t g =>
    t.tell peer (.work peer ring tag 0x54 (.load g.handle [] g.numbers g.frame.isSome))) s2
  ({ s3 with free := s3.free + 1 }).snapshot k ring tag

/-- MIRROR_CONTROL (R472, R473, R476, R479). -/
def execMirrorControl (ring : Fin 1024) (s : State) : Host.Outcome State Fault Refusal :=
  let g := ring.val
  .next (s.onHead g 0x54 false (fun p =>
    let op := par p 0x10 1
    let async := par p 0x11 1 == 1
    let peer := par p 0x12 1
    match op with
    | 0 => match s.pairIdx peer true with
      | none => s.refuse g p endState
      | some k =>
        let pr := s.pair k
        s.completeWith g p (fun t =>
          let t1 := if pr.state = 1 then { t with casc := { t.casc with pendAct := none } }
            else (t.tell pr.standby (.work pr.standby g (pktTag p) 0x54 (.unpair k))).tell pr.active
              (.work pr.active g (pktTag p) 0x54 (.unpair k))
          let t2 := (t1.endWaits k).updPair k (fun _ => Pair.initial)
          t2.releaseHeld (t2.cmds.length + 1)) endDone
    | 1 =>
      if !s.mayPair peer then s.refuse g p endState
      else s.completeWith g p (fun t =>
        let clean : List Pair := t.casc.pairs.map (fun (x : Pair) => if x.state = 1 then Pair.initial else x)
        let np : Pair := { Pair.initial with active := peer, async := async, state := 1 }
        let pairs := match clean.findIdx? (fun x => x.state == 0) with
          | some k => clean.set k np
          | none => clean
        { t with casc := { t.casc with pendAct := some (peer, async), pairs := pairs } }) endDone
    | 2 =>
      if !s.mayPair peer then s.refuse g p endState
      else match s.pairRefusal peer, s.casc.pendAct with
        | some e, _ => ({ s with free := s.free + 1 + (s.mirroredCells ((s.casc.pendAct.map (fun (x : Nat × Bool) => x.1)).getD 0)).length }).refuse g p e
        | none, none => s.refuse g p endState
        | none, some (a, mode) =>
          let k := (s.casc.pairs.findIdx? (fun x => x.state == 1)).getD 0
          let n := 1 + (s.mirroredCells a).length
          let t := ({ s with free := s.free + n }).accept g p (.mirror 2 (b2n mode) peer) none 0
          (t.formPair k s.nextCid g (pktTag p) a peer mode).settle g
    | _ => match (List.range 3).find? (fun k => (s.pair k).state == 3 && (s.pair k).active == peer) with
      | none => s.refuse g p endState
      | some k =>
        let t := (s.accept g p (.mirror 3 0 peer) none 0).updPair k (fun x => { x with failCid := some s.nextCid })
        (t.drainFailover k).settle g))

/-! ### Acknowledgements (R470, R474, R475) -/

/-- Records of pair k acknowledged through `seq`: the window advances, and commands that waited for it end. -/
def State.ackPair (s : State) (k seq : Nat) : State :=
  let p := s.pair k
  if (p.state = 2 ∨ p.state = 3) ∧ p.acked ≤ seq ∧ seq < p.emitted then
    let s1 := (s.updPair k (fun p => { p with acked := seq + 1, window := p.window.filter (fun m => decide (seq < m.seq)) })).mirrorPump 128 k
    (s1.releaseHeld (s1.cmds.length + 1)).drainFailover k
  else s

/-- MIRROR_ACK_RX. -/
def execMirrorAckRx (pair : Fin 3) (seq : Nat) (s : State) : Host.Outcome State Fault Refusal := .next (s.ackPair pair.val seq)

/-- SNAPSHOT_END_ACK: the pair is MIRRORING and OP 2 completes (R473). -/
def execSnapshotEndAck (pair : Fin 3) (s : State) : Host.Outcome State Fault Refusal :=
  let k := pair.val
  .next (match (s.pair k).window.find? (fun m => m.typ == 0x02) with
    | none => s
    | some m =>
      let p := s.pair k
      if p.state ≠ 2 then s
      else
        let s1 := (s.ackPair k m.seq).updPair k (fun p => { p with state := 3, snapCid := none })
        match p.snapCid with
        | some c => s1.finish c endDone
        | none => s1)

/-- MIRROR_ACK_TIMEOUT: 2 ms without an acknowledgement suspend the pair (R387, R475). -/
def execMirrorAckTimeout (pair : Fin 3) (s : State) : Host.Outcome State Fault Refusal :=
  let p := s.pair pair.val
  .next (if (p.state = 2 ∨ p.state = 3) ∧ !p.window.isEmpty then s.suspend pair.val else s)

/-- MIRROR_RESEND_REQUEST: the active device sends the unacknowledged records again from a sequence number (R470). -/
def execMirrorResendRequest (pair : Fin 3) (seq : Nat) (s : State) : Host.Outcome State Fault Refusal :=
  let k := pair.val
  let p := s.pair k
  .next (if s.me = p.active ∧ s.pins.role = .member ∧ (p.state = 2 ∨ p.state = 3) ∧ !s.casc.fenced then
      (p.window.filter (fun m => decide (seq ≤ m.seq))).foldl (fun t m =>
        t.emit (.link (t.routesUp p.standby) (.mirror (m.bytes k (p.key.getD []))))) s
    else s)

/-! ### The standby: applying records (R470, R471) -/

/-- Slots of a shadow: as the master numbered them, or, where it sent no numbers, chosen as GRAPH_LOAD chooses (log 23). -/
def State.shadowSlots (s : State) (c : Cgd) (h active : Nat) : Option (List Slot) × State :=
  match Tab.get? s.casc.numbering h with
  | some ns =>
    (some ((c.slots.zip ns).mapIdx (fun i e =>
      ({ num := e.2.1, dev := e.1.dev, ter := e.1.ter, isOut := e.1.isOut, bank := e.2.2.1, line0 := e.2.2.2, lines := e.1.lines
         bufs := c.freshBufs i e.1 } : Slot))), s)
  | none =>
    let here := c.slots.map (fun (x : SlotRec) => if x.dev = active then { x with dev := s.me } else x)
    match s.placeSlots c s.reservedSlots here with
    | (.ok l, t) => (some ((l.zip c.slots).map (fun e => { e.1 with dev := e.2.dev })), t)
    | (.error _, t) => (none, t)

/-- Basins a placement of the active device takes on this standby: in the same slots, VALID, with its tags, and free. -/
def State.shadowBind (s : State) (p : Placement) : Option (List Nat) :=
  match s.bind p with
  | none => none
  | some l => if setFits p l && (s.memberStatus p l).isNone && !l.any (fun n => s.basinInGraph n) then some l else none

/-- Delay-edge segments of the buffers that serve run 0 written with 0, for the slots of a device (R261). -/
def State.zeroSegments (s : State) (g : Graph) (dev : Nat) : State :=
  g.cgd.edges.foldl (fun t e => match g.slots[e.dst]? with
    | some x => if e.delay ∧ !e.toPort ∧ x.dev = dev then
        { t with cistern := Memory.writeN t.cistern (x.addr 0 + 32 * e.halfOff) (List.replicate (32 * ceilDiv e.colCount 32) 0) }
      else t
    | none => t) s

/-- A GRAPH_LOAD record complete: its shadow, or none where the standby cannot hold it (R471). -/
def State.loadShadow (s : State) (h active : Nat) (raw : List Byte) : Option State :=
  if (cgdStatic raw raw.length).isSome then none
  else
    let c := parseCgd raw
    match c.places.mapM (fun p => if p.dev = active then s.shadowBind p else some []), s.shadowSlots c h active with
    | some phys, (some slots, t) =>
      let g : Graph := { newGraph raw c h 0 0 phys slots none with bound := t.casc.boundShadows.contains h }
      let u := t.zeroSegments g active
      some { u with casc := { u.casc with shadows := u.casc.shadows ++ [g], gather := [] } }
    | _, _ => none

/-- A shadow changed. -/
def State.updShadow (s : State) (h : Nat) (f : Graph → Graph) : State :=
  { s with casc := { s.casc with shadows := s.casc.shadows.map (fun g => if g.handle == h then f g else g) } }

/-- Scoreboard and buffers of a graph set so that run `seq` is its next (R478). -/
def Graph.align (g : Graph) (seq : Nat) : Graph :=
  { g with nextSeq := seq
           score := (g.cgd.places.zip g.score).map (fun e =>
             let nb (i : Nat) : Nat := max 1 (((g.slots[i]?).map (fun x => x.bufs.length)).getD 1)
             { e.2 with runSeq := seq, nextIn := seq % nb e.1.inSlot, nextOut := seq % nb e.1.outSlot }) }

/-- Delay-edge segments of a RUN_STATE payload written into the buffers of run `seq` (Table 18-5). -/
def State.putSegments (fuel : Nat) (s : State) (g : Graph) (seq : Nat) (b : List Byte) : State :=
  match fuel, b with
  | 0, _ => s
  | _, [] => s
  | n + 1, b =>
    let cnt := fieldAt b 3 1
    let s1 := match g.slots[fieldAt b 0 2]? with
      | some x => { s with cistern := Memory.writeN s.cistern (x.addr (seq % max 1 x.bufs.length) + 32 * fieldAt b 2 1)
                                        (sliceAt b 4 (32 * cnt)) }
      | none => s
    State.putSegments n s1 g seq (b.drop (4 + 32 * cnt))

/-- Fields of a received mirror record. -/
def recField (b : List Byte) (off n : Nat) : Nat := fieldAt b off n

/-- Payload of a record in clear: PROGRAM_BATCH rows are opened under the pair key, none where that fails (R519). -/
def State.recPayload (s : State) (k : Nat) (b : List Byte) : Option (List Byte) :=
  let pay := sliceAt b 0x20 (recField b 6 2)
  if recField b 8 1 ≠ 0x20 then some pay
  else (Config.gcmOpen ((s.pair k).key.getD []) (mirNonce (recField b 0 6) k) (b.take 0x20) (pay.drop batchClear)).map
    (fun rows => pay.take batchClear ++ rows)

/-- The cell operation of a record begins or ends on a standby's basin (R478). -/
def State.openCell (s : State) (n : Nat) (last : Bool) : State :=
  { s with casc := { s.casc with openCells := if last then s.casc.openCells.filter (fun x => x != n)
                                              else if s.casc.openCells.contains n then s.casc.openCells else s.casc.openCells ++ [n] } }

/-- Wear of an erased basin of the standby counted. -/
def State.eraseCell (s : State) (n ter slot : Nat) : State := (s.tunnel n).countWear n ter slot

/-- Shadows given up but for those to keep: their slots are free again (R95, R471). -/
def State.dropShadows (s : State) (keep : Graph → Bool) : State :=
  let gone := s.casc.shadows.filter (fun g => !keep g)
  ({ s with casc := { s.casc with shadows := s.casc.shadows.filter keep } } : State).dropBanks
    ((gone.flatMap (fun g => g.slots.map (fun x => x.ter))).eraseDups)

/-- Nothing of a mirroring is left on the standby. -/
def State.closeShadows (s : State) : State :=
  { s with casc := { s.casc with gather := [], openCells := [], numbering := [], boundShadows := [] } }

/-- One record's rows of a batch programmed on the standby, by the rules of the cell operation itself: none where it cannot be,
as on a basin that may not be programmed or with a cell above its target (R407, R470, R471). -/
def State.applyRows (s : State) (pay : List Byte) (last : Bool) : Option State :=
  let ter := fieldAt pay 0 1
  let slot := fieldAt pay 1 1
  let first := fieldAt pay 2 2
  let count := fieldAt pay 4 1
  match s.cellBasin ter slot with
  | .error _ => none
  | .ok n =>
    let rows := (List.range count).map (fun i => (first + i, sliceAt pay (batchClear + 512 * i) 512))
    if (s.dirtyEnd n ter slot).isSome ∨ !s.rowsAll n rows (fun w t => !cellHigh w t) then none
    else
      let s1 := ((s.cellTerrace ter).updBasin n (fun b => { b with wstate := .programming, tag := 0, cause := 0 })).journalOpen
        { erase := false, ter := ter, slot := slot, basin := n, firstRow := first, count := count, done := 0, sound := true }
      let s2 := (s1.programRows n rows none).updBasin n (fun b => b.programRefs (rows.map (fun r => r.1)) last)
      some (s2.journalClose.openCell n last)

/-- The record is the last of its batch of 16 rows, which travels as 7, 7 and 2, or of its command: the batch is acknowledged with
it (R470). -/
def batchEnds (typ : Nat) (last : Bool) (pay : List Byte) : Bool := typ != 0x20 || last || decide (fieldAt pay 4 1 < 7)

/-- A record applied, in order: none where the standby cannot (R470, R471). -/
def State.applyRecord (s : State) (k typ h seq : Nat) (first last : Bool) (pay : List Byte) : Option State :=
  let active := (s.pair k).active
  let acc := (if first then [] else s.casc.gather) ++ pay
  let shadow := s.casc.shadows.find? (fun g => g.handle == h)
  let cell := s.physOf (fieldAt pay 0 1) (fieldAt pay 1 1)
  match typ with
  | 0x01 => let t := s.dropShadows (fun _ => false)
    some { t with casc := { t.casc with gather := [], openCells := [] } }
  | 0x02 => some (s.updPair k (fun p => { p with state := 3 }))
  | 0x10 => if last then s.loadShadow h active acc else some { s with casc := { s.casc with gather := acc } }
  | 0x11 => shadow.map (fun _ => s.dropShadows (fun g => g.handle != h))
  | 0x12 => shadow.map (fun _ => s.updShadow h (fun g =>
      { g.setTheta (fieldAt pay 0 2) (fieldAt pay 2 1) with exact := fieldAt pay 3 1 == 1 }))
  | 0x13 => shadow.map (fun g =>
      if last then ((s.putSegments 65536 g ((seq + 1) % 65536) acc).updShadow h (fun x => x.align ((seq + 1) % 65536)))
      else { s with casc := { s.casc with gather := acc } })
  | 0x14 => shadow.map (fun _ => s.updShadow h (fun x => x.align ((seq + 1) % 65536)))
  | 0x20 => s.applyRows pay last
  | 0x21 => cell.map (fun n =>
      let ter := fieldAt pay 0 1
      let slot := fieldAt pay 1 1
      let t := (s.cellTerrace ter).journalOpen { erase := true, ter := ter, slot := slot, basin := n, firstRow := 0, count := 1, done := 0, sound := true }
      ((t.eraseCell n ter slot).journalClose).openCell n last)
  | 0x22 => cell.map (fun n => (s.commitTag n (BitVec.ofNat 64 (fieldAt pay 2 8)) []).openCell n last)
  | _ => none

/-- A record cannot be taken: it is discarded and logged, and a resend asked for from the first that misses (R470, R483). -/
def State.askResend (s : State) (k next : Nat) : State :=
  (s.portLog (s.routesUp (s.pair k).active) 4).emit (.link (s.routesUp (s.pair k).active) (.mirrorResend k next))

/-- MIRROR_RECORD_RX: a standby checks, orders, applies and acknowledges a record (R469 to R471, Table 18-10). -/
def execMirrorRecordRx (bytes : List Byte) (s : State) : Host.Outcome State Fault Refusal :=
  let k := recField bytes 0xF 1
  let len := recField bytes 6 2
  let p := s.pair k
  let next := (((s.casc.applied[k]?).getD none).map (fun n => n + 1)).getD 0
  .next (if bytes.length < 36 then s
    else if !((p.state = 2 ∨ p.state = 3) ∧ k < 3 ∧ p.standby = s.me ∧ s.pins.role = .member) then
      s.mgmtBad true
    else if bytes.length ≠ 36 + len ∨ (crc32c (bytes.take (32 + len))).toNat ≠ fieldAt bytes (32 + len) 4 then
      s.askResend k next
    else if recField bytes 0 6 < next then s.emit (.link (s.routesUp p.active) (.mirrorAck k (next - 1)))
    else if next < recField bytes 0 6 then
      s.askResend k next
    else match s.recPayload k bytes with
      | none => s.askResend k next
      | some pay =>
        if recField bytes 8 1 = 0x20 ∧ !s.tankCovers (batchNeed (fieldAt pay 4 1)) then s.askResend k next
        else match s.applyRecord k (recField bytes 8 1) (recField bytes 0x10 2) (recField bytes 0x12 2)
            (bitAt (recField bytes 9 1) 0) (bitAt (recField bytes 9 1) 1) pay with
        | none => s.updPair k (fun p => { p with state := 4 })
        | some t =>
          let u : State := { t with casc := { t.casc with applied := t.casc.applied.set k (some next) } }
          if batchEnds (recField bytes 8 1) (bitAt (recField bytes 9 1) 1) pay then
            u.emit (.link (t.routesUp p.active) (.mirrorAck k next))
          else u)

/-- The standby serves for the old active device: shadows become loaded graphs, incomplete cell operations leave their
basins DIRTY with cause TARGET (R478). -/
def State.takeOver (s : State) (old : Nat) : State :=
  let s1 := s.casc.openCells.foldl (fun t n => t.makeDirty n 2) s
  let s2 : State := { s1 with
    graphs := s1.graphs ++ s1.casc.shadows
    casc := { s1.casc with alsoNum := some old, shadows := [], gather := [], openCells := []
                           pairs := s1.casc.pairs.map (fun (p : Pair) =>
                             if p.active = old ∧ p.standby = s.me ∧ 2 ≤ p.state then { p with state := 5, key := none } else p) } }
  s.casc.shadows.foldl (fun t g => ((t.fillDelay g.handle g.nextSeq g.nextSeq).needTerraces (t.graphTers g)).notePeak) s2

/-- ROUTING_TABLE_WRITE: a member takes its table; a number it is given besides its own makes it serve for it, and one
that takes its own number from it fences it (R456, R478, R480). -/
def execRoutingTableWrite (table : List Nat) (alsoNum : Option Nat) (s : State) : Host.Outcome State Fault Refusal :=
  .next (if s.pins.role ≠ .member ∨ !s.casc.numbered then s
    else
      let t : State := { s with casc := { s.casc with route := (List.range 8).map (fun d => table.getD d 3 % 4)
                                                      length := max 1 (table.filter (fun r => r != 3)).length
                                                      fenced := s.casc.fenced || table.getD s.casc.device 3 != 0 } }
      match alsoNum with
      | some old => if t.casc.fenced ∨ s.casc.alsoNum.isSome then t else t.takeOver old
      | none => t)

/-! ### Work from the master (R463) -/

/-- A command that a member carries for the master: the master's ring, tag and opcode, which mirror records name. -/
def State.carry (s : State) (ring tag opcode : Nat) (body : Body) : State :=
  let c : Cmd := { cid := s.nextCid, ring := ring, tag := tag, opcode := opcode, irqNow := false, parent := none
                   start := s.now48, deadline := none, evals := 0, skipped := 0, power := 0, detached := false
                   mir := [], held := none, body := body }
  { s with cmds := s.cmds ++ [c], nextCid := s.nextCid + 1 }

/-- Work that takes effect at once, with its mirror records. -/
def State.carryOut (s : State) (ring tag opcode h : Nat) (g : Graph) (parts : List (Nat × List Byte × Option (Nat × Nat)))
    (k : State → State) : State :=
  ((k (s.carry ring tag opcode .plain)).mirrorCmd s.nextCid g.devs h 0 (fun _ => parts) true true).finish s.nextCid endDone

/-- A run as a member carries it: begun, with the master's run sequence number. -/
def memberRun (h seq : Nat) (exact : Bool) (theta : List Nat) (now : Nat) : Run :=
  { handle := h, runSeq := seq, start := now, bound := now, window := none, theta := theta, exact := exact, bufs := []
    feeds := [], notBefore := 0, begun := true, doneP := [], doneT := [], fault := none, damaged := none, underrun := none
    readPorts := [], lateCause := 0, faultRing := none, behind := none, parts := [] }

/-- Delay-edge state of a graph moved to the buffers of run `seq`, where failover left a gap in the numbers (R478). -/
def State.realign (s : State) (g : Graph) (seq : Nat) : State :=
  if g.nextSeq = seq then s
  else
    let moved := g.cgd.edges.foldl (fun t e =>
      if !e.delay then t else match g.slots[e.dst]? with
        | some x =>
          let nb := max 1 x.bufs.length
          let n := 32 * ceilDiv e.colCount 32
          { t with cistern := Memory.writeN t.cistern (x.addr (seq % nb) + 32 * e.halfOff)
                                (Memory.readN t.cistern (x.addr (g.nextSeq % nb) + 32 * e.halfOff) n) }
        | none => t) s
    moved.updGraph g.handle (fun x => x.align seq)

/-- The master takes a member's report of its part of a run (R227, R253, log 23). -/
def State.takePart (s : State) (h seq : Nat) (devs : List Nat) (evals skipped : Nat) (fault : Option Nat) : State :=
  match s.runOf h seq with
  | none => s
  | some c => (s.updCmd c (fun x => { x with evals := x.evals + evals, skipped := x.skipped + skipped })).updRun c (fun r =>
      { r with parts := r.parts ++ devs, fault := r.fault.or fault })

/-- A run given up by the master: its part here is cleared, and ends if it still runs (R253, R262). -/
def State.cutRun (s : State) (h seq : Nat) (zero : Bool) : State :=
  let t := s.clearRun h seq zero
  match t.runOf h seq, t.graph? h with
  | some c, some g => match (t.cmd? c).map Cmd.body with
    | some (.run r) => t.endRun c g r false endDone
    | _ => t
  | _, _ => t

/-- MASTER_WORK_MESSAGE: a member does its part of the master's work (R463), and the master takes a member's report of it. -/
def execMasterWorkMessage (ring tag opcode : Nat) (work : Work) (s : State) : Host.Outcome State Fault Refusal :=
  .next (match s.pins.role, work with
    | .master, .part h seq devs evals skipped fault => s.takePart h seq devs evals skipped fault
    | _, _ =>
    if s.pins.role ≠ .member ∨ s.casc.fenced ∨ !s.casc.numbered ∨ !s.enginesRun then s
    else match work with
    | .part _ _ _ _ _ _ => s
    | .cut h seq zero => s.cutRun h seq zero
    | .load h cgd numbers bound =>
      let c := parseCgd cgd
      if !c.places.any (fun p => s.isMe p.dev) then
        { s with casc := { s.casc with numbering := Tab.set s.casc.numbering h numbers
                                       boundShadows := if bound then h :: s.casc.boundShadows else s.casc.boundShadows } }
      else
        let slots := (c.slots.zip numbers).mapIdx (fun i e =>
          ({ num := e.2.1, dev := e.1.dev, ter := e.1.ter, isOut := e.1.isOut, bank := e.2.2.1, line0 := e.2.2.2
             lines := e.1.lines, bufs := c.freshBufs i e.1 } : Slot))
        let g : Graph := { newGraph cgd c h 0 ring (s.bindAll c) slots none with bound := bound }
        s.carryOut ring tag opcode h g (loadRecords cgd) (fun t => t.install g)
    | .unload h => match s.graph? h with
      | none => { s with casc := { s.casc with numbering := Tab.del s.casc.numbering h } }
      | some g => (s.carryOut ring tag opcode h g [(0x11, [], none)] (fun t => t)).releaseGraph g
    | .run h seq exact theta => match s.graph? h with
      | none => s
      | some g =>
        let t := (s.realign g seq).carry ring tag opcode (.run (memberRun h seq exact theta (1000 * s.tmr.uptime)))
        (t.updGraph h (fun x => { x with nextSeq := (seq + 1) % 65536 })).headWake g
    | .threshold h layer theta => match s.graph? h with
      | none => s
      | some g => s.carryOut ring tag opcode h g [(0x12, settingPayload layer theta g.exact, none)]
          (fun t => t.updGraph h (fun x => x.setTheta layer theta))
    | .exact h on => match s.graph? h with
      | none => s
      | some g => s.carryOut ring tag opcode h g
          [(0x12, settingPayload (((g.cgd.places.head?).map (fun x => x.layer)).getD 0) (g.theta.headD 0) on, none)]
          (fun t => t.updGraph h (fun x => { x with exact := on }))
    | .pair k a st async ua us n =>
      let np : Pair := { Pair.initial with active := a, standby := st, async := async, state := 2
                                           key := some (Config.pairKey ua.toNat us.toNat n) }
      let t : State := { s with casc := { s.casc with pairs := s.casc.pairs.set k np, applied := s.casc.applied.set k none
                                                      numbering := [], boundShadows := [] } }
      if a = s.me then t.snapshot k ring tag else t
    | .unpair k =>
      let p := s.pair k
      let t := s.updPair k (fun _ => Pair.initial)
      let t1 := t.releaseHeld (t.cmds.length + 1)
      if p.standby = s.me then (t1.dropShadows (fun _ => false)).closeShadows else t1)

end Sys2Proof.Machine
end

