-- ==== Sys2Proof/Machine/Cascade.lean ====
section
/-! DEFINITION. The cascade link and the chain: frames, training, enumeration, release reports, heartbeats, lost members,
the relay of DRY and the chain table (R448 to R466, R483). -/

namespace Sys2Proof.Machine

/-! ### Lost members (R459, R460, R476, R477) -/

/-- A member that is not replaced is lost: routed to none, and every admitted run with a placement on it ends (R460). -/
def State.loseMember (s : State) (d : Nat) : State :=
  let s1 := (s.updMember d (fun m => { m with state := 3 }))
  let s2 : State := { s1 with casc := { s1.casc with route := s1.casc.route.set d 3 }, free := s1.free + 1 }
  let w := s.lostWord d
  let victims := s2.cmds.filter (fun c => match c.body with
    | .run r => (s2.graph? r.handle).any (fun g => g.devs.contains d)
    | _ => false)
  (victims.foldl (fun t c => t.abortCmd c (endOf stFault w)) s2).devVec 6

/-- The master declares a member lost: its pair fails over, or is suspended, or the member is lost with its runs. -/
def State.declareLost (s : State) (d : Nat) : State :=
  if s.pins.role ≠ .master ∨ d = 0 ∨ !((s.member d).state = 1 ∨ (s.member d).state = 2) then s
  else match s.pairIdx d false with
    | none => s.loseMember d
    | some k =>
      let p := s.pair k
      if p.active = d ∧ p.state = 3 then (s.endWaits k).failover k 1
      else if p.state = 2 ∨ p.state = 3 then (s.suspend k).loseMember d
      else s.loseMember d

/-- MEMBER_LOST: 1,025 µs without a heartbeat (R459). -/
def execMemberLost (dev : Fin 8) (s : State) : Host.Outcome State Fault Refusal := .next (s.declareLost dev.val)

/-! ### Training (R451) -/

/-- CSC_PORTn_STAT.STATE. -/
def PortState.code : PortState → Nat
  | .off => 0
  | .training => 1
  | .up => 2
  | .retraining => 3
  | .down => 4

/-- A port goes DOWN after its third failed training; on the master, every member beyond it is lost at once (R459). -/
def State.portDown (s : State) (up : Bool) : State :=
  let s1 := ((s.updPort up (fun p => { p with state := .down, degraded := false })).portLog up 3).devVec 6
  if up then s1 else (List.range 8).foldl (fun t d => t.declareLost d) s1

/-- A DOWN port that came up carries the next number on (R454). -/
def State.passNumber (s : State) : State :=
  if s.casc.numbered ∧ s.casc.device < 7 ∧ s.casc.portDn.state = .up then
    s.emit (.link false (.enumerate (s.casc.device + 1)))
  else s

/-- A port is up at x4 or x2, and what waited in its bridge goes. -/
def State.portUpAt (s : State) (up : Bool) (lanes : BitVec 4) : State :=
  let first := (s.port up).state == .training
  let s1 := s.updPort up (fun p => { p with state := .up, degraded := lanes != 0xF, lanesOk := lanes, fails := 0, bad := 0 })
  let s2 := s1.bridgeSend up
  let s3 := if lanes = 0xF then s2 else s2.portLogFree up
  if first && !up then s3.passNumber else s3

/-- CASCADE_TRAINING_DONE: x4, x2 or a failed attempt; a partner of the wrong role leaves the port idle (R451, R483). -/
def execCascadeTrainingDone (up : Bool) (lanes : BitVec 4) (partnerOk : Bool) (s : State) : Host.Outcome State Fault Refusal :=
  let p := s.port up
  .next (if !(p.state = .training ∨ p.state = .retraining) then s
    else if lanes &&& 3 ≠ 3 then
      let t := s.updPort up (fun p => { p with lanesOk := lanes, fails := p.fails + 1 })
      if 3 ≤ p.fails + 1 then t.portDown up else t
    else if !partnerOk then (s.updPort up (fun p => { p with state := .off, lanesOk := lanes, fails := 0 })).portLogFree up
    else s.portUpAt up (if lanes = 0xF then 0xF else 3))

/-! ### Frames (R449 to R453, Table 18-2) -/

/-- Depth of each channel's buffer, in flits (Table 18-2). -/
def channelDepth (ch : Nat) : Nat := [64, 32, 16, 64].getD ch 0

/-- A frame is discarded: counted and logged; the tenth in a row retrains the port, any other is answered with NAK. -/
def State.discardFrame (s : State) (up : Bool) : State :=
  let s1 := (s.updPort up (fun p => { p with bad := p.bad + 1, frameErr := satInc 0xFFFF p.frameErr })).portLog up 1
  if 10 ≤ (s1.port up).bad then
    (s1.updPort up (fun p => { p with state := .retraining, bad := 0, retrains := satInc 0xFFFF p.retrains })).portLog up 2
  else s1.sendFrame up [] true

/-- A packet from the link: to its destination in the mesh, or through to the other port (R242, R453). -/
def State.fromLink (s : State) (p : Packet) : State :=
  if !s.isMe p.dstDev then s.bridgeOn p
  else if s.enginesRun then s.enterRill p
  else s

/-- Credits given back on the four channels, held to the buffer depths (Table 18-10). -/
def State.takeCredits (s : State) (up : Bool) (cr : List Nat) : State :=
  let sums := (List.range 4).map (fun i => (s.port up).credits.getD i 0 + cr.getD i 0)
  let s1 := s.updPort up (fun p => { p with credits := sums.mapIdx (fun i n => min n (channelDepth i)) })
  if (List.range 4).any (fun i => decide (channelDepth i < sums.getD i 0)) then s1.mgmtBad up else s1

/-- A flit received: a packet that it completes goes on, and gives the credits of its flits back. What link management carries
is given by the commands of its messages (log 23). -/
def State.takeFlit (up : Bool) (s : State) (x : FlitSlot) : State :=
  let back (n : Nat) (l : List Nat) : List Nat := l.modify x.chan.val (fun m => m + n)
  if x.chan = 3 then s.updPort up (fun p => { p with owed := back 1 p.owed })
  else
    let part := (s.port up).rxPart.getD x.chan.val [] ++ [x.flit]
    match part with
    | h :: pay =>
      if pay.length = bitsAt h.toNat 10 5 then
        (s.updPort up (fun p => { p with rxPart := p.rxPart.set x.chan.val [], owed := back part.length p.owed })).fromLink (packetOf h pay)
      else s.updPort up (fun p => { p with rxPart := p.rxPart.set x.chan.val part })
    | [] => s

/-- The unacknowledged frames sent again, as a NAK asks (R450). -/
def State.replayFrames (s : State) (up : Bool) : State := (s.port up).replay.foldl (fun t f => t.emit (.link up (.frame f))) s

/-- CASCADE_FRAME_RX: a frame that fails, or acknowledges outside the replay window, is discarded; one in order is taken, with
what it acknowledges, asks for again, gives back and carries, and is answered (R449, R450, R452, R453). -/
def execCascadeFrameRx (up : Bool) (frame : LinkFrame) (s : State) : Host.Outcome State Fault Refusal :=
  let p := s.port up
  .next (if p.state ≠ .up ∨ !s.pwr.mainGood then s
    else
      let acked := (frame.ack + 4096 - p.ackSeq) % 4096
      if !frameIntact frame ∨ p.replay.length < acked then s.discardFrame up
      else if frame.seq ≠ (p.rxSeq + 1) % 4096 then s
      else
        let s1 := s.updPort up (fun p => { p with rxSeq := frame.seq, ackSeq := frame.ack % 4096, bad := 0, replay := p.replay.drop acked })
        let s2 := if frame.nak then s1.replayFrames up else s1
        ((((frame.slots.filterMap id).foldl (State.takeFlit up) s2).sendFrame up [] false).takeCredits up frame.credits).bridgeSend up)

/-! ### Enumeration and release (R454 to R456) -/

/-- Port states a member of the chain must have: UP up, DOWN up where the chain goes on (R454). -/
def memberLinks (d len : Nat) : Nat := 2 + 8 * (if d + 1 < len then 2 else 0)

/-- A member's UID and strap reach the master, which then routes the whole chain. -/
def State.enumerated (s : State) (n : Nat) (uid : DWord) (strap : Nat) : State :=
  let s1 := s.updMember n (fun m => { m with state := if m.state = 0 then 1 else m.state, role := strap, uid := uid })
  let len := max s.casc.length (n + 1)
  let s2 : State := { s1 with casc := { s1.casc with length := len, chain := s1.casc.chain.mapIdx (fun d (m : Member) =>
    if 1 ≤ d ∧ d < len then { m with links := memberLinks d len } else m) } }
  s2.writeRoutes

/-- ENUMERATION_MESSAGE: a member takes the number and answers; the master learns of a member (R454, R456, R567). -/
def execEnumerationMessage (n : Nat) (reply : Option (DWord × Nat)) (s : State) : Host.Outcome State Fault Refusal :=
  .next (match s.pins.role, reply with
    | .member, none =>
      if n = 0 ∨ 7 < n ∨ s.casc.portUp.state ≠ .up ∨ s.casc.numbered then s
      else
        let t : State := { s with casc := { s.casc with device := n, numbered := true, length := n + 1 } }
        (t.emit (.link true (.enumReply n s.lcs.uid 2))).passNumber
    | .member, some r => if s.casc.portDn.state = .up then s.emit (.link true (.enumReply n r.1 r.2)) else s
    | .master, some r => if n = 0 ∨ 7 < n ∨ s.casc.portDn.state ≠ .up then s else s.enumerated n r.1 r.2
    | _, _ => s)

/-- CHAIN_END_TIMEOUT: no partner on the DOWN port within 5 ms of training: the chain ends here (R454). -/
def execChainEndTimeout (s : State) : Host.Outcome State Fault Refusal :=
  .next (if s.casc.portDn.state = .training then s.updPort false (fun p => { p with state := .off }) else s)

/-- MEMBER_RELEASE_REPORT: the member serves from now on (R455). -/
def execMemberReleaseReport (dev : Fin 8) (uid : DWord) (fw epoch : Word) (s : State) : Host.Outcome State Fault Refusal :=
  .next (if s.pins.role ≠ .master then s
    else if (s.member dev.val).state ≠ 1 then s.mgmtBad false
    else (s.updMember dev.val (fun m => { m with state := 2, uid := uid, fw := fw, epoch := epoch })).devVec 6)

/-! ### Heartbeats (R458, R483) -/

/-- Sequence number in a heartbeat: the last record emitted as active device, or applied as standby. -/
def State.heartSeq (s : State) : Nat :=
  match (List.range 3).find? (fun k => decide (2 ≤ (s.pair k).state) && ((s.pair k).active == s.me || (s.pair k).standby == s.me)) with
  | none => 0
  | some k => if (s.pair k).active = s.me then (s.pair k).emitted - 1 else ((s.casc.applied[k]?).getD none).getD 0

/-- HEARTBEAT_SEND: HK1 of a member in RUN, ECONOMY, DOZE or DRY (R458); a fenced device sends none. -/
def execHeartbeatSend (s : State) : Host.Outcome State Fault Refusal :=
  .next (if s.pins.role = .member ∧ s.casc.numbered ∧ !s.casc.fenced ∧ s.mainLive ∧ s.pwr.dev ≠ .fault ∧ s.pwr.dev ≠ .sentry ∧
      s.pwr.dev ≠ .off ∧ !s.sys.hkHalt.getLsbD 1
    then s.emit (.link true (.heartbeat s.casc.device s.pwr.dev s.heartSeq)) else s)

/-- HEARTBEAT_RECEIVE: kept by the master, or discarded from an unnumbered or fenced device (R458, Table 18-10). -/
def execHeartbeatReceive (dev : Fin 8) (mirSeq : Nat) (s : State) : Host.Outcome State Fault Refusal :=
  let m := s.member dev.val
  .next (if s.pins.role ≠ .master then s
    else if dev.val = 0 ∨ m.state = 0 ∨ 4 ≤ m.state then s.mgmtBad false
    else (List.range 3).foldl (fun t k => t.drainFailover k) (s.updMember dev.val (fun m => { m with mirSeq := mirSeq % 2 ^ 48 })))

/-! ### DRY (R461) -/

/-- DRY_RELAY: a member enters DRY as for SHUTDOWN (R121, R461). -/
def execDryRelay (s : State) : Host.Outcome State Fault Refusal :=
  .next (if s.pins.role = .member ∧ s.mainLive ∧ (s.pwr.dev = .run ∨ s.pwr.dev = .economy) then s.enterDry else s)

/-! ### The chain table (R457) -/

/-- CSC_ROLE strap code (Table 2-6). -/
def Role.code : Role → Nat
  | .single => 0
  | .master => 1
  | .member => 2

/-- PAIR byte of a device (Table 18-3). -/
def State.pairByte (s : State) (d : Nat) : Nat :=
  match s.pairIdx d true with
  | none => 0
  | some k => (if (s.pair k).active = d then 1 else 2) + 4 * k

/-- The entry of device number d (Table 18-3). -/
def State.chainEntry (s : State) (d : Nat) : List Byte :=
  let m := s.member d
  if d = s.me then
    leBytes 1 d ++ leBytes 1 2 ++ leBytes 1 s.pins.role.code ++ leBytes 1 (s.pairByte d) ++ leBytes 1 d ++
    leBytes 1 (s.casc.portUp.state.code + 8 * s.casc.portDn.state.code) ++ leBytes 2 0 ++ leBytes 8 s.lcs.uid.toNat ++
    leBytes 4 s.sys.fw.toNat ++ leBytes 4 s.tmr.epoch.toNat ++ leBytes 8 0
  else if m.state = 0 then leBytes 1 d ++ leBytes 1 0 ++ leBytes 2 0 ++ leBytes 1 d ++ leBytes 27 0
  else
    leBytes 1 d ++ leBytes 1 m.state ++ leBytes 1 m.role ++ leBytes 1 (s.pairByte d) ++
    leBytes 1 (if m.state = 5 then m.alias_ else d) ++ leBytes 1 m.links ++ leBytes 2 0 ++ leBytes 8 m.uid.toNat ++
    leBytes 4 m.fw.toNat ++ leBytes 4 m.epoch.toNat ++ leBytes 8 0

/-- CASCADE_ENUM: the chain table written to ADDR (R457). -/
def execCascadeEnum (ring : Fin 1024) (s : State) : Host.Outcome State Fault Refusal :=
  let g := ring.val
  .next (s.onHead g 0x55 false (fun p => s.completeWith g p (fun t =>
    t.dmaWrite s.nextCid (BitVec.ofNat 64 (par p 0x10 8)) ((List.range 8).flatMap s.chainEntry) false) endDone))

end Sys2Proof.Machine
end

