-- ==== Sys2Proof/Machine/Lifecycle.lean ====
section
/-! DEFINITION. Life-cycle transitions and retirement, and the header-tank events that a waiting batch or transition
answers to (R415, R509 to R517, R524, R525). -/

namespace Sys2Proof.Machine

/-! ### Transitions (Table 20-1) -/

/-- State code (R511). -/
def LcState.code : LcState → Nat
  | .manufacture => 0
  | .provisioned => 1
  | .deployed => 2
  | .service => 3
  | .retired => 4

/-- Authorities that may sign a transition, 0 LC0 and 1 LC1; none where it is no row of Table 20-1. -/
def authorities (st : LcState) (target : Nat) : List Nat :=
  match st, target with
  | .manufacture, 1 => [0]
  | .provisioned, 2 => [1]
  | .deployed, 3 => [1]
  | .service, 2 => [1]
  | .manufacture, 4 => [0]
  | .provisioned, 4 => [0, 1]
  | .deployed, 4 => [0, 1]
  | .service, 4 => [0, 1]
  | _, _ => []

/-- The token's PAYLOAD_LEN (Table 20-2). -/
def tokenPayloadLen (b : List Byte) : Nat := fieldAt b 0x18 4

/-- The payload of a transition has the layout that Table 20-1 names. -/
def payloadOk (st : LcState) (target : Nat) (pay : List Byte) : Bool :=
  match st, target with
  | .manufacture, 1 =>
    let nw := fieldAt pay 0x31 1
    let ns := fieldAt pay 0x32 1
    decide (1 ≤ nw) && decide (nw ≤ 4) && decide (1 ≤ ns) && decide (ns ≤ 4) && fieldAt pay 0x33 1 == 0 &&
      decide (pay.length = 0x34 + 48 * nw + 56 * ns) &&
      (List.range nw).all (fun i => fieldAt pay (0x34 + 48 * i + 4) 4 == 0) &&
      (List.range ns).all (fun i => fieldAt pay (0x34 + 48 * nw + 56 * i + 4) 3 == 0)
  | .provisioned, 2 => decide (pay.length = 96)
  | _, _ => pay.isEmpty

/-- The key of an authority: LC0, or LC1 where it is installed. -/
def State.authorityKey (s : State) (a : Nat) : Option (List Byte) := if a = 0 then some Config.lc0 else s.lcs.lc1

/-- Check 5 of Table 20-4: header, authority, payload layout and signature. -/
def State.tokenGood (s : State) (target : Nat) (b : List Byte) : Bool :=
  let pay := sliceAt b 64 (tokenPayloadLen b)
  let a := fieldAt b 0x14 1
  fieldAt b 0 4 == 0x54434C4B && fieldAt b 4 2 == 1 && fieldAt b 6 1 == s.lcs.active.code && fieldAt b 7 1 == target &&
    fieldAt b 8 8 == s.lcs.uid.toNat && fieldAt b 0x10 4 == s.lcs.transSeq && fieldAt b 0x15 3 == 0 &&
    fieldAt b 0x1C 36 == 0 && (authorities s.lcs.active target).contains a && payloadOk s.lcs.active target pay &&
    (match s.authorityKey a with
      | some k => Config.ecdsaVerifies k (b.take (b.length - 96)) (b.drop (b.length - 96))
      | none => false)

/-- Check 3: nothing pending, no session and no cell operation; for RETIRED nothing else in use either. -/
def State.transitionFree (s : State) (target : Nat) : Bool :=
  (s.lcs.fused == s.lcs.active || target == 4) && s.wpe.sessions.isEmpty && !s.cellBusy &&
    (target != 4 || (s.graphs.isEmpty && !s.anyArmed && s.casc.pairs.all (fun p => p.state == 0)))

/-- Checks 1 to 5 on a token as read: the code and outcome of the first that fails (R514). -/
def State.tokenChecks (s : State) (target : Nat) (b : List Byte) : Option (Nat × End) :=
  if b.length ≠ 160 + tokenPayloadLen b then some (1, endParam 0x20)
  else if (authorities s.lcs.active target).isEmpty then some (2, endState)
  else if !s.transitionFree target then some (3, endState)
  else if target = 3 ∧ 32 ≤ s.lcs.svcIn then some (4, endOf stCapacity 0)
  else if !s.tokenGood target b then some (5, endAccess 5)
  else none

/-- Need of a transition in a quarter of 1 µJ: 1.25 x (0.4 mJ + 0.005 mJ x payload bytes stored) (R515). -/
def transitionNeed (payload : Nat) : Nat := 2000 + 25 * payload

/-! ### Retirement (R524, R525) -/

/-- Fuse burnt, sessions closed, keys destroyed; the erasure of every basin begins at index 0. RETIRED is in force at
once (R512, R524). -/
def State.retire (s : State) (cid : Nat) : State :=
  ({ s with
    lcs := { s.lcs with fRet := true, active := .retired, closed := true, transport := false, lc1 := none
                        wrap := List.replicate 4 none, sign := List.replicate 4 none, idPub := none, cert := none
                        destroyed := true, retireNext := 0, retireAt := 0, retiring := true, retireCid := some cid }
    wpe := { s.wpe with sessions := [] } }).wpePower

/-- One basin of the retirement tunnelled, its FAILED mark rewritten, its wear counted (R405, R524). -/
def State.retireBasin (s : State) (n : Nat) : State :=
  let slot := s.slotOf n
  let failed := (s.basin n).wstate == .failed
  let t := ((s.journalOpen { erase := true, ter := basinTer n, slot := slot.getD 63, basin := n, firstRow := 0, count := 1
                             done := 0, sound := true }).countWear n (basinTer n) (slot.getD 63)).tunnel n
  (if failed then t.updBasin n (fun b => { b with wstate := .failed }) else t).journalClose

/-- Erasures of a retirement, NEXT saved after every 64 and at the end (R525). -/
def State.retireLoop (fuel : Nat) (s : State) : State :=
  match fuel with
  | 0 => s
  | k + 1 =>
    if 4112 ≤ s.lcs.retireAt then s
    else
      let n := s.lcs.retireAt
      let t := s.retireBasin n
      State.retireLoop k { t with lcs := { t.lcs with retireAt := n + 1
                                                      retireNext := if (n + 1) % 64 = 0 ∨ n + 1 = 4112 then n + 1 else t.lcs.retireNext } }

/-- RETIREMENT_RESUME: the next `n` erasures; after the last the command, if it is this session's, completes (R524, R525). -/
def execRetirementResume (n : Nat) (s : State) : Host.Outcome State Fault Refusal :=
  .next (if !s.lcs.retiring ∨ !s.enginesRun then s
    else
      let t := s.retireLoop (min n 4112)
      if t.lcs.retireAt < 4112 then t
      else
        let u : State := { t with lcs := { t.lcs with retiring := false, retireCid := none } }
        match t.lcs.retireCid with
        | some c => (u.finish c endDone).lcsLast stDone 0
        | none => u)

/-! ### LIFECYCLE_ADVANCE -/

/-- Tank check of an admitted LIFECYCLE_ADVANCE, then its transition begins (R515). -/
def State.tokenEnergy (s : State) (c : Nat) (target : Nat) (pay : List Byte) : State :=
  let need := transitionNeed pay.length
  let body (w : Option Nat) (t : State) : State := t.updCmd c (fun x => { x with body := .lifecycle target pay w })
  if s.tankCovers4 need then (if target = 4 then (body none s).retire c else body none s)
  else if s.tankCould4 need then
    (match (s.cmd? c).map (fun (x : Cmd) => x.body) with
      | some (Body.lifecycle _ _ (some _)) => s
      | _ => body (some s.tmr.uptime) s)
  else (s.holdupEnd c need).lcsLast stHoldup 6

/-- LIFECYCLE_ADVANCE: the checks of Table 20-4 in order on the token as read; one command at a time (R514). -/
def execLifecycleAdvance (ring : Fin 1024) (token : ReadResult) (s : State) : Host.Outcome State Fault Refusal :=
  let g := ring.val
  .next (s.onHead g 0x52 false (fun p =>
    let target := par p 0x10 1
    let len := par p 0x20 4
    if s.cmds.any (fun c => c.opcode == 0x52) || !s.mayMaster (s.ringFunc g) then s
    else
      let c := s.nextCid
      let t := (s.accept g p (.lifecycle target [] none) none 0).dmaRead (s.ringFunc g) (BitVec.ofNat 64 (par p 0x18 8)) len
      let u := match token, failCode token with
        | .data bytes, _ =>
          let b := readBytes len bytes
          (match t.tokenChecks target b with
            | some (k, e) => (t.finish c e).lcsLast e.status k
            | none => t.tokenEnergy c target (sliceAt b 64 (tokenPayloadLen b)))
        | _, some (kind, _) => ((t.readFailed g kind).finish c endRead).lcsLast stAccess 0
        | _, none => t
      u.settle g))

/-- LIFECYCLE_TRANSITION_DONE: the keys are stored and the fuse is burnt; `idPub` is the identity public key that
provisioning has generated (R516). -/
def execLifecycleTransitionDone (idPub : List Byte) (s : State) : Host.Outcome State Fault Refusal :=
  .next (match s.cmds.findSome? (fun c => match c.body with
      | .lifecycle target pay none => if target = 4 then none else some (c.cid, target, pay)
      | _ => none) with
    | none => s
    | some (c, target, pay) =>
      if !s.enginesRun then s
      else (({ s with lcs := s.lcs.transition target pay idPub }).finish c endDone).lcsLast stDone 0)

/-! ### The header tank (R415, R515, Table 4-3) -/

/-- A transition that waits for the tank. -/
def State.waitingToken (s : State) : Option (Nat × Nat × List Byte × Nat) :=
  s.cmds.findSome? (fun c => match c.body with
    | .lifecycle target pay (some t) => some (c.cid, target, pay, t)
    | _ => none)

/-- TANK_WAIT_TIMEOUT: 2,000 ms of waiting for the tank end the command (R415, R515). -/
def execTankWaitTimeout (s : State) : Host.Outcome State Fault Refusal :=
  let s1 := match s.programming with
    | some (c, p) => match p.waitFrom with
      | some t => if t + 2000000 ≤ s.tmr.uptime then s.holdupLow c.cid (batchNeed (min 16 p.left)) else s
      | none => s
    | none => s
  .next (match s1.waitingToken with
    | some (c, _, pay, t) =>
      if t + 2000000 ≤ s.tmr.uptime then (s1.holdupEnd c (transitionNeed pay.length)).lcsLast stHoldup 6 else s1
    | none => s1)

/-- What waits for the tank goes on once it covers the need (R415, R515). -/
def State.tankRetry (s : State) : State :=
  let s1 := match s.programming with
    | some (c, p) => if p.waitFrom.isSome && s.tankCovers (batchNeed (min 16 p.left)) then s.nextBatch c.cid p false else s
    | none => s
  match s1.waitingToken with
  | some (c, target, pay, _) => if s1.tankCovers4 (transitionNeed pay.length) then s1.tokenEnergy c target pay else s1
  | none => s1

/-- TANK_COMPARATOR_CROSS: the header-tank comparator changes side at 9.6 V rising or 9.0 V falling (Table 4-3). -/
def execTankComparatorCross (above : Bool) (mv : Nat) (s : State) : Host.Outcome State Fault Refusal :=
  let crosses := if above then !s.wpe.aboveMin && decide (9600 ≤ mv) else s.wpe.aboveMin && decide (mv < 9000)
  .next (if crosses then ({ s with wpe := { s.wpe with aboveMin := above, tankMv := mv / 50 * 50 } }).tankRetry else s)

/-- TANK_BOOST_THRESHOLD: charging stops at 14.0 V rising and restarts at 13.8 V falling (Table 4-3). -/
def execTankBoostThreshold (stop : Bool) (mv : Nat) (s : State) : Host.Outcome State Fault Refusal :=
  let crosses := if stop then s.wpe.charging && decide (14000 ≤ mv) else !s.wpe.charging && decide (mv ≤ 13800)
  .next (if crosses then ({ s with wpe := { s.wpe with charging := !stop, tankMv := mv / 50 * 50 } }).tankRetry else s)

end Sys2Proof.Machine
end

