-- ==== Sys2Proof/Machine/Views.lean ====
section
/-! DEFINITION. What every register reads: the register tables of chapters 03 to 21 as one function of the state
(R526, R527, R533, R544). A read has no effect of its own but for the two latches of R534. -/

namespace Sys2Proof.Machine

/-- The 4 bytes at an offset of a byte string, as a register. -/
def bytesWord (bs : List Byte) (off : Nat) : Word := BitVec.ofNat 32 (fieldAt bs off 4)

/-- Words 32k to 32k + 31 of a row of bits. -/
def bitsWord (f : Nat → Bool) (hi : Bool) : Word := BitVec.ofNat 32 (bitsOf 32 (fun i => f (if hi then i + 32 else i)))

/-! ### SYS (chapter 21) -/

/-- BOOT_SRC strap code (Table 2-6). -/
def BootSrc.code : BootSrc → Nat
  | .quad => 0
  | .singleBit => 1
  | .hold => 2

/-- SYS_STRAP. -/
def Pins.strapWord (p : Pins) : Word :=
  fieldsWord [(0, p.role.code), (2, p.boot.code), (4, b2n p.testEn), (8, b2n p.roleUnst), (9, b2n p.bootUnst),
    (10, b2n p.testUnst), (11, b2n p.roleResv), (12, b2n p.bootResv), (13, b2n p.bootOver), (14, b2n p.testOver)]

/-- SYS_SMB. -/
def Sys.smbWord (y : Sys) : Word := fieldsWord [(0, y.smbAddr.toNat), (8, y.smbLast), (16, y.smbErrors)]

/-- The SYS block. -/
def State.readSys (s : State) (off : Nat) : Word :=
  match off with
  | 0x00 => sysId
  | 0x04 => s.sys.rev.setWidth 32
  | 0x08 => s.sys.fw
  | 0x0C => s.pins.strapWord
  | 0x10 => fieldsWord [(0, b2n s.sys.lock)]
  | 0x14 => s.sys.smbWord
  | 0x20 => s.sys.scratch
  | _ => 0

/-! ### PWR/CLK (chapter 03) -/

/-- Codes of PWR_STATE.STATE; OFF has none and never reads. -/
def DevState.code : DevState → Nat
  | .off => 0
  | .sentry => 1
  | .doze => 2
  | .run => 3
  | .economy => 4
  | .dry => 5
  | .fault => 6

/-- Codes of PWR_STATE.REQ_RESULT. -/
def ReqResult.code : ReqResult → Nat
  | .none => 0
  | .pending => 1
  | .done => 2
  | .refusedReservation => 3
  | .refusedMirror => 4
  | .refusedState => 5

/-- PWR_STATE. -/
def Power.stateWord (p : Power) : Word :=
  fieldsWord [(0, p.dev.code), (4, p.prev.code), (8, p.reqResult.code), (11, b2n p.start.isSome)]

/-- PWR_RAIL. -/
def Power.railWord (p : Power) : Word := fieldsWord [(0, p.railGood.toNat), (8, p.railOv.toNat)]

/-- Switched domains powered now (Table 1-2, Table 3-7). Banks in retention do not count (DEDUCED, log 24). -/
def State.domains (s : State) : Nat :=
  let p := s.pwr
  let mainOn := p.dev != .off && p.dev != .sentry || p.start.isSome
  let clocked := p.dev == .run || p.dev == .economy || p.dev == .dry || p.start.isSome
  (p.periph.filter (fun e => s.periphGood e.1)).length +
  ((List.range 64).map (fun t => if s.terPower t = .good then 1 + s.banksReserved t else 0)).sum +
  (s.afe.chans.filter (fun c => c.powered)).length + (s.snt.s.filter (fun x => x.powered)).length +
  b2n (mainOn && s.pins.role != .member) + b2n (s.casc.portUp.state != .off) + b2n (s.casc.portDn.state != .off) +
  (s.csi.filter (fun c => c.en)).length + b2n s.wpe.powered + (if mainOn then 2 else 0) + (if clocked then 2 else 0)

/-- CLK_STATUS.FCLK: 0 stopped, 1 locking, 2 1,000 MHz, 3 500 MHz (Table 3-4). -/
def Power.fclk (p : Power) : Nat :=
  if p.dozeExit.isSome then 1
  else match p.dev with
    | .run => 2
    | .dry => 2
    | .economy => 3
    | _ => if p.start.isSome then 2 else 0

/-- PWR_TJ. -/
def Power.tjReg (p : Power) : Word := BitVec.ofNat 32 p.tjWord

/-- The PWR/CLK block. -/
def State.readPwr (s : State) (off : Nat) : Word :=
  let p := s.pwr
  match off with
  | 0x00 => p.stateWord
  | 0x04 => fieldsWord [(4, b2n p.autoDoze), (8, p.stageMax)]
  | 0x08 => fieldsWord [(0, p.idleUs)]
  | 0x0C => fieldsWord [(0, p.bsnHold), (16, p.terIdle)]
  | 0x10 => fieldsWord [(0, p.budget)]
  | 0x14 => fieldsWord [(0, if p.estFormed then min 0xFFFF s.estimate else 0), (16, p.peak)]
  | 0x18 => p.railWord
  | 0x1C => BitVec.ofNat 32 p.faultWord
  | 0x20 => p.tjReg
  | 0x24 => bitsWord (fun t => s.terPower t == .good) false
  | 0x28 => bitsWord (fun t => s.terPower t == .good) true
  | 0x2C => fieldsWord [(0, s.domains)]
  | 0x100 => fieldsWord [(0, p.fclk), (4, b2n p.xtal), (5, b2n p.xtalLost), (6, b2n (!s.hif.inL12)), (8, p.lockUs.toNat),
      (16, p.aonTrim.toNat)]
  | _ => 0

/-! ### TMR (chapter 04) -/

/-- The TMR block. -/
def State.readTmr (s : State) (off : Nat) : Word :=
  let t := s.tmr
  match off with
  | 0x00 => halfWord t.uptime false
  | 0x04 => t.hiLatch
  | 0x08 => t.epoch
  | 0x0C => fieldsWord [(0, b2n t.accuracy), (1, b2n t.untrimmed), (2, b2n t.anchorValid), (3, b2n t.epochSat)]
  | 0x10 => halfWord t.anchor.toNat false
  | 0x14 => halfWord t.anchor.toNat true
  | 0x18 => halfWord t.anchorAt false
  | 0x1C => halfWord t.anchorAt true
  | 0x20 => fieldsWord [(0, match t.startKind with
      | .quick => 1
      | .full => 2), (4, t.startReason), (8, match t.startResult with
      | .pass => 0
      | .passDegraded => 1
      | .bootFail => 2), (16, min 0xFFFF t.startMs)]
  | 0x24 => t.dryAge
  | 0x28 => halfWord t.releaseAt false
  | 0x2C => halfWord t.releaseAt true
  | _ => 0

/-! ### HIF (chapter 12) -/

/-- A violation as HIF_VLOG holds it (Table 12-6). -/
def VlogEntry.bytes (e : VlogEntry) : List Byte :=
  leBytes 6 e.uptime ++ leBytes 2 e.seq ++ leBytes 1 e.kind ++ leBytes 1 e.action ++ leBytes 2 e.rid ++ leBytes 1 e.func ++
  leBytes 1 0 ++ leBytes 2 e.ring ++ leBytes 16 e.hdr.toNat

/-- An MSI-X table entry: address, data, vector control. -/
def Msix.bytes (m : Msix) : List Byte := leBytes 8 m.addr.toNat ++ leBytes 4 m.data.toNat ++ leBytes 4 (b2n m.masked)

/-- The MSI-X table of a function, at an offset inside it. -/
def State.readMsix (s : State) (f off : Nat) : Word :=
  if off / 16 < msixCount f then bytesWord (s.msixEntry f (off / 16)).bytes (off % 16) else 0

/-- The PBA of a function, at an offset inside it. -/
def State.readPba (s : State) (f off : Nat) : Word :=
  BitVec.ofNat 32 (bitsOf 32 (fun i => decide (8 * off + i < msixCount f) && (s.msixEntry f (8 * off + i)).pending))

/-- HIF_RBLK_OWNER or its HI half. -/
def Hif.ownerWord (h : Hif) (hi : Bool) : Word :=
  fieldsWord ((List.range 8).map (fun i => (4 * i, if hi then h.owner.getD (i + 8) 0 else if i = 0 then 0 else h.owner.getD i 0)))

/-- The HIF block. -/
def State.readHif (s : State) (off : Nat) : Word :=
  let h := s.hif
  match off with
  | 0x00 => fieldsWord [(0, h.speed), (4, h.width), (8, b2n (decide (h.speed < 3) || decide (h.width < 8)))]
  | 0x04 => fieldsWord [(0, h.recovery), (16, h.l12)]
  | 0x10 => h.ownerWord false
  | 0x14 => h.ownerWord true
  | 0x80 => h.devEn.setWidth 32
  | 0x84 => h.devStat.setWidth 32
  | 0x90 => fieldsWord [(0, h.ltrFrame), (10, h.ltrRun), (20, h.ltrDoze)]
  | 0x94 => fieldsWord [(0, h.l1Idle)]
  | 0xA0 => fieldsWord [(0, h.vlogWr.toNat), (16, h.vlogLost)]
  | 0xA4 => fieldsWord [(0, h.vlogRd.toNat)]
  | _ =>
    if 0x40 ≤ off ∧ off < 0x80 then fieldsWord [(0, h.coal.getD ((off - 0x40) / 4) 0)]
    else if 0x1000 ≤ off ∧ off < 0x1800 then
      (match Tab.get? h.vlog ((off - 0x1000) / 32) with
        | some e => bytesWord e.bytes (off % 32)
        | none => 0)
    else if 0x8000 ≤ off ∧ off < 0xC100 then s.readMsix 0 (off - 0x8000)
    else if 0xD000 ≤ off ∧ off < 0xD088 then s.readPba 0 (off - 0xD000)
    else 0

/-! ### RING (chapter 13) -/

/-- The head command of ring g waits on BARRIER, FENCE, SET_FLAG or WAIT_FLAG, or its packet waits for the tail to cover its
LEN (RING_STAT.WAITING). -/
def State.headWaits (s : State) (g : Nat) : Bool :=
  let r := s.ring g
  s.ringWaits g || (match r.headPacket with
    | none => false
    | some (p, _) => !r.covered (pktEntries p) ||
      ((pktBarrier p || pktOp p == 0x01 || pktOp p == 0x04) && !s.earlierEnded g))

/-- The descriptor of ring g. -/
def State.readRing (s : State) (g off : Nat) : Word :=
  let r := s.ring g
  match off with
  | 0x00 => halfWord r.sqBase.toNat false
  | 0x04 => halfWord r.sqBase.toNat true
  | 0x08 => halfWord r.cqBase.toNat false
  | 0x0C => halfWord r.cqBase.toNat true
  | 0x10 => fieldsWord [(0, b2n r.en), (1, r.log2), (5, r.engine), (8, r.cls), (10, r.prio), (13, b2n r.irqEn)]
  | 0x14 => fieldsWord [(0, r.modCount), (16, r.modTimer)]
  | 0x18 => fieldsWord [(0, r.sqHead % 65536), (16, r.sqTail % 65536)]
  | 0x1C => fieldsWord [(0, r.cqTail % 65536), (16, r.cqHead % 65536)]
  | 0x20 => fieldsWord [(0, b2n r.active), (1, b2n r.halted), (2, b2n r.phase), (3, b2n (s.cmds.any (fun c => c.ring == g && !c.detached && match c.body with
        | .listCall _ _ => true
        | _ => false))),
      (4, r.haltCause), (8, b2n (s.headWaits g)), (16, min 0xFFFF r.reserved)]
  | 0x28 => halfWord r.faultAddr.toNat false
  | 0x2C => halfWord r.faultAddr.toNat true
  | 0x30 => r.doneCnt
  | _ => 0

/-! ### SLC (chapter 14) -/

/-- SLC_CLASS0.PERMILLE: basin-slots that class-0 windows hold, against those of a frame over the basins that hold a slot;
the spec gives no rounding, which is a free value (log 9). -/
def State.permille (s : State) : Nat :=
  let basins := ((List.range 64).map (fun t => 62 - s.slotsLost t)).sum
  let held := (s.graphs.map (fun g => match g.window with
    | some f => (g.cgd.places.map (fun p => if s.isMe p.dev then p.gang else 0)).sum * f.2
    | none => 0)).sum
  min 1023 (s.roundFree (1000 * held) (max 1 (basins * s.slc.curPeriod)))

/-- The SLC block. -/
def State.readSlc (s : State) (off : Nat) : Word :=
  let z := s.slc
  match off with
  | 0x00 => fieldsWord [(0, z.share), (16, z.xallow)]
  | 0x04 => fieldsWord [(0, z.src), (16, z.period)]
  | 0x08 => halfWord (z.frame.getD 0) false
  | 0x0C => fieldsWord [(0, z.idxHi)]
  | 0x10 => halfWord z.frameAt false
  | 0x14 => fieldsWord [(0, z.meas)]
  | 0x18 => fieldsWord [(0, z.early), (16, z.missed)]
  | 0x1C => fieldsWord [(0, s.permille), (16, fitField 8 (s.graphs.filter (fun g => g.window.isSome)).length)]
  | 0x20 => fieldsWord [(0, s.bookings.length), (16, z.peak)]
  | 0x24 => fieldsWord [(0, (z.waiting.filter (fun g => decide (2 ≤ (s.ring g).cls))).length)]
  | 0x30 => fieldsWord [(0, z.refCap), (16, z.refDl)]
  | 0x34 => fieldsWord [(0, z.refPow), (16, z.late)]
  | _ => 0

/-! ### AFE (chapter 05) -/

/-- The AFE block. -/
def State.readAfe (s : State) (off : Nat) : Word :=
  let a := s.afe
  match off with
  | 0x00 => fieldsWord [(0, a.hop), (4, b2n (!a.pend.isEmpty)), (5, b2n a.loopback)]
  | 0x04 => a.hopCnt
  | 0x08 => fieldsWord [(0, bitsOf 16 (fun n => (s.chan n).en)), (16, bitsOf 16 (fun n => (s.chan n).en && (s.chan n).settle == 0 && !(s.chan n).rejoin))]
  | 0x0C => fieldsWord (a.mic.mapIdx (fun k (m : MicBias) => (8 * k, b2n m.en + 2 * m.vsel + 8 * b2n m.ilim)))
  | 0x10 => a.clip.setWidth 32
  | 0x14 => fieldsWord [(0, a.calPass.toNat), (16, a.unchecked.toNat)]
  | _ =>
    if 0x20 ≤ off ∧ off < 0x60 then
      (match s.laneOf ((off - 0x20) / 4) with
        | some l => fieldsWord [(0, l), (4, 1)]
        | none => 0)
    else if 0x100 ≤ off ∧ off < 0x200 then
      let c := s.chan ((off - 0x100) / 16)
      if off % 16 = 0 then fieldsWord [(0, c.gain), (4, c.tau)]
      else if off % 16 = 4 then fieldsWord [(0, c.settle % 256), (16, c.clipCnt)]
      else 0
    else 0

/-! ### SNT (chapter 06) -/

/-- SNT_STATE. -/
def State.sntState (s : State) : Word :=
  fieldsWord [(0, bitsOf 16 (fun n => (s.sentinel n).armed)), (16, bitsOf 16 (fun n => (s.sentinel n).active))]

/-- SNT_WAKE. -/
def State.sntWake (s : State) : Word := fieldsWord [(0, s.snt.entry.toNat), (16, b2n s.pins.wakeLow)]

/-- The rule and status registers of a sentinel, by offset in its 16 bytes. -/
def Sentinel.word (x : Sentinel) (off : Nat) : Word :=
  let r := x.rule
  match off with
  | 0 => fieldsWord [(0, r.mask.toNat), (16, r.enterTh), (20, r.exitTh), (24, r.entryP), (28, r.thetaA)]
  | 4 => fieldsWord [(0, r.exitP), (6, r.report), (8, b2n r.wakeHost), (9, b2n r.wakeDev)]
  | 8 => fieldsWord [(0, b2n x.active), (1, x.count % 64), (7, b2n x.trimSat), (8, intBits 8 x.trim), (16, x.enterLast.toNat)]
  | _ => 0

/-- The SNT block. -/
def State.readSnt (s : State) (off : Nat) : Word :=
  let z := s.snt
  match off with
  | 0x00 => s.sntState
  | 0x04 => s.sntWake
  | 0x08 => z.wr.setWidth 32
  | 0x0C => z.rd.setWidth 32
  | 0x10 => fieldsWord [(0, z.irqLevel)]
  | 0x14 => fieldsWord [(0, z.lost)]
  | _ =>
    if 0x100 ≤ off ∧ off < 0x200 then (s.sentinel ((off - 0x100) / 16)).word (off % 16)
    else if 0x400 ≤ off ∧ off < 0x800 then bytesWord (leBytes 16 (z.rpt.getD ((off - 0x400) / 16) 0).toNat) (off % 16)
    else if 0x800 ≤ off ∧ off < 0x900 then bytesWord (leBytes 16 (s.sentinel ((off - 0x800) / 16)).wakeRpt.toNat) (off % 16)
    else 0

/-! ### WPE (chapter 16) -/

/-- WPE_STATE.OP of the cell operation running, and whether it waits for the tank. -/
def State.cellOp (s : State) : Nat × Bool :=
  (s.cmds.findSome? (fun c => match c.body with
    | .program p => some (1, p.waitFrom.isSome)
    | .erase _ _ _ started => some (2, !started)
    | .verify _ _ _ _ _ _ => some (3, false)
    | _ => none)).getD (0, false)

/-- WPE_STATE.QUEUED: cell operations at the head of their rings while another runs (R399). -/
def State.cellsQueued (s : State) : Nat :=
  if s.cellBusy then
    (s.rings.filter (fun e => match e.2.headPacket with
      | some (p, _) => decide (0x31 ≤ pktOp p) && decide (pktOp p ≤ 0x33) && e.2.covered (pktEntries p)
      | none => false)).length
  else 0

/-- BSN_WEAR of a basin or a sentinel (R422). -/
def Basin.wearWord (b : Basin) : Word := fieldsWord [(0, min 0xFFFF b.wear), (16, b2n (decide (10000 ≤ b.wear)))]

/-- The WPE block. -/
def State.readWpe (s : State) (off : Nat) : Word :=
  let w := s.wpe
  match off with
  | 0x00 => fieldsWord [(0, bitsOf 4 (fun i => w.sessions.any (fun x => x.num == i + 1))), (4, s.cellOp.1),
      (6, b2n s.cellOp.2), (7, b2n w.powered), (8, min 255 s.cellsQueued)]
  | 0x04 => fieldsWord [(0, w.lastRow), (10, w.lastTer), (17, w.lastSlot)]
  | 0x10 => fieldsWord [(0, w.tankUf % 8192), (13, b2n w.capMax), (14, b2n w.absent)]
  | 0x14 => fieldsWord [(0, s.tankStep % 65536), (16, b2n w.aboveMin)]
  | 0x18 => fieldsWord [(0, min (2 ^ 24 - 1) (s.roundFree s.tankE2 2000000))]
  | 0x20 => fieldsWord [(0, min 512 w.journal.length), (10, w.jrnlErases)]
  | 0x24 => fieldsWord [(0, w.waits), (16, w.holdups)]
  | 0x28 => w.rows
  | 0x30 => fieldsWord [(0, w.errCheck), (3, w.errOff)]
  | 0x34 => fieldsWord [(0, min 127 w.dirty.length)]
  | _ =>
    if 0x100 ≤ off ∧ off < 0x140 then
      (match w.dirty[(off - 0x100) / 4]? with
        | some d => fieldsWord [(0, d.1), (8, d.2), (31, 1)]
        | none => 0)
    else if 0x200 ≤ off ∧ off < 0x240 then (s.basin (4096 + (off - 0x200) / 4)).wearWord
    else 0

/-! ### STR (chapter 17) -/

/-- The registers of a stream, by offset in its 32 bytes. -/
def Stream.word (x : Stream) (off : Nat) : Word :=
  let head := if x.cur then x.segs.head? else none
  match off with
  | 0x00 => fieldsWord [(0, x.kind), (2, x.dest), (4, x.slots.toNat), (12, x.port)]
  | 0x04 => fieldsWord [(0, x.keep)]
  | 0x08 => fieldsWord [(0, (head.map (fun g => g.segId)).getD 0), (16, x.segs.length % 128), (23, b2n head.isSome)]
  | 0x0C => fieldsWord [(0, fitField 24 ((head.map (fun g => g.done)).getD 0))]
  | 0x10 => fieldsWord [(0, x.fifo.length % 8192), (16, x.drop)]
  | 0x14 => x.discard
  | 0x18 => x.zeros
  | 0x1C => x.total
  | _ => 0

/-- The STR block. -/
def State.readStr (s : State) (off : Nat) : Word :=
  let z := s.str
  match off with
  | 0x00 => fieldsWord [(0, b2n z.conf), (1, b2n z.master), (2, z.nslots), (6, z.lines.toNat), (8, z.pol.toNat)]
  | 0x04 => BitVec.ofNat 32 z.tdmStat
  | 0x08 => bitsWord (fun i => (s.stream i).started) false
  | 0x0C => z.event
  | _ => if 0x100 ≤ off ∧ off < 0x500 then (s.stream ((off - 0x100) / 32)).word (off % 32) else 0

/-! ### CSI (chapter 11) -/

/-- The registers of a CSI-2 port. -/
def CsiPort.word (p : CsiPort) (off : Nat) : Word :=
  match off with
  | 0x00 => fieldsWord [(0, b2n p.en), (1, p.lanes / 2), (16, p.rate)]
  | 0x04 => fieldsWord [(0, p.stop.toNat), (4, b2n p.clkHs), (5, b2n p.deskew)]
  | 0x08 => fieldsWord [(0, p.corrected), (16, p.dropped)]
  | 0x0C => fieldsWord [(0, p.crcLines), (16, p.unsup)]
  | _ => 0

/-- The registers of an intake unit. -/
def Intake.word (u : Intake) (off : Nat) : Word :=
  match off with
  | 0x00 => fieldsWord [(0, u.complete), (16, u.damaged)]
  | 0x04 => fieldsWord [(0, u.repeated), (16, u.superseded)]
  | 0x08 => fieldsWord [(0, u.zero)]
  | 0x0C => u.age
  | 0x10 => u.fs
  | _ => 0

/-- The CSI block. -/
def State.readCsi (s : State) (off : Nat) : Word :=
  if off < 0x200 then (s.csiPort (off / 256)).word (off % 256)
  else if off < 0x400 then (s.unit ((off - 0x200) / 256)).word (off % 256)
  else 0

/-! ### CSC and MIR (chapter 18) -/

/-- CSC_PORTn_STAT. -/
def CascPort.statWord (p : CascPort) : Word :=
  fieldsWord [(0, p.state.code), (3, b2n p.degraded), (4, p.lanesOk.toNat)]

/-- A pair's two registers. -/
def Pair.word (p : Pair) (seq : Bool) : Word :=
  if seq then fieldsWord [(0, (p.emitted - 1) % 65536), (16, (p.acked - 1) % 65536)]
  else fieldsWord [(0, p.active), (3, p.standby), (6, b2n p.async), (8, p.state)]

/-- The CSC/MIR block. CSC_RCTL, CSC_RDATA and CSC_RSTAT are there on the master only. -/
def State.readCsc (s : State) (off : Nat) : Word :=
  let c := s.casc
  match off with
  | 0x00 => fieldsWord [(0, s.pins.role.code), (2, c.device), (8, c.length), (12, b2n c.fenced)]
  | 0x10 => c.portUp.statWord
  | 0x14 => c.portDn.statWord
  | 0x18 => BitVec.ofNat 32 c.portUp.errWord
  | 0x1C => BitVec.ofNat 32 c.portDn.errWord
  | 0x30 => fieldsWord (c.route.mapIdx (fun d v => (2 * d, v)))
  | 0x34 => fieldsWord [(0, c.noRoute), (16, c.mgmtBad)]
  | 0x80 => if s.pins.role = .master then fieldsWord [(0, c.rctl.toNat % 2 ^ 29), (31, b2n c.rgo.isSome)] else 0
  | 0x84 => if s.pins.role = .master then c.rdata else 0
  | 0x88 => if s.pins.role = .master then fieldsWord [(0, c.rres)] else 0
  | 0x1000 => fieldsWord [(0, c.syncAllow), (16, c.window)]
  | 0x1010 => (s.pair 0).word false
  | 0x1014 => (s.pair 0).word true
  | 0x1020 => (s.pair 1).word false
  | 0x1024 => (s.pair 1).word true
  | 0x1030 => (s.pair 2).word false
  | 0x1034 => (s.pair 2).word true
  | 0x1100 => fieldsWord [(0, b2n c.repValid)]
  | _ => if 0x2000 ≤ off ∧ off < 0x3000 then bytesWord c.report (off - 0x2000) else 0

/-! ### BIST (chapter 19) and LCS (chapter 20) -/

/-- The BIST block. -/
def State.readBist (s : State) (off : Nat) : Word :=
  let b := s.bist
  match off with
  | 0x00 => fieldsWord [(0, b.lastKind), (3, b2n s.bistRunning), (4, b2n b.invPending), (16, b.fails)]
  | 0x04 => BitVec.ofNat 32 b.flogNext
  | 0x08 => fieldsWord [(0, b.dlogNext % 65536), (16, b.dlogLost)]
  | 0x0C => b.mapGen
  | 0x10 => fieldsWord [(0, s.failedBasins), (13, ((List.range 64).map s.slotsLost).sum)]
  | 0x14 => fieldsWord [(0, (s.ters.map (fun t => ((List.range 16).filter (fun k => t.withdrawn.getLsbD k)).length)).sum)]
  | 0x18 => fieldsWord [(0, b.afeFailed.toNat), (16, bitsOf 16 s.sentinelFailed)]
  | 0x1C => b.supply.setWidth 32
  | _ => 0

/-- The LCS block (R512, R517). No offset reads a key. -/
def State.readLcs (s : State) (off : Nat) : Word :=
  let l := s.lcs
  let id (k : List (Option KeySlot)) (i : Nat) : Word := match k[i]? with
    | some (some x) => x.id
    | _ => 0
  match off with
  | 0x00 => fieldsWord [(0, l.fused.code), (4, l.active.code), (7, b2n (l.fused != l.active)), (8, l.transSeq), (16, 32 - l.svcIn)]
  | 0x08 => halfWord l.uid.toNat false
  | 0x0C => halfWord l.uid.toNat true
  | 0x10 => fieldsWord [(0, bitsOf 4 (fun i => (l.wrap.getD i none).isSome)), (4, bitsOf 4 (fun i => (l.sign.getD i none).isSome)),
      (8, b2n l.lc1.isSome), (9, b2n l.idPub.isSome), (10, b2n l.cert.isSome), (11, b2n l.testKeys), (12, b2n l.destroyed)]
  | 0x40 => fieldsWord [(0, l.lastStatus), (8, l.lastCheck)]
  | 0x44 => fieldsWord [(0, l.retireNext), (31, b2n l.retiring)]
  | _ =>
    if 0x20 ≤ off ∧ off < 0x30 then id l.wrap ((off - 0x20) / 4)
    else if 0x30 ≤ off ∧ off < 0x40 then id l.sign ((off - 0x30) / 4)
    else if 0x100 ≤ off ∧ off < 0x134 then bytesWord (l.idPub.getD []) (off - 0x100)
    else 0

/-! ### KFLAG and KMBX (chapter 15) -/

/-- The KFLAG block: VAL, SET and CLR all read the flags. -/
def State.readKflag (s : State) (off : Nat) : Word :=
  if off < 0x300 ∧ off % 0x100 < 0x20 then (s.flags >>> (8 * (off % 0x100))).setWidth 32 else 0

/-! ### TER and BSN (chapters 07 to 10, 16) -/

/-- The graph, placement index and placement of which a physical basin of this device is a member, with its place from the
top. -/
def State.memberOf (s : State) (n : Nat) : Option (Graph × Nat × Placement × Nat) :=
  s.graphs.findSome? (fun g => (List.range g.cgd.places.length).findSome? (fun i =>
    match g.cgd.places[i]?, (g.phys.getD i []).findIdx? (fun b => b == n) with
    | some p, some m => if s.isMe p.dev then some (g, i, p, m) else none
    | _, _ => none))

/-- BSN_LAYER of a member: the settings stored for its layer; THETA_Z reads 0 in exact mode (R226). -/
def layerWord (g : Graph) (i : Nat) (p : Placement) : Word :=
  fieldsWord [(0, p.group), (2, p.p - 1), (5, p.q - 1), (8, p.scale), (11, b2n p.signedIn), (12, if g.exact then 0 else g.theta.getD i 0 % 16),
    (16, b2n g.exact), (17, b2n p.feature), (18, if p.feature then Nat.log2 p.rf else 0)]

/-- A register of the BSN window of physical basin n. The registers of chapter 08 belong to the bottom member of a set. -/
def State.readBsn (s : State) (n off : Nat) : Word :=
  let b := s.basin n
  let m := s.memberOf n
  let bottom := m.filter (fun x => x.2.2.2 + 1 == x.2.2.1.gang)
  match off with
  | 0x00 => fieldsWord [(0, n % 64), (8, b.slot.getD 63), (16, b2n (decide (62 ≤ n % 64))), (17, b2n b.mappedOut)]
  | 0x04 => fieldsWord [(0, match b.wstate with
      | .erased => 0
      | .programming => 1
      | .valid => 2
      | .dirty => 3
      | .failed => 4), (4, b2n (s.periphGood n)),
      (5, match m with
        | some x => b2n (s.evaluating x.1.handle x.2.1)
        | none => 0),
      (8, match m with
        | some x => if x.2.2.1.gang < 2 then 0 else if x.2.2.2 = 0 then 1 else if x.2.2.2 + 1 = x.2.2.1.gang then 3 else 2
        | none => 0),
      (10, match m with
        | some x => x.2.2.1.gang - 1
        | none => 0)]
  | 0x08 => (match m with
      | some x => layerWord x.1 x.2.1 x.2.2.1
      | none => 0)
  | 0x0C => fieldsWord [(0, intBits 8 b.gain), (8, intBits 8 b.offset), (24, b2n b.trimSat), (25, b2n b.refFault)]
  | 0x10 => if b.trimAt = 0 then s.bist.trimAt else b.trimAt
  | 0x14 => fieldsWord [(0, b.reads), (16, b.tracks)]
  | 0x18 => b.evCnt
  | 0x60 => (match bottom with
      | some x => fieldsWord [(0, x.2.2.1.step), (16, x.2.2.1.phases)]
      | none => 0)
  | 0x64 => b.skip
  | 0x68 => b.early
  | 0x6C => b.allZero
  | 0x70 => halfWord b.tag.toNat false
  | 0x74 => halfWord b.tag.toNat true
  | 0x78 => b.wearWord
  | 0x7C => fieldsWord [(0, b.cause), (2, b.tagsUsed)]
  | _ =>
    let elem (l : List (Option Nat)) (i : Nat) : Word := match l.getD i none with
      | some r => fieldsWord [(0, r), (15, 1)]
      | none => 0
    if 0x20 ≤ off ∧ off < 0x40 then elem b.sRow ((off - 0x20) / 4)
    else if 0x40 ≤ off ∧ off < 0x50 then elem b.sCol ((off - 0x40) / 4)
    else 0

/-- Logical slots of terrace t whose placement satisfies a test. -/
def State.slotsWhere (s : State) (t : Nat) (ok : Graph → Nat → Placement → Bool) (k : Nat) : Bool :=
  s.graphs.any (fun g => (List.range g.cgd.places.length).any (fun i => match g.cgd.places[i]? with
    | some p => s.isMe p.dev && p.ter == t && (p.slots.take p.gang).contains k && ok g i p
    | none => false))

/-- The placement has its inputs present (R236). -/
def inputsPresent (g : Graph) (i : Nat) (p : Placement) : Bool :=
  match g.score[i]? with
  | some z => (g.inputOf p z).1 && g.begun z.runSeq
  | none => false

/-- Lines of terrace t free for reservation, outside withdrawn banks (TER_CIS_FREE). -/
def State.linesFreeIn (s : State) (t : Nat) : Nat :=
  let used (k : Nat) : Nat :=
    ((s.reservedSlots.filter (fun x => s.isMe x.dev && x.ter == t && x.bank == k)).map Slot.span).sum
  ((List.range 16).map (fun k => if (s.ter t).withdrawn.getLsbD k then 0 else 1024 - used k)).sum

/-- A TER register of terrace t. -/
def State.readTer (s : State) (t off : Nat) : Word :=
  let x := s.ter t
  match off with
  | 0x00 => fieldsWord [(0, t), (8, t % 8), (12, t / 8), (16, s.casc.device)]
  | 0x04 => fieldsWord [(0, b2n (s.terPower t == .good)), (1, b2n (match s.terPower t with
      | .staged => true
      | .charging _ => true
      | _ => false)), (2, b2n x.moatLocal), (4, x.moatPorts.toNat),
      (8, ([62, 63].filter (fun b => (s.basin (64 * t + b)).slot.isSome)).length), (10, 62 - s.slotsLost t)]
  | 0x10 => bitsWord (s.slotsWhere t inputsPresent) false
  | 0x14 => bitsWord (s.slotsWhere t inputsPresent) true
  | 0x18 => bitsWord (s.slotsWhere t (fun g i _ => s.evaluating g.handle i)) false
  | 0x1C => bitsWord (s.slotsWhere t (fun g i _ => s.evaluating g.handle i)) true
  | 0x20 => fieldsWord [(0, bitsOf 16 (s.bankReserved t)), (16, bitsOf 16 (fun k => s.bankReserved t k && s.terPower t == .good))]
  | 0x24 => fieldsWord [(0, s.linesFreeIn t)]
  | 0x30 => x.fire
  | 0x34 => x.creditWait
  | 0x60 => BitVec.ofNat 32 x.err
  | _ => if 0x40 ≤ off ∧ off < 0x54 then x.flits.getD ((off - 0x40) / 4) 0 else 0

/-- A register in the 256 KiB window of terrace t (R527). -/
def State.readWindow (s : State) (t off : Nat) : Word :=
  if off < 0x100 then s.readTer t off
  else if 0x20000 ≤ off ∧ off < 0x30000 ∧ off % 0x400 < 0x80 then s.readBsn (64 * t + (off - 0x20000) / 0x400) (off % 0x400)
  else 0

/-! ### The whole map (Table 21-1) -/

/-- The register at a 4-byte aligned offset of the PF's BAR0; an undefined offset reads 0 (R533). -/
def State.readReg (s : State) (off : Nat) : Word :=
  let o := off % 0x10000
  match off / 0x10000 with
  | 0x0 => s.readSys o
  | 0x1 => s.readPwr o
  | 0x2 => s.readTmr o
  | 0x3 => s.readHif o
  | 0x4 => s.readRing (o / 64) (o % 64)
  | 0x5 => s.readSlc o
  | 0x6 => s.readAfe o
  | 0x7 => s.readSnt o
  | 0x8 => s.readWpe o
  | 0x9 => s.readStr o
  | 0xA => s.readCsi o
  | 0xB => s.readCsc o
  | 0xC => s.readBist o
  | 0xD => s.readLcs o
  | 0xE => s.readKflag o
  | 0xF => BitVec.ofNat 32 (leNat (Memory.readN s.kmbx o 4))
  | _ => if 0x1000000 ≤ off ∧ off < 0x2000000 then s.readWindow ((off - 0x1000000) / 0x40000) (off % 0x40000) else 0

/-- The register at a 4-byte aligned offset of VF f's BAR0 (R302, R531). -/
def State.readVf (s : State) (f off : Nat) : Word :=
  let blocks := (List.range 16).filter (fun b => s.ringFunc (64 * b) == f)
  if off = 0 then fieldsWord [(0, f), (8, blocks.length), (16, bitsOf 16 (fun b => s.ringFunc (64 * b) == f))]
  else if 0x1000 ≤ off ∧ off < 0x10000 then
    (match s.ringGlobal f ((off - 0x1000) / 64) with
      | some g => s.readRing g (off % 64)
      | none => 0)
  else if 0x10000 ≤ off ∧ off < 0x18000 then s.readMsix f (off - 0x10000)
  else if 0x18000 ≤ off ∧ off < 0x18078 then s.readPba f (off - 0x18000)
  else 0

/-- The rows of Table 21-3 by offset in the PF's BAR0. -/
def groupOf (off : Nat) : BlockGroup :=
  match off / 0x10000 with
  | 0x0 => .host
  | 0x1 => .island
  | 0x2 => .island
  | 0x3 => .host
  | 0x6 => .host
  | 0x7 => .host
  | 0xD => .host
  | _ => if 0x1000000 ≤ off then .fabric else .engine

/-- What a served access reads: 0 from a block that does not answer (R528). -/
def State.served (s : State) (off : Nat) : Word := if s.answers (groupOf off) then s.readReg off else 0

end Sys2Proof.Machine
end

