-- ==== Sys2Proof/Machine/Registers.lean ====
section
/-! DEFINITION. Register accesses: what a write does to each field (R16, R20, R537), the reads that latch (R534), accesses
that travel to a terrace as maintenance packets (R244, R382), BAR4 (R530) and remote accesses (R463). -/

namespace Sys2Proof.Machine

/-! ### Field types -/

/-- A W1C field after a write. -/
def w1c {n : Nat} (x : BitVec n) (v : Word) (lo : Nat) : BitVec n := x &&& ~~~((v >>> lo).setWidth n)

/-- A W1C flag after a write. -/
def w1cBit (x : Bool) (v : Word) (i : Nat) : Bool := x && !v.getLsbD i

/-- An RWL field: stored, or discarded under SYS_LOCK (R539). -/
def State.rwl {α : Type} (s : State) (old new : α) : α := if s.sys.lock then old else new

/-! ### SYS, PWR/CLK and TMR -/

/-- A write to the SYS block. -/
def State.writeSys (s : State) (off : Nat) (v : Word) : State :=
  match off with
  | 0x10 => { s with sys := { s.sys with lock := s.sys.lock || v.getLsbD 0 } }
  | 0x20 => { s with sys := { s.sys with scratch := v } }
  | _ => s

/-- A write of PWR_CTRL: the fields stored, PEAK_CLR and REQ acted on. -/
def State.pwrCtrlWrite (s : State) (v : Word) : State :=
  let n := v.toNat
  let m := bitsAt n 8 4
  let s1 : State := { s with pwr := { s.pwr with
    autoDoze := bitAt n 4, stageMax := if m = 0 ∨ 8 < m then s.pwr.stageMax else s.rwl s.pwr.stageMax m } }
  let s2 : State := if bitAt n 5 then { s1 with pwr := { s1.pwr with peak := min 0xFFFF s1.estimate } } else s1
  match bitsAt n 0 3 with
  | 2 => s2.reqDoze
  | 3 => s2.reqRun .run
  | 4 => s2.reqRun .economy
  | _ => s2

/-- A write to the PWR/CLK block. -/
def State.writePwr (s : State) (off : Nat) (v : Word) : State :=
  let n := v.toNat
  let p := s.pwr
  match off with
  | 0x04 => s.pwrCtrlWrite v
  | 0x08 => { s with pwr := { p with idleUs := max 1 (bitsAt n 0 24) } }
  | 0x0C => { s with pwr := { p with bsnHold := max 256 (bitsAt n 0 16), terIdle := max 1 (bitsAt n 16 16) } }
  | 0x10 => { s with pwr := { p with budget := max 2000 (min 42000 (bitsAt n 0 16)) } }
  | 0x1C => { s with pwr := { p with fault := w1c p.fault v 0 } }
  | 0x100 => { s with pwr := { p with xtalLost := w1cBit p.xtalLost v 5 } }
  | _ => s

/-- A write to the TMR block. -/
def State.writeTmr (s : State) (off : Nat) (v : Word) : State :=
  let t := s.tmr
  match off with
  | 0x0C => { s with tmr := { t with untrimmed := w1cBit t.untrimmed v 1 } }
  | 0x10 => { s with tmr := { t with anchor := (t.anchor &&& 0xFFFFFFFF00000000#64) ||| v.setWidth 64 } }
  | 0x14 => s.setAnchor ((t.anchor &&& 0xFFFFFFFF#64) ||| (v.setWidth 64 <<< 32))
  | _ => s

/-! ### HIF -/

/-- Eight owner fields of a half. -/
def ownersOf (v : Word) : List Nat := (List.range 8).map (fun i => bitsAt v.toNat (4 * i) 4)

/-- A write of HIF_RBLK_OWNER, of its HI half, or of both: refused and logged while VF Enable or SYS_LOCK is set; block 0
stays the PF's (R298). -/
def State.ownerWrite (s : State) (lo hi : Option Word) (tlp : Tlp) : State :=
  if s.hif.vfEn || s.sys.lock then s.vlogTlp 0x10 0 0 0xFFFF tlp
  else
    let low := match lo with
      | some v => 0 :: (ownersOf v).drop 1
      | none => s.hif.owner.take 8
    let high := match hi with
      | some v => ownersOf v
      | none => s.hif.owner.drop 8
    { s with hif := { s.hif with owner := low ++ high } }

/-- A write inside the MSI-X table of a function: an entry that becomes unmasked sends what it holds (R309). -/
def State.msixWrite (s : State) (f off : Nat) (v : Word) : State :=
  let e := off / 16
  if msixCount f ≤ e then s
  else
    let x := s.msixEntry f e
    let x' : Msix := match off % 16 with
      | 0 => { x with addr := (x.addr &&& 0xFFFFFFFF00000000#64) ||| (v &&& 0xFFFFFFFC#32).setWidth 64 }
      | 4 => { x with addr := (x.addr &&& 0xFFFFFFFF#64) ||| (v.setWidth 64 <<< 32) }
      | 8 => { x with data := v }
      | 12 => { x with masked := v.getLsbD 0 }
      | _ => x
    ({ s with hif := { s.hif with msix := Tab.set s.hif.msix (msixKey f e) x' } } : State).flushMsix f

/-- A consumed count stored where it lies from `rd` to `wr`, counted forward (R176, R321). -/
def consumed (rd wr v : BitVec 16) : BitVec 16 := if (v - rd).toNat ≤ (wr - rd).toNat then v else rd

/-- A write of HIF_VLOG_RD (R321). -/
def State.vlogRdWrite (s : State) (v : Word) : State :=
  { s with hif := { s.hif with vlogRd := consumed s.hif.vlogRd s.hif.vlogWr (v.setWidth 16) } }

/-- A write to the HIF block. -/
def State.writeHif (s : State) (off : Nat) (v : Word) (tlp : Tlp) : State :=
  let n := v.toNat
  let h := s.hif
  match off with
  | 0x10 => s.ownerWrite (some v) none tlp
  | 0x14 => s.ownerWrite none (some v) tlp
  | 0x80 => { s with hif := { h with devEn := v.setWidth 16 } }
  | 0x84 => { s with hif := { h with devStat := w1c h.devStat v 0 } }
  | 0x90 => { s with hif := { h with ltrFrame := bitsAt n 0 10, ltrRun := bitsAt n 10 10, ltrDoze := bitsAt n 20 10 } }
  | 0x94 => { s with hif := { h with l1Idle := max 1 (bitsAt n 0 10) } }
  | 0xA4 => s.vlogRdWrite v
  | _ =>
    if 0x40 ≤ off ∧ off < 0x80 then { s with hif := { h with coal := h.coal.set ((off - 0x40) / 4) (min 6 (bitsAt n 0 3)) } }
    else if 0x8000 ≤ off ∧ off < 0xC100 then s.msixWrite 0 (off - 0x8000) v
    else s

/-! ### SLC, AFE, SNT, STR, CSC/MIR and KFLAG -/

/-- A write to the SLC block. -/
def State.writeSlc (s : State) (off : Nat) (v : Word) : State :=
  let n := v.toNat
  match off with
  | 0x00 => { s with slc := { s.slc with share := s.rwl s.slc.share (max 50 (min 90 (bitsAt n 0 7))), xallow := bitsAt n 16 16 } }
  | 0x04 => s.frameCfgWrite v
  | _ => s

/-- A write to the AFE block. -/
def State.writeAfe (s : State) (off : Nat) (v : Word) : State :=
  match off with
  | 0x0C => { s with afe := { s.afe with mic := s.afe.mic.mapIdx (fun k (m : MicBias) => { m with ilim := w1cBit m.ilim v (8 * k + 3) }) } }
  | 0x10 => { s with afe := { s.afe with clip := w1c s.afe.clip v 0 } }
  | _ => s

/-- A write of SNT_RPT_RD (R176). -/
def State.rptRdWrite (s : State) (v : Word) : State :=
  { s with snt := { s.snt with rd := consumed s.snt.rd s.snt.wr (v.setWidth 16) } }

/-- A write of SNT_RPT_CTRL: IRQ_LEVEL stored where it is 1 to 64, SNT_RPT_LOST cleared by LOST_CLR. -/
def State.rptCtrlWrite (s : State) (v : Word) : State :=
  let l := bitsAt v.toNat 0 7
  { s with snt := { s.snt with irqLevel := if l = 0 ∨ 64 < l then s.snt.irqLevel else l
                               lost := if v.getLsbD 7 then 0 else s.snt.lost } }

/-- A write to the SNT block. -/
def State.writeSnt (s : State) (off : Nat) (v : Word) : State :=
  match off with
  | 0x04 => { s with snt := { s.snt with entry := w1c s.snt.entry v 0 } }
  | 0x0C => s.rptRdWrite v
  | 0x10 => s.rptCtrlWrite v
  | _ =>
    if 0x100 ≤ off ∧ off < 0x200 ∧ off % 16 = 8 then
      s.updSentinel ((off - 0x100) / 16) (fun x => { x with trimSat := w1cBit x.trimSat v 7 })
    else s

/-- A write to the STR block. -/
def State.writeStr (s : State) (off : Nat) (v : Word) : State :=
  match off with
  | 0x04 => { s with str := { s.str with sckLost := w1cBit s.str.sckLost v 1 } }
  | 0x0C => { s with str := { s.str with event := w1c s.str.event v 0 } }
  | _ =>
    if 0x100 ≤ off ∧ off < 0x500 ∧ off % 32 = 4 then
      s.updStream ((off - 0x100) / 32) (fun x => { x with keep := min 4096 (bitsAt v.toNat 0 13) })
    else s

/-- Blocks of a member that a remote access may not write (R463). -/
def remoteRefused (off : Nat) : Bool := off / 0x10000 == 4 || off / 0x10000 == 0xE || off / 0x10000 == 0xF

/-- A remote access starts: it is refused or finds no device at once, or a request goes to the member (R463). -/
def State.remoteStart (s : State) (ctl : Word) : State :=
  let n := ctl.toNat
  let dev := bitsAt n 25 3
  let off := bitsAt n 2 23 * 4
  let wr := bitAt n 28
  if (s.member dev).state ≠ 2 ∨ dev = s.me then { s with casc := { s.casc with rres := 1 } }
  else if wr && remoteRefused off then { s with casc := { s.casc with rres := 3 } }
  else ({ s with casc := { s.casc with rgo := some (ctl, s.casc.rdata) } } : State).tell dev
    (.remote dev off (if wr then some s.casc.rdata else none))

/-- A write of CSC_RCTL: the fields stored for the next access; GO starts one unless one runs (R463). Every bit of OFFSET is
stored and reads back; an access whose OFFSET is not 4-byte aligned is made at the aligned word below it (DESIGN CHOICE, log 39). -/
def State.rctlWrite (s : State) (v : Word) : State :=
  let ctl := v &&& 0x1FFFFFFF#32
  let s1 : State := { s with casc := { s.casc with rctl := ctl } }
  if v.getLsbD 31 && s.casc.rgo.isNone then s1.remoteStart ctl else s1

/-- A write to the CSC/MIR block. -/
def State.writeCsc (s : State) (off : Nat) (v : Word) : State :=
  match off with
  | 0x80 => if s.pins.role = .master then s.rctlWrite v else s
  | 0x84 => if s.pins.role = .master then { s with casc := { s.casc with rdata := v } } else s
  | 0x1000 => (List.range 3).foldl (State.mirrorPump 128)
      { s with casc := { s.casc with syncAllow := bitsAt v.toNat 0 16, window := max 1 (bitsAt v.toNat 16 7) } }
  | 0x1100 => { s with casc := { s.casc with repValid := w1cBit s.casc.repValid v 0 } }
  | _ => s

/-- A write to the KFLAG block (R388, R389). -/
def State.writeKflag (s : State) (off : Nat) (v : Word) : State :=
  if 0x100 ≤ off ∧ off < 0x120 then { s with flags := s.flags ||| hostFlags ((off - 0x100) / 4) v }
  else if 0x200 ≤ off ∧ off < 0x220 then { s with flags := s.flags &&& ~~~(hostFlags ((off - 0x200) / 4) v) }
  else s

/-! ### Maintenance packets (R244, R382, log 15) -/

/-- A maintenance request of the engine port for terrace t: `src` says for whom (0 host, 1 TAP, 2 the link), `cis` that it
is for cistern data, `num` the register word or the half-line, `off` the byte offset in it, and 4 x 2^size bytes. -/
def State.maint (s : State) (src typ t : Nat) (cis : Bool) (num off size : Nat) (data : List Byte) : Packet :=
  let d := padFlits data
  { s.bare typ 2 with flits := d.length / 32, dstTer := t, srcEngine := true, slot := src, buf := size, offset := off
                      runSeq := num, graph := b2n cis, data := d }

/-- A MAINT_RD issued while fewer than 16 are outstanding, else held at the engine port (R382). -/
def State.maintRead (s : State) (p : Packet) : State :=
  if s.maintOut < 16 then ({ s with maintOut := s.maintOut + 1 } : State).send p else { s with maintQ := s.maintQ ++ [p] }

/-- Debug access is open: MANUFACTURE or SERVICE, and not closed by a later fuse (R303, R512, Table 20-7). -/
def State.debugOpen (s : State) : Bool := s.lcs.active.debuggable && !s.lcs.closed

/-- Bank of a half-line of a cistern. -/
def halfBank (half : Nat) : Nat := half / 2048

/-- Cistern data can be reached by maintenance: debug access open, bank not withdrawn (R530, Table 9-5). -/
def State.cisOpen (s : State) (t half : Nat) : Bool :=
  s.debugOpen && !(s.ter t).withdrawn.getLsbD (halfBank half)

/-- Address in `cistern` of a byte of a half-line. -/
def cisAddr (t half off : Nat) : Nat := t * 0x100000 + half * 32 + off

/-- A write to a TER or BSN register: W1C bits only. -/
def State.writeWindow (s : State) (t off : Nat) (v : Word) : State :=
  if off = 0x60 then
    s.updTer t (fun x => { x with uncorrRill := w1cBit x.uncorrRill v 12, uncorrCis := w1cBit x.uncorrCis v 13
                                  badPkt := w1cBit x.badPkt v 14 })
  else if 0x20000 ≤ off ∧ off < 0x30000 ∧ off % 0x400 = 0xC then
    s.updBasin (64 * t + (off - 0x20000) / 0x400) (fun b => { b with trimSat := w1cBit b.trimSat v 24 })
  else s

/-- MAINT_WR at its terrace. A bank that no slot reserves is powered for the access alone, and loses what it took (R95, R530). -/
def execMaintWr (p : Packet) (s : State) : Host.Outcome State Fault Refusal :=
  .next (s.arrive p (fun s =>
    let t := p.dstTer % 64
    let n := 4 * 2 ^ p.buf
    if p.typ ≠ 0x20 then s.badPacket p (packetStart p s.isMe)
    else if p.graph = 1 then
      (if s.cisOpen t p.runSeq && s.bankReserved t (halfBank p.runSeq) then
        { s with cistern := Memory.writeN s.cistern (cisAddr t p.runSeq p.offset) (p.data.take n) }
      else s)
    else
      let s1 := s.writeWindow t (4 * p.runSeq) (BitVec.ofNat 32 (fieldAt p.data 0 4))
      if n = 8 then s1.writeWindow t (4 * p.runSeq + 4) (BitVec.ofNat 32 (fieldAt p.data 4 4)) else s1))

/-- What a MAINT_RD reads at its terrace. -/
def State.maintData (s : State) (p : Packet) : List Byte :=
  let t := p.dstTer % 64
  let n := 4 * 2 ^ p.buf
  if p.graph = 1 then
    (if s.cisOpen t p.runSeq then Memory.readN s.cistern (cisAddr t p.runSeq p.offset) n else List.replicate n 0)
  else leBytes 4 (s.readWindow t (4 * p.runSeq)).toNat ++
    (if n = 8 then leBytes 4 (s.readWindow t (4 * p.runSeq + 4)).toNat else [])

/-- MAINT_RD at its terrace: answered by MAINT_RESP to the engine port it came from. -/
def execMaintRd (p : Packet) (s : State) : Host.Outcome State Fault Refusal :=
  .next (s.arrive p (fun s =>
    if p.typ ≠ 0x21 then s.badPacket p (packetStart p s.isMe)
    else
      s.send { s.bare 0x22 2 with flits := 1, dstDev := p.srcDev, dstEngine := true, srcTer := p.dstTer, slot := p.slot
                                  buf := p.buf, offset := p.offset, runSeq := p.runSeq, graph := p.graph
                                  data := padFlits (s.maintData p) }))

/-- Bits of a byte string, least significant first. -/
def bitsOfBytes (bs : List Byte) : List Bool := bs.flatMap (fun b => (List.range 8).map (fun i => b.getLsbD i))

/-- Read data handed to whom it was read for. -/
def State.maintAnswer (s : State) (src : Nat) (bs : List Byte) : State :=
  match src with
  | 0 => s.leaveL1.emit (.data bs)
  | 1 => s.emit (.tap (bitsOfBytes bs))
  | _ => s.emit (.link true (.remoteReply 0 (fieldAt bs 0 4)))

/-- MAINT_RESP at the engine port: its space is free again, and a MAINT_RD that waited is issued (R382). -/
def execMaintResp (p : Packet) (s : State) : Host.Outcome State Fault Refusal :=
  .next (s.arrive p (fun s =>
    if p.typ ≠ 0x22 ∨ !p.dstEngine then s.badPacket p (packetStart p s.isMe)
    else if s.maintOut = 0 then s
    else
      let s1 := ({ s with maintOut := s.maintOut - 1 } : State).maintAnswer p.slot (p.data.take (4 * 2 ^ p.buf))
      match s1.maintQ with
      | [] => s1
      | q :: r => State.maintRead { s1 with maintQ := r } q))

/-- Terrace and register word of an offset in the TER region. -/
def terOf (off : Nat) : Nat × Nat := ((off - 0x1000000) / 0x40000 % 64, off % 0x40000 / 4)

/-! ### One write of the host -/

/-- A 4-byte write at an offset of the PF's BAR0 outside the RING block (Table 21-1); undefined offsets discard (R533). -/
def State.writeReg (s : State) (off : Nat) (v : Word) (tlp : Tlp) : State :=
  let o := off % 0x10000
  match off / 0x10000 with
  | 0x0 => s.writeSys o v
  | 0x1 => s.writePwr o v
  | 0x2 => s.writeTmr o v
  | 0x3 => s.writeHif o v tlp
  | 0x5 => s.writeSlc o v
  | 0x6 => s.writeAfe o v
  | 0x7 => s.writeSnt o v
  | 0x9 => s.writeStr o v
  | 0xB => s.writeCsc o v
  | 0xE => s.writeKflag o v
  | 0xF => { s with kmbx := Memory.writeN s.kmbx o (leBytes 4 v.toNat) }
  | _ => s

/-- A write of 4 or 8 bytes by the PF: ring descriptors by the PF's view, the TER region as one MAINT_WR, both halves of
an owner pair as one write, everything else field by field (R535, R537). -/
def State.pfWrite (s : State) (off : Nat) (v : DWord) (wide : Bool) (tlp : Tlp) : State :=
  let lo : Word := v.setWidth 32
  let hi : Word := (v >>> 32).setWidth 32
  if off / 0x10000 = 4 then s.descWrite 0 (off % 0x10000 / 64) (off % 64) v wide tlp
  else if 0x1000000 ≤ off then
    (if off < 0x2000000 then
      s.send (s.maint 0 0x20 (terOf off).1 false (terOf off).2 0 (b2n wide) (leBytes (if wide then 8 else 4) v.toNat))
    else s)
  else if wide ∧ off = 0x30010 then s.ownerWrite (some lo) (some hi) tlp
  else
    let s1 := s.writeReg off lo tlp
    if wide then s1.writeReg (off + 4) hi tlp else s1

/-- A write of 4 or 8 bytes by a VF: its own descriptors and MSI-X table (R302, R304). -/
def State.vfWrite (s : State) (f off : Nat) (v : DWord) (wide : Bool) (tlp : Tlp) : State :=
  if 0x1000 ≤ off ∧ off < 0x10000 then s.descWrite f ((off - 0x1000) / 64) (off % 64) v wide tlp
  else if 0x10000 ≤ off ∧ off < 0x18000 then
    let s1 := s.msixWrite f (off - 0x10000) (v.setWidth 32)
    if wide then s1.msixWrite f (off - 0x10000 + 4) ((v >>> 32).setWidth 32) else s1
  else s

/-- The block a BAR0 offset of a function belongs to: in a VF's BAR0 the descriptors, or VF_ID and the MSI-X structures. -/
def funcGroup (f off : Nat) : BlockGroup :=
  if f = 0 then groupOf off else if 0x1000 ≤ off ∧ off < 0x10000 then .engine else .host

/-- The two latches of R534, taken by a read of the low half. -/
def State.latchRead (s : State) (off : Nat) : State :=
  if off = 0x20000 then { s with tmr := { s.tmr with hiLatch := halfWord s.tmr.uptime true } }
  else if off = 0x50008 then { s with slc := { s.slc with idxHi := bitsAt (s.slc.frame.getD 0) 32 16 } }
  else s

/-- The data of a read of 4 or 8 bytes of BAR0; the high half of a latched pair is the one that this read latches (R534, R535). -/
def State.regBytes (s : State) (f off : Nat) (wide : Bool) : List Byte :=
  let t := if f = 0 then s.latchRead off else s
  let reg (o : Nat) : Word := if f = 0 then t.readReg o else t.readVf f o
  leBytes 4 (reg off).toNat ++ (if wide then leBytes 4 (reg (off + 4)).toNat else [])

/-- A host read of BAR0 or VF BAR0: a terrace register is fetched by one MAINT_RD (R535), any other register is returned at
once; outside the ranges of the map it reads 0 (R533). -/
def State.regRead (s : State) (f off : Nat) (wide : Bool) (tlp : Tlp) : State :=
  let len := if wide then 8 else 4
  if (if f = 0 then 0x2000000 else 0x20000) ≤ off then (if s.hostUp then s.noBar f true (some tlp) else s)
  else if f = 0 ∧ 0x1000000 ≤ off ∧ off < 0x2000000 then
    (if !s.hostUp then s
    else if !s.decodes 0 then s.noBar 0 true (some tlp)
    else if !s.answers .fabric then s.leaveL1.emit (.data (List.replicate len 0))
    else s.leaveL1.access .fabric (fun t => t.maintRead (t.maint 0 0x21 (terOf off).1 false (terOf off).2 0 (b2n wide) [])))
  else s.hostRead f (some tlp) (funcGroup f off) len (fun t => if f = 0 then t.latchRead off else t) (fun t => t.regBytes f off wide)

/-- A host read of a doorbell page: the submission tail or the completion head last accepted, 0 elsewhere (R306). -/
def State.doorbellRead (s : State) (f page off len : Nat) (tlp : Tlp) : State :=
  let value (t : State) : Nat := match t.pageRing f page with
    | none => 0
    | some g => if off = 0 then (t.ring g).sqTail else (t.ring g).cqHead
  let reads := (len == 4 || len == 8) && (off == 0 || off == 8)
  s.hostRead f (some tlp) .doorbell len (fun t => t) (fun t => if reads then leBytes len (value t) else List.replicate len 0)

/-- REGISTER_WRITE, and the accesses that no row of the table names (log 39): a write or read whose size and alignment meet
R305, any other being BAR0_BAD_SIZE_ACCESS; a read of a doorbell page; the flag accesses of a cycle; a mailbox access of an
HK core. -/
def execRegisterWrite (func : Fin 16) (offset : Nat) (acc : RegAccess) (wide : Bool) (tlp : Tlp) (s : State) :
    Host.Outcome State Fault Refusal :=
  .next (match acc with
    | .write value =>
      if offset % (if wide then 8 else 4) ≠ 0 then s
      else if (if func.val = 0 then 0x2000000 else 0x20000) ≤ offset then (if s.hostUp then s.noBar func.val false (some tlp) else s)
      else s.hostAccess func.val (some tlp) (funcGroup func.val offset) (fun s =>
        if func.val = 0 then s.pfWrite offset value wide tlp else s.vfWrite func.val offset value wide tlp)
    | .read => if offset % (if wide then 8 else 4) ≠ 0 then s else s.regRead func.val offset wide tlp
    | .doorbellRead page len => s.doorbellRead func.val page.val offset len tlp
    | .flags cycle => s.flagCycle cycle tlp
    | .hkMem core op => s.hkMem core.val op)

/-! ### Rows with a register of their own -/

/-- TMR_ANCHOR_HI_WRITE (R109). -/
def execTmrAnchorHiWrite (value : Word) (s : State) : Host.Outcome State Fault Refusal :=
  .next (s.hostAccess 0 none .island (fun s => s.writeTmr 0x14 value))

/-- SYS_LOCK_WRITE (R538). -/
def execSysLockWrite (value : Word) (s : State) : Host.Outcome State Fault Refusal :=
  .next (s.hostAccess 0 none .host (fun s => s.writeSys 0x10 value))

/-- SNT_RPT_RD_WRITE (R176). -/
def execSntRptRdWrite (value : Word) (s : State) : Host.Outcome State Fault Refusal :=
  .next (s.hostAccess 0 none .host (fun s => s.rptRdWrite value))

/-- SNT_RPT_LOST_CLR: a write of SNT_RPT_CTRL (R174). -/
def execSntRptLostClr (value : Word) (s : State) : Host.Outcome State Fault Refusal :=
  .next (s.hostAccess 0 none .host (fun s => s.rptCtrlWrite value))

/-- HIF_VLOG_RD_WRITE (R321). -/
def execHifVlogRdWrite (value : Word) (s : State) : Host.Outcome State Fault Refusal :=
  .next (s.hostAccess 0 none .host (fun s => s.vlogRdWrite value))

/-- HIF_RBLK_OWNER_WRITE (R298). -/
def execHifRblkOwnerWrite (hi : Bool) (value : Word) (tlp : Tlp) (s : State) : Host.Outcome State Fault Refusal :=
  .next (s.hostAccess 0 (some tlp) .host (fun s => if hi then s.ownerWrite none (some value) tlp else s.ownerWrite (some value) none tlp))

/-- CSC_RCTL_GO (R463). -/
def execCscRctlGo (value : Word) (s : State) : Host.Outcome State Fault Refusal :=
  .next (s.hostAccess 0 none .engine (fun s => s.writeCsc 0x80 value))

/-- REMOTE_ACCESS_DONE: the reply of the member, or the end without one (R463). -/
def execRemoteAccessDone (result : Fin 4) (data : Word) (s : State) : Host.Outcome State Fault Refusal :=
  .next (match s.casc.rgo with
    | none => s
    | some (ctl, _) => { s with casc := { s.casc with
        rgo := none, rres := result.val
        rdata := if result.val = 0 ∧ !ctl.getLsbD 28 then data else s.casc.rdata } })

/-! ### Reads with an effect (R534, R535) -/

/-- TMR_UPTIME_LO_READ: the high half is latched (R534). -/
def execTmrUptimeLoRead (wide : Bool) (s : State) : Host.Outcome State Fault Refusal :=
  let len := if wide then 8 else 4
  .next (s.hostRead 0 none .island len (fun t => t.latchRead 0x20000) (fun t => leBytes len t.tmr.uptime))

/-- SLC_FRAME_IDX_LO_READ: the high half is latched (R365, R534). -/
def execSlcFrameIdxLoRead (wide : Bool) (s : State) : Host.Outcome State Fault Refusal :=
  let len := if wide then 8 else 4
  .next (s.hostRead 0 none .engine len (fun t => t.latchRead 0x50008) (fun t => leBytes len (t.slc.frame.getD 0)))

/-! ### BAR4 (R303, R530) -/

/-- An access of `len` bytes at a BAR4 address is one the window accepts. -/
def bar4Sized (addr len : Nat) : Bool := (len == 4 || len == 8 || len == 16 || len == 32) && addr % len == 0

/-- Size code of a maintenance access. -/
def sizeCode (len : Nat) : Nat := if len = 32 then 3 else if len = 16 then 2 else if len = 8 then 1 else 0

/-- A cistern access as one maintenance packet. -/
def State.cisAccess (s : State) (src addr : Nat) (write : Option (List Byte)) (len : Nat) : State :=
  let t := addr / 0x100000 % 64
  let half := addr % 0x100000 / 32
  match write with
  | some bs => s.send (s.maint src 0x20 t true half (addr % 32) (sizeCode len) bs)
  | none => s.maintRead (s.maint src 0x21 t true half (addr % 32) (sizeCode len) [])

/-- BAR4_ACCESS: outside MANUFACTURE and SERVICE the request hits no BAR (R303); a bad size or alignment is answered as
R305 answers BAR0. -/
def execBar4Access (addr : Nat) (write : Option (List Byte)) (len : Nat) (tlp : Tlp) (s : State) :
    Host.Outcome State Fault Refusal :=
  let n := match write with
    | some bs => bs.length
    | none => len
  .next (
    if !s.hostUp then s
    else if !s.decodes 0 ∨ !s.debugOpen ∨ 0x4000000 ≤ addr then s.noBar 0 write.isNone (some tlp)
    else if !bar4Sized addr n then (if write.isNone then s.emit .ca else s).misbehave 0x05 2 0 tlp
    else if !s.answers .fabric then (if write.isNone then s.leaveL1.emit (.data (List.replicate n 0)) else s)
    else s.hostAccess 0 (some tlp) .fabric (fun s => s.cisAccess 0 addr write n))

/-! ### Remote accesses at a member (R463) -/

/-- REMOTE_ACCESS_MESSAGE: a member serves an access of the master as its own host interface would serve one, and
answers. -/
def execRemoteAccessMessage (offset : Nat) (write : Option Word) (s : State) : Host.Outcome State Fault Refusal :=
  let reply (s : State) (r : Nat) (d : Word) : State := s.emit (.link true (.remoteReply r d))
  let b := groupOf offset
  let noTlp : Tlp := { rid := 0, hdr := 0 }
  .next (
    if s.pins.role ≠ .member ∨ !s.casc.numbered ∨ s.casc.fenced ∨ !s.mainLive ∨ s.casc.portUp.state ≠ .up ∨ offset % 4 ≠ 0 then s
    else match write with
      | some v =>
        if remoteRefused offset then reply s 3 0
        else reply (s.access b (fun s => s.pfWrite offset (v.setWidth 64) false noTlp)) 0 0
      | none =>
        if !s.answers b then reply s 0 0
        else if b = .fabric then
          (if offset < 0x2000000 then s.maintRead (s.maint 2 0x21 (terOf offset).1 false (terOf offset).2 0 0 []) else reply s 0 0)
        else
          reply (s.access b (fun t => t.latchRead offset)) 0 (s.readReg offset))

end Sys2Proof.Machine
end

