-- ==== Sys2Proof/Machine/Debug.lean ====
section
/-! DEFINITION. The SMBus target (R540 to R543) and the test access port (R522, R523). -/

namespace Sys2Proof.Machine

/-! ### SMBus -/

/-- The register of a command code (Table 21-5). SYS_ID and SYS_REV live in the main domain and read 0 until the first main
power-up (R540). -/
def State.smbRead (s : State) (code : Nat) : Option Word :=
  let main (w : Word) : Word := if s.sys.mainUp then w else 0
  match code with
  | 0x00 => some (main sysId)
  | 0x01 => some (main (s.sys.rev.setWidth 32))
  | 0x02 => some s.pins.strapWord
  | 0x03 => some s.sys.smbWord
  | 0x10 => some s.pwr.stateWord
  | 0x11 => some (BitVec.ofNat 32 s.pwr.faultWord)
  | 0x12 => some s.pwr.railWord
  | 0x13 => some s.pwr.tjReg
  | 0x20 => some (halfWord s.tmr.uptime false)
  | 0x21 => some s.sys.smbHi
  | 0x22 => some s.tmr.epoch
  | 0x30 => some s.sntState
  | 0x31 => some s.sntWake
  | _ => none

/-- A protocol error counted, with its cause (R543). -/
def State.smbError (s : State) (cause : Nat) : State :=
  { s with sys := { s.sys with smbLast := cause, smbErrors := satInc 0xFFFF s.sys.smbErrors } }

/-- The target answers: every state but OFF (R540). -/
def State.smbUp (s : State) : Bool := s.islandUp && s.pwr.dev != .off

/-- SMBUS_BLOCK_READ: byte count 4 and the register's bytes, or a NACK (R540, R541, Table 21-6). -/
def execSmbusBlockRead (code : Byte) (s : State) : Host.Outcome State Fault Refusal :=
  .next (if !s.smbUp then s
    else match s.smbRead code.toNat with
      | none => (s.smbError 1).emit .smbNack
      | some w =>
        let s1 : State := if code.toNat = 0x20 then { s with sys := { s.sys with smbHi := halfWord s.tmr.uptime true } } else s
        s1.emit (.smb (4 :: leBytes 4 w.toNat)))

/-- SMBUS_ALERT_RESPONSE: the device that drives ALERT_N answers with its address and releases it (R542). -/
def execSmbusAlertResponse (s : State) : Host.Outcome State Fault Refusal :=
  .next (if s.smbUp ∧ s.pins.alertLow then
      ({ s with pins := { s.pins with alertLow := false } } : State).emit (.smb [BitVec.ofNat 8 (2 * s.sys.smbAddr.toNat)])
    else s)

/-- SMBUS_PROTOCOL_ERROR (Table 21-6): cause 5 is seen by the host alone. -/
def execSmbusProtocolError (cause : Nat) (s : State) : Host.Outcome State Fault Refusal :=
  .next (if !s.smbUp then s
    else match cause with
      | 1 => (s.smbError 1).emit .smbNack
      | 2 => (s.smbError 2).emit .smbNack
      | 3 => s.smbError 3
      | 4 => s.smbError 4
      | _ => s)

/-- SMBUS_SCL_TIMEOUT: SDA is released and the interface reset (Table 21-6). -/
def execSmbusSclTimeout (s : State) : Host.Outcome State Fault Refusal := .next (if s.smbUp then s.smbError 3 else s)

/-! ### TAP -/

/-- The TAP is out of reset: every main rail is good (R70). -/
def State.tapUp (s : State) : Bool := s.islandUp && s.pwr.mainGood

/-- A TAP command: nothing while the main domain is isolated and in reset (R70). -/
def State.tap (s : State) (k : State → State) : State := if s.tapUp then k s else s

/-- An instruction selected; the production test modes last while TEST_MODE is the instruction. -/
def State.tapSelect (s : State) (ir : BitVec 8) : State := { s with sys := { s.sys with tapIr := ir, testMode := ir == 0x15 } }

/-- A debug instruction in the states that open it, else BYPASS (R522, Table 20-7). -/
def State.tapDebug (s : State) (ir : BitVec 8) (k : State → State) : State :=
  s.tap (fun s => if s.debugOpen then k (s.tapSelect ir) else s.tapSelect 0xFF)

/-- Low `n` bits of a number, least significant first. -/
def bitList (n v : Nat) : List Bool := (List.range n).map (fun i => bitAt v i)

/-- TAP_RESET: Test-Logic-Reset selects IDCODE. -/
def execTapReset (s : State) : Host.Outcome State Fault Refusal := .next (s.tap (fun s => s.tapSelect 0x02))

/-- EXTEST: the boundary register, shifted in, drives the balls it covers; what it held is shifted out (R523, log 24). -/
def execExtest (pins : List Bool) (s : State) : Host.Outcome State Fault Refusal :=
  .next (s.tap (fun s => (({ s with sys := { s.sys with boundary := pins } } : State).tapSelect 0x00).emit (.tap s.sys.boundary)))

/-- SAMPLE_PRELOAD: the boundary register takes the bits shifted in, and what it held is shifted out; the balls keep their
functions. -/
def execSamplePreload (pins : List Bool) (s : State) : Host.Outcome State Fault Refusal :=
  .next (s.tap (fun s => (({ s with sys := { s.sys with boundary := pins } } : State).tapSelect 0x01).emit (.tap s.sys.boundary)))

/-- The identification code (Table 20-8). -/
def State.idBits (s : State) : List Bool :=
  bitList 32 (s.sys.rev.toNat * 2 ^ 28 + 0x7240 * 2 ^ 12 + s.sys.mfr.toNat * 2 + 1)

/-- IDCODE. -/
def execIdcode (s : State) : Host.Outcome State Fault Refusal := .next (s.tap (fun s => (s.tapSelect 0x02).emit (.tap s.idBits)))

/-- CLAMP: the boundary register drives its balls and the bypass register is selected. -/
def execClamp (s : State) : Host.Outcome State Fault Refusal := .next (s.tap (fun s => s.tapSelect 0x03))

/-- HIGHZ. -/
def execHighz (s : State) : Host.Outcome State Fault Refusal := .next (s.tap (fun s => s.tapSelect 0x04))

/-- HK_DEBUG: a core halted or resumed; reading and stepping a core changes nothing the spec names. -/
def execHkDebug (op : HkOp) (s : State) : Host.Outcome State Fault Refusal :=
  .next (s.tapDebug 0x10 (fun s => match op with
    | .halt c => { s with sys := { s.sys with hkHalt := setBit s.sys.hkHalt c.val true } }
    | .resume c => { s with sys := { s.sys with hkHalt := setBit s.sys.hkHalt c.val false } }
    | .other => s))

/-- FABRIC_ACCESS: MAINT_WR or MAINT_RD into the TER region; a fabric that does not answer reads 0 (R528). -/
def execFabricAccess (ter : Fin 64) (offset : Nat) (write : Option Word) (s : State) : Host.Outcome State Fault Refusal :=
  .next (s.tapDebug 0x12 (fun s =>
    if !(s.mainLive && s.answers .fabric) then (if write.isNone then s.emit (.tap (bitList 32 0)) else s)
    else match write with
      | some v => s.send (s.maint 1 0x20 ter.val false (offset % 0x40000 / 4) 0 0 (leBytes 4 v.toNat))
      | none => s.maintRead (s.maint 1 0x21 ter.val false (offset % 0x40000 / 4) 0 0 [])))

/-- CISTERN_ACCESS: as BAR4 (R530); an access BAR4 would not accept is not made. -/
def execCisternAccess (addr : Nat) (write : Option (List Byte)) (len : Nat) (s : State) : Host.Outcome State Fault Refusal :=
  let n := match write with
    | some bs => bs.length
    | none => len
  .next (s.tapDebug 0x13 (fun s =>
    if !bar4Sized addr n ∨ 0x4000000 ≤ addr then s
    else if !(s.mainLive && s.answers .fabric) then (if write.isNone then s.emit (.tap (bitList (8 * n) 0)) else s)
    else s.cisAccess 1 addr write n))

/-- The fuses FUSE_READ shows: two copies of each transition fuse, identity and repair, in an order of the model's own (log 24); never a key. -/
def State.fuseBits (s : State) : List Bool :=
  let l := s.lcs
  let burnt := [l.fProv, l.fDepl, l.fRet] ++ bitList 32 (2 ^ l.svcIn - 1) ++ bitList 32 (2 ^ l.svcOut - 1)
  (burnt.mapIdx (fun i b => [b || l.fuseOne.contains i, b])).flatten ++ bitList 64 l.uid.toNat ++
  bitList 4 s.sys.rev.toNat ++ bitList 11 s.sys.mfr.toNat ++
  s.basins.flatMap (fun e => bitList 13 e.1 ++
    e.2.sRow.flatMap (fun r => r.isSome :: bitList 10 (r.getD 0)) ++ e.2.sCol.flatMap (fun r => r.isSome :: bitList 9 (r.getD 0)))

/-- FUSE_READ. -/
def execFuseRead (s : State) : Host.Outcome State Fault Refusal :=
  .next (s.tapDebug 0x14 (fun s => s.emit (.tap s.fuseBits)))

/-- TEST_MODE: MANUFACTURE only. -/
def execTestMode (s : State) : Host.Outcome State Fault Refusal :=
  .next (s.tap (fun s => if s.lcs.active = .manufacture ∧ !s.lcs.closed then s.tapSelect 0x15 else s.tapSelect 0xFF))

/-- BYPASS, and every instruction that is unknown. -/
def execBypass (s : State) : Host.Outcome State Fault Refusal := .next (s.tap (fun s => s.tapSelect 0xFF))

end Sys2Proof.Machine
end

