-- ==== Sys2Proof/Machine/Dispatch.lean ====
section
/-! DEFINITION. The dispatch: each command to its meaning, one arm per constructor. -/

namespace Sys2Proof.Machine

def exec (i : Instr) (s : State) : Host.Outcome State Fault Refusal :=
  match i with
  | .vauxGood => Sys2Proof.Machine.execVauxGood s
  | .vauxLoss cut => Sys2Proof.Machine.execVauxLoss cut s
  | .strapLatch samples => Sys2Proof.Machine.execStrapLatch samples s
  | .mainRailGood rail => Sys2Proof.Machine.execMainRailGood rail s
  | .railTimeout => Sys2Proof.Machine.execRailTimeout s
  | .mainRailLoss rail cut => Sys2Proof.Machine.execMainRailLoss rail cut s
  | .dryToSentry rail => Sys2Proof.Machine.execDryToSentry rail s
  | .railOvervoltage rail edge => Sys2Proof.Machine.execRailOvervoltage rail edge s
  | .thermalWarning tj => Sys2Proof.Machine.execThermalWarning tj s
  | .thermalTrip tj cut => Sys2Proof.Machine.execThermalTrip tj cut s
  | .pllLossOfLock cut => Sys2Proof.Machine.execPllLossOfLock cut s
  | .hkWatchdogExpire core cut => Sys2Proof.Machine.execHkWatchdogExpire core cut s
  | .internalFatalError code cut => Sys2Proof.Machine.execInternalFatalError code cut s
  | .perstNRise start => Sys2Proof.Machine.execPerstNRise start s
  | .startRelease => Sys2Proof.Machine.execStartRelease s
  | .perstNAssert cut => Sys2Proof.Machine.execPerstNAssert cut s
  | .configRequest req => Sys2Proof.Machine.execConfigRequest req s
  | .crystalDetected => Sys2Proof.Machine.execCrystalDetected s
  | .crystalLost => Sys2Proof.Machine.execCrystalLost s
  | .trimWindowClose trim => Sys2Proof.Machine.execTrimWindowClose trim s
  | .uptimeTick => Sys2Proof.Machine.execUptimeTick s
  | .hopBoundary chans refs => Sys2Proof.Machine.execHopBoundary chans refs s
  | .featureBankSwitch chan => Sys2Proof.Machine.execFeatureBankSwitch chan s
  | .dozeIdleTimeout => Sys2Proof.Machine.execDozeIdleTimeout s
  | .dozeExitDone => Sys2Proof.Machine.execDozeExitDone s
  | .pwrReqDoze => Sys2Proof.Machine.execPwrReqDoze s
  | .pwrReqRun => Sys2Proof.Machine.execPwrReqRun s
  | .pwrReqEconomy => Sys2Proof.Machine.execPwrReqEconomy s
  | .pwrPeakClr => Sys2Proof.Machine.execPwrPeakClr s
  | .fclkSwitchDone => Sys2Proof.Machine.execFclkSwitchDone s
  | .terracePowerGood ter => Sys2Proof.Machine.execTerracePowerGood ter s
  | .terraceIdleTimeout ter => Sys2Proof.Machine.execTerraceIdleTimeout ter s
  | .peripheryHoldExpire basin => Sys2Proof.Machine.execPeripheryHoldExpire basin s
  | .peripheryPowerGood basin => Sys2Proof.Machine.execPeripheryPowerGood basin s
  | .shutdown ring => Sys2Proof.Machine.execShutdown ring s
  | .dryDrainDone test => Sys2Proof.Machine.execDryDrainDone test s
  | .drydownCommit tankMv => Sys2Proof.Machine.execDrydownCommit tankMv s
  | .drydoneRise => Sys2Proof.Machine.execDrydoneRise s
  | .pmeTurnOff tlp => Sys2Proof.Machine.execPmeTurnOff tlp s
  | .doorbellSqTail func page value tlp => Sys2Proof.Machine.execDoorbellSqTail func page value tlp s
  | .doorbellCqHead func page value tlp => Sys2Proof.Machine.execDoorbellCqHead func page value tlp s
  | .doorbellStrayWrite func page tlp => Sys2Proof.Machine.execDoorbellStrayWrite func page tlp s
  | .bar0BadSizeAccess func isRead tlp => Sys2Proof.Machine.execBar0BadSizeAccess func isRead tlp s
  | .malformedTlp tlp => Sys2Proof.Machine.execMalformedTlp tlp s
  | .poisonedWrite func tlp => Sys2Proof.Machine.execPoisonedWrite func tlp s
  | .ecrcMismatch tlp => Sys2Proof.Machine.execEcrcMismatch tlp s
  | .unsupportedRequest func tlp => Sys2Proof.Machine.execUnsupportedRequest func tlp s
  | .unexpectedCompletion tlp => Sys2Proof.Machine.execUnexpectedCompletion tlp s
  | .completionTimeout src => Sys2Proof.Machine.execCompletionTimeout src s
  | .flr func => Sys2Proof.Machine.execFlr func s
  | .hotReset => Sys2Proof.Machine.execHotReset s
  | .dlDown => Sys2Proof.Machine.execDlDown s
  | .busMasterEnableChange func on => Sys2Proof.Machine.execBusMasterEnableChange func on s
  | .powerstateD3hot => Sys2Proof.Machine.execPowerstateD3hot s
  | .powerstateD0 => Sys2Proof.Machine.execPowerstateD0 s
  | .aspmL1Idle sub => Sys2Proof.Machine.execAspmL1Idle sub s
  | .msixUnmask func entry => Sys2Proof.Machine.execMsixUnmask func entry s
  | .registerWrite func offset acc wide tlp => Sys2Proof.Machine.execRegisterWrite func offset acc wide tlp s
  | .tmrUptimeLoRead wide => Sys2Proof.Machine.execTmrUptimeLoRead wide s
  | .slcFrameIdxLoRead wide => Sys2Proof.Machine.execSlcFrameIdxLoRead wide s
  | .tmrAnchorHiWrite value => Sys2Proof.Machine.execTmrAnchorHiWrite value s
  | .sysLockWrite value => Sys2Proof.Machine.execSysLockWrite value s
  | .sntRptRdWrite value => Sys2Proof.Machine.execSntRptRdWrite value s
  | .sntRptLostClr value => Sys2Proof.Machine.execSntRptLostClr value s
  | .hifVlogRdWrite value => Sys2Proof.Machine.execHifVlogRdWrite value s
  | .hifRblkOwnerWrite hi value tlp => Sys2Proof.Machine.execHifRblkOwnerWrite hi value tlp s
  | .ringEnable func ring value tlp => Sys2Proof.Machine.execRingEnable func ring value tlp s
  | .ringDisable func ring value tlp => Sys2Proof.Machine.execRingDisable func ring value tlp s
  | .ringDescriptorWrite func ring offset value wide tlp => Sys2Proof.Machine.execRingDescriptorWrite func ring offset value wide tlp s
  | .slcFrameCfgWrite value => Sys2Proof.Machine.execSlcFrameCfgWrite value s
  | .kflagSetWrite word value => Sys2Proof.Machine.execKflagSetWrite word value s
  | .kflagClrWrite word value => Sys2Proof.Machine.execKflagClrWrite word value s
  | .cscRctlGo value => Sys2Proof.Machine.execCscRctlGo value s
  | .remoteAccessDone result data => Sys2Proof.Machine.execRemoteAccessDone result data s
  | .bar4Access addr write len tlp => Sys2Proof.Machine.execBar4Access addr write len tlp s
  | .ringFetchCompletion ring result => Sys2Proof.Machine.execRingFetchCompletion ring result s
  | .sluiceDecision => Sys2Proof.Machine.execSluiceDecision s
  | .ringModTimer ring => Sys2Proof.Machine.execRingModTimer ring s
  | .nop ring => Sys2Proof.Machine.execNop ring s
  | .fence ring => Sys2Proof.Machine.execFence ring s
  | .timestamp ring => Sys2Proof.Machine.execTimestamp ring s
  | .waitFlag ring => Sys2Proof.Machine.execWaitFlag ring s
  | .waitFlagSatisfied ring => Sys2Proof.Machine.execWaitFlagSatisfied ring s
  | .waitFlagDeadline ring => Sys2Proof.Machine.execWaitFlagDeadline ring s
  | .setFlag ring => Sys2Proof.Machine.execSetFlag ring s
  | .listCall ring => Sys2Proof.Machine.execListCall ring s
  | .listFetchCompletion ring result => Sys2Proof.Machine.execListFetchCompletion ring result s
  | .timeAnchor ring => Sys2Proof.Machine.execTimeAnchor ring s
  | .graphLoad ring => Sys2Proof.Machine.execGraphLoad ring s
  | .cgdReadComplete cid result => Sys2Proof.Machine.execCgdReadComplete cid result s
  | .graphUnload ring => Sys2Proof.Machine.execGraphUnload ring s
  | .graphRelease handle => Sys2Proof.Machine.execGraphRelease handle s
  | .graphRun ring => Sys2Proof.Machine.execGraphRun ring s
  | .graphRunFrame ring => Sys2Proof.Machine.execGraphRunFrame ring s
  | .tensorIn ring => Sys2Proof.Machine.execTensorIn ring s
  | .tensorOut ring => Sys2Proof.Machine.execTensorOut ring s
  | .layerThreshold ring => Sys2Proof.Machine.execLayerThreshold ring s
  | .exactMode ring => Sys2Proof.Machine.execExactMode ring s
  | .runHeadWake cid => Sys2Proof.Machine.execRunHeadWake cid s
  | .runComplete cid => Sys2Proof.Machine.execRunComplete cid s
  | .afeConfig ring => Sys2Proof.Machine.execAfeConfig ring s
  | .sentinelArm ring => Sys2Proof.Machine.execSentinelArm ring s
  | .sentinelDisarm ring => Sys2Proof.Machine.execSentinelDisarm ring s
  | .featureRoute ring => Sys2Proof.Machine.execFeatureRoute ring s
  | .csiConfig ring => Sys2Proof.Machine.execCsiConfig ring s
  | .intakeConfig ring => Sys2Proof.Machine.execIntakeConfig ring s
  | .imageOpen ring => Sys2Proof.Machine.execImageOpen ring s
  | .programRows ring record high => Sys2Proof.Machine.execProgramRows ring record high s
  | .programBatchDone stuck high => Sys2Proof.Machine.execProgramBatchDone stuck high s
  | .tankWaitTimeout => Sys2Proof.Machine.execTankWaitTimeout s
  | .verify ring => Sys2Proof.Machine.execVerify ring s
  | .eraseBasin ring => Sys2Proof.Machine.execEraseBasin ring s
  | .eraseDone => Sys2Proof.Machine.execEraseDone s
  | .recalibrate ring reads => Sys2Proof.Machine.execRecalibrate ring reads s
  | .holdupQuery ring => Sys2Proof.Machine.execHoldupQuery ring s
  | .imageClose ring => Sys2Proof.Machine.execImageClose ring s
  | .tankComparatorCross above mv => Sys2Proof.Machine.execTankComparatorCross above mv s
  | .tankBoostThreshold stop mv => Sys2Proof.Machine.execTankBoostThreshold stop mv s
  | .segmentQueue ring => Sys2Proof.Machine.execSegmentQueue ring s
  | .jump ring => Sys2Proof.Machine.execJump ring s
  | .streamStart ring => Sys2Proof.Machine.execStreamStart ring s
  | .streamStop ring => Sys2Proof.Machine.execStreamStop ring s
  | .tdmConfig ring => Sys2Proof.Machine.execTdmConfig ring s
  | .tdmFrame => Sys2Proof.Machine.execTdmFrame s
  | .tdmFsEdge sckOffset => Sys2Proof.Machine.execTdmFsEdge sckOffset s
  | .tdmFsMissing => Sys2Proof.Machine.execTdmFsMissing s
  | .tdmSckLost => Sys2Proof.Machine.execTdmSckLost s
  | .streamUnitArrival stream bytes => Sys2Proof.Machine.execStreamUnitArrival stream bytes s
  | .prefetchCompletion stream result => Sys2Proof.Machine.execPrefetchCompletion stream result s
  | .bistRun ring => Sys2Proof.Machine.execBistRun ring s
  | .mapoutRead ring => Sys2Proof.Machine.execMapoutRead ring s
  | .lifecycleAdvance ring token => Sys2Proof.Machine.execLifecycleAdvance ring token s
  | .retirementResume n => Sys2Proof.Machine.execRetirementResume n s
  | .logRead ring => Sys2Proof.Machine.execLogRead ring s
  | .mirrorControl ring => Sys2Proof.Machine.execMirrorControl ring s
  | .snapshotEndAck pair => Sys2Proof.Machine.execSnapshotEndAck pair s
  | .cascadeEnum ring => Sys2Proof.Machine.execCascadeEnum ring s
  | .drydownInvalidate ring => Sys2Proof.Machine.execDrydownInvalidate ring s
  | .basinFire handle place cis => Sys2Proof.Machine.execBasinFire handle place cis s
  | .evaluationComplete handle place => Sys2Proof.Machine.execEvaluationComplete handle place s
  | .trackingEvaluation read => Sys2Proof.Machine.execTrackingEvaluation read s
  | .rideAlongWindow basin => Sys2Proof.Machine.execRideAlongWindow basin s
  | .forwardPacket handle place edge cis => Sys2Proof.Machine.execForwardPacket handle place edge cis s
  | .actData p => Sys2Proof.Machine.execActData p s
  | .tensorData p => Sys2Proof.Machine.execTensorData p s
  | .readReq p => Sys2Proof.Machine.execReadReq p s
  | .readData p => Sys2Proof.Machine.execReadData p s
  | .credit p => Sys2Proof.Machine.execCredit p s
  | .prewake p => Sys2Proof.Machine.execPrewake p s
  | .maintWr p => Sys2Proof.Machine.execMaintWr p s
  | .maintRd p => Sys2Proof.Machine.execMaintRd p s
  | .maintResp p => Sys2Proof.Machine.execMaintResp p s
  | .moatSet p => Sys2Proof.Machine.execMoatSet p s
  | .fsyncEdge => Sys2Proof.Machine.execFsyncEdge s
  | .frameTimerExpire => Sys2Proof.Machine.execFrameTimerExpire s
  | .fsyncMissed => Sys2Proof.Machine.execFsyncMissed s
  | .fireInstant handle => Sys2Proof.Machine.execFireInstant handle s
  | .csiFrameStart port head => Sys2Proof.Machine.execCsiFrameStart port head s
  | .csiFrameEnd port head => Sys2Proof.Machine.execCsiFrameEnd port head s
  | .csiLongPacket port vc dt corrected dropped crcOk payload => Sys2Proof.Machine.execCsiLongPacket port vc dt corrected dropped crcOk payload s
  | .intakeDelivery cid unit => Sys2Proof.Machine.execIntakeDelivery cid unit s
  | .cascadeFrameRx up frame => Sys2Proof.Machine.execCascadeFrameRx up frame s
  | .cascadeTrainingDone up lanes partnerOk => Sys2Proof.Machine.execCascadeTrainingDone up lanes partnerOk s
  | .enumerationMessage n reply => Sys2Proof.Machine.execEnumerationMessage n reply s
  | .chainEndTimeout => Sys2Proof.Machine.execChainEndTimeout s
  | .memberReleaseReport dev uid fw epoch => Sys2Proof.Machine.execMemberReleaseReport dev uid fw epoch s
  | .heartbeatSend => Sys2Proof.Machine.execHeartbeatSend s
  | .heartbeatReceive dev mirSeq => Sys2Proof.Machine.execHeartbeatReceive dev mirSeq s
  | .memberLost dev => Sys2Proof.Machine.execMemberLost dev s
  | .dryRelay => Sys2Proof.Machine.execDryRelay s
  | .mirrorRecordRx bytes => Sys2Proof.Machine.execMirrorRecordRx bytes s
  | .mirrorAckRx pair seq => Sys2Proof.Machine.execMirrorAckRx pair seq s
  | .mirrorAckTimeout pair => Sys2Proof.Machine.execMirrorAckTimeout pair s
  | .remoteAccessMessage offset write => Sys2Proof.Machine.execRemoteAccessMessage offset write s
  | .smbusBlockRead code => Sys2Proof.Machine.execSmbusBlockRead code s
  | .smbusAlertResponse => Sys2Proof.Machine.execSmbusAlertResponse s
  | .smbusProtocolError cause => Sys2Proof.Machine.execSmbusProtocolError cause s
  | .smbusSclTimeout => Sys2Proof.Machine.execSmbusSclTimeout s
  | .tapReset => Sys2Proof.Machine.execTapReset s
  | .extest pins => Sys2Proof.Machine.execExtest pins s
  | .samplePreload pins => Sys2Proof.Machine.execSamplePreload pins s
  | .idcode => Sys2Proof.Machine.execIdcode s
  | .clamp => Sys2Proof.Machine.execClamp s
  | .highz => Sys2Proof.Machine.execHighz s
  | .hkDebug op => Sys2Proof.Machine.execHkDebug op s
  | .hkRelease start => Sys2Proof.Machine.execHkRelease start s
  | .fabricAccess ter offset write => Sys2Proof.Machine.execFabricAccess ter offset write s
  | .cisternAccess addr write len => Sys2Proof.Machine.execCisternAccess addr write len s
  | .fuseRead => Sys2Proof.Machine.execFuseRead s
  | .testMode => Sys2Proof.Machine.execTestMode s
  | .bypass => Sys2Proof.Machine.execBypass s
  | .dozeEntryDone => Sys2Proof.Machine.execDozeEntryDone s
  | .dataReadCompletion cid result => Sys2Proof.Machine.execDataReadCompletion cid result s
  | .flowControlCreditReturn n => Sys2Proof.Machine.execFlowControlCreditReturn n s
  | .verifyDone record below above reads => Sys2Proof.Machine.execVerifyDone record below above reads s
  | .bistRunDone test => Sys2Proof.Machine.execBistRunDone test s
  | .lifecycleTransitionDone idPub => Sys2Proof.Machine.execLifecycleTransitionDone idPub s
  | .micbiasCurrentLimit k => Sys2Proof.Machine.execMicbiasCurrentLimit k s
  | .preamplifierClip chan => Sys2Proof.Machine.execPreamplifierClip chan s
  | .thermalWarningReturn tj => Sys2Proof.Machine.execThermalWarningReturn tj s
  | .laneStopState port stop clkHs deskew => Sys2Proof.Machine.execLaneStopState port stop clkHs deskew s
  | .linkUp speed width credits => Sys2Proof.Machine.execLinkUp speed width credits s
  | .mirrorResendRequest pair seq => Sys2Proof.Machine.execMirrorResendRequest pair seq s
  | .routingTableWrite table alsoNum => Sys2Proof.Machine.execRoutingTableWrite table alsoNum s
  | .masterWorkMessage ring tag opcode work => Sys2Proof.Machine.execMasterWorkMessage ring tag opcode work s

end Sys2Proof.Machine
end

