-- ==== Sys2Proof/Machine/Balls.lean ====
section
/-! DEFINITION. The balls the block drives: what stands on each, from the arrival of its supply on (R46, R48, R49, R523, Table
2-5, Table 12-5). -/

namespace Sys2Proof.Machine

/-- A ball, or a lane's pair, that Table 2-5 lists as an output or gives a state of its own. -/
inductive Ball where
  | micBias (k : Fin 4)
  | alertN | wakeN | drydone | smbSda | clkreqN
  | tdmSck | tdmFs
  | tdmSd (line : Fin 2)
  | spiSck | spiCsN
  | spiIo (i : Fin 4)
  | tdo
  | csi (port : Fin 2)
  | cascTx (up : Bool)
  | cascRx (up : Bool)
  | pcieTx | pcieRx
  deriving DecidableEq, Repr

/-- What stands on a ball. `released` is an open drain let go, `off` a bias supply discharged, `idle` electrical idle, `open_`
a receiver with its terminations off; `active` that the ball's function drives or terminates it; `boundary` that the boundary
register drives it; `unpowered` that its supply is absent. -/
inductive Level where
  | low | high | released | highZ | off | idle | open_ | input | active | boundary | unpowered
  deriving DecidableEq, Repr

/-- The supply of a ball is there (Table 2-5): VAUX, VDDH (PWR_RAIL bit 3), or the two PHY rails. -/
def State.ballPowered (s : State) : Ball → Bool
  | .micBias _ | .alertN | .wakeN | .drydone | .smbSda => s.islandUp
  | .tdmSck | .tdmFs | .tdmSd _ | .spiSck | .spiCsN | .spiIo _ | .tdo | .clkreqN => s.islandUp && s.pwr.railGood.getLsbD 3
  | .csi _ | .cascTx _ | .cascRx _ | .pcieTx | .pcieRx =>
    s.islandUp && s.pwr.railGood.getLsbD 4 && s.pwr.railGood.getLsbD 5

/-- The boundary register covers the ball: a digital ball, not one of the test access port (R523). -/
def Ball.covered : Ball → Bool
  | .alertN | .wakeN | .drydone | .smbSda | .clkreqN | .tdmSck | .tdmFs | .tdmSd _ | .spiSck | .spiCsN | .spiIo _ => true
  | .micBias _ | .tdo | .csi _ | .cascTx _ | .cascRx _ | .pcieTx | .pcieRx => false

/-- CLKREQ_N is asserted (R48, Table 12-5): during a start and in every state with the main rails but DOZE, where it is held only
for a trained cascade port or while FCLK comes back. -/
def State.clkreq (s : State) : Bool :=
  match s.pwr.dev with
  | .off | .sentry => s.pwr.start.isSome
  | .doze => s.portTrained || s.pwr.dozeExit.isSome
  | .run | .economy | .dry | .fault => true

/-- A cascade port's lanes run: in training, up or retraining. -/
def PortState.lanesOn : PortState → Bool
  | .training | .up | .retraining => true
  | .off | .down => false

/-- The PCIe PHY runs: the host interface domain is powered (Table 3-7). -/
def State.phyOn (s : State) : Bool :=
  s.pins.role != .member && s.pwr.mainGood && (s.pwr.start.isSome || !(s.pwr.dev == .off || s.pwr.dev == .sentry))

/-- What a ball's own function puts on it; between transfers for SMBus, the flash bus and the test access port. -/
def State.ballOwn (s : State) : Ball → Level
  | .micBias k => if ((s.afe.mic[k.val]?).map (fun m => m.en)).getD false then .active else .off
  | .alertN => if s.pins.alertLow then .low else .released
  | .wakeN => if s.pins.wakeLow then .low else .released
  | .drydone => if s.pins.dryDone then .high else .low
  | .smbSda => .released
  | .clkreqN => if s.clkreq then .low else .released
  | .tdmSck | .tdmFs => if s.str.conf && s.str.master then .active else .input
  | .tdmSd i => if s.str.conf && s.str.lines.getLsbD i.val then .active else .highZ
  | .spiSck => .low
  | .spiCsN => .high
  | .spiIo _ => .highZ
  | .tdo => .highZ
  | .csi p => if (s.csiPort p.val).en then .active else .highZ
  | .cascTx up => if (s.port up).state.lanesOn then .active else .idle
  | .cascRx up => if (s.port up).state.lanesOn then .active else .open_
  | .pcieTx => if s.phyOn && !s.hif.inL1 then .active else .idle
  | .pcieRx => if s.phyOn then .active else .open_

/-- What stands on a ball: EXTEST and CLAMP give the covered balls to the boundary register, HIGHZ takes them off (R523). -/
def State.ball (s : State) (b : Ball) : Level :=
  if !s.ballPowered b then .unpowered
  else if b.covered && s.tapUp && (s.sys.tapIr == 0x00 || s.sys.tapIr == 0x03) then .boundary
  else if b.covered && s.tapUp && s.sys.tapIr == 0x04 then .highZ
  else s.ballOwn b

end Sys2Proof.Machine
end

