-- ==== Sys2Proof/Safety.lean ====
section
/-! DEFINITION. What statements count on: that a command completes and how, what the writing of completion records and
the sending of messages may touch, and the invariants of the block that every step keeps. -/

namespace Sys2Proof.Machine

/-- The command completes: exec answers a next state. -/
def Completes (c : Instr) (s : State) : Prop := ∃ t, exec c s = .next t

/-- The command completes in a next state that is as `P` says. -/
def Yields (c : Instr) (s : State) (P : State → Prop) : Prop := ∃ t, exec c s = .next t ∧ P t

/-! ### Frames -/

/-- Numbers of commands in flight are below the next one to be given (log 5). -/
def CidsFresh (s : State) : Prop := ∀ c ∈ s.cmds, c.cid < s.nextCid

/-- Everything but the ledger of the rings: what fetching packets, writing completion records, raising interrupts and
logging host violations may touch is set to nothing. -/
def State.sansLedger (s : State) : State :=
  { s with
    rings := [], cmds := [], nextCid := 0, fetches := 0, out := [], postQ := [], fc := none, dropped := []
    slc := { s.slc with refCap := 0, refDl := 0, refPow := 0, late := 0, waiting := [] }
    wpe := { s.wpe with sessions := [], powered := false }
    lcs := { s.lcs with lastStatus := 0, lastCheck := 0 }
    hif := { s.hif with inL1 := false, inL11 := false, inL12 := false, vlog := [], vlogWr := 0, vlogRd := 0, vlogLost := 0, devStat := 0
                        msix := [], pmeStatus := false } }

/-- What software has written of a ring: bases, enable, size, engine, class, priority, interrupt, moderation, the two
doorbells. -/
structure RingConfig where
  sqBase : DWord
  cqBase : DWord
  en : Bool
  sqTail : Nat
  cqHead : Nat
  log2 : Nat
  engine : Nat
  cls : Nat
  prio : Nat
  irqEn : Bool
  modCount : Nat
  modTimer : Nat
  deriving DecidableEq, Repr

/-- The configuration of a ring. -/
def Ring.config (r : Ring) : RingConfig :=
  { sqBase := r.sqBase, cqBase := r.cqBase, en := r.en, sqTail := r.sqTail, cqHead := r.cqHead, log2 := r.log2, engine := r.engine, cls := r.cls, prio := r.prio
    irqEn := r.irqEn, modCount := r.modCount, modTimer := r.modTimer }

/-- From `s` to `t` only the ledger of the rings has changed, and no ring's configuration. -/
def LedgerOnly (s t : State) : Prop :=
  t.sansLedger = s.sansLedger ∧ ∀ g, (t.ring g).config = (s.ring g).config

/-- Everything but the log of host violations, the device interrupts and what is sent. -/
def State.sansReport (s : State) : State :=
  { s with
    out := [], postQ := [], fc := none
    hif := { s.hif with inL1 := false, inL11 := false, inL12 := false, vlog := [], vlogWr := 0, vlogRd := 0, vlogLost := 0, devStat := 0
                        msix := [], pmeStatus := false } }

/-- From `s` to `t` only the violation log, the device interrupts and what is sent have changed. -/
def ReportOnly (s t : State) : Prop := t.sansReport = s.sansReport

/-- The block has sent, or holds for want of flow-control credit, the message. -/
def State.sends (s : State) (e : Emit) : Prop := e ∈ s.out ∨ e ∈ s.postQ.map (fun p => p.e)

/-- A completion record of ring g has been sent, or waits for flow-control credit: at CQ_TAIL as `s` has it, with PHASE,
STATUS and DETAIL as R331 and R352 give them. -/
def Recorded (s t : State) (g tag op : Nat) (inList : Bool) (e : End) : Prop :=
  ∃ start evals skipped, t.sends (.record g (s.ringFunc g)
    ((s.ring g).cqBase + BitVec.ofNat 64 (32 * (s.ring g).cqTail))
    (recordBytes tag e.status (recordFlags (s.ring g).phase (s.ring g).engine inList) (s.ringLocal g) op start s.now48
      e.late (s.contention g e) evals skipped e.detail))

/-- The record of the packet that `s` has at the head of ring g. -/
def HeadRecorded (s t : State) (g : Nat) (p : List Byte) (e : End) : Prop :=
  Recorded s t g (pktTag p) (pktOp p) (!(s.ring g).lists.isEmpty) e

/-- Records of ring g reach the host: its function may master, the device is no member, and numbers in flight are fresh. -/
def Reporting (s : State) (g : Nat) : Prop :=
  s.mayMaster (s.ringFunc g) = true ∧ s.pins.role ≠ .member ∧ CidsFresh s

/-- One violation logged at the log's write position, and nothing else changed but what a log entry may raise (R321). -/
def Logged (s t : State) (kind action func ring : Nat) : Prop :=
  ReportOnly s t ∧ t.hif.vlogWr = s.hif.vlogWr + 1 ∧
  ∃ e, Tab.get? t.hif.vlog (s.hif.vlogWr.toNat % 64) = some e ∧ e.kind = kind ∧ e.action = action ∧ e.func = func ∧
    e.ring = ring ∧ e.uptime = s.now48

/-- Ring g halted with a cause and an address, its unadmitted packets dropped, every other ring's configuration and all
but the ledger as before (R359). -/
def Halted (s t : State) (g cause : Nat) (addr : DWord) : Prop :=
  LedgerOnly s t ∧ (t.ring g).halted = true ∧ (t.ring g).haltCause = cause ∧ (t.ring g).faultAddr = addr ∧
  (t.ring g).places = [] ∧ (t.ring g).lists = [] ∧ (t.ring g).fetching = 0

/-- Everything that the main domain holds of work is gone: graphs, evaluations, rings, commands, packets, streams,
cistern and mailbox contents, hardware flags (R81, R87, R129). -/
def WorkGone (s : State) : Prop :=
  s.graphs = [] ∧ s.evals = [] ∧ s.fwds = [] ∧ s.rill = [] ∧ s.rings = [] ∧ s.cmds = [] ∧ s.staged = [] ∧
  s.cistern = [] ∧ s.kmbx = [] ∧ s.hkStores = [[], []] ∧ s.flags = 0 ∧ s.str = Streams.initial ∧ s.wpe.sessions = [] ∧
  (∀ t, s.terPower t = .off) ∧ s.pwr.periph = []

/-- A packet is taken in at its destination on this device: no port on its way is moated, every router on it is powered, its turn
has come at each port, nothing has damaged it, and its TYPE, VC and length are sound (R96, R245, R251, Table 9-6). -/
def Arrives (s : State) (p : Packet) : Prop :=
  s.wayClear p = true ∧ s.rillTurn p = true ∧ p.damage = .none ∧ packetSound p = true

/-- A read of `len` bytes of a function has been issued: every request it is made of has been sent (R294). -/
def ReadIssued (s t : State) (f : Nat) (addr : DWord) (len : Nat) : Prop :=
  ∀ r ∈ requestsOf s.hif.mrrs len, Emit.read f (addr + BitVec.ofNat 64 r.1) r.2 ∈ t.out

/-- A write of a function has been issued: every posted write it is made of has been sent, or waits for credit (R294, R386). -/
def WriteIssued (s t : State) (f : Nat) (addr : DWord) (bytes : List Byte) (relaxed : Bool) : Prop :=
  ∀ e ∈ s.writesOf f addr bytes relaxed, t.sends e

/-! ### Invariants -/

/-- The three memories of the block keep their one canonical form: cisterns (R228), weight cells (R184), mailbox. -/
def MemoriesCanonical (s : State) : Prop :=
  Memory.wf s.cistern = true ∧ Memory.wf s.weights = true ∧ Memory.wf s.kmbx = true

/-- Unread entries of HIF_VLOG and of the sentinel report ring never exceed 64 (R174, R321). -/
def LogsBounded (s : State) : Prop :=
  (s.hif.vlogWr - s.hif.vlogRd).toNat ≤ 64 ∧ (s.snt.wr - s.snt.rd).toNat ≤ 64

/-- What the spec gives a fixed number of stays that many: 64 terraces, 2 CSI-2 ports and 2 intake units, 16 AFE channels
and sentinels, 64 report places, 32 streams, 16 ring blocks, 8 devices of a chain, 3 pairs, 2 HK cores, 16 PCIe functions, 5 BARs. -/
def ShapesFixed (s : State) : Prop :=
  s.ters.length = 64 ∧ s.csi.length = 2 ∧ s.intake.length = 2 ∧ s.afe.chans.length = 16 ∧ s.snt.s.length = 16 ∧
  s.snt.rpt.length = 64 ∧ s.str.s.length = 32 ∧ s.hif.owner.length = 16 ∧ s.casc.chain.length = 8 ∧
  s.casc.route.length = 8 ∧ s.casc.pairs.length = 3 ∧ s.casc.applied.length = 3 ∧ s.hkStores.length = 2 ∧
  s.hif.flrEnd.length = 16 ∧ s.hif.bars.length = 5

/-- Every basin's trims are held in -128 to +127 (R202). -/
def TrimsHeld (s : State) : Prop :=
  ∀ n, -128 ≤ (s.basin n).gain ∧ (s.basin n).gain ≤ 127 ∧ -128 ≤ (s.basin n).offset ∧ (s.basin n).offset ≤ 127

/-- Max Payload Size is 128, 256 or 512 bytes, and Max Read Request Size a power of two from 128 to 4,096 (R294, log 43). -/
def LimitsLegal (s : State) : Prop := s.hif.mps ∈ [128, 256, 512] ∧ s.hif.mrrs ∈ [128, 256, 512, 1024, 2048, 4096]

/-- The fuses burnt in `s` are burnt in `t` (R509). -/
def FusesKept (s t : State) : Prop :=
  (s.lcs.fProv = true → t.lcs.fProv = true) ∧ (s.lcs.fDepl = true → t.lcs.fDepl = true) ∧
  (s.lcs.fRet = true → t.lcs.fRet = true) ∧ s.lcs.svcIn ≤ t.lcs.svcIn ∧ s.lcs.svcOut ≤ t.lcs.svcOut

/-- At most 16 MAINT_RD are outstanding at the engine port (R382). -/
def MaintBounded (s : State) : Prop := s.maintOut ≤ 16

/-- The changes of PWR_STATE.STATE that Table 3-5 has. -/
def devChange : DevState → DevState → Bool
  | .off, .sentry => true
  | _, .off => true
  | .doze, .sentry | .run, .sentry | .economy, .sentry | .dry, .sentry | .fault, .sentry => true
  | .run, .economy | .economy, .run => true
  | .run, .doze | .economy, .doze | .doze, .run | .doze, .economy => true
  | .run, .dry | .economy, .dry | .doze, .dry => true
  | .doze, .fault | .run, .fault | .economy, .fault | .dry, .fault => true
  | _, _ => false

/-- The device after entry to FAULT from `s` with bit `bit` of PWR_FAULT (R87). -/
def InFault (s t : State) (bit : Nat) : Prop :=
  t.pwr.dev = .fault ∧ t.pwr.prev = s.pwr.dev ∧ t.pwr.fault = setBit s.pwr.fault bit true ∧ t.pins.alertLow = true ∧
  WorkGone t ∧ (s.pins.perstHigh = true → t.hif.devStat.getLsbD 0 = true)

/-- Pending changes of device state stand only in the states that can have them: a clock switch in RUN and ECONOMY, a
DOZE entry there too, a DOZE exit in DOZE; none while PERST_N is low or a start is in progress. -/
def PowerSane (s : State) : Prop :=
  (∀ d, s.pwr.fclkTo = some d → (s.pwr.dev = .run ∨ s.pwr.dev = .economy) ∧ (d = .run ∨ d = .economy)) ∧
  (s.pwr.dozeEntering = true → s.pwr.dev = .run ∨ s.pwr.dev = .economy) ∧
  (∀ d, s.pwr.dozeExit = some d → s.pwr.dev = .doze ∧ (d = .run ∨ d = .economy)) ∧
  (s.pwr.dozeFrom = .run ∨ s.pwr.dozeFrom = .economy) ∧
  (s.mainLive = false → s.pwr.fclkTo = none ∧ s.pwr.dozeEntering = false ∧ s.pwr.dozeExit = none)

end Sys2Proof.Machine
end

