-- ==== Sys2Proof/Certificates/Slice0/Obligations.lean ====
section
/-! DEFINITION. The statements for the provers. -/

open Sys2Proof Sys2Proof.Machine

/-! ### Steps and invariants -/

/-- A step on a queue with a command at its front is exec of that command on the state with the queue's rest; an empty
queue idles (log 1). -/
def Obligations.StepRunsFront : Prop :=
  (∀ (c : Instr) (cs : List Instr) (s : State), step { s with pending := c :: cs } = exec c { s with pending := cs }) ∧
  (∀ s : State, s.pending = [] → step s = .next s)

/-- A command whose operands an event of the hardware can bring always answers a next state; any other is the fault
illFormed. Nothing else stops the block. -/
def Obligations.WellFormedRuns : Prop :=
  ∀ (c : Instr) (s : State), (c.wf = true → Completes c s) ∧ (c.wf = false → exec c s = .fault .illFormed)

/-- No command's meaning reads or changes the queue: exec leaves it as it stands (log 1). -/
def Obligations.QueueUntouched : Prop :=
  ∀ (c : Instr) (s t : State), exec c s = .next t → t.pending = s.pending

/-- What the register tables and rules give for the state right after the first release: Tables of chapters 03, 05, 06,
12, 13, 14, 16, 17, 18, 21 and R140, R181, R299, R326, R388. The invariants that every step keeps hold right after
reset. Values the tables leave open are the model's choice (log 2). -/
def Obligations.ResetState : Prop :=
  (
    let s := State.reset
    s.pwr.dev = .run ∧ s.pwr.reqResult = .none ∧ s.pwr.autoDoze = true ∧ s.pwr.stageMax = 4 ∧ s.pwr.idleUs = 0x7D0 ∧
    s.pwr.bsnHold = 0x400 ∧ s.pwr.terIdle = 0x64 ∧ s.pwr.budget = 0x88B8 ∧ s.pwr.fault = 0 ∧ s.pwr.railGood = 0x3F ∧
    s.tmr.anchorValid = false ∧ s.tmr.untrimmed = true ∧ s.afe.hop = 1 ∧ (s.afe.chans.all (fun c => !c.en)) = true ∧
    (s.snt.s.all (fun x => !x.armed)) = true ∧ s.snt.wr = s.snt.rd ∧ s.snt.irqLevel = 1 ∧ s.hif.devEn = 0 ∧
    s.hif.owner = List.replicate 16 0 ∧ s.hif.l1Idle = 0x14 ∧ s.hif.ltrDoze = 0x3E8 ∧ s.slc.share = 0x55 ∧
    s.slc.xallow = 0x3E8 ∧ s.slc.period = 0x411B ∧ (∀ g, s.ring g = Ring.initial) ∧ s.cmds = [] ∧ s.graphs = [] ∧
    s.flags = 0 ∧ s.wpe.sessions = [] ∧ s.casc.syncAllow = 0x2710 ∧ s.casc.window = 0x40 ∧ s.sys.lock = false ∧
    s.sys.scratch = 0 ∧ s.readPwr 0x14 = 0 ∧ s.pending = []) ∧
  (MemoriesCanonical State.reset ∧ LogsBounded State.reset ∧ CidsFresh State.reset ∧ MaintBounded State.reset ∧
    PowerSane State.reset ∧ ShapesFixed State.reset ∧ TrimsHeld State.reset ∧ LimitsLegal State.reset)

/-- Every step keeps the one canonical form of the three memories (log 10). -/
def Obligations.MemoriesKept : Prop :=
  ∀ s t : State, MemoriesCanonical s → step s = .next t → MemoriesCanonical t

/-- Every step keeps the unread part of the violation log and of the report ring within their 64 entries (R174, R321).
Every step keeps the numbers of the commands in flight below the next one to be given (log 5). Every step keeps at
most 16 MAINT_RD outstanding at the engine port (R382). Every step keeps the number of what the spec gives a fixed
number of: terraces, channels, streams, ports, pairs. Every step keeps every basin's trims within -128 to +127 (R202), and
the limits of the host's TLPs at one of PCI Express's codes (R294). -/
def Obligations.BoundsKept : Prop :=
  (∀ s t : State, LogsBounded s → step s = .next t → LogsBounded t) ∧
  (∀ s t : State, CidsFresh s → step s = .next t → CidsFresh t) ∧
  (∀ s t : State, MaintBounded s → step s = .next t → MaintBounded t) ∧
  (∀ s t : State, ShapesFixed s → step s = .next t → ShapesFixed t) ∧
  (∀ s t : State, TrimsHeld s → step s = .next t → TrimsHeld t) ∧
  (∀ s t : State, LimitsLegal s → step s = .next t → LimitsLegal t)

/-- No step unburns a life-cycle fuse (R509, R510). -/
def Obligations.FusesOnlyBurn : Prop :=
  ∀ s t : State, step s = .next t → FusesKept s t

/-- Every step keeps the pending changes of device state in the states that can have them. The device moves between states
only by Table 3-5 and by the release that ends a start (R82, R83). -/
def Obligations.PowerKept : Prop :=
  (∀ s t : State, PowerSane s → step s = .next t → PowerSane t) ∧
  (∀ (c : Instr) (s t : State), PowerSane s → exec c s = .next t → t.pwr.dev ≠ s.pwr.dev →
      (c = .startRelease ∧ s.pwr.start.isSome = true ∧ (t.pwr.dev = .run ∨ t.pwr.dev = .fault)) ∨
      (c ≠ .startRelease ∧ devChange s.pwr.dev t.pwr.dev = true))

/-- TMR_UPTIME is moved by the microsecond tick, a cold start and the loss of VAUX, and by nothing else (R103). -/
def Obligations.UptimeOnlyTicks : Prop :=
  ∀ (c : Instr) (s t : State), exec c s = .next t → c ≠ .uptimeTick → c ≠ .vauxGood → (∀ cut, c ≠ .vauxLoss cut) →
    t.tmr.uptime = s.tmr.uptime

/-! ### Power, rails, clocks, starts -/

/-- A cold start: uptime 0 and counting, no anchor, no PWR_FAULT bit, the epoch pending (R102); the counting is one more
at the tick that follows. -/
def Obligations.ColdStart : Prop :=
  ∀ s : State, s.pwr.dev = .off → s.pwr.railGood.getLsbD 0 = false →
    ∃ t, exec .vauxGood s = .next t ∧ t.tmr.uptime = 0 ∧ t.tmr.anchor = 0 ∧ t.tmr.anchorAt = 0 ∧
      t.tmr.anchorValid = false ∧ t.pwr.fault = 0 ∧ t.pwr.faultRail = 0 ∧ t.tmr.epochPending = true ∧
      t = { s with tmr := t.tmr, pwr := t.pwr } ∧
      ∃ u, exec .uptimeTick t = .next u ∧ u.tmr.uptime = 1 ∧ u = { t with tmr := u.tmr, pwr := u.pwr } ∧
        u.pwr = { t.pwr with estFormed := u.pwr.estFormed }

/-- The island's clock: a tick is one microsecond, on the FCLK copy too, and shows UNTRIMMED while ACCURACY reads 0; a
crystal found, a crystal lost, a trim (R77, R103, R108). Nothing else changes, but that the estimate shows from the first tick
after release (log 39). Straps latch the samples that agree, as
Table 2-6 codes them, and flag those that do not; the device is in SENTRY (R51, R54, R55, Table 3-5). -/
def Obligations.IslandEvents : Prop :=
  (∀ s : State, s.pwr.railGood.getLsbD 0 = true →
      (exec .uptimeTick s = .next { s with tmr := { s.tmr with
        uptime := (s.tmr.uptime + 1) % 2 ^ 64, copy := (s.tmr.uptime + 1) % 2 ^ 64
        untrimmed := s.tmr.untrimmed || !s.tmr.accuracy }, pwr := { s.pwr with estFormed := s.pwr.estFormed || s.mainLive } }) ∧
      exec .crystalDetected s = .next { s with pwr := { s.pwr with xtal := true } } ∧
      (s.pwr.xtal = true → exec .crystalLost s =
        .next { s with pwr := { s.pwr with xtal := false, xtalLost := true }, tmr := { s.tmr with accuracy := false } }) ∧
      (∀ trim, s.pwr.xtal = true → exec (.trimWindowClose trim) s =
        .next { s with pwr := { s.pwr with aonTrim := trim }, tmr := { s.tmr with accuracy := true } })) ∧
  (∀ (s : State) (v : BitVec 5), s.pins.latched = false → s.pwr.railGood.getLsbD 0 = true → s.pwr.dev = .off →
      (∃ t, exec (.strapLatch (List.replicate 8 v)) s = .next t ∧ t.pwr.dev = .sentry ∧ t.pins.latched = true ∧
        t.pins.role = (match v.toNat % 4 with | 1 => .master | 2 => .member | _ => .single) ∧
        t.pins.boot = (match v.toNat / 4 % 4 with | 1 => .singleBit | 2 => .hold | _ => .quad) ∧
        t.pins.testEn = v.getLsbD 4 ∧ t.pins.roleResv = decide (v.toNat % 4 = 3) ∧
        t.pins.bootResv = decide (v.toNat / 4 % 4 = 3) ∧ t.pins.roleUnst = false ∧ t.pins.bootUnst = false ∧
        t.pins.testUnst = false ∧ t = { s with pins := t.pins, pwr := { s.pwr with dev := .sentry }, casc := t.casc }) ∧
      (∀ (w : BitVec 5) (k : Nat), k < 7 → w ^^^ v = 0b11111#5 →
        ∃ t, exec (.strapLatch (List.replicate (k + 1) w ++ List.replicate (7 - k) v)) s = .next t ∧
          t.pins.role = .single ∧ t.pins.boot = .quad ∧ t.pins.testEn = false ∧ t.pins.roleUnst = true ∧
          t.pins.bootUnst = true ∧ t.pins.testUnst = true))

/-- VAUX lost: OFF from any state; what the island keeps and all the main domain holds are gone, and the fuses and the AFE
trims in flash stay (R75, R82, R104, R155); no ball is driven, and as VAUX returns those it supplies stand as Table 2-5 has
them (R46, R49). Main rails: a monitor that reports good; the 50 ms that pass without all five; a
surprise loss, from any state but SENTRY and OFF, a start from SENTRY included; and the first rail that falls after DRYDONE,
which is none (R67, R71, R82, R129, Table 3-5). A stop of the main domain that finds no PROGRAM_ROWS and no erase in progress
leaves every weight level as it was (R81, R416). -/
def Obligations.SuppliesLost : Prop :=
  (∀ (cut : PowerCut) (s : State), ∃ t, exec (.vauxLoss cut) s = .next t ∧ t.pwr.dev = .off ∧ t.pwr.railGood = 0 ∧
      t.pins.latched = false ∧ t.tmr.anchorValid = false ∧ t.snt = Snt.initial ∧ WorkGone t ∧
      t.afe = { Afe.initial with chans := s.afe.chans.map (fun x => { AfeChan.initial with trim := x.flash, flash := x.flash }) } ∧
      t.tmr.epoch = s.tmr.epoch ∧ FusesKept s t ∧ (∀ b, t.ball b = .unpowered) ∧
      ∃ u, exec .vauxGood t = .next u ∧ u.ball .alertN = .released ∧ u.ball .wakeN = .released ∧ u.ball .drydone = .low ∧
        u.ball .smbSda = .released ∧ (∀ k, u.ball (.micBias k) = .off) ∧ u.ball .clkreqN = .unpowered) ∧
  (∀ (s : State) (rail : Fin 6), rail.val ≠ 0 →
      (s.pwr.railGood.getLsbD 0 = true → s.pwr.railGood.getLsbD rail.val = false →
        ∃ t, exec (.mainRailGood rail) s = .next t ∧ t.pwr = { s.pwr with railGood := setBit s.pwr.railGood rail.val true } ∧
          t = { s with pwr := t.pwr, wpe := t.wpe } ∧
          t.wpe = if rail.val = 3 then { s.wpe with aboveMin := false, charging := true } else s.wpe) ∧
      (s.pwr.railGood.getLsbD 0 = true → s.pwr.railGood.toNat / 2 ≠ 0 → s.pwr.railGood.toNat / 2 ≠ 31 → exec .railTimeout s =
        .next { s with pwr := { s.pwr with fault := setBit s.pwr.fault 2 true }, pins := { s.pins with alertLow := true } }) ∧
      (∀ cut, s.pwr.railGood.getLsbD rail.val = true →
        ((s.pwr.dev ≠ .sentry ∨ s.pwr.start.isSome = true) → s.pwr.dev ≠ .off → s.dryFinished = false →
          ∃ t, exec (.mainRailLoss rail cut) s = .next t ∧ t.pwr.dev = .sentry ∧
            t.pwr.prev = (if s.pwr.dev = .sentry then s.pwr.prev else s.pwr.dev) ∧ t.pwr.start = none ∧
            t.pwr.fault = setBit s.pwr.fault 0 true ∧ t.pwr.faultRail = setBit 0 rail.val true ∧ WorkGone t ∧
            t.pins = s.pins ∧ FusesKept s t) ∧
        (s.pwr.dev = .off ∨ (s.pwr.dev = .sentry ∧ s.pwr.start = none) → exec (.mainRailLoss rail cut) s = .next { s with
          pwr := { s.pwr with railGood := setBit s.pwr.railGood rail.val false, railOv := setBit s.pwr.railOv rail.val false } }) ∧
        (s.dryFinished = true → ∃ t, exec (.mainRailLoss rail cut) s = .next t ∧ t.pwr.dev = .sentry ∧ t.pwr.fault = s.pwr.fault)) ∧
      (s.pwr.railGood.getLsbD rail.val = true → s.dryFinished = true →
        ∃ t, exec (.dryToSentry rail) s = .next t ∧ t.pwr.dev = .sentry ∧ t.pwr.prev = .dry ∧ t.pwr.fault = s.pwr.fault ∧
          WorkGone t ∧ t.pins = s.pins ∧ t.tmr = s.tmr)) ∧
  (∀ (c : Instr) (s t : State), (∀ x ∈ s.cmds, x.prog? = none ∧ x.erasing? = none) → exec c s = .next t →
      ((∃ cut, c = .vauxLoss cut) ∨ (∃ rail cut, c = .mainRailLoss rail cut) ∨ (∃ rail, c = .dryToSentry rail) ∨
        (∃ rail edge, c = .railOvervoltage rail edge) ∨ (∃ tj cut, c = .thermalTrip tj cut) ∨ (∃ cut, c = .pllLossOfLock cut) ∨
        (∃ core cut, c = .hkWatchdogExpire core cut) ∨ (∃ code cut, c = .internalFatalError code cut) ∨
        (∃ cut, c = .perstNAssert cut)) →
      t.weights = s.weights)

/-- Entry to FAULT from DOZE, RUN, ECONOMY, or DRY until DRYDONE: the cause in PWR_FAULT, ALERT_N low, the power-event
interrupt raised where the host interface is out of reset, and all work stopped; in other states none of the triggers acts
(R67, R87, R90, R127, Table 3-5). An overvoltage detector that trips, VAUX's too, and one whose rail has returned is armed
again (R67, Table 4-3). The junction temperature at the grade maximum, and its return 5 °C below it (R90, R120). That a start
from DRY counts as DRY is the model's reading (log 40). -/
def Obligations.FaultsEntered : Prop :=
  (∀ (s : State) (cut : PowerCut),
      (((s.pwr.start = none ∧ (s.pwr.dev = .doze ∨ s.pwr.dev = .run ∨ s.pwr.dev = .economy)) ∨
          (s.pwr.dev = .dry ∧ s.pins.dryDone = false)) →
        (∀ rail : Fin 6, rail.val ≠ 0 → s.pwr.railGood.getLsbD 0 = true → s.pwr.railOv.getLsbD rail.val = false →
          Yields (.railOvervoltage rail (.trip cut)) s (fun t => InFault s t 1 ∧ t.pwr.faultRail = setBit 0 rail.val true ∧
            t.pwr.railOv = setBit s.pwr.railOv rail.val true)) ∧
        (∀ tj, Yields (.thermalTrip tj cut) s (fun t => InFault s t 3 ∧ t.pwr.tj = tj)) ∧
        Yields (.pllLossOfLock cut) s (fun t => InFault s t 4) ∧
        (∀ core : Fin 2, s.sys.hkHalt.getLsbD core.val = false → Yields (.hkWatchdogExpire core cut) s (fun t => InFault s t 5)) ∧
        (∀ code, Yields (.internalFatalError code cut) s (fun t => InFault s t 6))) ∧
      ((s.pwr.dev = .off ∨ s.pwr.dev = .sentry ∨ s.pwr.dev = .fault ∨ (s.pwr.dev = .dry ∧ s.pins.dryDone = true)) →
        exec (.pllLossOfLock cut) s = .next s ∧ (∀ core, exec (.hkWatchdogExpire core cut) s = .next s) ∧
        (∀ code, exec (.internalFatalError code cut) s = .next s))) ∧
  (∀ (s : State) (cut : PowerCut), s.pwr.railGood.getLsbD 0 = true →
      (s.pwr.railOv.getLsbD 0 = false → exec (.railOvervoltage 0 (.trip cut)) s =
        .next { s with pwr := { s.pwr with railOv := setBit s.pwr.railOv 0 true } }) ∧
      (∀ rail : Fin 6, exec (.railOvervoltage rail .back) s =
        .next { s with pwr := { s.pwr with railOv := setBit s.pwr.railOv rail.val false } })) ∧
  (∀ (s : State) (tj : BitVec 16), s.pwr.dev ≠ .off →
      (s.pwr.hot = false → ∃ t, exec (.thermalWarning tj) s = .next t ∧ t.pwr.hot = true ∧ t.pins.alertLow = true ∧
        t.pwr.tj = tj ∧ t.pwr.tjMax = (if s.pwr.tjMax.toInt < tj.toInt then tj else s.pwr.tjMax) ∧
        t.pwr.dev = s.pwr.dev ∧ (s.mainLive = true → s.pwr.dev ≠ .sentry → t.hif.devStat.getLsbD 0 = true) ∧
        ReportOnly { s with pwr := t.pwr, pins := { s.pins with alertLow := true }, bist := t.bist } t) ∧
      (s.pwr.hot = true → exec (.thermalWarningReturn tj) s = .next { s with pwr := { s.pwr with
        hot := false, tj := tj, tjMax := if s.pwr.tjMax.toInt < tj.toInt then tj else s.pwr.tjMax } }))

/-- A start begins at a rising edge of PERST_N with every main rail good, with the HK cores held where the strap says so;
PWR_STATE.STATE goes on reading the state being left, and the first main power-up of a cold start counts the epoch
(R57, R73, R83, R105, R106); a flash part without quad mode is read where the strap says single-bit (Table 2-6). A start ends in RUN, or in FAULT after a boot failure; the TMR block tells of it,
SYS_LOCK and the violation log are clear (R83, R114, R118, R321, R538). A boot failure's record and the held start
follow the model's reading (log 34). -/
def Obligations.StartsRun : Prop :=
  (∀ (s : State) (x : StartIn),
      (s.pins.perstHigh = false → s.pwr.railGood.getLsbD 0 = true → s.pwr.dev ≠ .off → s.pwr.railGood.toNat / 2 = 31 →
        ∃ t, exec (.perstNRise x) s = .next t ∧ ∃ st, t.pwr.start = some st ∧ st.edgeAt = s.tmr.uptime ∧
          t.pwr.dev = s.pwr.dev ∧ t.pins.perstHigh = true ∧ t.pins.wakeLow = false ∧ t.pins.dryDone = false ∧
          t.lcs.active = s.lcs.fused ∧
          (s.pins.boot = .hold → s.lcs.fused.debuggable = true → st.held = true ∧ t.tmr = s.tmr) ∧
          (s.pins.boot ≠ .hold → st.held = false ∧
            ((x.fwOk = false ∨ s.flashReads x = false) → st.result = .bootFail ∧ t.tmr = s.tmr) ∧
            (x.fwOk = true → s.flashReads x = true → t.tmr.epochPending = false ∧ t.sys.fw = x.fw ∧
              t.tmr.epoch = if s.tmr.epochPending then (if s.tmr.epoch = 0xFFFFFFFF then 0xFFFFFFFF else s.tmr.epoch + 1)
                            else s.tmr.epoch))) ∧
      (s.pins.perstHigh = false → s.pwr.railGood.getLsbD 0 = true → s.pwr.railGood.toNat / 2 ≠ 31 →
        exec (.perstNRise x) s =
          .next { s with pins := { s.pins with perstHigh := true, wakeLow := false, dryDone := false } }) ∧
      (∀ st, s.pwr.railGood.getLsbD 0 = true → s.pwr.railGood.toNat / 2 = 31 → s.pwr.start = some st → st.held = true → s.lcs.active.debuggable = true → s.lcs.closed = false →
        ∃ t, exec (.hkRelease x) s = .next t ∧ ∃ st', t.pwr.start = some st' ∧ st'.held = false ∧ st'.edgeAt = st.edgeAt ∧
          t.sys.tapIr = 0x11)) ∧
  (∀ (s : State) (st : Start), s.pwr.start = some st → st.held = false →
      ∃ t, exec .startRelease s = .next t ∧ t.pwr.start = none ∧ t.pwr.prev = s.pwr.dev ∧
        t.pwr.dev = (if st.result = .bootFail then .fault else .run) ∧ t.tmr.startKind = st.kind ∧
        t.tmr.startReason = st.reason ∧ t.tmr.startResult = st.result ∧ t.tmr.dryAge = st.dryAge ∧
        t.tmr.releaseAt = s.tmr.uptime ∧ t.tmr.uptime = s.tmr.uptime ∧ t.sys.lock = false ∧ t.hif.vlogLost = 0 ∧
        t.hif.vlogWr = 0 ∧ t.hif.vlogRd = 0 ∧
        (st.result = .bootFail → t.pins.alertLow = true ∧ t.pwr.fault = setBit s.pwr.fault 6 true ∧ WorkGone t) ∧
        (st.result ≠ .bootFail → t.pwr.fault = s.pwr.fault ∧ t.pins = s.pins ∧ t.rings = s.rings))

/-- PERST_N asserted: a start or a dry-down is abandoned and the main domain reset, while PWR_STATE.STATE, the uptime and
the fuses stay (R83, R88, R103, R119). A configuration request is answered with Retry Status between link-up and
release, and completed after it with its effect on the controls that the block consults, or with the register's value; a VF
that VF Enable hides answers Unsupported Request (R57, R115, R294, R298, R302, R303, Table 12-7). What the registers of
Tables 12-2 and 12-3 read (R294 to R297, R302, R303); the places of their fields are PCI Express's (log 43). -/
def Obligations.PerstAndConfig : Prop :=
  (∀ (s : State) (cut : PowerCut), s.pins.perstHigh = true → s.pwr.railGood.getLsbD 0 = true → s.pwr.dev ≠ .off →
      (s.pwr.dev ≠ .sentry ∨ s.pwr.start.isSome = true) →
      ∃ t, exec (.perstNAssert cut) s = .next t ∧ t.pins.perstHigh = false ∧ t.pwr.start = none ∧ t.pwr.dev = s.pwr.dev ∧
        t.tmr = s.tmr ∧ t.hif.up = false ∧ WorkGone t ∧ FusesKept s t ∧ t.sys.lock = s.sys.lock ∧ t.sys.scratch = 0) ∧
  (∀ s : State, s.pins.role ≠ .member →
      (∀ req, s.pwr.start.isSome = true → s.hif.up = true →
        exec (.configRequest req) s = .next { s with out := .cfgRetry :: s.out }) ∧
      (s.hostUp = true →
        let h := { s.hif with inL1 := false, inL11 := false, inL12 := false }
        exec (.configRequest .other) s = .next { s with hif := h, out := .cfgDone :: s.out } ∧
        (∀ (f : Fin 16) (r : CfgReg), (f.val = 0 ∨ s.hif.vfEn = true) → exec (.configRequest (.read f r)) s =
          .next { s with hif := h, out := .cfgDone :: .data (leBytes 4 (s.readCfg f.val r).toNat) :: s.out }) ∧
        (∀ (f : Fin 16) (r : CfgReg), f.val ≠ 0 → s.hif.vfEn = false → Yields (.configRequest (.read f r)) s (fun t =>
          Emit.ur ∈ t.out ∧ t.hif.vlogWr = s.hif.vlogWr + 1 ∧ ReportOnly { s with free := t.free } t)) ∧
        (∀ rid, exec (.configRequest (.assign rid)) s = .next { s with hif := { h with rid := rid }, out := .cfgDone :: s.out }) ∧
        (∀ on, exec (.configRequest (.memorySpace on)) s = .next { s with hif := { h with mse := on }, out := .cfgDone :: s.out }) ∧
        (∀ on, exec (.configRequest (.vfMemorySpace on)) s =
          .next { s with hif := { h with vfMse := on }, out := .cfgDone :: s.out }) ∧
        (∀ (i : Fin 5) (v : DWord), i.val ≠ 2 → exec (.configRequest (.bar i v)) s = .next { s with
          hif := { h with bars := s.hif.bars.set i.val (v &&& ~~~(BitVec.ofNat 64 (barSizes.getD i.val 1 - 1))) }
          out := .cfgDone :: s.out }) ∧
        (∀ v : DWord, s.lcs.active.debuggable = false → exec (.configRequest (.bar 2 v)) s =
          .next { s with hif := h, out := .cfgDone :: s.out }) ∧
        (∀ p r relaxed, ∃ t, exec (.configRequest (.deviceControl p r relaxed)) s = .next t ∧
          t.hif.mps = (if p.val ≤ 2 then 128 * 2 ^ p.val else s.hif.mps) ∧ t.hif.relaxed = relaxed ∧
          t.hif.mrrs = (if r.val ≤ 5 then 128 * 2 ^ r.val else s.hif.mrrs) ∧ t = { s with hif := t.hif, out := .cfgDone :: s.out }) ∧
        (∀ n d, exec (.configRequest (.completionTimeout n d)) s =
          .next { s with hif := { h with toRange := n.val, toDisable := d }, out := .cfgDone :: s.out }) ∧
        (∀ g c, exec (.configRequest (.ecrc g c)) s =
          .next { s with hif := { h with ecrcGen := g, ecrcCheck := c }, out := .cfgDone :: s.out }) ∧
        (∀ on, exec (.configRequest (.aspmL1 on)) s = .next { s with hif := { h with aspmL1 := on }, out := .cfgDone :: s.out }) ∧
        (exec (.configRequest (.vfEnable true)) s = .next { s with hif := { h with vfEn := true }, out := .cfgDone :: s.out }) ∧
        (exec (.configRequest .pmeStatusClear) s =
          .next { s with hif := { h with pmeStatus := false }, out := .cfgDone :: s.out }) ∧
        (∀ f en m, (f.val = 0 ∨ s.hif.vfEn = true) → ∃ t, exec (.configRequest (.msixControl f en m)) s = .next t ∧
          t.hif.msixEn = s.hif.msixEn.set f.val en ∧ t.hif.msixFm = s.hif.msixFm.set f.val m ∧ t.out.head? = some .cfgDone))) ∧
  (∀ s : State,
      s.readCfg 0 .ids = 0x72401F7D ∧ s.readCfg 0 .classRevision = BitVec.ofNat 32 (0x12000000 + s.sys.rev.toNat) ∧
      s.readCfg 0 .subsystem = s.hif.subsys ∧ s.readCfg 0 .interruptPin = 0 ∧ s.readCfg 0 .sriovVfs = 0x000F000F ∧
      s.readCfg 0 .msixControl = BitVec.ofNat 32 (65536 * 1039 + 2 ^ 30 * b2n (s.hif.msixFm.getD 0 false) +
        2 ^ 31 * b2n (s.hif.msixEn.getD 0 false)) ∧
      (s.lcs.active.debuggable = false → s.readCfg 0 (.bar 2 false) = 0 ∧ s.readCfg 0 (.bar 2 true) = 0) ∧
      (∀ f : Nat, f ≠ 0 → s.readCfg f .ids = 0x72401F7D ∧ s.readCfg f (.present .sriov) = 0) ∧
      (∀ c ∈ [Cap.msi, .ats, .pri, .pasid, .tph, .resizableBar], s.readCfg 0 (.present c) = 0) ∧
      (∀ c ∈ [Cap.powerManagement, .msix, .pciExpress, .aer, .sriov, .ari, .serialNumber, .ltr, .l1Substates],
        s.readCfg 0 (.present c) = 1))

/-- DOZE: its entry on idleness or on request, what the entry turns off and keeps, and the refusals of R85 (R81, R84, R85,
Table 3-5). The end of a DOZE exit: the state it goes to, or DRY where a DRY trigger waited; graphs and cisterns are
kept (R81, R86, R121, Table 3-6). CLKREQ_N is let go in DOZE where no cascade port is trained, and asserted while FCLK comes
back and after (R48, Table 12-5). That a request is judged when written, and refused in the pause of a clock switch, is the
model's reading (log 29, log 40). -/
def Obligations.DozeRun : Prop :=
  (∀ s : State,
      (s.running = true → s.pwr.autoDoze = true → s.idle = true → s.pwr.fclkTo = none → s.pwr.dozeEntering = false →
        exec .dozeIdleTimeout s = .next { s with pwr := { s.pwr with dozeEntering := true } }) ∧
      (s.reaches 0 = true → (s.pwr.dev = .run ∨ s.pwr.dev = .economy) →
        let u : State := { s with hif := { s.hif with inL1 := false, inL11 := false, inL12 := false } }
        ((s.mirroring = true ∨ s.portTrained = true) →
          exec .pwrReqDoze s = .next { u with pwr := { s.pwr with reqResult := .refusedMirror } }) ∧
        (s.mirroring = false → s.portTrained = false → s.idle = false →
          exec .pwrReqDoze s = .next { u with pwr := { s.pwr with reqResult := .refusedState } }) ∧
        (s.idle = true → s.pwr.fclkTo ≠ none →
          exec .pwrReqDoze s = .next { u with pwr := { s.pwr with reqResult := .refusedState } }) ∧
        (s.idle = true → s.pwr.fclkTo = none →
          exec .pwrReqDoze s = .next { u with pwr := { s.pwr with dozeEntering := true, reqResult := .pending } })) ∧
      (s.pwr.dozeEntering = true → ∃ t, exec .dozeEntryDone s = .next t ∧ t.pwr.dev = .doze ∧ t.pwr.prev = s.pwr.dev ∧
        t.pwr.dozeFrom = s.pwr.dev ∧ t.pwr.dozeEntering = false ∧ (∀ i, t.terPower i = .off) ∧ t.pwr.periph = [] ∧
        t.clkreq = (s.portTrained || s.pwr.dozeExit.isSome) ∧
        t = { s with pwr := t.pwr, wpe := { s.wpe with powered := false }, out := t.out
                     hif := { s.hif with inL1 := t.hif.inL1, inL11 := t.hif.inL11, inL12 := t.hif.inL12 } })) ∧
  (∀ (s : State) (d : DevState), PowerSane s → s.pwr.dev = .doze → s.pwr.dozeExit = some d →
      ∃ t, exec .dozeExitDone s = .next t ∧ t.pwr.dozeExit = none ∧ t.graphs = s.graphs ∧ t.cistern = s.cistern ∧
        s.clkreq = true ∧ t.clkreq = true ∧
        (s.pwr.dryAfterExit = false → t.pwr.dev = d ∧ t.pwr.prev = .doze ∧
          t.pwr.reqResult = (if s.pwr.reqResult = .pending then .done else s.pwr.reqResult)) ∧
        (s.pwr.dryAfterExit = true → t.pwr.dev = .dry ∧ t.pwr.prev = d))

/-- Requests for RUN and ECONOMY: a pause begins, a DOZE exit begins, or ECONOMY is refused where the class-0 reservations
do not fit at its clock (R82, R86, R91, R92). The fabric clock switches once the evaluations in flight have finished;
graphs, rings, cisterns and flags are kept (R81, R91). That a request is judged when written is the model's reading
(log 29). -/
def Obligations.ClocksRequested : Prop :=
  (∀ s : State, s.reaches 0 = true →
      let u : State := { s with hif := { s.hif with inL1 := false, inL11 := false, inL12 := false } }
      ((s.pwr.dev = .dry ∨ s.pwr.dev = .fault) →
        exec .pwrReqRun s = .next { u with pwr := { s.pwr with reqResult := .refusedState } } ∧
        exec .pwrReqEconomy s = .next { u with pwr := { s.pwr with reqResult := .refusedState } }) ∧
      (s.pwr.dev = .economy → s.pwr.fclkTo = none → exec .pwrReqRun s = .next { u with
        pwr := { s.pwr with dozeEntering := false, fclkTo := some .run, reqResult := .pending } }) ∧
      (s.pwr.dev = .run → s.pwr.fclkTo = none → exec .pwrReqRun s = .next { u with
        pwr := { s.pwr with dozeEntering := false, reqResult := .done } }) ∧
      (s.pwr.dev = .doze → exec .pwrReqRun s = .next { u with
        pwr := { s.pwr with dozeExit := some .run, reqResult := .pending } }) ∧
      (s.pwr.dev = .run → s.economyOverruns = false → exec .pwrReqEconomy s = .next { u with
        pwr := { s.pwr with dozeEntering := false, fclkTo := some .economy, reqResult := .pending } }) ∧
      (s.pwr.dev = .run → s.economyOverruns = true → exec .pwrReqEconomy s = .next { u with
        pwr := { s.pwr with dozeEntering := false, reqResult := .refusedReservation } }) ∧
      exec .pwrPeakClr s = .next { u with pwr := { s.pwr with peak := min 0xFFFF s.estimate } }) ∧
  (∀ (s : State) (d : DevState), s.pwr.fclkTo = some d → s.evals = [] →
      ∃ t, exec .fclkSwitchDone s = .next t ∧ t.pwr.dev = d ∧ t.pwr.fclkTo = none ∧ t.pwr.reqResult = .done ∧
        t.pwr.prev = (if d = s.pwr.dev then s.pwr.prev else s.pwr.dev) ∧
        t = { s with pwr := t.pwr, cmds := t.cmds, out := t.out
                     hif := { s.hif with inL1 := t.hif.inL1, inL11 := t.hif.inL11, inL12 := t.hif.inL12 } })

/-- Terraces and peripheries: a charging terrace reports good and no more than STAGE_MAX go on charging; an unused one
goes off, and its peripheries with it; a periphery's hold expires where it is not busy and no token has restarted it, and a
waking one reports good with its token pending (R94, R97, R99, R250). That a restarted hold timer shows as one expiry more is
the model's reading (log 40). -/
def Obligations.SwitchedDomains : Prop :=
  ∀ s : State,
    (∀ (k : Fin 64) (since : Nat), s.terPower k.val = .charging since → k.val ∉ s.pwr.stageQ →
      s.chargingCount ≤ s.pwr.stageMax → (∀ p ∈ s.rill, s.isMe p.dstDev = true) →
      ∃ t, exec (.terracePowerGood k) s = .next t ∧ t.terPower k.val = .good ∧ t.chargingCount ≤ t.pwr.stageMax ∧
        (∀ j, j ≠ k.val → j ∉ s.pwr.stageQ → t.terPower j = s.terPower j) ∧ t = { s with pwr := t.pwr }) ∧
    (∀ k : Fin 64, s.terPower k.val = .good → s.terUsed k.val = false →
      exec (.terraceIdleTimeout k) s = .next { s with pwr := { s.pwr with
        terraces := s.pwr.terraces.set k.val .off, periph := s.pwr.periph.filter (fun e => e.1 / 64 != k.val) } }) ∧
    (∀ k : Fin 64, s.terUsed k.val = true → exec (.terraceIdleTimeout k) s = .next s) ∧
    (∀ (b : Fin 4096) (token : Bool), Tab.get? s.pwr.periph b.val = some (.good token) →
      (s.basinBusy b.val = true → exec (.peripheryHoldExpire b) s = .next s) ∧
      (s.basinBusy b.val = false →
        ∃ t, exec (.peripheryHoldExpire b) s = .next t ∧
          Tab.get? t.pwr.periph b.val = (if token then some (.good false) else none) ∧
          (∀ n, n ≠ b.val → Tab.get? t.pwr.periph n = Tab.get? s.pwr.periph n) ∧
          t = { s with pwr := { s.pwr with periph := t.pwr.periph } })) ∧
    (∀ b : Fin 4096, Tab.get? s.pwr.periph b.val = some .waking →
      ∃ t, exec (.peripheryPowerGood b) s = .next t ∧ Tab.get? t.pwr.periph b.val = some (.good true) ∧
        (∀ n, n ≠ b.val → Tab.get? t.pwr.periph n = Tab.get? s.pwr.periph n) ∧
        t = { s with pwr := { s.pwr with periph := t.pwr.periph } })

/-- DRY is entered by SHUTDOWN, by PME_Turn_Off in D3hot, and on a member by the master's relay (R121, R316, R461); a
PME_Turn_Off in D0 is acknowledged and logged. The dry-down: drained, self-tested, its record written and read back,
DRYDONE; the AFE trims in use are written back to flash with it (R49, R110, R124, R126, R155, R506, R507). -/
def Obligations.DryDowns : Prop :=
  (∀ s : State,
      (∀ (g : Fin 1024) (p : List Byte), s.ready g.val 0x57 false = some p →
        Yields (.shutdown g) s (fun t => t.pwr.dev = .dry ∧ t.bist.dry = some .drain ∧ t.bist.dryCid = some s.nextCid ∧
          t.slc.waiting = [] ∧ t.pwr.dozeEntering = false ∧ t.pwr.fclkTo = none)) ∧
      (∀ tlp : Tlp, s.hostUp = true → s.hif.d3hot = true → (s.pwr.dev = .run ∨ s.pwr.dev = .economy) →
        Yields (.pmeTurnOff tlp) s (fun t => t.pwr.dev = .dry ∧ t.bist.dry = some .drain ∧ t.hif.l23 = true ∧
          Emit.pmeToAck ∈ t.out ∧ Emit.l23Request ∈ t.out)) ∧
      (∀ tlp : Tlp, s.hostUp = true → s.hif.d3hot = false →
        Yields (.pmeTurnOff tlp) s (fun t => Emit.pmeToAck ∈ t.out ∧ t.hif.vlogWr = s.hif.vlogWr + 1 ∧ ReportOnly s t)) ∧
      (s.pins.role = .member → s.mainLive = true → (s.pwr.dev = .run ∨ s.pwr.dev = .economy) →
        Yields .dryRelay s (fun t => t.pwr.dev = .dry ∧ t.bist.dry = some .drain))) ∧
  (∀ s : State, s.pwr.dev = .dry → s.mainLive = true →
      (∀ test, s.bist.dry = some .drain → s.drained = true →
        Yields (.dryDrainDone test) s (fun t => t.bist.dry = some .selfTest ∧ t.bist.dryCid = none ∧ t.pwr.dev = .dry ∧
          t.graphs = [] ∧ t.str = Streams.initial ∧ t.wpe.sessions = [] ∧ t.wpe.powered = false)) ∧
      (∀ mv, s.bist.dry = some .selfTest →
        ∃ t, exec (.drydownCommit mv) s = .next t ∧ ∃ r, t.bist.record = some r ∧ t.bist.dry = some .committed ∧
          t.bist.invPending = false ∧ r.state = (if s.bist.invPending then 0x0F else 0xFF) ∧ r.torn = false ∧
          r.epoch = s.tmr.epoch ∧ r.uptime = s.tmr.uptime ∧ r.fw = s.sys.fw ∧ r.anchorValid = s.tmr.anchorValid ∧
          r.anchor = (if s.tmr.anchorValid then s.tmr.anchor else 0) ∧
          r.anchorAt = (if s.tmr.anchorValid then s.tmr.anchorAt else 0) ∧ r.mapGen = s.bist.mapGen ∧
          t.bist.mapOld = none ∧ t = { s with wpe := { s.wpe with tankMv := mv / 50 * 50 }, bist := t.bist
                                              afe := { s.afe with chans := s.afe.chans.map (fun x => { x with flash := x.trim }) } }) ∧
      (s.bist.dry = some .committed → exec .drydoneRise s =
        .next { s with bist := { s.bist with dry := some .done }, pins := { s.pins with dryDone := true } }))

/-! ### Doorbells, rings, opcodes of every engine -/

/-- A doorbell write that passes the checks of R306 sets the pointer it names; one that fails a check, in the order of
R306, is discarded and logged once (R306, R328, R329). -/
def Obligations.Doorbells : Prop :=
  ∀ (s : State) (f : Fin 16) (page : Fin 1024) (v : Nat) (tlp : Tlp), s.reaches f.val = true →
    (s.pwr.dev = .run ∨ s.pwr.dev = .economy) →
    (s.pageRing f.val page.val = none →
      Yields (.doorbellSqTail f page v tlp) s (fun t => Logged s.touch t 0x06 0 f.val 0xFFFF) ∧
      Yields (.doorbellCqHead f page v tlp) s (fun t => Logged s.touch t 0x06 0 f.val 0xFFFF)) ∧
    (∀ g, s.pageRing f.val page.val = some g → (f.val = 0 → s.ringFunc g = 0) → (s.ring g).en = true →
      v < 2 ^ (s.ring g).log2 →
      Yields (.doorbellSqTail f page v tlp) s (fun t => (t.ring g).sqTail = v ∧
        LedgerOnly (s.touch.updRing g (fun r => { r with sqTail := v })) t) ∧
      ((v + (s.ring g).size - (s.ring g).cqHead) % (s.ring g).size ≤
          ((s.ring g).cqTail + (s.ring g).size - (s.ring g).cqHead) % (s.ring g).size →
        Yields (.doorbellCqHead f page v tlp) s (fun t => (t.ring g).cqHead = v ∧
          LedgerOnly (s.touch.updRing g (fun r => { r with cqHead := v })) t)) ∧
      (((s.ring g).cqTail + (s.ring g).size - (s.ring g).cqHead) % (s.ring g).size <
          (v + (s.ring g).size - (s.ring g).cqHead) % (s.ring g).size →
        Yields (.doorbellCqHead f page v tlp) s (fun t => Logged s.touch t 0x06 0 f.val g))) ∧
    (∀ g, s.pageRing f.val page.val = some g → f.val = 0 → s.ringFunc g ≠ 0 →
      Yields (.doorbellSqTail f page v tlp) s (fun t => Logged s.touch t 0x07 0 f.val g) ∧
      Yields (.doorbellCqHead f page v tlp) s (fun t => Logged s.touch t 0x07 0 f.val g)) ∧
    (∀ g, s.pageRing f.val page.val = some g → (f.val = 0 → s.ringFunc g = 0) →
      ((s.ring g).en = false ∨ 2 ^ (s.ring g).log2 ≤ v) →
      Yields (.doorbellSqTail f page v tlp) s (fun t => Logged s.touch t 0x06 0 f.val g) ∧
      Yields (.doorbellCqHead f page v tlp) s (fun t => Logged s.touch t 0x06 0 f.val g)) ∧
    Yields (.doorbellStrayWrite f page tlp) s (fun t =>
      Logged s.touch t 0x08 0 f.val ((s.pageRing f.val page.val).getD 0xFFFF))

/-- RING_CTRL on an inactive ring: the other fields are applied first, then EN sets the pointers and the reserved count to
0, PHASE to 1, clears HALTED and sets ACTIVE; nothing else of the block changes (R299, R300, R326). Writes of a
descriptor: EN cleared drops what is fetched and unadmitted; bases are 4 KiB aligned and are written while the ring is
inactive, kept and logged while it is active; RING_MOD is written always (R324, R325, R327, R357). Refused sizes and
the engines open to a VF follow the model's reading (log 25). -/
def Obligations.RingsWritten : Prop :=
  (∀ (s : State) (f : Fin 16) (i : Fin 1024) (g : Nat) (v : Word) (tlp : Tlp), s.reaches f.val = true →
      (s.pwr.dev = .run ∨ s.pwr.dev = .economy) → s.pageRing f.val i.val = some g → s.ringFunc g = f.val →
      (s.ring g).active = false → (s.ring g).en = false → v.getLsbD 0 = true →
      6 ≤ v.toNat / 2 % 16 → v.toNat / 32 % 8 ≤ 4 → (f.val ≠ 0 → v.toNat / 32 % 8 = 1 ∨ v.toNat / 32 % 8 = 3) →
      ∃ t, exec (.ringEnable f i v tlp) s = .next t ∧
        t = { s.touch with rings := t.rings, hif := { s.hif with inL1 := false, inL11 := false, inL12 := false } } ∧
        (∀ h, h ≠ g → t.ring h = s.ring h) ∧
        (t.ring g).en = true ∧ (t.ring g).active = true ∧ (t.ring g).halted = false ∧ (t.ring g).phase = true ∧
        (t.ring g).sqHead = 0 ∧ (t.ring g).sqTail = 0 ∧ (t.ring g).cqHead = 0 ∧ (t.ring g).cqTail = 0 ∧
        (t.ring g).reserved = 0 ∧ (t.ring g).log2 = v.toNat / 2 % 16 ∧ (t.ring g).engine = v.toNat / 32 % 8 ∧
        (t.ring g).cls = v.toNat / 256 % 4 ∧ (t.ring g).prio = v.toNat / 1024 % 8 ∧ (t.ring g).irqEn = v.getLsbD 13 ∧
        (t.ring g).sqBase = (s.ring g).sqBase ∧ (t.ring g).cqBase = (s.ring g).cqBase) ∧
  (∀ (s : State) (f : Fin 16) (i : Fin 1024) (g : Nat) (tlp : Tlp), s.reaches f.val = true →
      (s.pwr.dev = .run ∨ s.pwr.dev = .economy) → s.pageRing f.val i.val = some g → s.ringFunc g = f.val →
      (∀ v : Word, (s.ring g).active = true → (s.ring g).en = true → v.getLsbD 0 = false →
        v.toNat / 2 % 16 = (s.ring g).log2 → v.toNat / 32 % 8 = (s.ring g).engine → v.toNat / 256 % 4 = (s.ring g).cls →
        v.toNat / 1024 % 8 = (s.ring g).prio → 6 ≤ (s.ring g).log2 → (s.ring g).engine ≤ 4 →
        Yields (.ringDisable f i v tlp) s (fun t => (t.ring g).en = false ∧ (t.ring g).places = [] ∧
          (t.ring g).lists = [] ∧ (t.ring g).fetching = 0 ∧ t.sansLedger = s.touch.sansLedger ∧
          ∀ h, h ≠ g → (t.ring h).config = (s.ring h).config)) ∧
      (∀ v : DWord, (s.ring g).active = false →
        Yields (.ringDescriptorWrite f i 0x00 v true tlp) s (fun t =>
          (t.ring g).sqBase = (v &&& 0xFFFFFFFFFFFFF000#64) ∧ (∀ h, h ≠ g → t.ring h = s.ring h) ∧
          t.ring g = { s.ring g with sqBase := (t.ring g).sqBase }) ∧
        Yields (.ringDescriptorWrite f i 0x08 v true tlp) s (fun t =>
          (t.ring g).cqBase = (v &&& 0xFFFFFFFFFFFFF000#64) ∧ (∀ h, h ≠ g → t.ring h = s.ring h) ∧
          t.ring g = { s.ring g with cqBase := (t.ring g).cqBase })) ∧
      (∀ v : DWord, (s.ring g).active = true → v &&& 0xFFFFFFFFFFFFF000#64 ≠ (s.ring g).sqBase →
        Yields (.ringDescriptorWrite f i 0x00 v true tlp) s (fun t => Logged s.touch t 0x0E 0 f.val g)) ∧
      (∀ v : DWord, ∃ t, exec (.ringDescriptorWrite f i 0x14 v false tlp) s = .next t ∧
        t.ring g = { s.ring g with modCount := v.toNat % 256, modTimer := v.toNat / 65536 % 65536 } ∧
        (∀ h, h ≠ g → t.ring h = s.ring h) ∧
        t = { s.touch with rings := t.rings, hif := { s.hif with inL1 := false, inL11 := false, inL12 := false } }) ∧
      (∀ v : Word, (4 < v.toNat / 32 % 8 ∨ v.toNat / 2 % 16 < 6) →
        Yields (.ringEnable f i v tlp) s (fun t => Logged s.touch t 0x0E 0 f.val g)))

/-- A fetch that returns packets fills the ring's places, or the list; a head packet that fails a check before admission ends with
its record, and a LIFECYCLE_ADVANCE that its own parameters fail is noted in LCS_LAST (R339, R340, R514). A fetch that fails halts the ring with its cause and
address, and is logged with KIND 0x0B (UR, CA) or 0x0C (poisoned); a timeout does so unless the host has disabled it (R294, R332, R348, R351, R359, Table 12-7). The moderation
timer signals the ring's vector: its count starts again, and the message goes out or stays pending (R309, R357). The
halt code and log kind of a poisoned fetch follow the model's reading (log 25). -/
def Obligations.FetchesComplete : Prop :=
  (∀ (s : State) (g : Fin 1024),
      ((s.ring g.val).fetching ≠ 0 →
        (∀ bytes, (s.updRing g.val (fun r => { r with places := r.places ++ packetsOf r.fetching bytes, fetching := 0 })).rejectHead
            g.val = none →
          Yields (.ringFetchCompletion g (.data bytes)) s (fun t => LedgerOnly s t ∧
            (t.ring g.val).places = (s.ring g.val).places ++ packetsOf (s.ring g.val).fetching bytes)) ∧
        (∀ bytes p depth e, Reporting s g.val →
          let u := s.updRing g.val (fun r => { r with places := r.places ++ packetsOf r.fetching bytes, fetching := 0 })
          (u.ring g.val).headPacket = some (p, depth) → u.decodersRun = true → (u.ring g.val).covered (pktEntries p) = true →
          1 ≤ (u.ring g.val).freeSlots → u.ringWaits g.val = false → u.headFault g.val p = some e →
          Yields (.ringFetchCompletion g (.data bytes)) s (fun t => LedgerOnly s t ∧
            Recorded s t g.val (pktTag p) (pktOp p) (decide (0 < depth)) e ∧
            (pktOp p = 0x52 → [0x10, 0x18, 0x20].any (fun o => e == endParam o) = true →
              t.lcs.lastStatus = stBadParam ∧ t.lcs.lastCheck = 1))) ∧
        Yields (.ringFetchCompletion g .ur) s (fun t => Halted s t g.val 2 (s.ring g.val).fetchAddr) ∧
        Yields (.ringFetchCompletion g .ca) s (fun t => Halted s t g.val 3 (s.ring g.val).fetchAddr) ∧
        Yields (.ringFetchCompletion g .poisoned) s (fun t => Halted s t g.val 4 (s.ring g.val).fetchAddr ∧
          Emit.aer 0x0C ∈ t.out) ∧
        (s.hif.toDisable = false → Yields (.completionTimeout (.ring g)) s (fun t =>
          Halted s t g.val 1 (s.ring g.val).fetchAddr ∧ Emit.aer 0x0A ∈ t.out))) ∧
      (∀ c cs, (s.ring g.val).lists = c :: cs → c.issued = true → c.fetched = false →
        (∀ bytes, (s.updRing g.val (fun r => { r with
              lists := { c with fetched := true, rest := packetsOf c.entries bytes } :: cs })).rejectHead g.val = none →
          Yields (.listFetchCompletion g (.data bytes)) s (fun t => LedgerOnly s t ∧
            (t.ring g.val).lists = { c with fetched := true, rest := packetsOf c.entries bytes } :: cs)) ∧
        Yields (.listFetchCompletion g .ur) s (fun t => Halted s t g.val 2 c.addr) ∧
        Yields (.listFetchCompletion g .ca) s (fun t => Halted s t g.val 3 c.addr) ∧
        Yields (.listFetchCompletion g .poisoned) s (fun t => Halted s t g.val 4 c.addr) ∧
        (s.hif.toDisable = false → Yields (.completionTimeout (.list g)) s (fun t => Halted s t g.val 1 c.addr))) ∧
      (∀ src, s.hif.toDisable = true → exec (.completionTimeout src) s = .next s)) ∧
  (∀ (s : State) (g : Fin 1024) (at_ : Nat), (s.ring g.val).unsigAt = some at_ → (s.ring g.val).irqEn = true →
      (s.ring g.val).modTimer ≠ 0 → at_ + (s.ring g.val).modTimer ≤ s.tmr.uptime →
      ∃ t, exec (.ringModTimer g) s = .next t ∧ (t.ring g.val).unsig = 0 ∧ (t.ring g.val).unsigAt = none ∧
        LedgerOnly s t ∧ (∀ h, h ≠ g.val → t.ring h = s.ring h) ∧
        (let f := s.ringFunc g.val
         let e := s.ringEntry g.val
         s.hif.msixEn.getD f false = true →
          ((s.msixEntry f e).masked = false → s.hif.msixFm.getD f false = false → s.mayMaster f = true →
            t.sends (.msi f e)) ∧
          ((s.msixEntry f e).masked = true → (t.msixEntry f e).pending = true)))

/-- NOP and FENCE end DONE with a record of their packet; SET_FLAG writes its flag and no other; TIMESTAMP writes the
uptime to its address; TIME_ANCHOR captures the uptime beside the anchor it is given (R109, R334, R343, R344, R391). -/
def Obligations.GenericOpcodes : Prop :=
  ∀ (s : State) (g : Fin 1024) (p : List Byte), Reporting s g.val →
    (s.ready g.val 0x00 false = some p →
      Yields (.nop g) s (fun t => LedgerOnly s t ∧ HeadRecorded s t g.val p endDone)) ∧
    (s.ready g.val 0x01 true = some p →
      Yields (.fence g) s (fun t => LedgerOnly s t ∧ HeadRecorded s t g.val p endDone)) ∧
    (s.ready g.val 0x04 true = some p →
      Yields (.setFlag g) s (fun t => LedgerOnly { s with flags := t.flags } t ∧ HeadRecorded s t g.val p endDone ∧
        ∀ i, i < 256 → t.flags.getLsbD i = if i = par p 0x10 1 then par p 0x11 1 == 1 else s.flags.getLsbD i)) ∧
    (s.ready g.val 0x02 false = some p →
      Yields (.timestamp g) s (fun t => LedgerOnly s t ∧ HeadRecorded s t g.val p endDone ∧
        (par p 0x10 8 ≠ 0 → LimitsLegal s →
          t.sends (.dma (s.ringFunc g.val) (BitVec.ofNat 64 (par p 0x10 8)) (leBytes 8 s.tmr.copy))))) ∧
    (s.ready g.val 0x06 false = some p →
      Yields (.timeAnchor g) s (fun t => HeadRecorded s t g.val p endDone ∧
        LedgerOnly { s with tmr := { s.tmr with
          anchor := BitVec.ofNat 64 (par p 0x10 8), anchorAt := s.tmr.uptime, anchorValid := true } } t))

/-- WAIT_FLAG: DONE at once where the flag has the value; else it waits, and ends DONE on the value or REFUSED_DEADLINE
once the deadline has passed (R107, R343). LIST_CALL is admitted with its list, and the list read is issued (R348).
The host's writes of the flag block set and clear the flags 32 to 255 they name, and leave flags 0 to 31 (R342, R388). The
accesses of one cycle act in the order engines, host, HK0, HK1, whatever their order of arrival (R389). A flag access of an HK
core follows its earlier mailbox stores, as KFENCE does; a mailbox store is seen by the core itself at once, and by every other
agent from the time it drains, in program order (R390, R392, R393). The rows that carry these accesses, and that an HK core
reaches all 256 flags, are the model's choice (log 39, log 44). -/
def Obligations.FlagsAndLists : Prop :=
  (∀ (s : State) (g : Fin 1024),
      (∀ p, s.ready g.val 0x03 false = some p → Reporting s g.val →
        ((s.flags.getLsbD (par p 0x10 1) = (par p 0x11 1 == 1)) →
          Yields (.waitFlag g) s (fun t => LedgerOnly s t ∧ HeadRecorded s t g.val p endDone)) ∧
        (s.flags.getLsbD (par p 0x10 1) ≠ (par p 0x11 1 == 1) → pktDeadline p = 0 →
          Yields (.waitFlag g) s (fun t => LedgerOnly s t ∧ ∃ c ∈ t.cmds, c.cid = s.nextCid ∧ c.ring = g.val ∧
            c.tag = pktTag p ∧ c.body = .waitFlag (par p 0x10 1) (par p 0x11 1 == 1) 0))) ∧
      (∀ x f v d, s.waiting g.val = some (x.cid, f, v, d) → s.cmd? x.cid = some x → x.mir = [] → s.enginesRun = true →
        Reporting s x.ring → (s.ring x.ring).halted = false → x.detached = false →
        (s.flags.getLsbD f = v → Yields (.waitFlagSatisfied g) s (fun t => LedgerOnly s t ∧ t.cmd? x.cid = none ∧
          Recorded s t x.ring x.tag x.opcode x.parent.isSome (s.lateEnd x endDone))) ∧
        (s.flags.getLsbD f ≠ v → d ≠ 0 → 0 < past48 s.now48 d →
          Yields (.waitFlagDeadline g) s (fun t => LedgerOnly s t ∧ t.cmd? x.cid = none ∧
            Recorded s t x.ring x.tag x.opcode x.parent.isSome { endOf stDeadline 0 with late := past48 s.now48 d })))) ∧
  (∀ (s : State) (g : Fin 1024) (p : List Byte), s.ready g.val 0x05 false = some p → Reporting s g.val →
      ∃ t, exec (.listCall g) s = .next t ∧ ∃ c cs, LedgerOnly s t ∧ (t.ring g.val).lists = c :: cs ∧ c.cid = s.nextCid ∧
        c.addr = BitVec.ofNat 64 (par p 0x10 8) ∧ c.entries = par p 0x18 4 ∧ c.issued = true ∧ c.fetched = false ∧
        (∃ x ∈ t.cmds, x.cid = s.nextCid ∧ x.ring = g.val ∧ x.tag = pktTag p) ∧
        ReadIssued s t (s.ringFunc g.val) c.addr (64 * c.entries)) ∧
  (∀ (s : State) (w : Fin 8) (v : Word), s.reaches 0 = true → (s.pwr.dev = .run ∨ s.pwr.dev = .economy) →
      Yields (.kflagSetWrite w v) s (fun t =>
        (∀ i, i < 256 → t.flags.getLsbD i = (s.flags.getLsbD i || (decide (w.val ≠ 0 ∧ i / 32 = w.val) && v.getLsbD (i % 32)))) ∧
        t = { s.touch with flags := t.flags, hif := { s.hif with inL1 := false, inL11 := false, inL12 := false } }) ∧
      Yields (.kflagClrWrite w v) s (fun t =>
        (∀ i, i < 256 → t.flags.getLsbD i = (s.flags.getLsbD i && !(decide (w.val ≠ 0 ∧ i / 32 = w.val) && v.getLsbD (i % 32)))) ∧
        t = { s.touch with flags := t.flags, hif := { s.hif with inL1 := false, inL11 := false, inL12 := false } })) ∧
  (∀ (s : State) (f : Fin 16) (off : Nat) (wide : Bool) (tlp : Tlp) (g : Fin 1024) (h a b : FlagOp) (l : List FlagAccess),
      l.Perm [.engine g, .host h, .hk 0 a, .hk 1 b] →
      ∃ t1 t2 t3 t4, exec (.setFlag g) s = .next t1 ∧ exec (.registerWrite f off (.flags [.host h]) wide tlp) t1 = .next t2 ∧
        exec (.registerWrite f off (.flags [.hk 0 a]) wide tlp) t2 = .next t3 ∧ exec (.registerWrite f off (.flags [.hk 1 b]) wide tlp) t3 = .next t4 ∧
        exec (.registerWrite f off (.flags l) wide tlp) s = .next t4) ∧
  (∀ (s : State) (f : Fin 16) (off : Nat) (wide : Bool) (tlp : Tlp) (c : Fin 2) (w : Fin 8) (v : Word), s.hkRuns c.val = true →
      let u := s.kfence c.val
      (∃ t, exec (.registerWrite f off (.flags [.hk c (.set w v)]) wide tlp) s = .next t ∧ t = { u with flags := t.flags } ∧
        ∀ i, i < 256 → t.flags.getLsbD i = (s.flags.getLsbD i || (decide (i / 32 = w.val) && v.getLsbD (i % 32)))) ∧
      (∃ t, exec (.registerWrite f off (.flags [.hk c (.clear w v)]) wide tlp) s = .next t ∧ t = { u with flags := t.flags } ∧
        ∀ i, i < 256 → t.flags.getLsbD i = (s.flags.getLsbD i && !(decide (i / 32 = w.val) && v.getLsbD (i % 32)))) ∧
      exec (.registerWrite f off (.flags [.hk c (.read w)]) wide tlp) s = .next { u with
        out := .hk c.val (leBytes 4 ((s.flags >>> (32 * w.val)).setWidth 32 : Word).toNat) :: s.out }) ∧
  (∀ (s : State) (f : Fin 16) (off : Nat) (wide : Bool) (tlp : Tlp) (c d : Fin 2) (a : BitVec 16) (bs : List Byte), s.hkStores.length = 2 → s.hkRuns c.val = true → d ≠ c →
      a.toNat % 4 = 0 → bs.length = 4 →
      ∃ t, exec (.registerWrite f off (.hkMem c (.store a bs)) wide tlp) s = .next t ∧
        t = { s with hkStores := s.hkStores.set c.val (s.hkPending c.val ++ [(a.toNat, bs)]) } ∧
        exec (.registerWrite f off (.hkMem c (.load a 4)) wide tlp) t = .next { t with out := .hk c.val bs :: s.out } ∧
        (s.hkRuns d.val = true → s.hkPending d.val = [] → exec (.registerWrite f off (.hkMem d (.load a 4)) wide tlp) t =
          .next { t with out := .hk d.val (Memory.readN s.kmbx a.toNat 4) :: s.out }) ∧
        (s.hkPending c.val = [] → exec (.registerWrite f off (.hkMem c .drain) wide tlp) t =
          .next { s with kmbx := Memory.writeN s.kmbx a.toNat bs, hkStores := s.hkStores.set c.val [] }) ∧
        exec (.registerWrite f off (.hkMem c .fence) wide tlp) t = .next { s with
          hkStores := s.hkStores.set c.val []
          kmbx := Memory.writeN ((s.hkPending c.val).foldl (fun m x => Memory.writeN m x.1 x.2) s.kmbx) a.toNat bs })

/-! ### Registers, BAR4, SMBus, TAP -/

/-- A 4-byte write of the PF stores the RW fields, clears the 1 bits of W1C fields, discards the RWL fields under
SYS_LOCK, and leaves an undefined offset without effect; nothing else of the block changes (R533, R537, R539). The
anchor: a write of TMR_ANCHOR_HI, and an 8-byte write at TMR_ANCHOR_LO once, capture the uptime beside the value
stored (R109, R535). The reads that latch: TMR_UPTIME_LO and SLC_FRAME_IDX_LO return the count and hold its high half
(R365, R534, R535). A write of HIF_VLOG_RD stores its value only from RD to WR, counted forward modulo 2^16 (R321); a
write of SNT_RPT_CTRL clears SNT_RPT_LOST by its bit 7 and sets a legal IRQ_LEVEL. A read returns the register, beyond the BAR
an Unsupported Request, and of a doorbell page the tail or head last accepted, 0 elsewhere in the page (R306, R533); the row
that carries reads is the model's choice (log 39). -/
def Obligations.RegistersWritten : Prop :=
  (∀ (s : State) (v : DWord) (tlp : Tlp), s.reaches 0 = true → (s.pwr.dev = .run ∨ s.pwr.dev = .economy) →
      let u := s.leaveL1.touch
      exec (.registerWrite 0 0x20 (.write v) false tlp) s = .next { u with sys := { u.sys with scratch := v.setWidth 32 } } ∧
      exec (.registerWrite 0 0x30080 (.write v) false tlp) s = .next { u with hif := { u.hif with devEn := v.setWidth 16 } } ∧
      (∃ t, exec (.registerWrite 0 0x30084 (.write v) false tlp) s = .next t ∧ t = { u with hif := { u.hif with devStat := t.hif.devStat } } ∧
        ∀ i, i < 16 → t.hif.devStat.getLsbD i = (s.hif.devStat.getLsbD i && !v.getLsbD i)) ∧
      (∃ t, exec (.registerWrite 0 0x1001C (.write v) false tlp) s = .next t ∧
        t = { s.leaveL1 with pwr := { s.pwr with fault := t.pwr.fault } } ∧
        ∀ i, i < 7 → t.pwr.fault.getLsbD i = (s.pwr.fault.getLsbD i && !v.getLsbD i)) ∧
      exec (.registerWrite 0 0x10008 (.write v) false tlp) s =
        .next { s.leaveL1 with pwr := { s.pwr with idleUs := max 1 (v.toNat % 2 ^ 24) } } ∧
      exec (.registerWrite 0 0x10010 (.write v) false tlp) s =
        .next { s.leaveL1 with pwr := { s.pwr with budget := max 2000 (min 42000 (v.toNat % 65536)) } } ∧
      exec (.registerWrite 0 0x50000 (.write v) false tlp) s = .next { u with slc := { u.slc with
        share := if s.sys.lock then s.slc.share else max 50 (min 90 (v.toNat % 128)), xallow := v.toNat / 65536 % 65536 } } ∧
      exec (.registerWrite 0 0x24 (.write v) false tlp) s = .next u ∧
      (∀ b : BitVec 12, b.toNat % 4 = 0 → Memory.wf s.kmbx = true → Yields (.registerWrite 0 (0xF0000 + b.toNat) (.write v) false tlp) s (fun t =>
        t = { u with kmbx := t.kmbx } ∧ Memory.readN t.kmbx b.toNat 4 = leBytes 4 (v.toNat % 2 ^ 32) ∧
        ∀ a, (a < b.toNat ∨ b.toNat + 4 ≤ a) → Memory.read t.kmbx a = Memory.read s.kmbx a)) ∧
      (∀ off, off % 4 = 0 → off < 0x1000000 → off ≠ 0x20000 → off ≠ 0x50008 → exec (.registerWrite 0 off .read false tlp) s =
        .next { (if groupOf off = .island then s.leaveL1 else u) with out := .data (leBytes 4 (s.readReg off).toNat) :: s.out }) ∧
      (∀ off, 0x2000000 ≤ off → off % 4 = 0 → exec (.registerWrite 0 off .read false tlp) s = .next (s.noBar 0 true (some tlp))) ∧
      (∀ (page : Fin 1024) (g : Nat) (wide : Bool), s.pageRing 0 page.val = some g →
        exec (.registerWrite 0 0 (.doorbellRead page 4) wide tlp) s = .next { u with out := .data (leBytes 4 (s.ring g).sqTail) :: s.out } ∧
        exec (.registerWrite 0 8 (.doorbellRead page 4) wide tlp) s = .next { u with out := .data (leBytes 4 (s.ring g).cqHead) :: s.out } ∧
        exec (.registerWrite 0 16 (.doorbellRead page 4) wide tlp) s = .next { u with out := .data [0, 0, 0, 0] :: s.out })) ∧
  (∀ (s : State) (v : DWord) (tlp : Tlp), s.reaches 0 = true →
      exec (.tmrAnchorHiWrite (v.setWidth 32)) s = .next { s.leaveL1 with tmr := { s.tmr with
        anchor := (s.tmr.anchor &&& 0xFFFFFFFF#64) ||| ((v.setWidth 32 : Word).setWidth 64 <<< 32)
        anchorAt := s.tmr.uptime, anchorValid := true } } ∧
      exec (.registerWrite 0 0x20010 (.write v) true tlp) s = .next { s.leaveL1 with tmr := { s.tmr with
        anchor := v, anchorAt := s.tmr.uptime, anchorValid := true } }) ∧
  (∀ (s : State) (wide : Bool), s.reaches 0 = true →
      let n := if wide then 8 else 4
      exec (.tmrUptimeLoRead wide) s = .next { s.leaveL1 with
        tmr := { s.tmr with hiLatch := BitVec.ofNat 32 (s.tmr.uptime / 2 ^ 32 % 2 ^ 32) }
        out := .data (leBytes n s.tmr.uptime) :: s.out } ∧
      (s.answers .engine = true → exec (.slcFrameIdxLoRead wide) s = .next { s.leaveL1.touch with
        slc := { s.slc with idxHi := s.slc.frame.getD 0 / 2 ^ 32 % 65536 }
        out := .data (leBytes n (s.slc.frame.getD 0)) :: s.out })) ∧
  (∀ (s : State) (v : Word), s.reaches 0 = true → s.answers .host = true →
      (∃ t, exec (.hifVlogRdWrite v) s = .next t ∧
        ((v.setWidth 16 - s.hif.vlogRd).toNat ≤ (s.hif.vlogWr - s.hif.vlogRd).toNat → t.hif.vlogRd = v.setWidth 16) ∧
        ((s.hif.vlogWr - s.hif.vlogRd).toNat < (v.setWidth 16 - s.hif.vlogRd).toNat → t.hif.vlogRd = s.hif.vlogRd) ∧
        t = { s.leaveL1.touch with hif := { s.leaveL1.hif with vlogRd := t.hif.vlogRd } }) ∧
      (∃ t, exec (.sntRptLostClr v) s = .next t ∧ (v.getLsbD 7 = true → t.snt.lost = 0) ∧
        (v.getLsbD 7 = false → t.snt.lost = s.snt.lost) ∧
        t.snt.irqLevel = (if 1 ≤ v.toNat % 128 ∧ v.toNat % 128 ≤ 64 then v.toNat % 128 else s.snt.irqLevel) ∧
        t = { s.leaveL1.touch with snt := { s.snt with lost := t.snt.lost, irqLevel := t.snt.irqLevel } }))

/-- SYS_LOCK.LOCK is set by a PF write of 1, cleared at the release that ends a start, and left set by every other command
(R538). -/
def Obligations.SysLock : Prop :=
  (∀ (s : State) (v : Word), s.reaches 0 = true → s.answers .host = true → v.getLsbD 0 = true →
    ∃ t, exec (.sysLockWrite v) s = .next t ∧ t.sys.lock = true ∧
      t = { s.leaveL1.touch with sys := { s.sys with lock := true } }) ∧
  (∀ (s : State) (st : Start), s.pwr.start = some st → st.held = false →
    Yields .startRelease s (fun t => t.sys.lock = false)) ∧
  (∀ (c : Instr) (s t : State), exec c s = .next t → s.sys.lock = true → t.sys.lock = false →
    c = .startRelease ∧ s.pwr.start.isSome = true)

/-- A write of SNT_RPT_RD stores its value only from RD to WR, counted forward modulo 2^16; any other value is discarded,
so that WR - RD stays in 0 to 64 (R176). -/
def Obligations.ReportsConsumed : Prop :=
  ∀ (s : State) (v : Word), s.reaches 0 = true → s.answers .host = true →
    ∃ t, exec (.sntRptRdWrite v) s = .next t ∧
      ((v.setWidth 16 - s.snt.rd).toNat ≤ (s.snt.wr - s.snt.rd).toNat → t.snt.rd = v.setWidth 16) ∧
      ((s.snt.wr - s.snt.rd).toNat < (v.setWidth 16 - s.snt.rd).toNat → t.snt.rd = s.snt.rd) ∧
      ((s.snt.wr - s.snt.rd).toNat ≤ 64 → (t.snt.wr - t.snt.rd).toNat ≤ 64) ∧
      t = { s.leaveL1.touch with snt := { s.snt with rd := t.snt.rd } }

/-- HIF_RBLK_OWNER assigns each block to the function its field names; block 0 always belongs to the PF; a write while VF
Enable is 1 or SYS_LOCK is set is discarded and logged (R298). -/
def Obligations.RingBlockOwners : Prop :=
  ∀ (s : State) (v : Word) (hi : Bool) (tlp : Tlp), s.reaches 0 = true → s.answers .host = true →
    s.hif.owner.length = 16 →
    (∀ t : State, ∀ g, g < 64 → t.ringFunc g = 0) ∧
    (s.hif.vfEn = false → s.sys.lock = false →
      ∃ t, exec (.hifRblkOwnerWrite hi v tlp) s = .next t ∧
        t = { s.leaveL1.touch with hif := { s.leaveL1.hif with owner := t.hif.owner } } ∧
        (∀ g, g < 1024 → t.ringFunc g =
          if g < 64 then 0
          else if (hi = true ∧ 512 ≤ g) ∨ (hi = false ∧ g < 512) then v.toNat / 2 ^ (4 * (g / 64 % 8)) % 16
          else s.ringFunc g)) ∧
    ((s.hif.vfEn = true ∨ s.sys.lock = true) →
      Yields (.hifRblkOwnerWrite hi v tlp) s (fun t => Logged s.touch t 0x10 0 0 0xFFFF))

/-- The master's window on a member: GO sends one access to a serving member, is refused for a block that is closed to it,
and finds no device elsewhere; the reply ends it (R463). A member serves an access of the master as its own host
interface would, but for the blocks closed to it, and answers (R463). -/
def Obligations.RemoteRegisters : Prop :=
  (∀ (s : State) (v : Word), s.reaches 0 = true → s.answers .engine = true →
      (s.pins.role = .master → s.casc.rgo = none → v.getLsbD 31 = true →
        let d := v.toNat / 2 ^ 25 % 8
        let off := 4 * (v.toNat / 4 % 2 ^ 23)
        ((s.member d).state = 2 → d ≠ s.casc.device → s.casc.route.getD d 3 ≠ 3 →
          (v.getLsbD 28 = false → Yields (.cscRctlGo v) s (fun t => t.casc.rgo.isSome = true ∧
            ∃ up, Emit.link up (.remote d off none) ∈ t.out)) ∧
          (v.getLsbD 28 = true → off / 0x10000 ≠ 4 → off / 0x10000 ≠ 0xE → off / 0x10000 ≠ 0xF →
            Yields (.cscRctlGo v) s (fun t => t.casc.rgo.isSome = true ∧
              ∃ up, Emit.link up (.remote d off (some s.casc.rdata)) ∈ t.out)) ∧
          (v.getLsbD 28 = true → (off / 0x10000 = 4 ∨ off / 0x10000 = 0xE ∨ off / 0x10000 = 0xF) →
            Yields (.cscRctlGo v) s (fun t => t.casc.rgo = none ∧ t.casc.rres = 3 ∧ t.out = s.out))) ∧
        ((s.member d).state ≠ 2 → Yields (.cscRctlGo v) s (fun t => t.casc.rgo = none ∧ t.casc.rres = 1 ∧ t.out = s.out))) ∧
      (∀ (r : Fin 4) (data ctl w : Word), s.casc.rgo = some (ctl, w) →
        exec (.remoteAccessDone r data) s = .next { s with casc := { s.casc with
          rgo := none, rres := r.val
          rdata := if r.val = 0 ∧ ctl.getLsbD 28 = false then data else s.casc.rdata } })) ∧
  (∀ (s : State) (v : Word), s.pins.role = .member → s.casc.numbered = true → s.casc.fenced = false →
      s.mainLive = true → s.casc.portUp.state = .up → (s.pwr.dev = .run ∨ s.pwr.dev = .economy) →
      exec (.remoteAccessMessage 0x20 (some v)) s = .next { s.touch with
        sys := { s.sys with scratch := v }, out := .link true (.remoteReply 0 0) :: s.out } ∧
      (∀ off, off % 4 = 0 → (off / 0x10000 = 4 ∨ off / 0x10000 = 0xE ∨ off / 0x10000 = 0xF) →
        exec (.remoteAccessMessage off (some v)) s = .next { s with out := .link true (.remoteReply 3 0) :: s.out }) ∧
      (∀ off, off % 4 = 0 → off < 0x100000 → off ≠ 0x20000 → off ≠ 0x50008 →
        exec (.remoteAccessMessage off none) s = .next { s with
          out := .link true (.remoteReply 0 (s.readReg off)) :: s.out }))

/-- No register of the PF or a VF, no configuration register, no ball, no SMBus read and no FUSE_READ tells two states apart that differ in key material alone
(R517). -/
def Obligations.KeysNotRead : Prop :=
  ∀ (s : State) (w sg : List (Option KeySlot)) (sess : List Session),
    w.map (Option.map KeySlot.id) = s.lcs.wrap.map (Option.map KeySlot.id) →
    sg.map (Option.map KeySlot.id) = s.lcs.sign.map (Option.map KeySlot.id) →
    sess.map (fun x => { x with key := [] }) = s.wpe.sessions.map (fun x => { x with key := [] }) →
    let t : State := { s with lcs := { s.lcs with wrap := w, sign := sg }, wpe := { s.wpe with sessions := sess } }
    (∀ off, t.readReg off = s.readReg off) ∧ (∀ f off, t.readVf f off = s.readVf f off) ∧
    (∀ f reg, t.readCfg f reg = s.readCfg f reg) ∧ (∀ b, t.ball b = s.ball b) ∧
    (∀ code, t.smbRead code = s.smbRead code) ∧ t.fuseBits = s.fuseBits ∧ t.idBits = s.idBits

/-- BAR4: in MANUFACTURE and SERVICE a sized access is one maintenance packet to its cistern; elsewhere it hits no BAR and
is logged as an Unsupported Request; a bad size is answered as BAR0 answers it (R303, R305, R530). The fields of a
MAINT packet are the model's choice (log 15). -/
def Obligations.Bar4 : Prop :=
  ∀ (s : State) (addr len : Nat) (tlp : Tlp), s.hostUp = true →
    ((s.debugOpen = false ∨ s.decodes 0 = false ∨ 0x4000000 ≤ addr) →
      Yields (.bar4Access addr none len tlp) s (fun t => Emit.ur ∈ t.out ∧ Emit.aer 4 ∈ t.out ∧ Logged s t 0x04 1 0 0xFFFF)) ∧
    (s.debugOpen = true → s.decodes 0 = true → addr < 0x4000000 → (addr % len ≠ 0 ∨ (len ≠ 4 ∧ len ≠ 8 ∧ len ≠ 16 ∧ len ≠ 32)) →
      Yields (.bar4Access addr none len tlp) s (fun t => Emit.ca ∈ t.out ∧ Logged s t 0x05 2 0 0xFFFF)) ∧
    (s.debugOpen = true → s.decodes 0 = true → addr < 0x4000000 → (len = 4 ∨ len = 8 ∨ len = 16 ∨ len = 32) → addr % len = 0 →
      (s.pwr.dev = .run ∨ s.pwr.dev = .economy) →
      (s.maintOut < 16 → Yields (.bar4Access addr none len tlp) s (fun t => t.maintOut = s.maintOut + 1 ∧
        ∃ p, t.rill = s.rill ++ [p] ∧ p.typ = 0x21 ∧ p.dstTer = addr / 0x100000 ∧ p.graph = 1 ∧
          p.runSeq = addr % 0x100000 / 32 ∧ p.offset = addr % 32 ∧ 4 * 2 ^ p.buf = len)) ∧
      (∀ bs : List Byte, bs.length = len → Yields (.bar4Access addr (some bs) len tlp) s (fun t => t.maintOut = s.maintOut ∧
        ∃ p, t.rill = s.rill ++ [p] ∧ p.typ = 0x20 ∧ p.dstTer = addr / 0x100000 ∧ p.graph = 1 ∧
          p.runSeq = addr % 0x100000 / 32 ∧ p.offset = addr % 32 ∧ 4 * 2 ^ p.buf = len ∧ p.data.take len = bs)))

/-- The SMBus target: a Block Read returns its register, and code 0x20 latches the high half of the uptime in a latch of
its own; an unknown code is a counted error; the Alert Response releases ALERT_N (R540 to R543, Table 21-6). The Alert
Response byte is the model's reading (log 24). -/
def Obligations.SmbusTarget : Prop :=
  ∀ s : State, s.pwr.railGood.getLsbD 0 = true → s.pwr.dev ≠ .off →
    (∀ (code : Byte) (w : Word), s.smbRead code.toNat = some w → code ≠ 0x20 →
      exec (.smbusBlockRead code) s = .next { s with out := .smb (4 :: leBytes 4 w.toNat) :: s.out }) ∧
    (exec (.smbusBlockRead 0x20) s = .next { s with
      sys := { s.sys with smbHi := BitVec.ofNat 32 (s.tmr.uptime / 2 ^ 32 % 2 ^ 32) }
      out := .smb (4 :: leBytes 4 (s.tmr.uptime % 2 ^ 32)) :: s.out }) ∧
    s.smbRead 0x21 = some s.sys.smbHi ∧ s.smbRead 0x22 = some s.tmr.epoch ∧
    (∀ code : Byte, s.smbRead code.toNat = none → s.sys.smbErrors < 0xFFFF →
      exec (.smbusBlockRead code) s = .next { s with
        sys := { s.sys with smbLast := 1, smbErrors := s.sys.smbErrors + 1 }, out := .smbNack :: s.out }) ∧
    (s.pins.alertLow = true → exec .smbusAlertResponse s = .next { s with
      pins := { s.pins with alertLow := false }
      out := .smb [BitVec.ofNat 8 (2 * s.sys.smbAddr.toNat)] :: s.out }) ∧
    (s.sys.smbErrors < 0xFFFF →
      (∀ k, (k = 1 ∨ k = 2) → exec (.smbusProtocolError k) s = .next { s with
        sys := { s.sys with smbLast := k, smbErrors := s.sys.smbErrors + 1 }, out := .smbNack :: s.out }) ∧
      (∀ k, (k = 3 ∨ k = 4) → exec (.smbusProtocolError k) s = .next { s with
        sys := { s.sys with smbLast := k, smbErrors := s.sys.smbErrors + 1 } }) ∧
      exec .smbusSclTimeout s = .next { s with
        sys := { s.sys with smbLast := 3, smbErrors := s.sys.smbErrors + 1 } })

/-- TAP instructions that every state has: the instruction register takes the code of Table 20-8, and the boundary
register is shifted; nothing else of the block changes (R522, R523). TAP instructions that the life-cycle state opens:
in MANUFACTURE and SERVICE they act, elsewhere they select BYPASS and do nothing else; TEST_MODE is open in
MANUFACTURE alone (R522, R530, Table 20-7, Table 20-8). While a main rail is not good none of them acts (R70). The fields of a MAINT packet and the boundary register's
content are the model's (log 15, log 24). -/
def Obligations.TapInstructions : Prop :=
  (∀ (s : State) (pins : List Bool), s.tapUp = true →
      exec .tapReset s = .next { s with sys := { s.sys with tapIr := 0x02, testMode := false } } ∧
      exec .clamp s = .next { s with sys := { s.sys with tapIr := 0x03, testMode := false } } ∧
      exec .highz s = .next { s with sys := { s.sys with tapIr := 0x04, testMode := false } } ∧
      exec .bypass s = .next { s with sys := { s.sys with tapIr := 0xFF, testMode := false } } ∧
      exec (.extest pins) s = .next { s with
        sys := { s.sys with tapIr := 0x00, testMode := false, boundary := pins }, out := .tap s.sys.boundary :: s.out } ∧
      exec (.samplePreload pins) s = .next { s with
        sys := { s.sys with tapIr := 0x01, testMode := false, boundary := pins }, out := .tap s.sys.boundary :: s.out } ∧
      (∃ bits, exec .idcode s = .next { s with
        sys := { s.sys with tapIr := 0x02, testMode := false }, out := .tap bits :: s.out } ∧ bits.length = 32 ∧
        bits.getD 0 false = true ∧ (∀ i, i < 11 → bits.getD (i + 1) false = s.sys.mfr.getLsbD i) ∧
        (∀ i, i < 16 → bits.getD (i + 12) false = (0x7240#16).getLsbD i) ∧
        (∀ i, i < 4 → bits.getD (i + 28) false = s.sys.rev.getLsbD i))) ∧
  (∀ s : State, s.tapUp = false → ∀ c ∈ [Instr.tapReset, .clamp, .highz, .bypass, .idcode, .fuseRead, .testMode],
      exec c s = .next s) ∧
  (∀ (s : State) (pins : List Bool) (op : HkOp) (ter : Fin 64) (off len : Nat) (w : Option Word) (bs : Option (List Byte)),
      s.tapUp = false → ∀ c ∈ [Instr.extest pins, .samplePreload pins, .hkDebug op, .fabricAccess ter off w, .cisternAccess off bs len],
      exec c s = .next s) ∧
  (∀ (s : State) (c : Fin 2) (ter : Fin 64) (off : Nat) (v : Word), s.tapUp = true →
      let closed : State := { s with sys := { s.sys with tapIr := 0xFF, testMode := false } }
      (s.debugOpen = true →
        exec (.hkDebug (.halt c)) s = .next { s with sys := { s.sys with
          tapIr := 0x10, testMode := false, hkHalt := setBit s.sys.hkHalt c.val true } } ∧
        exec (.hkDebug (.resume c)) s = .next { s with sys := { s.sys with
          tapIr := 0x10, testMode := false, hkHalt := setBit s.sys.hkHalt c.val false } } ∧
        exec (.hkDebug .other) s = .next { s with sys := { s.sys with tapIr := 0x10, testMode := false } } ∧
        Yields .fuseRead s (fun t => t.sys.tapIr = 0x14 ∧ ∃ bits, t.out = .tap bits :: s.out) ∧
        (s.mainLive = true → (s.pwr.dev = .run ∨ s.pwr.dev = .economy) →
          Yields (.fabricAccess ter off (some v)) s (fun t => t.sys.tapIr = 0x12 ∧ ∃ p, t.rill = s.rill ++ [p] ∧
            p.typ = 0x20 ∧ p.dstTer = ter.val ∧ p.graph = 0 ∧ p.runSeq = off % 0x40000 / 4 ∧
            p.data.take 4 = leBytes 4 v.toNat) ∧
          (∀ addr, addr % 4 = 0 → addr < 0x4000000 → s.maintOut < 16 →
            Yields (.cisternAccess addr none 4) s (fun t => t.sys.tapIr = 0x13 ∧ t.maintOut = s.maintOut + 1 ∧
              ∃ p, t.rill = s.rill ++ [p] ∧ p.typ = 0x21 ∧ p.dstTer = addr / 0x100000 ∧ p.graph = 1)))) ∧
      (s.debugOpen = false →
        (∀ op, exec (.hkDebug op) s = .next closed) ∧ exec .fuseRead s = .next closed ∧
        (∀ w, exec (.fabricAccess ter off w) s = .next closed) ∧ (∀ w n, exec (.cisternAccess off w n) s = .next closed)) ∧
      (s.lcs.active = .manufacture → s.lcs.closed = false → exec .testMode s = .next { s with
        sys := { s.sys with tapIr := 0x15, testMode := true } }) ∧
      (s.lcs.active ≠ .manufacture → exec .testMode s = .next closed))

/-! ### The rill -/

/-- A packet waits while a port on its way is moated, while a router on it is not powered, which it stages, and while another
packet's turn comes first; then it leaves the rill, and its damage is discarded by Table 9-6: an uncorrectable header loses it,
with UNCORR_RILL set at the terrace that saw it; a type, VC or length that is not sound sets BAD_PKT at its first router (R96,
R245, R251, R253). At an output port VC1 goes before all, VC0 and VC2 take turns, and within a VC the input ports do (R245). -/
def Obligations.PacketsLost : Prop :=
  (∀ (s : State) (p : Packet) (c : Instr),
    c ∈ [Instr.actData p, .tensorData p, .readReq p, .readData p, .credit p, .prewake p, .maintWr p, .maintRd p,
      .maintResp p, .moatSet p] →
    (s.moated p = true → exec c s = .next s) ∧
    (s.moated p = false → s.wayClear p = false →
      Yields c s (fun t => t = { s with pwr := t.pwr } ∧ ∀ h ∈ s.way p, h.ter < 64 → s.ters.length = 64 →
        s.pwr.terraces.length = 64 → t.terPower h.ter ≠ .off)) ∧
    (s.wayClear p = true → s.rillTurn p = false → Yields c s (fun t => t = { s with free := s.free + 1, cmds := t.cmds })) ∧
    (s.wayClear p = true → s.rillTurn p = true → packetSound p = true → p.damage = .header → s.ters.length = 64 →
      Yields c s (fun t => t.rill = s.rillLess p ∧ (t.ter p.errTer.val).uncorrRill = true ∧
        (t.ter p.errTer.val).errPort = p.errPort.val ∧ t.cistern = s.cistern ∧ t.graphs = s.graphs ∧ t.kmbx = s.kmbx)) ∧
    (s.rillTurn p = true → packetSound p = false → s.ters.length = 64 → packetStart p s.isMe < 64 →
      Yields c s (fun t => t.rill = s.rillLess p ∧ (t.ter (packetStart p s.isMe)).badPkt = true ∧
        t.cistern = s.cistern ∧ t.graphs = s.graphs))) ∧
  (∀ (s : State) (p : Packet), let u := s.leaveRill p
    u = { s with rill := s.rillLess p, ters := u.ters, rillVc := u.rillVc, rillIn := u.rillIn } ∧
    ∀ k, u.ter k = { s.ter k with flits := (u.ter k).flits }) ∧
  (∀ (s : State) (p q : Packet) (h k : Hop) (b : Bool), k.port = h.port →
    (q.vc = 1 → p.vc ≠ 1 → s.servedFirst q p k h b = true ∧ s.servedFirst p q h k b = false) ∧
    (p.vc = 0 → q.vc = 2 → (s.crossHop p h).servedFirst q p k h b = true ∧ (s.crossHop p h).servedFirst p q h k b = false) ∧
    (p.vc = 2 → q.vc = 0 → (s.crossHop p h).servedFirst q p k h b = true ∧ (s.crossHop p h).servedFirst p q h k b = false) ∧
    (p.vc = q.vc → h.inp < 5 → k.inp < 5 → k.inp ≠ h.inp → (s.crossHop p h).servedFirst q p k h b = true) ∧
    (p.vc = q.vc → k.inp = h.inp → s.servedFirst q p k h b = b))

/-- ACT_DATA and TENSOR_DATA to a terrace write their payload into the named buffer of the input slot, from the named
half-line on, and no other byte of any cistern (R228, R229, R232). READ_REQ is answered out of the buffer it names,
512 bytes a packet; one of this device's engine port has space reserved for each; READ_DATA leaves the engine port by the
space reserved for it and frees it, and is discarded where none is (R232, R246, Table 9-6). -/
def Obligations.DataMoved : Prop :=
  (∀ (s : State) (p : Packet) (g : Graph) (i : Nat) (x : Slot) (pl : Placement), Memory.wf s.cistern = true →
      Arrives s p → p.dstEngine = false →
      s.slotAt p.dstTer p.slot = some (g, i) → g.slots[i]? = some x → x.isOut = false → p.buf < x.bufs.length →
      p.offset + p.flits ≤ 2 * x.lines → (g.consumer i).bind (fun k => g.cgd.places[k]?) = some pl →
      let c : Instr := if p.typ = 0x01 then .actData p else .tensorData p
      let lo := x.addr p.buf + 32 * p.offset
      (p.typ = 0x01 ∨ p.typ = 0x02) →
      ∃ t, exec c s = .next t ∧ Memory.readN t.cistern lo p.data.length = p.data ∧
        (∀ a, (a < lo ∨ lo + p.data.length ≤ a) → Memory.read t.cistern a = Memory.read s.cistern a) ∧
        t = { s.leaveRill p with cistern := t.cistern, graphs := t.graphs }) ∧
  (∀ (s : State) (p : Packet), Arrives s p →
      (∀ (g : Graph) (i : Nat) (x : Slot), p.typ = 0x03 → p.dstEngine = false → s.isMe p.srcDev = true →
        s.slotAt p.dstTer p.slot = some (g, i) → g.slots[i]? = some x → p.buf < x.bufs.length →
        let bs := Memory.readN s.cistern (x.addr p.buf) (64 * x.lines)
        let n := ceilDiv (64 * x.lines) 512
        Yields (.readReq p) s (fun t => t.cistern = s.cistern ∧ t.graphs = s.graphs ∧
          t.readSpace = s.readSpace ++ (if p.srcEngine then (List.range n).map (fun k =>
            { dev := p.dstDev, ter := p.dstTer, slot := p.slot, buf := p.buf, offset := 16 * k, dest := p.arg }) else []) ∧
          ∀ k, k < n → ∃ q ∈ t.rill, q.typ = 0x12 ∧ q.dstEngine = true ∧ q.offset = 16 * k ∧
            q.runSeq = p.runSeq ∧ q.arg = 0 ∧ q.data = (bs.drop (512 * k)).take 512)) ∧
      (∀ x, p.typ = 0x12 → p.dstEngine = true → s.readPlace? p = some x → exec (.readData p) s = .next { s.leaveRill p with
        readSpace := s.readSpace.erase x, out := .data p.data :: s.out }) ∧
      (p.typ = 0x12 → p.dstEngine = true → s.readPlace? p = none → s.ters.length = 64 →
        Yields (.readData p) s (fun t => (t.ter 24).badPkt = true ∧ t.out = s.out ∧ t.readSpace = s.readSpace)))

/-- CREDIT adds one to the edge credit it names; PREWAKE wakes or holds the peripheries of its slot; MOAT_SET sets or
clears the moat of the ports it names (R99, R238, R250, R251). Maintenance: a write reaches the cistern bytes it names
where debug access is open; a read is answered to the engine port; its answer frees its space and hands the data on
(R382, R530, Table 9-5). FORWARD_PACKET sends the next packet of its terrace's forwarder: its edge loses one credit,
and with the last edge the output buffer's credit returns (R238 to R240); out of an uncorrectable line it carries poisoned data
(R253). The fields of MAINT, CREDIT and MOAT packets
are the model's choice (log 15). -/
def Obligations.PacketsActed : Prop :=
  (∀ (s : State) (p : Packet), Arrives s p →
      (∀ g, p.typ = 0x10 → s.graph? p.graph = some g → g.ports = [] → p.arg < g.credit.length →
        Yields (.credit p) s (fun t => t = { s.leaveRill p with graphs := t.graphs } ∧
          ∃ g', t.graph? p.graph = some g' ∧ (∀ k, g'.credit.getD k 0 = g.credit.getD k 0 + if k = p.arg then 1 else 0) ∧
            g' = { g with credit := g'.credit })) ∧
      (p.typ = 0x11 → p.dstEngine = false →
        Yields (.prewake p) s (fun t => t = { s.leaveRill p with pwr := { s.pwr with periph := t.pwr.periph } } ∧
          (∀ n ∈ s.wakeTargets p.dstTer p.arg,
            (s.basinBusy n = true → Tab.get? t.pwr.periph n = Tab.get? s.pwr.periph n) ∧
            (s.basinBusy n = false → Tab.get? t.pwr.periph n = some (match Tab.get? s.pwr.periph n with
              | some (.good _) => .good true
              | _ => .waking))) ∧
          ∀ n, n ∉ s.wakeTargets p.dstTer p.arg → Tab.get? t.pwr.periph n = Tab.get? s.pwr.periph n)) ∧
      (p.typ = 0x23 → p.dstEngine = false → p.dstTer < s.ters.length → (∀ q ∈ s.rillLess p, s.isMe q.dstDev = true) →
        Yields (.moatSet p) s (fun t => t = { s.leaveRill p with ters := t.ters } ∧
          (∀ k, k ≠ p.dstTer → t.ter k = (s.leaveRill p).ter k) ∧
          (∀ i, i < 4 → (t.ter p.dstTer).moatPorts.getLsbD i =
            if bitAt p.arg i then bitAt p.arg 8 else (s.ter p.dstTer).moatPorts.getLsbD i) ∧
          (t.ter p.dstTer).moatLocal = if bitAt p.arg 4 then bitAt p.arg 8 else (s.ter p.dstTer).moatLocal))) ∧
  (∀ (s : State) (p : Packet), Arrives s p →
      (p.typ = 0x20 → p.dstEngine = false → p.dstTer < 64 → p.graph = 1 → p.buf ≤ 3 → p.flits = 1 → p.offset + 4 * 2 ^ p.buf ≤ 32 →
        s.cisOpen p.dstTer p.runSeq = true → Memory.wf s.cistern = true →
        (s.bankReserved p.dstTer (halfBank p.runSeq) = false → exec (.maintWr p) s = .next (s.leaveRill p)) ∧
        (s.bankReserved p.dstTer (halfBank p.runSeq) = true →
        let lo := p.dstTer * 0x100000 + p.runSeq * 32 + p.offset
        Yields (.maintWr p) s (fun t => t = { s.leaveRill p with cistern := t.cistern } ∧
          Memory.readN t.cistern lo (4 * 2 ^ p.buf) = p.data.take (4 * 2 ^ p.buf) ∧
          ∀ a, (a < lo ∨ lo + 4 * 2 ^ p.buf ≤ a) → Memory.read t.cistern a = Memory.read s.cistern a))) ∧
      (p.typ = 0x21 → p.dstEngine = false → s.isMe p.srcDev = true → p.dstTer < 64 → p.graph = 0 → p.buf = 0 →
        Yields (.maintRd p) s (fun t => t.cistern = s.cistern ∧ t.maintOut = s.maintOut ∧
          ∃ q, t.rill = s.rillLess p ++ [q] ∧ q.typ = 0x22 ∧ q.dstEngine = true ∧ q.slot = p.slot ∧
            q.data.take 4 = leBytes 4 ((s.leaveRill p).readWindow p.dstTer (4 * p.runSeq)).toNat)) ∧
      (p.typ = 0x22 → p.dstEngine = true → s.maintOut ≠ 0 → s.maintQ = [] → p.slot = 0 →
        exec (.maintResp p) s = .next { (s.leaveRill p).leaveL1 with maintOut := s.maintOut - 1
                                                                     out := .data (p.data.take (4 * 2 ^ p.buf)) :: s.out })) ∧
  (∀ (s : State) (h place edge : Nat) (g : Graph) (pl : Placement) (e : EdgeRec) (f : Forward) (q : Packet)
      (cis : Fin 3), s.graph? h = some g → g.cgd.places[place]? = some pl → g.cgd.edges[edge]? = some e →
      s.nextForward pl.ter = some (f, edge) → f.handle = h → f.place = place → s.terPower pl.ter = .good →
      s.edgePacket g pl f e (cis.val == 2) = some q → s.isMe q.dstDev = true → edge < g.credit.length →
      Yields (.forwardPacket h place edge cis) s (fun t => t.rill = s.rill ++ [q] ∧ t.cistern = s.cistern ∧
        (cis.val = 2 → q.damage = .poisoned ∧ (pl.ter < s.ters.length → (t.ter pl.ter).uncorrCis = true)) ∧
        (∃ g', t.graph? h = some g' ∧ g'.credit = g.credit.set edge (g.credit.getD edge 0 - 1) ∧
          (f.edges = [edge] → g'.score = g.score.modify place (fun z => { z with outCredits := z.outCredits + 1 })) ∧
          (f.edges.erase edge ≠ [] → g'.score = g.score)) ∧
        (f.edges = [edge] → t.fwds = s.fwds.erase f) ∧
        (f.edges.erase edge ≠ [] → t.fwds = s.fwds.map (fun x => if x = f then { f with edges := f.edges.erase edge } else x))))

/-! ### Graphs, runs, evaluations, frames, cameras -/

/-- GRAPH_LOAD is admitted and reads the whole CGD; a read that passes every check gives a graph under a non-zero handle
that no loaded graph held, at run sequence 0; one that fails a check, or the read itself, ends the command and loads
nothing (R268, R269, R574). GRAPH_UNLOAD of a loaded graph is accepted and waits for its runs; with the last of them
gone the graph, its staged buffers, its evaluations and its forwarded buffers are released, and every other graph
stays (R272). -/
def Obligations.GraphsLoaded : Prop :=
  ((∀ (s : State) (g : Fin 1024) (p : List Byte), s.ready g.val 0x10 false = some p → Reporting s g.val →
      (s.casc.pairs.any (fun k => k.failCid.isSome)) = false →
      Yields (.graphLoad g) s (fun t => LedgerOnly s t ∧
        ReadIssued s t (s.ringFunc g.val) (BitVec.ofNat 64 (par p 0x10 8)) (par p 0x18 4) ∧
        ∃ x ∈ t.cmds, x.cid = s.nextCid ∧ x.ring = g.val ∧ x.tag = pktTag p ∧ x.body =
          .graphLoad (BitVec.ofNat 64 (par p 0x10 8)) (par p 0x18 4) (par p 0x1C 1 == 1) (par p 0x20 4) (par p 0x24 4))) ∧
    (∀ (s : State) (x : Cmd) (addr : DWord) (len off win : Nat) (bytes : List Byte),
      s.cmd? x.cid = some x → x.body = .graphLoad addr len false off win → x.mir = [] → x.detached = false →
      (s.ring x.ring).halted = false → Reporting s x.ring → s.bistRunning = false →
      (∀ slots u, s.loadChecks x.cid (readBytes len bytes) len = none →
        s.placeSlots (parseCgd (readBytes len bytes)) s.reservedSlots (parseCgd (readBytes len bytes)).slots = (.ok slots, u) →
        s.graphs.length < 256 → s.casc.shadows.length < 256 →
        s.pairsFor ((parseCgd (readBytes len bytes)).places.map (fun q => q.dev)).eraseDups = [] →
        Yields (.cgdReadComplete x.cid (.data bytes)) s (fun t => ∃ g, t.graph? g.handle = some g ∧ g.handle ≠ 0 ∧
          g.handle < 65536 ∧ (∀ y ∈ s.graphs, y.handle ≠ g.handle) ∧ g.cgd = parseCgd (readBytes len bytes) ∧ g.nextSeq = 0 ∧
          (∀ z ∈ g.score, z.runSeq = 0) ∧ g.owner = s.ringFunc x.ring ∧ g.unload = none ∧
          t.graphs.map (fun y => y.handle) = s.graphs.map (fun y => y.handle) ++ [g.handle] ∧
          Recorded s t x.ring x.tag x.opcode x.parent.isSome (s.lateEnd x (endOf stDone g.handle)))) ∧
      (∀ f, s.loadChecks x.cid (readBytes len bytes) len = some f →
        Yields (.cgdReadComplete x.cid (.data bytes)) s (fun t => LedgerOnly s t ∧ t.cmd? x.cid = none ∧
          Recorded s t x.ring x.tag x.opcode x.parent.isSome (s.lateEnd x f.toEnd))) ∧
      Yields (.cgdReadComplete x.cid .ca) s (fun t => LedgerOnly s t ∧ t.cmd? x.cid = none) ∧
      (s.hif.toDisable = false →
        Yields (.completionTimeout (.cmd x.cid)) s (fun t => (x.held = none → LedgerOnly s t ∧ t.cmd? x.cid = none))))) ∧
  ((∀ (s : State) (g : Fin 1024) (p : List Byte), s.ready g.val 0x11 false = some p → Reporting s g.val →
      (∀ x, s.liveGraph (par p 0x10 2) = some x → s.mirrorStopped x.devs = false →
        Yields (.graphUnload g) s (fun t => LedgerOnly { s with graphs := t.graphs } t ∧
          t.graphs = s.graphs.map (fun y => if y.handle = par p 0x10 2 then { y with unload := some s.nextCid } else y))) ∧
      (s.liveGraph (par p 0x10 2) = none →
        Yields (.graphUnload g) s (fun t => LedgerOnly s t ∧ HeadRecorded s t g.val p (endParam 0x10)))) ∧
    (∀ (s : State) (h c : Nat) (x : Graph), s.graph? h = some x → x.unload = some c → s.runsOf h = [] →
      Yields (.graphRelease h) s (fun t => t.graph? h = none ∧ t.graphs = s.graphs.filter (fun y => y.handle != h) ∧
        t.staged = s.staged.filter (fun y => y.handle != h) ∧ t.evals = s.evals.filter (fun y => y.handle != h) ∧
        t.fwds = s.fwds.filter (fun y => y.handle != h) ∧ t.weights = s.weights ∧ t.kmbx = s.kmbx)))

/-- TENSOR_IN and TENSOR_OUT stage one host buffer on a port of a loaded graph, in staging order, and complete with DONE;
each port holds up to 16, and a seventeenth completes with REFUSED_CAPACITY (R345). -/
def Obligations.TensorsStaged : Prop :=
  ∀ (s : State) (r : Fin 1024) (p : List Byte) (g : Graph) (o : PortRec) (input : Bool),
    s.ready r.val (if input then 0x14 else 0x15) false = some p → Reporting s r.val →
    s.liveGraph (par p 0x10 2) = some g → g.cgd.ports[par p 0x12 1]? = some o → o.kind = (if input then 0 else 1) →
    o.bytes = par p 0x14 4 →
    let c : Instr := if input then .tensorIn r else .tensorOut r
    let here := s.staged.filter (fun x => x.handle == par p 0x10 2 && x.port == par p 0x12 1)
    (here.length < 16 → Yields c s (fun t => HeadRecorded s t r.val p endDone ∧
      LedgerOnly { s with staged := s.staged ++
        [{ handle := par p 0x10 2, port := par p 0x12 1, addr := BitVec.ofNat 64 (par p 0x18 8) }] } t)) ∧
    (16 ≤ here.length → Yields c s (fun t => HeadRecorded s t r.val p (endOf stCapacity 0) ∧ LedgerOnly s t))

/-- LAYER_THRESHOLD and EXACT_MODE change only the values stored with the loaded graph: a run already admitted keeps its
own (R224). A graph that a pair mirrors is left to the statements of mirroring. -/
def Obligations.SettingsStored : Prop :=
  ∀ (s : State) (r : Fin 1024) (p : List Byte) (g : Graph), Reporting s r.val →
    s.liveGraph (par p 0x10 2) = some g → s.pairsFor g.devs = [] →
    (s.ready r.val 0x16 false = some p → (g.cgd.places.any (fun (x : Placement) => x.layer == par p 0x12 2)) = true →
      (∀ x : Placement, x ∈ g.cgd.places → x.layer = par p 0x12 2 → par p 0x14 1 ≤ min 15 (2 ^ min 8 x.q - 1)) →
      Yields (.layerThreshold r) s (fun t => LedgerOnly { s with graphs := t.graphs } t ∧ HeadRecorded s t r.val p endDone ∧
        (∃ g', t.graph? (par p 0x10 2) = some g' ∧ g' = { g with theta := g'.theta } ∧
          ∀ (k : Nat) (x : Placement) (v : Nat), g.cgd.places[k]? = some x → g.theta[k]? = some v →
            g'.theta[k]? = some (if x.layer = par p 0x12 2 then par p 0x14 1 else v)) ∧
        ∀ c ∈ s.cmds, ∀ run, c.body = .run run → c ∈ t.cmds)) ∧
    (s.ready r.val 0x17 false = some p →
      Yields (.exactMode r) s (fun t => LedgerOnly { s with graphs := t.graphs } t ∧ HeadRecorded s t r.val p endDone ∧
        t.graph? (par p 0x10 2) = some { g with exact := par p 0x12 1 == 1 } ∧
        ∀ c ∈ s.cmds, ∀ run, c.body = .run run → c ∈ t.cmds))

/-- LAYER_THRESHOLD completes with BAD_PARAM, and changes nothing, when the handle names no loaded graph, the layer is
outside it, or the threshold exceeds min(15, 2^q - 1) of that layer; EXACT_MODE when the handle names none (R225). -/
def Obligations.SettingsRefused : Prop :=
  ∀ (s : State) (r : Fin 1024) (p : List Byte), Reporting s r.val →
    (s.ready r.val 0x16 false = some p →
      (s.liveGraph (par p 0x10 2) = none →
        Yields (.layerThreshold r) s (fun t => LedgerOnly s t ∧ HeadRecorded s t r.val p (endParam 0x10))) ∧
      (∀ g, s.liveGraph (par p 0x10 2) = some g → (g.cgd.places.any (fun (x : Placement) => x.layer == par p 0x12 2)) = false →
        Yields (.layerThreshold r) s (fun t => LedgerOnly s t ∧ HeadRecorded s t r.val p (endParam 0x12))) ∧
      (∀ (g : Graph) (x : Placement), s.liveGraph (par p 0x10 2) = some g → x ∈ g.cgd.places → x.layer = par p 0x12 2 →
        min 15 (2 ^ min 8 x.q - 1) < par p 0x14 1 →
        Yields (.layerThreshold r) s (fun t => LedgerOnly s t ∧ HeadRecorded s t r.val p (endParam 0x14)))) ∧
    (s.ready r.val 0x17 false = some p → s.liveGraph (par p 0x10 2) = none →
      Yields (.exactMode r) s (fun t => LedgerOnly s t ∧ HeadRecorded s t r.val p (endParam 0x10)))

/-- A GRAPH_RUN that passes its checks waits at the sluice, and the sluice's decision books it: from its start to its
bound of WC + XALLOW + the mirroring allowance, with the settings stored then; a GRAPH_RUN_FRAME is booked in the
window of its frame (R224, R360, R361, R369). -/
def Obligations.RunsBooked : Prop :=
  ∀ (s : State) (r : Fin 1024) (p : List Byte) (g : Graph), s.liveGraph (par p 0x10 2) = some g →
    (s.ready r.val 0x12 false = some p → s.lostDev g = none → s.unstagedPort g = none → r.val ∉ s.slc.waiting →
      exec (.graphRun r) s = .next { s with slc := { s.slc with waiting := s.slc.waiting ++ [r.val] } }) ∧
    (s.ready r.val 0x13 false = some p → s.lostDev g = none → g.window.isSome = true → r.val ∉ s.slc.waiting →
      exec (.graphRunFrame r) s = .next { s with slc := { s.slc with waiting := s.slc.waiting ++ [r.val] } }) ∧
    (s.slc.waiting = [r.val] → s.pwr.dev ≠ .dry → s.mirrorStopped g.devs = false → CidsFresh s →
      (∀ start bound, s.ready r.val 0x12 false = some p → s.unstagedPort g = none →
        s.runVerdict g (s.ring r.val).cls (s.absolute (pktDeadline p)) = .booked start bound →
        Yields .sluiceDecision s (fun t => r.val ∉ t.slc.waiting ∧ ∃ c ∈ t.cmds, ∃ run, c.cid = s.nextCid ∧ c.ring = r.val ∧
          c.tag = pktTag p ∧ c.body = .run run ∧ run.handle = g.handle ∧ run.start = start ∧ run.bound = bound ∧
          bound = start + s.wcNs g + s.slc.xallow + s.syncAllowNs g.devs ∧ run.theta = g.theta ∧ run.exact = g.exact ∧
          run.begun = false)) ∧
      (∀ k f, s.ready r.val 0x13 false = some p → g.window = some f → s.slc.frame = some k → k < pktDeadline p →
        s.tableFull g.handle = none → s.windowRun g.handle (pktDeadline p) = none →
        let fire := 1000 * (s.slc.frameAt + (pktDeadline p - k) * s.slc.curPeriod + f.1)
        fire + s.runNeed g ≤ s.horizon →
        Yields .sluiceDecision s (fun t => r.val ∉ t.slc.waiting ∧ ∃ c ∈ t.cmds, ∃ run, c.cid = s.nextCid ∧
          c.body = .run run ∧ run.handle = g.handle ∧ run.start = fire ∧ run.window = some (pktDeadline p, fire + 1000 * f.2) ∧
          run.begun = false)))

/-- A run begins in its turn with every terrace good, or at its fire instant: it takes the graph's next run sequence
number and its first layer's peripheries wake, but for a basin that evaluates; a window with no run is released (R26, R98,
R250, R371, R576). A begun run that has lost nothing and whose last output is written ends with its record, DONE_LATE past its
deadline (R353); the data of a host read and a camera's
bands are handed to the run that waits for them (R227, R249, R285, R346). -/
def Obligations.RunsGoOn : Prop :=
  ((∀ (s : State) (h k : Nat) (g : Graph) (f : Nat × Nat), s.graph? h = some g → s.slc.frame = some k →
      g.frame = some f → h ∉ s.slc.fired → (s.windowNow f).1 ≤ s.nowNs → s.windowRun h k = none →
      exec (.fireInstant h) s = .next { s with
        slc := { s.slc with fired := s.slc.fired ++ [h], released := s.slc.released ++ [h] } }) ∧
    ∀ (s : State) (x : Cmd) (run : Run) (g : Graph), s.cmd? x.cid = some x → x.body = .run run →
      s.graph? run.handle = some g → s.enginesRun = true → run.begun = false →
      let begins (t : State) : Prop :=
        (∃ y ∈ t.cmds, ∃ r', y.cid = x.cid ∧ y.body = .run r' ∧ r'.begun = true ∧ r'.runSeq = g.nextSeq) ∧
        (∃ g', t.graph? run.handle = some g' ∧ g'.nextSeq = (g.nextSeq + 1) % 65536) ∧
        ∀ i : Nat, i ∈ g.cgd.firstLayer → ∀ n : Nat, n ∈ g.phys.getD i [] →
          (s.basinBusy n = false → Tab.get? t.pwr.periph n = some .waking ∨ Tab.get? t.pwr.periph n = some (.good true)) ∧
          (s.basinBusy n = true → Tab.get? t.pwr.periph n = Tab.get? s.pwr.periph n)
      (run.window = none → s.tersGood g = true → run.notBefore ≤ s.nowNs → s.inTurn run.handle x.cid = true →
        Yields (.runHeadWake x.cid) s begins) ∧
      (∀ (k : Nat) (f : Nat × Nat), s.slc.frame = some k → g.frame = some f → run.handle ∉ s.slc.fired →
        (s.windowNow f).1 ≤ s.nowNs → s.windowRun run.handle k = some (x, run) → Yields (.fireInstant run.handle) s begins)) ∧
  (∀ (s : State) (x : Cmd) (run : Run) (g : Graph), s.cmd? x.cid = some x → x.body = .run run →
      s.graph? run.handle = some g → x.held = none →
      (run.begun = true → run.fault = none → s.runDone g run = true → s.pairsFor g.devs = [] → x.mir = [] →
        x.detached = false → (s.ring x.ring).halted = false → Reporting s x.ring →
        Yields (.runComplete x.cid) s (fun t => LedgerOnly { s with free := s.free + 1 } t ∧ t.cmd? x.cid = none ∧
          Recorded s t x.ring x.tag x.opcode x.parent.isSome (({ s with free := s.free + 1 } : State).lateEnd x run.ended))) ∧
      (∀ (port : Nat) (o : PortRec) (bytes : List Byte), run.begun = false → unreadPort g run run.readPorts = some port → g.cgd.ports[port]? = some o →
        Yields (.dataReadCompletion x.cid (.data bytes)) s (fun t => t = { s with cmds := t.cmds } ∧
          ∃ y ∈ t.cmds, ∃ r', y.cid = x.cid ∧ y.body = .run r' ∧ r'.readPorts = run.readPorts ++ [port] ∧
            r'.feeds = run.feeds ++ [(2, port, readBytes o.bytes bytes)])) ∧
      (∀ u : Fin 2, run.begun = true →
        Yields (.intakeDelivery x.cid u) s (fun t => (t.unit u.val).deliver = none ∧ t.csi = s.csi ∧
          (∃ y ∈ t.cmds, ∃ r', y.cid = x.cid ∧ y.body = .run r' ∧ ∀ f ∈ r'.feeds, f.1 ≠ u.val) ∧
          ∀ k, k ≠ u.val → t.unit k = s.unit k)))

/-- The scoreboard fires only basins in VALID, no other command puts an evaluation in flight, and a tracking evaluation
acts only on a basin in VALID or FAILED (R206). -/
def Obligations.OnlyValidFire : Prop :=
  (∀ (s t : State) (h place : Nat) (cis : Fin 3) (g : Graph), s.graph? h = some g →
    exec (.basinFire h place cis) s = .next t → t.evals ≠ s.evals →
    ∀ n ∈ g.phys.getD place [], (s.basin n).wstate = .valid) ∧
  (∀ (c : Instr) (s t : State), exec c s = .next t → (∀ h place cis, c ≠ .basinFire h place cis) →
    ∀ e ∈ t.evals, e ∈ s.evals) ∧
  (∀ (s t : State) (r : TrackRead), exec (.trackingEvaluation r) s = .next t → t ≠ s →
    (s.basin r.basin).wstate = .valid ∨ (s.basin r.basin).wstate = .failed)

/-- BASIN_FIRE fixes an evaluation and moves the scoreboard on; EVALUATION_COMPLETE writes its output vector to the buffer
it reserved, and no other byte, and hands it to the forwarder (R24, R211, R235, R237, R239). Trims: a tracking
evaluation of a basin whose terrace is not good stages the terrace (R94); one whose readings verify sets GAIN and OFFSET from them, held in a byte, and clears the reference fault, else
sets the fault and keeps the trims; a ride-along window steps each trim by at most one (R197 to R202). -/
def Obligations.EvaluationsRun : Prop :=
  ((∀ (s : State) (h place : Nat) (g : Graph) (p : Placement) (z : Score), s.graph? h = some g →
      g.cgd.places[place]? = some p → g.score[place]? = some z → (g.inputOf p z).1 = true →
      s.mayFire g place p z (g.phys.getD place []) = true →
      Yields (.basinFire h place 0) s (fun t =>
        (∃ e, t.evals = s.evals ++ [e] ∧ e.handle = g.handle ∧ e.place = place ∧ e.runSeq = z.runSeq ∧ e.outBuf = z.nextOut ∧
          e.out.length = p.cols) ∧
        (∃ g', t.graph? h = some g' ∧ (g'.score[place]?).map (fun y => y.outCredits) = some (z.outCredits - 1) ∧
          (g'.score[place]?).map (fun y => y.runSeq) = some ((z.runSeq + 1) % 65536)) ∧
        t.cistern = s.cistern ∧ t.weights = s.weights)) ∧
    (∀ (s : State) (h place : Nat) (g : Graph) (p : Placement) (e : Eval) (x : Slot), Memory.wf s.cistern = true →
      s.evals.find? (fun y => y.handle == h && y.place == place) = some e → s.graph? h = some g →
      g.cgd.places[place]? = some p → g.slots[p.outSlot]? = some x →
      Yields (.evaluationComplete h place) s (fun t =>
        t.evals = s.evals.filter (fun y => !(y.handle == h && y.place == place)) ∧
        Memory.readN t.cistern (x.addr e.outBuf) e.out.length = e.out ∧
        (∀ a, (a < x.addr e.outBuf ∨ x.addr e.outBuf + e.out.length ≤ a) → Memory.read t.cistern a = Memory.read s.cistern a) ∧
        (∃ f, t.fwds = s.fwds ++ [f] ∧ f.handle = h ∧ f.place = place ∧ f.runSeq = e.runSeq ∧ f.buf = e.outBuf) ∧
        t.weights = s.weights ∧ t.graphs = s.graphs))) ∧
  ((∀ (s : State) (r : TrackRead), trackWf r = true →
      ((s.basin r.basin).wstate = .valid ∨ (s.basin r.basin).wstate = .failed) → s.basinInRun r.basin = false →
      s.enginesRun = true → s.pwr.fclkTo = none → s.sys.hkHalt.getLsbD 1 = false →
      (s.terPower (r.basin / 64) ≠ .good → Yields (.trackingEvaluation r) s (fun t => t = { s with pwr := t.pwr } ∧
        t.terPower (r.basin / 64) ≠ .off)) ∧
      (s.terPower (r.basin / 64) = .good → Yields (.trackingEvaluation r) s (fun t => t = { s with basins := t.basins } ∧
        (∀ n, n ≠ r.basin → t.basin n = s.basin n) ∧
        (trackVerifies (readingsOf r) = true → (t.basin r.basin).refFault = false ∧
          (t.basin r.basin).gain = max (-128) (min 127 (trackTrims (readingsOf r)).1) ∧
          (t.basin r.basin).offset = max (-128) (min 127 (trackTrims (readingsOf r)).2)) ∧
        (trackVerifies (readingsOf r) = false → (t.basin r.basin).refFault = true ∧ (t.basin r.basin).gain = (s.basin r.basin).gain ∧
          (t.basin r.basin).offset = (s.basin r.basin).offset) ∧
        (t.basin r.basin).wstate = (s.basin r.basin).wstate))) ∧
    (∀ (s : State) (b : Fin 4096), 256 ≤ (s.basin b.val).win.length →
      -128 ≤ (s.basin b.val).gain → (s.basin b.val).gain ≤ 127 → -128 ≤ (s.basin b.val).offset → (s.basin b.val).offset ≤ 127 →
      Yields (.rideAlongWindow b) s (fun t => t = { s with basins := t.basins } ∧ (∀ n, n ≠ b.val → t.basin n = s.basin n) ∧
        (t.basin b.val).win = (s.basin b.val).win.drop 256 ∧
        ((t.basin b.val).gain - (s.basin b.val).gain).natAbs ≤ 1 ∧ ((t.basin b.val).offset - (s.basin b.val).offset).natAbs ≤ 1 ∧
        -128 ≤ (t.basin b.val).gain ∧ (t.basin b.val).gain ≤ 127)))

/-- Frame starts: an edge from 15/16 of a period on, a timer that expires, or 5/4 of a period with no edge; each advances
the index and records its time; an early edge is counted and changes nothing else (R363 to R365). SLC_FRAME_CFG: with
no source in force the new one is in force at once, and a timer starts a frame; with one, the settings wait for the next frame
start; the counters of edges restart; a SRC of 3 is discarded (R363, R364). When SRC and PERIOD_US apply follows the model's reading (log 27). -/
def Obligations.FramesStart : Prop :=
  (∀ s : State,
      let started (t : State) : Prop :=
        t.slc.frame = some (match s.slc.frame with
          | none => 0
          | some k => min (2 ^ 48 - 1) (k + 1)) ∧ t.slc.frameAt = s.tmr.uptime ∧ t.slc.fired = [] ∧ t.slc.released = [] ∧
        t.slc.curSrc = s.slc.src ∧ t.slc.curPeriod = s.slc.period ∧ t = { s with slc := t.slc, cmds := t.cmds }
      (s.slc.curSrc = 1 → (s.slc.firstEdge = true ∨ 15 * s.slc.curPeriod ≤ 16 * (s.tmr.uptime - s.slc.frameAt)) →
        Yields .fsyncEdge s started) ∧
      (s.slc.curSrc = 1 → s.slc.firstEdge = false → 16 * (s.tmr.uptime - s.slc.frameAt) < 15 * s.slc.curPeriod →
        s.slc.early < 0xFFFF → exec .fsyncEdge s = .next { s with slc := { s.slc with early := s.slc.early + 1 } }) ∧
      (s.slc.curSrc = 2 → s.slc.frameAt + s.slc.curPeriod ≤ s.tmr.uptime → Yields .frameTimerExpire s started) ∧
      (s.slc.curSrc = 1 → s.slc.firstEdge = false → 5 * s.slc.curPeriod ≤ 4 * (s.tmr.uptime - s.slc.frameAt) →
        s.slc.missed < 0xFFFF → Yields .fsyncMissed s (fun t => started t ∧ t.slc.missed = s.slc.missed + 1))) ∧
  (∀ (s : State) (v : Word), s.reaches 0 = true → s.answers .engine = true →
      let period := max 4170 (min 33300 (v.toNat / 65536))
      (v.toNat % 4 = 3 → s.slc.curSrc ≠ 0 →
        exec (.slcFrameCfgWrite v) s = .next { s.leaveL1.touch with slc := { s.slc with period := period } }) ∧
      (v.toNat % 4 = 2 → s.slc.curSrc = 0 → Yields (.slcFrameCfgWrite v) s (fun t => t.slc.curSrc = 2 ∧ t.slc.curPeriod = period ∧
        t.slc.src = 2 ∧ t.slc.period = period ∧ t.slc.frameAt = s.tmr.uptime ∧ t.slc.frame.isSome = true ∧
        t = { s.leaveL1.touch with slc := t.slc, cmds := t.cmds })) ∧
      (v.toNat % 4 ≠ 3 → s.slc.curSrc ≠ 0 → exec (.slcFrameCfgWrite v) s = .next { s.leaveL1.touch with slc := { s.slc with
        src := v.toNat % 4, period := period, early := 0, missed := 0 } }) ∧
      (s.slc.curSrc = 0 → v.toNat % 4 < 2 → exec (.slcFrameCfgWrite v) s = .next { s.leaveL1.touch with slc := { s.slc with
        src := v.toNat % 4, period := period, early := 0, missed := 0, curSrc := v.toNat % 4, curPeriod := period
        firstEdge := decide (v.toNat % 4 = 1) } }))

/-- CSI-2: Frame Start opens a frame and applies settings that wait, and cuts short a frame still open, which ends damaged; a
corrected header is counted; a line of the selected channel and type enters it;
Frame End makes it the newest unless it is damaged and DROP is set; header and payload errors are counted (R279, R282,
R289, R291, R293). CSI_CONFIG sets a port that no unit reads and clears its counters, and ends at once when it
disables it or when its lanes reach stop state; INTAKE_CONFIG leaves its settings to the next Frame Start (R290,
R291). Counting of unsupported types and ends of damaged frames follow the model's reading (log 20). -/
def Obligations.CamerasTaken : Prop :=
  (∀ (s : State) (port : Fin 2) (vc : Fin 4) (corrected : Bool), (s.csiPort port.val).en = true →
      let counted (t : State) : Prop := ∀ k : Nat, (t.csiPort k).corrected =
        (if corrected = true ∧ k = port.val ∧ k < s.csi.length ∧ (s.csiPort k).corrected < 0xFFFF then (s.csiPort k).corrected + 1
         else (s.csiPort k).corrected)
      (Yields (.csiFrameStart port ⟨vc, corrected⟩) s (fun t => t = { s with intake := t.intake, csi := t.csi } ∧ counted t ∧
        ∀ (i : Nat) (u : Intake), s.intake[i]? = some u →
          (∀ c : IntakeCfg, u.next = some c → c.takes port.val vc.val = true → c.bands ≠ [] → u.cur = none → t.intake[i]? =
            some { u with cfg := some c, next := none, cur := some (CamFrame.start s.tmr.uptime), newest := none, deliver := none }) ∧
          (∀ c : IntakeCfg, u.next = none → u.cfg = some c → c.takes port.val vc.val = true → u.cur = none →
            t.intake[i]? = some { u with cur := some (CamFrame.start s.tmr.uptime) }) ∧
          (∀ (c : IntakeCfg) (f : CamFrame), u.cfg = some c → c.takes port.val vc.val = true → u.cur = some f →
            (∀ d : IntakeCfg, u.next = some d → d.takes port.val vc.val = true ∧ d.bands ≠ []) →
            ∃ v : Intake, t.intake[i]? = some v ∧ v.cur = some (CamFrame.start s.tmr.uptime) ∧ v.next = none ∧
              v.damaged = (if u.damaged < 0xFFFF then u.damaged + 1 else u.damaged) ∧
              v.complete = (if u.complete < 0xFFFF then u.complete + 1 else u.complete)) ∧
          (u.next = none → u.cfg = none → t.intake[i]? = some u))) ∧
      (Yields (.csiFrameEnd port ⟨vc, corrected⟩) s (fun t => t = { s with intake := t.intake, csi := t.csi } ∧ counted t ∧
        ∀ (i : Nat) (u : Intake) (c : IntakeCfg) (f : CamFrame), s.intake[i]? = some u → u.cfg = some c → u.cur = some f → c.takes port.val vc.val = true →
          ∃ v : Intake, t.intake[i]? = some v ∧ v.cur = none ∧ v.complete = (if u.complete < 0xFFFF then u.complete + 1 else u.complete) ∧
            ((f.close c false).damaged = false → v.newest = some (f.close c false) ∧ v.damaged = u.damaged) ∧
            ((f.close c false).damaged = true → c.damage = 0 → v.newest = u.newest) ∧
            ((f.close c false).damaged = true → c.damage ≠ 0 → v.newest = some (f.close c false)))) ∧
      (∀ (dt : Nat) (payload : List Byte) (crcOk : Bool),
        Yields (.csiLongPacket port vc dt false false crcOk payload) s (fun t =>
          t = { s with csi := t.csi, intake := t.intake } ∧
          (∀ (i : Nat) (u : Intake) (c : IntakeCfg) (f : CamFrame), dtSupported dt = true → s.intake[i]? = some u → u.cfg = some c → u.cur = some f →
            c.takes port.val vc.val = true → c.dt = dt →
            t.intake[i]? = some { u with cur := some (f.addLine c false crcOk payload) }) ∧
          (dtSupported dt = false → t.intake = s.intake) ∧
          (crcOk = false → (s.csiPort port.val).crcLines < 0xFFFF → port.val < s.csi.length →
            (t.csiPort port.val).crcLines = (s.csiPort port.val).crcLines + 1) ∧
          (crcOk = true → (t.csiPort port.val).crcLines = (s.csiPort port.val).crcLines)))) ∧
  ((∀ (s : State) (r : Fin 1024) (p : List Byte), Reporting s r.val →
      (s.ready r.val 0x24 false = some p → s.portRead (par p 0x10 1) = false → par p 0x10 1 < s.csi.length →
        Yields (.csiConfig r) s (fun t => t.csiPort (par p 0x10 1) =
            { CsiPort.initial with en := par p 0x11 1 == 1, lanes := par p 0x12 1, rate := par p 0x14 2 } ∧
          (∀ k, k ≠ par p 0x10 1 → t.csiPort k = s.csiPort k) ∧
          LedgerOnly { s with csi := t.csi, pwr := { s.pwr with peak := t.pwr.peak, estFormed := t.pwr.estFormed } } t ∧
          (par p 0x11 1 ≠ 1 → HeadRecorded s t r.val p endDone) ∧
          (par p 0x11 1 = 1 → ∃ x ∈ t.cmds, x.cid = s.nextCid ∧ x.body = .csi (par p 0x10 1)))) ∧
      (∀ g, s.ready r.val 0x25 false = some p → s.liveGraph (par p 0x24 2) = some g →
        bandFault (intakeOf p) (par p 0x10 1) g = none → (s.csiPort (par p 0x11 1)).en = true → par p 0x10 1 < s.intake.length →
        Yields (.intakeConfig r) s (fun t => HeadRecorded s t r.val p endDone ∧ LedgerOnly { s with intake := t.intake } t ∧
          (t.unit (par p 0x10 1)).next = some (intakeOf p) ∧ (t.unit (par p 0x10 1)).cfg = (s.unit (par p 0x10 1)).cfg ∧
          (t.unit (par p 0x10 1)).newest = (s.unit (par p 0x10 1)).newest ∧ (t.unit (par p 0x10 1)).complete = 0 ∧
          ∀ k, k ≠ par p 0x10 1 → t.unit k = s.unit k))) ∧
    (∀ (s : State) (port : Fin 2) (stop : BitVec 4) (hs dk : Bool), (s.csiPort port.val).en = true →
      port.val < s.csi.length →
      Yields (.laneStopState port stop hs dk) s (fun t => (t.csiPort port.val).stop = stop ∧ (t.csiPort port.val).clkHs = hs ∧
        (t.csiPort port.val).en = true ∧ LedgerOnly { s with csi := t.csi } t ∧
        ((∀ k, k < (s.csiPort port.val).lanes → stop.getLsbD k = true) →
          ∀ x ∈ t.cmds, x.body = .csi port.val → x.held.isSome = true ∨ x.mir ≠ []))))

/-! ### The analogue front end and the host -/

/-- AFE_CONFIG, SENTINEL_ARM and SENTINEL_DISARM that may take effect wait for their hop boundary, with a channel newly
enabled powered at once and its boundary at least 2 ms away; FEATURE_ROUTE sets the route at once (R142, R143, R147,
R177). While any power is up, an enabled microphone bias in its current limit is marked, and a clipping preamplifier
of a powered channel sets its flag and is counted at the next hop; nothing else changes (R146, R152). When a setting
is refused or waits follows the model's reading (log 31). -/
def Obligations.AnalogueSettings : Prop :=
  (∀ (s : State) (r : Fin 1024) (p : List Byte), Reporting s r.val →
      (s.ready r.val 0x20 false = some p → s.afeRefused (afeOf p) = false →
        Yields (.afeConfig r) s (fun t => LedgerOnly { s with afe := t.afe } t ∧ t.afe.hop = s.afe.hop ∧
          t.afe.pend = s.afe.pend ++ [({ cfg := afeOf p, cid := s.nextCid, notBefore := s.tmr.uptime +
            (if (List.range 16).any (s.newlyEnabled (afeOf p)) then 2000 else 0) } : AfePend)] ∧
          (∀ n, t.chan n = if s.newlyEnabled (afeOf p) n = true ∧ n < s.afe.chans.length
            then { s.chan n with powered := true } else s.chan n) ∧
          ∃ c ∈ t.cmds, c.cid = s.nextCid ∧ c.ring = r.val ∧ c.body = .afe)) ∧
      (s.ready r.val 0x20 false = some p → s.afeRefused (afeOf p) = true →
        Yields (.afeConfig r) s (fun t => LedgerOnly s t ∧ HeadRecorded s t r.val p endState)) ∧
      (s.ready r.val 0x21 false = some p → s.armRefusal (par p 0x10 1) = none →
        Yields (.sentinelArm r) s (fun t => LedgerOnly { s with snt := t.snt } t ∧
          t.snt.pend = s.snt.pend ++ [({ chan := par p 0x10 1, rule := some (ruleOf p), cid := s.nextCid } : SntPend)] ∧
          (∀ n, (t.sentinel n).armed = (s.sentinel n).armed ∧ (t.sentinel n).rule = (s.sentinel n).rule) ∧
          ∃ c ∈ t.cmds, c.cid = s.nextCid ∧ c.ring = r.val ∧ c.body = .sentinel)) ∧
      (s.ready r.val 0x22 false = some p → s.willBeArmed (par p 0x10 1) = true →
        Yields (.sentinelDisarm r) s (fun t => LedgerOnly { s with snt := t.snt } t ∧ t.snt.s = s.snt.s ∧
          t.snt.pend = s.snt.pend ++ [({ chan := par p 0x10 1, rule := none, cid := s.nextCid } : SntPend)])) ∧
      (∀ n, s.ready r.val 0x23 false = some p → s.physOf 0 (par p 0x10 1) = some n → n < 16 → s.basinInGraph n = false →
        Yields (.featureRoute r) s (fun t => HeadRecorded s t r.val p endDone ∧ LedgerOnly { s with
          afe := { s.afe with route := s.afe.route.set n (if par p 0x12 1 = 1 then some (par p 0x11 1) else none) } } t))) ∧
  (∀ s : State, s.pwr.dev ≠ .off →
      (∀ (k : Fin 4) (m : MicBias), s.afe.mic[k.val]? = some m → m.en = true →
        Yields (.micbiasCurrentLimit k) s (fun t => t = { s with afe := { s.afe with mic := t.afe.mic } } ∧
          t.afe.mic[k.val]? = some { m with ilim := true } ∧ ∀ j : Nat, j ≠ k.val → t.afe.mic[j]? = s.afe.mic[j]?)) ∧
      (∀ n : Fin 16, (s.chan n.val).powered = true →
        Yields (.preamplifierClip n) s (fun t =>
          t = { s with afe := { s.afe with chans := t.afe.chans, clip := setBit s.afe.clip n.val true } } ∧
          t.chan n.val = { s.chan n.val with clipNow := true } ∧ ∀ j : Nat, j ≠ n.val → t.chan j = s.chan j)))

/-- A hop boundary falls on the grid of the hop period. It ends the hop that each powered channel has heard, counts it, applies
the settings that are due and ends their commands, starts a new grid where the period changes, and forms the features of each
enabled and settled channel, which become valid unless an evaluation holds their lane; a disabled or settling channel gives 0.
The end of that evaluation lets the features in (R134 to R139, R142, R144, R145, R150). At a hop boundary an armed sentinel
evaluates the features its channel holds and applies its wake rule, a sentinel not armed does nothing; the first hop after
arming calibrates; a report that its mode selects goes into the ring, over the oldest when 64 are unread; an accepted arming
or disarming of the channel takes effect and completes (R160 to R166, R171, R173, R177). What is counted while VAUX is
good and how arms are judged follow the model's reading (log 31); the sizes of errors and scales are free values (logs 41, 42). -/
def Obligations.HopBoundary : Prop :=
  ((∀ (s : State) (chans : List (List MicPiece)) (refs : List (List Int)), hopWf chans refs = true →
      (s.hopDue = false → exec (.hopBoundary chans refs) s = .next s) ∧
      (s.hopDue = true →
        (s.afe.pend = [] → Yields (.hopBoundary chans refs) s (fun t => t.afe.hopCnt = s.afe.hopCnt + 1 ∧
          t.afe.hop = s.afe.hop ∧ t.afe.gridAt = s.afe.gridAt ∧ t.hopDue = false ∧ t.weights = s.weights ∧ t.cistern = s.cistern ∧
          t.graphs = s.graphs ∧
          ∀ (n : Nat) (x : AfeChan) (ps : List MicPiece), s.afe.chans[n]? = some x → chans[n]? = some ps →
            (x.rejoin = false → x.en = true → x.settle ≤ 1 → undefinedAt s.afe.period ps = false →
              ∃ draw, (t.chan n).feat = (x.hear n s.afe.period ps (s.free + n * hopDraws chans)).features n
                (x.firstValid || decide (x.settle = 1)) draw) ∧
            (x.rejoin = true ∨ x.en = false ∨ 2 ≤ x.settle → (t.chan n).feat = List.replicate 82 0) ∧
            (s.laneBusy n = false → (t.chan n).lane = (t.chan n).feat ∧ (t.chan n).switchWait = false) ∧
            (s.laneBusy n = true → (t.chan n).lane = x.lane ∧ (t.chan n).switchWait = true))) ∧
        (∀ (q : AfePend) (c : Cmd), s.afe.pend = [q] → s.cmd? q.cid = some c → c.mir = [] →
          (q.notBefore ≤ s.tmr.uptime → Yields (.hopBoundary chans refs) s (fun t => t.afe.pend = [] ∧ t.cmd? q.cid = none ∧
            t.afe.hop = (if q.cfg.hopValid = true then q.cfg.hop else s.afe.hop) ∧
            t.afe.gridAt = (if t.afe.hop = s.afe.hop then s.afe.gridAt else s.tmr.uptime) ∧
            ∀ (n : Nat) (x : AfeChan), s.afe.chans[n]? = some x → n < 16 →
              (t.chan n).en = (if q.cfg.chMask.getLsbD n = true then q.cfg.chEn.getLsbD n else x.en) ∧
              (t.chan n).gain = (if q.cfg.chMask.getLsbD n = true then q.cfg.gain.getD n 0 else x.gain))) ∧
          (s.tmr.uptime < q.notBefore → Yields (.hopBoundary chans refs) s (fun t => t.afe.pend = [q] ∧
            t.afe.hop = s.afe.hop))))) ∧
    (∀ (s : State) (n : Fin 16) (x : AfeChan), s.afe.chans[n.val]? = some x →
      Yields (.featureBankSwitch n) s (fun t => t = { s with afe := t.afe } ∧ (∀ k, k ≠ n.val → t.chan k = s.chan k) ∧
        (x.switchWait = true → t.chan n.val = { x with lane := x.feat, switchWait := false }) ∧
        (x.switchWait = false → t = s)))) ∧
  (∀ (s : State) (chans : List (List MicPiece)) (refs : List (List Int)), hopWf chans refs = true → s.hopDue = true →
      s.afe.pend = [] →
      (s.snt.pend = [] → ∀ (n : Nat) (x : Sentinel) (h : List Int), s.snt.s[n]? = some x → refs[n]? = some h →
        (x.armed = false → Yields (.hopBoundary chans refs) s (fun t => t.sentinel n = x ∧
          t.snt.entry.getLsbD n = s.snt.entry.getLsbD n)) ∧
        (x.armed = true → x.calib = true → Yields (.hopBoundary chans refs) s (fun t => (t.sentinel n).calib = false ∧
          (t.sentinel n).trim.natAbs ≤ 32 ∧ (t.sentinel n).active = x.active ∧ (t.sentinel n).count = x.count)) ∧
        (x.armed = true → x.calib = false → (s.chan n).settle = 0 → (s.chan n).rejoin = false →
          Yields (.hopBoundary chans refs) s (fun t => ∃ draw,
            let r := s.sntRead n x (t.chan n).feat draw
            let o := x.evaluate r h false 0
            (t.sentinel n).active = o.st.active ∧ (t.sentinel n).count = o.st.count ∧ (t.sentinel n).trim = o.st.trim ∧
            (t.sentinel n).enterLast = r.enter ∧ (t.sentinel n).latches = r.latches ∧ (t.sentinel n).rule = x.rule ∧
            t.snt.entry.getLsbD n = (s.snt.entry.getLsbD n || o.entry) ∧
            (s.snt.rpt.length = 64 → (∀ k, k ≠ n → (s.sentinel k).armed = false) →
              (o.reports = false → t.snt.wr = s.snt.wr ∧ t.snt.rpt = s.snt.rpt ∧ (t.sentinel n).seq = x.seq) ∧
              (o.reports = true → t.snt.wr = s.snt.wr + 1 ∧
                t.snt.rpt[s.snt.wr.toNat % 64]? = some (o.report n (s.afe.hopCnt + 1) (s.tmr.uptime + 250)) ∧
                (t.sentinel n).seq = (x.seq + 1) % 256 ∧
                ((s.snt.wr - s.snt.rd).toNat < 64 → t.snt.rd = s.snt.rd ∧ t.snt.lost = s.snt.lost) ∧
                (64 ≤ (s.snt.wr - s.snt.rd).toNat → t.snt.rd = s.snt.rd + 1 ∧
                  t.snt.lost = (if s.snt.lost < 0xFFFF then s.snt.lost + 1 else s.snt.lost))))))) ∧
      (∀ (q : SntPend) (c : Cmd), s.snt.pend = [q] → q.chan < 16 → q.chan < s.snt.s.length → s.cmd? q.cid = some c →
        c.mir = [] → Yields (.hopBoundary chans refs) s (fun t => t.snt.pend = [] ∧ t.cmd? q.cid = none ∧
          (t.sentinel q.chan).armed = q.rule.isSome ∧ ∀ w, q.rule = some w → (t.sentinel q.chan).rule = w)))

/-- Misbehaviour of the host while its interface is up is logged with its kind, action and function, and reported as its
AER error; a read of a bad size completes with Completer Abort, a request that is not supported, or that no BAR decodes, with
Unsupported Request; an ECRC mismatch counts only where checking is enabled (R294, R305, R318, R321, R322). -/
def Obligations.HostMisbehaves : Prop :=
  ∀ (s : State) (tlp : Tlp), s.hostUp = true →
    Yields (.malformedTlp tlp) s (fun t => Logged s t 0x01 0 0 0xFFFF ∧ Emit.aer 0x01 ∈ t.out) ∧
    (s.hif.ecrcCheck = true → Yields (.ecrcMismatch tlp) s (fun t => Logged s t 0x03 0 0 0xFFFF ∧ Emit.aer 0x03 ∈ t.out)) ∧
    (s.hif.ecrcCheck = false → exec (.ecrcMismatch tlp) s = .next s) ∧
    Yields (.unexpectedCompletion tlp) s (fun t => Logged s t 0x09 0 0 0xFFFF ∧ Emit.aer 0x09 ∈ t.out) ∧
    (∀ f : Fin 16,
      let ur (isRead : Bool) (t : State) : Prop := Logged s t 0x04 1 f.val 0xFFFF ∧ Emit.aer 0x04 ∈ t.out ∧
        (isRead = true → Emit.ur ∈ t.out)
      Yields (.unsupportedRequest f tlp) s (ur true) ∧
      (s.decodes f.val = true →
        Yields (.poisonedWrite f tlp) s (fun t => Logged s t 0x02 0 f.val 0xFFFF ∧ Emit.aer 0x02 ∈ t.out) ∧
        Yields (.bar0BadSizeAccess f true tlp) s (fun t => Logged s t 0x05 2 f.val 0xFFFF ∧ Emit.aer 0x05 ∈ t.out ∧
          Emit.ca ∈ t.out) ∧
        Yields (.bar0BadSizeAccess f false tlp) s (fun t => Logged s t 0x05 2 f.val 0xFFFF ∧ Emit.aer 0x05 ∈ t.out)) ∧
      (s.decodes f.val = false →
        Yields (.poisonedWrite f tlp) s (ur false) ∧ ∀ isRead, Yields (.bar0BadSizeAccess f isRead tlp) s (ur isRead))) ∧
    (s.decodes 0 = false → ∀ v, Yields (.slcFrameCfgWrite v) s (fun t => Logged { s with free := s.free + 2 } t 0x04 1 0 0xFFFF ∧
      Emit.aer 0x04 ∈ t.out))

/-- FLR of a VF disables its rings, detaches its commands, closes its sessions, lets go of its graphs and leaves every
other function's rings configured; FLR of the PF, Hot Reset and DL_Down reset every function and the settings of the
host interface (R318, R319, R320). What a reset does to waiting writes and edge credits is the model's reading (log
33). -/
def Obligations.HostResets : Prop :=
  ∀ s : State, s.hostUp = true →
    (∀ f : Fin 16, f.val ≠ 0 → s.hif.vfEn = true →
      Yields (.flr f) s (fun t => t.hif.bme.getD f.val false = false ∧
        (s.hif.flrEnd.length = 16 → s.tmr.uptime ≤ t.hif.flrEnd.getD f.val 0 ∧ t.hif.flrEnd.getD f.val 0 ≤ s.tmr.uptime + 100000) ∧
        (∀ g, g < 1024 → s.ringFunc g = f.val → (t.ring g).config = Ring.initial.config ∧ (t.ring g).halted = false) ∧
        (∀ g, s.ringFunc g ≠ f.val → (t.ring g).config = (s.ring g).config) ∧
        (∀ c ∈ t.cmds, s.ringFunc c.ring = f.val → c.detached = true) ∧
        (∀ x ∈ t.graphs, x.owner = f.val → x.unload.isSome = true) ∧
        (∀ x ∈ t.wpe.sessions, x.func = f.val → x.closing.isSome = true) ∧ t.basins = s.basins ∧ t.weights = s.weights)) ∧
    let clean (t : State) : Prop := (∀ g, g < 1024 → s.ringFunc g < 16 → (t.ring g).en = false) ∧ t.hif.vfEn = false ∧
      t.hif.vfMse = false ∧ t.hif.mse = false ∧ t.hif.bars = List.replicate 5 0 ∧ t.hif.mrrs = 512 ∧ t.hif.ecrcCheck = false ∧
      t.hif.devEn = 0 ∧ t.hif.l1Idle = 0x14 ∧ t.hif.ltrFrame = 0x14 ∧ t.hif.ltrRun = 0x64 ∧ t.hif.ltrDoze = 0x3E8 ∧
      t.hif.d3hot = false ∧ t.basins = s.basins ∧ t.weights = s.weights
    Yields (.flr 0) s clean ∧
    Yields .hotReset s (fun t => clean t ∧ t.hif.mps = 128 ∧ t.postQ = [] ∧ t.fc = none ∧ t.hif.aspmL1 = false ∧ t.hif.up = s.hif.up) ∧
    Yields .dlDown s (fun t => clean t ∧ t.postQ = [] ∧ t.fc = none ∧ t.hif.aspmL1 = false ∧ t.hif.up = false)

/-- Bus Master Enable cleared and D3hot only set their bits; set again, or back in D0, reads that waited go out and only
the ledger of the rings follows; an idle link enters L1, its substates in DOZE alone; unmasking sends a pending
message (R309, R312, R314, R315). The link trains at a rate and width of Table 12-1 and takes the credits it comes
with; credit returned sends the posted writes that wait, oldest first, one for each unit (R295, R386). Held data reads
and L1 substates follow the model's reading (log 17, log 33). -/
def Obligations.HostPower : Prop :=
  (∀ s : State, s.hostUp = true →
      let resumed (u t : State) : Prop := LedgerOnly { u with readQ := t.readQ } t ∧
        (∀ q : Nat × DWord × Nat, q ∈ t.readQ → t.mayMaster q.1 = false) ∧
        ∀ q : Nat × DWord × Nat, q ∈ s.readQ → t.mayMaster q.1 = true → ReadIssued s t q.1 q.2.1 q.2.2
      (∀ f : Fin 16, f.val ≠ 0 → s.hif.vfEn = false → ∀ on, exec (.busMasterEnableChange f on) s = .next s) ∧
      (∀ f : Fin 16, f.val = 0 ∨ s.hif.vfEn = true →
        exec (.busMasterEnableChange f false) s = .next { s with hif := { s.hif with bme := s.hif.bme.set f.val false } } ∧
        Yields (.busMasterEnableChange f true) s (resumed { s with
          hif := { s.hif with bme := s.hif.bme.set f.val true } })) ∧
      exec .powerstateD3hot s = .next { s with hif := { s.hif with d3hot := true } } ∧
      Yields .powerstateD0 s (resumed { s with hif := { s.hif with d3hot := false } }) ∧
      (∀ sub : Fin 3, s.hif.aspmL1 = true → s.hif.up = true → s.hif.inL1 = false → s.hif.l12 < 0xFFFF →
        (s.pwr.dev = .run ∨ s.pwr.dev = .economy ∨ s.pwr.dev = .doze → Yields (.aspmL1Idle sub) s (fun t =>
          t.out = .l1Request :: s.out ∧ t.hif.inL1 = true ∧ t = { s with hif := t.hif, out := t.out } ∧
          (t.hif.inL11 = true ↔ sub.val = 1 ∧ s.pwr.dev = .doze) ∧
          (sub.val = 2 ∧ s.pwr.dev = .doze → t.hif.inL12 = true ∧ t.hif.l12 = s.hif.l12 + 1) ∧
          (¬(sub.val = 2 ∧ s.pwr.dev = .doze) → t.hif.inL12 = false ∧ t.hif.l12 = s.hif.l12))) ∧
        (s.pwr.dev = .dry → exec (.aspmL1Idle sub) s = .next s)) ∧
      (∀ (f : Fin 16) (e : Fin 1040), f.val = 0 ∨ e.val < 960 →
        Yields (.msixUnmask f (some e)) s (fun t => ReportOnly s t ∧ (t.msixEntry f.val e.val).masked = false ∧
          ((s.msixEntry f.val e.val).pending = true → s.hif.msixEn.getD f.val false = true →
            s.hif.msixFm.getD f.val false = false → s.mayMaster f.val = true →
            t.sends (.msi f.val e.val) ∧ (t.msixEntry f.val e.val).pending = false)))) ∧
  ((∀ (s : State) (speed width : Nat) (credits : Option Nat), linkLegal speed width = true → s.pins.role ≠ .member →
      (s.hostUp = true ∨ s.pwr.start.isSome = true) → s.postQ = [] →
      Yields (.linkUp speed width credits) s (fun t => t = { s with hif := t.hif, fc := t.fc } ∧ t.hif.up = true ∧
        t.hif.speed = speed ∧ t.hif.width = width ∧ t.hif.inL1 = false ∧ t.hif.rid = s.hif.rid ∧
        (s.hif.up = false → t.fc = credits ∧ t.hif.recovery = s.hif.recovery) ∧ (s.hif.up = true → t.fc = s.fc))) ∧
    (∀ (s : State) (n k : Nat), s.fc = some k → (∀ q : Posted, q ∈ s.postQ → q.credit = none) →
      (∀ q : Posted, q ∈ s.postQ → ∀ f, q.e.func? = some f → s.mayMaster f = true) →
      Yields (.flowControlCreditReturn n) s (fun t => t.postQ = s.postQ.drop (k + n) ∧
        t.fc = some (k + n - min (k + n) s.postQ.length) ∧ (∀ q ∈ s.postQ.take (k + n), q.e ∈ t.out) ∧
        t = { s with
          postQ := t.postQ, fc := t.fc, out := t.out
          hif := { s.hif with inL1 := t.hif.inL1, inL11 := t.hif.inL11, inL12 := t.hif.inL12 } })))

/-! ### The Weight Engine and the streams -/

/-- IMAGE_OPEN powers the Weight Engine and reads the image; an image that passes the checks opens a session under a free
number from 1 to 4, one that fails them is refused with its check in WPE_ERR; IMAGE_CLOSE closes a session that no
admitted command names and waits for those that do (R399, R400, R404). ERASE_BASIN of a basin that may be erased opens
a journal entry, stages the basin's terrace and counts the wear, and changes no cell until it is done: then every cell of the
basin is 0, its reference cells are cleared, its tag and state marks are erased, every other cell is as before and the journal entry is closed (R405, R418, R422).
HOLDUP_QUERY answers the usable energy in units of 10 µJ, rounded down or up (log 9), and the capacitance; the
comparator and the charger change sides at their thresholds (R414, Table 4-3). The order of the checks and a second
close follow the model's reading (log 28). -/
def Obligations.WeightSessions : Prop :=
  ((∀ (s : State) (g : Fin 1024) (p : List Byte), s.ready g.val 0x30 false = some p → Reporting s g.val →
      Yields (.imageOpen g) s (fun t => LedgerOnly { s with pwr := { s.pwr with peak := t.pwr.peak, estFormed := t.pwr.estFormed } } t ∧ t.wpe.powered = true ∧
        ReadIssued s t (s.ringFunc g.val) (BitVec.ofNat 64 (par p 0x10 8)) (par p 0x18 4) ∧
        ∃ c ∈ t.cmds, c.cid = s.nextCid ∧ c.ring = g.val ∧ c.body = .imageOpen (BitVec.ofNat 64 (par p 0x10 8)) (par p 0x18 4))) ∧
    (∀ (s : State) (c : Cmd) (addr : DWord) (len : Nat) (bytes : List Byte), s.cmd? c.cid = some c →
      c.body = .imageOpen addr len → c.held = none → c.mir = [] → c.detached = false → (s.ring c.ring).halted = false →
      Reporting s c.ring → (∀ x ∈ s.wpe.sessions, x.closing = none) → s.wpe.sessions.length < 4 →
      Yields (.dataReadCompletion c.cid (.data bytes)) s (fun t => t.cmd? c.cid = none ∧
        let b := readBytes len bytes
        let fails (check off : Nat) (e : End) : Prop := t.wpe.sessions = s.wpe.sessions ∧ t.wpe.errCheck = check ∧
          t.wpe.errOff = off ∧ Recorded s t c.ring c.tag c.opcode c.parent.isSome (s.lateEnd c e)
        match cwiCheck b len with
        | .error o => fails 2 o (endParam 0x10)
        | .ok recs =>
          if BitVec.ofNat 64 (fieldAt b 0x18 8) ≠ s.lcs.uid then fails 3 0 (endAccess 5)
          else match s.contentKey b with
            | none => fails 4 0 (endAccess 5)
            | some key =>
              if s.imageSigned b len = false then fails 5 0 (endAccess 5)
              else ∃ x, t.wpe.sessions = s.wpe.sessions ++ [x] ∧ 1 ≤ x.num ∧ x.num ≤ 4 ∧
                (∀ y ∈ s.wpe.sessions, y.num ≠ x.num) ∧ x.func = s.ringFunc c.ring ∧ x.recs = recs ∧ x.key = key ∧
                x.closing = none ∧ Recorded s t c.ring c.tag c.opcode c.parent.isSome (s.lateEnd c (endOf stDone x.num)))) ∧
    (∀ (s : State) (g : Fin 1024) (p : List Byte) (x : Session), s.ready g.val 0x36 false = some p → Reporting s g.val →
      s.sessionOf g.val (par p 0x10 1) = .ok x → (∀ y ∈ s.wpe.sessions, y.closing = none) →
      (s.cmds.any (fun c => c.namesSession x.num) = false → Yields (.imageClose g) s (fun t => LedgerOnly s t ∧
        t.wpe.sessions.map (fun y => y.num) = (s.wpe.sessions.filter (fun y => y.num != x.num)).map (fun y => y.num) ∧
        HeadRecorded s t g.val p endDone)) ∧
      (s.cmds.any (fun c => c.namesSession x.num) = true → Yields (.imageClose g) s (fun t => LedgerOnly s t ∧
        ∃ y ∈ t.wpe.sessions, y.num = x.num ∧ y.closing = some s.nextCid)))) ∧
  ((∀ (s : State) (g : Fin 1024) (p : List Byte) (n : Nat), s.ready g.val 0x33 false = some p → Reporting s g.val →
      s.decideAhead g.val = s → s.cellBusy = false → s.cellBasin (par p 0x10 1) (par p 0x11 1) = .ok n →
      ((s.basin n).wstate = .erased → Yields (.eraseBasin g) s (fun t => LedgerOnly s t ∧ HeadRecorded s t g.val p endDone)) ∧
      ((s.basin n).wstate ≠ .erased → s.powerRefusal 100 = none → Yields (.eraseBasin g) s (fun t =>
        LedgerOnly { s with basins := t.basins, wpe := t.wpe, bist := t.bist, pwr := t.pwr } t ∧
        (par p 0x10 1 < 64 → t.terPower (par p 0x10 1) ≠ .off) ∧
        (∀ m, m ≠ n → t.basin m = s.basin m) ∧
        t.basin n = { s.basin n with wear := if (s.basin n).wear < 0xFFFF then (s.basin n).wear + 1 else (s.basin n).wear } ∧
        t.wpe.journal.getLast? = some { erase := true, ter := par p 0x10 1, slot := par p 0x11 1, basin := n, firstRow := 0
                                        count := 1, done := 0, sound := true } ∧
        ∃ c ∈ t.cmds, c.cid = s.nextCid ∧ c.body = .erase n (par p 0x10 1) (par p 0x11 1) true))) ∧
    (∀ (s : State) (c : Cmd) (n ter slot : Nat),
      (s.cmds.find? (fun x => match x.body with
        | .erase _ _ _ true => x.held.isNone
        | _ => false)) = some c → c.body = .erase n ter slot true → s.cmd? c.cid = some c → c.mir = [] → s.pairsFor [s.me] = [] →
      Yields .eraseDone s (fun t => t.cmd? c.cid = none ∧
        t.basin n = { s.basin n with wstate := .erased, tag := 0, tagsUsed := 0, cause := 0, refRows := 0 } ∧
        (∀ m, m ≠ n → t.basin m = s.basin m) ∧
        (∀ row col, row < 1024 → col < 512 → t.weight n row col = 0) ∧
        (∀ m row col, m ≠ n → row < 1024 → col < 512 → t.weight m row col = s.weight m row col) ∧
        t.wpe.journal.getLast? = (s.wpe.journal.getLast?).map (fun e => { e with done := e.count }) ∧
        t.cistern = s.cistern ∧ t.graphs = s.graphs))) ∧
  ((∀ (s : State) (g : Fin 1024) (p : List Byte), s.ready g.val 0x35 false = some p → Reporting s g.val →
      Yields (.holdupQuery g) s (fun t => LedgerOnly { s with free := s.free + 1 } t ∧
        ∃ e, (e = s.tankE2 / 20000000 ∨ (e = s.tankE2 / 20000000 + 1 ∧ s.tankE2 % 20000000 ≠ 0)) ∧
          HeadRecorded s t g.val p (endOf stDone (e % 65536 + 65536 * (s.wpe.tankUf % 65536))))) ∧
    (∀ (s : State) (mv : Nat), s.programming = none → s.waitingToken = none →
      (s.wpe.aboveMin = false → 9600 ≤ mv → exec (.tankComparatorCross true mv) s =
        .next { s with wpe := { s.wpe with aboveMin := true, tankMv := mv / 50 * 50 } }) ∧
      (s.wpe.aboveMin = true → mv < 9000 → exec (.tankComparatorCross false mv) s =
        .next { s with wpe := { s.wpe with aboveMin := false, tankMv := mv / 50 * 50 } }) ∧
      (s.wpe.charging = true → 14000 ≤ mv → exec (.tankBoostThreshold true mv) s =
        .next { s with wpe := { s.wpe with charging := false, tankMv := mv / 50 * 50 } }) ∧
      (s.wpe.charging = false → mv ≤ 13800 → exec (.tankBoostThreshold false mv) s =
        .next { s with wpe := { s.wpe with charging := true, tankMv := mv / 50 * 50 } })))

/-- PROGRAM_ROWS reads its record and authenticates it; with energy in the tank for its first batch the basin is
PROGRAMMING, or DIRTY where a cell lies above its target; a tank that could hold the energy is waited for, at most 2
s. A batch that ends has its cells at their targets and no other cell changed (R397, R406, R407, R408, R415). VERIFY
reads its record again; when every cell is at its target the tag is committed and the basin is VALID; a cell below its
target ends it REFUSED_STATE with the row, a cell above its target makes the basin DIRTY; a basin that was VALID with
the same tag changes nothing (R410, R411). The order of tank check and pre-read follows the model's reading (log 28). -/
def Obligations.RowsProgrammed : Prop :=
  ((∀ (s : State) (g : Fin 1024) (p bytes : List Byte) (high : Bool) (x : Session) (rec : CwiRec) (n : Nat),
      s.ready g.val 0x31 false = some p → Reporting s g.val → s.decideAhead g.val = s → s.cellBusy = false →
      s.programCheck g.val p = .ok (x, rec, n) → s.powerRefusal 2200 = none →
      Yields (.programRows g (.data bytes) high) s (fun t => t.weights = s.weights ∧ (∀ m, m ≠ n → t.basin m = s.basin m) ∧
        match x.openRecord rec (readBytes (rec.rows * rec.cols + 48) bytes) with
        | none => t.basin n = s.basin n ∧ HeadRecorded s t g.val p (endAccess 5)
        | some rows =>
          let k := min 16 (par p 0x16 2)
          let batch := (List.range k).map (fun i =>
            (par p 0x14 2 + i, ((rows.drop (par p 0x14 2)).take (par p 0x16 2)).getD i []))
          let low := s.rowsAll n batch (fun w v => !cellHigh w v)
          (s.tankCovers (batchNeed k) = true → high = false → low = true →
            t.basin n = { s.basin n with wstate := .programming, tag := 0, cause := 0 } ∧
            ∃ c ∈ t.cmds, ∃ q, c.cid = s.nextCid ∧ c.body = .program q ∧ q.basin = n ∧ q.row = par p 0x14 2 ∧
              q.left = par p 0x16 2 ∧ q.batch = k) ∧
          (s.tankCovers (batchNeed k) = true → high = true ∨ low = false →
            t.basin n = { s.basin n with wstate := .dirty, cause := 2 } ∧
            HeadRecorded s t g.val p (endOf stDirty (s.slotWord rec.ter rec.slot))) ∧
          (s.tankCovers (batchNeed k) = false → s.tankCould (batchNeed k) = true → t.basin n = s.basin n ∧
            ∃ c ∈ t.cmds, ∃ q, c.cid = s.nextCid ∧ c.body = .program q ∧ q.waitFrom = some s.tmr.uptime ∧ q.batch = 0))) ∧
    (∀ (s : State) (c : Cmd) (q : Prog) (stuck : Option (Nat × Nat)) (high : Bool), Memory.wf s.weights = true →
      s.programming = some (c, q) → s.cmd? c.cid = some c → q.batch ≠ 0 → c.held = none → c.mir = [] →
      q.row + q.batch ≤ 1024 → s.pairsFor [s.me] = [] →
      Yields (.programBatchDone stuck high) s (fun t =>
        (∀ i col, i < q.batch → col < basinCols q.basin → stuck ≠ some (q.row + i, col) →
          (targetLevel (q.target.getD (q.row + i - q.row0) []) col).natAbs ≤ 63 →
          t.weight q.basin (q.row + i) col = targetLevel (q.target.getD (q.row + i - q.row0) []) col) ∧
        (∀ a, (a < weightKey q.basin q.row 0 ∨ weightKey q.basin (q.row + q.batch) 0 ≤ a) →
          Memory.read t.weights a = Memory.read s.weights a) ∧
        t.wpe.rows = s.wpe.rows + BitVec.ofNat 32 q.batch ∧ t.wpe.lastRow = q.row + q.batch - 1 ∧
        (stuck.isSome = true ∨ q.left = q.batch → t.cmd? c.cid = none ∧ (∀ m, m ≠ q.basin → t.basin m = s.basin m) ∧
          t.basin q.basin = { s.basin q.basin with refRows := (t.basin q.basin).refRows } ∧
          ∀ i, i < q.batch → (t.basin q.basin).refRows.getLsbD (q.row + i) = true))) ∧
    (∀ (s : State) (c : Cmd) (q : Prog) (w : Nat), s.programming = some (c, q) → q.waitFrom = some w →
      s.cmd? c.cid = some c → c.mir = [] → s.waitingToken = none →
      (w + 2000000 ≤ s.tmr.uptime → Yields .tankWaitTimeout s (fun t => t.cmd? c.cid = none ∧ t.weights = s.weights ∧
        t.basins = s.basins ∧ t.wpe.holdups = (if s.wpe.holdups < 0xFFFF then s.wpe.holdups + 1 else s.wpe.holdups))) ∧
      (s.tmr.uptime < w + 2000000 → exec .tankWaitTimeout s = .next s))) ∧
  ((∀ (s : State) (g : Fin 1024) (p : List Byte) (x : Session) (rec : CwiRec) (n : Nat),
      s.ready g.val 0x32 false = some p → Reporting s g.val → s.cellBusy = false → s.verifyCheck g.val p = .ok (x, rec, n) →
      Yields (.verify g) s (fun t => LedgerOnly { s with pwr := t.pwr } t ∧ t.wpe.powered = true ∧
        (rec.ter < 64 → t.terPower rec.ter ≠ .off) ∧
        ReadIssued s t (s.ringFunc g.val) (x.addr + BitVec.ofNat 64 rec.off) (rec.rows * rec.cols + 48) ∧
        ∃ c ∈ t.cmds, c.cid = s.nextCid ∧
          c.body = .verify x.num (par p 0x12 2) n rec.ter rec.slot ((s.basin n).wstate == .valid))) ∧
    (∀ (s : State) (c : Cmd) (x : Session) (rec : CwiRec) (k n ter slot : Nat) (same : Bool) (bytes : List Byte)
      (below above : Option Nat) (reads : List TrackRead),
      (s.cmds.find? (fun y => match y.body with
        | .verify _ _ _ _ _ _ => y.held.isNone
        | _ => false)) = some c → c.body = .verify x.num k n ter slot same → s.cmd? c.cid = some c → c.mir = [] →
      c.detached = false → (s.ring c.ring).halted = false → Reporting s c.ring → s.pairsFor [s.me] = [] →
      s.wpe.sessions.find? (fun y => y.num == x.num) = some x → x.recs[k]? = some rec → n < 4096 →
      Yields (.verifyDone (.data bytes) below above reads) s (fun t => t.cmd? c.cid = none ∧ t.weights = s.weights ∧
        (∀ m, m ≠ n → t.basin m = s.basin m) ∧
        let ends (e : End) : Prop := Recorded s t c.ring c.tag c.opcode c.parent.isSome (s.lateEnd c e)
        match x.openRecord rec (readBytes (rec.rows * rec.cols + 48) bytes) with
        | none => t.basin n = s.basin n ∧ ends (endAccess 5)
        | some rows =>
          let lo := lowerRow (lowerRow below (s.firstCell n rows cellLow)) (s.firstRef n)
          let hi := lowerRow above (s.firstCell n rows cellHigh)
          (lo = none → hi = none →
            ends endDone ∧ (same = true → t.basin n = s.basin n) ∧
            (same = false → (t.basin n).wstate = .valid ∧ (t.basin n).tag = rec.tag ∧
              (t.basin n).tagsUsed = min 4 ((s.basin n).tagsUsed + 1))) ∧
          (∀ cell, same = true → lowerRow lo hi = some cell → t.basin n = s.basin n ∧
            ends (endOf stFault (s.slotWord ter slot))) ∧
          (∀ cell, same = false → lo = some cell → t.basin n = s.basin n ∧ ends (endOf stState (cell % 1024))) ∧
          (∀ cell, same = false → lo = none → hi = some cell →
            t.basin n = { s.basin n with wstate := .dirty, cause := 2 } ∧ ends (endOf stDirty (s.slotWord ter slot))))) ∧
    (∀ (s : State) (g : Fin 1024) (p : List Byte) (reads : List TrackRead) (ns : List Nat),
      s.ready g.val 0x34 false = some p → Reporting s g.val → s.recalTargets (par p 0x10 1) (par p 0x11 1) = .ok ns →
      (ns.any (fun n => s.basinInRun n)) = false → (∀ r : TrackRead, r ∈ reads → r.basin ∈ ns → trackVerifies (readingsOf r) = true) →
      Yields (.recalibrate g reads) s (fun t => LedgerOnly { s with basins := t.basins, pwr := t.pwr } t ∧
        HeadRecorded s t g.val p endDone ∧ (∀ n, n ∉ ns → t.basin n = s.basin n) ∧
        ∀ n, (t.basin n).wstate = (s.basin n).wstate ∧ (t.basin n).tag = (s.basin n).tag)))

/-- STREAM_START gives a stopped stream its settings, with nothing in it and KEEP as it was; TDM_CONFIG sets the port up
while no started stream plays to it; every other stream is as before (R424, R426, R442). SEGMENT_QUEUE, JUMP and
STREAM_STOP on a started stream of the function: a segment goes to the end of the queue; on a stream that plays to TDM
a jump and a stop are latched, a jump that stood latched ending, and one behind a stop ends CANCELLED; a stop of a
stream that does not play to TDM takes effect at once (R430, R436, R437, R438, R441). Corners of stops, jumps and
refusals are the model's reading (log 22, log 32). -/
def Obligations.StreamsCommanded : Prop :=
  (∀ (s : State) (g : Fin 1024) (p : List Byte), Reporting s g.val →
      (s.ready g.val 0x42 false = some p → s.streamStartRefusal p = none → par p 0x10 1 < s.str.s.length →
        Yields (.streamStart g) s (fun t => LedgerOnly { s with str := { s.str with s := t.str.s } } t ∧
          HeadRecorded s t g.val p endDone ∧ (∀ k, k ≠ par p 0x10 1 → t.stream k = s.stream k) ∧
          let x := t.stream (par p 0x10 1)
          x.started = true ∧ x.owner = s.ringFunc g.val ∧ x.kind = par p 0x11 1 ∧ x.handle = par p 0x12 2 ∧
            x.port = par p 0x14 1 ∧ x.dest = par p 0x15 1 ∧ x.slots = BitVec.ofNat 8 (par p 0x16 1) ∧
            x.keep = (s.stream (par p 0x10 1)).keep ∧ x.fifo = [] ∧ x.segs = [] ∧ x.cur = false ∧ x.drop = 0 ∧ x.total = 0)) ∧
      (∀ e, s.ready g.val 0x42 false = some p → s.streamStartRefusal p = some e →
        Yields (.streamStart g) s (fun t => LedgerOnly s t ∧ HeadRecorded s t g.val p e)) ∧
      (s.ready g.val 0x44 false = some p → s.ringFunc g.val = 0 →
        (s.str.s.any (fun x => x.started && x.framed)) = false →
        Yields (.tdmConfig g) s (fun t => HeadRecorded s t g.val p endDone ∧ LedgerOnly { s with
          str := { s.str with conf := true, master := par p 0x10 1 == 1, nslots := par p 0x11 1
                              lines := BitVec.ofNat 2 (par p 0x12 1), pol := BitVec.ofNat 2 (par p 0x13 1)
                              locked := par p 0x10 1 == 1, resync := 0, fsDue := false, zeroNext := false
                              frame := List.replicate 8 0 } } t))) ∧
  (∀ (s : State) (g : Fin 1024) (p : List Byte), Reporting s g.val →
      let i := par p 0x10 1
      let x := s.stream i
      s.streamRefusal g.val i = none →
      (s.ready g.val 0x40 false = some p → segmentRefusal x p = none →
        Yields (.segmentQueue g) s (fun t => (∀ k, k ≠ i → t.stream k = s.stream k) ∧
          (t.cmd? s.nextCid = none ∨ ∃ y ∈ (t.stream i).segs, y.cid = s.nextCid ∧ y.segId = par p 0x12 2) ∧
          (x.framed = true → LedgerOnly { s with str := { s.str with s := t.str.s } } t ∧
            (t.stream i).segs.map (fun y => y.segId) = x.segs.map (fun y => y.segId) ++ [par p 0x12 2] ∧
            ∃ y, (t.stream i).segs.getLast? = some y ∧ y.cid = s.nextCid ∧ y.fromPort = (par p 0x11 1 == 1) ∧
              y.units = par p 0x14 4 ∧ y.addr = BitVec.ofNat 64 (par p 0x18 8) ∧ y.done = 0 ∧ y.fetched = []))) ∧
      (∀ y ∈ (if x.cur = true then x.segs.drop 1 else x.segs), s.ready g.val 0x41 false = some p → y.segId = par p 0x12 2 →
        (x.stop = none → x.framed = true → Yields (.jump g) s (fun t =>
          LedgerOnly { s with str := { s.str with s := t.str.s } } t ∧ (∀ k, k ≠ i → t.stream k = s.stream k) ∧
          (t.stream i).jump = some (s.nextCid, par p 0x12 2) ∧ (t.stream i).fifo = x.fifo ∧
          (t.stream i).segs.map (fun z => z.segId) = x.segs.map (fun z => z.segId) ∧
          ∀ c d, x.jump = some (c, d) → ∀ z, s.cmd? c = some z → z.mir = [] → t.cmd? c = none)) ∧
        (x.stop.isSome = true → x.framed = true → Yields (.jump g) s (fun t => (t.stream i).jump = x.jump ∧
          HeadRecorded s t g.val p (endOf stCancelled 0)))) ∧
      (s.ready g.val 0x43 false = some p → x.stop = none →
        (x.framed = true → Yields (.streamStop g) s (fun t => LedgerOnly { s with str := { s.str with s := t.str.s } } t ∧
          (t.stream i).stop = some s.nextCid ∧ (t.stream i).jump = none ∧ (t.stream i).started = true ∧
          ∀ k, k ≠ i → t.stream k = s.stream k)) ∧
        (x.framed = false → Yields (.streamStop g) s (fun t => (t.stream i).started = false ∧ (t.stream i).segs = [] ∧
          (t.stream i).fifo = [] ∧ t.cmd? s.nextCid = none ∧ (∀ k, k ≠ i → t.stream k = s.stream k) ∧
          (x.segs = [] → x.jump = none → HeadRecorded s t g.val p endDone)))))

/-- A TDM frame takes the next unit of the stream that plays, places it on its slots and drives it; a stream that has
begun and has nothing ready counts a zero unit; after a resynchronisation every slot is 0 (R432, R434, R444, R446). A
slave locks to a frame sync that comes within two SCK periods of its instant; one outside, or none, resynchronises:
unlocked, the next frame zero, counted, logged and signalled; a lost SCK is flagged and logged (R446, Table 17-3). A
unit that arrives goes to the end of its stream's FIFO, over the oldest when there is no room, which is counted and
signalled; a read ahead appends its units to its segment, or marks that its segment's read failed (R427, R431, R433).
Corners of the frame boundary are the model's reading (log 32). -/
def Obligations.StreamsPlay : Prop :=
  (∀ s : State, s.str.conf = true → s.enginesRun = true →
      (s.str.zeroNext = true → Yields .tdmFrame s (fun t => t = { s with
          str := { s.str with zeroNext := false, frame := List.replicate 8 0 }, out := t.out } ∧
        t.out = .tdm ((List.replicate 8 0).take s.str.addresses) :: s.out)) ∧
      (∀ (i : Nat) (y : Segment) (rest : List Segment), s.str.zeroNext = false → i < 32 →
        (∀ k, k ≠ i → (s.stream k).started = false ∨ (s.stream k).framed = false) →
        let x := s.stream i
        x.started = true → x.framed = true → x.cur = true → x.detach = false → x.jump = none → x.stop = none →
        x.segs = y :: rest → y.fromPort = true → y.over = false → bitAt x.dest 1 = false →
        (∀ u us, x.fifo = u :: us → Yields .tdmFrame s (fun t => (t.stream i).fifo = us ∧ (t.stream i).total = x.total + 1 ∧
          (t.stream i).zeros = x.zeros ∧ (t.stream i).begun = true ∧
          ((t.stream i).segs.head?.map (fun z => z.done)) = some (y.done + 1) ∧
          t.str.frame = placeUnit x.slots u (List.replicate 8 0) ∧
          Emit.tdm (t.str.frame.take s.str.addresses) ∈ t.out ∧ ∀ k, k ≠ i → t.stream k = s.stream k)) ∧
        (x.fifo = [] → x.begun = true → Yields .tdmFrame s (fun t => (t.stream i).zeros = x.zeros + 1 ∧
          (t.stream i).total = x.total ∧ ((t.stream i).segs.head?.map (fun z => z.done)) = some y.done ∧
          ((t.stream i).segs.head?.map (fun z => z.zeros)) = some (y.zeros + 1) ∧ t.str.frame = List.replicate 8 0)))) ∧
  (∀ s : State, s.tdmSlave = true →
      let again (t : State) : Prop := t.str.locked = false ∧ t.str.zeroNext = true ∧
        t.str.resync = (if s.str.resync < 0xFFFF then s.str.resync + 1 else s.str.resync) ∧
        t.bist.dlogNext = s.bist.dlogNext + 1 ∧ t.hif.devStat.getLsbD 8 = true ∧ t.str.s = s.str.s
      (∀ k : Nat, (s.str.fsDue = false ∨ 32 * s.str.nslots ≤ k + 2 ∧ k ≤ 32 * s.str.nslots + 2 →
          exec (.tdmFsEdge k) s = .next { s with str := { s.str with locked := true, fsDue := true } }) ∧
        (s.str.fsDue = true → (k + 2 < 32 * s.str.nslots ∨ 32 * s.str.nslots + 2 < k) → Yields (.tdmFsEdge k) s again)) ∧
      (s.str.fsDue = true → Yields .tdmFsMissing s (fun t => again t ∧ t.str.fsDue = false)) ∧
      Yields .tdmSckLost s (fun t => t.str = { s.str with sckLost := true } ∧ t.bist.dlogNext = s.bist.dlogNext + 1)) ∧
  ((∀ (s : State) (i : Fin 32) (bytes : List Byte) (g : Graph) (o : PortRec), s.enginesRun = true →
      s.graph? (s.stream i.val).handle = some g → g.cgd.ports[(s.stream i.val).port]? = some o →
      s.portUnits g (s.stream i.val).port = none → (s.stream i.val).started = true →
      ((s.stream i.val).framed = true ∨ ((s.stream i.val).segs = [] ∧ (s.stream i.val).jump = none ∧
        (s.stream i.val).stop = none ∧ (s.stream i.val).detach = false)) → (s.stream i.val).port ≠ 0xFF → (s.stream i.val).handle ≠ 0 → 0 < (s.stream i.val).unitB →
      let x := s.stream i.val
      let u := convertUnit x.kind (readBytes (portUnit x.kind x.slots.toNat o.bytes) bytes)
      (x.fifo.length < 16384 / x.unitB → Yields (.streamUnitArrival i bytes) s (fun t =>
        (t.stream i.val).fifo = x.fifo ++ [u] ∧ (t.stream i.val).drop = min 0xFFFF x.drop ∧
        ∀ k, k ≠ i.val → t.stream k = s.stream k)) ∧
      (x.fifo.length = 16384 / x.unitB → x.unitB ≤ 16384 → Yields (.streamUnitArrival i bytes) s (fun t =>
        (t.stream i.val).fifo = x.fifo.drop 1 ++ [u] ∧ (t.stream i.val).drop = min 0xFFFF (x.drop + 1) ∧
        t.str.event.getLsbD i.val = true ∧ t.hif.devStat.getLsbD 8 = true))) ∧
    (∀ (s : State) (i : Fin 32) (y : Segment), (s.stream i.val).started = true →
      (s.stream i.val).segs.find? (fun z => decide (0 < z.asked)) = some y →
      (∀ bytes : List Byte, Yields (.prefetchCompletion i (.data bytes)) s (fun t =>
        ((s.stream i.val).framed = true →
          (∃ z ∈ (t.stream i.val).segs, z.cid = y.cid ∧ z.fetched = y.fetched ++ (List.range y.asked).map (fun k =>
            readBytes (s.stream i.val).unitB (sliceAt bytes ((s.stream i.val).unitB * k) (s.stream i.val).unitB))) ∧
          (t.stream i.val).fifo = (s.stream i.val).fifo) ∧ ∀ k, k ≠ i.val → t.stream k = s.stream k)) ∧
      (∀ bad : ReadResult, (∀ b, bad ≠ .data b) → Yields (.prefetchCompletion i bad) s (fun t =>
        ((s.stream i.val).framed = true →
          ∃ z ∈ (t.stream i.val).segs, z.cid = y.cid ∧ z.readFail = true ∧ z.fetched = y.fetched) ∧
        ∀ k, k ≠ i.val → t.stream k = s.stream k))))

/-! ### Maintenance, the life cycle and the cascade -/

/-- MAPOUT_READ, LOG_READ and CASCADE_ENUM write what they read out to ADDR and change nothing; DRYDOWN_INVALIDATE marks
the dry-down record to be invalidated (R457, R498, R501, R507, R508). BIST_RUN is refused while a graph or shadow is
loaded or a sentinel in its scope is armed, and else is admitted, with the local ports of terraces whose basins or cisterns it
tests moated (R252); its tests, when they have run, leave their record
count and findings, put each failing AFE channel out of use with its failure record, and change no cell and no fuse
(R484, R497, R499, R502, R504). -/
def Obligations.MaintenanceReads : Prop :=
  (∀ (s : State) (g : Fin 1024) (p : List Byte), Reporting s g.val →
      (s.ready g.val 0x51 false = some p → Yields (.mapoutRead g) s (fun t => LedgerOnly s t ∧ HeadRecorded s t g.val p endDone ∧
        WriteIssued s t (s.ringFunc g.val) (BitVec.ofNat 64 (par p 0x10 8)) s.mapOut false)) ∧
      (s.ready g.val 0x53 false = some p →
        let out := (s.logBytes (par p 0x10 1 == 1) (par p 0x14 4)).take (par p 0x20 4 / 32)
        Yields (.logRead g) s (fun t => LedgerOnly s t ∧ HeadRecorded s t g.val p (endOf stDone (out.length % 65536)) ∧
          (out ≠ [] → WriteIssued s t (s.ringFunc g.val) (BitVec.ofNat 64 (par p 0x18 8)) out.flatten false))) ∧
      (s.ready g.val 0x55 false = some p → Yields (.cascadeEnum g) s (fun t => LedgerOnly s t ∧ HeadRecorded s t g.val p endDone ∧
        WriteIssued s t (s.ringFunc g.val) (BitVec.ofNat 64 (par p 0x10 8)) ((List.range 8).flatMap s.chainEntry) false)) ∧
      (s.ready g.val 0x56 false = some p → Yields (.drydownInvalidate g) s (fun t => HeadRecorded s t g.val p endDone ∧
        LedgerOnly { s with bist := { s.bist with invPending := true } } t))) ∧
  ((∀ (s : State) (g : Fin 1024) (p : List Byte), s.ready g.val 0x50 false = some p → Reporting s g.val →
      s.decideAhead g.val = s →
      let armed := (par p 0x10 1 == 0 && s.anyArmed) || (par p 0x10 1 == 4 && (s.sentinel (par p 0x12 1)).armed)
      (s.graphs ≠ [] ∨ s.casc.shadows ≠ [] ∨ armed = true →
        Yields (.bistRun g) s (fun t => LedgerOnly s t ∧ HeadRecorded s t g.val p endState)) ∧
      (s.graphs = [] → s.casc.shadows = [] → armed = false → s.powerRefusal 18000 = none →
        Yields (.bistRun g) s (fun t =>
          LedgerOnly { s with pwr := t.pwr, ters := t.ters, afe := { s.afe with loopback := t.afe.loopback } } t ∧
          t.pwr.dev = s.pwr.dev ∧ (par p 0x10 1 ≠ 4 → bitsAt (par p 0x14 4) 3 7 ≠ 0 →
            ∀ k, k ∈ bistTerraces (par p 0x10 1) (par p 0x11 1) → k < s.ters.length → (t.ter k).moatLocal = true) ∧
          ∃ c ∈ t.cmds, c.cid = s.nextCid ∧ c.body = .bist (par p 0x10 1) (par p 0x11 1) (par p 0x12 1) (par p 0x14 4)
            (BitVec.ofNat 64 (par p 0x18 8)) (par p 0x20 4)))) ∧
    (∀ (s : State) (c : Cmd) (test : TestIn) (scope ter index tests bytes : Nat) (addr : DWord),
      (s.cmds.find? (fun y => match y.body with
        | .bist _ _ _ _ _ _ => true
        | _ => false)) = some c → c.body = .bist scope ter index tests addr bytes → s.cmd? c.cid = some c → c.mir = [] →
      c.detached = false → (s.ring c.ring).halted = false → Reporting s c.ring →
      let job : TestJob := { kind := 4, tests := tests % 2 ^ 31, scope := scope, ter := ter, index := index }
      let u := ({ s with afe := { s.afe with loopback := false } } : State).testMoats scope ter tests false
      Yields (.bistRunDone test) s (fun t => t.cmd? c.cid = none ∧ t.bist.lastKind = 4 ∧ t.afe.loopback = false ∧
        t.bist.fails = min 0xFFFF (u.findings job test).length ∧ t.weights = s.weights ∧
        t.lcs = { s.lcs with lastStatus := t.lcs.lastStatus, lastCheck := t.lcs.lastCheck } ∧
        (u.findings job test = [] → t.bist.flog = s.bist.flog ∧
          Recorded s t c.ring c.tag c.opcode c.parent.isSome (s.lateEnd c endDone)) ∧
        ∀ f, u.findings job test = [f] → f.block = 8 → t.bist.afeFailed.getLsbD f.index = true ∧
          (t.bist.flog.getLast?).map (fun r => (r.finding, r.kind, r.outcome, r.seq)) = some (f, 4, 1, s.bist.flogNext))))

/-- LIFECYCLE_ADVANCE reads its token and answers with the first check that fails; a token that passes waits for the tank
where its energy is not there, and else begins its transition: to RETIRED the fuse is burnt and every key and session
is gone at once (R512, R514, R515, R524). A transition whose keys and fuse are stored is in the fuses as Table 20-1
gives it and completes; a retirement erases the next basins in order, every cell of each, and ends with the last of
the 4,112 (R516, R524, R525). When the retirement counter is saved is the model's reading (log 37). -/
def Obligations.LifecycleMoves : Prop :=
  (∀ (s : State) (g : Fin 1024) (p bytes : List Byte), s.ready g.val 0x52 false = some p → Reporting s g.val →
      (s.cmds.any (fun c => c.opcode == 0x52)) = false →
      let target := par p 0x10 1
      let b := readBytes (par p 0x20 4) bytes
      let pay := sliceAt b 64 (tokenPayloadLen b)
      Yields (.lifecycleAdvance g (.data bytes)) s (fun t =>
          ReadIssued s t (s.ringFunc g.val) (BitVec.ofNat 64 (par p 0x18 8)) (par p 0x20 4) ∧ t.weights = s.weights ∧
          match s.tokenChecks target b with
          | some (k, e) => HeadRecorded s t g.val p e ∧ LedgerOnly s t ∧
            ((t.lcs.lastStatus = e.status ∧ t.lcs.lastCheck = k) ∨ (t.lcs.lastStatus = stBadParam ∧ t.lcs.lastCheck = 1))
          | none =>
            let admitted (w : Option Nat) : Prop := ∃ c ∈ t.cmds, c.cid = s.nextCid ∧ c.body = .lifecycle target pay w
            (target ≠ 4 → s.tankCovers4 (transitionNeed pay.length) = true → admitted none ∧ LedgerOnly s t) ∧
            (s.tankCovers4 (transitionNeed pay.length) = false → s.tankCould4 (transitionNeed pay.length) = true →
              admitted (some s.tmr.uptime) ∧ LedgerOnly s t) ∧
            (target = 4 → s.tankCovers4 (transitionNeed pay.length) = true → admitted none ∧ t.lcs.active = .retired ∧
              t.lcs.fRet = true ∧ t.lcs.wrap = List.replicate 4 none ∧ t.lcs.sign = List.replicate 4 none ∧
              t.lcs.retiring = true ∧ t.lcs.retireAt = 0 ∧ t.wpe.sessions = [] ∧ t.basins = s.basins))) ∧
  ((∀ (s : State) (c : Cmd) (target : Nat) (pay idPub : List Byte),
      (s.cmds.find? (fun y => match y.body with
        | .lifecycle x _ none => decide (x ≠ 4)
        | _ => false)) = some c → c.body = .lifecycle target pay none → s.cmd? c.cid = some c → c.mir = [] →
      c.detached = false → (s.ring c.ring).halted = false → Reporting s c.ring → s.enginesRun = true →
      Yields (.lifecycleTransitionDone idPub) s (fun t => t.cmd? c.cid = none ∧
        Recorded s t c.ring c.tag c.opcode c.parent.isSome (s.lateEnd c endDone) ∧
        LedgerOnly { s with lcs := t.lcs } t ∧
        t.lcs = { s.lcs.transition target pay idPub with lastStatus := stDone, lastCheck := 0 } ∧
        (s.lcs.active = .manufacture → target = 1 → t.lcs.fProv = true ∧ t.lcs.testKeys = false) ∧
        (s.lcs.active = .provisioned → target = 2 → t.lcs.fDepl = true ∧ t.lcs.cert = some pay) ∧
        (s.lcs.active = .deployed → target = 3 → t.lcs.svcIn = s.lcs.svcIn + 1) ∧
        (s.lcs.active = .service → target = 2 → t.lcs.svcOut = s.lcs.svcOut + 1))) ∧
    (∀ (s : State) (n : Nat), s.lcs.retiring = true → s.enginesRun = true → s.lcs.retireAt ≤ 4112 →
      Yields (.retirementResume n) s (fun t => t.lcs.retireAt = min 4112 (s.lcs.retireAt + n) ∧
        (∀ m row col, s.lcs.retireAt ≤ m → m < t.lcs.retireAt → row < 1024 → col < 512 → t.weight m row col = 0) ∧
        (∀ m, s.lcs.retireAt ≤ m → m < t.lcs.retireAt → (t.basin m).tag = 0 ∧
          (t.basin m).wstate = (if (s.basin m).wstate = .failed then .failed else .erased)) ∧
        (∀ m row col, (m < s.lcs.retireAt ∨ t.lcs.retireAt ≤ m) → row < 1024 → col < 512 →
          t.weight m row col = s.weight m row col ∧ t.basin m = s.basin m) ∧
        (t.lcs.retireAt < 4112 → t.lcs.retiring = true ∧ t.lcs.retireCid = s.lcs.retireCid) ∧
        (t.lcs.retireAt = 4112 → t.lcs.retiring = false ∧ t.lcs.retireNext = (if s.lcs.retireAt < 4112 then 4112 else s.lcs.retireNext) ∧
          ∀ c x, s.lcs.retireCid = some c → s.cmd? c = some x → x.mir = [] → t.cmd? c = none))))

/-- Training of a cascade port: x4 or x2 with a partner of the right role brings it up; a failed attempt is counted and
the third takes it down; a chain with no partner below ends there (R451, R454). A cascade frame whose sync headers and
CRC hold and which is next in order is acknowledged by a frame of its own, a NAK in it has every frame not acknowledged
sent again, and a packet whose flits fill it and which is for this device enters the rill; one that fails, or that
acknowledges what was not sent, is counted and answered with NAK, the tenth in a row retraining the port; one out of
order is dropped (R247, R448 to R450, R453). A member takes the number it
is given, answers with its UID and from then on relays answers; the master enters each member that answers, then
serves it once it reports its release; it sends heartbeats while released and not fenced, which the master keeps; a
member lost is routed to none and the runs with a placement on it end (R454, R455, R458, R459, R460). Acceptance,
acknowledgement and enumeration of frames follow the model's reading (log 35). -/
def Obligations.ChainLinks : Prop :=
  ((∀ (s : State) (up : Bool) (lanes : BitVec 4) (ok : Bool), (s.port up).state = .training ∨ (s.port up).state = .retraining →
      (lanes &&& 3 ≠ 3 → (s.port up).fails + 1 < 3 → exec (.cascadeTrainingDone up lanes ok) s =
        .next (s.updPort up (fun q => { q with lanesOk := lanes, fails := (s.port up).fails + 1 }))) ∧
      (lanes &&& 3 ≠ 3 → 3 ≤ (s.port up).fails + 1 → Yields (.cascadeTrainingDone up lanes ok) s (fun t =>
        (t.port up).state = .down ∧ t.hif.devStat.getLsbD 6 = true ∧ (up = true → t.port false = s.port false))) ∧
      (lanes &&& 3 = 3 → ok = false → Yields (.cascadeTrainingDone up lanes ok) s (fun t => (t.port up).state = .off ∧
        t.bist.dlogNext = s.bist.dlogNext + 1 ∧ t.port (!up) = s.port (!up))) ∧
      (lanes &&& 3 = 3 → ok = true → Yields (.cascadeTrainingDone up lanes ok) s (fun t => (t.port up).state = .up ∧
        (t.port up).fails = 0 ∧ (t.port up).bad = 0 ∧ (t.port up).degraded = (lanes != 0xF) ∧
        (t.port up).lanesOk = (if lanes = 0xF then 0xF else 3) ∧ t.port (!up) = s.port (!up) ∧
        (lanes = 0xF → t.bist = s.bist)))) ∧
    (∀ s : State, s.casc.portDn.state = .training → exec .chainEndTimeout s = .next { s with
      casc := { s.casc with portDn := { s.casc.portDn with state := .off } } })) ∧
  (∀ (s : State) (up : Bool) (f : LinkFrame), (s.port up).state = .up → s.pwr.mainGood = true →
      let q := s.port up
      let acked := (f.ack + 4096 - q.ackSeq) % 4096
      (frameIntact f = true → acked ≤ q.replay.length → f.seq = (q.rxSeq + 1) % 4096 →
        Yields (.cascadeFrameRx up f) s (fun t => (t.port up).rxSeq = f.seq ∧ (t.port up).ackSeq = f.ack % 4096 ∧
          (t.port up).bad = 0 ∧ (t.port up).state = .up ∧
          (∃ a, Emit.link up (.frame a) ∈ t.out ∧ a.ack = f.seq ∧ a.nak = false ∧ frameIntact a = true ∧ ∀ x ∈ a.slots, x = none) ∧
          (f.nak = true → ∀ x ∈ q.replay.drop acked, Emit.link up (.frame x) ∈ t.out) ∧
          ∀ (ch : Fin 4) (h : BitVec 256) (pay : List (BitVec 256)),
            f.slots.filterMap id = (h :: pay).map (fun x => ({ chan := ch, flit := x } : FlitSlot)) → ch ≠ 3 →
            q.rxPart[ch.val]? = some [] → pay.length = bitsAt h.toNat 10 5 → s.isMe (packetOf h pay).dstDev = true →
            s.enginesRun = true → packetOf h pay ∈ t.rill)) ∧
      (frameIntact f = true → acked ≤ q.replay.length → f.seq ≠ (q.rxSeq + 1) % 4096 →
        exec (.cascadeFrameRx up f) s = .next s) ∧
      (frameIntact f = false ∨ q.replay.length < acked → Yields (.cascadeFrameRx up f) s (fun t => t.rill = s.rill ∧
        (t.port up).rxSeq = q.rxSeq ∧ (t.port up).ackSeq = q.ackSeq ∧
        (t.port up).frameErr = (if q.frameErr < 0xFFFF then q.frameErr + 1 else q.frameErr) ∧
        (q.bad + 1 < 10 → (t.port up).state = .up ∧ (t.port up).bad = q.bad + 1 ∧
          ∃ a, Emit.link up (.frame a) ∈ t.out ∧ a.nak = true ∧ a.ack = q.rxSeq ∧ frameIntact a = true) ∧
        (10 ≤ q.bad + 1 → (t.port up).state = .retraining ∧ (t.port up).bad = 0)))) ∧
  ((∀ (s : State) (n : Nat), s.pins.role = .member → 1 ≤ n → n ≤ 7 → s.casc.portUp.state = .up → s.casc.numbered = false →
      Yields (.enumerationMessage n none) s (fun t => t.casc = { s.casc with device := n, numbered := true, length := n + 1 } ∧
        Emit.link true (.enumReply n s.lcs.uid 2) ∈ t.out ∧ t = { s with casc := t.casc, out := t.out })) ∧
    (∀ (s : State) (n strap : Nat) (uid : DWord), s.pins.role = .member → s.casc.portDn.state = .up →
      exec (.enumerationMessage n (some (uid, strap))) s = .next (s.emit (.link true (.enumReply n uid strap)))) ∧
    (∀ (s : State) (n strap : Nat) (uid : DWord), s.pins.role = .master → 1 ≤ n → n ≤ 7 → s.casc.portDn.state = .up →
      n < s.casc.chain.length →
      Yields (.enumerationMessage n (some (uid, strap))) s (fun t => (t.member n).uid = uid ∧ (t.member n).role = strap ∧
        (t.member n).state = (if (s.member n).state = 0 then 1 else (s.member n).state) ∧
        t.casc.length = max s.casc.length (n + 1) ∧ t = { s with casc := t.casc, out := t.out })) ∧
    (∀ (s : State) (d : Fin 8) (uid : DWord) (fw epoch : Word), s.pins.role = .master →
      ((s.member d.val).state = 1 → d.val < s.casc.chain.length → Yields (.memberReleaseReport d uid fw epoch) s (fun t =>
        t.member d.val = { s.member d.val with state := 2, uid := uid, fw := fw, epoch := epoch } ∧
        (∀ k, k ≠ d.val → t.member k = s.member k) ∧ t.hif.devStat.getLsbD 6 = true)) ∧
      ((s.member d.val).state ≠ 1 → Yields (.memberReleaseReport d uid fw epoch) s (fun t =>
        t.casc = { s.casc with mgmtBad := if s.casc.mgmtBad < 0xFFFF then s.casc.mgmtBad + 1 else s.casc.mgmtBad }))) ∧
    (∀ s : State, s.pins.role = .member → s.casc.numbered = true → s.casc.fenced = false → s.mainLive = true →
      s.pwr.dev = .run ∨ s.pwr.dev = .economy ∨ s.pwr.dev = .doze ∨ s.pwr.dev = .dry → s.sys.hkHalt.getLsbD 1 = false →
      exec .heartbeatSend s = .next (s.emit (.link true (.heartbeat s.casc.device s.pwr.dev s.heartSeq)))) ∧
    (∀ (s : State) (d : Fin 8) (seq : Nat), s.pins.role = .master → d.val ≠ 0 → 1 ≤ (s.member d.val).state →
      (s.member d.val).state < 4 → (∀ k, (s.pair k).failCid = none) → d.val < s.casc.chain.length →
      Yields (.heartbeatReceive d seq) s (fun t => t = { s with casc := { s.casc with chain := t.casc.chain } } ∧
        t.member d.val = { s.member d.val with mirSeq := seq % 2 ^ 48 } ∧ ∀ k, k ≠ d.val → t.member k = s.member k)) ∧
    (∀ (s : State) (d : Fin 8), s.pins.role = .master → d.val ≠ 0 → (s.member d.val).state = 1 ∨ (s.member d.val).state = 2 →
      (∀ k, (s.pair k).state = 0) → d.val < s.casc.chain.length → d.val < s.casc.route.length →
      Yields (.memberLost d) s (fun t => (t.member d.val).state = 3 ∧ t.casc.route.getD d.val 0 = 3 ∧
        t.hif.devStat.getLsbD 6 = true ∧ t.weights = s.weights ∧
        ∀ c run g, c ∈ s.cmds → c.body = .run run → s.graph? run.handle = some g → d.val ∈ g.devs → t.cmd? c.cid = none)))

/-- MIRROR_CONTROL: OP 1 names the active device, OP 2 forms the pair and starts its snapshot, or says why not, OP 0 takes
a pending pair back, OP 3 waits for the pair to drain; a device in no pair and a peer that may not join are refused
(R472, R473, R479). Acknowledgements advance the window and release what waited; that of the snapshot's end makes the
pair MIRRORING and completes OP 2; none in 2 ms suspends the pair; a request to resend is answered with every record
from it on (R470, R473, R475, R476). The refusals and answers of each OP are the model's reading (log 36). -/
def Obligations.PairsMirror : Prop :=
  (∀ (s : State) (g : Fin 1024) (p : List Byte), s.ready g.val 0x54 false = some p → Reporting s g.val →
      let peer := par p 0x12 1
      let mode := par p 0x11 1 == 1
      let refused : Prop := Yields (.mirrorControl g) s (fun t => LedgerOnly s t ∧ HeadRecorded s t g.val p endState)
      (par p 0x10 1 = 0 → s.pairIdx peer true = none → refused) ∧
      (∀ k, par p 0x10 1 = 0 → s.pairIdx peer true = some k → (s.pair k).state = 1 → (s.pair k).snapCid = none →
        (s.pair k).failCid = none → (∀ c ∈ s.cmds, c.held = none) →
        Yields (.mirrorControl g) s (fun t => HeadRecorded s t g.val p endDone ∧ t.casc.pendAct = none ∧
          t.pair k = Pair.initial ∧ (∀ j, j ≠ k → t.pair j = s.pair j) ∧
          LedgerOnly { s with casc := { s.casc with pendAct := none, pairs := t.casc.pairs } } t)) ∧
      (par p 0x10 1 = 1 ∨ par p 0x10 1 = 2 → s.mayPair peer = false → refused) ∧
      (par p 0x10 1 = 1 → s.mayPair peer = true → Yields (.mirrorControl g) s (fun t => HeadRecorded s t g.val p endDone ∧
        t.casc.pendAct = some (peer, mode) ∧
        LedgerOnly { s with casc := { s.casc with pendAct := some (peer, mode), pairs := t.casc.pairs } } t ∧
        ((∃ k, k < 3 ∧ k < s.casc.pairs.length ∧ (s.pair k).state < 2) →
          ∃ k, (t.pair k).state = 1 ∧ (t.pair k).active = peer ∧ (t.pair k).async = mode))) ∧
      (par p 0x10 1 = 2 → s.mayPair peer = true → Yields (.mirrorControl g) s (fun t =>
        match s.pairRefusal peer with
        | some e => HeadRecorded s t g.val p e ∧ LedgerOnly { s with free := t.free } t
        | none => ∀ a m k, s.casc.pendAct = some (a, m) → s.casc.pairs.findIdx? (fun x => x.state == 1) = some k →
            (t.pair k).active = a ∧ (t.pair k).standby = peer ∧ (t.pair k).async = m ∧ (t.pair k).state = 2 ∧
            (t.pair k).snapCid = some s.nextCid ∧ t.casc.pendAct = none ∧ ∃ c ∈ t.cmds, c.cid = s.nextCid)) ∧
      (par p 0x10 1 = 3 → (∀ k, k < 3 → ¬((s.pair k).state = 3 ∧ (s.pair k).active = peer)) → refused) ∧
      (∀ k, par p 0x10 1 = 3 → (List.range 3).find? (fun j => (s.pair j).state == 3 && (s.pair j).active == peer) = some k →
        (s.pair k).window ≠ [] → Yields (.mirrorControl g) s (fun t => (t.pair k).failCid = some s.nextCid ∧
          (t.pair k).state = 3 ∧ (t.pair k).window = (s.pair k).window ∧ ∃ c ∈ t.cmds, c.cid = s.nextCid))) ∧
  (∀ (s : State) (k : Fin 3),
      let q := s.pair k.val
      (∀ seq : Nat, q.state = 2 ∨ q.state = 3 → q.failCid = none →
        (q.acked ≤ seq → seq < q.emitted → Yields (.mirrorAckRx k seq) s (fun t => (t.pair k.val).acked = seq + 1 ∧
          (t.pair k.val).state = q.state ∧ (∃ new, (t.pair k.val).window = q.window.filter (fun m => decide (seq < m.seq)) ++ new) ∧
          ∀ j, j ≠ k.val → t.pair j = s.pair j)) ∧
        (seq < q.acked ∨ q.emitted ≤ seq → exec (.mirrorAckRx k seq) s = .next s)) ∧
      (∀ (m : MirOut) (c : Nat) (x : Cmd), q.state = 2 → q.failCid = none → q.window.find? (fun y => y.typ == 0x02) = some m →
        q.acked ≤ m.seq → m.seq < q.emitted → q.snapCid = some c → s.cmd? c = some x → x.mir = [] →
        Yields (.snapshotEndAck k) s (fun t => (t.pair k.val).state = 3 ∧ (t.pair k.val).snapCid = none ∧
          (t.pair k.val).acked = m.seq + 1 ∧ t.cmd? c = none)) ∧
      (q.state = 2 ∨ q.state = 3 → q.window ≠ [] → Yields (.mirrorAckTimeout k) s (fun t => (t.pair k.val).state = 4 ∧
        (t.pair k.val).window = [] ∧ (t.pair k.val).queue = [] ∧ t.hif.devStat.getLsbD 5 = true ∧
        t.bist.dlogNext = s.bist.dlogNext + 1 ∧ ∀ j, j ≠ k.val → t.pair j = s.pair j)) ∧
      (∀ seq : Nat, s.me = q.active → s.pins.role = .member → q.state = 2 ∨ q.state = 3 → s.casc.fenced = false →
        Yields (.mirrorResendRequest k seq) s (fun t => t = { s with out := t.out } ∧
          ∀ m ∈ q.window, seq ≤ m.seq →
            Emit.link (s.routesUp q.standby) (.mirror (m.bytes k.val (q.key.getD []))) ∈ t.out)))

/-- A standby applies the next record of its pair and acknowledges it: the snapshot's begin and end, an unload and an
erasure; it asks again for what is damaged or out of order, answers what it has already applied, and discards what is
not for it (R469, R470, R471, R473). A member takes the routing table the master writes; a table that takes its number
from it fences it, and a number given to it besides its own makes it serve for the old active device with its shadows
(R456, R478, R480). A member does its part of the master's work: a graph with no placement on it leaves its numbers
alone, a run it is told of has begun under the master's run sequence number, a threshold is stored, a graph unloaded
is gone, a pair it is not the active device of is noted and forgotten (R463, R473). The payload bytes of an erasure
message and the master's view of a member are the model's reading (log 16, log 38). -/
def Obligations.MembersWork : Prop :=
  (∀ (s : State) (bytes : List Byte),
      let k := recField bytes 0xF 1
      let len := recField bytes 6 2
      let seq := recField bytes 0 6
      let q := s.pair k
      let next := (((s.casc.applied[k]?).getD none).map (fun n => n + 1)).getD 0
      36 ≤ bytes.length →
      (s.pins.role ≠ .member → Yields (.mirrorRecordRx bytes) s (fun t =>
        t.casc = { s.casc with mgmtBad := if s.casc.mgmtBad < 0xFFFF then s.casc.mgmtBad + 1 else s.casc.mgmtBad } ∧
        t.weights = s.weights ∧ t.basins = s.basins)) ∧
      (s.pins.role = .member → q.state = 2 ∨ q.state = 3 → k < 3 → q.standby = s.me →
        let sound : Bool := bytes.length == 36 + len && (crc32c (bytes.take (32 + len))).toNat == fieldAt bytes (32 + len) 4
        (sound = false ∨ next < seq → Yields (.mirrorRecordRx bytes) s (fun t => t.casc = s.casc ∧ t.weights = s.weights ∧
          t.basins = s.basins ∧ Emit.link (s.routesUp q.active) (.mirrorResend k next) ∈ t.out)) ∧
        (sound = true → seq < next → exec (.mirrorRecordRx bytes) s =
          .next (s.emit (.link (s.routesUp q.active) (.mirrorAck k (next - 1))))) ∧
        (sound = true → seq = next → k < s.casc.applied.length →
          let done (t : State) : Prop := t.casc.applied[k]? = some (some next) ∧
            Emit.link (s.routesUp q.active) (.mirrorAck k next) ∈ t.out
          (recField bytes 8 1 = 0x01 → Yields (.mirrorRecordRx bytes) s (fun t => done t ∧ t.casc.shadows = [] ∧
            t.casc.openCells = [] ∧ t.pair k = q)) ∧
          (recField bytes 8 1 = 0x02 → Yields (.mirrorRecordRx bytes) s (fun t => done t ∧ t.pair k = { q with state := 3 } ∧
            t.casc.shadows = s.casc.shadows)) ∧
          (recField bytes 8 1 = 0x11 → (s.casc.shadows.any (fun x => x.handle == recField bytes 0x10 2)) = true →
            Yields (.mirrorRecordRx bytes) s (fun t => done t ∧
              t.casc.shadows = s.casc.shadows.filter (fun x => x.handle != recField bytes 0x10 2))) ∧
          (∀ n, recField bytes 8 1 = 0x21 → 2 ≤ len → s.physOf (fieldAt bytes 32 1) (fieldAt bytes 33 1) = some n →
            Yields (.mirrorRecordRx bytes) s (fun t => done t ∧ (t.basin n).wstate = .erased ∧ (t.basin n).tag = 0 ∧
              (∀ m, m ≠ n → t.basin m = s.basin m) ∧
              ∀ row col, row < 1024 → col < 512 → t.weight n row col = 0))))) ∧
  (∀ (s : State) (table : List Nat), s.pins.role = .member → s.casc.numbered = true →
      let routed : State := { s with
        casc := { s.casc with route := (List.range 8).map (fun d => table.getD d 3 % 4)
                              length := max 1 (table.filter (fun r => r != 3)).length
                              fenced := s.casc.fenced || table.getD s.casc.device 3 != 0 } }
      exec (.routingTableWrite table none) s = .next routed ∧
      (∀ old : Nat, routed.casc.fenced = false → s.casc.alsoNum = none →
        Yields (.routingTableWrite table (some old)) s (fun t =>
          t.graphs.map (fun g => g.handle) = (s.graphs ++ s.casc.shadows).map (fun g => g.handle) ∧
          ((∀ g ∈ s.casc.shadows, ∀ e ∈ g.cgd.edges, e.delay = false) →
            t.graphs = s.graphs ++ s.casc.shadows ∧ t.cistern = s.cistern) ∧
          t.casc.alsoNum = some old ∧ t.casc.shadows = [] ∧ t.casc.openCells = [] ∧ t.casc.route = routed.casc.route ∧
          (∀ n ∈ s.casc.openCells, (t.basin n).wstate = .dirty ∧ (t.basin n).cause = 2) ∧
          (∀ n, n ∉ s.casc.openCells → t.basin n = s.basin n) ∧ t.weights = s.weights)) ∧
      (∀ old : Nat, routed.casc.fenced = true → exec (.routingTableWrite table (some old)) s = .next routed)) ∧
  (∀ (s : State) (ring tag opcode : Nat), s.pins.role = .member → s.casc.fenced = false → s.casc.numbered = true →
      s.enginesRun = true → CidsFresh s →
      (∀ (h : Nat) (cgd : List Byte) (nums : List (Nat × Nat × Nat)) (bound : Bool),
        ((parseCgd cgd).places.any (fun (x : Placement) => s.isMe x.dev)) = false →
        exec (.masterWorkMessage ring tag opcode (.load h cgd nums bound)) s = .next { s with
          casc := { s.casc with
            numbering := Tab.set s.casc.numbering h nums
            boundShadows := if bound then h :: s.casc.boundShadows else s.casc.boundShadows } }) ∧
      (∀ (h : Nat) (g : Graph), s.graph? h = some g → s.pairsFor g.devs = [] →
        (∀ (seq : Nat) (exact : Bool) (theta : List Nat),
          Yields (.masterWorkMessage ring tag opcode (.run h seq exact theta)) s (fun t =>
            (∃ c ∈ t.cmds, ∃ r, c.cid = s.nextCid ∧ c.ring = ring ∧ c.tag = tag ∧ c.opcode = opcode ∧ c.body = .run r ∧
              r.handle = h ∧ r.runSeq = seq ∧ r.begun = true ∧ r.exact = exact ∧ r.theta = theta) ∧
            (t.graph? h).map (fun y => y.nextSeq) = some ((seq + 1) % 65536) ∧ t.weights = s.weights)) ∧
        (∀ layer theta : Nat, Yields (.masterWorkMessage ring tag opcode (.threshold h layer theta)) s (fun t =>
          t.graph? h = some (g.setTheta layer theta) ∧ t.cmd? s.nextCid = none ∧
          t.weights = s.weights)) ∧
        (∀ on : Bool, Yields (.masterWorkMessage ring tag opcode (.exact h on)) s (fun t =>
          t.graph? h = some { g with exact := on } ∧ t.weights = s.weights)) ∧
        Yields (.masterWorkMessage ring tag opcode (.unload h)) s (fun t => t.graph? h = none ∧
          t.graphs = s.graphs.filter (fun x => x.handle != h) ∧ t.weights = s.weights)) ∧
      (∀ (k : Fin 3) (a st : Nat) (async : Bool) (ua us : DWord) (n : Nat), a ≠ s.me → k.val < s.casc.pairs.length →
        Yields (.masterWorkMessage ring tag opcode (.pair k.val a st async ua us n)) s (fun t =>
          (t.pair k.val).active = a ∧ (t.pair k.val).standby = st ∧ (t.pair k.val).async = async ∧
          (t.pair k.val).state = 2 ∧ (t.pair k.val).emitted = 0 ∧ (∀ j, j ≠ k.val → t.pair j = s.pair j) ∧
          t = { s with casc := t.casc })) ∧
      (∀ k : Fin 3, (∀ c ∈ s.cmds, c.held = none) →
        Yields (.masterWorkMessage ring tag opcode (.unpair k.val)) s (fun t => t.pair k.val = Pair.initial ∧
          (∀ j, j ≠ k.val → t.pair j = s.pair j) ∧ t = { s with casc := t.casc, cistern := t.cistern } ∧
          ((s.pair k.val).standby ≠ s.me → t.cistern = s.cistern) ∧
          ((s.pair k.val).standby = s.me → t.casc.shadows = [] ∧ t.casc.numbering = []))))
end

