-- ==== Sys2Proof/Laws/Choice.lean ====
section
/-! SUPPORT. What an open choice of the model may answer: the bank, the lines and the number of a slot at GRAPH_LOAD. -/

namespace Sys2Proof.Machine

variable {s : State}

/-- Where some number below `n` is allowed, the drawn choice is an allowed number below `n`. -/
theorem pick_ok (s : State) (n : Nat) (ok : Nat → Bool) (h : ∃ k, k < n ∧ ok k = true) :
    ∃ m, s.pick n ok = (some m, { s with free := s.free + 1 }) ∧ m < n ∧ ok m = true := by
  unfold State.pick
  dsimp only
  split
  · rename_i hc
    simp only [Bool.and_eq_true, decide_eq_true_eq] at hc
    exact ⟨_, rfl, hc.1, hc.2⟩
  · cases hf : (List.range n).find? ok with
    | none =>
      obtain ⟨k, hk, hok⟩ := h
      have := List.find?_eq_none.mp hf k (List.mem_range.mpr hk)
      simp [hok] at this
    | some m => exact ⟨m, rfl, List.mem_range.mp (List.mem_of_find?_eq_some hf), List.find?_some hf⟩

/-- A place the device chooses is drawn. -/
@[simp] theorem pickOr_false (s : State) (n : Nat) (ok : Nat → Bool) : s.pickOr false n ok = s.pick n ok := by
  simp [State.pickOr]

/-- Of two numbers one is not that of the only slot taken. -/
theorem num_free (s : State) (taken : List Slot) (x : SlotRec) (h : taken.length ≤ 1) :
    ∃ n, n < 1024 ∧ (!taken.any (fun y => s.hw y.dev == s.hw x.dev && y.ter == x.ter && y.num == n)) = true := by
  match taken, h with
  | [], _ => exact ⟨0, by omega, rfl⟩
  | [y], _ =>
    by_cases hy : y.num = 0
    · exact ⟨1, by omega, by simp [hy]⟩
    · exact ⟨0, by omega, by simp [hy]⟩

/-- A slot record finds its slot where some allowed bank takes it, and at most one other slot is taken; the slot has the
record's device, terrace, kind and size. -/
theorem placeSlot_ok (s : State) (c : Cgd) (taken : List Slot) (i : Nat) (x : SlotRec) (ht : taken.length ≤ 1)
    (hb : ∃ k, k < 16 ∧ ((x.bank == 0xFF || x.bank == k) && s.bankTakes taken x k) = true) :
    ∃ y, s.placeSlot false c taken i x = (some y, { s with free := s.free + 3 }) ∧ y.isOut = x.isOut ∧
      y.span = x.bufs * x.lines := by
  obtain ⟨b, h1, _, hb⟩ := pick_ok s 16 _ hb
  simp only [State.bankTakes, Bool.and_eq_true, List.any_eq_true, List.mem_range] at hb
  obtain ⟨a, ha, hf⟩ := hb.2.2
  obtain ⟨a, h2, _, _⟩ := pick_ok { s with free := s.free + 1 } 1024
    (fun a => s.linesFree taken x.dev x.ter b (x.bufs * x.lines) a) ⟨a, ha, hf⟩
  obtain ⟨n, h3, _, _⟩ := pick_ok { s with free := s.free + 2 } 1024 _ (num_free s taken x ht)
  unfold State.placeSlot
  simp only [pickOr_false]
  rw [h1]
  dsimp only
  rw [h2]
  dsimp only
  rw [h3]
  exact ⟨_, rfl, rfl, by simp [Slot.span, Cgd.freshBufs]⟩

end Sys2Proof.Machine
end

