-- ==== Sys2Proof/Laws/State.lean ====
section
/-! SUPPORT. What each named update of the state does to each of its fields, so that no proof unfolds a record update. -/

namespace Sys2Proof.Machine

/-! ### State.emit -/

@[simp] theorem State.emit_pending_eq (s : State) (e : Emit) : (s.emit e).pending = s.pending := rfl
@[simp] theorem State.emit_pwr_eq (s : State) (e : Emit) : (s.emit e).pwr = s.pwr := rfl
@[simp] theorem State.emit_pins_eq (s : State) (e : Emit) : (s.emit e).pins = s.pins := rfl
@[simp] theorem State.emit_tmr_eq (s : State) (e : Emit) : (s.emit e).tmr = s.tmr := rfl
@[simp] theorem State.emit_afe_eq (s : State) (e : Emit) : (s.emit e).afe = s.afe := rfl
@[simp] theorem State.emit_snt_eq (s : State) (e : Emit) : (s.emit e).snt = s.snt := rfl
@[simp] theorem State.emit_basins_eq (s : State) (e : Emit) : (s.emit e).basins = s.basins := rfl
@[simp] theorem State.emit_ters_eq (s : State) (e : Emit) : (s.emit e).ters = s.ters := rfl
@[simp] theorem State.emit_cistern_eq (s : State) (e : Emit) : (s.emit e).cistern = s.cistern := rfl
@[simp] theorem State.emit_weights_eq (s : State) (e : Emit) : (s.emit e).weights = s.weights := rfl
@[simp] theorem State.emit_graphs_eq (s : State) (e : Emit) : (s.emit e).graphs = s.graphs := rfl
@[simp] theorem State.emit_evals_eq (s : State) (e : Emit) : (s.emit e).evals = s.evals := rfl
@[simp] theorem State.emit_fwds_eq (s : State) (e : Emit) : (s.emit e).fwds = s.fwds := rfl
@[simp] theorem State.emit_rill_eq (s : State) (e : Emit) : (s.emit e).rill = s.rill := rfl
@[simp] theorem State.emit_rillVc_eq (s : State) (e : Emit) : (s.emit e).rillVc = s.rillVc := rfl
@[simp] theorem State.emit_rillIn_eq (s : State) (e : Emit) : (s.emit e).rillIn = s.rillIn := rfl
@[simp] theorem State.emit_csi_eq (s : State) (e : Emit) : (s.emit e).csi = s.csi := rfl
@[simp] theorem State.emit_intake_eq (s : State) (e : Emit) : (s.emit e).intake = s.intake := rfl
@[simp] theorem State.emit_hif_eq (s : State) (e : Emit) : (s.emit e).hif = s.hif := rfl
@[simp] theorem State.emit_rings_eq (s : State) (e : Emit) : (s.emit e).rings = s.rings := rfl
@[simp] theorem State.emit_cmds_eq (s : State) (e : Emit) : (s.emit e).cmds = s.cmds := rfl
@[simp] theorem State.emit_staged_eq (s : State) (e : Emit) : (s.emit e).staged = s.staged := rfl
@[simp] theorem State.emit_slc_eq (s : State) (e : Emit) : (s.emit e).slc = s.slc := rfl
@[simp] theorem State.emit_wpe_eq (s : State) (e : Emit) : (s.emit e).wpe = s.wpe := rfl
@[simp] theorem State.emit_str_eq (s : State) (e : Emit) : (s.emit e).str = s.str := rfl
@[simp] theorem State.emit_casc_eq (s : State) (e : Emit) : (s.emit e).casc = s.casc := rfl
@[simp] theorem State.emit_bist_eq (s : State) (e : Emit) : (s.emit e).bist = s.bist := rfl
@[simp] theorem State.emit_lcs_eq (s : State) (e : Emit) : (s.emit e).lcs = s.lcs := rfl
@[simp] theorem State.emit_sys_eq (s : State) (e : Emit) : (s.emit e).sys = s.sys := rfl
@[simp] theorem State.emit_flags_eq (s : State) (e : Emit) : (s.emit e).flags = s.flags := rfl
@[simp] theorem State.emit_kmbx_eq (s : State) (e : Emit) : (s.emit e).kmbx = s.kmbx := rfl
@[simp] theorem State.emit_hkStores_eq (s : State) (e : Emit) : (s.emit e).hkStores = s.hkStores := rfl
@[simp] theorem State.emit_maintOut_eq (s : State) (e : Emit) : (s.emit e).maintOut = s.maintOut := rfl
@[simp] theorem State.emit_maintQ_eq (s : State) (e : Emit) : (s.emit e).maintQ = s.maintQ := rfl
@[simp] theorem State.emit_readSpace_eq (s : State) (e : Emit) : (s.emit e).readSpace = s.readSpace := rfl
@[simp] theorem State.emit_fc_eq (s : State) (e : Emit) : (s.emit e).fc = s.fc := rfl
@[simp] theorem State.emit_postQ_eq (s : State) (e : Emit) : (s.emit e).postQ = s.postQ := rfl
@[simp] theorem State.emit_readQ_eq (s : State) (e : Emit) : (s.emit e).readQ = s.readQ := rfl
@[simp] theorem State.emit_dropped_eq (s : State) (e : Emit) : (s.emit e).dropped = s.dropped := rfl
@[simp] theorem State.emit_nextCid_eq (s : State) (e : Emit) : (s.emit e).nextCid = s.nextCid := rfl
@[simp] theorem State.emit_fetches_eq (s : State) (e : Emit) : (s.emit e).fetches = s.fetches := rfl
@[simp] theorem State.emit_free_eq (s : State) (e : Emit) : (s.emit e).free = s.free := rfl
@[simp] theorem State.emit_out_eq (s : State) (e : Emit) : (s.emit e).out = e :: s.out := rfl

/-! ### State.leaveL1 -/

@[simp] theorem State.leaveL1_pending_eq (s : State) : (s.leaveL1).pending = s.pending := rfl
@[simp] theorem State.leaveL1_pwr_eq (s : State) : (s.leaveL1).pwr = s.pwr := rfl
@[simp] theorem State.leaveL1_pins_eq (s : State) : (s.leaveL1).pins = s.pins := rfl
@[simp] theorem State.leaveL1_tmr_eq (s : State) : (s.leaveL1).tmr = s.tmr := rfl
@[simp] theorem State.leaveL1_afe_eq (s : State) : (s.leaveL1).afe = s.afe := rfl
@[simp] theorem State.leaveL1_snt_eq (s : State) : (s.leaveL1).snt = s.snt := rfl
@[simp] theorem State.leaveL1_basins_eq (s : State) : (s.leaveL1).basins = s.basins := rfl
@[simp] theorem State.leaveL1_ters_eq (s : State) : (s.leaveL1).ters = s.ters := rfl
@[simp] theorem State.leaveL1_cistern_eq (s : State) : (s.leaveL1).cistern = s.cistern := rfl
@[simp] theorem State.leaveL1_weights_eq (s : State) : (s.leaveL1).weights = s.weights := rfl
@[simp] theorem State.leaveL1_graphs_eq (s : State) : (s.leaveL1).graphs = s.graphs := rfl
@[simp] theorem State.leaveL1_evals_eq (s : State) : (s.leaveL1).evals = s.evals := rfl
@[simp] theorem State.leaveL1_fwds_eq (s : State) : (s.leaveL1).fwds = s.fwds := rfl
@[simp] theorem State.leaveL1_rill_eq (s : State) : (s.leaveL1).rill = s.rill := rfl
@[simp] theorem State.leaveL1_rillVc_eq (s : State) : (s.leaveL1).rillVc = s.rillVc := rfl
@[simp] theorem State.leaveL1_rillIn_eq (s : State) : (s.leaveL1).rillIn = s.rillIn := rfl
@[simp] theorem State.leaveL1_csi_eq (s : State) : (s.leaveL1).csi = s.csi := rfl
@[simp] theorem State.leaveL1_intake_eq (s : State) : (s.leaveL1).intake = s.intake := rfl
@[simp] theorem State.leaveL1_hif_eq (s : State) : (s.leaveL1).hif = { s.hif with inL1 := false, inL11 := false, inL12 := false } := rfl
@[simp] theorem State.leaveL1_rings_eq (s : State) : (s.leaveL1).rings = s.rings := rfl
@[simp] theorem State.leaveL1_cmds_eq (s : State) : (s.leaveL1).cmds = s.cmds := rfl
@[simp] theorem State.leaveL1_staged_eq (s : State) : (s.leaveL1).staged = s.staged := rfl
@[simp] theorem State.leaveL1_slc_eq (s : State) : (s.leaveL1).slc = s.slc := rfl
@[simp] theorem State.leaveL1_wpe_eq (s : State) : (s.leaveL1).wpe = s.wpe := rfl
@[simp] theorem State.leaveL1_str_eq (s : State) : (s.leaveL1).str = s.str := rfl
@[simp] theorem State.leaveL1_casc_eq (s : State) : (s.leaveL1).casc = s.casc := rfl
@[simp] theorem State.leaveL1_bist_eq (s : State) : (s.leaveL1).bist = s.bist := rfl
@[simp] theorem State.leaveL1_lcs_eq (s : State) : (s.leaveL1).lcs = s.lcs := rfl
@[simp] theorem State.leaveL1_sys_eq (s : State) : (s.leaveL1).sys = s.sys := rfl
@[simp] theorem State.leaveL1_flags_eq (s : State) : (s.leaveL1).flags = s.flags := rfl
@[simp] theorem State.leaveL1_kmbx_eq (s : State) : (s.leaveL1).kmbx = s.kmbx := rfl
@[simp] theorem State.leaveL1_hkStores_eq (s : State) : (s.leaveL1).hkStores = s.hkStores := rfl
@[simp] theorem State.leaveL1_maintOut_eq (s : State) : (s.leaveL1).maintOut = s.maintOut := rfl
@[simp] theorem State.leaveL1_maintQ_eq (s : State) : (s.leaveL1).maintQ = s.maintQ := rfl
@[simp] theorem State.leaveL1_readSpace_eq (s : State) : (s.leaveL1).readSpace = s.readSpace := rfl
@[simp] theorem State.leaveL1_fc_eq (s : State) : (s.leaveL1).fc = s.fc := rfl
@[simp] theorem State.leaveL1_postQ_eq (s : State) : (s.leaveL1).postQ = s.postQ := rfl
@[simp] theorem State.leaveL1_readQ_eq (s : State) : (s.leaveL1).readQ = s.readQ := rfl
@[simp] theorem State.leaveL1_dropped_eq (s : State) : (s.leaveL1).dropped = s.dropped := rfl
@[simp] theorem State.leaveL1_nextCid_eq (s : State) : (s.leaveL1).nextCid = s.nextCid := rfl
@[simp] theorem State.leaveL1_fetches_eq (s : State) : (s.leaveL1).fetches = s.fetches := rfl
@[simp] theorem State.leaveL1_free_eq (s : State) : (s.leaveL1).free = s.free := rfl
@[simp] theorem State.leaveL1_out_eq (s : State) : (s.leaveL1).out = s.out := rfl

/-! ### State.updRing -/

@[simp] theorem State.updRing_pending_eq (s : State) (g : Nat) (f : Ring → Ring) : (s.updRing g f).pending = s.pending := rfl
@[simp] theorem State.updRing_pwr_eq (s : State) (g : Nat) (f : Ring → Ring) : (s.updRing g f).pwr = s.pwr := rfl
@[simp] theorem State.updRing_pins_eq (s : State) (g : Nat) (f : Ring → Ring) : (s.updRing g f).pins = s.pins := rfl
@[simp] theorem State.updRing_tmr_eq (s : State) (g : Nat) (f : Ring → Ring) : (s.updRing g f).tmr = s.tmr := rfl
@[simp] theorem State.updRing_afe_eq (s : State) (g : Nat) (f : Ring → Ring) : (s.updRing g f).afe = s.afe := rfl
@[simp] theorem State.updRing_snt_eq (s : State) (g : Nat) (f : Ring → Ring) : (s.updRing g f).snt = s.snt := rfl
@[simp] theorem State.updRing_basins_eq (s : State) (g : Nat) (f : Ring → Ring) : (s.updRing g f).basins = s.basins := rfl
@[simp] theorem State.updRing_ters_eq (s : State) (g : Nat) (f : Ring → Ring) : (s.updRing g f).ters = s.ters := rfl
@[simp] theorem State.updRing_cistern_eq (s : State) (g : Nat) (f : Ring → Ring) : (s.updRing g f).cistern = s.cistern := rfl
@[simp] theorem State.updRing_weights_eq (s : State) (g : Nat) (f : Ring → Ring) : (s.updRing g f).weights = s.weights := rfl
@[simp] theorem State.updRing_graphs_eq (s : State) (g : Nat) (f : Ring → Ring) : (s.updRing g f).graphs = s.graphs := rfl
@[simp] theorem State.updRing_evals_eq (s : State) (g : Nat) (f : Ring → Ring) : (s.updRing g f).evals = s.evals := rfl
@[simp] theorem State.updRing_fwds_eq (s : State) (g : Nat) (f : Ring → Ring) : (s.updRing g f).fwds = s.fwds := rfl
@[simp] theorem State.updRing_rill_eq (s : State) (g : Nat) (f : Ring → Ring) : (s.updRing g f).rill = s.rill := rfl
@[simp] theorem State.updRing_rillVc_eq (s : State) (g : Nat) (f : Ring → Ring) : (s.updRing g f).rillVc = s.rillVc := rfl
@[simp] theorem State.updRing_rillIn_eq (s : State) (g : Nat) (f : Ring → Ring) : (s.updRing g f).rillIn = s.rillIn := rfl
@[simp] theorem State.updRing_csi_eq (s : State) (g : Nat) (f : Ring → Ring) : (s.updRing g f).csi = s.csi := rfl
@[simp] theorem State.updRing_intake_eq (s : State) (g : Nat) (f : Ring → Ring) : (s.updRing g f).intake = s.intake := rfl
@[simp] theorem State.updRing_hif_eq (s : State) (g : Nat) (f : Ring → Ring) : (s.updRing g f).hif = s.hif := rfl
@[simp] theorem State.updRing_rings_eq (s : State) (g : Nat) (f : Ring → Ring) : (s.updRing g f).rings = Tab.set s.rings g (f (s.ring g)) := rfl
@[simp] theorem State.updRing_cmds_eq (s : State) (g : Nat) (f : Ring → Ring) : (s.updRing g f).cmds = s.cmds := rfl
@[simp] theorem State.updRing_staged_eq (s : State) (g : Nat) (f : Ring → Ring) : (s.updRing g f).staged = s.staged := rfl
@[simp] theorem State.updRing_slc_eq (s : State) (g : Nat) (f : Ring → Ring) : (s.updRing g f).slc = s.slc := rfl
@[simp] theorem State.updRing_wpe_eq (s : State) (g : Nat) (f : Ring → Ring) : (s.updRing g f).wpe = s.wpe := rfl
@[simp] theorem State.updRing_str_eq (s : State) (g : Nat) (f : Ring → Ring) : (s.updRing g f).str = s.str := rfl
@[simp] theorem State.updRing_casc_eq (s : State) (g : Nat) (f : Ring → Ring) : (s.updRing g f).casc = s.casc := rfl
@[simp] theorem State.updRing_bist_eq (s : State) (g : Nat) (f : Ring → Ring) : (s.updRing g f).bist = s.bist := rfl
@[simp] theorem State.updRing_lcs_eq (s : State) (g : Nat) (f : Ring → Ring) : (s.updRing g f).lcs = s.lcs := rfl
@[simp] theorem State.updRing_sys_eq (s : State) (g : Nat) (f : Ring → Ring) : (s.updRing g f).sys = s.sys := rfl
@[simp] theorem State.updRing_flags_eq (s : State) (g : Nat) (f : Ring → Ring) : (s.updRing g f).flags = s.flags := rfl
@[simp] theorem State.updRing_kmbx_eq (s : State) (g : Nat) (f : Ring → Ring) : (s.updRing g f).kmbx = s.kmbx := rfl
@[simp] theorem State.updRing_hkStores_eq (s : State) (g : Nat) (f : Ring → Ring) : (s.updRing g f).hkStores = s.hkStores := rfl
@[simp] theorem State.updRing_maintOut_eq (s : State) (g : Nat) (f : Ring → Ring) : (s.updRing g f).maintOut = s.maintOut := rfl
@[simp] theorem State.updRing_maintQ_eq (s : State) (g : Nat) (f : Ring → Ring) : (s.updRing g f).maintQ = s.maintQ := rfl
@[simp] theorem State.updRing_readSpace_eq (s : State) (g : Nat) (f : Ring → Ring) : (s.updRing g f).readSpace = s.readSpace := rfl
@[simp] theorem State.updRing_fc_eq (s : State) (g : Nat) (f : Ring → Ring) : (s.updRing g f).fc = s.fc := rfl
@[simp] theorem State.updRing_postQ_eq (s : State) (g : Nat) (f : Ring → Ring) : (s.updRing g f).postQ = s.postQ := rfl
@[simp] theorem State.updRing_readQ_eq (s : State) (g : Nat) (f : Ring → Ring) : (s.updRing g f).readQ = s.readQ := rfl
@[simp] theorem State.updRing_dropped_eq (s : State) (g : Nat) (f : Ring → Ring) : (s.updRing g f).dropped = s.dropped := rfl
@[simp] theorem State.updRing_nextCid_eq (s : State) (g : Nat) (f : Ring → Ring) : (s.updRing g f).nextCid = s.nextCid := rfl
@[simp] theorem State.updRing_fetches_eq (s : State) (g : Nat) (f : Ring → Ring) : (s.updRing g f).fetches = s.fetches := rfl
@[simp] theorem State.updRing_free_eq (s : State) (g : Nat) (f : Ring → Ring) : (s.updRing g f).free = s.free := rfl
@[simp] theorem State.updRing_out_eq (s : State) (g : Nat) (f : Ring → Ring) : (s.updRing g f).out = s.out := rfl

/-! ### State.updBasin -/

@[simp] theorem State.updBasin_pending_eq (s : State) (n : Nat) (f : Basin → Basin) : (s.updBasin n f).pending = s.pending := rfl
@[simp] theorem State.updBasin_pwr_eq (s : State) (n : Nat) (f : Basin → Basin) : (s.updBasin n f).pwr = s.pwr := rfl
@[simp] theorem State.updBasin_pins_eq (s : State) (n : Nat) (f : Basin → Basin) : (s.updBasin n f).pins = s.pins := rfl
@[simp] theorem State.updBasin_tmr_eq (s : State) (n : Nat) (f : Basin → Basin) : (s.updBasin n f).tmr = s.tmr := rfl
@[simp] theorem State.updBasin_afe_eq (s : State) (n : Nat) (f : Basin → Basin) : (s.updBasin n f).afe = s.afe := rfl
@[simp] theorem State.updBasin_snt_eq (s : State) (n : Nat) (f : Basin → Basin) : (s.updBasin n f).snt = s.snt := rfl
@[simp] theorem State.updBasin_basins_eq (s : State) (n : Nat) (f : Basin → Basin) : (s.updBasin n f).basins = Tab.set s.basins n (f (s.basin n)) := rfl
@[simp] theorem State.updBasin_ters_eq (s : State) (n : Nat) (f : Basin → Basin) : (s.updBasin n f).ters = s.ters := rfl
@[simp] theorem State.updBasin_cistern_eq (s : State) (n : Nat) (f : Basin → Basin) : (s.updBasin n f).cistern = s.cistern := rfl
@[simp] theorem State.updBasin_weights_eq (s : State) (n : Nat) (f : Basin → Basin) : (s.updBasin n f).weights = s.weights := rfl
@[simp] theorem State.updBasin_graphs_eq (s : State) (n : Nat) (f : Basin → Basin) : (s.updBasin n f).graphs = s.graphs := rfl
@[simp] theorem State.updBasin_evals_eq (s : State) (n : Nat) (f : Basin → Basin) : (s.updBasin n f).evals = s.evals := rfl
@[simp] theorem State.updBasin_fwds_eq (s : State) (n : Nat) (f : Basin → Basin) : (s.updBasin n f).fwds = s.fwds := rfl
@[simp] theorem State.updBasin_rill_eq (s : State) (n : Nat) (f : Basin → Basin) : (s.updBasin n f).rill = s.rill := rfl
@[simp] theorem State.updBasin_rillVc_eq (s : State) (n : Nat) (f : Basin → Basin) : (s.updBasin n f).rillVc = s.rillVc := rfl
@[simp] theorem State.updBasin_rillIn_eq (s : State) (n : Nat) (f : Basin → Basin) : (s.updBasin n f).rillIn = s.rillIn := rfl
@[simp] theorem State.updBasin_csi_eq (s : State) (n : Nat) (f : Basin → Basin) : (s.updBasin n f).csi = s.csi := rfl
@[simp] theorem State.updBasin_intake_eq (s : State) (n : Nat) (f : Basin → Basin) : (s.updBasin n f).intake = s.intake := rfl
@[simp] theorem State.updBasin_hif_eq (s : State) (n : Nat) (f : Basin → Basin) : (s.updBasin n f).hif = s.hif := rfl
@[simp] theorem State.updBasin_rings_eq (s : State) (n : Nat) (f : Basin → Basin) : (s.updBasin n f).rings = s.rings := rfl
@[simp] theorem State.updBasin_cmds_eq (s : State) (n : Nat) (f : Basin → Basin) : (s.updBasin n f).cmds = s.cmds := rfl
@[simp] theorem State.updBasin_staged_eq (s : State) (n : Nat) (f : Basin → Basin) : (s.updBasin n f).staged = s.staged := rfl
@[simp] theorem State.updBasin_slc_eq (s : State) (n : Nat) (f : Basin → Basin) : (s.updBasin n f).slc = s.slc := rfl
@[simp] theorem State.updBasin_wpe_eq (s : State) (n : Nat) (f : Basin → Basin) : (s.updBasin n f).wpe = s.wpe := rfl
@[simp] theorem State.updBasin_str_eq (s : State) (n : Nat) (f : Basin → Basin) : (s.updBasin n f).str = s.str := rfl
@[simp] theorem State.updBasin_casc_eq (s : State) (n : Nat) (f : Basin → Basin) : (s.updBasin n f).casc = s.casc := rfl
@[simp] theorem State.updBasin_bist_eq (s : State) (n : Nat) (f : Basin → Basin) : (s.updBasin n f).bist = s.bist := rfl
@[simp] theorem State.updBasin_lcs_eq (s : State) (n : Nat) (f : Basin → Basin) : (s.updBasin n f).lcs = s.lcs := rfl
@[simp] theorem State.updBasin_sys_eq (s : State) (n : Nat) (f : Basin → Basin) : (s.updBasin n f).sys = s.sys := rfl
@[simp] theorem State.updBasin_flags_eq (s : State) (n : Nat) (f : Basin → Basin) : (s.updBasin n f).flags = s.flags := rfl
@[simp] theorem State.updBasin_kmbx_eq (s : State) (n : Nat) (f : Basin → Basin) : (s.updBasin n f).kmbx = s.kmbx := rfl
@[simp] theorem State.updBasin_hkStores_eq (s : State) (n : Nat) (f : Basin → Basin) : (s.updBasin n f).hkStores = s.hkStores := rfl
@[simp] theorem State.updBasin_maintOut_eq (s : State) (n : Nat) (f : Basin → Basin) : (s.updBasin n f).maintOut = s.maintOut := rfl
@[simp] theorem State.updBasin_maintQ_eq (s : State) (n : Nat) (f : Basin → Basin) : (s.updBasin n f).maintQ = s.maintQ := rfl
@[simp] theorem State.updBasin_readSpace_eq (s : State) (n : Nat) (f : Basin → Basin) : (s.updBasin n f).readSpace = s.readSpace := rfl
@[simp] theorem State.updBasin_fc_eq (s : State) (n : Nat) (f : Basin → Basin) : (s.updBasin n f).fc = s.fc := rfl
@[simp] theorem State.updBasin_postQ_eq (s : State) (n : Nat) (f : Basin → Basin) : (s.updBasin n f).postQ = s.postQ := rfl
@[simp] theorem State.updBasin_readQ_eq (s : State) (n : Nat) (f : Basin → Basin) : (s.updBasin n f).readQ = s.readQ := rfl
@[simp] theorem State.updBasin_dropped_eq (s : State) (n : Nat) (f : Basin → Basin) : (s.updBasin n f).dropped = s.dropped := rfl
@[simp] theorem State.updBasin_nextCid_eq (s : State) (n : Nat) (f : Basin → Basin) : (s.updBasin n f).nextCid = s.nextCid := rfl
@[simp] theorem State.updBasin_fetches_eq (s : State) (n : Nat) (f : Basin → Basin) : (s.updBasin n f).fetches = s.fetches := rfl
@[simp] theorem State.updBasin_free_eq (s : State) (n : Nat) (f : Basin → Basin) : (s.updBasin n f).free = s.free := rfl
@[simp] theorem State.updBasin_out_eq (s : State) (n : Nat) (f : Basin → Basin) : (s.updBasin n f).out = s.out := rfl

/-! ### State.updTer -/

@[simp] theorem State.updTer_pending_eq (s : State) (n : Nat) (f : Terrace → Terrace) : (s.updTer n f).pending = s.pending := rfl
@[simp] theorem State.updTer_pwr_eq (s : State) (n : Nat) (f : Terrace → Terrace) : (s.updTer n f).pwr = s.pwr := rfl
@[simp] theorem State.updTer_pins_eq (s : State) (n : Nat) (f : Terrace → Terrace) : (s.updTer n f).pins = s.pins := rfl
@[simp] theorem State.updTer_tmr_eq (s : State) (n : Nat) (f : Terrace → Terrace) : (s.updTer n f).tmr = s.tmr := rfl
@[simp] theorem State.updTer_afe_eq (s : State) (n : Nat) (f : Terrace → Terrace) : (s.updTer n f).afe = s.afe := rfl
@[simp] theorem State.updTer_snt_eq (s : State) (n : Nat) (f : Terrace → Terrace) : (s.updTer n f).snt = s.snt := rfl
@[simp] theorem State.updTer_basins_eq (s : State) (n : Nat) (f : Terrace → Terrace) : (s.updTer n f).basins = s.basins := rfl
@[simp] theorem State.updTer_ters_eq (s : State) (n : Nat) (f : Terrace → Terrace) : (s.updTer n f).ters = s.ters.modify n f := rfl
@[simp] theorem State.updTer_cistern_eq (s : State) (n : Nat) (f : Terrace → Terrace) : (s.updTer n f).cistern = s.cistern := rfl
@[simp] theorem State.updTer_weights_eq (s : State) (n : Nat) (f : Terrace → Terrace) : (s.updTer n f).weights = s.weights := rfl
@[simp] theorem State.updTer_graphs_eq (s : State) (n : Nat) (f : Terrace → Terrace) : (s.updTer n f).graphs = s.graphs := rfl
@[simp] theorem State.updTer_evals_eq (s : State) (n : Nat) (f : Terrace → Terrace) : (s.updTer n f).evals = s.evals := rfl
@[simp] theorem State.updTer_fwds_eq (s : State) (n : Nat) (f : Terrace → Terrace) : (s.updTer n f).fwds = s.fwds := rfl
@[simp] theorem State.updTer_rill_eq (s : State) (n : Nat) (f : Terrace → Terrace) : (s.updTer n f).rill = s.rill := rfl
@[simp] theorem State.updTer_rillVc_eq (s : State) (n : Nat) (f : Terrace → Terrace) : (s.updTer n f).rillVc = s.rillVc := rfl
@[simp] theorem State.updTer_rillIn_eq (s : State) (n : Nat) (f : Terrace → Terrace) : (s.updTer n f).rillIn = s.rillIn := rfl
@[simp] theorem State.updTer_csi_eq (s : State) (n : Nat) (f : Terrace → Terrace) : (s.updTer n f).csi = s.csi := rfl
@[simp] theorem State.updTer_intake_eq (s : State) (n : Nat) (f : Terrace → Terrace) : (s.updTer n f).intake = s.intake := rfl
@[simp] theorem State.updTer_hif_eq (s : State) (n : Nat) (f : Terrace → Terrace) : (s.updTer n f).hif = s.hif := rfl
@[simp] theorem State.updTer_rings_eq (s : State) (n : Nat) (f : Terrace → Terrace) : (s.updTer n f).rings = s.rings := rfl
@[simp] theorem State.updTer_cmds_eq (s : State) (n : Nat) (f : Terrace → Terrace) : (s.updTer n f).cmds = s.cmds := rfl
@[simp] theorem State.updTer_staged_eq (s : State) (n : Nat) (f : Terrace → Terrace) : (s.updTer n f).staged = s.staged := rfl
@[simp] theorem State.updTer_slc_eq (s : State) (n : Nat) (f : Terrace → Terrace) : (s.updTer n f).slc = s.slc := rfl
@[simp] theorem State.updTer_wpe_eq (s : State) (n : Nat) (f : Terrace → Terrace) : (s.updTer n f).wpe = s.wpe := rfl
@[simp] theorem State.updTer_str_eq (s : State) (n : Nat) (f : Terrace → Terrace) : (s.updTer n f).str = s.str := rfl
@[simp] theorem State.updTer_casc_eq (s : State) (n : Nat) (f : Terrace → Terrace) : (s.updTer n f).casc = s.casc := rfl
@[simp] theorem State.updTer_bist_eq (s : State) (n : Nat) (f : Terrace → Terrace) : (s.updTer n f).bist = s.bist := rfl
@[simp] theorem State.updTer_lcs_eq (s : State) (n : Nat) (f : Terrace → Terrace) : (s.updTer n f).lcs = s.lcs := rfl
@[simp] theorem State.updTer_sys_eq (s : State) (n : Nat) (f : Terrace → Terrace) : (s.updTer n f).sys = s.sys := rfl
@[simp] theorem State.updTer_flags_eq (s : State) (n : Nat) (f : Terrace → Terrace) : (s.updTer n f).flags = s.flags := rfl
@[simp] theorem State.updTer_kmbx_eq (s : State) (n : Nat) (f : Terrace → Terrace) : (s.updTer n f).kmbx = s.kmbx := rfl
@[simp] theorem State.updTer_hkStores_eq (s : State) (n : Nat) (f : Terrace → Terrace) : (s.updTer n f).hkStores = s.hkStores := rfl
@[simp] theorem State.updTer_maintOut_eq (s : State) (n : Nat) (f : Terrace → Terrace) : (s.updTer n f).maintOut = s.maintOut := rfl
@[simp] theorem State.updTer_maintQ_eq (s : State) (n : Nat) (f : Terrace → Terrace) : (s.updTer n f).maintQ = s.maintQ := rfl
@[simp] theorem State.updTer_readSpace_eq (s : State) (n : Nat) (f : Terrace → Terrace) : (s.updTer n f).readSpace = s.readSpace := rfl
@[simp] theorem State.updTer_fc_eq (s : State) (n : Nat) (f : Terrace → Terrace) : (s.updTer n f).fc = s.fc := rfl
@[simp] theorem State.updTer_postQ_eq (s : State) (n : Nat) (f : Terrace → Terrace) : (s.updTer n f).postQ = s.postQ := rfl
@[simp] theorem State.updTer_readQ_eq (s : State) (n : Nat) (f : Terrace → Terrace) : (s.updTer n f).readQ = s.readQ := rfl
@[simp] theorem State.updTer_dropped_eq (s : State) (n : Nat) (f : Terrace → Terrace) : (s.updTer n f).dropped = s.dropped := rfl
@[simp] theorem State.updTer_nextCid_eq (s : State) (n : Nat) (f : Terrace → Terrace) : (s.updTer n f).nextCid = s.nextCid := rfl
@[simp] theorem State.updTer_fetches_eq (s : State) (n : Nat) (f : Terrace → Terrace) : (s.updTer n f).fetches = s.fetches := rfl
@[simp] theorem State.updTer_free_eq (s : State) (n : Nat) (f : Terrace → Terrace) : (s.updTer n f).free = s.free := rfl
@[simp] theorem State.updTer_out_eq (s : State) (n : Nat) (f : Terrace → Terrace) : (s.updTer n f).out = s.out := rfl

/-! ### State.setTerPower -/

@[simp] theorem State.setTerPower_pending_eq (s : State) (n : Nat) (p : TerPower) : (s.setTerPower n p).pending = s.pending := rfl
@[simp] theorem State.setTerPower_pwr_eq (s : State) (n : Nat) (p : TerPower) : (s.setTerPower n p).pwr = { s.pwr with terraces := s.pwr.terraces.set n p } := rfl
@[simp] theorem State.setTerPower_pins_eq (s : State) (n : Nat) (p : TerPower) : (s.setTerPower n p).pins = s.pins := rfl
@[simp] theorem State.setTerPower_tmr_eq (s : State) (n : Nat) (p : TerPower) : (s.setTerPower n p).tmr = s.tmr := rfl
@[simp] theorem State.setTerPower_afe_eq (s : State) (n : Nat) (p : TerPower) : (s.setTerPower n p).afe = s.afe := rfl
@[simp] theorem State.setTerPower_snt_eq (s : State) (n : Nat) (p : TerPower) : (s.setTerPower n p).snt = s.snt := rfl
@[simp] theorem State.setTerPower_basins_eq (s : State) (n : Nat) (p : TerPower) : (s.setTerPower n p).basins = s.basins := rfl
@[simp] theorem State.setTerPower_ters_eq (s : State) (n : Nat) (p : TerPower) : (s.setTerPower n p).ters = s.ters := rfl
@[simp] theorem State.setTerPower_cistern_eq (s : State) (n : Nat) (p : TerPower) : (s.setTerPower n p).cistern = s.cistern := rfl
@[simp] theorem State.setTerPower_weights_eq (s : State) (n : Nat) (p : TerPower) : (s.setTerPower n p).weights = s.weights := rfl
@[simp] theorem State.setTerPower_graphs_eq (s : State) (n : Nat) (p : TerPower) : (s.setTerPower n p).graphs = s.graphs := rfl
@[simp] theorem State.setTerPower_evals_eq (s : State) (n : Nat) (p : TerPower) : (s.setTerPower n p).evals = s.evals := rfl
@[simp] theorem State.setTerPower_fwds_eq (s : State) (n : Nat) (p : TerPower) : (s.setTerPower n p).fwds = s.fwds := rfl
@[simp] theorem State.setTerPower_rill_eq (s : State) (n : Nat) (p : TerPower) : (s.setTerPower n p).rill = s.rill := rfl
@[simp] theorem State.setTerPower_rillVc_eq (s : State) (n : Nat) (p : TerPower) : (s.setTerPower n p).rillVc = s.rillVc := rfl
@[simp] theorem State.setTerPower_rillIn_eq (s : State) (n : Nat) (p : TerPower) : (s.setTerPower n p).rillIn = s.rillIn := rfl
@[simp] theorem State.setTerPower_csi_eq (s : State) (n : Nat) (p : TerPower) : (s.setTerPower n p).csi = s.csi := rfl
@[simp] theorem State.setTerPower_intake_eq (s : State) (n : Nat) (p : TerPower) : (s.setTerPower n p).intake = s.intake := rfl
@[simp] theorem State.setTerPower_hif_eq (s : State) (n : Nat) (p : TerPower) : (s.setTerPower n p).hif = s.hif := rfl
@[simp] theorem State.setTerPower_rings_eq (s : State) (n : Nat) (p : TerPower) : (s.setTerPower n p).rings = s.rings := rfl
@[simp] theorem State.setTerPower_cmds_eq (s : State) (n : Nat) (p : TerPower) : (s.setTerPower n p).cmds = s.cmds := rfl
@[simp] theorem State.setTerPower_staged_eq (s : State) (n : Nat) (p : TerPower) : (s.setTerPower n p).staged = s.staged := rfl
@[simp] theorem State.setTerPower_slc_eq (s : State) (n : Nat) (p : TerPower) : (s.setTerPower n p).slc = s.slc := rfl
@[simp] theorem State.setTerPower_wpe_eq (s : State) (n : Nat) (p : TerPower) : (s.setTerPower n p).wpe = s.wpe := rfl
@[simp] theorem State.setTerPower_str_eq (s : State) (n : Nat) (p : TerPower) : (s.setTerPower n p).str = s.str := rfl
@[simp] theorem State.setTerPower_casc_eq (s : State) (n : Nat) (p : TerPower) : (s.setTerPower n p).casc = s.casc := rfl
@[simp] theorem State.setTerPower_bist_eq (s : State) (n : Nat) (p : TerPower) : (s.setTerPower n p).bist = s.bist := rfl
@[simp] theorem State.setTerPower_lcs_eq (s : State) (n : Nat) (p : TerPower) : (s.setTerPower n p).lcs = s.lcs := rfl
@[simp] theorem State.setTerPower_sys_eq (s : State) (n : Nat) (p : TerPower) : (s.setTerPower n p).sys = s.sys := rfl
@[simp] theorem State.setTerPower_flags_eq (s : State) (n : Nat) (p : TerPower) : (s.setTerPower n p).flags = s.flags := rfl
@[simp] theorem State.setTerPower_kmbx_eq (s : State) (n : Nat) (p : TerPower) : (s.setTerPower n p).kmbx = s.kmbx := rfl
@[simp] theorem State.setTerPower_hkStores_eq (s : State) (n : Nat) (p : TerPower) : (s.setTerPower n p).hkStores = s.hkStores := rfl
@[simp] theorem State.setTerPower_maintOut_eq (s : State) (n : Nat) (p : TerPower) : (s.setTerPower n p).maintOut = s.maintOut := rfl
@[simp] theorem State.setTerPower_maintQ_eq (s : State) (n : Nat) (p : TerPower) : (s.setTerPower n p).maintQ = s.maintQ := rfl
@[simp] theorem State.setTerPower_readSpace_eq (s : State) (n : Nat) (p : TerPower) : (s.setTerPower n p).readSpace = s.readSpace := rfl
@[simp] theorem State.setTerPower_fc_eq (s : State) (n : Nat) (p : TerPower) : (s.setTerPower n p).fc = s.fc := rfl
@[simp] theorem State.setTerPower_postQ_eq (s : State) (n : Nat) (p : TerPower) : (s.setTerPower n p).postQ = s.postQ := rfl
@[simp] theorem State.setTerPower_readQ_eq (s : State) (n : Nat) (p : TerPower) : (s.setTerPower n p).readQ = s.readQ := rfl
@[simp] theorem State.setTerPower_dropped_eq (s : State) (n : Nat) (p : TerPower) : (s.setTerPower n p).dropped = s.dropped := rfl
@[simp] theorem State.setTerPower_nextCid_eq (s : State) (n : Nat) (p : TerPower) : (s.setTerPower n p).nextCid = s.nextCid := rfl
@[simp] theorem State.setTerPower_fetches_eq (s : State) (n : Nat) (p : TerPower) : (s.setTerPower n p).fetches = s.fetches := rfl
@[simp] theorem State.setTerPower_free_eq (s : State) (n : Nat) (p : TerPower) : (s.setTerPower n p).free = s.free := rfl
@[simp] theorem State.setTerPower_out_eq (s : State) (n : Nat) (p : TerPower) : (s.setTerPower n p).out = s.out := rfl

/-! ### State.updChan -/

@[simp] theorem State.updChan_pending_eq (s : State) (n : Nat) (f : AfeChan → AfeChan) : (s.updChan n f).pending = s.pending := rfl
@[simp] theorem State.updChan_pwr_eq (s : State) (n : Nat) (f : AfeChan → AfeChan) : (s.updChan n f).pwr = s.pwr := rfl
@[simp] theorem State.updChan_pins_eq (s : State) (n : Nat) (f : AfeChan → AfeChan) : (s.updChan n f).pins = s.pins := rfl
@[simp] theorem State.updChan_tmr_eq (s : State) (n : Nat) (f : AfeChan → AfeChan) : (s.updChan n f).tmr = s.tmr := rfl
@[simp] theorem State.updChan_afe_eq (s : State) (n : Nat) (f : AfeChan → AfeChan) : (s.updChan n f).afe = { s.afe with chans := s.afe.chans.modify n f } := rfl
@[simp] theorem State.updChan_snt_eq (s : State) (n : Nat) (f : AfeChan → AfeChan) : (s.updChan n f).snt = s.snt := rfl
@[simp] theorem State.updChan_basins_eq (s : State) (n : Nat) (f : AfeChan → AfeChan) : (s.updChan n f).basins = s.basins := rfl
@[simp] theorem State.updChan_ters_eq (s : State) (n : Nat) (f : AfeChan → AfeChan) : (s.updChan n f).ters = s.ters := rfl
@[simp] theorem State.updChan_cistern_eq (s : State) (n : Nat) (f : AfeChan → AfeChan) : (s.updChan n f).cistern = s.cistern := rfl
@[simp] theorem State.updChan_weights_eq (s : State) (n : Nat) (f : AfeChan → AfeChan) : (s.updChan n f).weights = s.weights := rfl
@[simp] theorem State.updChan_graphs_eq (s : State) (n : Nat) (f : AfeChan → AfeChan) : (s.updChan n f).graphs = s.graphs := rfl
@[simp] theorem State.updChan_evals_eq (s : State) (n : Nat) (f : AfeChan → AfeChan) : (s.updChan n f).evals = s.evals := rfl
@[simp] theorem State.updChan_fwds_eq (s : State) (n : Nat) (f : AfeChan → AfeChan) : (s.updChan n f).fwds = s.fwds := rfl
@[simp] theorem State.updChan_rill_eq (s : State) (n : Nat) (f : AfeChan → AfeChan) : (s.updChan n f).rill = s.rill := rfl
@[simp] theorem State.updChan_rillVc_eq (s : State) (n : Nat) (f : AfeChan → AfeChan) : (s.updChan n f).rillVc = s.rillVc := rfl
@[simp] theorem State.updChan_rillIn_eq (s : State) (n : Nat) (f : AfeChan → AfeChan) : (s.updChan n f).rillIn = s.rillIn := rfl
@[simp] theorem State.updChan_csi_eq (s : State) (n : Nat) (f : AfeChan → AfeChan) : (s.updChan n f).csi = s.csi := rfl
@[simp] theorem State.updChan_intake_eq (s : State) (n : Nat) (f : AfeChan → AfeChan) : (s.updChan n f).intake = s.intake := rfl
@[simp] theorem State.updChan_hif_eq (s : State) (n : Nat) (f : AfeChan → AfeChan) : (s.updChan n f).hif = s.hif := rfl
@[simp] theorem State.updChan_rings_eq (s : State) (n : Nat) (f : AfeChan → AfeChan) : (s.updChan n f).rings = s.rings := rfl
@[simp] theorem State.updChan_cmds_eq (s : State) (n : Nat) (f : AfeChan → AfeChan) : (s.updChan n f).cmds = s.cmds := rfl
@[simp] theorem State.updChan_staged_eq (s : State) (n : Nat) (f : AfeChan → AfeChan) : (s.updChan n f).staged = s.staged := rfl
@[simp] theorem State.updChan_slc_eq (s : State) (n : Nat) (f : AfeChan → AfeChan) : (s.updChan n f).slc = s.slc := rfl
@[simp] theorem State.updChan_wpe_eq (s : State) (n : Nat) (f : AfeChan → AfeChan) : (s.updChan n f).wpe = s.wpe := rfl
@[simp] theorem State.updChan_str_eq (s : State) (n : Nat) (f : AfeChan → AfeChan) : (s.updChan n f).str = s.str := rfl
@[simp] theorem State.updChan_casc_eq (s : State) (n : Nat) (f : AfeChan → AfeChan) : (s.updChan n f).casc = s.casc := rfl
@[simp] theorem State.updChan_bist_eq (s : State) (n : Nat) (f : AfeChan → AfeChan) : (s.updChan n f).bist = s.bist := rfl
@[simp] theorem State.updChan_lcs_eq (s : State) (n : Nat) (f : AfeChan → AfeChan) : (s.updChan n f).lcs = s.lcs := rfl
@[simp] theorem State.updChan_sys_eq (s : State) (n : Nat) (f : AfeChan → AfeChan) : (s.updChan n f).sys = s.sys := rfl
@[simp] theorem State.updChan_flags_eq (s : State) (n : Nat) (f : AfeChan → AfeChan) : (s.updChan n f).flags = s.flags := rfl
@[simp] theorem State.updChan_kmbx_eq (s : State) (n : Nat) (f : AfeChan → AfeChan) : (s.updChan n f).kmbx = s.kmbx := rfl
@[simp] theorem State.updChan_hkStores_eq (s : State) (n : Nat) (f : AfeChan → AfeChan) : (s.updChan n f).hkStores = s.hkStores := rfl
@[simp] theorem State.updChan_maintOut_eq (s : State) (n : Nat) (f : AfeChan → AfeChan) : (s.updChan n f).maintOut = s.maintOut := rfl
@[simp] theorem State.updChan_maintQ_eq (s : State) (n : Nat) (f : AfeChan → AfeChan) : (s.updChan n f).maintQ = s.maintQ := rfl
@[simp] theorem State.updChan_readSpace_eq (s : State) (n : Nat) (f : AfeChan → AfeChan) : (s.updChan n f).readSpace = s.readSpace := rfl
@[simp] theorem State.updChan_fc_eq (s : State) (n : Nat) (f : AfeChan → AfeChan) : (s.updChan n f).fc = s.fc := rfl
@[simp] theorem State.updChan_postQ_eq (s : State) (n : Nat) (f : AfeChan → AfeChan) : (s.updChan n f).postQ = s.postQ := rfl
@[simp] theorem State.updChan_readQ_eq (s : State) (n : Nat) (f : AfeChan → AfeChan) : (s.updChan n f).readQ = s.readQ := rfl
@[simp] theorem State.updChan_dropped_eq (s : State) (n : Nat) (f : AfeChan → AfeChan) : (s.updChan n f).dropped = s.dropped := rfl
@[simp] theorem State.updChan_nextCid_eq (s : State) (n : Nat) (f : AfeChan → AfeChan) : (s.updChan n f).nextCid = s.nextCid := rfl
@[simp] theorem State.updChan_fetches_eq (s : State) (n : Nat) (f : AfeChan → AfeChan) : (s.updChan n f).fetches = s.fetches := rfl
@[simp] theorem State.updChan_free_eq (s : State) (n : Nat) (f : AfeChan → AfeChan) : (s.updChan n f).free = s.free := rfl
@[simp] theorem State.updChan_out_eq (s : State) (n : Nat) (f : AfeChan → AfeChan) : (s.updChan n f).out = s.out := rfl

/-! ### State.updSentinel -/

@[simp] theorem State.updSentinel_pending_eq (s : State) (n : Nat) (f : Sentinel → Sentinel) : (s.updSentinel n f).pending = s.pending := rfl
@[simp] theorem State.updSentinel_pwr_eq (s : State) (n : Nat) (f : Sentinel → Sentinel) : (s.updSentinel n f).pwr = s.pwr := rfl
@[simp] theorem State.updSentinel_pins_eq (s : State) (n : Nat) (f : Sentinel → Sentinel) : (s.updSentinel n f).pins = s.pins := rfl
@[simp] theorem State.updSentinel_tmr_eq (s : State) (n : Nat) (f : Sentinel → Sentinel) : (s.updSentinel n f).tmr = s.tmr := rfl
@[simp] theorem State.updSentinel_afe_eq (s : State) (n : Nat) (f : Sentinel → Sentinel) : (s.updSentinel n f).afe = s.afe := rfl
@[simp] theorem State.updSentinel_snt_eq (s : State) (n : Nat) (f : Sentinel → Sentinel) : (s.updSentinel n f).snt = { s.snt with s := s.snt.s.modify n f } := rfl
@[simp] theorem State.updSentinel_basins_eq (s : State) (n : Nat) (f : Sentinel → Sentinel) : (s.updSentinel n f).basins = s.basins := rfl
@[simp] theorem State.updSentinel_ters_eq (s : State) (n : Nat) (f : Sentinel → Sentinel) : (s.updSentinel n f).ters = s.ters := rfl
@[simp] theorem State.updSentinel_cistern_eq (s : State) (n : Nat) (f : Sentinel → Sentinel) : (s.updSentinel n f).cistern = s.cistern := rfl
@[simp] theorem State.updSentinel_weights_eq (s : State) (n : Nat) (f : Sentinel → Sentinel) : (s.updSentinel n f).weights = s.weights := rfl
@[simp] theorem State.updSentinel_graphs_eq (s : State) (n : Nat) (f : Sentinel → Sentinel) : (s.updSentinel n f).graphs = s.graphs := rfl
@[simp] theorem State.updSentinel_evals_eq (s : State) (n : Nat) (f : Sentinel → Sentinel) : (s.updSentinel n f).evals = s.evals := rfl
@[simp] theorem State.updSentinel_fwds_eq (s : State) (n : Nat) (f : Sentinel → Sentinel) : (s.updSentinel n f).fwds = s.fwds := rfl
@[simp] theorem State.updSentinel_rill_eq (s : State) (n : Nat) (f : Sentinel → Sentinel) : (s.updSentinel n f).rill = s.rill := rfl
@[simp] theorem State.updSentinel_rillVc_eq (s : State) (n : Nat) (f : Sentinel → Sentinel) : (s.updSentinel n f).rillVc = s.rillVc := rfl
@[simp] theorem State.updSentinel_rillIn_eq (s : State) (n : Nat) (f : Sentinel → Sentinel) : (s.updSentinel n f).rillIn = s.rillIn := rfl
@[simp] theorem State.updSentinel_csi_eq (s : State) (n : Nat) (f : Sentinel → Sentinel) : (s.updSentinel n f).csi = s.csi := rfl
@[simp] theorem State.updSentinel_intake_eq (s : State) (n : Nat) (f : Sentinel → Sentinel) : (s.updSentinel n f).intake = s.intake := rfl
@[simp] theorem State.updSentinel_hif_eq (s : State) (n : Nat) (f : Sentinel → Sentinel) : (s.updSentinel n f).hif = s.hif := rfl
@[simp] theorem State.updSentinel_rings_eq (s : State) (n : Nat) (f : Sentinel → Sentinel) : (s.updSentinel n f).rings = s.rings := rfl
@[simp] theorem State.updSentinel_cmds_eq (s : State) (n : Nat) (f : Sentinel → Sentinel) : (s.updSentinel n f).cmds = s.cmds := rfl
@[simp] theorem State.updSentinel_staged_eq (s : State) (n : Nat) (f : Sentinel → Sentinel) : (s.updSentinel n f).staged = s.staged := rfl
@[simp] theorem State.updSentinel_slc_eq (s : State) (n : Nat) (f : Sentinel → Sentinel) : (s.updSentinel n f).slc = s.slc := rfl
@[simp] theorem State.updSentinel_wpe_eq (s : State) (n : Nat) (f : Sentinel → Sentinel) : (s.updSentinel n f).wpe = s.wpe := rfl
@[simp] theorem State.updSentinel_str_eq (s : State) (n : Nat) (f : Sentinel → Sentinel) : (s.updSentinel n f).str = s.str := rfl
@[simp] theorem State.updSentinel_casc_eq (s : State) (n : Nat) (f : Sentinel → Sentinel) : (s.updSentinel n f).casc = s.casc := rfl
@[simp] theorem State.updSentinel_bist_eq (s : State) (n : Nat) (f : Sentinel → Sentinel) : (s.updSentinel n f).bist = s.bist := rfl
@[simp] theorem State.updSentinel_lcs_eq (s : State) (n : Nat) (f : Sentinel → Sentinel) : (s.updSentinel n f).lcs = s.lcs := rfl
@[simp] theorem State.updSentinel_sys_eq (s : State) (n : Nat) (f : Sentinel → Sentinel) : (s.updSentinel n f).sys = s.sys := rfl
@[simp] theorem State.updSentinel_flags_eq (s : State) (n : Nat) (f : Sentinel → Sentinel) : (s.updSentinel n f).flags = s.flags := rfl
@[simp] theorem State.updSentinel_kmbx_eq (s : State) (n : Nat) (f : Sentinel → Sentinel) : (s.updSentinel n f).kmbx = s.kmbx := rfl
@[simp] theorem State.updSentinel_hkStores_eq (s : State) (n : Nat) (f : Sentinel → Sentinel) : (s.updSentinel n f).hkStores = s.hkStores := rfl
@[simp] theorem State.updSentinel_maintOut_eq (s : State) (n : Nat) (f : Sentinel → Sentinel) : (s.updSentinel n f).maintOut = s.maintOut := rfl
@[simp] theorem State.updSentinel_maintQ_eq (s : State) (n : Nat) (f : Sentinel → Sentinel) : (s.updSentinel n f).maintQ = s.maintQ := rfl
@[simp] theorem State.updSentinel_readSpace_eq (s : State) (n : Nat) (f : Sentinel → Sentinel) : (s.updSentinel n f).readSpace = s.readSpace := rfl
@[simp] theorem State.updSentinel_fc_eq (s : State) (n : Nat) (f : Sentinel → Sentinel) : (s.updSentinel n f).fc = s.fc := rfl
@[simp] theorem State.updSentinel_postQ_eq (s : State) (n : Nat) (f : Sentinel → Sentinel) : (s.updSentinel n f).postQ = s.postQ := rfl
@[simp] theorem State.updSentinel_readQ_eq (s : State) (n : Nat) (f : Sentinel → Sentinel) : (s.updSentinel n f).readQ = s.readQ := rfl
@[simp] theorem State.updSentinel_dropped_eq (s : State) (n : Nat) (f : Sentinel → Sentinel) : (s.updSentinel n f).dropped = s.dropped := rfl
@[simp] theorem State.updSentinel_nextCid_eq (s : State) (n : Nat) (f : Sentinel → Sentinel) : (s.updSentinel n f).nextCid = s.nextCid := rfl
@[simp] theorem State.updSentinel_fetches_eq (s : State) (n : Nat) (f : Sentinel → Sentinel) : (s.updSentinel n f).fetches = s.fetches := rfl
@[simp] theorem State.updSentinel_free_eq (s : State) (n : Nat) (f : Sentinel → Sentinel) : (s.updSentinel n f).free = s.free := rfl
@[simp] theorem State.updSentinel_out_eq (s : State) (n : Nat) (f : Sentinel → Sentinel) : (s.updSentinel n f).out = s.out := rfl

/-! ### State.updStream -/

@[simp] theorem State.updStream_pending_eq (s : State) (n : Nat) (f : Stream → Stream) : (s.updStream n f).pending = s.pending := rfl
@[simp] theorem State.updStream_pwr_eq (s : State) (n : Nat) (f : Stream → Stream) : (s.updStream n f).pwr = s.pwr := rfl
@[simp] theorem State.updStream_pins_eq (s : State) (n : Nat) (f : Stream → Stream) : (s.updStream n f).pins = s.pins := rfl
@[simp] theorem State.updStream_tmr_eq (s : State) (n : Nat) (f : Stream → Stream) : (s.updStream n f).tmr = s.tmr := rfl
@[simp] theorem State.updStream_afe_eq (s : State) (n : Nat) (f : Stream → Stream) : (s.updStream n f).afe = s.afe := rfl
@[simp] theorem State.updStream_snt_eq (s : State) (n : Nat) (f : Stream → Stream) : (s.updStream n f).snt = s.snt := rfl
@[simp] theorem State.updStream_basins_eq (s : State) (n : Nat) (f : Stream → Stream) : (s.updStream n f).basins = s.basins := rfl
@[simp] theorem State.updStream_ters_eq (s : State) (n : Nat) (f : Stream → Stream) : (s.updStream n f).ters = s.ters := rfl
@[simp] theorem State.updStream_cistern_eq (s : State) (n : Nat) (f : Stream → Stream) : (s.updStream n f).cistern = s.cistern := rfl
@[simp] theorem State.updStream_weights_eq (s : State) (n : Nat) (f : Stream → Stream) : (s.updStream n f).weights = s.weights := rfl
@[simp] theorem State.updStream_graphs_eq (s : State) (n : Nat) (f : Stream → Stream) : (s.updStream n f).graphs = s.graphs := rfl
@[simp] theorem State.updStream_evals_eq (s : State) (n : Nat) (f : Stream → Stream) : (s.updStream n f).evals = s.evals := rfl
@[simp] theorem State.updStream_fwds_eq (s : State) (n : Nat) (f : Stream → Stream) : (s.updStream n f).fwds = s.fwds := rfl
@[simp] theorem State.updStream_rill_eq (s : State) (n : Nat) (f : Stream → Stream) : (s.updStream n f).rill = s.rill := rfl
@[simp] theorem State.updStream_rillVc_eq (s : State) (n : Nat) (f : Stream → Stream) : (s.updStream n f).rillVc = s.rillVc := rfl
@[simp] theorem State.updStream_rillIn_eq (s : State) (n : Nat) (f : Stream → Stream) : (s.updStream n f).rillIn = s.rillIn := rfl
@[simp] theorem State.updStream_csi_eq (s : State) (n : Nat) (f : Stream → Stream) : (s.updStream n f).csi = s.csi := rfl
@[simp] theorem State.updStream_intake_eq (s : State) (n : Nat) (f : Stream → Stream) : (s.updStream n f).intake = s.intake := rfl
@[simp] theorem State.updStream_hif_eq (s : State) (n : Nat) (f : Stream → Stream) : (s.updStream n f).hif = s.hif := rfl
@[simp] theorem State.updStream_rings_eq (s : State) (n : Nat) (f : Stream → Stream) : (s.updStream n f).rings = s.rings := rfl
@[simp] theorem State.updStream_cmds_eq (s : State) (n : Nat) (f : Stream → Stream) : (s.updStream n f).cmds = s.cmds := rfl
@[simp] theorem State.updStream_staged_eq (s : State) (n : Nat) (f : Stream → Stream) : (s.updStream n f).staged = s.staged := rfl
@[simp] theorem State.updStream_slc_eq (s : State) (n : Nat) (f : Stream → Stream) : (s.updStream n f).slc = s.slc := rfl
@[simp] theorem State.updStream_wpe_eq (s : State) (n : Nat) (f : Stream → Stream) : (s.updStream n f).wpe = s.wpe := rfl
@[simp] theorem State.updStream_str_eq (s : State) (n : Nat) (f : Stream → Stream) : (s.updStream n f).str = { s.str with s := s.str.s.modify n f } := rfl
@[simp] theorem State.updStream_casc_eq (s : State) (n : Nat) (f : Stream → Stream) : (s.updStream n f).casc = s.casc := rfl
@[simp] theorem State.updStream_bist_eq (s : State) (n : Nat) (f : Stream → Stream) : (s.updStream n f).bist = s.bist := rfl
@[simp] theorem State.updStream_lcs_eq (s : State) (n : Nat) (f : Stream → Stream) : (s.updStream n f).lcs = s.lcs := rfl
@[simp] theorem State.updStream_sys_eq (s : State) (n : Nat) (f : Stream → Stream) : (s.updStream n f).sys = s.sys := rfl
@[simp] theorem State.updStream_flags_eq (s : State) (n : Nat) (f : Stream → Stream) : (s.updStream n f).flags = s.flags := rfl
@[simp] theorem State.updStream_kmbx_eq (s : State) (n : Nat) (f : Stream → Stream) : (s.updStream n f).kmbx = s.kmbx := rfl
@[simp] theorem State.updStream_hkStores_eq (s : State) (n : Nat) (f : Stream → Stream) : (s.updStream n f).hkStores = s.hkStores := rfl
@[simp] theorem State.updStream_maintOut_eq (s : State) (n : Nat) (f : Stream → Stream) : (s.updStream n f).maintOut = s.maintOut := rfl
@[simp] theorem State.updStream_maintQ_eq (s : State) (n : Nat) (f : Stream → Stream) : (s.updStream n f).maintQ = s.maintQ := rfl
@[simp] theorem State.updStream_readSpace_eq (s : State) (n : Nat) (f : Stream → Stream) : (s.updStream n f).readSpace = s.readSpace := rfl
@[simp] theorem State.updStream_fc_eq (s : State) (n : Nat) (f : Stream → Stream) : (s.updStream n f).fc = s.fc := rfl
@[simp] theorem State.updStream_postQ_eq (s : State) (n : Nat) (f : Stream → Stream) : (s.updStream n f).postQ = s.postQ := rfl
@[simp] theorem State.updStream_readQ_eq (s : State) (n : Nat) (f : Stream → Stream) : (s.updStream n f).readQ = s.readQ := rfl
@[simp] theorem State.updStream_dropped_eq (s : State) (n : Nat) (f : Stream → Stream) : (s.updStream n f).dropped = s.dropped := rfl
@[simp] theorem State.updStream_nextCid_eq (s : State) (n : Nat) (f : Stream → Stream) : (s.updStream n f).nextCid = s.nextCid := rfl
@[simp] theorem State.updStream_fetches_eq (s : State) (n : Nat) (f : Stream → Stream) : (s.updStream n f).fetches = s.fetches := rfl
@[simp] theorem State.updStream_free_eq (s : State) (n : Nat) (f : Stream → Stream) : (s.updStream n f).free = s.free := rfl
@[simp] theorem State.updStream_out_eq (s : State) (n : Nat) (f : Stream → Stream) : (s.updStream n f).out = s.out := rfl

/-! ### State.updUnit -/

@[simp] theorem State.updUnit_pending_eq (s : State) (n : Nat) (f : Intake → Intake) : (s.updUnit n f).pending = s.pending := rfl
@[simp] theorem State.updUnit_pwr_eq (s : State) (n : Nat) (f : Intake → Intake) : (s.updUnit n f).pwr = s.pwr := rfl
@[simp] theorem State.updUnit_pins_eq (s : State) (n : Nat) (f : Intake → Intake) : (s.updUnit n f).pins = s.pins := rfl
@[simp] theorem State.updUnit_tmr_eq (s : State) (n : Nat) (f : Intake → Intake) : (s.updUnit n f).tmr = s.tmr := rfl
@[simp] theorem State.updUnit_afe_eq (s : State) (n : Nat) (f : Intake → Intake) : (s.updUnit n f).afe = s.afe := rfl
@[simp] theorem State.updUnit_snt_eq (s : State) (n : Nat) (f : Intake → Intake) : (s.updUnit n f).snt = s.snt := rfl
@[simp] theorem State.updUnit_basins_eq (s : State) (n : Nat) (f : Intake → Intake) : (s.updUnit n f).basins = s.basins := rfl
@[simp] theorem State.updUnit_ters_eq (s : State) (n : Nat) (f : Intake → Intake) : (s.updUnit n f).ters = s.ters := rfl
@[simp] theorem State.updUnit_cistern_eq (s : State) (n : Nat) (f : Intake → Intake) : (s.updUnit n f).cistern = s.cistern := rfl
@[simp] theorem State.updUnit_weights_eq (s : State) (n : Nat) (f : Intake → Intake) : (s.updUnit n f).weights = s.weights := rfl
@[simp] theorem State.updUnit_graphs_eq (s : State) (n : Nat) (f : Intake → Intake) : (s.updUnit n f).graphs = s.graphs := rfl
@[simp] theorem State.updUnit_evals_eq (s : State) (n : Nat) (f : Intake → Intake) : (s.updUnit n f).evals = s.evals := rfl
@[simp] theorem State.updUnit_fwds_eq (s : State) (n : Nat) (f : Intake → Intake) : (s.updUnit n f).fwds = s.fwds := rfl
@[simp] theorem State.updUnit_rill_eq (s : State) (n : Nat) (f : Intake → Intake) : (s.updUnit n f).rill = s.rill := rfl
@[simp] theorem State.updUnit_rillVc_eq (s : State) (n : Nat) (f : Intake → Intake) : (s.updUnit n f).rillVc = s.rillVc := rfl
@[simp] theorem State.updUnit_rillIn_eq (s : State) (n : Nat) (f : Intake → Intake) : (s.updUnit n f).rillIn = s.rillIn := rfl
@[simp] theorem State.updUnit_csi_eq (s : State) (n : Nat) (f : Intake → Intake) : (s.updUnit n f).csi = s.csi := rfl
@[simp] theorem State.updUnit_intake_eq (s : State) (n : Nat) (f : Intake → Intake) : (s.updUnit n f).intake = s.intake.modify n f := rfl
@[simp] theorem State.updUnit_hif_eq (s : State) (n : Nat) (f : Intake → Intake) : (s.updUnit n f).hif = s.hif := rfl
@[simp] theorem State.updUnit_rings_eq (s : State) (n : Nat) (f : Intake → Intake) : (s.updUnit n f).rings = s.rings := rfl
@[simp] theorem State.updUnit_cmds_eq (s : State) (n : Nat) (f : Intake → Intake) : (s.updUnit n f).cmds = s.cmds := rfl
@[simp] theorem State.updUnit_staged_eq (s : State) (n : Nat) (f : Intake → Intake) : (s.updUnit n f).staged = s.staged := rfl
@[simp] theorem State.updUnit_slc_eq (s : State) (n : Nat) (f : Intake → Intake) : (s.updUnit n f).slc = s.slc := rfl
@[simp] theorem State.updUnit_wpe_eq (s : State) (n : Nat) (f : Intake → Intake) : (s.updUnit n f).wpe = s.wpe := rfl
@[simp] theorem State.updUnit_str_eq (s : State) (n : Nat) (f : Intake → Intake) : (s.updUnit n f).str = s.str := rfl
@[simp] theorem State.updUnit_casc_eq (s : State) (n : Nat) (f : Intake → Intake) : (s.updUnit n f).casc = s.casc := rfl
@[simp] theorem State.updUnit_bist_eq (s : State) (n : Nat) (f : Intake → Intake) : (s.updUnit n f).bist = s.bist := rfl
@[simp] theorem State.updUnit_lcs_eq (s : State) (n : Nat) (f : Intake → Intake) : (s.updUnit n f).lcs = s.lcs := rfl
@[simp] theorem State.updUnit_sys_eq (s : State) (n : Nat) (f : Intake → Intake) : (s.updUnit n f).sys = s.sys := rfl
@[simp] theorem State.updUnit_flags_eq (s : State) (n : Nat) (f : Intake → Intake) : (s.updUnit n f).flags = s.flags := rfl
@[simp] theorem State.updUnit_kmbx_eq (s : State) (n : Nat) (f : Intake → Intake) : (s.updUnit n f).kmbx = s.kmbx := rfl
@[simp] theorem State.updUnit_hkStores_eq (s : State) (n : Nat) (f : Intake → Intake) : (s.updUnit n f).hkStores = s.hkStores := rfl
@[simp] theorem State.updUnit_maintOut_eq (s : State) (n : Nat) (f : Intake → Intake) : (s.updUnit n f).maintOut = s.maintOut := rfl
@[simp] theorem State.updUnit_maintQ_eq (s : State) (n : Nat) (f : Intake → Intake) : (s.updUnit n f).maintQ = s.maintQ := rfl
@[simp] theorem State.updUnit_readSpace_eq (s : State) (n : Nat) (f : Intake → Intake) : (s.updUnit n f).readSpace = s.readSpace := rfl
@[simp] theorem State.updUnit_fc_eq (s : State) (n : Nat) (f : Intake → Intake) : (s.updUnit n f).fc = s.fc := rfl
@[simp] theorem State.updUnit_postQ_eq (s : State) (n : Nat) (f : Intake → Intake) : (s.updUnit n f).postQ = s.postQ := rfl
@[simp] theorem State.updUnit_readQ_eq (s : State) (n : Nat) (f : Intake → Intake) : (s.updUnit n f).readQ = s.readQ := rfl
@[simp] theorem State.updUnit_dropped_eq (s : State) (n : Nat) (f : Intake → Intake) : (s.updUnit n f).dropped = s.dropped := rfl
@[simp] theorem State.updUnit_nextCid_eq (s : State) (n : Nat) (f : Intake → Intake) : (s.updUnit n f).nextCid = s.nextCid := rfl
@[simp] theorem State.updUnit_fetches_eq (s : State) (n : Nat) (f : Intake → Intake) : (s.updUnit n f).fetches = s.fetches := rfl
@[simp] theorem State.updUnit_free_eq (s : State) (n : Nat) (f : Intake → Intake) : (s.updUnit n f).free = s.free := rfl
@[simp] theorem State.updUnit_out_eq (s : State) (n : Nat) (f : Intake → Intake) : (s.updUnit n f).out = s.out := rfl

/-! ### State.updCsi -/

@[simp] theorem State.updCsi_pending_eq (s : State) (n : Nat) (f : CsiPort → CsiPort) : (s.updCsi n f).pending = s.pending := rfl
@[simp] theorem State.updCsi_pwr_eq (s : State) (n : Nat) (f : CsiPort → CsiPort) : (s.updCsi n f).pwr = s.pwr := rfl
@[simp] theorem State.updCsi_pins_eq (s : State) (n : Nat) (f : CsiPort → CsiPort) : (s.updCsi n f).pins = s.pins := rfl
@[simp] theorem State.updCsi_tmr_eq (s : State) (n : Nat) (f : CsiPort → CsiPort) : (s.updCsi n f).tmr = s.tmr := rfl
@[simp] theorem State.updCsi_afe_eq (s : State) (n : Nat) (f : CsiPort → CsiPort) : (s.updCsi n f).afe = s.afe := rfl
@[simp] theorem State.updCsi_snt_eq (s : State) (n : Nat) (f : CsiPort → CsiPort) : (s.updCsi n f).snt = s.snt := rfl
@[simp] theorem State.updCsi_basins_eq (s : State) (n : Nat) (f : CsiPort → CsiPort) : (s.updCsi n f).basins = s.basins := rfl
@[simp] theorem State.updCsi_ters_eq (s : State) (n : Nat) (f : CsiPort → CsiPort) : (s.updCsi n f).ters = s.ters := rfl
@[simp] theorem State.updCsi_cistern_eq (s : State) (n : Nat) (f : CsiPort → CsiPort) : (s.updCsi n f).cistern = s.cistern := rfl
@[simp] theorem State.updCsi_weights_eq (s : State) (n : Nat) (f : CsiPort → CsiPort) : (s.updCsi n f).weights = s.weights := rfl
@[simp] theorem State.updCsi_graphs_eq (s : State) (n : Nat) (f : CsiPort → CsiPort) : (s.updCsi n f).graphs = s.graphs := rfl
@[simp] theorem State.updCsi_evals_eq (s : State) (n : Nat) (f : CsiPort → CsiPort) : (s.updCsi n f).evals = s.evals := rfl
@[simp] theorem State.updCsi_fwds_eq (s : State) (n : Nat) (f : CsiPort → CsiPort) : (s.updCsi n f).fwds = s.fwds := rfl
@[simp] theorem State.updCsi_rill_eq (s : State) (n : Nat) (f : CsiPort → CsiPort) : (s.updCsi n f).rill = s.rill := rfl
@[simp] theorem State.updCsi_rillVc_eq (s : State) (n : Nat) (f : CsiPort → CsiPort) : (s.updCsi n f).rillVc = s.rillVc := rfl
@[simp] theorem State.updCsi_rillIn_eq (s : State) (n : Nat) (f : CsiPort → CsiPort) : (s.updCsi n f).rillIn = s.rillIn := rfl
@[simp] theorem State.updCsi_csi_eq (s : State) (n : Nat) (f : CsiPort → CsiPort) : (s.updCsi n f).csi = s.csi.modify n f := rfl
@[simp] theorem State.updCsi_intake_eq (s : State) (n : Nat) (f : CsiPort → CsiPort) : (s.updCsi n f).intake = s.intake := rfl
@[simp] theorem State.updCsi_hif_eq (s : State) (n : Nat) (f : CsiPort → CsiPort) : (s.updCsi n f).hif = s.hif := rfl
@[simp] theorem State.updCsi_rings_eq (s : State) (n : Nat) (f : CsiPort → CsiPort) : (s.updCsi n f).rings = s.rings := rfl
@[simp] theorem State.updCsi_cmds_eq (s : State) (n : Nat) (f : CsiPort → CsiPort) : (s.updCsi n f).cmds = s.cmds := rfl
@[simp] theorem State.updCsi_staged_eq (s : State) (n : Nat) (f : CsiPort → CsiPort) : (s.updCsi n f).staged = s.staged := rfl
@[simp] theorem State.updCsi_slc_eq (s : State) (n : Nat) (f : CsiPort → CsiPort) : (s.updCsi n f).slc = s.slc := rfl
@[simp] theorem State.updCsi_wpe_eq (s : State) (n : Nat) (f : CsiPort → CsiPort) : (s.updCsi n f).wpe = s.wpe := rfl
@[simp] theorem State.updCsi_str_eq (s : State) (n : Nat) (f : CsiPort → CsiPort) : (s.updCsi n f).str = s.str := rfl
@[simp] theorem State.updCsi_casc_eq (s : State) (n : Nat) (f : CsiPort → CsiPort) : (s.updCsi n f).casc = s.casc := rfl
@[simp] theorem State.updCsi_bist_eq (s : State) (n : Nat) (f : CsiPort → CsiPort) : (s.updCsi n f).bist = s.bist := rfl
@[simp] theorem State.updCsi_lcs_eq (s : State) (n : Nat) (f : CsiPort → CsiPort) : (s.updCsi n f).lcs = s.lcs := rfl
@[simp] theorem State.updCsi_sys_eq (s : State) (n : Nat) (f : CsiPort → CsiPort) : (s.updCsi n f).sys = s.sys := rfl
@[simp] theorem State.updCsi_flags_eq (s : State) (n : Nat) (f : CsiPort → CsiPort) : (s.updCsi n f).flags = s.flags := rfl
@[simp] theorem State.updCsi_kmbx_eq (s : State) (n : Nat) (f : CsiPort → CsiPort) : (s.updCsi n f).kmbx = s.kmbx := rfl
@[simp] theorem State.updCsi_hkStores_eq (s : State) (n : Nat) (f : CsiPort → CsiPort) : (s.updCsi n f).hkStores = s.hkStores := rfl
@[simp] theorem State.updCsi_maintOut_eq (s : State) (n : Nat) (f : CsiPort → CsiPort) : (s.updCsi n f).maintOut = s.maintOut := rfl
@[simp] theorem State.updCsi_maintQ_eq (s : State) (n : Nat) (f : CsiPort → CsiPort) : (s.updCsi n f).maintQ = s.maintQ := rfl
@[simp] theorem State.updCsi_readSpace_eq (s : State) (n : Nat) (f : CsiPort → CsiPort) : (s.updCsi n f).readSpace = s.readSpace := rfl
@[simp] theorem State.updCsi_fc_eq (s : State) (n : Nat) (f : CsiPort → CsiPort) : (s.updCsi n f).fc = s.fc := rfl
@[simp] theorem State.updCsi_postQ_eq (s : State) (n : Nat) (f : CsiPort → CsiPort) : (s.updCsi n f).postQ = s.postQ := rfl
@[simp] theorem State.updCsi_readQ_eq (s : State) (n : Nat) (f : CsiPort → CsiPort) : (s.updCsi n f).readQ = s.readQ := rfl
@[simp] theorem State.updCsi_dropped_eq (s : State) (n : Nat) (f : CsiPort → CsiPort) : (s.updCsi n f).dropped = s.dropped := rfl
@[simp] theorem State.updCsi_nextCid_eq (s : State) (n : Nat) (f : CsiPort → CsiPort) : (s.updCsi n f).nextCid = s.nextCid := rfl
@[simp] theorem State.updCsi_fetches_eq (s : State) (n : Nat) (f : CsiPort → CsiPort) : (s.updCsi n f).fetches = s.fetches := rfl
@[simp] theorem State.updCsi_free_eq (s : State) (n : Nat) (f : CsiPort → CsiPort) : (s.updCsi n f).free = s.free := rfl
@[simp] theorem State.updCsi_out_eq (s : State) (n : Nat) (f : CsiPort → CsiPort) : (s.updCsi n f).out = s.out := rfl

/-! ### State.updPair -/

@[simp] theorem State.updPair_pending_eq (s : State) (n : Nat) (f : Pair → Pair) : (s.updPair n f).pending = s.pending := rfl
@[simp] theorem State.updPair_pwr_eq (s : State) (n : Nat) (f : Pair → Pair) : (s.updPair n f).pwr = s.pwr := rfl
@[simp] theorem State.updPair_pins_eq (s : State) (n : Nat) (f : Pair → Pair) : (s.updPair n f).pins = s.pins := rfl
@[simp] theorem State.updPair_tmr_eq (s : State) (n : Nat) (f : Pair → Pair) : (s.updPair n f).tmr = s.tmr := rfl
@[simp] theorem State.updPair_afe_eq (s : State) (n : Nat) (f : Pair → Pair) : (s.updPair n f).afe = s.afe := rfl
@[simp] theorem State.updPair_snt_eq (s : State) (n : Nat) (f : Pair → Pair) : (s.updPair n f).snt = s.snt := rfl
@[simp] theorem State.updPair_basins_eq (s : State) (n : Nat) (f : Pair → Pair) : (s.updPair n f).basins = s.basins := rfl
@[simp] theorem State.updPair_ters_eq (s : State) (n : Nat) (f : Pair → Pair) : (s.updPair n f).ters = s.ters := rfl
@[simp] theorem State.updPair_cistern_eq (s : State) (n : Nat) (f : Pair → Pair) : (s.updPair n f).cistern = s.cistern := rfl
@[simp] theorem State.updPair_weights_eq (s : State) (n : Nat) (f : Pair → Pair) : (s.updPair n f).weights = s.weights := rfl
@[simp] theorem State.updPair_graphs_eq (s : State) (n : Nat) (f : Pair → Pair) : (s.updPair n f).graphs = s.graphs := rfl
@[simp] theorem State.updPair_evals_eq (s : State) (n : Nat) (f : Pair → Pair) : (s.updPair n f).evals = s.evals := rfl
@[simp] theorem State.updPair_fwds_eq (s : State) (n : Nat) (f : Pair → Pair) : (s.updPair n f).fwds = s.fwds := rfl
@[simp] theorem State.updPair_rill_eq (s : State) (n : Nat) (f : Pair → Pair) : (s.updPair n f).rill = s.rill := rfl
@[simp] theorem State.updPair_rillVc_eq (s : State) (n : Nat) (f : Pair → Pair) : (s.updPair n f).rillVc = s.rillVc := rfl
@[simp] theorem State.updPair_rillIn_eq (s : State) (n : Nat) (f : Pair → Pair) : (s.updPair n f).rillIn = s.rillIn := rfl
@[simp] theorem State.updPair_csi_eq (s : State) (n : Nat) (f : Pair → Pair) : (s.updPair n f).csi = s.csi := rfl
@[simp] theorem State.updPair_intake_eq (s : State) (n : Nat) (f : Pair → Pair) : (s.updPair n f).intake = s.intake := rfl
@[simp] theorem State.updPair_hif_eq (s : State) (n : Nat) (f : Pair → Pair) : (s.updPair n f).hif = s.hif := rfl
@[simp] theorem State.updPair_rings_eq (s : State) (n : Nat) (f : Pair → Pair) : (s.updPair n f).rings = s.rings := rfl
@[simp] theorem State.updPair_cmds_eq (s : State) (n : Nat) (f : Pair → Pair) : (s.updPair n f).cmds = s.cmds := rfl
@[simp] theorem State.updPair_staged_eq (s : State) (n : Nat) (f : Pair → Pair) : (s.updPair n f).staged = s.staged := rfl
@[simp] theorem State.updPair_slc_eq (s : State) (n : Nat) (f : Pair → Pair) : (s.updPair n f).slc = s.slc := rfl
@[simp] theorem State.updPair_wpe_eq (s : State) (n : Nat) (f : Pair → Pair) : (s.updPair n f).wpe = s.wpe := rfl
@[simp] theorem State.updPair_str_eq (s : State) (n : Nat) (f : Pair → Pair) : (s.updPair n f).str = s.str := rfl
@[simp] theorem State.updPair_casc_eq (s : State) (n : Nat) (f : Pair → Pair) : (s.updPair n f).casc = { s.casc with pairs := s.casc.pairs.modify n f } := rfl
@[simp] theorem State.updPair_bist_eq (s : State) (n : Nat) (f : Pair → Pair) : (s.updPair n f).bist = s.bist := rfl
@[simp] theorem State.updPair_lcs_eq (s : State) (n : Nat) (f : Pair → Pair) : (s.updPair n f).lcs = s.lcs := rfl
@[simp] theorem State.updPair_sys_eq (s : State) (n : Nat) (f : Pair → Pair) : (s.updPair n f).sys = s.sys := rfl
@[simp] theorem State.updPair_flags_eq (s : State) (n : Nat) (f : Pair → Pair) : (s.updPair n f).flags = s.flags := rfl
@[simp] theorem State.updPair_kmbx_eq (s : State) (n : Nat) (f : Pair → Pair) : (s.updPair n f).kmbx = s.kmbx := rfl
@[simp] theorem State.updPair_hkStores_eq (s : State) (n : Nat) (f : Pair → Pair) : (s.updPair n f).hkStores = s.hkStores := rfl
@[simp] theorem State.updPair_maintOut_eq (s : State) (n : Nat) (f : Pair → Pair) : (s.updPair n f).maintOut = s.maintOut := rfl
@[simp] theorem State.updPair_maintQ_eq (s : State) (n : Nat) (f : Pair → Pair) : (s.updPair n f).maintQ = s.maintQ := rfl
@[simp] theorem State.updPair_readSpace_eq (s : State) (n : Nat) (f : Pair → Pair) : (s.updPair n f).readSpace = s.readSpace := rfl
@[simp] theorem State.updPair_fc_eq (s : State) (n : Nat) (f : Pair → Pair) : (s.updPair n f).fc = s.fc := rfl
@[simp] theorem State.updPair_postQ_eq (s : State) (n : Nat) (f : Pair → Pair) : (s.updPair n f).postQ = s.postQ := rfl
@[simp] theorem State.updPair_readQ_eq (s : State) (n : Nat) (f : Pair → Pair) : (s.updPair n f).readQ = s.readQ := rfl
@[simp] theorem State.updPair_dropped_eq (s : State) (n : Nat) (f : Pair → Pair) : (s.updPair n f).dropped = s.dropped := rfl
@[simp] theorem State.updPair_nextCid_eq (s : State) (n : Nat) (f : Pair → Pair) : (s.updPair n f).nextCid = s.nextCid := rfl
@[simp] theorem State.updPair_fetches_eq (s : State) (n : Nat) (f : Pair → Pair) : (s.updPair n f).fetches = s.fetches := rfl
@[simp] theorem State.updPair_free_eq (s : State) (n : Nat) (f : Pair → Pair) : (s.updPair n f).free = s.free := rfl
@[simp] theorem State.updPair_out_eq (s : State) (n : Nat) (f : Pair → Pair) : (s.updPair n f).out = s.out := rfl

/-! ### State.updGraph -/

@[simp] theorem State.updGraph_pending_eq (s : State) (h : Nat) (f : Graph → Graph) : (s.updGraph h f).pending = s.pending := rfl
@[simp] theorem State.updGraph_pwr_eq (s : State) (h : Nat) (f : Graph → Graph) : (s.updGraph h f).pwr = s.pwr := rfl
@[simp] theorem State.updGraph_pins_eq (s : State) (h : Nat) (f : Graph → Graph) : (s.updGraph h f).pins = s.pins := rfl
@[simp] theorem State.updGraph_tmr_eq (s : State) (h : Nat) (f : Graph → Graph) : (s.updGraph h f).tmr = s.tmr := rfl
@[simp] theorem State.updGraph_afe_eq (s : State) (h : Nat) (f : Graph → Graph) : (s.updGraph h f).afe = s.afe := rfl
@[simp] theorem State.updGraph_snt_eq (s : State) (h : Nat) (f : Graph → Graph) : (s.updGraph h f).snt = s.snt := rfl
@[simp] theorem State.updGraph_basins_eq (s : State) (h : Nat) (f : Graph → Graph) : (s.updGraph h f).basins = s.basins := rfl
@[simp] theorem State.updGraph_ters_eq (s : State) (h : Nat) (f : Graph → Graph) : (s.updGraph h f).ters = s.ters := rfl
@[simp] theorem State.updGraph_cistern_eq (s : State) (h : Nat) (f : Graph → Graph) : (s.updGraph h f).cistern = s.cistern := rfl
@[simp] theorem State.updGraph_weights_eq (s : State) (h : Nat) (f : Graph → Graph) : (s.updGraph h f).weights = s.weights := rfl
@[simp] theorem State.updGraph_graphs_eq (s : State) (h : Nat) (f : Graph → Graph) : (s.updGraph h f).graphs = s.graphs.map (fun g => if g.handle == h then f g else g) := rfl
@[simp] theorem State.updGraph_evals_eq (s : State) (h : Nat) (f : Graph → Graph) : (s.updGraph h f).evals = s.evals := rfl
@[simp] theorem State.updGraph_fwds_eq (s : State) (h : Nat) (f : Graph → Graph) : (s.updGraph h f).fwds = s.fwds := rfl
@[simp] theorem State.updGraph_rill_eq (s : State) (h : Nat) (f : Graph → Graph) : (s.updGraph h f).rill = s.rill := rfl
@[simp] theorem State.updGraph_rillVc_eq (s : State) (h : Nat) (f : Graph → Graph) : (s.updGraph h f).rillVc = s.rillVc := rfl
@[simp] theorem State.updGraph_rillIn_eq (s : State) (h : Nat) (f : Graph → Graph) : (s.updGraph h f).rillIn = s.rillIn := rfl
@[simp] theorem State.updGraph_csi_eq (s : State) (h : Nat) (f : Graph → Graph) : (s.updGraph h f).csi = s.csi := rfl
@[simp] theorem State.updGraph_intake_eq (s : State) (h : Nat) (f : Graph → Graph) : (s.updGraph h f).intake = s.intake := rfl
@[simp] theorem State.updGraph_hif_eq (s : State) (h : Nat) (f : Graph → Graph) : (s.updGraph h f).hif = s.hif := rfl
@[simp] theorem State.updGraph_rings_eq (s : State) (h : Nat) (f : Graph → Graph) : (s.updGraph h f).rings = s.rings := rfl
@[simp] theorem State.updGraph_cmds_eq (s : State) (h : Nat) (f : Graph → Graph) : (s.updGraph h f).cmds = s.cmds := rfl
@[simp] theorem State.updGraph_staged_eq (s : State) (h : Nat) (f : Graph → Graph) : (s.updGraph h f).staged = s.staged := rfl
@[simp] theorem State.updGraph_slc_eq (s : State) (h : Nat) (f : Graph → Graph) : (s.updGraph h f).slc = s.slc := rfl
@[simp] theorem State.updGraph_wpe_eq (s : State) (h : Nat) (f : Graph → Graph) : (s.updGraph h f).wpe = s.wpe := rfl
@[simp] theorem State.updGraph_str_eq (s : State) (h : Nat) (f : Graph → Graph) : (s.updGraph h f).str = s.str := rfl
@[simp] theorem State.updGraph_casc_eq (s : State) (h : Nat) (f : Graph → Graph) : (s.updGraph h f).casc = s.casc := rfl
@[simp] theorem State.updGraph_bist_eq (s : State) (h : Nat) (f : Graph → Graph) : (s.updGraph h f).bist = s.bist := rfl
@[simp] theorem State.updGraph_lcs_eq (s : State) (h : Nat) (f : Graph → Graph) : (s.updGraph h f).lcs = s.lcs := rfl
@[simp] theorem State.updGraph_sys_eq (s : State) (h : Nat) (f : Graph → Graph) : (s.updGraph h f).sys = s.sys := rfl
@[simp] theorem State.updGraph_flags_eq (s : State) (h : Nat) (f : Graph → Graph) : (s.updGraph h f).flags = s.flags := rfl
@[simp] theorem State.updGraph_kmbx_eq (s : State) (h : Nat) (f : Graph → Graph) : (s.updGraph h f).kmbx = s.kmbx := rfl
@[simp] theorem State.updGraph_hkStores_eq (s : State) (h : Nat) (f : Graph → Graph) : (s.updGraph h f).hkStores = s.hkStores := rfl
@[simp] theorem State.updGraph_maintOut_eq (s : State) (h : Nat) (f : Graph → Graph) : (s.updGraph h f).maintOut = s.maintOut := rfl
@[simp] theorem State.updGraph_maintQ_eq (s : State) (h : Nat) (f : Graph → Graph) : (s.updGraph h f).maintQ = s.maintQ := rfl
@[simp] theorem State.updGraph_readSpace_eq (s : State) (h : Nat) (f : Graph → Graph) : (s.updGraph h f).readSpace = s.readSpace := rfl
@[simp] theorem State.updGraph_fc_eq (s : State) (h : Nat) (f : Graph → Graph) : (s.updGraph h f).fc = s.fc := rfl
@[simp] theorem State.updGraph_postQ_eq (s : State) (h : Nat) (f : Graph → Graph) : (s.updGraph h f).postQ = s.postQ := rfl
@[simp] theorem State.updGraph_readQ_eq (s : State) (h : Nat) (f : Graph → Graph) : (s.updGraph h f).readQ = s.readQ := rfl
@[simp] theorem State.updGraph_dropped_eq (s : State) (h : Nat) (f : Graph → Graph) : (s.updGraph h f).dropped = s.dropped := rfl
@[simp] theorem State.updGraph_nextCid_eq (s : State) (h : Nat) (f : Graph → Graph) : (s.updGraph h f).nextCid = s.nextCid := rfl
@[simp] theorem State.updGraph_fetches_eq (s : State) (h : Nat) (f : Graph → Graph) : (s.updGraph h f).fetches = s.fetches := rfl
@[simp] theorem State.updGraph_free_eq (s : State) (h : Nat) (f : Graph → Graph) : (s.updGraph h f).free = s.free := rfl
@[simp] theorem State.updGraph_out_eq (s : State) (h : Nat) (f : Graph → Graph) : (s.updGraph h f).out = s.out := rfl

/-! ### State.updCmd -/

@[simp] theorem State.updCmd_pending_eq (s : State) (c : Nat) (f : Cmd → Cmd) : (s.updCmd c f).pending = s.pending := rfl
@[simp] theorem State.updCmd_pwr_eq (s : State) (c : Nat) (f : Cmd → Cmd) : (s.updCmd c f).pwr = s.pwr := rfl
@[simp] theorem State.updCmd_pins_eq (s : State) (c : Nat) (f : Cmd → Cmd) : (s.updCmd c f).pins = s.pins := rfl
@[simp] theorem State.updCmd_tmr_eq (s : State) (c : Nat) (f : Cmd → Cmd) : (s.updCmd c f).tmr = s.tmr := rfl
@[simp] theorem State.updCmd_afe_eq (s : State) (c : Nat) (f : Cmd → Cmd) : (s.updCmd c f).afe = s.afe := rfl
@[simp] theorem State.updCmd_snt_eq (s : State) (c : Nat) (f : Cmd → Cmd) : (s.updCmd c f).snt = s.snt := rfl
@[simp] theorem State.updCmd_basins_eq (s : State) (c : Nat) (f : Cmd → Cmd) : (s.updCmd c f).basins = s.basins := rfl
@[simp] theorem State.updCmd_ters_eq (s : State) (c : Nat) (f : Cmd → Cmd) : (s.updCmd c f).ters = s.ters := rfl
@[simp] theorem State.updCmd_cistern_eq (s : State) (c : Nat) (f : Cmd → Cmd) : (s.updCmd c f).cistern = s.cistern := rfl
@[simp] theorem State.updCmd_weights_eq (s : State) (c : Nat) (f : Cmd → Cmd) : (s.updCmd c f).weights = s.weights := rfl
@[simp] theorem State.updCmd_graphs_eq (s : State) (c : Nat) (f : Cmd → Cmd) : (s.updCmd c f).graphs = s.graphs := rfl
@[simp] theorem State.updCmd_evals_eq (s : State) (c : Nat) (f : Cmd → Cmd) : (s.updCmd c f).evals = s.evals := rfl
@[simp] theorem State.updCmd_fwds_eq (s : State) (c : Nat) (f : Cmd → Cmd) : (s.updCmd c f).fwds = s.fwds := rfl
@[simp] theorem State.updCmd_rill_eq (s : State) (c : Nat) (f : Cmd → Cmd) : (s.updCmd c f).rill = s.rill := rfl
@[simp] theorem State.updCmd_rillVc_eq (s : State) (c : Nat) (f : Cmd → Cmd) : (s.updCmd c f).rillVc = s.rillVc := rfl
@[simp] theorem State.updCmd_rillIn_eq (s : State) (c : Nat) (f : Cmd → Cmd) : (s.updCmd c f).rillIn = s.rillIn := rfl
@[simp] theorem State.updCmd_csi_eq (s : State) (c : Nat) (f : Cmd → Cmd) : (s.updCmd c f).csi = s.csi := rfl
@[simp] theorem State.updCmd_intake_eq (s : State) (c : Nat) (f : Cmd → Cmd) : (s.updCmd c f).intake = s.intake := rfl
@[simp] theorem State.updCmd_hif_eq (s : State) (c : Nat) (f : Cmd → Cmd) : (s.updCmd c f).hif = s.hif := rfl
@[simp] theorem State.updCmd_rings_eq (s : State) (c : Nat) (f : Cmd → Cmd) : (s.updCmd c f).rings = s.rings := rfl
@[simp] theorem State.updCmd_cmds_eq (s : State) (c : Nat) (f : Cmd → Cmd) : (s.updCmd c f).cmds = s.cmds.map (fun x => if x.cid == c then f x else x) := rfl
@[simp] theorem State.updCmd_staged_eq (s : State) (c : Nat) (f : Cmd → Cmd) : (s.updCmd c f).staged = s.staged := rfl
@[simp] theorem State.updCmd_slc_eq (s : State) (c : Nat) (f : Cmd → Cmd) : (s.updCmd c f).slc = s.slc := rfl
@[simp] theorem State.updCmd_wpe_eq (s : State) (c : Nat) (f : Cmd → Cmd) : (s.updCmd c f).wpe = s.wpe := rfl
@[simp] theorem State.updCmd_str_eq (s : State) (c : Nat) (f : Cmd → Cmd) : (s.updCmd c f).str = s.str := rfl
@[simp] theorem State.updCmd_casc_eq (s : State) (c : Nat) (f : Cmd → Cmd) : (s.updCmd c f).casc = s.casc := rfl
@[simp] theorem State.updCmd_bist_eq (s : State) (c : Nat) (f : Cmd → Cmd) : (s.updCmd c f).bist = s.bist := rfl
@[simp] theorem State.updCmd_lcs_eq (s : State) (c : Nat) (f : Cmd → Cmd) : (s.updCmd c f).lcs = s.lcs := rfl
@[simp] theorem State.updCmd_sys_eq (s : State) (c : Nat) (f : Cmd → Cmd) : (s.updCmd c f).sys = s.sys := rfl
@[simp] theorem State.updCmd_flags_eq (s : State) (c : Nat) (f : Cmd → Cmd) : (s.updCmd c f).flags = s.flags := rfl
@[simp] theorem State.updCmd_kmbx_eq (s : State) (c : Nat) (f : Cmd → Cmd) : (s.updCmd c f).kmbx = s.kmbx := rfl
@[simp] theorem State.updCmd_hkStores_eq (s : State) (c : Nat) (f : Cmd → Cmd) : (s.updCmd c f).hkStores = s.hkStores := rfl
@[simp] theorem State.updCmd_maintOut_eq (s : State) (c : Nat) (f : Cmd → Cmd) : (s.updCmd c f).maintOut = s.maintOut := rfl
@[simp] theorem State.updCmd_maintQ_eq (s : State) (c : Nat) (f : Cmd → Cmd) : (s.updCmd c f).maintQ = s.maintQ := rfl
@[simp] theorem State.updCmd_readSpace_eq (s : State) (c : Nat) (f : Cmd → Cmd) : (s.updCmd c f).readSpace = s.readSpace := rfl
@[simp] theorem State.updCmd_fc_eq (s : State) (c : Nat) (f : Cmd → Cmd) : (s.updCmd c f).fc = s.fc := rfl
@[simp] theorem State.updCmd_postQ_eq (s : State) (c : Nat) (f : Cmd → Cmd) : (s.updCmd c f).postQ = s.postQ := rfl
@[simp] theorem State.updCmd_readQ_eq (s : State) (c : Nat) (f : Cmd → Cmd) : (s.updCmd c f).readQ = s.readQ := rfl
@[simp] theorem State.updCmd_dropped_eq (s : State) (c : Nat) (f : Cmd → Cmd) : (s.updCmd c f).dropped = s.dropped := rfl
@[simp] theorem State.updCmd_nextCid_eq (s : State) (c : Nat) (f : Cmd → Cmd) : (s.updCmd c f).nextCid = s.nextCid := rfl
@[simp] theorem State.updCmd_fetches_eq (s : State) (c : Nat) (f : Cmd → Cmd) : (s.updCmd c f).fetches = s.fetches := rfl
@[simp] theorem State.updCmd_free_eq (s : State) (c : Nat) (f : Cmd → Cmd) : (s.updCmd c f).free = s.free := rfl
@[simp] theorem State.updCmd_out_eq (s : State) (c : Nat) (f : Cmd → Cmd) : (s.updCmd c f).out = s.out := rfl

/-! ### State.updRun -/

@[simp] theorem State.updRun_pending_eq (s : State) (c : Nat) (f : Run → Run) : (s.updRun c f).pending = s.pending := rfl
@[simp] theorem State.updRun_pwr_eq (s : State) (c : Nat) (f : Run → Run) : (s.updRun c f).pwr = s.pwr := rfl
@[simp] theorem State.updRun_pins_eq (s : State) (c : Nat) (f : Run → Run) : (s.updRun c f).pins = s.pins := rfl
@[simp] theorem State.updRun_tmr_eq (s : State) (c : Nat) (f : Run → Run) : (s.updRun c f).tmr = s.tmr := rfl
@[simp] theorem State.updRun_afe_eq (s : State) (c : Nat) (f : Run → Run) : (s.updRun c f).afe = s.afe := rfl
@[simp] theorem State.updRun_snt_eq (s : State) (c : Nat) (f : Run → Run) : (s.updRun c f).snt = s.snt := rfl
@[simp] theorem State.updRun_basins_eq (s : State) (c : Nat) (f : Run → Run) : (s.updRun c f).basins = s.basins := rfl
@[simp] theorem State.updRun_ters_eq (s : State) (c : Nat) (f : Run → Run) : (s.updRun c f).ters = s.ters := rfl
@[simp] theorem State.updRun_cistern_eq (s : State) (c : Nat) (f : Run → Run) : (s.updRun c f).cistern = s.cistern := rfl
@[simp] theorem State.updRun_weights_eq (s : State) (c : Nat) (f : Run → Run) : (s.updRun c f).weights = s.weights := rfl
@[simp] theorem State.updRun_graphs_eq (s : State) (c : Nat) (f : Run → Run) : (s.updRun c f).graphs = s.graphs := rfl
@[simp] theorem State.updRun_evals_eq (s : State) (c : Nat) (f : Run → Run) : (s.updRun c f).evals = s.evals := rfl
@[simp] theorem State.updRun_fwds_eq (s : State) (c : Nat) (f : Run → Run) : (s.updRun c f).fwds = s.fwds := rfl
@[simp] theorem State.updRun_rill_eq (s : State) (c : Nat) (f : Run → Run) : (s.updRun c f).rill = s.rill := rfl
@[simp] theorem State.updRun_rillVc_eq (s : State) (c : Nat) (f : Run → Run) : (s.updRun c f).rillVc = s.rillVc := rfl
@[simp] theorem State.updRun_rillIn_eq (s : State) (c : Nat) (f : Run → Run) : (s.updRun c f).rillIn = s.rillIn := rfl
@[simp] theorem State.updRun_csi_eq (s : State) (c : Nat) (f : Run → Run) : (s.updRun c f).csi = s.csi := rfl
@[simp] theorem State.updRun_intake_eq (s : State) (c : Nat) (f : Run → Run) : (s.updRun c f).intake = s.intake := rfl
@[simp] theorem State.updRun_hif_eq (s : State) (c : Nat) (f : Run → Run) : (s.updRun c f).hif = s.hif := rfl
@[simp] theorem State.updRun_rings_eq (s : State) (c : Nat) (f : Run → Run) : (s.updRun c f).rings = s.rings := rfl
@[simp] theorem State.updRun_cmds_eq (s : State) (c : Nat) (f : Run → Run) : (s.updRun c f).cmds = s.cmds.map (fun x => if x.cid == c then (match x.body with
    | .run r => { x with body := .run (f r) }
    | _ => x) else x) := rfl
@[simp] theorem State.updRun_staged_eq (s : State) (c : Nat) (f : Run → Run) : (s.updRun c f).staged = s.staged := rfl
@[simp] theorem State.updRun_slc_eq (s : State) (c : Nat) (f : Run → Run) : (s.updRun c f).slc = s.slc := rfl
@[simp] theorem State.updRun_wpe_eq (s : State) (c : Nat) (f : Run → Run) : (s.updRun c f).wpe = s.wpe := rfl
@[simp] theorem State.updRun_str_eq (s : State) (c : Nat) (f : Run → Run) : (s.updRun c f).str = s.str := rfl
@[simp] theorem State.updRun_casc_eq (s : State) (c : Nat) (f : Run → Run) : (s.updRun c f).casc = s.casc := rfl
@[simp] theorem State.updRun_bist_eq (s : State) (c : Nat) (f : Run → Run) : (s.updRun c f).bist = s.bist := rfl
@[simp] theorem State.updRun_lcs_eq (s : State) (c : Nat) (f : Run → Run) : (s.updRun c f).lcs = s.lcs := rfl
@[simp] theorem State.updRun_sys_eq (s : State) (c : Nat) (f : Run → Run) : (s.updRun c f).sys = s.sys := rfl
@[simp] theorem State.updRun_flags_eq (s : State) (c : Nat) (f : Run → Run) : (s.updRun c f).flags = s.flags := rfl
@[simp] theorem State.updRun_kmbx_eq (s : State) (c : Nat) (f : Run → Run) : (s.updRun c f).kmbx = s.kmbx := rfl
@[simp] theorem State.updRun_hkStores_eq (s : State) (c : Nat) (f : Run → Run) : (s.updRun c f).hkStores = s.hkStores := rfl
@[simp] theorem State.updRun_maintOut_eq (s : State) (c : Nat) (f : Run → Run) : (s.updRun c f).maintOut = s.maintOut := rfl
@[simp] theorem State.updRun_maintQ_eq (s : State) (c : Nat) (f : Run → Run) : (s.updRun c f).maintQ = s.maintQ := rfl
@[simp] theorem State.updRun_readSpace_eq (s : State) (c : Nat) (f : Run → Run) : (s.updRun c f).readSpace = s.readSpace := rfl
@[simp] theorem State.updRun_fc_eq (s : State) (c : Nat) (f : Run → Run) : (s.updRun c f).fc = s.fc := rfl
@[simp] theorem State.updRun_postQ_eq (s : State) (c : Nat) (f : Run → Run) : (s.updRun c f).postQ = s.postQ := rfl
@[simp] theorem State.updRun_readQ_eq (s : State) (c : Nat) (f : Run → Run) : (s.updRun c f).readQ = s.readQ := rfl
@[simp] theorem State.updRun_dropped_eq (s : State) (c : Nat) (f : Run → Run) : (s.updRun c f).dropped = s.dropped := rfl
@[simp] theorem State.updRun_nextCid_eq (s : State) (c : Nat) (f : Run → Run) : (s.updRun c f).nextCid = s.nextCid := rfl
@[simp] theorem State.updRun_fetches_eq (s : State) (c : Nat) (f : Run → Run) : (s.updRun c f).fetches = s.fetches := rfl
@[simp] theorem State.updRun_free_eq (s : State) (c : Nat) (f : Run → Run) : (s.updRun c f).free = s.free := rfl
@[simp] theorem State.updRun_out_eq (s : State) (c : Nat) (f : Run → Run) : (s.updRun c f).out = s.out := rfl

/-! ### State.setMsixPending -/

@[simp] theorem State.setMsixPending_pending_eq (s : State) (f e : Nat) (p : Bool) : (s.setMsixPending f e p).pending = s.pending := rfl
@[simp] theorem State.setMsixPending_pwr_eq (s : State) (f e : Nat) (p : Bool) : (s.setMsixPending f e p).pwr = s.pwr := rfl
@[simp] theorem State.setMsixPending_pins_eq (s : State) (f e : Nat) (p : Bool) : (s.setMsixPending f e p).pins = s.pins := rfl
@[simp] theorem State.setMsixPending_tmr_eq (s : State) (f e : Nat) (p : Bool) : (s.setMsixPending f e p).tmr = s.tmr := rfl
@[simp] theorem State.setMsixPending_afe_eq (s : State) (f e : Nat) (p : Bool) : (s.setMsixPending f e p).afe = s.afe := rfl
@[simp] theorem State.setMsixPending_snt_eq (s : State) (f e : Nat) (p : Bool) : (s.setMsixPending f e p).snt = s.snt := rfl
@[simp] theorem State.setMsixPending_basins_eq (s : State) (f e : Nat) (p : Bool) : (s.setMsixPending f e p).basins = s.basins := rfl
@[simp] theorem State.setMsixPending_ters_eq (s : State) (f e : Nat) (p : Bool) : (s.setMsixPending f e p).ters = s.ters := rfl
@[simp] theorem State.setMsixPending_cistern_eq (s : State) (f e : Nat) (p : Bool) : (s.setMsixPending f e p).cistern = s.cistern := rfl
@[simp] theorem State.setMsixPending_weights_eq (s : State) (f e : Nat) (p : Bool) : (s.setMsixPending f e p).weights = s.weights := rfl
@[simp] theorem State.setMsixPending_graphs_eq (s : State) (f e : Nat) (p : Bool) : (s.setMsixPending f e p).graphs = s.graphs := rfl
@[simp] theorem State.setMsixPending_evals_eq (s : State) (f e : Nat) (p : Bool) : (s.setMsixPending f e p).evals = s.evals := rfl
@[simp] theorem State.setMsixPending_fwds_eq (s : State) (f e : Nat) (p : Bool) : (s.setMsixPending f e p).fwds = s.fwds := rfl
@[simp] theorem State.setMsixPending_rill_eq (s : State) (f e : Nat) (p : Bool) : (s.setMsixPending f e p).rill = s.rill := rfl
@[simp] theorem State.setMsixPending_rillVc_eq (s : State) (f e : Nat) (p : Bool) : (s.setMsixPending f e p).rillVc = s.rillVc := rfl
@[simp] theorem State.setMsixPending_rillIn_eq (s : State) (f e : Nat) (p : Bool) : (s.setMsixPending f e p).rillIn = s.rillIn := rfl
@[simp] theorem State.setMsixPending_csi_eq (s : State) (f e : Nat) (p : Bool) : (s.setMsixPending f e p).csi = s.csi := rfl
@[simp] theorem State.setMsixPending_intake_eq (s : State) (f e : Nat) (p : Bool) : (s.setMsixPending f e p).intake = s.intake := rfl
@[simp] theorem State.setMsixPending_hif_eq (s : State) (f e : Nat) (p : Bool) : (s.setMsixPending f e p).hif = { s.hif with msix := Tab.set s.hif.msix (msixKey f e) { s.msixEntry f e with pending := p } } := rfl
@[simp] theorem State.setMsixPending_rings_eq (s : State) (f e : Nat) (p : Bool) : (s.setMsixPending f e p).rings = s.rings := rfl
@[simp] theorem State.setMsixPending_cmds_eq (s : State) (f e : Nat) (p : Bool) : (s.setMsixPending f e p).cmds = s.cmds := rfl
@[simp] theorem State.setMsixPending_staged_eq (s : State) (f e : Nat) (p : Bool) : (s.setMsixPending f e p).staged = s.staged := rfl
@[simp] theorem State.setMsixPending_slc_eq (s : State) (f e : Nat) (p : Bool) : (s.setMsixPending f e p).slc = s.slc := rfl
@[simp] theorem State.setMsixPending_wpe_eq (s : State) (f e : Nat) (p : Bool) : (s.setMsixPending f e p).wpe = s.wpe := rfl
@[simp] theorem State.setMsixPending_str_eq (s : State) (f e : Nat) (p : Bool) : (s.setMsixPending f e p).str = s.str := rfl
@[simp] theorem State.setMsixPending_casc_eq (s : State) (f e : Nat) (p : Bool) : (s.setMsixPending f e p).casc = s.casc := rfl
@[simp] theorem State.setMsixPending_bist_eq (s : State) (f e : Nat) (p : Bool) : (s.setMsixPending f e p).bist = s.bist := rfl
@[simp] theorem State.setMsixPending_lcs_eq (s : State) (f e : Nat) (p : Bool) : (s.setMsixPending f e p).lcs = s.lcs := rfl
@[simp] theorem State.setMsixPending_sys_eq (s : State) (f e : Nat) (p : Bool) : (s.setMsixPending f e p).sys = s.sys := rfl
@[simp] theorem State.setMsixPending_flags_eq (s : State) (f e : Nat) (p : Bool) : (s.setMsixPending f e p).flags = s.flags := rfl
@[simp] theorem State.setMsixPending_kmbx_eq (s : State) (f e : Nat) (p : Bool) : (s.setMsixPending f e p).kmbx = s.kmbx := rfl
@[simp] theorem State.setMsixPending_hkStores_eq (s : State) (f e : Nat) (p : Bool) : (s.setMsixPending f e p).hkStores = s.hkStores := rfl
@[simp] theorem State.setMsixPending_maintOut_eq (s : State) (f e : Nat) (p : Bool) : (s.setMsixPending f e p).maintOut = s.maintOut := rfl
@[simp] theorem State.setMsixPending_maintQ_eq (s : State) (f e : Nat) (p : Bool) : (s.setMsixPending f e p).maintQ = s.maintQ := rfl
@[simp] theorem State.setMsixPending_readSpace_eq (s : State) (f e : Nat) (p : Bool) : (s.setMsixPending f e p).readSpace = s.readSpace := rfl
@[simp] theorem State.setMsixPending_fc_eq (s : State) (f e : Nat) (p : Bool) : (s.setMsixPending f e p).fc = s.fc := rfl
@[simp] theorem State.setMsixPending_postQ_eq (s : State) (f e : Nat) (p : Bool) : (s.setMsixPending f e p).postQ = s.postQ := rfl
@[simp] theorem State.setMsixPending_readQ_eq (s : State) (f e : Nat) (p : Bool) : (s.setMsixPending f e p).readQ = s.readQ := rfl
@[simp] theorem State.setMsixPending_dropped_eq (s : State) (f e : Nat) (p : Bool) : (s.setMsixPending f e p).dropped = s.dropped := rfl
@[simp] theorem State.setMsixPending_nextCid_eq (s : State) (f e : Nat) (p : Bool) : (s.setMsixPending f e p).nextCid = s.nextCid := rfl
@[simp] theorem State.setMsixPending_fetches_eq (s : State) (f e : Nat) (p : Bool) : (s.setMsixPending f e p).fetches = s.fetches := rfl
@[simp] theorem State.setMsixPending_free_eq (s : State) (f e : Nat) (p : Bool) : (s.setMsixPending f e p).free = s.free := rfl
@[simp] theorem State.setMsixPending_out_eq (s : State) (f e : Nat) (p : Bool) : (s.setMsixPending f e p).out = s.out := rfl

end Sys2Proof.Machine
end

