-- ==== Sys2Proof/Laws/Report.lean ====
section
/-! SUPPORT. What sending, interrupting and logging may touch: everything but the report stays (ReportOnly), and so does
all but the ledger of the rings (sansLedger). -/

namespace Sys2Proof.Machine

variable {s t u : State}

/-! ### ReportOnly as a relation -/

theorem ReportOnly.refl (s : State) : ReportOnly s s := rfl

theorem ReportOnly.trans (h : ReportOnly s t) (k : ReportOnly t u) : ReportOnly s u := Eq.trans k h

@[simp] theorem sansLedger_sansReport (s : State) : s.sansReport.sansLedger = s.sansLedger := rfl

theorem ReportOnly.sansLedger (h : ReportOnly s t) : t.sansLedger = s.sansLedger := by
  rw [← sansLedger_sansReport t, h, sansLedger_sansReport]

/-! ### The fields that a report leaves -/

theorem ReportOnly.pending_eq (h : ReportOnly s t) : t.pending = s.pending :=
  (congrArg State.pending (show t.sansReport = s.sansReport from h) : t.sansReport.pending = s.sansReport.pending)
theorem ReportOnly.pwr_eq (h : ReportOnly s t) : t.pwr = s.pwr :=
  (congrArg State.pwr (show t.sansReport = s.sansReport from h) : t.sansReport.pwr = s.sansReport.pwr)
theorem ReportOnly.pins_eq (h : ReportOnly s t) : t.pins = s.pins :=
  (congrArg State.pins (show t.sansReport = s.sansReport from h) : t.sansReport.pins = s.sansReport.pins)
theorem ReportOnly.tmr_eq (h : ReportOnly s t) : t.tmr = s.tmr :=
  (congrArg State.tmr (show t.sansReport = s.sansReport from h) : t.sansReport.tmr = s.sansReport.tmr)
theorem ReportOnly.afe_eq (h : ReportOnly s t) : t.afe = s.afe :=
  (congrArg State.afe (show t.sansReport = s.sansReport from h) : t.sansReport.afe = s.sansReport.afe)
theorem ReportOnly.snt_eq (h : ReportOnly s t) : t.snt = s.snt :=
  (congrArg State.snt (show t.sansReport = s.sansReport from h) : t.sansReport.snt = s.sansReport.snt)
theorem ReportOnly.basins_eq (h : ReportOnly s t) : t.basins = s.basins :=
  (congrArg State.basins (show t.sansReport = s.sansReport from h) : t.sansReport.basins = s.sansReport.basins)
theorem ReportOnly.ters_eq (h : ReportOnly s t) : t.ters = s.ters :=
  (congrArg State.ters (show t.sansReport = s.sansReport from h) : t.sansReport.ters = s.sansReport.ters)
theorem ReportOnly.cistern_eq (h : ReportOnly s t) : t.cistern = s.cistern :=
  (congrArg State.cistern (show t.sansReport = s.sansReport from h) : t.sansReport.cistern = s.sansReport.cistern)
theorem ReportOnly.weights_eq (h : ReportOnly s t) : t.weights = s.weights :=
  (congrArg State.weights (show t.sansReport = s.sansReport from h) : t.sansReport.weights = s.sansReport.weights)
theorem ReportOnly.graphs_eq (h : ReportOnly s t) : t.graphs = s.graphs :=
  (congrArg State.graphs (show t.sansReport = s.sansReport from h) : t.sansReport.graphs = s.sansReport.graphs)
theorem ReportOnly.evals_eq (h : ReportOnly s t) : t.evals = s.evals :=
  (congrArg State.evals (show t.sansReport = s.sansReport from h) : t.sansReport.evals = s.sansReport.evals)
theorem ReportOnly.fwds_eq (h : ReportOnly s t) : t.fwds = s.fwds :=
  (congrArg State.fwds (show t.sansReport = s.sansReport from h) : t.sansReport.fwds = s.sansReport.fwds)
theorem ReportOnly.rill_eq (h : ReportOnly s t) : t.rill = s.rill :=
  (congrArg State.rill (show t.sansReport = s.sansReport from h) : t.sansReport.rill = s.sansReport.rill)
theorem ReportOnly.rillVc_eq (h : ReportOnly s t) : t.rillVc = s.rillVc :=
  (congrArg State.rillVc (show t.sansReport = s.sansReport from h) : t.sansReport.rillVc = s.sansReport.rillVc)
theorem ReportOnly.rillIn_eq (h : ReportOnly s t) : t.rillIn = s.rillIn :=
  (congrArg State.rillIn (show t.sansReport = s.sansReport from h) : t.sansReport.rillIn = s.sansReport.rillIn)
theorem ReportOnly.csi_eq (h : ReportOnly s t) : t.csi = s.csi :=
  (congrArg State.csi (show t.sansReport = s.sansReport from h) : t.sansReport.csi = s.sansReport.csi)
theorem ReportOnly.intake_eq (h : ReportOnly s t) : t.intake = s.intake :=
  (congrArg State.intake (show t.sansReport = s.sansReport from h) : t.sansReport.intake = s.sansReport.intake)
theorem ReportOnly.rings_eq (h : ReportOnly s t) : t.rings = s.rings :=
  (congrArg State.rings (show t.sansReport = s.sansReport from h) : t.sansReport.rings = s.sansReport.rings)
theorem ReportOnly.cmds_eq (h : ReportOnly s t) : t.cmds = s.cmds :=
  (congrArg State.cmds (show t.sansReport = s.sansReport from h) : t.sansReport.cmds = s.sansReport.cmds)
theorem ReportOnly.staged_eq (h : ReportOnly s t) : t.staged = s.staged :=
  (congrArg State.staged (show t.sansReport = s.sansReport from h) : t.sansReport.staged = s.sansReport.staged)
theorem ReportOnly.slc_eq (h : ReportOnly s t) : t.slc = s.slc :=
  (congrArg State.slc (show t.sansReport = s.sansReport from h) : t.sansReport.slc = s.sansReport.slc)
theorem ReportOnly.wpe_eq (h : ReportOnly s t) : t.wpe = s.wpe :=
  (congrArg State.wpe (show t.sansReport = s.sansReport from h) : t.sansReport.wpe = s.sansReport.wpe)
theorem ReportOnly.str_eq (h : ReportOnly s t) : t.str = s.str :=
  (congrArg State.str (show t.sansReport = s.sansReport from h) : t.sansReport.str = s.sansReport.str)
theorem ReportOnly.casc_eq (h : ReportOnly s t) : t.casc = s.casc :=
  (congrArg State.casc (show t.sansReport = s.sansReport from h) : t.sansReport.casc = s.sansReport.casc)
theorem ReportOnly.bist_eq (h : ReportOnly s t) : t.bist = s.bist :=
  (congrArg State.bist (show t.sansReport = s.sansReport from h) : t.sansReport.bist = s.sansReport.bist)
theorem ReportOnly.lcs_eq (h : ReportOnly s t) : t.lcs = s.lcs :=
  (congrArg State.lcs (show t.sansReport = s.sansReport from h) : t.sansReport.lcs = s.sansReport.lcs)
theorem ReportOnly.sys_eq (h : ReportOnly s t) : t.sys = s.sys :=
  (congrArg State.sys (show t.sansReport = s.sansReport from h) : t.sansReport.sys = s.sansReport.sys)
theorem ReportOnly.flags_eq (h : ReportOnly s t) : t.flags = s.flags :=
  (congrArg State.flags (show t.sansReport = s.sansReport from h) : t.sansReport.flags = s.sansReport.flags)
theorem ReportOnly.kmbx_eq (h : ReportOnly s t) : t.kmbx = s.kmbx :=
  (congrArg State.kmbx (show t.sansReport = s.sansReport from h) : t.sansReport.kmbx = s.sansReport.kmbx)
theorem ReportOnly.hkStores_eq (h : ReportOnly s t) : t.hkStores = s.hkStores :=
  (congrArg State.hkStores (show t.sansReport = s.sansReport from h) : t.sansReport.hkStores = s.sansReport.hkStores)
theorem ReportOnly.maintOut_eq (h : ReportOnly s t) : t.maintOut = s.maintOut :=
  (congrArg State.maintOut (show t.sansReport = s.sansReport from h) : t.sansReport.maintOut = s.sansReport.maintOut)
theorem ReportOnly.maintQ_eq (h : ReportOnly s t) : t.maintQ = s.maintQ :=
  (congrArg State.maintQ (show t.sansReport = s.sansReport from h) : t.sansReport.maintQ = s.sansReport.maintQ)
theorem ReportOnly.readSpace_eq (h : ReportOnly s t) : t.readSpace = s.readSpace :=
  (congrArg State.readSpace (show t.sansReport = s.sansReport from h) : t.sansReport.readSpace = s.sansReport.readSpace)
theorem ReportOnly.readQ_eq (h : ReportOnly s t) : t.readQ = s.readQ :=
  (congrArg State.readQ (show t.sansReport = s.sansReport from h) : t.sansReport.readQ = s.sansReport.readQ)
theorem ReportOnly.dropped_eq (h : ReportOnly s t) : t.dropped = s.dropped :=
  (congrArg State.dropped (show t.sansReport = s.sansReport from h) : t.sansReport.dropped = s.sansReport.dropped)
theorem ReportOnly.nextCid_eq (h : ReportOnly s t) : t.nextCid = s.nextCid :=
  (congrArg State.nextCid (show t.sansReport = s.sansReport from h) : t.sansReport.nextCid = s.sansReport.nextCid)
theorem ReportOnly.fetches_eq (h : ReportOnly s t) : t.fetches = s.fetches :=
  (congrArg State.fetches (show t.sansReport = s.sansReport from h) : t.sansReport.fetches = s.sansReport.fetches)
theorem ReportOnly.free_eq (h : ReportOnly s t) : t.free = s.free :=
  (congrArg State.free (show t.sansReport = s.sansReport from h) : t.sansReport.free = s.sansReport.free)

theorem foldl_report {α : Type} (l : List α) (f : State → α → State) (h : ∀ s a, ReportOnly s (f s a)) (s : State) :
    ReportOnly s (l.foldl f s) := by
  induction l generalizing s with
  | nil => exact .refl s
  | cons a l ih => exact (h s a).trans (ih (f s a))

/-! ### The functions of Ops that report -/

theorem emit_report (s : State) (e : Emit) : ReportOnly s (s.emit e) := rfl

theorem leaveL1_report (s : State) : ReportOnly s s.leaveL1 := rfl

theorem post_report (s : State) (e : Emit) (c src : Option (Nat × Nat)) : ReportOnly s (s.post e c src) := by
  unfold State.post ReportOnly State.sansReport
  dsimp only
  split
  · rfl
  · rfl
  · split <;> rfl

theorem postWrite_report (s : State) (f : Nat) (a : DWord) (b : List Byte) (r : Bool) (c src : Option (Nat × Nat)) :
    ReportOnly s (s.postWrite f a b r c src) := by
  unfold State.postWrite
  exact foldl_report _ _ (fun t (e : Emit × Option (Nat × Nat)) => post_report t e.1 e.2 src) s

theorem issueRead_report (s : State) (f : Nat) (a : DWord) (n : Nat) : ReportOnly s (s.issueRead f a n) := by
  unfold State.issueRead
  exact foldl_report _ (fun t (r : Nat × Nat) => t.leaveL1.emit (.read f (a + BitVec.ofNat 64 r.1) r.2)) (fun _ _ => rfl) s

theorem setMsixPending_report (s : State) (f e : Nat) (p : Bool) : ReportOnly s (s.setMsixPending f e p) := rfl

theorem signal_report (s : State) (f e : Nat) : ReportOnly s (s.signal f e) := by
  unfold State.signal
  split
  · exact .refl s
  · split
    · exact setMsixPending_report s f e true
    · exact post_report s _ _ _

theorem devVec_report (s : State) (k : Nat) : ReportOnly s (s.devVec k) := by
  unfold State.devVec
  split
  · exact .refl s
  · dsimp only
    split
    · rfl
    · split
      · rfl
      · exact ReportOnly.trans (t := { s with hif := { s.hif with devStat := setBit s.hif.devStat k true } }) rfl
          (signal_report _ 0 k)

theorem vlog_report (s : State) (kind action rid func ring : Nat) (hdr : BitVec 128) :
    ReportOnly s (s.vlog kind action rid func ring hdr) := by
  unfold State.vlog
  exact ReportOnly.trans (by rfl) (devVec_report _ 2)

theorem vlogTlp_report (s : State) (kind action func ring : Nat) (x : Tlp) :
    ReportOnly s (s.vlogTlp kind action func ring x) := vlog_report s _ _ _ _ _ _

end Sys2Proof.Machine
end

