-- ==== Sys2Proof/Laws/Ledger.lean ====
section
/-! SUPPORT. What the rings' bookkeeping may touch: fetching, rejecting, admitting and ending commands change the ledger
of the rings and no ring's configuration (LedgerOnly). -/

namespace Sys2Proof.Machine

variable {s t u : State}

/-! ### Tables -/

theorem Tab.get?_set {α : Type} (m : Tab α) (n k : Nat) (v : α) :
    Tab.get? (Tab.set m n v) k = if k = n then some v else Tab.get? m k := by
  induction m with
  | nil =>
    by_cases h : k = n
    · subst h; simp [Tab.set, Tab.get?]
    · simp [Tab.set, Tab.get?, h, Ne.symm h]
  | cons e r ih =>
    obtain ⟨x, w⟩ := e
    unfold Tab.set
    by_cases h1 : n < x
    · simp only [h1, if_true]
      by_cases h : k = n
      · subst h; simp [Tab.get?]
      · simp [Tab.get?, h, Ne.symm h]
    · simp only [h1, if_false]
      by_cases h2 : n = x
      · subst h2
        by_cases h : k = n
        · subst h; simp [Tab.get?]
        · simp [Tab.get?, h, Ne.symm h]
      · simp only [h2, if_false]
        by_cases h3 : x = k
        · subst h3; simp [Tab.get?, Ne.symm h2]
        · have : Tab.get? ((x, w) :: Tab.set r n v) k = Tab.get? (Tab.set r n v) k := by
            simp [Tab.get?, h3]
          rw [this, ih]
          simp [Tab.get?, h3]

@[simp] theorem Tab.getD_set {α : Type} (m : Tab α) (n k : Nat) (v d : α) :
    Tab.getD (Tab.set m n v) k d = if k = n then v else Tab.getD m k d := by
  unfold Tab.getD
  rw [Tab.get?_set]
  split <;> rfl

theorem Tab.get?_del {α : Type} (m : Tab α) (n k : Nat) :
    Tab.get? (Tab.del m n) k = if k = n then none else Tab.get? m k := by
  induction m with
  | nil => simp [Tab.del, Tab.get?]
  | cons e r ih =>
    unfold Tab.del Tab.get? at *
    by_cases h1 : e.1 = n
    · by_cases h2 : k = n
      · simp_all
      · have h3 : ¬e.1 = k := fun h => h2 (h.symm.trans h1)
        simp_all
    · by_cases h2 : e.1 = k
      · subst h2; simp [h1]
      · simp_all

/-- Ring k after a change of ring g. -/
@[simp] theorem ring_updRing (s : State) (g k : Nat) (f : Ring → Ring) :
    (s.updRing g f).ring k = if k = g then f (s.ring g) else s.ring k := by
  simp [State.ring]

/-! ### LedgerOnly as a relation -/

theorem LedgerOnly.refl (s : State) : LedgerOnly s s := ⟨rfl, fun _ => rfl⟩

theorem LedgerOnly.trans (h : LedgerOnly s t) (k : LedgerOnly t u) : LedgerOnly s u :=
  ⟨Eq.trans k.1 h.1, fun g => Eq.trans (k.2 g) (h.2 g)⟩

theorem ReportOnly.ledger (h : ReportOnly s t) : LedgerOnly s t :=
  ⟨h.sansLedger, fun g => by simp [State.ring, h.rings_eq]⟩

/-- A change that leaves every ring and all but the ledger. -/
theorem LedgerOnly.of_rings (h : t.sansLedger = s.sansLedger) (k : t.rings = s.rings) : LedgerOnly s t :=
  ⟨h, fun g => by simp [State.ring, k]⟩

theorem updRing_ledger (s : State) (g : Nat) (f : Ring → Ring) (h : ∀ r, (f r).config = r.config) :
    LedgerOnly s (s.updRing g f) :=
  ⟨rfl, fun k => by
    rw [ring_updRing]
    split
    · subst_vars; exact h _
    · rfl⟩

theorem foldl_ledger {α : Type} (l : List α) (f : State → α → State) (h : ∀ s a, LedgerOnly s (f s a)) (s : State) :
    LedgerOnly s (l.foldl f s) := by
  induction l generalizing s with
  | nil => exact .refl s
  | cons a l ih => exact (h s a).trans (ih (f s a))

/-! ### The fields that the ledger leaves -/

theorem LedgerOnly.pending_eq (h : LedgerOnly s t) : t.pending = s.pending :=
  (congrArg State.pending h.1 : t.sansLedger.pending = s.sansLedger.pending)
theorem LedgerOnly.pwr_eq (h : LedgerOnly s t) : t.pwr = s.pwr :=
  (congrArg State.pwr h.1 : t.sansLedger.pwr = s.sansLedger.pwr)
theorem LedgerOnly.pins_eq (h : LedgerOnly s t) : t.pins = s.pins :=
  (congrArg State.pins h.1 : t.sansLedger.pins = s.sansLedger.pins)
theorem LedgerOnly.tmr_eq (h : LedgerOnly s t) : t.tmr = s.tmr :=
  (congrArg State.tmr h.1 : t.sansLedger.tmr = s.sansLedger.tmr)
theorem LedgerOnly.afe_eq (h : LedgerOnly s t) : t.afe = s.afe :=
  (congrArg State.afe h.1 : t.sansLedger.afe = s.sansLedger.afe)
theorem LedgerOnly.snt_eq (h : LedgerOnly s t) : t.snt = s.snt :=
  (congrArg State.snt h.1 : t.sansLedger.snt = s.sansLedger.snt)
theorem LedgerOnly.basins_eq (h : LedgerOnly s t) : t.basins = s.basins :=
  (congrArg State.basins h.1 : t.sansLedger.basins = s.sansLedger.basins)
theorem LedgerOnly.ters_eq (h : LedgerOnly s t) : t.ters = s.ters :=
  (congrArg State.ters h.1 : t.sansLedger.ters = s.sansLedger.ters)
theorem LedgerOnly.cistern_eq (h : LedgerOnly s t) : t.cistern = s.cistern :=
  (congrArg State.cistern h.1 : t.sansLedger.cistern = s.sansLedger.cistern)
theorem LedgerOnly.weights_eq (h : LedgerOnly s t) : t.weights = s.weights :=
  (congrArg State.weights h.1 : t.sansLedger.weights = s.sansLedger.weights)
theorem LedgerOnly.graphs_eq (h : LedgerOnly s t) : t.graphs = s.graphs :=
  (congrArg State.graphs h.1 : t.sansLedger.graphs = s.sansLedger.graphs)
theorem LedgerOnly.evals_eq (h : LedgerOnly s t) : t.evals = s.evals :=
  (congrArg State.evals h.1 : t.sansLedger.evals = s.sansLedger.evals)
theorem LedgerOnly.fwds_eq (h : LedgerOnly s t) : t.fwds = s.fwds :=
  (congrArg State.fwds h.1 : t.sansLedger.fwds = s.sansLedger.fwds)
theorem LedgerOnly.rill_eq (h : LedgerOnly s t) : t.rill = s.rill :=
  (congrArg State.rill h.1 : t.sansLedger.rill = s.sansLedger.rill)
theorem LedgerOnly.rillVc_eq (h : LedgerOnly s t) : t.rillVc = s.rillVc :=
  (congrArg State.rillVc h.1 : t.sansLedger.rillVc = s.sansLedger.rillVc)
theorem LedgerOnly.rillIn_eq (h : LedgerOnly s t) : t.rillIn = s.rillIn :=
  (congrArg State.rillIn h.1 : t.sansLedger.rillIn = s.sansLedger.rillIn)
theorem LedgerOnly.csi_eq (h : LedgerOnly s t) : t.csi = s.csi :=
  (congrArg State.csi h.1 : t.sansLedger.csi = s.sansLedger.csi)
theorem LedgerOnly.intake_eq (h : LedgerOnly s t) : t.intake = s.intake :=
  (congrArg State.intake h.1 : t.sansLedger.intake = s.sansLedger.intake)
theorem LedgerOnly.staged_eq (h : LedgerOnly s t) : t.staged = s.staged :=
  (congrArg State.staged h.1 : t.sansLedger.staged = s.sansLedger.staged)
theorem LedgerOnly.str_eq (h : LedgerOnly s t) : t.str = s.str :=
  (congrArg State.str h.1 : t.sansLedger.str = s.sansLedger.str)
theorem LedgerOnly.casc_eq (h : LedgerOnly s t) : t.casc = s.casc :=
  (congrArg State.casc h.1 : t.sansLedger.casc = s.sansLedger.casc)
theorem LedgerOnly.bist_eq (h : LedgerOnly s t) : t.bist = s.bist :=
  (congrArg State.bist h.1 : t.sansLedger.bist = s.sansLedger.bist)
theorem LedgerOnly.sys_eq (h : LedgerOnly s t) : t.sys = s.sys :=
  (congrArg State.sys h.1 : t.sansLedger.sys = s.sansLedger.sys)
theorem LedgerOnly.flags_eq (h : LedgerOnly s t) : t.flags = s.flags :=
  (congrArg State.flags h.1 : t.sansLedger.flags = s.sansLedger.flags)
theorem LedgerOnly.kmbx_eq (h : LedgerOnly s t) : t.kmbx = s.kmbx :=
  (congrArg State.kmbx h.1 : t.sansLedger.kmbx = s.sansLedger.kmbx)
theorem LedgerOnly.hkStores_eq (h : LedgerOnly s t) : t.hkStores = s.hkStores :=
  (congrArg State.hkStores h.1 : t.sansLedger.hkStores = s.sansLedger.hkStores)
theorem LedgerOnly.maintOut_eq (h : LedgerOnly s t) : t.maintOut = s.maintOut :=
  (congrArg State.maintOut h.1 : t.sansLedger.maintOut = s.sansLedger.maintOut)
theorem LedgerOnly.maintQ_eq (h : LedgerOnly s t) : t.maintQ = s.maintQ :=
  (congrArg State.maintQ h.1 : t.sansLedger.maintQ = s.sansLedger.maintQ)
theorem LedgerOnly.readSpace_eq (h : LedgerOnly s t) : t.readSpace = s.readSpace :=
  (congrArg State.readSpace h.1 : t.sansLedger.readSpace = s.sansLedger.readSpace)
theorem LedgerOnly.readQ_eq (h : LedgerOnly s t) : t.readQ = s.readQ :=
  (congrArg State.readQ h.1 : t.sansLedger.readQ = s.sansLedger.readQ)
theorem LedgerOnly.free_eq (h : LedgerOnly s t) : t.free = s.free :=
  (congrArg State.free h.1 : t.sansLedger.free = s.sansLedger.free)

/-! ### Flags and Records -/

theorem consume_config (r : Ring) (n : Nat) : (r.consume n).config = r.config := by
  unfold Ring.consume
  split <;> rfl

theorem signalRing_ledger (s : State) (g : Nat) : LedgerOnly s (s.signalRing g) :=
  (updRing_ledger s g _ (by intro r; rfl)).trans (signal_report _ _ _).ledger

theorem fetchRing_ledger (s : State) (g : Nat) : LedgerOnly s (s.fetchRing g) := by
  unfold State.fetchRing
  dsimp only
  refine LedgerOnly.trans (updRing_ledger s g (fun r => { r with
    fetching := min (min (4 - (s.ring g).places.length) (s.ring g).unfetched) ((s.ring g).size - (s.ring g).sqHead)
    sqHead := (r.sqHead + min (min (4 - (s.ring g).places.length) (s.ring g).unfetched)
      ((s.ring g).size - (s.ring g).sqHead)) % r.size
    turn := s.fetches + 1 }) (fun _ => rfl)) (LedgerOnly.trans (LedgerOnly.of_rings rfl rfl) (issueRead_report _ _ _ _).ledger)

theorem fetchAll_ledger (n : Nat) (s : State) : LedgerOnly s (State.fetchAll n s) := by
  induction n generalizing s with
  | zero => exact .refl s
  | succ n ih =>
    unfold State.fetchAll
    split
    · exact .refl s
    · exact (fetchRing_ledger s _).trans (ih _)

theorem fetchList_ledger (s : State) (g : Nat) : LedgerOnly s (s.fetchList g) := by
  unfold State.fetchList
  split
  · exact .refl s
  · split
    · exact .refl s
    · exact (updRing_ledger s g _ (by intro r; rfl)).trans (issueRead_report _ _ _ _).ledger

theorem fetchWork_ledger (s : State) : LedgerOnly s s.fetchWork :=
  (foldl_ledger s.rings (fun t e => t.fetchList e.1) (fun t e => fetchList_ledger t e.1) s).trans (fetchAll_ledger _ _)

theorem ite_signal_ledger (b : Bool) (s : State) (g : Nat) : LedgerOnly s (if b then s.signalRing g else s) := by
  split
  · exact signalRing_ledger s g
  · exact .refl s

theorem dropResults_ledger (s : State) (c : Option Nat) (g : Nat) : LedgerOnly s (s.dropResults c g) := by
  unfold State.dropResults
  dsimp only
  split
  · exact (vlog_report s _ _ _ _ _ _).ledger
  · split
    · exact .refl s
    · exact LedgerOnly.trans (LedgerOnly.of_rings rfl rfl) (vlog_report _ _ _ _ _ _ _).ledger

theorem writeRecord_ledger (s : State) (g tag op : Nat) (inList irqNow detached : Bool) (cid : Option Nat)
    (start evals skipped : Nat) (e : End) :
    LedgerOnly s (s.writeRecord g tag op inList irqNow detached cid start evals skipped e) := by
  unfold State.writeRecord
  dsimp only
  split
  · exact .refl s
  · split
    · exact dropResults_ledger s _ _
    · refine LedgerOnly.trans (post_report s _ none _).ledger (LedgerOnly.trans (updRing_ledger _ g _ ?_)
        (ite_signal_ledger _ _ g))
      intro r
      rfl

theorem countEnd_ledger (s : State) (k : Nat) : LedgerOnly s (s.countEnd k) := LedgerOnly.of_rings rfl rfl

theorem ringIdle_ledger (s : State) (g : Nat) : LedgerOnly s (s.ringIdle g) := by
  unfold State.ringIdle
  dsimp only
  split
  · exact updRing_ledger s g _ (by intro r; rfl)
  · exact .refl s

theorem weightEvent_ledger (s : State) (x : Cmd) : LedgerOnly s (s.weightEvent x) := by
  unfold State.weightEvent
  split
  · exact (devVec_report s 7).ledger
  · exact .refl s

theorem noteLifecycle_ledger (s : State) (p : List Byte) (e : End) : LedgerOnly s (s.noteLifecycle p e) := by
  unfold State.noteLifecycle
  split
  · exact LedgerOnly.of_rings rfl rfl
  · exact .refl s

theorem updCmd_ledger (s : State) (c : Nat) (f : Cmd → Cmd) : LedgerOnly s (s.updCmd c f) := LedgerOnly.of_rings rfl rfl

theorem endCmd_ledger (s : State) (c : Nat) (e : End) : LedgerOnly s (s.endCmd c e) := by
  unfold State.endCmd
  split
  · exact .refl s
  · rename_i x _
    split
    · exact updCmd_ledger s c _
    · dsimp only
      have h0 : LedgerOnly s { s with cmds := s.cmds.filter (fun y => y.cid != c) } := LedgerOnly.of_rings rfl rfl
      exact ((((h0.trans (updRing_ledger _ x.ring _ (by intro r; rfl))).trans (countEnd_ledger _ _)).trans
        (writeRecord_ledger _ _ _ _ _ _ _ _ _ _ _ _)).trans (ringIdle_ledger _ _)).trans (weightEvent_ledger _ _)

theorem closeLists_ledger (n : Nat) (s : State) : LedgerOnly s (State.closeLists n s) := by
  induction n generalizing s with
  | zero => exact .refl s
  | succ n ih =>
    unfold State.closeLists
    split
    · exact .refl s
    · exact (endCmd_ledger s _ _).trans (ih _)

theorem wpeIdle_ledger (s : State) : LedgerOnly s s.wpeIdle := by
  unfold State.wpeIdle
  split
  · exact LedgerOnly.of_rings rfl rfl
  · exact .refl s

theorem closeSessions_ledger (n : Nat) (s : State) : LedgerOnly s (State.closeSessions n s) := by
  induction n generalizing s with
  | zero => exact .refl s
  | succ n ih =>
    unfold State.closeSessions
    split
    · exact .refl s
    · rename_i x _
      have h0 : LedgerOnly s { s with wpe := { s.wpe with sessions := s.wpe.sessions.filter (fun y => y.num != x.num) } } :=
        LedgerOnly.of_rings rfl rfl
      exact ((h0.trans (endCmd_ledger _ _ _)).trans (wpeIdle_ledger _)).trans (ih _)

theorem rejectPacket_ledger (s : State) (g : Nat) (p : List Byte) (d n : Nat) (e : End) :
    LedgerOnly s (s.rejectPacket g p d n e) :=
  (((noteLifecycle_ledger s p e).trans (countEnd_ledger _ _)).trans (updRing_ledger _ g _ (fun r => consume_config r n))).trans
    (writeRecord_ledger _ _ _ _ _ _ _ _ _ _ _ _)

theorem rejectHead_ledger (s s' : State) (g : Nat) (h : s.rejectHead g = some s') : LedgerOnly s s' := by
  unfold State.rejectHead at h
  split at h
  · cases h
  · dsimp only at h
    split at h
    · obtain ⟨e, _, rfl⟩ := Option.map_eq_some_iff.mp h
      exact rejectPacket_ledger s g _ _ _ e
    · cases h

theorem settleLoop_ledger (n : Nat) (s : State) (g : Nat) : LedgerOnly s (State.settleLoop n s g) := by
  induction n generalizing s with
  | zero => exact .refl s
  | succ n ih =>
    unfold State.settleLoop
    split
    · exact .refl s
    · rename_i s' h
      exact (rejectHead_ledger s s' g h).trans (ih s')

theorem settle_ledger (s : State) (g : Nat) : LedgerOnly s (s.settle g) :=
  ((settleLoop_ledger _ s g).trans (closeLists_ledger 3 _)).trans (fetchWork_ledger _)

theorem finish_ledger (s : State) (c : Nat) (e : End) : LedgerOnly s (s.finish c e) := by
  unfold State.finish
  split
  · exact .refl s
  · exact (((endCmd_ledger s c e).trans (closeLists_ledger 3 _)).trans (closeSessions_ledger 4 _)).trans (settle_ledger _ _)

theorem accept_ledger (s : State) (g : Nat) (p : List Byte) (b : Body) (d : Option Nat) (w : Nat) :
    LedgerOnly s (s.accept g p b d w) := by
  unfold State.accept
  dsimp only
  refine LedgerOnly.trans (t := { s with cmds := _, nextCid := s.nextCid + 1 }) (LedgerOnly.of_rings rfl rfl)
    (updRing_ledger _ g _ ?_)
  intro r
  exact consume_config r _

theorem complete_ledger (s : State) (g : Nat) (p : List Byte) (e : End) : LedgerOnly s (s.complete g p e) :=
  (accept_ledger s g p .plain none 0).trans (finish_ledger _ _ _)

theorem refuse_ledger (s : State) (g : Nat) (p : List Byte) (e : End) : LedgerOnly s (s.refuse g p e) :=
  (rejectPacket_ledger s g p _ _ e).trans (settle_ledger _ _)

theorem dropRing_ledger (s : State) (g : Nat) : LedgerOnly s (s.dropRing g) := by
  unfold State.dropRing
  dsimp only
  refine LedgerOnly.trans (t := { s.updRing g (fun r => { r with places := [], fetching := 0, lists := [] }) with
    slc := { s.slc with waiting := s.slc.waiting.filter (fun x => x != g) }, cmds := _ }) ?_
    ((closeLists_ledger 3 _).trans (ringIdle_ledger _ g))
  exact (updRing_ledger s g (fun r => { r with places := [], fetching := 0, lists := [] }) (by intro r; rfl)).trans
    (LedgerOnly.of_rings rfl rfl)

theorem haltRing_ledger (s : State) (g cause : Nat) (a : DWord) : LedgerOnly s (s.haltRing g cause a) := by
  unfold State.haltRing
  dsimp only
  have h0 := updRing_ledger s g (fun r => { r with halted := true, haltCause := cause, faultAddr := a }) (by intro r; rfl)
  split
  · exact (((h0.trans (signalRing_ledger _ g)).trans (devVec_report _ 4).ledger).trans (dropRing_ledger _ g)).trans
      (fetchWork_ledger _)
  · exact ((h0.trans (devVec_report _ 4).ledger).trans (dropRing_ledger _ g)).trans (fetchWork_ledger _)

/-! ### Service -/

theorem dmaWrite_ledger (s : State) (c : Nat) (a : DWord) (b : List Byte) (r : Bool) : LedgerOnly s (s.dmaWrite c a b r) := by
  unfold State.dmaWrite
  split
  · exact .refl s
  · split
    · exact dropResults_ledger s _ _
    · exact (postWrite_report s _ _ _ _ _ _).ledger

/-- A command admitted, given to `k`, and ended: the ledger, and what `k` does beside it. -/
theorem completeWith_ledger (s : State) (g : Nat) (p : List Byte) (k : State → State) (e : End) :
    LedgerOnly (k (s.accept g p .plain none 0)) (s.completeWith g p k e) := finish_ledger _ _ _

/-- The meaning of an opcode row where its head packet may be admitted. -/
@[simp] theorem onHead_some {g op : Nat} {b : Bool} {p : List Byte} (k : List Byte → State) (h : s.ready g op b = some p) :
    s.onHead g op b k = k p := by
  simp [State.onHead, h]

/-- The meaning of an opcode row where its head packet waits. -/
@[simp] theorem onHead_none {g op : Nat} {b : Bool} (k : List Byte → State) (h : s.ready g op b = none) :
    s.onHead g op b k = s := by
  simp [State.onHead, h]

end Sys2Proof.Machine
end

