-- ==== Sys2Proof/Laws/Memory.lean ====
section
/-! SUPPORT. The laws of the block's memories: every operation keeps the one canonical form, a read after a write gives what
was written, and a write leaves every other address alone. -/

namespace Sys2Proof.Machine

theorem Memory.wf_nil : Memory.wf [] = true := rfl

theorem Memory.wf_cons (c : Host.Cell) (m : Memory) :
    Memory.wf (c :: m) = true ↔ c.2 ≠ 0 ∧ (∀ d ∈ m, c.1 < d.1) ∧ Memory.wf m = true := by
  simp [Memory.wf, and_assoc]

/-- The three memories are canonical right after reset. -/
theorem State.reset_memory_wf :
    Memory.wf State.reset.cistern = true ∧ Memory.wf State.reset.weights = true ∧ Memory.wf State.reset.kmbx = true :=
  ⟨rfl, rfl, rfl⟩

/-- A write adds no entry but its own. -/
theorem Memory.mem_write (m : Memory) (a : Nat) (b : Byte) : ∀ d ∈ Memory.write m a b, d = (a, b) ∨ d ∈ m := by
  induction m with
  | nil => intro d hd; simp only [Memory.write] at hd; split at hd <;> simp_all
  | cons c t ih =>
    intro d hd
    simp only [Memory.write] at hd
    repeat' split at hd
    all_goals simp only [List.mem_cons] at hd ⊢
    · exact .inr hd
    · rcases hd with h | h | h <;> simp [h]
    · exact .inr (.inr hd)
    · rcases hd with h | h <;> simp [h]
    · rcases hd with h | h
      · exact .inr (.inl h)
      · rcases ih d h with h | h <;> simp [h]

/-- One byte written keeps the canonical form. -/
theorem Memory.write_wf (m : Memory) (a : Nat) (b : Byte) (h : Memory.wf m = true) : Memory.wf (Memory.write m a b) = true := by
  induction m with
  | nil => simp only [Memory.write]; split <;> simp_all [Memory.wf]
  | cons c t ih =>
    obtain ⟨hc, hlt, ht⟩ := (Memory.wf_cons c t).mp h
    simp only [Memory.write]
    split
    · split
      · exact h
      · rename_i hax hb
        refine (Memory.wf_cons _ _).mpr ⟨hb, fun d hd => ?_, h⟩
        rcases List.mem_cons.mp hd with rfl | hd
        · exact hax
        · exact Nat.lt_trans hax (hlt d hd)
    · split
      · split
        · exact ht
        · rename_i hax hb
          exact (Memory.wf_cons _ _).mpr ⟨hb, fun d hd => by simpa [hax] using hlt d hd, ht⟩
      · rename_i hx ha
        refine (Memory.wf_cons _ _).mpr ⟨hc, fun d hd => ?_, ih ht⟩
        rcases Memory.mem_write t a b d hd with rfl | hd
        · show c.1 < a; omega
        · exact hlt d hd

/-- Bytes written one after another keep the canonical form. -/
theorem Memory.writeN_wf (m : Memory) (a : Nat) (bs : List Byte) (h : Memory.wf m = true) :
    Memory.wf (Memory.writeN m a bs) = true := by
  induction bs generalizing m a with
  | nil => exact h
  | cons b bs ih => exact ih _ _ (Memory.write_wf m a b h)

/-- Leaving entries out keeps the canonical form. -/
theorem Memory.filter_wf (m : Memory) (p : Host.Cell → Bool) (h : Memory.wf m = true) : Memory.wf (m.filter p) = true := by
  induction m with
  | nil => rfl
  | cons c t ih =>
    obtain ⟨hc, hlt, ht⟩ := (Memory.wf_cons c t).mp h
    rw [List.filter_cons]
    split
    · exact (Memory.wf_cons _ _).mpr ⟨hc, fun d hd => hlt d (List.mem_filter.mp hd).1, ih ht⟩
    · exact ih ht

/-- A range cleared keeps the canonical form. -/
theorem Memory.clear_wf (m : Memory) (lo hi : Nat) (h : Memory.wf m = true) : Memory.wf (Memory.clear m lo hi) = true :=
  Memory.filter_wf m _ h

theorem Memory.read_nil (a : Nat) : Memory.read [] a = 0 := rfl

theorem Memory.read_cons (c : Host.Cell) (m : Memory) (a : Nat) :
    Memory.read (c :: m) a = if c.1 = a then c.2 else Memory.read m a := by
  by_cases h : c.1 = a
  · simp [Memory.read, h]
  · have : (c.1 == a) = false := by simpa using h
    simp [Memory.read, h, this]

/-- An address below every entry reads 0. -/
theorem Memory.read_below (m : Memory) (a : Nat) (h : ∀ d ∈ m, a < d.1) : Memory.read m a = 0 := by
  induction m with
  | nil => rfl
  | cons c t ih =>
    have := h c (List.mem_cons_self ..)
    rw [Memory.read_cons, if_neg (by omega)]
    exact ih (fun d hd => h d (List.mem_cons_of_mem _ hd))

/-- What a read gives after a write: the byte written at its address, every other byte as before. -/
theorem Memory.read_write (m : Memory) (a k : Nat) (b : Byte) (h : Memory.wf m = true) :
    Memory.read (Memory.write m a b) k = if k = a then b else Memory.read m k := by
  induction m with
  | nil =>
    simp only [Memory.write]
    split
    · rename_i hb
      simp [hb, Memory.read_nil]
    · rw [Memory.read_cons]
      by_cases hk : k = a
      · simp [hk]
      · rw [if_neg hk, if_neg (fun e => hk e.symm)]
  | cons c t ih =>
    obtain ⟨hc, hlt, ht⟩ := (Memory.wf_cons c t).mp h
    simp only [Memory.write]
    split
    · rename_i hax
      have hz : Memory.read (c :: t) a = 0 := Memory.read_below _ _ (fun d hd => by
        rcases List.mem_cons.mp hd with rfl | hd
        · exact hax
        · exact Nat.lt_trans hax (hlt d hd))
      split
      · rename_i hb
        by_cases hk : k = a <;> simp [hk, hb]
        exact hz
      · rw [Memory.read_cons]
        by_cases hk : k = a
        · simp [hk]
        · rw [if_neg hk, if_neg (fun e => hk e.symm)]
    · split
      · rename_i _ hax
        have hz : Memory.read t a = 0 := Memory.read_below _ _ (fun d hd => by simpa [hax] using hlt d hd)
        split
        · rename_i hb
          rw [Memory.read_cons]
          by_cases hk : k = a
          · simp [hk, hb, hz]
          · rw [if_neg hk, if_neg (by omega)]
        · rw [Memory.read_cons, Memory.read_cons]
          by_cases hk : k = a
          · simp [hk]
          · rw [if_neg hk, if_neg (by omega), if_neg (by omega)]
      · rename_i hx ha
        rw [Memory.read_cons, Memory.read_cons, ih ht]
        by_cases hk : c.1 = k
        · rw [if_pos hk, if_pos hk, if_neg (by omega)]
        · rw [if_neg hk, if_neg hk]

/-- What a read gives after a run of bytes is written: the byte written there, every other byte as before. -/
theorem Memory.read_writeN (m : Memory) (a k : Nat) (bs : List Byte) (h : Memory.wf m = true) :
    Memory.read (Memory.writeN m a bs) k = if a ≤ k ∧ k < a + bs.length then bs.getD (k - a) 0 else Memory.read m k := by
  induction bs generalizing m a with
  | nil => simp [Memory.writeN]
  | cons b bs ih =>
    rw [Memory.writeN, ih _ _ (Memory.write_wf m a b h), Memory.read_write m a k b h]
    simp only [List.length_cons]
    by_cases hk : k = a
    · subst hk
      rw [if_neg (by omega), if_pos rfl, if_pos (by omega)]
      simp
    · rw [if_neg hk]
      by_cases hi : a + 1 ≤ k ∧ k < a + 1 + bs.length
      · rw [if_pos hi, if_pos (by omega)]
        have : k - a = (k - (a + 1)) + 1 := by omega
        rw [this, List.getD_cons_succ]
      · rw [if_neg hi, if_neg (by omega)]

/-- Reading back a run of bytes gives what was written. -/
theorem Memory.readN_writeN (m : Memory) (a : Nat) (bs : List Byte) (h : Memory.wf m = true) :
    Memory.readN (Memory.writeN m a bs) a bs.length = bs := by
  apply List.ext_getElem
  · simp [Memory.readN]
  · intro i h1 h2
    simp only [Memory.readN, List.getElem_map, List.getElem_range]
    rw [Memory.read_writeN m a (a + i) bs h, if_pos (by omega)]
    simp [h2]

/-- A range cleared reads 0, every other byte as before. -/
theorem Memory.read_clear (m : Memory) (lo hi k : Nat) :
    Memory.read (Memory.clear m lo hi) k = if lo ≤ k ∧ k < hi then 0 else Memory.read m k := by
  induction m with
  | nil => simp [Memory.clear, Memory.read_nil]
  | cons c t ih =>
    simp only [Memory.clear] at ih ⊢
    rw [List.filter_cons]
    split
    · rename_i hp
      rw [Memory.read_cons, Memory.read_cons, ih]
      by_cases hk : c.1 = k
      · subst hk
        have : ¬(lo ≤ c.1 ∧ c.1 < hi) := by
          simp only [Bool.not_eq_true', Bool.and_eq_false_iff, decide_eq_false_iff_not] at hp
          omega
        rw [if_pos rfl, if_neg this, if_pos rfl]
      · rw [if_neg hk, if_neg hk]
    · rename_i hp
      rw [ih, Memory.read_cons]
      have : lo ≤ c.1 ∧ c.1 < hi := by simpa using hp
      by_cases hk : c.1 = k
      · subst hk; rw [if_pos this, if_pos this]
      · rw [if_neg hk]

end Sys2Proof.Machine
end

