-- ==== Sys2Proof/Laws/Sent.lean ====
section
/-! SUPPORT. What has been sent stays sent, whatever the rings' bookkeeping does next; and the end of a command, or of a
packet that is never admitted, sends its completion record. -/

namespace Sys2Proof.Machine

variable {s t : State} {x : Emit}

/-! ### What is sent stays sent -/

theorem sends_of_eq (h1 : t.out = s.out) (h2 : t.postQ = s.postQ) (h : s.sends x) : t.sends x := by
  unfold State.sends at *
  rwa [h1, h2]

theorem emit_sends (e : Emit) (h : s.sends x) : (s.emit e).sends x :=
  h.imp (List.mem_cons_of_mem _) id

theorem emit_sent (s : State) (e : Emit) : (s.emit e).sends e := .inl (List.mem_cons_self ..)

theorem post_sends (e : Emit) (c src : Option (Nat × Nat)) (h : s.sends x) : (s.post e c src).sends x := by
  have hq : ∀ p : Posted, s.sends x → ({ s.leaveL1 with postQ := s.leaveL1.postQ ++ [p] } : State).sends x := by
    intro p h
    refine h.imp id (fun h => ?_)
    simp only [List.map_append, List.mem_append]
    exact .inl h
  unfold State.post
  dsimp only
  split
  · exact emit_sends e h
  · exact hq _ h
  · split
    · exact emit_sends e h
    · exact hq _ h

/-- A posted write is sent, or held for want of credit. -/
theorem post_sent (s : State) (e : Emit) (c src : Option (Nat × Nat)) : (s.post e c src).sends e := by
  have hq : ∀ t : State, ({ t with postQ := t.postQ ++ [({ e := e, credit := c, src := src } : Posted)] } : State).sends e := by
    intro t
    right
    simp
  unfold State.post
  dsimp only
  split
  · exact emit_sent _ e
  · exact hq _
  · split
    · exact .inl (List.mem_cons_self ..)
    · exact hq _

theorem foldl_sends {α : Type} (l : List α) (f : State → α → State) (k : ∀ s a, s.sends x → (f s a).sends x)
    (h : s.sends x) : (l.foldl f s).sends x := by
  induction l generalizing s with
  | nil => exact h
  | cons a l ih => exact ih (k s a h)

theorem postWrite_sends (f : Nat) (a : DWord) (b : List Byte) (r : Bool) (c src : Option (Nat × Nat)) (h : s.sends x) :
    (s.postWrite f a b r c src).sends x := by
  unfold State.postWrite
  exact foldl_sends _ _ (fun _ (e : Emit × Option (Nat × Nat)) k => post_sends e.1 e.2 src k) h

theorem issueRead_sends (f : Nat) (a : DWord) (n : Nat) (h : s.sends x) : (s.issueRead f a n).sends x := by
  unfold State.issueRead
  exact foldl_sends _ (fun t (r : Nat × Nat) => t.leaveL1.emit (.read f (a + BitVec.ofNat 64 r.1) r.2)) (fun _ _ k => emit_sends _ k) h

theorem signal_sends (f e : Nat) (h : s.sends x) : (s.signal f e).sends x := by
  unfold State.signal
  split
  · exact h
  · split
    · exact h
    · exact post_sends _ _ _ h

theorem devVec_sends (k : Nat) (h : s.sends x) : (s.devVec k).sends x := by
  unfold State.devVec
  split
  · exact h
  · dsimp only
    split
    · exact h
    · split
      · exact emit_sends (s := { s with hif := _ }) .pme h
      · exact signal_sends (s := { s with hif := _ }) 0 k h

theorem vlog_sends (kind action rid func ring : Nat) (hdr : BitVec 128) (h : s.sends x) :
    (s.vlog kind action rid func ring hdr).sends x := by
  unfold State.vlog
  exact devVec_sends (s := { s with hif := _ }) 2 h

theorem updRing_sends (g : Nat) (f : Ring → Ring) (h : s.sends x) : (s.updRing g f).sends x := h

theorem signalRing_sends (g : Nat) (h : s.sends x) : (s.signalRing g).sends x :=
  signal_sends _ _ (updRing_sends g _ h)

theorem ite_signal_sends (b : Bool) (g : Nat) (h : s.sends x) : (if b then s.signalRing g else s).sends x := by
  split
  · exact signalRing_sends g h
  · exact h

theorem dropResults_sends (c : Option Nat) (g : Nat) (h : s.sends x) : (s.dropResults c g).sends x := by
  unfold State.dropResults
  dsimp only
  split
  · exact vlog_sends _ _ _ _ _ _ h
  · split
    · exact h
    · exact vlog_sends (s := { s with dropped := _ }) _ _ _ _ _ _ h

theorem writeRecord_sends (g tag op : Nat) (inList irqNow detached : Bool) (cid : Option Nat) (start evals skipped : Nat) (e : End)
    (h : s.sends x) : (s.writeRecord g tag op inList irqNow detached cid start evals skipped e).sends x := by
  unfold State.writeRecord
  dsimp only
  split
  · exact h
  · split
    · exact dropResults_sends _ _ h
    · exact ite_signal_sends _ g (updRing_sends g _ (post_sends _ _ _ h))

theorem countEnd_sends (k : Nat) (h : s.sends x) : (s.countEnd k).sends x := h

theorem ringIdle_sends (g : Nat) (h : s.sends x) : (s.ringIdle g).sends x := by
  unfold State.ringIdle
  dsimp only
  split <;> exact h

theorem weightEvent_sends (y : Cmd) (h : s.sends x) : (s.weightEvent y).sends x := by
  unfold State.weightEvent
  split
  · exact devVec_sends 7 h
  · exact h

theorem noteLifecycle_sends (p : List Byte) (e : End) (h : s.sends x) : (s.noteLifecycle p e).sends x := by
  unfold State.noteLifecycle
  split <;> exact h

theorem endCmd_sends (c : Nat) (e : End) (h : s.sends x) : (s.endCmd c e).sends x := by
  unfold State.endCmd
  split
  · exact h
  · split
    · exact h
    · exact weightEvent_sends _ (ringIdle_sends _ (writeRecord_sends _ _ _ _ _ _ _ _ _ _ _
        (countEnd_sends _ (updRing_sends (s := { s with cmds := _ }) _ _ h))))

theorem closeLists_sends (n : Nat) (h : s.sends x) : (State.closeLists n s).sends x := by
  induction n generalizing s with
  | zero => exact h
  | succ n ih =>
    unfold State.closeLists
    split
    · exact h
    · exact ih (endCmd_sends _ _ h)

theorem wpeIdle_sends (h : s.sends x) : s.wpeIdle.sends x := by
  unfold State.wpeIdle
  split <;> exact h

theorem closeSessions_sends (n : Nat) (h : s.sends x) : (State.closeSessions n s).sends x := by
  induction n generalizing s with
  | zero => exact h
  | succ n ih =>
    unfold State.closeSessions
    split
    · exact h
    · exact ih (wpeIdle_sends (endCmd_sends (s := { s with wpe := _ }) _ _ h))

theorem rejectPacket_sends (g : Nat) (p : List Byte) (d n : Nat) (e : End) (h : s.sends x) :
    (s.rejectPacket g p d n e).sends x :=
  writeRecord_sends _ _ _ _ _ _ _ _ _ _ _ (updRing_sends g _ (countEnd_sends _ (noteLifecycle_sends p e h)))

theorem rejectHead_sends {s' : State} (g : Nat) (k : s.rejectHead g = some s') (h : s.sends x) : s'.sends x := by
  unfold State.rejectHead at k
  split at k
  · cases k
  · dsimp only at k
    split at k
    · obtain ⟨e, _, rfl⟩ := Option.map_eq_some_iff.mp k
      exact rejectPacket_sends g _ _ _ e h
    · cases k

theorem settleLoop_sends (n g : Nat) (h : s.sends x) : (State.settleLoop n s g).sends x := by
  induction n generalizing s with
  | zero => exact h
  | succ n ih =>
    unfold State.settleLoop
    split
    · exact h
    · rename_i s' k
      exact ih (rejectHead_sends g k h)

theorem fetchRing_sends (g : Nat) (h : s.sends x) : (s.fetchRing g).sends x := by
  unfold State.fetchRing
  dsimp only
  exact issueRead_sends (s := { s.updRing g _ with fetches := _ }) _ _ _ h

theorem fetchAll_sends (n : Nat) (h : s.sends x) : (State.fetchAll n s).sends x := by
  induction n generalizing s with
  | zero => exact h
  | succ n ih =>
    unfold State.fetchAll
    split
    · exact h
    · exact ih (fetchRing_sends _ h)

theorem fetchList_sends (g : Nat) (h : s.sends x) : (s.fetchList g).sends x := by
  unfold State.fetchList
  split
  · exact h
  · split
    · exact h
    · exact issueRead_sends _ _ _ (updRing_sends g _ h)

theorem fetchWork_sends (h : s.sends x) : s.fetchWork.sends x :=
  fetchAll_sends _ (foldl_sends s.rings (fun t e => t.fetchList e.1) (fun _ e k => fetchList_sends e.1 k) h)

theorem settle_sends (g : Nat) (h : s.sends x) : (s.settle g).sends x :=
  fetchWork_sends (closeLists_sends 3 (settleLoop_sends _ g h))

theorem finish_sends (c : Nat) (e : End) (h : s.sends x) : (s.finish c e).sends x := by
  unfold State.finish
  split
  · exact h
  · exact settle_sends _ (closeSessions_sends 4 (closeLists_sends 3 (endCmd_sends c e h)))

theorem dmaWrite_sends (c : Nat) (a : DWord) (b : List Byte) (r : Bool) (h : s.sends x) : (s.dmaWrite c a b r).sends x := by
  unfold State.dmaWrite
  split
  · exact h
  · split
    · exact dropResults_sends _ _ h
    · exact postWrite_sends _ _ _ _ _ _ h

theorem accept_sends (g : Nat) (p : List Byte) (b : Body) (d : Option Nat) (w : Nat) (h : s.sends x) :
    (s.accept g p b d w).sends x := h

/-! ### Records -/

@[simp] theorem updRing_ring (s : State) (g h : Nat) (f : Ring → Ring) :
    (s.updRing g f).ring h = if h = g then f (s.ring g) else s.ring h := by
  simp [State.updRing, State.ring]

/-- The fields of a ring that its records show. -/
def Ring.recordView (r : Ring) : DWord × Nat × Bool × Nat × Nat × Bool × Bool :=
  (r.cqBase, r.cqTail, r.phase, r.engine, r.cls, r.halted, r.en)

theorem consume_recordView (r : Ring) (n : Nat) : (r.consume n).recordView = r.recordView := by
  unfold Ring.consume
  split <;> rfl

/-- CONTENTION depends on classes of rings and their owners alone. -/
theorem contention_congr (h1 : ∀ g, (t.ring g).cls = (s.ring g).cls) (h2 : t.hif.owner = s.hif.owner) (g : Nat) (e : End) :
    t.contention g e = s.contention g e := by
  have hf : ∀ g, t.ringFunc g = s.ringFunc g := fun g => by simp [State.ringFunc, h2]
  have hl : ∀ g, t.ringLocal g = s.ringLocal g := fun g => by simp [State.ringLocal, hf]
  simp only [State.contention, hf, hl, h1]

/-- A record that is not discarded is sent. -/
theorem writeRecord_sent (s : State) (g tag op : Nat) (inList irqNow : Bool) (cid : Option Nat) (start evals skipped : Nat) (e : End)
    (hh : (s.ring g).halted = false) (hr : s.pins.role ≠ .member) (hm : s.mayMaster (s.ringFunc g) = true) :
    (s.writeRecord g tag op inList irqNow false cid start evals skipped e).sends (.record g (s.ringFunc g)
      ((s.ring g).cqBase + BitVec.ofNat 64 (32 * (s.ring g).cqTail))
      (recordBytes tag e.status (recordFlags (s.ring g).phase (s.ring g).engine inList) (s.ringLocal g) op start s.now48
        e.late (s.contention g e) evals skipped e.detail)) := by
  unfold State.writeRecord
  dsimp only
  rw [if_neg (by simp [hh, hr]), if_neg (by simp [hm])]
  exact ite_signal_sends _ g (updRing_sends g _ (post_sent _ _ _ _))

/-- A record written in a state that agrees with `s` on what records show is a record of `s`. -/
theorem recorded_of_view {u : State} {g tag op start evals skipped : Nat} {inList irqNow : Bool} {cid : Option Nat} {e : End}
    (h1 : ∀ k, (u.ring k).recordView = (s.ring k).recordView) (h2 : u.hif = s.hif) (h3 : u.pins = s.pins) (h4 : u.tmr = s.tmr)
    (hh : (s.ring g).halted = false) (hr : s.pins.role ≠ .member) (hm : s.mayMaster (s.ringFunc g) = true)
    (h : ∀ x, (u.writeRecord g tag op inList irqNow false cid start evals skipped e).sends x → t.sends x) :
    Recorded s t g tag op inList e := by
  have hf : ∀ g, u.ringFunc g = s.ringFunc g := fun g => by simp [State.ringFunc, h2]
  have hl : ∀ g, u.ringLocal g = s.ringLocal g := fun g => by simp [State.ringLocal, hf]
  have hn : u.now48 = s.now48 := by simp [State.now48, h4]
  have hc := contention_congr (s := s) (t := u) (fun k => by
    have := h1 k; simp only [Ring.recordView, Prod.mk.injEq] at this; exact this.2.2.2.2.1) (by rw [h2]) g e
  have hv := h1 g
  simp only [Ring.recordView, Prod.mk.injEq] at hv
  obtain ⟨v1, v2, v3, v4, v5, v6, v7⟩ := hv
  have := h _ (writeRecord_sent u g tag op inList irqNow cid start evals skipped e (by rw [v6]; exact hh) (by rw [h3]; exact hr)
    (by rw [hf]; simpa [State.mayMaster, h2] using hm))
  rw [hf, hl, hn, hc, v1, v2, v3, v4] at this
  exact ⟨start, evals, skipped, this⟩

/-- The record of a packet that is never admitted. -/
theorem rejectPacket_recorded (s : State) (g : Nat) (p : List Byte) (d n : Nat) (e : End)
    (hh : (s.ring g).halted = false) (hr : s.pins.role ≠ .member) (hm : s.mayMaster (s.ringFunc g) = true) :
    Recorded s (s.rejectPacket g p d n e) g (pktTag p) (pktOp p) (decide (0 < d)) e := by
  have hn : ∀ k, (s.noteLifecycle p e).ring k = s.ring k ∧ (s.noteLifecycle p e).hif = s.hif ∧
      (s.noteLifecycle p e).pins = s.pins ∧ (s.noteLifecycle p e).tmr = s.tmr := by
    intro k
    unfold State.noteLifecycle
    split <;> exact ⟨rfl, rfl, rfl, rfl⟩
  refine recorded_of_view (u := ((s.noteLifecycle p e).countEnd e.status).updRing g (fun r => r.consume n)) (cid := none) ?_
    (hn g).2.1 (hn g).2.2.1 (hn g).2.2.2 hh hr hm (fun _ h => h)
  intro k
  have hk : ((s.noteLifecycle p e).countEnd e.status).ring k = s.ring k := (hn k).1
  rw [updRing_ring]
  split
  · rename_i h
    subst h
    rw [hk]
    exact consume_recordView _ n
  · rw [hk]

theorem Recorded.mono {u : State} {g tag op : Nat} {inList : Bool} {e : End} (h : Recorded s t g tag op inList e)
    (k : ∀ x, t.sends x → u.sends x) : Recorded s u g tag op inList e := by
  obtain ⟨a, b, c, h⟩ := h
  exact ⟨a, b, c, k _ h⟩

/-- What `ready` says of the ring: enabled, not halted, with that packet at its head. -/
theorem ready_head {g op : Nat} {b : Bool} {p : List Byte} (h : s.ready g op b = some p) :
    (s.ring g).en = true ∧ (s.ring g).halted = false ∧ pktOp p = op ∧ s.headFault g p = none ∧ s.enginesRun = true ∧
      ∃ d, (s.ring g).headPacket = some (p, d) := by
  unfold State.ready at h
  split at h
  · cases h
  · rename_i q d hq
    dsimp only at h
    split at h
    · rename_i hc
      cases h
      simp only [Bool.and_eq_true, beq_iff_eq, Option.isNone_iff_eq_none] at hc
      have he : (s.ring g).en = true ∧ (s.ring g).halted = false := by
        unfold Ring.headPacket at hq
        split at hq
        · cases hq
        · rename_i hn; simpa using hn
      exact ⟨he.1, he.2, hc.1.1.1.1.1.1, hc.1.1.2, hc.1.1.1.1.1.2, d, hq⟩
    · cases h

theorem decide_lists_length (r : Ring) : decide (0 < r.lists.length) = !r.lists.isEmpty := by
  cases r.lists <;> simp

/-- The head packet refused: its record, and nothing but the ledger. -/
theorem refuse_recorded {g op : Nat} {b : Bool} {p : List Byte} (e : End) (h : s.ready g op b = some p)
    (hm : Reporting s g) : HeadRecorded s (s.refuse g p e) g p e := by
  have := rejectPacket_recorded s g p (s.ring g).lists.length (pktEntries p) e (ready_head h).2.1 hm.2.1 hm.1
  rw [decide_lists_length] at this
  exact this.mono (fun _ k => settle_sends g k)

/-! ### Commands in flight -/

/-- The command admitted last is found under its number. -/
theorem cmd?_append (s : State) (c : Cmd) (h : CidsFresh s) (hc : c.cid = s.nextCid) :
    (s.cmds ++ [c]).find? (fun y => y.cid == s.nextCid) = some c := by
  rw [List.find?_append]
  have : s.cmds.find? (fun y => y.cid == s.nextCid) = none := by
    rw [List.find?_eq_none]
    intro y hy
    have := h y hy
    simp only [beq_iff_eq]
    omega
  simp [this, hc]

theorem countEnd_ring (s : State) (k g : Nat) : (s.countEnd k).ring g = s.ring g := rfl

/-- A command without a deadline ends as it ends (R353). -/
@[simp] theorem lateEnd_none (s : State) (y : Cmd) (e : End) (h : y.deadline = none) : s.lateEnd y e = e := by
  simp [State.lateEnd, h]

/-- An admitted command that no pair mirrors ends: it is gone, and its record is sent. -/
theorem endCmd_recorded (s : State) (y : Cmd) (e : End) (hy : s.cmd? y.cid = some y) (hmir : y.mir = [])
    (hd : y.detached = false) (hh : (s.ring y.ring).halted = false) (hr : s.pins.role ≠ .member)
    (hm : s.mayMaster (s.ringFunc y.ring) = true) :
    Recorded s (s.endCmd y.cid e) y.ring y.tag y.opcode y.parent.isSome (s.lateEnd y e) := by
  have hmh : s.mirrorHolds y = false := by simp [State.mirrorHolds, hmir]
  refine recorded_of_view (u := ((({ s with cmds := s.cmds.filter (fun z => z.cid != y.cid) } : State).updRing y.ring
    (fun r => { r with reserved := r.reserved - 1 })).countEnd (s.lateEnd y e).status)) (start := y.start) (evals := y.evals)
    (cid := some y.cid) (skipped := y.skipped) (irqNow := y.irqNow) ?_ rfl rfl rfl hh hr hm ?_
  · intro k
    rw [countEnd_ring, updRing_ring]
    split
    · rename_i hk; subst hk; rfl
    · rfl
  · intro x hx
    unfold State.endCmd
    rw [hy]
    simp only [hmh, hd]
    exact weightEvent_sends _ (ringIdle_sends _ hx)

/-- The end of an admitted command that no pair mirrors sends its record. -/
theorem finish_recorded (s : State) (y : Cmd) (e : End) (hy : s.cmd? y.cid = some y) (hmir : y.mir = [])
    (hd : y.detached = false) (hh : (s.ring y.ring).halted = false) (hm : Reporting s y.ring) :
    Recorded s (s.finish y.cid e) y.ring y.tag y.opcode y.parent.isSome (s.lateEnd y e) := by
  refine (endCmd_recorded s y e hy hmir hd hh hm.2.1 hm.1).mono (fun x hx => ?_)
  unfold State.finish
  rw [hy]
  exact settle_sends _ (closeSessions_sends 4 (closeLists_sends 3 hx))

/-- What admission does to its ring, as records show it: nothing. -/
theorem accept_recordView (s : State) (g : Nat) (p : List Byte) (b : Body) (d : Option Nat) (w k : Nat) :
    ((s.accept g p b d w).ring k).recordView = (s.ring k).recordView := by
  unfold State.accept
  dsimp only
  rw [updRing_ring]
  split
  · rename_i hk
    subst hk
    exact consume_recordView _ _
  · rfl

/-- A packet admitted and, after `k`, ended: its record is that of the head packet before, where `k` leaves the new command
as admitted, and the host interface, the rings' records and the time as they were. -/
theorem completeWith_recorded {g op : Nat} {b : Bool} {p : List Byte} (k : State → State) (e : End) (h : s.ready g op b = some p)
    (hm : Reporting s g) (hc : ∀ u, (k u).cmds = u.cmds) (hr : ∀ u n, ((k u).ring n).recordView = (u.ring n).recordView)
    (hh : ∀ u, (k u).hif = u.hif) (hp : ∀ u, (k u).pins = u.pins) (ht : ∀ u, (k u).tmr = u.tmr) :
    HeadRecorded s (s.completeWith g p k e) g p e := by
  let y : Cmd := { cid := s.nextCid, ring := g, tag := pktTag p, opcode := pktOp p, irqNow := pktIrqNow p,
                   parent := (s.ring g).lists.head?.map (fun l => l.cid), start := s.now48, deadline := none, evals := 0,
                   skipped := 0, power := 0, detached := false, mir := [], held := none, body := .plain }
  let u := k (s.accept g p .plain none 0)
  have hcmd : u.cmd? y.cid = some y := by
    show (k (s.accept g p .plain none 0)).cmds.find? _ = _
    rw [hc]
    exact cmd?_append s y hm.2.2 rfl
  have hv : ∀ n, (u.ring n).recordView = (s.ring n).recordView := fun n =>
    (hr _ n).trans (accept_recordView s g p .plain none 0 n)
  have hif : u.hif = s.hif := (hh _).trans rfl
  have hpins : u.pins = s.pins := (hp _).trans rfl
  have hf : ∀ g, u.ringFunc g = s.ringFunc g := fun g => by simp [State.ringFunc, hif]
  have hmh : u.mirrorHolds y = false := by simp [State.mirrorHolds, y]
  have hpar : y.parent.isSome = !(s.ring g).lists.isEmpty := by
    show (Option.map _ (s.ring g).lists.head?).isSome = _
    cases (s.ring g).lists <;> rfl
  unfold HeadRecorded
  rw [← hpar]
  refine recorded_of_view (u := ((({ u with cmds := u.cmds.filter (fun z => z.cid != y.cid) } : State).updRing g
    (fun r => { r with reserved := r.reserved - 1 })).countEnd e.status)) (start := y.start) (evals := 0) (skipped := 0)
    (cid := some y.cid) (irqNow := y.irqNow) ?_ hif hpins ((ht _).trans rfl) (ready_head h).2.1 hm.2.1 hm.1 ?_
  · intro n
    rw [← hv n]
    rw [countEnd_ring, updRing_ring]
    split
    · rename_i hk; subst hk; rfl
    · rfl
  · intro x hx
    show (u.finish y.cid e).sends x
    unfold State.finish
    rw [hcmd]
    refine settle_sends _ (closeSessions_sends 4 (closeLists_sends 3 ?_))
    unfold State.endCmd
    rw [hcmd]
    simp only [hmh]
    rw [lateEnd_none u y e rfl]
    exact weightEvent_sends _ (ringIdle_sends _ hx)

/-- A packet admitted and ended at once: its record, and nothing but the ledger. -/
theorem complete_recorded {g op : Nat} {b : Bool} {p : List Byte} (e : End) (h : s.ready g op b = some p)
    (hm : Reporting s g) : HeadRecorded s (s.complete g p e) g p e :=
  completeWith_recorded id e h hm (fun _ => rfl) (fun _ _ => rfl) (fun _ => rfl) (fun _ => rfl) (fun _ => rfl)

end Sys2Proof.Machine
end

