-- ==== Sys2Proof/Tests/Slice0.lean ====
section
/-! SUPPORT. The model's own tests: small states built from reset, terms that WellFormed refuses, and for every statement
with hypotheses a theorem that shows them met together. -/

namespace Sys2Proof.Tests

set_option Elab.async false

open Sys2Proof Sys2Proof.Machine

/-- memory space, bus mastering and MSI-X on -/
def up : State := { State.reset with
  hif := { State.reset.hif with mse := true, vfMse := true, bme := List.replicate 16 true, msixEn := List.replicate 16 true } }
def inState (d : DevState) (s : State) : State := { s with pwr := { s.pwr with dev := d } }
def off : State := { State.reset with pwr := { State.reset.pwr with dev := .off, railGood := 0 } }
def island : State := { State.reset with pwr := { State.reset.pwr with dev := .off, railGood := 1 }, pins := { State.reset.pins with latched := false } }
def sentry : State := { State.reset with pwr := { State.reset.pwr with dev := .sentry, railGood := 1 }, pins := { State.reset.pins with perstHigh := false } }
def railsUp : State := { sentry with pwr := { sentry.pwr with railGood := 0x3F } }
def hot (b : Bool) (s : State) : State := { s with pwr := { s.pwr with hot := b } }

def packet (op flags tag deadline : Nat) (ps : List (Nat × Nat × Nat)) : List Byte :=
  ps.foldl (fun l x => l.take x.1 ++ leBytes x.2.1 x.2.2 ++ l.drop (x.1 + x.2.1))
    (leBytes 1 op ++ leBytes 1 flags ++ leBytes 2 tag ++ leBytes 1 1 ++ leBytes 1 0 ++ leBytes 6 deadline ++ List.replicate 52 0)
/-- ring g of an engine and class, enabled, with the packets fetched -/
def ring (engine cls : Nat) (ps : List (List Byte)) : Ring :=
  { Ring.initial with en := true, active := true, phase := true, log2 := 6, engine := engine, cls := cls, places := ps
                      cqBase := 0x8000, sqBase := 0x4000, cqTail := 3, cqHead := 1, sqHead := ps.length, sqTail := ps.length }
def withRing (g : Nat) (r : Ring) (s : State) : State := { s with rings := Tab.set s.rings g r }
/-- up, with one packet at the head of ring 0 -/
def head (engine : Nat) (p : List Byte) : State := withRing 0 (ring engine 2 [p]) up
def cmd (cid ring opcode : Nat) (b : Body) : Cmd :=
  { cid := cid, ring := ring, tag := 9, opcode := opcode, irqNow := false, parent := none, start := 0, deadline := none
    evals := 0, skipped := 0, power := 0, detached := false, mir := [], held := none, body := b }
/-- up, with ring 0 enabled and a command admitted from it -/
def busy (engine : Nat) (c : Cmd) : State :=
  { withRing 0 { ring engine 2 [] with reserved := 1 } up with cmds := [c], nextCid := c.cid + 1 }

/-! ### Witness states, part 02 -/
def s02 : List State :=
  [up, up, off, island, sentry, railsUp,
   hot true up,
   { railsUp with pins := { railsUp.pins with boot := .hold } },
   { railsUp with tmr := { railsUp.tmr with epochPending := true } },
   { up with pwr := { up.pwr with railGood := 0x1F } },
   { up with pwr := { up.pwr with railGood := 0x05 } },
   inState .doze up, inState .economy up, inState .dry up, inState .fault up,
   { inState .dry up with bist := { up.bist with dry := some .done }, pins := { up.pins with dryDone := true } },
   { up with pwr := { up.pwr with start := some { edgeAt := 0, kind := .full, reason := 1, result := .pass, dryAge := 0, booted := true, held := false } } },
   { up with pwr := { up.pwr with start := some { edgeAt := 0, kind := .full, reason := 1, result := .bootFail, dryAge := 0, booted := false, held := false } } },
   { up with pwr := { up.pwr with start := some { edgeAt := 0, kind := .full, reason := 1, result := .pass, dryAge := 0, booted := true, held := true } } },
   { up with pwr := { up.pwr with dozeEntering := true } },
   { up with pwr := { up.pwr with dozeEntering := true, autoDoze := true, reqResult := .pending } },
   { inState .doze up with pwr := { up.pwr with dev := .doze, dozeExit := some .run } },
   { inState .doze up with pwr := { up.pwr with dev := .doze, dozeExit := some .economy, dryAfterExit := true } },
   { up with pwr := { up.pwr with fclkTo := some .economy } },
   { inState .economy up with pwr := { up.pwr with dev := .economy, fclkTo := some .run } },
   { up with pwr := { up.pwr with terraces := up.pwr.terraces.set 2 (.charging 0), stageQ := [5] } },
   { up with pwr := { up.pwr with terraces := up.pwr.terraces.set 2 .good } },
   { up with pwr := { up.pwr with periph := [(3, .good false), (64, .waking)] } },
   head 4 (packet 0x57 0 1 0 []),
   { up with hif := { up.hif with d3hot := true } },
   { up with pins := { up.pins with role := .member } },
   { inState .dry up with bist := { up.bist with dry := some .drain } },
   { inState .dry up with bist := { up.bist with dry := some .selfTest } },
   { inState .dry up with bist := { up.bist with dry := some .committed } },
   { up with casc := { up.casc with portDn := { up.casc.portDn with state := .up } } },
   { up with graphs := [] , pwr := { up.pwr with autoDoze := true } },
   busy 4 (cmd 7 0 0x03 (.waitFlag 5 true 0))]

/-! ### Witness states, part 03 -/
def dbl : State := withRing 3 { ring 0 2 [] with sqTail := 5, sqHead := 5, irqEn := true, modTimer := 7, unsigAt := some 0, unsig := 2 }
  { up with tmr := { up.tmr with uptime := 100, copy := 100 }, hif := { up.hif with owner := up.hif.owner.set 1 2, vfEn := true, msix := [(16 + 3, { Msix.initial with masked := false })] } }
def s03 : List State :=
  [up, dbl, inState .economy dbl,
   withRing 3 { Ring.initial with sqBase := 0x5000, cqBase := 0x6000 } up,
   withRing 64 { Ring.initial with sqBase := 0x5000 } dbl,
   withRing 3 { ring 0 2 [] with fetching := 2, sqHead := 2, sqTail := 2 } up,
   withRing 3 { ring 0 2 [] with fetching := 2, sqHead := 2, sqTail := 2, irqEn := true } dbl,
   withRing 3 { ring 0 2 [] with lists := [{ cid := 7, addr := 0x9000, entries := 2, issued := true, fetched := false, rest := [], consumed := 0 }] }
     { up with cmds := [cmd 7 3 0x05 (.listCall 2 none)], nextCid := 8 },
   { dbl with hif := { dbl.hif with msix := [(16 + 3, { Msix.initial with masked := true })] } },
   head 0 (packet 0 0 5 0 []), head 1 (packet 0 1 5 0 []), head 0 (packet 1 0 5 0 []),
   head 2 (packet 4 0 5 0 [(0x10, 1, 40), (0x11, 1, 1)]), head 2 (packet 4 0 5 0 [(0x10, 1, 255)]),
   head 2 (packet 2 0 5 0 [(0x10, 8, 0x12340)]), head 2 (packet 2 0 5 0 []), head 3 (packet 6 0 5 0 [(0x10, 8, 77)]),
   head 3 (packet 3 0 5 0 [(0x10, 1, 40), (0x11, 1, 0)]), head 3 (packet 3 0 5 0 [(0x10, 1, 40), (0x11, 1, 1)]),
   head 3 (packet 3 0 5 1000 [(0x10, 1, 40), (0x11, 1, 1)]),
   busy 3 (cmd 7 0 0x03 (.waitFlag 5 false 0)), busy 3 (cmd 7 0 0x03 (.waitFlag 5 true 0)),
   { busy 3 (cmd 7 0 0x03 (.waitFlag 5 true 9)) with tmr := { up.tmr with uptime := 60, copy := 60 } },
   head 3 (packet 5 0 5 0 [(0x10, 8, 0x12340), (0x18, 4, 3)]),
   { up with flags := 0x123456789ABCDEF0123456789 }, State.reset]

/-! ### Witness states, part 04 -/
def master : State := { up with pins := { up.pins with role := .master }, casc := { up.casc with
  route := [0, 1, 3, 3, 3, 3, 3, 3], length := 2, numbered := true, chain := up.casc.chain.set 1 { up.member 1 with state := 2 }, portDn := { up.casc.portDn with state := .up } } }
def memberS : State := { up with pins := { up.pins with role := .member }, casc := { up.casc with
  route := [2, 0, 3, 3, 3, 3, 3, 3], length := 2, numbered := true, device := 1, portUp := { up.casc.portUp with state := .up } } }
def svc : State := { up with lcs := { up.lcs with active := .manufacture } }
def s04 : List State :=
  [State.reset, up, { up with sys := { up.sys with lock := true } }, { up with snt := { up.snt with wr := 5, rd := 2, lost := 3 } },
   { up with hif := { up.hif with vlogWr := 6, vlogRd := 1 } }, { up with hif := { up.hif with vfEn := true } },
   { up with tmr := { up.tmr with uptime := 0x500000007 }, slc := { up.slc with frame := some 0x500000007 } },
   { up with slc := { up.slc with curSrc := 1 } }, master, { master with casc := { master.casc with rgo := some (0x82000020, 0) } },
   { master with casc := { master.casc with rgo := some (0x92000020, 0) } }, memberS, svc, { svc with maintOut := 16 },
   { up with pins := { up.pins with alertLow := true } }, inState .doze up, off, sentry]

/-! ### Witness states, part 05 -/
def place0 : Placement :=
  { layer := 0, signedIn := false, feature := false, offIn := false, offOut := false, dev := 0, ter := 0, gang := 1, lane := 0
    slots := [1, 0x3F, 0x3F, 0x3F], fanin := 64, cols := 64, colBase := 0, group := 0, p := 4, q := 4, scale := 1, thetaZ := 3, biasRows := 0
    step := 0, inSlot := 0, outSlot := 1, edgeFirst := 0, edgeCount := 1, rf := 0, laneB := 0xFF, wCycles := 10, doneRun := 10
    doneEco := 20, tags := [7] }
def place1 : Placement := { place0 with layer := 1, slots := [2, 0x3F, 0x3F, 0x3F], inSlot := 2, outSlot := 3, edgeFirst := 1, thetaZ := 2, step := 1, q := 3 }
def buf0 : Buffer := { mask := [false, false], zmap := [true, true, true, true], complete := false, poisoned := false, runSeq := 0 }
def slot (n : Nat) (o : Bool) : Slot := { num := n, dev := 0, ter := 0, isOut := o, bank := 2, line0 := 4 * n, lines := 1, bufs := [buf0, buf0] }
def g0 : Graph :=
  { handle := 5, owner := 0, raw := [], phys := [[1], [2]], slots := [slot 0 false, slot 1 true, slot 2 false, slot 3 true]
    cgd := { devices := 1, wcRun := 100, wcEco := 200, energy := 10, imageId := 0, places := [place0, place1]
             edges := [{ src := 0, colFirst := 0, colCount := 64, toPort := false, delay := false, dst := 2, halfOff := 0, hops := 1, allow := 5 },
                       { src := 1, colFirst := 0, colCount := 64, toPort := true, delay := false, dst := 1, halfOff := 0, hops := 1, allow := 5 }]
             slots := [], ports := [{ kind := 0, unit := 0, slot := 0, bytes := 64 }, { kind := 1, unit := 0, slot := 0, bytes := 64 }] }
    score := [{ nextIn := 0, outCredits := 2, nextOut := 0, runSeq := 0 }, { nextIn := 0, outCredits := 2, nextOut := 0, runSeq := 0 }]
    credit := [2, 2, 2, 2], theta := [3, 2], exact := false, nextSeq := 3, unload := none, frame := some (10, 20), bound := false, loadRing := 0, ports := [] }
def gs (g : Graph) (s : State) : State := { s with graphs := [g], pwr := { s.pwr with terraces := s.pwr.terraces.map (fun _ => .good) } }
def loaded : State := gs g0 up
def pk (typ vc flits : Nat) : Packet :=
  { typ := typ, vc := vc, flits := flits, dstDev := 0, dstTer := 0, dstEngine := false, srcDev := 0, srcTer := 0, srcEngine := true, slot := 0
    buf := 1, offset := 0, runSeq := 3, graph := 5, arg := 0, data := (List.range (32 * flits)).map (BitVec.ofNat 8), damage := .none
    errTer := 0, errPort := 2 }
def withPk (p : Packet) (s : State) : State := { s with rill := [pk 0x77 0 1, p] }
def fwd0 : Forward := { handle := 5, place := 0, runSeq := 3, buf := 1, edges := [0] }
def s05 : List State :=
  [ withPk (pk 1 0 1) loaded, withPk (pk 1 0 2) loaded, withPk (pk 2 0 1) loaded, withPk { pk 1 0 1 with damage := .header } loaded,
    withPk { pk 2 0 1 with data := [1] } loaded, withPk (pk 3 0 0) loaded, withPk { pk 3 0 0 with slot := 2 } loaded,
    withPk { pk 0x12 1 2 with dstEngine := true } { loaded with readSpace := [{ dev := 0, ter := 0, slot := 0, buf := 1, offset := 0, dest := 0 }] },
    withPk { pk 0x10 1 0 with arg := 1 } loaded, withPk { pk 0x11 1 0 with arg := 1 } loaded, withPk { pk 0x11 1 0 with arg := 40 } loaded,
    withPk { pk 0x23 2 0 with arg := 0x115 } loaded, withPk { pk 0x23 2 0 with arg := 0x015 } loaded,
    withPk { pk 0x20 2 1 with graph := 1, buf := 2, offset := 8, runSeq := 4 } (gs g0 svc), withPk { pk 0x21 2 0 with graph := 0, buf := 0, runSeq := 24 } (gs g0 svc),
    withPk { pk 0x22 2 1 with dstEngine := true, buf := 0 } { loaded with maintOut := 3 },
    { withPk (pk 1 0 1) loaded with ters := loaded.ters.modify 0 (fun x => { x with moatPorts := 15, moatLocal := true }) },
    { loaded with fwds := [fwd0] }, { loaded with fwds := [{ fwd0 with edges := [0, 1] }, { fwd0 with place := 1, edges := [1] }] },
    { loaded with fwds := [{ fwd0 with place := 1, edges := [1] }] } ]

/-- a maintenance write of 16 bytes to a half-line -/
def maintPk (half : Nat) : Packet := { pk 0x20 2 1 with graph := 1, buf := 2, offset := 8, runSeq := half }

/-! ### Witness states, part 06 -/
def put (l : List Byte) (off n v : Nat) : List Byte := l.take off ++ leBytes n v ++ l.drop (off + n)
def build (n : Nat) (ps : List (Nat × Nat × Nat)) : List Byte := ps.foldl (fun l x => put l x.1 x.2.1 x.2.2) (List.replicate n 0)
def cgdBytes : List Byte :=
  let b := build 240 [(0, 4, 0x4447434B), (4, 2, 1), (8, 4, 240), (0x10, 1, 1), (0x12, 2, 1), (0x14, 2, 1), (0x16, 2, 2), (0x18, 2, 2),
    (0x1C, 4, 64), (0x20, 4, 160), (0x24, 4, 176), (0x28, 4, 208), (0x2C, 4, 1000000), (0x30, 4, 1000000), (0x34, 4, 10),
    (64 + 6, 1, 1), (64 + 7, 1, 0xFF), (64 + 8, 4, 0xFFFFFF01), (64 + 0xC, 2, 64), (64 + 0xE, 2, 64), (64 + 0x13, 1, 4), (64 + 0x14, 1, 4),
    (64 + 0x16, 1, 3), (64 + 0x18, 2, 10), (64 + 0x1C, 2, 1), (64 + 0x20, 1, 1), (64 + 0x21, 1, 1), (64 + 0x22, 1, 0xFF), (64 + 0x24, 4, 100000), (64 + 0x28, 4, 100000), (64 + 0x2C, 4, 200000), (64 + 0x30, 8, 7),
    (160 + 4, 2, 64), (160 + 6, 1, 1), (160 + 8, 2, 1),
    (176 + 3, 1, 2), (176 + 4, 1, 1), (176 + 5, 1, 0xFF), (192 + 2, 1, 1), (192 + 3, 1, 2), (192 + 4, 1, 1), (192 + 5, 1, 0xFF),
    (208 + 4, 4, 64), (224, 1, 1), (224 + 2, 2, 0xFFFF), (224 + 4, 4, 64)]
  put b 0xC 4 (cgdCrc b).toNat
def validBasin (n : Nat) (s : State) : State := s.updBasin n (fun b => { b with wstate := .valid, tag := 7 })
def loadCmd : Cmd := cmd 7 0 0x10 (.graphLoad 0x9000 240 false 0 0)
def loading : State := validBasin 1 (busy 1 loadCmd)
def packets (engine : Nat) (cls : Nat) (s : State) (ps : List (List Byte)) : List State := ps.map (fun p => withRing 0 (ring engine cls [p]) s)
def run0 : Run := { handle := 5, runSeq := 0, start := 7, bound := 9000, window := none, theta := [1, 1], exact := true, bufs := [(0, some 0x9000), (1, some 0xA000)], feeds := [], notBefore := 0, begun := false, doneP := [], doneT := [], fault := none, damaged := none, underrun := none, readPorts := [], lateCause := 0, faultRing := none, behind := none, parts := [] }
def staged : List Staged := [{ handle := 5, port := 0, addr := 0x9000 }, { handle := 5, port := 1, addr := 0xA000 }]
def sl (b : Bool) (s : State) : State := { s with staged := staged, slc := { s.slc with waiting := if b then [0] else [] , curSrc := 2, curPeriod := 20000, frame := some 2, frameAt := 0 } }
def withRun (r : Run) (s : State) : State := { withRing 0 { ring 1 2 [] with reserved := 1 } s with cmds := [cmd 7 0 0x12 (.run r)], nextCid := 8 }
def s06 : List State :=
  packets 1 2 loaded [packet 0x10 0 5 0 [(0x10, 8, 0x9000), (0x18, 4, 240)], packet 0x11 0 5 0 [(0x10, 2, 5)], packet 0x11 0 5 0 [(0x10, 2, 6)],
    packet 0x14 0 5 0 [(0x10, 2, 5), (0x12, 1, 0), (0x14, 4, 64), (0x18, 8, 0x9000)],
    packet 0x15 0 5 0 [(0x10, 2, 5), (0x12, 1, 1), (0x14, 4, 64), (0x18, 8, 0x9000)],
    packet 0x16 0 5 0 [(0x10, 2, 5), (0x12, 2, 1), (0x14, 1, 7)], packet 0x16 0 5 0 [(0x10, 2, 6), (0x12, 2, 1), (0x14, 1, 7)],
    packet 0x16 0 5 0 [(0x10, 2, 5), (0x12, 2, 4), (0x14, 1, 7)], packet 0x16 0 5 0 [(0x10, 2, 5), (0x12, 2, 1), (0x14, 1, 9)],
    packet 0x17 0 5 0 [(0x10, 2, 5), (0x12, 1, 1)], packet 0x17 0 5 0 [(0x10, 2, 6), (0x12, 1, 1)]] ++
  packets 1 2 { loaded with staged := List.replicate 16 { handle := 5, port := 0, addr := 0x77000 } }
    [packet 0x14 0 5 0 [(0x10, 2, 5), (0x12, 1, 0), (0x14, 4, 64), (0x18, 8, 0x9000)]] ++
  packets 1 2 (sl false loaded) [packet 0x12 0 5 0 [(0x10, 2, 5)]] ++ packets 1 0 (sl false loaded) [packet 0x13 0 5 3 [(0x10, 2, 5)]] ++
  packets 1 2 (sl true loaded) [packet 0x12 0 5 0 [(0x10, 2, 5)]] ++ packets 1 0 (sl true loaded) [packet 0x13 0 5 3 [(0x10, 2, 5)], packet 0x13 0 5 5 [(0x10, 2, 5)]] ++
  packets 1 2 (sl true (gs { g0 with frame := none } up)) [packet 0x12 0 5 0 [(0x10, 2, 5)]] ++
  packets 1 1 (sl true loaded) [packet 0x12 0 5 100000 [(0x10, 2, 5)]] ++
  [loading, gs { g0 with unload := some 7 } up, withRun run0 loaded, withRun run0 { loaded with tmr := { up.tmr with uptime := 100 } },
   withRun { run0 with window := some (2, 9000) } (sl false { loaded with tmr := { up.tmr with uptime := 100 } }),
   (sl false { loaded with tmr := { up.tmr with uptime := 100 } }),
   withRun { run0 with begun := true, doneP := [0, 1], doneT := [1] } loaded,
   withRun { run0 with begun := true, doneP := [0, 1], doneT := [1], underrun := some 1 } loaded,
   withRun { run0 with begun := true, feeds := [(1, 0, [1, 2]), (0, 0, [3])] } loaded]

/-! ### Witness states, part 07 -/
def gE (z : Nat) : Graph := { g0 with slots := g0.slots.set 0 { (slot 0 false) with bufs := [{ buf0 with mask := [true, true], complete := true }, buf0] }
                                      score := g0.score.set 0 { nextIn := 0, outCredits := z, nextOut := 0, runSeq := 0 } }
def tick (n : Nat) (s : State) : State := { s with tmr := { s.tmr with uptime := n, copy := n } }
def firing : State := validBasin 1 { gs (gE 2) up with pwr := { (gs g0 up).pwr with periph := [(1, .good true)] } }
def eval0 : Eval := { handle := 5, place := 0, runSeq := 0, outBuf := 1, out := (List.range 64).map (BitVec.ofNat 8), skipped := 2, phases := 4, early := false, exact := false, cycles := 100 }
def camCfg : IntakeCfg := { port := 1, vc := 2, dt := 0x2A, x0 := 0, y0 := 0, w := 8, h := 2, k := 1, planes := 1, damage := 0, stale := false, maxAge := 0, handle := 5, bands := [{ plane := 0, port := 0, firstRow := 0, rows := 2 }] }
def cam (u : Intake) (s : State) : State := { s with csi := s.csi.set 1 { CsiPort.initial with en := true, lanes := 2, rate := 1000 }, intake := s.intake.set 0 u }
def u0 : Intake := State.reset.intake.headD { cfg := none, next := none, cur := none, newest := none, deliver := none, complete := 0, damaged := 0, repeated := 0, superseded := 0, zero := 0, age := 0, fs := 0 }
def gC : Graph := { g0 with cgd := { g0.cgd with ports := [{ kind := 2, unit := 0, slot := 0, bytes := 16 }, { kind := 1, unit := 0, slot := 0, bytes := 64 }] } }
def sl2 (src : Nat) (first : Bool) (s : State) : State := { s with slc := { s.slc with src := 1, period := 20000, curSrc := src, curPeriod := 16000, frame := some 2, frameAt := 1000, firstEdge := first } }
def chanOn (n : Nat) (s : State) : State := { s with afe := { s.afe with chans := s.afe.chans.modify n (fun x => { x with en := true, powered := true }) } }
def rule1 : SntRule := { (State.reset.sentinel 0).rule with mask := 3, enterTh := 1, exitTh := 1, entryP := 1, exitP := 1, thetaA := 1, report := 3 }
def armed (calib : Bool) (s : State) : State :=
  chanOn 0 { s with snt := { s.snt with s := s.snt.s.modify 0 (fun x => { x with armed := true, powered := true, calib := calib, rule := rule1 }) } }
def vSnt (s : State) : State := s.updBasin 4096 (fun b => { b with wstate := .valid })
def s07 : List State :=
  [up, firing, { firing with evals := [eval0] }, { loaded with evals := [eval0] },
   validBasin 1 up, (validBasin 1 up).updBasin 1 (fun b => { b with win := List.replicate 256 (1, true) ++ [(2, false)] }),
   tick 20000 (sl2 1 true up), tick 16000 (sl2 1 false up), tick 15999 (sl2 1 false up), tick 17000 (sl2 2 false up), tick 30000 (sl2 1 false up), tick 2000 (sl2 1 false up),
   cam u0 up, cam { u0 with next := some camCfg } up, cam { u0 with cfg := some camCfg } up, cam { u0 with cfg := some camCfg, cur := some (CamFrame.start 0) } up,
   cam { u0 with cfg := some camCfg, cur := some { CamFrame.start 0 with line := 2, raw := [[List.replicate 8 1], [List.replicate 8 2]] } } up,
   cam { u0 with cfg := some { camCfg with damage := 1 }, cur := some (CamFrame.start 0) } up,
   chanOn 3 up, { chanOn 3 up with afe := { (chanOn 3 up).afe with mic := up.afe.mic.set 1 { en := true, vsel := 0, ilim := false } } },
   armed true up, armed false up, { armed false up with snt := { (armed false up).snt with wr := 66, rd := 2 } },
   { armed false up with snt := { (armed false up).snt with s := (armed false up).snt.s.modify 0 (fun x => { x with active := true, count := 3 }) } },
   { busy 0 (cmd 7 0 0x20 .afe) with afe := { up.afe with pend := [{ cfg := { chEn := 5, chMask := 7, hop := 2, hopValid := true, mic := 0, micMask := 0, gain := List.replicate 16 3, tau := List.replicate 16 1 }, cid := 7, notBefore := 50 }] } },
   tick 60 { busy 0 (cmd 7 0 0x20 .afe) with afe := { up.afe with pend := [{ cfg := { chEn := 5, chMask := 7, hop := 2, hopValid := true, mic := 0, micMask := 0, gain := List.replicate 16 3, tau := List.replicate 16 1 }, cid := 7, notBefore := 50 }] } },
   chanOn 0 { busy 0 (cmd 7 0 0x21 .sentinel) with snt := { up.snt with pend := [{ chan := 0, rule := some rule1, cid := 7 }] } },
   { busy 0 (cmd 7 0 0x22 .sentinel) with snt := { (armed false up).snt with pend := [{ chan := 0, rule := none, cid := 7 }] } },
   { chanOn 3 up with afe := { (chanOn 3 up).afe with chans := (chanOn 3 up).afe.chans.modify 3 (fun x => { x with settle := 1 }) } },
   { chanOn 3 up with afe := { (chanOn 3 up).afe with chans := (chanOn 3 up).afe.chans.modify 3 (fun x => { x with settle := 2, switchWait := true }) } }] ++
  packets 0 2 up [packet 0x20 0 5 0 [(0x10, 2, 8), (0x12, 2, 8), (0x14 + 3, 1, 0x21)], packet 0x24 0 5 0 [(0x10, 1, 1), (0x11, 1, 1), (0x12, 1, 2), (0x14, 2, 1000)],
     packet 0x24 0 5 0 [(0x10, 1, 1), (0x11, 1, 0), (0x12, 1, 1), (0x14, 2, 100)], packet 0x23 0 5 0 [(0x10, 1, 1), (0x11, 1, 3), (0x12, 1, 1)], packet 0x23 0 5 0 [(0x10, 1, 1), (0x11, 1, 0), (0x12, 1, 0)]] ++
  packets 0 2 (armed false up) [packet 0x22 0 5 0 [(0x10, 1, 0)], packet 0x20 0 5 0 [(0x10, 2, 1), (0x12, 2, 0)]] ++
  packets 0 2 (vSnt (chanOn 0 up)) [packet 0x21 0 5 0 [(0x10, 1, 0), (0x11, 1, 1), (0x12, 2, 3), (0x14, 1, 2), (0x15, 1, 1), (0x16, 1, 1), (0x17, 1, 1), (0x18, 1, 3)]] ++
  packets 0 2 (cam u0 (gs gC up)) [packet 0x25 0 5 0 [(0x10, 1, 0), (0x11, 1, 1), (0x12, 1, 2), (0x13, 1, 0x2A), (0x18, 2, 8), (0x1A, 2, 2), (0x1C, 1, 1), (0x1D, 1, 1), (0x1F, 1, 1), (0x24, 2, 5), (0x2C, 2, 2)]] ++
  [{ busy 0 (cmd 7 0 0x24 (.csi 1)) with csi := up.csi.set 1 { CsiPort.initial with en := true, lanes := 2, rate := 1000 } }]

/-! ### Witness states, part 08 -/
def rec0 : CwiRec := { ter := 0, slot := 1, rows := 4, cols := 4, tag := 9, off := 128 }
def sess (n f : Nat) : Session := { num := n, func := f, addr := 0x20000, len := 288, imageId := 3, recs := [rec0], hdr := [], key := [1], closing := none }
def vf : State := withRing 64 { ring 0 2 [] with reserved := 1 } { up with cmds := [cmd 7 64 0x03 (.waitFlag 5 true 0), cmd 6 0 0x03 (.waitFlag 6 true 0)], nextCid := 8, hif := { up.hif with owner := up.hif.owner.set 1 3, vfEn := true }, graphs := [{ g0 with owner := 3 }, { g0 with handle := 6 }], wpe := { up.wpe with sessions := [sess 1 3, sess 2 0] } }
def nobme : State := { up with hif := { up.hif with bme := List.replicate 16 false } }
def s08 : List State :=
  [up, vf, withRing 0 (ring 0 2 []) vf, { vf with hif := { vf.hif with devEn := 5, l1Idle := 3, aspmL1 := true }, fc := some 0, postQ := [⟨.aer 3, none, none⟩, ⟨.aer 4, none, none⟩] },
   { nobme with readQ := [(0, 0x1000, 64), (3, 0x2000, 64)] }, { up with hif := { up.hif with d3hot := true }, readQ := [(0, 0x1000, 64), (3, 0x2000, 64)] },
   { up with hif := { up.hif with aspmL1 := true } }, inState .doze { up with hif := { up.hif with aspmL1 := true } },
   { up with hif := { up.hif with msix := [(3, { Msix.initial with masked := true, pending := true })] } },
   withRing 3 { ring 0 2 [] with sqTail := 5, sqHead := 0 } nobme,
   { up with hif := { up.hif with up := false }, pwr := { up.pwr with start := some { edgeAt := 0, kind := .full, reason := 1, result := .pass, dryAge := 0, booted := true, held := false } } },
   { up with fc := some 1, postQ := [⟨.aer 3, none, none⟩, ⟨.aer 4, none, none⟩, ⟨.aer 5, none, none⟩] }, { up with hif := { up.hif with vlogWr := 70, vlogRd := 6 } }]
/-! ### Witness states, part 09 -/
def cwi (f : List Byte → List Byte) : List Byte :=
  f (build 288 [(0, 4, 0x4957434B), (4, 2, 1), (8, 4, 288), (0xC, 2, 1), (0x10, 4, 3), (0x18, 8, State.reset.lcs.uid.toNat), (0x14, 4, 5), (0x60, 4, 6), (128, 1, 0), (129, 1, 1), (130, 2, 4), (132, 2, 4), (136, 8, 9), (128 + 0x1C, 4, 16)])
def keyed (s : State) : State := { s with lcs := { s.lcs with wrap := [some ⟨5, [1]⟩, none, none, none], sign := [some ⟨6, [2]⟩, none, none, none] } }
def opening : State := busy 2 (cmd 7 0 0x30 (.imageOpen 0x20000 288))
def sessd (s : State) : State := { s with wpe := { s.wpe with sessions := [sess 1 0] } }
def tank (uf mv : Nat) (s : State) : State := { s with wpe := { s.wpe with powered := true, aboveMin := true, tankUf := uf, tankMv := mv, charging := true } }
def recBytes (ls : List Nat) : List Byte := List.replicate 32 0 ++ ls.map (BitVec.ofNat 8) ++ List.replicate 16 0
def prog0 : Prog := { session := 1, basin := 1, ter := 0, slot := 1, row := 0, left := 4, batch := 2, waitFrom := none, target := [[1, 2, 3, 4], [5, 6, 7, 8], [255, 0, 1, 2], [60, 61, 62, 63]], row0 := 0, tag := 9, full := true }
def progS (p : Prog) (s : State) : State := sessd (tank 1000 13000 { s with cmds := [cmd 7 0 0x31 (.program p)], nextCid := 8, rings := (busy 2 (cmd 7 0 0x31 .plain)).rings })
def wst (n : Nat) (w : WState) (s : State) : State := s.updBasin n (fun b => { b with wstate := w })
def cells (l : List (Nat × Nat × Int)) (s : State) : State := { s with weights := l.foldl (fun m x => Memory.write m (weightKey 1 x.1 x.2.1) (BitVec.ofInt 8 x.2.2)) s.weights }
def verS (same : Bool) (s : State) : State := sessd { s with cmds := [cmd 7 0 0x32 (.verify 1 0 1 0 1 same)], nextCid := 8, rings := (busy 2 (cmd 7 0 0x31 .plain)).rings }
def target : List (Nat × Nat × Int) := [(0,0,1),(0,1,2),(0,2,3),(0,3,4),(1,0,5),(1,1,6),(1,2,7),(1,3,8),(2,0,9),(2,1,10),(2,2,11),(2,3,12),(3,0,13),(3,1,14),(3,2,15),(3,3,16)]
def s09 : List State :=
  packets 2 2 up [packet 0x30 0 5 0 [(0x10, 8, 0x20000), (0x18, 4, 288)], packet 0x33 0 5 0 [(0x10, 1, 0), (0x11, 1, 1)], packet 0x35 0 5 0 []] ++
  packets 2 2 (tank 1000 13000 up) [packet 0x35 0 5 0 []] ++
  packets 2 2 (wst 1 .valid up) [packet 0x33 0 5 0 [(0x10, 1, 0), (0x11, 1, 1)], packet 0x34 0 5 0 [(0x10, 1, 0), (0x11, 1, 1)]] ++
  [opening, keyed opening, sessd (keyed opening)] ++
  packets 2 2 (sessd up) [packet 0x36 0 5 0 [(0x10, 1, 1)]] ++
  (packets 2 2 (sessd up) [packet 0x36 0 5 0 [(0x10, 1, 1)]]).map (fun s => { s with cmds := [cmd 7 0 0x32 (.verify 1 0 1 0 1 false)], nextCid := 8 }) ++
  [ { wst 1 .valid (cells [(0, 0, 5), (3, 2, -7)] up) with weights := Memory.write (Memory.write (cells [(0, 0, 5), (3, 2, -7)] up).weights (weightKey 2 0 0) 4) (weightKey 0 3 0) 9, cmds := [cmd 7 0 0x33 (.erase 1 0 1 true)], nextCid := 8, rings := (busy 2 (cmd 7 0 0x31 .plain)).rings } ] ++
  packets 2 2 (sessd (tank 1000 13000 up)) [packet 0x31 0 5 0 [(0x10, 1, 1), (0x12, 2, 0), (0x14, 2, 0), (0x16, 2, 4)], packet 0x32 0 5 0 [(0x10, 1, 1), (0x12, 2, 0)]] ++
  packets 2 2 (wst 1 .programming (sessd (tank 1000 13000 (cells [(1, 1, 63)] up)))) [packet 0x31 0 5 0 [(0x10, 1, 1), (0x12, 2, 0), (0x14, 2, 0), (0x16, 2, 2)], packet 0x32 0 5 0 [(0x10, 1, 1), (0x12, 2, 0)]] ++
  packets 2 2 (sessd (tank 1000 9000 up)) [packet 0x31 0 5 0 [(0x10, 1, 1), (0x12, 2, 0), (0x14, 2, 0), (0x16, 2, 4)]] ++
  [ progS prog0 (wst 1 .programming up), progS { prog0 with row := 2, left := 2 } (wst 1 .programming up), progS { prog0 with batch := 0, waitFrom := some 5 } up,
    tick 2000005 (progS { prog0 with batch := 0, waitFrom := some 5 } up), tick 2000004 (progS { prog0 with batch := 0, waitFrom := some 5 } up),
    verS false up, verS false (cells target up), verS true (wst 1 .valid (cells target up)), verS false (cells (target ++ [(3, 3, 20)]) up), verS false (cells (target ++ [(3, 3, 2)]) up),
    tank 1000 9500 up, { tank 1000 9500 up with wpe := { (tank 1000 9500 up).wpe with aboveMin := false } }, { tank 1000 9500 up with wpe := { (tank 1000 9500 up).wpe with charging := false } } ]

/-! ### Witness states, part 10 -/
def str (i : Nat) (x : Stream) (s : State) : State := { s with str := { s.str with s := s.str.s.set i x } }
def tdm (s : State) : State := { s with str := { s.str with conf := true, master := false, nslots := 2, lines := 0, locked := true } }
def x0 : Stream := { Stream.initial with started := true, owner := 0, kind := 0, dest := 1, slots := 3, port := 1, handle := 5, unitB := 8 }
def segm (c id : Nat) (fp : Bool) : Segment := { cid := c, segId := id, fromPort := fp, units := 10, addr := 0x30001, done := 0, zeros := 0, fetched := [], asked := 0, readFail := false }
def gS : Graph := { g0 with cgd := { g0.cgd with ports := [{ kind := 0, unit := 0, slot := 0, bytes := 64 }, { kind := 3, unit := 0, slot := 0xFFFF, bytes := 8 }] } }
def strCmd (c : Nat) (op : Nat) : Cmd := cmd c 0 op .segment
def playing (_fp : Bool) (x : Stream) : State := { str 0 x (tdm (gs gS up)) with cmds := [strCmd 6 0x40, strCmd 7 0x40, strCmd 5 0x41], nextCid := 8, rings := Tab.set [] 0 { ring 3 2 [] with reserved := 3 } }
def play : Stream := { x0 with segs := [segm 6 1 true, segm 7 2 true], cur := true, begun := true, fifo := [List.replicate 8 1, List.replicate 8 2] }
def pkts3 (s : State) (ps : List (List Byte)) : List State := ps.map (fun p => { s with rings := Tab.set s.rings 0 { ring 3 2 [p] with reserved := s.cmds.length } })
def p40 (id src : Nat) (a : Nat) : List Byte := packet 0x40 0 5 0 [(0x10, 1, 0), (0x11, 1, src), (0x12, 2, id), (0x14, 4, 10), (0x18, 8, a)]
def s10 : List State :=
  pkts3 (tdm (gs gS up)) [packet 0x42 0 5 0 [(0x10, 1, 0), (0x11, 1, 0), (0x12, 2, 5), (0x14, 1, 1), (0x15, 1, 1), (0x16, 1, 1)],
    packet 0x42 0 5 0 [(0x10, 1, 0), (0x11, 1, 0), (0x12, 2, 5), (0x14, 1, 1), (0x15, 1, 2), (0x16, 1, 1)], packet 0x42 0 5 0 [(0x10, 1, 0), (0x11, 1, 0), (0x12, 2, 6), (0x14, 1, 1), (0x15, 1, 1), (0x16, 1, 1)],
    packet 0x42 0 5 0 [(0x10, 1, 0), (0x11, 1, 0), (0x12, 2, 5), (0x14, 1, 0), (0x15, 1, 1), (0x16, 1, 1)], packet 0x44 0 5 0 [(0x10, 1, 1), (0x11, 1, 4), (0x12, 1, 1), (0x13, 1, 0), (0x14, 4, 48000)]] ++
  pkts3 (playing true play) [p40 3 1 1, p40 3 0 0x5000, p40 1 1 1, packet 0x41 0 5 0 [(0x10, 1, 0), (0x12, 2, 2)], packet 0x43 0 5 0 [(0x10, 1, 0)]] ++
  pkts3 (playing true { play with jump := some (5, 2) }) [packet 0x41 0 5 0 [(0x10, 1, 0), (0x12, 2, 2)], packet 0x43 0 5 0 [(0x10, 1, 0)]] ++
  pkts3 (playing true { play with stop := some 5 }) [packet 0x41 0 5 0 [(0x10, 1, 0), (0x12, 2, 2)]] ++
  pkts3 (playing true { x0 with dest := 0, segs := [], fifo := [[1]] }) [p40 3 1 1, packet 0x43 0 5 0 [(0x10, 1, 0)]] ++
  pkts3 (playing true { x0 with dest := 0, segs := [segm 6 1 true] , fifo := [] }) [p40 3 1 1, packet 0x43 0 5 0 [(0x10, 1, 0)]] ++
  [playing true play, playing true { play with fifo := [] }, playing true { play with fifo := [], begun := true },
   { playing true play with str := { (playing true play).str with zeroNext := true } }, { playing true play with str := { (playing true play).str with locked := false, resync := 3 } },
   playing true { play with fifo := List.replicate (16384 / 8) (List.replicate 8 3) }, playing true { play with segs := [{ segm 6 1 false with asked := 2 }] },
   playing true { play with dest := 0, segs := [{ segm 6 1 false with asked := 2 }] }, playing true { x0 with dest := 0, segs := [], fifo := [] }]
/-! ### Witness states, part 11 -/
def token (tgt len : Nat) (pay : Nat) (code : Nat) (s : State) : List Byte := build len [(0, 4, 0x54434C4B), (4, 2, 1), (6, 1, s.lcs.active.code), (7, 1, tgt), (8, 8, s.lcs.uid.toNat), (0x10, 4, s.lcs.transSeq), (0x14, 1, code), (0x18, 4, pay)]
def dep (s : State) : State := tank 1000 13000 { s with lcs := { s.lcs with active := .deployed, fProv := true, fDepl := true, lc1 := some [1] } }
def p52 (tgt : Nat) (len : Nat) : List Byte := packet 0x52 0 5 0 [(0x10, 1, tgt), (0x18, 8, 0x40000), (0x20, 4, len)]
def lcCmd (tgt : Nat) (s : State) : State := { s with cmds := [cmd 7 0 0x52 (.lifecycle tgt [] none)], nextCid := 8, rings := (busy 4 (cmd 7 0 0x52 .plain)).rings }
def finding0 : Finding := { test := 2, block := 8, ter := 0, index := 3, step := 0, row := 0, col := 0, bit := 0, expected := 0, measured := 1 }
def bistCmd (scope : Nat) : State := { up with cmds := [cmd 7 0 0x50 (.bist scope 0 3 0xFFFF 0x70000 4096)], nextCid := 8, rings := (busy 4 (cmd 7 0 0x50 .plain)).rings }
def s11 : List State :=
  packets 4 2 up [packet 0x51 0 5 0 [(0x10, 8, 0x60000), (0x18, 4, 1184)], packet 0x53 0 5 0 [(0x10, 1, 0), (0x18, 8, 0x60000), (0x20, 4, 1024)], packet 0x53 0 5 0 [(0x10, 1, 1), (0x18, 8, 0x60000), (0x20, 4, 1024)],
     packet 0x55 0 5 0 [(0x10, 8, 0x60000), (0x18, 4, 256)], packet 0x56 0 5 0 []] ++
  packets 4 2 { svc with lcs := { svc.lcs with active := .service } } [packet 0x50 0 5 0 [(0x10, 1, 4), (0x12, 1, 3), (0x14, 4, 0), (0x18, 8, 0x60000), (0x20, 4, 4096)]] ++
  packets 4 2 (gs g0 { svc with lcs := { svc.lcs with active := .service } }) [packet 0x50 0 5 0 [(0x10, 1, 4), (0x12, 1, 3), (0x14, 4, 0), (0x18, 8, 0x60000), (0x20, 4, 4096)]] ++
  [bistCmd 0, bistCmd 4] ++
  packets 4 2 (dep up) [p52 3 160, p52 4 160, p52 2 160, p52 5 160, p52 3 100] ++
  packets 4 2 (tank 1000 9000 (dep up)) [p52 3 160, p52 4 160] ++ packets 4 2 (gs g0 (dep up)) [p52 4 160] ++
  [lcCmd 3 (dep up), lcCmd 1 { up with lcs := { up.lcs with active := .manufacture } }, lcCmd 2 { up with lcs := { up.lcs with active := .service } }, lcCmd 2 { up with lcs := { up.lcs with active := .provisioned } },
   { cells [(0, 0, 5), (3, 2, -7)] (lcCmd 4 (dep up)) with lcs := { (dep up).lcs with retiring := true, retireAt := 0, retireCid := some 7 } },
   { wst 4111 .failed (lcCmd 4 (dep up)) with lcs := { (dep up).lcs with retiring := true, retireAt := 4109, retireCid := some 7 }, weights := Memory.write [] (weightKey 4110 1 1) 6 },
   { lcCmd 4 (dep up) with lcs := { (dep up).lcs with retiring := true, retireAt := 4112, retireCid := some 7 } }]

/-! ### Witness states, part 12 -/
def mo (seq typ : Nat) (pay : List Byte) : MirOut := { seq := seq, typ := typ, first := true, last := true, ring := 0, tag := 9, opcode := 0x54, handle := 5, runSeq := 0, uptime := 0, payload := pay, basin := none }
def upPort (st : PortState) (s : State) : State := { s with casc := { s.casc with portUp := { s.casc.portUp with state := st }, portDn := { s.casc.portDn with state := st } } }
def withMember (d st : Nat) (s : State) : State := { s with casc := { s.casc with chain := s.casc.chain.modify d (fun m => { m with state := st }) } }
def master3 : State := withMember 2 2 (withMember 1 2 { master with lcs := { master.lcs with active := .deployed }, casc := { master.casc with route := [0, 2, 2, 3, 3, 3, 3, 3], length := 3 } })
def pair0 (a b st : Nat) : Pair := { Pair.initial with active := a, standby := b, state := st, emitted := 5, acked := 3, window := [mo 3 0x10 [1, 2], mo 4 0x02 []], queue := [mo 0 0x11 [1]] }
def withPair (p : Pair) (s : State) : State := { s with casc := { s.casc with pairs := s.casc.pairs.set 0 p } }
def p54 (op mode peer : Nat) : List Byte := packet 0x54 0 5 0 [(0x10, 1, op), (0x11, 1, mode), (0x12, 1, peer)]
def standby (st : Nat) : State := withPair { pair0 2 1 st with window := [], queue := [] } memberS
def applied (n : Nat) (s : State) : State := { s with casc := { s.casc with applied := s.casc.applied.set 0 (some n), shadows := [g0], openCells := [3] } }
def gM : Graph := { g0 with cgd := { g0.cgd with places := [{ place0 with dev := 0 }, { place1 with dev := 1 }] } }
/-- a frame whose flit slots hold one packet; its CRC right or not -/
def frame (seq : Nat) (ok : Bool) : LinkFrame :=
  let slots := (packetFlits (pk 1 0 1)).map (fun x => some { chan := 0, flit := x })
  let f : LinkFrame := { seq := seq, ack := 5, nak := true, credits := [1, 1, 0, 0], slots := slots ++ List.replicate 5 none, sync := true, crc := 0 }
  { f with crc := if ok then frameCrc f else frameCrc f + 1 }
/-- a port up, that has sent frames 4 and 5 and awaits frame `seq` -/
def awaits (seq bad : Nat) (st : PortState) (p : CascPort) : CascPort :=
  let sent (n : Nat) : LinkFrame := { seq := n, ack := 4, nak := false, credits := [0, 0, 0, 0], slots := List.replicate 7 none, sync := true, crc := 0 }
  { p with state := st, rxSeq := (seq + 4095) % 4096, ackSeq := 3, bad := bad, txSeq := 6, replay := [sent 4, sent 5] }
def s12 : List State :=
  [up, upPort .training master, upPort .retraining master, upPort .up master, upPort .up memberS, upPort .up { memberS with casc := { memberS.casc with numbered := false } },
   { upPort .training master with casc := { (upPort .training master).casc with portUp := { master.casc.portUp with state := .training, fails := 2 }, portDn := { master.casc.portDn with state := .training, fails := 2 } } },
   { upPort .up master with casc := { (upPort .up master).casc with portUp := awaits 5 9 .up master.casc.portUp } },
   { upPort .up memberS with casc := { (upPort .up memberS).casc with portUp := awaits 5 2 .up master.casc.portUp } },
   withMember 1 1 master, withMember 2 1 master3, withRun { run0 with handle := 5, begun := true } (gs gM master3),
   withPair (pair0 1 2 3) master3, withPair { pair0 1 2 1 with window := [], queue := [] } master3] ++
  packets 4 2 master3 [p54 0 0 1, p54 1 1 1, p54 1 0 5, p54 2 0 2, p54 3 0 1] ++
  packets 4 2 { withPair { pair0 1 2 1 with window := [], queue := [], emitted := 0, acked := 0, standby := 0 } master3 with casc := { (withPair { pair0 1 2 1 with window := [], queue := [], emitted := 0, acked := 0, standby := 0 } master3).casc with pendAct := some (1, true) }, free := 1 } [p54 0 0 1, p54 1 0 2, p54 2 0 2, p54 2 0 1] ++
  packets 4 2 (withPair (pair0 1 2 3) master3) [p54 3 0 1, p54 3 0 2, p54 1 0 1] ++
  [withPair { pair0 1 2 2 with snapCid := some 7 } memberS, { withPair { pair0 1 2 2 with snapCid := some 7 } memberS with cmds := [cmd 7 0 0x54 (.mirror 2 0 2)], nextCid := 8 }, withPair (pair0 1 2 3) memberS,
   standby 2, standby 3, applied 4 (standby 3), applied 4 (standby 2), cells [(0, 0, 5)] (applied 4 (standby 3)), gs gM memberS, gs gM { memberS with casc := { memberS.casc with shadows := [{ g0 with handle := 6 }], openCells := [3] } },
   { memberS with casc := { memberS.casc with fenced := true } } ]

/-- Two more states of the camera and sluice parts, and of a log to read out. -/
def reporting (s : State) : State :=
  { s with snt := { s.snt with s := s.snt.s.modify 0 (fun x => { x with rule := { x.rule with report := 2 } }) } }
def extra : List State :=
  [reporting (armed false up), reporting { armed false up with snt := { (armed false up).snt with wr := 66, rd := 2 } },
   { loaded with slc := { up.slc with curPeriod := 1 } }] ++
  packets 4 2 { up with bist := { up.bist with dlog := [⟨0, 0, 1, 1, 0, 0⟩] } }
    [packet 0x53 0 5 0 [(0x10, 1, 0), (0x18, 8, 0x60000), (0x20, 4, 1024)]]

/-! ### Names for what the witnesses use -/

def w02 (k : Nat) : State := s02.getD k up
def w03 (k : Nat) : State := s03.getD k up
def w04 (k : Nat) : State := s04.getD k up
def w05 (k : Nat) : State := s05.getD k up
def w06 (k : Nat) : State := s06.getD k up
def w07 (k : Nat) : State := s07.getD k up
def w08 (k : Nat) : State := s08.getD k up
def w09 (k : Nat) : State := s09.getD k up
def w10 (k : Nat) : State := s10.getD k up
def w11 (k : Nat) : State := s11.getD k up
def w12 (k : Nat) : State := s12.getD k up
def wx (k : Nat) : State := extra.getD k up
def headOf (s : State) (g : Nat) : List Byte := (s.ring g).places.getD 0 []
def graphOf (s : State) : Graph := s.graphs.getD 0 g0
def cmdOf (s : State) : Cmd := s.cmds.getD 0 (cmd 0 0 0 .plain)
def rillPacket (s : State) (k : Nat) : Packet := s.rill.getD k (pk 0 0 0)
def segmentOf (s : State) (i k : Nat) : Segment := (s.stream i).segs.getD k (segm 0 0 true)
def sessionOf (s : State) : Session := s.wpe.sessions.getD 0 (sess 1 0)
def runOf (c : Cmd) : Run := match c.body with
  | .run r => r
  | _ => run0
def progOf (c : Cmd) : Prog := match c.body with
  | .program q => q
  | _ => prog0
def record (m : MirOut) (k : Nat) : List Byte := m.bytes k []
/-- a TDM slave that has had a frame sync -/
def slaved : State := { w10 0 with str := { (w10 0).str with fsDue := true } }
/-- channel 0 enabled, its lane read by an evaluation in flight -/
def hearing : State := { chanOn 0 (gs { g0 with cgd := { g0.cgd with places := [{ place0 with feature := true, lane := 0 }, place1] } } up) with
  evals := [eval0] }
/-- the reference columns of a basin at their nominal voltages -/
def nominal (n : Nat) : TrackRead := ⟨n, [526, -526, 267, -267, 67, -67, 0, 0].map (fun x => x * 1000000)⟩
def start0 : Start := { edgeAt := 0, kind := .full, reason := 1, result := .pass, dryAge := 0, booted := true, held := false }
def startIn : StartIn := ⟨5, true, true, true, 3, 100, ⟨[], []⟩⟩
def listCtx0 : ListCtx := { cid := 0, addr := 0, entries := 0, issued := false, fetched := false, rest := [], consumed := 0 }
def port0 : PortRec := { kind := 0, unit := 0, slot := 0, bytes := 64 }
def hop0 : Hop := { ter := 0, inp := 0, out := 4 }
def edge0 : EdgeRec :=
  { src := 0, colFirst := 0, colCount := 64, toPort := false, delay := false, dst := 2, halfOff := 0, hops := 1, allow := 5 }
def score0 : Score := { nextIn := 0, outCredits := 2, nextOut := 0, runSeq := 0 }
def micBias0 : MicBias := { en := false, vsel := 0, ilim := false }
def afePend0 : AfePend := { cfg := afeOf [], cid := 0, notBefore := 0 }
def sntPend0 : SntPend := { chan := 0, rule := none, cid := 0 }
def hops : List (List MicPiece) := List.replicate 16 [{ us := 10000, input := .tones [(1000000, 50000)] }]
def refs : List (List Int) := List.replicate 16 [1, 2, 3, 4]

/-- What holds of every entry of a list and of the default holds of what each number reads. -/
theorem all_getD {α : Type} (l : List α) (d : α) (P : Nat → α → Prop) (h : ∀ k, k < l.length → P k (l.getD k d))
    (hd : ∀ k, P k d) (k : Nat) : P k (l.getD k d) := by
  by_cases hk : k < l.length
  · exact h k hk
  · rw [List.getD_eq_default _ _ (Nat.le_of_not_lt hk)]
    exact hd k

/-! ### Ill-formed operands, one for each check of WellFormed -/

theorem test_wf_strap : (Instr.strapLatch []).wf = false := by decide

theorem test_wf_hop_channels : (Instr.hopBoundary (hops.drop 1) refs).wf = false := by decide +kernel

theorem test_wf_hop_sentinels :
    (Instr.hopBoundary hops (refs.drop 1)).wf = false ∧ (Instr.hopBoundary hops (refs.set 15 [])).wf = false := by decide +kernel

theorem test_wf_track :
    (Instr.trackingEvaluation ⟨0, [1]⟩).wf = false ∧
    (Instr.trackingEvaluation ⟨4096, [1, 2, 3, 4, 5, 6, 7, 8]⟩).wf = false := by decide

theorem test_wf_stops : exec (.strapLatch []) State.reset = .fault .illFormed := rfl

/-! ### Hypotheses of the statements, met together: one theorem for each statement that has any, one clause for each of
its clauses -/

theorem test_met_StepRunsFront : ∃ s : State, s.pending = [] := ⟨State.reset, rfl⟩

theorem test_met_WellFormedRuns : (∃ c : Instr, c.wf = true) ∧ (∃ c : Instr, c.wf = false) :=
  ⟨⟨.fsyncEdge, rfl⟩, ⟨.strapLatch [], by decide⟩⟩

theorem test_met_QueueUntouched : ∃ (c : Instr) (s t : State), exec c s = .next t :=
  ⟨.crystalDetected, up, _, rfl⟩

/-- A state with a command in flight and one waiting at the front of its queue. -/
def queued (c : Instr) (s : State) : State := { s with pending := [c] }

theorem test_met_MemoriesKept : ∃ s t : State, MemoriesCanonical s ∧ step s = .next t :=
  ⟨queued .crystalDetected (w09 11), _, by unfold MemoriesCanonical; decide +kernel, rfl⟩

theorem test_met_BoundsKept :
    (∃ s t : State, LogsBounded s ∧ step s = .next t) ∧
    (∃ s t : State, CidsFresh s ∧ step s = .next t) ∧
    (∃ s t : State, MaintBounded s ∧ step s = .next t) ∧
    (∃ s t : State, ShapesFixed s ∧ step s = .next t) ∧
    (∃ s t : State, TrimsHeld s ∧ step s = .next t) ∧
    (∃ s t : State, LimitsLegal s ∧ step s = .next t) :=
  ⟨⟨queued .crystalDetected (w07 22), _, by unfold LogsBounded; decide +kernel, rfl⟩,
   ⟨queued .crystalDetected (w03 20), _, by unfold CidsFresh; decide +kernel, rfl⟩,
   ⟨queued .crystalDetected (w04 13), _, by unfold MaintBounded; decide +kernel, rfl⟩,
   ⟨queued .crystalDetected up, _, by unfold ShapesFixed; decide +kernel, rfl⟩,
   ⟨queued .crystalDetected up, _, fun _ => ⟨show (-128 : Int) ≤ 0 by decide, show (0 : Int) ≤ 127 by decide, show (-128 : Int) ≤ 0 by decide,
     show (0 : Int) ≤ 127 by decide⟩, rfl⟩,
   ⟨queued .crystalDetected up, _, by unfold LimitsLegal; decide +kernel, rfl⟩⟩

theorem test_met_FusesOnlyBurn : ∃ s t : State, step s = .next t := ⟨queued .crystalDetected up, _, rfl⟩

theorem test_met_PowerKept :
    (∃ s t : State, PowerSane s ∧ step s = .next t) ∧
    (∃ (c : Instr) (s t : State), PowerSane s ∧ exec c s = .next t ∧ t.pwr.dev ≠ s.pwr.dev) :=
  ⟨⟨queued .crystalDetected up, _, ⟨(by intro _ h; cases h), by decide, (by intro _ h; cases h), by decide, by decide⟩, rfl⟩,
   ⟨.dozeEntryDone, w02 19, _, ⟨(by intro _ h; cases h), by decide, (by intro _ h; cases h), by decide, by decide⟩, rfl,
     by decide +kernel⟩⟩

theorem test_met_UptimeOnlyTicks : ∃ (c : Instr) (s t : State), exec c s = .next t ∧ c ≠ .uptimeTick ∧ c ≠ .vauxGood ∧
    ∀ cut, c ≠ .vauxLoss cut :=
  ⟨.crystalLost, up, _, rfl, by decide, by decide, fun _ h => by cases h⟩

theorem test_met_lock_cleared : ∃ (c : Instr) (s t : State), exec c s = .next t ∧ s.sys.lock = true ∧ t.sys.lock = false :=
  ⟨.startRelease, { w02 16 with sys := { (w02 16).sys with lock := true } }, _, rfl, by decide +kernel, by decide +kernel⟩

theorem test_met_KeysNotRead : ∃ (s : State) (w sg : List (Option KeySlot)) (sess : List Session),
    w.map (Option.map KeySlot.id) = s.lcs.wrap.map (Option.map KeySlot.id) ∧
    sg.map (Option.map KeySlot.id) = s.lcs.sign.map (Option.map KeySlot.id) ∧
    sess.map (fun x => { x with key := [] }) = s.wpe.sessions.map (fun x => { x with key := [] }) ∧
    w ≠ s.lcs.wrap ∧ sess ≠ s.wpe.sessions :=
  ⟨sessd (keyed up), [some ⟨5, [2]⟩, none, none, none], (keyed up).lcs.sign, [{ sess 1 0 with key := [8] }],
   by decide +kernel⟩

set_option maxRecDepth 40000 in
theorem test_met_graph_checked :
    let s := loading
    let x := loadCmd
    let bytes := readBytes 240 cgdBytes
    s.cmd? x.cid = some x ∧ x.body = .graphLoad 0x9000 240 false 0 0 ∧ x.mir = [] ∧ x.detached = false ∧
      (s.ring x.ring).halted = false ∧ Reporting s x.ring ∧ s.bistRunning = false ∧ s.loadChecks x.cid bytes 240 = none ∧
      s.graphs.length < 256 ∧ s.casc.shadows.length < 256 ∧
      s.pairsFor ((parseCgd bytes).places.map (fun q => q.dev)).eraseDups = [] := by
  unfold Reporting CidsFresh; decide +kernel

/-- A slot record of cgdBytes. -/
def slotRec (isOut : Bool) : SlotRec := { dev := 0, ter := 0, isOut := isOut, bufs := 2, lines := 1, bank := 255 }

set_option maxRecDepth 40000 in
theorem cgd_slots : (parseCgd (readBytes 240 cgdBytes)).slots = [slotRec false, slotRec true] := by decide +kernel

theorem test_met_graph_placed : ∃ (slots : List Slot) (u : State),
    loading.placeSlots (parseCgd (readBytes 240 cgdBytes)) loading.reservedSlots
      (parseCgd (readBytes 240 cgdBytes)).slots = (.ok slots, u) := by
  rw [cgd_slots]
  generalize parseCgd (readBytes 240 cgdBytes) = c
  obtain ⟨y, hy, _, hs⟩ := placeSlot_ok loading c [] 0 (slotRec false) (by simp) ⟨0, by omega, by decide +kernel⟩
  obtain ⟨z, hz, _, _⟩ := placeSlot_ok { loading with free := loading.free + 3 } c [y] 1 (slotRec true) (by simp)
    ⟨0, by omega, by
      have hw : ({ loading with free := loading.free + 3 } : State).isMe 0 = true := by decide +kernel
      have ht : (({ loading with free := loading.free + 3 } : State).ter 0).withdrawn.getLsbD 0 = false := by decide +kernel
      have hs : y.span = 2 := hs
      simp only [State.bankTakes, slotRec, hw, ht, Bool.and_eq_true, List.any_eq_true, List.mem_range]
      refine ⟨by simp, ⟨by simp, by simp⟩, (if y.line0 ≤ 500 then 1000 else 0 : Nat), by split <;> omega, ?_⟩
      simp only [State.linesFree, List.all_cons, List.all_nil, hs, Bool.and_eq_true, Bool.or_eq_true, decide_eq_true_eq]
      split <;> simp <;> omega⟩
  have hr : loading.reservedSlots = [] := by decide +kernel
  rw [hr]
  simp only [State.placeSlots, State.placeFrom, hy, hz, List.nil_append]
  exact ⟨_, _, rfl⟩

theorem test_met_OnlyValidFire :
    (∃ (s t : State) (g : Graph) (n : Nat), s.graph? 5 = some g ∧ exec (.basinFire 5 0 0) s = .next t ∧
      t.evals.length ≠ s.evals.length ∧ n ∈ g.phys.getD 0 []) ∧
    (∃ (s t : State) (e : Eval), exec .crystalDetected s = .next t ∧ e ∈ t.evals) ∧
    (∃ (s t : State), exec (.trackingEvaluation (nominal 1)) s = .next t ∧
      t ≠ s) :=
  ⟨⟨firing, _, gE 2, 1, by decide +kernel, rfl, by decide +kernel, by decide +kernel⟩,
   ⟨w07 2, _, eval0, rfl, by decide +kernel⟩,
   ⟨validBasin 1 up, _, rfl, by decide +kernel⟩⟩

theorem test_met_routes : ∃ (s : State) (own other : List Nat), s.pins.role = .member ∧ s.casc.numbered = true ∧
    s.casc.alsoNum = none ∧ s.casc.fenced = false ∧ own.getD s.casc.device 3 = 0 ∧ other.getD s.casc.device 3 ≠ 0 :=
  ⟨w04 11, [2, 0, 1, 3, 3, 3, 3, 3], [2, 2, 3, 3, 3, 3, 3, 3], by decide +kernel⟩

theorem test_met_ColdStart :
    ∃ (s : State),
      s.pwr.dev = .off ∧ s.pwr.railGood.getLsbD 0 = false :=
  ⟨w02 2, by decide +kernel⟩

theorem test_met_IslandEvents :
    (∃ (s : State),
      s.pwr.railGood.getLsbD 0 = true ∧ s.pwr.xtal = true) ∧
    (∃ (s : State) (v : BitVec 5) (w : BitVec 5) (k : Nat),
      s.pins.latched = false ∧ s.pwr.railGood.getLsbD 0 = true ∧ s.pwr.dev = .off ∧ k < 7 ∧ w ^^^ v = 31#5) :=
  ⟨⟨w02 0, by decide +kernel⟩,
   ⟨w02 3, 0x0, 0x1f, 0, by decide +kernel⟩⟩

theorem test_met_SuppliesLost :
    (∃ (s : State) (rail : Fin 6),
      rail.val ≠ 0 ∧ s.pwr.railGood.getLsbD 0 = true ∧ s.pwr.railGood.getLsbD rail.val = false) ∧
    (∃ s : State,
      s.pwr.railGood.getLsbD 0 = true ∧ s.pwr.railGood.toNat / 2 ≠ 0 ∧ s.pwr.railGood.toNat / 2 ≠ 31) ∧
    (∃ (s : State) (rail : Fin 6),
      rail.val ≠ 0 ∧ s.pwr.railGood.getLsbD rail.val = true ∧ (s.pwr.dev ≠ .sentry ∨ s.pwr.start.isSome = true) ∧
      s.pwr.dev ≠ .off ∧ s.dryFinished = false) ∧
    (∃ (s : State) (rail : Fin 6),
      rail.val ≠ 0 ∧ s.pwr.railGood.getLsbD rail.val = true ∧ (s.pwr.dev = .off ∨ (s.pwr.dev = .sentry ∧ s.pwr.start = none))) ∧
    (∃ (s : State) (rail : Fin 6),
      rail.val ≠ 0 ∧ s.pwr.railGood.getLsbD rail.val = true ∧ s.dryFinished = true) ∧
    (∃ (s t : State) (cut : PowerCut),
      (∀ x ∈ s.cmds, x.prog? = none ∧ x.erasing? = none) ∧ exec (.vauxLoss cut) s = .next t) :=
  ⟨⟨w02 4, 1, by decide +kernel⟩,
   ⟨w02 9, by decide +kernel⟩,
   ⟨w02 0, 1, by decide +kernel⟩,
   ⟨w02 5, 1, by decide +kernel⟩,
   ⟨w02 15, 1, by decide +kernel⟩,
   ⟨busy 4 (cmd 7 0 0x03 (.waitFlag 5 true 0)), _, ⟨[], true, none, false⟩, by decide +kernel, rfl⟩⟩

theorem test_met_FaultsEntered :
    (∃ (s : State) (rail : Fin 6),
      s.pwr.start = none ∧ s.pwr.dev = .run ∧ rail.val ≠ 0 ∧ s.pwr.railGood.getLsbD 0 = true ∧
      s.pwr.railOv.getLsbD rail.val = false) ∧
    (∃ (s : State) (core : Fin 2),
      s.pwr.dev = .dry ∧ s.pins.dryDone = false ∧ s.sys.hkHalt.getLsbD core.val = false) ∧
    (∃ s : State, s.pwr.dev = .sentry) ∧
    (∃ s : State, s.pwr.dev = .dry ∧ s.pins.dryDone = true) ∧
    (∃ s : State, s.pwr.railGood.getLsbD 0 = true ∧ s.pwr.railOv.getLsbD 0 = false) ∧
    (∃ (s : State) (rail : Fin 6), s.pwr.railGood.getLsbD 0 = true ∧ s.pwr.railOv.getLsbD rail.val = true) ∧
    (∃ s : State, s.pwr.dev ≠ .off ∧ s.pwr.hot = false ∧ s.mainLive = true ∧ s.pwr.dev ≠ .sentry) ∧
    (∃ s : State, s.pwr.dev ≠ .off ∧ s.pwr.hot = true) :=
  ⟨⟨w02 0, 1, by decide +kernel⟩,
   ⟨w02 13, 0, by decide +kernel⟩,
   ⟨w02 4, by decide +kernel⟩,
   ⟨w02 15, by decide +kernel⟩,
   ⟨w02 0, by decide +kernel⟩,
   ⟨{ up with pwr := { up.pwr with railOv := 4 } }, 2, by decide +kernel⟩,
   ⟨w02 0, by decide +kernel⟩,
   ⟨w02 6, by decide +kernel⟩⟩

theorem test_met_StartsRun :
    (∃ (s : State),
      s.pins.perstHigh = false ∧ s.pwr.railGood.getLsbD 0 = true ∧ s.pwr.dev ≠ .off ∧
      s.pwr.railGood.toNat / 2 = 31 ∧ s.pins.boot = .hold ∧ s.lcs.fused.debuggable = true) ∧
    (∃ (s : State) (x : StartIn),
      s.pins.perstHigh = false ∧ s.pwr.railGood.getLsbD 0 = true ∧ s.pwr.dev ≠ .off ∧
      s.pwr.railGood.toNat / 2 = 31 ∧ s.pins.boot ≠ .hold ∧ (x.fwOk = false ∨ s.flashReads x = false)) ∧
    (∃ (s : State) (x : StartIn),
      s.pins.perstHigh = false ∧ s.pwr.railGood.getLsbD 0 = true ∧ s.pwr.dev ≠ .off ∧
      s.pwr.railGood.toNat / 2 = 31 ∧ s.pins.boot ≠ .hold ∧ x.fwOk = true ∧ s.flashReads x = true) ∧
    (∃ (s : State),
      s.pins.perstHigh = false ∧ s.pwr.railGood.getLsbD 0 = true ∧ s.pwr.railGood.toNat / 2 ≠ 31) ∧
    (∃ (s : State) (st : Start),
      s.pwr.railGood.getLsbD 0 = true ∧ s.pwr.railGood.toNat / 2 = 31 ∧ s.pwr.start = some st ∧ st.held = true ∧ s.lcs.active.debuggable = true ∧ s.lcs.closed = false) ∧
    (∃ (s : State) (st : Start),
      s.pwr.start = some st ∧ st.held = false ∧ st.result = StartResult.bootFail) ∧
    (∃ (s : State) (st : Start),
      s.pwr.start = some st ∧ st.held = false ∧ st.result ≠ StartResult.bootFail) :=
  ⟨⟨w02 7, by decide +kernel⟩,
   ⟨w02 5, { startIn with fwOk := false }, by decide +kernel⟩,
   ⟨w02 5, startIn, by decide +kernel⟩,
   ⟨w02 4, by decide +kernel⟩,
   ⟨w02 18, { start0 with held := true }, by decide +kernel⟩,
   ⟨w02 17, { start0 with result := .bootFail, booted := false }, by decide +kernel⟩,
   ⟨w02 16, start0, by decide +kernel⟩⟩

theorem test_met_PerstAndConfig :
    (∃ s : State,
      s.pins.perstHigh = true ∧ s.pwr.railGood.getLsbD 0 = true ∧ s.pwr.dev ≠ .off ∧
      (s.pwr.dev ≠ .sentry ∨ s.pwr.start.isSome = true)) ∧
    (∃ s : State, s.pins.role ≠ .member ∧ s.pwr.start.isSome = true ∧ s.hif.up = true) ∧
    (∃ (s : State) (f : Fin 16), s.pins.role ≠ .member ∧ s.hostUp = true ∧ f.val ≠ 0 ∧ s.hif.vfEn = true) ∧
    (∃ (s : State) (f : Fin 16), s.pins.role ≠ .member ∧ s.hostUp = true ∧ f.val ≠ 0 ∧ s.hif.vfEn = false) ∧
    (∃ s : State, s.pins.role ≠ .member ∧ s.hostUp = true ∧ s.lcs.active.debuggable = false) :=
  ⟨⟨w02 0, by decide +kernel⟩,
   ⟨w02 16, by decide +kernel⟩,
   ⟨w03 1, 1, by decide +kernel⟩,
   ⟨w02 0, 1, by decide +kernel⟩,
   ⟨w11 9, by decide +kernel⟩⟩

theorem test_met_DozeRun :
    (∃ (s : State),
      s.running = true ∧ s.pwr.autoDoze = true ∧ s.idle = true ∧ s.pwr.fclkTo = none ∧ s.pwr.dozeEntering = false) ∧
    (∃ (s : State),
      s.reaches 0 = true ∧ (s.pwr.dev = .run ∨ s.pwr.dev = .economy) ∧ (s.mirroring = true ∨ s.portTrained = true)) ∧
    (∃ (s : State),
      s.reaches 0 = true ∧ (s.pwr.dev = .run ∨ s.pwr.dev = .economy) ∧ s.mirroring = false ∧ s.portTrained = false ∧
      s.idle = false) ∧
    (∃ (s : State),
      s.reaches 0 = true ∧ (s.pwr.dev = .run ∨ s.pwr.dev = .economy) ∧ s.idle = true ∧ s.pwr.fclkTo = none) ∧
    (∃ (s : State),
      s.reaches 0 = true ∧ (s.pwr.dev = .run ∨ s.pwr.dev = .economy) ∧ s.idle = true ∧ s.pwr.fclkTo ≠ none) ∧
    (∃ (s : State),
      s.pwr.dozeEntering = true) ∧
    (∃ (s : State) (d : DevState),
      PowerSane s ∧ s.pwr.dev = .doze ∧ s.pwr.dozeExit = some d ∧ s.pwr.dryAfterExit = false) ∧
    (∃ (s : State) (d : DevState),
      PowerSane s ∧ s.pwr.dev = .doze ∧ s.pwr.dozeExit = some d ∧ s.pwr.dryAfterExit = true) :=
  ⟨⟨w02 0, by decide +kernel⟩,
   ⟨w02 34, by decide +kernel⟩,
   ⟨w02 28, by decide +kernel⟩,
   ⟨w02 0, by decide +kernel⟩,
   ⟨w02 23, by decide +kernel⟩,
   ⟨w02 19, by decide +kernel⟩,
   ⟨w02 21, .run, ⟨(by intro _ h; cases h), by decide, (by intro _ h; cases h; decide), by decide, by decide⟩, by decide +kernel⟩,
   ⟨w02 22, .economy, ⟨(by intro _ h; cases h), by decide, (by intro _ h; cases h; decide), by decide, by decide⟩, by decide +kernel⟩⟩

theorem test_met_ClocksRequested :
    (∃ (s : State),
      s.reaches 0 = true ∧ (s.pwr.dev = .dry ∨ s.pwr.dev = .fault)) ∧
    (∃ (s : State),
      s.reaches 0 = true ∧ s.pwr.dev = .economy ∧ s.pwr.fclkTo = none) ∧
    (∃ (s : State),
      s.reaches 0 = true ∧ s.pwr.dev = .run ∧ s.pwr.fclkTo = none) ∧
    (∃ (s : State),
      s.reaches 0 = true ∧ s.pwr.dev = .doze) ∧
    (∃ (s : State),
      s.reaches 0 = true ∧ s.pwr.dev = .run ∧ s.economyOverruns = false) ∧
    (∃ (s : State),
      s.reaches 0 = true ∧ s.pwr.dev = .run ∧ s.economyOverruns = true) ∧
    (∃ (s : State) (d : DevState),
      s.pwr.fclkTo = some d ∧ s.evals = []) :=
  ⟨⟨w02 14, by decide +kernel⟩,
   ⟨w02 12, by decide +kernel⟩,
   ⟨w02 0, by decide +kernel⟩,
   ⟨w02 11, by decide +kernel⟩,
   ⟨w02 0, by decide +kernel⟩,
   ⟨wx 2, by decide +kernel⟩,
   ⟨w02 23, .economy, by decide +kernel⟩⟩

theorem test_met_SwitchedDomains :
    (∃ (s : State) (k : Fin 64) (since : Nat),
      s.terPower k.val = .charging since ∧ k.val ∉ s.pwr.stageQ ∧ s.chargingCount ≤ s.pwr.stageMax ∧
      (∀ p ∈ s.rill, s.isMe p.dstDev = true)) ∧
    (∃ (s : State) (k : Fin 64),
      s.terPower k.val = .good ∧ s.terUsed k.val = false) ∧
    (∃ (s : State) (k : Fin 64), s.terUsed k.val = true) ∧
    (∃ (s : State) (b : Fin 4096) (token : Bool),
      Tab.get? s.pwr.periph b.val = some (Periph.good token) ∧ s.basinBusy b.val = true) ∧
    (∃ (s : State) (b : Fin 4096) (token : Bool),
      Tab.get? s.pwr.periph b.val = some (Periph.good token) ∧ s.basinBusy b.val = false) ∧
    (∃ (s : State) (b : Fin 4096),
      Tab.get? s.pwr.periph b.val = some Periph.waking) :=
  ⟨⟨w02 25, 2, 0, by decide +kernel⟩,
   ⟨w02 26, 2, by decide +kernel⟩,
   ⟨w06 0, 0, by decide +kernel⟩,
   ⟨{ firing with evals := [eval0] }, 1, true, by decide +kernel⟩,
   ⟨w02 27, 3, false, by decide +kernel⟩,
   ⟨w02 27, 64, by decide +kernel⟩⟩

theorem test_met_DryDowns :
    (∃ (s : State) (g : Fin 1024) (p : List Byte),
      s.ready (g.val) 87 false = some p) ∧
    (∃ (s : State),
      s.hostUp = true ∧ s.hif.d3hot = true ∧ (s.pwr.dev = .run ∨ s.pwr.dev = .economy)) ∧
    (∃ (s : State),
      s.hostUp = true ∧ s.hif.d3hot = false) ∧
    (∃ (s : State),
      s.pins.role = .member ∧ s.mainLive = true ∧ (s.pwr.dev = .run ∨ s.pwr.dev = .economy)) ∧
    (∃ (s : State),
      s.pwr.dev = .dry ∧ s.mainLive = true ∧ s.bist.dry = some DryPhase.drain ∧ s.drained = true) ∧
    (∃ (s : State),
      s.pwr.dev = .dry ∧ s.mainLive = true ∧ s.bist.dry = some DryPhase.selfTest) ∧
    (∃ (s : State),
      s.pwr.dev = .dry ∧ s.mainLive = true ∧ s.bist.dry = some DryPhase.committed) :=
  ⟨⟨w02 28, 0, (headOf (w02 28) 0), by decide +kernel⟩,
   ⟨w02 29, by decide +kernel⟩,
   ⟨w02 0, by decide +kernel⟩,
   ⟨w02 30, by decide +kernel⟩,
   ⟨w02 31, by decide +kernel⟩,
   ⟨w02 32, by decide +kernel⟩,
   ⟨w02 33, by decide +kernel⟩⟩

theorem test_met_Doorbells :
    (∃ (s : State) (f : Fin 16) (page : Fin 1024),
      s.reaches f.val = true ∧ (s.pwr.dev = .run ∨ s.pwr.dev = .economy) ∧ s.pageRing f.val page.val = none) ∧
    (∃ (s : State) (f : Fin 16) (page : Fin 1024) (v : Nat) (g : Nat),
      s.reaches f.val = true ∧ (s.pwr.dev = .run ∨ s.pwr.dev = .economy) ∧ s.pageRing f.val page.val = some g ∧
      (f.val = 0 → s.ringFunc g = 0) ∧ (s.ring g).en = true ∧ v < 2 ^ (s.ring g).log2 ∧
      (v + (s.ring g).size - (s.ring g).cqHead) % (s.ring g).size ≤ ((s.ring g).cqTail + (s.ring g).size - (s.ring g).cqHead) % (s.ring g).size) ∧
    (∃ (s : State) (f : Fin 16) (page : Fin 1024) (v : Nat) (g : Nat),
      s.reaches f.val = true ∧ (s.pwr.dev = .run ∨ s.pwr.dev = .economy) ∧ s.pageRing f.val page.val = some g ∧
      (f.val = 0 → s.ringFunc g = 0) ∧ (s.ring g).en = true ∧ v < 2 ^ (s.ring g).log2 ∧
      ((s.ring g).cqTail + (s.ring g).size - (s.ring g).cqHead) % (s.ring g).size < (v + (s.ring g).size - (s.ring g).cqHead) % (s.ring g).size) ∧
    (∃ (s : State) (f : Fin 16) (page : Fin 1024) (g : Nat),
      s.reaches f.val = true ∧ (s.pwr.dev = .run ∨ s.pwr.dev = .economy) ∧ s.pageRing f.val page.val = some g ∧ f.val = 0 ∧
      s.ringFunc g ≠ 0) ∧
    (∃ (s : State) (f : Fin 16) (page : Fin 1024) (v : Nat) (g : Nat),
      s.reaches f.val = true ∧ (s.pwr.dev = .run ∨ s.pwr.dev = .economy) ∧ s.pageRing f.val page.val = some g ∧
      (f.val = 0 → s.ringFunc g = 0) ∧ ((s.ring g).en = false ∨ 2 ^ (s.ring g).log2 ≤ v)) :=
  ⟨⟨w03 1, 1, 1023, by decide +kernel⟩,
   ⟨w02 28, 0, 0, 1, 0, by decide +kernel⟩,
   ⟨w02 28, 0, 0, 0, 0, by decide +kernel⟩,
   ⟨w03 1, 0, 64, 64, by decide +kernel⟩,
   ⟨w02 0, 0, 0, 0, 0, by decide +kernel⟩⟩

theorem test_met_RingsWritten :
    (∃ (s : State) (f : Fin 16) (i : Fin 1024) (g : Nat) (v : Word),
      s.reaches f.val = true ∧ (s.pwr.dev = .run ∨ s.pwr.dev = .economy) ∧ s.pageRing f.val i.val = some g ∧ s.ringFunc g = f.val ∧
      (s.ring g).active = false ∧ (s.ring g).en = false ∧ BitVec.getLsbD v 0 = true ∧ 6 ≤ BitVec.toNat v / 2 % 16 ∧
      BitVec.toNat v / 32 % 8 ≤ 4 ∧ (f.val ≠ 0 → BitVec.toNat v / 32 % 8 = 1 ∨ BitVec.toNat v / 32 % 8 = 3)) ∧
    (∃ (s : State) (f : Fin 16) (i : Fin 1024) (g : Nat) (v : Word),
      s.reaches f.val = true ∧ (s.pwr.dev = .run ∨ s.pwr.dev = .economy) ∧ s.pageRing f.val i.val = some g ∧ s.ringFunc g = f.val ∧
      (s.ring g).active = true ∧ (s.ring g).en = true ∧ BitVec.getLsbD v 0 = false ∧
      BitVec.toNat v / 2 % 16 = (s.ring g).log2 ∧ BitVec.toNat v / 32 % 8 = (s.ring g).engine ∧
      BitVec.toNat v / 256 % 4 = (s.ring g).cls ∧ BitVec.toNat v / 1024 % 8 = (s.ring g).prio ∧
      6 ≤ (s.ring g).log2 ∧ (s.ring g).engine ≤ 4) ∧
    (∃ (s : State) (f : Fin 16) (i : Fin 1024) (g : Nat) (v : DWord),
      s.reaches f.val = true ∧ (s.pwr.dev = .run ∨ s.pwr.dev = .economy) ∧ s.pageRing f.val i.val = some g ∧ s.ringFunc g = f.val ∧
      (s.ring g).active = true ∧ v &&& 18446744073709547520#64 ≠ (s.ring g).sqBase) ∧
    (∃ (s : State) (f : Fin 16) (i : Fin 1024) (g : Nat) (v : Word),
      s.reaches f.val = true ∧ (s.pwr.dev = .run ∨ s.pwr.dev = .economy) ∧ s.pageRing f.val i.val = some g ∧ s.ringFunc g = f.val ∧
      (4 < BitVec.toNat v / 32 % 8 ∨ BitVec.toNat v / 2 % 16 < 6)) :=
  ⟨⟨w02 0, 0, 0, 0, 0x20d, by decide +kernel⟩,
   ⟨w03 1, 0, 3, 3, 0x20c, by decide +kernel⟩,
   ⟨w02 28, 0, 0, 0, 0x0, by decide +kernel⟩,
   ⟨w02 0, 0, 0, 0, 0x0, by decide +kernel⟩⟩

theorem test_met_FetchesComplete :
    (∃ (s : State) (g : Fin 1024) (bytes : List Byte),
      (s.ring g.val).fetching ≠ 0 ∧
      ((s.updRing g.val fun r => { r with places := r.places ++ packetsOf r.fetching bytes, fetching := 0 }).rejectHead g.val = none)) ∧
    (∃ (s : State) (g : Fin 1024) (bytes p : List Byte) (depth : Nat) (e : End),
      (s.ring g.val).fetching ≠ 0 ∧ Reporting s g.val ∧
      let u := s.updRing g.val (fun r => { r with places := r.places ++ packetsOf r.fetching bytes, fetching := 0 })
      (u.ring g.val).headPacket = some (p, depth) ∧ u.decodersRun = true ∧ (u.ring g.val).covered (pktEntries p) = true ∧
      1 ≤ (u.ring g.val).freeSlots ∧ u.ringWaits g.val = false ∧ u.headFault g.val p = some e ∧ pktOp p = 0x52 ∧
      [0x10, 0x18, 0x20].any (fun o => e == endParam o) = true) ∧
    (∃ s : State, s.hif.toDisable = false) ∧ (∃ s : State, s.hif.toDisable = true) ∧
    (∃ (s : State) (g : Fin 1024) (c : ListCtx) (cs : List ListCtx) (bytes : List Byte),
      (s.ring g.val).lists = c :: cs ∧ c.issued = true ∧ c.fetched = false ∧
      ((s.updRing g.val fun r => { r with lists := { c with fetched := true, rest := packetsOf c.entries bytes } :: cs }).rejectHead g.val = none)) ∧
    (∃ (s : State) (g : Fin 1024) (at_ : Nat),
      (s.ring g.val).unsigAt = some at_ ∧ (s.ring g.val).irqEn = true ∧ (s.ring g.val).modTimer ≠ 0 ∧
      at_ + (s.ring g.val).modTimer ≤ s.tmr.uptime ∧ s.hif.msixEn.getD (s.ringFunc g.val) false = true ∧
      (s.msixEntry (s.ringFunc g.val) (s.ringEntry g.val)).masked = false ∧
      s.hif.msixFm.getD (s.ringFunc g.val) false = false ∧ s.mayMaster (s.ringFunc g.val) = true) ∧
    (∃ (s : State) (g : Fin 1024) (at_ : Nat),
      (s.ring g.val).unsigAt = some at_ ∧ (s.ring g.val).irqEn = true ∧ (s.ring g.val).modTimer ≠ 0 ∧
      at_ + (s.ring g.val).modTimer ≤ s.tmr.uptime ∧ s.hif.msixEn.getD (s.ringFunc g.val) false = true ∧
      (s.msixEntry (s.ringFunc g.val) (s.ringEntry g.val)).masked = true) :=
  ⟨⟨w03 5, 3, packet 0 0 5 0 [] ++ packet 0 0 6 0 [], by decide +kernel⟩,
   ⟨withRing 0 { ring 4 2 [] with fetching := 1, sqHead := 1, sqTail := 1 } up, 0, packet 0x52 0 5 0 [(0x10, 1, 9)],
     packet 0x52 0 5 0 [(0x10, 1, 9)], 0, endParam 0x10, by unfold Reporting CidsFresh; decide +kernel⟩,
   ⟨up, rfl⟩, ⟨{ up with hif := { up.hif with toDisable := true } }, rfl⟩,
   ⟨w03 7, 3, (((w03 7).ring 3).lists.getD 0 listCtx0), [], packet 0 0 5 0 [] ++ packet 0 0 6 0 [], by decide +kernel⟩,
   ⟨w03 1, 3, 0, by decide +kernel⟩,
   ⟨w03 8, 3, 0, by decide +kernel⟩⟩

theorem test_met_GenericOpcodes :
    (∃ (s : State) (g : Fin 1024) (p : List Byte),
      Reporting s g.val ∧ s.ready (g.val) 0 false = some p) ∧
    (∃ (s : State) (g : Fin 1024) (p : List Byte),
      Reporting s g.val ∧ s.ready (g.val) 1 true = some p) ∧
    (∃ (s : State) (g : Fin 1024) (p : List Byte),
      Reporting s g.val ∧ s.ready (g.val) 4 true = some p) ∧
    (∃ (s : State) (g : Fin 1024) (p : List Byte),
      Reporting s g.val ∧ s.ready (g.val) 2 false = some p ∧ par p 16 8 ≠ 0) ∧
    (∃ (s : State) (g : Fin 1024) (p : List Byte),
      Reporting s g.val ∧ s.ready (g.val) 6 false = some p) :=
  ⟨⟨w03 9, 0, (headOf (w03 9) 0), by unfold Reporting CidsFresh; decide +kernel⟩,
   ⟨w03 11, 0, (headOf (w03 11) 0), by unfold Reporting CidsFresh; decide +kernel⟩,
   ⟨w03 12, 0, (headOf (w03 12) 0), by unfold Reporting CidsFresh; decide +kernel⟩,
   ⟨w03 14, 0, (headOf (w03 14) 0), by unfold Reporting CidsFresh; decide +kernel⟩,
   ⟨w03 16, 0, (headOf (w03 16) 0), by unfold Reporting CidsFresh; decide +kernel⟩⟩

theorem test_met_FlagsAndLists :
    (∃ (s : State) (g : Fin 1024) (p : List Byte),
      s.ready (g.val) 3 false = some p ∧ Reporting s g.val ∧ s.flags.getLsbD (par p 16 1) = (par p 17 1 == 1)) ∧
    (∃ (s : State) (g : Fin 1024) (p : List Byte),
      s.ready (g.val) 3 false = some p ∧ Reporting s g.val ∧ s.flags.getLsbD (par p 16 1) ≠ (par p 17 1 == 1) ∧
      pktDeadline p = 0) ∧
    (∃ (s : State) (g : Fin 1024) (x : Cmd) (f : Nat) (v : Bool) (d : Nat),
      s.waiting g.val = some (x.cid, f, v, d) ∧ s.cmd? x.cid = some x ∧ x.mir = [] ∧ s.enginesRun = true ∧
      Reporting s x.ring ∧ (s.ring x.ring).halted = false ∧ x.detached = false ∧ s.flags.getLsbD f = v) ∧
    (∃ (s : State) (g : Fin 1024) (x : Cmd) (f : Nat) (v : Bool) (d : Nat),
      s.waiting g.val = some (x.cid, f, v, d) ∧ s.cmd? x.cid = some x ∧ x.mir = [] ∧ s.enginesRun = true ∧
      Reporting s x.ring ∧ (s.ring x.ring).halted = false ∧ x.detached = false ∧ s.flags.getLsbD f ≠ v ∧ d ≠ 0 ∧
      0 < past48 s.now48 d) ∧
    (∃ (s : State) (g : Fin 1024) (p : List Byte),
      s.ready (g.val) 5 false = some p ∧ Reporting s g.val) ∧
    (∃ (s : State),
      s.reaches 0 = true ∧ (s.pwr.dev = .run ∨ s.pwr.dev = .economy)) ∧
    (∃ (g : Fin 1024) (h a b : FlagOp) (l : List FlagAccess), l.Perm [.engine g, .host h, .hk 0 a, .hk 1 b]) ∧
    (∃ (s : State) (c d : Fin 2) (a : BitVec 16) (bs : List Byte), s.hkStores.length = 2 ∧ s.hkRuns c.val = true ∧ d ≠ c ∧
      a.toNat % 4 = 0 ∧ bs.length = 4 ∧ s.hkRuns d.val = true ∧ s.hkPending d.val = [] ∧ s.hkPending c.val = []) ∧
    (∃ (s : State) (c : Fin 2), s.hkRuns c.val = true ∧ s.hkPending c.val ≠ []) :=
  ⟨⟨w03 17, 0, (headOf (w03 17) 0), by unfold Reporting CidsFresh; decide +kernel⟩,
   ⟨w03 18, 0, (headOf (w03 18) 0), by unfold Reporting CidsFresh; decide +kernel⟩,
   ⟨w03 20, 0, (cmdOf (w03 20)), 5, false, 0, by unfold Reporting CidsFresh; decide +kernel⟩,
   ⟨w03 22, 0, (cmdOf (w03 22)), 5, true, 9, by unfold Reporting CidsFresh; decide +kernel⟩,
   ⟨w03 23, 0, (headOf (w03 23) 0), by unfold Reporting CidsFresh; decide +kernel⟩,
   ⟨w02 0, by decide +kernel⟩,
   ⟨0, .set 1 1, .clear 1 1, .read 1, _, List.Perm.refl _⟩,
   ⟨up, 0, 1, 8, [1, 2, 3, 4], by decide +kernel⟩,
   ⟨{ up with hkStores := [[(8, [1, 2, 3, 4])], []] }, 0, by decide +kernel⟩⟩

theorem test_met_RegistersWritten :
    (∃ (s : State) (b : BitVec 12),
      s.reaches 0 = true ∧ (s.pwr.dev = .run ∨ s.pwr.dev = .economy) ∧ b.toNat % 4 = 0 ∧ Memory.wf s.kmbx = true) ∧
    (∃ (s : State),
      s.reaches 0 = true ∧ s.answers BlockGroup.engine = true) ∧
    (∃ (s : State) (v : Word),
      s.reaches 0 = true ∧ s.answers BlockGroup.host = true ∧
      (BitVec.setWidth 16 v - s.hif.vlogRd).toNat ≤ (s.hif.vlogWr - s.hif.vlogRd).toNat) ∧
    (∃ (s : State) (v : Word),
      s.reaches 0 = true ∧ s.answers BlockGroup.host = true ∧
      (s.hif.vlogWr - s.hif.vlogRd).toNat < (BitVec.setWidth 16 v - s.hif.vlogRd).toNat) ∧
    (∃ (s : State) (v : Word),
      s.reaches 0 = true ∧ s.answers BlockGroup.host = true ∧ BitVec.getLsbD v 7 = true) ∧
    (∃ (s : State) (v : Word),
      s.reaches 0 = true ∧ s.answers BlockGroup.host = true ∧ BitVec.getLsbD v 7 = false) ∧
    (∃ (s : State) (off : Nat), s.reaches 0 = true ∧ (s.pwr.dev = .run ∨ s.pwr.dev = .economy) ∧ off % 4 = 0 ∧
      off < 0x1000000 ∧ off ≠ 0x20000 ∧ off ≠ 0x50008) ∧
    (∃ (s : State) (page : Fin 1024) (g : Nat), s.reaches 0 = true ∧ (s.pwr.dev = .run ∨ s.pwr.dev = .economy) ∧
      s.pageRing 0 page.val = some g) :=
  ⟨⟨w02 0, 0x0, by decide +kernel⟩,
   ⟨w02 0, by decide +kernel⟩,
   ⟨w02 0, 0x0, by decide +kernel⟩,
   ⟨w02 0, 0x1, by decide +kernel⟩,
   ⟨w02 0, 0x80, by decide +kernel⟩,
   ⟨w02 0, 0x0, by decide +kernel⟩,
   ⟨up, 0xFFFFFC, by decide +kernel⟩,
   ⟨up, 1023, 1023, by decide +kernel⟩⟩

theorem test_met_SysLock :
    (∃ (s : State) (v : Word),
      s.reaches 0 = true ∧ s.answers BlockGroup.host = true ∧ BitVec.getLsbD v 0 = true) ∧
    (∃ (s : State) (st : Start),
      s.pwr.start = some st ∧ st.held = false) :=
  ⟨⟨w02 0, 0x1, by decide +kernel⟩,
   ⟨w02 16, start0, by decide +kernel⟩⟩

theorem test_met_ReportsConsumed :
    (∃ (s : State) (v : Word),
      s.reaches 0 = true ∧ s.answers BlockGroup.host = true ∧
      (BitVec.setWidth 16 v - s.snt.rd).toNat ≤ (s.snt.wr - s.snt.rd).toNat) ∧
    (∃ (s : State) (v : Word),
      s.reaches 0 = true ∧ s.answers BlockGroup.host = true ∧
      (s.snt.wr - s.snt.rd).toNat < (BitVec.setWidth 16 v - s.snt.rd).toNat) ∧
    (∃ (s : State),
      s.reaches 0 = true ∧ s.answers BlockGroup.host = true ∧ (s.snt.wr - s.snt.rd).toNat ≤ 64) :=
  ⟨⟨w02 0, 0x0, by decide +kernel⟩,
   ⟨w02 0, 0x1, by decide +kernel⟩,
   ⟨w02 0, by decide +kernel⟩⟩

theorem test_met_RingBlockOwners :
    (∃ (s : State) (g : Nat),
      s.reaches 0 = true ∧ s.answers BlockGroup.host = true ∧ s.hif.owner.length = 16 ∧ g < 64) ∧
    (∃ (s : State),
      s.reaches 0 = true ∧ s.answers BlockGroup.host = true ∧ s.hif.owner.length = 16 ∧ s.hif.vfEn = false ∧
      s.sys.lock = false) ∧
    (∃ (s : State),
      s.reaches 0 = true ∧ s.answers BlockGroup.host = true ∧ s.hif.owner.length = 16 ∧
      (s.hif.vfEn = true ∨ s.sys.lock = true)) :=
  ⟨⟨w02 0, 0, by decide +kernel⟩,
   ⟨w02 0, by decide +kernel⟩,
   ⟨w03 1, by decide +kernel⟩⟩

theorem test_met_RemoteRegisters :
    (∃ (s : State) (v : Word),
      s.reaches 0 = true ∧ s.answers BlockGroup.engine = true ∧ s.pins.role = .master ∧ s.casc.rgo = none ∧
      BitVec.getLsbD v 31 = true ∧ (s.member (BitVec.toNat v / 2 ^ 25 % 8)).state = 2 ∧
      BitVec.toNat v / 2 ^ 25 % 8 ≠ s.casc.device ∧ s.casc.route.getD (BitVec.toNat v / 2 ^ 25 % 8) 3 ≠ 3 ∧
      BitVec.getLsbD v 28 = false) ∧
    (∃ (s : State) (v : Word),
      s.reaches 0 = true ∧ s.answers BlockGroup.engine = true ∧ s.pins.role = .master ∧ s.casc.rgo = none ∧
      BitVec.getLsbD v 31 = true ∧ (s.member (BitVec.toNat v / 2 ^ 25 % 8)).state = 2 ∧
      BitVec.toNat v / 2 ^ 25 % 8 ≠ s.casc.device ∧ s.casc.route.getD (BitVec.toNat v / 2 ^ 25 % 8) 3 ≠ 3 ∧
      BitVec.getLsbD v 28 = true ∧ 4 * (BitVec.toNat v / 4 % 2 ^ 23) / 65536 ≠ 4 ∧
      4 * (BitVec.toNat v / 4 % 2 ^ 23) / 65536 ≠ 14 ∧ 4 * (BitVec.toNat v / 4 % 2 ^ 23) / 65536 ≠ 15) ∧
    (∃ (s : State) (v : Word),
      s.reaches 0 = true ∧ s.answers BlockGroup.engine = true ∧ s.pins.role = .master ∧ s.casc.rgo = none ∧
      BitVec.getLsbD v 31 = true ∧ (s.member (BitVec.toNat v / 2 ^ 25 % 8)).state = 2 ∧
      BitVec.toNat v / 2 ^ 25 % 8 ≠ s.casc.device ∧ s.casc.route.getD (BitVec.toNat v / 2 ^ 25 % 8) 3 ≠ 3 ∧
      BitVec.getLsbD v 28 = true ∧
      (4 * (BitVec.toNat v / 4 % 2 ^ 23) / 65536 = 4 ∨ 4 * (BitVec.toNat v / 4 % 2 ^ 23) / 65536 = 14 ∨ 4 * (BitVec.toNat v / 4 % 2 ^ 23) / 65536 = 15)) ∧
    (∃ (s : State) (v : Word),
      s.reaches 0 = true ∧ s.answers BlockGroup.engine = true ∧ s.pins.role = .master ∧ s.casc.rgo = none ∧
      BitVec.getLsbD v 31 = true ∧ (s.member (BitVec.toNat v / 2 ^ 25 % 8)).state ≠ 2) ∧
    (∃ (s : State) (ctl : Word) (w : Word),
      s.reaches 0 = true ∧ s.answers BlockGroup.engine = true ∧ s.casc.rgo = some (ctl, w)) ∧
    (∃ (s : State) (off : Nat),
      s.pins.role = .member ∧ s.casc.numbered = true ∧ s.casc.fenced = false ∧ s.mainLive = true ∧
      s.casc.portUp.state = .up ∧ (s.pwr.dev = .run ∨ s.pwr.dev = .economy) ∧ off % 4 = 0 ∧
      (off / 65536 = 4 ∨ off / 65536 = 14 ∨ off / 65536 = 15)) ∧
    (∃ (s : State) (off : Nat),
      s.pins.role = .member ∧ s.casc.numbered = true ∧ s.casc.fenced = false ∧ s.mainLive = true ∧
      s.casc.portUp.state = .up ∧ (s.pwr.dev = .run ∨ s.pwr.dev = .economy) ∧ off % 4 = 0 ∧ off < 1048576 ∧
      off ≠ 131072 ∧ off ≠ 327688) :=
  ⟨⟨w04 8, 0x82000020, by decide +kernel⟩,
   ⟨w04 8, 0x92000020, by decide +kernel⟩,
   ⟨w04 8, 0x92040000, by decide +kernel⟩,
   ⟨w04 8, 0x84000000, by decide +kernel⟩,
   ⟨w04 9, 0x82000020, 0x0, by decide +kernel⟩,
   ⟨w04 11, 0x40000, by decide +kernel⟩,
   ⟨w04 11, 0, by decide +kernel⟩⟩

theorem test_met_Bar4 :
    (∃ (s : State),
      s.hostUp = true ∧ s.debugOpen = false) ∧
    (∃ (s : State),
      s.hostUp = true ∧ s.decodes 0 = false) ∧
    (∃ (s : State) (addr : Nat) (len : Nat),
      s.hostUp = true ∧ s.debugOpen = true ∧ s.decodes 0 = true ∧ addr < 67108864 ∧
      (addr % len ≠ 0 ∨ len ≠ 4 ∧ len ≠ 8 ∧ len ≠ 16 ∧ len ≠ 32)) ∧
    (∃ (s : State) (addr : Nat) (len : Nat),
      s.hostUp = true ∧ s.debugOpen = true ∧ s.decodes 0 = true ∧ addr < 67108864 ∧ (len = 4 ∨ len = 8 ∨ len = 16 ∨ len = 32) ∧
      addr % len = 0 ∧ (s.pwr.dev = .run ∨ s.pwr.dev = .economy) ∧ s.maintOut < 16) ∧
    (∃ (s : State) (addr : Nat) (len : Nat) (bs : List Byte),
      s.hostUp = true ∧ s.debugOpen = true ∧ s.decodes 0 = true ∧ addr < 67108864 ∧ (len = 4 ∨ len = 8 ∨ len = 16 ∨ len = 32) ∧
      addr % len = 0 ∧ (s.pwr.dev = .run ∨ s.pwr.dev = .economy) ∧ bs.length = len) :=
  ⟨⟨w11 9, by decide +kernel⟩,
   ⟨State.reset, by decide +kernel⟩,
   ⟨svc, 0, 240, by decide +kernel⟩,
   ⟨svc, 0, 4, by decide +kernel⟩,
   ⟨svc, 0, 4, List.replicate 4 0, by decide +kernel⟩⟩

theorem test_met_SmbusTarget :
    (∃ (s : State) (code : Byte) (w : Word),
      s.pwr.railGood.getLsbD 0 = true ∧ s.pwr.dev ≠ .off ∧ s.smbRead (BitVec.toNat code) = some w ∧ code ≠ 32) ∧
    (∃ (s : State) (code : Byte),
      s.pwr.railGood.getLsbD 0 = true ∧ s.pwr.dev ≠ .off ∧ s.smbRead (BitVec.toNat code) = none ∧
      s.sys.smbErrors < 65535) ∧
    (∃ (s : State),
      s.pwr.railGood.getLsbD 0 = true ∧ s.pwr.dev ≠ .off ∧ s.pins.alertLow = true) ∧
    (∃ (s : State) (k : Nat),
      s.pwr.railGood.getLsbD 0 = true ∧ s.pwr.dev ≠ .off ∧ s.sys.smbErrors < 65535 ∧ (k = 1 ∨ k = 2)) ∧
    (∃ (s : State) (k : Nat),
      s.pwr.railGood.getLsbD 0 = true ∧ s.pwr.dev ≠ .off ∧ s.sys.smbErrors < 65535 ∧ (k = 3 ∨ k = 4)) :=
  ⟨⟨w02 0, 0x1, 0x0, by decide +kernel⟩,
   ⟨w02 0, 0xff, by decide +kernel⟩,
   ⟨w04 14, by decide +kernel⟩,
   ⟨w02 0, 1, by decide +kernel⟩,
   ⟨w02 0, 3, by decide +kernel⟩⟩

theorem test_met_TapInstructions :
    (∃ s : State, s.tapUp = false) ∧
    (∃ (s : State) (addr : Nat),
      s.tapUp = true ∧ s.debugOpen = true ∧ s.mainLive = true ∧ (s.pwr.dev = .run ∨ s.pwr.dev = .economy) ∧ addr % 4 = 0 ∧
      addr < 67108864 ∧ s.maintOut < 16) ∧
    (∃ (s : State),
      s.tapUp = true ∧ s.debugOpen = false) ∧
    (∃ (s : State),
      s.tapUp = true ∧ s.lcs.active = LcState.manufacture ∧ s.lcs.closed = false) ∧
    (∃ (s : State),
      s.tapUp = true ∧ s.lcs.active ≠ LcState.manufacture) :=
  ⟨⟨w02 9, by decide +kernel⟩,
   ⟨svc, 0, by decide +kernel⟩,
   ⟨w11 9, by decide +kernel⟩,
   ⟨svc, by decide +kernel⟩,
   ⟨w11 5, by decide +kernel⟩⟩

theorem test_met_PacketsLost :
    (∃ (s : State) (p : Packet), s.moated p = true) ∧
    (∃ (s : State) (p : Packet) (h : Hop), s.moated p = false ∧ s.wayClear p = false ∧ h ∈ s.way p ∧ h.ter < 64 ∧
      s.ters.length = 64 ∧ s.pwr.terraces.length = 64) ∧
    (∃ (s : State) (p : Packet), s.wayClear p = true ∧ s.rillTurn p = false) ∧
    (∃ (s : State) (p : Packet), s.wayClear p = true ∧ s.rillTurn p = true ∧ packetSound p = true ∧ p.damage = .header ∧
      s.ters.length = 64) ∧
    (∃ (s : State) (p : Packet), s.rillTurn p = true ∧ packetSound p = false ∧ s.ters.length = 64 ∧ packetStart p s.isMe < 64) ∧
    (∃ (s : State) (p q : Packet) (h k : Hop), k.port = h.port ∧ q.vc = 1 ∧ p.vc ≠ 1 ∧ s.rill = [p, q]) ∧
    (∃ (p q : Packet) (h k : Hop), k.port = h.port ∧ p.vc = 0 ∧ q.vc = 2) ∧
    (∃ (p q : Packet) (h k : Hop), k.port = h.port ∧ p.vc = 2 ∧ q.vc = 0) ∧
    (∃ (p q : Packet) (h k : Hop), k.port = h.port ∧ p.vc = q.vc ∧ h.inp < 5 ∧ k.inp < 5 ∧ k.inp ≠ h.inp) ∧
    (∃ (p q : Packet) (h k : Hop), k.port = h.port ∧ p.vc = q.vc ∧ k.inp = h.inp) :=
  ⟨⟨w05 16, rillPacket (w05 16) 1, by decide +kernel⟩,
   ⟨withPk (pk 1 0 1) up, pk 1 0 1, ((withPk (pk 1 0 1) up).way (pk 1 0 1)).headD hop0, by decide +kernel⟩,
   ⟨{ loaded with rill := [pk 1 0 2, pk 1 0 1] }, pk 1 0 1, by decide +kernel⟩,
   ⟨w05 3, rillPacket (w05 3) 1, by decide +kernel⟩,
   ⟨w05 0, rillPacket (w05 0) 0, by decide +kernel⟩,
   ⟨{ loaded with rill := [pk 1 0 1, pk 0x10 1 0] }, pk 1 0 1, pk 0x10 1 0, hop0, hop0, by decide +kernel⟩,
   ⟨pk 1 0 1, pk 0x23 2 0, hop0, hop0, by decide⟩,
   ⟨pk 0x23 2 0, pk 1 0 1, hop0, hop0, by decide⟩,
   ⟨pk 1 0 1, pk 1 0 1, hop0, { hop0 with inp := 4 }, by decide⟩,
   ⟨pk 1 0 1, pk 2 0 1, hop0, hop0, by decide⟩⟩

theorem test_met_DataMoved :
    (∃ (s : State) (p : Packet) (g : Graph) (i : Nat) (x : Slot) (pl : Placement),
      Memory.wf s.cistern = true ∧ Arrives s p ∧ p.dstEngine = false ∧ s.slotAt p.dstTer p.slot = some (g, i) ∧
      g.slots[i]? = some x ∧ x.isOut = false ∧ p.buf < x.bufs.length ∧ p.offset + p.flits ≤ 2 * x.lines ∧
      (((g.consumer i).bind fun k => g.cgd.places[k]?) = some pl) ∧ (p.typ = 1 ∨ p.typ = 2)) ∧
    (∃ (s : State) (p : Packet) (g : Graph) (i : Nat) (x : Slot),
      Arrives s p ∧ p.typ = 3 ∧ p.dstEngine = false ∧ s.isMe p.srcDev = true ∧
      s.slotAt p.dstTer p.slot = some (g, i) ∧ g.slots[i]? = some x ∧ p.buf < x.bufs.length) ∧
    (∃ (s : State) (p : Packet),
      Arrives s p ∧ p.typ = 18 ∧ p.dstEngine = true ∧ (s.readPlace? p).isSome = true) ∧
    (∃ (s : State) (p : Packet),
      Arrives s p ∧ p.typ = 18 ∧ p.dstEngine = true ∧ s.readPlace? p = none ∧ s.ters.length = 64) :=
  ⟨⟨w05 0, (rillPacket (w05 0) 1), (graphOf (w05 0)), 0, ((graphOf (w05 0)).slots.getD 0 (slot 0 false)), place0, by unfold Arrives; decide +kernel⟩,
   ⟨w05 5, (rillPacket (w05 5) 1), (graphOf (w05 5)), 0, ((graphOf (w05 5)).slots.getD 0 (slot 0 false)), by unfold Arrives; decide +kernel⟩,
   ⟨w05 7, (rillPacket (w05 7) 1), by unfold Arrives; decide +kernel⟩,
   ⟨{ w05 7 with readSpace := [] }, (rillPacket (w05 7) 1), by unfold Arrives; decide +kernel⟩⟩

theorem test_met_PacketsActed :
    (∃ (s : State) (p : Packet) (g : Graph),
      Arrives s p ∧ p.typ = 16 ∧ s.graph? p.graph = some g ∧ g.ports = [] ∧ p.arg < g.credit.length) ∧
    (∃ (s : State) (p : Packet),
      Arrives s p ∧ p.typ = 17 ∧ p.dstEngine = false) ∧
    (∃ (s : State) (p : Packet),
      Arrives s p ∧ p.typ = 35 ∧ p.dstEngine = false ∧ p.dstTer < s.ters.length ∧
      (∀ q ∈ s.rillLess p, s.isMe q.dstDev = true)) ∧
    (∃ (s : State) (p : Packet),
      Arrives s p ∧ p.typ = 32 ∧ p.dstEngine = false ∧ p.dstTer < 64 ∧ p.graph = 1 ∧ p.buf ≤ 3 ∧ p.flits = 1 ∧
      p.offset + 4 * 2 ^ p.buf ≤ 32 ∧ s.cisOpen p.dstTer p.runSeq = true ∧ Memory.wf s.cistern = true ∧
      s.bankReserved p.dstTer (halfBank p.runSeq) = false) ∧
    (∃ (s : State) (p : Packet),
      Arrives s p ∧ p.typ = 32 ∧ p.dstEngine = false ∧ p.dstTer < 64 ∧ p.graph = 1 ∧ p.buf ≤ 3 ∧ p.flits = 1 ∧
      p.offset + 4 * 2 ^ p.buf ≤ 32 ∧ s.cisOpen p.dstTer p.runSeq = true ∧ Memory.wf s.cistern = true ∧
      s.bankReserved p.dstTer (halfBank p.runSeq) = true) ∧
    (∃ (s : State) (p : Packet),
      Arrives s p ∧ p.typ = 33 ∧ p.dstEngine = false ∧ s.isMe p.srcDev = true ∧ p.dstTer < 64 ∧ p.graph = 0 ∧
      p.buf = 0) ∧
    (∃ (s : State) (p : Packet),
      Arrives s p ∧ p.typ = 34 ∧ p.dstEngine = true ∧ s.maintOut ≠ 0 ∧ s.maintQ = [] ∧ p.slot = 0) ∧
    (∃ (s : State) (h : Nat) (place : Nat) (edge : Nat) (g : Graph) (pl : Placement) (e : EdgeRec) (f : Forward) (q : Packet),
      s.graph? h = some g ∧ g.cgd.places[place]? = some pl ∧ g.cgd.edges[edge]? = some e ∧
      s.nextForward pl.ter = some (f, edge) ∧ f.handle = h ∧ f.place = place ∧ s.terPower pl.ter = .good ∧
      s.edgePacket g pl f e false = some q ∧ s.isMe q.dstDev = true ∧ edge < g.credit.length ∧ f.edges = [edge]) ∧
    (∃ (s : State) (h : Nat) (place : Nat) (edge : Nat) (g : Graph) (pl : Placement) (e : EdgeRec) (f : Forward) (q : Packet),
      s.graph? h = some g ∧ g.cgd.places[place]? = some pl ∧ g.cgd.edges[edge]? = some e ∧
      s.nextForward pl.ter = some (f, edge) ∧ f.handle = h ∧ f.place = place ∧ s.terPower pl.ter = .good ∧
      s.edgePacket g pl f e false = some q ∧ s.isMe q.dstDev = true ∧ edge < g.credit.length ∧
      f.edges.erase edge ≠ []) :=
  ⟨⟨w05 8, (rillPacket (w05 8) 1), (graphOf (w05 8)), by unfold Arrives; decide +kernel⟩,
   ⟨w05 9, (rillPacket (w05 9) 1), by unfold Arrives; decide +kernel⟩,
   ⟨w05 11, (rillPacket (w05 11) 1), by unfold Arrives; decide +kernel⟩,
   ⟨w05 13, (rillPacket (w05 13) 1), by unfold Arrives; decide +kernel⟩,
   ⟨withPk (maintPk 4096) (gs g0 svc), maintPk 4096, by unfold Arrives; decide +kernel⟩,
   ⟨w05 14, (rillPacket (w05 14) 1), by unfold Arrives; decide +kernel⟩,
   ⟨w05 15, (rillPacket (w05 15) 1), by unfold Arrives; decide +kernel⟩,
   ⟨w05 17, 5, 0, 0, (graphOf (w05 17)), place0, ((graphOf (w05 17)).cgd.edges.getD 0 edge0), ((w05 17).fwds.getD 0 fwd0), (((w05 17).edgePacket (graphOf (w05 17)) place0 ((w05 17).fwds.getD 0 fwd0) ((graphOf (w05 17)).cgd.edges.getD 0 edge0) false).getD (pk 0 0 0)), by decide +kernel⟩,
   ⟨w05 18, 5, 0, 0, (graphOf (w05 18)), place0, ((graphOf (w05 18)).cgd.edges.getD 0 edge0), ((w05 18).fwds.getD 0 fwd0), (((w05 18).edgePacket (graphOf (w05 18)) place0 ((w05 18).fwds.getD 0 fwd0) ((graphOf (w05 18)).cgd.edges.getD 0 edge0) false).getD (pk 0 0 0)), by decide +kernel⟩⟩

theorem test_met_GraphsLoaded :
    (∃ (s : State) (g : Fin 1024) (p : List Byte),
      s.ready (g.val) 16 false = some p ∧ Reporting s g.val ∧ ((s.casc.pairs.any fun k => k.failCid.isSome) = false)) ∧
    (∃ (s : State) (x : Cmd) (addr : DWord) (len : Nat) (off : Nat) (win : Nat) (bytes : List Byte) (f : LoadFail),
      s.cmd? x.cid = some x ∧ x.body = .graphLoad addr len false off win ∧ x.mir = [] ∧ x.detached = false ∧
      (s.ring x.ring).halted = false ∧ Reporting s x.ring ∧ s.bistRunning = false ∧
      s.loadChecks x.cid (readBytes len bytes) len = some f) ∧
    (∃ (s : State) (x : Cmd) (addr : DWord) (len : Nat) (off : Nat) (win : Nat),
      s.cmd? x.cid = some x ∧ x.body = .graphLoad addr len false off win ∧ x.mir = [] ∧ x.detached = false ∧
      (s.ring x.ring).halted = false ∧ Reporting s x.ring ∧ s.bistRunning = false ∧ s.hif.toDisable = false ∧ x.held = none) ∧
    (∃ (s : State) (g : Fin 1024) (p : List Byte) (x : Graph),
      s.ready (g.val) 17 false = some p ∧ Reporting s g.val ∧ s.liveGraph (par p 16 2) = some x ∧
      s.mirrorStopped x.devs = false) ∧
    (∃ (s : State) (g : Fin 1024) (p : List Byte),
      s.ready (g.val) 17 false = some p ∧ Reporting s g.val ∧ s.liveGraph (par p 16 2) = none) ∧
    (∃ (s : State) (h : Nat) (c : Nat) (x : Graph),
      s.graph? h = some x ∧ x.unload = some c ∧ s.runsOf h = []) :=
  ⟨⟨w06 0, 0, (headOf (w06 0) 0), by unfold Reporting CidsFresh; decide +kernel⟩,
   ⟨w06 19, (cmdOf (w06 19)), 0x9000, 240, 0, 0, [], { check := 1, table := 0, index := 0xFFFF, status := stMalformed }, by unfold Reporting CidsFresh; decide +kernel⟩,
   ⟨w06 19, (cmdOf (w06 19)), 0x9000, 240, 0, 0, by unfold Reporting CidsFresh; decide +kernel⟩,
   ⟨w06 1, 0, (headOf (w06 1) 0), (graphOf (w06 1)), by unfold Reporting CidsFresh; decide +kernel⟩,
   ⟨w06 2, 0, (headOf (w06 2) 0), by unfold Reporting CidsFresh; decide +kernel⟩,
   ⟨w06 20, 5, 7, (graphOf (w06 20)), by decide +kernel⟩⟩

theorem test_met_TensorsStaged :
    (∃ (s : State) (r : Fin 1024) (p : List Byte) (g : Graph) (o : PortRec) (input : Bool),
      (s.ready (r.val) (if input = true then 20 else 21) false = some p) ∧ Reporting s r.val ∧
      s.liveGraph (par p 16 2) = some g ∧ g.cgd.ports[par p 18 1]? = some o ∧
      (o.kind = if input = true then 0 else 1) ∧ o.bytes = par p 20 4 ∧
      (List.filter (fun x => x.handle == par p 16 2 && x.port == par p 18 1) s.staged).length < 16) ∧
    (∃ (s : State) (r : Fin 1024) (p : List Byte) (g : Graph) (o : PortRec) (input : Bool),
      (s.ready (r.val) (if input = true then 20 else 21) false = some p) ∧ Reporting s r.val ∧
      s.liveGraph (par p 16 2) = some g ∧ g.cgd.ports[par p 18 1]? = some o ∧
      (o.kind = if input = true then 0 else 1) ∧ o.bytes = par p 20 4 ∧
      16 ≤ (List.filter (fun x => x.handle == par p 16 2 && x.port == par p 18 1) s.staged).length) :=
  ⟨⟨w06 3, 0, (headOf (w06 3) 0), (graphOf (w06 3)), ((graphOf (w06 3)).cgd.ports.getD 0 port0), true, by unfold Reporting CidsFresh; decide +kernel⟩,
   ⟨w06 11, 0, (headOf (w06 11) 0), (graphOf (w06 11)), ((graphOf (w06 11)).cgd.ports.getD 0 port0), true, by unfold Reporting CidsFresh; decide +kernel⟩⟩

theorem test_met_SettingsStored :
    (∃ (s : State) (r : Fin 1024) (p : List Byte) (g : Graph),
      Reporting s r.val ∧ s.liveGraph (par p 16 2) = some g ∧ s.pairsFor g.devs = [] ∧ s.ready (r.val) 22 false = some p ∧
      ((g.cgd.places.any fun x => x.layer == par p 18 2) = true) ∧
      (∀ x ∈ g.cgd.places, x.layer = par p 18 2 → par p 20 1 ≤ min 15 (2 ^ min 8 x.q - 1))) ∧
    (∃ (s : State) (r : Fin 1024) (p : List Byte) (g : Graph),
      Reporting s r.val ∧ s.liveGraph (par p 16 2) = some g ∧ s.pairsFor g.devs = [] ∧ s.ready (r.val) 23 false = some p) :=
  ⟨⟨w06 5, 0, (headOf (w06 5) 0), (graphOf (w06 5)), by unfold Reporting CidsFresh; decide +kernel⟩,
   ⟨w06 9, 0, (headOf (w06 9) 0), (graphOf (w06 9)), by unfold Reporting CidsFresh; decide +kernel⟩⟩

theorem test_met_SettingsRefused :
    (∃ (s : State) (r : Fin 1024) (p : List Byte),
      Reporting s r.val ∧ s.ready (r.val) 22 false = some p ∧ s.liveGraph (par p 16 2) = none) ∧
    (∃ (s : State) (r : Fin 1024) (p : List Byte) (g : Graph),
      Reporting s r.val ∧ s.ready (r.val) 22 false = some p ∧ s.liveGraph (par p 16 2) = some g ∧
      ((g.cgd.places.any fun x => x.layer == par p 18 2) = false)) ∧
    (∃ (s : State) (r : Fin 1024) (p : List Byte) (g : Graph) (x : Placement),
      Reporting s r.val ∧ s.ready (r.val) 22 false = some p ∧ s.liveGraph (par p 16 2) = some g ∧ x ∈ g.cgd.places ∧
      x.layer = par p 18 2 ∧ min 15 (2 ^ min 8 x.q - 1) < par p 20 1) ∧
    (∃ (s : State) (r : Fin 1024) (p : List Byte),
      Reporting s r.val ∧ s.ready (r.val) 23 false = some p ∧ s.liveGraph (par p 16 2) = none) :=
  ⟨⟨w06 6, 0, (headOf (w06 6) 0), by unfold Reporting CidsFresh; decide +kernel⟩,
   ⟨w06 7, 0, (headOf (w06 7) 0), (graphOf (w06 7)), by unfold Reporting CidsFresh; decide +kernel⟩,
   ⟨w06 8, 0, (headOf (w06 8) 0), (graphOf (w06 8)), place1, by unfold Reporting CidsFresh; decide +kernel⟩,
   ⟨w06 10, 0, (headOf (w06 10) 0), by unfold Reporting CidsFresh; decide +kernel⟩⟩

theorem test_met_RunsBooked :
    (∃ (s : State) (r : Fin 1024) (p : List Byte) (g : Graph),
      s.liveGraph (par p 16 2) = some g ∧ s.ready (r.val) 18 false = some p ∧ s.lostDev g = none ∧
      s.unstagedPort g = none ∧ r.val ∉ s.slc.waiting) ∧
    (∃ (s : State) (r : Fin 1024) (p : List Byte) (g : Graph),
      s.liveGraph (par p 16 2) = some g ∧ s.ready (r.val) 19 false = some p ∧ s.lostDev g = none ∧
      g.window.isSome = true ∧ r.val ∉ s.slc.waiting) ∧
    (∃ (s : State) (r : Fin 1024) (p : List Byte) (g : Graph) (start : Nat) (bound : Nat),
      s.liveGraph (par p 16 2) = some g ∧ s.slc.waiting = [r.val] ∧ s.pwr.dev ≠ .dry ∧ s.mirrorStopped g.devs = false ∧
      CidsFresh s ∧ s.ready (r.val) 18 false = some p ∧ s.unstagedPort g = none ∧
      s.runVerdict g (s.ring r.val).cls (s.absolute (pktDeadline p)) = Verdict.booked start bound) ∧
    (∃ (s : State) (r : Fin 1024) (p : List Byte) (g : Graph) (k : Nat) (f : Nat × Nat),
      s.liveGraph (par p 16 2) = some g ∧ s.slc.waiting = [r.val] ∧ s.pwr.dev ≠ .dry ∧ s.mirrorStopped g.devs = false ∧
      CidsFresh s ∧ s.ready (r.val) 19 false = some p ∧ g.window = some f ∧ s.slc.frame = some k ∧ k < pktDeadline p ∧
      s.tableFull g.handle = none ∧ s.windowRun g.handle (pktDeadline p) = none ∧
      1000 * (s.slc.frameAt + (pktDeadline p - k) * s.slc.curPeriod + f.1) + s.runNeed g ≤ s.horizon) :=
  ⟨⟨w06 12, 0, (headOf (w06 12) 0), (graphOf (w06 12)), by decide +kernel⟩,
   ⟨w06 13, 0, (headOf (w06 13) 0), (graphOf (w06 13)), by decide +kernel⟩,
   ⟨w06 14, 0, (headOf (w06 14) 0), (graphOf (w06 14)), 0, 1100, by unfold CidsFresh; decide +kernel⟩,
   ⟨w06 15, 0, (headOf (w06 15) 0), (graphOf (w06 15)), 2, (10, 20), by unfold CidsFresh; decide +kernel⟩⟩

theorem test_met_RunsGoOn :
    (∃ (s : State) (h : Nat) (k : Nat) (g : Graph) (f : Nat × Nat),
      s.graph? h = some g ∧ s.slc.frame = some k ∧ g.frame = some f ∧ h ∉ s.slc.fired ∧
      (s.windowNow f).1 ≤ s.nowNs ∧ s.windowRun h k = none) ∧
    (∃ (s : State) (x : Cmd) (run : Run) (g : Graph),
      s.cmd? x.cid = some x ∧ x.body = .run run ∧ s.graph? run.handle = some g ∧ s.enginesRun = true ∧
      run.begun = false ∧ run.window = none ∧ s.tersGood g = true ∧ run.notBefore ≤ s.nowNs ∧
      s.inTurn run.handle x.cid = true) ∧
    (∃ (s : State) (x : Cmd) (run : Run) (g : Graph) (k : Nat) (f : Nat × Nat),
      s.cmd? x.cid = some x ∧ x.body = .run run ∧ s.graph? run.handle = some g ∧ s.enginesRun = true ∧
      run.begun = false ∧ s.slc.frame = some k ∧ g.frame = some f ∧ run.handle ∉ s.slc.fired ∧
      (s.windowNow f).1 ≤ s.nowNs ∧ s.windowRun run.handle k = some (x, run)) ∧
    (∃ (s : State) (x : Cmd) (run : Run) (g : Graph),
      s.cmd? x.cid = some x ∧ x.body = .run run ∧ s.graph? run.handle = some g ∧ x.held = none ∧ run.begun = true ∧
      run.fault = none ∧ s.runDone g run = true ∧ s.pairsFor g.devs = [] ∧ x.mir = [] ∧ x.detached = false ∧
      (s.ring x.ring).halted = false ∧ Reporting s x.ring) ∧
    (∃ (s : State) (x : Cmd) (run : Run) (g : Graph) (port : Nat) (o : PortRec),
      s.cmd? x.cid = some x ∧ x.body = .run run ∧ s.graph? run.handle = some g ∧ x.held = none ∧ run.begun = false ∧
      unreadPort g run run.readPorts = some port ∧ g.cgd.ports[port]? = some o) ∧
    (∃ (s : State) (x : Cmd) (run : Run) (g : Graph),
      s.cmd? x.cid = some x ∧ x.body = .run run ∧ s.graph? run.handle = some g ∧ x.held = none ∧ run.begun = true) ∧
    (∃ (s : State) (x : Cmd) (run : Run) (g : Graph) (i n : Nat),
      s.cmd? x.cid = some x ∧ x.body = .run run ∧ s.graph? run.handle = some g ∧ s.enginesRun = true ∧
      run.begun = false ∧ run.window = none ∧ s.tersGood g = true ∧ run.notBefore ≤ s.nowNs ∧
      s.inTurn run.handle x.cid = true ∧ i ∈ g.cgd.firstLayer ∧ n ∈ g.phys.getD i [] ∧ s.basinBusy n = true) :=
  ⟨⟨w06 24, 5, 2, (graphOf (w06 24)), (10, 20), by decide +kernel⟩,
   ⟨w06 21, (cmdOf (w06 21)), (runOf (cmdOf (w06 21))), (graphOf (w06 21)), by decide +kernel⟩,
   ⟨w06 23, (cmdOf (w06 23)), (runOf (cmdOf (w06 23))), (graphOf (w06 23)), 2, (10, 20), by decide +kernel⟩,
   ⟨w06 25, (cmdOf (w06 25)), (runOf (cmdOf (w06 25))), (graphOf (w06 25)), by unfold Reporting CidsFresh; decide +kernel⟩,
   ⟨w06 21, (cmdOf (w06 21)), (runOf (cmdOf (w06 21))), (graphOf (w06 21)), 0, ((graphOf (w06 21)).cgd.ports.getD 0 port0), by decide +kernel⟩,
   ⟨w06 27, (cmdOf (w06 27)), (runOf (cmdOf (w06 27))), (graphOf (w06 27)), by decide +kernel⟩,
   ⟨{ w06 21 with evals := [eval0] }, (cmdOf (w06 21)), (runOf (cmdOf (w06 21))), (graphOf (w06 21)), 0, 1, by decide +kernel⟩⟩

theorem test_met_EvaluationsRun :
    (∃ (s : State) (h : Nat) (place : Nat) (g : Graph) (p : Placement) (z : Score),
      s.graph? h = some g ∧ g.cgd.places[place]? = some p ∧ g.score[place]? = some z ∧ (g.inputOf p z).1 = true ∧
      s.mayFire g place p z (g.phys.getD place []) = true) ∧
    (∃ (s : State) (h : Nat) (place : Nat) (g : Graph) (p : Placement) (e : Eval) (x : Slot),
      Memory.wf s.cistern = true ∧ List.find? (fun y => y.handle == h && y.place == place) s.evals = some e ∧
      s.graph? h = some g ∧ g.cgd.places[place]? = some p ∧ g.slots[p.outSlot]? = some x) ∧
    (∃ (s : State) (r : TrackRead),
      trackWf r = true ∧ ((s.basin r.basin).wstate = .valid ∨ (s.basin r.basin).wstate = .failed) ∧
      s.basinInRun r.basin = false ∧ s.enginesRun = true ∧
      s.pwr.fclkTo = none ∧ s.sys.hkHalt.getLsbD 1 = false ∧ s.terPower (r.basin / 64) = .good ∧ trackVerifies (readingsOf r) = true) ∧
    (∃ (s : State) (r : TrackRead),
      trackWf r = true ∧ ((s.basin r.basin).wstate = .valid ∨ (s.basin r.basin).wstate = .failed) ∧
      s.basinInRun r.basin = false ∧ s.enginesRun = true ∧
      s.pwr.fclkTo = none ∧ s.sys.hkHalt.getLsbD 1 = false ∧ s.terPower (r.basin / 64) = .good ∧ trackVerifies (readingsOf r) = false) ∧
    (∃ (s : State) (r : TrackRead),
      trackWf r = true ∧ ((s.basin r.basin).wstate = .valid ∨ (s.basin r.basin).wstate = .failed) ∧
      s.basinInRun r.basin = false ∧ s.enginesRun = true ∧
      s.pwr.fclkTo = none ∧ s.sys.hkHalt.getLsbD 1 = false ∧ s.terPower (r.basin / 64) ≠ .good) ∧
    (∃ (s : State) (b : Fin 4096),
      256 ≤ (s.basin b.val).win.length ∧ -128 ≤ (s.basin b.val).gain ∧ (s.basin b.val).gain ≤ 127 ∧
      -128 ≤ (s.basin b.val).offset ∧ (s.basin b.val).offset ≤ 127) :=
  ⟨⟨w07 1, 5, 0, (graphOf (w07 1)), place0, ((graphOf (w07 1)).score.getD 0 score0), by decide +kernel⟩,
   ⟨w07 2, 5, 0, (graphOf (w07 2)), place0, ((w07 2).evals.getD 0 eval0), ((graphOf (w07 2)).slots.getD 1 (slot 0 false)), by decide +kernel⟩,
   ⟨validBasin 1 loaded, nominal 1, by decide +kernel⟩,
   ⟨validBasin 1 loaded, ⟨1, [1,2,3,4,5,6,7,8]⟩, by decide +kernel⟩,
   ⟨w06 19, nominal 1, by decide +kernel⟩,
   ⟨w07 5, 1, by decide +kernel⟩⟩

theorem test_met_FramesStart :
    (∃ (s : State),
      s.slc.curSrc = 1 ∧ (s.slc.firstEdge = true ∨ 15 * s.slc.curPeriod ≤ 16 * (s.tmr.uptime - s.slc.frameAt))) ∧
    (∃ (s : State),
      s.slc.curSrc = 1 ∧ s.slc.firstEdge = false ∧ 16 * (s.tmr.uptime - s.slc.frameAt) < 15 * s.slc.curPeriod ∧
      s.slc.early < 65535) ∧
    (∃ (s : State),
      s.slc.curSrc = 2 ∧ s.slc.frameAt + s.slc.curPeriod ≤ s.tmr.uptime) ∧
    (∃ (s : State),
      s.slc.curSrc = 1 ∧ s.slc.firstEdge = false ∧ 5 * s.slc.curPeriod ≤ 4 * (s.tmr.uptime - s.slc.frameAt) ∧
      s.slc.missed < 65535) ∧
    (∃ (s : State) (v : Word),
      s.reaches 0 = true ∧ s.answers BlockGroup.engine = true ∧ BitVec.toNat v % 4 ≠ 3 ∧ s.slc.curSrc ≠ 0) ∧
    (∃ (s : State) (v : Word),
      s.reaches 0 = true ∧ s.answers BlockGroup.engine = true ∧ BitVec.toNat v % 4 = 3 ∧ s.slc.curSrc ≠ 0) ∧
    (∃ (s : State) (v : Word),
      s.reaches 0 = true ∧ s.answers BlockGroup.engine = true ∧ BitVec.toNat v % 4 = 2 ∧ s.slc.curSrc = 0) ∧
    (∃ (s : State) (v : Word),
      s.reaches 0 = true ∧ s.answers BlockGroup.engine = true ∧ s.slc.curSrc = 0 ∧
      BitVec.toNat v % 4 < 2) :=
  ⟨⟨w07 6, by decide +kernel⟩,
   ⟨w04 7, by decide +kernel⟩,
   ⟨w07 9, by decide +kernel⟩,
   ⟨w07 10, by decide +kernel⟩,
   ⟨w04 7, 0x0, by decide +kernel⟩,
   ⟨w04 7, 0x3, by decide +kernel⟩,
   ⟨w02 0, 0x2, by decide +kernel⟩,
   ⟨w02 0, 0x0, by decide +kernel⟩⟩

theorem test_met_CamerasTaken :
    (∃ (s : State) (port : Fin 2) (dt : Nat),
      (s.csiPort port.val).en = true ∧ dtSupported dt = true) ∧
    (∃ (s : State) (port : Fin 2) (dt : Nat),
      (s.csiPort port.val).en = true ∧ dtSupported dt = false) ∧
    (∃ (s : State) (port : Fin 2) (vc : Fin 4) (u : Intake) (c : IntakeCfg),
      (s.csiPort port.val).en = true ∧ s.intake[0]? = some u ∧ u.next = some c ∧ c.takes port.val vc.val = true ∧ c.bands ≠ [] ∧
      u.cur = none) ∧
    (∃ (s : State) (port : Fin 2) (vc : Fin 4) (u : Intake) (c : IntakeCfg),
      (s.csiPort port.val).en = true ∧ s.intake[0]? = some u ∧ u.next = none ∧ u.cfg = some c ∧ c.takes port.val vc.val = true ∧
      u.cur = none) ∧
    (∃ (s : State) (port : Fin 2) (vc : Fin 4) (u : Intake) (c : IntakeCfg) (f : CamFrame),
      (s.csiPort port.val).en = true ∧ s.intake[0]? = some u ∧ u.cfg = some c ∧ c.takes port.val vc.val = true ∧ u.cur = some f ∧
      u.next = some c ∧ c.bands ≠ [] ∧ (f.close c false).damaged = true) ∧
    (∃ (s : State) (port : Fin 2) (vc : Fin 4) (u : Intake) (c : IntakeCfg) (f : CamFrame),
      (s.csiPort port.val).en = true ∧ s.intake[0]? = some u ∧ u.cfg = some c ∧ c.takes port.val vc.val = true ∧ u.cur = some f ∧
      (f.close c false).damaged = false) ∧
    (∃ (s : State) (port : Fin 2) (crcOk : Bool),
      (s.csiPort port.val).en = true ∧ crcOk = false ∧ (s.csiPort port.val).crcLines < 65535 ∧ port.val < s.csi.length) ∧
    (∃ (s : State) (port : Fin 2) (crcOk : Bool),
      (s.csiPort port.val).en = true ∧ crcOk = true) ∧
    (∃ (s : State) (r : Fin 1024) (p : List Byte),
      Reporting s r.val ∧ s.ready (r.val) 36 false = some p ∧ s.portRead (par p 16 1) = false ∧
      par p 16 1 < s.csi.length ∧ par p 17 1 ≠ 1) ∧
    (∃ (s : State) (r : Fin 1024) (p : List Byte),
      Reporting s r.val ∧ s.ready (r.val) 36 false = some p ∧ s.portRead (par p 16 1) = false ∧
      par p 16 1 < s.csi.length ∧ par p 17 1 = 1) ∧
    (∃ (s : State) (r : Fin 1024) (p : List Byte) (g : Graph),
      Reporting s r.val ∧ s.ready (r.val) 37 false = some p ∧ s.liveGraph (par p 36 2) = some g ∧
      bandFault (intakeOf p) (par p 16 1) g = none ∧ (s.csiPort (par p 17 1)).en = true ∧
      par p 16 1 < s.intake.length) ∧
    (∃ (s : State) (port : Fin 2) (stop : BitVec 4),
      (s.csiPort port.val).en = true ∧ port.val < s.csi.length ∧ (∀ k < (s.csiPort port.val).lanes, stop.getLsbD k = true)) :=
  ⟨⟨w07 12, 1, 36, by decide +kernel⟩,
   ⟨w07 12, 1, 0, by decide +kernel⟩,
   ⟨w07 13, 1, 2, { u0 with next := some camCfg }, camCfg, by decide +kernel⟩,
   ⟨w07 14, 1, 2, { u0 with cfg := some camCfg }, camCfg, by decide +kernel⟩,
   ⟨cam { u0 with cfg := some camCfg, next := some camCfg, cur := some (CamFrame.start 0) } up, 1, 2,
     { u0 with cfg := some camCfg, next := some camCfg, cur := some (CamFrame.start 0) }, camCfg, CamFrame.start 0, by decide +kernel⟩,
   ⟨w07 16, 1, 2, (w07 16).unit 0, camCfg, ((w07 16).unit 0).cur.getD (CamFrame.start 0), by decide +kernel⟩,
   ⟨w07 12, 1, false, by decide +kernel⟩,
   ⟨w07 12, 1, true, by decide +kernel⟩,
   ⟨w07 32, 0, (headOf (w07 32) 0), by unfold Reporting CidsFresh; decide +kernel⟩,
   ⟨w07 31, 0, (headOf (w07 31) 0), by unfold Reporting CidsFresh; decide +kernel⟩,
   ⟨w07 38, 0, (headOf (w07 38) 0), (graphOf (w07 38)), by unfold Reporting CidsFresh; decide +kernel⟩,
   ⟨w07 12, 1, 0xf, by decide +kernel⟩⟩

theorem test_met_AnalogueSettings :
    (∃ (s : State) (r : Fin 1024) (p : List Byte),
      Reporting s r.val ∧ s.ready (r.val) 32 false = some p ∧ s.afeRefused (afeOf p) = false) ∧
    (∃ (s : State) (r : Fin 1024) (p : List Byte),
      Reporting s r.val ∧ s.ready (r.val) 32 false = some p ∧ s.afeRefused (afeOf p) = true) ∧
    (∃ (s : State) (r : Fin 1024) (p : List Byte),
      Reporting s r.val ∧ s.ready (r.val) 33 false = some p ∧ s.armRefusal (par p 16 1) = none) ∧
    (∃ (s : State) (r : Fin 1024) (p : List Byte),
      Reporting s r.val ∧ s.ready (r.val) 34 false = some p ∧ s.willBeArmed (par p 16 1) = true) ∧
    (∃ (s : State) (r : Fin 1024) (p : List Byte) (n : Nat),
      Reporting s r.val ∧ s.ready (r.val) 35 false = some p ∧ s.physOf 0 (par p 16 1) = some n ∧ n < 16 ∧
      s.basinInGraph n = false) ∧
    (∃ (s : State) (k : Fin 4) (m : MicBias),
      s.pwr.dev ≠ .off ∧ s.afe.mic[k.val]? = some m ∧ m.en = true) ∧
    (∃ (s : State) (n : Fin 16),
      s.pwr.dev ≠ .off ∧ (s.chan n.val).powered = true) :=
  ⟨⟨w07 30, 0, (headOf (w07 30) 0), by unfold Reporting CidsFresh; decide +kernel⟩,
   ⟨w07 36, 0, (headOf (w07 36) 0), by unfold Reporting CidsFresh; decide +kernel⟩,
   ⟨w07 37, 0, (headOf (w07 37) 0), by unfold Reporting CidsFresh; decide +kernel⟩,
   ⟨w07 35, 0, (headOf (w07 35) 0), by unfold Reporting CidsFresh; decide +kernel⟩,
   ⟨w07 33, 0, (headOf (w07 33) 0), 1, by unfold Reporting CidsFresh; decide +kernel⟩,
   ⟨w07 19, 1, ((w07 19).afe.mic.getD 1 micBias0), by decide +kernel⟩,
   ⟨w07 18, 3, by decide +kernel⟩⟩

theorem test_met_HopBoundary :
    (∃ (s : State) (chans : List (List MicPiece)) (refs : List (List Int)), hopWf chans refs = true ∧ s.hopDue = false) ∧
    (∃ (s : State) (chans : List (List MicPiece)) (refs : List (List Int)) (n : Nat) (x : AfeChan) (ps : List MicPiece),
      hopWf chans refs = true ∧ s.hopDue = true ∧ s.afe.pend = [] ∧ s.afe.chans[n]? = some x ∧ chans[n]? = some ps ∧
      x.rejoin = false ∧ x.en = true ∧ x.settle ≤ 1 ∧ undefinedAt s.afe.period ps = false ∧ s.laneBusy n = true) ∧
    (∃ (s : State) (chans : List (List MicPiece)) (refs : List (List Int)) (n : Nat) (x : AfeChan) (ps : List MicPiece),
      hopWf chans refs = true ∧ s.hopDue = true ∧ s.afe.pend = [] ∧ s.afe.chans[n]? = some x ∧ chans[n]? = some ps ∧
      x.en = false ∧ s.laneBusy n = false) ∧
    (∃ (s : State) (chans : List (List MicPiece)) (refs : List (List Int)) (q : AfePend) (c : Cmd),
      hopWf chans refs = true ∧ s.hopDue = true ∧ s.afe.pend = [q] ∧ s.cmd? q.cid = some c ∧ c.mir = [] ∧
      q.notBefore ≤ s.tmr.uptime) ∧
    (∃ (s : State) (chans : List (List MicPiece)) (refs : List (List Int)) (q : AfePend) (c : Cmd),
      hopWf chans refs = true ∧ s.hopDue = true ∧ s.afe.pend = [q] ∧ s.cmd? q.cid = some c ∧ c.mir = [] ∧
      s.tmr.uptime < q.notBefore) ∧
    (∃ (s : State) (n : Fin 16) (x : AfeChan), s.afe.chans[n.val]? = some x ∧ x.switchWait = true) ∧
    (∃ (s : State) (n : Fin 16) (x : AfeChan), s.afe.chans[n.val]? = some x ∧ x.switchWait = false) ∧
    (∃ (s : State) (chans : List (List MicPiece)) (refs : List (List Int)) (n : Nat) (x : Sentinel) (h : List Int),
      hopWf chans refs = true ∧ s.hopDue = true ∧ s.afe.pend = [] ∧ s.snt.pend = [] ∧ s.snt.s[n]? = some x ∧
      refs[n]? = some h ∧ x.armed = false) ∧
    (∃ (s : State) (chans : List (List MicPiece)) (refs : List (List Int)) (n : Nat) (x : Sentinel) (h : List Int),
      hopWf chans refs = true ∧ s.hopDue = true ∧ s.afe.pend = [] ∧ s.snt.pend = [] ∧ s.snt.s[n]? = some x ∧
      refs[n]? = some h ∧ x.armed = true ∧ x.calib = true) ∧
    (∃ (s : State) (chans : List (List MicPiece)) (refs : List (List Int)) (n : Nat) (x : Sentinel) (h : List Int),
      (hopWf chans refs = true ∧ s.hopDue = true ∧ s.afe.pend = [] ∧ s.snt.pend = [] ∧ s.snt.s[n]? = some x ∧
      refs[n]? = some h ∧ x.armed = true ∧ x.calib = false ∧ (s.chan n).settle = 0 ∧ (s.chan n).rejoin = false ∧
      s.snt.rpt.length = 64 ∧ (s.snt.wr - s.snt.rd).toNat < 64) ∧ ∀ (k : Nat), k ≠ n → (s.sentinel k).armed = false) ∧
    (∃ (s : State) (chans : List (List MicPiece)) (refs : List (List Int)) (n : Nat) (x : Sentinel) (h : List Int),
      (hopWf chans refs = true ∧ s.hopDue = true ∧ s.afe.pend = [] ∧ s.snt.pend = [] ∧ s.snt.s[n]? = some x ∧
      refs[n]? = some h ∧ x.armed = true ∧ x.calib = false ∧ (s.chan n).settle = 0 ∧ (s.chan n).rejoin = false ∧
      s.snt.rpt.length = 64 ∧ 64 ≤ (s.snt.wr - s.snt.rd).toNat) ∧ ∀ (k : Nat), k ≠ n → (s.sentinel k).armed = false) ∧
    (∃ (s : State) (chans : List (List MicPiece)) (refs : List (List Int)) (q : SntPend) (c : Cmd),
      hopWf chans refs = true ∧ s.hopDue = true ∧ s.afe.pend = [] ∧ s.snt.pend = [q] ∧ q.chan < 16 ∧
      q.chan < s.snt.s.length ∧ s.cmd? q.cid = some c ∧ c.mir = []) :=
  ⟨⟨tick 60 up, hops, refs, by decide +kernel⟩,
   ⟨hearing, hops, refs, 0, (hearing.afe.chans.getD 0 AfeChan.initial), (hops.getD 0 []), by decide +kernel⟩,
   ⟨up, hops, refs, 0, AfeChan.initial, (hops.getD 0 []), by decide +kernel⟩,
   ⟨tick 10000 (w07 25), hops, refs, ((w07 25).afe.pend.getD 0 afePend0), (cmdOf (w07 25)), by decide +kernel⟩,
   ⟨w07 24, hops, refs, ((w07 24).afe.pend.getD 0 afePend0), (cmdOf (w07 24)), by decide +kernel⟩,
   ⟨w07 29, 3, ((w07 29).afe.chans.getD 3 AfeChan.initial), by decide +kernel⟩,
   ⟨w02 0, 0, ((w02 0).afe.chans.getD 0 AfeChan.initial), by decide +kernel⟩,
   ⟨w02 0, hops, refs, 0, ((w02 0).snt.s.getD 0 Sentinel.initial), [1, 2, 3, 4], by decide +kernel⟩,
   ⟨w07 20, hops, refs, 0, ((w07 20).snt.s.getD 0 Sentinel.initial), [1, 2, 3, 4], by decide +kernel⟩,
   ⟨wx 0, hops, refs, 0, ((wx 0).snt.s.getD 0 Sentinel.initial), [1, 2, 3, 4], by decide +kernel, all_getD _ _ (fun k (x : Sentinel) => k ≠ 0 → x.armed = false) (by decide +kernel) (by intro _ _; decide)⟩,
   ⟨wx 1, hops, refs, 0, ((wx 1).snt.s.getD 0 Sentinel.initial), [1, 2, 3, 4], by decide +kernel, all_getD _ _ (fun k (x : Sentinel) => k ≠ 0 → x.armed = false) (by decide +kernel) (by intro _ _; decide)⟩,
   ⟨w07 26, hops, refs, ((w07 26).snt.pend.getD 0 sntPend0), (cmdOf (w07 26)), by decide +kernel⟩⟩

theorem test_met_HostMisbehaves :
    (∃ s : State, s.hostUp = true ∧ s.hif.ecrcCheck = true) ∧
    (∃ s : State, s.hostUp = true ∧ s.hif.ecrcCheck = false) ∧
    (∃ (s : State) (f : Fin 16), s.hostUp = true ∧ s.decodes f.val = true) ∧
    (∃ (s : State) (f : Fin 16), s.hostUp = true ∧ s.decodes f.val = false) :=
  ⟨⟨{ up with hif := { up.hif with ecrcCheck := true } }, by decide +kernel⟩,
   ⟨up, by decide +kernel⟩,
   ⟨up, 0, by decide +kernel⟩,
   ⟨State.reset, 0, by decide +kernel⟩⟩

theorem test_met_HostResets :
    ∃ (s : State) (f : Fin 16),
      s.hostUp = true ∧ f.val ≠ 0 ∧ s.hif.vfEn = true :=
  ⟨w03 1, 1, by decide +kernel⟩

theorem test_met_HostPower :
    (∃ (s : State) (f : Fin 16), s.hostUp = true ∧ f.val ≠ 0 ∧ s.hif.vfEn = false) ∧
    (∃ (s : State) (f : Fin 16), s.hostUp = true ∧ f.val ≠ 0 ∧ s.hif.vfEn = true) ∧
    (∃ (s : State) (sub : Fin 3),
      s.hostUp = true ∧ s.hif.aspmL1 = true ∧ s.hif.up = true ∧ s.hif.inL1 = false ∧ s.hif.l12 < 65535 ∧
      sub.val = 2 ∧ s.pwr.dev = .doze) ∧
    (∃ (s : State) (sub : Fin 3),
      s.hostUp = true ∧ s.hif.aspmL1 = true ∧ s.hif.up = true ∧ s.hif.inL1 = false ∧ s.hif.l12 < 65535 ∧
      s.pwr.dev = .run ∧ ¬(sub.val = 2 ∧ s.pwr.dev = .doze)) ∧
    (∃ s : State, s.hostUp = true ∧ s.hif.aspmL1 = true ∧ s.hif.up = true ∧ s.hif.inL1 = false ∧ s.hif.l12 < 65535 ∧
      s.pwr.dev = .dry) ∧
    (∃ (s : State) (f : Fin 16) (e : Fin 1040),
      s.hostUp = true ∧ (f.val = 0 ∨ e.val < 960) ∧ (s.msixEntry f.val e.val).pending = true ∧
      s.hif.msixEn.getD (f.val) false = true ∧ s.hif.msixFm.getD (f.val) false = false ∧ s.mayMaster f.val = true) ∧
    (∃ (s : State) (speed : Nat) (width : Nat),
      linkLegal speed width = true ∧ s.pins.role ≠ .member ∧ (s.hostUp = true ∨ s.pwr.start.isSome = true) ∧
      s.postQ = [] ∧ s.hif.up = false) ∧
    (∃ (s : State) (speed : Nat) (width : Nat),
      linkLegal speed width = true ∧ s.pins.role ≠ .member ∧ (s.hostUp = true ∨ s.pwr.start.isSome = true) ∧
      s.postQ = [] ∧ s.hif.up = true) ∧
    (∃ (s : State) (k : Nat),
      s.fc = some k ∧ (∀ q ∈ s.postQ, q.credit = none) ∧ ∀ q ∈ s.postQ, ∀ f, q.e.func? = some f → s.mayMaster f = true) :=
  ⟨⟨up, 1, by decide +kernel⟩,
   ⟨w03 1, 1, by decide +kernel⟩,
   ⟨w08 7, 2, by decide +kernel⟩,
   ⟨w08 6, 1, by decide +kernel⟩,
   ⟨inState .dry (w08 6), by decide +kernel⟩,
   ⟨w08 8, 0, 3, by decide +kernel⟩,
   ⟨w08 10, 1, 1, by decide +kernel⟩,
   ⟨w02 0, 1, 1, by decide +kernel⟩,
   ⟨w08 3, 0, by decide +kernel, by decide +kernel, by intro q h f hf; fin_cases h <;> cases hf⟩⟩

theorem test_met_WeightSessions :
    (∃ (s : State) (g : Fin 1024) (p : List Byte),
      s.ready (g.val) 48 false = some p ∧ Reporting s g.val) ∧
    (∃ (s : State) (c : Cmd) (addr : DWord) (len : Nat),
      s.cmd? c.cid = some c ∧ c.body = .imageOpen addr len ∧ c.held = none ∧ c.mir = [] ∧ c.detached = false ∧
      (s.ring c.ring).halted = false ∧ Reporting s c.ring ∧ (∀ x ∈ s.wpe.sessions, x.closing = none) ∧
      s.wpe.sessions.length < 4) ∧
    (∃ (s : State) (g : Fin 1024) (p : List Byte) (x : Session),
      s.ready (g.val) 54 false = some p ∧ Reporting s g.val ∧ s.sessionOf (g.val) (par p 16 1) = Except.ok x ∧
      (∀ y ∈ s.wpe.sessions, y.closing = none) ∧ ((s.cmds.any fun c => c.namesSession x.num) = false)) ∧
    (∃ (s : State) (g : Fin 1024) (p : List Byte) (x : Session),
      s.ready (g.val) 54 false = some p ∧ Reporting s g.val ∧ s.sessionOf (g.val) (par p 16 1) = Except.ok x ∧
      (∀ y ∈ s.wpe.sessions, y.closing = none) ∧ ((s.cmds.any fun c => c.namesSession x.num) = true)) ∧
    (∃ (s : State) (g : Fin 1024) (p : List Byte) (n : Nat),
      s.ready (g.val) 51 false = some p ∧ Reporting s g.val ∧ s.decideAhead g.val = s ∧ s.cellBusy = false ∧
      s.cellBasin (par p 16 1) (par p 17 1) = Except.ok n ∧ (s.basin n).wstate = .erased) ∧
    (∃ (s : State) (g : Fin 1024) (p : List Byte) (n : Nat),
      s.ready (g.val) 51 false = some p ∧ Reporting s g.val ∧ s.decideAhead g.val = s ∧ s.cellBusy = false ∧
      s.cellBasin (par p 16 1) (par p 17 1) = Except.ok n ∧ (s.basin n).wstate ≠ .erased ∧ s.powerRefusal 100 = none) ∧
    (∃ (s : State) (c : Cmd) (n : Nat) (ter : Nat) (slot : Nat),
      List.find? (fun x => match x.body with | .erase _ _ _ true => x.held.isNone | _ => false) s.cmds = some c ∧
      c.body = .erase n ter slot true ∧ s.cmd? c.cid = some c ∧ c.mir = [] ∧ s.pairsFor [s.me] = []) ∧
    (∃ (s : State) (g : Fin 1024) (p : List Byte),
      s.ready (g.val) 53 false = some p ∧ Reporting s g.val) ∧
    (∃ (s : State) (mv : Nat),
      s.programming = none ∧ s.waitingToken = none ∧ s.wpe.aboveMin = false ∧ 9600 ≤ mv) ∧
    (∃ (s : State) (mv : Nat),
      s.programming = none ∧ s.waitingToken = none ∧ s.wpe.aboveMin = true ∧ mv < 9000) ∧
    (∃ (s : State) (mv : Nat),
      s.programming = none ∧ s.waitingToken = none ∧ s.wpe.charging = true ∧ 14000 ≤ mv) ∧
    (∃ (s : State) (mv : Nat),
      s.programming = none ∧ s.waitingToken = none ∧ s.wpe.charging = false ∧ mv ≤ 13800) :=
  ⟨⟨w09 0, 0, (headOf (w09 0) 0), by unfold Reporting CidsFresh; decide +kernel⟩,
   ⟨w09 6, (cmdOf (w09 6)), 0x20000, 288, by unfold Reporting CidsFresh; decide +kernel⟩,
   ⟨w09 9, 0, (headOf (w09 9) 0), (sessionOf (w09 9)), by unfold Reporting CidsFresh; decide +kernel⟩,
   ⟨w09 10, 0, (headOf (w09 10) 0), (sessionOf (w09 10)), by unfold Reporting CidsFresh; decide +kernel⟩,
   ⟨w09 1, 0, (headOf (w09 1) 0), 1, by unfold Reporting CidsFresh; decide +kernel⟩,
   ⟨w09 4, 0, (headOf (w09 4) 0), 1, by unfold Reporting CidsFresh; decide +kernel⟩,
   ⟨w09 11, (cmdOf (w09 11)), 1, 0, 1, by decide +kernel⟩,
   ⟨w09 2, 0, (headOf (w09 2) 0), by unfold Reporting CidsFresh; decide +kernel⟩,
   ⟨w02 0, 9600, by decide +kernel⟩,
   ⟨w09 3, 0, by decide +kernel⟩,
   ⟨w02 0, 14000, by decide +kernel⟩,
   ⟨w09 29, 0, by decide +kernel⟩⟩

theorem test_met_RowsProgrammed :
    (∃ (s : State) (g : Fin 1024) (p : List Byte) (x : Session) (rec : CwiRec) (n : Nat),
      s.ready (g.val) 49 false = some p ∧ Reporting s g.val ∧ s.decideAhead g.val = s ∧ s.cellBusy = false ∧
      s.programCheck (g.val) p = Except.ok (x, rec, n) ∧ s.powerRefusal 2200 = none) ∧
    (∃ (s : State) (c : Cmd) (q : Prog) (stuck : Option (Nat × Nat)),
      Memory.wf s.weights = true ∧ s.programming = some (c, q) ∧ s.cmd? c.cid = some c ∧ q.batch ≠ 0 ∧
      c.held = none ∧ c.mir = [] ∧ q.row + q.batch ≤ 1024 ∧ s.pairsFor [s.me] = [] ∧
      (stuck.isSome = true ∨ q.left = q.batch)) ∧
    (∃ (s : State) (c : Cmd) (q : Prog) (w : Nat),
      s.programming = some (c, q) ∧ q.waitFrom = some w ∧ s.cmd? c.cid = some c ∧ c.mir = [] ∧
      s.waitingToken = none ∧ w + 2000000 ≤ s.tmr.uptime) ∧
    (∃ (s : State) (c : Cmd) (q : Prog) (w : Nat),
      s.programming = some (c, q) ∧ q.waitFrom = some w ∧ s.cmd? c.cid = some c ∧ c.mir = [] ∧
      s.waitingToken = none ∧ s.tmr.uptime < w + 2000000) ∧
    (∃ (s : State) (g : Fin 1024) (p : List Byte) (x : Session) (rec : CwiRec) (n : Nat),
      s.ready (g.val) 50 false = some p ∧ Reporting s g.val ∧ s.cellBusy = false ∧
      s.verifyCheck (g.val) p = Except.ok (x, rec, n)) ∧
    (∃ (s : State) (c : Cmd) (x : Session) (rec : CwiRec) (k : Nat) (n : Nat) (ter : Nat) (slot : Nat) (same : Bool),
      List.find? (fun y => match y.body with | .verify _ _ _ _ _ _ => y.held.isNone | _ => false) s.cmds = some c ∧
      c.body = .verify x.num k n ter slot same ∧ s.cmd? c.cid = some c ∧ c.mir = [] ∧ c.detached = false ∧
      (s.ring c.ring).halted = false ∧ Reporting s c.ring ∧ s.pairsFor [s.me] = [] ∧
      List.find? (fun y => y.num == x.num) s.wpe.sessions = some x ∧ x.recs[k]? = some rec ∧ n < 4096) ∧
    (∃ (s : State) (g : Fin 1024) (p : List Byte) (reads : List TrackRead) (ns : List Nat),
      s.ready (g.val) 52 false = some p ∧ Reporting s g.val ∧ s.recalTargets (par p 16 1) (par p 17 1) = Except.ok ns ∧
      ((ns.any fun n => s.basinInRun n) = false) ∧ (∀ r ∈ reads, r.basin ∈ ns → trackVerifies (readingsOf r) = true)) :=
  ⟨⟨w09 12, 0, (headOf (w09 12) 0), (sessionOf (w09 12)), rec0, 1, by unfold Reporting CidsFresh; decide +kernel⟩,
   ⟨w09 17, (cmdOf (w09 17)), (progOf (cmdOf (w09 17))), (some (0, 1)), by decide +kernel⟩,
   ⟨w09 20, (cmdOf (w09 20)), (progOf (cmdOf (w09 20))), 5, by decide +kernel⟩,
   ⟨w09 19, (cmdOf (w09 19)), (progOf (cmdOf (w09 19))), 5, by decide +kernel⟩,
   ⟨w09 15, 0, (headOf (w09 15) 0), (sessionOf (w09 15)), rec0, 1, by unfold Reporting CidsFresh; decide +kernel⟩,
   ⟨w09 10, (cmdOf (w09 10)), (sessionOf (w09 10)), rec0, 0, 1, 0, 1, false, by unfold Reporting CidsFresh; decide +kernel⟩,
   ⟨w09 5, 0, (headOf (w09 5) 0), [], [1], by unfold Reporting CidsFresh; decide +kernel⟩⟩

theorem test_met_StreamsCommanded :
    (∃ (s : State) (g : Fin 1024) (p : List Byte),
      Reporting s g.val ∧ s.ready (g.val) 66 false = some p ∧ s.streamStartRefusal p = none ∧ par p 16 1 < s.str.s.length) ∧
    (∃ (s : State) (g : Fin 1024) (p : List Byte) (e : End),
      Reporting s g.val ∧ s.ready (g.val) 66 false = some p ∧ s.streamStartRefusal p = some e) ∧
    (∃ (s : State) (g : Fin 1024) (p : List Byte),
      Reporting s g.val ∧ s.ready (g.val) 68 false = some p ∧ s.ringFunc g.val = 0 ∧
      ((s.str.s.any fun x => x.started && x.framed) = false)) ∧
    (∃ (s : State) (g : Fin 1024) (p : List Byte),
      Reporting s g.val ∧ s.streamRefusal (g.val) (par p 16 1) = none ∧ s.ready (g.val) 64 false = some p ∧
      segmentRefusal (s.stream (par p 16 1)) p = none ∧ (s.stream (par p 16 1)).framed = true) ∧
    (∃ (s : State) (g : Fin 1024) (p : List Byte) (y : Segment),
      Reporting s g.val ∧ s.streamRefusal (g.val) (par p 16 1) = none ∧
      (y ∈ if (s.stream (par p 16 1)).cur = true then List.drop 1 (s.stream (par p 16 1)).segs else (s.stream (par p 16 1)).segs) ∧
      s.ready (g.val) 65 false = some p ∧ y.segId = par p 18 2 ∧ (s.stream (par p 16 1)).stop = none ∧
      (s.stream (par p 16 1)).framed = true) ∧
    (∃ (s : State) (g : Fin 1024) (p : List Byte) (y : Segment),
      Reporting s g.val ∧ s.streamRefusal (g.val) (par p 16 1) = none ∧
      (y ∈ if (s.stream (par p 16 1)).cur = true then List.drop 1 (s.stream (par p 16 1)).segs else (s.stream (par p 16 1)).segs) ∧
      s.ready (g.val) 65 false = some p ∧ y.segId = par p 18 2 ∧ (s.stream (par p 16 1)).stop.isSome = true ∧
      (s.stream (par p 16 1)).framed = true) ∧
    (∃ (s : State) (g : Fin 1024) (p : List Byte),
      Reporting s g.val ∧ s.streamRefusal (g.val) (par p 16 1) = none ∧ s.ready (g.val) 67 false = some p ∧
      (s.stream (par p 16 1)).stop = none ∧ (s.stream (par p 16 1)).framed = true) ∧
    (∃ (s : State) (g : Fin 1024) (p : List Byte),
      Reporting s g.val ∧ s.streamRefusal (g.val) (par p 16 1) = none ∧ s.ready (g.val) 67 false = some p ∧
      (s.stream (par p 16 1)).stop = none ∧ (s.stream (par p 16 1)).framed = false ∧
      (s.stream (par p 16 1)).segs = [] ∧ (s.stream (par p 16 1)).jump = none) :=
  ⟨⟨w10 1, 0, (headOf (w10 1) 0), by unfold Reporting CidsFresh; decide +kernel⟩,
   ⟨w10 0, 0, (headOf (w10 0) 0), endParam 0x16, by unfold Reporting CidsFresh; decide +kernel⟩,
   ⟨w10 4, 0, (headOf (w10 4) 0), by unfold Reporting CidsFresh; decide +kernel⟩,
   ⟨w10 5, 0, (headOf (w10 5) 0), by unfold Reporting CidsFresh; decide +kernel⟩,
   ⟨w10 8, 0, (headOf (w10 8) 0), (segmentOf (w10 8) 0 1), by unfold Reporting CidsFresh; decide +kernel⟩,
   ⟨w10 12, 0, (headOf (w10 12) 0), (segmentOf (w10 12) 0 1), by unfold Reporting CidsFresh; decide +kernel⟩,
   ⟨w10 9, 0, (headOf (w10 9) 0), by unfold Reporting CidsFresh; decide +kernel⟩,
   ⟨w10 14, 0, (headOf (w10 14) 0), by unfold Reporting CidsFresh; decide +kernel⟩⟩

theorem test_met_StreamsPlay :
    (∃ (s : State),
      s.str.conf = true ∧ s.enginesRun = true ∧ s.str.zeroNext = true) ∧
    (∃ (s : State) (i : Nat) (y : Segment) (rest : List Segment) (u : List Byte) (us : List (List Byte)),
      (s.str.conf = true ∧ s.enginesRun = true ∧ s.str.zeroNext = false ∧ i < 32 ∧ (s.stream i).started = true ∧
      (s.stream i).framed = true ∧ (s.stream i).cur = true ∧ (s.stream i).detach = false ∧
      (s.stream i).jump = none ∧ (s.stream i).stop = none ∧ (s.stream i).segs = y :: rest ∧ y.fromPort = true ∧
      y.over = false ∧ bitAt (s.stream i).dest 1 = false ∧ (s.stream i).fifo = u :: us) ∧
      ∀ (k : Nat), k ≠ i → (s.stream k).started = false ∨ (s.stream k).framed = false) ∧
    (∃ (s : State) (i : Nat) (y : Segment) (rest : List Segment),
      (s.str.conf = true ∧ s.enginesRun = true ∧ s.str.zeroNext = false ∧ i < 32 ∧ (s.stream i).started = true ∧
      (s.stream i).framed = true ∧ (s.stream i).cur = true ∧ (s.stream i).detach = false ∧
      (s.stream i).jump = none ∧ (s.stream i).stop = none ∧ (s.stream i).segs = y :: rest ∧ y.fromPort = true ∧
      y.over = false ∧ bitAt (s.stream i).dest 1 = false ∧ (s.stream i).fifo = [] ∧ (s.stream i).begun = true) ∧
      ∀ (k : Nat), k ≠ i → (s.stream k).started = false ∨ (s.stream k).framed = false) ∧
    (∃ (s : State) (k : Nat),
      s.tdmSlave = true ∧ s.str.fsDue = true ∧ 32 * s.str.nslots ≤ k + 2 ∧ k ≤ 32 * s.str.nslots + 2) ∧
    (∃ s : State, s.tdmSlave = true ∧ s.str.fsDue = false) ∧
    (∃ (s : State) (k : Nat),
      s.tdmSlave = true ∧ s.str.fsDue = true ∧
      (k + 2 < 32 * s.str.nslots ∨ 32 * s.str.nslots + 2 < k)) ∧
    (∃ (s : State),
      s.tdmSlave = true ∧ s.str.fsDue = true) ∧
    (∃ (s : State) (i : Fin 32) (g : Graph) (o : PortRec),
      s.enginesRun = true ∧ s.graph? (s.stream i.val).handle = some g ∧ g.cgd.ports[(s.stream i.val).port]? = some o ∧
      s.portUnits g (s.stream i.val).port = none ∧ (s.stream i.val).started = true ∧
      ((s.stream i.val).framed = true ∨ (s.stream i.val).segs = [] ∧ (s.stream i.val).jump = none ∧ (s.stream i.val).stop = none ∧ (s.stream i.val).detach = false) ∧
      (s.stream i.val).port ≠ 255 ∧ (s.stream i.val).handle ≠ 0 ∧ 0 < (s.stream i.val).unitB ∧
      (s.stream i.val).fifo.length < 16384 / (s.stream i.val).unitB) ∧
    (∃ (s : State) (i : Fin 32) (g : Graph) (o : PortRec),
      s.enginesRun = true ∧ s.graph? (s.stream i.val).handle = some g ∧ g.cgd.ports[(s.stream i.val).port]? = some o ∧
      s.portUnits g (s.stream i.val).port = none ∧ (s.stream i.val).started = true ∧
      ((s.stream i.val).framed = true ∨ (s.stream i.val).segs = [] ∧ (s.stream i.val).jump = none ∧ (s.stream i.val).stop = none ∧ (s.stream i.val).detach = false) ∧
      (s.stream i.val).port ≠ 255 ∧ (s.stream i.val).handle ≠ 0 ∧ 0 < (s.stream i.val).unitB ∧
      (s.stream i.val).fifo.length = 16384 / (s.stream i.val).unitB ∧ (s.stream i.val).unitB ≤ 16384) ∧
    (∃ (s : State) (i : Fin 32) (y : Segment) (bad : ReadResult),
      ((s.stream i.val).started = true ∧ List.find? (fun z => decide (0 < z.asked)) (s.stream i.val).segs = some y ∧
      (s.stream i.val).framed = true) ∧
      ∀ (b : List Byte), bad ≠ ReadResult.data b) :=
  ⟨⟨w10 20, by decide +kernel⟩,
   ⟨w10 5, 0, (segmentOf (w10 5) 0 0), (((w10 5).stream 0).segs.drop 1), (((w10 5).stream 0).fifo.getD 0 []), (((w10 5).stream 0).fifo.drop 1), by decide +kernel, all_getD _ _ (fun k (x : Stream) => k ≠ 0 → x.started = false ∨ x.framed = false) (by decide +kernel) (by intro _ _; decide)⟩,
   ⟨w10 18, 0, (segmentOf (w10 18) 0 0), (((w10 18).stream 0).segs.drop 1), by decide +kernel, all_getD _ _ (fun k (x : Stream) => k ≠ 0 → x.started = false ∨ x.framed = false) (by decide +kernel) (by intro _ _; decide)⟩,
   ⟨slaved, 64, by decide +kernel⟩,
   ⟨w10 0, by decide +kernel⟩,
   ⟨slaved, 0, by decide +kernel⟩,
   ⟨slaved, by decide +kernel⟩,
   ⟨w10 5, 0, (graphOf (w10 5)), ((graphOf (w10 5)).cgd.ports.getD 1 port0), by decide +kernel⟩,
   ⟨w10 22, 0, (graphOf (w10 22)), ((graphOf (w10 22)).cgd.ports.getD 1 port0), by decide +kernel⟩,
   ⟨w10 23, 0, (segmentOf (w10 23) 0 0), .ur, by decide +kernel, fun _ h => by cases h⟩⟩

theorem test_met_MaintenanceReads :
    (∃ (s : State) (g : Fin 1024) (p : List Byte),
      Reporting s g.val ∧ s.ready (g.val) 81 false = some p) ∧
    (∃ (s : State) (g : Fin 1024) (p : List Byte),
      Reporting s g.val ∧ s.ready (g.val) 83 false = some p ∧
      List.take (par p 32 4 / 32) (s.logBytes (par p 16 1 == 1) (par p 20 4)) ≠ []) ∧
    (∃ (s : State) (g : Fin 1024) (p : List Byte),
      Reporting s g.val ∧ s.ready (g.val) 85 false = some p) ∧
    (∃ (s : State) (g : Fin 1024) (p : List Byte),
      Reporting s g.val ∧ s.ready (g.val) 86 false = some p) ∧
    (∃ (s : State) (g : Fin 1024) (p : List Byte),
      s.ready (g.val) 80 false = some p ∧ Reporting s g.val ∧ s.decideAhead g.val = s ∧
      (s.graphs ≠ [] ∨ s.casc.shadows ≠ [] ∨ (par p 16 1 == 0 && s.anyArmed || par p 16 1 == 4 && (s.sentinel (par p 18 1)).armed) = true)) ∧
    (∃ (s : State) (g : Fin 1024) (p : List Byte),
      s.ready (g.val) 80 false = some p ∧ Reporting s g.val ∧ s.decideAhead g.val = s ∧ s.graphs = [] ∧ s.casc.shadows = [] ∧
      (par p 16 1 == 0 && s.anyArmed || par p 16 1 == 4 && (s.sentinel (par p 18 1)).armed) = false ∧
      s.powerRefusal 18000 = none) ∧
    (∃ (s : State) (c : Cmd) (scope : Nat) (ter : Nat) (index : Nat) (tests : Nat) (bytes : Nat) (addr : DWord),
      List.find? (fun y => match y.body with | .bist _ _ _ _ _ _ => true | _ => false) s.cmds = some c ∧
      c.body = .bist scope ter index tests addr bytes ∧ s.cmd? c.cid = some c ∧ c.mir = [] ∧ c.detached = false ∧
      (s.ring c.ring).halted = false ∧ Reporting s c.ring) ∧
    (∃ (s : State) (c : Cmd) (test : TestIn) (scope : Nat) (ter : Nat) (index : Nat) (tests : Nat) (bytes : Nat) (addr : DWord),
      List.find? (fun y => match y.body with | .bist _ _ _ _ _ _ => true | _ => false) s.cmds = some c ∧
      c.body = .bist scope ter index tests addr bytes ∧ s.cmd? c.cid = some c ∧ c.mir = [] ∧ c.detached = false ∧
      (s.ring c.ring).halted = false ∧ Reporting s c.ring ∧
      (({ s with afe := { s.afe with loopback := false } } : State).testMoats scope ter tests false).findings { kind := 4, tests := tests % 2 ^ 31, scope := scope, ter := ter, index := index } test = []) :=
  ⟨⟨w11 0, 0, (headOf (w11 0) 0), by unfold Reporting CidsFresh; decide +kernel⟩,
   ⟨wx 3, 0, (headOf (wx 3) 0), by unfold Reporting CidsFresh; decide +kernel⟩,
   ⟨w11 3, 0, (headOf (w11 3) 0), by unfold Reporting CidsFresh; decide +kernel⟩,
   ⟨w11 4, 0, (headOf (w11 4) 0), by unfold Reporting CidsFresh; decide +kernel⟩,
   ⟨w11 6, 0, (headOf (w11 6) 0), by unfold Reporting CidsFresh; decide +kernel⟩,
   ⟨w11 5, 0, (headOf (w11 5) 0), by unfold Reporting CidsFresh; decide +kernel⟩,
   ⟨w11 7, (cmdOf (w11 7)), 0, 0, 3, 65535, 4096, 0x70000, by unfold Reporting CidsFresh; decide +kernel⟩,
   ⟨w11 7, (cmdOf (w11 7)), ⟨[], []⟩, 0, 0, 3, 65535, 4096, 0x70000, by unfold Reporting CidsFresh; decide +kernel⟩⟩

theorem test_met_LifecycleMoves :
    (∃ (s : State) (g : Fin 1024) (p : List Byte),
      s.ready (g.val) 82 false = some p ∧ Reporting s g.val ∧ ((s.cmds.any fun c => c.opcode == 82) = false)) ∧
    (∃ (s : State) (c : Cmd) (target : Nat) (pay : List Byte),
      List.find? (fun y => match y.body with | .lifecycle x _ none => decide (x ≠ 4) | _ => false) s.cmds = some c ∧
      c.body = .lifecycle target pay none ∧ s.cmd? c.cid = some c ∧ c.mir = [] ∧ c.detached = false ∧
      (s.ring c.ring).halted = false ∧ Reporting s c.ring ∧ s.enginesRun = true ∧
      s.lcs.active = LcState.manufacture ∧ target = 1) ∧
    (∃ (s : State) (c : Cmd) (target : Nat) (pay : List Byte),
      List.find? (fun y => match y.body with | .lifecycle x _ none => decide (x ≠ 4) | _ => false) s.cmds = some c ∧
      c.body = .lifecycle target pay none ∧ s.cmd? c.cid = some c ∧ c.mir = [] ∧ c.detached = false ∧
      (s.ring c.ring).halted = false ∧ Reporting s c.ring ∧ s.enginesRun = true ∧
      s.lcs.active = LcState.provisioned ∧ target = 2) ∧
    (∃ (s : State) (c : Cmd) (target : Nat) (pay : List Byte),
      List.find? (fun y => match y.body with | .lifecycle x _ none => decide (x ≠ 4) | _ => false) s.cmds = some c ∧
      c.body = .lifecycle target pay none ∧ s.cmd? c.cid = some c ∧ c.mir = [] ∧ c.detached = false ∧
      (s.ring c.ring).halted = false ∧ Reporting s c.ring ∧ s.enginesRun = true ∧ s.lcs.active = LcState.deployed ∧
      target = 3) ∧
    (∃ (s : State) (c : Cmd) (target : Nat) (pay : List Byte),
      List.find? (fun y => match y.body with | .lifecycle x _ none => decide (x ≠ 4) | _ => false) s.cmds = some c ∧
      c.body = .lifecycle target pay none ∧ s.cmd? c.cid = some c ∧ c.mir = [] ∧ c.detached = false ∧
      (s.ring c.ring).halted = false ∧ Reporting s c.ring ∧ s.enginesRun = true ∧ s.lcs.active = LcState.service ∧
      target = 2) ∧
    (∃ (s : State),
      s.lcs.retiring = true ∧ s.enginesRun = true ∧ s.lcs.retireAt ≤ 4112) :=
  ⟨⟨w11 9, 0, (headOf (w11 9) 0), by unfold Reporting CidsFresh; decide +kernel⟩,
   ⟨w11 18, (cmdOf (w11 18)), 1, [], by unfold Reporting CidsFresh; decide +kernel⟩,
   ⟨w11 20, (cmdOf (w11 20)), 2, [], by unfold Reporting CidsFresh; decide +kernel⟩,
   ⟨w11 17, (cmdOf (w11 17)), 3, [], by unfold Reporting CidsFresh; decide +kernel⟩,
   ⟨w11 19, (cmdOf (w11 19)), 2, [], by unfold Reporting CidsFresh; decide +kernel⟩,
   ⟨w11 21, by decide +kernel⟩⟩

set_option maxRecDepth 100000 in
theorem test_met_ChainLinks :
    (∃ (s : State) (up : Bool) (lanes : BitVec 4),
      ((s.port up).state = .training ∨ (s.port up).state = .retraining) ∧ lanes &&& 3 ≠ 3 ∧
      (s.port up).fails + 1 < 3) ∧
    (∃ (s : State) (up : Bool) (lanes : BitVec 4),
      ((s.port up).state = .training ∨ (s.port up).state = .retraining) ∧ lanes &&& 3 ≠ 3 ∧
      3 ≤ (s.port up).fails + 1 ∧ up = true) ∧
    (∃ (s : State) (up : Bool) (lanes : BitVec 4) (ok : Bool),
      ((s.port up).state = .training ∨ (s.port up).state = .retraining) ∧ lanes &&& 3 = 3 ∧ ok = false) ∧
    (∃ (s : State) (up : Bool) (lanes : BitVec 4) (ok : Bool),
      ((s.port up).state = .training ∨ (s.port up).state = .retraining) ∧ lanes &&& 3 = 3 ∧ ok = true ∧ lanes = 15) ∧
    (∃ (s : State),
      s.casc.portDn.state = .training) ∧
    (∃ (s : State) (up : Bool) (f : LinkFrame),
      (s.port up).state = .up ∧ s.pwr.mainGood = true ∧ frameIntact f = true ∧
      (f.ack + 4096 - (s.port up).ackSeq) % 4096 ≤ (s.port up).replay.length ∧ f.nak = true ∧ f.seq = ((s.port up).rxSeq + 1) % 4096) ∧
    (∃ (s : State) (up : Bool) (f : LinkFrame),
      (s.port up).state = .up ∧ s.pwr.mainGood = true ∧ frameIntact f = true ∧
      (f.ack + 4096 - (s.port up).ackSeq) % 4096 ≤ (s.port up).replay.length ∧ f.seq ≠ ((s.port up).rxSeq + 1) % 4096) ∧
    (∃ (s : State) (up : Bool) (f : LinkFrame),
      (s.port up).state = .up ∧ s.pwr.mainGood = true ∧ frameIntact f = false ∧ (s.port up).bad + 1 < 10) ∧
    (∃ (s : State) (up : Bool) (f : LinkFrame),
      (s.port up).state = .up ∧ s.pwr.mainGood = true ∧ frameIntact f = false ∧ 10 ≤ (s.port up).bad + 1) ∧
    (∃ (s : State) (up : Bool) (f : LinkFrame) (ch : Fin 4) (h : BitVec 256) (pay : List (BitVec 256)),
      (s.port up).state = .up ∧ s.pwr.mainGood = true ∧ frameIntact f = true ∧
      (f.ack + 4096 - (s.port up).ackSeq) % 4096 ≤ (s.port up).replay.length ∧ f.seq = ((s.port up).rxSeq + 1) % 4096 ∧
      f.slots.filterMap id = (h :: pay).map (fun x => ({ chan := ch, flit := x } : FlitSlot)) ∧ ch ≠ 3 ∧
      (s.port up).rxPart[ch.val]? = some [] ∧ pay.length = bitsAt h.toNat 10 5 ∧
      s.isMe (Machine.packetOf h pay).dstDev = true ∧ s.enginesRun = true) ∧
    (∃ (s : State) (up : Bool) (f : LinkFrame),
      (s.port up).state = .up ∧ s.pwr.mainGood = true ∧
      (s.port up).replay.length < (f.ack + 4096 - (s.port up).ackSeq) % 4096) ∧
    (∃ (s : State) (n : Nat),
      s.pins.role = .member ∧ 1 ≤ n ∧ n ≤ 7 ∧ s.casc.portUp.state = .up ∧ s.casc.numbered = false) ∧
    (∃ (s : State),
      s.pins.role = .member ∧ s.casc.portDn.state = .up) ∧
    (∃ (s : State) (n : Nat),
      s.pins.role = .master ∧ 1 ≤ n ∧ n ≤ 7 ∧ s.casc.portDn.state = .up ∧ n < s.casc.chain.length) ∧
    (∃ (s : State) (d : Fin 8),
      s.pins.role = .master ∧ (s.member d.val).state = 1 ∧ d.val < s.casc.chain.length) ∧
    (∃ (s : State) (d : Fin 8),
      s.pins.role = .master ∧ (s.member d.val).state ≠ 1) ∧
    (∃ (s : State),
      s.pins.role = .member ∧ s.casc.numbered = true ∧ s.casc.fenced = false ∧ s.mainLive = true ∧
      (s.pwr.dev = .run ∨ s.pwr.dev = .economy ∨ s.pwr.dev = .doze ∨ s.pwr.dev = .dry) ∧
      s.sys.hkHalt.getLsbD 1 = false) ∧
    (∃ (s : State) (d : Fin 8),
      (s.pins.role = .master ∧ d.val ≠ 0 ∧ 1 ≤ (s.member d.val).state ∧ (s.member d.val).state < 4 ∧ d.val < s.casc.chain.length) ∧
      ∀ (k : Nat), (s.pair k).failCid = none) ∧
    (∃ (s : State) (d : Fin 8),
      (s.pins.role = .master ∧ d.val ≠ 0 ∧ ((s.member d.val).state = 1 ∨ (s.member d.val).state = 2) ∧
      d.val < s.casc.chain.length ∧ d.val < s.casc.route.length) ∧
      ∀ (k : Nat), (s.pair k).state = 0) :=
  ⟨⟨w12 1, true, 0x0, by decide +kernel⟩,
   ⟨w12 6, true, 0x0, by decide +kernel⟩,
   ⟨w12 1, true, 0xf, false, by decide +kernel⟩,
   ⟨w12 1, true, 0xf, true, by decide +kernel⟩,
   ⟨w12 1, by decide +kernel⟩,
   ⟨w12 7, true, frame 5 true, by decide +kernel⟩,
   ⟨w12 7, true, frame 6 true, by decide +kernel⟩,
   ⟨w12 8, true, frame 5 false, by decide +kernel⟩,
   ⟨w12 7, true, frame 5 false, by decide +kernel⟩,
   ⟨w12 7, true, frame 5 true, 0, packetHeader (pk 1 0 1), [payloadFlit (pk 1 0 1) 0], by decide +kernel⟩,
   ⟨w12 7, true, { frame 5 true with ack := 9 }, by decide +kernel⟩,
   ⟨w12 5, 1, by decide +kernel⟩,
   ⟨w12 4, by decide +kernel⟩,
   ⟨w04 8, 1, by decide +kernel⟩,
   ⟨w12 9, 1, by decide +kernel⟩,
   ⟨w04 8, 0, by decide +kernel⟩,
   ⟨w02 30, by decide +kernel⟩,
   ⟨w04 8, 1, by decide +kernel, all_getD _ _ (fun k (x : Pair) => x.failCid = none) (by decide +kernel) (by intro _; decide)⟩,
   ⟨w04 8, 1, by decide +kernel, all_getD _ _ (fun k (x : Pair) => x.state = 0) (by decide +kernel) (by intro _; decide)⟩⟩

theorem test_met_PairsMirror :
    (∃ (s : State) (g : Fin 1024) (p : List Byte),
      s.ready (g.val) 84 false = some p ∧ Reporting s g.val ∧ par p 16 1 = 0 ∧ s.pairIdx (par p 18 1) true = none) ∧
    (∃ (s : State) (g : Fin 1024) (p : List Byte) (k : Nat),
      s.ready (g.val) 84 false = some p ∧ Reporting s g.val ∧ par p 16 1 = 0 ∧ s.pairIdx (par p 18 1) true = some k ∧
      (s.pair k).state = 1 ∧ (s.pair k).snapCid = none ∧ (s.pair k).failCid = none ∧ (∀ c ∈ s.cmds, c.held = none)) ∧
    (∃ (s : State) (g : Fin 1024) (p : List Byte),
      s.ready (g.val) 84 false = some p ∧ Reporting s g.val ∧ (par p 16 1 = 1 ∨ par p 16 1 = 2) ∧
      s.mayPair (par p 18 1) = false) ∧
    (∃ (s : State) (g : Fin 1024) (p : List Byte),
      s.ready (g.val) 84 false = some p ∧ Reporting s g.val ∧ par p 16 1 = 1 ∧ s.mayPair (par p 18 1) = true ∧
      (∃ k < 3, k < s.casc.pairs.length ∧ (s.pair k).state < 2)) ∧
    (∃ (s : State) (g : Fin 1024) (p : List Byte),
      s.ready (g.val) 84 false = some p ∧ Reporting s g.val ∧ par p 16 1 = 2 ∧ s.mayPair (par p 18 1) = true) ∧
    (∃ (s : State) (g : Fin 1024) (p : List Byte),
      s.ready (g.val) 84 false = some p ∧ Reporting s g.val ∧ par p 16 1 = 3 ∧
      (∀ k < 3, ¬((s.pair k).state = 3 ∧ (s.pair k).active = par p 18 1))) ∧
    (∃ (s : State) (g : Fin 1024) (p : List Byte) (k : Nat),
      s.ready (g.val) 84 false = some p ∧ Reporting s g.val ∧ par p 16 1 = 3 ∧
      List.find? (fun j => (s.pair j).state == 3 && (s.pair j).active == par p 18 1) (List.range 3) = some k ∧
      (s.pair k).window ≠ []) ∧
    (∃ (s : State) (k : Fin 3) (seq : Nat),
      ((s.pair k.val).state = 2 ∨ (s.pair k.val).state = 3) ∧ (s.pair k.val).failCid = none ∧ (s.pair k.val).acked ≤ seq ∧
      seq < (s.pair k.val).emitted) ∧
    (∃ (s : State) (k : Fin 3) (seq : Nat),
      ((s.pair k.val).state = 2 ∨ (s.pair k.val).state = 3) ∧ (s.pair k.val).failCid = none ∧
      (seq < (s.pair k.val).acked ∨ (s.pair k.val).emitted ≤ seq)) ∧
    (∃ (s : State) (k : Fin 3) (m : MirOut) (c : Nat) (x : Cmd),
      (s.pair k.val).state = 2 ∧ (s.pair k.val).failCid = none ∧
      List.find? (fun y => y.typ == 2) (s.pair k.val).window = some m ∧ (s.pair k.val).acked ≤ m.seq ∧
      m.seq < (s.pair k.val).emitted ∧ (s.pair k.val).snapCid = some c ∧ s.cmd? c = some x ∧ x.mir = []) ∧
    (∃ (s : State) (k : Fin 3),
      ((s.pair k.val).state = 2 ∨ (s.pair k.val).state = 3) ∧ (s.pair k.val).window ≠ []) ∧
    (∃ (s : State) (k : Fin 3),
      s.me = (s.pair k.val).active ∧ s.pins.role = .member ∧ ((s.pair k.val).state = 2 ∨ (s.pair k.val).state = 3) ∧
      s.casc.fenced = false) :=
  ⟨⟨w12 14, 0, (headOf (w12 14) 0), by unfold Reporting CidsFresh; decide +kernel⟩,
   ⟨w12 19, 0, (headOf (w12 19) 0), 0, by unfold Reporting CidsFresh; decide +kernel⟩,
   ⟨w12 16, 0, (headOf (w12 16) 0), by unfold Reporting CidsFresh; decide +kernel⟩,
   ⟨w12 15, 0, (headOf (w12 15) 0), by unfold Reporting CidsFresh; decide +kernel⟩,
   ⟨w12 17, 0, (headOf (w12 17) 0), by unfold Reporting CidsFresh; decide +kernel⟩,
   ⟨w12 18, 0, (headOf (w12 18) 0), by unfold Reporting CidsFresh; decide +kernel⟩,
   ⟨w12 23, 0, (headOf (w12 23) 0), 0, by unfold Reporting CidsFresh; decide +kernel⟩,
   ⟨w12 12, 0, 3, by decide +kernel⟩,
   ⟨w12 12, 0, 0, by decide +kernel⟩,
   ⟨w12 27, 0, (((w12 27).pair 0).window.getD 1 (mo 0 0 [])), 7, (cmdOf (w12 27)), by decide +kernel⟩,
   ⟨w12 12, 0, by decide +kernel⟩,
   ⟨w12 26, 0, by decide +kernel⟩⟩

theorem test_met_MembersWork :
    (∃ (s : State) (bytes : List Byte),
      36 ≤ bytes.length ∧ s.pins.role ≠ .member) ∧
    (∃ (s : State) (bytes : List Byte),
      36 ≤ bytes.length ∧ s.pins.role = .member ∧
      ((s.pair (recField bytes 15 1)).state = 2 ∨ (s.pair (recField bytes 15 1)).state = 3) ∧
      recField bytes 15 1 < 3 ∧ (s.pair (recField bytes 15 1)).standby = s.me ∧
      ((bytes.length == 36 + recField bytes 6 2 && BitVec.toNat (crc32c (List.take (32 + recField bytes 6 2) bytes)) == fieldAt bytes (32 + recField bytes 6 2) 4) = false ∨ (Option.map (fun n => n + 1) (s.casc.applied[recField bytes 15 1]?.getD none)).getD 0 < recField bytes 0 6)) ∧
    (∃ (s : State) (bytes : List Byte),
      36 ≤ bytes.length ∧ s.pins.role = .member ∧
      ((s.pair (recField bytes 15 1)).state = 2 ∨ (s.pair (recField bytes 15 1)).state = 3) ∧
      recField bytes 15 1 < 3 ∧ (s.pair (recField bytes 15 1)).standby = s.me ∧
      (bytes.length == 36 + recField bytes 6 2 && BitVec.toNat (crc32c (List.take (32 + recField bytes 6 2) bytes)) == fieldAt bytes (32 + recField bytes 6 2) 4) = true ∧
      recField bytes 0 6 < (Option.map (fun n => n + 1) (s.casc.applied[recField bytes 15 1]?.getD none)).getD 0) ∧
    (∃ (s : State) (bytes : List Byte),
      36 ≤ bytes.length ∧ s.pins.role = .member ∧
      ((s.pair (recField bytes 15 1)).state = 2 ∨ (s.pair (recField bytes 15 1)).state = 3) ∧
      recField bytes 15 1 < 3 ∧ (s.pair (recField bytes 15 1)).standby = s.me ∧
      (bytes.length == 36 + recField bytes 6 2 && BitVec.toNat (crc32c (List.take (32 + recField bytes 6 2) bytes)) == fieldAt bytes (32 + recField bytes 6 2) 4) = true ∧
      recField bytes 0 6 = (Option.map (fun n => n + 1) (s.casc.applied[recField bytes 15 1]?.getD none)).getD 0 ∧
      recField bytes 15 1 < s.casc.applied.length ∧ recField bytes 8 1 = 1) ∧
    (∃ (s : State) (bytes : List Byte),
      36 ≤ bytes.length ∧ s.pins.role = .member ∧
      ((s.pair (recField bytes 15 1)).state = 2 ∨ (s.pair (recField bytes 15 1)).state = 3) ∧
      recField bytes 15 1 < 3 ∧ (s.pair (recField bytes 15 1)).standby = s.me ∧
      (bytes.length == 36 + recField bytes 6 2 && BitVec.toNat (crc32c (List.take (32 + recField bytes 6 2) bytes)) == fieldAt bytes (32 + recField bytes 6 2) 4) = true ∧
      recField bytes 0 6 = (Option.map (fun n => n + 1) (s.casc.applied[recField bytes 15 1]?.getD none)).getD 0 ∧
      recField bytes 15 1 < s.casc.applied.length ∧ recField bytes 8 1 = 2) ∧
    (∃ (s : State) (bytes : List Byte),
      36 ≤ bytes.length ∧ s.pins.role = .member ∧
      ((s.pair (recField bytes 15 1)).state = 2 ∨ (s.pair (recField bytes 15 1)).state = 3) ∧
      recField bytes 15 1 < 3 ∧ (s.pair (recField bytes 15 1)).standby = s.me ∧
      (bytes.length == 36 + recField bytes 6 2 && BitVec.toNat (crc32c (List.take (32 + recField bytes 6 2) bytes)) == fieldAt bytes (32 + recField bytes 6 2) 4) = true ∧
      recField bytes 0 6 = (Option.map (fun n => n + 1) (s.casc.applied[recField bytes 15 1]?.getD none)).getD 0 ∧
      recField bytes 15 1 < s.casc.applied.length ∧ recField bytes 8 1 = 17 ∧
      ((s.casc.shadows.any fun x => x.handle == recField bytes 16 2) = true)) ∧
    (∃ (s : State) (bytes : List Byte) (n : Nat),
      36 ≤ bytes.length ∧ s.pins.role = .member ∧
      ((s.pair (recField bytes 15 1)).state = 2 ∨ (s.pair (recField bytes 15 1)).state = 3) ∧
      recField bytes 15 1 < 3 ∧ (s.pair (recField bytes 15 1)).standby = s.me ∧
      (bytes.length == 36 + recField bytes 6 2 && BitVec.toNat (crc32c (List.take (32 + recField bytes 6 2) bytes)) == fieldAt bytes (32 + recField bytes 6 2) 4) = true ∧
      recField bytes 0 6 = (Option.map (fun n => n + 1) (s.casc.applied[recField bytes 15 1]?.getD none)).getD 0 ∧
      recField bytes 15 1 < s.casc.applied.length ∧ recField bytes 8 1 = 33 ∧ 2 ≤ recField bytes 6 2 ∧
      s.physOf (fieldAt bytes 32 1) (fieldAt bytes 33 1) = some n) ∧
    (∃ (s : State) (cgd : List Byte),
      s.pins.role = .member ∧ s.casc.fenced = false ∧ s.casc.numbered = true ∧ s.enginesRun = true ∧ CidsFresh s ∧
      (((parseCgd cgd).places.any fun x => s.isMe x.dev) = false)) ∧
    (∃ (s : State) (h : Nat) (g : Graph),
      s.pins.role = .member ∧ s.casc.fenced = false ∧ s.casc.numbered = true ∧ s.enginesRun = true ∧ CidsFresh s ∧
      s.graph? h = some g ∧ s.pairsFor g.devs = []) ∧
    (∃ (s : State) (k : Fin 3) (a : Nat),
      s.pins.role = .member ∧ s.casc.fenced = false ∧ s.casc.numbered = true ∧ s.enginesRun = true ∧ CidsFresh s ∧
      a ≠ s.me ∧ k.val < s.casc.pairs.length) ∧
    (∃ (s : State) (k : Fin 3),
      s.pins.role = .member ∧ s.casc.fenced = false ∧ s.casc.numbered = true ∧ s.enginesRun = true ∧ CidsFresh s ∧
      (∀ c ∈ s.cmds, c.held = none) ∧ (s.pair k.val).standby = s.me) ∧
    (∃ s : State, s.pins.role = .member ∧ s.casc.numbered = true ∧ s.casc.fenced = false ∧ s.casc.alsoNum = none ∧
      s.casc.shadows ≠ [] ∧ ∀ g ∈ s.casc.shadows, ∀ e ∈ g.cgd.edges, e.delay = false) :=
  ⟨⟨w02 0, List.replicate 192 1, by decide +kernel⟩,
   ⟨w12 29, packet 0 0 5 0 [] ++ packet 0 0 6 0 [], by decide +kernel⟩,
   ⟨w12 31, (record (mo 0 0x01 []) 0), by decide +kernel⟩,
   ⟨w12 29, (record (mo 0 0x01 []) 0), by decide +kernel⟩,
   ⟨w12 31, (record (mo 5 0x02 []) 0), by decide +kernel⟩,
   ⟨w12 31, (record (mo 5 0x11 []) 0), by decide +kernel⟩,
   ⟨w12 31, (record (mo 5 0x21 [0, 1]) 0), 1, by decide +kernel⟩,
   ⟨w02 30, [], by unfold CidsFresh; decide +kernel⟩,
   ⟨w12 34, 5, (graphOf (w12 34)), by unfold CidsFresh; decide +kernel⟩,
   ⟨w02 30, 0, 1, by unfold CidsFresh; decide +kernel⟩,
   ⟨w12 31, 0, by unfold CidsFresh; decide +kernel⟩,
   ⟨w12 31, by decide +kernel⟩⟩

/-! ### Values that the spec gives -/

/-- f(k) = 100 Hz x 120^(k/39), to the nearest mHz (R132): 39 f(k) against 39 x 10^5 + k log 120. -/
theorem test_band_centres : (bandCentres.mapIdx (fun k c =>
    decide ((2 * c - 1) ^ 39 ≤ 2 ^ 39 * 10 ^ 195 * 120 ^ k) && decide (2 ^ 39 * 10 ^ 195 * 120 ^ k ≤ (2 * c + 1) ^ 39))).all
    (fun b => b) = true := by decide +kernel

/-- A packet as flits and back, with TYPE in bits 7 to 0, VC in 9 and 8, FLITS from bit 10 on (Table 9-4). -/
theorem test_packet_flits :
    Machine.packetOf (packetHeader (pk 1 0 1)) [payloadFlit (pk 1 0 1) 0] = { pk 1 0 1 with errPort := 4 } ∧
    (packetHeader (pk 0x12 1 3)).toNat % 2 ^ 16 = 0x12 + 1 * 2 ^ 8 + 3 * 2 ^ 10 ∧ packetSound (pk 1 0 1) = true ∧
    packetSound (pk 1 1 1) = false := by decide +kernel

/-- SEQ, ACK_SEQ, NAK, the first slot's valid and channel, and the first channel's credits of a frame (Table 18-1). -/
theorem test_frame_bits : frameControl (frame 5 true) % 2 ^ 28 = 5 + 5 * 2 ^ 12 + 2 ^ 24 + 2 ^ 25 ∧
    frameControl (frame 5 true) / 2 ^ 46 % 64 = 1 ∧ (frameBlocks (frame 5 true)).length = 16 := by decide +kernel

/-- HK0 reads its own pending store; HK1 and the host read the mailbox until it drains (R392). -/
theorem test_hk_stores :
    let s := { up with hkStores := [[(8, [1, 2, 3, 4])], []] }
    (match exec (.registerWrite 0 0 (.hkMem 0 (.load 8 4)) false ⟨0, 0⟩) s with | .next t => t.out.head? | _ => none) = some (.hk 0 [1, 2, 3, 4]) ∧
    (match exec (.registerWrite 0 0 (.hkMem 1 (.load 8 4)) false ⟨0, 0⟩) s with | .next t => t.out.head? | _ => none) = some (.hk 1 [0, 0, 0, 0]) := by
  decide +kernel

/-- PWR_EST reads 0 right after release, and the base with the first microsecond (R18, log 39). -/
theorem test_pwr_est : State.reset.readPwr 0x14 = 0 ∧
    (match exec .uptimeTick State.reset with | .next t => (t.readPwr 0x14).toNat % 65536 | _ => 0) = 2400 := by decide +kernel

/-- CSC_RCTL.OFFSET reads back its bits 1 and 0 (R16). -/
theorem test_rctl_offset : (match exec (.registerWrite 0 0xB0080 (.write 0x7) false ⟨0, 0⟩) master with
    | .next t => (t.readReg 0xB0080).toNat % 8 | _ => 0) = 7 := by decide +kernel

end Sys2Proof.Tests
end

section
/-! PROOFS. The cold start (R102): what VAUX good does in OFF, and the tick of the always-on clock that follows it. -/

namespace Sys2Proof.Machine

/-- A bit that lies within the word reads back as it was set. -/
theorem getLsbD_setBit_self {n : Nat} (x : BitVec n) {i : Nat} (v : Bool) (hi : i < n) :
    (setBit x i v).getLsbD i = v := by
  have hbit : (BitVec.ofNat n (2 ^ i)).getLsbD i = true := by
    rw [BitVec.getLsbD_ofNat, decide_eq_true hi, Nat.testBit_two_pow_self, Bool.and_self]
  cases v with
  | true => rw [setBit, if_pos rfl, BitVec.getLsbD_or, hbit, Bool.or_true]
  | false =>
    rw [setBit, if_neg Bool.false_ne_true, BitVec.getLsbD_and, BitVec.getLsbD_not, hbit, Bool.not_true,
      Bool.and_false, Bool.and_false]

/-- The state after a cold start (R102): VAUX reads good and PWR_FAULT is clear; of the island's clock only the epoch and its
saturation stay, and the epoch is pending. -/
def State.coldStarted (s : State) : State :=
  { s with
    pwr := { s.pwr with railGood := setBit s.pwr.railGood 0 true, fault := 0, faultRail := 0, prev := .sentry }
    tmr := { Time.initial with epoch := s.tmr.epoch, epochSat := s.tmr.epochSat, epochPending := true } }

/-- VAUX good with VAUX not good before, in OFF, is a cold start (R102). -/
theorem exec_vauxGood_of_off {s : State} (hoff : s.pwr.dev = .off) (hvaux : s.pwr.railGood.getLsbD 0 = false) :
    exec .vauxGood s = .next s.coldStarted := by
  have hguard : ¬ (s.pwr.dev ≠ .off ∨ s.pwr.railGood.getLsbD 0 = true) :=
    not_or.mpr ⟨not_not_intro hoff, Bool.eq_false_iff.mp hvaux⟩
  exact congrArg Host.Outcome.next (if_neg hguard)

/-- The state one microsecond later on the island's clock (R77, R103). -/
def State.ticked (s : State) : State :=
  { s with
    tmr := { s.tmr with uptime := (s.tmr.uptime + 1) % 2 ^ 64, copy := (s.tmr.uptime + 1) % 2 ^ 64
                        untrimmed := s.tmr.untrimmed || !s.tmr.accuracy }
    pwr := { s.pwr with estFormed := s.pwr.estFormed || s.mainLive } }

/-- The clock counts at every tick while VAUX is good (R103). -/
theorem exec_uptimeTick_of_islandUp {s : State} (hup : s.islandUp = true) :
    exec .uptimeTick s = .next s.ticked := by
  have hguard : ¬ (!s.islandUp) = true := by simp [hup]
  exact congrArg Host.Outcome.next (if_neg hguard)

/-- A cold start leaves VAUX good, so the clock runs from there on. -/
theorem State.coldStarted_islandUp (s : State) : s.coldStarted.islandUp = true :=
  getLsbD_setBit_self s.pwr.railGood true (by decide)

/-- Settles O10: the cold start and the tick after it are computed by their rules, and a cold start leaves VAUX good, which
is the tick's one premise. -/
theorem coldStart : Obligations.ColdStart := by
  intro s hoff hvaux
  have hcold : exec .vauxGood s = .next s.coldStarted := exec_vauxGood_of_off hoff hvaux
  have htick : exec .uptimeTick s.coldStarted = .next s.coldStarted.ticked :=
    exec_uptimeTick_of_islandUp s.coldStarted_islandUp
  exact ⟨s.coldStarted, hcold, rfl, rfl, rfl, rfl, rfl, rfl, rfl, rfl,
    s.coldStarted.ticked, htick, rfl, rfl, rfl⟩

end Sys2Proof.Machine
end

section
/-! PROOFS. A host access that reaches its block, the consumer index of a ring of records, and the write of SNT_RPT_RD. -/

namespace Sys2Proof.Machine

/-! ### A host access that reaches its block -/

/-- A DOZE trigger changes PWR alone. -/
theorem State.touch_eq_pwr (s : State) : s.touch = { s with pwr := s.touch.pwr } := by
  unfold State.touch
  dsimp only
  split
  · rfl
  · split <;> rfl

@[simp] theorem State.touch_snt_eq (s : State) : s.touch.snt = s.snt := by rw [s.touch_eq_pwr]

/-- Which blocks answer does not depend on the link's idle state. -/
@[simp] theorem State.leaveL1_answers_eq (s : State) (b : BlockGroup) : s.leaveL1.answers b = s.answers b := rfl

/-- An access to a block that answers is carried out; outside PWR/CLK and TMR it is a DOZE trigger first (R528). -/
theorem State.access_of_answers {s : State} {b : BlockGroup} (ha : s.answers b = true) (k : State → State) :
    s.access b k = k (if b = .island then s else s.touch) := by
  have hguard : ¬ (!s.answers b) = true := by simp [ha]
  exact if_neg hguard

/-- A host write that reaches the function's BARs takes the link out of its idle state and is an access to the block. -/
theorem State.hostAccess_of_reaches {s : State} {f : Nat} (hr : s.reaches f = true) (tlp : Option Tlp) (b : BlockGroup)
    (k : State → State) : s.hostAccess f tlp b k = s.leaveL1.access b k := by
  obtain ⟨hup, hdec⟩ : s.hostUp = true ∧ s.decodes f = true := (Bool.and_eq_true _ _).mp hr
  have hupGuard : ¬ (!s.hostUp) = true := by simp [hup]
  have hdecGuard : ¬ (!s.decodes f) = true := by simp [hdec]
  exact (if_neg hupGuard).trans (if_neg hdecGuard)

/-! ### The consumer index of a ring of records (R176) -/

/-- A value from RD to WR, counted forward, is stored. -/
theorem consumed_of_le {rd wr v : BitVec 16} (h : (v - rd).toNat ≤ (wr - rd).toNat) : consumed rd wr v = v := if_pos h

/-- Any other value is discarded. -/
theorem consumed_of_lt {rd wr v : BitVec 16} (h : (wr - rd).toNat < (v - rd).toNat) : consumed rd wr v = rd :=
  if_neg (Nat.not_le_of_lt h)

/-- The part of a forward count that lies past an intermediate value is no longer than the whole. -/
theorem toNat_sub_le_of_between {rd wr v : BitVec 16} (h : (v - rd).toNat ≤ (wr - rd).toNat) :
    (wr - v).toNat ≤ (wr - rd).toNat := by
  have hsplit : wr - v = (wr - rd) - (v - rd) := (sub_sub_sub_cancel_right wr v rd).symm
  rw [hsplit, BitVec.toNat_sub_of_le h]
  exact Nat.sub_le _ _

/-- Consuming never makes more records outstanding. -/
theorem toNat_sub_consumed_le (rd wr v : BitVec 16) : (wr - consumed rd wr v).toNat ≤ (wr - rd).toNat := by
  rcases Nat.lt_or_ge (wr - rd).toNat (v - rd).toNat with hout | hin
  · rw [consumed_of_lt hout]
  · rw [consumed_of_le hin]
    exact toNat_sub_le_of_between hin

/-! ### SNT_RPT_RD -/

/-- The write of SNT_RPT_RD where the SNT block answers. -/
theorem exec_sntRptRdWrite_of_answers {s : State} (hr : s.reaches 0 = true) (ha : s.answers .host = true) (v : Word) :
    exec (.sntRptRdWrite v) s =
      .next { s.leaveL1.touch with snt := { s.snt with rd := consumed s.snt.rd s.snt.wr (v.setWidth 16) } } := by
  have hacc : s.hostAccess 0 none .host (fun u => u.rptRdWrite v) = s.leaveL1.touch.rptRdWrite v := by
    rw [State.hostAccess_of_reaches hr, State.access_of_answers (b := .host) (by simpa using ha)]
    rfl
  have hsnt : s.leaveL1.touch.snt = s.snt := by simp
  calc exec (.sntRptRdWrite v) s = .next (s.leaveL1.touch.rptRdWrite v) := congrArg Host.Outcome.next hacc
    _ = _ := by rw [State.rptRdWrite, hsnt]

/-- Settles O27: the write stores what `consumed` keeps of the value, and consuming never makes more reports outstanding. -/
theorem reportsConsumed : Obligations.ReportsConsumed := by
  intro s v hr ha
  exact ⟨_, exec_sntRptRdWrite_of_answers hr ha v, consumed_of_le, consumed_of_lt,
    (toNat_sub_consumed_le s.snt.rd s.snt.wr (v.setWidth 16)).trans, rfl⟩

end Sys2Proof.Machine
end

section
/-! PROOFS. Evaluations in flight: what it means that an outcome adds none, and the laws of continuations and of folds.
The sections that follow say, file by file of the model, what each operation leaves of the evaluations in flight: an
equation where it leaves them all, an inclusion where it may drop some. An operation that branches has its branches opened,
and each branch is a chain of operations already settled. -/

namespace Sys2Proof.Machine

/-- The outcome holds no evaluation in flight that `s` does not hold. -/
def EvalsWithin (s : State) (o : Host.Outcome State Fault Refusal) : Prop := ∀ t, o = .next t → t.evals ⊆ s.evals

@[simp] theorem evalsWithin_next (s t : State) : EvalsWithin s (.next t) ↔ t.evals ⊆ s.evals :=
  ⟨fun h => h t rfl, fun h _ e => by cases e; exact h⟩

@[simp] theorem evalsWithin_refused (s : State) (r : Refusal) : EvalsWithin s (.refused r) := fun _ e => by cases e

@[simp] theorem evalsWithin_fault (s : State) (f : Fault) : EvalsWithin s (.fault f) := fun _ e => by cases e

theorem evalsWithin_next_of_eq {s t : State} (h : t.evals = s.evals) : EvalsWithin s (.next t) := by
  rw [evalsWithin_next, h]
  exact List.Subset.refl _

/-- A continuation leaves the evaluations in flight. -/
def KeepsEvals (k : State → State) : Prop := ∀ u, (k u).evals = u.evals

@[simp] theorem keepsEvals_iff (k : State → State) : KeepsEvals k ↔ ∀ u, (k u).evals = u.evals := Iff.rfl

/-- A step over the entries of a list leaves the evaluations in flight. -/
def StepKeepsEvals {α : Type} (f : State → α → State) : Prop := ∀ s a, (f s a).evals = s.evals

@[simp] theorem stepKeepsEvals_iff {α : Type} (f : State → α → State) :
    StepKeepsEvals f ↔ ∀ s a, (f s a).evals = s.evals := Iff.rfl

@[simp] theorem foldl_evals_eq {α : Type} (l : List α) (f : State → α → State) (h : StepKeepsEvals f) (s : State) :
    (l.foldl f s).evals = s.evals := by
  induction l generalizing s with
  | nil => rfl
  | cons a l ih => exact (ih (f s a)).trans (h s a)

/-- The same for a fold that gathers something beside the state. -/
theorem foldl_fst_evals_eq {α β : Type} (l : List α) (f : State × β → α → State × β)
    (h : ∀ acc a, (f acc a).1.evals = acc.1.evals) (acc : State × β) : (l.foldl f acc).1.evals = acc.1.evals := by
  induction l generalizing acc with
  | nil => rfl
  | cons a l ih => exact (ih (f acc a)).trans (h acc a)

theorem foldl_evals_subset {α : Type} (l : List α) (f : State → α → State) (h : ∀ s a, (f s a).evals ⊆ s.evals)
    (s : State) : (l.foldl f s).evals ⊆ s.evals := by
  induction l generalizing s with
  | nil => exact List.Subset.refl _
  | cons a l ih => exact List.Subset.trans (ih (f s a)) (h s a)

end Sys2Proof.Machine
end

section
/-! PROOFS. Evaluations in flight: the named operations (sending, logging, picking, updates). -/

namespace Sys2Proof.Machine

@[simp] theorem State.post_evals_eq (s0 : State) (e : Emit) (credit src : Option (Nat × Nat)) :
    (s0.post e credit src).evals = s0.evals := (post_report _ _ _ _).evals_eq

@[simp] theorem State.postWrite_evals_eq (s : State) (f : Nat) (addr : DWord) (bytes : List Byte) (relaxed : Bool)
    (credit src : Option (Nat × Nat)) :
    (s.postWrite f addr bytes relaxed credit src).evals = s.evals := (postWrite_report _ _ _ _ _ _ _).evals_eq

@[simp] theorem State.issueRead_evals_eq (s : State) (f : Nat) (addr : DWord) (len : Nat) :
    (s.issueRead f addr len).evals = s.evals := (issueRead_report _ _ _ _).evals_eq

@[simp] theorem State.signal_evals_eq (s : State) (f e : Nat) : (s.signal f e).evals = s.evals :=
  (signal_report _ _ _).evals_eq

@[simp] theorem State.devVec_evals_eq (s : State) (k : Nat) : (s.devVec k).evals = s.evals := (devVec_report _ _).evals_eq

@[simp] theorem State.vlog_evals_eq (s : State) (kind action rid func ring : Nat) (hdr : BitVec 128) :
    (s.vlog kind action rid func ring hdr).evals = s.evals := (vlog_report _ _ _ _ _ _ _).evals_eq

@[simp] theorem State.vlogTlp_evals_eq (s : State) (kind action func ring : Nat) (t : Tlp) :
    (s.vlogTlp kind action func ring t).evals = s.evals := (vlogTlp_report _ _ _ _ _ _).evals_eq

@[simp] theorem State.dlog_evals_eq (s : State) (source event : Nat) (arg0 : Word) (arg1 : DWord) :
    (s.dlog source event arg0 arg1).evals = s.evals := by simp [State.dlog]

end Sys2Proof.Machine
end

section
/-! PROOFS. Evaluations in flight: KFLAG. -/

namespace Sys2Proof.Machine

@[simp] theorem State.signalRing_evals_eq (s : State) (g : Nat) : (s.signalRing g).evals = s.evals :=
  (signalRing_ledger _ _).evals_eq

end Sys2Proof.Machine
end

section
/-! PROOFS. Evaluations in flight: fetches, the head packet, completion records and the end of a command. -/

namespace Sys2Proof.Machine

@[simp] theorem State.fetchRing_evals_eq (s : State) (g : Nat) : (s.fetchRing g).evals = s.evals :=
  (fetchRing_ledger _ _).evals_eq

@[simp] theorem State.fetchAll_evals_eq (fuel : Nat) (s : State) : (s.fetchAll fuel).evals = s.evals :=
  (fetchAll_ledger _ _).evals_eq

@[simp] theorem State.fetchList_evals_eq (s : State) (g : Nat) : (s.fetchList g).evals = s.evals :=
  (fetchList_ledger _ _).evals_eq

@[simp] theorem State.fetchWork_evals_eq (s : State) : s.fetchWork.evals = s.evals := (fetchWork_ledger _).evals_eq

@[simp] theorem State.dropResults_evals_eq (s : State) (cid : Option Nat) (g : Nat) :
    (s.dropResults cid g).evals = s.evals := (dropResults_ledger _ _ _).evals_eq

@[simp] theorem State.writeRecord_evals_eq (s : State) (g tag op : Nat) (inList irqNow detached : Bool) (cid : Option Nat)
    (start evals skipped : Nat) (e : End) :
    (s.writeRecord g tag op inList irqNow detached cid start evals skipped e).evals = s.evals :=
  (writeRecord_ledger _ _ _ _ _ _ _ _ _ _ _ _).evals_eq

@[simp] theorem State.countEnd_evals_eq (s : State) (st : Nat) : (s.countEnd st).evals = s.evals := rfl

@[simp] theorem State.ringIdle_evals_eq (s : State) (g : Nat) : (s.ringIdle g).evals = s.evals :=
  (ringIdle_ledger _ _).evals_eq

@[simp] theorem State.weightEvent_evals_eq (s : State) (x : Cmd) : (s.weightEvent x).evals = s.evals :=
  (weightEvent_ledger _ _).evals_eq

@[simp] theorem State.endCmd_evals_eq (s : State) (c : Nat) (e : End) : (s.endCmd c e).evals = s.evals :=
  (endCmd_ledger _ _ _).evals_eq

@[simp] theorem State.closeLists_evals_eq (fuel : Nat) (s : State) : (s.closeLists fuel).evals = s.evals :=
  (closeLists_ledger _ _).evals_eq

@[simp] theorem State.wpeIdle_evals_eq (s : State) : s.wpeIdle.evals = s.evals := (wpeIdle_ledger _).evals_eq

@[simp] theorem State.closeSessions_evals_eq (fuel : Nat) (s : State) : (s.closeSessions fuel).evals = s.evals :=
  (closeSessions_ledger _ _).evals_eq

@[simp] theorem State.lcsLast_evals_eq (s : State) (status check : Nat) :
    (s.lcsLast status check).evals = s.evals := rfl

@[simp] theorem State.noteLifecycle_evals_eq (s : State) (p : List Byte) (e : End) :
    (s.noteLifecycle p e).evals = s.evals := (noteLifecycle_ledger _ _ _).evals_eq

@[simp] theorem State.rejectPacket_evals_eq (s : State) (g : Nat) (p : List Byte) (depth n : Nat) (e : End) :
    (s.rejectPacket g p depth n e).evals = s.evals := (rejectPacket_ledger _ _ _ _ _ _).evals_eq

theorem State.rejectHead_evals_eq (s : State) (g : Nat) :
    ∀ t, s.rejectHead g = some t → t.evals = s.evals := by
  unfold State.rejectHead
  dsimp only
  repeat' split
  all_goals simp

@[simp] theorem State.settleLoop_evals_eq (fuel : Nat) (s : State) (g : Nat) :
    (s.settleLoop fuel g).evals = s.evals := (settleLoop_ledger _ _ _).evals_eq

@[simp] theorem State.settle_evals_eq (s : State) (g : Nat) : (s.settle g).evals = s.evals := (settle_ledger _ _).evals_eq

@[simp] theorem State.finish_evals_eq (s : State) (c : Nat) (e : End) : (s.finish c e).evals = s.evals :=
  (finish_ledger _ _ _).evals_eq

@[simp] theorem State.accept_evals_eq (s : State) (g : Nat) (p : List Byte) (body : Body) (deadline : Option Nat)
    (power : Nat) :
    (s.accept g p body deadline power).evals = s.evals := rfl

@[simp] theorem State.complete_evals_eq (s : State) (g : Nat) (p : List Byte) (e : End) :
    (s.complete g p e).evals = s.evals := (complete_ledger _ _ _ _).evals_eq

@[simp] theorem State.onHead_evals_eq (s : State) (g op : Nat) (barrier : Bool) (k : List Byte → State)
    (hk : ∀ p, (k p).evals = s.evals) :
    (s.onHead g op barrier k).evals = s.evals := by
  unfold State.onHead
  split
  · rfl
  · exact hk _

theorem State.onHead_evals_subset (s : State) (g op : Nat) (barrier : Bool) (k : List Byte → State)
    (hk : ∀ p, (k p).evals ⊆ s.evals) : (s.onHead g op barrier k).evals ⊆ s.evals := by
  unfold State.onHead
  split
  · exact List.Subset.refl _
  · exact hk _

@[simp] theorem State.dropRing_evals_eq (s : State) (g : Nat) : (s.dropRing g).evals = s.evals :=
  (dropRing_ledger _ _).evals_eq

@[simp] theorem State.haltRing_evals_eq (s : State) (g cause : Nat) (addr : DWord) :
    (s.haltRing g cause addr).evals = s.evals := (haltRing_ledger _ _ _ _).evals_eq

end Sys2Proof.Machine
end

section
/-! PROOFS. Evaluations in flight: host accesses and the DOZE trigger. -/

namespace Sys2Proof.Machine

@[simp] theorem State.touch_evals_eq (s : State) : s.touch.evals = s.evals := by
  simp [State.touch, apply_ite State.evals]

@[simp] theorem State.access_evals_eq (s : State) (b : BlockGroup) (k : State → State) (hk : KeepsEvals k) :
    (s.access b k).evals = s.evals := by
  unfold State.access
  split
  · rfl
  · rw [hk]
    split <;> simp

@[simp] theorem State.misbehave_evals_eq (s : State) (kind action func : Nat) (tlp : Tlp) :
    (s.misbehave kind action func tlp).evals = s.evals := by simp [State.misbehave, apply_ite State.evals]

@[simp] theorem State.anyTlp_evals_eq (s : State) : (s.anyTlp).2.evals = s.evals := rfl

@[simp] theorem State.noBar_evals_eq (s : State) (f : Nat) (isRead : Bool) (tlp : Option Tlp) :
    (s.noBar f isRead tlp).evals = s.evals := by
  unfold State.noBar
  repeat' split
  all_goals simp

@[simp] theorem State.hostAccess_evals_eq (s : State) (f : Nat) (tlp : Option Tlp) (b : BlockGroup) (k : State → State)
    (hk : KeepsEvals k) :
    (s.hostAccess f tlp b k).evals = s.evals := by
  unfold State.hostAccess
  split
  · rfl
  · split <;> simp [hk _]

@[simp] theorem State.hostRead_evals_eq (s : State) (f : Nat) (tlp : Option Tlp) (b : BlockGroup) (len : Nat)
    (k : State → State) (data : State → List Byte) (hk : KeepsEvals k) :
    (s.hostRead f tlp b len k data).evals = s.evals := by
  unfold State.hostRead
  repeat' split
  all_goals simp [hk _]

@[simp] theorem State.dmaWrite_evals_eq (s : State) (cid : Nat) (addr : DWord) (bytes : List Byte) (relaxed : Bool) :
    (s.dmaWrite cid addr bytes relaxed).evals = s.evals := (dmaWrite_ledger _ _ _ _ _).evals_eq

@[simp] theorem State.dmaRead_evals_eq (s : State) (f : Nat) (addr : DWord) (len : Nat) :
    (s.dmaRead f addr len).evals = s.evals := by simp [State.dmaRead, apply_ite State.evals]

@[simp] theorem State.releaseReads_evals_eq (s : State) : s.releaseReads.evals = s.evals := by simp [State.releaseReads]

@[simp] theorem State.readFailed_evals_eq (s : State) (g kind : Nat) : (s.readFailed g kind).evals = s.evals := by
  simp [State.readFailed, apply_ite State.evals]

@[simp] theorem State.completeWith_evals_eq (s : State) (g : Nat) (p : List Byte) (k : State → State) (e : End)
    (hk : KeepsEvals k) :
    (s.completeWith g p k e).evals = s.evals := by simp [State.completeWith, hk _]

@[simp] theorem State.refuse_evals_eq (s : State) (g : Nat) (p : List Byte) (e : End) :
    (s.refuse g p e).evals = s.evals := (refuse_ledger _ _ _ _).evals_eq

end Sys2Proof.Machine
end

section
/-! PROOFS. Evaluations in flight: terrace staging and the power estimate. -/

namespace Sys2Proof.Machine

@[simp] theorem State.notePeak_evals_eq (s : State) : s.notePeak.evals = s.evals := rfl

@[simp] theorem State.stageMore_evals_eq (fuel : Nat) (s : State) : (s.stageMore fuel).evals = s.evals := by
  induction fuel generalizing s with
  | zero => rfl
  | succ fuel ih =>
    unfold State.stageMore
    dsimp only
    repeat' split
    all_goals simp [ih]

@[simp] theorem State.needTerrace_evals_eq (s : State) (t : Nat) : (s.needTerrace t).evals = s.evals := by
  simp [State.needTerrace, apply_ite State.evals]

@[simp] theorem State.needTerraces_evals_eq (s : State) (ts : List Nat) : (s.needTerraces ts).evals = s.evals := by
  simp [State.needTerraces]

@[simp] theorem State.wakePeriph_evals_eq (s : State) (n : Nat) : (s.wakePeriph n).evals = s.evals := by
  simp [State.wakePeriph, apply_ite State.evals]

@[simp] theorem State.usePeriph_evals_eq (s : State) (n : Nat) : (s.usePeriph n).evals = s.evals := by
  unfold State.usePeriph
  split <;> rfl

end Sys2Proof.Machine
end

section
/-! PROOFS. Evaluations in flight: the frames of the cascade link. -/

namespace Sys2Proof.Machine

@[simp] theorem State.updPort_evals_eq (s : State) (up : Bool) (f : CascPort → CascPort) :
    (s.updPort up f).evals = s.evals := rfl

@[simp] theorem State.sendFrame_evals_eq (s : State) (up : Bool) (slots : List FlitSlot) (nak : Bool) :
    (s.sendFrame up slots nak).evals = s.evals := rfl

@[simp] theorem State.sendFlits_evals_eq (fuel : Nat) (s : State) (up : Bool) (flits : List FlitSlot) :
    (s.sendFlits fuel up flits).evals = s.evals := by
  induction fuel generalizing s flits with
  | zero => cases flits <;> rfl
  | succ fuel ih =>
    cases flits with
    | nil => rfl
    | cons x xs => simp [State.sendFlits, ih]

@[simp] theorem State.bridgeSend_evals_eq (s : State) (up : Bool) : (s.bridgeSend up).evals = s.evals := by
  simp [State.bridgeSend, apply_ite State.evals]

end Sys2Proof.Machine
end

section
/-! PROOFS. Evaluations in flight: packets on the rill, buffers and credits. -/

namespace Sys2Proof.Machine

@[simp] theorem State.failRun_evals_eq (s : State) (h seq t : Nat) : (s.failRun h seq t).evals = s.evals := by
  unfold State.failRun
  split <;> rfl

@[simp] theorem State.noteBehind_evals_eq (s : State) (p : Packet) : (s.noteBehind p).evals = s.evals := by
  unfold State.noteBehind
  dsimp only
  split <;> simp

@[simp] theorem State.delayRuns_evals_eq (s : State) (g : Nat) (which : Run → Bool) :
    (s.delayRuns g which).evals = s.evals := rfl

@[simp] theorem State.badPacket_evals_eq (s : State) (p : Packet) (t : Nat) :
    (s.badPacket p t).evals = s.evals := by simp [State.badPacket]

@[simp] theorem State.uncorrectable_evals_eq (s : State) (t : Nat) (f : Terrace → Terrace) :
    (s.uncorrectable t f).evals = s.evals := by simp [State.uncorrectable]

@[simp] theorem State.transit_evals_eq (s : State) (p : Packet) : (s.transit p).1.evals = s.evals := by
  unfold State.transit
  split <;> simp

@[simp] theorem State.crossHop_evals_eq (s : State) (p : Packet) (h : Hop) : (s.crossHop p h).evals = s.evals := rfl

@[simp] theorem State.leaveRill_evals_eq (s : State) (p : Packet) : (s.leaveRill p).evals = s.evals := by
  unfold State.leaveRill
  refine foldl_evals_eq _ _ (fun t c => ?_) _
  simp

@[simp] theorem State.bridgeOn_evals_eq (s : State) (p : Packet) : (s.bridgeOn p).evals = s.evals := by
  unfold State.bridgeOn
  split <;> simp

@[simp] theorem State.bridge_evals_eq (s : State) (p : Packet) : (s.bridge p).evals = s.evals := by
  simp [State.bridge, apply_ite State.evals]

@[simp] theorem State.flushBridge_evals_eq (s : State) : s.flushBridge.evals = s.evals := by simp [State.flushBridge]

@[simp] theorem State.enterRill_evals_eq (s : State) (p : Packet) : (s.enterRill p).evals = s.evals := by
  simp [State.enterRill]

@[simp] theorem State.send_evals_eq (s : State) (p : Packet) : (s.send p).evals = s.evals := by
  simp [State.send, apply_ite State.evals]

@[simp] theorem State.holdRoute_evals_eq (s : State) (h seq t : Nat) : (s.holdRoute h seq t).evals = s.evals := by
  unfold State.holdRoute
  split <;> rfl

@[simp] theorem State.arrive_evals_eq (s : State) (p : Packet) (k : State → State) (hk : KeepsEvals k) :
    (s.arrive p k).evals = s.evals := by
  unfold State.arrive
  split
  · rfl
  split
  · simp
  split
  · simp
  dsimp only
  split
  · simp
  · rw [apply_ite State.evals, hk, ite_self]
    simp [apply_ite State.evals]

@[simp] theorem State.writeBuffer_evals_eq (s : State) (g : Graph) (slot buf half seq : Nat) (bs : List Byte)
    (poison : Bool) :
    (s.writeBuffer g slot buf half seq bs poison).evals = s.evals := by
  unfold State.writeBuffer
  split <;> rfl

@[simp] theorem State.writeSlot_evals_eq (s : State) (p : Packet) : (s.writeSlot p).evals = s.evals := by
  unfold State.writeSlot
  repeat' split
  all_goals simp

@[simp] theorem State.sendCredit_evals_eq (s : State) (g : Graph) (idx fromTer : Nat) (fromEngine : Bool) (seq : Nat) :
    (s.sendCredit g idx fromTer fromEngine seq).evals = s.evals := by
  unfold State.sendCredit
  repeat' split
  all_goals simp

@[simp] theorem State.deliverPorts_evals_eq (fuel : Nat) (s : State) (h : Nat) :
    (s.deliverPorts fuel h).evals = s.evals := by
  induction fuel generalizing s with
  | zero => rfl
  | succ fuel ih =>
    unfold State.deliverPorts
    dsimp only
    repeat' split
    all_goals simp [ih]

@[simp] theorem State.portData_evals_eq (s : State) (h port seq : Nat) (bs : List Byte) :
    (s.portData h port seq bs).evals = s.evals := by simp [State.portData]

@[simp] theorem State.postDone_evals_eq (s : State) (p : Posted) : (s.postDone p).evals = s.evals := by
  unfold State.postDone
  dsimp only
  repeat' split
  all_goals simp

@[simp] theorem State.writeOutput_evals_eq (s : State) (cid ring : Nat) (addr : DWord) (bytes : List Byte)
    (credit : Nat × Nat) :
    (s.writeOutput cid ring addr bytes credit).evals = s.evals := by simp [State.writeOutput, apply_ite State.evals]

@[simp] theorem State.engineData_evals_eq (s : State) (p : Packet) : (s.engineData p).evals = s.evals := by
  unfold State.engineData
  split
  · simp
  · split
    · cases s.runOf p.graph p.runSeq
      all_goals
        dsimp only
        repeat' split
        all_goals simp
    · simp

@[simp] theorem execActData_evalsWithin (p : Packet) (s : State) : EvalsWithin s (execActData p s) := by
  simp [execActData, apply_ite State.evals]

@[simp] theorem execTensorData_evalsWithin (p : Packet) (s : State) : EvalsWithin s (execTensorData p s) := by
  simp [execTensorData, apply_ite State.evals]

@[simp] theorem execReadReq_evalsWithin (p : Packet) (s : State) : EvalsWithin s (execReadReq p s) := by
  refine evalsWithin_next_of_eq (s.arrive_evals_eq p _ (fun t => ?_))
  repeat' split
  all_goals simp

@[simp] theorem execReadData_evalsWithin (p : Packet) (s : State) : EvalsWithin s (execReadData p s) := by
  refine evalsWithin_next_of_eq (s.arrive_evals_eq p _ (fun t => ?_))
  repeat' split
  all_goals simp

@[simp] theorem execCredit_evalsWithin (p : Packet) (s : State) : EvalsWithin s (execCredit p s) := by
  simp [execCredit, apply_ite State.evals]

@[simp] theorem execPrewake_evalsWithin (p : Packet) (s : State) : EvalsWithin s (execPrewake p s) := by
  simp [execPrewake, apply_ite State.evals]

@[simp] theorem execMoatSet_evalsWithin (p : Packet) (s : State) : EvalsWithin s (execMoatSet p s) := by
  simp [execMoatSet, apply_ite State.evals]

@[simp] theorem execForwardPacket_evalsWithin (handle place edge : Nat) (cis : Fin 3) (s : State) :
    EvalsWithin s (execForwardPacket handle place edge cis s) := by
  unfold execForwardPacket
  repeat' split
  all_goals simp

end Sys2Proof.Machine
end

section
/-! PROOFS. Evaluations in flight: mirror records on the active device. -/

namespace Sys2Proof.Machine

@[simp] theorem State.mirrorPump_evals_eq (fuel : Nat) (s : State) (k : Nat) :
    (s.mirrorPump fuel k).evals = s.evals := by
  induction fuel generalizing s with
  | zero => rfl
  | succ fuel ih =>
    unfold State.mirrorPump
    dsimp only
    repeat' split
    all_goals simp [ih]

@[simp] theorem State.mirrorPush_evals_eq (s : State) (k ring tag opcode handle runSeq : Nat)
    (parts : List (Nat × List Byte × Option (Nat × Nat))) (cmdFirst cmdLast : Bool) :
    (s.mirrorPush k ring tag opcode handle runSeq parts cmdFirst cmdLast).evals = s.evals := by simp [State.mirrorPush]

@[simp] theorem State.mirrorCmd_evals_eq (s : State) (c : Nat) (devs : List Nat) (handle runSeq : Nat)
    (parts : Nat → List (Nat × List Byte × Option (Nat × Nat))) (cmdFirst cmdLast : Bool) :
    (s.mirrorCmd c devs handle runSeq parts cmdFirst cmdLast).evals = s.evals := by
  unfold State.mirrorCmd
  split <;> simp [apply_ite State.evals]

@[simp] theorem State.releaseHeld_evals_eq (fuel : Nat) (s : State) : (s.releaseHeld fuel).evals = s.evals := by
  induction fuel generalizing s with
  | zero => rfl
  | succ fuel ih =>
    unfold State.releaseHeld
    split <;> simp [ih]

@[simp] theorem State.mirrorStop_evals_eq (s : State) : s.mirrorStop.evals = s.evals := by simp [State.mirrorStop]

end Sys2Proof.Machine
end

section
/-! PROOFS. Evaluations in flight: loading graphs; a graph released takes its evaluations with it. -/

namespace Sys2Proof.Machine

@[simp] theorem State.pick_evals_eq (s : State) (n : Nat) (ok : Nat → Bool) : (s.pick n ok).2.evals = s.evals := rfl

@[simp] theorem State.pickOr_evals_eq (s : State) (first : Bool) (n : Nat) (ok : Nat → Bool) :
    (s.pickOr first n ok).2.evals = s.evals := by
  unfold State.pickOr
  split <;> rfl

@[simp] theorem State.placeSlot_evals_eq (s : State) (first : Bool) (c : Cgd) (taken : List Slot) (i : Nat) (x : SlotRec) :
    (s.placeSlot first c taken i x).2.evals = s.evals := by
  unfold State.placeSlot
  dsimp only
  repeat' split
  all_goals simp

@[simp] theorem State.placeFrom_evals_eq (s : State) (first : Bool) (c : Cgd) (taken : List Slot) (i : Nat)
    (recs : List SlotRec) :
    (s.placeFrom first c taken i recs).2.evals = s.evals := by
  induction recs generalizing s taken i with
  | nil => rfl
  | cons x xs ih =>
    have hx := s.placeSlot_evals_eq first c taken i x
    unfold State.placeFrom
    split
    · next s' hs' => simpa [hs'] using hx
    · next y s' hs' =>
      rw [hs'] at hx
      have hxs := ih s' (taken ++ [y]) (i + 1)
      split
      · next ys t ht => simpa [ht] using hxs.trans hx
      · next k t ht => simpa [ht] using hxs.trans hx

@[simp] theorem State.placeSlots_evals_eq (s : State) (c : Cgd) (taken : List Slot) (recs : List SlotRec) :
    (s.placeSlots c taken recs).2.evals = s.evals := by
  have hplace := s.placeFrom_evals_eq false c taken 0 recs
  unfold State.placeSlots
  split
  · next l t ht => simpa [ht] using hplace
  · next k t ht => simpa [ht] using hplace

@[simp] theorem State.presetDelay_evals_eq (s : State) (h seq : Nat) : (s.presetDelay h seq).evals = s.evals := by
  unfold State.presetDelay
  split
  · rfl
  · refine foldl_evals_eq _ _ (fun t e => ?_) _
    repeat' split
    all_goals simp

@[simp] theorem State.install_evals_eq (s : State) (g : Graph) : (s.install g).evals = s.evals := by simp [State.install]

@[simp] theorem State.tellMembers_evals_eq (s : State) (cid : Nat) (g : Graph) (w : Work) :
    (s.tellMembers cid g w).evals = s.evals := by
  unfold State.tellMembers
  repeat' split
  all_goals simp

@[simp] theorem State.numberShadows_evals_eq (s : State) (c : Cmd) (g : Graph) :
    (s.numberShadows c g).evals = s.evals := by
  unfold State.numberShadows
  split <;> simp

@[simp] theorem execGraphLoad_evalsWithin (ring : Fin 1024) (s : State) : EvalsWithin s (execGraphLoad ring s) := by
  simp [execGraphLoad, apply_ite State.evals]

@[simp] theorem State.loadGraph_evals_eq (s : State) (c : Cmd) (b : List Byte) (len : Nat) (bind : Bool)
    (offset window : Nat) :
    (s.loadGraph c b len bind offset window).evals = s.evals := by
  have hplace := s.placeSlots_evals_eq (parseCgd b) s.reservedSlots (parseCgd b).slots
  unfold State.loadGraph
  split
  · simp
  split
  · simp
  dsimp only
  split
  · simp
  next slots s1 hslots =>
    have hs1 : s1.evals = s.evals := by simpa [hslots] using hplace
    split
    · simp
    split
    · simp
    · simp [hs1]

@[simp] theorem execCgdReadComplete_evalsWithin (cid : Nat) (result : ReadResult) (s : State) :
    EvalsWithin s (execCgdReadComplete cid result s) := by
  unfold execCgdReadComplete
  repeat' split
  all_goals simp

@[simp] theorem State.dropBanks_evals_eq (s : State) (ters : List Nat) : (s.dropBanks ters).evals = s.evals := by
  simp [State.dropBanks, apply_ite State.evals]

@[simp] theorem State.releaseGraph_evals_subset (s : State) (g : Graph) : (s.releaseGraph g).evals ⊆ s.evals := by
  simp [State.releaseGraph]

@[simp] theorem execGraphUnload_evalsWithin (ring : Fin 1024) (s : State) :
    EvalsWithin s (execGraphUnload ring s) := by
  refine evalsWithin_next_of_eq (s.onHead_evals_eq _ _ _ _ (fun p => ?_))
  dsimp only
  repeat' split
  all_goals simp

@[simp] theorem execGraphRelease_evalsWithin (handle : Nat) (s : State) :
    EvalsWithin s (execGraphRelease handle s) := by
  rw [execGraphRelease, evalsWithin_next]
  split
  · simp
  · split
    · simp
    · split
      · simp
      · simp only [State.finish_evals_eq]
        exact List.Subset.trans (State.releaseGraph_evals_subset _ _) (by simp)

@[simp] theorem execLayerThreshold_evalsWithin (ring : Fin 1024) (s : State) :
    EvalsWithin s (execLayerThreshold ring s) := by
  refine evalsWithin_next_of_eq (s.onHead_evals_eq _ _ _ _ (fun p => ?_))
  dsimp only
  repeat' split
  all_goals simp

@[simp] theorem execExactMode_evalsWithin (ring : Fin 1024) (s : State) : EvalsWithin s (execExactMode ring s) := by
  refine evalsWithin_next_of_eq (s.onHead_evals_eq _ _ _ _ (fun p => ?_))
  dsimp only
  repeat' split
  all_goals simp

@[simp] theorem State.stage_evals_eq (s : State) (r op kind : Nat) : (s.stage r op kind).evals = s.evals := by
  refine s.onHead_evals_eq r op false _ (fun p => ?_)
  dsimp only
  repeat' split
  all_goals simp

@[simp] theorem execTensorIn_evalsWithin (ring : Fin 1024) (s : State) : EvalsWithin s (execTensorIn ring s) := by
  simp [execTensorIn]

@[simp] theorem execTensorOut_evalsWithin (ring : Fin 1024) (s : State) : EvalsWithin s (execTensorOut ring s) := by
  simp [execTensorOut]

end Sys2Proof.Machine
end

section
/-! PROOFS. Evaluations in flight: what follows a firing, and the trims; an evaluation that completes leaves. -/

namespace Sys2Proof.Machine

@[simp] theorem State.prewakeConsumers_evals_eq (s : State) (g : Graph) (p : Placement) (seq : Nat) :
    (s.prewakeConsumers g p seq).evals = s.evals := by
  unfold State.prewakeConsumers
  refine foldl_evals_eq _ _ (fun t i => ?_) _
  split
  · rfl
  · split <;> simp

@[simp] theorem State.releaseInput_evals_eq (s : State) (g : Graph) (p : Placement) (inp : Option (Nat × Slot × Buffer))
    (buf : Nat) :
    (s.releaseInput g p inp buf).evals = s.evals := by
  unfold State.releaseInput
  split <;> simp

@[simp] theorem execEvaluationComplete_evalsWithin (handle place : Nat) (s : State) :
    EvalsWithin s (execEvaluationComplete handle place s) := by
  rw [execEvaluationComplete, evalsWithin_next]
  split
  · split
    · dsimp only
      split <;> simp
    · simp
  · simp

@[simp] theorem State.track_evals_eq (s : State) (r : TrackRead) : (s.track r).evals = s.evals := rfl

@[simp] theorem execTrackingEvaluation_evalsWithin (read : TrackRead) (s : State) :
    EvalsWithin s (execTrackingEvaluation read s) := by
  unfold execTrackingEvaluation
  split <;> simp [apply_ite State.evals]

@[simp] theorem execRideAlongWindow_evalsWithin (basin : Fin 4096) (s : State) :
    EvalsWithin s (execRideAlongWindow basin s) := by simp [execRideAlongWindow, apply_ite State.evals]

end Sys2Proof.Machine
end

section
/-! PROOFS. Evaluations in flight: the cameras and intake units. -/

namespace Sys2Proof.Machine

@[simp] theorem State.countCorrected_evals_eq (s : State) (port : Nat) (corrected : Bool) :
    (s.countCorrected port corrected).evals = s.evals := by simp [State.countCorrected, apply_ite State.evals]

@[simp] theorem execCsiFrameStart_evalsWithin (port : Fin 2) (head : CsiShort) (s : State) :
    EvalsWithin s (execCsiFrameStart port head s) := by simp [execCsiFrameStart, apply_ite State.evals]

@[simp] theorem execCsiFrameEnd_evalsWithin (port : Fin 2) (head : CsiShort) (s : State) :
    EvalsWithin s (execCsiFrameEnd port head s) := by simp [execCsiFrameEnd, apply_ite State.evals]

@[simp] theorem execCsiLongPacket_evalsWithin (port : Fin 2) (vc : Fin 4) (dt : Nat) (corrected dropped crcOk : Bool)
    (payload : List Byte) (s : State) :
    EvalsWithin s (execCsiLongPacket port vc dt corrected dropped crcOk payload s) := by
  simp [execCsiLongPacket, apply_ite State.evals]

@[simp] theorem execCsiConfig_evalsWithin (ring : Fin 1024) (s : State) : EvalsWithin s (execCsiConfig ring s) := by
  simp [execCsiConfig, apply_ite State.evals]

@[simp] theorem execLaneStopState_evalsWithin (port : Fin 2) (stop : BitVec 4) (clkHs deskew : Bool) (s : State) :
    EvalsWithin s (execLaneStopState port stop clkHs deskew s) := by simp [execLaneStopState, apply_ite State.evals]

@[simp] theorem execIntakeConfig_evalsWithin (ring : Fin 1024) (s : State) :
    EvalsWithin s (execIntakeConfig ring s) := by
  refine evalsWithin_next_of_eq (s.onHead_evals_eq _ _ _ _ (fun p => ?_))
  dsimp only
  repeat' split
  all_goals simp

@[simp] theorem State.takeFrames_evals_eq (s : State) (h : Nat) : (s.takeFrames h).1.evals = s.evals := by
  refine foldl_fst_evals_eq _ _ (fun acc i => ?_) _
  dsimp only
  split
  · rfl
  · exact acc.1.updUnit_evals_eq i _

@[simp] theorem State.feedPorts_evals_eq (s : State) (cid source : Nat) :
    (s.feedPorts cid source).evals = s.evals := by
  unfold State.feedPorts
  repeat' split
  all_goals simp

@[simp] theorem execIntakeDelivery_evalsWithin (cid : Nat) (unit : Fin 2) (s : State) :
    EvalsWithin s (execIntakeDelivery cid unit s) := by simp [execIntakeDelivery]

end Sys2Proof.Machine
end

section
/-! PROOFS. Evaluations in flight: the sluice and the runs; a run cleared takes its evaluations with it. -/

namespace Sys2Proof.Machine

@[simp] theorem State.takeStaged_evals_eq (s : State) (g : Graph) : (s.takeStaged g).1.evals = s.evals := by
  refine foldl_fst_evals_eq _ _ (fun acc i => ?_) _
  repeat' split
  all_goals rfl

@[simp] theorem State.readInputs_evals_eq (s : State) (g : Graph) (f : Nat) (bufs : List (Nat × Option DWord)) :
    (s.readInputs g f bufs).evals = s.evals := by
  unfold State.readInputs
  refine foldl_evals_eq _ _ (fun t c => ?_) _
  repeat' split
  all_goals simp

@[simp] theorem State.admitRun_evals_eq (s : State) (r : Nat) (p : List Byte) (g : Graph) (start bound : Nat)
    (window : Option (Nat × Nat)) (notBefore : Nat) (deadline : Option Nat) :
    (s.admitRun r p g start bound window notBefore deadline).evals = s.evals := by simp [State.admitRun]

@[simp] theorem State.refuseRun_evals_eq (s : State) (r : Nat) (p : List Byte) (e : End) :
    (s.refuseRun r p e).evals = s.evals := by simp [State.refuseRun]

@[simp] theorem State.decideRun_evals_eq (s : State) (r : Nat) (p : List Byte) :
    (s.decideRun r p).evals = s.evals := by
  unfold State.decideRun
  dsimp only
  repeat' split
  all_goals simp

@[simp] theorem State.bookWindow_evals_eq (s : State) (r : Nat) (p : List Byte) (g : Graph) (f : Nat × Nat)
    (frame last : Nat) :
    (s.bookWindow r p g f frame last).evals = s.evals := by simp [State.bookWindow]

@[simp] theorem State.afterFire_evals_eq (s : State) (r : Nat) (p : List Byte) (g : Graph) (f : Nat × Nat) (frame : Nat) :
    (s.afterFire r p g f frame).evals = s.evals := by simp [State.afterFire, apply_ite State.evals]

@[simp] theorem State.decideFrame_evals_eq (s : State) (r : Nat) (p : List Byte) :
    (s.decideFrame r p).evals = s.evals := by
  unfold State.decideFrame
  dsimp only
  repeat' split
  all_goals simp

@[simp] theorem State.decide1_evals_eq (s : State) (r : Nat) : (s.decide1 r).evals = s.evals := by
  unfold State.decide1
  split <;> simp [apply_ite State.evals]

@[simp] theorem State.decideAhead_evals_eq (s : State) (r : Nat) : (s.decideAhead r).evals = s.evals := by
  simp [State.decideAhead, apply_ite State.evals]

@[simp] theorem execSluiceDecision_evalsWithin (s : State) : EvalsWithin s (execSluiceDecision s) := by
  simp [execSluiceDecision, apply_ite State.evals]

@[simp] theorem State.toSluice_evals_eq (s : State) (r : Nat) : (s.toSluice r).evals = s.evals := by
  simp [State.toSluice, apply_ite State.evals]

@[simp] theorem execGraphRun_evalsWithin (ring : Fin 1024) (s : State) : EvalsWithin s (execGraphRun ring s) := by
  refine evalsWithin_next_of_eq (s.onHead_evals_eq _ _ _ _ (fun p => ?_))
  split <;> simp

@[simp] theorem execGraphRunFrame_evalsWithin (ring : Fin 1024) (s : State) :
    EvalsWithin s (execGraphRunFrame ring s) := by
  refine evalsWithin_next_of_eq (s.onHead_evals_eq _ _ _ _ (fun p => ?_))
  split <;> simp

@[simp] theorem State.headWake_evals_eq (s : State) (g : Graph) : (s.headWake g).evals = s.evals := by
  simp [State.headWake]

@[simp] theorem State.beginRun_evals_eq (s : State) (cid : Nat) : (s.beginRun cid).evals = s.evals := by
  unfold State.beginRun
  repeat' split
  all_goals simp

@[simp] theorem execRunHeadWake_evalsWithin (cid : Nat) (s : State) : EvalsWithin s (execRunHeadWake cid s) := by
  unfold execRunHeadWake
  repeat' split
  all_goals simp

@[simp] theorem execFireInstant_evalsWithin (handle : Nat) (s : State) :
    EvalsWithin s (execFireInstant handle s) := by
  unfold execFireInstant
  repeat' split
  all_goals simp

@[simp] theorem State.fillDelay_evals_eq (s : State) (h seq src : Nat) :
    (s.fillDelay h seq src).evals = s.evals := by
  unfold State.fillDelay
  split
  · rfl
  · refine foldl_evals_eq _ _ (fun t e => ?_) _
    dsimp only
    repeat' split
    all_goals simp

@[simp] theorem State.clearRun_evals_subset (s : State) (h seq : Nat) (zero : Bool) :
    (s.clearRun h seq zero).evals ⊆ s.evals := by
  unfold State.clearRun
  split
  · simp
  · dsimp only
    split <;> simp

@[simp] theorem State.reportPart_evals_eq (s : State) (cid : Nat) (g : Graph) (r : Run) :
    (s.reportPart cid g r).evals = s.evals := by
  unfold State.reportPart
  repeat' split
  all_goals simp

@[simp] theorem State.endRun_evals_subset (s : State) (cid : Nat) (g : Graph) (r : Run) (clear : Bool) (e : End) :
    (s.endRun cid g r clear e).evals ⊆ s.evals := by
  unfold State.endRun
  simp only [State.finish_evals_eq, State.mirrorCmd_evals_eq, State.reportPart_evals_eq]
  split <;> simp

@[simp] theorem execRunComplete_evalsWithin (cid : Nat) (s : State) : EvalsWithin s (execRunComplete cid s) := by
  rw [execRunComplete, evalsWithin_next]
  repeat' split
  all_goals simp

@[simp] theorem State.inputRead_evals_subset (s : State) (c : Cmd) (r : Run) (result : ReadResult) :
    (s.inputRead c r result).evals ⊆ s.evals := by
  unfold State.inputRead
  split
  · simp
  · split
    · split <;> simp
    · dsimp only
      split
      · exact List.Subset.trans (State.endRun_evals_subset _ _ _ _ _ _) (by simp)
      · simp
    · simp

end Sys2Proof.Machine
end

section
/-! PROOFS. Evaluations in flight: the Weight Engine. -/

namespace Sys2Proof.Machine

@[simp] theorem State.journalRoom_evals_eq (s : State) : s.journalRoom.evals = s.evals := by
  simp [State.journalRoom, apply_ite State.evals]

@[simp] theorem State.journalOpen_evals_eq (s : State) (e : JEntry) : (s.journalOpen e).evals = s.evals := by
  simp [State.journalOpen]

@[simp] theorem State.journalClose_evals_eq (s : State) : s.journalClose.evals = s.evals := rfl

@[simp] theorem State.mapSave_evals_eq (s : State) : s.mapSave.evals = s.evals := rfl

@[simp] theorem State.programRows_evals_eq (s : State) (basin : Nat) (rows : List (Nat × List Byte))
    (stuck : Option (Nat × Nat)) :
    (s.programRows basin rows stuck).evals = s.evals := rfl

@[simp] theorem State.tunnel_evals_eq (s : State) (basin : Nat) : (s.tunnel basin).evals = s.evals := rfl

@[simp] theorem State.makeDirty_evals_eq (s : State) (basin cause : Nat) :
    (s.makeDirty basin cause).evals = s.evals := rfl

@[simp] theorem State.openFailed_evals_eq (s : State) (c check off : Nat) (e : End) :
    (s.openFailed c check off e).evals = s.evals := by simp [State.openFailed]

@[simp] theorem State.openImage_evals_eq (s : State) (c : Cmd) (addr : DWord) (len : Nat) (b : List Byte) :
    (s.openImage c addr len b).evals = s.evals := by
  unfold State.openImage
  repeat' split
  all_goals simp

@[simp] theorem execImageOpen_evalsWithin (ring : Fin 1024) (s : State) : EvalsWithin s (execImageOpen ring s) := by
  simp [execImageOpen]

@[simp] theorem State.imageRead_evals_eq (s : State) (c : Cmd) (addr : DWord) (len : Nat) (result : ReadResult) :
    (s.imageRead c addr len result).evals = s.evals := by
  unfold State.imageRead
  split <;> simp

@[simp] theorem execImageClose_evalsWithin (ring : Fin 1024) (s : State) :
    EvalsWithin s (execImageClose ring s) := by
  refine evalsWithin_next_of_eq (s.onHead_evals_eq _ _ _ _ (fun p => ?_))
  repeat' split
  all_goals simp

@[simp] theorem State.wpePower_evals_eq (s : State) : s.wpePower.evals = s.evals := rfl

@[simp] theorem State.cellTerrace_evals_eq (s : State) (ter : Nat) : (s.cellTerrace ter).evals = s.evals := by
  simp [State.cellTerrace, apply_ite State.evals]

@[simp] theorem State.updProg_evals_eq (s : State) (c : Nat) (f : Prog → Prog) :
    (s.updProg c f).evals = s.evals := rfl

@[simp] theorem State.holdupEnd_evals_eq (s : State) (c quarters : Nat) :
    (s.holdupEnd c quarters).evals = s.evals := by simp [State.holdupEnd]

@[simp] theorem State.holdupLow_evals_eq (s : State) (c need : Nat) : (s.holdupLow c need).evals = s.evals := by
  simp [State.holdupLow]

@[simp] theorem State.openBatch_evals_eq (s : State) (c : Nat) (p : Prog) (n : Nat) :
    (s.openBatch c p n).evals = s.evals := by simp [State.openBatch, apply_ite State.evals]

@[simp] theorem State.nextBatch_evals_eq (s : State) (c : Nat) (p : Prog) (high : Bool) :
    (s.nextBatch c p high).evals = s.evals := by simp [State.nextBatch, apply_ite State.evals]

@[simp] theorem State.decided_evals_eq (s : State) (g : Nat) (p : List Byte) (e : End) :
    (s.decided g p e).evals = s.evals := by simp [State.decided, apply_ite State.evals]

@[simp] theorem State.programRecord_evals_eq (s : State) (c : Cmd) (x : Session) (r : CwiRec) (n row left : Nat)
    (record : ReadResult) (high : Bool) :
    (s.programRecord c x r n row left record high).evals = s.evals := by
  unfold State.programRecord
  split
  · split
    · simp
    · exact (State.nextBatch_evals_eq _ _ _ _).trans (State.updCmd_evals_eq _ _ _)
  · simp
  · simp

@[simp] theorem execProgramRows_evalsWithin (ring : Fin 1024) (record : ReadResult) (high : Bool) (s : State) :
    EvalsWithin s (execProgramRows ring record high s) := by
  refine evalsWithin_next_of_eq (s.onHead_evals_eq _ _ _ _ (fun p => ?_))
  dsimp only
  repeat' split
  all_goals simp

@[simp] theorem State.closeBatch_evals_eq (s : State) (c : Nat) (p : Prog) (stuck : Option (Nat × Nat)) :
    (s.closeBatch c p stuck).evals = s.evals := by simp [State.closeBatch, apply_ite State.evals]

@[simp] theorem State.batchDone_evals_eq (s : State) (c : Cmd) (p : Prog) (stuck : Option (Nat × Nat)) (high : Bool) :
    (s.batchDone c p stuck high).evals = s.evals := by
  unfold State.batchDone
  dsimp only
  split
  · simp
  · split
    · simp
    · split
      · simp
      · split <;> simp

@[simp] theorem execProgramBatchDone_evalsWithin (stuck : Option (Nat × Nat)) (high : Bool) (s : State) :
    EvalsWithin s (execProgramBatchDone stuck high s) := by
  unfold execProgramBatchDone
  repeat' split
  all_goals simp

@[simp] theorem execVerify_evalsWithin (ring : Fin 1024) (s : State) : EvalsWithin s (execVerify ring s) := by
  refine evalsWithin_next_of_eq (s.onHead_evals_eq _ _ _ _ (fun p => ?_))
  repeat' split
  all_goals simp

@[simp] theorem State.commitTag_evals_eq (s : State) (n : Nat) (tag : DWord) (reads : List TrackRead) :
    (s.commitTag n tag reads).evals = s.evals := by simp [State.commitTag, apply_ite State.evals]

@[simp] theorem State.verifyJudge_evals_eq (s : State) (c : Cmd) (n ter slot : Nat) (same : Bool) (tag : DWord)
    (rows : List (List Byte)) (below above : Option Nat) (reads : List TrackRead) :
    (s.verifyJudge c n ter slot same tag rows below above reads).evals = s.evals := by
  unfold State.verifyJudge
  dsimp only
  split
  · split <;> simp
  · split <;> simp

@[simp] theorem execVerifyDone_evalsWithin (record : ReadResult) (below above : Option Nat) (reads : List TrackRead)
    (s : State) :
    EvalsWithin s (execVerifyDone record below above reads s) := by
  unfold execVerifyDone
  repeat' split
  all_goals simp

@[simp] theorem State.countWear_evals_eq (s : State) (n ter slot : Nat) :
    (s.countWear n ter slot).evals = s.evals := by simp [State.countWear, apply_ite State.evals]

@[simp] theorem execEraseBasin_evalsWithin (ring : Fin 1024) (s : State) :
    EvalsWithin s (execEraseBasin ring s) := by
  refine evalsWithin_next_of_eq (s.onHead_evals_eq _ _ _ _ (fun p => ?_))
  dsimp only
  repeat' split
  all_goals simp

@[simp] theorem execEraseDone_evalsWithin (s : State) : EvalsWithin s (execEraseDone s) := by
  unfold execEraseDone
  split <;> simp

@[simp] theorem State.recalibrate_evals_eq (s : State) (basins : List Nat) (reads : List TrackRead) :
    (s.recalibrate basins reads).1.evals = s.evals := by
  induction basins generalizing s with
  | nil => rfl
  | cons n ns ih =>
    unfold State.recalibrate
    dsimp only
    split <;> simp [ih]

@[simp] theorem execRecalibrate_evalsWithin (ring : Fin 1024) (reads : List TrackRead) (s : State) :
    EvalsWithin s (execRecalibrate ring reads s) := by
  refine evalsWithin_next_of_eq (s.onHead_evals_eq _ _ _ _ (fun p => ?_))
  dsimp only
  repeat' split
  all_goals simp

@[simp] theorem execHoldupQuery_evalsWithin (ring : Fin 1024) (s : State) :
    EvalsWithin s (execHoldupQuery ring s) := by simp [execHoldupQuery]

end Sys2Proof.Machine
end

section
/-! PROOFS. Evaluations in flight: self-test, map-out and the logs. -/

namespace Sys2Proof.Machine

@[simp] theorem State.mapOutBasin_evals_eq (s : State) (fs : List Finding) (n : Nat) :
    (s.mapOutBasin fs n).1.evals = s.evals := by
  unfold State.mapOutBasin
  dsimp only
  repeat' split
  all_goals simp

@[simp] theorem State.failBasin_evals_eq (s : State) (fs : List Finding) (repair : Bool) (n : Nat) :
    (s.failBasin fs repair n).1.evals = s.evals := by
  unfold State.failBasin
  dsimp only
  repeat' split
  all_goals simp

@[simp] theorem State.consequence_evals_eq (s : State) (fs : List Finding) (repair : Bool) (seen : List (Nat × Nat))
    (f : Finding) :
    (s.consequence fs repair seen f).1.evals = s.evals := by
  unfold State.consequence
  split
  case h_7 =>
    dsimp only
    repeat' split
    all_goals simp
  all_goals simp [apply_ite Prod.fst, apply_ite State.evals]

@[simp] theorem State.failRecord_evals_eq (s : State) (kind outcome : Nat) (f : Finding) :
    (s.failRecord kind outcome f).evals = s.evals := by simp [State.failRecord]

@[simp] theorem State.judge_evals_eq (s : State) (all : List Finding) (kind : Nat) (repair : Bool)
    (seen : List (Nat × Nat)) (past : List Finding) (todo : List Finding) :
    (s.judge all kind repair seen past todo).1.evals = s.evals := by
  induction todo generalizing s seen past with
  | nil => rfl
  | cons f fs ih =>
    unfold State.judge
    split <;> simp [ih]

@[simp] theorem State.loopResults_evals_eq (s : State) (j : TestJob) : (s.loopResults j).evals = s.evals := by
  simp [State.loopResults, apply_ite State.evals]

@[simp] theorem State.testBegin_evals_eq (s : State) (j : TestJob) : (s.testBegin j).evals = s.evals := by
  simp [State.testBegin, apply_ite State.evals]

@[simp] theorem State.rederive_evals_eq (s : State) (j : TestJob) (reads : List TrackRead) :
    (s.rederive j reads).evals = s.evals := by
  unfold State.rederive
  split
  · rfl
  · simp [apply_ite State.evals]

@[simp] theorem State.selfTest_evals_eq (s : State) (j : TestJob) (t : TestIn) (repair : Bool) :
    (s.selfTest j t repair).1.evals = s.evals := by simp [State.selfTest, apply_ite State.evals]

@[simp] theorem State.testMoats_evals_eq (s : State) (scope ter tests : Nat) (on : Bool) :
    (s.testMoats scope ter tests on).evals = s.evals := by
  unfold State.testMoats
  split <;> simp

@[simp] theorem execBistRun_evalsWithin (ring : Fin 1024) (s : State) : EvalsWithin s (execBistRun ring s) := by
  unfold execBistRun
  dsimp only
  split <;> simp [apply_ite State.evals]

@[simp] theorem execBistRunDone_evalsWithin (test : TestIn) (s : State) :
    EvalsWithin s (execBistRunDone test s) := by
  unfold execBistRunDone
  split <;> simp [apply_ite State.evals]

@[simp] theorem execMapoutRead_evalsWithin (ring : Fin 1024) (s : State) :
    EvalsWithin s (execMapoutRead ring s) := by simp [execMapoutRead]

@[simp] theorem execLogRead_evalsWithin (ring : Fin 1024) (s : State) : EvalsWithin s (execLogRead ring s) := by
  simp [execLogRead, apply_ite State.evals]

@[simp] theorem execDrydownInvalidate_evalsWithin (ring : Fin 1024) (s : State) :
    EvalsWithin s (execDrydownInvalidate ring s) := by simp [execDrydownInvalidate]

end Sys2Proof.Machine
end

section
/-! PROOFS. Evaluations in flight: the frame source. -/

namespace Sys2Proof.Machine

@[simp] theorem State.startFrame_evals_eq (s : State) : s.startFrame.evals = s.evals := rfl

@[simp] theorem execFsyncEdge_evalsWithin (s : State) : EvalsWithin s (execFsyncEdge s) := by
  simp [execFsyncEdge, apply_ite State.evals]

@[simp] theorem execFrameTimerExpire_evalsWithin (s : State) : EvalsWithin s (execFrameTimerExpire s) := by
  simp [execFrameTimerExpire, apply_ite State.evals]

@[simp] theorem execFsyncMissed_evalsWithin (s : State) : EvalsWithin s (execFsyncMissed s) := by
  simp [execFsyncMissed, apply_ite State.evals]

@[simp] theorem State.frameCfgWrite_evals_eq (s : State) (v : Word) : (s.frameCfgWrite v).evals = s.evals := by
  simp [State.frameCfgWrite, apply_ite State.evals]

@[simp] theorem execSlcFrameCfgWrite_evalsWithin (value : Word) (s : State) :
    EvalsWithin s (execSlcFrameCfgWrite value s) := by simp [execSlcFrameCfgWrite]

end Sys2Proof.Machine
end

section
/-! PROOFS. Evaluations in flight: the analogue front end and the sentinels. -/

namespace Sys2Proof.Machine

@[simp] theorem execAfeConfig_evalsWithin (ring : Fin 1024) (s : State) : EvalsWithin s (execAfeConfig ring s) := by
  refine evalsWithin_next_of_eq (s.onHead_evals_eq _ _ _ _ (fun p => ?_))
  dsimp only
  split <;> simp

@[simp] theorem State.applyAfe_evals_eq (s : State) : s.applyAfe.evals = s.evals := by simp [State.applyAfe]

@[simp] theorem State.sentinelPend_evals_eq (s : State) (g : Nat) (p : List Byte) (n : Nat) (rule : Option SntRule) :
    (s.sentinelPend g p n rule).evals = s.evals := by simp [State.sentinelPend, apply_ite State.evals]

@[simp] theorem execSentinelArm_evalsWithin (ring : Fin 1024) (s : State) :
    EvalsWithin s (execSentinelArm ring s) := by
  refine evalsWithin_next_of_eq (s.onHead_evals_eq _ _ _ _ (fun p => ?_))
  dsimp only
  split <;> simp

@[simp] theorem execSentinelDisarm_evalsWithin (ring : Fin 1024) (s : State) :
    EvalsWithin s (execSentinelDisarm ring s) := by simp [execSentinelDisarm, apply_ite State.evals]

@[simp] theorem State.applySentinels_evals_eq (s : State) : s.applySentinels.evals = s.evals := by
  unfold State.applySentinels
  refine foldl_evals_eq _ _ (fun t c => ?_) _
  split <;> simp

@[simp] theorem State.hearHop_evals_eq (s : State) (chans : List (List MicPiece)) :
    (s.hearHop chans).evals = s.evals := rfl

@[simp] theorem State.formFeatures_evals_eq (s : State) (period : Nat) (chans : List (List MicPiece)) :
    (s.formFeatures period chans).evals = s.evals := rfl

@[simp] theorem State.switchLane_evals_eq (s : State) (n : Nat) : (s.switchLane n).evals = s.evals := by
  simp [State.switchLane, apply_ite State.evals]

@[simp] theorem State.sentinelIrq_evals_eq (s : State) : s.sentinelIrq.evals = s.evals := by
  simp [State.sentinelIrq, apply_ite State.evals]

@[simp] theorem State.putReport_evals_eq (s : State) (r : BitVec 128) : (s.putReport r).evals = s.evals := by
  simp [State.putReport, apply_ite State.evals]

@[simp] theorem State.entryEdge_evals_eq (s : State) (n : Nat) (r : BitVec 128) :
    (s.entryEdge n r).evals = s.evals := by simp [State.entryEdge, apply_ite State.evals]

@[simp] theorem State.sentinelHop_evals_eq (s : State) (n : Nat) (refs : List Int) :
    (s.sentinelHop n refs).evals = s.evals := by simp [State.sentinelHop, apply_ite State.evals]

@[simp] theorem execHopBoundary_evalsWithin (chans : List (List MicPiece)) (refs : List (List Int)) (s : State) :
    EvalsWithin s (execHopBoundary chans refs s) := by
  unfold execHopBoundary
  repeat' split
  all_goals simp

@[simp] theorem execFeatureBankSwitch_evalsWithin (chan : Fin 16) (s : State) :
    EvalsWithin s (execFeatureBankSwitch chan s) := by simp [execFeatureBankSwitch]

@[simp] theorem execFeatureRoute_evalsWithin (ring : Fin 1024) (s : State) :
    EvalsWithin s (execFeatureRoute ring s) := by
  refine evalsWithin_next_of_eq (s.onHead_evals_eq _ _ _ _ (fun p => ?_))
  dsimp only
  repeat' split
  all_goals simp

@[simp] theorem execMicbiasCurrentLimit_evalsWithin (k : Fin 4) (s : State) :
    EvalsWithin s (execMicbiasCurrentLimit k s) := by simp [execMicbiasCurrentLimit, apply_ite State.evals]

@[simp] theorem execPreamplifierClip_evalsWithin (chan : Fin 16) (s : State) :
    EvalsWithin s (execPreamplifierClip chan s) := by simp [execPreamplifierClip, apply_ite State.evals]

end Sys2Proof.Machine
end

section
/-! PROOFS. Evaluations in flight: doorbells, ring registers and the generic opcodes. -/

namespace Sys2Proof.Machine

@[simp] theorem State.doorbell_evals_eq (s : State) (func page value : Nat) (tlp : Tlp) (k : State → Nat → State)
    (hk : StepKeepsEvals k) :
    (s.doorbell func page value tlp k).evals = s.evals := by
  refine State.hostAccess_evals_eq s func _ _ _ (fun u => ?_)
  repeat' split
  all_goals simp [hk _]

@[simp] theorem execDoorbellSqTail_evalsWithin (func : Fin 16) (page : Fin 1024) (value : Nat) (tlp : Tlp) (s : State) :
    EvalsWithin s (execDoorbellSqTail func page value tlp s) := by simp [execDoorbellSqTail]

@[simp] theorem execDoorbellCqHead_evalsWithin (func : Fin 16) (page : Fin 1024) (value : Nat) (tlp : Tlp) (s : State) :
    EvalsWithin s (execDoorbellCqHead func page value tlp s) := by simp [execDoorbellCqHead, apply_ite State.evals]

@[simp] theorem execDoorbellStrayWrite_evalsWithin (func : Fin 16) (page : Fin 1024) (tlp : Tlp) (s : State) :
    EvalsWithin s (execDoorbellStrayWrite func page tlp s) := by simp [execDoorbellStrayWrite]

@[simp] theorem State.disableRing_evals_eq (s : State) (g : Nat) : (s.disableRing g).evals = s.evals := by
  simp [State.disableRing]

@[simp] theorem State.ringCtrlWrite_evals_eq (s : State) (func g : Nat) (v : Word) (tlp : Tlp) :
    (s.ringCtrlWrite func g v tlp).evals = s.evals := by simp [State.ringCtrlWrite, apply_ite State.evals]

@[simp] theorem State.ringBaseWrite_evals_eq (s : State) (func g : Nat) (cq : Bool) (hi wide : Bool) (v : DWord)
    (tlp : Tlp) :
    (s.ringBaseWrite func g cq hi wide v tlp).evals = s.evals := by simp [State.ringBaseWrite, apply_ite State.evals]

@[simp] theorem State.ringModWrite_evals_eq (s : State) (g : Nat) (v : Word) :
    (s.ringModWrite g v).evals = s.evals := rfl

@[simp] theorem State.descWrite_evals_eq (s : State) (func ring offset : Nat) (v : DWord) (wide : Bool) (tlp : Tlp) :
    (s.descWrite func ring offset v wide tlp).evals = s.evals := by
  unfold State.descWrite
  repeat' split
  all_goals simp

@[simp] theorem execRingEnable_evalsWithin (func : Fin 16) (ring : Fin 1024) (value : Word) (tlp : Tlp) (s : State) :
    EvalsWithin s (execRingEnable func ring value tlp s) := by simp [execRingEnable]

@[simp] theorem execRingDisable_evalsWithin (func : Fin 16) (ring : Fin 1024) (value : Word) (tlp : Tlp) (s : State) :
    EvalsWithin s (execRingDisable func ring value tlp s) := by simp [execRingDisable]

@[simp] theorem execRingDescriptorWrite_evalsWithin (func : Fin 16) (ring : Fin 1024) (offset : Fin 64) (value : DWord)
    (wide : Bool) (tlp : Tlp) (s : State) :
    EvalsWithin s (execRingDescriptorWrite func ring offset value wide tlp s) := by simp [execRingDescriptorWrite]

@[simp] theorem State.fetchFailed_evals_eq (s : State) (g kind cause : Nat) (addr : DWord) :
    (s.fetchFailed g kind cause addr).evals = s.evals := by simp [State.fetchFailed, apply_ite State.evals]

@[simp] theorem execRingFetchCompletion_evalsWithin (ring : Fin 1024) (result : ReadResult) (s : State) :
    EvalsWithin s (execRingFetchCompletion ring result s) := by
  unfold execRingFetchCompletion
  split <;> simp [apply_ite State.evals]

@[simp] theorem execListFetchCompletion_evalsWithin (ring : Fin 1024) (result : ReadResult) (s : State) :
    EvalsWithin s (execListFetchCompletion ring result s) := by
  unfold execListFetchCompletion
  dsimp only
  repeat' split
  all_goals simp

@[simp] theorem execRingModTimer_evalsWithin (ring : Fin 1024) (s : State) :
    EvalsWithin s (execRingModTimer ring s) := by
  unfold execRingModTimer
  dsimp only
  split <;> simp [apply_ite State.evals]

@[simp] theorem execNop_evalsWithin (ring : Fin 1024) (s : State) : EvalsWithin s (execNop ring s) := by simp [execNop]

@[simp] theorem execFence_evalsWithin (ring : Fin 1024) (s : State) : EvalsWithin s (execFence ring s) := by
  simp [execFence]

@[simp] theorem execTimestamp_evalsWithin (ring : Fin 1024) (s : State) : EvalsWithin s (execTimestamp ring s) := by
  simp [execTimestamp, apply_ite State.evals]

@[simp] theorem execWaitFlag_evalsWithin (ring : Fin 1024) (s : State) : EvalsWithin s (execWaitFlag ring s) := by
  simp [execWaitFlag, apply_ite State.evals]

@[simp] theorem execWaitFlagSatisfied_evalsWithin (ring : Fin 1024) (s : State) :
    EvalsWithin s (execWaitFlagSatisfied ring s) := by
  unfold execWaitFlagSatisfied
  repeat' split
  all_goals simp

@[simp] theorem execWaitFlagDeadline_evalsWithin (ring : Fin 1024) (s : State) :
    EvalsWithin s (execWaitFlagDeadline ring s) := by
  unfold execWaitFlagDeadline
  repeat' split
  all_goals simp

@[simp] theorem State.setFlagHead_evals_eq (s : State) (g : Nat) : (s.setFlagHead g).evals = s.evals := by
  simp [State.setFlagHead]

@[simp] theorem execSetFlag_evalsWithin (ring : Fin 1024) (s : State) : EvalsWithin s (execSetFlag ring s) := by
  simp [execSetFlag]

@[simp] theorem execListCall_evalsWithin (ring : Fin 1024) (s : State) : EvalsWithin s (execListCall ring s) := by
  simp [execListCall]

@[simp] theorem State.setAnchor_evals_eq (s : State) (a : DWord) : (s.setAnchor a).evals = s.evals := rfl

@[simp] theorem execTimeAnchor_evalsWithin (ring : Fin 1024) (s : State) :
    EvalsWithin s (execTimeAnchor ring s) := by simp [execTimeAnchor]

@[simp] theorem execKflagSetWrite_evalsWithin (word : Fin 8) (value : Word) (s : State) :
    EvalsWithin s (execKflagSetWrite word value s) := by simp [execKflagSetWrite]

@[simp] theorem execKflagClrWrite_evalsWithin (word : Fin 8) (value : Word) (s : State) :
    EvalsWithin s (execKflagClrWrite word value s) := by simp [execKflagClrWrite]

@[simp] theorem State.hkDrain_evals_eq (s : State) (core : Nat) : (s.hkDrain core).evals = s.evals := by
  unfold State.hkDrain
  split <;> rfl

@[simp] theorem State.kfence_evals_eq (s : State) (core : Nat) : (s.kfence core).evals = s.evals := rfl

@[simp] theorem State.hkMem_evals_eq (s : State) (core : Nat) (op : HkMem) : (s.hkMem core op).evals = s.evals := by
  unfold State.hkMem
  repeat' split
  all_goals simp

@[simp] theorem State.flagAccess_evals_eq (s : State) (tlp : Tlp) (access : FlagAccess) :
    (s.flagAccess tlp access).evals = s.evals := by
  unfold State.flagAccess
  dsimp only
  repeat' split
  all_goals simp

@[simp] theorem State.flagCycle_evals_eq (s : State) (cycle : List FlagAccess) (tlp : Tlp) :
    (s.flagCycle cycle tlp).evals = s.evals := by simp [State.flagCycle]

end Sys2Proof.Machine
end

section
/-! PROOFS. Evaluations in flight: the Stream Engine and the TDM port. -/

namespace Sys2Proof.Machine

@[simp] theorem State.closeSegment_evals_eq (s : State) (i : Nat) (cut : Bool) :
    (s.closeSegment i cut).evals = s.evals := by
  unfold State.closeSegment
  split <;> simp

@[simp] theorem State.advanceStream_evals_eq (fuel : Nat) (s : State) (i : Nat) :
    (s.advanceStream fuel i).evals = s.evals := by
  induction fuel generalizing s with
  | zero => rfl
  | succ fuel ih =>
    unfold State.advanceStream
    dsimp only
    repeat' split
    all_goals simp [ih]

@[simp] theorem State.updSegment_evals_eq (s : State) (i cid : Nat) (f : Segment → Segment) :
    (s.updSegment i cid f).evals = s.evals := rfl

@[simp] theorem State.prefetch_evals_eq (s : State) (i : Nat) : (s.prefetch i).evals = s.evals := by
  unfold State.prefetch
  dsimp only
  repeat' split
  all_goals simp

@[simp] theorem State.cutSegments_evals_eq (s : State) (i k : Nat) : (s.cutSegments i k).evals = s.evals := by
  simp [State.cutSegments]

@[simp] theorem State.detachStream_evals_eq (s : State) (i : Nat) : (s.detachStream i).evals = s.evals := by
  simp [State.detachStream]

@[simp] theorem State.doStop_evals_eq (s : State) (i cid : Nat) : (s.doStop i cid).evals = s.evals := by
  simp [State.doStop]

@[simp] theorem State.doJump_evals_eq (s : State) (i cid target : Nat) (atEnd : Bool) :
    (s.doJump i cid target atEnd).evals = s.evals := by
  unfold State.doJump
  split <;> simp

@[simp] theorem State.boundary_evals_eq (s : State) (i : Nat) : (s.boundary i).evals = s.evals := by
  unfold State.boundary
  dsimp only
  repeat' split
  all_goals simp

@[simp] theorem State.takeUnit_evals_eq (s : State) (i : Nat) : (s.takeUnit i).1.evals = s.evals := by
  unfold State.takeUnit
  dsimp only
  repeat' split
  all_goals simp

@[simp] theorem State.pumpLoop_evals_eq (fuel : Nat) (s : State) (i : Nat) :
    (s.pumpLoop fuel i).evals = s.evals := by
  induction fuel generalizing s with
  | zero => rfl
  | succ fuel ih =>
    unfold State.pumpLoop
    dsimp only
    repeat' split
    all_goals simp [ih]

@[simp] theorem State.pump_evals_eq (s : State) (i : Nat) : (s.pump i).evals = s.evals := by
  simp [State.pump, apply_ite State.evals]

@[simp] theorem State.latchStop_evals_eq (s : State) (i cid : Nat) : (s.latchStop i cid).evals = s.evals := by
  unfold State.latchStop
  dsimp only
  split
  · rfl
  · rw [State.pump_evals_eq, foldl_evals_eq _ _ (fun t c => t.finish_evals_eq c _), State.updStream_evals_eq]

@[simp] theorem State.stopStreams_evals_eq (s : State) (p : Stream → Bool) : (s.stopStreams p).evals = s.evals := by
  simp [State.stopStreams, apply_ite State.evals]

@[simp] theorem execSegmentQueue_evalsWithin (ring : Fin 1024) (s : State) :
    EvalsWithin s (execSegmentQueue ring s) := by
  refine evalsWithin_next_of_eq (s.onHead_evals_eq _ _ _ _ (fun p => ?_))
  dsimp only
  repeat' split
  all_goals simp

@[simp] theorem execJump_evalsWithin (ring : Fin 1024) (s : State) : EvalsWithin s (execJump ring s) := by
  refine evalsWithin_next_of_eq (s.onHead_evals_eq _ _ _ _ (fun p => ?_))
  extract_lets i x behind t t1
  have ht : t.evals = s.evals := s.accept_evals_eq _ _ _ _ _
  have ht1 : t1.evals = t.evals := by
    unfold t1
    split
    · simp
    · rw [State.updStream_evals_eq, foldl_evals_eq _ _ (fun u (j : Nat × Nat) => u.finish_evals_eq j.1 _)]
  clear_value behind t1
  repeat' split
  all_goals simp [ht, ht1]

@[simp] theorem execStreamStart_evalsWithin (ring : Fin 1024) (s : State) :
    EvalsWithin s (execStreamStart ring s) := by
  refine evalsWithin_next_of_eq (s.onHead_evals_eq _ _ _ _ (fun p => ?_))
  split <;> simp

@[simp] theorem execStreamStop_evalsWithin (ring : Fin 1024) (s : State) :
    EvalsWithin s (execStreamStop ring s) := by
  refine evalsWithin_next_of_eq (s.onHead_evals_eq _ _ _ _ (fun p => ?_))
  dsimp only
  split <;> simp

@[simp] theorem execTdmConfig_evalsWithin (ring : Fin 1024) (s : State) : EvalsWithin s (execTdmConfig ring s) := by
  simp [execTdmConfig, apply_ite State.evals]

@[simp] theorem State.tdmUnit_evals_eq (s : State) (i : Nat) : (s.tdmUnit i).1.evals = s.evals := by
  unfold State.tdmUnit
  dsimp only
  split
  · rfl
  · split <;> simp

@[simp] theorem State.tdmStream_evals_eq (acc : State × List Word) (i : Nat) :
    (State.tdmStream acc i).1.evals = acc.1.evals := by
  unfold State.tdmStream
  dsimp only
  repeat' split
  all_goals simp

@[simp] theorem execTdmFrame_evalsWithin (s : State) : EvalsWithin s (execTdmFrame s) := by
  have hstreams (acc : State × List Word) : ((List.range 32).foldl State.tdmStream acc).1.evals = acc.1.evals :=
    foldl_fst_evals_eq _ _ State.tdmStream_evals_eq acc
  unfold execTdmFrame
  rw [evalsWithin_next]
  split
  · simp
  · dsimp only
    split <;> simp [hstreams]

@[simp] theorem State.resync_evals_eq (s : State) : s.resync.evals = s.evals := by simp [State.resync]

@[simp] theorem execTdmFsEdge_evalsWithin (sckOffset : Nat) (s : State) :
    EvalsWithin s (execTdmFsEdge sckOffset s) := by simp [execTdmFsEdge, apply_ite State.evals]

@[simp] theorem execTdmFsMissing_evalsWithin (s : State) : EvalsWithin s (execTdmFsMissing s) := by
  simp [execTdmFsMissing, apply_ite State.evals]

@[simp] theorem execTdmSckLost_evalsWithin (s : State) : EvalsWithin s (execTdmSckLost s) := by
  simp [execTdmSckLost, apply_ite State.evals]

@[simp] theorem State.appendUnit_evals_eq (s : State) (i : Nat) (u : List Byte) :
    (s.appendUnit i u).evals = s.evals := by simp [State.appendUnit, apply_ite State.evals]

@[simp] theorem State.arrivedUnit_evals_eq (s : State) (i : Nat) (bytes : List Byte) :
    (s.arrivedUnit i bytes).1.evals = s.evals := by
  unfold State.arrivedUnit
  dsimp only
  split
  · rfl
  · split
    · rfl
    · simp [apply_ite State.evals]

@[simp] theorem execStreamUnitArrival_evalsWithin (stream : Fin 32) (bytes : List Byte) (s : State) :
    EvalsWithin s (execStreamUnitArrival stream bytes s) := by simp [execStreamUnitArrival, apply_ite State.evals]

@[simp] theorem execPrefetchCompletion_evalsWithin (stream : Fin 32) (result : ReadResult) (s : State) :
    EvalsWithin s (execPrefetchCompletion stream result s) := by
  unfold execPrefetchCompletion
  rw [evalsWithin_next]
  split
  · simp
  · split
    · simp
    · cases s.cmd? _ <;> simp
    · simp

end Sys2Proof.Machine
end

section
/-! PROOFS. Evaluations in flight: rails and device states; a reset of the engines drops all. -/

namespace Sys2Proof.Machine

@[simp] theorem State.leaveRows_evals_eq (s : State) (basin : Nat) (rows : List (Nat × List Byte)) :
    (s.leaveRows basin rows).evals = s.evals := rfl

@[simp] theorem State.journalPart_evals_eq (s : State) (k : Nat) : (s.journalPart k).evals = s.evals := rfl

@[simp] theorem State.journalTorn_evals_eq (s : State) : s.journalTorn.evals = s.evals := rfl

@[simp] theorem State.cutBatch_evals_eq (s : State) (c : Cmd) (p : Prog) (cut : PowerCut) :
    (s.cutBatch c p cut).evals = s.evals := by
  unfold State.cutBatch
  repeat' split
  all_goals simp

@[simp] theorem State.cutErase_evals_eq (s : State) (basin : Nat) (cut : PowerCut) :
    (s.cutErase basin cut).evals = s.evals := by simp [State.cutErase, apply_ite State.evals]

@[simp] theorem State.mapRestore_evals_eq (s : State) : s.mapRestore.evals = s.evals := by
  unfold State.mapRestore
  split <;> rfl

@[simp] theorem State.applyCut_evals_eq (s : State) (cut : PowerCut) : (s.applyCut cut).evals = s.evals := by
  unfold State.applyCut
  rw [apply_ite State.evals, ite_self]
  split
  all_goals
    refine (foldl_evals_eq _ _ (fun t c => ?_) _).trans s.mapRestore_evals_eq
    repeat' split
    all_goals simp

@[simp] theorem State.resetEngines_evals_subset (s : State) : s.resetEngines.evals ⊆ s.evals := by
  simp [State.resetEngines]

@[simp] theorem State.resetMain_evals_subset (s : State) : s.resetMain.evals ⊆ s.evals := by simp [State.resetMain]

@[simp] theorem State.enterFault_evals_subset (s : State) (bit : Nat) (rail : Option Nat) (code : DWord) (cut : PowerCut) :
    (s.enterFault bit rail code cut).evals ⊆ s.evals := by
  have hreset : (s.applyCut cut).resetEngines.evals ⊆ s.evals :=
    List.Subset.trans (State.resetEngines_evals_subset _) (by simp)
  unfold State.enterFault
  split
  · simp
  · dsimp only
    split
    · simpa using hreset
    · exact hreset

@[simp] theorem execRailOvervoltage_evalsWithin (rail : Fin 6) (edge : OvEdge) (s : State) :
    EvalsWithin s (execRailOvervoltage rail edge s) := by
  unfold execRailOvervoltage
  rw [evalsWithin_next]
  repeat' split
  case isFalse => exact State.enterFault_evals_subset _ _ _ _ _
  all_goals simp

@[simp] theorem State.setTj_evals_eq (s : State) (tj : BitVec 16) : (s.setTj tj).evals = s.evals := rfl

@[simp] theorem execThermalWarning_evalsWithin (tj : BitVec 16) (s : State) :
    EvalsWithin s (execThermalWarning tj s) := by simp [execThermalWarning, apply_ite State.evals]

@[simp] theorem execThermalWarningReturn_evalsWithin (tj : BitVec 16) (s : State) :
    EvalsWithin s (execThermalWarningReturn tj s) := by simp [execThermalWarningReturn, apply_ite State.evals]

@[simp] theorem execThermalTrip_evalsWithin (tj : BitVec 16) (cut : PowerCut) (s : State) :
    EvalsWithin s (execThermalTrip tj cut s) := by
  rw [execThermalTrip, evalsWithin_next]
  split
  · simp
  · exact List.Subset.trans (State.enterFault_evals_subset _ _ _ _ _) (by simp)

@[simp] theorem execPllLossOfLock_evalsWithin (cut : PowerCut) (s : State) :
    EvalsWithin s (execPllLossOfLock cut s) := by simp [execPllLossOfLock]

@[simp] theorem execHkWatchdogExpire_evalsWithin (core : Fin 2) (cut : PowerCut) (s : State) :
    EvalsWithin s (execHkWatchdogExpire core cut s) := by
  rw [execHkWatchdogExpire, evalsWithin_next]
  split <;> simp

@[simp] theorem execInternalFatalError_evalsWithin (code : DWord) (cut : PowerCut) (s : State) :
    EvalsWithin s (execInternalFatalError code cut s) := by simp [execInternalFatalError]

@[simp] theorem State.enterSentry_evals_subset (s : State) (cut : PowerCut) :
    (s.enterSentry cut).evals ⊆ s.evals := by
  exact List.Subset.trans (State.resetMain_evals_subset (s.applyCut cut)) (by simp)

@[simp] theorem State.railGone_evals_eq (s : State) (rail : Nat) : (s.railGone rail).evals = s.evals := rfl

@[simp] theorem execMainRailLoss_evalsWithin (rail : Fin 6) (cut : PowerCut) (s : State) :
    EvalsWithin s (execMainRailLoss rail cut s) := by
  rw [execMainRailLoss, evalsWithin_next]
  have hgone : ((s.railGone rail.val).enterSentry cut).evals ⊆ s.evals :=
    List.Subset.trans (State.enterSentry_evals_subset _ cut) (by simp)
  split
  · simp
  · dsimp only
    split
    · simp
    · split <;> exact hgone

@[simp] theorem execDryToSentry_evalsWithin (rail : Fin 6) (s : State) :
    EvalsWithin s (execDryToSentry rail s) := by
  rw [execDryToSentry, evalsWithin_next]
  split
  · simp
  · exact List.Subset.trans (State.enterSentry_evals_subset _ _) (by simp)

@[simp] theorem execMainRailGood_evalsWithin (rail : Fin 6) (s : State) :
    EvalsWithin s (execMainRailGood rail s) := by simp [execMainRailGood, apply_ite State.evals]

@[simp] theorem execRailTimeout_evalsWithin (s : State) : EvalsWithin s (execRailTimeout s) := by
  simp [execRailTimeout, apply_ite State.evals]

@[simp] theorem execVauxLoss_evalsWithin (cut : PowerCut) (s : State) : EvalsWithin s (execVauxLoss cut s) := by
  unfold execVauxLoss
  rw [evalsWithin_next]
  exact List.Subset.trans (State.resetMain_evals_subset (s.applyCut cut)) (by simp)

@[simp] theorem execVauxGood_evalsWithin (s : State) : EvalsWithin s (execVauxGood s) := by
  simp [execVauxGood, apply_ite State.evals]

@[simp] theorem execStrapLatch_evalsWithin (samples : List (BitVec 5)) (s : State) :
    EvalsWithin s (execStrapLatch samples s) := by
  unfold execStrapLatch
  split <;> simp [apply_ite State.evals]

@[simp] theorem execUptimeTick_evalsWithin (s : State) : EvalsWithin s (execUptimeTick s) := by
  simp [execUptimeTick, apply_ite State.evals]

@[simp] theorem execCrystalDetected_evalsWithin (s : State) : EvalsWithin s (execCrystalDetected s) := by
  simp [execCrystalDetected, apply_ite State.evals]

@[simp] theorem execCrystalLost_evalsWithin (s : State) : EvalsWithin s (execCrystalLost s) := by
  simp [execCrystalLost, apply_ite State.evals]

@[simp] theorem execTrimWindowClose_evalsWithin (trim : BitVec 12) (s : State) :
    EvalsWithin s (execTrimWindowClose trim s) := by simp [execTrimWindowClose, apply_ite State.evals]

@[simp] theorem State.reqResult_evals_eq (s : State) (r : ReqResult) : (s.reqResult r).evals = s.evals := rfl

@[simp] theorem State.beginDoze_evals_eq (s : State) : s.beginDoze.evals = s.evals := rfl

@[simp] theorem execDozeIdleTimeout_evalsWithin (s : State) : EvalsWithin s (execDozeIdleTimeout s) := by
  simp [execDozeIdleTimeout, apply_ite State.evals]

@[simp] theorem State.ltr_evals_eq (s : State) (us : Nat) : (s.ltr us).evals = s.evals := rfl

@[simp] theorem State.sendLtr_evals_eq (s : State) : s.sendLtr.evals = s.evals := by
  unfold State.sendLtr
  repeat' split
  all_goals simp

@[simp] theorem execDozeEntryDone_evalsWithin (s : State) : EvalsWithin s (execDozeEntryDone s) := by
  simp [execDozeEntryDone, apply_ite State.evals]

@[simp] theorem State.beginSwitch_evals_eq (s : State) (d : DevState) : (s.beginSwitch d).evals = s.evals := rfl

@[simp] theorem execFclkSwitchDone_evalsWithin (s : State) : EvalsWithin s (execFclkSwitchDone s) := by
  unfold execFclkSwitchDone
  split <;> simp [apply_ite State.evals]

@[simp] theorem State.reqDoze_evals_eq (s : State) : s.reqDoze.evals = s.evals := by
  unfold State.reqDoze
  repeat' split
  all_goals simp

@[simp] theorem execPwrReqDoze_evalsWithin (s : State) : EvalsWithin s (execPwrReqDoze s) := by simp [execPwrReqDoze]

@[simp] theorem State.reqRun_evals_eq (s : State) (d : DevState) : (s.reqRun d).evals = s.evals := by
  unfold State.reqRun
  split <;> simp [apply_ite State.evals]

@[simp] theorem execPwrReqRun_evalsWithin (s : State) : EvalsWithin s (execPwrReqRun s) := by simp [execPwrReqRun]

@[simp] theorem execPwrReqEconomy_evalsWithin (s : State) : EvalsWithin s (execPwrReqEconomy s) := by
  simp [execPwrReqEconomy]

@[simp] theorem execPwrPeakClr_evalsWithin (s : State) : EvalsWithin s (execPwrPeakClr s) := by simp [execPwrPeakClr]

@[simp] theorem execTerracePowerGood_evalsWithin (ter : Fin 64) (s : State) :
    EvalsWithin s (execTerracePowerGood ter s) := by
  unfold execTerracePowerGood
  split <;> simp

@[simp] theorem execTerraceIdleTimeout_evalsWithin (ter : Fin 64) (s : State) :
    EvalsWithin s (execTerraceIdleTimeout ter s) := by simp [execTerraceIdleTimeout, apply_ite State.evals]

@[simp] theorem execPeripheryHoldExpire_evalsWithin (basin : Fin 4096) (s : State) :
    EvalsWithin s (execPeripheryHoldExpire basin s) := by
  unfold execPeripheryHoldExpire
  split <;> simp [apply_ite State.evals]

@[simp] theorem execPeripheryPowerGood_evalsWithin (basin : Fin 4096) (s : State) :
    EvalsWithin s (execPeripheryPowerGood basin s) := by
  unfold execPeripheryPowerGood
  split <;> simp

end Sys2Proof.Machine
end

section
/-! PROOFS. Evaluations in flight: ordered shutdown; the end of the drain drops all. -/

namespace Sys2Proof.Machine

@[simp] theorem State.dryState_evals_eq (s : State) : s.dryState.evals = s.evals := rfl

@[simp] theorem State.dryCommands_evals_eq (s : State) : s.dryCommands.evals = s.evals := by
  unfold State.dryCommands
  refine foldl_evals_eq _ _ (fun t c => ?_) _
  repeat' split
  all_goals simp

@[simp] theorem State.relayDry_evals_eq (s : State) : s.relayDry.evals = s.evals := by
  unfold State.relayDry
  split <;> simp

@[simp] theorem State.settleAll_evals_eq (s : State) : s.settleAll.evals = s.evals := by simp [State.settleAll]

@[simp] theorem State.enterDry_evals_eq (s : State) : s.enterDry.evals = s.evals := by simp [State.enterDry]

@[simp] theorem execShutdown_evalsWithin (ring : Fin 1024) (s : State) : EvalsWithin s (execShutdown ring s) := by
  simp [execShutdown]

@[simp] theorem State.raiseIrq_evals_eq (s : State) : s.raiseIrq.evals = s.evals := by
  simp [State.raiseIrq, apply_ite State.evals]

@[simp] theorem execDozeExitDone_evalsWithin (s : State) : EvalsWithin s (execDozeExitDone s) := by
  unfold execDozeExitDone
  split <;> simp [apply_ite State.evals]

@[simp] theorem execPmeTurnOff_evalsWithin (tlp : Tlp) (s : State) : EvalsWithin s (execPmeTurnOff tlp s) := by
  unfold execPmeTurnOff
  repeat' split
  all_goals simp

@[simp] theorem State.enginesOff_evals_subset (s : State) : s.enginesOff.evals ⊆ s.evals := by simp [State.enginesOff]

@[simp] theorem execDryDrainDone_evalsWithin (test : TestIn) (s : State) :
    EvalsWithin s (execDryDrainDone test s) := by
  rw [execDryDrainDone, evalsWithin_next]
  split
  · simp
  · simp only [State.selfTest_evals_eq, State.mapSave_evals_eq]
    refine List.Subset.trans (State.enginesOff_evals_subset _) ?_
    split <;> simp

@[simp] theorem execDrydownCommit_evalsWithin (tankMv : Nat) (s : State) :
    EvalsWithin s (execDrydownCommit tankMv s) := by simp [execDrydownCommit, apply_ite State.evals]

@[simp] theorem execDrydoneRise_evalsWithin (s : State) : EvalsWithin s (execDrydoneRise s) := by
  simp [execDrydoneRise, apply_ite State.evals]

end Sys2Proof.Machine
end

section
/-! PROOFS. Evaluations in flight: a start and its release. -/

namespace Sys2Proof.Machine

@[simp] theorem State.scanEntry_evals_eq (s : State) (e : JEntry) : (s.scanEntry e).evals = s.evals := by
  simp [State.scanEntry, apply_ite State.evals]

@[simp] theorem State.journalScan_evals_eq (s : State) : s.journalScan.evals = s.evals := by
  simp [State.journalScan, apply_ite State.evals]

@[simp] theorem State.runStart_evals_eq (s : State) (edgeAt decision : Nat) (x : StartIn) :
    (s.runStart edgeAt decision x).evals = s.evals := by simp [State.runStart, apply_ite State.evals]

@[simp] theorem State.beginStart_evals_eq (s : State) (x : StartIn) : (s.beginStart x).evals = s.evals := rfl

@[simp] theorem execPerstNRise_evalsWithin (start : StartIn) (s : State) :
    EvalsWithin s (execPerstNRise start s) := by simp [execPerstNRise, apply_ite State.evals]

@[simp] theorem execHkRelease_evalsWithin (start : StartIn) (s : State) :
    EvalsWithin s (execHkRelease start s) := by
  unfold execHkRelease
  repeat' split
  all_goals simp

@[simp] theorem State.writeStart_evals_eq (s : State) (st : Start) : (s.writeStart st).evals = s.evals := rfl

@[simp] theorem State.tellRelease_evals_eq (s : State) : s.tellRelease.evals = s.evals := by
  simp [State.tellRelease, apply_ite State.evals]

@[simp] theorem execStartRelease_evalsWithin (s : State) : EvalsWithin s (execStartRelease s) := by
  rw [execStartRelease, evalsWithin_next]
  split
  · simp
  · split
    · simp
    · simp only [State.tellRelease_evals_eq, State.sendLtr_evals_eq, State.raiseIrq_evals_eq]
      split
      · simp only [State.devVec_evals_eq, State.dlog_evals_eq]
        exact List.Subset.trans (State.resetEngines_evals_subset _) (by simp)
      · simp

@[simp] theorem execPerstNAssert_evalsWithin (cut : PowerCut) (s : State) :
    EvalsWithin s (execPerstNAssert cut s) := by
  rw [execPerstNAssert, evalsWithin_next]
  split
  · simp
  · dsimp only
    split
    · simp
    · have hmain : ((State.applyCut { s with pins := { s.pins with perstHigh := false } }
          { cut with torn := false }).resetMain).evals ⊆ s.evals :=
        List.Subset.trans (State.resetMain_evals_subset _) (by simp)
      split <;> exact hmain

end Sys2Proof.Machine
end

section
/-! PROOFS. Evaluations in flight: the host beside its register accesses. -/

namespace Sys2Proof.Machine

@[simp] theorem execBar0BadSizeAccess_evalsWithin (func : Fin 16) (isRead : Bool) (tlp : Tlp) (s : State) :
    EvalsWithin s (execBar0BadSizeAccess func isRead tlp s) := by simp [execBar0BadSizeAccess, apply_ite State.evals]

@[simp] theorem execMalformedTlp_evalsWithin (tlp : Tlp) (s : State) : EvalsWithin s (execMalformedTlp tlp s) := by
  simp [execMalformedTlp]

@[simp] theorem execPoisonedWrite_evalsWithin (func : Fin 16) (tlp : Tlp) (s : State) :
    EvalsWithin s (execPoisonedWrite func tlp s) := by simp [execPoisonedWrite, apply_ite State.evals]

@[simp] theorem execEcrcMismatch_evalsWithin (tlp : Tlp) (s : State) : EvalsWithin s (execEcrcMismatch tlp s) := by
  simp [execEcrcMismatch, apply_ite State.evals]

@[simp] theorem execUnsupportedRequest_evalsWithin (func : Fin 16) (tlp : Tlp) (s : State) :
    EvalsWithin s (execUnsupportedRequest func tlp s) := by simp [execUnsupportedRequest, apply_ite State.evals]

@[simp] theorem execUnexpectedCompletion_evalsWithin (tlp : Tlp) (s : State) :
    EvalsWithin s (execUnexpectedCompletion tlp s) := by simp [execUnexpectedCompletion]

@[simp] theorem State.commandReadFailed_evals_subset (s : State) (c : Cmd) (kind : Nat) :
    (s.commandReadFailed c kind).evals ⊆ s.evals := by
  unfold State.commandReadFailed
  split
  · simp
  · split
    case h_4 =>
      split
      · simp
      · dsimp only
        split
        · simp
        · split
          · exact List.Subset.trans (State.endRun_evals_subset _ _ _ _ _ _) (by simp)
          · simp
    case h_5 => split <;> simp
    all_goals simp

@[simp] theorem execCompletionTimeout_evalsWithin (src : ReadSrc) (s : State) :
    EvalsWithin s (execCompletionTimeout src s) := by
  unfold execCompletionTimeout
  rw [evalsWithin_next]
  split
  · simp
  · repeat' split
    all_goals simp

@[simp] theorem execDataReadCompletion_evalsWithin (cid : Nat) (result : ReadResult) (s : State) :
    EvalsWithin s (execDataReadCompletion cid result s) := by
  rw [execDataReadCompletion, evalsWithin_next]
  repeat' split
  all_goals simp

@[simp] theorem State.flushMsix_evals_eq (s : State) (f : Nat) : (s.flushMsix f).evals = s.evals := by
  simp [State.flushMsix, apply_ite State.evals]

@[simp] theorem State.flushAllMsix_evals_eq (s : State) : s.flushAllMsix.evals = s.evals := by simp [State.flushAllMsix]

@[simp] theorem execMsixUnmask_evalsWithin (func : Fin 16) (entry : Option (Fin 1040)) (s : State) :
    EvalsWithin s (execMsixUnmask func entry s) := by
  unfold execMsixUnmask
  repeat' split
  all_goals simp [apply_ite State.evals]

@[simp] theorem State.dropPost_evals_eq (s : State) (p : Posted) : (s.dropPost p).evals = s.evals := by
  unfold State.dropPost
  repeat' split
  all_goals simp

/-! The record updates of `flrFunction`, each as an equation to rewrite with: computing the projection instead would run its
fold over the 1024 rings. -/

theorem with_postQ_evals_eq (u : State) (q : List Posted) : ({ u with postQ := q } : State).evals = u.evals := rfl

theorem with_rings_evals_eq (u : State) (rings : Tab Ring) : ({ u with rings := rings } : State).evals = u.evals := rfl

theorem with_owned_evals_eq (u : State) (cmds : List Cmd) (graphs : List Graph) (wpe : Wpe) (hif : Hif) (free : Nat) :
    ({ u with cmds := cmds, graphs := graphs, wpe := wpe, hif := hif, free := free } : State).evals = u.evals := rfl

@[simp] theorem State.flrFunction_evals_eq (s : State) (f : Nat) :
    (s.flrFunction f).evals = s.evals := by
  have hdisable : StepKeepsEvals (fun (u : State) g =>
      if u.ringFunc g == f && (u.ring g).en then u.disableRing g else u) := by
    simp [apply_ite State.evals]
  rw [State.flrFunction, State.closeSessions_evals_eq, State.stopStreams_evals_eq,
    foldl_evals_eq _ _ (fun t c => t.finish_evals_eq c _), with_owned_evals_eq, with_rings_evals_eq,
    foldl_evals_eq _ _ State.dropPost_evals_eq, with_postQ_evals_eq, foldl_evals_eq _ _ hdisable]

@[simp] theorem State.flrVfs_evals_eq (s : State) : s.flrVfs.evals = s.evals := by simp [State.flrVfs]

@[simp] theorem State.hifReset_evals_eq (s : State) : s.hifReset.evals = s.evals := by simp [State.hifReset]

@[simp] theorem execFlr_evalsWithin (func : Fin 16) (s : State) : EvalsWithin s (execFlr func s) := by
  simp [execFlr, apply_ite State.evals]

@[simp] theorem State.dropPosts_evals_eq (s : State) : s.dropPosts.evals = s.evals := by simp [State.dropPosts]

@[simp] theorem State.linkReset_evals_eq (s : State) : s.linkReset.evals = s.evals := by simp [State.linkReset]

@[simp] theorem execHotReset_evalsWithin (s : State) : EvalsWithin s (execHotReset s) := by
  simp [execHotReset, apply_ite State.evals]

@[simp] theorem execDlDown_evalsWithin (s : State) : EvalsWithin s (execDlDown s) := by
  simp [execDlDown, apply_ite State.evals]

@[simp] theorem State.resumeMaster_evals_eq (s : State) : s.resumeMaster.evals = s.evals := by simp [State.resumeMaster]

@[simp] theorem execBusMasterEnableChange_evalsWithin (func : Fin 16) (on : Bool) (s : State) :
    EvalsWithin s (execBusMasterEnableChange func on s) := by simp [execBusMasterEnableChange, apply_ite State.evals]

@[simp] theorem execPowerstateD3hot_evalsWithin (s : State) : EvalsWithin s (execPowerstateD3hot s) := by
  simp [execPowerstateD3hot, apply_ite State.evals]

@[simp] theorem execPowerstateD0_evalsWithin (s : State) : EvalsWithin s (execPowerstateD0 s) := by
  simp [execPowerstateD0, apply_ite State.evals]

@[simp] theorem execAspmL1Idle_evalsWithin (sub : Fin 3) (s : State) : EvalsWithin s (execAspmL1Idle sub s) := by
  simp [execAspmL1Idle, apply_ite State.evals]

@[simp] theorem State.barWrite_evals_eq (s : State) (i : Nat) (v : DWord) : (s.barWrite i v).evals = s.evals := by
  simp [State.barWrite, apply_ite State.evals]

@[simp] theorem State.configure_evals_eq (s : State) (req : CfgReq) : (s.configure req).evals = s.evals := by
  unfold State.configure
  split <;> simp [apply_ite State.evals]

@[simp] theorem execConfigRequest_evalsWithin (req : CfgReq) (s : State) :
    EvalsWithin s (execConfigRequest req s) := by simp [execConfigRequest, apply_ite State.evals]

@[simp] theorem State.drainPosts_evals_eq (fuel : Nat) (s : State) : (s.drainPosts fuel).evals = s.evals := by
  induction fuel generalizing s with
  | zero => rfl
  | succ fuel ih =>
    unfold State.drainPosts
    split
    · rfl
    · rfl
    · rw [ih]
      split <;> simp

@[simp] theorem execLinkUp_evalsWithin (speed width : Nat) (credits : Option Nat) (s : State) :
    EvalsWithin s (execLinkUp speed width credits s) := by simp [execLinkUp, apply_ite State.evals]

@[simp] theorem execFlowControlCreditReturn_evalsWithin (n : Nat) (s : State) :
    EvalsWithin s (execFlowControlCreditReturn n s) := by
  unfold execFlowControlCreditReturn
  split <;> simp

end Sys2Proof.Machine
end

section
/-! PROOFS. Evaluations in flight: mirrored pairs and the work a member is told of. -/

namespace Sys2Proof.Machine

@[simp] theorem State.portLog_evals_eq (s : State) (up : Bool) (event : Nat) :
    (s.portLog up event).evals = s.evals := by simp [State.portLog]

@[simp] theorem State.mgmtBad_evals_eq (s : State) (up : Bool) : (s.mgmtBad up).evals = s.evals := by simp [State.mgmtBad]

@[simp] theorem State.portLogFree_evals_eq (s : State) (up : Bool) : (s.portLogFree up).evals = s.evals := by
  simp [State.portLogFree]

@[simp] theorem State.updMember_evals_eq (s : State) (d : Nat) (f : Member → Member) :
    (s.updMember d f).evals = s.evals := rfl

@[simp] theorem State.tell_evals_eq (s : State) (d : Nat) (m : LinkMsg) : (s.tell d m).evals = s.evals := by
  simp [State.tell, apply_ite State.evals]

@[simp] theorem State.writeRoutes_evals_eq (s : State) : s.writeRoutes.evals = s.evals := by
  simp [State.writeRoutes, apply_ite State.evals]

@[simp] theorem State.endWaits_evals_eq (s : State) (k : Nat) : (s.endWaits k).evals = s.evals := by
  unfold State.endWaits
  rw [foldl_evals_eq _ _ (fun t c => t.finish_evals_eq c _), State.updPair_evals_eq]

@[simp] theorem State.suspend_evals_eq (s : State) (k : Nat) : (s.suspend k).evals = s.evals := by simp [State.suspend]

@[simp] theorem State.snapshot_evals_eq (s : State) (k ring tag : Nat) :
    (s.snapshot k ring tag).evals = s.evals := by simp [State.snapshot]

@[simp] theorem State.abortCmd_evals_subset (s : State) (c : Cmd) (e : End) : (s.abortCmd c e).evals ⊆ s.evals := by
  unfold State.abortCmd
  split
  case h_1 =>
    split
    · split
      · exact State.endRun_evals_subset _ _ _ _ _ _
      · simp
    · simp
  all_goals simp

@[simp] theorem State.failover_evals_subset (s : State) (k cause : Nat) : (s.failover k cause).evals ⊆ s.evals := by
  simp only [State.failover, State.devVec_evals_eq, State.dlog_evals_eq]
  exact List.Subset.trans (foldl_evals_subset _ _ (fun t c => t.abortCmd_evals_subset c _) _) (by simp)

@[simp] theorem State.drainFailover_evals_subset (s : State) (k : Nat) : (s.drainFailover k).evals ⊆ s.evals := by
  unfold State.drainFailover
  dsimp only
  split
  · simp
  · split <;> simp

@[simp] theorem State.formPair_evals_eq (s : State) (k cid ring tag a peer : Nat) (async : Bool) :
    (s.formPair k cid ring tag a peer async).evals = s.evals := by simp [State.formPair]

@[simp] theorem execMirrorControl_evalsWithin (ring : Fin 1024) (s : State) :
    EvalsWithin s (execMirrorControl ring s) := by
  rw [execMirrorControl, evalsWithin_next]
  refine State.onHead_evals_subset s _ _ _ _ (fun p => ?_)
  dsimp only
  split
  · split
    · simp
    · rw [State.completeWith_evals_eq]
      · simp
      · intro t
        dsimp only
        rw [State.releaseHeld_evals_eq, State.updPair_evals_eq, State.endWaits_evals_eq]
        split <;> simp
  · split <;> simp
  · split
    · simp
    · split <;> simp
  · split
    · simp
    · rw [State.settle_evals_eq]
      exact List.Subset.trans (State.drainFailover_evals_subset _ _) (by simp)

@[simp] theorem State.ackPair_evals_subset (s : State) (k seq : Nat) : (s.ackPair k seq).evals ⊆ s.evals := by
  unfold State.ackPair
  dsimp only
  split
  · exact List.Subset.trans (State.drainFailover_evals_subset _ k) (by simp)
  · simp

@[simp] theorem execMirrorAckRx_evalsWithin (pair : Fin 3) (seq : Nat) (s : State) :
    EvalsWithin s (execMirrorAckRx pair seq s) := by simp [execMirrorAckRx]

@[simp] theorem execSnapshotEndAck_evalsWithin (pair : Fin 3) (s : State) :
    EvalsWithin s (execSnapshotEndAck pair s) := by
  rw [execSnapshotEndAck, evalsWithin_next]
  split
  · simp
  · dsimp only
    split
    · simp
    · split <;> simp

@[simp] theorem execMirrorAckTimeout_evalsWithin (pair : Fin 3) (s : State) :
    EvalsWithin s (execMirrorAckTimeout pair s) := by simp [execMirrorAckTimeout, apply_ite State.evals]

@[simp] theorem execMirrorResendRequest_evalsWithin (pair : Fin 3) (seq : Nat) (s : State) :
    EvalsWithin s (execMirrorResendRequest pair seq s) := by
  unfold execMirrorResendRequest
  rw [evalsWithin_next]
  split <;> simp

@[simp] theorem State.shadowSlots_evals_eq (s : State) (c : Cgd) (h active : Nat) :
    (s.shadowSlots c h active).2.evals = s.evals := by
  unfold State.shadowSlots
  split
  · rfl
  · have hplace := s.placeSlots_evals_eq c s.reservedSlots
      (c.slots.map (fun (x : SlotRec) => if x.dev = active then { x with dev := s.me } else x))
    dsimp only
    split
    all_goals
      rename_i hslots
      simpa [hslots] using hplace

@[simp] theorem State.zeroSegments_evals_eq (s : State) (g : Graph) (dev : Nat) :
    (s.zeroSegments g dev).evals = s.evals := by
  refine foldl_evals_eq _ _ (fun t e => ?_) s
  split
  · split <;> rfl
  · rfl

theorem State.loadShadow_evals_eq (s : State) (h active : Nat) (raw : List Byte) :
    ∀ t, s.loadShadow h active raw = some t → t.evals = s.evals := by
  have hslots := s.shadowSlots_evals_eq (parseCgd raw) h active
  unfold State.loadShadow
  intro t ht
  split at ht
  · cases ht
  · dsimp only at ht
    split at ht
    · next hsome =>
      cases ht
      simpa [hsome] using hslots
    · cases ht

@[simp] theorem State.updShadow_evals_eq (s : State) (h : Nat) (f : Graph → Graph) :
    (s.updShadow h f).evals = s.evals := rfl

@[simp] theorem State.putSegments_evals_eq (fuel : Nat) (s : State) (g : Graph) (seq : Nat) (b : List Byte) :
    (s.putSegments fuel g seq b).evals = s.evals := by
  induction fuel generalizing s b with
  | zero => rfl
  | succ fuel ih =>
    cases b with
    | nil => rfl
    | cons x xs =>
      rw [State.putSegments, ih]
      · split <;> rfl
      · simp

@[simp] theorem State.openCell_evals_eq (s : State) (n : Nat) (last : Bool) :
    (s.openCell n last).evals = s.evals := rfl

@[simp] theorem State.eraseCell_evals_eq (s : State) (n ter slot : Nat) :
    (s.eraseCell n ter slot).evals = s.evals := by simp [State.eraseCell]

@[simp] theorem State.dropShadows_evals_eq (s : State) (keep : Graph → Bool) :
    (s.dropShadows keep).evals = s.evals := by simp [State.dropShadows]

@[simp] theorem State.closeShadows_evals_eq (s : State) : s.closeShadows.evals = s.evals := rfl

theorem State.applyRows_evals_eq (s : State) (pay : List Byte) (last : Bool) :
    ∀ t, s.applyRows pay last = some t → t.evals = s.evals := by
  unfold State.applyRows
  dsimp only
  split <;> simp

theorem State.applyRecord_evals_eq (s : State) (k typ h seq : Nat) (first last : Bool) (pay : List Byte) :
    ∀ t, s.applyRecord k typ h seq first last pay = some t → t.evals = s.evals := by
  unfold State.applyRecord
  dsimp only
  intro t ht
  split at ht
  case h_3 => -- a shadow loaded
    split at ht
    · exact s.loadShadow_evals_eq _ _ _ t ht
    · cases ht
      rfl
  case h_8 => -- rows programmed
    exact s.applyRows_evals_eq _ _ t ht
  case h_11 => -- no record type
    cases ht
  case h_6 => -- delayed segments
    obtain ⟨g, _, rfl⟩ := Option.map_eq_some_iff.mp ht
    split <;> simp
  case h_1 | h_2 => -- the snapshot's begin and end
    cases ht
    simp
  all_goals
    obtain ⟨_, _, rfl⟩ := Option.map_eq_some_iff.mp ht
    simp

@[simp] theorem State.askResend_evals_eq (s : State) (k next : Nat) : (s.askResend k next).evals = s.evals := by
  simp [State.askResend]

@[simp] theorem execMirrorRecordRx_evalsWithin (bytes : List Byte) (s : State) :
    EvalsWithin s (execMirrorRecordRx bytes s) := by
  unfold execMirrorRecordRx
  rw [evalsWithin_next]
  iterate 5
    split
    · simp
  split
  · simp
  split
  · simp
  split
  · simp
  · next t ht =>
    have hrec := s.applyRecord_evals_eq _ _ _ _ _ _ _ t ht
    split <;> simp [hrec]

@[simp] theorem State.takeOver_evals_eq (s : State) (old : Nat) : (s.takeOver old).evals = s.evals := by
  simp [State.takeOver]

@[simp] theorem execRoutingTableWrite_evalsWithin (table : List Nat) (alsoNum : Option Nat) (s : State) :
    EvalsWithin s (execRoutingTableWrite table alsoNum s) := by
  unfold execRoutingTableWrite
  rw [evalsWithin_next]
  split
  · simp
  · dsimp only
    split
    · split <;> simp
    · simp

@[simp] theorem State.carry_evals_eq (s : State) (ring tag opcode : Nat) (body : Body) :
    (s.carry ring tag opcode body).evals = s.evals := rfl

@[simp] theorem State.carryOut_evals_eq (s : State) (ring tag opcode h : Nat) (g : Graph)
    (parts : List (Nat × List Byte × Option (Nat × Nat))) (k : State → State) (hk : KeepsEvals k) :
    (s.carryOut ring tag opcode h g parts k).evals = s.evals := by simp [State.carryOut, hk _]

@[simp] theorem State.realign_evals_eq (s : State) (g : Graph) (seq : Nat) : (s.realign g seq).evals = s.evals := by
  unfold State.realign
  split
  · rfl
  · dsimp only
    rw [State.updGraph_evals_eq]
    refine foldl_evals_eq _ _ (fun t e => ?_) s
    split
    · rfl
    · split <;> rfl

@[simp] theorem State.takePart_evals_eq (s : State) (h seq : Nat) (devs : List Nat) (evals skipped : Nat)
    (fault : Option Nat) :
    (s.takePart h seq devs evals skipped fault).evals = s.evals := by
  unfold State.takePart
  split <;> rfl

@[simp] theorem State.cutRun_evals_subset (s : State) (h seq : Nat) (zero : Bool) :
    (s.cutRun h seq zero).evals ⊆ s.evals := by
  have hclear := s.clearRun_evals_subset h seq zero
  unfold State.cutRun
  dsimp only
  split
  · split
    · exact List.Subset.trans (State.endRun_evals_subset _ _ _ _ _ _) hclear
    · exact hclear
  · exact hclear

@[simp] theorem execMasterWorkMessage_evalsWithin (ring tag opcode : Nat) (work : Work) (s : State) :
    EvalsWithin s (execMasterWorkMessage ring tag opcode work s) := by
  unfold execMasterWorkMessage
  rw [evalsWithin_next]
  split
  · simp
  · split
    · simp
    · split
      case h_3 => -- a graph loaded
        dsimp only
        split
        · simp
        · rw [State.carryOut_evals_eq _ _ _ _ _ _ _ _ (fun t => t.install_evals_eq _)]
          simp
      case h_4 => -- a graph unloaded
        split
        · simp
        · exact List.Subset.trans (State.releaseGraph_evals_subset _ _) (by simp)
      case h_8 | h_9 => -- a pair formed, a pair taken back
        dsimp only
        split <;> simp
      case h_5 | h_6 | h_7 => -- a run, a threshold, exact mode
        split <;> simp
      all_goals simp

end Sys2Proof.Machine
end

section
/-! PROOFS. Evaluations in flight: the chain and its link. -/

namespace Sys2Proof.Machine

@[simp] theorem State.loseMember_evals_subset (s : State) (d : Nat) : (s.loseMember d).evals ⊆ s.evals := by
  simp only [State.loseMember, State.devVec_evals_eq]
  exact List.Subset.trans (foldl_evals_subset _ _ (fun t c => t.abortCmd_evals_subset c _) _) (by simp)

@[simp] theorem State.declareLost_evals_subset (s : State) (d : Nat) : (s.declareLost d).evals ⊆ s.evals := by
  unfold State.declareLost
  split
  · simp
  · split
    · simp
    · dsimp only
      split
      · exact List.Subset.trans (State.failover_evals_subset _ _ _) (by simp)
      · split
        · exact List.Subset.trans (State.loseMember_evals_subset _ d) (by simp)
        · simp

@[simp] theorem execMemberLost_evalsWithin (dev : Fin 8) (s : State) : EvalsWithin s (execMemberLost dev s) := by
  simp [execMemberLost]

@[simp] theorem State.portDown_evals_subset (s : State) (up : Bool) : (s.portDown up).evals ⊆ s.evals := by
  unfold State.portDown
  split
  · simp
  · exact List.Subset.trans (foldl_evals_subset _ _ (fun t d => t.declareLost_evals_subset d) _) (by simp)

@[simp] theorem State.passNumber_evals_eq (s : State) : s.passNumber.evals = s.evals := by
  simp [State.passNumber, apply_ite State.evals]

@[simp] theorem State.portUpAt_evals_eq (s : State) (up : Bool) (lanes : BitVec 4) :
    (s.portUpAt up lanes).evals = s.evals := by simp [State.portUpAt, apply_ite State.evals]

@[simp] theorem execCascadeTrainingDone_evalsWithin (up : Bool) (lanes : BitVec 4) (partnerOk : Bool) (s : State) :
    EvalsWithin s (execCascadeTrainingDone up lanes partnerOk s) := by
  rw [execCascadeTrainingDone, evalsWithin_next]
  split
  · simp
  · split
    · dsimp only
      split
      · exact List.Subset.trans (State.portDown_evals_subset _ up) (by simp)
      · simp
    · split <;> simp

@[simp] theorem State.discardFrame_evals_eq (s : State) (up : Bool) : (s.discardFrame up).evals = s.evals := by
  simp [State.discardFrame, apply_ite State.evals]

@[simp] theorem State.fromLink_evals_eq (s : State) (p : Packet) : (s.fromLink p).evals = s.evals := by
  simp [State.fromLink, apply_ite State.evals]

@[simp] theorem State.takeCredits_evals_eq (s : State) (up : Bool) (cr : List Nat) :
    (s.takeCredits up cr).evals = s.evals := by simp [State.takeCredits, apply_ite State.evals]

@[simp] theorem State.takeFlit_evals_eq (up : Bool) (s : State) (x : FlitSlot) :
    (s.takeFlit up x).evals = s.evals := by
  unfold State.takeFlit
  dsimp only
  split
  · simp
  · split
    · split <;> simp
    · rfl

@[simp] theorem State.replayFrames_evals_eq (s : State) (up : Bool) : (s.replayFrames up).evals = s.evals := by
  simp [State.replayFrames]

@[simp] theorem execCascadeFrameRx_evalsWithin (up : Bool) (frame : LinkFrame) (s : State) :
    EvalsWithin s (execCascadeFrameRx up frame s) := by simp [execCascadeFrameRx, apply_ite State.evals]

@[simp] theorem State.enumerated_evals_eq (s : State) (n : Nat) (uid : DWord) (strap : Nat) :
    (s.enumerated n uid strap).evals = s.evals := by simp [State.enumerated]

@[simp] theorem execEnumerationMessage_evalsWithin (n : Nat) (reply : Option (DWord × Nat)) (s : State) :
    EvalsWithin s (execEnumerationMessage n reply s) := by
  unfold execEnumerationMessage
  split <;> simp [apply_ite State.evals]

@[simp] theorem execChainEndTimeout_evalsWithin (s : State) : EvalsWithin s (execChainEndTimeout s) := by
  simp [execChainEndTimeout, apply_ite State.evals]

@[simp] theorem execMemberReleaseReport_evalsWithin (dev : Fin 8) (uid : DWord) (fw epoch : Word) (s : State) :
    EvalsWithin s (execMemberReleaseReport dev uid fw epoch s) := by simp [execMemberReleaseReport, apply_ite State.evals]

@[simp] theorem execHeartbeatSend_evalsWithin (s : State) : EvalsWithin s (execHeartbeatSend s) := by
  simp [execHeartbeatSend, apply_ite State.evals]

@[simp] theorem execHeartbeatReceive_evalsWithin (dev : Fin 8) (mirSeq : Nat) (s : State) :
    EvalsWithin s (execHeartbeatReceive dev mirSeq s) := by
  rw [execHeartbeatReceive, evalsWithin_next]
  split
  · simp
  · split
    · simp
    · exact List.Subset.trans (foldl_evals_subset _ _ (fun t k => t.drainFailover_evals_subset k) _) (by simp)

@[simp] theorem execDryRelay_evalsWithin (s : State) : EvalsWithin s (execDryRelay s) := by
  simp [execDryRelay, apply_ite State.evals]

@[simp] theorem execCascadeEnum_evalsWithin (ring : Fin 1024) (s : State) :
    EvalsWithin s (execCascadeEnum ring s) := by simp [execCascadeEnum]

end Sys2Proof.Machine
end

section
/-! PROOFS. Evaluations in flight: life-cycle transitions and retirement. -/

namespace Sys2Proof.Machine

@[simp] theorem State.retire_evals_eq (s : State) (cid : Nat) : (s.retire cid).evals = s.evals := rfl

@[simp] theorem State.retireBasin_evals_eq (s : State) (n : Nat) : (s.retireBasin n).evals = s.evals := by
  simp [State.retireBasin, apply_ite State.evals]

@[simp] theorem State.retireLoop_evals_eq (fuel : Nat) (s : State) : (s.retireLoop fuel).evals = s.evals := by
  induction fuel generalizing s with
  | zero => rfl
  | succ fuel ih =>
    unfold State.retireLoop
    split
    · rfl
    · simp [ih]

@[simp] theorem execRetirementResume_evalsWithin (n : Nat) (s : State) :
    EvalsWithin s (execRetirementResume n s) := by
  unfold execRetirementResume
  rw [evalsWithin_next]
  split
  · simp
  · dsimp only
    split
    · simp
    · split <;> simp

@[simp] theorem State.tokenEnergy_evals_eq (s : State) (c : Nat) (target : Nat) (pay : List Byte) :
    (s.tokenEnergy c target pay).evals = s.evals := by
  unfold State.tokenEnergy
  repeat' split
  all_goals simp [apply_ite State.evals]

@[simp] theorem execLifecycleAdvance_evalsWithin (ring : Fin 1024) (token : ReadResult) (s : State) :
    EvalsWithin s (execLifecycleAdvance ring token s) := by
  refine evalsWithin_next_of_eq (s.onHead_evals_eq _ _ _ _ (fun p => ?_))
  dsimp only
  repeat' split
  all_goals simp

@[simp] theorem execLifecycleTransitionDone_evalsWithin (idPub : List Byte) (s : State) :
    EvalsWithin s (execLifecycleTransitionDone idPub s) := by
  unfold execLifecycleTransitionDone
  repeat' split
  all_goals simp

@[simp] theorem execTankWaitTimeout_evalsWithin (s : State) : EvalsWithin s (execTankWaitTimeout s) := by
  unfold execTankWaitTimeout
  extract_lets s1
  have hs1 : s1.evals = s.evals := by
    unfold s1
    split
    · split
      · split <;> simp
      · rfl
    · rfl
  clear_value s1
  refine evalsWithin_next_of_eq ?_
  split
  · split <;> simp [hs1]
  · exact hs1

@[simp] theorem State.tankRetry_evals_eq (s : State) : s.tankRetry.evals = s.evals := by
  unfold State.tankRetry
  extract_lets s1
  have hs1 : s1.evals = s.evals := by
    unfold s1
    split
    · split <;> simp
    · rfl
  clear_value s1
  split
  · split <;> simp [hs1]
  · exact hs1

@[simp] theorem execTankComparatorCross_evalsWithin (above : Bool) (mv : Nat) (s : State) :
    EvalsWithin s (execTankComparatorCross above mv s) := by simp [execTankComparatorCross, apply_ite State.evals]

@[simp] theorem execTankBoostThreshold_evalsWithin (stop : Bool) (mv : Nat) (s : State) :
    EvalsWithin s (execTankBoostThreshold stop mv s) := by simp [execTankBoostThreshold, apply_ite State.evals]

end Sys2Proof.Machine
end

section
/-! PROOFS. Evaluations in flight: register accesses. -/

namespace Sys2Proof.Machine

@[simp] theorem State.writeSys_evals_eq (s : State) (off : Nat) (v : Word) :
    (s.writeSys off v).evals = s.evals := by
  unfold State.writeSys
  split <;> rfl

@[simp] theorem State.pwrCtrlWrite_evals_eq (s : State) (v : Word) : (s.pwrCtrlWrite v).evals = s.evals := by
  unfold State.pwrCtrlWrite
  dsimp only
  split <;> simp [apply_ite State.evals]

@[simp] theorem State.writePwr_evals_eq (s : State) (off : Nat) (v : Word) :
    (s.writePwr off v).evals = s.evals := by
  unfold State.writePwr
  split <;> simp

@[simp] theorem State.writeTmr_evals_eq (s : State) (off : Nat) (v : Word) :
    (s.writeTmr off v).evals = s.evals := by
  unfold State.writeTmr
  split <;> rfl

@[simp] theorem State.ownerWrite_evals_eq (s : State) (lo hi : Option Word) (tlp : Tlp) :
    (s.ownerWrite lo hi tlp).evals = s.evals := by simp [State.ownerWrite, apply_ite State.evals]

@[simp] theorem State.msixWrite_evals_eq (s : State) (f off : Nat) (v : Word) :
    (s.msixWrite f off v).evals = s.evals := by simp [State.msixWrite, apply_ite State.evals]

@[simp] theorem State.vlogRdWrite_evals_eq (s : State) (v : Word) : (s.vlogRdWrite v).evals = s.evals := rfl

@[simp] theorem State.writeHif_evals_eq (s : State) (off : Nat) (v : Word) (tlp : Tlp) :
    (s.writeHif off v tlp).evals = s.evals := by
  unfold State.writeHif
  split <;> simp [apply_ite State.evals]

@[simp] theorem State.writeSlc_evals_eq (s : State) (off : Nat) (v : Word) :
    (s.writeSlc off v).evals = s.evals := by
  unfold State.writeSlc
  split <;> simp

@[simp] theorem State.writeAfe_evals_eq (s : State) (off : Nat) (v : Word) :
    (s.writeAfe off v).evals = s.evals := by
  unfold State.writeAfe
  split <;> rfl

@[simp] theorem State.rptRdWrite_evals_eq (s : State) (v : Word) : (s.rptRdWrite v).evals = s.evals := rfl

@[simp] theorem State.rptCtrlWrite_evals_eq (s : State) (v : Word) : (s.rptCtrlWrite v).evals = s.evals := rfl

@[simp] theorem State.writeSnt_evals_eq (s : State) (off : Nat) (v : Word) :
    (s.writeSnt off v).evals = s.evals := by
  unfold State.writeSnt
  split <;> simp [apply_ite State.evals]

@[simp] theorem State.writeStr_evals_eq (s : State) (off : Nat) (v : Word) :
    (s.writeStr off v).evals = s.evals := by
  unfold State.writeStr
  split <;> simp [apply_ite State.evals]

@[simp] theorem State.remoteStart_evals_eq (s : State) (ctl : Word) : (s.remoteStart ctl).evals = s.evals := by
  simp [State.remoteStart, apply_ite State.evals]

@[simp] theorem State.rctlWrite_evals_eq (s : State) (v : Word) : (s.rctlWrite v).evals = s.evals := by
  simp [State.rctlWrite, apply_ite State.evals]

@[simp] theorem State.writeCsc_evals_eq (s : State) (off : Nat) (v : Word) :
    (s.writeCsc off v).evals = s.evals := by
  unfold State.writeCsc
  split <;> simp [apply_ite State.evals]

@[simp] theorem State.writeKflag_evals_eq (s : State) (off : Nat) (v : Word) :
    (s.writeKflag off v).evals = s.evals := by simp [State.writeKflag, apply_ite State.evals]

@[simp] theorem State.maintRead_evals_eq (s : State) (p : Packet) : (s.maintRead p).evals = s.evals := by
  simp [State.maintRead, apply_ite State.evals]

@[simp] theorem State.writeWindow_evals_eq (s : State) (t off : Nat) (v : Word) :
    (s.writeWindow t off v).evals = s.evals := by simp [State.writeWindow, apply_ite State.evals]

@[simp] theorem execMaintWr_evalsWithin (p : Packet) (s : State) : EvalsWithin s (execMaintWr p s) := by
  simp [execMaintWr, apply_ite State.evals]

@[simp] theorem execMaintRd_evalsWithin (p : Packet) (s : State) : EvalsWithin s (execMaintRd p s) := by
  simp [execMaintRd, apply_ite State.evals]

@[simp] theorem State.maintAnswer_evals_eq (s : State) (src : Nat) (bs : List Byte) :
    (s.maintAnswer src bs).evals = s.evals := by
  unfold State.maintAnswer
  split <;> rfl

@[simp] theorem execMaintResp_evalsWithin (p : Packet) (s : State) : EvalsWithin s (execMaintResp p s) := by
  refine evalsWithin_next_of_eq (s.arrive_evals_eq p _ (fun t => ?_))
  dsimp only
  split
  · simp
  · split
    · rfl
    · split <;> simp

@[simp] theorem State.writeReg_evals_eq (s : State) (off : Nat) (v : Word) (tlp : Tlp) :
    (s.writeReg off v tlp).evals = s.evals := by
  unfold State.writeReg
  split <;> simp

@[simp] theorem State.pfWrite_evals_eq (s : State) (off : Nat) (v : DWord) (wide : Bool) (tlp : Tlp) :
    (s.pfWrite off v wide tlp).evals = s.evals := by simp [State.pfWrite, apply_ite State.evals]

@[simp] theorem State.vfWrite_evals_eq (s : State) (f off : Nat) (v : DWord) (wide : Bool) (tlp : Tlp) :
    (s.vfWrite f off v wide tlp).evals = s.evals := by simp [State.vfWrite, apply_ite State.evals]

@[simp] theorem State.latchRead_evals_eq (s : State) (off : Nat) : (s.latchRead off).evals = s.evals := by
  simp [State.latchRead, apply_ite State.evals]

@[simp] theorem State.regRead_evals_eq (s : State) (f off : Nat) (wide : Bool) (tlp : Tlp) :
    (s.regRead f off wide tlp).evals = s.evals := by simp [State.regRead, apply_ite State.evals]

@[simp] theorem State.doorbellRead_evals_eq (s : State) (f page off len : Nat) (tlp : Tlp) :
    (s.doorbellRead f page off len tlp).evals = s.evals := by simp [State.doorbellRead]

@[simp] theorem execRegisterWrite_evalsWithin (func : Fin 16) (offset : Nat) (acc : RegAccess) (wide : Bool) (tlp : Tlp)
    (s : State) :
    EvalsWithin s (execRegisterWrite func offset acc wide tlp s) := by
  unfold execRegisterWrite
  repeat' split
  all_goals simp

@[simp] theorem execTmrAnchorHiWrite_evalsWithin (value : Word) (s : State) :
    EvalsWithin s (execTmrAnchorHiWrite value s) := by simp [execTmrAnchorHiWrite]

@[simp] theorem execSysLockWrite_evalsWithin (value : Word) (s : State) :
    EvalsWithin s (execSysLockWrite value s) := by simp [execSysLockWrite]

@[simp] theorem execSntRptRdWrite_evalsWithin (value : Word) (s : State) :
    EvalsWithin s (execSntRptRdWrite value s) := by simp [execSntRptRdWrite]

@[simp] theorem execSntRptLostClr_evalsWithin (value : Word) (s : State) :
    EvalsWithin s (execSntRptLostClr value s) := by simp [execSntRptLostClr]

@[simp] theorem execHifVlogRdWrite_evalsWithin (value : Word) (s : State) :
    EvalsWithin s (execHifVlogRdWrite value s) := by simp [execHifVlogRdWrite]

@[simp] theorem execHifRblkOwnerWrite_evalsWithin (hi : Bool) (value : Word) (tlp : Tlp) (s : State) :
    EvalsWithin s (execHifRblkOwnerWrite hi value tlp s) := by simp [execHifRblkOwnerWrite, apply_ite State.evals]

@[simp] theorem execCscRctlGo_evalsWithin (value : Word) (s : State) : EvalsWithin s (execCscRctlGo value s) := by
  simp [execCscRctlGo]

@[simp] theorem execRemoteAccessDone_evalsWithin (result : Fin 4) (data : Word) (s : State) :
    EvalsWithin s (execRemoteAccessDone result data s) := by
  unfold execRemoteAccessDone
  split <;> simp

@[simp] theorem execTmrUptimeLoRead_evalsWithin (wide : Bool) (s : State) :
    EvalsWithin s (execTmrUptimeLoRead wide s) := by simp [execTmrUptimeLoRead]

@[simp] theorem execSlcFrameIdxLoRead_evalsWithin (wide : Bool) (s : State) :
    EvalsWithin s (execSlcFrameIdxLoRead wide s) := by simp [execSlcFrameIdxLoRead]

@[simp] theorem State.cisAccess_evals_eq (s : State) (src addr : Nat) (write : Option (List Byte)) (len : Nat) :
    (s.cisAccess src addr write len).evals = s.evals := by
  unfold State.cisAccess
  split <;> simp

@[simp] theorem execBar4Access_evalsWithin (addr : Nat) (write : Option (List Byte)) (len : Nat) (tlp : Tlp) (s : State) :
    EvalsWithin s (execBar4Access addr write len tlp s) := by simp [execBar4Access, apply_ite State.evals]

@[simp] theorem execRemoteAccessMessage_evalsWithin (offset : Nat) (write : Option Word) (s : State) :
    EvalsWithin s (execRemoteAccessMessage offset write s) := by
  unfold execRemoteAccessMessage
  rw [evalsWithin_next]
  repeat' split
  all_goals simp

end Sys2Proof.Machine
end

section
/-! PROOFS. Evaluations in flight: the SMBus target and the test access port. -/

namespace Sys2Proof.Machine

@[simp] theorem State.smbError_evals_eq (s : State) (cause : Nat) : (s.smbError cause).evals = s.evals := rfl

@[simp] theorem execSmbusBlockRead_evalsWithin (code : Byte) (s : State) :
    EvalsWithin s (execSmbusBlockRead code s) := by
  unfold execSmbusBlockRead
  repeat' split
  all_goals simp

@[simp] theorem execSmbusAlertResponse_evalsWithin (s : State) : EvalsWithin s (execSmbusAlertResponse s) := by
  simp [execSmbusAlertResponse, apply_ite State.evals]

@[simp] theorem execSmbusProtocolError_evalsWithin (cause : Nat) (s : State) :
    EvalsWithin s (execSmbusProtocolError cause s) := by
  unfold execSmbusProtocolError
  repeat' split
  all_goals simp

@[simp] theorem execSmbusSclTimeout_evalsWithin (s : State) : EvalsWithin s (execSmbusSclTimeout s) := by
  simp [execSmbusSclTimeout, apply_ite State.evals]

@[simp] theorem State.tap_evals_eq (s : State) (k : State → State) (hk : KeepsEvals k) :
    (s.tap k).evals = s.evals := by
  unfold State.tap
  split
  · exact hk s
  · rfl

@[simp] theorem State.tapSelect_evals_eq (s : State) (ir : BitVec 8) : (s.tapSelect ir).evals = s.evals := rfl

@[simp] theorem State.tapDebug_evals_eq (s : State) (ir : BitVec 8) (k : State → State) (hk : KeepsEvals k) :
    (s.tapDebug ir k).evals = s.evals := by
  refine s.tap_evals_eq _ (fun t => ?_)
  split
  · exact (hk _).trans (t.tapSelect_evals_eq ir)
  · simp

@[simp] theorem execTapReset_evalsWithin (s : State) : EvalsWithin s (execTapReset s) := by simp [execTapReset]

@[simp] theorem execExtest_evalsWithin (pins : List Bool) (s : State) : EvalsWithin s (execExtest pins s) := by
  simp [execExtest]

@[simp] theorem execSamplePreload_evalsWithin (pins : List Bool) (s : State) :
    EvalsWithin s (execSamplePreload pins s) := by simp [execSamplePreload]

@[simp] theorem execIdcode_evalsWithin (s : State) : EvalsWithin s (execIdcode s) := by simp [execIdcode]

@[simp] theorem execClamp_evalsWithin (s : State) : EvalsWithin s (execClamp s) := by simp [execClamp]

@[simp] theorem execHighz_evalsWithin (s : State) : EvalsWithin s (execHighz s) := by simp [execHighz]

@[simp] theorem execHkDebug_evalsWithin (op : HkOp) (s : State) : EvalsWithin s (execHkDebug op s) := by
  unfold execHkDebug
  split <;> simp

@[simp] theorem execFabricAccess_evalsWithin (ter : Fin 64) (offset : Nat) (write : Option Word) (s : State) :
    EvalsWithin s (execFabricAccess ter offset write s) := by
  refine evalsWithin_next_of_eq (s.tapDebug_evals_eq _ _ (fun t => ?_))
  split
  · split <;> rfl
  · split <;> simp

@[simp] theorem execCisternAccess_evalsWithin (addr : Nat) (write : Option (List Byte)) (len : Nat) (s : State) :
    EvalsWithin s (execCisternAccess addr write len s) := by simp [execCisternAccess, apply_ite State.evals]

@[simp] theorem execFuseRead_evalsWithin (s : State) : EvalsWithin s (execFuseRead s) := by simp [execFuseRead]

@[simp] theorem execTestMode_evalsWithin (s : State) : EvalsWithin s (execTestMode s) := by
  simp [execTestMode, apply_ite State.evals]

@[simp] theorem execBypass_evalsWithin (s : State) : EvalsWithin s (execBypass s) := by simp [execBypass]

end Sys2Proof.Machine
end

section
/-! PROOFS. The scoreboard fires only basins in VALID (R206). -/

namespace Sys2Proof.Machine

/-- No command but BASIN_FIRE puts an evaluation in flight. -/
theorem exec_evalsWithin {c : Instr} (s : State) (hc : ∀ h place cis, c ≠ .basinFire h place cis) :
    EvalsWithin s (exec c s) := by
  cases c with
  | basinFire h place cis => exact absurd rfl (hc h place cis)
  | _ => simp [exec]

/-- The scoreboard lets a placement fire only where each of its basins is in VALID. -/
theorem State.valid_of_mayFire {s : State} {g : Graph} {place : Nat} {p : Placement} {z : Score} {phys : List Nat}
    (h : s.mayFire g place p z phys = true) : ∀ n ∈ phys, (s.basin n).wstate = .valid := by
  intro n hn
  simp only [State.mayFire, Bool.and_eq_true, List.all_eq_true, beq_iff_eq] at h
  obtain ⟨⟨⟨⟨_, hvalid⟩, _⟩, _⟩, _⟩ := h
  exact (hvalid n hn).1

/-- BASIN_FIRE changes nothing where `mayFire` does not hold, so a change tells that it did. -/
theorem execBasinFire_valid {s t : State} {h place : Nat} {cis : Fin 3} {g : Graph} (hg : s.graph? h = some g)
    (ht : execBasinFire h place cis s = .next t) (hne : t.evals ≠ s.evals) :
    ∀ n ∈ g.phys.getD place [], (s.basin n).wstate = .valid := by
  simp only [execBasinFire, hg, Host.Outcome.next.injEq] at ht
  split at ht
  · next p z _ _ =>
    split at ht
    · exact absurd (congrArg State.evals ht.symm) hne
    · next hfires =>
      obtain ⟨_, hmay⟩ : (g.inputOf p z).1 = true ∧ s.mayFire g place p z (g.phys.getD place []) = true := by
        simpa using hfires
      exact State.valid_of_mayFire hmay
  · exact absurd (congrArg State.evals ht.symm) hne

/-- A tracking evaluation on a basin neither in VALID nor in FAILED changes nothing. -/
theorem execTrackingEvaluation_valid_or_failed {s t : State} {r : TrackRead}
    (ht : execTrackingEvaluation r s = .next t) (hne : t ≠ s) :
    (s.basin r.basin).wstate = .valid ∨ (s.basin r.basin).wstate = .failed := by
  unfold execTrackingEvaluation at ht
  dsimp only at ht
  split at ht
  · cases ht
  · rw [Host.Outcome.next.injEq] at ht
    split at ht
    · next hrun => exact hrun.1
    · exact absurd ht.symm hne

/-- Settles O43: the scoreboard's condition to fire, the frame of every other command, and the guard of a tracking
evaluation. -/
theorem onlyValidFire : Obligations.OnlyValidFire :=
  ⟨fun _ _ _ _ _ _ hg ht hne => execBasinFire_valid hg ht hne,
   fun _ s t ht hc _ he => exec_evalsWithin s hc t ht he,
   fun _ _ _ ht hne => execTrackingEvaluation_valid_or_failed ht hne⟩

end Sys2Proof.Machine
end

section
/-! PROOFS. A packet refused at the head, and the parameters that LAYER_THRESHOLD and EXACT_MODE refuse (R225). -/

namespace Sys2Proof.Machine

/-- A command that refuses the packet at the head changes nothing but the ledger, and the packet's record reaches the host. -/
theorem yields_of_refuse {c : Instr} {s : State} {g op : Nat} {b : Bool} {p : List Byte} {e : End}
    (hready : s.ready g op b = some p) (hrep : Reporting s g) (hexec : exec c s = .next (s.refuse g p e)) :
    Yields c s (fun t => LedgerOnly s t ∧ HeadRecorded s t g p e) :=
  ⟨s.refuse g p e, hexec, refuse_ledger s g p e, refuse_recorded e hready hrep⟩

/-! ### LAYER_THRESHOLD -/

/-- The resolutions of the placements of a layer, which bound the layer's threshold. -/
def Graph.layerQs (g : Graph) (layer : Nat) : List Nat :=
  (g.cgd.places.filter (fun x => x.layer == layer)).map (fun x => x.q)

theorem Graph.mem_layerQs {g : Graph} {layer : Nat} {x : Placement} (hx : x ∈ g.cgd.places) (hl : x.layer = layer) :
    x.q ∈ g.layerQs layer :=
  List.mem_map_of_mem (List.mem_filter.mpr ⟨hx, beq_iff_eq.mpr hl⟩)

theorem Graph.layerQs_isEmpty (g : Graph) (layer : Nat) :
    (g.layerQs layer).isEmpty = !g.cgd.places.any (fun x => x.layer == layer) := by
  rw [Bool.eq_iff_iff]
  simp [Graph.layerQs]

/-- The bound that LAYER_THRESHOLD computes over a layer is at most the bound of each of its placements. -/
theorem Graph.thetaBound_le {g : Graph} {layer : Nat} {x : Placement} (hx : x ∈ g.cgd.places) (hl : x.layer = layer) :
    min 15 (2 ^ (g.layerQs layer).foldl min 8 - 1) ≤ min 15 (2 ^ min 8 x.q - 1) := by
  have hcap : (g.layerQs layer).foldl min 8 ≤ 8 :=
    List.min_le_of_mem (l := 8 :: g.layerQs layer) List.mem_cons_self
  have hplace : (g.layerQs layer).foldl min 8 ≤ x.q :=
    List.min_le_of_mem (l := 8 :: g.layerQs layer) (List.mem_cons_of_mem 8 (Graph.mem_layerQs hx hl))
  have hpow : 2 ^ (g.layerQs layer).foldl min 8 ≤ 2 ^ min 8 x.q :=
    Nat.pow_le_pow_right Nat.two_pos (Nat.le_min.mpr ⟨hcap, hplace⟩)
  exact min_le_min_left 15 (Nat.sub_le_sub_right hpow 1)

section LayerThreshold

variable {s : State} {r : Fin 1024} {p : List Byte} (hready : s.ready r.val 0x16 false = some p)
include hready

/-- The handle names no loaded graph. -/
theorem exec_layerThreshold_of_noGraph (hnone : s.liveGraph (par p 0x10 2) = none) :
    exec (.layerThreshold r) s = .next (s.refuse r.val p (endParam 0x10)) := by
  simp [exec, execLayerThreshold, hready, hnone]

/-- No placement of the graph has the layer. -/
theorem exec_layerThreshold_of_noLayer {g : Graph} (hg : s.liveGraph (par p 0x10 2) = some g)
    (hlayer : g.cgd.places.any (fun x => x.layer == par p 0x12 2) = false) :
    exec (.layerThreshold r) s = .next (s.refuse r.val p (endParam 0x12)) := by
  have hempty : (g.layerQs (par p 0x12 2)).isEmpty = true := by rw [Graph.layerQs_isEmpty, hlayer, Bool.not_false]
  rw [Graph.layerQs] at hempty
  simp only [exec, execLayerThreshold, onHead_some _ hready, hg, hempty, if_true]

/-- The threshold exceeds the bound of a placement of the layer. -/
theorem exec_layerThreshold_of_thetaHigh {g : Graph} {x : Placement} (hg : s.liveGraph (par p 0x10 2) = some g)
    (hx : x ∈ g.cgd.places) (hl : x.layer = par p 0x12 2) (hhigh : min 15 (2 ^ min 8 x.q - 1) < par p 0x14 1) :
    exec (.layerThreshold r) s = .next (s.refuse r.val p (endParam 0x14)) := by
  have hsome : ¬ (g.layerQs (par p 0x12 2)).isEmpty = true := by
    simpa using List.ne_nil_of_mem (Graph.mem_layerQs hx hl)
  have hbound : min 15 (2 ^ (g.layerQs (par p 0x12 2)).foldl min 8 - 1) < par p 0x14 1 :=
    (Graph.thetaBound_le hx hl).trans_lt hhigh
  rw [Graph.layerQs] at hsome hbound
  simp only [exec, execLayerThreshold, onHead_some _ hready, hg, if_neg hsome, if_pos hbound]

end LayerThreshold

/-! ### EXACT_MODE -/

/-- The handle names no loaded graph. -/
theorem exec_exactMode_of_noGraph {s : State} {r : Fin 1024} {p : List Byte}
    (hready : s.ready r.val 0x17 false = some p) (hnone : s.liveGraph (par p 0x10 2) = none) :
    exec (.exactMode r) s = .next (s.refuse r.val p (endParam 0x10)) := by
  simp [exec, execExactMode, hready, hnone]

/-- Settles O40: each bad parameter makes the command refuse its packet at the parameter's offset; the bound that
LAYER_THRESHOLD takes over the whole layer is at most that of any placement of it. -/
theorem settingsRefused : Obligations.SettingsRefused := by
  intro s r p hrep
  refine ⟨fun hready => ⟨fun hnone => ?_, fun g hg hlayer => ?_, fun g x hg hx hl hhigh => ?_⟩, fun hready hnone => ?_⟩
  · exact yields_of_refuse hready hrep (exec_layerThreshold_of_noGraph hready hnone)
  · exact yields_of_refuse hready hrep (exec_layerThreshold_of_noLayer hready hg hlayer)
  · exact yields_of_refuse hready hrep (exec_layerThreshold_of_thetaHigh hready hg hx hl hhigh)
  · exact yields_of_refuse hready hrep (exec_exactMode_of_noGraph hready hnone)

end Sys2Proof.Machine
end

section
/-! PROOFS. What an entry of the violation log leaves in it, and the write of HIF_RBLK_OWNER (R298, R321). -/

namespace Sys2Proof.Machine

/-! ### The violation log -/

/-- The entries of the violation log, and the position of the next one. -/
def State.violations (s : State) : Tab VlogEntry × BitVec 16 := (s.hif.vlog, s.hif.vlogWr)

@[simp] theorem State.post_violations_eq (s : State) (e : Emit) (c src : Option (Nat × Nat)) :
    (s.post e c src).violations = s.violations := by
  unfold State.post
  dsimp only
  split
  · rfl
  · rfl
  · split <;> rfl

@[simp] theorem State.signal_violations_eq (s : State) (f e : Nat) : (s.signal f e).violations = s.violations := by
  unfold State.signal
  split
  · rfl
  · split
    · rfl
    · exact s.post_violations_eq _ _ _

/-- A device interrupt leaves the violation log as it is. -/
@[simp] theorem State.devVec_violations_eq (s : State) (k : Nat) : (s.devVec k).violations = s.violations := by
  unfold State.devVec
  split
  · rfl
  · dsimp only
    split
    · rfl
    · split
      · rfl
      · exact State.signal_violations_eq _ _ _

/-- A violation is one entry at the write position, which then counts on; the rest of it only reports (R321). -/
theorem State.vlog_logged (s : State) (kind action rid func ring : Nat) (hdr : BitVec 128) :
    Logged s (s.vlog kind action rid func ring hdr) kind action func ring := by
  have hlog : (s.vlog kind action rid func ring hdr).violations =
      (Tab.set s.hif.vlog (s.hif.vlogWr.toNat % 64)
        { uptime := s.now48, seq := s.hif.vlogWr.toNat, kind, action, rid, func, ring, hdr }, s.hif.vlogWr + 1) :=
    State.devVec_violations_eq _ 2
  obtain ⟨hentries, hwr⟩ := Prod.mk.inj hlog
  have hentry := (congrArg (Tab.get? · (s.hif.vlogWr.toNat % 64)) hentries).trans
    ((Tab.get?_set s.hif.vlog _ _ _).trans (if_pos rfl))
  exact ⟨vlog_report s _ _ _ _ _ _, hwr, _, hentry, rfl, rfl, rfl, rfl, rfl⟩

/-- The link's idle state is no part of what a log entry must leave. -/
theorem Logged.of_leaveL1 {s t : State} {kind action func ring : Nat} (h : Logged s.leaveL1 t kind action func ring) :
    Logged s t kind action func ring := h

/-! ### A host access that reaches its block: the DOZE trigger -/

@[simp] theorem State.touch_hif_eq (s : State) : s.touch.hif = s.hif := by rw [s.touch_eq_pwr]

@[simp] theorem State.touch_sys_eq (s : State) : s.touch.sys = s.sys := by rw [s.touch_eq_pwr]

/-- The link's idle state and the DOZE trigger are apart. -/
theorem State.leaveL1_touch (s : State) : s.leaveL1.touch = s.touch.leaveL1 := by
  unfold State.touch
  dsimp only [State.leaveL1_pwr_eq]
  split
  · rfl
  · split <;> rfl

/-- A host write that reaches a block of the host group, where that group answers (R528). -/
theorem State.hostAccess_host_of_answers {s : State} {f : Nat} (hr : s.reaches f = true) (ha : s.answers .host = true)
    (tlp : Option Tlp) (k : State → State) : s.hostAccess f tlp .host k = k s.leaveL1.touch := by
  rw [State.hostAccess_of_reaches hr, State.access_of_answers (b := .host) (by simpa using ha)]
  rfl

/-! ### The owners of the ring blocks -/

/-- Field i of a half of HIF_RBLK_OWNER. -/
theorem ownersOf_getD (v : Word) {i : Nat} (hi : i < 8) : (ownersOf v).getD i 0 = v.toNat / 2 ^ (4 * i) % 16 := by
  simp [ownersOf, List.getD_eq_getElem?_getD, hi, bitsAt]

@[simp] theorem ownersOf_length (v : Word) : (ownersOf v).length = 8 := by simp [ownersOf]

/-- Owners of blocks 0 to 7 once a half is written: block 0 stays the PF's (R298). -/
def lowOwnersWritten (owner : List Nat) (hi : Bool) (v : Word) : List Nat :=
  if hi then owner.take 8 else 0 :: (ownersOf v).drop 1

/-- Owners of blocks 8 to 15 once a half is written. -/
def highOwnersWritten (owner : List Nat) (hi : Bool) (v : Word) : List Nat :=
  if hi then ownersOf v else owner.drop 8

theorem lowOwnersWritten_length {owner : List Nat} (hlen : owner.length = 16) (hi : Bool) (v : Word) :
    (lowOwnersWritten owner hi v).length = 8 := by
  cases hi <;> simp [lowOwnersWritten, hlen]

/-- A block of the low half but block 0: its field where this half is written. -/
theorem lowOwnersWritten_getD (owner : List Nat) (hi : Bool) (v : Word) {b : Nat} (hb : 0 < b) (hb8 : b < 8) :
    (lowOwnersWritten owner hi v).getD b 0 = if hi then owner.getD b 0 else v.toNat / 2 ^ (4 * b) % 16 := by
  cases hi with
  | true => simp [lowOwnersWritten, List.getD_eq_getElem?_getD, hb8]
  | false =>
    obtain ⟨i, rfl⟩ : ∃ i, b = i + 1 := Nat.exists_eq_add_one.mpr hb
    have hfield : (0 :: (ownersOf v).drop 1).getD (i + 1) 0 = (ownersOf v).getD (i + 1) 0 := by
      simp [List.getD_eq_getElem?_getD]
    exact hfield.trans (ownersOf_getD v hb8)

/-- A block of the high half: its field where this half is written. -/
theorem highOwnersWritten_getD (owner : List Nat) (hi : Bool) (v : Word) {i : Nat} (hi8 : i < 8) :
    (highOwnersWritten owner hi v).getD i 0 = if hi then v.toNat / 2 ^ (4 * i) % 16 else owner.getD (8 + i) 0 := by
  cases hi with
  | true => exact ownersOf_getD v hi8
  | false => simp [highOwnersWritten, List.getD_eq_getElem?_getD]

/-- The owners of the 16 blocks once a half is written. -/
def ownersWritten (owner : List Nat) (hi : Bool) (v : Word) : List Nat :=
  lowOwnersWritten owner hi v ++ highOwnersWritten owner hi v

/-- A written half gives each of its blocks but block 0 to the function of its field, and leaves the other half. -/
theorem ownersWritten_getD {owner : List Nat} (hlen : owner.length = 16) (hi : Bool) (v : Word) {b : Nat} (hb : 0 < b)
    (hb16 : b < 16) :
    (ownersWritten owner hi v).getD b 0 =
      if (hi = true ∧ 8 ≤ b) ∨ (hi = false ∧ b < 8) then v.toNat / 2 ^ (4 * (b % 8)) % 16 else owner.getD b 0 := by
  have hlow := lowOwnersWritten_length hlen hi v
  rcases Nat.lt_or_ge b 8 with hb8 | hb8
  · rw [ownersWritten, List.getD_append _ _ _ _ (hlow ▸ hb8), lowOwnersWritten_getD owner hi v hb hb8, Nat.mod_eq_of_lt hb8]
    cases hi <;> simp [hb8]
  · have hfield : b % 8 = b - 8 := by omega
    have hblock : 8 + (b - 8) = b := by omega
    rw [ownersWritten, List.getD_append_right _ _ _ _ (hlow ▸ hb8), hlow,
      highOwnersWritten_getD owner hi v (by omega), hfield, hblock]
    cases hi <;> simp [hb8]

/-- The write of HIF_RBLK_OWNER or of its HI half, whichever `hi` says. -/
def State.ownerHalfWrite (s : State) (hi : Bool) (v : Word) (tlp : Tlp) : State :=
  if hi then s.ownerWrite none (some v) tlp else s.ownerWrite (some v) none tlp

/-- With VF Enable 0 and SYS_LOCK clear the half is stored. -/
theorem State.ownerHalfWrite_of_open {s : State} (hvf : s.hif.vfEn = false) (hlock : s.sys.lock = false) (hi : Bool)
    (v : Word) (tlp : Tlp) :
    s.ownerHalfWrite hi v tlp = { s with hif := { s.hif with owner := ownersWritten s.hif.owner hi v } } := by
  cases hi <;> simp [State.ownerHalfWrite, State.ownerWrite, ownersWritten, lowOwnersWritten,
    highOwnersWritten, hvf, hlock]

/-- With VF Enable 1 or SYS_LOCK set the write is a violation and no more. -/
theorem State.ownerHalfWrite_of_closed {s : State} (h : s.hif.vfEn = true ∨ s.sys.lock = true) (hi : Bool) (v : Word)
    (tlp : Tlp) : s.ownerHalfWrite hi v tlp = s.vlogTlp 0x10 0 0 0xFFFF tlp := by
  have hclosed : (s.hif.vfEn || s.sys.lock) = true := (Bool.or_eq_true _ _).mpr h
  cases hi <;> exact if_pos hclosed

/-- The write of HIF_RBLK_OWNER where the HIF block answers. -/
theorem exec_hifRblkOwnerWrite_of_answers {s : State} (hr : s.reaches 0 = true) (ha : s.answers .host = true) (hi : Bool)
    (v : Word) (tlp : Tlp) :
    exec (.hifRblkOwnerWrite hi v tlp) s = .next (s.leaveL1.touch.ownerHalfWrite hi v tlp) :=
  congrArg Host.Outcome.next (State.hostAccess_host_of_answers hr ha (some tlp) _)

/-! ### The owner of a ring -/

theorem State.ringFunc_block0 (s : State) {g : Nat} (hg : g < 64) : s.ringFunc g = 0 := if_pos hg

theorem State.ringFunc_of_ge (s : State) {g : Nat} (hg : 64 ≤ g) : s.ringFunc g = s.hif.owner.getD (g / 64) 0 :=
  if_neg (Nat.not_lt_of_le hg)

/-- Whom the rings belong to once a half of HIF_RBLK_OWNER is written (R298). -/
theorem State.ringFunc_of_ownersWritten {s t : State} {hi : Bool} {v : Word} (hlen : s.hif.owner.length = 16)
    (ht : t.hif.owner = ownersWritten s.hif.owner hi v) {g : Nat} (hg : g < 1024) :
    t.ringFunc g =
      if g < 64 then 0
      else if (hi = true ∧ 512 ≤ g) ∨ (hi = false ∧ g < 512) then v.toNat / 2 ^ (4 * (g / 64 % 8)) % 16
      else s.ringFunc g := by
  rcases Nat.lt_or_ge g 64 with h0 | h0
  · rw [t.ringFunc_block0 h0, if_pos h0]
  · have hb : 0 < g / 64 := by omega
    have hb16 : g / 64 < 16 := by omega
    have hhigh : 8 ≤ g / 64 ↔ 512 ≤ g := by omega
    have hlow : g / 64 < 8 ↔ g < 512 := by omega
    rw [t.ringFunc_of_ge h0, ht, ownersWritten_getD hlen hi v hb hb16, ← s.ringFunc_of_ge h0,
      if_neg (Nat.not_lt_of_le h0)]
    simp only [hhigh, hlow]

/-- Settles O28: block 0 is the PF's by the rule of `ringFunc`; an open write stores its half of the owners; a closed one
is the violation 0x10. -/
theorem ringBlockOwners : Obligations.RingBlockOwners := by
  intro s v hi tlp hr ha hlen
  have hexec := exec_hifRblkOwnerWrite_of_answers hr ha hi v tlp
  refine ⟨fun t g hg => t.ringFunc_block0 hg, fun hvf hlock => ?_, fun hclosed => ?_⟩
  · rw [State.ownerHalfWrite_of_open (by simpa using hvf) (by simpa using hlock), State.touch_hif_eq] at hexec
    exact ⟨_, hexec, rfl, fun g hg => State.ringFunc_of_ownersWritten hlen rfl hg⟩
  · rw [State.ownerHalfWrite_of_closed (by simpa using hclosed), s.leaveL1_touch] at hexec
    exact ⟨_, hexec, (State.vlog_logged _ _ _ _ _ _ _).of_leaveL1⟩

end Sys2Proof.Machine
end

section
/-! PROOFS. Host buffers staged on the ports of a loaded graph (R345). -/

namespace Sys2Proof.Machine

/-- A buffer put behind all that are staged. -/
def State.addStaged (s : State) (b : Staged) : State := { s with staged := s.staged ++ [b] }

/-- A step of the ledger stays one where the same buffer is staged before and after it. -/
theorem LedgerOnly.addStaged {s t : State} (h : LedgerOnly s t) (b : Staged) :
    LedgerOnly (s.addStaged b) (t.addStaged b) :=
  ⟨congrArg (fun u : State => u.addStaged b) h.1, h.2⟩

/-- A command that stages a buffer as it completes changes nothing else but the ledger. -/
theorem completeWith_addStaged_ledger (s : State) (r : Nat) (p : List Byte) (b : Staged) (e : End) :
    LedgerOnly (s.addStaged b) (s.completeWith r p (fun t => t.addStaged b) e) :=
  ((accept_ledger s r p .plain none 0).addStaged b).trans (completeWith_ledger s r p _ e)

/-- The record of a command that stages a buffer as it completes. -/
theorem completeWith_addStaged_recorded {s : State} {r op : Nat} {w : Bool} {p : List Byte} (b : Staged) (e : End)
    (hready : s.ready r op w = some p) (hrep : Reporting s r) :
    HeadRecorded s (s.completeWith r p (fun t => t.addStaged b) e) r p e :=
  completeWith_recorded _ e hready hrep (fun _ => rfl) (fun _ _ => rfl) (fun _ => rfl) (fun _ => rfl) (fun _ => rfl)

/-- The buffers staged on a port of a graph. -/
def State.stagedOn (s : State) (h port : Nat) : List Staged :=
  s.staged.filter (fun x => x.handle == h && x.port == port)

/-- The buffer that the parameters of TENSOR_IN and TENSOR_OUT name. -/
def bufferOf (p : List Byte) : Staged :=
  { handle := par p 0x10 2, port := par p 0x12 1, addr := BitVec.ofNat 64 (par p 0x18 8) }

section Stage

variable {s : State} {r op kind : Nat} {p : List Byte} {g : Graph} {o : PortRec}
  (hready : s.ready r op false = some p) (hg : s.liveGraph (par p 0x10 2) = some g)
  (ho : g.cgd.ports[par p 0x12 1]? = some o) (hkind : o.kind = kind) (hbytes : o.bytes = par p 0x14 4)
include hready hg ho hkind hbytes

/-- With the parameters sound, the number of buffers on the port alone decides. -/
theorem State.stage_eq_ite : s.stage r op kind =
    if 16 ≤ (s.stagedOn (par p 0x10 2) (par p 0x12 1)).length then s.refuse r p (endOf stCapacity 0)
    else s.completeWith r p (fun t => t.addStaged (bufferOf p)) endDone := by
  simp only [State.stage, onHead_some _ hready, hg, ho, if_neg (not_not_intro hkind), if_neg (not_not_intro hbytes)]
  rfl

theorem State.stage_of_room (hroom : (s.stagedOn (par p 0x10 2) (par p 0x12 1)).length < 16) :
    s.stage r op kind = s.completeWith r p (fun t => t.addStaged (bufferOf p)) endDone :=
  (State.stage_eq_ite hready hg ho hkind hbytes).trans (if_neg (Nat.not_le_of_lt hroom))

theorem State.stage_of_full (hfull : 16 ≤ (s.stagedOn (par p 0x10 2) (par p 0x12 1)).length) :
    s.stage r op kind = s.refuse r p (endOf stCapacity 0) :=
  (State.stage_eq_ite hready hg ho hkind hbytes).trans (if_pos hfull)

end Stage

/-- TENSOR_IN and TENSOR_OUT differ in their opcode and in the kind of port that they take (Table 13-4). -/
theorem exec_tensor (input : Bool) (r : Fin 1024) (s : State) :
    exec (if input then .tensorIn r else .tensorOut r) s =
      .next (s.stage r.val (if input then 0x14 else 0x15) (if input then 0 else 1)) := by
  cases input <;> rfl

/-- Settles O38: with fewer than 16 buffers on the port the command completes and stages its own; with 16 it refuses its
packet. -/
theorem tensorsStaged : Obligations.TensorsStaged := by
  intro s r p g o input hready hrep hg ho hkind hbytes
  have hexec := exec_tensor input r s
  refine ⟨fun hroom => ?_, fun hfull => ?_⟩
  · rw [State.stage_of_room hready hg ho hkind hbytes hroom] at hexec
    exact ⟨_, hexec, completeWith_addStaged_recorded (bufferOf p) endDone hready hrep,
      completeWith_addStaged_ledger s r.val p (bufferOf p) endDone⟩
  · rw [State.stage_of_full hready hg ho hkind hbytes hfull] at hexec
    obtain ⟨t, ht, hledger, hrecord⟩ := yields_of_refuse hready hrep hexec
    exact ⟨t, ht, hrecord, hledger⟩

end Sys2Proof.Machine
end

section
/-! PROOFS. The SYS block left alone: what it means of an outcome, of a continuation and of a fold; and the weaker claim that
a set LOCK stays set. The sections that follow go through the operations file by file of the model: most leave the SYS block,
and the few that write another field of it leave LOCK. -/

namespace Sys2Proof.Machine

/-- The outcome leaves the SYS block. -/
def SysKept (s : State) (o : Host.Outcome State Fault Refusal) : Prop := ∀ t, o = .next t → t.sys = s.sys

@[simp] theorem sysKept_next {s t : State} : SysKept s (.next t) ↔ t.sys = s.sys :=
  ⟨fun h => h t rfl, fun h _ e => by cases e; exact h⟩

@[simp] theorem sysKept_fault (s : State) (f : Fault) : SysKept s (.fault f) := fun _ e => by cases e

/-- The outcome does not clear LOCK. -/
def HoldsLock (s : State) (o : Host.Outcome State Fault Refusal) : Prop :=
  ∀ t, o = .next t → s.sys.lock = true → t.sys.lock = true

@[simp] theorem holdsLock_next {s t : State} : HoldsLock s (.next t) ↔ (s.sys.lock = true → t.sys.lock = true) :=
  ⟨fun h => h t rfl, fun h _ e => by cases e; exact h⟩

theorem SysKept.holdsLock {s : State} {o : Host.Outcome State Fault Refusal} (h : SysKept s o) :
    HoldsLock s o := fun t ho hlock => by rw [h t ho, hlock]

theorem holdsLock_next_of_eq {s t : State} (h : t.sys.lock = s.sys.lock) : HoldsLock s (.next t) := by
  rw [holdsLock_next, h]
  exact id

/-- A continuation leaves the SYS block. -/
def KeepsSys (k : State → State) : Prop := ∀ u, (k u).sys = u.sys

@[simp] theorem keepsSys_iff (k : State → State) : KeepsSys k ↔ ∀ u, (k u).sys = u.sys := Iff.rfl

/-- A step over the entries of a list leaves the SYS block. -/
def StepKeepsSys {α : Type} (f : State → α → State) : Prop := ∀ s a, (f s a).sys = s.sys

@[simp] theorem stepKeepsSys_iff {α : Type} (f : State → α → State) :
    StepKeepsSys f ↔ ∀ s a, (f s a).sys = s.sys := Iff.rfl

@[simp] theorem foldl_sys_eq {α : Type} (l : List α) (f : State → α → State) (h : StepKeepsSys f) (s : State) :
    (l.foldl f s).sys = s.sys := by
  induction l generalizing s with
  | nil => rfl
  | cons a l ih => exact (ih (f s a)).trans (h s a)

/-- The same for a fold that gathers something beside the state. -/
theorem foldl_fst_sys_eq {α β : Type} (l : List α) (f : State × β → α → State × β)
    (h : ∀ acc a, (f acc a).1.sys = acc.1.sys) (acc : State × β) : (l.foldl f acc).1.sys = acc.1.sys := by
  induction l generalizing acc with
  | nil => rfl
  | cons a l ih => exact (ih (f acc a)).trans (h acc a)

end Sys2Proof.Machine
end

section
/-! PROOFS. The SYS block left alone: sending, interrupting and logging. -/

namespace Sys2Proof.Machine

@[simp] theorem State.post_sys_eq (s0 : State) (e : Emit) (credit src : Option (Nat × Nat)) :
    (s0.post e credit src).sys = s0.sys := (post_report _ _ _ _).sys_eq

@[simp] theorem State.postWrite_sys_eq (s : State) (f : Nat) (addr : DWord) (bytes : List Byte) (relaxed : Bool)
    (credit src : Option (Nat × Nat)) : (s.postWrite f addr bytes relaxed credit src).sys = s.sys :=
  (postWrite_report _ _ _ _ _ _ _).sys_eq

@[simp] theorem State.issueRead_sys_eq (s : State) (f : Nat) (addr : DWord) (len : Nat) :
    (s.issueRead f addr len).sys = s.sys := (issueRead_report _ _ _ _).sys_eq

@[simp] theorem State.devVec_sys_eq (s : State) (k : Nat) : (s.devVec k).sys = s.sys := (devVec_report _ _).sys_eq

@[simp] theorem State.vlog_sys_eq (s : State) (kind action rid func ring : Nat) (hdr : BitVec 128) :
    (s.vlog kind action rid func ring hdr).sys = s.sys := (vlog_report _ _ _ _ _ _ _).sys_eq

@[simp] theorem State.vlogTlp_sys_eq (s : State) (kind action func ring : Nat) (t : Tlp) :
    (s.vlogTlp kind action func ring t).sys = s.sys := (vlogTlp_report _ _ _ _ _ _).sys_eq

@[simp] theorem State.dlog_sys_eq (s : State) (source event : Nat) (arg0 : Word) (arg1 : DWord) :
    (s.dlog source event arg0 arg1).sys = s.sys := by simp [State.dlog]

@[simp] theorem State.signalRing_sys_eq (s : State) (g : Nat) : (s.signalRing g).sys = s.sys :=
  (signalRing_ledger _ _).sys_eq

end Sys2Proof.Machine
end

section
/-! PROOFS. The SYS block left alone: fetches, the head packet, completion records and the end of a command. -/

namespace Sys2Proof.Machine

@[simp] theorem State.fetchWork_sys_eq (s : State) : s.fetchWork.sys = s.sys := (fetchWork_ledger _).sys_eq

@[simp] theorem State.dropResults_sys_eq (s : State) (cid : Option Nat) (g : Nat) :
    (s.dropResults cid g).sys = s.sys := (dropResults_ledger _ _ _).sys_eq

@[simp] theorem State.closeSessions_sys_eq (fuel : Nat) (s : State) : (s.closeSessions fuel).sys = s.sys :=
  (closeSessions_ledger _ _).sys_eq

@[simp] theorem State.lcsLast_sys_eq (s : State) (status check : Nat) : (s.lcsLast status check).sys = s.sys := rfl

@[simp] theorem State.settle_sys_eq (s : State) (g : Nat) : (s.settle g).sys = s.sys := (settle_ledger _ _).sys_eq

@[simp] theorem State.finish_sys_eq (s : State) (c : Nat) (e : End) : (s.finish c e).sys = s.sys :=
  (finish_ledger _ _ _).sys_eq

@[simp] theorem State.accept_sys_eq (s : State) (g : Nat) (p : List Byte) (body : Body) (deadline : Option Nat)
    (power : Nat) : (s.accept g p body deadline power).sys = s.sys := rfl

@[simp] theorem State.complete_sys_eq (s : State) (g : Nat) (p : List Byte) (e : End) :
    (s.complete g p e).sys = s.sys := (complete_ledger _ _ _ _).sys_eq

@[simp] theorem State.onHead_sys_eq (s : State) (g op : Nat) (barrier : Bool) (k : List Byte → State)
    (hk : ∀ p, (k p).sys = s.sys) : (s.onHead g op barrier k).sys = s.sys := by
  unfold State.onHead
  split
  · rfl
  · exact hk _

@[simp] theorem State.dropRing_sys_eq (s : State) (g : Nat) : (s.dropRing g).sys = s.sys :=
  (dropRing_ledger _ _).sys_eq

@[simp] theorem State.haltRing_sys_eq (s : State) (g cause : Nat) (addr : DWord) :
    (s.haltRing g cause addr).sys = s.sys := (haltRing_ledger _ _ _ _).sys_eq

end Sys2Proof.Machine
end

section
/-! PROOFS. The SYS block left alone: host accesses and the DOZE trigger. -/

namespace Sys2Proof.Machine

@[simp] theorem State.access_sys_eq (s : State) (b : BlockGroup) (k : State → State) (hk : KeepsSys k) :
    (s.access b k).sys = s.sys := by
  unfold State.access
  split
  · rfl
  · rw [hk]
    split <;> simp

@[simp] theorem State.misbehave_sys_eq (s : State) (kind action func : Nat) (tlp : Tlp) :
    (s.misbehave kind action func tlp).sys = s.sys := by simp [State.misbehave, apply_ite State.sys]

@[simp] theorem State.anyTlp_sys_eq (s : State) : (s.anyTlp).2.sys = s.sys := rfl

@[simp] theorem State.noBar_sys_eq (s : State) (f : Nat) (isRead : Bool) (tlp : Option Tlp) :
    (s.noBar f isRead tlp).sys = s.sys := by
  unfold State.noBar
  repeat' split
  all_goals simp

@[simp] theorem State.hostAccess_sys_eq (s : State) (f : Nat) (tlp : Option Tlp) (b : BlockGroup) (k : State → State)
    (hk : KeepsSys k) : (s.hostAccess f tlp b k).sys = s.sys := by
  unfold State.hostAccess
  split
  · rfl
  · split <;> simp [hk _]

/-- LOCK is set after either branch. -/
theorem lock_ite {c : Prop} [Decidable c] {s t : State} (hs : s.sys.lock = true) (ht : t.sys.lock = true) :
    (if c then s else t).sys.lock = true := by
  split
  · exact hs
  · exact ht

theorem State.access_lock_mono {s : State} {b : BlockGroup} {k : State → State}
    (hk : ∀ u, u.sys.lock = true → (k u).sys.lock = true) (h : s.sys.lock = true) : (s.access b k).sys.lock = true := by
  unfold State.access
  exact lock_ite h (hk _ (lock_ite h (by simp [h])))

theorem State.hostAccess_lock_mono {s : State} {f : Nat} {tlp : Option Tlp} {b : BlockGroup} {k : State → State}
    (hk : ∀ u, u.sys.lock = true → (k u).sys.lock = true) (h : s.sys.lock = true) :
    (s.hostAccess f tlp b k).sys.lock = true := by
  unfold State.hostAccess
  exact lock_ite h (lock_ite (by simp [h]) (State.access_lock_mono hk h))

@[simp] theorem State.hostRead_sys_eq (s : State) (f : Nat) (tlp : Option Tlp) (b : BlockGroup) (len : Nat)
    (k : State → State) (data : State → List Byte) (hk : KeepsSys k) :
    (s.hostRead f tlp b len k data).sys = s.sys := by
  unfold State.hostRead
  repeat' split
  all_goals simp [hk _]

@[simp] theorem State.dmaWrite_sys_eq (s : State) (cid : Nat) (addr : DWord) (bytes : List Byte) (relaxed : Bool) :
    (s.dmaWrite cid addr bytes relaxed).sys = s.sys := (dmaWrite_ledger _ _ _ _ _).sys_eq

@[simp] theorem State.dmaRead_sys_eq (s : State) (f : Nat) (addr : DWord) (len : Nat) :
    (s.dmaRead f addr len).sys = s.sys := by simp [State.dmaRead, apply_ite State.sys]

@[simp] theorem State.releaseReads_sys_eq (s : State) : s.releaseReads.sys = s.sys := by simp [State.releaseReads]

@[simp] theorem State.readFailed_sys_eq (s : State) (g kind : Nat) : (s.readFailed g kind).sys = s.sys := by
  simp [State.readFailed, apply_ite State.sys]

@[simp] theorem State.completeWith_sys_eq (s : State) (g : Nat) (p : List Byte) (k : State → State) (e : End)
    (hk : KeepsSys k) : (s.completeWith g p k e).sys = s.sys := by simp [State.completeWith, hk _]

@[simp] theorem State.refuse_sys_eq (s : State) (g : Nat) (p : List Byte) (e : End) :
    (s.refuse g p e).sys = s.sys := (refuse_ledger _ _ _ _).sys_eq

end Sys2Proof.Machine
end

section
/-! PROOFS. The SYS block left alone: terrace staging and the power estimate. -/

namespace Sys2Proof.Machine

@[simp] theorem State.notePeak_sys_eq (s : State) : s.notePeak.sys = s.sys := rfl

@[simp] theorem State.stageMore_sys_eq (fuel : Nat) (s : State) : (s.stageMore fuel).sys = s.sys := by
  induction fuel generalizing s with
  | zero => rfl
  | succ fuel ih =>
    unfold State.stageMore
    dsimp only
    repeat' split
    all_goals simp [ih]

@[simp] theorem State.needTerrace_sys_eq (s : State) (t : Nat) : (s.needTerrace t).sys = s.sys := by
  simp [State.needTerrace, apply_ite State.sys]

@[simp] theorem State.needTerraces_sys_eq (s : State) (ts : List Nat) : (s.needTerraces ts).sys = s.sys := by
  simp [State.needTerraces]

@[simp] theorem State.wakePeriph_sys_eq (s : State) (n : Nat) : (s.wakePeriph n).sys = s.sys := by
  simp [State.wakePeriph, apply_ite State.sys]

@[simp] theorem State.usePeriph_sys_eq (s : State) (n : Nat) : (s.usePeriph n).sys = s.sys := by
  unfold State.usePeriph
  split <;> rfl

end Sys2Proof.Machine
end

section
/-! PROOFS. The SYS block left alone: the frames of the cascade link. -/

namespace Sys2Proof.Machine

@[simp] theorem State.updPort_sys_eq (s : State) (up : Bool) (f : CascPort → CascPort) :
    (s.updPort up f).sys = s.sys := rfl

@[simp] theorem State.sendFrame_sys_eq (s : State) (up : Bool) (slots : List FlitSlot) (nak : Bool) :
    (s.sendFrame up slots nak).sys = s.sys := rfl

@[simp] theorem State.sendFlits_sys_eq (fuel : Nat) (s : State) (up : Bool) (flits : List FlitSlot) :
    (s.sendFlits fuel up flits).sys = s.sys := by
  induction fuel generalizing s flits with
  | zero => cases flits <;> rfl
  | succ fuel ih =>
    cases flits with
    | nil => rfl
    | cons x xs => simp [State.sendFlits, ih]

@[simp] theorem State.bridgeSend_sys_eq (s : State) (up : Bool) : (s.bridgeSend up).sys = s.sys := by
  simp [State.bridgeSend, apply_ite State.sys]

end Sys2Proof.Machine
end

section
/-! PROOFS. The SYS block left alone: packets on the rill, buffers and credits. -/

namespace Sys2Proof.Machine

@[simp] theorem State.failRun_sys_eq (s : State) (h seq t : Nat) : (s.failRun h seq t).sys = s.sys := by
  unfold State.failRun
  split <;> rfl

@[simp] theorem State.noteBehind_sys_eq (s : State) (p : Packet) : (s.noteBehind p).sys = s.sys := by
  unfold State.noteBehind
  dsimp only
  split <;> simp

@[simp] theorem State.delayRuns_sys_eq (s : State) (g : Nat) (which : Run → Bool) :
    (s.delayRuns g which).sys = s.sys := rfl

@[simp] theorem State.badPacket_sys_eq (s : State) (p : Packet) (t : Nat) : (s.badPacket p t).sys = s.sys := by
  simp [State.badPacket]

@[simp] theorem State.uncorrectable_sys_eq (s : State) (t : Nat) (f : Terrace → Terrace) :
    (s.uncorrectable t f).sys = s.sys := by simp [State.uncorrectable]

@[simp] theorem State.transit_sys_eq (s : State) (p : Packet) : (s.transit p).1.sys = s.sys := by
  unfold State.transit
  split <;> simp

@[simp] theorem State.crossHop_sys_eq (s : State) (p : Packet) (h : Hop) : (s.crossHop p h).sys = s.sys := rfl

@[simp] theorem State.leaveRill_sys_eq (s : State) (p : Packet) : (s.leaveRill p).sys = s.sys := by
  simp [State.leaveRill]

@[simp] theorem State.bridgeOn_sys_eq (s : State) (p : Packet) : (s.bridgeOn p).sys = s.sys := by
  unfold State.bridgeOn
  split <;> simp

@[simp] theorem State.bridge_sys_eq (s : State) (p : Packet) : (s.bridge p).sys = s.sys := by
  simp [State.bridge, apply_ite State.sys]

@[simp] theorem State.flushBridge_sys_eq (s : State) : s.flushBridge.sys = s.sys := by simp [State.flushBridge]

@[simp] theorem State.enterRill_sys_eq (s : State) (p : Packet) : (s.enterRill p).sys = s.sys := by
  simp [State.enterRill]

@[simp] theorem State.send_sys_eq (s : State) (p : Packet) : (s.send p).sys = s.sys := by
  simp [State.send, apply_ite State.sys]

@[simp] theorem State.holdRoute_sys_eq (s : State) (h seq t : Nat) : (s.holdRoute h seq t).sys = s.sys := by
  unfold State.holdRoute
  split <;> rfl

@[simp] theorem State.arrive_sys_eq (s : State) (p : Packet) (k : State → State) (hk : KeepsSys k) :
    (s.arrive p k).sys = s.sys := by
  unfold State.arrive
  split
  · rfl
  split
  · simp
  split
  · simp
  dsimp only
  split
  · simp
  · rw [apply_ite State.sys, hk, ite_self]
    simp [apply_ite State.sys]

@[simp] theorem State.writeBuffer_sys_eq (s : State) (g : Graph) (slot buf half seq : Nat) (bs : List Byte)
    (poison : Bool) : (s.writeBuffer g slot buf half seq bs poison).sys = s.sys := by
  unfold State.writeBuffer
  split <;> rfl

@[simp] theorem State.writeSlot_sys_eq (s : State) (p : Packet) : (s.writeSlot p).sys = s.sys := by
  unfold State.writeSlot
  repeat' split
  all_goals simp

@[simp] theorem State.sendCredit_sys_eq (s : State) (g : Graph) (idx fromTer : Nat) (fromEngine : Bool) (seq : Nat) :
    (s.sendCredit g idx fromTer fromEngine seq).sys = s.sys := by
  unfold State.sendCredit
  repeat' split
  all_goals simp

@[simp] theorem State.deliverPorts_sys_eq (fuel : Nat) (s : State) (h : Nat) :
    (s.deliverPorts fuel h).sys = s.sys := by
  induction fuel generalizing s with
  | zero => rfl
  | succ fuel ih =>
    unfold State.deliverPorts
    dsimp only
    repeat' split
    all_goals simp [ih]

@[simp] theorem State.portData_sys_eq (s : State) (h port seq : Nat) (bs : List Byte) :
    (s.portData h port seq bs).sys = s.sys := by simp [State.portData]

@[simp] theorem State.postDone_sys_eq (s : State) (p : Posted) : (s.postDone p).sys = s.sys := by
  unfold State.postDone
  dsimp only
  repeat' split
  all_goals simp

@[simp] theorem State.writeOutput_sys_eq (s : State) (cid ring : Nat) (addr : DWord) (bytes : List Byte)
    (credit : Nat × Nat) : (s.writeOutput cid ring addr bytes credit).sys = s.sys := by
  simp [State.writeOutput, apply_ite State.sys]

@[simp] theorem State.engineData_sys_eq (s : State) (p : Packet) : (s.engineData p).sys = s.sys := by
  unfold State.engineData
  dsimp only
  repeat' split
  all_goals simp

@[simp] theorem execActData_sysKept (p : Packet) (s : State) : SysKept s (execActData p s) := by
  simp [execActData, apply_ite State.sys]

@[simp] theorem execTensorData_sysKept (p : Packet) (s : State) : SysKept s (execTensorData p s) := by
  simp [execTensorData, apply_ite State.sys]

@[simp] theorem execReadReq_sysKept (p : Packet) (s : State) : SysKept s (execReadReq p s) := by
  refine sysKept_next.mpr (s.arrive_sys_eq p _ (fun t => ?_))
  repeat' split
  all_goals simp

@[simp] theorem execReadData_sysKept (p : Packet) (s : State) : SysKept s (execReadData p s) := by
  refine sysKept_next.mpr (s.arrive_sys_eq p _ (fun t => ?_))
  repeat' split
  all_goals simp

@[simp] theorem execCredit_sysKept (p : Packet) (s : State) : SysKept s (execCredit p s) := by
  simp [execCredit, apply_ite State.sys]

@[simp] theorem execPrewake_sysKept (p : Packet) (s : State) : SysKept s (execPrewake p s) := by
  simp [execPrewake, apply_ite State.sys]

@[simp] theorem execMoatSet_sysKept (p : Packet) (s : State) : SysKept s (execMoatSet p s) := by
  simp [execMoatSet, apply_ite State.sys]

@[simp] theorem execForwardPacket_sysKept (handle place edge : Nat) (cis : Fin 3) (s : State) :
    SysKept s (execForwardPacket handle place edge cis s) := by
  unfold execForwardPacket
  repeat' split
  all_goals simp

end Sys2Proof.Machine
end

section
/-! PROOFS. The SYS block left alone: mirror records on the active device. -/

namespace Sys2Proof.Machine

@[simp] theorem State.mirrorPump_sys_eq (fuel : Nat) (s : State) (k : Nat) : (s.mirrorPump fuel k).sys = s.sys := by
  induction fuel generalizing s with
  | zero => rfl
  | succ fuel ih =>
    unfold State.mirrorPump
    dsimp only
    repeat' split
    all_goals simp [ih]

@[simp] theorem State.mirrorPush_sys_eq (s : State) (k ring tag opcode handle runSeq : Nat)
    (parts : List (Nat × List Byte × Option (Nat × Nat))) (cmdFirst cmdLast : Bool) :
    (s.mirrorPush k ring tag opcode handle runSeq parts cmdFirst cmdLast).sys = s.sys := by simp [State.mirrorPush]

@[simp] theorem State.mirrorCmd_sys_eq (s : State) (c : Nat) (devs : List Nat) (handle runSeq : Nat)
    (parts : Nat → List (Nat × List Byte × Option (Nat × Nat))) (cmdFirst cmdLast : Bool) :
    (s.mirrorCmd c devs handle runSeq parts cmdFirst cmdLast).sys = s.sys := by
  unfold State.mirrorCmd
  split <;> simp [apply_ite State.sys]

@[simp] theorem State.releaseHeld_sys_eq (fuel : Nat) (s : State) : (s.releaseHeld fuel).sys = s.sys := by
  induction fuel generalizing s with
  | zero => rfl
  | succ fuel ih =>
    unfold State.releaseHeld
    split <;> simp [ih]

@[simp] theorem State.mirrorStop_sys_eq (s : State) : s.mirrorStop.sys = s.sys := by simp [State.mirrorStop]

end Sys2Proof.Machine
end

section
/-! PROOFS. The SYS block left alone: loading, staging and unloading graphs. -/

namespace Sys2Proof.Machine

@[simp] theorem State.pick_sys_eq (s : State) (n : Nat) (ok : Nat → Bool) : (s.pick n ok).2.sys = s.sys := rfl

@[simp] theorem State.pickOr_sys_eq (s : State) (first : Bool) (n : Nat) (ok : Nat → Bool) :
    (s.pickOr first n ok).2.sys = s.sys := by
  unfold State.pickOr
  split <;> rfl

@[simp] theorem State.placeSlot_sys_eq (s : State) (first : Bool) (c : Cgd) (taken : List Slot) (i : Nat) (x : SlotRec) :
    (s.placeSlot first c taken i x).2.sys = s.sys := by
  unfold State.placeSlot
  dsimp only
  repeat' split
  all_goals simp

@[simp] theorem State.placeFrom_sys_eq (s : State) (first : Bool) (c : Cgd) (taken : List Slot) (i : Nat)
    (recs : List SlotRec) : (s.placeFrom first c taken i recs).2.sys = s.sys := by
  induction recs generalizing s taken i with
  | nil => rfl
  | cons x xs ih =>
    have hx := s.placeSlot_sys_eq first c taken i x
    unfold State.placeFrom
    split
    · next s' hs' => simpa [hs'] using hx
    · next y s' hs' =>
      rw [hs'] at hx
      have hxs := ih s' (taken ++ [y]) (i + 1)
      split
      · next ys t ht => simpa [ht] using hxs.trans hx
      · next k t ht => simpa [ht] using hxs.trans hx

@[simp] theorem State.placeSlots_sys_eq (s : State) (c : Cgd) (taken : List Slot) (recs : List SlotRec) :
    (s.placeSlots c taken recs).2.sys = s.sys := by
  have hplace := s.placeFrom_sys_eq false c taken 0 recs
  unfold State.placeSlots
  split
  · next l t ht => simpa [ht] using hplace
  · next k t ht => simpa [ht] using hplace

@[simp] theorem State.presetDelay_sys_eq (s : State) (h seq : Nat) : (s.presetDelay h seq).sys = s.sys := by
  unfold State.presetDelay
  split
  · rfl
  · refine foldl_sys_eq _ _ (fun t e => ?_) _
    repeat' split
    all_goals simp

@[simp] theorem State.install_sys_eq (s : State) (g : Graph) : (s.install g).sys = s.sys := by simp [State.install]

@[simp] theorem State.tellMembers_sys_eq (s : State) (cid : Nat) (g : Graph) (w : Work) :
    (s.tellMembers cid g w).sys = s.sys := by
  unfold State.tellMembers
  repeat' split
  all_goals simp

@[simp] theorem State.numberShadows_sys_eq (s : State) (c : Cmd) (g : Graph) :
    (s.numberShadows c g).sys = s.sys := by simp [State.numberShadows, apply_ite State.sys]

@[simp] theorem execGraphLoad_sysKept (ring : Fin 1024) (s : State) : SysKept s (execGraphLoad ring s) := by
  simp [execGraphLoad, apply_ite State.sys]

@[simp] theorem State.loadGraph_sys_eq (s : State) (c : Cmd) (b : List Byte) (len : Nat) (bind : Bool)
    (offset window : Nat) : (s.loadGraph c b len bind offset window).sys = s.sys := by
  have hplace := s.placeSlots_sys_eq (parseCgd b) s.reservedSlots (parseCgd b).slots
  unfold State.loadGraph
  split
  · simp
  split
  · simp
  dsimp only
  split
  · simp
  next slots s1 hslots =>
    have hs1 : s1.sys = s.sys := by simpa [hslots] using hplace
    split
    · simp
    split
    · simp
    · simp [hs1]

@[simp] theorem execCgdReadComplete_sysKept (cid : Nat) (result : ReadResult) (s : State) :
    SysKept s (execCgdReadComplete cid result s) := by
  unfold execCgdReadComplete
  repeat' split
  all_goals simp

@[simp] theorem State.dropBanks_sys_eq (s : State) (ters : List Nat) : (s.dropBanks ters).sys = s.sys := by
  simp [State.dropBanks, apply_ite State.sys]

@[simp] theorem State.releaseGraph_sys_eq (s : State) (g : Graph) : (s.releaseGraph g).sys = s.sys := by
  simp [State.releaseGraph]

@[simp] theorem execGraphUnload_sysKept (ring : Fin 1024) (s : State) : SysKept s (execGraphUnload ring s) := by
  refine sysKept_next.mpr (s.onHead_sys_eq _ _ _ _ (fun p => ?_))
  dsimp only
  repeat' split
  all_goals simp

@[simp] theorem execGraphRelease_sysKept (handle : Nat) (s : State) : SysKept s (execGraphRelease handle s) := by
  unfold execGraphRelease
  repeat' split
  all_goals simp

@[simp] theorem execLayerThreshold_sysKept (ring : Fin 1024) (s : State) :
    SysKept s (execLayerThreshold ring s) := by
  refine sysKept_next.mpr (s.onHead_sys_eq _ _ _ _ (fun p => ?_))
  dsimp only
  repeat' split
  all_goals simp

@[simp] theorem execExactMode_sysKept (ring : Fin 1024) (s : State) : SysKept s (execExactMode ring s) := by
  refine sysKept_next.mpr (s.onHead_sys_eq _ _ _ _ (fun p => ?_))
  dsimp only
  repeat' split
  all_goals simp

@[simp] theorem State.stage_sys_eq (s : State) (r op kind : Nat) : (s.stage r op kind).sys = s.sys := by
  refine s.onHead_sys_eq r op false _ (fun p => ?_)
  dsimp only
  repeat' split
  all_goals simp

@[simp] theorem execTensorIn_sysKept (ring : Fin 1024) (s : State) : SysKept s (execTensorIn ring s) := by
  simp [execTensorIn]

@[simp] theorem execTensorOut_sysKept (ring : Fin 1024) (s : State) : SysKept s (execTensorOut ring s) := by
  simp [execTensorOut]

end Sys2Proof.Machine
end

section
/-! PROOFS. The SYS block left alone: firings, evaluations that complete, and the trims. -/

namespace Sys2Proof.Machine

@[simp] theorem State.prewakeConsumers_sys_eq (s : State) (g : Graph) (p : Placement) (seq : Nat) :
    (s.prewakeConsumers g p seq).sys = s.sys := by
  unfold State.prewakeConsumers
  refine foldl_sys_eq _ _ (fun t i => ?_) _
  split
  · rfl
  · split <;> simp

@[simp] theorem State.releaseInput_sys_eq (s : State) (g : Graph) (p : Placement) (inp : Option (Nat × Slot × Buffer))
    (buf : Nat) :
    (s.releaseInput g p inp buf).sys = s.sys := by
  unfold State.releaseInput
  split <;> simp

@[simp] theorem State.fire_sys_eq (s : State) (g : Graph) (place : Nat) (p : Placement) (z : Score) (phys : List Nat)
    (inp : Option (Nat × Slot × Buffer)) (corrected : Bool) : (s.fire g place p z phys inp corrected).sys = s.sys := by
  unfold State.fire
  extract_lets bytes zmap ev allSkipped bottom low trims reads s1 s2 s3 s4 s5
  have hcount : s5.sys = s.sys := by
    unfold s5
    split <;> rfl
  simp [hcount]

@[simp] theorem execBasinFire_sysKept (handle place : Nat) (cis : Fin 3) (s : State) :
    SysKept s (execBasinFire handle place cis s) := by
  unfold execBasinFire
  dsimp only
  repeat' split
  all_goals simp

@[simp] theorem execEvaluationComplete_sysKept (handle place : Nat) (s : State) :
    SysKept s (execEvaluationComplete handle place s) := by
  unfold execEvaluationComplete
  dsimp only
  repeat' split
  all_goals simp

@[simp] theorem State.track_sys_eq (s : State) (r : TrackRead) : (s.track r).sys = s.sys := rfl

@[simp] theorem execTrackingEvaluation_sysKept (read : TrackRead) (s : State) :
    SysKept s (execTrackingEvaluation read s) := by
  unfold execTrackingEvaluation
  split <;> simp [apply_ite State.sys]

@[simp] theorem execRideAlongWindow_sysKept (basin : Fin 4096) (s : State) :
    SysKept s (execRideAlongWindow basin s) := by simp [execRideAlongWindow, apply_ite State.sys]

end Sys2Proof.Machine
end

section
/-! PROOFS. The SYS block left alone: the cameras and intake units. -/

namespace Sys2Proof.Machine

@[simp] theorem State.countCorrected_sys_eq (s : State) (port : Nat) (corrected : Bool) :
    (s.countCorrected port corrected).sys = s.sys := by simp [State.countCorrected, apply_ite State.sys]

@[simp] theorem execCsiFrameStart_sysKept (port : Fin 2) (head : CsiShort) (s : State) :
    SysKept s (execCsiFrameStart port head s) := by simp [execCsiFrameStart, apply_ite State.sys]

@[simp] theorem execCsiFrameEnd_sysKept (port : Fin 2) (head : CsiShort) (s : State) :
    SysKept s (execCsiFrameEnd port head s) := by simp [execCsiFrameEnd, apply_ite State.sys]

@[simp] theorem execCsiLongPacket_sysKept (port : Fin 2) (vc : Fin 4) (dt : Nat) (corrected dropped crcOk : Bool)
    (payload : List Byte) (s : State) :
    SysKept s (execCsiLongPacket port vc dt corrected dropped crcOk payload s) := by
  simp [execCsiLongPacket, apply_ite State.sys]

@[simp] theorem execCsiConfig_sysKept (ring : Fin 1024) (s : State) : SysKept s (execCsiConfig ring s) := by
  simp [execCsiConfig, apply_ite State.sys]

@[simp] theorem execLaneStopState_sysKept (port : Fin 2) (stop : BitVec 4) (clkHs deskew : Bool) (s : State) :
    SysKept s (execLaneStopState port stop clkHs deskew s) := by simp [execLaneStopState, apply_ite State.sys]

@[simp] theorem execIntakeConfig_sysKept (ring : Fin 1024) (s : State) : SysKept s (execIntakeConfig ring s) := by
  refine sysKept_next.mpr (s.onHead_sys_eq _ _ _ _ (fun p => ?_))
  dsimp only
  repeat' split
  all_goals simp

@[simp] theorem State.takeFrames_sys_eq (s : State) (h : Nat) : (s.takeFrames h).1.sys = s.sys := by
  refine foldl_fst_sys_eq _ _ (fun acc i => ?_) _
  dsimp only
  split
  · rfl
  · exact acc.1.updUnit_sys_eq i _

@[simp] theorem State.feedPorts_sys_eq (s : State) (cid source : Nat) : (s.feedPorts cid source).sys = s.sys := by
  unfold State.feedPorts
  repeat' split
  all_goals simp

@[simp] theorem execIntakeDelivery_sysKept (cid : Nat) (unit : Fin 2) (s : State) :
    SysKept s (execIntakeDelivery cid unit s) := by simp [execIntakeDelivery]

end Sys2Proof.Machine
end

section
/-! PROOFS. The SYS block left alone: the sluice and the runs. -/

namespace Sys2Proof.Machine

@[simp] theorem State.takeStaged_sys_eq (s : State) (g : Graph) : (s.takeStaged g).1.sys = s.sys := by
  refine foldl_fst_sys_eq _ _ (fun acc i => ?_) _
  repeat' split
  all_goals rfl

@[simp] theorem State.readInputs_sys_eq (s : State) (g : Graph) (f : Nat) (bufs : List (Nat × Option DWord)) :
    (s.readInputs g f bufs).sys = s.sys := by
  unfold State.readInputs
  refine foldl_sys_eq _ _ (fun t c => ?_) _
  repeat' split
  all_goals simp

@[simp] theorem State.admitRun_sys_eq (s : State) (r : Nat) (p : List Byte) (g : Graph) (start bound : Nat)
    (window : Option (Nat × Nat)) (notBefore : Nat) (deadline : Option Nat) :
    (s.admitRun r p g start bound window notBefore deadline).sys = s.sys := by simp [State.admitRun]

@[simp] theorem State.refuseRun_sys_eq (s : State) (r : Nat) (p : List Byte) (e : End) :
    (s.refuseRun r p e).sys = s.sys := by simp [State.refuseRun]

@[simp] theorem State.decideRun_sys_eq (s : State) (r : Nat) (p : List Byte) : (s.decideRun r p).sys = s.sys := by
  unfold State.decideRun
  dsimp only
  repeat' split
  all_goals simp

@[simp] theorem State.bookWindow_sys_eq (s : State) (r : Nat) (p : List Byte) (g : Graph) (f : Nat × Nat)
    (frame last : Nat) : (s.bookWindow r p g f frame last).sys = s.sys := by simp [State.bookWindow]

@[simp] theorem State.afterFire_sys_eq (s : State) (r : Nat) (p : List Byte) (g : Graph) (f : Nat × Nat) (frame : Nat) :
    (s.afterFire r p g f frame).sys = s.sys := by simp [State.afterFire, apply_ite State.sys]

@[simp] theorem State.decideFrame_sys_eq (s : State) (r : Nat) (p : List Byte) :
    (s.decideFrame r p).sys = s.sys := by
  unfold State.decideFrame
  dsimp only
  repeat' split
  all_goals simp

@[simp] theorem State.decide1_sys_eq (s : State) (r : Nat) : (s.decide1 r).sys = s.sys := by
  unfold State.decide1
  split <;> simp [apply_ite State.sys]

@[simp] theorem State.decideAhead_sys_eq (s : State) (r : Nat) : (s.decideAhead r).sys = s.sys := by
  simp [State.decideAhead, apply_ite State.sys]

@[simp] theorem execSluiceDecision_sysKept (s : State) : SysKept s (execSluiceDecision s) := by
  simp [execSluiceDecision, apply_ite State.sys]

@[simp] theorem State.toSluice_sys_eq (s : State) (r : Nat) : (s.toSluice r).sys = s.sys := by
  simp [State.toSluice, apply_ite State.sys]

@[simp] theorem execGraphRun_sysKept (ring : Fin 1024) (s : State) : SysKept s (execGraphRun ring s) := by
  refine sysKept_next.mpr (s.onHead_sys_eq _ _ _ _ (fun p => ?_))
  split <;> simp

@[simp] theorem execGraphRunFrame_sysKept (ring : Fin 1024) (s : State) : SysKept s (execGraphRunFrame ring s) := by
  refine sysKept_next.mpr (s.onHead_sys_eq _ _ _ _ (fun p => ?_))
  split <;> simp

@[simp] theorem State.headWake_sys_eq (s : State) (g : Graph) : (s.headWake g).sys = s.sys := by
  simp [State.headWake]

@[simp] theorem State.beginRun_sys_eq (s : State) (cid : Nat) : (s.beginRun cid).sys = s.sys := by
  unfold State.beginRun
  repeat' split
  all_goals simp

@[simp] theorem execRunHeadWake_sysKept (cid : Nat) (s : State) : SysKept s (execRunHeadWake cid s) := by
  unfold execRunHeadWake
  repeat' split
  all_goals simp

@[simp] theorem execFireInstant_sysKept (handle : Nat) (s : State) : SysKept s (execFireInstant handle s) := by
  unfold execFireInstant
  repeat' split
  all_goals simp

@[simp] theorem State.fillDelay_sys_eq (s : State) (h seq src : Nat) : (s.fillDelay h seq src).sys = s.sys := by
  unfold State.fillDelay
  split
  · rfl
  · refine foldl_sys_eq _ _ (fun t e => ?_) _
    dsimp only
    repeat' split
    all_goals simp

@[simp] theorem State.clearRun_sys_eq (s : State) (h seq : Nat) (zero : Bool) :
    (s.clearRun h seq zero).sys = s.sys := by
  unfold State.clearRun
  split <;> simp [apply_ite State.sys]

@[simp] theorem State.reportPart_sys_eq (s : State) (cid : Nat) (g : Graph) (r : Run) :
    (s.reportPart cid g r).sys = s.sys := by
  unfold State.reportPart
  repeat' split
  all_goals simp

@[simp] theorem State.endRun_sys_eq (s : State) (cid : Nat) (g : Graph) (r : Run) (clear : Bool) (e : End) :
    (s.endRun cid g r clear e).sys = s.sys := by simp [State.endRun, apply_ite State.sys]

@[simp] theorem execRunComplete_sysKept (cid : Nat) (s : State) : SysKept s (execRunComplete cid s) := by
  rw [execRunComplete, sysKept_next]
  repeat' split
  all_goals simp

@[simp] theorem State.inputRead_sys_eq (s : State) (c : Cmd) (r : Run) (result : ReadResult) :
    (s.inputRead c r result).sys = s.sys := by
  unfold State.inputRead
  repeat' split
  all_goals simp

end Sys2Proof.Machine
end

section
/-! PROOFS. The SYS block left alone: the Weight Engine. -/

namespace Sys2Proof.Machine

@[simp] theorem State.journalRoom_sys_eq (s : State) : s.journalRoom.sys = s.sys := by
  simp [State.journalRoom, apply_ite State.sys]

@[simp] theorem State.journalOpen_sys_eq (s : State) (e : JEntry) : (s.journalOpen e).sys = s.sys := by
  simp [State.journalOpen]

@[simp] theorem State.journalClose_sys_eq (s : State) : s.journalClose.sys = s.sys := rfl

@[simp] theorem State.mapSave_sys_eq (s : State) : s.mapSave.sys = s.sys := rfl

@[simp] theorem State.programRows_sys_eq (s : State) (basin : Nat) (rows : List (Nat × List Byte))
    (stuck : Option (Nat × Nat)) : (s.programRows basin rows stuck).sys = s.sys := rfl

@[simp] theorem State.tunnel_sys_eq (s : State) (basin : Nat) : (s.tunnel basin).sys = s.sys := rfl

@[simp] theorem State.makeDirty_sys_eq (s : State) (basin cause : Nat) : (s.makeDirty basin cause).sys = s.sys := rfl

@[simp] theorem State.openFailed_sys_eq (s : State) (c check off : Nat) (e : End) :
    (s.openFailed c check off e).sys = s.sys := by simp [State.openFailed]

@[simp] theorem State.openImage_sys_eq (s : State) (c : Cmd) (addr : DWord) (len : Nat) (b : List Byte) :
    (s.openImage c addr len b).sys = s.sys := by
  unfold State.openImage
  repeat' split
  all_goals simp

@[simp] theorem execImageOpen_sysKept (ring : Fin 1024) (s : State) : SysKept s (execImageOpen ring s) := by
  simp [execImageOpen]

@[simp] theorem State.imageRead_sys_eq (s : State) (c : Cmd) (addr : DWord) (len : Nat) (result : ReadResult) :
    (s.imageRead c addr len result).sys = s.sys := by
  unfold State.imageRead
  split <;> simp

@[simp] theorem execImageClose_sysKept (ring : Fin 1024) (s : State) : SysKept s (execImageClose ring s) := by
  refine sysKept_next.mpr (s.onHead_sys_eq _ _ _ _ (fun p => ?_))
  repeat' split
  all_goals simp

@[simp] theorem State.wpePower_sys_eq (s : State) : s.wpePower.sys = s.sys := rfl

@[simp] theorem State.cellTerrace_sys_eq (s : State) (ter : Nat) : (s.cellTerrace ter).sys = s.sys := by
  simp [State.cellTerrace, apply_ite State.sys]

@[simp] theorem State.updProg_sys_eq (s : State) (c : Nat) (f : Prog → Prog) : (s.updProg c f).sys = s.sys := rfl

@[simp] theorem State.holdupEnd_sys_eq (s : State) (c quarters : Nat) : (s.holdupEnd c quarters).sys = s.sys := by
  simp [State.holdupEnd]

@[simp] theorem State.holdupLow_sys_eq (s : State) (c need : Nat) : (s.holdupLow c need).sys = s.sys := by
  simp [State.holdupLow]

@[simp] theorem State.openBatch_sys_eq (s : State) (c : Nat) (p : Prog) (n : Nat) :
    (s.openBatch c p n).sys = s.sys := by simp [State.openBatch, apply_ite State.sys]

@[simp] theorem State.nextBatch_sys_eq (s : State) (c : Nat) (p : Prog) (high : Bool) :
    (s.nextBatch c p high).sys = s.sys := by simp [State.nextBatch, apply_ite State.sys]

@[simp] theorem State.decided_sys_eq (s : State) (g : Nat) (p : List Byte) (e : End) :
    (s.decided g p e).sys = s.sys := by simp [State.decided, apply_ite State.sys]

@[simp] theorem State.programRecord_sys_eq (s : State) (c : Cmd) (x : Session) (r : CwiRec) (n row left : Nat)
    (record : ReadResult) (high : Bool) : (s.programRecord c x r n row left record high).sys = s.sys := by
  unfold State.programRecord
  dsimp only
  repeat' split
  all_goals simp

@[simp] theorem execProgramRows_sysKept (ring : Fin 1024) (record : ReadResult) (high : Bool) (s : State) :
    SysKept s (execProgramRows ring record high s) := by
  refine sysKept_next.mpr (s.onHead_sys_eq _ _ _ _ (fun p => ?_))
  dsimp only
  repeat' split
  all_goals simp

@[simp] theorem State.closeBatch_sys_eq (s : State) (c : Nat) (p : Prog) (stuck : Option (Nat × Nat)) :
    (s.closeBatch c p stuck).sys = s.sys := by simp [State.closeBatch, apply_ite State.sys]

@[simp] theorem State.batchDone_sys_eq (s : State) (c : Cmd) (p : Prog) (stuck : Option (Nat × Nat)) (high : Bool) :
    (s.batchDone c p stuck high).sys = s.sys := by
  unfold State.batchDone
  dsimp only
  repeat' split
  all_goals simp

@[simp] theorem execProgramBatchDone_sysKept (stuck : Option (Nat × Nat)) (high : Bool) (s : State) :
    SysKept s (execProgramBatchDone stuck high s) := by
  unfold execProgramBatchDone
  repeat' split
  all_goals simp

@[simp] theorem execVerify_sysKept (ring : Fin 1024) (s : State) : SysKept s (execVerify ring s) := by
  refine sysKept_next.mpr (s.onHead_sys_eq _ _ _ _ (fun p => ?_))
  repeat' split
  all_goals simp

@[simp] theorem State.commitTag_sys_eq (s : State) (n : Nat) (tag : DWord) (reads : List TrackRead) :
    (s.commitTag n tag reads).sys = s.sys := by simp [State.commitTag, apply_ite State.sys]

@[simp] theorem State.verifyJudge_sys_eq (s : State) (c : Cmd) (n ter slot : Nat) (same : Bool) (tag : DWord)
    (rows : List (List Byte)) (below above : Option Nat) (reads : List TrackRead) :
    (s.verifyJudge c n ter slot same tag rows below above reads).sys = s.sys := by
  unfold State.verifyJudge
  dsimp only
  repeat' split
  all_goals simp

@[simp] theorem execVerifyDone_sysKept (record : ReadResult) (below above : Option Nat) (reads : List TrackRead)
    (s : State) : SysKept s (execVerifyDone record below above reads s) := by
  unfold execVerifyDone
  repeat' split
  all_goals simp

@[simp] theorem State.countWear_sys_eq (s : State) (n ter slot : Nat) : (s.countWear n ter slot).sys = s.sys := by
  simp [State.countWear, apply_ite State.sys]

@[simp] theorem execEraseBasin_sysKept (ring : Fin 1024) (s : State) : SysKept s (execEraseBasin ring s) := by
  refine sysKept_next.mpr (s.onHead_sys_eq _ _ _ _ (fun p => ?_))
  dsimp only
  repeat' split
  all_goals simp

@[simp] theorem execEraseDone_sysKept (s : State) : SysKept s (execEraseDone s) := by
  unfold execEraseDone
  split <;> simp

@[simp] theorem State.recalibrate_sys_eq (s : State) (basins : List Nat) (reads : List TrackRead) :
    (s.recalibrate basins reads).1.sys = s.sys := by
  induction basins generalizing s with
  | nil => rfl
  | cons n ns ih =>
    unfold State.recalibrate
    dsimp only
    split <;> simp [ih]

@[simp] theorem execRecalibrate_sysKept (ring : Fin 1024) (reads : List TrackRead) (s : State) :
    SysKept s (execRecalibrate ring reads s) := by
  refine sysKept_next.mpr (s.onHead_sys_eq _ _ _ _ (fun p => ?_))
  dsimp only
  repeat' split
  all_goals simp

@[simp] theorem execHoldupQuery_sysKept (ring : Fin 1024) (s : State) : SysKept s (execHoldupQuery ring s) := by
  simp [execHoldupQuery]

end Sys2Proof.Machine
end

section
/-! PROOFS. The SYS block left alone: self-test, map-out and the logs. -/

namespace Sys2Proof.Machine

@[simp] theorem State.mapOutBasin_sys_eq (s : State) (fs : List Finding) (n : Nat) :
    (s.mapOutBasin fs n).1.sys = s.sys := by
  unfold State.mapOutBasin
  dsimp only
  repeat' split
  all_goals simp

@[simp] theorem State.failBasin_sys_eq (s : State) (fs : List Finding) (repair : Bool) (n : Nat) :
    (s.failBasin fs repair n).1.sys = s.sys := by
  unfold State.failBasin
  dsimp only
  repeat' split
  all_goals simp

@[simp] theorem State.consequence_sys_eq (s : State) (fs : List Finding) (repair : Bool) (seen : List (Nat × Nat))
    (f : Finding) : (s.consequence fs repair seen f).1.sys = s.sys := by
  unfold State.consequence
  dsimp only
  repeat' split
  all_goals simp

@[simp] theorem State.failRecord_sys_eq (s : State) (kind outcome : Nat) (f : Finding) :
    (s.failRecord kind outcome f).sys = s.sys := by simp [State.failRecord]

@[simp] theorem State.judge_sys_eq (s : State) (all : List Finding) (kind : Nat) (repair : Bool)
    (seen : List (Nat × Nat)) (past : List Finding) (todo : List Finding) :
    (s.judge all kind repair seen past todo).1.sys = s.sys := by
  induction todo generalizing s seen past with
  | nil => rfl
  | cons f fs ih =>
    unfold State.judge
    split <;> simp [ih]

@[simp] theorem State.loopResults_sys_eq (s : State) (j : TestJob) : (s.loopResults j).sys = s.sys := by
  simp [State.loopResults, apply_ite State.sys]

@[simp] theorem State.testBegin_sys_eq (s : State) (j : TestJob) : (s.testBegin j).sys = s.sys := by
  simp [State.testBegin, apply_ite State.sys]

@[simp] theorem State.rederive_sys_eq (s : State) (j : TestJob) (reads : List TrackRead) :
    (s.rederive j reads).sys = s.sys := by simp [State.rederive, apply_ite State.sys]

@[simp] theorem State.selfTest_sys_eq (s : State) (j : TestJob) (t : TestIn) (repair : Bool) :
    (s.selfTest j t repair).1.sys = s.sys := by simp [State.selfTest, apply_ite State.sys]

@[simp] theorem State.testMoats_sys_eq (s : State) (scope ter tests : Nat) (on : Bool) :
    (s.testMoats scope ter tests on).sys = s.sys := by simp [State.testMoats, apply_ite State.sys]

@[simp] theorem execBistRun_sysKept (ring : Fin 1024) (s : State) : SysKept s (execBistRun ring s) := by
  unfold execBistRun
  dsimp only
  split <;> simp [apply_ite State.sys]

@[simp] theorem execBistRunDone_sysKept (test : TestIn) (s : State) : SysKept s (execBistRunDone test s) := by
  unfold execBistRunDone
  split <;> simp [apply_ite State.sys]

@[simp] theorem execMapoutRead_sysKept (ring : Fin 1024) (s : State) : SysKept s (execMapoutRead ring s) := by
  simp [execMapoutRead]

@[simp] theorem execLogRead_sysKept (ring : Fin 1024) (s : State) : SysKept s (execLogRead ring s) := by
  simp [execLogRead, apply_ite State.sys]

@[simp] theorem execDrydownInvalidate_sysKept (ring : Fin 1024) (s : State) :
    SysKept s (execDrydownInvalidate ring s) := by simp [execDrydownInvalidate]

end Sys2Proof.Machine
end

section
/-! PROOFS. The SYS block left alone: the frame source. -/

namespace Sys2Proof.Machine

@[simp] theorem State.startFrame_sys_eq (s : State) : s.startFrame.sys = s.sys := rfl

@[simp] theorem execFsyncEdge_sysKept (s : State) : SysKept s (execFsyncEdge s) := by
  simp [execFsyncEdge, apply_ite State.sys]

@[simp] theorem execFrameTimerExpire_sysKept (s : State) : SysKept s (execFrameTimerExpire s) := by
  simp [execFrameTimerExpire, apply_ite State.sys]

@[simp] theorem execFsyncMissed_sysKept (s : State) : SysKept s (execFsyncMissed s) := by
  simp [execFsyncMissed, apply_ite State.sys]

@[simp] theorem State.frameCfgWrite_sys_eq (s : State) (v : Word) : (s.frameCfgWrite v).sys = s.sys := by
  simp [State.frameCfgWrite, apply_ite State.sys]

@[simp] theorem execSlcFrameCfgWrite_sysKept (value : Word) (s : State) :
    SysKept s (execSlcFrameCfgWrite value s) := by simp [execSlcFrameCfgWrite]

end Sys2Proof.Machine
end

section
/-! PROOFS. The SYS block left alone: the analogue front end and the sentinels. -/

namespace Sys2Proof.Machine

@[simp] theorem execAfeConfig_sysKept (ring : Fin 1024) (s : State) : SysKept s (execAfeConfig ring s) := by
  simp [execAfeConfig, apply_ite State.sys]

@[simp] theorem State.applyAfe_sys_eq (s : State) : s.applyAfe.sys = s.sys := by simp [State.applyAfe]

@[simp] theorem State.sentinelPend_sys_eq (s : State) (g : Nat) (p : List Byte) (n : Nat) (rule : Option SntRule) :
    (s.sentinelPend g p n rule).sys = s.sys := by simp [State.sentinelPend, apply_ite State.sys]

@[simp] theorem execSentinelArm_sysKept (ring : Fin 1024) (s : State) : SysKept s (execSentinelArm ring s) := by
  refine sysKept_next.mpr (s.onHead_sys_eq _ _ _ _ (fun p => ?_))
  dsimp only
  split <;> simp

@[simp] theorem execSentinelDisarm_sysKept (ring : Fin 1024) (s : State) :
    SysKept s (execSentinelDisarm ring s) := by simp [execSentinelDisarm, apply_ite State.sys]

@[simp] theorem State.applySentinels_sys_eq (s : State) : s.applySentinels.sys = s.sys := by
  unfold State.applySentinels
  refine foldl_sys_eq _ _ (fun t c => ?_) _
  split <;> simp

@[simp] theorem State.hearHop_sys_eq (s : State) (chans : List (List MicPiece)) :
    (s.hearHop chans).sys = s.sys := rfl

@[simp] theorem State.formFeatures_sys_eq (s : State) (period : Nat) (chans : List (List MicPiece)) :
    (s.formFeatures period chans).sys = s.sys := rfl

@[simp] theorem State.switchLane_sys_eq (s : State) (n : Nat) : (s.switchLane n).sys = s.sys := by
  simp [State.switchLane, apply_ite State.sys]

@[simp] theorem State.sentinelIrq_sys_eq (s : State) : s.sentinelIrq.sys = s.sys := by
  simp [State.sentinelIrq, apply_ite State.sys]

@[simp] theorem State.putReport_sys_eq (s : State) (r : BitVec 128) : (s.putReport r).sys = s.sys := by
  simp [State.putReport, apply_ite State.sys]

@[simp] theorem State.entryEdge_sys_eq (s : State) (n : Nat) (r : BitVec 128) : (s.entryEdge n r).sys = s.sys := by
  simp [State.entryEdge, apply_ite State.sys]

@[simp] theorem State.sentinelHop_sys_eq (s : State) (n : Nat) (refs : List Int) :
    (s.sentinelHop n refs).sys = s.sys := by simp [State.sentinelHop, apply_ite State.sys]

@[simp] theorem execHopBoundary_sysKept (chans : List (List MicPiece)) (refs : List (List Int)) (s : State) :
    SysKept s (execHopBoundary chans refs s) := by
  unfold execHopBoundary
  repeat' split
  all_goals simp

@[simp] theorem execFeatureBankSwitch_sysKept (chan : Fin 16) (s : State) :
    SysKept s (execFeatureBankSwitch chan s) := by simp [execFeatureBankSwitch]

@[simp] theorem execFeatureRoute_sysKept (ring : Fin 1024) (s : State) : SysKept s (execFeatureRoute ring s) := by
  refine sysKept_next.mpr (s.onHead_sys_eq _ _ _ _ (fun p => ?_))
  dsimp only
  repeat' split
  all_goals simp

@[simp] theorem execMicbiasCurrentLimit_sysKept (k : Fin 4) (s : State) :
    SysKept s (execMicbiasCurrentLimit k s) := by simp [execMicbiasCurrentLimit, apply_ite State.sys]

@[simp] theorem execPreamplifierClip_sysKept (chan : Fin 16) (s : State) :
    SysKept s (execPreamplifierClip chan s) := by simp [execPreamplifierClip, apply_ite State.sys]

end Sys2Proof.Machine
end

section
/-! PROOFS. The SYS block left alone: doorbells, ring registers and the generic opcodes. -/

namespace Sys2Proof.Machine

@[simp] theorem State.doorbell_sys_eq (s : State) (func page value : Nat) (tlp : Tlp) (k : State → Nat → State)
    (hk : StepKeepsSys k) : (s.doorbell func page value tlp k).sys = s.sys := by
  refine State.hostAccess_sys_eq s func _ _ _ (fun u => ?_)
  repeat' split
  all_goals simp [hk _]

@[simp] theorem execDoorbellSqTail_sysKept (func : Fin 16) (page : Fin 1024) (value : Nat) (tlp : Tlp) (s : State) :
    SysKept s (execDoorbellSqTail func page value tlp s) := by simp [execDoorbellSqTail]

@[simp] theorem execDoorbellCqHead_sysKept (func : Fin 16) (page : Fin 1024) (value : Nat) (tlp : Tlp) (s : State) :
    SysKept s (execDoorbellCqHead func page value tlp s) := by simp [execDoorbellCqHead, apply_ite State.sys]

@[simp] theorem execDoorbellStrayWrite_sysKept (func : Fin 16) (page : Fin 1024) (tlp : Tlp) (s : State) :
    SysKept s (execDoorbellStrayWrite func page tlp s) := by simp [execDoorbellStrayWrite]

@[simp] theorem State.disableRing_sys_eq (s : State) (g : Nat) : (s.disableRing g).sys = s.sys := by
  simp [State.disableRing]

@[simp] theorem State.ringCtrlWrite_sys_eq (s : State) (func g : Nat) (v : Word) (tlp : Tlp) :
    (s.ringCtrlWrite func g v tlp).sys = s.sys := by simp [State.ringCtrlWrite, apply_ite State.sys]

@[simp] theorem State.ringBaseWrite_sys_eq (s : State) (func g : Nat) (cq : Bool) (hi wide : Bool) (v : DWord)
    (tlp : Tlp) : (s.ringBaseWrite func g cq hi wide v tlp).sys = s.sys := by
  simp [State.ringBaseWrite, apply_ite State.sys]

@[simp] theorem State.ringModWrite_sys_eq (s : State) (g : Nat) (v : Word) : (s.ringModWrite g v).sys = s.sys := rfl

@[simp] theorem State.descWrite_sys_eq (s : State) (func ring offset : Nat) (v : DWord) (wide : Bool) (tlp : Tlp) :
    (s.descWrite func ring offset v wide tlp).sys = s.sys := by
  unfold State.descWrite
  repeat' split
  all_goals simp

@[simp] theorem execRingEnable_sysKept (func : Fin 16) (ring : Fin 1024) (value : Word) (tlp : Tlp) (s : State) :
    SysKept s (execRingEnable func ring value tlp s) := by simp [execRingEnable]

@[simp] theorem execRingDisable_sysKept (func : Fin 16) (ring : Fin 1024) (value : Word) (tlp : Tlp) (s : State) :
    SysKept s (execRingDisable func ring value tlp s) := by simp [execRingDisable]

@[simp] theorem execRingDescriptorWrite_sysKept (func : Fin 16) (ring : Fin 1024) (offset : Fin 64) (value : DWord)
    (wide : Bool) (tlp : Tlp) (s : State) :
    SysKept s (execRingDescriptorWrite func ring offset value wide tlp s) := by simp [execRingDescriptorWrite]

@[simp] theorem State.fetchFailed_sys_eq (s : State) (g kind cause : Nat) (addr : DWord) :
    (s.fetchFailed g kind cause addr).sys = s.sys := by simp [State.fetchFailed, apply_ite State.sys]

@[simp] theorem execRingFetchCompletion_sysKept (ring : Fin 1024) (result : ReadResult) (s : State) :
    SysKept s (execRingFetchCompletion ring result s) := by
  unfold execRingFetchCompletion
  split <;> simp [apply_ite State.sys]

@[simp] theorem execListFetchCompletion_sysKept (ring : Fin 1024) (result : ReadResult) (s : State) :
    SysKept s (execListFetchCompletion ring result s) := by
  unfold execListFetchCompletion
  dsimp only
  repeat' split
  all_goals simp

@[simp] theorem execRingModTimer_sysKept (ring : Fin 1024) (s : State) : SysKept s (execRingModTimer ring s) := by
  unfold execRingModTimer
  dsimp only
  split <;> simp [apply_ite State.sys]

@[simp] theorem execNop_sysKept (ring : Fin 1024) (s : State) : SysKept s (execNop ring s) := by simp [execNop]

@[simp] theorem execFence_sysKept (ring : Fin 1024) (s : State) : SysKept s (execFence ring s) := by
  simp [execFence]

@[simp] theorem execTimestamp_sysKept (ring : Fin 1024) (s : State) : SysKept s (execTimestamp ring s) := by
  simp [execTimestamp, apply_ite State.sys]

@[simp] theorem execWaitFlag_sysKept (ring : Fin 1024) (s : State) : SysKept s (execWaitFlag ring s) := by
  simp [execWaitFlag, apply_ite State.sys]

@[simp] theorem execWaitFlagSatisfied_sysKept (ring : Fin 1024) (s : State) :
    SysKept s (execWaitFlagSatisfied ring s) := by
  unfold execWaitFlagSatisfied
  repeat' split
  all_goals simp

@[simp] theorem execWaitFlagDeadline_sysKept (ring : Fin 1024) (s : State) :
    SysKept s (execWaitFlagDeadline ring s) := by
  unfold execWaitFlagDeadline
  repeat' split
  all_goals simp

@[simp] theorem State.setFlagHead_sys_eq (s : State) (g : Nat) : (s.setFlagHead g).sys = s.sys := by
  simp [State.setFlagHead]

@[simp] theorem execSetFlag_sysKept (ring : Fin 1024) (s : State) : SysKept s (execSetFlag ring s) := by
  simp [execSetFlag]

@[simp] theorem execListCall_sysKept (ring : Fin 1024) (s : State) : SysKept s (execListCall ring s) := by
  simp [execListCall]

@[simp] theorem State.setAnchor_sys_eq (s : State) (a : DWord) : (s.setAnchor a).sys = s.sys := rfl

@[simp] theorem execTimeAnchor_sysKept (ring : Fin 1024) (s : State) : SysKept s (execTimeAnchor ring s) := by
  simp [execTimeAnchor]

@[simp] theorem execKflagSetWrite_sysKept (word : Fin 8) (value : Word) (s : State) :
    SysKept s (execKflagSetWrite word value s) := by simp [execKflagSetWrite]

@[simp] theorem execKflagClrWrite_sysKept (word : Fin 8) (value : Word) (s : State) :
    SysKept s (execKflagClrWrite word value s) := by simp [execKflagClrWrite]

@[simp] theorem State.hkDrain_sys_eq (s : State) (core : Nat) : (s.hkDrain core).sys = s.sys := by
  unfold State.hkDrain
  split <;> rfl

@[simp] theorem State.kfence_sys_eq (s : State) (core : Nat) : (s.kfence core).sys = s.sys := rfl

@[simp] theorem State.hkMem_sys_eq (s : State) (core : Nat) (op : HkMem) : (s.hkMem core op).sys = s.sys := by
  unfold State.hkMem
  repeat' split
  all_goals simp

@[simp] theorem State.flagAccess_sys_eq (s : State) (tlp : Tlp) (access : FlagAccess) :
    (s.flagAccess tlp access).sys = s.sys := by
  unfold State.flagAccess
  dsimp only
  repeat' split
  all_goals simp

@[simp] theorem State.flagCycle_sys_eq (s : State) (cycle : List FlagAccess) (tlp : Tlp) :
    (s.flagCycle cycle tlp).sys = s.sys := by simp [State.flagCycle]

end Sys2Proof.Machine
end

section
/-! PROOFS. The SYS block left alone: the Stream Engine and the TDM port. -/

namespace Sys2Proof.Machine

@[simp] theorem State.closeSegment_sys_eq (s : State) (i : Nat) (cut : Bool) :
    (s.closeSegment i cut).sys = s.sys := by
  unfold State.closeSegment
  split <;> simp

@[simp] theorem State.advanceStream_sys_eq (fuel : Nat) (s : State) (i : Nat) :
    (s.advanceStream fuel i).sys = s.sys := by
  induction fuel generalizing s with
  | zero => rfl
  | succ fuel ih =>
    unfold State.advanceStream
    dsimp only
    repeat' split
    all_goals simp [ih]

@[simp] theorem State.updSegment_sys_eq (s : State) (i cid : Nat) (f : Segment → Segment) :
    (s.updSegment i cid f).sys = s.sys := rfl

@[simp] theorem State.prefetch_sys_eq (s : State) (i : Nat) : (s.prefetch i).sys = s.sys := by
  unfold State.prefetch
  dsimp only
  repeat' split
  all_goals simp

@[simp] theorem State.cutSegments_sys_eq (s : State) (i k : Nat) : (s.cutSegments i k).sys = s.sys := by
  simp [State.cutSegments]

@[simp] theorem State.detachStream_sys_eq (s : State) (i : Nat) : (s.detachStream i).sys = s.sys := by
  simp [State.detachStream]

@[simp] theorem State.doStop_sys_eq (s : State) (i cid : Nat) : (s.doStop i cid).sys = s.sys := by
  simp [State.doStop]

@[simp] theorem State.doJump_sys_eq (s : State) (i cid target : Nat) (atEnd : Bool) :
    (s.doJump i cid target atEnd).sys = s.sys := by
  unfold State.doJump
  split <;> simp

@[simp] theorem State.boundary_sys_eq (s : State) (i : Nat) : (s.boundary i).sys = s.sys := by
  unfold State.boundary
  dsimp only
  repeat' split
  all_goals simp

@[simp] theorem State.takeUnit_sys_eq (s : State) (i : Nat) : (s.takeUnit i).1.sys = s.sys := by
  unfold State.takeUnit
  dsimp only
  repeat' split
  all_goals simp

@[simp] theorem State.pumpLoop_sys_eq (fuel : Nat) (s : State) (i : Nat) : (s.pumpLoop fuel i).sys = s.sys := by
  induction fuel generalizing s with
  | zero => rfl
  | succ fuel ih =>
    unfold State.pumpLoop
    dsimp only
    repeat' split
    all_goals simp [ih]

@[simp] theorem State.pump_sys_eq (s : State) (i : Nat) : (s.pump i).sys = s.sys := by
  simp [State.pump, apply_ite State.sys]

@[simp] theorem State.latchStop_sys_eq (s : State) (i cid : Nat) : (s.latchStop i cid).sys = s.sys := by
  unfold State.latchStop
  dsimp only
  split
  · rfl
  · rw [State.pump_sys_eq, foldl_sys_eq _ _ (fun t c => t.finish_sys_eq c _), State.updStream_sys_eq]

@[simp] theorem State.stopStreams_sys_eq (s : State) (p : Stream → Bool) : (s.stopStreams p).sys = s.sys := by
  simp [State.stopStreams, apply_ite State.sys]

@[simp] theorem execSegmentQueue_sysKept (ring : Fin 1024) (s : State) : SysKept s (execSegmentQueue ring s) := by
  refine sysKept_next.mpr (s.onHead_sys_eq _ _ _ _ (fun p => ?_))
  dsimp only
  repeat' split
  all_goals simp

@[simp] theorem execJump_sysKept (ring : Fin 1024) (s : State) : SysKept s (execJump ring s) := by
  refine sysKept_next.mpr (s.onHead_sys_eq _ _ _ _ (fun p => ?_))
  extract_lets i x behind t t1
  have ht : t.sys = s.sys := s.accept_sys_eq _ _ _ _ _
  have ht1 : t1.sys = t.sys := by
    unfold t1
    split
    · simp
    · rw [State.updStream_sys_eq, foldl_sys_eq _ _ (fun u (j : Nat × Nat) => u.finish_sys_eq j.1 _)]
  clear_value behind t1
  repeat' split
  all_goals simp [ht, ht1]

@[simp] theorem execStreamStart_sysKept (ring : Fin 1024) (s : State) : SysKept s (execStreamStart ring s) := by
  refine sysKept_next.mpr (s.onHead_sys_eq _ _ _ _ (fun p => ?_))
  split <;> simp

@[simp] theorem execStreamStop_sysKept (ring : Fin 1024) (s : State) : SysKept s (execStreamStop ring s) := by
  refine sysKept_next.mpr (s.onHead_sys_eq _ _ _ _ (fun p => ?_))
  dsimp only
  split <;> simp

@[simp] theorem execTdmConfig_sysKept (ring : Fin 1024) (s : State) : SysKept s (execTdmConfig ring s) := by
  simp [execTdmConfig, apply_ite State.sys]

@[simp] theorem State.tdmUnit_sys_eq (s : State) (i : Nat) : (s.tdmUnit i).1.sys = s.sys := by
  unfold State.tdmUnit
  dsimp only
  repeat' split
  all_goals simp

@[simp] theorem State.tdmStream_sys_eq (acc : State × List Word) (i : Nat) :
    (State.tdmStream acc i).1.sys = acc.1.sys := by
  unfold State.tdmStream
  dsimp only
  repeat' split
  all_goals simp

@[simp] theorem execTdmFrame_sysKept (s : State) : SysKept s (execTdmFrame s) := by
  have hstreams (acc : State × List Word) : ((List.range 32).foldl State.tdmStream acc).1.sys = acc.1.sys :=
    foldl_fst_sys_eq _ _ State.tdmStream_sys_eq acc
  rw [execTdmFrame, sysKept_next]
  split
  · simp
  · dsimp only
    split <;> simp [hstreams]

@[simp] theorem State.resync_sys_eq (s : State) : s.resync.sys = s.sys := by simp [State.resync]

@[simp] theorem execTdmFsEdge_sysKept (sckOffset : Nat) (s : State) : SysKept s (execTdmFsEdge sckOffset s) := by
  simp [execTdmFsEdge, apply_ite State.sys]

@[simp] theorem execTdmFsMissing_sysKept (s : State) : SysKept s (execTdmFsMissing s) := by
  simp [execTdmFsMissing, apply_ite State.sys]

@[simp] theorem execTdmSckLost_sysKept (s : State) : SysKept s (execTdmSckLost s) := by
  simp [execTdmSckLost, apply_ite State.sys]

@[simp] theorem State.appendUnit_sys_eq (s : State) (i : Nat) (u : List Byte) : (s.appendUnit i u).sys = s.sys := by
  simp [State.appendUnit, apply_ite State.sys]

@[simp] theorem State.arrivedUnit_sys_eq (s : State) (i : Nat) (bytes : List Byte) :
    (s.arrivedUnit i bytes).1.sys = s.sys := by
  unfold State.arrivedUnit
  dsimp only
  repeat' split
  all_goals simp

@[simp] theorem execStreamUnitArrival_sysKept (stream : Fin 32) (bytes : List Byte) (s : State) :
    SysKept s (execStreamUnitArrival stream bytes s) := by simp [execStreamUnitArrival, apply_ite State.sys]

@[simp] theorem execPrefetchCompletion_sysKept (stream : Fin 32) (result : ReadResult) (s : State) :
    SysKept s (execPrefetchCompletion stream result s) := by
  rw [execPrefetchCompletion, sysKept_next]
  split
  · simp
  · split
    · simp
    · cases s.cmd? _ <;> simp
    · simp

end Sys2Proof.Machine
end

section
/-! PROOFS. Rails and device states: the resets change other fields of the SYS block, and leave LOCK. -/

namespace Sys2Proof.Machine

@[simp] theorem State.leaveRows_sys_eq (s : State) (basin : Nat) (rows : List (Nat × List Byte)) :
    (s.leaveRows basin rows).sys = s.sys := rfl

@[simp] theorem State.journalPart_sys_eq (s : State) (k : Nat) : (s.journalPart k).sys = s.sys := rfl

@[simp] theorem State.journalTorn_sys_eq (s : State) : s.journalTorn.sys = s.sys := rfl

@[simp] theorem State.cutBatch_sys_eq (s : State) (c : Cmd) (p : Prog) (cut : PowerCut) :
    (s.cutBatch c p cut).sys = s.sys := by
  unfold State.cutBatch
  repeat' split
  all_goals simp

@[simp] theorem State.cutErase_sys_eq (s : State) (basin : Nat) (cut : PowerCut) :
    (s.cutErase basin cut).sys = s.sys := by simp [State.cutErase, apply_ite State.sys]

@[simp] theorem State.mapRestore_sys_eq (s : State) : s.mapRestore.sys = s.sys := by
  unfold State.mapRestore
  split <;> rfl

@[simp] theorem State.applyCut_sys_eq (s : State) (cut : PowerCut) : (s.applyCut cut).sys = s.sys := by
  unfold State.applyCut
  rw [apply_ite State.sys, ite_self]
  split
  all_goals
    refine (foldl_sys_eq _ _ (fun t c => ?_) _).trans s.mapRestore_sys_eq
    repeat' split
    all_goals simp

@[simp] theorem State.resetEngines_lock_eq (s : State) : s.resetEngines.sys.lock = s.sys.lock := rfl

@[simp] theorem State.resetMain_lock_eq (s : State) : s.resetMain.sys.lock = s.sys.lock := rfl

@[simp] theorem State.enterFault_lock_eq (s : State) (bit : Nat) (rail : Option Nat) (code : DWord) (cut : PowerCut) :
    (s.enterFault bit rail code cut).sys.lock = s.sys.lock := by
  unfold State.enterFault
  dsimp only
  repeat' split
  all_goals simp

@[simp] theorem execRailOvervoltage_holdsLock (rail : Fin 6) (edge : OvEdge) (s : State) :
    HoldsLock s (execRailOvervoltage rail edge s) := by
  unfold execRailOvervoltage
  repeat' split
  all_goals simp

@[simp] theorem State.setTj_sys_eq (s : State) (tj : BitVec 16) : (s.setTj tj).sys = s.sys := rfl

@[simp] theorem execThermalWarning_sysKept (tj : BitVec 16) (s : State) : SysKept s (execThermalWarning tj s) := by
  simp [execThermalWarning, apply_ite State.sys]

@[simp] theorem execThermalWarningReturn_sysKept (tj : BitVec 16) (s : State) :
    SysKept s (execThermalWarningReturn tj s) := by simp [execThermalWarningReturn, apply_ite State.sys]

@[simp] theorem execThermalTrip_holdsLock (tj : BitVec 16) (cut : PowerCut) (s : State) :
    HoldsLock s (execThermalTrip tj cut s) := by
  unfold execThermalTrip
  split <;> simp

@[simp] theorem execPllLossOfLock_holdsLock (cut : PowerCut) (s : State) :
    HoldsLock s (execPllLossOfLock cut s) := by simp [execPllLossOfLock]

@[simp] theorem execHkWatchdogExpire_holdsLock (core : Fin 2) (cut : PowerCut) (s : State) :
    HoldsLock s (execHkWatchdogExpire core cut s) := by
  unfold execHkWatchdogExpire
  split <;> simp

@[simp] theorem execInternalFatalError_holdsLock (code : DWord) (cut : PowerCut) (s : State) :
    HoldsLock s (execInternalFatalError code cut s) := by simp [execInternalFatalError]

@[simp] theorem State.enterSentry_lock_eq (s : State) (cut : PowerCut) :
    (s.enterSentry cut).sys.lock = s.sys.lock := by simp [State.enterSentry]

@[simp] theorem State.railGone_sys_eq (s : State) (rail : Nat) : (s.railGone rail).sys = s.sys := rfl

@[simp] theorem execMainRailLoss_holdsLock (rail : Fin 6) (cut : PowerCut) (s : State) :
    HoldsLock s (execMainRailLoss rail cut s) := by
  unfold execMainRailLoss
  dsimp only
  repeat' split
  all_goals simp

@[simp] theorem execDryToSentry_holdsLock (rail : Fin 6) (s : State) : HoldsLock s (execDryToSentry rail s) := by
  unfold execDryToSentry
  split <;> simp

@[simp] theorem execMainRailGood_sysKept (rail : Fin 6) (s : State) : SysKept s (execMainRailGood rail s) := by
  simp [execMainRailGood, apply_ite State.sys]

@[simp] theorem execRailTimeout_sysKept (s : State) : SysKept s (execRailTimeout s) := by
  simp [execRailTimeout, apply_ite State.sys]

@[simp] theorem execVauxLoss_holdsLock (cut : PowerCut) (s : State) : HoldsLock s (execVauxLoss cut s) := by
  simp [execVauxLoss]

@[simp] theorem execVauxGood_sysKept (s : State) : SysKept s (execVauxGood s) := by
  simp [execVauxGood, apply_ite State.sys]

@[simp] theorem execStrapLatch_sysKept (samples : List (BitVec 5)) (s : State) :
    SysKept s (execStrapLatch samples s) := by
  unfold execStrapLatch
  split <;> simp [apply_ite State.sys]

@[simp] theorem execUptimeTick_sysKept (s : State) : SysKept s (execUptimeTick s) := by
  simp [execUptimeTick, apply_ite State.sys]

@[simp] theorem execCrystalDetected_sysKept (s : State) : SysKept s (execCrystalDetected s) := by
  simp [execCrystalDetected, apply_ite State.sys]

@[simp] theorem execCrystalLost_sysKept (s : State) : SysKept s (execCrystalLost s) := by
  simp [execCrystalLost, apply_ite State.sys]

@[simp] theorem execTrimWindowClose_sysKept (trim : BitVec 12) (s : State) :
    SysKept s (execTrimWindowClose trim s) := by simp [execTrimWindowClose, apply_ite State.sys]

@[simp] theorem State.reqResult_sys_eq (s : State) (r : ReqResult) : (s.reqResult r).sys = s.sys := rfl

@[simp] theorem State.beginDoze_sys_eq (s : State) : s.beginDoze.sys = s.sys := rfl

@[simp] theorem execDozeIdleTimeout_sysKept (s : State) : SysKept s (execDozeIdleTimeout s) := by
  simp [execDozeIdleTimeout, apply_ite State.sys]

@[simp] theorem State.ltr_sys_eq (s : State) (us : Nat) : (s.ltr us).sys = s.sys := rfl

@[simp] theorem State.sendLtr_sys_eq (s : State) : s.sendLtr.sys = s.sys := by
  unfold State.sendLtr
  repeat' split
  all_goals simp

@[simp] theorem execDozeEntryDone_sysKept (s : State) : SysKept s (execDozeEntryDone s) := by
  simp [execDozeEntryDone, apply_ite State.sys]

@[simp] theorem State.beginSwitch_sys_eq (s : State) (d : DevState) : (s.beginSwitch d).sys = s.sys := rfl

@[simp] theorem execFclkSwitchDone_sysKept (s : State) : SysKept s (execFclkSwitchDone s) := by
  unfold execFclkSwitchDone
  split <;> simp [apply_ite State.sys]

@[simp] theorem State.reqDoze_sys_eq (s : State) : s.reqDoze.sys = s.sys := by
  unfold State.reqDoze
  repeat' split
  all_goals simp

@[simp] theorem execPwrReqDoze_sysKept (s : State) : SysKept s (execPwrReqDoze s) := by simp [execPwrReqDoze]

@[simp] theorem State.reqRun_sys_eq (s : State) (d : DevState) : (s.reqRun d).sys = s.sys := by
  unfold State.reqRun
  split <;> simp [apply_ite State.sys]

@[simp] theorem execPwrReqRun_sysKept (s : State) : SysKept s (execPwrReqRun s) := by simp [execPwrReqRun]

@[simp] theorem execPwrReqEconomy_sysKept (s : State) : SysKept s (execPwrReqEconomy s) := by
  simp [execPwrReqEconomy]

@[simp] theorem execPwrPeakClr_sysKept (s : State) : SysKept s (execPwrPeakClr s) := by simp [execPwrPeakClr]

@[simp] theorem execTerracePowerGood_sysKept (ter : Fin 64) (s : State) :
    SysKept s (execTerracePowerGood ter s) := by
  unfold execTerracePowerGood
  split <;> simp

@[simp] theorem execTerraceIdleTimeout_sysKept (ter : Fin 64) (s : State) :
    SysKept s (execTerraceIdleTimeout ter s) := by simp [execTerraceIdleTimeout, apply_ite State.sys]

@[simp] theorem execPeripheryHoldExpire_sysKept (basin : Fin 4096) (s : State) :
    SysKept s (execPeripheryHoldExpire basin s) := by
  unfold execPeripheryHoldExpire
  split <;> simp [apply_ite State.sys]

@[simp] theorem execPeripheryPowerGood_sysKept (basin : Fin 4096) (s : State) :
    SysKept s (execPeripheryPowerGood basin s) := by
  unfold execPeripheryPowerGood
  split <;> simp

end Sys2Proof.Machine
end

section
/-! PROOFS. The SYS block left alone: ordered shutdown. -/

namespace Sys2Proof.Machine

@[simp] theorem State.dryState_sys_eq (s : State) : s.dryState.sys = s.sys := rfl

@[simp] theorem State.dryCommands_sys_eq (s : State) : s.dryCommands.sys = s.sys := by
  unfold State.dryCommands
  refine foldl_sys_eq _ _ (fun t c => ?_) _
  repeat' split
  all_goals simp

@[simp] theorem State.relayDry_sys_eq (s : State) : s.relayDry.sys = s.sys := by
  simp [State.relayDry, apply_ite State.sys]

@[simp] theorem State.settleAll_sys_eq (s : State) : s.settleAll.sys = s.sys := by simp [State.settleAll]

@[simp] theorem State.enterDry_sys_eq (s : State) : s.enterDry.sys = s.sys := by simp [State.enterDry]

@[simp] theorem execShutdown_sysKept (ring : Fin 1024) (s : State) : SysKept s (execShutdown ring s) := by
  simp [execShutdown]

@[simp] theorem State.raiseIrq_sys_eq (s : State) : s.raiseIrq.sys = s.sys := by
  simp [State.raiseIrq, apply_ite State.sys]

@[simp] theorem execDozeExitDone_sysKept (s : State) : SysKept s (execDozeExitDone s) := by
  unfold execDozeExitDone
  split <;> simp [apply_ite State.sys]

@[simp] theorem execPmeTurnOff_sysKept (tlp : Tlp) (s : State) : SysKept s (execPmeTurnOff tlp s) := by
  unfold execPmeTurnOff
  repeat' split
  all_goals simp

@[simp] theorem State.enginesOff_sys_eq (s : State) : s.enginesOff.sys = s.sys := by simp [State.enginesOff]

@[simp] theorem execDryDrainDone_sysKept (test : TestIn) (s : State) : SysKept s (execDryDrainDone test s) := by
  unfold execDryDrainDone
  repeat' split
  all_goals simp

@[simp] theorem execDrydownCommit_sysKept (tankMv : Nat) (s : State) : SysKept s (execDrydownCommit tankMv s) := by
  simp [execDrydownCommit, apply_ite State.sys]

@[simp] theorem execDrydoneRise_sysKept (s : State) : SysKept s (execDrydoneRise s) := by
  simp [execDrydoneRise, apply_ite State.sys]

end Sys2Proof.Machine
end

section
/-! PROOFS. A start writes other fields of the SYS block and leaves LOCK; the release that ends it clears LOCK (R538). -/

namespace Sys2Proof.Machine

@[simp] theorem State.scanEntry_sys_eq (s : State) (e : JEntry) : (s.scanEntry e).sys = s.sys := by
  simp [State.scanEntry, apply_ite State.sys]

@[simp] theorem State.journalScan_sys_eq (s : State) : s.journalScan.sys = s.sys := by
  simp [State.journalScan, apply_ite State.sys]

@[simp] theorem State.runStart_lock_eq (s : State) (edgeAt decision : Nat) (x : StartIn) :
    (s.runStart edgeAt decision x).sys.lock = s.sys.lock := by
  unfold State.runStart
  split <;> simp

@[simp] theorem State.beginStart_lock_eq (s : State) (x : StartIn) : (s.beginStart x).sys.lock = s.sys.lock := rfl

@[simp] theorem execPerstNRise_holdsLock (start : StartIn) (s : State) : HoldsLock s (execPerstNRise start s) := by
  unfold execPerstNRise
  dsimp only
  repeat' split
  all_goals simp

@[simp] theorem execHkRelease_holdsLock (start : StartIn) (s : State) : HoldsLock s (execHkRelease start s) := by
  unfold execHkRelease
  repeat' split
  all_goals simp

@[simp] theorem State.writeStart_lock_eq (s : State) (st : Start) : (s.writeStart st).sys.lock = false := rfl

@[simp] theorem State.tellRelease_sys_eq (s : State) : s.tellRelease.sys = s.sys := by
  simp [State.tellRelease, apply_ite State.sys]

/-- Without a start in progress nothing is released. -/
theorem execStartRelease_of_none {s : State} (h : s.pwr.start = none) : execStartRelease s = .next s := by
  simp [execStartRelease, h]

/-- The release that ends a start clears LOCK, into RUN as into FAULT (R538). -/
theorem yields_startRelease_unlocked {s : State} {st : Start} (hstart : s.pwr.start = some st) (hheld : st.held = false) :
    Yields .startRelease s (fun t => t.sys.lock = false) := by
  refine ⟨_, rfl, ?_⟩
  simp only [hstart, hheld]
  split
  · contradiction
  · rw [State.tellRelease_sys_eq, State.sendLtr_sys_eq, State.raiseIrq_sys_eq]
    split <;> simp

@[simp] theorem execPerstNAssert_holdsLock (cut : PowerCut) (s : State) : HoldsLock s (execPerstNAssert cut s) := by
  unfold execPerstNAssert
  dsimp only
  repeat' split
  all_goals simp

end Sys2Proof.Machine
end

section
/-! PROOFS. The SYS block left alone: the host beside its register accesses. -/

namespace Sys2Proof.Machine

@[simp] theorem execBar0BadSizeAccess_sysKept (func : Fin 16) (isRead : Bool) (tlp : Tlp) (s : State) :
    SysKept s (execBar0BadSizeAccess func isRead tlp s) := by simp [execBar0BadSizeAccess, apply_ite State.sys]

@[simp] theorem execMalformedTlp_sysKept (tlp : Tlp) (s : State) : SysKept s (execMalformedTlp tlp s) := by
  simp [execMalformedTlp]

@[simp] theorem execPoisonedWrite_sysKept (func : Fin 16) (tlp : Tlp) (s : State) :
    SysKept s (execPoisonedWrite func tlp s) := by simp [execPoisonedWrite, apply_ite State.sys]

@[simp] theorem execEcrcMismatch_sysKept (tlp : Tlp) (s : State) : SysKept s (execEcrcMismatch tlp s) := by
  simp [execEcrcMismatch, apply_ite State.sys]

@[simp] theorem execUnsupportedRequest_sysKept (func : Fin 16) (tlp : Tlp) (s : State) :
    SysKept s (execUnsupportedRequest func tlp s) := by simp [execUnsupportedRequest, apply_ite State.sys]

@[simp] theorem execUnexpectedCompletion_sysKept (tlp : Tlp) (s : State) :
    SysKept s (execUnexpectedCompletion tlp s) := by simp [execUnexpectedCompletion]

@[simp] theorem State.commandReadFailed_sys_eq (s : State) (c : Cmd) (kind : Nat) :
    (s.commandReadFailed c kind).sys = s.sys := by
  unfold State.commandReadFailed
  repeat' split
  all_goals simp

@[simp] theorem execCompletionTimeout_sysKept (src : ReadSrc) (s : State) :
    SysKept s (execCompletionTimeout src s) := by
  unfold execCompletionTimeout
  repeat' split
  all_goals simp

@[simp] theorem execDataReadCompletion_sysKept (cid : Nat) (result : ReadResult) (s : State) :
    SysKept s (execDataReadCompletion cid result s) := by
  rw [execDataReadCompletion, sysKept_next]
  repeat' split
  all_goals simp

@[simp] theorem State.flushMsix_sys_eq (s : State) (f : Nat) : (s.flushMsix f).sys = s.sys := by
  simp [State.flushMsix, apply_ite State.sys]

@[simp] theorem State.flushAllMsix_sys_eq (s : State) : s.flushAllMsix.sys = s.sys := by simp [State.flushAllMsix]

@[simp] theorem execMsixUnmask_sysKept (func : Fin 16) (entry : Option (Fin 1040)) (s : State) :
    SysKept s (execMsixUnmask func entry s) := by
  unfold execMsixUnmask
  repeat' split
  all_goals simp [apply_ite State.sys]

@[simp] theorem State.dropPost_sys_eq (s : State) (p : Posted) : (s.dropPost p).sys = s.sys := by
  unfold State.dropPost
  repeat' split
  all_goals simp

/-! The record updates of `flrFunction`, each as an equation to rewrite with: computing the projection instead would run its
fold over the 1024 rings. -/

theorem with_postQ_sys_eq (u : State) (q : List Posted) : ({ u with postQ := q } : State).sys = u.sys := rfl

theorem with_rings_sys_eq (u : State) (rings : Tab Ring) : ({ u with rings := rings } : State).sys = u.sys := rfl

theorem with_owned_sys_eq (u : State) (cmds : List Cmd) (graphs : List Graph) (wpe : Wpe) (hif : Hif) (free : Nat) :
    ({ u with cmds := cmds, graphs := graphs, wpe := wpe, hif := hif, free := free } : State).sys = u.sys := rfl

@[simp] theorem State.flrFunction_sys_eq (s : State) (f : Nat) : (s.flrFunction f).sys = s.sys := by
  have hdisable : StepKeepsSys (fun (u : State) g =>
      if u.ringFunc g == f && (u.ring g).en then u.disableRing g else u) := by
    simp [apply_ite State.sys]
  rw [State.flrFunction, State.closeSessions_sys_eq, State.stopStreams_sys_eq,
    foldl_sys_eq _ _ (fun t c => t.finish_sys_eq c _), with_owned_sys_eq, with_rings_sys_eq,
    foldl_sys_eq _ _ State.dropPost_sys_eq, with_postQ_sys_eq, foldl_sys_eq _ _ hdisable]

@[simp] theorem State.flrVfs_sys_eq (s : State) : s.flrVfs.sys = s.sys := by simp [State.flrVfs]

@[simp] theorem State.hifReset_sys_eq (s : State) : s.hifReset.sys = s.sys := by simp [State.hifReset]

@[simp] theorem execFlr_sysKept (func : Fin 16) (s : State) : SysKept s (execFlr func s) := by
  simp [execFlr, apply_ite State.sys]

@[simp] theorem State.dropPosts_sys_eq (s : State) : s.dropPosts.sys = s.sys := by simp [State.dropPosts]

@[simp] theorem State.linkReset_sys_eq (s : State) : s.linkReset.sys = s.sys := by simp [State.linkReset]

@[simp] theorem execHotReset_sysKept (s : State) : SysKept s (execHotReset s) := by
  simp [execHotReset, apply_ite State.sys]

@[simp] theorem execDlDown_sysKept (s : State) : SysKept s (execDlDown s) := by
  simp [execDlDown, apply_ite State.sys]

@[simp] theorem State.resumeMaster_sys_eq (s : State) : s.resumeMaster.sys = s.sys := by simp [State.resumeMaster]

@[simp] theorem execBusMasterEnableChange_sysKept (func : Fin 16) (on : Bool) (s : State) :
    SysKept s (execBusMasterEnableChange func on s) := by simp [execBusMasterEnableChange, apply_ite State.sys]

@[simp] theorem execPowerstateD3hot_sysKept (s : State) : SysKept s (execPowerstateD3hot s) := by
  simp [execPowerstateD3hot, apply_ite State.sys]

@[simp] theorem execPowerstateD0_sysKept (s : State) : SysKept s (execPowerstateD0 s) := by
  simp [execPowerstateD0, apply_ite State.sys]

@[simp] theorem execAspmL1Idle_sysKept (sub : Fin 3) (s : State) : SysKept s (execAspmL1Idle sub s) := by
  simp [execAspmL1Idle, apply_ite State.sys]

@[simp] theorem State.barWrite_sys_eq (s : State) (i : Nat) (v : DWord) : (s.barWrite i v).sys = s.sys := by
  simp [State.barWrite, apply_ite State.sys]

@[simp] theorem State.configure_sys_eq (s : State) (req : CfgReq) : (s.configure req).sys = s.sys := by
  unfold State.configure
  split <;> simp [apply_ite State.sys]

@[simp] theorem execConfigRequest_sysKept (req : CfgReq) (s : State) : SysKept s (execConfigRequest req s) := by
  simp [execConfigRequest, apply_ite State.sys]

@[simp] theorem State.drainPosts_sys_eq (fuel : Nat) (s : State) : (s.drainPosts fuel).sys = s.sys := by
  induction fuel generalizing s with
  | zero => rfl
  | succ fuel ih =>
    unfold State.drainPosts
    split
    · rfl
    · rfl
    · rw [ih]
      split <;> simp

@[simp] theorem execLinkUp_sysKept (speed width : Nat) (credits : Option Nat) (s : State) :
    SysKept s (execLinkUp speed width credits s) := by simp [execLinkUp, apply_ite State.sys]

@[simp] theorem execFlowControlCreditReturn_sysKept (n : Nat) (s : State) :
    SysKept s (execFlowControlCreditReturn n s) := by
  unfold execFlowControlCreditReturn
  split <;> simp

end Sys2Proof.Machine
end

section
/-! PROOFS. The SYS block left alone: mirrored pairs and the work a member is told of. -/

namespace Sys2Proof.Machine

@[simp] theorem State.portLog_sys_eq (s : State) (up : Bool) (event : Nat) : (s.portLog up event).sys = s.sys := by
  simp [State.portLog]

@[simp] theorem State.mgmtBad_sys_eq (s : State) (up : Bool) : (s.mgmtBad up).sys = s.sys := by simp [State.mgmtBad]

@[simp] theorem State.portLogFree_sys_eq (s : State) (up : Bool) : (s.portLogFree up).sys = s.sys := by
  simp [State.portLogFree]

@[simp] theorem State.updMember_sys_eq (s : State) (d : Nat) (f : Member → Member) :
    (s.updMember d f).sys = s.sys := rfl

@[simp] theorem State.tell_sys_eq (s : State) (d : Nat) (m : LinkMsg) : (s.tell d m).sys = s.sys := by
  simp [State.tell, apply_ite State.sys]

@[simp] theorem State.writeRoutes_sys_eq (s : State) : s.writeRoutes.sys = s.sys := by
  simp [State.writeRoutes, apply_ite State.sys]

@[simp] theorem State.endWaits_sys_eq (s : State) (k : Nat) : (s.endWaits k).sys = s.sys := by
  unfold State.endWaits
  rw [foldl_sys_eq _ _ (fun t c => t.finish_sys_eq c _), State.updPair_sys_eq]

@[simp] theorem State.suspend_sys_eq (s : State) (k : Nat) : (s.suspend k).sys = s.sys := by simp [State.suspend]

@[simp] theorem State.snapshot_sys_eq (s : State) (k ring tag : Nat) : (s.snapshot k ring tag).sys = s.sys := by
  simp [State.snapshot]

@[simp] theorem State.abortCmd_sys_eq (s : State) (c : Cmd) (e : End) : (s.abortCmd c e).sys = s.sys := by
  unfold State.abortCmd
  repeat' split
  all_goals simp

@[simp] theorem State.failover_sys_eq (s : State) (k cause : Nat) : (s.failover k cause).sys = s.sys := by
  simp [State.failover]

@[simp] theorem State.drainFailover_sys_eq (s : State) (k : Nat) : (s.drainFailover k).sys = s.sys := by
  unfold State.drainFailover
  dsimp only
  split <;> simp [apply_ite State.sys]

@[simp] theorem State.formPair_sys_eq (s : State) (k cid ring tag a peer : Nat) (async : Bool) :
    (s.formPair k cid ring tag a peer async).sys = s.sys := by simp [State.formPair]

@[simp] theorem execMirrorControl_sysKept (ring : Fin 1024) (s : State) : SysKept s (execMirrorControl ring s) := by
  refine sysKept_next.mpr (s.onHead_sys_eq _ _ _ _ (fun p => ?_))
  dsimp only
  split
  · split
    · simp
    · refine State.completeWith_sys_eq _ _ _ _ _ (fun t => ?_)
      rw [State.releaseHeld_sys_eq, State.updPair_sys_eq, State.endWaits_sys_eq]
      split <;> simp
  · split <;> simp
  · split
    · simp
    · split <;> simp
  · split <;> simp

@[simp] theorem State.ackPair_sys_eq (s : State) (k seq : Nat) : (s.ackPair k seq).sys = s.sys := by
  simp [State.ackPair, apply_ite State.sys]

@[simp] theorem execMirrorAckRx_sysKept (pair : Fin 3) (seq : Nat) (s : State) :
    SysKept s (execMirrorAckRx pair seq s) := by simp [execMirrorAckRx]

@[simp] theorem execSnapshotEndAck_sysKept (pair : Fin 3) (s : State) : SysKept s (execSnapshotEndAck pair s) := by
  unfold execSnapshotEndAck
  dsimp only
  repeat' split
  all_goals simp

@[simp] theorem execMirrorAckTimeout_sysKept (pair : Fin 3) (s : State) :
    SysKept s (execMirrorAckTimeout pair s) := by simp [execMirrorAckTimeout, apply_ite State.sys]

@[simp] theorem execMirrorResendRequest_sysKept (pair : Fin 3) (seq : Nat) (s : State) :
    SysKept s (execMirrorResendRequest pair seq s) := by simp [execMirrorResendRequest, apply_ite State.sys]

@[simp] theorem State.shadowSlots_sys_eq (s : State) (c : Cgd) (h active : Nat) :
    (s.shadowSlots c h active).2.sys = s.sys := by
  unfold State.shadowSlots
  split
  · rfl
  · have hplace := s.placeSlots_sys_eq c s.reservedSlots
      (c.slots.map (fun (x : SlotRec) => if x.dev = active then { x with dev := s.me } else x))
    dsimp only
    split
    all_goals
      rename_i hslots
      simpa [hslots] using hplace

@[simp] theorem State.zeroSegments_sys_eq (s : State) (g : Graph) (dev : Nat) :
    (s.zeroSegments g dev).sys = s.sys := by
  refine foldl_sys_eq _ _ (fun t e => ?_) s
  split
  · split <;> rfl
  · rfl

theorem State.loadShadow_sys_eq (s : State) (h active : Nat) (raw : List Byte) :
    ∀ t, s.loadShadow h active raw = some t → t.sys = s.sys := by
  have hslots := s.shadowSlots_sys_eq (parseCgd raw) h active
  unfold State.loadShadow
  intro t ht
  split at ht
  · cases ht
  · dsimp only at ht
    split at ht
    · next hsome =>
      cases ht
      simpa [hsome] using hslots
    · cases ht

@[simp] theorem State.updShadow_sys_eq (s : State) (h : Nat) (f : Graph → Graph) :
    (s.updShadow h f).sys = s.sys := rfl

@[simp] theorem State.putSegments_sys_eq (fuel : Nat) (s : State) (g : Graph) (seq : Nat) (b : List Byte) :
    (s.putSegments fuel g seq b).sys = s.sys := by
  induction fuel generalizing s b with
  | zero => rfl
  | succ fuel ih =>
    cases b with
    | nil => rfl
    | cons x xs =>
      rw [State.putSegments, ih]
      · split <;> rfl
      · simp

@[simp] theorem State.openCell_sys_eq (s : State) (n : Nat) (last : Bool) : (s.openCell n last).sys = s.sys := rfl

@[simp] theorem State.eraseCell_sys_eq (s : State) (n ter slot : Nat) : (s.eraseCell n ter slot).sys = s.sys := by
  simp [State.eraseCell]

@[simp] theorem State.dropShadows_sys_eq (s : State) (keep : Graph → Bool) : (s.dropShadows keep).sys = s.sys := by
  simp [State.dropShadows]

@[simp] theorem State.closeShadows_sys_eq (s : State) : s.closeShadows.sys = s.sys := rfl

theorem State.applyRows_sys_eq (s : State) (pay : List Byte) (last : Bool) :
    ∀ t, s.applyRows pay last = some t → t.sys = s.sys := by
  unfold State.applyRows
  dsimp only
  split <;> simp

theorem State.applyRecord_sys_eq (s : State) (k typ h seq : Nat) (first last : Bool) (pay : List Byte) :
    ∀ t, s.applyRecord k typ h seq first last pay = some t → t.sys = s.sys := by
  unfold State.applyRecord
  dsimp only
  intro t ht
  split at ht
  case h_3 => -- a shadow loaded
    split at ht
    · exact s.loadShadow_sys_eq _ _ _ t ht
    · cases ht
      rfl
  case h_8 => -- rows programmed
    exact s.applyRows_sys_eq _ _ t ht
  case h_11 => -- no record type
    cases ht
  case h_6 => -- delayed segments
    obtain ⟨g, _, rfl⟩ := Option.map_eq_some_iff.mp ht
    split <;> simp
  case h_1 | h_2 => -- the snapshot's begin and end
    cases ht
    simp
  all_goals
    obtain ⟨_, _, rfl⟩ := Option.map_eq_some_iff.mp ht
    simp

@[simp] theorem State.askResend_sys_eq (s : State) (k next : Nat) : (s.askResend k next).sys = s.sys := by
  simp [State.askResend]

@[simp] theorem execMirrorRecordRx_sysKept (bytes : List Byte) (s : State) :
    SysKept s (execMirrorRecordRx bytes s) := by
  rw [execMirrorRecordRx, sysKept_next]
  iterate 8 -- the five checks of the record, its payload, the tank and a record that cannot be applied
    split
    · simp
  · next t ht =>
    have hrec := s.applyRecord_sys_eq _ _ _ _ _ _ _ t ht
    split <;> simp [hrec]

@[simp] theorem State.takeOver_sys_eq (s : State) (old : Nat) : (s.takeOver old).sys = s.sys := by
  simp [State.takeOver]

@[simp] theorem execRoutingTableWrite_sysKept (table : List Nat) (alsoNum : Option Nat) (s : State) :
    SysKept s (execRoutingTableWrite table alsoNum s) := by
  unfold execRoutingTableWrite
  dsimp only
  repeat' split
  all_goals simp

@[simp] theorem State.carry_sys_eq (s : State) (ring tag opcode : Nat) (body : Body) :
    (s.carry ring tag opcode body).sys = s.sys := rfl

@[simp] theorem State.carryOut_sys_eq (s : State) (ring tag opcode h : Nat) (g : Graph)
    (parts : List (Nat × List Byte × Option (Nat × Nat))) (k : State → State) (hk : KeepsSys k) :
    (s.carryOut ring tag opcode h g parts k).sys = s.sys := by simp [State.carryOut, hk _]

@[simp] theorem State.realign_sys_eq (s : State) (g : Graph) (seq : Nat) : (s.realign g seq).sys = s.sys := by
  unfold State.realign
  split
  · rfl
  · dsimp only
    rw [State.updGraph_sys_eq]
    refine foldl_sys_eq _ _ (fun t e => ?_) s
    split
    · rfl
    · split <;> rfl

@[simp] theorem State.takePart_sys_eq (s : State) (h seq : Nat) (devs : List Nat) (evals skipped : Nat)
    (fault : Option Nat) : (s.takePart h seq devs evals skipped fault).sys = s.sys := by
  unfold State.takePart
  split <;> rfl

@[simp] theorem State.cutRun_sys_eq (s : State) (h seq : Nat) (zero : Bool) :
    (s.cutRun h seq zero).sys = s.sys := by
  unfold State.cutRun
  dsimp only
  repeat' split
  all_goals simp

@[simp] theorem execMasterWorkMessage_sysKept (ring tag opcode : Nat) (work : Work) (s : State) :
    SysKept s (execMasterWorkMessage ring tag opcode work s) := by
  unfold execMasterWorkMessage
  dsimp only
  repeat' split
  all_goals simp

end Sys2Proof.Machine
end

section
/-! PROOFS. The SYS block left alone: the chain and its link. -/

namespace Sys2Proof.Machine

@[simp] theorem State.loseMember_sys_eq (s : State) (d : Nat) : (s.loseMember d).sys = s.sys := by
  simp [State.loseMember]

@[simp] theorem State.declareLost_sys_eq (s : State) (d : Nat) : (s.declareLost d).sys = s.sys := by
  unfold State.declareLost
  dsimp only
  repeat' split
  all_goals simp

@[simp] theorem execMemberLost_sysKept (dev : Fin 8) (s : State) : SysKept s (execMemberLost dev s) := by
  simp [execMemberLost]

@[simp] theorem State.portDown_sys_eq (s : State) (up : Bool) : (s.portDown up).sys = s.sys := by
  simp [State.portDown, apply_ite State.sys]

@[simp] theorem State.passNumber_sys_eq (s : State) : s.passNumber.sys = s.sys := by
  simp [State.passNumber, apply_ite State.sys]

@[simp] theorem State.portUpAt_sys_eq (s : State) (up : Bool) (lanes : BitVec 4) :
    (s.portUpAt up lanes).sys = s.sys := by simp [State.portUpAt, apply_ite State.sys]

@[simp] theorem execCascadeTrainingDone_sysKept (up : Bool) (lanes : BitVec 4) (partnerOk : Bool) (s : State) :
    SysKept s (execCascadeTrainingDone up lanes partnerOk s) := by simp [execCascadeTrainingDone, apply_ite State.sys]

@[simp] theorem State.discardFrame_sys_eq (s : State) (up : Bool) : (s.discardFrame up).sys = s.sys := by
  simp [State.discardFrame, apply_ite State.sys]

@[simp] theorem State.fromLink_sys_eq (s : State) (p : Packet) : (s.fromLink p).sys = s.sys := by
  simp [State.fromLink, apply_ite State.sys]

@[simp] theorem State.takeCredits_sys_eq (s : State) (up : Bool) (cr : List Nat) :
    (s.takeCredits up cr).sys = s.sys := by simp [State.takeCredits, apply_ite State.sys]

@[simp] theorem State.takeFlit_sys_eq (up : Bool) (s : State) (x : FlitSlot) : (s.takeFlit up x).sys = s.sys := by
  unfold State.takeFlit
  dsimp only
  repeat' split
  all_goals simp

@[simp] theorem State.replayFrames_sys_eq (s : State) (up : Bool) : (s.replayFrames up).sys = s.sys := by
  simp [State.replayFrames]

@[simp] theorem execCascadeFrameRx_sysKept (up : Bool) (frame : LinkFrame) (s : State) :
    SysKept s (execCascadeFrameRx up frame s) := by simp [execCascadeFrameRx, apply_ite State.sys]

@[simp] theorem State.enumerated_sys_eq (s : State) (n : Nat) (uid : DWord) (strap : Nat) :
    (s.enumerated n uid strap).sys = s.sys := by simp [State.enumerated]

@[simp] theorem execEnumerationMessage_sysKept (n : Nat) (reply : Option (DWord × Nat)) (s : State) :
    SysKept s (execEnumerationMessage n reply s) := by
  unfold execEnumerationMessage
  split <;> simp [apply_ite State.sys]

@[simp] theorem execChainEndTimeout_sysKept (s : State) : SysKept s (execChainEndTimeout s) := by
  simp [execChainEndTimeout, apply_ite State.sys]

@[simp] theorem execMemberReleaseReport_sysKept (dev : Fin 8) (uid : DWord) (fw epoch : Word) (s : State) :
    SysKept s (execMemberReleaseReport dev uid fw epoch s) := by simp [execMemberReleaseReport, apply_ite State.sys]

@[simp] theorem execHeartbeatSend_sysKept (s : State) : SysKept s (execHeartbeatSend s) := by
  simp [execHeartbeatSend, apply_ite State.sys]

@[simp] theorem execHeartbeatReceive_sysKept (dev : Fin 8) (mirSeq : Nat) (s : State) :
    SysKept s (execHeartbeatReceive dev mirSeq s) := by simp [execHeartbeatReceive, apply_ite State.sys]

@[simp] theorem execDryRelay_sysKept (s : State) : SysKept s (execDryRelay s) := by
  simp [execDryRelay, apply_ite State.sys]

@[simp] theorem execCascadeEnum_sysKept (ring : Fin 1024) (s : State) : SysKept s (execCascadeEnum ring s) := by
  simp [execCascadeEnum]

end Sys2Proof.Machine
end

section
/-! PROOFS. The SYS block left alone: life-cycle transitions and retirement. -/

namespace Sys2Proof.Machine

@[simp] theorem State.retire_sys_eq (s : State) (cid : Nat) : (s.retire cid).sys = s.sys := rfl

@[simp] theorem State.retireBasin_sys_eq (s : State) (n : Nat) : (s.retireBasin n).sys = s.sys := by
  simp [State.retireBasin, apply_ite State.sys]

@[simp] theorem State.retireLoop_sys_eq (fuel : Nat) (s : State) : (s.retireLoop fuel).sys = s.sys := by
  induction fuel generalizing s with
  | zero => rfl
  | succ fuel ih =>
    unfold State.retireLoop
    split
    · rfl
    · simp [ih]

@[simp] theorem execRetirementResume_sysKept (n : Nat) (s : State) : SysKept s (execRetirementResume n s) := by
  unfold execRetirementResume
  dsimp only
  repeat' split
  all_goals simp

@[simp] theorem State.tokenEnergy_sys_eq (s : State) (c : Nat) (target : Nat) (pay : List Byte) :
    (s.tokenEnergy c target pay).sys = s.sys := by
  unfold State.tokenEnergy
  repeat' split
  all_goals simp [apply_ite State.sys]

@[simp] theorem execLifecycleAdvance_sysKept (ring : Fin 1024) (token : ReadResult) (s : State) :
    SysKept s (execLifecycleAdvance ring token s) := by
  refine sysKept_next.mpr (s.onHead_sys_eq _ _ _ _ (fun p => ?_))
  dsimp only
  repeat' split
  all_goals simp

@[simp] theorem execLifecycleTransitionDone_sysKept (idPub : List Byte) (s : State) :
    SysKept s (execLifecycleTransitionDone idPub s) := by
  unfold execLifecycleTransitionDone
  repeat' split
  all_goals simp

@[simp] theorem execTankWaitTimeout_sysKept (s : State) : SysKept s (execTankWaitTimeout s) := by
  unfold execTankWaitTimeout
  dsimp only
  repeat' split
  all_goals simp

@[simp] theorem State.tankRetry_sys_eq (s : State) : s.tankRetry.sys = s.sys := by
  unfold State.tankRetry
  dsimp only
  repeat' split
  all_goals simp

@[simp] theorem execTankComparatorCross_sysKept (above : Bool) (mv : Nat) (s : State) :
    SysKept s (execTankComparatorCross above mv s) := by simp [execTankComparatorCross, apply_ite State.sys]

@[simp] theorem execTankBoostThreshold_sysKept (stop : Bool) (mv : Nat) (s : State) :
    SysKept s (execTankBoostThreshold stop mv s) := by simp [execTankBoostThreshold, apply_ite State.sys]

end Sys2Proof.Machine
end

section
/-! PROOFS. Register accesses: a write to the SYS block can set LOCK and never clears it (R538); every other access leaves
the block. -/

namespace Sys2Proof.Machine

@[simp] theorem State.writeSys_lock_mono (s : State) (off : Nat) (v : Word) (h : s.sys.lock = true) :
    (s.writeSys off v).sys.lock = true := by
  unfold State.writeSys
  split <;> simp [h]

@[simp] theorem State.pwrCtrlWrite_sys_eq (s : State) (v : Word) : (s.pwrCtrlWrite v).sys = s.sys := by
  unfold State.pwrCtrlWrite
  dsimp only
  split <;> simp [apply_ite State.sys]

@[simp] theorem State.writePwr_sys_eq (s : State) (off : Nat) (v : Word) : (s.writePwr off v).sys = s.sys := by
  unfold State.writePwr
  split <;> simp

@[simp] theorem State.writeTmr_sys_eq (s : State) (off : Nat) (v : Word) : (s.writeTmr off v).sys = s.sys := by
  unfold State.writeTmr
  split <;> rfl

@[simp] theorem State.ownerWrite_sys_eq (s : State) (lo hi : Option Word) (tlp : Tlp) :
    (s.ownerWrite lo hi tlp).sys = s.sys := by simp [State.ownerWrite, apply_ite State.sys]

@[simp] theorem State.msixWrite_sys_eq (s : State) (f off : Nat) (v : Word) :
    (s.msixWrite f off v).sys = s.sys := by simp [State.msixWrite, apply_ite State.sys]

@[simp] theorem State.vlogRdWrite_sys_eq (s : State) (v : Word) : (s.vlogRdWrite v).sys = s.sys := rfl

@[simp] theorem State.writeHif_sys_eq (s : State) (off : Nat) (v : Word) (tlp : Tlp) :
    (s.writeHif off v tlp).sys = s.sys := by
  unfold State.writeHif
  split <;> simp [apply_ite State.sys]

@[simp] theorem State.writeSlc_sys_eq (s : State) (off : Nat) (v : Word) : (s.writeSlc off v).sys = s.sys := by
  unfold State.writeSlc
  split <;> simp

@[simp] theorem State.writeAfe_sys_eq (s : State) (off : Nat) (v : Word) : (s.writeAfe off v).sys = s.sys := by
  unfold State.writeAfe
  split <;> rfl

@[simp] theorem State.rptRdWrite_sys_eq (s : State) (v : Word) : (s.rptRdWrite v).sys = s.sys := rfl

@[simp] theorem State.rptCtrlWrite_sys_eq (s : State) (v : Word) : (s.rptCtrlWrite v).sys = s.sys := rfl

@[simp] theorem State.writeSnt_sys_eq (s : State) (off : Nat) (v : Word) : (s.writeSnt off v).sys = s.sys := by
  unfold State.writeSnt
  split <;> simp [apply_ite State.sys]

@[simp] theorem State.writeStr_sys_eq (s : State) (off : Nat) (v : Word) : (s.writeStr off v).sys = s.sys := by
  unfold State.writeStr
  split <;> simp [apply_ite State.sys]

@[simp] theorem State.remoteStart_sys_eq (s : State) (ctl : Word) : (s.remoteStart ctl).sys = s.sys := by
  simp [State.remoteStart, apply_ite State.sys]

@[simp] theorem State.rctlWrite_sys_eq (s : State) (v : Word) : (s.rctlWrite v).sys = s.sys := by
  simp [State.rctlWrite, apply_ite State.sys]

@[simp] theorem State.writeCsc_sys_eq (s : State) (off : Nat) (v : Word) : (s.writeCsc off v).sys = s.sys := by
  unfold State.writeCsc
  split <;> simp [apply_ite State.sys]

@[simp] theorem State.writeKflag_sys_eq (s : State) (off : Nat) (v : Word) : (s.writeKflag off v).sys = s.sys := by
  simp [State.writeKflag, apply_ite State.sys]

@[simp] theorem State.maintRead_sys_eq (s : State) (p : Packet) : (s.maintRead p).sys = s.sys := by
  simp [State.maintRead, apply_ite State.sys]

@[simp] theorem State.writeWindow_sys_eq (s : State) (t off : Nat) (v : Word) :
    (s.writeWindow t off v).sys = s.sys := by simp [State.writeWindow, apply_ite State.sys]

@[simp] theorem execMaintWr_sysKept (p : Packet) (s : State) : SysKept s (execMaintWr p s) := by
  simp [execMaintWr, apply_ite State.sys]

@[simp] theorem execMaintRd_sysKept (p : Packet) (s : State) : SysKept s (execMaintRd p s) := by
  simp [execMaintRd, apply_ite State.sys]

@[simp] theorem State.maintAnswer_sys_eq (s : State) (src : Nat) (bs : List Byte) :
    (s.maintAnswer src bs).sys = s.sys := by
  unfold State.maintAnswer
  split <;> rfl

@[simp] theorem execMaintResp_sysKept (p : Packet) (s : State) : SysKept s (execMaintResp p s) := by
  refine sysKept_next.mpr (s.arrive_sys_eq p _ (fun t => ?_))
  dsimp only
  split
  · simp
  · split
    · rfl
    · split <;> simp

@[simp] theorem State.writeReg_lock_mono (s : State) (off : Nat) (v : Word) (tlp : Tlp) (h : s.sys.lock = true) :
    (s.writeReg off v tlp).sys.lock = true := by
  unfold State.writeReg
  split <;> simp [h]

@[simp] theorem State.pfWrite_lock_mono (s : State) (off : Nat) (v : DWord) (wide : Bool) (tlp : Tlp)
    (h : s.sys.lock = true) : (s.pfWrite off v wide tlp).sys.lock = true := by
  unfold State.pfWrite
  dsimp only
  repeat' split
  all_goals simp [h]

@[simp] theorem State.vfWrite_sys_eq (s : State) (f off : Nat) (v : DWord) (wide : Bool) (tlp : Tlp) :
    (s.vfWrite f off v wide tlp).sys = s.sys := by simp [State.vfWrite, apply_ite State.sys]

@[simp] theorem State.latchRead_sys_eq (s : State) (off : Nat) : (s.latchRead off).sys = s.sys := by
  simp [State.latchRead, apply_ite State.sys]

@[simp] theorem State.regRead_sys_eq (s : State) (f off : Nat) (wide : Bool) (tlp : Tlp) :
    (s.regRead f off wide tlp).sys = s.sys := by simp [State.regRead, apply_ite State.sys]

@[simp] theorem State.doorbellRead_sys_eq (s : State) (f page off len : Nat) (tlp : Tlp) :
    (s.doorbellRead f page off len tlp).sys = s.sys := by simp [State.doorbellRead]

@[simp] theorem execRegisterWrite_holdsLock (func : Fin 16) (offset : Nat) (acc : RegAccess) (wide : Bool) (tlp : Tlp)
    (s : State) : HoldsLock s (execRegisterWrite func offset acc wide tlp s) := by
  unfold execRegisterWrite
  rw [holdsLock_next]
  intro hlock
  cases acc with
  | write v =>
    exact lock_ite hlock (lock_ite (lock_ite (by simp [hlock]) hlock)
      (State.hostAccess_lock_mono (fun u hu => lock_ite (u.pfWrite_lock_mono _ _ _ _ hu) (by simp [hu])) hlock))
  | read => exact lock_ite hlock (by simp [hlock])
  | _ => simp [hlock]

@[simp] theorem execTmrAnchorHiWrite_sysKept (value : Word) (s : State) :
    SysKept s (execTmrAnchorHiWrite value s) := by simp [execTmrAnchorHiWrite]

@[simp] theorem execSysLockWrite_holdsLock (value : Word) (s : State) : HoldsLock s (execSysLockWrite value s) := by
  rw [execSysLockWrite, holdsLock_next]
  exact State.hostAccess_lock_mono (fun u hu => u.writeSys_lock_mono _ _ hu)

@[simp] theorem execSntRptRdWrite_sysKept (value : Word) (s : State) : SysKept s (execSntRptRdWrite value s) := by
  simp [execSntRptRdWrite]

@[simp] theorem execSntRptLostClr_sysKept (value : Word) (s : State) : SysKept s (execSntRptLostClr value s) := by
  simp [execSntRptLostClr]

@[simp] theorem execHifVlogRdWrite_sysKept (value : Word) (s : State) : SysKept s (execHifVlogRdWrite value s) := by
  simp [execHifVlogRdWrite]

@[simp] theorem execHifRblkOwnerWrite_sysKept (hi : Bool) (value : Word) (tlp : Tlp) (s : State) :
    SysKept s (execHifRblkOwnerWrite hi value tlp s) := by simp [execHifRblkOwnerWrite, apply_ite State.sys]

@[simp] theorem execCscRctlGo_sysKept (value : Word) (s : State) : SysKept s (execCscRctlGo value s) := by
  simp [execCscRctlGo]

@[simp] theorem execRemoteAccessDone_sysKept (result : Fin 4) (data : Word) (s : State) :
    SysKept s (execRemoteAccessDone result data s) := by
  unfold execRemoteAccessDone
  split <;> simp

@[simp] theorem execTmrUptimeLoRead_sysKept (wide : Bool) (s : State) : SysKept s (execTmrUptimeLoRead wide s) := by
  simp [execTmrUptimeLoRead]

@[simp] theorem execSlcFrameIdxLoRead_sysKept (wide : Bool) (s : State) :
    SysKept s (execSlcFrameIdxLoRead wide s) := by simp [execSlcFrameIdxLoRead]

@[simp] theorem State.cisAccess_sys_eq (s : State) (src addr : Nat) (write : Option (List Byte)) (len : Nat) :
    (s.cisAccess src addr write len).sys = s.sys := by
  unfold State.cisAccess
  split <;> simp

@[simp] theorem execBar4Access_sysKept (addr : Nat) (write : Option (List Byte)) (len : Nat) (tlp : Tlp) (s : State) :
    SysKept s (execBar4Access addr write len tlp s) := by simp [execBar4Access, apply_ite State.sys]

@[simp] theorem execRemoteAccessMessage_holdsLock (offset : Nat) (write : Option Word) (s : State) :
    HoldsLock s (execRemoteAccessMessage offset write s) := by
  unfold execRemoteAccessMessage
  rw [holdsLock_next]
  intro hlock
  have hwrite (b : BlockGroup) (v : DWord) (tlp : Tlp) :
      (s.access b (fun s => s.pfWrite offset v false tlp)).sys.lock = true :=
    State.access_lock_mono (fun u hu => u.pfWrite_lock_mono _ _ _ _ hu) hlock
  repeat' split
  all_goals simp [hlock, hwrite]

end Sys2Proof.Machine
end

section
/-! PROOFS. The SMBus target and the test access port write fields of their own in the SYS block, and leave LOCK. -/

namespace Sys2Proof.Machine

@[simp] theorem State.smbError_lock_eq (s : State) (cause : Nat) : (s.smbError cause).sys.lock = s.sys.lock := rfl

@[simp] theorem execSmbusBlockRead_holdsLock (code : Byte) (s : State) :
    HoldsLock s (execSmbusBlockRead code s) := by
  unfold execSmbusBlockRead
  repeat' split
  all_goals simp

@[simp] theorem execSmbusAlertResponse_sysKept (s : State) : SysKept s (execSmbusAlertResponse s) := by
  simp [execSmbusAlertResponse, apply_ite State.sys]

@[simp] theorem execSmbusProtocolError_holdsLock (cause : Nat) (s : State) :
    HoldsLock s (execSmbusProtocolError cause s) := by
  unfold execSmbusProtocolError
  repeat' split
  all_goals simp

@[simp] theorem execSmbusSclTimeout_holdsLock (s : State) : HoldsLock s (execSmbusSclTimeout s) := by
  unfold execSmbusSclTimeout
  split <;> simp

@[simp] theorem State.tap_lock_eq (s : State) (k : State → State) (hk : ∀ u, (k u).sys.lock = u.sys.lock) :
    (s.tap k).sys.lock = s.sys.lock := by
  unfold State.tap
  split
  · exact hk s
  · rfl

theorem State.tap_holdsLock (s : State) (k : State → State) (hk : ∀ u, (k u).sys.lock = u.sys.lock) :
    HoldsLock s (.next (s.tap k)) := holdsLock_next_of_eq (s.tap_lock_eq k hk)

@[simp] theorem State.tapSelect_lock_eq (s : State) (ir : BitVec 8) : (s.tapSelect ir).sys.lock = s.sys.lock := rfl

@[simp] theorem State.tapDebug_lock_eq (s : State) (ir : BitVec 8) (k : State → State)
    (hk : ∀ u, (k u).sys.lock = u.sys.lock) : (s.tapDebug ir k).sys.lock = s.sys.lock := by
  refine s.tap_lock_eq _ (fun t => ?_)
  split
  · exact (hk _).trans (t.tapSelect_lock_eq ir)
  · simp

theorem State.tapDebug_holdsLock (s : State) (ir : BitVec 8) (k : State → State)
    (hk : ∀ u, (k u).sys.lock = u.sys.lock) : HoldsLock s (.next (s.tapDebug ir k)) :=
  holdsLock_next_of_eq (s.tapDebug_lock_eq ir k hk)

@[simp] theorem execTapReset_holdsLock (s : State) : HoldsLock s (execTapReset s) := s.tap_holdsLock _ (fun _ => rfl)

@[simp] theorem execExtest_holdsLock (pins : List Bool) (s : State) : HoldsLock s (execExtest pins s) :=
  s.tap_holdsLock _ (fun _ => rfl)

@[simp] theorem execSamplePreload_holdsLock (pins : List Bool) (s : State) : HoldsLock s (execSamplePreload pins s) :=
  s.tap_holdsLock _ (fun _ => rfl)

@[simp] theorem execIdcode_holdsLock (s : State) : HoldsLock s (execIdcode s) := s.tap_holdsLock _ (fun _ => rfl)

@[simp] theorem execClamp_holdsLock (s : State) : HoldsLock s (execClamp s) := s.tap_holdsLock _ (fun _ => rfl)

@[simp] theorem execHighz_holdsLock (s : State) : HoldsLock s (execHighz s) := s.tap_holdsLock _ (fun _ => rfl)

@[simp] theorem execHkDebug_holdsLock (op : HkOp) (s : State) : HoldsLock s (execHkDebug op s) := by
  refine s.tapDebug_holdsLock _ _ (fun t => ?_)
  split <;> rfl

@[simp] theorem execFabricAccess_holdsLock (ter : Fin 64) (offset : Nat) (write : Option Word) (s : State) :
    HoldsLock s (execFabricAccess ter offset write s) := by
  refine s.tapDebug_holdsLock _ _ (fun t => ?_)
  split
  · split <;> rfl
  · split <;> simp

@[simp] theorem execCisternAccess_holdsLock (addr : Nat) (write : Option (List Byte)) (len : Nat) (s : State) :
    HoldsLock s (execCisternAccess addr write len s) := by
  refine s.tapDebug_holdsLock _ _ (fun t => ?_)
  repeat' split
  all_goals simp

@[simp] theorem execFuseRead_holdsLock (s : State) : HoldsLock s (execFuseRead s) :=
  s.tapDebug_holdsLock _ _ (fun _ => rfl)

@[simp] theorem execTestMode_holdsLock (s : State) : HoldsLock s (execTestMode s) := by
  refine s.tap_holdsLock _ (fun t => ?_)
  split <;> rfl

@[simp] theorem execBypass_holdsLock (s : State) : HoldsLock s (execBypass s) := s.tap_holdsLock _ (fun _ => rfl)

end Sys2Proof.Machine
end

section
/-! PROOFS. SYS_LOCK is set by a write and cleared only at release (R538). -/

namespace Sys2Proof.Machine

/-- No command but START_RELEASE clears LOCK. -/
theorem exec_holdsLock {c : Instr} (s : State) (hc : c ≠ .startRelease) : HoldsLock s (exec c s) := by
  cases c with
  | startRelease => exact absurd rfl hc
  | _ => simp [exec, SysKept.holdsLock]

/-- A START_RELEASE that clears LOCK finds a start in progress. -/
theorem execStartRelease_isSome_of_unlocked {s t : State} (ht : execStartRelease s = .next t) (hset : s.sys.lock = true)
    (hclear : t.sys.lock = false) : s.pwr.start.isSome = true := by
  cases hstart : s.pwr.start with
  | some st => rfl
  | none =>
    rw [execStartRelease_of_none hstart, Host.Outcome.next.injEq] at ht
    rw [← ht, hset] at hclear
    contradiction

/-- A write of 1 to bit 0 of SYS_LOCK stores LOCK alone. -/
theorem State.writeSys_lock_of_bit (s : State) {v : Word} (hbit : v.getLsbD 0 = true) :
    s.writeSys 0x10 v = { s with sys := { s.sys with lock := true } } := by
  simp only [State.writeSys, hbit, Bool.or_true]

/-- The write of SYS_LOCK where the host group answers. -/
theorem exec_sysLockWrite_of_answers {s : State} (hr : s.reaches 0 = true) (ha : s.answers .host = true) {v : Word}
    (hbit : v.getLsbD 0 = true) :
    exec (.sysLockWrite v) s = .next { s.leaveL1.touch with sys := { s.sys with lock := true } } := by
  have hsys : s.leaveL1.touch.sys = s.sys := by simp
  calc exec (.sysLockWrite v) s = .next (s.leaveL1.touch.writeSys 0x10 v) :=
        congrArg Host.Outcome.next (State.hostAccess_host_of_answers hr ha none _)
    _ = _ := by rw [State.writeSys_lock_of_bit _ hbit, hsys]

/-- Settles O26: the write stores LOCK, the release clears it, and of all commands only a release with a start in progress
can leave a set LOCK clear. -/
theorem sysLock : Obligations.SysLock := by
  refine ⟨fun s v hr ha hbit => ⟨_, exec_sysLockWrite_of_answers hr ha hbit, rfl, rfl⟩,
    fun s st hstart hheld => yields_startRelease_unlocked hstart hheld, fun c s t ht hset hclear => ?_⟩
  have hc : c = .startRelease := by
    by_contra hne
    have hheld := exec_holdsLock s hne t ht hset
    rw [hclear] at hheld
    contradiction
  subst hc
  exact ⟨rfl, execStartRelease_isSome_of_unlocked ht hset hclear⟩

end Sys2Proof.Machine
end

section
/-! PROOFS. What one step may do to the invariants of the block. `Safe` says that an operation keeps the invariants, leaves the
queue and unburns no fuse, `Kept` that it leaves TMR_UPTIME too. Both are preorders, so that a meaning does no more than its
operations. -/

namespace Sys2Proof.Machine

set_option Elab.async false

/-- Unread entries of the violation log are within its 64 places (R321). -/
def VlogBounded (s : State) : Prop := (s.hif.vlogWr - s.hif.vlogRd).toNat ≤ 64

/-- Unread entries of the report ring are within its 64 places (R174). -/
def ReportsBounded (s : State) : Prop := (s.snt.wr - s.snt.rd).toNat ≤ 64

/-- From `s` to `t` the queue stays, no fuse is unburnt, and every invariant that holds of `s` holds of `t`. A field left out is
as in `s`, or follows from what is. -/
structure Safe (s t : State) : Prop where
  queue : t.pending = s.pending := by exact rfl
  fuses : FusesKept s t := by exact ⟨id, id, id, le_refl _, le_refl _⟩
  cistern : Memory.wf s.cistern = true → Memory.wf t.cistern = true := by exact id
  weights : Memory.wf s.weights = true → Memory.wf t.weights = true := by exact id
  kmbx : Memory.wf s.kmbx = true → Memory.wf t.kmbx = true := by exact id
  violations : VlogBounded s → VlogBounded t := by exact id
  reports : ReportsBounded s → ReportsBounded t := by exact id
  cids : CidsFresh s → CidsFresh t := by exact id
  maint : MaintBounded s → MaintBounded t := by exact id
  shapes : ShapesFixed s → ShapesFixed t := by exact id
  trims : TrimsHeld s → TrimsHeld t := by exact id
  limits : LimitsLegal s → LimitsLegal t := by exact id

/-- Safe, and TMR_UPTIME stays. -/
structure Kept (s t : State) : Prop extends Safe s t where
  time : t.tmr.uptime = s.tmr.uptime := by exact rfl

variable {s t u σ τ : State}

theorem FusesKept.refl (s : State) : FusesKept s s := ⟨id, id, id, le_refl _, le_refl _⟩

theorem FusesKept.trans (h : FusesKept s t) (k : FusesKept t u) : FusesKept s u := by
  obtain ⟨hprov, hdepl, hret, hin, hout⟩ := h
  obtain ⟨kprov, kdepl, kret, kin, kout⟩ := k
  exact ⟨kprov ∘ hprov, kdepl ∘ hdepl, kret ∘ hret, hin.trans kin, hout.trans kout⟩

theorem Safe.trans (h : Safe s t) (k : Safe t u) : Safe s u where
  queue := k.queue.trans h.queue
  fuses := h.fuses.trans k.fuses
  cistern := k.cistern ∘ h.cistern
  weights := k.weights ∘ h.weights
  kmbx := k.kmbx ∘ h.kmbx
  violations := k.violations ∘ h.violations
  reports := k.reports ∘ h.reports
  cids := k.cids ∘ h.cids
  maint := k.maint ∘ h.maint
  shapes := k.shapes ∘ h.shapes
  trims := k.trims ∘ h.trims
  limits := k.limits ∘ h.limits

theorem Kept.refl (s : State) : Kept s s := {}

theorem Kept.trans (h : Kept s t) (k : Kept t u) : Kept s u where
  toSafe := h.toSafe.trans k.toSafe
  time := k.time.trans h.time

/-- A state that differs in nothing the invariants speak of. -/
theorem Kept.same (h : Kept s t) (k : Kept t u := by exact {}) : Kept s u := h.trans k

theorem Kept.ite {c : Prop} [Decidable c] (h : Kept s t) (k : Kept s u) : Kept s (if c then t else u) := by
  split
  · exact h
  · exact k

theorem Kept.foldl {α : Type} {l : List α} {f : State → α → State} (h : Kept s t)
    (hf : ∀ {u a}, Kept s u → Kept s (f u a)) : Kept s (l.foldl f t) := by
  induction l generalizing t with
  | nil => exact h
  | cons a l ih => exact ih (hf h)

/-- The same for a fold that gathers something beside the state. -/
theorem Kept.foldl_fst {α β : Type} {l : List α} {f : State × β → α → State × β} {acc : State × β} (h : Kept s acc.1)
    (hf : ∀ {x a}, Kept s x.1 → Kept s (f x a).1) : Kept s (l.foldl f acc).1 := by
  induction l generalizing acc with
  | nil => exact h
  | cons a l ih => exact ih (hf h)

/-- Where an outcome is a next state, it is kept. -/
def KeptBy (s : State) (o : Host.Outcome State Fault Refusal) : Prop := ∀ t, o = .next t → Kept s t

@[simp] theorem keptBy_next : KeptBy s (.next t) ↔ Kept s t := ⟨fun h => h t rfl, fun h _ e => by cases e; exact h⟩

theorem keptBy_fault (f : Fault) : KeptBy s (.fault f) := fun _ e => by cases e

end Sys2Proof.Machine
end

section
/-! PROOFS. The invariants under the named operations: registers by number, sending, interrupting and logging. -/

namespace Sys2Proof.Machine

set_option Elab.async false

variable {s t u σ τ : State}

/-- Commands that are some of those before, or such commands changed, have fresh numbers. -/
theorem CidsFresh.mono (hn : s.nextCid ≤ t.nextCid) (hc : ∀ c ∈ t.cmds, ∃ x ∈ s.cmds, x.cid = c.cid) (h : CidsFresh s) :
    CidsFresh t := by
  intro c hct
  obtain ⟨x, hxs, hx⟩ := hc c hct
  exact hx ▸ (h x hxs).trans_le hn

/-- The commands mapped, each with the number it had. -/
theorem CidsFresh.map {f : Cmd → Cmd} (hf : ∀ x, (f x).cid = x.cid) (hn : t.nextCid = s.nextCid)
    (hc : t.cmds = s.cmds.map f) (h : CidsFresh s) : CidsFresh t := by
  refine h.mono hn.ge fun c hct => ?_
  obtain ⟨x, hx, rfl⟩ := List.mem_map.mp (hc ▸ hct)
  exact ⟨x, hx, (hf x).symm⟩

/-- Some of the commands. -/
theorem CidsFresh.filter {p : Cmd → Bool} (hn : t.nextCid = s.nextCid) (hc : t.cmds = s.cmds.filter p) (h : CidsFresh s) :
    CidsFresh t :=
  h.mono hn.ge fun c hct => ⟨c, List.mem_of_mem_filter (hc ▸ hct), rfl⟩

theorem Kept.updRing {g : Nat} {f : Ring → Ring} (hτ : Kept σ τ) : Kept σ (τ.updRing g f) := hτ.same

/-- The numbers that ShapesFixed fixes. -/
def State.lengths (s : State) : List Nat :=
  [s.ters.length, s.csi.length, s.intake.length, s.afe.chans.length, s.snt.s.length, s.snt.rpt.length, s.str.s.length,
    s.hif.owner.length, s.casc.chain.length, s.casc.route.length, s.casc.pairs.length, s.casc.applied.length, s.hkStores.length,
    s.hif.flrEnd.length, s.hif.bars.length]

theorem shapesFixed_iff (s : State) :
    ShapesFixed s ↔ s.lengths = [64, 2, 2, 16, 16, 64, 32, 16, 8, 8, 3, 3, 2, 16, 5] := by
  simp [ShapesFixed, State.lengths]

theorem ShapesFixed.congr (hl : t.lengths = s.lengths) (h : ShapesFixed s) : ShapesFixed t :=
  (shapesFixed_iff t).mpr (hl.trans ((shapesFixed_iff s).mp h))

/-- The basin's trims are held in -128 to +127 (R202). -/
def Basin.TrimsIn (b : Basin) : Prop := -128 ≤ b.gain ∧ b.gain ≤ 127 ∧ -128 ≤ b.offset ∧ b.offset ≤ 127

theorem basin_updBasin (s : State) (n k : Nat) (f : Basin → Basin) :
    (s.updBasin n f).basin k = if k = n then f (s.basin n) else s.basin k := by
  unfold State.updBasin State.basin
  rw [Tab.getD_set]

/-- A basin changed, its trims still held. -/
theorem Kept.updBasin {n : Nat} {f : Basin → Basin} (hτ : Kept σ τ) (hf : ∀ b, b.TrimsIn →
    (f b).TrimsIn := by exact fun _ => id) :
    Kept σ (τ.updBasin n f) := by
  refine hτ.same { trims := fun h k => ?_ }
  rw [basin_updBasin]
  split
  · exact hf _ (h n)
  · exact h k

theorem Kept.updTer {t : Nat} {f : Terrace → Terrace} (hτ : Kept σ τ) : Kept σ (τ.updTer t f) :=
  hτ.same { shapes := .congr (by simp [State.updTer, State.lengths]) }

theorem Kept.setTerPower {t : Nat} {p : TerPower} (hτ : Kept σ τ) : Kept σ (τ.setTerPower t p) := hτ.same

/-! Updates of a block that no invariant speaks of, on a state that is not a variable. -/

theorem Kept.setWpe {w : Wpe} (hτ : Kept σ τ) : Kept σ { τ with wpe := w } := hτ.same

theorem Kept.setBist {b : Bist} (hτ : Kept σ τ) : Kept σ { τ with bist := b } := hτ.same

theorem Kept.setSlc {z : Sluice} (hτ : Kept σ τ) : Kept σ { τ with slc := z } := hτ.same

theorem Kept.setFree {n : Nat} (hτ : Kept σ τ) : Kept σ { τ with free := n } := hτ.same

theorem Kept.updChan {n : Nat} {f : AfeChan → AfeChan} (hτ : Kept σ τ) : Kept σ (τ.updChan n f) :=
  hτ.same { shapes := .congr (by simp [State.updChan, State.lengths]) }

theorem Kept.updSentinel {n : Nat} {f : Sentinel → Sentinel} (hτ : Kept σ τ) : Kept σ (τ.updSentinel n f) :=
  hτ.same { shapes := .congr (by simp [State.updSentinel, State.lengths]) }

theorem Kept.updStream {i : Nat} {f : Stream → Stream} (hτ : Kept σ τ) : Kept σ (τ.updStream i f) :=
  hτ.same { shapes := .congr (by simp [State.updStream, State.lengths]) }

theorem Kept.updUnit {u : Nat} {f : Intake → Intake} (hτ : Kept σ τ) : Kept σ (τ.updUnit u f) :=
  hτ.same { shapes := .congr (by simp [State.updUnit, State.lengths]) }

theorem Kept.updCsi {p : Nat} {f : CsiPort → CsiPort} (hτ : Kept σ τ) : Kept σ (τ.updCsi p f) :=
  hτ.same { shapes := .congr (by simp [State.updCsi, State.lengths]) }

theorem Kept.updPair {k : Nat} {f : Pair → Pair} (hτ : Kept σ τ) : Kept σ (τ.updPair k f) :=
  hτ.same { shapes := .congr (by simp [State.updPair, State.lengths]) }

theorem Kept.updGraph {h : Nat} {f : Graph → Graph} (hτ : Kept σ τ) : Kept σ (τ.updGraph h f) := hτ.same

/-- A command changed beside its number. -/
theorem Kept.updCmd {c : Nat} {f : Cmd → Cmd} (hτ : Kept σ τ) (hf : ∀ x, (f x).cid = x.cid := by exact fun _ => rfl) :
    Kept σ (τ.updCmd c f) := by
  refine hτ.same { cids := CidsFresh.map (f := fun x => if x.cid == c then f x else x) (fun x => ?_) rfl rfl }
  split
  · exact hf x
  · rfl

theorem Kept.updRun {c : Nat} {f : Run → Run} (hτ : Kept σ τ) : Kept σ (τ.updRun c f) := by
  unfold State.updRun
  refine hτ.updCmd fun x => ?_
  split <;> rfl

theorem Kept.emit {e : Emit} (hτ : Kept σ τ) : Kept σ (τ.emit e) := hτ.same

theorem Kept.leaveL1 (hτ : Kept σ τ) : Kept σ (τ.leaveL1) := hτ.same

theorem Kept.post {e : Emit} {credit src : Option (Nat × Nat)} (hτ : Kept σ τ) : Kept σ (τ.post e credit src) := by
  unfold State.post
  dsimp only
  split
  · exact hτ.leaveL1.emit
  · exact hτ.leaveL1.same
  · exact .ite (hτ.leaveL1.emit (e := e)).same hτ.leaveL1.same

theorem Kept.postWrite {f : Nat} {addr : DWord} {bytes : List Byte} {relaxed : Bool} {credit src : Option
    (Nat × Nat)} (hτ : Kept σ τ) :
    Kept σ (τ.postWrite f addr bytes relaxed credit src) :=
  hτ.foldl fun h => h.post

theorem Kept.issueRead {f : Nat} {addr : DWord} {len : Nat} (hτ : Kept σ τ) : Kept σ (τ.issueRead f addr len) :=
  hτ.foldl fun h => h.leaveL1.emit

theorem Kept.setMsixPending {f e : Nat} {p : Bool} (hτ : Kept σ τ) : Kept σ (τ.setMsixPending f e p) := hτ.same

theorem Kept.signal {f e : Nat} (hτ : Kept σ τ) : Kept σ (τ.signal f e) := .ite hτ (.ite hτ.setMsixPending hτ.post)

theorem Kept.devVec {k : Nat} (hτ : Kept σ τ) : Kept σ (τ.devVec k) :=
  .ite hτ (.ite hτ.same (.ite hτ.same.emit.setMsixPending hτ.same.signal))

/-- A log that drops its oldest entry when it is full stays within its places. -/
theorem unread_le_of_full (wr rd : BitVec 16) (h : (wr - rd).toNat ≤ 64) :
    (wr + 1 - if 64 ≤ (wr - rd).toNat then rd + 1 else rd).toNat ≤ 64 := by
  split <;> bv_omega

theorem Kept.vlog {kind action rid func ring : Nat} {hdr : BitVec 128} (hτ : Kept σ τ) :
    Kept σ (τ.vlog kind action rid func ring hdr) := by
  unfold State.vlog
  refine (hτ.same { violations := fun h => ?_ }).devVec
  simpa [VlogBounded] using unread_le_of_full τ.hif.vlogWr τ.hif.vlogRd h

theorem Kept.vlogTlp {kind action func ring : Nat} {t : Tlp} (hτ : Kept σ τ) :
    Kept σ (τ.vlogTlp kind action func ring t) :=
  hτ.vlog

theorem Kept.dlog {source event : Nat} {arg0 : Word} {arg1 : DWord} (hτ : Kept σ τ) :
    Kept σ (τ.dlog source event arg0 arg1) :=
  hτ.same.devVec

theorem Kept.signalRing {g : Nat} (hτ : Kept σ τ) : Kept σ (τ.signalRing g) := hτ.updRing.signal

end Sys2Proof.Machine
end

section
/-! PROOFS. The invariants under fetching, admission, completion records and the end of a command. -/

namespace Sys2Proof.Machine

set_option Elab.async false

variable {s t u σ τ : State}

theorem Kept.fetchRing {g : Nat} (hτ : Kept σ τ) : Kept σ (τ.fetchRing g) := hτ.same.issueRead

theorem Kept.fetchAll {fuel : Nat} (hτ : Kept σ τ) : Kept σ (τ.fetchAll fuel) := by
  induction fuel generalizing τ with
  | zero => exact hτ
  | succ n ih =>
    unfold State.fetchAll
    split
    · exact hτ
    · exact ih hτ.fetchRing

theorem Kept.fetchList {g : Nat} (hτ : Kept σ τ) : Kept σ (τ.fetchList g) := by
  unfold State.fetchList
  split
  · exact hτ
  · exact .ite hτ hτ.updRing.issueRead

theorem Kept.fetchWork (hτ : Kept σ τ) : Kept σ (τ.fetchWork) := (hτ.foldl fun h => h.fetchList).fetchAll

theorem Kept.dropResults {cid : Option Nat} {g : Nat} (hτ : Kept σ τ) : Kept σ (τ.dropResults cid g) := by
  unfold State.dropResults
  dsimp only
  split
  · exact hτ.vlog
  · exact .ite hτ hτ.same.vlog

theorem Kept.countEnd {st : Nat} (hτ : Kept σ τ) : Kept σ (τ.countEnd st) := hτ.same

theorem Kept.writeRecord {g tag op : Nat} {inList irqNow detached : Bool} {cid : Option Nat}
    {start evals skipped : Nat} {e : End} (hτ : Kept σ τ) :
    Kept σ (τ.writeRecord g tag op inList irqNow detached cid start evals skipped e) :=
  .ite hτ (.ite hτ.dropResults (.ite hτ.post.updRing.signalRing hτ.post.updRing))

theorem Kept.ringIdle {g : Nat} (hτ : Kept σ τ) : Kept σ (τ.ringIdle g) := .ite hτ.updRing hτ

theorem Kept.weightEvent {x : Cmd} (hτ : Kept σ τ) : Kept σ (τ.weightEvent x) := .ite hτ.devVec hτ

theorem Kept.filterCmds {p : Cmd → Bool} (hτ : Kept σ τ) : Kept σ { τ with cmds := τ.cmds.filter p } :=
  hτ.same { cids := .filter rfl rfl }

theorem Kept.endCmd {c : Nat} {e : End} (hτ : Kept σ τ) : Kept σ (τ.endCmd c e) := by
  unfold State.endCmd
  split
  · exact hτ
  · exact .ite hτ.updCmd
      hτ.filterCmds.updRing.countEnd.writeRecord.ringIdle.weightEvent

theorem Kept.closeLists {fuel : Nat} (hτ : Kept σ τ) : Kept σ (τ.closeLists fuel) := by
  induction fuel generalizing τ with
  | zero => exact hτ
  | succ n ih =>
    unfold State.closeLists
    split
    · exact hτ
    · exact ih hτ.endCmd

theorem Kept.wpeIdle (hτ : Kept σ τ) : Kept σ (τ.wpeIdle) := .ite hτ.same hτ

theorem Kept.closeSessions {fuel : Nat} (hτ : Kept σ τ) : Kept σ (τ.closeSessions fuel) := by
  induction fuel generalizing τ with
  | zero => exact hτ
  | succ n ih =>
    unfold State.closeSessions
    split
    · exact hτ
    · exact ih hτ.same.endCmd.wpeIdle

theorem Kept.lcsLast {status check : Nat} (hτ : Kept σ τ) : Kept σ (τ.lcsLast status check) := hτ.same

theorem Kept.noteLifecycle {p : List Byte} {e : End} (hτ : Kept σ τ) : Kept σ (τ.noteLifecycle p e) :=
  .ite hτ.lcsLast hτ

theorem Kept.rejectPacket {g : Nat} {p : List Byte} {depth n : Nat} {e : End} (hτ : Kept σ τ) :
    Kept σ (τ.rejectPacket g p depth n e) :=
  hτ.noteLifecycle.countEnd.updRing.writeRecord

theorem Kept.rejectHead {g : Nat} (hτ : Kept σ τ) (hu : τ.rejectHead g = some u) : Kept σ u := by
  unfold State.rejectHead at hu
  split at hu
  · cases hu
  · dsimp only at hu
    split at hu
    · obtain ⟨e, -, rfl⟩ := Option.map_eq_some_iff.mp hu
      exact hτ.rejectPacket
    · cases hu

theorem Kept.settleLoop {fuel : Nat} {g : Nat} (hτ : Kept σ τ) : Kept σ (τ.settleLoop fuel g) := by
  induction fuel generalizing τ with
  | zero => exact hτ
  | succ n ih =>
    unfold State.settleLoop
    split
    · exact hτ
    · rename_i hu
      exact ih (hτ.rejectHead hu)

theorem Kept.settle {g : Nat} (hτ : Kept σ τ) : Kept σ (τ.settle g) := hτ.settleLoop.closeLists.fetchWork

theorem Kept.finish {c : Nat} {e : End} (hτ : Kept σ τ) : Kept σ (τ.finish c e) := by
  unfold State.finish
  split
  · exact hτ
  · exact hτ.endCmd.closeLists.closeSessions.settle

theorem CidsFresh.append {c : Cmd} (hc : c.cid = s.nextCid) (hn : t.nextCid = s.nextCid + 1) (ht : t.cmds = s.cmds ++ [c])
    (h : CidsFresh s) : CidsFresh t := by
  intro x hx
  rw [hn]
  rcases List.mem_append.mp (ht ▸ hx) with hx | hx
  · exact (h x hx).trans (Nat.lt_succ_self _)
  · rw [List.mem_singleton.mp hx, hc]
    exact Nat.lt_succ_self _

theorem Kept.accept {g : Nat} {p : List Byte} {body : Body} {deadline : Option Nat} {power : Nat} (hτ : Kept σ τ) :
    Kept σ (τ.accept g p body deadline power) :=
  hτ.same { cids := .append rfl rfl rfl }

theorem Kept.complete {g : Nat} {p : List Byte} {e : End} (hτ : Kept σ τ) : Kept σ (τ.complete g p e) :=
  hτ.accept.finish

theorem Kept.onHead {g op : Nat} {barrier : Bool} {k : List Byte → State} (hτ : Kept σ τ) (hk : ∀ p, Kept σ (k p)) :
    Kept σ (τ.onHead g op barrier k) := by
  unfold State.onHead
  split
  · exact hτ
  · exact hk _

theorem Kept.dropRing {g : Nat} (hτ : Kept σ τ) : Kept σ (τ.dropRing g) := by
  unfold State.dropRing
  refine Kept.ringIdle (Kept.closeLists (hτ.same { cids := CidsFresh.map (fun c => ?_) rfl rfl }))
  split
  · split <;> rfl
  · rfl

theorem Kept.haltRing {g cause : Nat} {addr : DWord} (hτ : Kept σ τ) : Kept σ (τ.haltRing g cause addr) :=
  (Kept.ite hτ.updRing.signalRing hτ.updRing).devVec.dropRing.fetchWork

end Sys2Proof.Machine
end

section
/-! PROOFS. The invariants under host accesses and the DOZE trigger. -/

namespace Sys2Proof.Machine

set_option Elab.async false

variable {s t u σ τ : State}

theorem Kept.touch (hτ : Kept σ τ) : Kept σ (τ.touch) := .ite hτ.same (.ite hτ.same hτ)

theorem Kept.access {b : BlockGroup} {k : State → State} (hτ : Kept σ τ) (hk : ∀ {u}, Kept σ u → Kept σ (k u)) :
    Kept σ (τ.access b k) :=
  .ite hτ (hk (.ite hτ hτ.touch))

theorem Kept.misbehave {kind action func : Nat} {tlp : Tlp} (hτ : Kept σ τ) :
    Kept σ (τ.misbehave kind action func tlp) :=
  .ite hτ.leaveL1.emit.vlogTlp hτ

theorem Kept.anyTlp (hτ : Kept σ τ) : Kept σ (τ.anyTlp).2 := hτ.same

theorem Kept.noBar {f : Nat} {isRead : Bool} {tlp : Option Tlp} (hτ : Kept σ τ) : Kept σ (τ.noBar f isRead tlp) := by
  unfold State.noBar
  cases tlp with
  | some t => exact Kept.misbehave (.ite hτ.emit hτ)
  | none => exact Kept.misbehave (.ite hτ.anyTlp.emit hτ.anyTlp)

theorem Kept.hostAccess {f : Nat} {tlp : Option Tlp} {b : BlockGroup} {k : State → State} (hτ : Kept σ τ) (hk : ∀
    {u}, Kept σ u → Kept σ (k u)) :
    Kept σ (τ.hostAccess f tlp b k) :=
  .ite hτ (.ite hτ.noBar (hτ.leaveL1.access hk))

theorem Kept.hostRead {f : Nat} {tlp : Option Tlp} {b : BlockGroup} {len : Nat} {k : State → State}
    {data : State → List Byte} (hτ : Kept σ τ) (hk : ∀ {u}, Kept σ u → Kept σ (k u)) :
    Kept σ (τ.hostRead f tlp b len k data) := by
  unfold State.hostRead
  exact .ite hτ (.ite hτ.noBar (.ite hτ.leaveL1.emit (hτ.leaveL1.access fun h => (hk h).emit)))

theorem Kept.dmaWrite {cid : Nat} {addr : DWord} {bytes : List Byte} {relaxed : Bool} (hτ : Kept σ τ) :
    Kept σ (τ.dmaWrite cid addr bytes relaxed) := by
  unfold State.dmaWrite
  split
  · exact hτ
  · exact .ite hτ.dropResults hτ.postWrite

theorem Kept.dmaRead {f : Nat} {addr : DWord} {len : Nat} (hτ : Kept σ τ) : Kept σ (τ.dmaRead f addr len) :=
  .ite hτ.issueRead hτ.same

theorem Kept.releaseReads (hτ : Kept σ τ) : Kept σ (τ.releaseReads) := hτ.same.foldl fun h => h.issueRead

theorem Kept.readFailed {g kind : Nat} (hτ : Kept σ τ) : Kept σ (τ.readFailed g kind) := (Kept.ite hτ hτ.emit).vlog

theorem Kept.completeWith {g : Nat} {p : List Byte} {k : State → State} {e : End} (hτ : Kept σ τ) (hk : ∀
    {u}, Kept σ u → Kept σ (k u)) :
    Kept σ (τ.completeWith g p k e) :=
  (hk hτ.accept).finish

theorem Kept.refuse {g : Nat} {p : List Byte} {e : End} (hτ : Kept σ τ) : Kept σ (τ.refuse g p e) :=
  hτ.rejectPacket.settle

end Sys2Proof.Machine
end

section
/-! PROOFS. The invariants under terrace staging, the cascade link's frames and packets on the rill. -/

namespace Sys2Proof.Machine

set_option Elab.async false

variable {s t u σ τ : State}

theorem Kept.notePeak (hτ : Kept σ τ) : Kept σ (τ.notePeak) := hτ.same

theorem Kept.stageMore {fuel : Nat} (hτ : Kept σ τ) : Kept σ (τ.stageMore fuel) := by
  induction fuel generalizing τ with
  | zero => exact hτ
  | succ n ih =>
    unfold State.stageMore
    split
    · exact hτ
    · exact .ite (ih hτ.same) hτ

theorem Kept.needTerrace {t : Nat} (hτ : Kept σ τ) : Kept σ (τ.needTerrace t) := .ite (Kept.stageMore hτ.same) hτ

theorem Kept.needTerraces {ts : List Nat} (hτ : Kept σ τ) : Kept σ (τ.needTerraces ts) :=
  (hτ.foldl fun h => h.needTerrace).notePeak

theorem Kept.wakePeriph {n : Nat} (hτ : Kept σ τ) : Kept σ (τ.wakePeriph n) := .ite hτ hτ.same

theorem Kept.usePeriph {n : Nat} (hτ : Kept σ τ) : Kept σ (τ.usePeriph n) := by
  unfold State.usePeriph
  split
  · exact hτ.same
  · exact hτ

theorem Kept.updPort {up : Bool} {f : CascPort → CascPort} (hτ : Kept σ τ) : Kept σ (τ.updPort up f) := by
  refine hτ.same { shapes := ?_ }
  unfold State.updPort
  split <;> exact id

theorem Kept.sendFrame {up : Bool} {slots : List FlitSlot} {nak : Bool} (hτ : Kept σ τ) :
    Kept σ (τ.sendFrame up slots nak) :=
  hτ.updPort.emit

theorem Kept.sendFlits {fuel : Nat} {up : Bool} {flits : List FlitSlot} (hτ : Kept σ τ) :
    Kept σ (τ.sendFlits fuel up flits) := by
  induction fuel generalizing τ flits with
  | zero => cases flits <;> exact hτ
  | succ n ih =>
    cases flits with
    | nil => exact hτ
    | cons x xs => exact ih hτ.sendFrame

theorem Kept.bridgeSend {up : Bool} (hτ : Kept σ τ) : Kept σ (τ.bridgeSend up) := .ite hτ hτ.updPort.sendFlits

theorem Kept.failRun {h seq t : Nat} (hτ : Kept σ τ) : Kept σ (τ.failRun h seq t) := by
  unfold State.failRun
  split
  · exact hτ
  · exact hτ.updRun

theorem Kept.noteBehind {p : Packet} (hτ : Kept σ τ) : Kept σ (τ.noteBehind p) := by
  unfold State.noteBehind
  dsimp only
  split
  · exact hτ.updRun
  · exact hτ

theorem Kept.delayRuns {g : Nat} {which : Run → Bool} (hτ : Kept σ τ) : Kept σ (τ.delayRuns g which) := by
  refine hτ.same { cids := CidsFresh.map (fun c => ?_) rfl rfl }
  split
  · split <;> rfl
  · rfl

theorem Kept.badPacket {p : Packet} {t : Nat} (hτ : Kept σ τ) : Kept σ (τ.badPacket p t) := hτ.updTer.failRun

theorem Kept.uncorrectable {t : Nat} {f : Terrace → Terrace} (hτ : Kept σ τ) : Kept σ (τ.uncorrectable t f) :=
  hτ.updTer.dlog

theorem Kept.transit {p : Packet} (hτ : Kept σ τ) : Kept σ (τ.transit p).1 := by
  unfold State.transit
  split
  · exact hτ.uncorrectable.failRun
  · exact hτ.uncorrectable.failRun
  · exact hτ.updTer
  · exact hτ
  · exact hτ

theorem Kept.crossHop {p : Packet} {h : Hop} (hτ : Kept σ τ) : Kept σ (τ.crossHop p h) := hτ.updTer.same

theorem Kept.leaveRill {p : Packet} (hτ : Kept σ τ) : Kept σ (τ.leaveRill p) := hτ.same.foldl fun h => h.crossHop

theorem Kept.bridgeOn {p : Packet} (hτ : Kept σ τ) : Kept σ (τ.bridgeOn p) := by
  unfold State.bridgeOn
  split
  · exact hτ.same.bridgeSend
  · exact hτ.same.bridgeSend
  · exact hτ.same.dlog.failRun

theorem Kept.bridge {p : Packet} (hτ : Kept σ τ) : Kept σ (τ.bridge p) := .ite hτ hτ.bridgeOn

theorem Kept.flushBridge (hτ : Kept σ τ) : Kept σ (τ.flushBridge) := hτ.foldl fun h => h.leaveRill.bridge

theorem Kept.enterRill {p : Packet} (hτ : Kept σ τ) : Kept σ (τ.enterRill p) :=
  (hτ.needTerraces (ts := (τ.way p).map (fun h => h.ter))).same

theorem Kept.send {p : Packet} (hτ : Kept σ τ) : Kept σ (τ.send p) := .ite hτ.enterRill hτ.enterRill.flushBridge

theorem Kept.holdRoute {h seq t : Nat} (hτ : Kept σ τ) : Kept σ (τ.holdRoute h seq t) := by
  unfold State.holdRoute
  split
  · exact hτ
  · exact hτ.delayRuns

theorem Kept.arrive {p : Packet} {k : State → State} (hτ : Kept σ τ) (hk : ∀ {u}, Kept σ u → Kept σ (k u)) :
    Kept σ (τ.arrive p k) := by
  unfold State.arrive
  split
  · exact hτ
  split
  · exact hτ.needTerraces
  split
  · exact (hτ.noteBehind (p := p)).same
  dsimp only
  have hd := (hτ.leaveRill (p := p)).transit (p := p)
  exact .ite hτ.leaveRill.badPacket (.ite (hk (.ite hd.holdRoute hd)) (.ite hd.holdRoute hd))

theorem Kept.writeBuffer {g : Graph} {slot buf half seq : Nat} {bs : List Byte} {poison : Bool} (hτ : Kept σ τ) :
    Kept σ (τ.writeBuffer g slot buf half seq bs poison) := by
  unfold State.writeBuffer
  split
  · exact Kept.updGraph (hτ.same { cistern := Memory.writeN_wf _ _ _ })
  · exact hτ

theorem Kept.writeSlot {p : Packet} (hτ : Kept σ τ) : Kept σ (τ.writeSlot p) := by
  unfold State.writeSlot
  split
  · exact hτ.badPacket
  split
  · exact hτ.badPacket
  · exact .ite hτ.badPacket hτ.writeBuffer

theorem Kept.sendCredit {g : Graph} {idx fromTer : Nat} {fromEngine : Bool} {seq : Nat} (hτ : Kept σ τ) :
    Kept σ (τ.sendCredit g idx fromTer fromEngine seq) := by
  unfold State.sendCredit
  dsimp only
  split
  · split
    · exact hτ.send
    · exact hτ
  · exact hτ.send

theorem Kept.deliverPorts {fuel : Nat} {h : Nat} (hτ : Kept σ τ) : Kept σ (τ.deliverPorts fuel h) := by
  induction fuel generalizing τ with
  | zero => exact hτ
  | succ n ih =>
    unfold State.deliverPorts
    split
    · exact hτ
    dsimp only
    split
    · exact hτ
    split
    · exact hτ
    · exact ih (hτ.updGraph.foldl fun h => h.send)

theorem Kept.portData {h port seq : Nat} {bs : List Byte} (hτ : Kept σ τ) : Kept σ (τ.portData h port seq bs) :=
  hτ.updGraph.deliverPorts

theorem Kept.postDone {p : Posted} (hτ : Kept σ τ) : Kept σ (τ.postDone p) := by
  unfold State.postDone
  split
  · exact hτ
  rename_i e _
  have h1 : Kept σ (match p.src.map (fun x => x.1) with
      | some c => τ.updRun c (fun r => r.portDone e)
      | none => τ) := by
    split
    · exact hτ.updRun
    · exact hτ
  dsimp only
  split
  · exact h1.sendCredit
  · exact h1

theorem Kept.writeOutput {cid ring : Nat} {addr : DWord} {bytes : List Byte} {credit : Nat × Nat} (hτ : Kept σ τ) :
    Kept σ (τ.writeOutput cid ring addr bytes credit) :=
  .ite hτ.postWrite.updRun hτ.postWrite.postDone

theorem Kept.engineData {p : Packet} (hτ : Kept σ τ) : Kept σ (τ.engineData p) := by
  unfold State.engineData
  split
  · exact hτ.badPacket
  rename_i g _
  dsimp only
  split
  · rename_i e o _ _
    have hupd {f : Run → Run} {τ' : State} (h : Kept σ τ') : Kept σ (match τ.runOf p.graph p.runSeq with
        | some c => τ'.updRun c f
        | none => τ') := by
      split
      · exact h.updRun
      · exact h
    split
    · exact .ite (hupd hτ).updGraph (hupd (hupd hτ)).sendCredit
    split
    · exact (hupd hτ).sendCredit
    split
    · split
      · exact (hupd hτ).sendCredit
      · exact .ite (hupd hτ).sendCredit (.ite (hupd hτ.dropResults).sendCredit hτ.writeOutput)
    · exact (hupd hτ).sendCredit
  · exact hτ.badPacket

@[simp] theorem execActData_kept (p : Packet) (s : State) : KeptBy s (execActData p s) :=
  keptBy_next.mpr ((Kept.refl s).arrive fun h => .ite h.badPacket (.ite h.engineData h.writeSlot))

@[simp] theorem execTensorData_kept (p : Packet) (s : State) : KeptBy s (execTensorData p s) :=
  keptBy_next.mpr ((Kept.refl s).arrive fun h => .ite h.badPacket h.writeSlot)

@[simp] theorem execReadReq_kept (p : Packet) (s : State) : KeptBy s (execReadReq p s) := by
  unfold execReadReq
  refine keptBy_next.mpr ((Kept.refl s).arrive fun h => .ite h.badPacket ?_)
  split
  · exact h.badPacket
  · exact .ite h.badPacket (h.same.foldl fun h => h.send)

@[simp] theorem execReadData_kept (p : Packet) (s : State) : KeptBy s (execReadData p s) := by
  unfold execReadData
  refine keptBy_next.mpr ((Kept.refl s).arrive fun h => .ite h.badPacket ?_)
  split
  · exact h.badPacket
  · exact h.same.emit

@[simp] theorem execCredit_kept (p : Packet) (s : State) : KeptBy s (execCredit p s) :=
  keptBy_next.mpr ((Kept.refl s).arrive fun h => .ite h.badPacket h.updGraph.deliverPorts)

@[simp] theorem execPrewake_kept (p : Packet) (s : State) : KeptBy s (execPrewake p s) :=
  keptBy_next.mpr ((Kept.refl s).arrive fun h => .ite h.badPacket (h.foldl fun h => h.wakePeriph))

@[simp] theorem execMoatSet_kept (p : Packet) (s : State) : KeptBy s (execMoatSet p s) :=
  keptBy_next.mpr ((Kept.refl s).arrive fun h => .ite h.badPacket h.updTer.flushBridge)

@[simp] theorem execForwardPacket_kept (handle place edge : Nat) (cis : Fin 3) (s : State) :
    KeptBy s (execForwardPacket handle place edge cis s) := by
  unfold execForwardPacket
  rw [keptBy_next]
  have h := Kept.refl s
  split
  · exact h
  split
  · rename_i pl _ _ _
    split
    · exact h
    rename_i f _ _
    refine .ite h ?_
    split
    · exact h
    have h1 : Kept s (match cis.val with
        | 1 => s.updTer pl.ter (fun x => { x with corrected := satInc 0xFFF x.corrected })
        | 2 => ((s.uncorrectable pl.ter (fun x => { x with uncorrCis := true })).failRun handle f.runSeq pl.ter).holdRoute handle
            f.runSeq pl.ter
        | _ => s) := by
      split
      · exact h.updTer
      · exact h.uncorrectable.failRun.holdRoute
      · exact h
    exact h1.same.updGraph.send
  · exact h

end Sys2Proof.Machine
end

section
/-! PROOFS. The invariants under mirror records on the active device. -/

namespace Sys2Proof.Machine

set_option Elab.async false

variable {s t u σ τ : State}

theorem Kept.mirrorPump {fuel : Nat} {k : Nat} (hτ : Kept σ τ) : Kept σ (τ.mirrorPump fuel k) := by
  induction fuel generalizing τ with
  | zero => exact hτ
  | succ n ih =>
    unfold State.mirrorPump
    dsimp only
    split
    · exact hτ
    · exact .ite (ih (.ite hτ.updPair.emit hτ.updPair)) hτ

theorem Kept.mirrorPush {k ring tag opcode handle runSeq : Nat} {parts : List (Nat × List Byte × Option
    (Nat × Nat))} {cmdFirst cmdLast : Bool} (hτ : Kept σ τ) :
    Kept σ (τ.mirrorPush k ring tag opcode handle runSeq parts cmdFirst cmdLast) :=
  hτ.updPair.mirrorPump

theorem Kept.mirrorCmd {c : Nat} {devs : List Nat} {handle runSeq : Nat} {parts : Nat → List
    (Nat × List Byte × Option (Nat × Nat))} {cmdFirst cmdLast : Bool} (hτ : Kept σ τ) :
    Kept σ (τ.mirrorCmd c devs handle runSeq parts cmdFirst cmdLast) := by
  unfold State.mirrorCmd
  split
  · exact hτ
  · exact hτ.foldl fun h => .ite h.mirrorPush.updCmd h.mirrorPush

theorem Kept.releaseHeld {fuel : Nat} (hτ : Kept σ τ) : Kept σ (τ.releaseHeld fuel) := by
  induction fuel generalizing τ with
  | zero => exact hτ
  | succ n ih =>
    unfold State.releaseHeld
    split
    · exact hτ
    · exact ih hτ.updCmd.finish

theorem Kept.mirrorStop (hτ : Kept σ τ) : Kept σ (τ.mirrorStop) := by
  unfold State.mirrorStop
  have h0 {l : List Nat} : Kept σ (l.foldl (fun t c => t.finish c endState) τ) := hτ.foldl fun h => h.finish
  exact (h0.same { shapes := by simp +contextual [ShapesFixed] }).releaseHeld

end Sys2Proof.Machine
end

section
/-! PROOFS. The invariants under loading, staging and unloading graphs. -/

namespace Sys2Proof.Machine

set_option Elab.async false

variable {s t u σ τ : State}

theorem Kept.pick {n : Nat} {ok : Nat → Bool} (hτ : Kept σ τ) : Kept σ (τ.pick n ok).2 := hτ.same

theorem Kept.pickOr {first : Bool} {n : Nat} {ok : Nat → Bool} (hτ : Kept σ τ) : Kept σ (τ.pickOr first n ok).2 :=
  by unfold State.pickOr; split <;> exact hτ.same

theorem Kept.placeSlot {first : Bool} {c : Cgd} {taken : List Slot} {i : Nat} {x : SlotRec} (hτ : Kept σ τ) :
    Kept σ (τ.placeSlot first c taken i x).2 := by
  unfold State.placeSlot
  dsimp only
  split
  · exact hτ.pickOr
  · split
    · exact hτ.pickOr.pickOr.pickOr
    · exact hτ.pickOr.pickOr.pickOr

theorem Kept.placeFrom {first : Bool} {c : Cgd} {taken : List Slot} {i : Nat} {recs : List SlotRec} (hτ : Kept σ τ) :
    Kept σ (τ.placeFrom first c taken i recs).2 := by
  induction recs generalizing τ taken i with
  | nil => exact hτ
  | cons x xs ih =>
    have h1 := hτ.placeSlot (first := first) (c := c) (taken := taken) (i := i) (x := x)
    unfold State.placeFrom
    split
    · rename_i hx
      rwa [hx] at h1
    · rename_i y s' hx
      rw [hx] at h1
      have h2 := ih (taken := taken ++ [y]) (i := i + 1) h1
      split
      all_goals
        rename_i ht
        rwa [ht] at h2

theorem Kept.placeSlots {c : Cgd} {taken : List Slot} {recs : List SlotRec} (hτ : Kept σ τ) :
    Kept σ (τ.placeSlots c taken recs).2 := by
  unfold State.placeSlots
  have h1 := hτ.placeFrom (first := false) (c := c) (taken := taken) (i := 0) (recs := recs)
  split
  · rename_i hx
    rwa [hx] at h1
  · rename_i hx
    rw [hx] at h1
    exact h1.placeFrom

theorem Kept.presetDelay {h seq : Nat} (hτ : Kept σ τ) : Kept σ (τ.presetDelay h seq) := by
  unfold State.presetDelay
  split
  · exact hτ
  refine hτ.foldl fun h => .ite h ?_
  split
  · exact h
  split
  · exact .ite h.writeBuffer h
  · exact h

theorem Kept.install {g : Graph} (hτ : Kept σ τ) : Kept σ (τ.install g) := hτ.same.presetDelay.needTerraces.notePeak

theorem Kept.tellMembers {cid : Nat} {g : Graph} {w : Work} (hτ : Kept σ τ) : Kept σ (τ.tellMembers cid g w) := by
  unfold State.tellMembers
  split
  · exact hτ
  · exact .ite (hτ.foldl fun h => h.emit) hτ

theorem Kept.numberShadows {c : Cmd} {g : Graph} (hτ : Kept σ τ) : Kept σ (τ.numberShadows c g) :=
  .ite (hτ.foldl fun h => h.emit) hτ

@[simp] theorem execGraphLoad_kept (ring : Fin 1024) (s : State) : KeptBy s (execGraphLoad ring s) :=
  keptBy_next.mpr ((Kept.refl s).onHead fun _ => .ite (.refl s) (Kept.refl s).accept.dmaRead.settle)

theorem Kept.loadGraph {c : Cmd} {b : List Byte} {len : Nat} {bind : Bool} {offset window : Nat} (hτ : Kept σ τ) :
    Kept σ (τ.loadGraph c b len bind offset window) := by
  unfold State.loadGraph
  split
  · exact hτ.finish
  split
  · exact hτ.finish
  have hp := hτ.placeSlots (c := parseCgd b) (taken := τ.reservedSlots) (recs := (parseCgd b).slots)
  dsimp only
  split
  · exact hτ.finish
  rename_i hs
  rw [hs] at hp
  refine .ite hτ.finish ?_
  split
  · exact hτ.finish
  · exact (hp.pick.install.tellMembers.numberShadows.mirrorCmd).finish

@[simp] theorem execCgdReadComplete_kept (cid : Nat) (result : ReadResult) (s : State) :
    KeptBy s (execCgdReadComplete cid result s) := by
  unfold execCgdReadComplete
  rw [keptBy_next]
  have h := Kept.refl s
  split
  · exact h
  split
  · split
    · exact h.loadGraph
    · exact h.readFailed.finish
    · exact h
  · exact h

theorem Kept.dropBanks {ters : List Nat} (hτ : Kept σ τ) : Kept σ (τ.dropBanks ters) :=
  hτ.foldl fun h => h.foldl fun h => .ite h (h.same { cistern := Memory.clear_wf _ _ _ })

theorem Kept.releaseGraph {g : Graph} (hτ : Kept σ τ) : Kept σ (τ.releaseGraph g) :=
  Kept.dropBanks (hτ.same { shapes := .congr (by simp [State.lengths]) })

@[simp] theorem execGraphUnload_kept (ring : Fin 1024) (s : State) : KeptBy s (execGraphUnload ring s) := by
  unfold execGraphUnload
  refine keptBy_next.mpr ((Kept.refl s).onHead fun _ => ?_)
  dsimp only
  split
  · exact (Kept.refl s).refuse
  · exact .ite (.refl s) (Kept.refl s).accept.updGraph.settle

@[simp] theorem execGraphRelease_kept (handle : Nat) (s : State) : KeptBy s (execGraphRelease handle s) := by
  unfold execGraphRelease
  rw [keptBy_next]
  have h := Kept.refl s
  split
  · exact h
  split
  · exact h
  · exact .ite h h.tellMembers.mirrorCmd.releaseGraph.finish

@[simp] theorem execLayerThreshold_kept (ring : Fin 1024) (s : State) : KeptBy s (execLayerThreshold ring s) := by
  unfold execLayerThreshold
  refine keptBy_next.mpr ((Kept.refl s).onHead fun _ => ?_)
  have h := Kept.refl s
  dsimp only
  split
  · exact h.refuse
  · exact .ite h.refuse (.ite h.refuse (.ite h (h.completeWith fun h => h.updGraph.tellMembers.mirrorCmd)))

@[simp] theorem execExactMode_kept (ring : Fin 1024) (s : State) : KeptBy s (execExactMode ring s) := by
  unfold execExactMode
  refine keptBy_next.mpr ((Kept.refl s).onHead fun _ => ?_)
  have h := Kept.refl s
  dsimp only
  split
  · exact h.refuse
  · exact .ite h (h.completeWith fun h => h.updGraph.tellMembers.mirrorCmd)

theorem Kept.stage {r op kind : Nat} (hτ : Kept σ τ) : Kept σ (τ.stage r op kind) := by
  unfold State.stage
  refine hτ.onHead fun _ => ?_
  dsimp only
  split
  · exact hτ.refuse
  split
  · exact hτ.refuse
  · exact .ite hτ.refuse (.ite hτ.refuse (.ite hτ.refuse (hτ.completeWith fun h => h.same)))

@[simp] theorem execTensorIn_kept (ring : Fin 1024) (s : State) : KeptBy s (execTensorIn ring s) :=
  keptBy_next.mpr (Kept.refl s).stage

@[simp] theorem execTensorOut_kept (ring : Fin 1024) (s : State) : KeptBy s (execTensorOut ring s) :=
  keptBy_next.mpr (Kept.refl s).stage

end Sys2Proof.Machine
end

section
/-! PROOFS. The invariants under firings, evaluations that complete, and the trims, which are clamped (R202). -/

namespace Sys2Proof.Machine

set_option Elab.async false

variable {s t u σ τ : State}

theorem Kept.prewakeConsumers {g : Graph} {p : Placement} {seq : Nat} (hτ : Kept σ τ) :
    Kept σ (τ.prewakeConsumers g p seq) := by
  unfold State.prewakeConsumers
  refine hτ.foldl fun h => ?_
  split
  · exact h
  · exact .ite (h.foldl fun h => h.wakePeriph) h.send

theorem Kept.releaseInput {g : Graph} {p : Placement} {inp : Option (Nat × Slot × Buffer)} {buf : Nat}
    (hτ : Kept σ τ) :
    Kept σ (τ.releaseInput g p inp buf) := by
  unfold State.releaseInput
  split
  · exact hτ
  · exact hτ.updGraph.foldl fun h => h.sendCredit

theorem Kept.fire {g : Graph} {place : Nat} {p : Placement} {z : Score} {phys : List Nat} {inp : Option
    (Nat × Slot × Buffer)} {corrected : Bool} (hτ : Kept σ τ) :
    Kept σ (τ.fire g place p z phys inp corrected) := by
  unfold State.fire
  dsimp only
  refine (Kept.foldl ?_ fun h => h.usePeriph).prewakeConsumers.releaseInput
  split
  · exact (hτ.same.updBasin.updTer.updGraph).updCmd
  · exact hτ.same.updBasin.updTer.updGraph

@[simp] theorem execBasinFire_kept (handle place : Nat) (cis : Fin 3) (s : State) :
    KeptBy s (execBasinFire handle place cis s) := by
  unfold execBasinFire
  rw [keptBy_next]
  have h := Kept.refl s
  split
  · exact h
  split
  · refine .ite h ?_
    split
    · exact h.uncorrectable.updGraph.failRun
    · exact h.fire
  · exact h

@[simp] theorem execEvaluationComplete_kept (handle place : Nat) (s : State) :
    KeptBy s (execEvaluationComplete handle place s) := by
  unfold execEvaluationComplete
  rw [keptBy_next]
  have h := Kept.refl s
  split
  · split
    · rename_i e g _ _ _ p _
      cases hx : g.slots[p.outSlot]? with
      | none =>
        dsimp only
        split
        · exact Kept.updRun h.same.updBasin
        · exact h.same.updBasin
      | some x =>
        dsimp only
        split
        · exact Kept.updRun (h.same { cistern := Memory.writeN_wf _ _ _ }).updBasin
        · exact (h.same { cistern := Memory.writeN_wf _ _ _ }).updBasin
    · exact h
  · exact h

theorem clampInt_mem (lo hi v : Int) (h : lo ≤ hi) : lo ≤ clampInt lo hi v ∧ clampInt lo hi v ≤ hi := by
  unfold clampInt
  split
  · exact ⟨le_refl _, h⟩
  · split
    · exact ⟨h, le_refl _⟩
    · omega

theorem Basin.setTrims_in (b : Basin) (gain offset : Int) (a : Word) : (b.setTrims gain offset a).TrimsIn := by
  obtain ⟨hg, hg'⟩ := clampInt_mem (-128) 127 gain (by decide)
  obtain ⟨ho, ho'⟩ := clampInt_mem (-128) 127 offset (by decide)
  exact ⟨hg, hg', ho, ho'⟩

theorem Basin.TrimsIn.tracked {b : Basin} (h : b.TrimsIn) (rc : List Int) (a : Word) : (b.tracked rc a).TrimsIn := by
  unfold Basin.tracked
  split
  · exact Basin.setTrims_in { b with tracks := satInc 0xFFFF b.tracks, trackGroup := (b.trackGroup + 1) % 16 } _ _ a
  · exact h

theorem Kept.track {r : TrackRead} (hτ : Kept σ τ) : Kept σ (τ.track r) := hτ.updBasin fun _ h => h.tracked _ _

@[simp] theorem execTrackingEvaluation_kept (read : TrackRead) (s : State) :
    KeptBy s (execTrackingEvaluation read s) := by
  unfold execTrackingEvaluation
  dsimp only
  split
  · exact keptBy_fault _
  · exact keptBy_next.mpr (.ite (.ite (Kept.refl s).track (Kept.refl s).needTerraces) (.refl s))

@[simp] theorem execRideAlongWindow_kept (basin : Fin 4096) (s : State) : KeptBy s (execRideAlongWindow basin s) := by
  unfold execRideAlongWindow
  refine keptBy_next.mpr (.ite (.refl s) ((Kept.refl s).updBasin fun b h => ?_))
  dsimp only
  split
  · exact h
  · exact Basin.setTrims_in _ _ _ _

end Sys2Proof.Machine
end

section
/-! PROOFS. The invariants under the cameras and intake units. -/

namespace Sys2Proof.Machine

set_option Elab.async false

variable {s t u σ τ : State}

theorem Kept.countCorrected {port : Nat} {corrected : Bool} (hτ : Kept σ τ) :
    Kept σ (τ.countCorrected port corrected) :=
  .ite hτ.updCsi hτ

theorem Kept.mapIntake {f : Intake → Intake} (hτ : Kept σ τ) : Kept σ { τ with intake := τ.intake.map f } :=
  hτ.same { shapes := .congr (by simp [State.lengths]) }

theorem countCorrected_intake (s : State) (port : Nat) (corrected : Bool) :
    (s.countCorrected port corrected).intake = s.intake := by simp [State.countCorrected, apply_ite State.intake]

@[simp] theorem execCsiFrameStart_kept (port : Fin 2) (head : CsiShort) (s : State) :
    KeptBy s (execCsiFrameStart port head s) :=
  keptBy_next.mpr (.ite ((Kept.refl s).countCorrected.trans { shapes := .congr (by simp [State.lengths, countCorrected_intake]) })
  (.refl s))

@[simp] theorem execCsiFrameEnd_kept (port : Fin 2) (head : CsiShort) (s : State) :
    KeptBy s (execCsiFrameEnd port head s) :=
  keptBy_next.mpr (.ite ((Kept.refl s).countCorrected.trans { shapes := .congr (by simp [State.lengths, countCorrected_intake]) })
  (.refl s))

@[simp] theorem execCsiLongPacket_kept (port : Fin 2) (vc : Fin 4) (dt : Nat) (corrected dropped crcOk : Bool)
    (payload : List Byte) (s : State) :
    KeptBy s (execCsiLongPacket port vc dt corrected dropped crcOk payload s) := by
  unfold execCsiLongPacket
  refine keptBy_next.mpr (.ite (.refl s) (.ite ?_ (Kept.refl s).updCsi))
  exact (Kept.refl s).updCsi.mapIntake

@[simp] theorem execCsiConfig_kept (ring : Fin 1024) (s : State) : KeptBy s (execCsiConfig ring s) := by
  unfold execCsiConfig
  refine keptBy_next.mpr ((Kept.refl s).onHead fun _ => ?_)
  exact .ite (Kept.refl s).refuse (.ite (Kept.refl s).accept.updCsi.notePeak.settle (Kept.refl s).accept.updCsi.notePeak.finish)

@[simp] theorem execLaneStopState_kept (port : Fin 2) (stop : BitVec 4) (clkHs deskew : Bool) (s : State) :
    KeptBy s (execLaneStopState port stop clkHs deskew s) := by
  unfold execLaneStopState
  refine keptBy_next.mpr (.ite (.refl s) (.ite ?_ (Kept.refl s).updCsi))
  exact (Kept.refl s).updCsi.foldl fun h => h.finish

@[simp] theorem execIntakeConfig_kept (ring : Fin 1024) (s : State) : KeptBy s (execIntakeConfig ring s) := by
  unfold execIntakeConfig
  refine keptBy_next.mpr ((Kept.refl s).onHead fun _ => ?_)
  have h := Kept.refl s
  dsimp only
  split
  · exact h.refuse
  split
  · exact h.refuse
  · exact .ite h.refuse (h.completeWith fun h => h.updUnit)

theorem Kept.takeFrames {h : Nat} (hτ : Kept σ τ) : Kept σ (τ.takeFrames h).1 := by
  unfold State.takeFrames
  refine Kept.foldl_fst hτ fun h => ?_
  dsimp only
  split
  · exact h
  · exact h.updUnit

theorem Kept.feedPorts {cid source : Nat} (hτ : Kept σ τ) : Kept σ (τ.feedPorts cid source) := by
  unfold State.feedPorts
  split
  · exact hτ
  split
  · exact .ite hτ (hτ.updRun.foldl fun h => h.portData)
  · exact hτ

@[simp] theorem execIntakeDelivery_kept (cid : Nat) (unit : Fin 2) (s : State) :
    KeptBy s (execIntakeDelivery cid unit s) :=
  keptBy_next.mpr (Kept.refl s).feedPorts.updUnit

end Sys2Proof.Machine
end

section
/-! PROOFS. The invariants under the sluice and the runs. -/

namespace Sys2Proof.Machine

set_option Elab.async false

variable {s t u σ τ : State}

theorem Kept.takeStaged {g : Graph} (hτ : Kept σ τ) : Kept σ (τ.takeStaged g).1 := by
  unfold State.takeStaged
  refine Kept.foldl_fst hτ fun h => ?_
  dsimp only
  split
  · split
    · split
      · exact h.same
      · exact h
    · exact h
  · exact h

theorem Kept.readInputs {g : Graph} {f : Nat} {bufs : List (Nat × Option DWord)} (hτ : Kept σ τ) :
    Kept σ (τ.readInputs g f bufs) := by
  unfold State.readInputs
  refine hτ.foldl fun h => ?_
  split
  · exact .ite h.dmaRead h
  · exact h

theorem Kept.admitRun {r : Nat} {p : List Byte} {g : Graph} {start bound : Nat} {window : Option (Nat × Nat)}
    {notBefore : Nat} {deadline : Option Nat} (hτ : Kept σ τ) :
    Kept σ (τ.admitRun r p g start bound window notBefore deadline) := by
  unfold State.admitRun
  dsimp only
  have h1 := (hτ.takeStaged (g := g)).takeFrames (h := g.handle)
  exact h1.accept.readInputs.needTerraces.notePeak.setSlc

theorem Kept.refuseRun {r : Nat} {p : List Byte} {e : End} (hτ : Kept σ τ) : Kept σ (τ.refuseRun r p e) :=
  hτ.same.refuse

theorem Kept.decideRun {r : Nat} {p : List Byte} (hτ : Kept σ τ) : Kept σ (τ.decideRun r p) := by
  unfold State.decideRun
  split
  · exact hτ.refuseRun
  split
  · exact hτ.refuseRun
  refine .ite hτ ?_
  dsimp only
  split
  · exact hτ.refuseRun
  · exact hτ
  · exact hτ.admitRun.settle

theorem Kept.bookWindow {r : Nat} {p : List Byte} {g : Graph} {f : Nat × Nat} {frame last : Nat} (hτ : Kept σ τ) :
    Kept σ (τ.bookWindow r p g f frame last) :=
  hτ.admitRun.settle

theorem Kept.afterFire {r : Nat} {p : List Byte} {g : Graph} {f : Nat × Nat} {frame : Nat} (hτ : Kept σ τ) :
    Kept σ (τ.afterFire r p g f frame) :=
  .ite hτ.refuseRun (.ite hτ.refuseRun (.ite hτ.refuseRun hτ.admitRun.settle))

theorem Kept.decideFrame {r : Nat} {p : List Byte} (hτ : Kept σ τ) : Kept σ (τ.decideFrame r p) := by
  unfold State.decideFrame
  split
  · exact hτ.refuseRun
  split
  · exact hτ.refuseRun
  refine .ite hτ ?_
  split
  · exact hτ.refuseRun
  split
  · exact hτ
  refine .ite hτ.refuseRun (.ite hτ.afterFire (.ite hτ ?_))
  split
  · exact hτ.refuseRun
  · exact hτ.bookWindow

theorem Kept.decide1 {r : Nat} (hτ : Kept σ τ) : Kept σ (τ.decide1 r) := by
  unfold State.decide1
  split
  · exact hτ.same
  · exact .ite (hτ.onHead fun _ => hτ.decideRun) (.ite (hτ.onHead fun _ => hτ.decideFrame) hτ.same)

theorem Kept.decideAhead {r : Nat} (hτ : Kept σ τ) : Kept σ (τ.decideAhead r) := .ite hτ (hτ.foldl fun h => h.decide1)

@[simp] theorem execSluiceDecision_kept (s : State) : KeptBy s (execSluiceDecision s) :=
  keptBy_next.mpr (.ite ((Kept.refl s).foldl fun h => h.decide1) (.refl s))

theorem Kept.toSluice {r : Nat} (hτ : Kept σ τ) : Kept σ (τ.toSluice r) := .ite hτ hτ.same

@[simp] theorem execGraphRun_kept (ring : Fin 1024) (s : State) : KeptBy s (execGraphRun ring s) := by
  unfold execGraphRun
  refine keptBy_next.mpr ((Kept.refl s).onHead fun _ => ?_)
  split
  · exact (Kept.refl s).refuseRun
  · exact (Kept.refl s).toSluice

@[simp] theorem execGraphRunFrame_kept (ring : Fin 1024) (s : State) : KeptBy s (execGraphRunFrame ring s) := by
  unfold execGraphRunFrame
  refine keptBy_next.mpr ((Kept.refl s).onHead fun _ => ?_)
  split
  · exact (Kept.refl s).refuseRun
  · exact (Kept.refl s).toSluice

theorem Kept.headWake {g : Graph} (hτ : Kept σ τ) : Kept σ (τ.headWake g) := hτ.foldl fun h => h.wakePeriph

theorem Kept.beginRun {cid : Nat} (hτ : Kept σ τ) : Kept σ (τ.beginRun cid) := by
  unfold State.beginRun
  split
  · exact hτ
  split
  · exact hτ
  · exact hτ.updRun.updGraph.headWake.tellMembers.feedPorts

@[simp] theorem execRunHeadWake_kept (cid : Nat) (s : State) : KeptBy s (execRunHeadWake cid s) := by
  unfold execRunHeadWake
  rw [keptBy_next]
  have h := Kept.refl s
  split
  · exact h
  split
  · exact h
  · exact .ite h h.beginRun

@[simp] theorem execFireInstant_kept (handle : Nat) (s : State) : KeptBy s (execFireInstant handle s) := by
  unfold execFireInstant
  rw [keptBy_next]
  have h := Kept.refl s
  split
  · split
    · exact h
    · refine .ite h ?_
      dsimp only
      split
      · exact .ite h.same.beginRun h.same
      · exact h.same
  · exact h

theorem Kept.fillDelay {h seq src : Nat} (hτ : Kept σ τ) : Kept σ (τ.fillDelay h seq src) := by
  unfold State.fillDelay
  split
  · exact hτ
  refine hτ.foldl fun h => .ite h ?_
  split
  · exact h
  · exact .ite h.writeBuffer h

theorem Kept.clearRun {h seq : Nat} {zero : Bool} (hτ : Kept σ τ) : Kept σ (τ.clearRun h seq zero) := by
  unfold State.clearRun
  split
  · exact hτ
  have h2 {τ' : State} {l : List Nat} {g : Graph} (h : Kept σ τ') :
      Kept σ (l.foldl (fun t e => t.sendCredit g e 24 true seq) τ') := h.foldl fun h => h.sendCredit
  exact .ite (h2 hτ.same.updGraph).presetDelay (h2 hτ.same.updGraph).fillDelay

theorem Kept.reportPart {cid : Nat} {g : Graph} {r : Run} (hτ : Kept σ τ) : Kept σ (τ.reportPart cid g r) := by
  unfold State.reportPart
  split
  · exact hτ
  · exact .ite hτ.emit hτ

theorem Kept.endRun {cid : Nat} {g : Graph} {r : Run} {clear : Bool} {e : End} (hτ : Kept σ τ) :
    Kept σ (τ.endRun cid g r clear e) := by
  unfold State.endRun
  have h0 {z c : Bool} {ring : Nat} {w : Work} {f : Run → Bool} : Kept σ (if c then
      ((τ.clearRun g.handle r.runSeq z).delayRuns ring f).tellMembers cid g w else τ) :=
    .ite hτ.clearRun.delayRuns.tellMembers hτ
  exact h0.reportPart.mirrorCmd.setFree.finish

@[simp] theorem execRunComplete_kept (cid : Nat) (s : State) : KeptBy s (execRunComplete cid s) := by
  unfold execRunComplete
  rw [keptBy_next]
  have h := Kept.refl s
  split
  · exact h
  split
  · split
    · exact h
    · exact .ite h h.endRun
  · exact h

theorem Kept.inputRead {c : Cmd} {r : Run} {result : ReadResult} (hτ : Kept σ τ) : Kept σ (τ.inputRead c r result) := by
  unfold State.inputRead
  split
  · exact hτ
  split
  · split
    · exact hτ
    · exact hτ.updRun.feedPorts
  · exact .ite hτ.readFailed.endRun hτ.readFailed.finish
  · exact hτ

end Sys2Proof.Machine
end

section
/-! PROOFS. The invariants under the Weight Engine: cells are written and cleared in the canonical form, and trims stay held. -/

namespace Sys2Proof.Machine

set_option Elab.async false

variable {s t u σ τ : State}

theorem Memory.foldl_wf {α : Type} (l : List α) (f : Memory → α → Memory)
    (hf : ∀ m a, Memory.wf m = true → Memory.wf (f m a) = true) (m : Memory) (h : Memory.wf m = true) :
    Memory.wf (l.foldl f m) = true := by
  induction l generalizing m with
  | nil => exact h
  | cons a l ih => exact ih _ (hf m a h)

theorem Basin.TrimsIn.foldl_tracked {b : Basin} (h : b.TrimsIn) (rs : List (List Int)) (a : Word) :
    (rs.foldl (fun b rc => b.tracked rc a) b).TrimsIn := by
  induction rs generalizing b with
  | nil => exact h
  | cons rc rs ih => exact ih (h.tracked rc a)

theorem Kept.journalRoom (hτ : Kept σ τ) : Kept σ (τ.journalRoom) := .ite hτ.same hτ

theorem Kept.journalOpen {e : JEntry} (hτ : Kept σ τ) : Kept σ (τ.journalOpen e) := hτ.journalRoom.same

theorem Kept.journalClose (hτ : Kept σ τ) : Kept σ (τ.journalClose) := hτ.same

theorem Kept.mapSave (hτ : Kept σ τ) : Kept σ (τ.mapSave) := hτ.same

theorem Kept.programRows {basin : Nat} {rows : List (Nat × List Byte)} {stuck : Option (Nat × Nat)} (hτ : Kept σ τ) :
    Kept σ (τ.programRows basin rows stuck) :=
  hτ.same { weights := Memory.foldl_wf _ _ (fun _ _ => Memory.writeN_wf _ _ _) _ }

theorem Kept.tunnel {basin : Nat} (hτ : Kept σ τ) : Kept σ (τ.tunnel basin) :=
  (hτ.same { weights := Memory.clear_wf _ _ _ }).updBasin

theorem Kept.makeDirty {basin cause : Nat} (hτ : Kept σ τ) : Kept σ (τ.makeDirty basin cause) := hτ.updBasin

theorem Kept.openFailed {c check off : Nat} {e : End} (hτ : Kept σ τ) : Kept σ (τ.openFailed c check off e) :=
  hτ.same.finish

theorem Kept.openImage {c : Cmd} {addr : DWord} {len : Nat} {b : List Byte} (hτ : Kept σ τ) :
    Kept σ (τ.openImage c addr len b) := by
  unfold State.openImage
  refine .ite hτ.openFailed ?_
  split
  · exact hτ.openFailed
  refine .ite hτ.openFailed ?_
  split
  · exact hτ.openFailed
  · exact .ite hτ.openFailed hτ.pick.setWpe.finish

@[simp] theorem execImageOpen_kept (ring : Fin 1024) (s : State) : KeptBy s (execImageOpen ring s) := by
  unfold execImageOpen
  refine keptBy_next.mpr ((Kept.refl s).onHead fun _ => ?_)
  exact (Kept.refl s).accept.setWpe.notePeak.dmaRead.settle

theorem Kept.imageRead {c : Cmd} {addr : DWord} {len : Nat} {result : ReadResult} (hτ : Kept σ τ) :
    Kept σ (τ.imageRead c addr len result) := by
  unfold State.imageRead
  split
  · exact hτ.openImage
  · exact hτ.readFailed.finish
  · exact hτ

@[simp] theorem execImageClose_kept (ring : Fin 1024) (s : State) : KeptBy s (execImageClose ring s) := by
  unfold execImageClose
  refine keptBy_next.mpr ((Kept.refl s).onHead fun _ => ?_)
  dsimp only
  split
  · exact (Kept.refl s).refuse
  · exact .ite (.refl s) (Kept.refl s).accept.setWpe.closeSessions.settle

theorem Kept.wpePower (hτ : Kept σ τ) : Kept σ (τ.wpePower) := hτ.same.notePeak

theorem Kept.cellTerrace {ter : Nat} (hτ : Kept σ τ) : Kept σ (τ.cellTerrace ter) := .ite hτ.needTerraces hτ

theorem Kept.updProg {c : Nat} {f : Prog → Prog} (hτ : Kept σ τ) : Kept σ (τ.updProg c f) := by
  unfold State.updProg
  refine hτ.updCmd fun x => ?_
  split <;> rfl

theorem Kept.holdupEnd {c quarters : Nat} (hτ : Kept σ τ) : Kept σ (τ.holdupEnd c quarters) := hτ.same.finish

theorem Kept.holdupLow {c need : Nat} (hτ : Kept σ τ) : Kept σ (τ.holdupLow c need) := hτ.holdupEnd

theorem Kept.openBatch {c : Nat} {p : Prog} {n : Nat} (hτ : Kept σ τ) : Kept σ (τ.openBatch c p n) :=
  .ite hτ.updBasin.updProg hτ.updBasin.updProg.journalOpen

theorem Kept.nextBatch {c : Nat} {p : Prog} {high : Bool} (hτ : Kept σ τ) : Kept σ (τ.nextBatch c p high) := by
  unfold State.nextBatch
  exact .ite (.ite (.ite hτ hτ.same.updProg) hτ.holdupLow) (.ite hτ.makeDirty.finish hτ.openBatch)

theorem Kept.decided {g : Nat} {p : List Byte} {e : End} (hτ : Kept σ τ) : Kept σ (τ.decided g p e) :=
  .ite hτ.complete hτ.refuse

theorem Kept.programRecord {c : Cmd} {x : Session} {r : CwiRec} {n row left : Nat} {record : ReadResult}
    {high : Bool} (hτ : Kept σ τ) :
    Kept σ (τ.programRecord c x r n row left record high) := by
  unfold State.programRecord
  split
  · split
    · exact hτ.finish
    · exact hτ.updCmd.nextBatch
  · exact hτ.readFailed.finish
  · exact hτ

@[simp] theorem execProgramRows_kept (ring : Fin 1024) (record : ReadResult) (high : Bool) (s : State) :
    KeptBy s (execProgramRows ring record high s) := by
  unfold execProgramRows
  refine keptBy_next.mpr ((Kept.refl s).onHead fun _ => ?_)
  have h := (Kept.refl s).decideAhead (r := ring.val)
  refine .ite h ?_
  split
  · exact h.decided
  split
  · exact h.refuse
  refine .ite h ?_
  dsimp only
  split
  · exact h.accept.wpePower.cellTerrace.dmaRead
  · exact h.accept.wpePower.cellTerrace.dmaRead.programRecord.settle

theorem Kept.closeBatch {c : Nat} {p : Prog} {stuck : Option (Nat × Nat)} (hτ : Kept σ τ) :
    Kept σ (τ.closeBatch c p stuck) := by
  unfold State.closeBatch
  dsimp only
  have h1 := (hτ.programRows (basin := p.basin) (rows := p.batchRows p.batch) (stuck := stuck)).updBasin (n := p.basin)
    (f := fun b => b.programRefs ((List.range p.batch).map (fun i => p.row + i)) (p.full && p.left == p.batch))
  have h2 {c : Bool} := Kept.ite (c := c = true) h1 h1.journalClose
  exact h2.setWpe.updProg

theorem Kept.batchDone {c : Cmd} {p : Prog} {stuck : Option (Nat × Nat)} {high : Bool} (hτ : Kept σ τ) :
    Kept σ (τ.batchDone c p stuck high) := by
  unfold State.batchDone
  dsimp only
  split
  · exact hτ.closeBatch.mirrorCmd.dlog.finish
  · refine .ite hτ.closeBatch.mirrorCmd.finish (.ite hτ.closeBatch.mirrorCmd.finish ?_)
    split
    · exact hτ.closeBatch.mirrorCmd.nextBatch
    · exact hτ.closeBatch.mirrorCmd

@[simp] theorem execProgramBatchDone_kept (stuck : Option (Nat × Nat)) (high : Bool) (s : State) :
    KeptBy s (execProgramBatchDone stuck high s) := by
  unfold execProgramBatchDone
  rw [keptBy_next]
  split
  · exact .ite (.refl s) (Kept.refl s).batchDone
  · exact .refl s

@[simp] theorem execVerify_kept (ring : Fin 1024) (s : State) : KeptBy s (execVerify ring s) := by
  unfold execVerify
  refine keptBy_next.mpr ((Kept.refl s).onHead fun _ => .ite (.refl s) ?_)
  split
  · exact (Kept.refl s).decided
  · exact (Kept.refl s).accept.wpePower.cellTerrace.dmaRead.settle

theorem Kept.commitTag {n : Nat} {tag : DWord} {reads : List TrackRead} (hτ : Kept σ τ) :
    Kept σ (τ.commitTag n tag reads) :=
  .ite (hτ.updBasin.updBasin fun _ h => h.foldl_tracked _ _) hτ.updBasin

theorem Kept.verifyJudge {c : Cmd} {n ter slot : Nat} {same : Bool} {tag : DWord} {rows : List (List Byte)}
    {below above : Option Nat} {reads : List TrackRead} (hτ : Kept σ τ) :
    Kept σ (τ.verifyJudge c n ter slot same tag rows below above reads) := by
  unfold State.verifyJudge
  dsimp only
  split
  · split
    · exact hτ.finish
    · exact hτ.dlog.finish
  · split
    · exact hτ.finish
    · exact hτ.makeDirty.finish
    · exact hτ.commitTag.mirrorCmd.finish

@[simp] theorem execVerifyDone_kept (record : ReadResult) (below above : Option Nat) (reads : List TrackRead)
    (s : State) :
    KeptBy s (execVerifyDone record below above reads s) := by
  unfold execVerifyDone
  rw [keptBy_next]
  have h := Kept.refl s
  split
  · exact h
  split
  · exact h.finish
  split
  · split
    · exact h.finish
    · exact h.verifyJudge
  · exact h.readFailed.finish
  · exact h

theorem Kept.countWear {n ter slot : Nat} (hτ : Kept σ τ) : Kept σ (τ.countWear n ter slot) :=
  .ite hτ.updBasin.dlog hτ.updBasin

@[simp] theorem execEraseBasin_kept (ring : Fin 1024) (s : State) : KeptBy s (execEraseBasin ring s) := by
  unfold execEraseBasin
  refine keptBy_next.mpr ((Kept.refl s).onHead fun _ => ?_)
  have h := (Kept.refl s).decideAhead (r := ring.val)
  refine .ite h ?_
  split
  · exact h.refuse
  refine .ite h.complete ?_
  split
  · exact h.refuse
  · exact h.accept.wpePower.cellTerrace.journalOpen.countWear.settle

@[simp] theorem execEraseDone_kept (s : State) : KeptBy s (execEraseDone s) := by
  unfold execEraseDone
  rw [keptBy_next]
  split
  · exact .refl s
  · exact (Kept.refl s).tunnel.journalClose.updCmd.mirrorCmd.finish

theorem Kept.recalibrate {basins : List Nat} {reads : List TrackRead} (hτ : Kept σ τ) :
    Kept σ (τ.recalibrate basins reads).1 := by
  induction basins generalizing τ with
  | nil => exact hτ
  | cons n ns ih =>
    have ht := hτ.updBasin (n := n) (f := fun b => (readingsFor reads n).foldl (fun b rc => b.tracked rc τ.nowMs) b)
      fun _ h => h.foldl_tracked _ _
    unfold State.recalibrate
    dsimp only
    split
    · exact ht
    · exact ih ht

@[simp] theorem execRecalibrate_kept (ring : Fin 1024) (reads : List TrackRead) (s : State) :
    KeptBy s (execRecalibrate ring reads s) := by
  unfold execRecalibrate
  refine keptBy_next.mpr ((Kept.refl s).onHead fun _ => ?_)
  have h := Kept.refl s
  split
  · exact h.refuse
  refine .ite h ?_
  dsimp only
  split
  · exact h.needTerraces.recalibrate.complete
  · exact h.needTerraces.recalibrate.complete

@[simp] theorem execHoldupQuery_kept (ring : Fin 1024) (s : State) : KeptBy s (execHoldupQuery ring s) :=
  keptBy_next.mpr ((Kept.refl s).onHead fun _ => (Kept.refl s).same.complete)

end Sys2Proof.Machine
end

section
/-! PROOFS. The invariants under self-test, map-out and the logs: what a self-test derives for a basin are trims that are held. -/

namespace Sys2Proof.Machine

set_option Elab.async false

variable {s t u σ τ : State}

theorem Kept.ite_fst {α : Type} {c : Prop} [Decidable c] {a b : State × α} (h : Kept s a.1) (k : Kept s b.1) :
    Kept s (if c then a else b).1 := by
  split
  · exact h
  · exact k

theorem Kept.mapOutBasin {fs : List Finding} {n : Nat} (hτ : Kept σ τ) : Kept σ (τ.mapOutBasin fs n).1 := by
  unfold State.mapOutBasin
  have h1 := hτ.updBasin (n := n) (f := fun b => { b with wstate := .failed, mappedOut := true, slot := none })
  dsimp only
  split
  · exact h1
  · split
    · dsimp only
      exact h1.updBasin
    · exact h1

theorem Kept.failBasin {fs : List Finding} {repair : Bool} {n : Nat} (hτ : Kept σ τ) :
    Kept σ (τ.failBasin fs repair n).1 := by
  unfold State.failBasin
  dsimp only
  split
  · refine Kept.ite_fst hτ.mapOutBasin ?_
    refine Kept.ite_fst hτ ?_
    have h1 {rows cols : List (Nat × Nat)} := hτ.updBasin (n := n) (f := fun b => b.substitute rows cols)
    exact Kept.ite_fst h1.mapOutBasin h1
  · exact hτ.mapOutBasin

theorem Kept.setAfe {a : Afe} (hτ : Kept σ τ) (ha : a.chans.length = τ.afe.chans.length := by exact rfl) :
    Kept σ { τ with afe := a } := hτ.same { shapes := .congr (by simp [State.lengths, ha]) }

theorem Kept.consequence {fs : List Finding} {repair : Bool} {seen : List (Nat × Nat)} {f : Finding} (hτ : Kept σ τ) :
    Kept σ (τ.consequence fs repair seen f).1 := by
  unfold State.consequence
  dsimp only
  split
  · exact Kept.ite_fst hτ.updTer hτ
  · exact hτ.setBist.foldl fun h => h.updBasin
  · exact hτ.setBist
  · dsimp only
    exact hτ.updBasin
  · exact hτ.setBist
  · exact hτ.setBist
  · refine Kept.ite_fst ?_ hτ
    split
    · exact hτ.setBist
    · split
      · exact hτ
      · exact hτ.failBasin

theorem Kept.failRecord {kind outcome : Nat} {f : Finding} (hτ : Kept σ τ) : Kept σ (τ.failRecord kind outcome f) :=
  hτ.setBist.dlog

theorem Kept.judge {all : List Finding} {kind : Nat} {repair : Bool} {seen : List (Nat × Nat)} {past fs : List Finding}
    (hτ : Kept σ τ) : Kept σ (τ.judge all kind repair seen past fs).1 := by
  induction fs generalizing τ seen past with
  | nil => exact hτ
  | cons f fs ih =>
    have hr := hτ.consequence (fs := all) (repair := repair) (seen := seen) (f := f)
    unfold State.judge
    dsimp only
    split
    · exact ih hr.failRecord
    · exact ih hr

theorem Kept.loopResults {j : TestJob} (hτ : Kept σ τ) : Kept σ (τ.loopResults j) :=
  hτ.foldl fun h => .ite (h.same { shapes := .congr (by simp [State.updChan, State.lengths]) }) (.ite (Kept.updChan h.setAfe) h)

theorem Kept.testBegin {j : TestJob} (hτ : Kept σ τ) : Kept σ (τ.testBegin j) := by
  unfold State.testBegin
  dsimp only
  have h1 : Kept σ (if bitAt j.tests 1 ∧ j.scope = 0 then { τ with bist := { τ.bist with supply := 0 } } else τ) := .ite hτ.setBist hτ
  have h2 : Kept σ ((List.range 16).foldl (fun t n => if τ.loopBack j n then
      { t with bist := { t.bist with afeFailed := setBit t.bist.afeFailed n false } } else t) _) := h1.foldl fun h => .ite h.setBist h
  have h3 {c : Prop} [Decidable c] := Kept.ite (c := c) (h2.foldl (l := List.range 16) (f := fun t n =>
      if (τ.sentinel n).armed ∨ !(τ.basin (4096 + n)).snFailed then t
      else t.updBasin (4096 + n) (fun b => { b with snFailed := false })) fun h => .ite h h.updBasin) h2
  exact .ite h3 (h3.trans { cistern := Memory.clear_wf _ _ _ })

theorem Basin.TrimsIn.rederived {b : Basin} (h : b.TrimsIn) (rs : List (List Int)) (a : Word) : (b.rederived rs a).TrimsIn := by
  unfold Basin.rederived
  split
  · exact h.foldl_tracked rs a
  · exact h
  · exact Basin.setTrims_in _ _ _ _

theorem Kept.rederive {j : TestJob} {reads : List TrackRead} (hτ : Kept σ τ) : Kept σ (τ.rederive j reads) := by
  unfold State.rederive
  refine .ite hτ ?_
  exact Kept.foldl (.ite hτ.setBist hτ) fun h => h.updBasin fun _ hb => hb.rederived _ _

theorem Kept.selfTest {j : TestJob} {t : TestIn} {repair : Bool} (hτ : Kept σ τ) : Kept σ (τ.selfTest j t repair).1 := by
  unfold State.selfTest
  have hr := (((hτ.testBegin (j := j)).rederive (j := j) (reads := t.reads)).judge (all := τ.findings j t) (kind := j.kind)
    (repair := repair) (seen := []) (past := []) (fs := τ.findings j t)).loopResults (j := j)
  exact .ite hr.setBist hr.setBist.setBist

theorem Kept.testMoats {scope ter tests : Nat} {on : Bool} (hτ : Kept σ τ) :
    Kept σ (τ.testMoats scope ter tests on) :=
  .ite hτ (hτ.foldl fun h => h.updTer)

theorem testMoats_afe (s : State) (scope ter tests : Nat) (on : Bool) : (s.testMoats scope ter tests on).afe = s.afe := by
  unfold State.testMoats
  split
  · rfl
  · exact List.foldlRecOn (motive := fun t : State => t.afe = s.afe) _ _ rfl fun _ ht _ _ => ht

@[simp] theorem execBistRun_kept (ring : Fin 1024) (s : State) : KeptBy s (execBistRun ring s) := by
  unfold execBistRun
  refine keptBy_next.mpr ((Kept.refl s).onHead fun _ => ?_)
  have h := (Kept.refl s).decideAhead (r := ring.val)
  refine .ite h.refuse ?_
  split
  · exact h.refuse
  · refine Kept.settle (Kept.needTerraces (Kept.accept (Kept.setAfe h.testMoats ?_)))
    rw [testMoats_afe]

@[simp] theorem execBistRunDone_kept (test : TestIn) (s : State) : KeptBy s (execBistRunDone test s) := by
  unfold execBistRunDone
  rw [keptBy_next]
  have h := Kept.refl s
  split
  · exact h
  dsimp only
  have hr {j : TestJob} {scope ter tests : Nat} {b : Bool} :=
    Kept.selfTest (j := j) (t := test) (repair := b) ((h.setAfe (a := { s.afe with loopback := false })).testMoats (scope := scope)
      (ter := ter) (tests := tests) (on := false))
  exact Kept.finish (.ite hr hr.dmaWrite)

@[simp] theorem execMapoutRead_kept (ring : Fin 1024) (s : State) : KeptBy s (execMapoutRead ring s) :=
  keptBy_next.mpr ((Kept.refl s).onHead fun _ => (Kept.refl s).completeWith fun h => h.dmaWrite)

@[simp] theorem execLogRead_kept (ring : Fin 1024) (s : State) : KeptBy s (execLogRead ring s) :=
  keptBy_next.mpr ((Kept.refl s).onHead fun _ => (Kept.refl s).completeWith fun h => .ite h h.dmaWrite)

@[simp] theorem execDrydownInvalidate_kept (ring : Fin 1024) (s : State) : KeptBy s (execDrydownInvalidate ring s) :=
  keptBy_next.mpr ((Kept.refl s).onHead fun _ => (Kept.refl s).completeWith fun h => h.setBist)

end Sys2Proof.Machine
end

section
/-! PROOFS. The invariants under the frame source. -/

namespace Sys2Proof.Machine

set_option Elab.async false

variable {s t u σ τ : State}

theorem Kept.startFrame (hτ : Kept σ τ) : Kept σ (τ.startFrame) := by
  unfold State.startFrame
  refine hτ.same { cids := CidsFresh.map (fun c => ?_) rfl rfl }
  unfold State.followFrame
  split
  · split <;> rfl
  · rfl

@[simp] theorem execFsyncEdge_kept (s : State) : KeptBy s (execFsyncEdge s) :=
  keptBy_next.mpr (.ite (.refl s) (.ite (Kept.refl s).startFrame (Kept.refl s).setSlc))

@[simp] theorem execFrameTimerExpire_kept (s : State) : KeptBy s (execFrameTimerExpire s) :=
  keptBy_next.mpr (.ite (Kept.refl s).startFrame (.refl s))

@[simp] theorem execFsyncMissed_kept (s : State) : KeptBy s (execFsyncMissed s) :=
  keptBy_next.mpr (.ite (Kept.refl s).setSlc.startFrame (.refl s))

theorem Kept.frameCfgWrite {v : Word} (hτ : Kept σ τ) : Kept σ (τ.frameCfgWrite v) :=
  .ite hτ.setSlc (.ite hτ.setSlc.startFrame hτ.setSlc)

@[simp] theorem execSlcFrameCfgWrite_kept (value : Word) (s : State) : KeptBy s (execSlcFrameCfgWrite value s) :=
  keptBy_next.mpr ((Kept.refl s).hostAccess fun h => h.frameCfgWrite)

end Sys2Proof.Machine
end

section
/-! PROOFS. The invariants under the analogue front end and the sentinels: the report ring drops its oldest report when it is full. -/

namespace Sys2Proof.Machine

set_option Elab.async false

variable {s t u σ τ : State}

theorem Kept.setSnt {z : Snt} (hτ : Kept σ τ) (hs : z.s.length = τ.snt.s.length := by exact rfl)
    (hr : z.rpt.length = τ.snt.rpt.length := by exact rfl)
    (hb : ReportsBounded τ → (z.wr - z.rd).toNat ≤ 64 := by exact id) : Kept σ { τ with snt := z } :=
  hτ.same { reports := hb, shapes := .congr (by simp [State.lengths, hs, hr]) }

/-- The channels replaced by as many as there are. -/
theorem Kept.setChans {a : Afe} {n : Nat} (hτ : Kept σ τ) (ha : τ.afe.chans.length = 16 → a.chans.length = 16) :
    Kept σ { τ with afe := a, free := n } := by
  refine hτ.same { shapes := fun h => h.congr ?_ }
  have hc : τ.afe.chans.length = 16 := h.2.2.2.1
  simp [State.lengths, ha hc, hc]

@[simp] theorem execAfeConfig_kept (ring : Fin 1024) (s : State) : KeptBy s (execAfeConfig ring s) := by
  unfold execAfeConfig
  refine keptBy_next.mpr ((Kept.refl s).onHead fun _ => .ite (Kept.refl s).refuse ?_)
  exact Kept.settle (((Kept.refl s).accept.foldl fun h => h.updChan).setAfe)

theorem Kept.applyAfe (hτ : Kept σ τ) : Kept σ (τ.applyAfe) :=
  Kept.foldl hτ.setAfe fun h => (h.setAfe (by simp [Afe.apply])).finish

theorem Kept.sentinelPend {g : Nat} {p : List Byte} {n : Nat} {rule : Option SntRule} (hτ : Kept σ τ) :
    Kept σ (τ.sentinelPend g p n rule) :=
  Kept.settle (Kept.setSnt (.ite hτ.accept.updSentinel hτ.accept))

@[simp] theorem execSentinelArm_kept (ring : Fin 1024) (s : State) : KeptBy s (execSentinelArm ring s) := by
  unfold execSentinelArm
  refine keptBy_next.mpr ((Kept.refl s).onHead fun _ => ?_)
  dsimp only
  split
  · exact (Kept.refl s).refuse
  · exact (Kept.refl s).sentinelPend

@[simp] theorem execSentinelDisarm_kept (ring : Fin 1024) (s : State) : KeptBy s (execSentinelDisarm ring s) :=
  keptBy_next.mpr ((Kept.refl s).onHead fun _ => .ite (Kept.refl s).sentinelPend (Kept.refl s).refuse)

theorem Kept.applySentinels (hτ : Kept σ τ) : Kept σ (τ.applySentinels) := by
  unfold State.applySentinels
  refine hτ.foldl fun h => ?_
  split
  · exact h
  · exact (Kept.updSentinel h.setSnt).finish

theorem Kept.hearHop {chans : List (List MicPiece)} (hτ : Kept σ τ) (hc : chans.length = 16) :
    Kept σ (τ.hearHop chans) := by
  unfold State.hearHop
  exact hτ.setChans fun h => by simp [h, hc]

theorem Kept.formFeatures {period : Nat} {chans : List (List MicPiece)} (hτ : Kept σ τ) (hc : chans.length = 16) :
    Kept σ (τ.formFeatures period chans) := by
  unfold State.formFeatures
  exact hτ.setChans fun h => by simp [h, hc]

theorem Kept.switchLane {n : Nat} (hτ : Kept σ τ) : Kept σ (τ.switchLane n) := .ite hτ.updChan hτ.updChan

theorem Kept.sentinelIrq (hτ : Kept σ τ) : Kept σ (τ.sentinelIrq) := .ite hτ.devVec hτ.setSnt

theorem Kept.putReport {r : BitVec 128} (hτ : Kept σ τ) : Kept σ (τ.putReport r) := by
  unfold State.putReport
  have h1 := hτ.setSnt (z := { τ.snt with
      rpt := τ.snt.rpt.set (τ.snt.wr.toNat % 64) r, wr := τ.snt.wr + 1
      rd := if decide (64 ≤ (τ.snt.wr - τ.snt.rd).toNat) then τ.snt.rd + 1 else τ.snt.rd
      lost := if decide (64 ≤ (τ.snt.wr - τ.snt.rd).toNat) then satInc 0xFFFF τ.snt.lost else τ.snt.lost })
    rfl (by simp) fun h => by simpa using unread_le_of_full _ _ h
  exact .ite h1.sentinelIrq h1

theorem Kept.entryEdge {n : Nat} {r : BitVec 128} (hτ : Kept σ τ) : Kept σ (τ.entryEdge n r) := by
  unfold State.entryEdge
  refine Kept.sentinelIrq ?_
  have h1 := (hτ.setSnt (z := { τ.snt with entry := setBit τ.snt.entry n true })).updSentinel (n := n)
    (f := fun x => { x with wakeRpt := r })
  have h2 {c : Prop} [Decidable c] := Kept.ite (c := c) (h1.same (u := { ({ τ with snt := { τ.snt with
    entry := setBit τ.snt.entry n true } } : State).updSentinel n (fun x => { x with wakeRpt := r }) with
      pins := { τ.pins with wakeLow := true } })) h1
  exact .ite h2.touch h2

theorem Kept.sentinelHop {n : Nat} {refs : List Int} (hτ : Kept σ τ) : Kept σ (τ.sentinelHop n refs) := by
  unfold State.sentinelHop
  refine .ite hτ ?_
  have h1 {f : Sentinel → Sentinel} : Kept σ (({ τ with free := τ.free + 512 } : State).updSentinel n f) := hτ.setFree.updSentinel
  have h2 {f : Sentinel → Sentinel} {c : Prop} [Decidable c] {r : BitVec 128} := (h1 (f := f)).putReport (r := r) |>.ite (c := c) (h1 (f := f))
  exact .ite h2.entryEdge h2

@[simp] theorem execHopBoundary_kept (chans : List (List MicPiece)) (refs : List (List Int)) (s : State) :
    KeptBy s (execHopBoundary chans refs s) := by
  unfold execHopBoundary
  dsimp only
  split
  · exact keptBy_fault _
  split
  · exact keptBy_next.mpr (.refl s)
  rename_i hwf _
  have hc : chans.length = 16 := by
    simp only [hopWf, Bool.not_eq_true', Bool.not_eq_false, Bool.and_eq_true, beq_iff_eq] at hwf
    exact hwf.1.1
  have h1 := ((Kept.refl s).hearHop hc).setAfe (a := { (s.hearHop chans).afe with
    hopAt := some s.tmr.uptime, chans := (s.hearHop chans).afe.chans.map (fun x => x.tickSettle (s.hearHop chans).afe.hop) }) (by simp)
  exact keptBy_next.mpr (((h1.applyAfe.applySentinels.formFeatures hc).foldl fun h => h.switchLane).foldl fun h => h.sentinelHop)

@[simp] theorem execFeatureBankSwitch_kept (chan : Fin 16) (s : State) : KeptBy s (execFeatureBankSwitch chan s) :=
  keptBy_next.mpr (Kept.refl s).updChan

@[simp] theorem execFeatureRoute_kept (ring : Fin 1024) (s : State) : KeptBy s (execFeatureRoute ring s) := by
  unfold execFeatureRoute
  refine keptBy_next.mpr ((Kept.refl s).onHead fun _ => ?_)
  dsimp only
  split
  · exact (Kept.refl s).refuse
  · exact .ite (Kept.refl s).refuse ((Kept.refl s).completeWith fun h => h.setAfe)

@[simp] theorem execMicbiasCurrentLimit_kept (k : Fin 4) (s : State) : KeptBy s (execMicbiasCurrentLimit k s) :=
  keptBy_next.mpr (.ite (.refl s) (Kept.refl s).setAfe)

@[simp] theorem execPreamplifierClip_kept (chan : Fin 16) (s : State) : KeptBy s (execPreamplifierClip chan s) :=
  keptBy_next.mpr (.ite (.refl s) (Kept.updChan (Kept.refl s).setAfe))

end Sys2Proof.Machine
end

section
/-! PROOFS. The invariants under doorbells, descriptors, fetches, generic opcodes, flags and the mailbox. -/

namespace Sys2Proof.Machine

set_option Elab.async false

variable {s t u σ τ : State}

theorem Kept.doorbell {func page value : Nat} {tlp : Tlp} {k : State → Nat → State} (hτ : Kept σ τ) (hk : ∀
    {u g}, Kept σ u → Kept σ (k u g)) :
    Kept σ (τ.doorbell func page value tlp k) := by
  unfold State.doorbell
  refine hτ.hostAccess fun h => ?_
  split
  · exact h.vlogTlp
  · exact .ite h.vlogTlp (.ite h.vlogTlp (hk h))

@[simp] theorem execDoorbellSqTail_kept (func : Fin 16) (page : Fin 1024) (value : Nat) (tlp : Tlp) (s : State) :
    KeptBy s (execDoorbellSqTail func page value tlp s) :=
  keptBy_next.mpr ((Kept.refl s).doorbell fun h => h.updRing.settle)

@[simp] theorem execDoorbellCqHead_kept (func : Fin 16) (page : Fin 1024) (value : Nat) (tlp : Tlp) (s : State) :
    KeptBy s (execDoorbellCqHead func page value tlp s) :=
  keptBy_next.mpr ((Kept.refl s).doorbell fun h => .ite h.vlogTlp h.updRing.settle)

@[simp] theorem execDoorbellStrayWrite_kept (func : Fin 16) (page : Fin 1024) (tlp : Tlp) (s : State) :
    KeptBy s (execDoorbellStrayWrite func page tlp s) :=
  keptBy_next.mpr ((Kept.refl s).hostAccess fun h => h.vlogTlp)

theorem Kept.disableRing {g : Nat} (hτ : Kept σ τ) : Kept σ (τ.disableRing g) := hτ.updRing.dropRing.fetchWork

theorem Kept.ringCtrlWrite {func g : Nat} {v : Word} {tlp : Tlp} (hτ : Kept σ τ) :
    Kept σ (τ.ringCtrlWrite func g v tlp) := by
  unfold State.ringCtrlWrite
  have h1 {c : Prop} [Decidable c] {f : Ring → Ring} := Kept.ite (c := c) ((hτ.updRing (g := g) (f := f)).disableRing (g := g))
    (hτ.updRing (g := g) (f := f))
  refine .ite hτ.vlogTlp (.ite (.ite h1.vlogTlp h1) (.ite hτ.vlogTlp ?_))
  exact .ite hτ.updRing.updRing (.ite hτ.updRing.disableRing hτ.updRing)

theorem Kept.ringBaseWrite {func g : Nat} {cq : Bool} {hi wide : Bool} {v : DWord} {tlp : Tlp} (hτ : Kept σ τ) :
    Kept σ (τ.ringBaseWrite func g cq hi wide v tlp) :=
  .ite hτ (.ite hτ.vlogTlp hτ.updRing)

theorem Kept.ringModWrite {g : Nat} {v : Word} (hτ : Kept σ τ) : Kept σ (τ.ringModWrite g v) := hτ.updRing

theorem Kept.descWrite {func ring offset : Nat} {v : DWord} {wide : Bool} {tlp : Tlp} (hτ : Kept σ τ) :
    Kept σ (τ.descWrite func ring offset v wide tlp) := by
  unfold State.descWrite
  split
  · exact hτ
  refine .ite hτ.vlogTlp ?_
  dsimp only
  split
  · exact hτ.ringBaseWrite
  · exact .ite hτ hτ.ringBaseWrite
  · exact hτ.ringBaseWrite
  · exact .ite hτ hτ.ringBaseWrite
  · exact (Kept.ite hτ.ringModWrite hτ).ringCtrlWrite
  · exact .ite hτ hτ.ringModWrite
  · exact hτ

@[simp] theorem execRingEnable_kept (func : Fin 16) (ring : Fin 1024) (value : Word) (tlp : Tlp) (s : State) :
    KeptBy s (execRingEnable func ring value tlp s) :=
  keptBy_next.mpr ((Kept.refl s).hostAccess fun h => h.descWrite)

@[simp] theorem execRingDisable_kept (func : Fin 16) (ring : Fin 1024) (value : Word) (tlp : Tlp) (s : State) :
    KeptBy s (execRingDisable func ring value tlp s) :=
  keptBy_next.mpr ((Kept.refl s).hostAccess fun h => h.descWrite)

@[simp] theorem execRingDescriptorWrite_kept (func : Fin 16) (ring : Fin 1024) (offset : Fin 64) (value : DWord)
    (wide : Bool) (tlp : Tlp) (s : State) :
    KeptBy s (execRingDescriptorWrite func ring offset value wide tlp s) :=
  keptBy_next.mpr ((Kept.refl s).hostAccess fun h => h.descWrite)

theorem Kept.fetchFailed {g kind cause : Nat} {addr : DWord} (hτ : Kept σ τ) :
    Kept σ (τ.fetchFailed g kind cause addr) :=
  (Kept.ite hτ hτ.emit).vlog.haltRing

@[simp] theorem execRingFetchCompletion_kept (ring : Fin 1024) (result : ReadResult) (s : State) :
    KeptBy s (execRingFetchCompletion ring result s) := by
  unfold execRingFetchCompletion
  refine keptBy_next.mpr (.ite (.refl s) ?_)
  split
  · exact (Kept.refl s).updRing.settle
  · exact (Kept.refl s).fetchFailed
  · exact .refl s

@[simp] theorem execListFetchCompletion_kept (ring : Fin 1024) (result : ReadResult) (s : State) :
    KeptBy s (execListFetchCompletion ring result s) := by
  unfold execListFetchCompletion
  rw [keptBy_next]
  split
  · exact .refl s
  refine .ite (.refl s) ?_
  split
  · exact (Kept.refl s).updRing.settle
  · exact (Kept.refl s).fetchFailed
  · exact .refl s

@[simp] theorem execRingModTimer_kept (ring : Fin 1024) (s : State) : KeptBy s (execRingModTimer ring s) := by
  unfold execRingModTimer
  rw [keptBy_next]
  split
  · exact .refl s
  · exact .ite (Kept.refl s).signalRing (.refl s)

@[simp] theorem execNop_kept (ring : Fin 1024) (s : State) : KeptBy s (execNop ring s) :=
  keptBy_next.mpr ((Kept.refl s).onHead fun _ => (Kept.refl s).complete)

@[simp] theorem execFence_kept (ring : Fin 1024) (s : State) : KeptBy s (execFence ring s) :=
  keptBy_next.mpr ((Kept.refl s).onHead fun _ => (Kept.refl s).complete)

@[simp] theorem execTimestamp_kept (ring : Fin 1024) (s : State) : KeptBy s (execTimestamp ring s) :=
  keptBy_next.mpr ((Kept.refl s).onHead fun _ => (Kept.refl s).completeWith fun h => .ite h h.dmaWrite)

@[simp] theorem execWaitFlag_kept (ring : Fin 1024) (s : State) : KeptBy s (execWaitFlag ring s) := by
  unfold execWaitFlag
  refine keptBy_next.mpr ((Kept.refl s).onHead fun x => ?_)
  have h {b : Body} := (Kept.refl s).accept (g := ring.val) (p := x) (body := b) (deadline := none) (power := 0)
  exact .ite h.finish (.ite h.finish h.settle)

@[simp] theorem execWaitFlagSatisfied_kept (ring : Fin 1024) (s : State) : KeptBy s (execWaitFlagSatisfied ring s) := by
  unfold execWaitFlagSatisfied
  rw [keptBy_next]
  split
  · exact .ite (Kept.refl s).finish (.refl s)
  · exact .refl s

@[simp] theorem execWaitFlagDeadline_kept (ring : Fin 1024) (s : State) : KeptBy s (execWaitFlagDeadline ring s) := by
  unfold execWaitFlagDeadline
  rw [keptBy_next]
  split
  · exact .ite (Kept.refl s).finish (.refl s)
  · exact .refl s

theorem Kept.setFlagHead {g : Nat} (hτ : Kept σ τ) : Kept σ (τ.setFlagHead g) :=
  hτ.onHead fun _ => hτ.completeWith fun h => h.same

@[simp] theorem execSetFlag_kept (ring : Fin 1024) (s : State) : KeptBy s (execSetFlag ring s) :=
  keptBy_next.mpr (Kept.refl s).setFlagHead

@[simp] theorem execListCall_kept (ring : Fin 1024) (s : State) : KeptBy s (execListCall ring s) :=
  keptBy_next.mpr ((Kept.refl s).onHead fun _ => (Kept.refl s).accept.updRing.settle)

theorem Kept.setAnchor {a : DWord} (hτ : Kept σ τ) : Kept σ (τ.setAnchor a) := hτ.same

@[simp] theorem execTimeAnchor_kept (ring : Fin 1024) (s : State) : KeptBy s (execTimeAnchor ring s) :=
  keptBy_next.mpr ((Kept.refl s).onHead fun _ => (Kept.refl s).completeWith fun h => h.setAnchor.updCmd)

@[simp] theorem execKflagSetWrite_kept (word : Fin 8) (value : Word) (s : State) :
    KeptBy s (execKflagSetWrite word value s) :=
  keptBy_next.mpr ((Kept.refl s).hostAccess fun h => h.same)

@[simp] theorem execKflagClrWrite_kept (word : Fin 8) (value : Word) (s : State) :
    KeptBy s (execKflagClrWrite word value s) :=
  keptBy_next.mpr ((Kept.refl s).hostAccess fun h => h.same)

theorem Kept.hkDrain {core : Nat} (hτ : Kept σ τ) : Kept σ (τ.hkDrain core) := by
  unfold State.hkDrain
  split
  · exact hτ
  · exact hτ.same { kmbx := Memory.writeN_wf _ _ _, shapes := .congr (by simp [State.lengths]) }

theorem Kept.kfence {core : Nat} (hτ : Kept σ τ) : Kept σ (τ.kfence core) :=
  hτ.same { kmbx := Memory.foldl_wf _ _ (fun _ _ => Memory.writeN_wf _ _ _) _, shapes := .congr (by simp [State.kfence, State.lengths]) }

theorem Kept.hkMem {core : Nat} {op : HkMem} (hτ : Kept σ τ) : Kept σ (τ.hkMem core op) := by
  unfold State.hkMem
  refine .ite hτ ?_
  split
  · exact hτ.same { shapes := .congr (by simp [State.lengths]) }
  · exact hτ.hkDrain
  · exact hτ.emit
  · exact hτ.kfence

theorem Kept.flagAccess {tlp : Tlp} {a : FlagAccess} (hτ : Kept σ τ) : Kept σ (τ.flagAccess tlp a) := by
  unfold State.flagAccess
  split
  · exact hτ.setFlagHead
  · split
    · exact hτ.hostRead fun h => h
    · exact hτ.hostAccess fun h => h.same
  · refine .ite hτ ?_
    dsimp only
    split
    · exact Kept.emit hτ.kfence.same
    · exact hτ.kfence.same

theorem Kept.flagCycle {cycle : List FlagAccess} {tlp : Tlp} (hτ : Kept σ τ) : Kept σ (τ.flagCycle cycle tlp) :=
  hτ.foldl fun h => h.flagAccess

end Sys2Proof.Machine
end

section
/-! PROOFS. The invariants under the Stream Engine. -/

namespace Sys2Proof.Machine

set_option Elab.async false

variable {s t u σ τ : State}

theorem Kept.closeSegment {i : Nat} {cut : Bool} (hτ : Kept σ τ) : Kept σ (τ.closeSegment i cut) := by
  unfold State.closeSegment
  split
  · exact hτ
  · exact hτ.updStream.finish

theorem Kept.advanceStream {fuel : Nat} {i : Nat} (hτ : Kept σ τ) : Kept σ (τ.advanceStream fuel i) := by
  induction fuel generalizing τ with
  | zero => exact hτ
  | succ n ih =>
    unfold State.advanceStream
    dsimp only
    split
    · exact hτ.updStream
    · exact .ite (ih hτ.updStream) (.ite (ih hτ.closeSegment) hτ)

theorem Kept.updSegment {i cid : Nat} {f : Segment → Segment} (hτ : Kept σ τ) : Kept σ (τ.updSegment i cid f) :=
  hτ.updStream

theorem Kept.prefetch {i : Nat} (hτ : Kept σ τ) : Kept σ (τ.prefetch i) := by
  unfold State.prefetch
  refine .ite hτ ?_
  split
  · exact hτ
  · exact hτ.updSegment.dmaRead

theorem Kept.cutSegments {i k : Nat} (hτ : Kept σ τ) : Kept σ (τ.cutSegments i k) := hτ.foldl fun h => h.closeSegment

theorem Kept.detachStream {i : Nat} (hτ : Kept σ τ) : Kept σ (τ.detachStream i) :=
  hτ.updStream.foldl fun h => h.finish

theorem Kept.doStop {i cid : Nat} (hτ : Kept σ τ) : Kept σ (τ.doStop i cid) := hτ.cutSegments.updStream.finish

theorem Kept.doJump {i cid target : Nat} {atEnd : Bool} (hτ : Kept σ τ) : Kept σ (τ.doJump i cid target atEnd) := by
  unfold State.doJump
  dsimp only
  split
  · exact hτ.updStream.finish
  · exact hτ.updStream.cutSegments.updStream.updStream.finish

theorem Kept.boundary {i : Nat} (hτ : Kept σ τ) : Kept σ (τ.boundary i) := by
  unfold State.boundary
  have h1 {c : Prop} [Decidable c] := Kept.ite (c := c) (hτ.closeSegment (i := i) (cut := false)) hτ
  have h2 {c d : Prop} [Decidable c] [Decidable d] := Kept.ite (c := d) ((h1 (c := c)).detachStream (i := i)) (h1 (c := c))
  refine .ite ?_ hτ.advanceStream
  dsimp only
  split
  · exact h2.doStop
  · exact h2.doJump.advanceStream
  · exact h2.advanceStream

theorem Kept.takeUnit {i : Nat} (hτ : Kept σ τ) : Kept σ (τ.takeUnit i).1 := by
  unfold State.takeUnit
  dsimp only
  split
  · exact hτ
  · exact .ite_fst hτ.updStream.dmaWrite hτ.updStream

theorem Kept.pumpLoop {fuel : Nat} {i : Nat} (hτ : Kept σ τ) : Kept σ (τ.pumpLoop fuel i) := by
  induction fuel generalizing τ with
  | zero => exact hτ
  | succ n ih =>
    unfold State.pumpLoop
    dsimp only
    split
    · exact .ite (ih hτ.takeUnit.advanceStream) hτ
    · exact hτ

theorem Kept.pump {i : Nat} (hτ : Kept σ τ) : Kept σ (τ.pump i) :=
  .ite hτ (Kept.prefetch (.ite hτ hτ.boundary.pumpLoop))

theorem Kept.latchStop {i cid : Nat} (hτ : Kept σ τ) : Kept σ (τ.latchStop i cid) :=
  .ite hτ (hτ.updStream.foldl fun h => h.finish).pump

theorem Kept.stopStreams {p : Stream → Bool} (hτ : Kept σ τ) : Kept σ (τ.stopStreams p) :=
  hτ.foldl fun h => .ite h.latchStop h

@[simp] theorem execSegmentQueue_kept (ring : Fin 1024) (s : State) : KeptBy s (execSegmentQueue ring s) := by
  unfold execSegmentQueue
  refine keptBy_next.mpr ((Kept.refl s).onHead fun _ => ?_)
  dsimp only
  split
  · exact (Kept.refl s).refuse
  · refine Kept.settle (Kept.pump (Kept.ite ?_ (Kept.updStream ?_))) <;> exact (Kept.refl s).accept.updStream

@[simp] theorem execJump_kept (ring : Fin 1024) (s : State) : KeptBy s (execJump ring s) := by
  unfold execJump
  refine keptBy_next.mpr ((Kept.refl s).onHead fun _ => ?_)
  dsimp only
  split
  · exact (Kept.refl s).refuse
  · refine .ite (Kept.refl s).refuse (Kept.settle (Kept.pump (Kept.ite (Kept.finish ?_) (Kept.updStream (Kept.foldl ?_ fun h => h.finish)))))
    <;> exact (Kept.refl s).accept

@[simp] theorem execStreamStart_kept (ring : Fin 1024) (s : State) : KeptBy s (execStreamStart ring s) := by
  unfold execStreamStart
  refine keptBy_next.mpr ((Kept.refl s).onHead fun _ => ?_)
  split
  · exact (Kept.refl s).refuse
  · exact (Kept.refl s).completeWith fun h => h.updStream

@[simp] theorem execStreamStop_kept (ring : Fin 1024) (s : State) : KeptBy s (execStreamStop ring s) := by
  unfold execStreamStop
  refine keptBy_next.mpr ((Kept.refl s).onHead fun _ => ?_)
  dsimp only
  split
  · exact (Kept.refl s).refuse
  · exact (Kept.refl s).accept.latchStop.settle

@[simp] theorem execTdmConfig_kept (ring : Fin 1024) (s : State) : KeptBy s (execTdmConfig ring s) := by
  unfold execTdmConfig
  refine keptBy_next.mpr ((Kept.refl s).onHead fun _ => ?_)
  exact .ite (Kept.refl s).refuse (.ite (Kept.refl s).refuse ((Kept.refl s).completeWith fun h => h.same))

theorem Kept.tdmUnit {i : Nat} (hτ : Kept σ τ) : Kept σ (τ.tdmUnit i).1 := by
  unfold State.tdmUnit
  refine .ite_fst hτ (.ite_fst hτ.updStream.takeUnit hτ.updStream.updStream)

theorem Kept.tdmStream {acc : State × List Word} {i : Nat} (h : Kept σ acc.1) : Kept σ (State.tdmStream acc i).1 := by
  unfold State.tdmStream
  exact .ite_fst h (.ite_fst h.boundary h.boundary.tdmUnit.prefetch)

theorem Kept.setStr {z : Streams} (hτ : Kept σ τ) (hs : z.s.length = τ.str.s.length := by exact rfl) : Kept σ { τ with str := z } :=
  hτ.same { shapes := .congr (by simp [State.lengths, hs]) }

@[simp] theorem execTdmFrame_kept (s : State) : KeptBy s (execTdmFrame s) := by
  unfold execTdmFrame
  refine keptBy_next.mpr (.ite (.refl s) ?_)
  exact Kept.emit (Kept.setStr (.ite_fst (Kept.refl s).setStr (Kept.foldl_fst (Kept.refl s) fun h => h.tdmStream)))

theorem Kept.resync (hτ : Kept σ τ) : Kept σ (τ.resync) := Kept.devVec (Kept.dlog hτ.setStr)

@[simp] theorem execTdmFsEdge_kept (sckOffset : Nat) (s : State) : KeptBy s (execTdmFsEdge sckOffset s) :=
  keptBy_next.mpr (.ite (.refl s) (.ite (Kept.refl s).setStr (Kept.refl s).resync))

@[simp] theorem execTdmFsMissing_kept (s : State) : KeptBy s (execTdmFsMissing s) :=
  keptBy_next.mpr (.ite (Kept.resync (Kept.refl s).setStr) (.refl s))

@[simp] theorem execTdmSckLost_kept (s : State) : KeptBy s (execTdmSckLost s) :=
  keptBy_next.mpr (.ite (.refl s) (Kept.dlog (Kept.refl s).setStr))

theorem Kept.appendUnit {i : Nat} {u : List Byte} (hτ : Kept σ τ) : Kept σ (τ.appendUnit i u) :=
  .ite hτ.updStream (Kept.devVec hτ.updStream.setStr)

theorem Kept.arrivedUnit {i : Nat} {bytes : List Byte} (hτ : Kept σ τ) : Kept σ (τ.arrivedUnit i bytes).1 := by
  unfold State.arrivedUnit
  dsimp only
  split
  · exact hτ
  split
  · exact hτ
  · exact .ite (hτ.updGraph.foldl fun h => h.sendCredit) hτ.updGraph

@[simp] theorem execStreamUnitArrival_kept (stream : Fin 32) (bytes : List Byte) (s : State) :
    KeptBy s (execStreamUnitArrival stream bytes s) :=
  keptBy_next.mpr (.ite (.refl s) (Kept.refl s).arrivedUnit.appendUnit.pump)

@[simp] theorem execPrefetchCompletion_kept (stream : Fin 32) (result : ReadResult) (s : State) :
    KeptBy s (execPrefetchCompletion stream result s) := by
  unfold execPrefetchCompletion
  rw [keptBy_next]
  have h := Kept.refl s
  dsimp only
  split
  · exact h
  split
  · exact h.updSegment.pump
  · refine Kept.pump (Kept.updSegment ?_)
    cases s.cmd? _ with
    | none => exact h
    | some c => exact h.readFailed
  · exact h

end Sys2Proof.Machine
end

section
/-! PROOFS. The invariants under a stop of the main domain: what it leaves of the cell operations, and the resets. -/

namespace Sys2Proof.Machine

set_option Elab.async false

variable {s t u σ τ : State}

theorem Kept.leaveRows {basin : Nat} {rows : List (Nat × List Byte)} (hτ : Kept σ τ) :
    Kept σ (τ.leaveRows basin rows) :=
  hτ.same { weights := Memory.foldl_wf _ _ (fun _ _ => Memory.writeN_wf _ _ _) _ }

theorem Kept.journalPart {k : Nat} (hτ : Kept σ τ) : Kept σ (τ.journalPart k) := hτ.setWpe

theorem Kept.journalTorn (hτ : Kept σ τ) : Kept σ (τ.journalTorn) := hτ.setWpe

theorem Kept.cutBatch {c : Cmd} {p : Prog} {cut : PowerCut} (hτ : Kept σ τ) : Kept σ (τ.cutBatch c p cut) := by
  unfold State.cutBatch
  refine .ite hτ ?_
  split
  · exact hτ.closeBatch
  · exact .ite hτ.closeBatch (.ite hτ.journalTorn hτ.programRows.updBasin.leaveRows.journalPart)

theorem Kept.cutErase {basin : Nat} {cut : PowerCut} (hτ : Kept σ τ) : Kept σ (τ.cutErase basin cut) := by
  unfold State.cutErase
  refine .ite hτ.journalTorn (Kept.updBasin (hτ.same { weights := Memory.foldl_wf _ _ (fun _ _ => Memory.writeN_wf _ _ _) _ }))

/-- Entries changed, each under its number. -/
theorem Tab.getD_map {α : Type} (m : Tab α) (f : Nat → α → α) (n : Nat) (d : α) :
    Tab.getD (m.map (fun e => (e.1, f e.1 e.2))) n d = ((Tab.get? m n).map (f n)).getD d := by
  unfold Tab.getD Tab.get?
  rw [List.find?_map, Option.map_map]
  cases h : m.find? ((fun e => e.1 == n) ∘ fun e => (e.1, f e.1 e.2)) with
  | none =>
    have h' : m.find? (fun e => e.1 == n) = none := h
    rw [h']
    rfl
  | some e =>
    have h' : m.find? (fun e => e.1 == n) = some e := h
    have he : e.1 = n := by simpa using List.find?_some h'
    rw [h', ← he]
    rfl

/-- Basins changed, each under its number and with its trims still held. -/
theorem TrimsHeld.map {f : Nat → Basin → Basin} (hf : ∀ n b, b.TrimsIn → (f n b).TrimsIn)
    (hb : t.basins = s.basins.map (fun e => (e.1, f e.1 e.2))) (h : TrimsHeld s) : TrimsHeld t := by
  intro n
  have hn := h n
  unfold State.basin at hn ⊢
  rw [hb, Tab.getD_map]
  unfold Tab.getD at hn
  cases hg : Tab.get? s.basins n with
  | none => simp [Basin.initial]
  | some b =>
    rw [hg] at hn
    exact hf n b hn

theorem Kept.mapRestore (hτ : Kept σ τ) : Kept σ (τ.mapRestore) := by
  unfold State.mapRestore
  split
  · exact hτ
  · rename_i m _
    exact hτ.same {
      trims := TrimsHeld.map (f := fun n b =>
        let o := Tab.getD m.basins n (Basin.initial n)
        { b with wstate := o.wstate, mappedOut := o.mappedOut, slot := o.slot, snFailed := o.snFailed }) (fun _ _ => id) rfl
      shapes := .congr (by simp [State.lengths]) }

/-- The fuses burnt in `l` are burnt in `m`. -/
def Lcs.FusesIn (l m : Lcs) : Prop :=
  (l.fProv = true → m.fProv = true) ∧ (l.fDepl = true → m.fDepl = true) ∧ (l.fRet = true → m.fRet = true) ∧
  l.svcIn ≤ m.svcIn ∧ l.svcOut ≤ m.svcOut

theorem Lcs.FusesIn.refl (l : Lcs) : l.FusesIn l := ⟨id, id, id, le_refl _, le_refl _⟩

theorem Lcs.store_fusesIn (l : Lcs) (target : Nat) (pay idPub : List Byte) : l.FusesIn (l.store target pay idPub) := by
  unfold Lcs.store
  split <;> exact Lcs.FusesIn.refl l

theorem Lcs.burn_fusesIn (l : Lcs) (target : Nat) : l.FusesIn (l.burn target) := by
  unfold Lcs.burn
  dsimp only
  split
  · exact ⟨fun _ => rfl, id, id, le_refl _, le_refl _⟩
  · exact ⟨id, fun _ => rfl, id, le_refl _, le_refl _⟩
  · exact ⟨id, id, id, Nat.le_succ _, le_refl _⟩
  · exact ⟨id, id, id, le_refl _, Nat.le_succ _⟩
  · exact Lcs.FusesIn.refl l

theorem Lcs.FusesIn.trans {l m n : Lcs} (h : l.FusesIn m) (k : m.FusesIn n) : l.FusesIn n := by
  obtain ⟨hprov, hdepl, hret, hin, hout⟩ := h
  obtain ⟨kprov, kdepl, kret, kin, kout⟩ := k
  exact ⟨kprov ∘ hprov, kdepl ∘ hdepl, kret ∘ hret, hin.trans kin, hout.trans kout⟩

theorem Lcs.cutTransition_fusesIn (l : Lcs) (target : Nat) (pay idPub : List Byte) (copies : Nat) :
    l.FusesIn (l.cutTransition target pay idPub copies) := by
  unfold Lcs.cutTransition
  dsimp only
  have hs := l.store_fusesIn target pay idPub
  split
  · exact hs.trans (Lcs.burn_fusesIn _ target)
  · split <;> exact hs

theorem Kept.setLcs {l : Lcs} (hτ : Kept σ τ) (hl : τ.lcs.FusesIn l) : Kept σ { τ with lcs := l } := hτ.same { fuses := hl }

theorem Kept.applyCut {cut : PowerCut} (hτ : Kept σ τ) : Kept σ (τ.applyCut cut) := by
  unfold State.applyCut
  have h1 : Kept σ (τ.cmds.foldl (fun t c => match c.prog? with
      | some p => t.cutBatch c p cut
      | none => match c.erasing? with
        | some n => t.cutErase n cut
        | none => t) τ.mapRestore) := by
    refine hτ.mapRestore.foldl fun h => ?_
    split
    · exact h.cutBatch
    · split
      · exact h.cutErase
      · exact h
  split
  · have h2 {target n k : Nat} {pay ids : List Byte} :=
      (h1.setLcs (Lcs.cutTransition_fusesIn _ target pay ids n)).setFree (n := k)
    exact .ite h2.setBist h2
  · exact .ite h1.setBist h1

theorem Kept.resetEngines (hτ : Kept σ τ) : Kept σ (τ.resetEngines) := by
  unfold State.resetEngines
  exact hτ.same {
    cistern := fun _ => rfl, kmbx := fun _ => rfl, cids := fun _ _ h => absurd h List.not_mem_nil, maint := fun _ => Nat.zero_le _
    trims := TrimsHeld.map (f := fun _ b => b.mainReset) (fun _ _ => id) rfl
    shapes := fun h => by
      rw [shapesFixed_iff] at h ⊢
      simp_all [State.lengths, Casc.faultReset, Casc.initial, Streams.initial] }

theorem limits_initial : 128 ∈ [128, 256, 512] ∧ 512 ∈ [128, 256, 512, 1024, 2048, 4096] := by decide

theorem Kept.resetMain (hτ : Kept σ τ) : Kept σ (τ.resetMain) := by
  refine hτ.resetEngines.trans ?_
  unfold State.resetMain
  exact {
    limits := fun _ => limits_initial
    shapes := fun h => by
      rw [shapesFixed_iff] at h ⊢
      simp_all [State.lengths, Casc.mainReset, Casc.initial, Hif.initial] }

end Sys2Proof.Machine
end

section
/-! PROOFS. The invariants under rails, FAULT, SENTRY, clocks, DOZE and switched domains. -/

namespace Sys2Proof.Machine

set_option Elab.async false

variable {s t u σ τ : State}

theorem Kept.setPwr {p : Power} (hτ : Kept σ τ) : Kept σ { τ with pwr := p } := hτ.same

theorem Kept.setPwrPins {p : Power} {q : Pins} (hτ : Kept σ τ) : Kept σ { τ with pwr := p, pins := q } := hτ.same

theorem Kept.enterFault {bit : Nat} {rail : Option Nat} {code : DWord} {cut : PowerCut} (hτ : Kept σ τ) :
    Kept σ (τ.enterFault bit rail code cut) := by
  unfold State.enterFault
  have h {p : Power} {q : Pins} : Kept σ { (τ.applyCut cut).resetEngines with pwr := p, pins := q } := hτ.applyCut.resetEngines.setPwrPins
  exact .ite hτ (.ite h.dlog.devVec h)

@[simp] theorem execRailOvervoltage_kept (rail : Fin 6) (edge : OvEdge) (s : State) :
    KeptBy s (execRailOvervoltage rail edge s) := by
  unfold execRailOvervoltage
  refine keptBy_next.mpr (.ite (.refl s) ?_)
  split
  · exact (Kept.refl s).setPwr
  · exact .ite (.refl s) (.ite (Kept.refl s).setPwr (Kept.refl s).setPwr.enterFault)

theorem Kept.setTj {tj : BitVec 16} (hτ : Kept σ τ) : Kept σ (τ.setTj tj) := hτ.setPwr

@[simp] theorem execThermalWarning_kept (tj : BitVec 16) (s : State) : KeptBy s (execThermalWarning tj s) := by
  unfold execThermalWarning
  exact keptBy_next.mpr (.ite (.refl s) (.ite (Kept.refl s).setTj.setPwrPins.dlog.devVec (Kept.refl s).setTj.setPwrPins))

@[simp] theorem execThermalWarningReturn_kept (tj : BitVec 16) (s : State) :
    KeptBy s (execThermalWarningReturn tj s) :=
  keptBy_next.mpr (.ite (.refl s) (Kept.refl s).setTj.setPwr)

@[simp] theorem execThermalTrip_kept (tj : BitVec 16) (cut : PowerCut) (s : State) :
    KeptBy s (execThermalTrip tj cut s) :=
  keptBy_next.mpr (.ite (.refl s) (Kept.refl s).setTj.setPwr.enterFault)

@[simp] theorem execPllLossOfLock_kept (cut : PowerCut) (s : State) : KeptBy s (execPllLossOfLock cut s) :=
  keptBy_next.mpr (Kept.refl s).enterFault

@[simp] theorem execHkWatchdogExpire_kept (core : Fin 2) (cut : PowerCut) (s : State) :
    KeptBy s (execHkWatchdogExpire core cut s) :=
  keptBy_next.mpr (.ite (.refl s) (Kept.refl s).enterFault)

@[simp] theorem execInternalFatalError_kept (code : DWord) (cut : PowerCut) (s : State) :
    KeptBy s (execInternalFatalError code cut s) :=
  keptBy_next.mpr (Kept.refl s).enterFault

theorem Kept.enterSentry {cut : PowerCut} (hτ : Kept σ τ) : Kept σ (τ.enterSentry cut) := hτ.applyCut.resetMain.same

theorem Kept.railGone {rail : Nat} (hτ : Kept σ τ) : Kept σ (τ.railGone rail) := hτ.setPwr

@[simp] theorem execMainRailLoss_kept (rail : Fin 6) (cut : PowerCut) (s : State) :
    KeptBy s (execMainRailLoss rail cut s) := by
  unfold execMainRailLoss
  refine keptBy_next.mpr (.ite (.refl s) ?_)
  exact .ite (Kept.refl s).railGone (.ite (Kept.refl s).railGone.enterSentry (Kept.refl s).railGone.enterSentry.setPwr)

@[simp] theorem execDryToSentry_kept (rail : Fin 6) (s : State) : KeptBy s (execDryToSentry rail s) :=
  keptBy_next.mpr (.ite (.refl s) (Kept.refl s).railGone.enterSentry)

@[simp] theorem execMainRailGood_kept (rail : Fin 6) (s : State) : KeptBy s (execMainRailGood rail s) :=
  keptBy_next.mpr (.ite (.refl s) (.ite (Kept.same (.refl s)) (Kept.refl s).setPwr))

@[simp] theorem execRailTimeout_kept (s : State) : KeptBy s (execRailTimeout s) :=
  keptBy_next.mpr (.ite (.refl s) (Kept.refl s).setPwrPins)

@[simp] theorem execStrapLatch_kept (samples : List (BitVec 5)) (s : State) : KeptBy s (execStrapLatch samples s) := by
  unfold execStrapLatch
  split
  · exact keptBy_fault _
  · refine keptBy_next.mpr (.ite (.refl s) {
      shapes := fun h => ?_ })
    rw [shapesFixed_iff] at h ⊢
    simp_all [State.lengths, Casc.mainReset, Casc.initial]

@[simp] theorem execCrystalDetected_kept (s : State) : KeptBy s (execCrystalDetected s) :=
  keptBy_next.mpr (.ite (Kept.refl s).setPwr (.refl s))

@[simp] theorem execCrystalLost_kept (s : State) : KeptBy s (execCrystalLost s) := keptBy_next.mpr (.ite {} (.refl s))

@[simp] theorem execTrimWindowClose_kept (trim : BitVec 12) (s : State) : KeptBy s (execTrimWindowClose trim s) :=
  keptBy_next.mpr (.ite {} (.refl s))

theorem Kept.beginDoze (hτ : Kept σ τ) : Kept σ (τ.beginDoze) := hτ.setPwr

theorem Kept.reqResult {r : ReqResult} (hτ : Kept σ τ) : Kept σ (τ.reqResult r) := hτ.setPwr

@[simp] theorem execDozeIdleTimeout_kept (s : State) : KeptBy s (execDozeIdleTimeout s) :=
  keptBy_next.mpr (.ite (Kept.refl s).beginDoze (.refl s))

theorem Kept.ltr {us : Nat} (hτ : Kept σ τ) : Kept σ (τ.ltr us) := hτ.leaveL1.emit

theorem Kept.sendLtr (hτ : Kept σ τ) : Kept σ (τ.sendLtr) := by
  unfold State.sendLtr
  refine .ite hτ ?_
  split
  · exact hτ.ltr
  · exact hτ.ltr
  · exact hτ.ltr
  · exact hτ

@[simp] theorem execDozeEntryDone_kept (s : State) : KeptBy s (execDozeEntryDone s) :=
  keptBy_next.mpr (.ite (.refl s) (Kept.sendLtr (Kept.same (.refl s))))

theorem Kept.mapCmds {p : Power} {f : Cmd → Cmd} (hτ : Kept σ τ) (hf : ∀ x, (f x).cid = x.cid) :
    Kept σ { τ with pwr := p, cmds := τ.cmds.map f } := hτ.same { cids := .map hf rfl rfl }

theorem Kept.beginSwitch {d : DevState} (hτ : Kept σ τ) : Kept σ (τ.beginSwitch d) := hτ.setPwr

@[simp] theorem execFclkSwitchDone_kept (s : State) : KeptBy s (execFclkSwitchDone s) := by
  unfold execFclkSwitchDone
  rw [keptBy_next]
  split
  · exact .refl s
  · refine .ite (.refl s) (Kept.sendLtr (Kept.notePeak ((Kept.refl s).mapCmds fun c => ?_)))
    split <;> rfl

theorem Kept.reqDoze (hτ : Kept σ τ) : Kept σ (τ.reqDoze) := by
  unfold State.reqDoze
  split
  · exact .ite hτ.reqResult (.ite hτ.reqResult hτ.beginDoze.reqResult)
  · exact .ite hτ.reqResult (.ite hτ.reqResult hτ.beginDoze.reqResult)
  · exact .ite hτ.reqResult hτ.reqResult
  · exact hτ.reqResult

@[simp] theorem execPwrReqDoze_kept (s : State) : KeptBy s (execPwrReqDoze s) :=
  keptBy_next.mpr ((Kept.refl s).hostAccess fun h => h.reqDoze)

theorem Kept.reqRun {d : DevState} (hτ : Kept σ τ) : Kept σ (τ.reqRun d) := by
  unfold State.reqRun
  split
  · exact .ite hτ.reqResult hτ.setPwr
  · exact .ite hτ.setPwr.reqResult (.ite hτ.setPwr.reqResult hτ.setPwr.beginSwitch)
  · exact .ite hτ.setPwr.reqResult (.ite hτ.setPwr.reqResult hτ.setPwr.beginSwitch)
  · exact hτ.reqResult

@[simp] theorem execPwrReqRun_kept (s : State) : KeptBy s (execPwrReqRun s) :=
  keptBy_next.mpr ((Kept.refl s).hostAccess fun h => h.reqRun)

@[simp] theorem execPwrReqEconomy_kept (s : State) : KeptBy s (execPwrReqEconomy s) :=
  keptBy_next.mpr ((Kept.refl s).hostAccess fun h => h.reqRun)

@[simp] theorem execPwrPeakClr_kept (s : State) : KeptBy s (execPwrPeakClr s) :=
  keptBy_next.mpr ((Kept.refl s).hostAccess fun h => h.setPwr)

@[simp] theorem execTerracePowerGood_kept (ter : Fin 64) (s : State) : KeptBy s (execTerracePowerGood ter s) := by
  unfold execTerracePowerGood
  rw [keptBy_next]
  split
  · exact (Kept.refl s).setTerPower.stageMore.notePeak.flushBridge
  · exact .refl s

@[simp] theorem execTerraceIdleTimeout_kept (ter : Fin 64) (s : State) : KeptBy s (execTerraceIdleTimeout ter s) :=
  keptBy_next.mpr (.ite (Kept.refl s).setPwr.setTerPower (.refl s))

@[simp] theorem execPeripheryHoldExpire_kept (basin : Fin 4096) (s : State) :
    KeptBy s (execPeripheryHoldExpire basin s) := by
  unfold execPeripheryHoldExpire
  rw [keptBy_next]
  split
  · exact .ite (.refl s) (.ite (Kept.refl s).setPwr (Kept.refl s).setPwr)
  · exact .refl s

@[simp] theorem execPeripheryPowerGood_kept (basin : Fin 4096) (s : State) :
    KeptBy s (execPeripheryPowerGood basin s) := by
  unfold execPeripheryPowerGood
  rw [keptBy_next]
  split
  · exact (Kept.refl s).setPwr
  · exact .refl s

end Sys2Proof.Machine
end

section
/-! PROOFS. The invariants under the ordered shutdown. -/

namespace Sys2Proof.Machine

set_option Elab.async false

variable {s t u σ τ : State}

theorem Kept.dryState (hτ : Kept σ τ) : Kept σ (τ.dryState) := by
  unfold State.dryState
  refine hτ.same { cids := fun h c hc => ?_ }
  change c ∈ (if τ.pwr.fclkTo.isSome then _ else τ.cmds) at hc
  split at hc
  · obtain ⟨x, hx, rfl⟩ := List.mem_map.mp hc
    have hlt := h x hx
    dsimp only
    split
    · exact hlt
    · exact hlt
  · exact h c hc

theorem Kept.dryCommands (hτ : Kept σ τ) : Kept σ (τ.dryCommands) := by
  unfold State.dryCommands
  refine hτ.foldl fun h => ?_
  split
  · exact .ite h h.finish
  · exact h

theorem Kept.relayDry (hτ : Kept σ τ) : Kept σ (τ.relayDry) := .ite (hτ.foldl fun h => h.emit) hτ

theorem Kept.settleAll (hτ : Kept σ τ) : Kept σ (τ.settleAll) := hτ.foldl fun h => h.settle

theorem Kept.enterDry (hτ : Kept σ τ) : Kept σ (τ.enterDry) :=
  hτ.leaveL1.dryState.relayDry.mirrorStop.dryCommands.stopStreams.settleAll

@[simp] theorem execShutdown_kept (ring : Fin 1024) (s : State) : KeptBy s (execShutdown ring s) :=
  keptBy_next.mpr ((Kept.refl s).onHead fun _ => (Kept.refl s).accept.setBist.enterDry)

theorem Kept.raiseIrq (hτ : Kept σ τ) : Kept σ (τ.raiseIrq) := .ite hτ.setSnt.devVec hτ

@[simp] theorem execDozeExitDone_kept (s : State) : KeptBy s (execDozeExitDone s) := by
  unfold execDozeExitDone
  rw [keptBy_next]
  split
  · exact .refl s
  · refine .ite (.refl s) (.ite (Kept.enterDry ?_) ?_) <;>
    exact (Kept.refl s).setPwr.needTerraces.sendLtr.settleAll.fetchWork.raiseIrq

@[simp] theorem execPmeTurnOff_kept (tlp : Tlp) (s : State) : KeptBy s (execPmeTurnOff tlp s) := by
  unfold execPmeTurnOff
  have h : Kept s (({ s with hif := { s.hif with l23 := true } } : State).emit .pmeToAck) := Kept.emit {}
  refine keptBy_next.mpr (.ite (.refl s) (.ite (Kept.refl s).emit.vlogTlp ?_))
  dsimp only
  split
  · exact h.emit.enterDry
  · exact h.emit.enterDry
  · exact h.emit.touch.setPwr
  · exact h.emit

theorem Kept.enginesOff (hτ : Kept σ τ) : Kept σ (τ.enginesOff) := by
  unfold State.enginesOff
  refine Kept.dropBanks (hτ.same { shapes := fun h => ?_ })
  rw [shapesFixed_iff] at h ⊢
  simp_all [State.lengths, Streams.initial]

@[simp] theorem execDryDrainDone_kept (test : TestIn) (s : State) : KeptBy s (execDryDrainDone test s) := by
  unfold execDryDrainDone
  have h := Kept.refl s
  refine keptBy_next.mpr (.ite h ?_)
  refine Kept.setBist (Kept.selfTest (Kept.mapSave (Kept.enginesOff ?_)))
  split
  · exact h.finish
  · exact h

@[simp] theorem execDrydownCommit_kept (tankMv : Nat) (s : State) : KeptBy s (execDrydownCommit tankMv s) := by
  unfold execDrydownCommit
  exact keptBy_next.mpr (.ite (.refl s) { shapes := .congr (by simp [State.lengths]) })

@[simp] theorem execDrydoneRise_kept (s : State) : KeptBy s (execDrydoneRise s) := keptBy_next.mpr (.ite (.refl s) {})

end Sys2Proof.Machine
end

section
/-! PROOFS. The invariants under a start, from the PERST_N edge to release, and its abandonment. -/

namespace Sys2Proof.Machine

set_option Elab.async false

variable {s t u σ τ : State}

theorem Kept.scanEntry {e : JEntry} (hτ : Kept σ τ) : Kept σ (τ.scanEntry e) := by
  unfold State.scanEntry
  refine .ite hτ (Kept.setWpe (Kept.dlog ?_))
  exact .ite hτ.makeDirty.updBasin.setFree hτ.makeDirty

theorem Kept.journalScan (hτ : Kept σ τ) : Kept σ (τ.journalScan) := by
  unfold State.journalScan
  have h := (hτ.setWpe (w := { τ.wpe with dirty := [] })).foldl (l := τ.wpe.journal) (f := State.scanEntry) fun h => h.scanEntry
  exact .ite h h.setWpe

theorem startEpoch_uptime (t : Time) : t.startEpoch.uptime = t.uptime := by
  unfold Time.startEpoch
  split <;> rfl

theorem Kept.runStart {edgeAt decision : Nat} {x : StartIn} (hτ : Kept σ τ) : Kept σ (τ.runStart edgeAt decision x) := by
  unfold State.runStart
  have h : Kept σ { τ with tmr := τ.tmr.startEpoch, sys := { τ.sys with fw := x.fw } } := hτ.same { time := startEpoch_uptime _ }
  exact .ite hτ.same (Kept.setPwr (Kept.selfTest (Kept.mapSave (Kept.setWpe (Kept.journalScan h.setFree)))))

theorem Kept.beginStart {x : StartIn} (hτ : Kept σ τ) : Kept σ (τ.beginStart x) := by
  unfold State.beginStart
  refine hτ.same { shapes := fun h => ?_ }
  rw [shapesFixed_iff] at h ⊢
  simp_all [State.lengths, Casc.mainReset, Casc.initial]

@[simp] theorem execPerstNRise_kept (start : StartIn) (s : State) : KeptBy s (execPerstNRise start s) := by
  unfold execPerstNRise
  have h : Kept s { s with pins := { s.pins with perstHigh := true, wakeLow := false, dryDone := false } } := {}
  exact keptBy_next.mpr (.ite (.refl s) (.ite h (.ite h.beginStart.setPwr h.beginStart.runStart)))

@[simp] theorem execHkRelease_kept (start : StartIn) (s : State) : KeptBy s (execHkRelease start s) := by
  unfold execHkRelease
  have h {n : BitVec 8} : Kept s { s with sys := { s.sys with tapIr := n } } := {}
  refine keptBy_next.mpr (.ite (.refl s) (.ite h ?_))
  dsimp only
  split
  · exact .ite h.runStart h
  · exact h

theorem Kept.writeStart {st : Start} (hτ : Kept σ τ) : Kept σ (τ.writeStart st) := by
  unfold State.writeStart
  have h0 : ((0 : BitVec 16) - 0).toNat ≤ 64 := by decide
  exact hτ.same { violations := fun _ => h0 }

theorem Kept.tellRelease (hτ : Kept σ τ) : Kept σ (τ.tellRelease) := .ite hτ.emit hτ

@[simp] theorem execStartRelease_kept (s : State) : KeptBy s (execStartRelease s) := by
  unfold execStartRelease
  rw [keptBy_next]
  split
  · exact .refl s
  refine .ite (.refl s) (Kept.tellRelease (Kept.sendLtr (Kept.raiseIrq ?_)))
  exact .ite (Kept.refl s).writeStart.setPwrPins.resetEngines.dlog.devVec ((Kept.refl s).writeStart.setPwrPins.setLcs ⟨id, id, id, le_refl _, le_refl _⟩)

@[simp] theorem execPerstNAssert_kept (cut : PowerCut) (s : State) : KeptBy s (execPerstNAssert cut s) := by
  unfold execPerstNAssert
  have h : Kept s { s with pins := { s.pins with perstHigh := false } } := {}
  exact keptBy_next.mpr (.ite (.refl s) (.ite h (.ite h.applyCut.resetMain.setBist h.applyCut.resetMain)))

end Sys2Proof.Machine
end

section
/-! PROOFS. The invariants under the events of the host and the link: misbehaviour, resets, power management, configuration. -/

namespace Sys2Proof.Machine

set_option Elab.async false

variable {s t u σ τ : State}

@[simp] theorem execBar0BadSizeAccess_kept (func : Fin 16) (isRead : Bool) (tlp : Tlp) (s : State) :
    KeptBy s (execBar0BadSizeAccess func isRead tlp s) := by
  unfold execBar0BadSizeAccess
  exact keptBy_next.mpr (.ite (.refl s) (.ite (Kept.refl s).noBar (Kept.ite (Kept.refl s).emit (.refl s)).misbehave))

@[simp] theorem execMalformedTlp_kept (tlp : Tlp) (s : State) : KeptBy s (execMalformedTlp tlp s) :=
  keptBy_next.mpr (Kept.refl s).misbehave

@[simp] theorem execPoisonedWrite_kept (func : Fin 16) (tlp : Tlp) (s : State) :
    KeptBy s (execPoisonedWrite func tlp s) :=
  keptBy_next.mpr (.ite (Kept.refl s).noBar (Kept.refl s).misbehave)

@[simp] theorem execEcrcMismatch_kept (tlp : Tlp) (s : State) : KeptBy s (execEcrcMismatch tlp s) :=
  keptBy_next.mpr (.ite (Kept.refl s).misbehave (.refl s))

@[simp] theorem execUnsupportedRequest_kept (func : Fin 16) (tlp : Tlp) (s : State) :
    KeptBy s (execUnsupportedRequest func tlp s) :=
  keptBy_next.mpr (.ite (.refl s) (Kept.refl s).noBar)

@[simp] theorem execUnexpectedCompletion_kept (tlp : Tlp) (s : State) : KeptBy s (execUnexpectedCompletion tlp s) :=
  keptBy_next.mpr (Kept.refl s).misbehave

theorem Kept.commandReadFailed {c : Cmd} {kind : Nat} (hτ : Kept σ τ) : Kept σ (τ.commandReadFailed c kind) := by
  unfold State.commandReadFailed
  refine .ite hτ ?_
  split
  · exact hτ.readFailed.finish
  · exact hτ.readFailed.finish
  · exact hτ.readFailed.finish
  · split
    · exact hτ
    · exact .ite hτ (.ite hτ.readFailed.endRun hτ.readFailed.finish)
  · split
    · exact hτ
    · exact hτ.readFailed.updSegment.pump
  · exact hτ

@[simp] theorem execCompletionTimeout_kept (src : ReadSrc) (s : State) : KeptBy s (execCompletionTimeout src s) := by
  unfold execCompletionTimeout
  have h := Kept.refl s
  refine keptBy_next.mpr (.ite h ?_)
  split
  · exact .ite h h.fetchFailed
  · split
    · exact .ite h.fetchFailed h
    · exact h
  · split
    · exact h.commandReadFailed
    · exact h

@[simp] theorem execDataReadCompletion_kept (cid : Nat) (result : ReadResult) (s : State) :
    KeptBy s (execDataReadCompletion cid result s) := by
  unfold execDataReadCompletion
  have h := Kept.refl s
  rw [keptBy_next]
  split
  · exact h
  refine .ite h ?_
  split
  · exact h.inputRead
  · exact h.imageRead
  · exact h

theorem Kept.flushMsix {f : Nat} (hτ : Kept σ τ) : Kept σ (τ.flushMsix f) :=
  hτ.foldl fun h => .ite h.setMsixPending.post h

theorem Kept.flushAllMsix (hτ : Kept σ τ) : Kept σ (τ.flushAllMsix) := hτ.foldl fun h => h.flushMsix

@[simp] theorem execMsixUnmask_kept (func : Fin 16) (entry : Option (Fin 1040)) (s : State) :
    KeptBy s (execMsixUnmask func entry s) := by
  unfold execMsixUnmask
  refine keptBy_next.mpr (.ite (.refl s) ?_)
  split
  · exact Kept.flushMsix (Kept.same (.refl s))
  · exact .ite (.refl s) (Kept.flushMsix (Kept.same (.refl s)))

theorem Kept.dropPost {p : Posted} (hτ : Kept σ τ) : Kept σ (τ.dropPost p) := by
  unfold State.dropPost
  refine Kept.postDone ?_
  split
  · exact hτ.setMsixPending
  · split
    · exact hτ.dropResults
    · exact hτ

theorem Kept.setPostQ {q : List Posted} (hτ : Kept σ τ) : Kept σ { τ with postQ := q } := hτ.same

/-- A state named, so that what follows is checked on the name and not on how the state was made. -/
theorem Kept.named (h : Kept σ τ) : ∃ u, τ = u ∧ Kept σ u := ⟨τ, rfl, h⟩

/-- Every enabled ring of a function disabled. -/
theorem Kept.disableRings {f : Nat} {l : List Nat} (hτ : Kept σ τ) :
    Kept σ (l.foldl (fun u g => if u.ringFunc g == f && (u.ring g).en then u.disableRing g else u) τ) :=
  hτ.foldl fun h => .ite h.disableRing h

theorem Kept.flrFunction {f : Nat} (hτ : Kept σ τ) : Kept σ (τ.flrFunction f) := by
  unfold State.flrFunction
  obtain ⟨u, hu, h1⟩ := (hτ.disableRings (f := f) (l := List.range 1024)).named
  rw [hu]
  obtain ⟨v, hv, h2⟩ := ((h1.setPostQ (q := u.postQ.filter (fun p => p.e.func? != some f))).foldl
    (l := u.postQ.filter (fun p => p.e.func? == some f)) (f := State.dropPost) fun h => h.dropPost).named
  dsimp only
  rw [hv]
  refine Kept.closeSessions (Kept.stopStreams (Kept.foldl (h2.trans ?_) fun h => h.finish))
  refine { cids := CidsFresh.map (fun c => ?_) rfl rfl, shapes := .congr (by simp [State.lengths]) }
  split <;> rfl

/-- The link and the functions changed, with the limits, the log and the tables as they were. -/
theorem Kept.setHif {h : Hif} (hτ : Kept σ τ) (hl : h.mps = τ.hif.mps ∧ h.mrrs = τ.hif.mrrs := by exact ⟨rfl, rfl⟩)
    (hv : h.vlogWr = τ.hif.vlogWr ∧ h.vlogRd = τ.hif.vlogRd := by exact ⟨rfl, rfl⟩)
    (hs : h.owner.length = τ.hif.owner.length ∧ h.flrEnd.length = τ.hif.flrEnd.length ∧ h.bars.length = τ.hif.bars.length := by
      exact ⟨rfl, rfl, rfl⟩) : Kept σ { τ with hif := h } := by
  obtain ⟨hm, hr⟩ := hl
  obtain ⟨hw, hd⟩ := hv
  obtain ⟨ho, hf, hb⟩ := hs
  exact hτ.same {
    limits := fun h => by simpa only [LimitsLegal, hm, hr] using h
    violations := fun h => by simpa only [VlogBounded, hw, hd] using h
    shapes := .congr (by simp only [State.lengths, ho, hf, hb]) }

theorem Kept.flrEach {l : List Nat} (hτ : Kept σ τ) : Kept σ (l.foldl State.flrFunction τ) := hτ.foldl fun h => h.flrFunction

theorem Kept.flrVfs (hτ : Kept σ τ) : Kept σ (τ.flrVfs) := by
  unfold State.flrVfs
  obtain ⟨u, hu, h⟩ := (hτ.flrEach (l := (List.range 15).map (fun i => i + 1))).named
  rw [hu]
  exact h.setHif

theorem Kept.hifReset (hτ : Kept σ τ) : Kept σ (τ.hifReset) := by
  unfold State.hifReset
  obtain ⟨u, hu, h⟩ := (hτ.flrVfs.flrFunction (f := 0)).named
  rw [hu]
  refine h.same { limits := fun h => ⟨h.1, limits_initial.2⟩, shapes := fun h => ?_ }
  rw [shapesFixed_iff] at h ⊢
  simp_all [State.lengths]

@[simp] theorem execFlr_kept (func : Fin 16) (s : State) : KeptBy s (execFlr func s) :=
  keptBy_next.mpr (.ite (.refl s) (.ite (Kept.refl s).hifReset (.ite (Kept.refl s).flrFunction (.refl s))))

theorem Kept.dropPosts (hτ : Kept σ τ) : Kept σ (τ.dropPosts) := Kept.foldl hτ.same fun h => h.postDone

theorem Kept.linkReset (hτ : Kept σ τ) : Kept σ (τ.linkReset) := by
  unfold State.linkReset
  obtain ⟨u, hu, h⟩ := hτ.hifReset.dropPosts.named
  rw [hu]
  exact h.same { limits := fun h => ⟨limits_initial.1, h.2⟩ }

@[simp] theorem execHotReset_kept (s : State) : KeptBy s (execHotReset s) :=
  keptBy_next.mpr (.ite (Kept.refl s).linkReset (.refl s))

@[simp] theorem execDlDown_kept (s : State) : KeptBy s (execDlDown s) := by
  unfold execDlDown
  obtain ⟨u, hu, h⟩ := (Kept.ite (c := s.hostUp = true) (Kept.refl s).linkReset (.refl s)).named
  rw [hu]
  exact keptBy_next.mpr h.setHif

theorem Kept.resumeMaster (hτ : Kept σ τ) : Kept σ (τ.resumeMaster) := hτ.fetchWork.releaseReads.flushAllMsix

@[simp] theorem execBusMasterEnableChange_kept (func : Fin 16) (on : Bool) (s : State) :
    KeptBy s (execBusMasterEnableChange func on s) := by
  unfold execBusMasterEnableChange
  have h : Kept s { s with hif := { s.hif with bme := s.hif.bme.set func.val on } } := {}
  exact keptBy_next.mpr (.ite (.refl s) (.ite h.resumeMaster h))

@[simp] theorem execPowerstateD3hot_kept (s : State) : KeptBy s (execPowerstateD3hot s) :=
  keptBy_next.mpr (.ite {} (.refl s))

@[simp] theorem execPowerstateD0_kept (s : State) : KeptBy s (execPowerstateD0 s) :=
  keptBy_next.mpr (.ite (Kept.resumeMaster (Kept.same (.refl s))) (.refl s))

@[simp] theorem execAspmL1Idle_kept (sub : Fin 3) (s : State) : KeptBy s (execAspmL1Idle sub s) :=
  keptBy_next.mpr (.ite (.refl s) (Kept.emit (Kept.same (.refl s))))

theorem Kept.barWrite {i : Nat} {v : DWord} (hτ : Kept σ τ) : Kept σ (τ.barWrite i v) :=
  .ite hτ (hτ.setHif (hs := ⟨rfl, rfl, List.length_set⟩))

/-- A size code in range gives a size that PCI Express has. -/
theorem legal_of_code {l : List Nat} {n k old : Nat} (hl : l = (List.range (n + 1)).map (fun i => 128 * 2 ^ i)) (h : old ∈ l) :
    (if k ≤ n then 128 * 2 ^ k else old) ∈ l := by
  split
  · rename_i hk
    exact hl ▸ List.mem_map.mpr ⟨k, List.mem_range.mpr (Nat.lt_succ_of_le hk), rfl⟩
  · exact h

theorem Kept.configure {req : CfgReq} (hτ : Kept σ τ) : Kept σ (τ.configure req) := by
  unfold State.configure
  split
  · exact hτ.emit
  · exact hτ.setHif
  · exact .ite hτ.setHif (.ite hτ.flrVfs hτ)
  · exact hτ.setHif
  · exact hτ.setHif
  · exact hτ.barWrite
  · refine hτ.same { limits := fun ⟨hm, hr⟩ => ⟨?_, ?_⟩ }
    · exact legal_of_code rfl hm
    · exact legal_of_code rfl hr
  · exact hτ.setHif
  · exact hτ.setHif
  · exact Kept.flushMsix hτ.same
  · exact hτ.setHif
  · exact hτ.setHif
  · exact hτ

@[simp] theorem execConfigRequest_kept (req : CfgReq) (s : State) : KeptBy s (execConfigRequest req s) := by
  unfold execConfigRequest
  have h := Kept.refl s
  exact keptBy_next.mpr (.ite h (.ite (.ite h.emit h) (.ite h (.ite h.noBar h.leaveL1.configure.emit))))

theorem Kept.drainPosts {fuel : Nat} (hτ : Kept σ τ) : Kept σ (τ.drainPosts fuel) := by
  induction fuel generalizing τ with
  | zero => exact hτ
  | succ n ih =>
    unfold State.drainPosts
    split
    · exact hτ
    · exact hτ
    · refine ih (.ite (Kept.dropPost hτ.same) (Kept.postDone (Kept.emit (Kept.leaveL1 hτ.same))))

@[simp] theorem execLinkUp_kept (speed width : Nat) (credits : Option Nat) (s : State) :
    KeptBy s (execLinkUp speed width credits s) :=
  keptBy_next.mpr (.ite (.refl s) (Kept.drainPosts (Kept.same (.refl s))))

@[simp] theorem execFlowControlCreditReturn_kept (n : Nat) (s : State) : KeptBy s (execFlowControlCreditReturn n s) := by
  unfold execFlowControlCreditReturn
  rw [keptBy_next]
  split
  · exact .refl s
  · exact Kept.drainPosts (Kept.same (.refl s))

end Sys2Proof.Machine
end

section
/-! PROOFS. The invariants under mirrored pairs, failover, the standby and the master's work. -/

namespace Sys2Proof.Machine

set_option Elab.async false

variable {s t u σ τ : State}

/-- What the chain keeps changed, with as many devices and pairs as there are. -/
theorem Kept.setCasc {c : Casc} {n : Nat} (hτ : Kept σ τ) (hc : τ.casc.chain.length = 8 → c.chain.length = 8)
    (hr : τ.casc.route.length = 8 → c.route.length = 8) (hp : τ.casc.pairs.length = 3 → c.pairs.length = 3)
    (ha : τ.casc.applied.length = 3 → c.applied.length = 3) : Kept σ { τ with casc := c, free := n } := by
  refine hτ.same { shapes := fun h => ?_ }
  obtain ⟨h1, h2, h3, h4, h5, h6, h7, h8, hc', hr', hp', ha', h9⟩ := h
  exact ⟨h1, h2, h3, h4, h5, h6, h7, h8, hc hc', hr hr', hp hp', ha ha', h9⟩

theorem Kept.portLog {up : Bool} {event : Nat} (hτ : Kept σ τ) : Kept σ (τ.portLog up event) := hτ.dlog

theorem Kept.mgmtBad {up : Bool} (hτ : Kept σ τ) : Kept σ (τ.mgmtBad up) := Kept.portLog (hτ.setCasc id id id id)

theorem Kept.portLogFree {up : Bool} (hτ : Kept σ τ) : Kept σ (τ.portLogFree up) := hτ.setFree.portLog

theorem Kept.updMember {d : Nat} {f : Member → Member} (hτ : Kept σ τ) : Kept σ (τ.updMember d f) :=
  hτ.setCasc (n := τ.free) (fun h => by simpa using h) id id id

theorem Kept.tell {d : Nat} {m : LinkMsg} (hτ : Kept σ τ) : Kept σ (τ.tell d m) := .ite hτ hτ.emit

theorem Kept.writeRoutes (hτ : Kept σ τ) : Kept σ (τ.writeRoutes) := by
  unfold State.writeRoutes
  refine Kept.foldl (hτ.setCasc id (fun _ => by simp [routeTable]) id id) fun h => .ite h h.emit

theorem Kept.endWaits {k : Nat} (hτ : Kept σ τ) : Kept σ (τ.endWaits k) := hτ.updPair.foldl fun h => h.finish

theorem Kept.suspend {k : Nat} (hτ : Kept σ τ) : Kept σ (τ.suspend k) := hτ.updPair.dlog.devVec.endWaits.releaseHeld

/-- A record of the snapshot put into the pair's queue. -/
theorem Kept.snapshot {k ring tag : Nat} (hτ : Kept σ τ) : Kept σ (τ.snapshot k ring tag) := by
  unfold State.snapshot
  refine Kept.mirrorPush (Kept.foldl hτ.mirrorPush fun h => Kept.mirrorPush (h.mirrorPush.foldl fun h => h.mirrorPush))

theorem Kept.abortCmd {c : Cmd} {e : End} (hτ : Kept σ τ) : Kept σ (τ.abortCmd c e) := by
  unfold State.abortCmd
  have h := hτ.updCmd (c := c.cid) (f := fun y => { y with mir := [], held := none })
  dsimp only
  split
  · split
    · exact .ite h.endRun h.finish
    · exact h.finish
  · exact h.updGraph.finish
  · exact h.finish

theorem Kept.failover {k cause : Nat} (hτ : Kept σ τ) : Kept σ (τ.failover k cause) := by
  unfold State.failover
  refine Kept.devVec (Kept.dlog (Kept.setCasc ?_ id id id id))
  exact hτ.updPair.updMember.writeRoutes.foldl fun h => h.abortCmd

theorem Kept.drainFailover {k : Nat} (hτ : Kept σ τ) : Kept σ (τ.drainFailover k) := by
  unfold State.drainFailover
  dsimp only
  split
  · exact hτ
  · exact .ite hτ.failover.finish hτ

theorem Kept.formPair {k cid ring tag a peer : Nat} {async : Bool} (hτ : Kept σ τ) :
    Kept σ (τ.formPair k cid ring tag a peer async) := by
  unfold State.formPair
  refine Kept.snapshot (Kept.setFree (Kept.foldl (Kept.tell (Kept.tell (Kept.updPair ?_))) fun h => h.tell))
  exact hτ.setCasc (n := τ.free) id id id id

@[simp] theorem execMirrorControl_kept (ring : Fin 1024) (s : State) : KeptBy s (execMirrorControl ring s) := by
  unfold execMirrorControl
  refine keptBy_next.mpr ((Kept.refl s).onHead fun p => ?_)
  have h := Kept.refl s
  dsimp only
  split
  · split
    · exact h.refuse
    · refine h.completeWith fun h => Kept.releaseHeld (Kept.updPair (Kept.endWaits ?_))
      exact .ite (h.setCasc (n := _) id id id id) h.tell.tell
  · refine .ite h.refuse (h.completeWith fun h => ?_)
    refine h.setCasc (n := _) id id (fun hp => ?_) id
    split <;> simpa using hp
  · refine .ite h.refuse ?_
    split
    · exact h.setFree.refuse
    · exact h.refuse
    · exact h.setFree.accept.formPair.settle
  · split
    · exact h.refuse
    · exact h.accept.updPair.drainFailover.settle

theorem Kept.ackPair {k seq : Nat} (hτ : Kept σ τ) : Kept σ (τ.ackPair k seq) :=
  .ite (hτ.updPair.mirrorPump.releaseHeld.drainFailover) hτ

@[simp] theorem execMirrorAckRx_kept (pair : Fin 3) (seq : Nat) (s : State) : KeptBy s (execMirrorAckRx pair seq s) :=
  keptBy_next.mpr (Kept.refl s).ackPair

@[simp] theorem execSnapshotEndAck_kept (pair : Fin 3) (s : State) : KeptBy s (execSnapshotEndAck pair s) := by
  unfold execSnapshotEndAck
  rw [keptBy_next]
  dsimp only
  split
  · exact .refl s
  refine .ite (.refl s) ?_
  split
  · exact (Kept.refl s).ackPair.updPair.finish
  · exact (Kept.refl s).ackPair.updPair

@[simp] theorem execMirrorAckTimeout_kept (pair : Fin 3) (s : State) : KeptBy s (execMirrorAckTimeout pair s) :=
  keptBy_next.mpr (.ite (Kept.refl s).suspend (.refl s))

@[simp] theorem execMirrorResendRequest_kept (pair : Fin 3) (seq : Nat) (s : State) :
    KeptBy s (execMirrorResendRequest pair seq s) :=
  keptBy_next.mpr (.ite ((Kept.refl s).foldl fun h => h.emit) (.refl s))

theorem Kept.shadowSlots {c : Cgd} {h active : Nat} (hτ : Kept σ τ) : Kept σ (τ.shadowSlots c h active).2 := by
  unfold State.shadowSlots
  split
  · exact hτ
  · have h := hτ.placeSlots (c := c) (taken := τ.reservedSlots)
      (recs := c.slots.map (fun (x : SlotRec) => if x.dev = active then { x with dev := τ.me } else x))
    dsimp only
    split
    · rename_i hp
      rwa [hp] at h
    · rename_i hp
      rwa [hp] at h

theorem Kept.zeroSegments {g : Graph} {dev : Nat} (hτ : Kept σ τ) : Kept σ (τ.zeroSegments g dev) := by
  unfold State.zeroSegments
  refine hτ.foldl fun h => ?_
  split
  · exact .ite (h.same { cistern := Memory.writeN_wf _ _ _ }) h
  · exact h

theorem Kept.loadShadow {h active : Nat} {raw : List Byte} (hτ : Kept σ τ) (hu : τ.loadShadow h active raw = some u) :
    Kept σ u := by
  unfold State.loadShadow at hu
  split at hu
  · cases hu
  · have hs := hτ.shadowSlots (c := parseCgd raw) (h := h) (active := active)
    dsimp only at hu
    split at hu
    · rename_i hp
      rw [hp] at hs
      cases hu
      exact hs.zeroSegments.setCasc (n := _) id id id id
    · cases hu

theorem Kept.updShadow {h : Nat} {f : Graph → Graph} (hτ : Kept σ τ) : Kept σ (τ.updShadow h f) :=
  hτ.setCasc (n := τ.free) id id id id

theorem Kept.putSegments {fuel : Nat} {g : Graph} {seq : Nat} {b : List Byte} (hτ : Kept σ τ) :
    Kept σ (τ.putSegments fuel g seq b) := by
  induction fuel generalizing τ b with
  | zero => exact hτ
  | succ n ih =>
    cases b with
    | nil => exact hτ
    | cons x xs =>
      unfold State.putSegments
      refine ih ?_
      split
      · exact hτ.same { cistern := Memory.writeN_wf _ _ _ }
      · exact hτ

theorem Kept.openCell {n : Nat} {last : Bool} (hτ : Kept σ τ) : Kept σ (τ.openCell n last) :=
  hτ.setCasc (n := τ.free) id id id id

theorem Kept.eraseCell {n ter slot : Nat} (hτ : Kept σ τ) : Kept σ (τ.eraseCell n ter slot) := hτ.tunnel.countWear

theorem Kept.dropShadows {keep : Graph → Bool} (hτ : Kept σ τ) : Kept σ (τ.dropShadows keep) :=
  Kept.dropBanks (hτ.setCasc (n := τ.free) id id id id)

theorem Kept.closeShadows (hτ : Kept σ τ) : Kept σ (τ.closeShadows) := hτ.setCasc (n := τ.free) id id id id

theorem Kept.applyRows {pay : List Byte} {last : Bool} (hτ : Kept σ τ) (hu : τ.applyRows pay last = some u) : Kept σ u := by
  unfold State.applyRows at hu
  dsimp only at hu
  split at hu
  · cases hu
  · split at hu
    · cases hu
    · cases hu
      exact hτ.cellTerrace.updBasin.journalOpen.programRows.updBasin.journalClose.openCell

theorem Kept.applyRecord {k typ h seq : Nat} {first last : Bool} {pay : List Byte} (hτ : Kept σ τ)
    (hu : τ.applyRecord k typ h seq first last pay = some u) : Kept σ u := by
  have hgather {c : Casc} (hc : c.chain = τ.casc.chain ∧ c.route = τ.casc.route ∧ c.pairs = τ.casc.pairs ∧ c.applied = τ.casc.applied) :
      Kept σ { τ with casc := c } := by
    obtain ⟨hc, hr, hp, ha⟩ := hc
    exact hτ.setCasc (n := τ.free) (hc ▸ id) (hr ▸ id) (hp ▸ id) (ha ▸ id)
  unfold State.applyRecord at hu
  dsimp only at hu
  split at hu
  · cases hu
    exact hτ.dropShadows.setCasc (n := _) id id id id
  · cases hu
    exact hτ.updPair
  · split at hu
    · exact hτ.loadShadow hu
    · cases hu
      exact hgather ⟨rfl, rfl, rfl, rfl⟩
  · obtain ⟨_, -, rfl⟩ := Option.map_eq_some_iff.mp hu
    exact hτ.dropShadows
  · obtain ⟨_, -, rfl⟩ := Option.map_eq_some_iff.mp hu
    exact hτ.updShadow
  · obtain ⟨_, -, rfl⟩ := Option.map_eq_some_iff.mp hu
    exact .ite hτ.putSegments.updShadow (hgather ⟨rfl, rfl, rfl, rfl⟩)
  · obtain ⟨_, -, rfl⟩ := Option.map_eq_some_iff.mp hu
    exact hτ.updShadow
  · exact hτ.applyRows hu
  · obtain ⟨_, -, rfl⟩ := Option.map_eq_some_iff.mp hu
    exact hτ.cellTerrace.journalOpen.eraseCell.journalClose.openCell
  · obtain ⟨_, -, rfl⟩ := Option.map_eq_some_iff.mp hu
    exact hτ.commitTag.openCell
  · cases hu

theorem Kept.askResend {k next : Nat} (hτ : Kept σ τ) : Kept σ (τ.askResend k next) := hτ.portLog.emit

@[simp] theorem execMirrorRecordRx_kept (bytes : List Byte) (s : State) : KeptBy s (execMirrorRecordRx bytes s) := by
  unfold execMirrorRecordRx
  have h := Kept.refl s
  refine keptBy_next.mpr (.ite h (.ite h.mgmtBad (.ite h.askResend (.ite h.emit (.ite h.askResend ?_)))))
  split
  · exact h.askResend
  refine .ite h.askResend ?_
  split
  · exact h.updPair
  · rename_i t hu
    have hr {l : List (Option Nat)} (hl : t.casc.applied.length = 3 → l.length = 3) :=
      (h.applyRecord hu).setCasc (n := t.free) (c := { t.casc with applied := l }) id id id hl
    exact .ite (hr fun ha => by simpa using ha).emit (hr fun ha => by simpa using ha)

theorem Kept.takeOver {old : Nat} (hτ : Kept σ τ) : Kept σ (τ.takeOver old) := by
  unfold State.takeOver
  refine Kept.foldl ?_ fun h => h.fillDelay.needTerraces.notePeak
  have h := hτ.foldl (l := τ.casc.openCells) (f := fun t n => t.makeDirty n 2) fun h => h.makeDirty
  refine h.same { shapes := .congr (by simp [State.lengths]) }

@[simp] theorem execRoutingTableWrite_kept (table : List Nat) (alsoNum : Option Nat) (s : State) :
    KeptBy s (execRoutingTableWrite table alsoNum s) := by
  unfold execRoutingTableWrite
  have h {t : State} (ht : t = { s with casc := { s.casc with
      route := (List.range 8).map (fun d => table.getD d 3 % 4)
      length := max 1 (table.filter (fun r => r != 3)).length
      fenced := s.casc.fenced || table.getD s.casc.device 3 != 0 } }) : Kept s t :=
    ht ▸ (Kept.refl s).setCasc (n := _) id (fun _ => by simp) id id
  refine keptBy_next.mpr (.ite (.refl s) ?_)
  split
  · exact .ite (h rfl) (h rfl).takeOver
  · exact h rfl

theorem Kept.carry {ring tag opcode : Nat} {body : Body} (hτ : Kept σ τ) : Kept σ (τ.carry ring tag opcode body) :=
  hτ.same { cids := .append rfl rfl rfl }

theorem Kept.carryOut {ring tag opcode h : Nat} {g : Graph} {parts : List (Nat × List Byte × Option (Nat × Nat))}
    {k : State → State} (hτ : Kept σ τ) (hk : ∀ {u}, Kept σ u → Kept σ (k u)) :
    Kept σ (τ.carryOut ring tag opcode h g parts k) :=
  (hk hτ.carry).mirrorCmd.finish

theorem Kept.realign {g : Graph} {seq : Nat} (hτ : Kept σ τ) : Kept σ (τ.realign g seq) := by
  unfold State.realign
  refine .ite hτ (Kept.updGraph (hτ.foldl fun h => .ite h ?_))
  split
  · exact h.same { cistern := Memory.writeN_wf _ _ _ }
  · exact h

theorem Kept.takePart {h seq : Nat} {devs : List Nat} {evals skipped : Nat} {fault : Option Nat} (hτ : Kept σ τ) :
    Kept σ (τ.takePart h seq devs evals skipped fault) := by
  unfold State.takePart
  split
  · exact hτ
  · exact hτ.updCmd.updRun

theorem Kept.cutRun {h seq : Nat} {zero : Bool} (hτ : Kept σ τ) : Kept σ (τ.cutRun h seq zero) := by
  unfold State.cutRun
  dsimp only
  split
  · split
    · exact hτ.clearRun.endRun
    · exact hτ.clearRun
  · exact hτ.clearRun

@[simp] theorem execMasterWorkMessage_kept (ring tag opcode : Nat) (work : Work) (s : State) :
    KeptBy s (execMasterWorkMessage ring tag opcode work s) := by
  unfold execMasterWorkMessage
  rw [keptBy_next]
  have h := Kept.refl s
  split
  · exact h.takePart
  refine .ite h ?_
  split
  · exact h
  · exact h.cutRun
  · refine .ite (h.setCasc (n := _) id id id id) (h.carryOut fun h => h.install)
  · split
    · exact h.setCasc (n := _) id id id id
    · exact (h.carryOut fun h => h).releaseGraph
  · split
    · exact h
    · exact h.realign.carry.updGraph.headWake
  · split
    · exact h
    · exact h.carryOut fun h => h.updGraph
  · split
    · exact h
    · exact h.carryOut fun h => h.updGraph
  · refine .ite (Kept.snapshot ?_) ?_ <;>
    exact h.setCasc (n := _) id id (fun hp => by simpa using hp) fun ha => by simpa using ha
  · exact .ite h.updPair.releaseHeld.dropShadows.closeShadows h.updPair.releaseHeld

end Sys2Proof.Machine
end

section
/-! PROOFS. The invariants under the cascade link and the chain. -/

namespace Sys2Proof.Machine

set_option Elab.async false

variable {s t u σ τ : State}

theorem Kept.loseMember {d : Nat} (hτ : Kept σ τ) : Kept σ (τ.loseMember d) := by
  unfold State.loseMember
  refine Kept.devVec (Kept.foldl (Kept.setCasc hτ.updMember id (fun h => by simpa using h) id id) fun h => h.abortCmd)

theorem Kept.declareLost {d : Nat} (hτ : Kept σ τ) : Kept σ (τ.declareLost d) := by
  unfold State.declareLost
  refine .ite hτ ?_
  split
  · exact hτ.loseMember
  · exact .ite hτ.endWaits.failover (.ite hτ.suspend.loseMember hτ.loseMember)

@[simp] theorem execMemberLost_kept (dev : Fin 8) (s : State) : KeptBy s (execMemberLost dev s) :=
  keptBy_next.mpr (Kept.refl s).declareLost

theorem Kept.portDown {up : Bool} (hτ : Kept σ τ) : Kept σ (τ.portDown up) :=
  .ite hτ.updPort.portLog.devVec (hτ.updPort.portLog.devVec.foldl fun h => h.declareLost)

theorem Kept.passNumber (hτ : Kept σ τ) : Kept σ (τ.passNumber) := .ite hτ.emit hτ

theorem Kept.portUpAt {up : Bool} {lanes : BitVec 4} (hτ : Kept σ τ) : Kept σ (τ.portUpAt up lanes) := by
  unfold State.portUpAt
  have h1 := (hτ.updPort (up := up) (f := fun p => { p with state := .up, degraded := lanes != 0xF, lanesOk := lanes, fails := 0, bad := 0 })).bridgeSend
    (up := up)
  have h2 := Kept.ite (c := lanes = 0xF) h1 (h1.portLogFree (up := up))
  exact .ite h2.passNumber h2

@[simp] theorem execCascadeTrainingDone_kept (up : Bool) (lanes : BitVec 4) (partnerOk : Bool) (s : State) :
    KeptBy s (execCascadeTrainingDone up lanes partnerOk s) := by
  unfold execCascadeTrainingDone
  have h := Kept.refl s
  refine keptBy_next.mpr (.ite h (.ite (.ite h.updPort.portDown h.updPort) (.ite h.updPort.portLogFree h.portUpAt)))

theorem Kept.discardFrame {up : Bool} (hτ : Kept σ τ) : Kept σ (τ.discardFrame up) :=
  .ite hτ.updPort.portLog.updPort.portLog hτ.updPort.portLog.sendFrame

theorem Kept.fromLink {p : Packet} (hτ : Kept σ τ) : Kept σ (τ.fromLink p) := .ite hτ.bridgeOn (.ite hτ.enterRill hτ)

theorem Kept.takeCredits {up : Bool} {cr : List Nat} (hτ : Kept σ τ) : Kept σ (τ.takeCredits up cr) :=
  .ite hτ.updPort.mgmtBad hτ.updPort

theorem Kept.takeFlit {up : Bool} {x : FlitSlot} (hτ : Kept σ τ) : Kept σ (State.takeFlit up τ x) := by
  unfold State.takeFlit
  refine .ite hτ.updPort ?_
  dsimp only
  split
  · exact .ite hτ.updPort.fromLink hτ.updPort
  · exact hτ

theorem Kept.replayFrames {up : Bool} (hτ : Kept σ τ) : Kept σ (τ.replayFrames up) := hτ.foldl fun h => h.emit

@[simp] theorem execCascadeFrameRx_kept (up : Bool) (frame : LinkFrame) (s : State) :
    KeptBy s (execCascadeFrameRx up frame s) := by
  unfold execCascadeFrameRx
  have h := Kept.refl s
  refine keptBy_next.mpr (.ite h (.ite h.discardFrame (.ite h ?_)))
  exact (Kept.foldl (.ite h.updPort.replayFrames h.updPort) fun h => h.takeFlit).sendFrame.takeCredits.bridgeSend

theorem Kept.enumerated {n : Nat} {uid : DWord} {strap : Nat} (hτ : Kept σ τ) : Kept σ (τ.enumerated n uid strap) := by
  unfold State.enumerated
  exact Kept.writeRoutes (Kept.setCasc (n := _) hτ.updMember (fun h => by simpa using h) id id id)

@[simp] theorem execEnumerationMessage_kept (n : Nat) (reply : Option (DWord × Nat)) (s : State) :
    KeptBy s (execEnumerationMessage n reply s) := by
  unfold execEnumerationMessage
  rw [keptBy_next]
  have h := Kept.refl s
  split
  · exact .ite h (Kept.passNumber (Kept.emit (h.setCasc (n := _) id id id id)))
  · exact .ite h.emit h
  · exact .ite h h.enumerated
  · exact h

@[simp] theorem execChainEndTimeout_kept (s : State) : KeptBy s (execChainEndTimeout s) :=
  keptBy_next.mpr (.ite (Kept.refl s).updPort (.refl s))

@[simp] theorem execMemberReleaseReport_kept (dev : Fin 8) (uid : DWord) (fw epoch : Word) (s : State) :
    KeptBy s (execMemberReleaseReport dev uid fw epoch s) :=
  keptBy_next.mpr (.ite (.refl s) (.ite (Kept.refl s).mgmtBad (Kept.refl s).updMember.devVec))

@[simp] theorem execHeartbeatSend_kept (s : State) : KeptBy s (execHeartbeatSend s) :=
  keptBy_next.mpr (.ite (Kept.refl s).emit (.refl s))

@[simp] theorem execHeartbeatReceive_kept (dev : Fin 8) (mirSeq : Nat) (s : State) :
    KeptBy s (execHeartbeatReceive dev mirSeq s) := by
  unfold execHeartbeatReceive
  exact keptBy_next.mpr (.ite (.refl s) (.ite (Kept.refl s).mgmtBad ((Kept.refl s).updMember.foldl fun h => h.drainFailover)))

@[simp] theorem execDryRelay_kept (s : State) : KeptBy s (execDryRelay s) :=
  keptBy_next.mpr (.ite (Kept.refl s).enterDry (.refl s))

@[simp] theorem execCascadeEnum_kept (ring : Fin 1024) (s : State) : KeptBy s (execCascadeEnum ring s) :=
  keptBy_next.mpr ((Kept.refl s).onHead fun _ => (Kept.refl s).completeWith fun h => h.dmaWrite)

end Sys2Proof.Machine
end

section
/-! PROOFS. The invariants under life-cycle transitions, retirement and the header tank: fuses are burnt and never unburnt. -/

namespace Sys2Proof.Machine

set_option Elab.async false

variable {s t u σ τ : State}

theorem Kept.retire {cid : Nat} (hτ : Kept σ τ) : Kept σ (τ.retire cid) := by
  unfold State.retire
  refine Kept.wpePower (hτ.same { fuses := ⟨id, id, fun _ => rfl, le_refl _, le_refl _⟩ })

theorem Kept.retireBasin {n : Nat} (hτ : Kept σ τ) : Kept σ (τ.retireBasin n) :=
  Kept.journalClose (.ite hτ.journalOpen.countWear.tunnel.updBasin hτ.journalOpen.countWear.tunnel)

theorem Kept.retireLoop {fuel : Nat} (hτ : Kept σ τ) : Kept σ (τ.retireLoop fuel) := by
  induction fuel generalizing τ with
  | zero => exact hτ
  | succ k ih =>
    unfold State.retireLoop
    exact .ite hτ (ih (hτ.retireBasin.setLcs (Lcs.FusesIn.refl _)))

@[simp] theorem execRetirementResume_kept (n : Nat) (s : State) : KeptBy s (execRetirementResume n s) := by
  unfold execRetirementResume
  have h := (Kept.refl s).retireLoop (fuel := min n 4112)
  refine keptBy_next.mpr (.ite (.refl s) (.ite h ?_))
  have hu := h.setLcs (l := { (State.retireLoop (min n 4112) s).lcs with retiring := false, retireCid := none }) (Lcs.FusesIn.refl _)
  dsimp only
  split
  · exact hu.finish.lcsLast
  · exact hu

theorem Kept.tokenEnergy {c : Nat} {target : Nat} {pay : List Byte} (hτ : Kept σ τ) :
    Kept σ (τ.tokenEnergy c target pay) := by
  unfold State.tokenEnergy
  refine .ite (.ite hτ.updCmd.retire hτ.updCmd) (.ite ?_ hτ.holdupEnd.lcsLast)
  split
  · exact hτ
  · exact hτ.updCmd

@[simp] theorem execLifecycleAdvance_kept (ring : Fin 1024) (token : ReadResult) (s : State) :
    KeptBy s (execLifecycleAdvance ring token s) := by
  unfold execLifecycleAdvance
  refine keptBy_next.mpr ((Kept.refl s).onHead fun p => .ite (.refl s) (Kept.settle ?_))
  have h {b : Body} {f n : Nat} {a : DWord} := ((Kept.refl s).accept (g := ring.val) (p := p) (body := b) (deadline := none) (power := 0)).dmaRead
    (f := f) (addr := a) (len := n)
  dsimp only
  split
  · split
    · exact h.finish.lcsLast
    · exact h.tokenEnergy
  · exact h.readFailed.finish.lcsLast
  · exact h

@[simp] theorem execLifecycleTransitionDone_kept (idPub : List Byte) (s : State) :
    KeptBy s (execLifecycleTransitionDone idPub s) := by
  unfold execLifecycleTransitionDone
  rw [keptBy_next]
  split
  · exact .refl s
  · refine .ite (.refl s) (Kept.lcsLast (Kept.finish ((Kept.refl s).setLcs ?_)))
    exact (s.lcs.store_fusesIn _ _ _).trans (Lcs.burn_fusesIn _ _)

@[simp] theorem execTankWaitTimeout_kept (s : State) : KeptBy s (execTankWaitTimeout s) := by
  unfold execTankWaitTimeout
  have h1 : Kept s (match s.programming with
      | some (c, p) => match p.waitFrom with
        | some t => if t + 2000000 ≤ s.tmr.uptime then s.holdupLow c.cid (batchNeed (min 16 p.left)) else s
        | none => s
      | none => s) := by
    split
    · split
      · exact .ite (Kept.refl s).holdupLow (.refl s)
      · exact .refl s
    · exact .refl s
  rw [keptBy_next]
  split
  · exact .ite h1.holdupEnd.lcsLast h1
  · exact h1

theorem Kept.tankRetry (hτ : Kept σ τ) : Kept σ (τ.tankRetry) := by
  unfold State.tankRetry
  have h1 : Kept σ (match τ.programming with
      | some (c, p) => if p.waitFrom.isSome && τ.tankCovers (batchNeed (min 16 p.left)) then τ.nextBatch c.cid p false else τ
      | none => τ) := by
    split
    · exact .ite hτ.nextBatch hτ
    · exact hτ
  dsimp only
  split
  · exact .ite h1.tokenEnergy h1
  · exact h1

@[simp] theorem execTankComparatorCross_kept (above : Bool) (mv : Nat) (s : State) :
    KeptBy s (execTankComparatorCross above mv s) :=
  keptBy_next.mpr (.ite (Kept.refl s).setWpe.tankRetry (.refl s))

@[simp] theorem execTankBoostThreshold_kept (stop : Bool) (mv : Nat) (s : State) :
    KeptBy s (execTankBoostThreshold stop mv s) :=
  keptBy_next.mpr (.ite (Kept.refl s).setWpe.tankRetry (.refl s))

end Sys2Proof.Machine
end

section
/-! PROOFS. The invariants under register accesses, maintenance packets, BAR4, SMBus and the TAP. -/

namespace Sys2Proof.Machine

set_option Elab.async false

variable {s t u σ τ : State}

theorem Kept.setSys {y : Sys} (hτ : Kept σ τ) : Kept σ { τ with sys := y } := hτ.same

theorem Kept.writeSys {off : Nat} {v : Word} (hτ : Kept σ τ) : Kept σ (τ.writeSys off v) := by
  unfold State.writeSys
  split
  · exact hτ.setSys
  · exact hτ.setSys
  · exact hτ

theorem Kept.pwrCtrlWrite {v : Word} (hτ : Kept σ τ) : Kept σ (τ.pwrCtrlWrite v) := by
  unfold State.pwrCtrlWrite
  have h2 {p q : Power} {c : Prop} [Decidable c] : Kept σ (if c then ({ τ with pwr := p } : State) else { τ with pwr := q }) :=
    .ite hτ.setPwr hτ.setPwr
  dsimp only
  split
  · exact h2.reqDoze
  · exact h2.reqRun
  · exact h2.reqRun
  · exact h2

theorem Kept.writePwr {off : Nat} {v : Word} (hτ : Kept σ τ) : Kept σ (τ.writePwr off v) := by
  unfold State.writePwr
  dsimp only
  split
  · exact hτ.pwrCtrlWrite
  · exact hτ.setPwr
  · exact hτ.setPwr
  · exact hτ.setPwr
  · exact hτ.setPwr
  · exact hτ.setPwr
  · exact hτ

theorem Kept.writeTmr {off : Nat} {v : Word} (hτ : Kept σ τ) : Kept σ (τ.writeTmr off v) := by
  unfold State.writeTmr
  split
  · exact hτ.same
  · exact hτ.same
  · exact hτ.setAnchor
  · exact hτ

theorem Kept.ownerWrite {lo hi : Option Word} {tlp : Tlp} (hτ : Kept σ τ) : Kept σ (τ.ownerWrite lo hi tlp) := by
  unfold State.ownerWrite
  refine .ite hτ.vlogTlp (hτ.same { shapes := fun h => ?_ })
  have ho : τ.hif.owner.length = 16 := h.2.2.2.2.2.2.2.1
  refine h.congr ?_
  cases lo <;> cases hi <;> simp [State.lengths, ownersOf_length, ho]

theorem Kept.msixWrite {f off : Nat} {v : Word} (hτ : Kept σ τ) : Kept σ (τ.msixWrite f off v) :=
  .ite hτ (Kept.flushMsix hτ.setHif)

/-- A consumed count never moves away from the write position. -/
theorem consumed_le (rd wr v : BitVec 16) : (wr - consumed rd wr v).toNat ≤ (wr - rd).toNat := by
  unfold consumed
  split
  · bv_omega
  · exact le_refl _

theorem Kept.vlogRdWrite {v : Word} (hτ : Kept σ τ) : Kept σ (τ.vlogRdWrite v) :=
  hτ.same { violations := fun h => (consumed_le _ _ _).trans h }

theorem Kept.writeHif {off : Nat} {v : Word} {tlp : Tlp} (hτ : Kept σ τ) : Kept σ (τ.writeHif off v tlp) := by
  unfold State.writeHif
  dsimp only
  split
  · exact hτ.ownerWrite
  · exact hτ.ownerWrite
  · exact hτ.setHif
  · exact hτ.setHif
  · exact hτ.setHif
  · exact hτ.setHif
  · exact hτ.vlogRdWrite
  · exact .ite hτ.setHif (.ite hτ.msixWrite hτ)

theorem Kept.writeSlc {off : Nat} {v : Word} (hτ : Kept σ τ) : Kept σ (τ.writeSlc off v) := by
  unfold State.writeSlc
  split
  · exact hτ.setSlc
  · exact hτ.frameCfgWrite
  · exact hτ

theorem Kept.writeAfe {off : Nat} {v : Word} (hτ : Kept σ τ) : Kept σ (τ.writeAfe off v) := by
  unfold State.writeAfe
  split
  · exact hτ.setAfe
  · exact hτ.setAfe
  · exact hτ

theorem Kept.rptRdWrite {v : Word} (hτ : Kept σ τ) : Kept σ (τ.rptRdWrite v) :=
  hτ.setSnt (hb := fun h => (consumed_le _ _ _).trans h)

theorem Kept.rptCtrlWrite {v : Word} (hτ : Kept σ τ) : Kept σ (τ.rptCtrlWrite v) := hτ.setSnt

theorem Kept.writeSnt {off : Nat} {v : Word} (hτ : Kept σ τ) : Kept σ (τ.writeSnt off v) := by
  unfold State.writeSnt
  split
  · exact hτ.setSnt
  · exact hτ.rptRdWrite
  · exact hτ.rptCtrlWrite
  · exact .ite hτ.updSentinel hτ

theorem Kept.writeStr {off : Nat} {v : Word} (hτ : Kept σ τ) : Kept σ (τ.writeStr off v) := by
  unfold State.writeStr
  split
  · exact hτ.setStr
  · exact hτ.setStr
  · exact .ite hτ.updStream hτ

theorem Kept.remoteStart {ctl : Word} (hτ : Kept σ τ) : Kept σ (τ.remoteStart ctl) := by
  unfold State.remoteStart
  refine .ite (hτ.setCasc (n := _) id id id id) (.ite (hτ.setCasc (n := _) id id id id) (Kept.tell (hτ.setCasc (n := τ.free) id id id id)))

theorem Kept.rctlWrite {v : Word} (hτ : Kept σ τ) : Kept σ (τ.rctlWrite v) := by
  unfold State.rctlWrite
  have h {c : Casc} (hc : c = { τ.casc with rctl := v &&& 0x1FFFFFFF#32 }) : Kept σ { τ with casc := c } :=
    hc ▸ hτ.setCasc (n := τ.free) id id id id
  exact .ite (h rfl).remoteStart (h rfl)

theorem Kept.writeCsc {off : Nat} {v : Word} (hτ : Kept σ τ) : Kept σ (τ.writeCsc off v) := by
  unfold State.writeCsc
  split
  · exact .ite hτ.rctlWrite hτ
  · exact .ite (hτ.setCasc (n := _) id id id id) hτ
  · exact Kept.foldl (hτ.setCasc (n := _) id id id id) fun h => h.mirrorPump
  · exact hτ.setCasc (n := _) id id id id
  · exact hτ

theorem Kept.writeKflag {off : Nat} {v : Word} (hτ : Kept σ τ) : Kept σ (τ.writeKflag off v) :=
  .ite hτ.same (.ite hτ.same hτ)

theorem Kept.maintRead {p : Packet} (hτ : Kept σ τ) : Kept σ (τ.maintRead p) := by
  unfold State.maintRead
  split
  · rename_i hlt
    exact Kept.send (hτ.same { maint := fun _ => hlt })
  · exact hτ.same

theorem Kept.writeWindow {t off : Nat} {v : Word} (hτ : Kept σ τ) : Kept σ (τ.writeWindow t off v) :=
  .ite hτ.updTer (.ite hτ.updBasin hτ)

@[simp] theorem execMaintWr_kept (p : Packet) (s : State) : KeptBy s (execMaintWr p s) := by
  unfold execMaintWr
  refine keptBy_next.mpr ((Kept.refl s).arrive fun h => .ite h.badPacket (.ite (.ite ?_ h) (.ite h.writeWindow.writeWindow h.writeWindow)))
  exact h.same { cistern := Memory.writeN_wf _ _ _ }

@[simp] theorem execMaintRd_kept (p : Packet) (s : State) : KeptBy s (execMaintRd p s) :=
  keptBy_next.mpr ((Kept.refl s).arrive fun h => .ite h.badPacket h.send)

theorem Kept.maintAnswer {src : Nat} {bs : List Byte} (hτ : Kept σ τ) : Kept σ (τ.maintAnswer src bs) := by
  unfold State.maintAnswer
  split
  · exact hτ.leaveL1.emit
  · exact hτ.emit
  · exact hτ.emit

@[simp] theorem execMaintResp_kept (p : Packet) (s : State) : KeptBy s (execMaintResp p s) := by
  unfold execMaintResp
  refine keptBy_next.mpr ((Kept.refl s).arrive fun {u} h => .ite h.badPacket (.ite h ?_))
  have h1 {n : Nat} {bs : List Byte} : Kept s (({ u with maintOut := u.maintOut - 1 } : State).maintAnswer n bs) :=
    Kept.maintAnswer (h.same { maint := fun h => (Nat.sub_le _ _).trans h })
  dsimp only
  split
  · exact h1
  · exact Kept.maintRead h1.same

theorem Kept.writeReg {off : Nat} {v : Word} {tlp : Tlp} (hτ : Kept σ τ) : Kept σ (τ.writeReg off v tlp) := by
  unfold State.writeReg
  dsimp only
  split
  · exact hτ.writeSys
  · exact hτ.writePwr
  · exact hτ.writeTmr
  · exact hτ.writeHif
  · exact hτ.writeSlc
  · exact hτ.writeAfe
  · exact hτ.writeSnt
  · exact hτ.writeStr
  · exact hτ.writeCsc
  · exact hτ.writeKflag
  · exact hτ.same { kmbx := Memory.writeN_wf _ _ _ }
  · exact hτ

theorem Kept.pfWrite {off : Nat} {v : DWord} {wide : Bool} {tlp : Tlp} (hτ : Kept σ τ) :
    Kept σ (τ.pfWrite off v wide tlp) := by
  unfold State.pfWrite
  exact .ite hτ.descWrite (.ite (.ite hτ.send hτ) (.ite hτ.ownerWrite (.ite hτ.writeReg.writeReg hτ.writeReg)))

theorem Kept.vfWrite {f off : Nat} {v : DWord} {wide : Bool} {tlp : Tlp} (hτ : Kept σ τ) :
    Kept σ (τ.vfWrite f off v wide tlp) :=
  .ite hτ.descWrite (.ite (.ite hτ.msixWrite.msixWrite hτ.msixWrite) hτ)

theorem Kept.latchRead {off : Nat} (hτ : Kept σ τ) : Kept σ (τ.latchRead off) := .ite hτ.same (.ite hτ.setSlc hτ)

theorem Kept.regRead {f off : Nat} {wide : Bool} {tlp : Tlp} (hτ : Kept σ τ) : Kept σ (τ.regRead f off wide tlp) := by
  unfold State.regRead
  refine .ite (.ite hτ.noBar hτ) (.ite (.ite hτ (.ite hτ.noBar (.ite hτ.leaveL1.emit (hτ.leaveL1.access fun h => h.maintRead)))) ?_)
  exact hτ.hostRead fun h => .ite h.latchRead h

theorem Kept.doorbellRead {f page off len : Nat} {tlp : Tlp} (hτ : Kept σ τ) :
    Kept σ (τ.doorbellRead f page off len tlp) := by
  unfold State.doorbellRead
  exact hτ.hostRead fun h => h

@[simp] theorem execRegisterWrite_kept (func : Fin 16) (offset : Nat) (acc : RegAccess) (wide : Bool) (tlp : Tlp)
    (s : State) :
    KeptBy s (execRegisterWrite func offset acc wide tlp s) := by
  unfold execRegisterWrite
  rw [keptBy_next]
  have h := Kept.refl s
  split
  · exact .ite h (.ite (.ite h.noBar h) (h.hostAccess fun h => .ite h.pfWrite h.vfWrite))
  · exact .ite h h.regRead
  · exact h.doorbellRead
  · exact h.flagCycle
  · exact h.hkMem

@[simp] theorem execTmrAnchorHiWrite_kept (value : Word) (s : State) : KeptBy s (execTmrAnchorHiWrite value s) :=
  keptBy_next.mpr ((Kept.refl s).hostAccess fun h => h.writeTmr)

@[simp] theorem execSysLockWrite_kept (value : Word) (s : State) : KeptBy s (execSysLockWrite value s) :=
  keptBy_next.mpr ((Kept.refl s).hostAccess fun h => h.writeSys)

@[simp] theorem execSntRptRdWrite_kept (value : Word) (s : State) : KeptBy s (execSntRptRdWrite value s) :=
  keptBy_next.mpr ((Kept.refl s).hostAccess fun h => h.rptRdWrite)

@[simp] theorem execSntRptLostClr_kept (value : Word) (s : State) : KeptBy s (execSntRptLostClr value s) :=
  keptBy_next.mpr ((Kept.refl s).hostAccess fun h => h.rptCtrlWrite)

@[simp] theorem execHifVlogRdWrite_kept (value : Word) (s : State) : KeptBy s (execHifVlogRdWrite value s) :=
  keptBy_next.mpr ((Kept.refl s).hostAccess fun h => h.vlogRdWrite)

@[simp] theorem execHifRblkOwnerWrite_kept (hi : Bool) (value : Word) (tlp : Tlp) (s : State) :
    KeptBy s (execHifRblkOwnerWrite hi value tlp s) :=
  keptBy_next.mpr ((Kept.refl s).hostAccess fun h => .ite h.ownerWrite h.ownerWrite)

@[simp] theorem execCscRctlGo_kept (value : Word) (s : State) : KeptBy s (execCscRctlGo value s) :=
  keptBy_next.mpr ((Kept.refl s).hostAccess fun h => h.writeCsc)

@[simp] theorem execRemoteAccessDone_kept (result : Fin 4) (data : Word) (s : State) :
    KeptBy s (execRemoteAccessDone result data s) := by
  unfold execRemoteAccessDone
  rw [keptBy_next]
  split
  · exact .refl s
  · exact (Kept.refl s).setCasc (n := _) id id id id

@[simp] theorem execTmrUptimeLoRead_kept (wide : Bool) (s : State) : KeptBy s (execTmrUptimeLoRead wide s) :=
  keptBy_next.mpr ((Kept.refl s).hostRead fun h => h.latchRead)

@[simp] theorem execSlcFrameIdxLoRead_kept (wide : Bool) (s : State) : KeptBy s (execSlcFrameIdxLoRead wide s) :=
  keptBy_next.mpr ((Kept.refl s).hostRead fun h => h.latchRead)

theorem Kept.cisAccess {src addr : Nat} {write : Option (List Byte)} {len : Nat} (hτ : Kept σ τ) :
    Kept σ (τ.cisAccess src addr write len) := by
  unfold State.cisAccess
  dsimp only
  split
  · exact hτ.send
  · exact hτ.maintRead

@[simp] theorem execBar4Access_kept (addr : Nat) (write : Option (List Byte)) (len : Nat) (tlp : Tlp) (s : State) :
    KeptBy s (execBar4Access addr write len tlp s) := by
  unfold execBar4Access
  have h := Kept.refl s
  refine keptBy_next.mpr (.ite h (.ite h.noBar (.ite (Kept.ite h.emit h).misbehave (.ite (.ite h.leaveL1.emit h) ?_))))
  exact h.hostAccess fun h => h.cisAccess

@[simp] theorem execRemoteAccessMessage_kept (offset : Nat) (write : Option Word) (s : State) :
    KeptBy s (execRemoteAccessMessage offset write s) := by
  unfold execRemoteAccessMessage
  have h := Kept.refl s
  refine keptBy_next.mpr (.ite h ?_)
  split
  · exact .ite h.emit (h.access fun h => h.pfWrite).emit
  · exact .ite h.emit (.ite (.ite h.maintRead h.emit) (h.access fun h => h.latchRead).emit)

theorem Kept.smbError {cause : Nat} (hτ : Kept σ τ) : Kept σ (τ.smbError cause) := hτ.setSys

@[simp] theorem execSmbusBlockRead_kept (code : Byte) (s : State) : KeptBy s (execSmbusBlockRead code s) := by
  unfold execSmbusBlockRead
  refine keptBy_next.mpr (.ite (.refl s) ?_)
  split
  · exact (Kept.refl s).smbError.emit
  · exact Kept.emit (.ite (Kept.refl s).setSys (.refl s))

@[simp] theorem execSmbusAlertResponse_kept (s : State) : KeptBy s (execSmbusAlertResponse s) :=
  keptBy_next.mpr (.ite (Kept.emit (Kept.same (.refl s))) (.refl s))

@[simp] theorem execSmbusProtocolError_kept (cause : Nat) (s : State) : KeptBy s (execSmbusProtocolError cause s) := by
  unfold execSmbusProtocolError
  refine keptBy_next.mpr (.ite (.refl s) ?_)
  split
  · exact (Kept.refl s).smbError.emit
  · exact (Kept.refl s).smbError.emit
  · exact (Kept.refl s).smbError
  · exact (Kept.refl s).smbError
  · exact .refl s

@[simp] theorem execSmbusSclTimeout_kept (s : State) : KeptBy s (execSmbusSclTimeout s) :=
  keptBy_next.mpr (.ite (Kept.refl s).smbError (.refl s))

theorem Kept.tapSelect {ir : BitVec 8} (hτ : Kept σ τ) : Kept σ (τ.tapSelect ir) := hτ.setSys

theorem Kept.tap {k : State → State} (hτ : Kept σ τ) (hk : Kept σ (k τ)) : Kept σ (τ.tap k) := .ite hk hτ

theorem Kept.tapDebug {ir : BitVec 8} {k : State → State} (hτ : Kept σ τ) (hk : ∀ {u}, Kept σ u → Kept σ (k u)) :
    Kept σ (τ.tapDebug ir k) :=
  hτ.tap (.ite (hk hτ.tapSelect) hτ.tapSelect)

@[simp] theorem execTapReset_kept (s : State) : KeptBy s (execTapReset s) :=
  keptBy_next.mpr ((Kept.refl s).tap (Kept.refl s).tapSelect)

@[simp] theorem execExtest_kept (pins : List Bool) (s : State) : KeptBy s (execExtest pins s) :=
  keptBy_next.mpr ((Kept.refl s).tap (Kept.refl s).setSys.tapSelect.emit)

@[simp] theorem execSamplePreload_kept (pins : List Bool) (s : State) : KeptBy s (execSamplePreload pins s) :=
  keptBy_next.mpr ((Kept.refl s).tap (Kept.refl s).setSys.tapSelect.emit)

@[simp] theorem execIdcode_kept (s : State) : KeptBy s (execIdcode s) :=
  keptBy_next.mpr ((Kept.refl s).tap (Kept.refl s).tapSelect.emit)

@[simp] theorem execClamp_kept (s : State) : KeptBy s (execClamp s) :=
  keptBy_next.mpr ((Kept.refl s).tap (Kept.refl s).tapSelect)

@[simp] theorem execHighz_kept (s : State) : KeptBy s (execHighz s) :=
  keptBy_next.mpr ((Kept.refl s).tap (Kept.refl s).tapSelect)

@[simp] theorem execHkDebug_kept (op : HkOp) (s : State) : KeptBy s (execHkDebug op s) := by
  unfold execHkDebug
  refine keptBy_next.mpr ((Kept.refl s).tapDebug fun h => ?_)
  split
  · exact h.setSys
  · exact h.setSys
  · exact h

@[simp] theorem execFabricAccess_kept (ter : Fin 64) (offset : Nat) (write : Option Word) (s : State) :
    KeptBy s (execFabricAccess ter offset write s) := by
  unfold execFabricAccess
  refine keptBy_next.mpr ((Kept.refl s).tapDebug fun h => .ite (.ite h.emit h) ?_)
  split
  · exact h.send
  · exact h.maintRead

@[simp] theorem execCisternAccess_kept (addr : Nat) (write : Option (List Byte)) (len : Nat) (s : State) :
    KeptBy s (execCisternAccess addr write len s) :=
  keptBy_next.mpr ((Kept.refl s).tapDebug fun h => .ite h (.ite (.ite h.emit h) h.cisAccess))

@[simp] theorem execFuseRead_kept (s : State) : KeptBy s (execFuseRead s) :=
  keptBy_next.mpr ((Kept.refl s).tapDebug fun h => h.emit)

@[simp] theorem execTestMode_kept (s : State) : KeptBy s (execTestMode s) :=
  keptBy_next.mpr ((Kept.refl s).tap (.ite (Kept.refl s).tapSelect (Kept.refl s).tapSelect))

@[simp] theorem execBypass_kept (s : State) : KeptBy s (execBypass s) :=
  keptBy_next.mpr ((Kept.refl s).tap (Kept.refl s).tapSelect)

end Sys2Proof.Machine
end

section
/-! PROOFS. What every step keeps: the queue, the invariants of the block, the burnt fuses, and TMR_UPTIME. -/

namespace Sys2Proof.Machine

set_option Elab.async false

variable {s t : State}

/-- Every command but the tick, a cold start and the loss of VAUX. -/
theorem exec_kept {c : Instr} (s : State) (htick : c ≠ .uptimeTick) (hgood : c ≠ .vauxGood) (hloss : ∀ cut, c ≠ .vauxLoss cut) :
    KeptBy s (exec c s) := by
  cases c with
  | uptimeTick => exact absurd rfl htick
  | vauxGood => exact absurd rfl hgood
  | vauxLoss cut => exact absurd rfl (hloss cut)
  | _ => simp [exec]

theorem execUptimeTick_safe (h : execUptimeTick s = .next t) : Safe s t := by
  obtain rfl := Host.Outcome.next.inj h
  split <;> exact {}

theorem execVauxGood_safe (h : execVauxGood s = .next t) : Safe s t := by
  obtain rfl := Host.Outcome.next.inj h
  split <;> exact {}

theorem execVauxLoss_safe {cut : PowerCut} (h : execVauxLoss cut s = .next t) : Safe s t := by
  obtain ⟨u, hu, hk⟩ := ((Kept.refl s).applyCut (cut := cut)).resetMain.named
  unfold execVauxLoss at h
  rw [hu] at h
  obtain rfl := Host.Outcome.next.inj h
  have h0 : ((0 : BitVec 16) - 0).toNat ≤ 64 := by decide
  exact {
    queue := hk.queue, fuses := hk.fuses, cistern := hk.cistern, weights := hk.weights, kmbx := hk.kmbx, cids := hk.cids
    maint := hk.maint, trims := hk.trims, violations := fun _ => h0, reports := fun _ => h0, limits := fun _ => limits_initial
    shapes := fun hs => by
      have hu := hk.shapes hs
      have hc : s.afe.chans.length = 16 := hs.2.2.2.1
      rw [shapesFixed_iff] at hu ⊢
      simp_all [State.lengths, Snt.initial, Casc.initial, Hif.initial] }

/-- Every command keeps the invariants, leaves the queue and unburns no fuse. -/
theorem exec_safe {c : Instr} (h : exec c s = .next t) : Safe s t := by
  by_cases htick : c = .uptimeTick
  · subst htick
    exact execUptimeTick_safe h
  by_cases hgood : c = .vauxGood
  · subst hgood
    exact execVauxGood_safe h
  by_cases hloss : ∃ cut, c = .vauxLoss cut
  · obtain ⟨cut, rfl⟩ := hloss
    exact execVauxLoss_safe h
  · exact (exec_kept s htick hgood (fun cut hc => hloss ⟨cut, hc⟩) t h).toSafe

/-- A step is a command on the state with the queue's rest, or idling: what holds after every command, and depends on the queue
neither before nor after, holds after every step. -/
theorem step_cases (h : step s = .next t) : s = t ∨ ∃ c cs, exec c { s with pending := cs } = .next t := by
  unfold step at h
  split at h
  · exact .inl (Host.Outcome.next.inj h)
  · exact .inr ⟨_, _, h⟩

theorem step_of_safe {P : State → Prop} (hq : ∀ s cs, P s → P { s with pending := cs }) (hP : ∀ s t, Safe s t → P s → P t)
    (hs : P s) (h : step s = .next t) : P t := by
  rcases step_cases h with rfl | ⟨c, cs, hc⟩
  · exact hs
  · exact hP _ _ (exec_safe hc) (hq s cs hs)

/-- Settles O3: by the invariants under each operation, none of which touches the queue. -/
theorem queueUntouched : Obligations.QueueUntouched := fun _ _ _ h => (exec_safe h).queue

/-- Settles O5: the memories are written, cleared and copied by the operations that keep their canonical form. -/
theorem memoriesKept : Obligations.MemoriesKept := fun _ _ hs h =>
  step_of_safe (P := MemoriesCanonical) (fun _ _ => id)
    (fun _ _ hk ⟨hcis, hwei, hbox⟩ => ⟨hk.cistern hcis, hk.weights hwei, hk.kmbx hbox⟩) hs h

/-- Settles O6: each bound by its own field of `Safe`. -/
theorem boundsKept : Obligations.BoundsKept :=
  ⟨fun _ _ => step_of_safe (P := LogsBounded) (fun _ _ => id) fun _ _ hk ⟨hv, hr⟩ => ⟨hk.violations hv, hk.reports hr⟩,
   fun _ _ => step_of_safe (fun _ _ => id) fun _ _ hk => hk.cids,
   fun _ _ => step_of_safe (fun _ _ => id) fun _ _ hk => hk.maint,
   fun _ _ => step_of_safe (fun _ _ => id) fun _ _ hk => hk.shapes,
   fun _ _ => step_of_safe (fun _ _ => id) fun _ _ hk => hk.trims,
   fun _ _ => step_of_safe (fun _ _ => id) fun _ _ hk => hk.limits⟩

/-- Settles O7: a transition, cut or whole, and a retirement burn fuses and unburn none. -/
theorem fusesOnlyBurn : Obligations.FusesOnlyBurn := fun s t h => by
  rcases step_cases h with rfl | ⟨c, cs, hc⟩
  · exact FusesKept.refl s
  · exact (exec_safe hc).fuses

/-- Settles O9: every other command is `Kept`. -/
theorem uptimeOnlyTicks : Obligations.UptimeOnlyTicks := fun _ s t h htick hgood hloss =>
  (exec_kept s htick hgood hloss t h).time

end Sys2Proof.Machine
end

section
/-! PROOFS. A DOZE entry and a clock switch may be pending at once for all that `PowerSane` says, and the entry's end then leaves
the switch pending in DOZE. -/

namespace Sys2Proof.Machine

set_option Elab.async false

/-- The device in RUN with a DOZE entry and a switch to ECONOMY both pending, and the entry about to end. -/
def State.entryInSwitch : State :=
  { State.reset with
    pending := [.dozeEntryDone]
    pwr := { State.reset.pwr with dozeEntering := true, fclkTo := some .economy } }

theorem entryInSwitch_sane : PowerSane State.entryInSwitch :=
  ⟨fun _ h => ⟨.inl rfl, .inr (Option.some.inj h).symm⟩, fun _ => .inl rfl, nofun, .inl rfl, nofun⟩

/-- Refutes O8: from `entryInSwitch` the step reaches DOZE with the switch still pending, where no switch may be. -/
theorem not_powerKept : ¬ Obligations.PowerKept := by
  rintro ⟨hkeep, -⟩
  obtain ⟨hclk, -⟩ := hkeep State.entryInSwitch _ entryInSwitch_sane rfl
  rcases (hclk .economy rfl).1 with h | h <;> exact DevState.noConfusion h

end Sys2Proof.Machine
end

section
/-! PROOFS. Steps, reset, and which commands complete. -/

namespace Sys2Proof.Machine

set_option Elab.async false

/-- Settles O1: a step is defined by the front of the queue. -/
theorem stepRunsFront : Obligations.StepRunsFront := by
  refine ⟨fun _ _ _ => rfl, fun s hs => ?_⟩
  unfold step
  rw [hs]

/-- A command that judges its operands first completes where they are well-formed, and only there. -/
theorem runs_of_judged {c : Instr} {s : State} {b : Bool} {o : Host.Outcome State Fault Refusal} (hw : c.wf = b)
    (he : exec c s = if !b then .fault .illFormed else o) (ho : ∃ t, o = .next t) :
    (c.wf = true → Completes c s) ∧ (c.wf = false → exec c s = .fault .illFormed) := by
  rw [hw, Completes, he]
  exact ⟨fun hb => by simpa [hb] using ho, fun hb => by simp [hb]⟩

/-- Settles O2: three commands judge their operands before they act, and every other one answers a next state. -/
theorem wellFormedRuns : Obligations.WellFormedRuns := by
  intro c s
  cases c with
  | strapLatch samples => exact runs_of_judged rfl rfl ⟨_, rfl⟩
  | hopBoundary chans refs =>
    refine runs_of_judged rfl rfl ?_
    split <;> exact ⟨_, rfl⟩
  | trackingEvaluation read => exact runs_of_judged rfl rfl ⟨_, rfl⟩
  | _ => exact ⟨fun _ => ⟨_, rfl⟩, nofun⟩

/-- Settles O4: by evaluating the state at reset. -/
theorem resetState : Obligations.ResetState := by
  refine ⟨?_, ⟨rfl, rfl, rfl⟩, ⟨by decide, by decide⟩, fun c hc => absurd hc List.not_mem_nil, Nat.zero_le _,
    ⟨fun d h => Option.noConfusion rfl (heq_of_eq h), fun h => Bool.noConfusion h, fun d h => Option.noConfusion rfl (heq_of_eq h),
      .inl rfl, fun h => Bool.noConfusion h⟩,
    ⟨rfl, rfl, rfl, rfl, rfl, rfl, rfl, rfl, rfl, rfl, rfl, rfl, rfl, rfl, rfl⟩, fun n => ?_, limits_initial⟩
  · intro s
    have hrings : ∀ g, s.ring g = Ring.initial := fun _ => rfl
    repeat' constructor
    exact hrings
  · have hn : State.reset.basin n = Basin.initial n := rfl
    rw [hn]
    simp [Basin.initial]

end Sys2Proof.Machine
end

section
/-! PROOFS. The island's clock and crystal, and the straps over their eight samples. -/

namespace Sys2Proof.Machine

set_option Elab.async false

/-- Equal samples are stable and have the sample's value. -/
theorem strapBit_replicate (v : BitVec 5) (i : Nat) : strapBit (List.replicate 8 v) i = (true, v.getLsbD i) := by
  cases h : v.getLsbD i <;> simp [strapBit, List.replicate, h]

/-- Samples of both values are not stable, and count as 0. -/
theorem strapBit_mixed {v w : BitVec 5} {k i : Nat} (hk : k < 7) (hi : i < 5) (hx : w ^^^ v = 0b11111#5) :
    strapBit (List.replicate (k + 1) w ++ List.replicate (7 - k) v) i = (false, false) := by
  obtain ⟨j, hj⟩ : ∃ j, 7 - k = j + 1 := ⟨6 - k, by omega⟩
  have hb : (w.getLsbD i ^^ v.getLsbD i) = true := by
    rw [← BitVec.getLsbD_xor, hx]
    interval_cases i <;> rfl
  unfold strapBit
  rw [hj]
  cases hw : w.getLsbD i <;> cases hv : v.getLsbD i <;> simp_all [List.replicate_succ]

/-- The straps' fields of a stable sample, as Table 2-6 codes them. -/
theorem strapCodes (v : BitVec 5) :
    roleOf (b2n (v.getLsbD 0) + 2 * b2n (v.getLsbD 1)) = (match v.toNat % 4 with | 1 => .master | 2 => .member | _ => .single) ∧
    bootOf (b2n (v.getLsbD 2) + 2 * b2n (v.getLsbD 3)) = (match v.toNat / 4 % 4 with | 1 => .singleBit | 2 => .hold | _ => .quad) ∧
    (b2n (v.getLsbD 0) + 2 * b2n (v.getLsbD 1) == 3) = decide (v.toNat % 4 = 3) ∧
    (b2n (v.getLsbD 2) + 2 * b2n (v.getLsbD 3) == 3) = decide (v.toNat / 4 % 4 = 3) := by
  revert v
  decide

/-- Eight samples in OFF with VAUX good are latched. -/
theorem strapLatch_taken {s : State} (hl : s.pins.latched = false)
    (hv : s.pwr.railGood.getLsbD 0 = true) (hd : s.pwr.dev = .off) :
    ¬(s.pins.latched = true ∨ (!s.pwr.railGood.getLsbD 0) = true ∨ s.pwr.dev ≠ .off) := by
  rw [hl, hv, hd]
  decide

/-- Settles O11: each island event by its guard, and the straps by what their eight samples have in common. -/
theorem islandEvents : Obligations.IslandEvents := by
  refine ⟨fun s hv => ⟨?_, ?_, fun hx => ?_, fun trim hx => ?_⟩, fun s v hl hv hd => ⟨?_, fun w k hk hx => ?_⟩⟩
  · simp [exec, execUptimeTick, State.islandUp, hv]
  · simp [exec, execCrystalDetected, State.islandUp, hv]
  · simp [exec, execCrystalLost, State.islandUp, hv, hx]
  · simp [exec, execTrimWindowClose, State.islandUp, hv, hx]
  · obtain ⟨hrole, hboot, hrr, hbr⟩ := strapCodes v
    have hwf : strapWf (List.replicate 8 v) = true := rfl
    have hbit := strapBit_replicate v
    generalize List.replicate 8 v = samples at hwf hbit ⊢
    refine ⟨_, (if_neg (by simp [hwf])).trans (congrArg Host.Outcome.next (if_neg (strapLatch_taken hl hv hd))), ?_⟩
    simp only [hbit, Bool.and_self, if_true]
    exact ⟨trivial, trivial, hrole, hboot, Bool.true_and _, hrr, hbr, rfl, rfl, rfl, trivial⟩
  · have hlen : strapWf (List.replicate (k + 1) w ++ List.replicate (7 - k) v) = true := by
      simp [strapWf]
      omega
    refine ⟨_, (if_neg (by simp [hlen])).trans (congrArg Host.Outcome.next (if_neg (strapLatch_taken hl hv hd))), ?_⟩
    simp only [strapBit_mixed hk (show 0 < 5 by decide) hx, strapBit_mixed hk (show 1 < 5 by decide) hx,
      strapBit_mixed hk (show 2 < 5 by decide) hx, strapBit_mixed hk (show 3 < 5 by decide) hx,
      strapBit_mixed hk (show 4 < 5 by decide) hx]
    exact ⟨rfl, rfl, rfl, rfl, rfl, rfl⟩

end Sys2Proof.Machine
end

section
/-! PROOFS. The SMBus target, and the instructions of the test access port. -/

namespace Sys2Proof.Machine

set_option Elab.async false

/-- Settles O32: the target answers with VAUX good outside OFF; each access is then its own case. -/
theorem smbusTarget : Obligations.SmbusTarget := by
  intro s hv hd
  have hup : s.smbUp = true := by simp [State.smbUp, State.islandUp, hv, hd]
  refine ⟨fun code w hw hc => ?_, ?_, rfl, rfl, fun code hn he => ?_, fun ha => ?_, fun he => ⟨?_, ?_, ?_⟩⟩
  · have hne : ¬ code.toNat = 0x20 := fun h => hc (BitVec.eq_of_toNat_eq h)
    simp [exec, execSmbusBlockRead, hup, hw, hne, State.emit]
  · have hmod : BitVec.ofNat 32 (s.tmr.uptime / 2 ^ 32 % 2 ^ 32) = BitVec.ofNat 32 (s.tmr.uptime / 2 ^ 32) :=
      BitVec.eq_of_toNat_eq (by simp)
    rw [hmod]
    simp [exec, execSmbusBlockRead, hup, State.smbRead, State.emit, halfWord]
  · simp [exec, execSmbusBlockRead, hup, hn, State.smbError, State.emit, satInc, he]
  · simp [exec, execSmbusAlertResponse, hup, ha, State.emit]
  · rintro k (rfl | rfl) <;> simp [exec, execSmbusProtocolError, hup, State.smbError, State.emit, satInc, he]
  · rintro k (rfl | rfl) <;> simp [exec, execSmbusProtocolError, hup, State.smbError, satInc, he]
  · simp [exec, execSmbusSclTimeout, hup, State.smbError, satInc, he]

end Sys2Proof.Machine
end

section
/-! PROOFS. Staging a terrace changes PWR alone, so a packet sent on this device changes PWR and the rill alone. -/

namespace Sys2Proof.Machine

set_option Elab.async false

/-- Staging changes PWR alone. -/
theorem State.stageMore_eq_pwr (fuel : Nat) (s : State) : s.stageMore fuel = { s with pwr := (s.stageMore fuel).pwr } := by
  induction fuel generalizing s with
  | zero => rfl
  | succ n ih =>
    unfold State.stageMore
    split
    · rfl
    · split
      · rw [ih]
        rfl
      · rfl

/-- A terrace that is needed changes PWR alone. -/
theorem State.needTerrace_eq_pwr (s : State) (t : Nat) : s.needTerrace t = { s with pwr := (s.needTerrace t).pwr } := by
  unfold State.needTerrace
  split
  · rw [State.stageMore_eq_pwr]
    rfl
  · rfl

/-- Terraces that are needed change PWR alone. -/
theorem State.foldl_needTerrace_eq_pwr (ts : List Nat) (s : State) :
    ts.foldl State.needTerrace s = { s with pwr := (ts.foldl State.needTerrace s).pwr } := by
  induction ts generalizing s with
  | nil => rfl
  | cons t ts ih =>
    rw [List.foldl_cons, ih, s.needTerrace_eq_pwr t]

theorem State.needTerraces_eq_pwr (s : State) (ts : List Nat) :
    s.needTerraces ts = { s with pwr := (s.needTerraces ts).pwr } := by
  unfold State.needTerraces State.notePeak
  rw [State.foldl_needTerrace_eq_pwr]

/-- A device answers to its own number. -/
@[simp] theorem State.isMe_me (s : State) : s.isMe s.casc.device = true := by simp [State.isMe]

/-- A packet for this device is in transit once sent, the routers on its way staged. -/
theorem State.send_of_isMe {s : State} {p : Packet} (hp : s.isMe p.dstDev = true) :
    s.send p = { s with pwr := (s.send p).pwr, rill := s.rill ++ [p] } := by
  have hs : s.send p = s.enterRill p := if_pos hp
  rw [hs]
  unfold State.enterRill
  rw [s.needTerraces_eq_pwr]

/-- A maintenance packet is for this device. -/
theorem State.send_maint (s : State) (src typ t : Nat) (cis : Bool) (num off size : Nat) (data : List Byte) :
    s.send (s.maint src typ t cis num off size data) =
      { s with pwr := (s.send (s.maint src typ t cis num off size data)).pwr
               rill := s.rill ++ [s.maint src typ t cis num off size data] } :=
  State.send_of_isMe s.isMe_me

/-- A MAINT_RD that finds room is outstanding and in transit. -/
theorem State.maintRead_of_room {s : State} (hroom : s.maintOut < 16) (src typ t : Nat) (cis : Bool) (num off size : Nat)
    (data : List Byte) : ∃ pwr, s.maintRead (s.maint src typ t cis num off size data) =
      { s with pwr := pwr, maintOut := s.maintOut + 1, rill := s.rill ++ [s.maint src typ t cis num off size data] } :=
  ⟨_, (if_pos hroom).trans
    (State.send_maint { s with maintOut := s.maintOut + 1 } src typ t cis num off size data)⟩

/-- Padding comes after the data. -/
theorem take_padFlits {bs : List Byte} {n : Nat} (h : bs.length = n) : (padFlits bs).take n = bs := List.take_left' h

end Sys2Proof.Machine
end

section
/-! PROOFS. The instructions of the test access port: what each selects, and what the debug instructions do where they are open. -/

namespace Sys2Proof.Machine

set_option Elab.async false

/-- The low bits of a number, by place. -/
theorem bitList_getD {n v i : Nat} (hi : i < n) : (bitList n v).getD i false = v.testBit i := by
  have hb : bitAt v i = v.testBit i := by
    rw [bitAt, Nat.testBit_eq_decide_div_mod_eq]
    rfl
  simp [bitList, hi, hb]

/-- The TAP is out of reset, so a command acts. -/
theorem State.tap_of_up {s : State} (h : s.tapUp = true) (k : State → State) : s.tap k = k s := if_pos h

/-- A debug instruction where debug access is open. -/
theorem State.tapDebug_of_open {s : State} (hup : s.tapUp = true) (ho : s.debugOpen = true) (ir : BitVec 8) (k : State → State) :
    s.tapDebug ir k = k (s.tapSelect ir) := (if_pos hup).trans (if_pos ho)

/-- A debug instruction where debug access is closed selects BYPASS. -/
theorem State.tapDebug_of_closed {s : State} (hup : s.tapUp = true) (ho : s.debugOpen = false) (ir : BitVec 8)
    (k : State → State) : s.tapDebug ir k = s.tapSelect 0xFF :=
  (if_pos hup).trans (if_neg (by simp [ho]))

/-- Without every main rail good a TAP command does nothing. -/
theorem State.tap_of_down {s : State} (h : s.tapUp = false) (k : State → State) : s.tap k = s := if_neg (by simp [h])

/-- The identification code is revision, part, manufacturer and 1. -/
theorem State.idBits_fields (s : State) :
    s.idBits.length = 32 ∧ s.idBits.getD 0 false = true ∧
    (∀ i, i < 11 → s.idBits.getD (i + 1) false = s.sys.mfr.getLsbD i) ∧
    (∀ i, i < 16 → s.idBits.getD (i + 12) false = (0x7240#16).getLsbD i) ∧
    (∀ i, i < 4 → s.idBits.getD (i + 28) false = s.sys.rev.getLsbD i) := by
  have hval : s.sys.rev.toNat * 2 ^ 28 + 0x7240 * 2 ^ 12 + s.sys.mfr.toNat * 2 + 1 =
      (s.sys.rev ++ (0x7240#16) ++ s.sys.mfr ++ (1#1)).toNat := by
    have hm := s.sys.mfr.isLt
    have hr := s.sys.rev.isLt
    simp only [BitVec.toNat_append, BitVec.toNat_ofNat]
    rw [← Nat.shiftLeft_add_eq_or_of_lt (by omega), ← Nat.shiftLeft_add_eq_or_of_lt (by omega),
      ← Nat.shiftLeft_add_eq_or_of_lt (by omega)]
    simp only [Nat.shiftLeft_eq]
    omega
  have hbit : ∀ i, i < 32 → s.idBits.getD i false = (s.sys.rev ++ (0x7240#16) ++ s.sys.mfr ++ (1#1)).getLsbD i := by
    intro i hi
    unfold State.idBits
    rw [hval, bitList_getD hi]
    rfl
  refine ⟨by simp [State.idBits, bitList], ?_, fun i hi => ?_, fun i hi => ?_, fun i hi => ?_⟩
  all_goals rw [hbit _ (by omega)]
  · simp only [BitVec.getLsbD_append]
    rfl
  · simp only [BitVec.getLsbD_append, show ¬ i + 1 < 1 by omega, if_false, Nat.add_sub_cancel, if_pos hi]
  · simp only [BitVec.getLsbD_append, show ¬ i + 12 < 1 by omega, show ¬ i + 12 - 1 < 11 by omega,
      if_false, show i + 12 - 1 - 11 = i by omega, if_pos hi]
  · simp only [BitVec.getLsbD_append, show ¬ i + 28 < 1 by omega, show ¬ i + 28 - 1 < 11 by omega,
      show ¬ i + 28 - 1 - 11 < 16 by omega, if_false, show i + 28 - 1 - 11 - 16 = i by omega]

/-- Settles O33: what each instruction selects, by whether the TAP is up and debug access open. -/
theorem tapInstructions : Obligations.TapInstructions := by
  refine ⟨fun s pins hup => ?_, fun s hup c hc => ?_, fun s pins op ter off len w bs hup c hc => ?_,
    fun s c ter off v hup => ⟨fun ho => ?_, fun ho => ?_, fun hm hcl => ?_, fun hm => ?_⟩⟩
  · refine ⟨?_, ?_, ?_, ?_, ?_, ?_, s.idBits, ?_, s.idBits_fields⟩
    all_goals exact congrArg Host.Outcome.next (State.tap_of_up hup _)
  · fin_cases hc <;> exact congrArg Host.Outcome.next (State.tap_of_down hup _)
  · fin_cases hc <;> exact congrArg Host.Outcome.next (State.tap_of_down hup _)
  · have hopen : ∀ ir k, s.tapDebug ir k = k (s.tapSelect ir) := fun ir k => State.tapDebug_of_open hup ho ir k
    refine ⟨congrArg Host.Outcome.next (hopen _ _), congrArg Host.Outcome.next (hopen _ _),
      congrArg Host.Outcome.next (hopen _ _), ⟨_, congrArg Host.Outcome.next (hopen _ _), rfl, _, rfl⟩, fun hl hd => ?_⟩
    have hans : ∀ ir, ¬ (!((s.tapSelect ir).mainLive && (s.tapSelect ir).answers .fabric)) = true := by
      intro ir
      change ¬ (!(s.mainLive && s.answers .fabric)) = true
      rcases hd with hd | hd <;> simp [hl, State.answers, hd]
    refine ⟨⟨_, congrArg Host.Outcome.next ((hopen _ _).trans ((if_neg (hans _)).trans (State.send_maint ..))), rfl, _, rfl,
      rfl, rfl, rfl, rfl, take_padFlits (by simp [leBytes])⟩, fun addr ha hlt hroom => ?_⟩
    obtain ⟨pwr, hread⟩ := State.maintRead_of_room (s := s.tapSelect 0x13) hroom 1 0x21 (addr / 0x100000 % 64) true
      (addr % 0x100000 / 32) (addr % 32) (sizeCode 4) []
    refine ⟨_, congrArg Host.Outcome.next ((hopen _ _).trans ((if_neg ?_).trans ((if_neg (hans _)).trans hread))), rfl, rfl,
      _, rfl, rfl, ?_, rfl⟩
    · simp [bar4Sized, ha, hlt]
    · exact Nat.mod_eq_of_lt (by omega)
  · refine ⟨fun op => ?_, ?_, fun w => ?_, fun w n => ?_⟩
    all_goals exact congrArg Host.Outcome.next (State.tapDebug_of_closed hup ho _ _)
  · exact congrArg Host.Outcome.next ((State.tap_of_up hup _).trans (if_pos ⟨hm, by simp [hcl]⟩))
  · exact congrArg Host.Outcome.next ((State.tap_of_up hup _).trans (if_neg (fun h => hm h.1)))

end Sys2Proof.Machine
end

section
/-! PROOFS. What has been emitted stays emitted: the reporting operations. -/

namespace Sys2Proof.Machine

set_option Elab.async false

theorem emit_out {s : State} {x : Emit} (e : Emit) (h : x ∈ s.out) : x ∈ (s.emit e).out := List.mem_cons_of_mem e h

theorem post_out {s : State} {x : Emit} (e : Emit) (credit src : Option (Nat × Nat)) (h : x ∈ s.out) :
    x ∈ (s.post e credit src).out := by
  unfold State.post
  dsimp only
  split
  · exact List.mem_cons_of_mem e h
  · exact h
  · split
    · exact List.mem_cons_of_mem e h
    · exact h

theorem signal_out {s : State} {x : Emit} (f e : Nat) (h : x ∈ s.out) : x ∈ (s.signal f e).out := by
  unfold State.signal
  split
  · exact h
  · split
    · exact h
    · exact post_out _ _ _ h

theorem devVec_out {s : State} {x : Emit} (k : Nat) (h : x ∈ s.out) : x ∈ (s.devVec k).out := by
  unfold State.devVec
  split
  · exact h
  · dsimp only
    split
    · exact h
    · split
      · exact emit_out (s := { s with hif := _ }) .pme h
      · exact signal_out (s := { s with hif := _ }) 0 k h

theorem vlog_out {s : State} {x : Emit} (kind action rid func ring : Nat) (hdr : BitVec 128) (h : x ∈ s.out) :
    x ∈ (s.vlog kind action rid func ring hdr).out := by
  unfold State.vlog
  exact devVec_out (s := { s with hif := _ }) 2 h

/-- The host interface serves, so a violation is logged, signalled as its AER error, and what was emitted stays. -/
theorem State.misbehave_of_hostUp {s : State} (h : s.hostUp = true) (kind action func : Nat) (tlp : Tlp) :
    Logged s (s.misbehave kind action func tlp) kind action func 0xFFFF ∧
    (∀ x ∈ s.out, x ∈ (s.misbehave kind action func tlp).out) ∧ Emit.aer kind ∈ (s.misbehave kind action func tlp).out := by
  have he : s.misbehave kind action func tlp =
      (s.leaveL1.emit (.aer kind)).vlog kind action tlp.rid.toNat func 0xFFFF tlp.hdr := if_pos h
  rw [he]
  have hout : ∀ x ∈ (s.leaveL1.emit (.aer kind)).out,
      x ∈ ((s.leaveL1.emit (.aer kind)).vlog kind action tlp.rid.toNat func 0xFFFF tlp.hdr).out :=
    fun x hx => vlog_out kind action tlp.rid.toNat func 0xFFFF tlp.hdr hx
  exact ⟨State.vlog_logged (s.leaveL1.emit (.aer kind)) kind action tlp.rid.toNat func 0xFFFF tlp.hdr,
    fun x hx => hout x (List.mem_cons_of_mem _ hx), hout _ (List.mem_cons_self ..)⟩

/-- A violation that follows an answer is the same entry as without it. -/
theorem Logged.of_emit {s t : State} {e : Emit} {kind action func ring : Nat} (h : Logged (s.emit e) t kind action func ring) :
    Logged s t kind action func ring := h

/-- A request that no BAR takes, its header known, is logged as an Unsupported Request. -/
theorem State.noBar_of_hostUp {s : State} (h : s.hostUp = true) (f : Nat) (isRead : Bool) (tlp : Tlp) :
    Logged s (s.noBar f isRead (some tlp)) 0x04 1 f 0xFFFF ∧ Emit.aer 4 ∈ (s.noBar f isRead (some tlp)).out ∧
    (isRead = true → Emit.ur ∈ (s.noBar f isRead (some tlp)).out) := by
  cases isRead with
  | false =>
    obtain ⟨hlog, -, haer⟩ := State.misbehave_of_hostUp h 0x04 1 f tlp
    exact ⟨hlog, haer, nofun⟩
  | true =>
    obtain ⟨hlog, hout, haer⟩ := State.misbehave_of_hostUp (s := s.emit .ur) h 0x04 1 f tlp
    exact ⟨hlog.of_emit, haer, fun _ => hout _ (List.mem_cons_self ..)⟩

end Sys2Proof.Machine
end

section
/-! PROOFS. Accesses through BAR4, and the accesses of the master that a member serves. -/

namespace Sys2Proof.Machine

set_option Elab.async false

/-- The sizes of a maintenance access have their codes. -/
theorem sizeCode_spec {len : Nat} (h : len = 4 ∨ len = 8 ∨ len = 16 ∨ len = 32) : 4 * 2 ^ sizeCode len = len := by
  rcases h with rfl | rfl | rfl | rfl <;> rfl

/-- An access of a legal size, aligned, is one that the window accepts. -/
theorem bar4Sized_iff (addr len : Nat) :
    bar4Sized addr len = true ↔ (len = 4 ∨ len = 8 ∨ len = 16 ∨ len = 32) ∧ addr % len = 0 := by
  simp [bar4Sized, or_assoc]

/-- A DOZE trigger leaves the rill and the maintenance reads. -/
theorem State.touch_rill_eq (s : State) : s.touch.rill = s.rill := by rw [s.touch_eq_pwr]

theorem State.touch_maintOut_eq (s : State) : s.touch.maintOut = s.maintOut := by rw [s.touch_eq_pwr]

/-- Bytes of a BAR4 access. -/
def accessBytes (write : Option (List Byte)) (len : Nat) : Nat :=
  match write with
  | some bs => bs.length
  | none => len

/-- An access through an open BAR4 reaches its cistern as one packet. -/
theorem exec_bar4Access_of_open {s : State} {addr len n : Nat} {tlp : Tlp} {write : Option (List Byte)}
    (hup : s.hostUp = true) (ho : s.debugOpen = true) (hdec : s.decodes 0 = true) (haddr : addr < 0x4000000)
    (hn : accessBytes write len = n)
    (hsize : bar4Sized addr n = true) (hans : s.answers .fabric = true) :
    exec (.bar4Access addr write len tlp) s = .next (s.leaveL1.touch.cisAccess 0 addr write n) := by
  have hreach : s.reaches 0 = true := by simp [State.reaches, hup, hdec]
  have hgo : s.hostAccess 0 (some tlp) .fabric (fun u => u.cisAccess 0 addr write n) = s.leaveL1.touch.cisAccess 0 addr write n := by
    rw [State.hostAccess_of_reaches hreach, State.access_of_answers (b := .fabric) (by simpa using hans)]
    rfl
  have hguard : ¬ ((!s.decodes 0) = true ∨ (!s.debugOpen) = true ∨ 0x4000000 ≤ addr) := by
    simp [hdec, ho, haddr]
  have hsized : ¬ (!bar4Sized addr n) = true := by simp [hsize]
  have hanswers : ¬ (!s.answers .fabric) = true := by simp [hans]
  subst hn
  cases write <;>
  exact congrArg Host.Outcome.next ((if_neg (by simp [hup])).trans ((if_neg hguard).trans
    ((if_neg hsized).trans ((if_neg hanswers).trans hgo))))

/-- Settles O31: by whether BAR4 takes the request, and then by its size. -/
theorem bar4 : Obligations.Bar4 := by
  intro s addr len tlp hup
  have hclosed : (s.debugOpen = false ∨ s.decodes 0 = false ∨ 0x4000000 ≤ addr) ↔
      ((!s.decodes 0) = true ∨ (!s.debugOpen) = true ∨ 0x4000000 ≤ addr) := by
    simp [or_left_comm]
  refine ⟨fun hc => ?_, fun ho hdec haddr hbad => ?_, fun ho hdec haddr hlen hal hd => ?_⟩
  · obtain ⟨hlog, haer, hur⟩ := State.noBar_of_hostUp hup 0 true tlp
    exact ⟨_, congrArg Host.Outcome.next ((if_neg (by simp [hup])).trans (if_pos (hclosed.mp hc))), hur rfl, haer, hlog⟩
  · have hsize : ¬ bar4Sized addr len = true := by
      rw [bar4Sized_iff]
      omega
    have hguard : ¬ ((!s.decodes 0) = true ∨ (!s.debugOpen) = true ∨ 0x4000000 ≤ addr) := by
      simp [hdec, ho, haddr]
    obtain ⟨hlog, hout, -⟩ := State.misbehave_of_hostUp (s := s.emit .ca) hup 0x05 2 0 tlp
    exact ⟨_, congrArg Host.Outcome.next ((if_neg (by simp [hup])).trans ((if_neg hguard).trans (if_pos (by simp [hsize])))),
      hout _ (List.mem_cons_self ..), hlog.of_emit⟩
  · have hans : s.answers .fabric = true := by
      rcases hd with hd | hd <;> simp [State.answers, hd]
    have hsize : bar4Sized addr len = true := (bar4Sized_iff addr len).mpr ⟨hlen, hal⟩
    have hter : addr / 0x100000 % 64 = addr / 0x100000 := Nat.mod_eq_of_lt (by omega)
    refine ⟨fun hroom => ?_, fun bs hbs => ?_⟩
    · have hroom' : s.leaveL1.touch.maintOut < 16 := by rwa [State.touch_maintOut_eq]
      obtain ⟨pwr, hread⟩ := State.maintRead_of_room hroom' 0 0x21 (addr / 0x100000 % 64) true (addr % 0x100000 / 32)
        (addr % 32) (sizeCode len) []
      refine ⟨_, (exec_bar4Access_of_open (write := none) hup ho hdec haddr rfl hsize hans).trans (congrArg Host.Outcome.next hread), ?_, _,
        congrArg (· ++ _) s.leaveL1.touch_rill_eq, rfl, hter, rfl, rfl, rfl, sizeCode_spec hlen⟩
      exact congrArg (· + 1) s.leaveL1.touch_maintOut_eq
    · refine ⟨_, (exec_bar4Access_of_open (write := some bs) hup ho hdec haddr hbs hsize hans).trans
          (congrArg Host.Outcome.next (State.send_maint ..)), s.leaveL1.touch_maintOut_eq, _,
        congrArg (· ++ _) s.leaveL1.touch_rill_eq, rfl, hter, rfl, rfl, rfl, sizeCode_spec hlen, take_padFlits hbs⟩

/-- A member that serves the master while its entry to DOZE is pending. -/
def dozingMember : State :=
  { State.reset with
    pins := { State.reset.pins with role := .member }
    pwr := { State.reset.pwr with dozeEntering := true }
    casc := { State.reset.casc with numbered := true, portUp := { State.reset.casc.portUp with state := .up } } }

/-- Refutes O29: an access of the master to a block outside PWR and TMR is a DOZE trigger, so the read of SYS_ID by a member
that is entering DOZE abandons the entry, while the statement leaves PWR as it was. -/
theorem not_remoteRegisters : ¬ Obligations.RemoteRegisters := by
  rintro ⟨-, hserve⟩
  have hread := (hserve dozingMember 0 rfl rfl rfl rfl rfl (.inl rfl)).2.2 0 rfl (by decide) (by decide) (by decide)
  have hentry := congrArg (fun o => match o with | .next t => t.pwr.dozeEntering | _ => true) hread
  exact Bool.noConfusion (show false = true from hentry)

end Sys2Proof.Machine
end

section
/-! PROOFS. What an observer reads of two states that differ in key material alone (R517). -/

namespace Sys2Proof.Machine

set_option Elab.async false

/-- The state with other key slots and sessions. -/
def State.rekeyed (s : State) (w sg : List (Option KeySlot)) (sess : List Session) : State :=
  { s with lcs := { s.lcs with wrap := w, sign := sg }, wpe := { s.wpe with sessions := sess } }

section
variable {w v : List (Option KeySlot)} (h : w.map (Option.map KeySlot.id) = v.map (Option.map KeySlot.id)) (i : Nat)
include h

/-- Slots with the same identifiers are occupied alike. -/
theorem keySlot_isSome_eq : (w.getD i none).isSome = (v.getD i none).isSome := by
  have hi := congrArg (fun l => (l[i]?.getD none).isSome) h
  simp only [List.getElem?_map] at hi
  rw [List.getD_eq_getElem?_getD, List.getD_eq_getElem?_getD]
  cases hw : w[i]? <;> cases hv : v[i]? <;> simpa [hw, hv] using hi

/-- Slots with the same identifiers read the same. -/
theorem keySlot_id_eq : (match w[i]? with | some (some x) => x.id | _ => 0) = (match v[i]? with | some (some x) => x.id | _ => 0) := by
  have hid : ∀ k : List (Option KeySlot), (match k[i]? with | some (some x) => x.id | _ => 0) =
      ((k.map (Option.map KeySlot.id))[i]?.getD none).getD 0 := by
    intro k
    rw [List.getElem?_map]
    rcases k[i]? with _ | _ | x <;> rfl
  rw [hid, hid, h]

end

/-- Sessions that differ in their keys alone have the same numbers. -/
theorem sessions_any_eq {x y : List Session} (h : x.map (fun z => { z with key := [] }) = y.map (fun z => { z with key := [] }))
    (n : Nat) : x.any (fun z => z.num == n) = y.any (fun z => z.num == n) := by
  have hany : ∀ l : List Session, l.any (fun z => z.num == n) =
      (l.map (fun z => { z with key := [] })).any (fun z => z.num == n) := fun l => by
    rw [List.any_map]
    rfl
  rw [hany, h, ← hany]

/-- The LCS block reads which slots are occupied and their identifiers, and no key. -/
theorem State.readLcs_rekeyed {s : State} {w sg : List (Option KeySlot)} (sess : List Session)
    (hw : w.map (Option.map KeySlot.id) = s.lcs.wrap.map (Option.map KeySlot.id))
    (hs : sg.map (Option.map KeySlot.id) = s.lcs.sign.map (Option.map KeySlot.id)) (off : Nat) :
    (s.rekeyed w sg sess).readLcs off = s.readLcs off := by
  unfold State.readLcs
  simp only [State.rekeyed, keySlot_isSome_eq hw, keySlot_isSome_eq hs]
  split
  case h_7 =>
    exact if_ctx_congr Iff.rfl (fun _ => keySlot_id_eq hw _)
      (fun _ => if_ctx_congr Iff.rfl (fun _ => keySlot_id_eq hs _) (fun _ => rfl))
  all_goals rfl

/-- The WPE block reads which sessions are open, and no key. -/
theorem State.readWpe_rekeyed {s : State} (w sg : List (Option KeySlot)) {sess : List Session}
    (hx : sess.map (fun x => { x with key := [] }) = s.wpe.sessions.map (fun x => { x with key := [] })) (off : Nat) :
    (s.rekeyed w sg sess).readWpe off = s.readWpe off := by
  unfold State.readWpe
  simp only [State.rekeyed, sessions_any_eq hx]
  rfl

/-- Settles O30: LCS and WPE as the two lemmas say; nothing else that is read has a key slot or a session in it. -/
theorem keysNotRead : Obligations.KeysNotRead := by
  intro s w sg sess hw hs hx
  refine ⟨fun off => ?_, fun _ _ => rfl, fun _ _ => rfl, fun _ => rfl, fun _ => rfl, rfl, rfl⟩
  change (s.rekeyed w sg sess).readReg off = s.readReg off
  unfold State.readReg
  dsimp only
  rw [State.readLcs_rekeyed sess hw hs, State.readWpe_rekeyed w sg hx]
  rfl

end Sys2Proof.Machine
end

section
/-! PROOFS. Frames: two states that agree on what an observation keeps of them. -/

namespace Sys2Proof.Machine

set_option Elab.async false

/-- `t` is as `s` is, as far as the observation goes. -/
def Agrees {α : Type} (view : State → α) (s t : State) : Prop := view t = view s

section
variable {α β : Type} {view : State → α} {s t u : State}

theorem Agrees.refl (s : State) : Agrees view s s := rfl

theorem Agrees.trans (h : Agrees view s t) (k : Agrees view t u) : Agrees view s u := Eq.trans k h

/-- A step that by computation leaves what is observed. -/
theorem Agrees.then (h : Agrees view s t) (k : Agrees view t u := by exact rfl) : Agrees view s u := h.trans k

theorem Agrees.ite {c : Prop} [Decidable c] (h : Agrees view s t) (k : Agrees view s u) : Agrees view s (if c then t else u) := by
  split
  · exact h
  · exact k

theorem Agrees.foldl {l : List β} {f : State → β → State} (h : Agrees view s t)
    (hf : ∀ u, ∀ a ∈ l, Agrees view u (f u a)) : Agrees view s (l.foldl f t) := by
  induction l generalizing t with
  | nil => exact h
  | cons a l ih =>
    exact ih (h.trans (hf t a (List.mem_cons_self ..))) (fun u b hb => hf u b (List.mem_cons_of_mem _ hb))

/-- What the observation shows is the same. -/
theorem Agrees.eq (h : Agrees view s t) (f : α → β) : f (view t) = f (view s) := congrArg f h

/-- What is observed of an observation that agrees. -/
theorem Agrees.of {g : State → β} (h : Agrees view s t) (hg : ∃ f : α → β, ∀ u, g u = f (view u)) : Agrees g s t := by
  obtain ⟨f, hf⟩ := hg
  exact (hf t).trans ((congrArg f h).trans (hf s).symm)

/-- A report leaves what is observed without it. -/
theorem ReportOnly.agrees (h : ReportOnly s t) (hv : ∀ u, view u = view u.sansReport := by intro u; rfl) : Agrees view s t :=
  (hv t).trans ((congrArg view h).trans (hv s).symm)

/-- The rings' bookkeeping leaves what is observed without it. -/
theorem LedgerOnly.agrees (h : LedgerOnly s t) (hv : ∀ u, view u = view u.sansLedger := by intro u; rfl) : Agrees view s t :=
  (hv t).trans ((congrArg view h.1).trans (hv s).symm)

end

end Sys2Proof.Machine
end

section
/-! PROOFS. What a stop of the main domain does to the work in progress, and what it clears. -/

namespace Sys2Proof.Machine

set_option Elab.async false

variable {s t : State}

/-- Everything but what a stop does to cell operations, the self-test and a life-cycle transition in progress. -/
def State.sansCut (s : State) : State :=
  { s with weights := [], basins := [], ters := [], cmds := [], free := 0, wpe := Wpe.initial, bist := Bist.initial
           lcs := Lcs.initial }

variable (s : State) (cut : PowerCut)

theorem programRows_agrees (basin : Nat) (rows : List (Nat × List Byte)) (stuck : Option (Nat × Nat)) :
    Agrees State.sansCut s (s.programRows basin rows stuck) := rfl

theorem updBasin_agrees (n : Nat) (f : Basin → Basin) : Agrees State.sansCut s (s.updBasin n f) := rfl

theorem journalClose_agrees : Agrees State.sansCut s s.journalClose := rfl

theorem leaveRows_agrees (basin : Nat) (rows : List (Nat × List Byte)) : Agrees State.sansCut s (s.leaveRows basin rows) := rfl

theorem setWpe_agrees (w : Wpe) : Agrees State.sansCut s { s with wpe := w } := rfl

theorem updProg_agrees (c : Nat) (f : Prog → Prog) : Agrees State.sansCut s (s.updProg c f) := rfl

theorem closeBatch_agrees (c : Nat) (p : Prog) (stuck : Option (Nat × Nat)) :
    Agrees State.sansCut s (s.closeBatch c p stuck) := by
  have hrows := (programRows_agrees s p.basin (p.batchRows p.batch) stuck).trans (updBasin_agrees _ p.basin (fun b =>
    b.programRefs ((List.range p.batch).map (fun i => p.row + i)) (p.full && p.left == p.batch)))
  exact ((hrows.ite (hrows.trans (journalClose_agrees _))).trans (setWpe_agrees _ _)).trans (updProg_agrees _ _ _)

theorem cutBatch_agrees (c : Cmd) (p : Prog) : Agrees State.sansCut s (s.cutBatch c p cut) := by
  unfold State.cutBatch
  split
  · exact .refl s
  · split
    · exact closeBatch_agrees s _ _ _
    · split
      · exact closeBatch_agrees s _ _ _
      · split
        · exact rfl
        · exact (((programRows_agrees s _ _ _).trans (updBasin_agrees _ _ _)).trans (leaveRows_agrees _ _ _)).trans
            (setWpe_agrees _ _)

theorem cutErase_agrees (basin : Nat) : Agrees State.sansCut s (s.cutErase basin cut) := by
  unfold State.cutErase
  split <;> exact rfl

theorem mapRestore_agrees : Agrees State.sansCut s s.mapRestore := by
  unfold State.mapRestore
  split <;> exact rfl

theorem applyCut_agrees : Agrees State.sansCut s (s.applyCut cut) := by
  unfold State.applyCut
  have hcells : Agrees State.sansCut s (s.cmds.foldl (fun t c => match c.prog? with
      | some p => t.cutBatch c p cut
      | none => match c.erasing? with
        | some n => t.cutErase n cut
        | none => t) s.mapRestore) := by
    refine (mapRestore_agrees s).foldl fun u c _ => ?_
    split
    · exact cutBatch_agrees u cut c _
    · split
      · exact cutErase_agrees u cut _
      · exact .refl u
  dsimp only
  split
  · split
    · exact hcells.then
    · exact hcells.then
  · split
    · exact hcells.then
    · exact hcells

end Sys2Proof.Machine
end

section
/-! PROOFS. A stop of the main domain: what it leaves, the work it clears, and the weights it finds untouched. -/

namespace Sys2Proof.Machine

set_option Elab.async false

variable {s : State} {cut : PowerCut}

theorem applyCut_pwr_eq (s : State) (cut : PowerCut) : (s.applyCut cut).pwr = s.pwr := (applyCut_agrees s cut).eq State.pwr

theorem applyCut_pins_eq (s : State) (cut : PowerCut) : (s.applyCut cut).pins = s.pins := (applyCut_agrees s cut).eq State.pins

theorem applyCut_tmr_eq (s : State) (cut : PowerCut) : (s.applyCut cut).tmr = s.tmr := (applyCut_agrees s cut).eq State.tmr

theorem applyCut_hif_eq (s : State) (cut : PowerCut) : (s.applyCut cut).hif = s.hif := (applyCut_agrees s cut).eq State.hif

/-- A command list with no programming and no erase has no cell operation for the stop to cut. -/
theorem applyCut_weights_eq (h : ∀ x ∈ s.cmds, x.prog? = none ∧ x.erasing? = none) : (s.applyCut cut).weights = s.weights := by
  have hcells : Agrees State.weights s (s.cmds.foldl (fun t c => match c.prog? with
      | some p => t.cutBatch c p cut
      | none => match c.erasing? with
        | some n => t.cutErase n cut
        | none => t) s.mapRestore) := by
    have hmap : Agrees State.weights s s.mapRestore := by
      unfold State.mapRestore
      split <;> exact rfl
    refine hmap.foldl fun u c hc => ?_
    obtain ⟨hprog, herase⟩ := h c hc
    rw [hprog, herase]
    exact .refl u
  unfold State.applyCut
  dsimp only
  split
  · split
    · exact hcells.then
    · exact hcells.then
  · split
    · exact hcells.then
    · exact hcells

theorem dlog_weights_eq (s : State) (source event : Nat) (arg0 : Word) (arg1 : DWord) :
    (s.dlog source event arg0 arg1).weights = s.weights := by
  unfold State.dlog
  exact (devVec_report _ _).weights_eq

/-- Every terrace is off after a reset. -/
theorem terPower_of_off {p : Power} (h : p.terraces = List.replicate 64 .off) (hs : s.pwr = p) (t : Nat) : s.terPower t = .off := by
  have hget : ∀ (n : Nat), (List.replicate n TerPower.off).getD t .off = .off := fun n => by
    rw [List.getD_eq_getElem?_getD, List.getElem?_replicate]
    split <;> rfl
  rw [State.terPower, hs, h]
  exact hget 64

theorem resetEngines_workGone (s : State) : WorkGone s.resetEngines :=
  ⟨rfl, rfl, rfl, rfl, rfl, rfl, rfl, rfl, rfl, rfl, rfl, rfl, rfl, fun _ => terPower_of_off rfl rfl _, rfl⟩

theorem resetMain_workGone (s : State) : WorkGone s.resetMain :=
  ⟨rfl, rfl, rfl, rfl, rfl, rfl, rfl, rfl, rfl, rfl, rfl, rfl, rfl, fun _ => terPower_of_off rfl rfl _, rfl⟩

/-- What SENTRY is entered with. -/
theorem enterSentry_spec (s : State) (cut : PowerCut) :
    (s.enterSentry cut).pwr.dev = .sentry ∧ (s.enterSentry cut).pwr.start = none ∧
    (s.enterSentry cut).pwr.prev = (if s.pwr.dev = .sentry then s.pwr.prev else s.pwr.dev) ∧
    (s.enterSentry cut).pwr.fault = s.pwr.fault ∧ WorkGone (s.enterSentry cut) ∧ (s.enterSentry cut).pins = s.pins ∧
    (s.enterSentry cut).tmr = s.tmr :=
  ⟨rfl, rfl, rfl, (applyCut_agrees s cut).eq (fun u => u.pwr.fault), ⟨rfl, rfl, rfl, rfl, rfl, rfl, rfl, rfl, rfl, rfl, rfl, rfl, rfl,
    fun _ => terPower_of_off rfl rfl _, rfl⟩, applyCut_pins_eq s cut, applyCut_tmr_eq s cut⟩

/-- DRYDONE is raised in DRY alone. -/
theorem dev_of_dryFinished (h : s.dryFinished = true) : s.pwr.dev = .dry := by
  simp [State.dryFinished] at h
  exact h.1

/-- Entry to FAULT cuts what is in progress, and no weight changes where there is no cell operation. -/
theorem enterFault_weights_eq (h : ∀ x ∈ s.cmds, x.prog? = none ∧ x.erasing? = none) (bit : Nat) (rail : Option Nat) (code : DWord) :
    (s.enterFault bit rail code cut).weights = s.weights := by
  unfold State.enterFault
  dsimp only
  split
  · rfl
  · have hw : (s.applyCut cut).resetEngines.weights = s.weights := applyCut_weights_eq h
    split
    · exact ((devVec_report _ _).weights_eq.trans (dlog_weights_eq _ _ _ _ _)).trans hw
    · exact hw

/-- A ball whose supply is absent. -/
theorem ball_of_unpowered {b : Ball} (h : s.ballPowered b = false) : s.ball b = .unpowered := if_pos (by simp [h])

/-- Without VAUX no ball has its supply. -/
theorem ball_of_noVaux (h : s.pwr.railGood = 0) (b : Ball) : s.ball b = .unpowered :=
  ball_of_unpowered (by cases b <;> simp [State.ballPowered, State.islandUp, h])

/-- With VAUX alone the test access port is in reset, so a ball has what its own function puts on it. -/
theorem ball_of_vauxAlone (h : s.pwr.railGood = 1) {b : Ball} (hb : s.ballPowered b = true) : s.ball b = s.ballOwn b := by
  have htap : s.tapUp = false := by simp [State.tapUp, State.islandUp, Power.mainGood, h]
  simp [State.ball, hb, htap]

/-- What the loss of VAUX leaves. -/
def State.vauxLost (s : State) (cut : PowerCut) : State :=
  match execVauxLoss cut s with
  | .next t => t
  | _ => s

/-- The balls as VAUX returns. -/
theorem ball_of_vauxReturned (s : State) (cut : PowerCut) (b : Ball) : (s.vauxLost cut).coldStarted.ball b =
    match b with
    | .micBias _ => .off
    | .alertN => .released
    | .wakeN => .released
    | .drydone => .low
    | .smbSda => .released
    | _ => .unpowered := by
  have hrail : (s.vauxLost cut).coldStarted.pwr.railGood = 1 := by
    change setBit (0#6) 0 true = 1
    decide
  have hup : (s.vauxLost cut).coldStarted.islandUp = true := by simp [State.islandUp, hrail]
  cases b
  case micBias k =>
    refine (ball_of_vauxAlone hrail ?_).trans ?_
    · exact hup
    · fin_cases k <;> rfl
  case alertN | wakeN | drydone | smbSda =>
    refine (ball_of_vauxAlone hrail ?_).trans ?_
    · exact hup
    · rfl
  all_goals exact ball_of_unpowered (by simp [State.ballPowered, hrail])

/-- Settles O12: the island's stop by what the resets clear, the rails by their guards, and the weights by the cell operations
that a stop cuts. -/
theorem suppliesLost : Obligations.SuppliesLost := by
  refine ⟨fun cut s => ?_, fun s rail hrail => ⟨fun hv hlow => ?_, fun hv hsome hall => ?_, fun cut hgood => ⟨fun hd hoff hdry => ?_,
    fun hidle => ?_, fun hdry => ?_⟩, fun hgood hdry => ?_⟩, fun c s t hidle ht hc => ?_⟩
  · have hball := ball_of_vauxReturned s cut
    have hnone : (s.vauxLost cut).pwr.railGood.getLsbD 0 = false := by
      change (0#6).getLsbD 0 = false
      decide
    exact ⟨s.vauxLost cut, rfl, rfl, rfl, rfl, rfl, rfl, ⟨rfl, rfl, rfl, rfl, rfl, rfl, rfl, rfl, rfl, rfl, rfl, rfl, rfl,
        fun _ => terPower_of_off rfl rfl _, rfl⟩, rfl, rfl, (exec_safe (c := .vauxLoss cut) rfl).fuses, ball_of_noVaux rfl,
      _, exec_vauxGood_of_off rfl hnone, hball _, hball _, hball _, hball _, fun k => hball _, hball _⟩
  · have hguard : ¬ (rail.val = 0 ∨ s.pwr.railGood.getLsbD rail.val = true ∨ (!s.islandUp) = true) := by
      rw [hlow]
      simp [hrail, State.islandUp, hv]
    by_cases h3 : rail.val = 3
    · exact ⟨_, congrArg Host.Outcome.next ((if_neg hguard).trans (if_pos h3)), rfl, rfl, (if_pos h3).symm⟩
    · exact ⟨_, congrArg Host.Outcome.next ((if_neg hguard).trans (if_neg h3)), rfl, rfl, (if_neg h3).symm⟩
  · exact congrArg Host.Outcome.next (if_neg (by simp [State.islandUp, hv, Power.mainGood, hsome, hall]))
  · have hguard : ¬ (rail.val = 0 ∨ (!s.pwr.railGood.getLsbD rail.val) = true) := by simp [hrail, hgood]
    have hup : ¬ (s.pwr.dev = .off ∨ (s.pwr.dev = .sentry ∧ s.pwr.start.isNone = true)) := by
      rintro (h | ⟨h, hn⟩)
      · exact hoff h
      · rcases hd with hd | hd
        · exact hd h
        · simp [Option.isNone_iff_eq_none.mp hn] at hd
    obtain ⟨hdev, hstart, hprev, hfault, hgone, hpins, -⟩ := enterSentry_spec (s.railGone rail.val) cut
    have he : exec (.mainRailLoss rail cut) s = .next _ :=
      congrArg Host.Outcome.next ((if_neg hguard).trans ((if_neg hup).trans (if_neg (by simp [hdry]))))
    exact ⟨_, he, hdev, hprev, hstart, congrArg (setBit · 0 true) hfault, rfl, hgone, hpins, (exec_safe he).fuses⟩
  · have hguard : ¬ (rail.val = 0 ∨ (!s.pwr.railGood.getLsbD rail.val) = true) := by simp [hrail, hgood]
    refine congrArg Host.Outcome.next ((if_neg hguard).trans (if_pos ?_))
    rcases hidle with h | ⟨h, hn⟩
    · exact .inl h
    · exact .inr ⟨h, by simp [hn]⟩
  · have hguard : ¬ (rail.val = 0 ∨ (!s.pwr.railGood.getLsbD rail.val) = true) := by simp [hrail, hgood]
    have hdev := dev_of_dryFinished hdry
    obtain ⟨hsentry, -, -, hfault, -⟩ := enterSentry_spec (s.railGone rail.val) cut
    exact ⟨_, congrArg Host.Outcome.next ((if_neg hguard).trans ((if_neg (by simp [hdev])).trans (if_pos hdry))), hsentry, hfault⟩
  · have hguard : ¬ (rail.val = 0 ∨ (!s.pwr.railGood.getLsbD rail.val) = true ∨ (!s.dryFinished) = true) := by
      simp [hrail, hgood, hdry]
    have hdev := dev_of_dryFinished hdry
    obtain ⟨hsentry, -, hprev, hfault, hgone, hpins, htmr⟩ := enterSentry_spec (s.railGone rail.val)
      { unfinished := [], entry := false, fuse := none, torn := false }
    refine ⟨_, congrArg Host.Outcome.next (if_neg hguard), hsentry, hprev.trans ?_, hfault, hgone, hpins, htmr⟩
    exact (if_neg (by simp [State.railGone, hdev])).trans hdev
  · have hcut : ∀ cut, Agrees State.weights s (s.applyCut cut) := fun cut => applyCut_weights_eq hidle
    have hfault : ∀ bit rail code cut, Agrees State.weights s (s.enterFault bit rail code cut) :=
      fun bit rail code cut => enterFault_weights_eq hidle bit rail code
    have hhot : ∀ p bit rail code cut, Agrees State.weights s (({ s with pwr := p } : State).enterFault bit rail code cut) :=
      fun p bit rail code cut => enterFault_weights_eq (s := { s with pwr := p }) hidle bit rail code
    have hlow : ∀ q cut, Agrees State.weights s (({ s with pins := q } : State).applyCut cut) :=
      fun q cut => applyCut_weights_eq (s := { s with pins := q }) hidle
    have hsame := Agrees.refl (view := State.weights) s
    rcases hc with ⟨cut, rfl⟩ | ⟨rail, cut, rfl⟩ | ⟨rail, rfl⟩ | ⟨rail, edge, rfl⟩ | ⟨tj, cut, rfl⟩ | ⟨cut, rfl⟩ |
      ⟨core, cut, rfl⟩ | ⟨code, cut, rfl⟩ | ⟨cut, rfl⟩
    all_goals obtain rfl := Host.Outcome.next.inj ht
    · exact (hcut cut).then
    · have hsentry : Agrees State.weights s ((s.railGone rail.val).enterSentry cut) := applyCut_weights_eq (s := s.railGone rail.val) hidle
      exact hsame.ite (hsame.then.ite (hsentry.ite hsentry.then))
    · exact hsame.ite (applyCut_weights_eq (s := s.railGone rail.val) hidle)
    · refine hsame.ite ?_
      cases edge with
      | back => exact rfl
      | trip cut => exact hsame.ite (hsame.then.ite (hhot _ 1 _ 0 cut))
    · exact hsame.ite (hhot _ 3 none 0 cut)
    · exact hfault 4 none 0 cut
    · exact hsame.ite (hfault 5 none 0 cut)
    · exact hfault 6 none code cut
    · exact hsame.ite (hsame.then.ite ((hlow _ { cut with torn := false }).then.ite (hlow _ { cut with torn := false }).then))

end Sys2Proof.Machine
end

section
/-! PROOFS. Entry to FAULT, and the thermal warning. -/

namespace Sys2Proof.Machine

set_option Elab.async false

variable {s t : State} {cut : PowerCut}

/-- A message sent or kept pending leaves the status of the device interrupts. -/
theorem signal_devStat_eq (s : State) (f e : Nat) : (s.signal f e).hif.devStat = s.hif.devStat := by
  have hpost : ∀ e c src, (s.post e c src).hif.devStat = s.hif.devStat := fun e c src => by
    unfold State.post
    dsimp only
    split
    · rfl
    · rfl
    · split <;> rfl
  unfold State.signal
  split
  · rfl
  · split
    · rfl
    · exact hpost _ _ _

/-- A device interrupt that is raised stands in the status register. -/
theorem devVec_devStat (s : State) {k : Nat} (hk : k < 16) : (s.devVec k).hif.devStat.getLsbD k = true := by
  have hset : (setBit s.hif.devStat k true).getLsbD k = true := getLsbD_setBit_self _ true hk
  unfold State.devVec
  split
  · assumption
  · dsimp only
    split
    · exact hset
    · split
      · exact hset
      · rw [signal_devStat_eq]
        exact hset

/-- A log entry changes the log and what it reports. -/
theorem dlog_report (s : State) (source event : Nat) (arg0 : Word) (arg1 : DWord) :
    ∃ b, ReportOnly { s with bist := b } (s.dlog source event arg0 arg1) := ⟨_, devVec_report _ 3⟩

/-- Everything but what is reported, the two logs and the sentinels. -/
def State.workView (s : State) : State := { s.sansReport with snt := Snt.initial, bist := Bist.initial }

/-- Whether work is gone shows in what that leaves. -/
theorem WorkGone.of_view (h : WorkGone s) (hv : Agrees State.workView s t) : WorkGone t := by
  have hs : WorkGone s.workView := h
  rw [← show t.workView = s.workView from hv] at hs
  exact hs

/-- Work that is gone stays gone through what is logged and reported. -/
theorem WorkGone.report {b : Bist} (h : WorkGone s) (hr : ReportOnly { s with bist := b } t) : WorkGone t :=
  h.of_view (Agrees.trans (t := { s with bist := b }) rfl hr.agrees)

/-- PWR as entry to FAULT leaves it. -/
def Power.faulted (p q : Power) (bit : Nat) (rail : Option Nat) : Prop :=
  q.dev = .fault ∧ q.prev = p.dev ∧ q.fault = setBit p.fault bit true ∧ q.tj = p.tj ∧ q.railOv = p.railOv ∧
  q.faultRail = match rail with
    | some r => setBit 0 r true
    | none => p.faultRail

/-- The device in FAULT from `s`, as far as reports leave it. -/
def FaultFrom (s t : State) (bit : Nat) (rail : Option Nat) : Prop :=
  s.pwr.faulted t.pwr bit rail ∧ t.pins = { s.pins with alertLow := true } ∧ WorkGone t

theorem FaultFrom.report {u : State} {bit : Nat} {rail : Option Nat} {b : Bist} (h : FaultFrom s t bit rail)
    (hr : ReportOnly { t with bist := b } u) : FaultFrom s u bit rail := by
  obtain ⟨hpwr, hpins, hgone⟩ := h
  refine ⟨?_, hr.pins_eq.trans hpins, hgone.report hr⟩
  rw [hr.pwr_eq]
  exact hpwr

/-- The engines in reset `u`, in FAULT. -/
def State.faulted (u : State) (bit : Nat) (rail : Option Nat) : State :=
  { u with
    pwr := { u.pwr with dev := .fault, prev := u.pwr.dev, start := none, fault := setBit u.pwr.fault bit true, endedInFault := true
                        faultRail := match rail with
                          | some r => setBit 0 r true
                          | none => u.pwr.faultRail }
    pins := { u.pins with alertLow := true } }

theorem enterFault_eq (h : s.mayFault = true) (bit : Nat) (rail : Option Nat) (code : DWord) (cut : PowerCut) :
    s.enterFault bit rail code cut =
      (let t := (s.applyCut cut).resetEngines.faulted bit rail
       if t.pins.perstHigh then (t.dlog 1 1 (BitVec.ofNat 32 t.pwr.faultWord) code).devVec 0 else t) := by
  unfold State.enterFault
  rw [if_neg (by simp [h])]
  cases rail <;> rfl

/-- Where a trigger takes the device to FAULT, it stops all work, notes its cause and pulls ALERT_N. -/
theorem enterFault_spec (h : s.mayFault = true) (bit : Nat) (rail : Option Nat) (code : DWord) (cut : PowerCut) :
    FaultFrom s (s.enterFault bit rail code cut) bit rail ∧
    (s.pins.perstHigh = true → (s.enterFault bit rail code cut).hif.devStat.getLsbD 0 = true) := by
  have hview := applyCut_agrees s cut
  have hpins : (s.applyCut cut).resetEngines.pins = s.pins := applyCut_pins_eq s cut
  have hdev : (s.applyCut cut).resetEngines.pwr.dev = s.pwr.dev := hview.eq fun u => u.pwr.dev
  have hfault : (s.applyCut cut).resetEngines.pwr.fault = s.pwr.fault := hview.eq fun u => u.pwr.fault
  have htj : (s.applyCut cut).resetEngines.pwr.tj = s.pwr.tj := hview.eq fun u => u.pwr.tj
  have hov : (s.applyCut cut).resetEngines.pwr.railOv = s.pwr.railOv := hview.eq fun u => u.pwr.railOv
  have hrail : (s.applyCut cut).resetEngines.pwr.faultRail = s.pwr.faultRail := hview.eq fun u => u.pwr.faultRail
  have hgone := resetEngines_workGone (s.applyCut cut)
  rw [enterFault_eq h]
  generalize (s.applyCut cut).resetEngines = u at *
  have hfrom : FaultFrom s (u.faulted bit rail) bit rail := by
    refine ⟨⟨rfl, hdev, congrArg (setBit · bit true) hfault, htj, hov, ?_⟩, congrArg (fun q : Pins => { q with alertLow := true }) hpins, hgone⟩
    cases rail with
    | none => exact hrail
    | some r => rfl
  have hhigh : (u.faulted bit rail).pins.perstHigh = s.pins.perstHigh := by
    change u.pins.perstHigh = _
    rw [hpins]
  dsimp only
  split
  · obtain ⟨b, hlog⟩ := dlog_report (u.faulted bit rail) 1 1 (BitVec.ofNat 32 (u.faulted bit rail).pwr.faultWord) code
    exact ⟨hfrom.report (hlog.trans (devVec_report _ 0)), fun _ => devVec_devStat _ (by decide)⟩
  · next hlow => exact ⟨hfrom, fun hp => absurd (hhigh.trans hp) hlow⟩

/-- Entry to FAULT as the statements have it. -/
theorem enterFault_inFault (h : s.mayFault = true) (bit : Nat) (rail : Option Nat) (code : DWord) (cut : PowerCut) :
    InFault s (s.enterFault bit rail code cut) bit := by
  obtain ⟨⟨⟨hdev, hprev, hfault, -⟩, hpins, hgone⟩, hirq⟩ := enterFault_spec h bit rail code cut
  exact ⟨hdev, hprev, hfault, by rw [hpins], hgone, hirq⟩

/-- A log entry and a power event over a state that differs from `s` in PWR and the pins. -/
theorem dlog_powerEvent (s x : State) (hx : x = { s with pwr := x.pwr, pins := x.pins }) (source event : Nat) (arg0 : Word)
    (arg1 : DWord) : ∃ t, t = (x.dlog source event arg0 arg1).devVec 0 ∧ t.pwr = x.pwr ∧ t.pins = x.pins ∧
      t.hif.devStat.getLsbD 0 = true ∧ ReportOnly { s with pwr := t.pwr, pins := x.pins, bist := t.bist } t := by
  obtain ⟨b, hlog⟩ := dlog_report x source event arg0 arg1
  have hr := hlog.trans (devVec_report _ 0)
  refine ⟨_, rfl, hr.pwr_eq, hr.pins_eq, devVec_devStat _ (by decide), ?_⟩
  rw [hr.pwr_eq, hr.bist_eq]
  rw [hx] at hr ⊢
  exact hr

/-- The junction at the grade maximum. -/
def State.warned (s : State) (tj : BitVec 16) : State :=
  { s.setTj tj with pwr := { (s.setTj tj).pwr with hot := true }, pins := { s.pins with alertLow := true } }

/-- Settles O13: entry to FAULT by the stop of the main domain, and the two detectors and the warning by their guards. -/
theorem faultsEntered : Obligations.FaultsEntered := by
  refine ⟨fun s cut => ⟨fun hin => ?_, fun hout => ?_⟩, fun s cut hv => ⟨fun hov => ?_, fun rail => ?_⟩,
    fun s tj hoff => ⟨fun hcool => ?_, fun hhot => ?_⟩⟩
  · have hmay : s.mayFault = true := by
      rcases hin with ⟨hstart, hd | hd | hd⟩ | ⟨hd, hdry⟩ <;> simp [State.mayFault, *]
    have hdev : ¬ s.pwr.dev = .off := by
      rcases hin with ⟨-, hd | hd | hd⟩ | ⟨hd, -⟩ <;> simp [hd]
    refine ⟨fun rail hrail hv hov => ?_, fun tj => ?_, ⟨_, rfl, enterFault_inFault hmay 4 none 0 cut⟩,
      fun core hrun => ⟨_, congrArg Host.Outcome.next (if_neg ?_), enterFault_inFault hmay 5 none 0 cut⟩,
      fun code => ⟨_, rfl, enterFault_inFault hmay 6 none code cut⟩⟩
    · have hmay' : ({ s with pwr := { s.pwr with railOv := setBit s.pwr.railOv rail.val true } } : State).mayFault = true := hmay
      obtain ⟨⟨⟨-, -, -, -, hset, hnamed⟩, -⟩, -⟩ := enterFault_spec hmay' 1 (some rail.val) 0 cut
      refine ⟨_, congrArg Host.Outcome.next ((if_neg ?_).trans ((if_neg ?_).trans (if_neg hrail))),
        enterFault_inFault hmay' 1 (some rail.val) 0 cut, hnamed, hset⟩
      · simp [State.islandUp, hv]
      · rw [hov]
        decide
    · have hmay' : ({ s.setTj tj with pwr := { (s.setTj tj).pwr with tripped := true } } : State).mayFault = true := hmay
      obtain ⟨⟨⟨-, -, -, htj, -⟩, -⟩, -⟩ := enterFault_spec hmay' 3 none 0 cut
      exact ⟨_, congrArg Host.Outcome.next (if_neg hdev), enterFault_inFault hmay' 3 none 0 cut, htj⟩
    · rw [hrun]
      decide
  · have hmay : (!s.mayFault) = true := by
      rcases hout with hd | hd | hd | ⟨hd, hdry⟩ <;> simp [State.mayFault, *]
    refine ⟨congrArg Host.Outcome.next (if_pos hmay), fun core => congrArg Host.Outcome.next ?_,
      fun code => congrArg Host.Outcome.next (if_pos hmay)⟩
    split
    · rfl
    · exact if_pos hmay
  · have hup : ¬ (!s.islandUp) = true := by simp [State.islandUp, hv]
    exact congrArg Host.Outcome.next ((if_neg hup).trans ((if_neg (by rw [show (0 : Fin 6).val = 0 from rfl, hov]; decide)).trans
      (if_pos rfl)))
  · exact congrArg Host.Outcome.next (if_neg (by simp [State.islandUp, hv]))
  · have hguard : ¬ (s.pwr.hot = true ∨ s.pwr.dev = .off) := by simp [hcool, hoff]
    by_cases hlive : s.mainLive = true ∧ s.pwr.dev ≠ .sentry
    · obtain ⟨t, ht, hpwr, hpins, hirq, hr⟩ :=
        dlog_powerEvent s (s.warned tj) rfl 1 2 (BitVec.ofNat 32 (s.warned tj).pwr.tjWord) 0
      exact ⟨t, congrArg Host.Outcome.next ((if_neg hguard).trans ((if_pos hlive).trans ht.symm)), (congrArg Power.hot hpwr).trans rfl,
        (congrArg Pins.alertLow hpins).trans rfl, (congrArg Power.tj hpwr).trans rfl, (congrArg Power.tjMax hpwr).trans rfl,
        (congrArg Power.dev hpwr).trans rfl,
        fun _ _ => hirq, hr⟩
    · exact ⟨s.warned tj, congrArg Host.Outcome.next ((if_neg hguard).trans (if_neg hlive)), rfl, rfl, rfl, rfl, rfl,
        fun hl hs => absurd ⟨hl, hs⟩ hlive, rfl⟩
  · exact congrArg Host.Outcome.next (if_neg (by simp [hhot, hoff]))

end Sys2Proof.Machine
end

section
/-! PROOFS. What a self-test and a journal scan may change: the state of the basins and terraces, what their blocks note, and
what is reported. -/

namespace Sys2Proof.Machine

set_option Elab.async false

variable {s t u σ τ : State}

/-- Everything that no self-test and no journal scan touches. -/
def State.sansTest (s : State) : State :=
  { s.sansReport with
    basins := [], ters := [], cistern := [], bist := Bist.initial, afe := Afe.initial, wpe := { s.wpe with journal := [], dirty := [], jrnlErases := 0, tankUf := 0, capMax := false, absent := false },
    free := 0 }

/-- From `s` to `t` only what a self-test and a journal scan touch has changed. -/
def TestOnly (s t : State) : Prop := t.sansTest = s.sansTest

theorem TestOnly.refl (s : State) : TestOnly s s := rfl

theorem TestOnly.trans (h : TestOnly s t) (k : TestOnly t u) : TestOnly s u := Eq.trans k h

/-- A step that by computation touches nothing else. -/
theorem TestOnly.then (h : TestOnly s t) (k : TestOnly t u := by exact rfl) : TestOnly s u := h.trans k

theorem TestOnly.ite {c : Prop} [Decidable c] (h : TestOnly s t) (k : TestOnly s u) : TestOnly s (if c then t else u) := by
  split
  · exact h
  · exact k

theorem TestOnly.ite_fst {α : Type} {c : Prop} [Decidable c] {a b : State × α} (h : TestOnly s a.1) (k : TestOnly s b.1) :
    TestOnly s (if c then a else b).1 := by
  split
  · exact h
  · exact k

theorem TestOnly.foldl {α : Type} {l : List α} {f : State → α → State} (h : TestOnly s t)
    (hf : ∀ u a, TestOnly u (f u a)) : TestOnly s (l.foldl f t) := by
  induction l generalizing t with
  | nil => exact h
  | cons a l ih => exact ih (h.trans (hf t a))

theorem TestOnly.setDirty (h : TestOnly s t) (l : List (Nat × Nat)) : TestOnly s { t with wpe := { t.wpe with dirty := l } } := h.then

theorem TestOnly.setJournal (h : TestOnly s t) (l : List JEntry) (n : Nat) :
    TestOnly s { t with wpe := { t.wpe with journal := l, jrnlErases := n } } := h.then

theorem TestOnly.measure (h : TestOnly s t) (uf : Nat) : TestOnly s { t with wpe := t.wpe.measure uf } := by
  unfold Wpe.measure
  split
  · exact h.then
  · split
    · exact h.then
    · exact h.then

theorem TestOnly.setBist (h : TestOnly s t) (b : Bist) : TestOnly s { t with bist := b } := h.then

theorem ReportOnly.testOnly (h : ReportOnly s t) : TestOnly s t := h.agrees (view := State.sansTest)

theorem dlog_testOnly (s : State) (kind code : Nat) (a : Word) (b : DWord) : TestOnly s (s.dlog kind code a b) := by
  unfold State.dlog
  exact (TestOnly.refl s).then.trans (devVec_report _ _).testOnly

theorem mapOutBasin_testOnly (s : State) (fs : List Finding) (n : Nat) : TestOnly s (s.mapOutBasin fs n).1 := by
  unfold State.mapOutBasin
  dsimp only
  split
  · exact rfl
  · split <;> exact rfl

theorem failBasin_testOnly (s : State) (fs : List Finding) (repair : Bool) (n : Nat) :
    TestOnly s (s.failBasin fs repair n).1 := by
  have hs {rows cols : List (Nat × Nat)} : TestOnly s (s.updBasin n (fun b => b.substitute rows cols)) := rfl
  unfold State.failBasin
  dsimp only
  split
  · exact .ite_fst (mapOutBasin_testOnly s fs n) (.ite_fst (.refl s) (.ite_fst (hs.trans (mapOutBasin_testOnly _ _ _)) hs))
  · exact mapOutBasin_testOnly s fs n

theorem consequence_testOnly (s : State) (fs : List Finding) (repair : Bool) (seen : List (Nat × Nat)) (f : Finding) :
    TestOnly s (s.consequence fs repair seen f).1 := by
  unfold State.consequence
  dsimp only
  split
  · exact .ite_fst rfl (.refl s)
  · exact TestOnly.foldl rfl fun _ _ => rfl
  · exact rfl
  · exact rfl
  · exact rfl
  · exact rfl
  · refine .ite_fst ?_ (.refl s)
    split
    · exact rfl
    · split
      · exact .refl s
      · exact failBasin_testOnly s fs repair _

theorem failRecord_testOnly (s : State) (kind outcome : Nat) (f : Finding) :
    TestOnly s (s.failRecord kind outcome f) := by
  unfold State.failRecord
  exact (TestOnly.refl s).then.trans (dlog_testOnly _ _ _ _ _)

theorem judge_testOnly (s : State) (all : List Finding) (kind : Nat) (repair : Bool) (seen : List (Nat × Nat))
    (past fs : List Finding) : TestOnly s (s.judge all kind repair seen past fs).1 := by
  induction fs generalizing s seen past with
  | nil => exact .refl s
  | cons f fs ih =>
    have hr := consequence_testOnly s all repair seen f
    unfold State.judge
    dsimp only
    split
    · exact (hr.trans (failRecord_testOnly _ _ _ _)).trans (ih _ _ _)
    · exact hr.trans (ih _ _ _)

theorem testBegin_testOnly (s : State) (j : TestJob) : TestOnly s (s.testBegin j) := by
  unfold State.testBegin
  have h1 : TestOnly s (if bitAt j.tests 1 ∧ j.scope = 0 then { s with bist := { s.bist with supply := 0 } } else s) := .ite rfl rfl
  have h2 : TestOnly s ((List.range 16).foldl (fun t n => if s.loopBack j n then
      { t with bist := { t.bist with afeFailed := setBit t.bist.afeFailed n false } } else t) _) :=
    h1.foldl fun _ _ => .ite rfl rfl
  have h3 {c : Prop} [Decidable c] := TestOnly.ite (c := c) (h2.foldl (l := List.range 16) (f := fun t n =>
      if (s.sentinel n).armed ∨ !(s.basin (4096 + n)).snFailed then t
      else t.updBasin (4096 + n) (fun b => { b with snFailed := false })) fun _ _ => .ite rfl rfl) h2
  exact .ite h3 (h3.trans rfl)

theorem rederive_testOnly (s : State) (j : TestJob) (reads : List TrackRead) : TestOnly s (s.rederive j reads) := by
  unfold State.rederive
  exact .ite (.refl s) (TestOnly.foldl (.ite rfl (.refl s)) fun _ _ => rfl)

theorem loopResults_testOnly (s : State) (j : TestJob) : TestOnly s (s.loopResults j) := by
  unfold State.loopResults
  exact TestOnly.foldl (.refl s) fun _ _ => .ite rfl (.ite rfl rfl)

theorem selfTest_testOnly (s : State) (j : TestJob) (t : TestIn) (repair : Bool) : TestOnly s (s.selfTest j t repair).1 := by
  have h := (((testBegin_testOnly s j).trans (rederive_testOnly _ j t.reads)).trans
    (judge_testOnly _ (s.findings j t) j.kind repair [] [] (s.findings j t))).trans (loopResults_testOnly _ j)
  unfold State.selfTest
  exact .ite (h.setBist _) ((h.setBist _).setBist _)

theorem mapSave_testOnly (s : State) : TestOnly s s.mapSave := rfl

theorem scanEntry_testOnly (s : State) (e : JEntry) : TestOnly s (s.scanEntry e) := by
  have h1 : TestOnly s (if e.erase then { (s.makeDirty e.basin 1).updBasin e.basin
      (fun b => { b with tag := BitVec.ofInt 64 (Config.freeInt s.free) }) with free := s.free + 1 } else s.makeDirty e.basin 1) :=
    .ite rfl rfl
  unfold State.scanEntry
  exact .ite (.refl s) ((h1.trans (dlog_testOnly _ _ _ _ _)).setDirty _)

theorem journalScan_testOnly (s : State) : TestOnly s s.journalScan := by
  have h : TestOnly s (s.wpe.journal.foldl State.scanEntry { s with wpe := { s.wpe with dirty := [] } }) :=
    TestOnly.foldl rfl scanEntry_testOnly
  unfold State.journalScan
  exact .ite h (h.setJournal _ _)

theorem TestOnly.pwr (h : TestOnly s t) : t.pwr = s.pwr :=
  have e := congrArg State.pwr (show t.sansTest = s.sansTest from h)
  e

theorem TestOnly.pins (h : TestOnly s t) : t.pins = s.pins :=
  have e := congrArg State.pins (show t.sansTest = s.sansTest from h)
  e

theorem TestOnly.tmr (h : TestOnly s t) : t.tmr = s.tmr :=
  have e := congrArg State.tmr (show t.sansTest = s.sansTest from h)
  e

theorem TestOnly.lcs (h : TestOnly s t) : t.lcs = s.lcs :=
  have e := congrArg State.lcs (show t.sansTest = s.sansTest from h)
  e

end Sys2Proof.Machine
end

section
/-! PROOFS. A start: the edge of PERST_N, the steps of the firmware, and release. -/

namespace Sys2Proof.Machine

set_option Elab.async false

variable {s t : State}

theorem TestOnly.sys (h : TestOnly s t) : t.sys = s.sys :=
  have e := congrArg State.sys (show t.sansTest = s.sansTest from h)
  e

/-- Firmware that is bad, or a flash that cannot be read, ends in a boot failure with the time as it was. -/
theorem runStart_of_bad {edgeAt decision : Nat} {x : StartIn} (h : x.fwOk = false ∨ s.flashReads x = false) :
    ∃ st, (s.runStart edgeAt decision x).pwr.start = some st ∧ st.edgeAt = edgeAt ∧ st.held = false ∧ st.result = .bootFail ∧
      s.runStart edgeAt decision x = { s with pwr := { s.pwr with start := some st }, free := s.free + 1 } := by
  have hrun : s.runStart edgeAt decision x = _ := if_pos (by simpa using h)
  rw [hrun]
  exact ⟨_, rfl, rfl, rfl, rfl, rfl⟩

/-- Good firmware counts a pending epoch, and its self-test touches nothing else that a start tells of. -/
theorem runStart_of_good {edgeAt decision : Nat} {x : StartIn} (hf : x.fwOk = true) (hr : s.flashReads x = true) :
    ∃ u st, TestOnly { s with tmr := s.tmr.startEpoch, sys := { s.sys with fw := x.fw } } u ∧
      s.runStart edgeAt decision x = { u with pwr := { u.pwr with start := some st } } ∧ st.edgeAt = edgeAt ∧ st.held = false := by
  have hrun : s.runStart edgeAt decision x = _ := if_neg (by simp [hf, hr])
  rw [hrun]
  refine ⟨_, _, ?_, rfl, rfl, rfl⟩
  have hscan := journalScan_testOnly ({ s with tmr := s.tmr.startEpoch, sys := { s.sys with fw := x.fw }, free := s.free + 1 } : State)
  exact ((TestOnly.trans rfl hscan).measure _).trans ((mapSave_testOnly _).trans (selfTest_testOnly _ _ _ _))

/-- What a start leaves of PWR, the pins, the life cycle and the time, and what it notes. -/
theorem runStart_spec (s : State) (edgeAt decision : Nat) (x : StartIn) :
    ∃ st, (s.runStart edgeAt decision x).pwr.start = some st ∧ st.edgeAt = edgeAt ∧ st.held = false ∧
      (s.runStart edgeAt decision x).pwr.dev = s.pwr.dev ∧ (s.runStart edgeAt decision x).pins = s.pins ∧
      (s.runStart edgeAt decision x).lcs = s.lcs ∧ (s.runStart edgeAt decision x).sys.tapIr = s.sys.tapIr ∧
      ((x.fwOk = false ∨ s.flashReads x = false) → st.result = .bootFail ∧ (s.runStart edgeAt decision x).tmr = s.tmr) ∧
      (x.fwOk = true → s.flashReads x = true → (s.runStart edgeAt decision x).tmr = s.tmr.startEpoch ∧
        (s.runStart edgeAt decision x).sys.fw = x.fw) := by
  by_cases h : x.fwOk = true ∧ s.flashReads x = true
  · obtain ⟨hf, hr⟩ := h
    obtain ⟨u, st, htest, hrun, hedge, hheld⟩ := runStart_of_good (edgeAt := edgeAt) (decision := decision) hf hr
    have hpwr : u.pwr = s.pwr := htest.pwr
    have hsys : u.sys = { s.sys with fw := x.fw } := htest.sys
    rw [hrun]
    refine ⟨st, rfl, hedge, hheld, (congrArg Power.dev hpwr :), htest.pins, htest.lcs, (congrArg Sys.tapIr hsys :), ?_,
      fun _ _ => ⟨htest.tmr, congrArg Sys.fw hsys⟩⟩
    rintro (hbad | hbad)
    · rw [hf] at hbad
      cases hbad
    · rw [hr] at hbad
      cases hbad
  · have hbad : x.fwOk = false ∨ s.flashReads x = false := by
      rw [not_and_or] at h
      simpa using h
    obtain ⟨st, hst, hedge, hheld, hres, hrun⟩ := runStart_of_bad (edgeAt := edgeAt) (decision := decision) hbad
    exact ⟨st, hst, hedge, hheld, by rw [hrun], by rw [hrun], by rw [hrun], by rw [hrun], fun _ => ⟨hres, by rw [hrun]⟩,
      fun hf hr => absurd ⟨hf, hr⟩ h⟩

/-- The epoch of a start is counted once, and saturates. -/
theorem startEpoch_spec (x : Time) : x.startEpoch.epochPending = false ∧
    x.startEpoch.epoch = if x.epochPending then (if x.epoch = 0xFFFFFFFF then 0xFFFFFFFF else x.epoch + 1) else x.epoch := by
  unfold Time.startEpoch
  cases hp : x.epochPending with
  | false => exact ⟨hp, rfl⟩
  | true =>
    refine ⟨rfl, ?_⟩
    by_cases h : x.epoch = 0xFFFFFFFF#32 <;> simp [h]

/-- An interrupt that waited leaves what a report and SNT_RPT_IRQ leave. -/
theorem raiseIrq_agrees {α : Type} {view : State → α} (s : State)
    (hv : ∀ u : State, view u = view { u.sansReport with snt := Snt.initial } := by intro u; rfl) : Agrees view s s.raiseIrq := by
  unfold State.raiseIrq
  split
  · have hsnt : Agrees view s { s with snt := { s.snt with irqWait := false } } := (hv _).trans (hv s).symm
    refine hsnt.trans ?_
    exact (devVec_report _ 1).agrees (fun u => (hv u).trans (hv u.sansReport).symm)
  · exact .refl s

/-- What LTR and the release message add is what is sent. -/
theorem sendLtr_report (s : State) : ReportOnly s s.sendLtr := by
  unfold State.sendLtr
  split
  · exact .refl s
  · split <;> exact rfl

theorem tellRelease_report (s : State) : ReportOnly s s.tellRelease := by
  unfold State.tellRelease
  split <;> exact rfl

/-- The pin raised, with WAKE_N and DRYDONE let go. -/
def State.raised (s : State) : State := { s with pins := { s.pins with perstHigh := true, wakeLow := false, dryDone := false } }

/-- A start honours HOLD where the strap says so and the fuses leave the device debuggable. -/
theorem holds_beginStart (s : State) (x : StartIn) :
    (s.raised.beginStart x).holds = true ↔ s.pins.boot = .hold ∧ s.lcs.fused.debuggable = true := by
  simp [State.holds, State.beginStart, State.raised]

/-- The edge that begins a start. -/
theorem startsAtEdge {s : State} {x : StartIn} (hlow : s.pins.perstHigh = false) (hv : s.pwr.railGood.getLsbD 0 = true)
    (hoff : s.pwr.dev ≠ .off) (hrails : s.pwr.railGood.toNat / 2 = 31) :
    ∃ t, exec (.perstNRise x) s = .next t ∧ ∃ st, t.pwr.start = some st ∧ st.edgeAt = s.tmr.uptime ∧
      t.pwr.dev = s.pwr.dev ∧ t.pins.perstHigh = true ∧ t.pins.wakeLow = false ∧ t.pins.dryDone = false ∧
      t.lcs.active = s.lcs.fused ∧
      (s.pins.boot = .hold → s.lcs.fused.debuggable = true → st.held = true ∧ t.tmr = s.tmr) ∧
      (s.pins.boot ≠ .hold → st.held = false ∧
        ((x.fwOk = false ∨ s.flashReads x = false) → st.result = .bootFail ∧ t.tmr = s.tmr) ∧
        (x.fwOk = true → s.flashReads x = true → t.tmr = s.tmr.startEpoch ∧ t.sys.fw = x.fw)) := by
  have hup : ¬ (s.pins.perstHigh = true ∨ (!s.islandUp) = true) := by simp [hlow, State.islandUp, hv]
  have hgo : ¬ (s.pwr.dev = .off ∨ (!s.pwr.mainGood) = true) := by simp [hoff, Power.mainGood, hrails]
  by_cases hh : (s.raised.beginStart x).holds = true
  · refine ⟨_, congrArg Host.Outcome.next ((if_neg hup).trans ((if_neg hgo).trans (if_pos hh))), _, rfl, rfl, rfl, rfl, rfl,
      rfl, rfl, fun _ _ => ⟨rfl, rfl⟩, fun hboot => ?_⟩
    exact absurd ((holds_beginStart s x).mp hh).1 hboot
  · obtain ⟨st, hst, hedge, hheld, hdev, hpins, hlcs, -, hbad, hgood⟩ :=
      runStart_spec (s.raised.beginStart x) s.tmr.uptime (s.tmr.uptime + 4000) x
    exact ⟨_, congrArg Host.Outcome.next ((if_neg hup).trans ((if_neg hgo).trans (if_neg hh))), st, hst, hedge, hdev,
      (congrArg Pins.perstHigh hpins :), (congrArg Pins.wakeLow hpins :), (congrArg Pins.dryDone hpins :),
      (congrArg Lcs.active hlcs :), fun hboot hdbg => absurd ((holds_beginStart s x).mpr ⟨hboot, hdbg⟩) hh,
      fun _ => ⟨hheld, hbad, hgood⟩⟩

/-- The state that release writes, before its messages. -/
def State.released (s : State) (st : Start) : State :=
  let t := s.writeStart st
  let bad := st.result == .bootFail
  { t with
    pwr := { t.pwr with dev := if bad then .fault else .run, prev := s.pwr.dev, start := none, estFormed := false, peak := 0, endedInFault := bad
                        fault := if bad then setBit t.pwr.fault 6 true else t.pwr.fault }
    pins := { t.pins with alertLow := t.pins.alertLow || bad } }

/-- What release tells and clears stays through an interrupt that waited and its messages. -/
theorem release_messages_agree {α : Type} {view : State → α} (s : State)
    (hv : ∀ u : State, view u = view { u.sansReport with snt := Snt.initial } := by intro u; rfl) :
    Agrees view s s.raiseIrq.sendLtr.tellRelease :=
  ((raiseIrq_agrees s hv).trans ((sendLtr_report _).agrees (fun u => (hv u).trans (hv u.sansReport).symm))).trans
    ((tellRelease_report _).agrees (fun u => (hv u).trans (hv u.sansReport).symm))

/-- The indices and the loss count of the violation log. -/
def State.vlogMarks (s : State) : BitVec 16 × BitVec 16 × Nat := (s.hif.vlogWr, s.hif.vlogRd, s.hif.vlogLost)

theorem post_vlogMarks (s : State) (e : Emit) (credit src : Option (Nat × Nat)) : (s.post e credit src).vlogMarks = s.vlogMarks := by
  unfold State.post
  dsimp only
  split
  · rfl
  · rfl
  · split <;> rfl

theorem signal_vlogMarks (s : State) (f e : Nat) : (s.signal f e).vlogMarks = s.vlogMarks := by
  unfold State.signal
  split
  · rfl
  · split
    · rfl
    · exact post_vlogMarks _ _ _ _

/-- A device interrupt logs no violation. -/
theorem devVec_vlogMarks (s : State) (k : Nat) : (s.devVec k).vlogMarks = s.vlogMarks := by
  unfold State.devVec
  split
  · rfl
  · dsimp only
    split
    · rfl
    · split
      · rfl
      · exact signal_vlogMarks _ 0 k

theorem release_messages_vlogMarks (s : State) : s.raiseIrq.sendLtr.tellRelease.vlogMarks = s.vlogMarks := by
  have hirq : s.raiseIrq.vlogMarks = s.vlogMarks := by
    unfold State.raiseIrq
    split
    · exact devVec_vlogMarks _ 1
    · rfl
  have hltr : ∀ u : State, u.sendLtr.vlogMarks = u.vlogMarks := fun u => by
    unfold State.sendLtr
    split
    · rfl
    · split <;> rfl
  have htell : ∀ u : State, u.tellRelease.vlogMarks = u.vlogMarks := fun u => by
    unfold State.tellRelease
    split <;> rfl
  rw [htell, hltr, hirq]

/-- Release in RUN, with the firmware running. -/
def State.releasedRun (s : State) (st : Start) : State :=
  let t := s.released st
  { t with lcs := { t.lcs with retiring := t.lcs.active == .retired && decide (t.lcs.retireNext < 4112), retireAt := t.lcs.retireNext } }

/-- Release in FAULT after a boot failure. -/
def State.releasedFault (s : State) (st : Start) : State :=
  let t := s.released st
  (t.resetEngines.dlog 1 1 (BitVec.ofNat 32 t.pwr.faultWord) 0).devVec 0

/-- The release of a start that is not held. -/
theorem exec_startRelease {st : Start} (hst : s.pwr.start = some st) (hheld : st.held = false) :
    exec .startRelease s = .next (if (st.result == .bootFail) = true then s.releasedFault st
      else s.releasedRun st).raiseIrq.sendLtr.tellRelease := by
  change Host.Outcome.next _ = _
  rw [hst]
  dsimp only
  rw [if_neg (by simp [hheld])]
  rfl

/-- What release writes of PWR, the time, SYS_LOCK and the violation log. -/
def ReleaseWritten (s t : State) (st : Start) : Prop :=
  t.pwr.start = none ∧ t.pwr.prev = s.pwr.dev ∧ t.pwr.dev = (if st.result = .bootFail then .fault else .run) ∧
  t.tmr.startKind = st.kind ∧ t.tmr.startReason = st.reason ∧ t.tmr.startResult = st.result ∧ t.tmr.dryAge = st.dryAge ∧
  t.tmr.releaseAt = s.tmr.uptime ∧ t.tmr.uptime = s.tmr.uptime ∧ t.sys.lock = false ∧ t.vlogMarks = (0, 0, 0)

/-- Release writes the same through the interrupt and the messages that follow it. -/
theorem ReleaseWritten.messages {st : Start} (h : ReleaseWritten s t st) : ReleaseWritten s t.raiseIrq.sendLtr.tellRelease st := by
  have hpwr : t.raiseIrq.sendLtr.tellRelease.pwr = t.pwr := release_messages_agree (view := State.pwr) t
  have htmr : t.raiseIrq.sendLtr.tellRelease.tmr = t.tmr := release_messages_agree (view := State.tmr) t
  have hsys : t.raiseIrq.sendLtr.tellRelease.sys = t.sys := release_messages_agree (view := State.sys) t
  unfold ReleaseWritten at h ⊢
  rw [hpwr, htmr, hsys, release_messages_vlogMarks]
  exact h

theorem releasedRun_written {st : Start} (hb : st.result ≠ .bootFail) : ReleaseWritten s (s.releasedRun st) st ∧
    (s.releasedRun st).pwr.fault = s.pwr.fault ∧ (s.releasedRun st).pins = s.pins := by
  have hbeq : (st.result == .bootFail) = false := by simp [hb]
  refine ⟨⟨rfl, rfl, ?_, rfl, rfl, rfl, rfl, rfl, rfl, rfl, rfl⟩, ?_, ?_⟩ <;>
    simp [State.releasedRun, State.released, State.writeStart, hbeq, hb]

theorem releasedFault_written {st : Start} (hb : st.result = .bootFail) : ReleaseWritten s (s.releasedFault st) st ∧
    (s.releasedFault st).pwr.fault = setBit s.pwr.fault 6 true ∧ (s.releasedFault st).pins.alertLow = true ∧
    WorkGone (s.releasedFault st) := by
  have hbeq : (st.result == .bootFail) = true := by simp [hb]
  obtain ⟨b, hlog⟩ := dlog_report (s.released st).resetEngines 1 1 (BitVec.ofNat 32 (s.released st).pwr.faultWord) 0
  have hr := hlog.trans (devVec_report _ 0)
  have hpwr : (s.releasedFault st).pwr = (s.released st).resetEngines.pwr := hr.pwr_eq
  have hpins : (s.releasedFault st).pins = (s.released st).pins := hr.pins_eq
  have htmr : (s.releasedFault st).tmr = (s.released st).tmr := hr.tmr_eq
  have hsys : (s.releasedFault st).sys = (s.released st).resetEngines.sys := hr.sys_eq
  have hmarks : (s.releasedFault st).vlogMarks = (s.released st).vlogMarks :=
    (devVec_vlogMarks _ 0).trans ((devVec_vlogMarks _ 3).trans rfl)
  refine ⟨?_, ?_, ?_, (resetEngines_workGone _).report hr⟩
  · unfold ReleaseWritten
    rw [hpwr, htmr, hsys, hmarks]
    refine ⟨rfl, rfl, ?_, rfl, rfl, rfl, rfl, rfl, rfl, rfl, rfl⟩
    simp [State.resetEngines, State.released, hb]
  · rw [hpwr]
    simp [State.resetEngines, State.released, State.writeStart, hbeq]
  · rw [hpins]
    simp [State.released, hbeq]

/-- Work that is gone stays gone through the interrupt and the messages of release. -/
theorem WorkGone.messages (h : WorkGone t) : WorkGone t.raiseIrq.sendLtr.tellRelease :=
  h.of_view (release_messages_agree t)

/-- Settles O14: a start by its guards and by what the firmware finds, and its release by what it writes. -/
theorem startsRun : Obligations.StartsRun := by
  refine ⟨fun s x => ⟨fun hlow hv hoff hrails => ?_, fun hlow hv hrails => ?_, fun st hv hrails hst hheld hdbg hcl => ?_⟩,
    fun s st hst hheld => ?_⟩
  · obtain ⟨t, ht, st, hst, hedge, hdev, hhigh, hwake, hdry, hlcs, hhold, hrun⟩ := startsAtEdge (x := x) hlow hv hoff hrails
    refine ⟨t, ht, st, hst, hedge, hdev, hhigh, hwake, hdry, hlcs, hhold, fun hboot => ?_⟩
    obtain ⟨hnot, hbad, hgood⟩ := hrun hboot
    refine ⟨hnot, hbad, fun hf hr => ?_⟩
    obtain ⟨htmr, hfw⟩ := hgood hf hr
    obtain ⟨hpend, hepoch⟩ := startEpoch_spec s.tmr
    rw [htmr]
    exact ⟨hpend, hfw, hepoch⟩
  · have hup : ¬ (s.pins.perstHigh = true ∨ (!s.islandUp) = true) := by simp [hlow, State.islandUp, hv]
    exact congrArg Host.Outcome.next ((if_neg hup).trans (if_pos (.inr (by simp [Power.mainGood, hrails]))))
  · have hup : ¬ ((!s.islandUp) = true ∨ (!s.pwr.mainGood) = true) := by
      simp [State.islandUp, hv, Power.mainGood, hrails]
    have hopen : ¬ ((!s.lcs.active.debuggable) = true ∨ s.lcs.closed = true) := by simp [hdbg, hcl]
    obtain ⟨st', hst', hedge, hnot, -, -, -, htap, -⟩ :=
      runStart_spec { s with sys := { s.sys with tapIr := 0x11 } } st.edgeAt (s.tmr.uptime + 4000) x
    have hgo : exec (.hkRelease x) s = .next (match s.pwr.start with
      | some st => if st.held then ({ s with sys := { s.sys with tapIr := 0x11 } } : State).runStart st.edgeAt (s.tmr.uptime + 4000) x
        else { s with sys := { s.sys with tapIr := 0x11 } }
      | none => { s with sys := { s.sys with tapIr := 0x11 } }) :=
      congrArg Host.Outcome.next ((if_neg hup).trans (if_neg hopen))
    rw [hst] at hgo
    exact ⟨_, hgo.trans (congrArg Host.Outcome.next (if_pos hheld)), st', hst', hnot, hedge, htap⟩
  · have he := exec_startRelease hst hheld
    by_cases hb : st.result = .bootFail
    · rw [if_pos (by simp [hb])] at he
      obtain ⟨hw, hfault, halert, hgone⟩ := releasedFault_written (s := s) hb
      obtain ⟨h1, h2, h3, h4, h5, h6, h7, h8, h9, h10, hmarks⟩ := hw.messages
      obtain ⟨hwr, hrest⟩ := Prod.mk.inj hmarks
      obtain ⟨hrd, hlost⟩ := Prod.mk.inj hrest
      have hpwr : _ = (s.releasedFault st).pwr := release_messages_agree (view := State.pwr) (s.releasedFault st)
      have hpins : _ = (s.releasedFault st).pins := release_messages_agree (view := State.pins) (s.releasedFault st)
      exact ⟨_, he, h1, h2, h3, h4, h5, h6, h7, h8, h9, h10, hlost, hwr, hrd,
        fun _ => ⟨(congrArg Pins.alertLow hpins).trans halert, (congrArg Power.fault hpwr).trans hfault, hgone.messages⟩,
        fun h => absurd hb h⟩
    · rw [if_neg (by simp [hb])] at he
      obtain ⟨hw, hfault, hpins⟩ := releasedRun_written (s := s) hb
      obtain ⟨h1, h2, h3, h4, h5, h6, h7, h8, h9, h10, hmarks⟩ := hw.messages
      obtain ⟨hwr, hrest⟩ := Prod.mk.inj hmarks
      obtain ⟨hrd, hlost⟩ := Prod.mk.inj hrest
      have hpwr' : _ = (s.releasedRun st).pwr := release_messages_agree (view := State.pwr) (s.releasedRun st)
      have hpins' : _ = (s.releasedRun st).pins := release_messages_agree (view := State.pins) (s.releasedRun st)
      have hrings : _ = (s.releasedRun st).rings := release_messages_agree (view := State.rings) (s.releasedRun st)
      exact ⟨_, he, h1, h2, h3, h4, h5, h6, h7, h8, h9, h10, hlost, hwr, hrd, fun h => absurd h hb,
        fun _ => ⟨(congrArg Power.fault hpwr').trans hfault, hpins'.trans hpins, hrings⟩⟩

end Sys2Proof.Machine
end

section
/-! PROOFS. PERST_N asserted, and the configuration space. -/

namespace Sys2Proof.Machine

set_option Elab.async false

variable {s t : State}

/-- The state that PERST_N asserted leaves, but for a record that was not yet verified. -/
def State.perstReset (s : State) (cut : PowerCut) : State :=
  (({ s with pins := { s.pins with perstHigh := false } } : State).applyCut { cut with torn := false }).resetMain

theorem perstReset_spec (s : State) (cut : PowerCut) (b : Bist) :
    let t : State := { s.perstReset cut with bist := b }
    t.pins.perstHigh = false ∧ t.pwr.start = none ∧ t.pwr.dev = s.pwr.dev ∧ t.tmr = s.tmr ∧ t.hif.up = false ∧ WorkGone t ∧
      t.sys.lock = s.sys.lock ∧ t.sys.scratch = 0 := by
  have hview := applyCut_agrees { s with pins := { s.pins with perstHigh := false } } { cut with torn := false }
  exact ⟨hview.eq fun u => u.pins.perstHigh, rfl, hview.eq fun u => u.pwr.dev, hview.eq State.tmr, rfl,
    resetMain_workGone (({ s with pins := { s.pins with perstHigh := false } } : State).applyCut { cut with torn := false }), hview.eq fun u => u.sys.lock, rfl⟩

/-- Which free values were drawn is no part of a report. -/
theorem ReportOnly.with_free {n : Nat} (h : ReportOnly { s with free := n } t) : ReportOnly { s with free := t.free } t := by
  rw [h.free_eq]
  exact h

/-- A host interface that is up has been released. -/
theorem start_of_hostUp (h : s.hostUp = true) : s.pwr.start.isSome = false := by
  simp [State.hostUp, State.mainLive] at h
  simp [h]

/-- MSI-X Enable and the function masks. -/
def State.msixControls (s : State) : List Bool × List Bool := (s.hif.msixEn, s.hif.msixFm)

theorem post_msixControls (s : State) (e : Emit) (credit src : Option (Nat × Nat)) :
    (s.post e credit src).msixControls = s.msixControls := by
  unfold State.post
  dsimp only
  split
  · rfl
  · rfl
  · split <;> rfl

/-- Messages that go out leave the controls that let them. -/
theorem flushMsix_controls (s : State) (f : Nat) : (s.flushMsix f).msixControls = s.msixControls := by
  unfold State.flushMsix
  refine Agrees.foldl (view := State.msixControls) (.refl s) fun u x _ => ?_
  split
  · exact post_msixControls _ _ _ _
  · exact .refl u

/-- A configuration request after release is answered with its effect. -/
theorem exec_configRequest_of_hostUp (hrole : s.pins.role ≠ .member) (hup : s.hostUp = true) {req : CfgReq}
    (hf : cfgFunc req = 0 ∨ s.hif.vfEn = true) : exec (.configRequest req) s = .next ((s.leaveL1.configure req).emit .cfgDone) := by
  have hlive := start_of_hostUp hup
  have hfunc : ¬ (cfgFunc req ≠ 0 ∧ (!s.hif.vfEn) = true) := by
    rintro ⟨hn, hv⟩
    rcases hf with hf | hf
    · exact hn hf
    · simp [hf] at hv
  exact congrArg Host.Outcome.next ((if_neg hrole).trans ((if_neg (by simp [hlive])).trans ((if_neg (by simp [hup])).trans (if_neg hfunc))))

/-- Settles O15. -/
theorem perstAndConfig : Obligations.PerstAndConfig := by
  refine ⟨fun s cut hhigh hv hoff hlive => ?_, fun s hrole => ⟨fun req hst hlink => ?_, fun hup => ?_⟩, fun s => ?_⟩
  · have hin : ¬ ((!s.pins.perstHigh) = true ∨ (!s.islandUp) = true) := by simp [hhigh, State.islandUp, hv]
    have hidle : ¬ (s.pwr.dev = .off ∨ (s.pwr.dev = .sentry ∧ s.pwr.start.isNone = true)) := by
      rintro (h | ⟨h, hn⟩)
      · exact hoff h
      · rcases hlive with hl | hl
        · exact hl h
        · simp [Option.isNone_iff_eq_none.mp hn] at hl
    have he : exec (.perstNAssert cut) s = .next _ := congrArg Host.Outcome.next ((if_neg hin).trans (if_neg hidle))
    have hsafe := (exec_safe he).fuses
    by_cases hcom : s.bist.dry = some .committed
    · rw [if_pos hcom] at he hsafe
      obtain ⟨h1, h2, h3, h4, h5, h6, h7, h8⟩ := perstReset_spec s cut
        { (s.perstReset cut).bist with record := (s.perstReset cut).bist.record.map (fun (r : DryRecord) => { r with state := 0x00 }) }
      exact ⟨_, he, h1, h2, h3, h4, h5, h6, hsafe, h7, h8⟩
    · rw [if_neg hcom] at he hsafe
      obtain ⟨h1, h2, h3, h4, h5, h6, h7, h8⟩ := perstReset_spec s cut (s.perstReset cut).bist
      exact ⟨_, he, h1, h2, h3, h4, h5, h6, hsafe, h7, h8⟩
  · exact congrArg Host.Outcome.next ((if_neg hrole).trans ((if_pos hst).trans (if_pos hlink)))
  · have hgo : ∀ req, cfgFunc req = 0 → exec (.configRequest req) s = .next ((s.leaveL1.configure req).emit .cfgDone) :=
      fun req hf => exec_configRequest_of_hostUp hrole hup (.inl hf)
    refine ⟨hgo .other rfl, fun f r hf => exec_configRequest_of_hostUp hrole hup hf, fun f r hf hvf => ?_,
      fun rid => hgo (.assign rid) rfl, fun on => hgo (.memorySpace on) rfl, fun on => hgo (.vfMemorySpace on) rfl,
      fun i v hi => ?_, fun v hdbg => ?_, fun p r relaxed => ⟨_, hgo (.deviceControl p r relaxed) rfl, rfl, rfl, rfl, rfl⟩,
      fun n d => hgo (.completionTimeout n d) rfl, fun g c => hgo (.ecrc g c) rfl, fun on => hgo (.aspmL1 on) rfl,
      hgo (.vfEnable true) rfl, hgo .pmeStatusClear rfl, fun f en m hf => ?_⟩
    · have hlive : s.pwr.start.isSome = false := start_of_hostUp hup
      obtain ⟨hlog, hout, -⟩ := State.misbehave_of_hostUp (s := ({ s with free := s.free + 2 } : State).emit .ur) hup 0x04 1 f.val
        s.anyTlp.1
      obtain ⟨hr, hwr, -⟩ := hlog.of_emit
      refine ⟨_, congrArg Host.Outcome.next ((if_neg hrole).trans ((if_neg (by simp [hlive])).trans ((if_neg (by simp [hup])).trans
        (if_pos ⟨hf, by simp [hvf]⟩)))), hout _ (List.mem_cons_self ..), hwr, ?_⟩
      exact ReportOnly.with_free hr
    · exact (hgo (.bar i v) rfl).trans (congrArg (fun u : State => Host.Outcome.next (u.emit .cfgDone)) (if_neg fun h => hi h.1))
    · exact (hgo (.bar 2 v) rfl).trans (congrArg (fun u : State => Host.Outcome.next (u.emit .cfgDone)) (if_pos ⟨rfl, by simp [hdbg]⟩))
    · obtain ⟨hen, hfm⟩ := Prod.mk.inj (flushMsix_controls ({ s.leaveL1 with hif := { s.leaveL1.hif with
        msixEn := s.hif.msixEn.set f.val en, msixFm := s.hif.msixFm.set f.val m } } : State) f.val)
      exact ⟨_, exec_configRequest_of_hostUp hrole hup (req := .msixControl f en m) hf, hen, hfm, rfl⟩
  · refine ⟨rfl, ?_, rfl, rfl, rfl, ?_, fun hdbg => ?_, fun f hf => ⟨rfl, ?_⟩, fun c hc => ?_, fun c hc => ?_⟩
    · simp [State.readCfg, fieldsWord, Nat.add_comm]
    · simp [State.readCfg, fieldsWord, msixCount, Nat.add_assoc]
    · simp [State.readCfg, State.barReg, hdbg, halfWord]
    · simp [State.readCfg, hf, capPresent, fieldsWord, b2n]
    · fin_cases hc <;> rfl
    · fin_cases hc <;> rfl

end Sys2Proof.Machine
end

section
/-! PROOFS. Requests of PWR_CTRL, the end of a clock switch, and the domains that switch. -/

namespace Sys2Proof.Machine

set_option Elab.async false

variable {s t : State}

/-- A write of PWR_CTRL acts in every state in which the host interface is up. -/
theorem island_answers_of_reaches {f : Nat} (h : s.reaches f = true) : s.answers .island = true := by
  obtain ⟨hup, -⟩ : s.hostUp = true ∧ s.decodes f = true := (Bool.and_eq_true _ _).mp h
  simp only [State.hostUp, Bool.and_eq_true, bne_iff_ne] at hup
  obtain ⟨⟨-, hsentry⟩, hoff⟩ := hup
  unfold State.answers
  cases hd : s.pwr.dev <;> simp_all
  split <;> exact .inr rfl

/-- A write to a register of the island acts with the link awake, and triggers nothing. -/
theorem hostAccess_island {f : Nat} (h : s.reaches f = true) (tlp : Option Tlp) (k : State → State) :
    s.hostAccess f tlp .island k = k s.leaveL1 := by
  rw [State.hostAccess_of_reaches h, State.access_of_answers (b := .island) (by simpa using island_answers_of_reaches h), if_pos rfl]

/-- LTR changes what is sent and wakes the link. -/
theorem sendLtr_eq (s : State) : s.sendLtr = { s with
    out := s.sendLtr.out
    hif := { s.hif with inL1 := s.sendLtr.hif.inL1, inL11 := s.sendLtr.hif.inL11, inL12 := s.sendLtr.hif.inL12 } } := by
  unfold State.sendLtr
  split
  · rfl
  · split <;> rfl

/-- The clock switched to that of a state. -/
def State.switched (s : State) (d : DevState) : State :=
  { s with
    pwr := { s.pwr with dev := d, prev := if d = s.pwr.dev then s.pwr.prev else s.pwr.dev, fclkTo := none, reqResult := .done }
    cmds := s.cmds.map (fun (c : Cmd) => match c.body with
      | .run r => { c with body := .run { r with lateCause := 0 } }
      | _ => c) }

/-- Settles O17: each request by the state it finds, and the switch by what FCLK_SWITCH_DONE writes. -/
theorem clocksRequested : Obligations.ClocksRequested := by
  refine ⟨fun s hr => ?_, fun s d hto hev => ?_⟩
  · have hgo : ∀ k : State → State, s.hostAccess 0 none .island k = k s.leaveL1 := hostAccess_island hr none
    have hreq : ∀ d v, s.leaveL1.reqRun d = v → (d = .run → exec .pwrReqRun s = .next v) ∧ (d = .economy → exec .pwrReqEconomy s = .next v) := by
      rintro d v rfl
      refine ⟨?_, ?_⟩ <;> rintro rfl <;> exact congrArg Host.Outcome.next (hgo _)
    refine ⟨fun hd => ?_, fun hd hto => ?_, fun hd hto => ?_, fun hd => ?_, fun hd hfit => ?_, fun hd hover => ?_,
      congrArg Host.Outcome.next (hgo _)⟩
    · have hrefuse : ∀ d, s.leaveL1.reqRun d = s.leaveL1.reqResult .refusedState := fun d => by
        unfold State.reqRun
        rcases hd with hd | hd <;> simp only [State.leaveL1_pwr_eq, hd]
      exact ⟨(hreq _ _ (hrefuse .run)).1 rfl, (hreq _ _ (hrefuse .economy)).2 rfl⟩
    · refine (hreq .run _ ?_).1 rfl
      simp [State.reqRun, hd]
      rfl
    · refine (hreq .run _ ?_).1 rfl
      simp [State.reqRun, hd, hto]
      rfl
    · refine (hreq .run _ ?_).1 rfl
      simp [State.reqRun, hd]
    · refine (hreq .economy _ ?_).2 rfl
      have hfit' : s.leaveL1.economyOverruns = false := hfit
      simp [State.reqRun, hd, hfit']
      rfl
    · refine (hreq .economy _ ?_).2 rfl
      have hover' : s.leaveL1.economyOverruns = true := hover
      simp [State.reqRun, hd, hover']
      rfl
  · have he : exec .fclkSwitchDone s = .next (match s.pwr.fclkTo with
      | none => s
      | some d => if !s.evals.isEmpty then s else (s.switched d).notePeak.sendLtr) := rfl
    rw [hto] at he
    have hgo := he.trans (congrArg Host.Outcome.next (if_neg (by simp [hev])))
    refine ⟨_, hgo, ?_⟩
    rw [sendLtr_eq]
    exact ⟨rfl, rfl, rfl, rfl, rfl⟩

/-- Whether a terrace is charging. -/
def TerPower.isCharging : TerPower → Bool
  | .charging _ => true
  | _ => false

theorem chargingCount_eq (s : State) : s.chargingCount = s.pwr.terraces.countP TerPower.isCharging := by
  rw [List.countP_eq_length_filter]
  unfold State.chargingCount
  rfl

/-- One terrace set charging counts one more at most. -/
theorem countP_set_le (l : List TerPower) (k : Nat) (p : TerPower) :
    (l.set k p).countP TerPower.isCharging ≤ l.countP TerPower.isCharging + 1 := by
  by_cases hk : k < l.length
  · have hone : (if p.isCharging = true then 1 else 0) ≤ 1 := by split <;> decide
    rw [List.countP_set hk]
    omega
  · rw [List.set_eq_of_length_le (by omega)]
    omega

/-- A terrace that is not charging once set counts no more. -/
theorem countP_set_of_not {p : TerPower} (h : p.isCharging = false) (l : List TerPower) (k : Nat) :
    (l.set k p).countP TerPower.isCharging ≤ l.countP TerPower.isCharging := by
  by_cases hk : k < l.length
  · rw [List.countP_set hk, h]
    simp
  · rw [List.set_eq_of_length_le (by omega)]

/-- The power of a terrace that was not set. -/
theorem terPower_setTerPower_of_ne (s : State) {j k : Nat} (h : j ≠ k) (p : TerPower) :
    (s.setTerPower k p).terPower j = s.terPower j := by
  simp [State.terPower, State.setTerPower, List.getD_eq_getElem?_getD, List.getElem?_set_ne (Ne.symm h)]

/-- The power of a terrace that was set. -/
theorem terPower_setTerPower_self (s : State) {k : Nat} (hk : k < s.pwr.terraces.length) (p : TerPower) :
    (s.setTerPower k p).terPower k = p := by
  simp [State.terPower, State.setTerPower, List.getD_eq_getElem?_getD, hk]

/-- Staging sets terraces of the queue alone, and never more than STAGE_MAX charge. -/
theorem stageMore_spec (fuel : Nat) (s : State) (h : s.chargingCount ≤ s.pwr.stageMax) :
    (s.stageMore fuel).pwr.stageMax = s.pwr.stageMax ∧ (s.stageMore fuel).chargingCount ≤ s.pwr.stageMax ∧
    ∀ j, j ∉ s.pwr.stageQ → (s.stageMore fuel).terPower j = s.terPower j := by
  induction fuel generalizing s with
  | zero => exact ⟨rfl, h, fun _ _ => rfl⟩
  | succ n ih =>
    unfold State.stageMore
    split
    · exact ⟨rfl, h, fun _ _ => rfl⟩
    · next k q hq =>
      split
      · next hroom =>
        have hcount : (({ s with pwr := { s.pwr with stageQ := q } } : State).setTerPower k (.charging s.tmr.uptime)).chargingCount ≤
            s.pwr.stageMax := by
          rw [chargingCount_eq] at hroom ⊢
          exact (countP_set_le _ _ _).trans hroom
        obtain ⟨hmax, hle, hsame⟩ := ih (({ s with pwr := { s.pwr with stageQ := q } } : State).setTerPower k _) hcount
        refine ⟨hmax, hle, fun j hj => ?_⟩
        rw [hq, List.mem_cons, not_or] at hj
        exact (hsame j hj.2).trans (terPower_setTerPower_of_ne _ hj.1 _)
      · exact ⟨rfl, h, fun _ _ => rfl⟩

/-- With no packet for another device in transit the bridge has none to take. -/
theorem flushBridge_of_local (h : ∀ p ∈ s.rill, s.isMe p.dstDev = true) : s.flushBridge = s := by
  have hout : s.rill.filter (fun p => !s.isMe p.dstDev && s.wayClear p) = [] :=
    List.filter_eq_nil_iff.mpr fun p hp => by simp [h p hp]
  unfold State.flushBridge
  rw [hout]
  rfl

/-- Settles O18: terraces by the staging queue, peripheries by their table. -/
theorem switchedDomains : Obligations.SwitchedDomains := by
  intro s
  refine ⟨fun k since hch hq hmax hlocal => ?_, fun k hgood hun => ?_, fun k hused => ?_, fun b token htok => ⟨fun hbusy => ?_,
    fun hfree => ?_⟩, fun b hwake => ?_⟩
  · have hk : k.val < s.pwr.terraces.length := by
      by_contra hge
      rw [State.terPower, List.getD_eq_getElem?_getD, List.getElem?_eq_none (by omega)] at hch
      cases hch
    have hcount : (s.setTerPower k.val .good).chargingCount ≤ s.pwr.stageMax := by
      rw [chargingCount_eq] at hmax ⊢
      exact (countP_set_of_not rfl _ _).trans hmax
    obtain ⟨hsm, hle, hsame⟩ := stageMore_spec 64 (s.setTerPower k.val .good) hcount
    have heq := State.stageMore_eq_pwr 64 (s.setTerPower k.val .good)
    have he : exec (.terracePowerGood k) s = .next (match s.terPower k.val with
      | .charging _ => ((State.stageMore 64 (s.setTerPower k.val .good)).notePeak).flushBridge
      | _ => s) := rfl
    rw [hch] at he
    have hnamed : ∃ u, u = (s.setTerPower k.val .good).stageMore 64 := ⟨_, rfl⟩
    obtain ⟨u, hu⟩ := hnamed
    rw [← hu] at heq hsm hle hsame
    have hrill : u.notePeak.flushBridge = u.notePeak := by
      refine flushBridge_of_local ?_
      rw [heq]
      exact hlocal
    dsimp only at he
    rw [← hu, hrill] at he
    refine ⟨_, he, (hsame k.val hq).trans (terPower_setTerPower_self s hk .good), hle.trans_eq hsm.symm, fun j hj hjq =>
      (hsame j hjq).trans (terPower_setTerPower_of_ne s hj .good), ?_⟩
    rw [heq]
    rfl
  · exact congrArg Host.Outcome.next (if_pos ⟨hgood, by simp [hun]⟩)
  · exact congrArg Host.Outcome.next (if_neg (by simp [hused]))
  · have he : exec (.peripheryHoldExpire b) s = .next (match Tab.get? s.pwr.periph b.val with
      | some (.good token) => if s.basinBusy b.val then s
        else if token then { s with pwr := { s.pwr with periph := Tab.set s.pwr.periph b.val (.good false) } }
        else { s with pwr := { s.pwr with periph := Tab.del s.pwr.periph b.val } }
      | _ => s) := rfl
    rw [htok] at he
    exact he.trans (congrArg Host.Outcome.next (if_pos hbusy))
  · have he : exec (.peripheryHoldExpire b) s = .next (match Tab.get? s.pwr.periph b.val with
      | some (.good token) => if s.basinBusy b.val then s
        else if token then { s with pwr := { s.pwr with periph := Tab.set s.pwr.periph b.val (.good false) } }
        else { s with pwr := { s.pwr with periph := Tab.del s.pwr.periph b.val } }
      | _ => s) := rfl
    rw [htok] at he
    have hgo := he.trans (congrArg Host.Outcome.next (if_neg (by simp [hfree])))
    cases token with
    | true => exact ⟨_, hgo, (Tab.get?_set _ _ _ _).trans (if_pos rfl), fun n hn => (Tab.get?_set _ _ _ _).trans (if_neg hn), rfl⟩
    | false => exact ⟨_, hgo, (Tab.get?_del _ _ _).trans (if_pos rfl), fun n hn => (Tab.get?_del _ _ _).trans (if_neg hn), rfl⟩
  · have he : exec (.peripheryPowerGood b) s = .next (match Tab.get? s.pwr.periph b.val with
      | some .waking => { s with pwr := { s.pwr with periph := Tab.set s.pwr.periph b.val (.good true) } }
      | _ => s) := rfl
    rw [hwake] at he
    exact ⟨_, he, (Tab.get?_set _ _ _ _).trans (if_pos rfl), fun n hn => (Tab.get?_set _ _ _ _).trans (if_neg hn), rfl⟩

end Sys2Proof.Machine
end

section
/-! PROOFS. The steps that the rings' bookkeeping is made of: what every one of them keeps, the bookkeeping keeps. -/

namespace Sys2Proof.Machine

set_option Elab.async false

/-- What no bookkeeping changes of a ring: its configuration, and whether it is halted. -/
def Ring.fixed (r : Ring) : RingConfig × Bool := (r.config, r.halted)

/-- One step of the rings' bookkeeping. -/
inductive BookStep : State → State → Prop
  | ring (s : State) (g : Nat) (f : Ring → Ring) (hf : ∀ r, (f r).fixed = r.fixed) : BookStep s (s.updRing g f)
  | sent (s : State) (e : Emit) : BookStep s (s.emit e)
  | held (s : State) (p : Posted) : BookStep s { s with postQ := s.postQ ++ [p] }
  | credit (s : State) (n : Option Nat) : BookStep s { s with fc := n }
  | host (s : State) (h : Hif) (hh : h = { s.hif with inL1 := h.inL1, inL11 := h.inL11, inL12 := h.inL12, vlog := h.vlog, vlogWr := h.vlogWr, vlogRd := h.vlogRd, vlogLost := h.vlogLost, devStat := h.devStat, msix := h.msix, pmeStatus := h.pmeStatus })
      (hd : ∀ k, s.hif.devStat.getLsbD k = true → h.devStat.getLsbD k = true := by exact fun _ h => h) : BookStep s { s with hif := h }
  | counts (s : State) (a b c d : Nat) : BookStep s { s with slc := { s.slc with refCap := a, refDl := b, refPow := c, late := d } }
  | ended (s : State) (cs : List Cmd) (hc : ∀ y ∈ cs, ∃ x ∈ s.cmds, y = { x with held := y.held }) : BookStep s { s with cmds := cs }
  | closed (s : State) (p : Session → Bool) : BookStep s { s with wpe := { s.wpe with sessions := s.wpe.sessions.filter p } }
  | idle (s : State) : BookStep s { s with wpe := { s.wpe with powered := false } }
  | noted (s : State) (a b : Nat) : BookStep s (s.lcsLast a b)
  | dropped (s : State) (l : List Nat) : BookStep s { s with dropped := l }
  | fetched (s : State) (n : Nat) : BookStep s { s with fetches := n }

/-- The rings' bookkeeping: steps, one after another. -/
inductive Books : State → State → Prop
  | refl (s : State) : Books s s
  | tail {s t u : State} : Books s t → BookStep t u → Books s u

variable {s t u : State}

theorem BookStep.books (h : BookStep s t) : Books s t := .tail (.refl s) h

theorem Books.trans (h : Books s t) (k : Books t u) : Books s u := by
  induction k with
  | refl => exact h
  | tail _ hstep ih => exact ih.tail hstep

/-- What every step keeps, the bookkeeping keeps. -/
theorem Books.keeps {R : State → State → Prop} (hr : ∀ s, R s s) (ht : ∀ s t u, R s t → R t u → R s u)
    (hs : ∀ s t, BookStep s t → R s t) (h : Books s t) : R s t := by
  induction h with
  | refl => exact hr _
  | tail _ hstep ih => exact ht _ _ _ ih (hs _ _ hstep)

theorem Books.ite {c : Prop} [Decidable c] (h : Books s t) (k : Books s u) : Books s (if c then t else u) := by
  split
  · exact h
  · exact k

theorem Books.foldl {α : Type} {l : List α} {f : State → α → State} (h : Books s t) (hf : ∀ u a, Books u (f u a)) :
    Books s (l.foldl f t) := by
  induction l generalizing t with
  | nil => exact h
  | cons a l ih => exact ih (h.trans (hf t a))

theorem leaveL1_books (s : State) : Books s s.leaveL1 := (BookStep.host s _ rfl).books

theorem emit_books (s : State) (e : Emit) : Books s (s.emit e) := (BookStep.sent s e).books

theorem post_books (s : State) (e : Emit) (c src : Option (Nat × Nat)) : Books s (s.post e c src) := by
  unfold State.post
  dsimp only
  split
  · exact (leaveL1_books s).tail (.sent _ e)
  · exact (leaveL1_books s).tail (.held _ _)
  · split
    · exact ((leaveL1_books s).tail (.sent _ e)).tail (.credit _ _)
    · exact (leaveL1_books s).tail (.held _ _)

theorem postWrite_books (s : State) (f : Nat) (a : DWord) (b : List Byte) (r : Bool) (c src : Option (Nat × Nat)) :
    Books s (s.postWrite f a b r c src) := by
  unfold State.postWrite
  exact (Books.refl s).foldl fun u x => post_books u x.1 x.2 src

theorem issueRead_books (s : State) (f : Nat) (a : DWord) (n : Nat) : Books s (s.issueRead f a n) := by
  unfold State.issueRead
  exact (Books.refl s).foldl fun u x => (leaveL1_books u).tail (.sent _ _)

theorem signal_books (s : State) (f e : Nat) : Books s (s.signal f e) := by
  unfold State.signal
  split
  · exact .refl s
  · split
    · exact (BookStep.host s _ rfl).books
    · exact post_books s _ _ _

theorem devVec_books (s : State) (k : Nat) : Books s (s.devVec k) := by
  unfold State.devVec
  split
  · exact .refl s
  · have hstat : Books s { s with hif := { s.hif with devStat := setBit s.hif.devStat k true } } :=
      (BookStep.host s _ rfl fun _ hj => by rw [setBit, if_pos rfl, BitVec.getLsbD_or, hj, Bool.true_or]).books
    dsimp only
    split
    · exact hstat
    · split
      · exact ((hstat.tail (.host _ { s.hif with devStat := setBit s.hif.devStat k true, pmeStatus := true } rfl (fun _ hj => hj))).tail (.sent _ .pme)).tail
          (.host _ _ rfl)
      · exact hstat.trans (signal_books _ 0 k)

theorem vlog_books (s : State) (kind action rid func ring : Nat) (hdr : BitVec 128) :
    Books s (s.vlog kind action rid func ring hdr) := by
  unfold State.vlog
  exact (BookStep.host s _ rfl).books.trans (devVec_books _ 2)

theorem signalRing_books (s : State) (g : Nat) : Books s (s.signalRing g) :=
  (BookStep.ring s g _ (by intro r; rfl)).books.trans (signal_books _ _ _)

theorem fetchRing_books (s : State) (g : Nat) : Books s (s.fetchRing g) := by
  unfold State.fetchRing
  dsimp only
  refine ((BookStep.ring s g _ ?_).books.tail (.fetched _ (s.fetches + 1))).trans (issueRead_books _ _ _ _)
  intro r
  rfl

theorem fetchAll_books (n : Nat) (s : State) : Books s (State.fetchAll n s) := by
  induction n generalizing s with
  | zero => exact .refl s
  | succ n ih =>
    unfold State.fetchAll
    split
    · exact .refl s
    · exact (fetchRing_books s _).trans (ih _)

theorem fetchList_books (s : State) (g : Nat) : Books s (s.fetchList g) := by
  unfold State.fetchList
  split
  · exact .refl s
  · split
    · exact .refl s
    · exact (BookStep.ring s g _ (by intro r; rfl)).books.trans (issueRead_books _ _ _ _)

theorem fetchWork_books (s : State) : Books s s.fetchWork :=
  ((Books.refl s).foldl (l := s.rings) fun u e => fetchList_books u e.1).trans (fetchAll_books _ _)

theorem dropResults_books (s : State) (c : Option Nat) (g : Nat) : Books s (s.dropResults c g) := by
  unfold State.dropResults
  dsimp only
  split
  · exact vlog_books s _ _ _ _ _ _
  · split
    · exact .refl s
    · exact (BookStep.dropped s _).books.trans (vlog_books _ _ _ _ _ _ _)

theorem writeRecord_books (s : State) (g tag op : Nat) (inList irqNow detached : Bool) (cid : Option Nat)
    (start evals skipped : Nat) (e : End) :
    Books s (s.writeRecord g tag op inList irqNow detached cid start evals skipped e) := by
  unfold State.writeRecord
  dsimp only
  split
  · exact .refl s
  · split
    · exact dropResults_books s _ _
    · have hrec : ∀ k c src (f : Ring → Ring), (∀ r, (f r).fixed = r.fixed) → Books s ((s.post k c src).updRing g f) :=
        fun k c src f hf => (post_books s k c src).tail (.ring _ g f hf)
      refine Books.ite ((hrec _ _ _ _ ?_).trans (signalRing_books _ g)) (hrec _ _ _ _ ?_) <;> exact fun r => rfl

theorem countEnd_books (s : State) (k : Nat) : Books s (s.countEnd k) := (BookStep.counts s _ _ _ _).books

theorem ringIdle_books (s : State) (g : Nat) : Books s (s.ringIdle g) := by
  unfold State.ringIdle
  exact (BookStep.ring s g _ (by intro r; rfl)).books.ite (.refl s)

theorem weightEvent_books (s : State) (x : Cmd) : Books s (s.weightEvent x) := by
  unfold State.weightEvent
  exact (devVec_books s 7).ite (.refl s)

theorem noteLifecycle_books (s : State) (p : List Byte) (e : End) : Books s (s.noteLifecycle p e) := by
  unfold State.noteLifecycle
  exact (BookStep.noted s _ _).books.ite (.refl s)

theorem endCmd_books (s : State) (c : Nat) (e : End) : Books s (s.endCmd c e) := by
  unfold State.endCmd
  split
  · exact .refl s
  · split
    · refine (BookStep.ended s _ fun y hy => ?_).books
      obtain ⟨x, hx, rfl⟩ := List.mem_map.mp hy
      refine ⟨x, hx, ?_⟩
      split <;> rfl
    · have hcmds : Books s { s with cmds := s.cmds.filter (fun y => y.cid != c) } :=
        (BookStep.ended s _ fun y hy => ⟨y, List.mem_of_mem_filter hy, rfl⟩).books
      exact ((((hcmds.tail (.ring _ _ _ (by intro r; rfl))).trans (countEnd_books _ _)).trans
        (writeRecord_books _ _ _ _ _ _ _ _ _ _ _ _)).trans (ringIdle_books _ _)).trans (weightEvent_books _ _)

theorem closeLists_books (n : Nat) (s : State) : Books s (State.closeLists n s) := by
  induction n generalizing s with
  | zero => exact .refl s
  | succ n ih =>
    unfold State.closeLists
    split
    · exact .refl s
    · exact (endCmd_books s _ _).trans (ih _)

theorem wpeIdle_books (s : State) : Books s s.wpeIdle := by
  unfold State.wpeIdle
  exact (BookStep.idle s).books.ite (.refl s)

theorem closeSessions_books (n : Nat) (s : State) : Books s (State.closeSessions n s) := by
  induction n generalizing s with
  | zero => exact .refl s
  | succ n ih =>
    unfold State.closeSessions
    split
    · exact .refl s
    · exact (((BookStep.closed s _).books.trans (endCmd_books _ _ _)).trans (wpeIdle_books _)).trans (ih _)

theorem consume_fixed (r : Ring) (n : Nat) : (r.consume n).fixed = r.fixed := by
  unfold Ring.fixed
  rw [consume_config]
  unfold Ring.consume
  split <;> rfl

theorem rejectPacket_books (s : State) (g : Nat) (p : List Byte) (d n : Nat) (e : End) : Books s (s.rejectPacket g p d n e) :=
  (((noteLifecycle_books s p e).trans (countEnd_books _ _)).tail (.ring _ g _ (fun r => consume_fixed r n))).trans
    (writeRecord_books _ _ _ _ _ _ _ _ _ _ _ _)

theorem rejectHead_books (g : Nat) (h : s.rejectHead g = some t) : Books s t := by
  unfold State.rejectHead at h
  split at h
  · cases h
  · dsimp only at h
    split at h
    · obtain ⟨e, _, rfl⟩ := Option.map_eq_some_iff.mp h
      exact rejectPacket_books s g _ _ _ e
    · cases h

theorem settleLoop_books (n : Nat) (s : State) (g : Nat) : Books s (State.settleLoop n s g) := by
  induction n generalizing s with
  | zero => exact .refl s
  | succ n ih =>
    unfold State.settleLoop
    split
    · exact .refl s
    · next h => exact (rejectHead_books g h).trans (ih _)

theorem settle_books (s : State) (g : Nat) : Books s (s.settle g) :=
  ((settleLoop_books _ s g).trans (closeLists_books 3 _)).trans (fetchWork_books _)

theorem finish_books (s : State) (c : Nat) (e : End) : Books s (s.finish c e) := by
  unfold State.finish
  split
  · exact .refl s
  · exact (((endCmd_books s c e).trans (closeLists_books 3 _)).trans (closeSessions_books 4 _)).trans (settle_books _ _)

theorem dmaWrite_books (s : State) (c : Nat) (a : DWord) (b : List Byte) (r : Bool) : Books s (s.dmaWrite c a b r) := by
  unfold State.dmaWrite
  split
  · exact .refl s
  · split
    · exact dropResults_books s _ _
    · exact postWrite_books s _ _ _ _ _ _

/-! ### What the bookkeeping keeps -/

/-- Everything that no bookkeeping step touches. -/
def State.sansBooks (s : State) : State :=
  { s.sansLedger with nextCid := s.nextCid, slc := { s.sansLedger.slc with waiting := s.slc.waiting } }

theorem Books.agrees (h : Books s t) : Agrees State.sansBooks s t := by
  refine h.keeps (R := Agrees State.sansBooks) Agrees.refl (fun _ _ _ => Agrees.trans) fun s t hstep => ?_
  cases hstep with
  | host h hh hd =>
    unfold Agrees State.sansBooks State.sansLedger
    rw [hh]
  | _ => exact rfl

/-- What the bookkeeping leaves, seen through any observation of it. -/
theorem Books.view {α : Type} {view : State → α} (h : Books s t) (hv : ∀ u, view u = view u.sansBooks := by intro u; rfl) :
    Agrees view s t := (hv t).trans ((congrArg view h.agrees).trans (hv s).symm)

/-- The configuration of every ring stays, and a halted ring stays halted, any other not. -/
theorem Books.fixed (h : Books s t) (g : Nat) : (t.ring g).fixed = (s.ring g).fixed := by
  refine h.keeps (R := fun s t => (t.ring g).fixed = (s.ring g).fixed) (fun _ => rfl) (fun _ _ _ a b => b.trans a) fun s t hstep => ?_
  cases hstep with
  | ring k f hf =>
    rw [ring_updRing]
    split
    · next hk => rw [hk, hf]
    · rfl
  | _ => rfl

/-- The configuration of every ring stays. -/
theorem Books.config (h : Books s t) (g : Nat) : (t.ring g).config = (s.ring g).config := congrArg Prod.fst (h.fixed g)

/-- What is emitted stays emitted. -/
theorem Books.out (h : Books s t) : s.out ⊆ t.out := by
  refine h.keeps (R := fun s t => s.out ⊆ t.out) (fun _ => List.Subset.refl _) (fun _ _ _ => List.Subset.trans) fun s t hstep => ?_
  cases hstep with
  | sent e => exact List.subset_cons_self ..
  | _ => exact List.Subset.refl _

/-- What is sent stays sent. -/
theorem Books.sends {x : Emit} (h : Books s t) (hx : s.sends x) : t.sends x := by
  refine h.keeps (R := fun s t => s.sends x → t.sends x) (fun _ => id) (fun _ _ _ a b => b ∘ a) (fun s t hstep hx => ?_) hx
  cases hstep with
  | sent e => exact emit_sends e hx
  | held p => exact hx.imp id fun hq => by simpa using .inl (by simpa using hq)
  | _ => exact hx

/-- Every command in flight after was in flight before. -/
theorem Books.cmds (h : Books s t) : ∀ y ∈ t.cmds, ∃ x ∈ s.cmds, y = { x with held := y.held } := by
  refine h.keeps (R := fun s t => ∀ y ∈ t.cmds, ∃ x ∈ s.cmds, y = { x with held := y.held }) (fun s y hy => ⟨y, hy, rfl⟩)
    (fun _ _ _ a b y hy => ?_) fun s t hstep => ?_
  · obtain ⟨x, hx, hyx⟩ := b y hy
    obtain ⟨w, hw, hxw⟩ := a x hx
    refine ⟨w, hw, ?_⟩
    rw [hyx, hxw]
  · cases hstep with
    | ended cs hc => exact hc
    | _ => exact fun y hy => ⟨y, hy, rfl⟩

/-- A condition of the device stays noted. -/
theorem Books.devStat (h : Books s t) (k : Nat) : s.hif.devStat.getLsbD k = true → t.hif.devStat.getLsbD k = true := by
  refine h.keeps (R := fun s t => s.hif.devStat.getLsbD k = true → t.hif.devStat.getLsbD k = true) (fun _ => id)
    (fun _ _ _ a b => b ∘ a) fun s t hstep => ?_
  cases hstep with
  | host h hh hd => exact hd k
  | _ => exact id

/-- Every session after was open before. -/
theorem Books.sessions (h : Books s t) : t.wpe.sessions ⊆ s.wpe.sessions := by
  refine h.keeps (R := fun s t => t.wpe.sessions ⊆ s.wpe.sessions) (fun _ => List.Subset.refl _) (fun _ _ _ a b => List.Subset.trans b a)
    fun s t hstep => ?_
  cases hstep with
  | closed p => exact fun x hx => List.mem_of_mem_filter hx
  | _ => exact List.Subset.refl _

end Sys2Proof.Machine
end

section
/-! PROOFS. What the Stream Engine's boundaries may touch: the bookkeeping, the streams, and reads that wait. -/

namespace Sys2Proof.Machine

set_option Elab.async false

variable {s t u : State}

/-- Everything but the bookkeeping, the streams and the reads that wait. -/
def State.sansStream (s : State) : State := { s.sansBooks with str := Streams.initial, readQ := [] }

/-- From `s` to `t` only the streams, reads that wait and the bookkeeping have changed, what is sent stays sent, and rings keep their settings. -/
structure StreamOnly (s t : State) : Prop where
  agrees : Agrees State.sansStream s t
  out : s.out ⊆ t.out
  sends : ∀ {x : Emit}, s.sends x → t.sends x
  fixed : ∀ g, (t.ring g).fixed = (s.ring g).fixed
  cmds : ∀ y ∈ t.cmds, ∃ x ∈ s.cmds, y = { x with held := y.held }
  sessions : t.wpe.sessions ⊆ s.wpe.sessions

theorem StreamOnly.refl (s : State) : StreamOnly s s :=
  ⟨rfl, List.Subset.refl _, id, fun _ => rfl, fun y hy => ⟨y, hy, rfl⟩, List.Subset.refl _⟩

theorem StreamOnly.trans (h : StreamOnly s t) (k : StreamOnly t u) : StreamOnly s u :=
  ⟨Agrees.trans h.agrees k.agrees, List.Subset.trans h.out k.out, k.sends ∘ h.sends, fun g => (k.fixed g).trans (h.fixed g), fun y hy => by
    obtain ⟨x, hx, hyx⟩ := k.cmds y hy
    obtain ⟨w, hw, hxw⟩ := h.cmds x hx
    exact ⟨w, hw, by rw [hyx, hxw]⟩, List.Subset.trans k.sessions h.sessions⟩

theorem StreamOnly.ite {c : Prop} [Decidable c] (h : StreamOnly s t) (k : StreamOnly s u) : StreamOnly s (if c then t else u) := by
  split
  · exact h
  · exact k

theorem StreamOnly.foldl {β : Type} {l : List β} {f : State → β → State} (h : StreamOnly s t)
    (hf : ∀ u, ∀ a ∈ l, StreamOnly u (f u a)) : StreamOnly s (l.foldl f t) := by
  induction l generalizing t with
  | nil => exact h
  | cons a l ih => exact ih (h.trans (hf t a List.mem_cons_self)) fun u b hb => hf u b (List.mem_cons_of_mem _ hb)

/-- The bookkeeping within it. -/
theorem Books.stream (h : Books s t) : StreamOnly s t :=
  ⟨h.view (view := State.sansStream), h.out, h.sends, h.fixed, h.cmds, h.sessions⟩

/-- Streams set within it. -/
theorem StreamOnly.setStr (h : StreamOnly s t) (x : Streams) : StreamOnly s { t with str := x } :=
  h.trans ⟨rfl, List.Subset.refl _, id, fun _ => rfl, fun y hy => ⟨y, hy, rfl⟩, List.Subset.refl _⟩

theorem updStream_stream (s : State) (i : Nat) (f : Stream → Stream) : StreamOnly s (s.updStream i f) :=
  (StreamOnly.refl s).setStr _

theorem dmaRead_stream (s : State) (f : Nat) (a : DWord) (n : Nat) : StreamOnly s (s.dmaRead f a n) := by
  unfold State.dmaRead
  exact (issueRead_books s f a n).stream.ite
    ⟨rfl, List.Subset.refl _, id, fun _ => rfl, fun y hy => ⟨y, hy, rfl⟩, List.Subset.refl _⟩

theorem closeSegment_stream (s : State) (i : Nat) (cut : Bool) : StreamOnly s (s.closeSegment i cut) := by
  unfold State.closeSegment
  split
  · exact .refl s
  · exact (updStream_stream s i _).trans (finish_books _ _ _).stream

theorem advanceStream_stream (fuel : Nat) (s : State) (i : Nat) : StreamOnly s (s.advanceStream fuel i) := by
  induction fuel generalizing s with
  | zero => exact .refl s
  | succ n ih =>
    unfold State.advanceStream
    dsimp only
    split
    · exact updStream_stream s i _
    · exact ((updStream_stream s i _).trans (ih _)).ite (((closeSegment_stream s i false).trans (ih _)).ite (.refl s))

theorem updSegment_stream (s : State) (i cid : Nat) (f : Segment → Segment) : StreamOnly s (s.updSegment i cid f) :=
  updStream_stream s i _

theorem prefetch_stream (s : State) (i : Nat) : StreamOnly s (s.prefetch i) := by
  unfold State.prefetch
  dsimp only
  split
  · exact .refl s
  · split
    · exact .refl s
    · exact (updSegment_stream s i _ _).trans (dmaRead_stream _ _ _ _)

theorem cutSegments_stream (s : State) (i k : Nat) : StreamOnly s (s.cutSegments i k) :=
  (StreamOnly.refl s).foldl fun u _ _ => closeSegment_stream u i true

theorem finishes_stream {β : Type} (s : State) (l : List β) (c : β → Nat) (e : β → End) :
    StreamOnly s (l.foldl (fun t a => t.finish (c a) (e a)) s) :=
  (StreamOnly.refl s).foldl fun u a _ => (finish_books u (c a) (e a)).stream

theorem detachStream_stream (s : State) (i : Nat) : StreamOnly s (s.detachStream i) := by
  unfold State.detachStream
  exact (updStream_stream s i _).trans (finishes_stream _ _ (fun (g : Segment) => g.cid) (fun g => g.outcome true))

theorem doStop_stream (s : State) (i cid : Nat) : StreamOnly s (s.doStop i cid) := by
  unfold State.doStop
  exact ((cutSegments_stream s i _).trans (updStream_stream _ i _)).trans (finish_books _ _ _).stream

theorem doJump_stream (s : State) (i cid target : Nat) (atEnd : Bool) : StreamOnly s (s.doJump i cid target atEnd) := by
  unfold State.doJump
  dsimp only
  split
  · exact (updStream_stream s i _).trans (finish_books _ _ _).stream
  · exact ((((updStream_stream s i _).trans (cutSegments_stream _ i _)).trans (updStream_stream _ i _)).trans
      (updStream_stream _ i _)).trans (finish_books _ _ _).stream

theorem boundary_stream (s : State) (i : Nat) : StreamOnly s (s.boundary i) := by
  have hseg : ∀ c : Bool, StreamOnly s (if c then s.closeSegment i false else s) := fun c =>
    StreamOnly.ite (closeSegment_stream s i false) (.refl s)
  have hdet : ∀ c d : Bool, StreamOnly s (if d then (if c then s.closeSegment i false else s).detachStream i
      else if c then s.closeSegment i false else s) := fun c d =>
    StreamOnly.ite ((hseg c).trans (detachStream_stream _ i)) (hseg c)
  unfold State.boundary
  dsimp only
  split
  · split
    · exact (hdet _ _).trans (doStop_stream _ _ _)
    · exact ((hdet _ _).trans (doJump_stream _ _ _ _ _)).trans (advanceStream_stream _ _ _)
    · exact (hdet _ _).trans (advanceStream_stream _ _ _)
  · exact advanceStream_stream _ _ _

theorem takeUnit_stream (s : State) (i : Nat) : StreamOnly s (s.takeUnit i).1 := by
  unfold State.takeUnit
  dsimp only
  split
  · exact .refl s
  · split
    · exact (updStream_stream s i _).trans (dmaWrite_books _ _ _ _ _).stream
    · exact updStream_stream s i _

theorem pumpLoop_stream (fuel : Nat) (s : State) (i : Nat) : StreamOnly s (s.pumpLoop fuel i) := by
  induction fuel generalizing s with
  | zero => exact .refl s
  | succ n ih =>
    unfold State.pumpLoop
    dsimp only
    split
    · exact (((takeUnit_stream s i).trans (advanceStream_stream _ _ _)).trans (ih _)).ite (.refl s)
    · exact .refl s

theorem pump_stream (s : State) (i : Nat) : StreamOnly s (s.pump i) := by
  unfold State.pump
  dsimp only
  split
  · exact .refl s
  · split
    · exact prefetch_stream s i
    · exact ((boundary_stream s i).trans (pumpLoop_stream _ _ _)).trans (prefetch_stream _ _)

theorem latchStop_stream (s : State) (i cid : Nat) : StreamOnly s (s.latchStop i cid) := by
  unfold State.latchStop
  dsimp only
  split
  · exact .refl s
  · exact ((updStream_stream s i _).trans (finishes_stream _ _ (fun c => c) (fun _ => endOf stCancelled 0))).trans (pump_stream _ _)

theorem stopStreams_stream (s : State) (p : Stream → Bool) : StreamOnly s (s.stopStreams p) :=
  (StreamOnly.refl s).foldl fun u i _ => (latchStop_stream u i 0).ite (.refl u)

end Sys2Proof.Machine
end

section
/-! PROOFS. Entry to DRY: what it leaves. -/

namespace Sys2Proof.Machine

set_option Elab.async false

variable {s t u : State}

/-- Everything but what entry to DRY does after it has set the device's state: the streams, the bookkeeping and the pairs. -/
def State.sansDrain (s : State) : State := { s.sansStream with casc := Casc.initial }

/-- From `s` to `t` only the pairs, the streams, reads that wait and the bookkeeping have changed, and what is sent stays sent. -/
structure DrainOnly (s t : State) : Prop where
  agrees : Agrees State.sansDrain s t
  out : s.out ⊆ t.out

theorem DrainOnly.refl (s : State) : DrainOnly s s := ⟨rfl, List.Subset.refl _⟩

theorem DrainOnly.trans (h : DrainOnly s t) (k : DrainOnly t u) : DrainOnly s u :=
  ⟨Agrees.trans h.agrees k.agrees, List.Subset.trans h.out k.out⟩

theorem DrainOnly.ite {c : Prop} [Decidable c] (h : DrainOnly s t) (k : DrainOnly s u) : DrainOnly s (if c then t else u) := by
  split
  · exact h
  · exact k

theorem DrainOnly.foldl {β : Type} {l : List β} {f : State → β → State} (h : DrainOnly s t) (hf : ∀ u a, DrainOnly u (f u a)) :
    DrainOnly s (l.foldl f t) := by
  induction l generalizing t with
  | nil => exact h
  | cons a l ih => exact ih (h.trans (hf t a))

theorem StreamOnly.drain (h : StreamOnly s t) : DrainOnly s t :=
  ⟨h.agrees.of ⟨fun u => { u with casc := Casc.initial }, fun _ => rfl⟩, h.out⟩

theorem Books.drain (h : Books s t) : DrainOnly s t := h.stream.drain

theorem relayDry_drain (s : State) : DrainOnly s s.relayDry := by
  unfold State.relayDry
  exact ((DrainOnly.refl s).foldl fun u d => (emit_books u _).drain).ite (.refl s)

theorem releaseHeld_drain (fuel : Nat) (s : State) : DrainOnly s (s.releaseHeld fuel) := by
  induction fuel generalizing s with
  | zero => exact .refl s
  | succ n ih =>
    have hupd : ∀ c f, DrainOnly s (s.updCmd c f) := fun _ _ => ⟨rfl, List.Subset.refl _⟩
    unfold State.releaseHeld
    split
    · exact .refl s
    · exact ((hupd _ _).trans (finish_books _ _ _).drain).trans (ih _)

theorem mirrorStop_drain (s : State) : DrainOnly s s.mirrorStop := by
  have hpairs : ∀ (u : State) (k : Casc), DrainOnly u { u with casc := k } := fun _ _ => ⟨rfl, List.Subset.refl _⟩
  unfold State.mirrorStop
  exact ((finishes_stream s _ (fun c => c) (fun _ => endState)).drain.trans (hpairs _ _)).trans (releaseHeld_drain _ _)

theorem dryCommands_drain (s : State) : DrainOnly s s.dryCommands := by
  unfold State.dryCommands
  refine (DrainOnly.refl s).foldl fun u c => ?_
  split
  · exact (DrainOnly.refl u).ite (finish_books _ _ _).drain
  · exact .refl u

theorem settleAll_books (s : State) : Books s s.settleAll := (Books.refl s).foldl (l := s.rings) fun u e => settle_books u e.1

/-- Entry to DRY sets the device's state and starts the drain; what follows only ends commands, streams and pairs. -/
theorem enterDry_drain (s : State) : DrainOnly s.leaveL1.dryState s.enterDry :=
  (((((relayDry_drain _).trans (mirrorStop_drain _)).trans (dryCommands_drain _)).trans (stopStreams_stream _ _).drain).trans
    (settleAll_books _).drain)

/-- What a step that leaves all but the drain's bookkeeping keeps. -/
theorem DrainOnly.keeps (h : DrainOnly s t) : t.pwr = s.pwr ∧ t.bist = s.bist ∧ t.slc.waiting = s.slc.waiting ∧ t.graphs = s.graphs ∧
    t.cistern = s.cistern ∧ t.hif.l23 = s.hif.l23 := by
  have hpwr := congrArg State.pwr h.agrees
  have hbist := congrArg State.bist h.agrees
  have hwaiting := congrArg (fun u : State => u.slc.waiting) h.agrees
  have hgraphs := congrArg State.graphs h.agrees
  have hcistern := congrArg State.cistern h.agrees
  have hl23 := congrArg (fun u : State => u.hif.l23) h.agrees
  simp only [State.sansDrain, State.sansStream, State.sansBooks, State.sansLedger] at hpwr hbist hwaiting hgraphs hcistern hl23
  exact ⟨hpwr, hbist, hwaiting, hgraphs, hcistern, hl23⟩

/-- What stands once DRY is entered. -/
structure DryEntered (s t : State) : Prop where
  pwr : t.pwr = s.dryState.pwr
  bist : t.bist = { s.bist with dry := some .drain, dryFails := 0 }
  waiting : t.slc.waiting = []
  graphs : t.graphs = s.graphs
  cistern : t.cistern = s.cistern
  l23 : t.hif.l23 = s.hif.l23
  out : s.out ⊆ t.out

theorem enterDry_spec (s : State) : DryEntered s s.enterDry :=
  have h := enterDry_drain s
  have ⟨hpwr, hbist, hwait, hgraphs, hcistern, hl23⟩ := h.keeps
  ⟨hpwr, hbist, hwait, hgraphs, hcistern, hl23, h.out⟩

end Sys2Proof.Machine
end

section
/-! PROOFS. DOZE: its entry, its requests and the exit. -/

namespace Sys2Proof.Machine

set_option Elab.async false

variable {s t u : State}

/-- PWR apart from the terraces' staging and the estimate's peak. -/
def Power.sansStage (p : Power) : Power := { p with terraces := [], stageQ := [], peak := 0, estFormed := false }

theorem stageMore_sansStage (fuel : Nat) (s : State) : (s.stageMore fuel).pwr.sansStage = s.pwr.sansStage := by
  induction fuel generalizing s with
  | zero => rfl
  | succ n ih =>
    unfold State.stageMore
    split
    · rfl
    · split
      · exact (ih _).trans rfl
      · rfl

/-- Terraces that are needed change the staging and the estimate's peak alone. -/
theorem needTerraces_sansStage (s : State) (ts : List Nat) : (s.needTerraces ts).pwr.sansStage = s.pwr.sansStage := by
  have hone : ∀ (u : State) k, (u.needTerrace k).pwr.sansStage = u.pwr.sansStage := fun u k => by
    unfold State.needTerrace
    split
    · exact (stageMore_sansStage _ _).trans rfl
    · rfl
  have hall : ∀ u : State, (ts.foldl State.needTerrace u).pwr.sansStage = u.pwr.sansStage := by
    induction ts with
    | nil => exact fun _ => rfl
    | cons k ts ih => exact fun u => (ih _).trans (hone u k)
  exact Eq.trans rfl (hall s)

/-- What the exit from DOZE keeps once the state is set: PWR apart from staging, the graphs and the cisterns. -/
def State.exitView (s : State) : Power × List Graph × Memory := (s.pwr.sansStage, s.graphs, s.cistern)

/-- DOZE left for a state. -/
def State.dozeLeft (s : State) (d : DevState) : State :=
  { s with pwr := { s.pwr with dev := d, prev := .doze, dozeExit := none, dryAfterExit := false
                               reqResult := if s.pwr.reqResult = .pending then .done else s.pwr.reqResult } }

/-- What follows the exit from DOZE changes of PWR the staging and the peak alone, and no graph and no cistern. -/
theorem exitWork_agrees (s : State) (ts : List Nat) :
    Agrees State.exitView s (s.needTerraces ts).sendLtr.settleAll.fetchWork.raiseIrq := by
  have hneed : Agrees State.exitView s (s.needTerraces ts) := by
    have h := needTerraces_sansStage s ts
    rw [State.needTerraces_eq_pwr]
    exact congrArg (fun p => (p, s.graphs, s.cistern)) h
  exact (((hneed.trans ((sendLtr_report _).agrees)).trans ((settleAll_books _).view)).trans ((fetchWork_books _).view)).trans (raiseIrq_agrees _)

/-- CLKREQ_N is asserted in RUN, ECONOMY, DRY and FAULT. -/
theorem clkreq_of_awake (h : s.pwr.dev = .run ∨ s.pwr.dev = .economy ∨ s.pwr.dev = .dry) : s.clkreq = true := by
  unfold State.clkreq
  rcases h with h | h | h <;> rw [h]

/-- A request for DOZE acts on the link awake. -/
theorem exec_pwrReqDoze_of_reaches (h : s.reaches 0 = true) : exec .pwrReqDoze s = .next s.leaveL1.reqDoze :=
  congrArg Host.Outcome.next (hostAccess_island h none State.reqDoze)

/-- In RUN and ECONOMY a request for DOZE is judged alike. -/
theorem reqDoze_of_running (h : s.pwr.dev = .run ∨ s.pwr.dev = .economy) : s.reqDoze =
    if s.mirroring || s.portTrained then s.reqResult .refusedMirror
    else if !s.idle || s.pwr.fclkTo.isSome then s.reqResult .refusedState else s.beginDoze.reqResult .pending := by
  unfold State.reqDoze
  rcases h with h | h <;> rw [h]

/-- An idle device mirrors nothing and has no port trained. -/
theorem alone_of_idle (h : s.idle = true) : s.mirroring = false ∧ s.portTrained = false := by
  simp only [State.idle, Bool.and_eq_true, Bool.not_eq_true'] at h
  obtain ⟨⟨-, hmir⟩, hport⟩ := h
  exact ⟨hmir, hport⟩

/-- A request for DOZE by what stands against it. -/
theorem pwrReqDoze_answers (hr : s.reaches 0 = true) (hd : s.pwr.dev = .run ∨ s.pwr.dev = .economy) :
    ((s.mirroring = true ∨ s.portTrained = true) → exec .pwrReqDoze s = .next (s.leaveL1.reqResult .refusedMirror)) ∧
    (s.mirroring = false → s.portTrained = false → (s.idle = false ∨ s.pwr.fclkTo ≠ none) →
      exec .pwrReqDoze s = .next (s.leaveL1.reqResult .refusedState)) ∧
    (s.idle = true → s.pwr.fclkTo = none → exec .pwrReqDoze s = .next (s.leaveL1.beginDoze.reqResult .pending)) := by
  have hgo := (exec_pwrReqDoze_of_reaches hr).trans (congrArg Host.Outcome.next (reqDoze_of_running (s := s.leaveL1) hd))
  have hm : s.leaveL1.mirroring = s.mirroring := rfl
  have hp : s.leaveL1.portTrained = s.portTrained := rfl
  have hi : s.leaveL1.idle = s.idle := rfl
  rw [hm, hp, hi, State.leaveL1_pwr_eq] at hgo
  refine ⟨fun h => ?_, fun h1 h2 h => ?_, fun h hf => ?_⟩
  · exact hgo.trans (congrArg Host.Outcome.next (if_pos (by simpa using h)))
  · refine hgo.trans (congrArg Host.Outcome.next ((if_neg (by simp [h1, h2])).trans (if_pos ?_)))
    simpa [Option.isSome_iff_ne_none] using h
  · obtain ⟨h1, h2⟩ := alone_of_idle h
    exact hgo.trans (congrArg Host.Outcome.next ((if_neg (by simp [h1, h2])).trans (if_neg (by simp [h, hf]))))

/-- DOZE entered. -/
def State.dozeEntered (s : State) : State :=
  { s with
    pwr := { s.pwr with dev := .doze, prev := s.pwr.dev, dozeFrom := s.pwr.dev, dozeEntering := false
                        terraces := List.replicate 64 .off, stageQ := [], periph := []
                        reqResult := if s.pwr.reqResult = .pending then .done else s.pwr.reqResult }
    wpe := { s.wpe with powered := false } }

/-- Settles O16: the entry and its requests by the model's tests, the exit by what follows it. -/
theorem dozeRun : Obligations.DozeRun := by
  refine ⟨fun s => ⟨fun hrun hauto hidle hto hent => ?_, fun hr hd => ?_, fun hent => ?_⟩, fun s d hsane hdoze hexit => ?_⟩
  · exact congrArg Host.Outcome.next (if_pos ⟨hrun, hauto, hidle, hto, by simp [hent]⟩)
  · obtain ⟨hagainst, hbusy, hidle⟩ := pwrReqDoze_answers hr hd
    refine ⟨hagainst, fun h1 h2 h => hbusy h1 h2 (.inl h), fun h hto => ?_, hidle⟩
    exact hbusy (alone_of_idle h).1 (alone_of_idle h).2 (.inr hto)
  · have he : exec .dozeEntryDone s = .next s.dozeEntered.sendLtr :=
      congrArg Host.Outcome.next (if_neg (by simp [hent]))
    refine ⟨_, he, ?_⟩
    rw [sendLtr_eq]
    exact ⟨rfl, rfl, rfl, rfl, fun i => terPower_of_off rfl rfl i, rfl, rfl, rfl⟩
  · obtain ⟨hto, -, hex, -, -⟩ := hsane
    obtain ⟨-, hdrun⟩ := hex d hexit
    have hnoto : s.pwr.fclkTo = none := by
      cases hf : s.pwr.fclkTo with
      | none => rfl
      | some x => rcases (hto x hf).1 with h | h <;> rw [hdoze] at h <;> cases h
    have he : exec .dozeExitDone s = .next (match s.pwr.dozeExit with
      | none => s
      | some d => if s.pwr.dev ≠ .doze then s
        else if s.pwr.dryAfterExit then (((s.dozeLeft d).needTerraces (s.dozeLeft d).heldTers).sendLtr.settleAll.fetchWork.raiseIrq).enterDry
        else ((s.dozeLeft d).needTerraces (s.dozeLeft d).heldTers).sendLtr.settleAll.fetchWork.raiseIrq) := rfl
    rw [hexit] at he
    replace he := he.trans (congrArg Host.Outcome.next (if_neg (by simp [hdoze])))
    have hclk : s.clkreq = true := by
      unfold State.clkreq
      rw [hdoze, hexit]
      exact Bool.or_true _
    have hwork := exitWork_agrees (s.dozeLeft d) (s.dozeLeft d).heldTers
    generalize ((s.dozeLeft d).needTerraces (s.dozeLeft d).heldTers).sendLtr.settleAll.fetchWork.raiseIrq = u at he hwork
    have hpwr : u.pwr.sansStage = (s.dozeLeft d).pwr.sansStage := congrArg (fun v => v.1) hwork
    have hgraphs : u.graphs = s.graphs := congrArg (fun v => v.2.1) hwork
    have hcis : u.cistern = s.cistern := congrArg (fun v => v.2.2) hwork
    have hdev : u.pwr.dev = d := congrArg Power.dev hpwr
    by_cases hdry : s.pwr.dryAfterExit = true
    · have hin := enterDry_spec u
      refine ⟨_, he.trans (congrArg Host.Outcome.next (if_pos hdry)), ?_, hin.graphs.trans hgraphs, hin.cistern.trans hcis, hclk,
        ?_, fun h => (by rw [h] at hdry; cases hdry), fun _ => ?_⟩
      · rw [hin.pwr]
        rfl
      · exact clkreq_of_awake (.inr (.inr (by rw [hin.pwr]; rfl)))
      · rw [hin.pwr]
        have hfu : u.pwr.fclkTo = none := (congrArg Power.fclkTo hpwr).trans hnoto
        exact ⟨rfl, (show u.pwr.fclkTo.getD u.pwr.dev = d by rw [hfu]; exact hdev)⟩
    · refine ⟨_, he.trans (congrArg Host.Outcome.next (if_neg hdry)), congrArg Power.dozeExit hpwr, hgraphs, hcis, hclk,
        clkreq_of_awake ?_, fun _ => ⟨hdev, congrArg Power.prev hpwr, congrArg Power.reqResult hpwr⟩, fun h => absurd h hdry⟩
      rcases hdrun with h | h
      · exact .inl (hdev.trans h)
      · exact .inr (.inl (hdev.trans h))

end Sys2Proof.Machine
end

section
/-! PROOFS. The dry-down from its triggers to DRYDONE. -/

namespace Sys2Proof.Machine

set_option Elab.async false

variable {s t u : State}

/-- Every entry to DRY reads as the start of the drain. -/
theorem DryEntered.reads (h : DryEntered s t) : t.pwr.dev = .dry ∧ t.bist.dry = some .drain ∧ t.pwr.dozeEntering = false ∧
    t.pwr.fclkTo = none := by
  rw [h.pwr, h.bist]
  exact ⟨rfl, rfl, rfl, rfl⟩

/-- In RUN and ECONOMY a PME_Turn_Off in D3hot is acknowledged and enters DRY. -/
theorem exec_pmeTurnOff_of_running (tlp : Tlp) (hup : s.hostUp = true) (hd3 : s.hif.d3hot = true)
    (hd : s.pwr.dev = .run ∨ s.pwr.dev = .economy) : ∃ u : State, exec (.pmeTurnOff tlp) s = .next u.enterDry ∧ u.hif.l23 = true ∧
      Emit.pmeToAck ∈ u.out ∧ Emit.l23Request ∈ u.out := by
  refine ⟨(({ s with hif := { s.hif with l23 := true } } : State).emit .pmeToAck).emit .l23Request, ?_, rfl,
    List.mem_cons_of_mem _ List.mem_cons_self, List.mem_cons_self⟩
  refine congrArg Host.Outcome.next ((if_neg (by simp [hup])).trans ((if_neg (by simp [hd3])).trans ?_))
  have hdev : ((({ s with hif := { s.hif with l23 := true } } : State).emit .pmeToAck).emit .l23Request).pwr.dev = s.pwr.dev := rfl
  rcases hd with h | h
  · rw [h]
  · rw [h]

/-- Where a SHUTDOWN is ready, DRY is entered with its command noted. -/
theorem exec_shutdown_of_ready {g : Fin 1024} {p : List Byte} (h : s.ready g.val 0x57 false = some p) :
    ∃ u : State, exec (.shutdown g) s = .next u.enterDry ∧ u.bist.dryCid = some s.nextCid :=
  ⟨{ s.accept g.val p .shutdown none 0 with bist := { (s.accept g.val p .shutdown none 0).bist with dryCid := some s.nextCid } },
    congrArg Host.Outcome.next (onHead_some _ h), rfl⟩

/-- The four triggers. -/
theorem dryTriggers (s : State) :
    (∀ (g : Fin 1024) (p : List Byte), s.ready g.val 0x57 false = some p →
      Yields (.shutdown g) s (fun t => t.pwr.dev = .dry ∧ t.bist.dry = some .drain ∧ t.bist.dryCid = some s.nextCid ∧
        t.slc.waiting = [] ∧ t.pwr.dozeEntering = false ∧ t.pwr.fclkTo = none)) ∧
    (∀ tlp : Tlp, s.hostUp = true → s.hif.d3hot = true → (s.pwr.dev = .run ∨ s.pwr.dev = .economy) →
      Yields (.pmeTurnOff tlp) s (fun t => t.pwr.dev = .dry ∧ t.bist.dry = some .drain ∧ t.hif.l23 = true ∧
        Emit.pmeToAck ∈ t.out ∧ Emit.l23Request ∈ t.out)) ∧
    (∀ tlp : Tlp, s.hostUp = true → s.hif.d3hot = false →
      Yields (.pmeTurnOff tlp) s (fun t => Emit.pmeToAck ∈ t.out ∧ t.hif.vlogWr = s.hif.vlogWr + 1 ∧ ReportOnly s t)) ∧
    (s.pins.role = .member → s.mainLive = true → (s.pwr.dev = .run ∨ s.pwr.dev = .economy) →
      Yields .dryRelay s (fun t => t.pwr.dev = .dry ∧ t.bist.dry = some .drain)) := by
  refine ⟨fun g p h => ?_, fun tlp hup hd3 hd => ?_, fun tlp hup hd0 => ?_, fun hrole hlive hd => ?_⟩
  · obtain ⟨u, he, hcid⟩ := exec_shutdown_of_ready h
    have hin := enterDry_spec u
    obtain ⟨hdev, hdry, hdoze, hclk⟩ := hin.reads
    exact ⟨_, he, hdev, hdry, (congrArg Bist.dryCid hin.bist).trans hcid, hin.waiting, hdoze, hclk⟩
  · obtain ⟨u, he, hl23, hack, hreq⟩ := exec_pmeTurnOff_of_running tlp hup hd3 hd
    have hin := enterDry_spec u
    obtain ⟨hdev, hdry, -, -⟩ := hin.reads
    exact ⟨_, he, hdev, hdry, hin.l23.trans hl23, hin.out hack, hin.out hreq⟩
  · have he : exec (.pmeTurnOff tlp) s = .next ((s.emit .pmeToAck).vlogTlp 0x0F 6 0 0xFFFF tlp) :=
      congrArg Host.Outcome.next ((if_neg (by simp [hup])).trans (if_pos (by simp [hd0])))
    obtain ⟨hrep, hwr, -⟩ := State.vlog_logged (s.emit .pmeToAck) 0x0F 6 tlp.rid.toNat 0 0xFFFF tlp.hdr
    exact ⟨_, he, vlog_out _ _ _ _ _ _ (by simp [State.emit]), hwr, hrep⟩
  · obtain ⟨hdev, hdry, -, -⟩ := (enterDry_spec s).reads
    exact ⟨_, congrArg Host.Outcome.next (if_pos ⟨hrole, hlive, hd⟩), hdev, hdry⟩

/-- With the host-facing engines off no graph, stream or session is left. -/
theorem enginesOff_spec (s : State) : s.enginesOff.pwr = s.pwr ∧ s.enginesOff.graphs = [] ∧ s.enginesOff.str = Streams.initial ∧
    s.enginesOff.wpe = { s.wpe with sessions := [], powered := false } := by
  have hbanks : ∀ (ters : List Nat) (u : State), u.dropBanks ters = { u with cistern := (u.dropBanks ters).cistern } := fun ters u => by
    have hbank : ∀ (x : Nat) (l : List Nat) (v : State), l.foldl (fun u k => if u.bankReserved x k then u
        else { u with cistern := Memory.clear u.cistern (x * 0x100000 + k * 0x10000) (x * 0x100000 + (k + 1) * 0x10000) }) v =
        { v with cistern := (l.foldl (fun u k => if u.bankReserved x k then u
        else { u with cistern := Memory.clear u.cistern (x * 0x100000 + k * 0x10000) (x * 0x100000 + (k + 1) * 0x10000) }) v).cistern } := by
      intro x l
      induction l with
      | nil => exact fun _ => rfl
      | cons k l ih =>
        intro v
        rw [List.foldl_cons, ih]
        split <;> rfl
    unfold State.dropBanks
    induction ters generalizing u with
    | nil => rfl
    | cons x ters ih => rw [List.foldl_cons, ih, hbank]
  unfold State.enginesOff
  rw [hbanks]
  exact ⟨rfl, rfl, rfl, rfl⟩

/-- What no self-test and no journal scan touches of PWR, the graphs, the streams and the sessions. -/
theorem TestOnly.engines (h : TestOnly s t) : t.pwr = s.pwr ∧ t.graphs = s.graphs ∧ t.str = s.str ∧ t.wpe.sessions = s.wpe.sessions ∧
    t.wpe.powered = s.wpe.powered := by
  have e : t.sansTest = s.sansTest := h
  have hgraphs := congrArg State.graphs e
  have hstr := congrArg State.str e
  have hsess := congrArg (fun u : State => u.wpe.sessions) e
  have hpow := congrArg (fun u : State => u.wpe.powered) e
  simp only [State.sansTest, State.sansReport] at hgraphs hstr hsess hpow
  exact ⟨h.pwr, hgraphs, hstr, hsess, hpow⟩

/-- SHUTDOWN's record written, where one waits. -/
def State.shutdownEnded (s : State) : State :=
  match s.bist.dryCid with
  | some c => s.finish c endDone
  | none => s

theorem shutdownEnded_dev (s : State) : s.shutdownEnded.pwr.dev = s.pwr.dev := by
  unfold State.shutdownEnded
  split
  · exact (finish_books s _ _).view (view := fun u => u.pwr.dev)
  · rfl

/-- Settles O19: the triggers enter DRY, and each stage of the dry-down leaves what the next reads. -/
theorem dryDowns : Obligations.DryDowns := by
  refine ⟨dryTriggers, fun s hdry hlive => ⟨fun test hdrain hdone => ?_, fun mv hst => ?_, fun hst => ?_⟩⟩
  · have he : exec (.dryDrainDone test) s = .next (let u := (s.shutdownEnded.enginesOff.mapSave.selfTest (TestJob.ofKind 3) test false).1
        { u with bist := { u.bist with dry := some .selfTest, dryCid := none, dryFails := u.bist.fails } }) :=
      congrArg Host.Outcome.next (if_neg (by simp [hdry, hdrain, hlive, hdone]))
    have htest : TestOnly s.shutdownEnded.enginesOff (s.shutdownEnded.enginesOff.mapSave.selfTest (TestJob.ofKind 3) test false).1 :=
      (mapSave_testOnly _).trans (selfTest_testOnly _ _ _ _)
    obtain ⟨hpwr, hgraphs, hstr, hsess, hpow⟩ := htest.engines
    obtain ⟨opwr, ographs, ostr, owpe⟩ := enginesOff_spec s.shutdownEnded
    generalize (s.shutdownEnded.enginesOff.mapSave.selfTest (TestJob.ofKind 3) test false).1 = u at *
    refine ⟨_, he, rfl, rfl, ?_, hgraphs.trans ographs, hstr.trans ostr, hsess.trans (congrArg Wpe.sessions owpe),
      hpow.trans (congrArg Wpe.powered owpe)⟩
    exact (congrArg Power.dev (hpwr.trans opwr)).trans ((shutdownEnded_dev s).trans hdry)
  · exact ⟨_, congrArg Host.Outcome.next (if_neg (by simp [hdry, hst, hlive])), _, rfl, rfl, rfl, rfl, rfl, rfl, rfl, rfl, rfl, rfl, rfl,
      rfl, rfl, rfl⟩
  · exact congrArg Host.Outcome.next (if_neg (by simp [hdry, hst, hlive]))

end Sys2Proof.Machine
end

section
/-! PROOFS. Doorbells. -/

namespace Sys2Proof.Machine

set_option Elab.async false

variable {s t u : State}

/-- Waking the link and the DOZE trigger commute. -/
theorem touch_leaveL1 (s : State) : s.leaveL1.touch = s.touch.leaveL1 := by
  unfold State.touch State.leaveL1
  dsimp only
  split
  · rfl
  · split
    · rfl
    · rfl

/-- In RUN and ECONOMY a host write that reaches a BAR acts on every block but the island's after the DOZE trigger. -/
theorem hostAccess_running {f : Nat} {b : BlockGroup} (hr : s.reaches f = true) (hd : s.pwr.dev = .run ∨ s.pwr.dev = .economy)
    (hb : b ≠ .island) (tlp : Option Tlp) (k : State → State) : s.hostAccess f tlp b k = k s.touch.leaveL1 := by
  have ha : s.leaveL1.answers b = true := by
    have hdev : s.leaveL1.pwr.dev = s.pwr.dev := rfl
    unfold State.answers
    rw [hdev]
    rcases hd with h | h
    · rw [h]
    · rw [h]
  rw [State.hostAccess_of_reaches hr, State.access_of_answers ha, if_neg hb, touch_leaveL1]

@[simp] theorem touch_ring (s : State) (g : Nat) : s.touch.ring g = s.ring g := by
  rw [s.touch_eq_pwr]
  rfl

@[simp] theorem touch_ringFunc (s : State) (g : Nat) : s.touch.ringFunc g = s.ringFunc g := by
  rw [s.touch_eq_pwr]
  rfl

@[simp] theorem touch_pageRing (s : State) (f page : Nat) : s.touch.pageRing f page = s.pageRing f page := by
  rw [s.touch_eq_pwr]
  rfl

/-- A violation logged once the link is awake. -/
theorem touched_vlogTlp (s : State) (kind action func ring : Nat) (tlp : Tlp) :
    Logged s.touch (s.touch.leaveL1.vlogTlp kind action func ring tlp) kind action func ring :=
  .of_leaveL1 (State.vlog_logged s.touch.leaveL1 kind action tlp.rid.toNat func ring tlp.hdr)

/-- A doorbell write is judged on the state after the trigger. -/
theorem doorbell_running {f page v : Nat} {tlp : Tlp} (hr : s.reaches f = true) (hd : s.pwr.dev = .run ∨ s.pwr.dev = .economy)
    (k : State → Nat → State) :
    (s.pageRing f page = none → s.doorbell f page v tlp k = s.touch.leaveL1.vlogTlp 0x06 0 f 0xFFFF tlp) ∧
    ∀ g, s.pageRing f page = some g →
      (f = 0 → s.ringFunc g ≠ 0 → s.doorbell f page v tlp k = s.touch.leaveL1.vlogTlp 0x07 0 f g tlp) ∧
      ((f = 0 → s.ringFunc g = 0) → ((s.ring g).en = false ∨ 2 ^ (s.ring g).log2 ≤ v) →
        s.doorbell f page v tlp k = s.touch.leaveL1.vlogTlp 0x06 0 f g tlp) ∧
      ((f = 0 → s.ringFunc g = 0) → (s.ring g).en = true → v < 2 ^ (s.ring g).log2 →
        s.doorbell f page v tlp k = k s.touch.leaveL1 g) := by
  have hpage : s.touch.leaveL1.pageRing f page = s.pageRing f page := touch_pageRing s f page
  have hring : ∀ g, s.touch.leaveL1.ring g = s.ring g := touch_ring s
  have hfunc : ∀ g, s.touch.leaveL1.ringFunc g = s.ringFunc g := touch_ringFunc s
  have he : s.doorbell f page v tlp k = _ := hostAccess_running hr hd (b := .doorbell) (by decide) (some tlp) _
  simp only [hpage, hring, hfunc] at he
  refine ⟨fun h => by rw [he, h], fun g h => ⟨fun h0 ho => ?_, fun ho hbad => ?_, fun ho hen hlt => ?_⟩⟩
  · rw [he, h]
    exact if_pos ⟨h0, ho⟩
  · rw [he, h]
    refine (if_neg fun hc => hc.2 (ho hc.1)).trans (if_pos ?_)
    rcases hbad with hen | hle
    · simp [hen]
    · simp [Ring.size, hle]
  · rw [he, h]
    exact (if_neg fun hc => hc.2 (ho hc.1)).trans (if_neg (by simp [hen, Ring.size, Nat.not_le.mpr hlt]))

/-- A doorbell that is taken sets its pointer; the fetches that follow change the ledger alone. -/
theorem settle_of_pointer (s : State) (g : Nat) (f : Ring → Ring) :
    (((s.touch.leaveL1.updRing g f).settle g).ring g).config = (f (s.ring g)).config ∧
      LedgerOnly (s.touch.updRing g f) ((s.touch.leaveL1.updRing g f).settle g) := by
  have h := settle_ledger (s.touch.leaveL1.updRing g f) g
  refine ⟨(h.2 g).trans ?_, (LedgerOnly.of_rings rfl rfl : LedgerOnly (s.touch.updRing g f) (s.touch.leaveL1.updRing g f)).trans h⟩
  have hring : s.touch.leaveL1.ring g = s.ring g := touch_ring s g
  rw [ring_updRing, if_pos rfl, hring]

/-- Settles O20: each doorbell by the order in which R306 judges it. -/
theorem doorbells : Obligations.Doorbells := by
  intro s f page v tlp hr hd
  have hsq := doorbell_running (s := s) (page := page.val) (v := v) (tlp := tlp) hr hd
    (fun s g => (s.updRing g (fun r => { r with sqTail := v })).settle g)
  have hcq := doorbell_running (s := s) (page := page.val) (v := v) (tlp := tlp) hr hd (fun s g =>
    let r := s.ring g
    if (r.cqTail + r.size - r.cqHead) % r.size < (v + r.size - r.cqHead) % r.size then s.vlogTlp 0x06 0 f.val g tlp
    else (s.updRing g (fun r => { r with cqHead := v })).settle g)
  have hring : ∀ g, s.touch.leaveL1.ring g = s.ring g := touch_ring s
  simp only [hring] at hcq
  have hlog : ∀ (c : Instr) (kind ring : Nat) (w : State), exec c s = .next w → w = s.touch.leaveL1.vlogTlp kind 0 f.val ring tlp →
      Yields c s (fun t => Logged s.touch t kind 0 f.val ring) := by
    rintro c kind ring w he rfl
    exact ⟨_, he, touched_vlogTlp s kind 0 f.val ring tlp⟩
  refine ⟨fun h => ⟨hlog _ _ _ _ rfl (hsq.1 h), hlog _ _ _ _ rfl (hcq.1 h)⟩, fun g h ho hen hlt => ⟨?_, fun hle => ?_, fun hpast => ?_⟩,
    fun g h h0 ho => ⟨hlog _ _ _ _ rfl ((hsq.2 g h).1 h0 ho), hlog _ _ _ _ rfl ((hcq.2 g h).1 h0 ho)⟩,
    fun g h ho hbad => ⟨hlog _ _ _ _ rfl ((hsq.2 g h).2.1 ho hbad), hlog _ _ _ _ rfl ((hcq.2 g h).2.1 ho hbad)⟩, ?_⟩
  · obtain ⟨hconf, hled⟩ := settle_of_pointer s g (fun r => { r with sqTail := v })
    exact ⟨_, congrArg Host.Outcome.next ((hsq.2 g h).2.2 ho hen hlt), (congrArg RingConfig.sqTail hconf :), hled⟩
  · obtain ⟨hconf, hled⟩ := settle_of_pointer s g (fun r => { r with cqHead := v })
    exact ⟨_, congrArg Host.Outcome.next (((hcq.2 g h).2.2 ho hen hlt).trans (if_neg (Nat.not_lt.mpr hle))),
      (congrArg RingConfig.cqHead hconf :), hled⟩
  · exact hlog _ _ _ _ rfl (((hcq.2 g h).2.2 ho hen hlt).trans (if_pos hpast))
  · have hpage : s.touch.leaveL1.pageRing f.val page.val = s.pageRing f.val page.val := touch_pageRing s _ _
    refine hlog _ _ _ _ rfl ?_
    rw [← hpage]
    exact hostAccess_running hr hd (b := .doorbell) (by decide) (some tlp) _

end Sys2Proof.Machine
end

section
/-! PROOFS. Records of commands that do something between their admission and their end; and what writes and reads issue. -/

namespace Sys2Proof.Machine

set_option Elab.async false

variable {s t u : State}

/-- The writes that a byte string is made of are sent. -/
theorem postWrite_issued (s : State) (f : Nat) (addr : DWord) (bytes : List Byte) (relaxed : Bool) (credit src : Option (Nat × Nat)) :
    WriteIssued s (s.postWrite f addr bytes relaxed credit src) f addr bytes relaxed := by
  have hall : ∀ (l : List (Emit × Option (Nat × Nat))) (v : State), ∀ e ∈ l, (l.foldl (fun t e => t.post e.1 e.2 src) v).sends e.1 := by
    intro l
    induction l with
    | nil => exact fun _ _ h => absurd h List.not_mem_nil
    | cons a l ih =>
      intro v e he
      rcases List.mem_cons.mp he with rfl | he
      · exact foldl_sends l _ (fun _ _ => post_sends _ _ _) (post_sent v _ _ _)
      · exact ih _ e he
  intro e he
  obtain ⟨i, hi, rfl⟩ := List.mem_iff_getElem.mp he
  refine hall _ s ((s.writesOf f addr bytes relaxed)[i], if i + 1 = (s.writesOf f addr bytes relaxed).length then credit else none) ?_
  exact List.mem_map.mpr ⟨((s.writesOf f addr bytes relaxed)[i], i), by simp [List.mem_zipIdx_iff_getElem?], rfl⟩

/-- A short write is one write. -/
theorem writesOf_short (h : bytes.length ≠ 0) (hle : bytes.length ≤ s.hif.mps) (f : Nat) (addr : DWord) :
    s.writesOf f addr bytes false = [.dma f addr bytes] := by
  have hone : ceilDiv bytes.length s.hif.mps = 1 := by
    unfold ceilDiv
    exact Nat.div_eq_of_lt_le (by omega) (by omega)
  simp [State.writesOf, requestsOf, hone, sliceAt, Nat.min_eq_right hle]

/-- The requests that a read is made of are sent. -/
theorem issueRead_issued (s : State) (f : Nat) (addr : DWord) (len : Nat) : ReadIssued s (s.issueRead f addr len) f addr len := by
  have hkeep : ∀ (l : List (Nat × Nat)) (v : State) (x : Emit), x ∈ v.out →
      x ∈ (l.foldl (fun t r => t.leaveL1.emit (.read f (addr + BitVec.ofNat 64 r.1) r.2)) v).out := by
    intro l
    induction l with
    | nil => exact fun _ _ h => h
    | cons a l ih => exact fun v x h => ih _ _ (List.mem_cons_of_mem _ h)
  have hall : ∀ (l : List (Nat × Nat)) (v : State), ∀ r ∈ l, Emit.read f (addr + BitVec.ofNat 64 r.1) r.2 ∈
      (l.foldl (fun t r => t.leaveL1.emit (.read f (addr + BitVec.ofNat 64 r.1) r.2)) v).out := by
    intro l
    induction l with
    | nil => exact fun _ _ h => absurd h List.not_mem_nil
    | cons a l ih =>
      intro v r hr
      rcases List.mem_cons.mp hr with rfl | hr
      · exact hkeep l (v.leaveL1.emit _) _ List.mem_cons_self
      · exact ih _ r hr
  exact hall _ s

/-- Records of `u` read as records of `s`: the rings as records show them, their owners and the time are the same. -/
structure SameRecords (s u : State) : Prop where
  rings : ∀ k, (u.ring k).recordView = (s.ring k).recordView
  owner : u.hif.owner = s.hif.owner
  now : u.now48 = s.now48

theorem SameRecords.refl (s : State) : SameRecords s s := ⟨fun _ => rfl, rfl, rfl⟩

theorem SameRecords.trans (h : SameRecords s t) (k : SameRecords t u) : SameRecords s u :=
  ⟨fun n => (k.rings n).trans (h.rings n), k.owner.trans h.owner, k.now.trans h.now⟩

theorem ReportOnly.same (h : ReportOnly s t) : SameRecords s t :=
  ⟨fun k => congrArg (fun rs => Ring.recordView (Tab.getD rs k Ring.initial)) h.rings_eq,
    (h.agrees (view := fun u => u.hif.owner)), (h.agrees (view := fun u => u.now48))⟩

theorem accept_same (s : State) (g : Nat) (p : List Byte) (b : Body) (d : Option Nat) (w : Nat) : SameRecords s (s.accept g p b d w) :=
  ⟨fun k => accept_recordView s g p b d w k, rfl, rfl⟩

theorem Recorded.of_same {g tag op : Nat} {inList : Bool} {e : End} (h : SameRecords s u) (hr : Recorded u t g tag op inList e) :
    Recorded s t g tag op inList e := by
  obtain ⟨start, evals, skipped, hs⟩ := hr
  have hf : ∀ g, u.ringFunc g = s.ringFunc g := fun g => by simp [State.ringFunc, h.owner]
  have hl : ∀ g, u.ringLocal g = s.ringLocal g := fun g => by simp [State.ringLocal, hf]
  have hv := fun k => by
    have := h.rings k
    simpa only [Ring.recordView, Prod.mk.injEq] using this
  obtain ⟨v1, v2, v3, v4, -, -, -⟩ := hv g
  rw [hf, hl, h.now, contention_congr (fun k => (hv k).2.2.2.2.1) h.owner, v1, v2, v3, v4] at hs
  exact ⟨start, evals, skipped, hs⟩

/-- The command that the head packet of ring g becomes. -/
def State.headCmd (s : State) (g : Nat) (p : List Byte) (body : Body) (deadline : Option Nat) (power : Nat) : Cmd :=
  { cid := s.nextCid, ring := g, tag := pktTag p, opcode := pktOp p, irqNow := pktIrqNow p,
    parent := (s.ring g).lists.head?.map (fun l => l.cid), start := s.now48, deadline := deadline, evals := 0,
    skipped := 0, power := power, detached := false, mir := [], held := none, body := body }

/-- The command just admitted is found under its number. -/
theorem accept_cmd? (h : CidsFresh s) (g : Nat) (p : List Byte) (b : Body) (d : Option Nat) (w : Nat) :
    (s.accept g p b d w).cmd? s.nextCid = some (s.headCmd g p b d w) := cmd?_append s (s.headCmd g p b d w) h rfl

/-- Numbers stay fresh as a command is admitted. -/
theorem accept_fresh (h : CidsFresh s) (g : Nat) (p : List Byte) (b : Body) (d : Option Nat) (w : Nat) :
    CidsFresh (s.accept g p b d w) := by
  intro c hc
  rcases List.mem_append.mp hc with hc | hc
  · exact Nat.lt_succ_of_lt (h c hc)
  · rw [List.mem_singleton.mp hc]
    exact Nat.lt_succ_self _

/-- A head packet admitted, and its command ended where its record still reaches the host: the record is that of the packet. -/
theorem headRecorded_of_finish {g op : Nat} {b : Bool} {p : List Byte} {y : Cmd} (e : End) (h : s.ready g op b = some p)
    (hsame : SameRecords s u) (hm : Reporting u g) (hy : u.cmd? s.nextCid = some y) (hcid : y.cid = s.nextCid) (hring : y.ring = g)
    (htag : y.tag = pktTag p) (hop : y.opcode = pktOp p) (hpar : y.parent = (s.ring g).lists.head?.map (fun l => l.cid))
    (hmir : y.mir = []) (hdet : y.detached = false) : HeadRecorded s (u.finish s.nextCid e) g p (u.lateEnd y e) := by
  have hh : (u.ring g).halted = false := by
    have := hsame.rings g
    simp only [Ring.recordView, Prod.mk.injEq] at this
    exact this.2.2.2.2.2.1.trans (ready_head h).2.1
  subst hring
  rw [← hcid] at hy ⊢
  have hrec := finish_recorded u y e hy hmir hdet hh hm
  have hlist : y.parent.isSome = !(s.ring y.ring).lists.isEmpty := by
    rw [hpar]
    cases (s.ring y.ring).lists <;> rfl
  rw [htag, hop, hlist] at hrec
  exact hrec.of_same hsame

/-- A command changed without its number is found changed. -/
theorem cmd?_updCmd {c : Nat} {f : Cmd → Cmd} {y : Cmd} (hf : ∀ x, (f x).cid = x.cid) (h : s.cmd? c = some y) :
    (s.updCmd c f).cmd? c = some (f y) := by
  have hsame : ((fun x : Cmd => x.cid == c) ∘ fun x => if x.cid == c then f x else x) = fun x => x.cid == c := by
    funext x
    simp only [Function.comp]
    split
    · rw [hf]
    · rfl
  have hy : (y.cid == c) = true := List.find?_some (p := fun x : Cmd => x.cid == c) h
  rw [State.cmd?, State.updCmd, List.find?_map, hsame, show s.cmds.find? (fun x => x.cid == c) = some y from h, Option.map_some, if_pos hy]

/-- Numbers stay fresh as commands change without their numbers. -/
theorem updCmd_fresh {c : Nat} {f : Cmd → Cmd} (hf : ∀ x, (f x).cid = x.cid) (h : CidsFresh s) : CidsFresh (s.updCmd c f) := by
  intro y hy
  obtain ⟨x, hx, rfl⟩ := List.mem_map.mp hy
  split
  · rw [hf]
    exact h x hx
  · exact h x hx

/-- Every bit after one bit is set. -/
theorem getLsbD_setBit {n : Nat} (x : BitVec n) (i : Nat) (v : Bool) {j : Nat} (hj : j < n) :
    (setBit x i v).getLsbD j = if j = i then v else x.getLsbD j := by
  by_cases h : j = i
  · subst h
    rw [if_pos rfl, getLsbD_setBit_self x v hj]
  · have hbit : (BitVec.ofNat n (2 ^ i)).getLsbD j = false := by
      rw [BitVec.getLsbD_ofNat, Nat.testBit_two_pow_of_ne (Ne.symm h), Bool.and_false]
    rw [if_neg h]
    cases v with
    | true => rw [setBit, if_pos rfl, BitVec.getLsbD_or, hbit, Bool.or_false]
    | false => rw [setBit, if_neg Bool.false_ne_true, BitVec.getLsbD_and, BitVec.getLsbD_not, hbit, decide_eq_true hj,
        Bool.not_false, Bool.and_true, Bool.and_true]

end Sys2Proof.Machine
end

section
/-! PROOFS. The opcodes that end as they are admitted. -/

namespace Sys2Proof.Machine

set_option Elab.async false

variable {s t u : State}

/-- A step between admission and end that leaves the rings, the commands, the host interface's masters and owners and the time. -/
theorem completeWith_headRecorded {g op : Nat} {b : Bool} {p : List Byte} {k : State → State} (e : End) (h : s.ready g op b = some p)
    (hm : Reporting s g) (hk : ReportOnly (s.accept g p .plain none 0) (k (s.accept g p .plain none 0))) :
    HeadRecorded s (s.completeWith g p k e) g p e := by
  obtain ⟨hmay, hrole, hfresh⟩ := hm
  have hcmds := hk.cmds_eq
  have hmem : ∀ f, (k (s.accept g p .plain none 0)).mayMaster f = s.mayMaster f := fun f => hk.agrees (view := fun u => u.mayMaster f)
  have howner : (k (s.accept g p .plain none 0)).ringFunc g = s.ringFunc g := hk.agrees (view := fun u => u.ringFunc g)
  have hy : (k (s.accept g p .plain none 0)).cmd? s.nextCid = some (s.headCmd g p .plain none 0) := by
    rw [State.cmd?, hcmds]
    exact accept_cmd? hfresh g p .plain none 0
  have hrec := headRecorded_of_finish e h ((accept_same s g p .plain none 0).trans hk.same)
    ⟨by rw [hmem, howner]; exact hmay, by rw [hk.pins_eq]; exact hrole, by
      have := accept_fresh hfresh g p .plain none 0
      unfold CidsFresh at this ⊢
      rw [hcmds, hk.nextCid_eq]
      exact this⟩ hy rfl rfl rfl rfl rfl rfl rfl
  rwa [lateEnd_none _ _ _ rfl] at hrec

/-- TIMESTAMP ends DONE, with its write issued where it has an address. -/
theorem timestamp_yields {g : Fin 1024} {p : List Byte} (hm : Reporting s g.val) (h : s.ready g.val 0x02 false = some p) :
    Yields (.timestamp g) s (fun t => LedgerOnly s t ∧ HeadRecorded s t g.val p endDone ∧
      (par p 0x10 8 ≠ 0 → LimitsLegal s →
        t.sends (.dma (s.ringFunc g.val) (BitVec.ofNat 64 (par p 0x10 8)) (leBytes 8 s.tmr.copy)))) := by
  let k : State → State := fun t => if par p 0x10 8 = 0 then t
    else t.dmaWrite s.nextCid (BitVec.ofNat 64 (par p 0x10 8)) (leBytes 8 s.tmr.copy) false
  have he : exec (.timestamp g) s = .next (s.completeWith g.val p k endDone) := congrArg Host.Outcome.next (onHead_some _ h)
  have hled : LedgerOnly s (s.completeWith g.val p k endDone) := by
    refine ((accept_ledger s g.val p .plain none 0).trans ?_).trans (completeWith_ledger s g.val p k endDone)
    by_cases h0 : par p 0x10 8 = 0
    · rw [show k (s.accept g.val p .plain none 0) = _ from if_pos h0]
      exact .refl _
    · rw [show k (s.accept g.val p .plain none 0) = _ from if_neg h0]
      exact dmaWrite_ledger _ _ _ _ _
  have hwrite : (s.accept g.val p .plain none 0).dmaWrite s.nextCid (BitVec.ofNat 64 (par p 0x10 8)) (leBytes 8 s.tmr.copy) false =
      (s.accept g.val p .plain none 0).postWrite (s.ringFunc g.val) (BitVec.ofNat 64 (par p 0x10 8)) (leBytes 8 s.tmr.copy) false none
        (some (s.nextCid, g.val)) := by
    have hmay : (s.accept g.val p .plain none 0).mayMaster (s.ringFunc g.val) = true := hm.1
    unfold State.dmaWrite
    rw [accept_cmd? hm.2.2]
    exact if_neg (by
      simp only [State.headCmd, Bool.false_or, Bool.not_eq_true', Bool.not_eq_false]
      exact hmay)
  refine ⟨_, he, hled, completeWith_headRecorded endDone h hm ?_, fun h0 hlim => ?_⟩
  · by_cases h0 : par p 0x10 8 = 0
    · rw [show k (s.accept g.val p .plain none 0) = _ from if_pos h0]
      exact rfl
    · rw [show k (s.accept g.val p .plain none 0) = _ from if_neg h0, hwrite]
      exact postWrite_report _ _ _ _ _ _ _
  · refine finish_sends _ _ ?_
    rw [show k (s.accept g.val p .plain none 0) = _ from if_neg h0, hwrite]
    refine postWrite_issued _ _ _ _ _ _ _ _ ?_
    have hlen : (leBytes 8 s.tmr.copy).length = 8 := by simp [leBytes]
    have hmps : (leBytes 8 s.tmr.copy).length ≤ (s.accept g.val p .plain none 0).hif.mps := by
      have hle : ∀ m ∈ [128, 256, 512], 8 ≤ m := by decide
      rw [hlen]
      exact hle _ hlim.1
    rw [writesOf_short (by rw [hlen]; decide) hmps]
    exact List.mem_singleton.mpr rfl

/-- Settles O23: each opcode by its admission, what it writes, and its end. -/
theorem genericOpcodes : Obligations.GenericOpcodes := by
  intro s g p hm
  refine ⟨fun h => ?_, fun h => ?_, fun h => ?_, timestamp_yields hm, fun h => ?_⟩
  · exact ⟨_, congrArg Host.Outcome.next (onHead_some _ h), complete_ledger s g.val p endDone, complete_recorded endDone h hm⟩
  · exact ⟨_, congrArg Host.Outcome.next (onHead_some _ h), complete_ledger s g.val p endDone, complete_recorded endDone h hm⟩
  · let k : State → State := fun s => { s with flags := setBit s.flags (par p 0x10 1) (par p 0x11 1 == 1) }
    have he : exec (.setFlag g) s = .next (s.completeWith g.val p k endDone) := congrArg Host.Outcome.next (onHead_some _ h)
    have hled := completeWith_ledger s g.val p k endDone
    have hflags : (s.completeWith g.val p k endDone).flags = setBit s.flags (par p 0x10 1) (par p 0x11 1 == 1) := hled.flags_eq
    refine ⟨_, he, ?_, completeWith_recorded k endDone h hm (fun _ => rfl) (fun _ _ => rfl) (fun _ => rfl) (fun _ => rfl) fun _ => rfl,
      fun i hi => ?_⟩
    · rw [hflags]
      exact (accept_ledger ({ s with flags := setBit s.flags (par p 0x10 1) (par p 0x11 1 == 1) } : State) g.val p .plain none 0).trans hled
    · rw [hflags]
      exact getLsbD_setBit _ _ _ hi
  · let k : State → State := fun t => (t.setAnchor (BitVec.ofNat 64 (par p 0x10 8))).updCmd s.nextCid
      (fun c => { c with start := s.tmr.uptime % 2 ^ 48 })
    have hcid : ∀ x : Cmd, ({ x with start := s.tmr.uptime % 2 ^ 48 } : Cmd).cid = x.cid := fun _ => rfl
    have hled := completeWith_ledger s g.val p k endDone
    have hsame : SameRecords s (k (s.accept g.val p .plain none 0)) := ⟨fun n => accept_recordView s g.val p .plain none 0 n, rfl, rfl⟩
    have hrec := headRecorded_of_finish endDone h hsame
      ⟨hm.1, hm.2.1, updCmd_fresh (s := (s.accept g.val p .plain none 0).setAnchor _) hcid (accept_fresh hm.2.2 g.val p .plain none 0)⟩
      (cmd?_updCmd (s := (s.accept g.val p .plain none 0).setAnchor _) hcid (accept_cmd? hm.2.2 g.val p .plain none 0))
      rfl rfl rfl rfl rfl rfl rfl
    rw [lateEnd_none _ _ _ rfl] at hrec
    exact ⟨_, congrArg Host.Outcome.next (onHead_some _ h), hrec, (LedgerOnly.trans
      ((accept_ledger ({ s with tmr := { s.tmr with anchor := BitVec.ofNat 64 (par p 0x10 8), anchorAt := s.tmr.uptime, anchorValid := true } } :
        State) g.val p .plain none 0).trans (updCmd_ledger _ s.nextCid _)) hled)⟩

end Sys2Proof.Machine
end

section
/-! PROOFS. What a ring holds and why it halted, through records, drops and fetches. -/

namespace Sys2Proof.Machine

set_option Elab.async false

variable {s t u : State}

/-- What a ring holds, and whether and why it stands. -/
def Ring.queueView (r : Ring) : Bool × Bool × Nat × DWord × List (List Byte) × List ListCtx × Nat :=
  (r.en, r.halted, r.haltCause, r.faultAddr, r.places, r.lists, r.fetching)

/-- From `s` to `t` what ring g holds and what the life cycle notes are the same. -/
structure QueueKept (g : Nat) (s t : State) : Prop where
  view : (t.ring g).queueView = (s.ring g).queueView
  lcs : t.lcs = s.lcs

variable {g : Nat}

theorem QueueKept.refl (s : State) : QueueKept g s s := ⟨rfl, rfl⟩

theorem QueueKept.trans (h : QueueKept g s t) (k : QueueKept g t u) : QueueKept g s u := ⟨k.view.trans h.view, k.lcs.trans h.lcs⟩

theorem QueueKept.ite {c : Prop} [Decidable c] (h : QueueKept g s t) (k : QueueKept g s u) : QueueKept g s (if c then t else u) := by
  split
  · exact h
  · exact k

theorem QueueKept.of_eq (hr : t.rings = s.rings) (hl : t.lcs = s.lcs) : QueueKept g s t :=
  ⟨by rw [State.ring, hr]; rfl, hl⟩

theorem ReportOnly.queue (h : ReportOnly s t) : QueueKept g s t := .of_eq h.rings_eq h.lcs_eq

/-- A change of a ring that leaves what it holds. -/
theorem updRing_queue (s : State) (k : Nat) {f : Ring → Ring} (hf : ∀ r, (f r).queueView = r.queueView) : QueueKept g s (s.updRing k f) := by
  refine ⟨?_, rfl⟩
  rw [ring_updRing]
  split
  · next h => rw [hf, h]
  · rfl

theorem signalRing_queue (s : State) (k : Nat) : QueueKept g s (s.signalRing k) := by
  refine QueueKept.trans ?_ (signal_report _ _ _).queue
  exact updRing_queue s k fun _ => rfl

theorem ite_signal_queue (b : Bool) (s : State) (k : Nat) : QueueKept g s (if b then s.signalRing k else s) :=
  (signalRing_queue s k).ite (.refl s)

theorem dropResults_queue (s : State) (c : Option Nat) (k : Nat) : QueueKept g s (s.dropResults c k) := by
  have hdrop : ∀ l : List Nat, QueueKept g s { s with dropped := l } := fun _ => ⟨rfl, rfl⟩
  unfold State.dropResults
  dsimp only
  split
  · exact (vlog_report _ _ _ _ _ _ _).queue
  · exact (QueueKept.refl s).ite ((hdrop _).trans (vlog_report _ _ _ _ _ _ _).queue)

theorem writeRecord_queue (s : State) (k tag op : Nat) (inList irqNow detached : Bool) (cid : Option Nat) (start evals skipped : Nat)
    (e : End) : QueueKept g s (s.writeRecord k tag op inList irqNow detached cid start evals skipped e) := by
  unfold State.writeRecord
  dsimp only
  refine (QueueKept.refl s).ite ((dropResults_queue s _ _).ite ?_)
  refine QueueKept.trans ?_ (ite_signal_queue _ _ k)
  refine QueueKept.trans ?_ (updRing_queue _ k ?_)
  · exact (post_report s _ none _).queue
  · exact fun _ => rfl

theorem ringIdle_queue (s : State) (k : Nat) : QueueKept g s (s.ringIdle k) := by
  unfold State.ringIdle
  refine QueueKept.ite ?_ (.refl s)
  exact updRing_queue s k fun _ => rfl

theorem weightEvent_queue (s : State) (x : Cmd) : QueueKept g s (s.weightEvent x) := by
  unfold State.weightEvent
  exact (devVec_report s 7).queue.ite (.refl s)

theorem endCmd_queue (s : State) (c : Nat) (e : End) : QueueKept g s (s.endCmd c e) := by
  have hcmds : ∀ (v : State) (l : List Cmd), QueueKept g v { v with cmds := l } := fun _ _ => ⟨rfl, rfl⟩
  have hcount : ∀ (v : State) (n : Nat), QueueKept g v (v.countEnd n) := fun _ _ => ⟨rfl, rfl⟩
  unfold State.endCmd
  split
  · exact .refl s
  · refine QueueKept.ite (hcmds _ _) ?_
    refine QueueKept.trans ?_ (weightEvent_queue _ _)
    refine QueueKept.trans ?_ (ringIdle_queue _ _)
    refine QueueKept.trans ?_ (writeRecord_queue _ _ _ _ _ _ _ _ _ _ _ _)
    refine QueueKept.trans ?_ (hcount _ _)
    refine QueueKept.trans ?_ (updRing_queue _ _ ?_)
    · exact hcmds s _
    · exact fun _ => rfl

theorem closeLists_queue (fuel : Nat) (s : State) : QueueKept g s (State.closeLists fuel s) := by
  induction fuel generalizing s with
  | zero => exact .refl s
  | succ n ih =>
    unfold State.closeLists
    split
    · exact .refl s
    · exact (endCmd_queue _ _ _).trans (ih _)

/-- The ring that is fetched from next can be. -/
theorem fetchable_of_nextFetch {k : Nat} (h : s.nextFetch = some k) : s.fetchable k = true := by
  have hpick : ∀ (l : List (Nat × Ring)) (best : Option (Nat × Ring)), (∀ b ∈ best, s.fetchable b.1 = true) →
      (∀ e ∈ l, s.fetchable e.1 = true) → ∀ b ∈ l.foldl (fun best e => match best with
        | none => some e
        | some b => if fetchBefore e b then some e else some b) best, s.fetchable b.1 = true := by
    intro l
    induction l with
    | nil => exact fun _ hb _ => hb
    | cons e l ih =>
      intro best hb hl
      refine ih _ (fun b hb' => ?_) fun x hx => hl x (List.mem_cons_of_mem _ hx)
      cases best with
      | none => exact Option.some.inj hb' ▸ hl e List.mem_cons_self
      | some c =>
        dsimp only at hb'
        split at hb'
        · exact Option.some.inj hb' ▸ hl e List.mem_cons_self
        · exact Option.some.inj hb' ▸ hb c rfl
  obtain ⟨e, he, rfl⟩ := Option.map_eq_some_iff.mp h
  exact hpick _ none (fun _ h => nomatch h) (fun e he => (List.mem_filter.mp he).2) e he

/-- A change of another ring. -/
theorem updRing_other (s : State) {k : Nat} (h : g ≠ k) (f : Ring → Ring) : QueueKept g s (s.updRing k f) :=
  ⟨by rw [ring_updRing, if_neg h], rfl⟩

/-- A read that a fetch issues leaves every ring. -/
theorem issueRead_queue (s : State) (f : Nat) (a : DWord) (n : Nat) : QueueKept g s (s.issueRead f a n) := (issueRead_report s f a n).queue

/-- A fetch leaves another ring. -/
theorem fetchRing_queue {k : Nat} (h : g ≠ k) (s : State) : QueueKept g s (s.fetchRing k) := by
  unfold State.fetchRing
  dsimp only
  refine QueueKept.trans ?_ (issueRead_queue _ _ _ _)
  have hcount : ∀ (v : State) (n : Nat), QueueKept g v { v with fetches := n } := fun _ _ => ⟨rfl, rfl⟩
  refine QueueKept.trans ?_ (hcount _ _)
  exact updRing_other s h _

/-- A fetch leaves the packets and lists of every ring. -/
theorem fetchRing_holds (s : State) (k : Nat) : ((s.fetchRing k).ring g).places = (s.ring g).places ∧
    ((s.fetchRing k).ring g).lists = (s.ring g).lists ∧ (s.fetchRing k).lcs = s.lcs := by
  by_cases h : g = k
  · subst h
    have hread : ∀ (f n m : Nat) (a : DWord) (w : Ring → Ring), (∀ r, (w r).places = r.places ∧ (w r).lists = r.lists) →
        let t := ({ s.updRing g w with fetches := m } : State).issueRead f a n
        (t.ring g).places = (s.ring g).places ∧ (t.ring g).lists = (s.ring g).lists ∧ t.lcs = s.lcs := fun f n m a w hw => by
      have hr := (issueRead_queue (g := g) ({ s.updRing g w with fetches := m } : State) f a n)
      have hg : ({ s.updRing g w with fetches := m } : State).ring g = w (s.ring g) := (ring_updRing s g g w).trans (if_pos rfl)
      refine ⟨(congrArg (fun v => v.2.2.2.2.1) hr.view).trans ?_, (congrArg (fun v => v.2.2.2.2.2.1) hr.view).trans ?_, hr.lcs⟩
      · rw [hg]
        exact (hw _).1
      · rw [hg]
        exact (hw _).2
    exact hread _ _ _ _ _ fun _ => ⟨rfl, rfl⟩
  · have hq := fetchRing_queue h s
    exact ⟨congrArg (fun v => v.2.2.2.2.1) hq.view, congrArg (fun v => v.2.2.2.2.2.1) hq.view, hq.lcs⟩

/-- List fetches leave a ring with no list, and one whose list read has been issued. -/
theorem fetchList_queue (s : State) (k : Nat) (h : ∀ c ∈ (s.ring g).lists.head?, c.issued = true) : QueueKept g s (s.fetchList k) := by
  unfold State.fetchList
  split
  · exact .refl s
  · next c cs hl =>
    by_cases hk : g = k
    · subst hk
      have hc := h c (by rw [hl]; rfl)
      rw [hc]
      exact .refl s
    · refine (QueueKept.refl s).ite (QueueKept.trans (updRing_other s hk _) (issueRead_queue _ _ _ _))

/-- List fetches of every ring leave a ring that waits for none. -/
theorem fetchLists_queue (s : State) (h : ∀ c ∈ (s.ring g).lists.head?, c.issued = true) (l : List (Nat × Ring)) :
    QueueKept g s (l.foldl (fun t e => t.fetchList e.1) s) := by
  induction l generalizing s with
  | nil => exact .refl s
  | cons e l ih =>
    have hone := fetchList_queue s e.1 h
    have hlists : ((s.fetchList e.1).ring g).lists = (s.ring g).lists := congrArg (fun v => v.2.2.2.2.2.1) hone.view
    exact hone.trans (ih _ (by rw [hlists]; exact h))

/-- A ring that stands, with no list, is left by every fetch. -/
theorem fetchWork_queue_of_stopped (s : State) (h : (s.ring g).en = false ∨ (s.ring g).halted = true) (hl : (s.ring g).lists = []) :
    QueueKept g s s.fetchWork := by
  have hall : ∀ (fuel : Nat) (v : State), ((v.ring g).en = false ∨ (v.ring g).halted = true) → QueueKept g v (State.fetchAll fuel v) := by
    intro fuel
    induction fuel with
    | zero => exact fun v _ => .refl v
    | succ n ih =>
      intro v hv
      unfold State.fetchAll
      split
      · exact .refl v
      · next k hk =>
        have hf := fetchable_of_nextFetch hk
        have hne : g ≠ k := by
          rintro rfl
          simp only [State.fetchable, Bool.and_eq_true, Bool.not_eq_true'] at hf
          obtain ⟨⟨⟨⟨⟨⟨⟨-, hen⟩, hhalt⟩, -⟩, -⟩, -⟩, -⟩, -⟩ := hf
          rcases hv with hv | hv
          · rw [hv] at hen
            cases hen
          · rw [hv] at hhalt
            cases hhalt
        have hone := fetchRing_queue hne v
        refine hone.trans (ih _ ?_)
        rcases hv with hv | hv
        · exact .inl ((congrArg (fun w => w.1) hone.view).trans hv)
        · exact .inr ((congrArg (fun w => w.2.1) hone.view).trans hv)
  have hlist : QueueKept g s (s.rings.foldl (fun t e => t.fetchList e.1) s) := fetchLists_queue s (by rw [hl]; exact fun _ h => nomatch h) _
  refine hlist.trans (hall _ _ ?_)
  rcases h with h | h
  · exact .inl ((congrArg (fun w => w.1) hlist.view).trans h)
  · exact .inr ((congrArg (fun w => w.2.1) hlist.view).trans h)

/-- Fetches leave the packets of a ring, its lists once their read is issued, and the life cycle. -/
theorem fetchWork_holds (s : State) (h : ∀ c ∈ (s.ring g).lists.head?, c.issued = true) :
    (s.fetchWork.ring g).places = (s.ring g).places ∧ (s.fetchWork.ring g).lists = (s.ring g).lists ∧ s.fetchWork.lcs = s.lcs := by
  have hall : ∀ (fuel : Nat) (v : State), ((State.fetchAll fuel v).ring g).places = (v.ring g).places ∧
      ((State.fetchAll fuel v).ring g).lists = (v.ring g).lists ∧ (State.fetchAll fuel v).lcs = v.lcs := by
    intro fuel
    induction fuel with
    | zero => exact fun v => ⟨rfl, rfl, rfl⟩
    | succ n ih =>
      intro v
      unfold State.fetchAll
      split
      · exact ⟨rfl, rfl, rfl⟩
      · next k _ =>
        obtain ⟨hp, hl, hc⟩ := fetchRing_holds (g := g) v k
        obtain ⟨ip, il, ic⟩ := ih (v.fetchRing k)
        exact ⟨ip.trans hp, il.trans hl, ic.trans hc⟩
  have hlist := fetchLists_queue s h s.rings
  obtain ⟨hp, hl, hc⟩ := hall 1024 (s.rings.foldl (fun t e => t.fetchList e.1) s)
  exact ⟨hp.trans (congrArg (fun w => w.2.2.2.2.1) hlist.view), hl.trans (congrArg (fun w => w.2.2.2.2.2.1) hlist.view), hc.trans hlist.lcs⟩

/-- A ring dropped holds nothing; whether and why it stands is as before. -/
theorem dropRing_queue (s : State) (g : Nat) : ((s.dropRing g).ring g).queueView =
    ((s.ring g).en, (s.ring g).halted, (s.ring g).haltCause, (s.ring g).faultAddr, [], [], 0) := by
  have hset : ∀ (v : State) (w : Sluice) (l : List Cmd), QueueKept g v { v with slc := w, cmds := l } := fun _ _ _ => ⟨rfl, rfl⟩
  unfold State.dropRing
  refine ((closeLists_queue 3 _).trans (ringIdle_queue _ g)).view.trans ?_
  refine (hset (s.updRing g _) _ _).view.trans ?_
  rw [ring_updRing, if_pos rfl]
  rfl

/-- A ring that stands is dropped, and no fetch follows from it. -/
theorem drop_fetch_queue (s : State) (h : (s.ring g).en = false ∨ (s.ring g).halted = true) :
    ((s.dropRing g).fetchWork.ring g).queueView =
      ((s.ring g).en, (s.ring g).halted, (s.ring g).haltCause, (s.ring g).faultAddr, [], [], 0) := by
  have hd := dropRing_queue s g
  refine (fetchWork_queue_of_stopped (s.dropRing g) ?_ (congrArg (fun w => w.2.2.2.2.2.1) hd)).view.trans hd
  rcases h with h | h
  · exact .inl ((congrArg (fun w => w.1) hd).trans h)
  · exact .inr ((congrArg (fun w => w.2.1) hd).trans h)

/-- A halted ring tells its cause and its address, and holds nothing. -/
theorem haltRing_halted (s : State) (g cause : Nat) (addr : DWord) : Halted s (s.haltRing g cause addr) g cause addr := by
  let s0 := s.updRing g (fun r => { r with halted := true, haltCause := cause, faultAddr := addr })
  let s1 := if (s.ring g).irqEn then s0.signalRing g else s0
  have hview : (((s1.devVec 4)).ring g).queueView = ((s.ring g).en, true, cause, addr, (s.ring g).places, (s.ring g).lists, (s.ring g).fetching) := by
    have h0 : (s0.ring g).queueView = ((s.ring g).en, true, cause, addr, (s.ring g).places, (s.ring g).lists, (s.ring g).fetching) := by
      show ((s.updRing g _).ring g).queueView = _
      rw [ring_updRing, if_pos rfl]
      rfl
    exact ((((signalRing_queue s0 g).ite (.refl s0)).trans (devVec_report s1 4).queue).view).trans h0
  have hhalt : ((s1.devVec 4).ring g).halted = true := congrArg (fun w => w.2.1) hview
  have hq : ((s.haltRing g cause addr).ring g).queueView = _ := drop_fetch_queue (s1.devVec 4) (.inr hhalt)
  refine ⟨haltRing_ledger s g cause addr, ?_, ?_, ?_, congrArg (fun w => w.2.2.2.2.1) hq, congrArg (fun w => w.2.2.2.2.2.1) hq,
    congrArg (fun w => w.2.2.2.2.2.2) hq⟩
  · exact (congrArg (fun w => w.2.1) hq).trans hhalt
  · exact (congrArg (fun w => w.2.2.1) hq).trans (congrArg (fun w => w.2.2.1) hview)
  · exact (congrArg (fun w => w.2.2.2.1) hq).trans (congrArg (fun w => w.2.2.2.1) hview)

end Sys2Proof.Machine
end

section
/-! PROOFS. Writes of ring descriptors. -/

namespace Sys2Proof.Machine

set_option Elab.async false

variable {s t u : State}

theorem bitAt_toNat {n : Nat} (v : BitVec n) (i : Nat) : bitAt v.toNat i = v.getLsbD i := by
  rw [bitAt, BitVec.getLsbD, Nat.testBit_eq_decide_div_mod_eq]
  rfl

/-- A write of RING_CTRL through its owner's view. -/
theorem descWrite_ctrl {f i g : Nat} (hp : s.pageRing f i = some g) (hf : s.ringFunc g = f) (v : Word) (tlp : Tlp) :
    s.descWrite f i 0x10 (v.setWidth 64) false tlp = s.ringCtrlWrite f g v tlp := by
  have hlo : ((v.setWidth 64 : DWord).setWidth 32 : Word) = v := by simp
  unfold State.descWrite
  rw [hp]
  refine (if_neg fun h => h hf).trans ?_
  rw [hlo]
  rfl

/-- A ring's descriptor is written, once the function that writes owns it, on the link awake and after the trigger. -/
theorem exec_ringWrite {f : Fin 16} {i : Fin 1024} {g : Nat} (hr : s.reaches f.val = true) (hd : s.pwr.dev = .run ∨ s.pwr.dev = .economy)
    (hp : s.pageRing f.val i.val = some g) (hf : s.ringFunc g = f.val) (v : Word) (tlp : Tlp) :
    exec (.ringEnable f i v tlp) s = .next (s.touch.leaveL1.ringCtrlWrite f.val g v tlp) ∧
    exec (.ringDisable f i v tlp) s = .next (s.touch.leaveL1.ringCtrlWrite f.val g v tlp) := by
  have hpage : s.touch.leaveL1.pageRing f.val i.val = some g := (touch_pageRing s _ _).trans hp
  have hfunc : s.touch.leaveL1.ringFunc g = f.val := (touch_ringFunc s g).trans hf
  have hgo := (hostAccess_running hr hd (b := .engine) (by decide) (some tlp)
    (fun s => s.descWrite f.val i.val 0x10 (v.setWidth 64) false tlp)).trans (descWrite_ctrl hpage hfunc v tlp)
  exact ⟨congrArg Host.Outcome.next hgo, congrArg Host.Outcome.next hgo⟩

/-- The fields of RING_CTRL. -/
def Ring.withCtrl (r : Ring) (v : Word) : Ring :=
  { r with log2 := v.toNat / 2 % 16, engine := v.toNat / 32 % 8, cls := v.toNat / 256 % 4, prio := v.toNat / 1024 % 8, irqEn := bitAt v.toNat 13 }

/-- EN set on an inactive ring. -/
theorem ringCtrlWrite_enables {f g : Nat} {v : Word} (tlp : Tlp) (hf : s.ringFunc g = f) (hact : (s.ring g).active = false)
    (hen : (s.ring g).en = false) (hv : v.getLsbD 0 = true) (hlog : 6 ≤ v.toNat / 2 % 16) (heng : v.toNat / 32 % 8 ≤ 4)
    (hvf : f ≠ 0 → v.toNat / 32 % 8 = 1 ∨ v.toNat / 32 % 8 = 3) :
    s.ringCtrlWrite f g v tlp = (s.updRing g (fun r => r.withCtrl v)).updRing g Ring.enabled := by
  have hbit : bitAt v.toNat 0 = true := (bitAt_toNat v 0).trans hv
  unfold State.ringCtrlWrite
  refine (if_neg (by unfold bitsAt; omega)).trans ((if_neg (by simp [hact])).trans ((if_neg ?_).trans (if_pos (by simp [hbit, hen]))))
  rintro ⟨h0, h1, h3⟩
  rcases hvf (fun h => h0 (hf.trans h)) with h | h
  · exact h1 (by simpa [bitsAt] using h)
  · exact h3 (by simpa [bitsAt] using h)

/-- EN cleared on an active ring whose other fields stay. -/
theorem ringCtrlWrite_disables {f g : Nat} {v : Word} (tlp : Tlp) (hact : (s.ring g).active = true) (hen : (s.ring g).en = true)
    (hv : v.getLsbD 0 = false) (hlog2 : v.toNat / 2 % 16 = (s.ring g).log2) (heng : v.toNat / 32 % 8 = (s.ring g).engine)
    (hcls : v.toNat / 256 % 4 = (s.ring g).cls) (hprio : v.toNat / 1024 % 8 = (s.ring g).prio) (h6 : 6 ≤ (s.ring g).log2)
    (h4 : (s.ring g).engine ≤ 4) :
    s.ringCtrlWrite f g v tlp = (s.updRing g (fun r => { r with irqEn := bitAt v.toNat 13 })).disableRing g := by
  have hbit : bitAt v.toNat 0 = false := (bitAt_toNat v 0).trans hv
  have l1 : bitsAt v.toNat 1 4 = (s.ring g).log2 := hlog2
  have l2 : bitsAt v.toNat 5 3 = (s.ring g).engine := heng
  have l3 : bitsAt v.toNat 8 2 = (s.ring g).cls := hcls
  have l4 : bitsAt v.toNat 10 3 = (s.ring g).prio := hprio
  unfold State.ringCtrlWrite
  refine (if_neg (by omega)).trans ((if_pos hact).trans ((if_neg (by simp [l1, l2, l3, l4, hbit])).trans (if_pos (by simp [hbit, hen]))))

/-- A ring disabled holds nothing, and every other ring's configuration stays. -/
theorem disableRing_spec (s : State) (g : Nat) : ((s.disableRing g).ring g).en = false ∧ ((s.disableRing g).ring g).places = [] ∧
    ((s.disableRing g).ring g).lists = [] ∧ ((s.disableRing g).ring g).fetching = 0 ∧ (s.disableRing g).sansLedger = s.sansLedger ∧
    ∀ h, h ≠ g → ((s.disableRing g).ring h).config = (s.ring h).config := by
  have hen : ((s.updRing g (fun r => { r with en := false })).ring g).en = false := by
    rw [ring_updRing, if_pos rfl]
  have hq := drop_fetch_queue (s.updRing g (fun r => { r with en := false })) (.inl hen)
  have hled := (dropRing_ledger (s.updRing g (fun r => { r with en := false })) g).trans (fetchWork_ledger _)
  refine ⟨(congrArg (fun w => w.1) hq).trans hen, congrArg (fun w => w.2.2.2.2.1) hq, congrArg (fun w => w.2.2.2.2.2.1) hq,
    congrArg (fun w => w.2.2.2.2.2.2) hq, hled.1.trans rfl, fun h hh => (hled.2 h).trans ?_⟩
  rw [ring_updRing, if_neg hh]

/-- A write elsewhere in a ring's descriptor. -/
theorem exec_descriptorWrite {f : Fin 16} {i : Fin 1024} {g : Nat} (hr : s.reaches f.val = true)
    (hd : s.pwr.dev = .run ∨ s.pwr.dev = .economy) (hp : s.pageRing f.val i.val = some g) (hf : s.ringFunc g = f.val) (v : DWord) (tlp : Tlp) :
    exec (.ringDescriptorWrite f i 0x00 v true tlp) s = .next (s.touch.leaveL1.ringBaseWrite f.val g false false true v tlp) ∧
    exec (.ringDescriptorWrite f i 0x08 v true tlp) s = .next (s.touch.leaveL1.ringBaseWrite f.val g true false true v tlp) ∧
    exec (.ringDescriptorWrite f i 0x14 v false tlp) s = .next (s.touch.leaveL1.ringModWrite g (v.setWidth 32)) := by
  have hpage : s.touch.leaveL1.pageRing f.val i.val = some g := (touch_pageRing s _ _).trans hp
  have hfunc : s.touch.leaveL1.ringFunc g = f.val := (touch_ringFunc s g).trans hf
  have hgo : ∀ (o : Fin 64) (wide : Bool) (w : State), s.touch.leaveL1.descWrite f.val i.val o.val v wide tlp = w →
      exec (.ringDescriptorWrite f i o v wide tlp) s = .next w := fun o wide w h =>
    congrArg Host.Outcome.next ((hostAccess_running hr hd (b := .engine) (by decide) (some tlp) _).trans h)
  have hown : ∀ (o : Nat) (wide : Bool), s.touch.leaveL1.descWrite f.val i.val o v wide tlp = match o with
      | 0x00 => s.touch.leaveL1.ringBaseWrite f.val g false false wide v tlp
      | 0x04 => if wide then s.touch.leaveL1 else s.touch.leaveL1.ringBaseWrite f.val g false true false v tlp
      | 0x08 => s.touch.leaveL1.ringBaseWrite f.val g true false wide v tlp
      | 0x0C => if wide then s.touch.leaveL1 else s.touch.leaveL1.ringBaseWrite f.val g true true false v tlp
      | 0x10 => (if wide then s.touch.leaveL1.ringModWrite g ((v >>> 32).setWidth 32) else s.touch.leaveL1).ringCtrlWrite f.val g (v.setWidth 32) tlp
      | 0x14 => if wide then s.touch.leaveL1 else s.touch.leaveL1.ringModWrite g (v.setWidth 32)
      | _ => s.touch.leaveL1 := by
    intro o wide
    unfold State.descWrite
    rw [hpage]
    exact (if_neg fun h => h hfunc).trans rfl
  exact ⟨hgo 0x00 true _ (hown _ _), hgo 0x08 true _ (hown _ _), hgo 0x14 false _ (hown _ _)⟩

/-- A base written on an inactive ring, aligned. -/
theorem ringBaseWrite_spec (s : State) (f g : Nat) (cq : Bool) (v : DWord) (tlp : Tlp) (hact : (s.ring g).active = false) :
    let t := s.ringBaseWrite f g cq false true v tlp
    t.ring g = (if cq then { s.ring g with cqBase := v &&& 0xFFFFFFFFFFFFF000#64 } else { s.ring g with sqBase := v &&& 0xFFFFFFFFFFFFF000#64 }) ∧
      ∀ h, h ≠ g → t.ring h = s.ring h := by
  have hset : s.ringBaseWrite f g cq false true v tlp =
      if v &&& 0xFFFFFFFFFFFFF000#64 = (if cq then (s.ring g).cqBase else (s.ring g).sqBase) then s
      else s.updRing g (fun r => if cq then { r with cqBase := v &&& 0xFFFFFFFFFFFFF000#64 } else { r with sqBase := v &&& 0xFFFFFFFFFFFFF000#64 }) := by
    by_cases hsame : v &&& 0xFFFFFFFFFFFFF000#64 = (if cq then (s.ring g).cqBase else (s.ring g).sqBase)
    · rw [if_pos hsame]
      exact if_pos hsame
    · rw [if_neg hsame]
      exact (if_neg hsame).trans (if_neg (by simp [hact]))
  dsimp only
  rw [hset]
  by_cases hsame : v &&& 0xFFFFFFFFFFFFF000#64 = (if cq then (s.ring g).cqBase else (s.ring g).sqBase)
  · rw [if_pos hsame, hsame]
    refine ⟨?_, fun _ _ => rfl⟩
    cases cq with
    | true => rfl
    | false => rfl
  · rw [if_neg hsame]
    exact ⟨(ring_updRing s g g _).trans (if_pos rfl), fun h hh => (ring_updRing s g h _).trans (if_neg hh)⟩

/-- Settles O21: RING_CTRL, the bases and RING_MOD by the ring they change. -/
theorem ringsWritten : Obligations.RingsWritten := by
  refine ⟨fun s f i g v tlp hr hd hp hf hact hen hv hlog heng hvf => ?_, fun s f i g tlp hr hd hp hf => ?_⟩
  · have hring : ∀ h, s.touch.leaveL1.ring h = s.ring h := touch_ring s
    have hgo := (exec_ringWrite hr hd hp hf v tlp).1
    rw [ringCtrlWrite_enables (s := s.touch.leaveL1) tlp ((touch_ringFunc s g).trans hf) (by rw [hring]; exact hact) (by rw [hring]; exact hen) hv hlog heng hvf] at hgo
    have hg : ((s.touch.leaveL1.updRing g (fun r => r.withCtrl v)).updRing g Ring.enabled).ring g = ((s.ring g).withCtrl v).enabled := by
      rw [ring_updRing, if_pos rfl, ring_updRing, if_pos rfl, hring]
    have hother : ∀ h, h ≠ g → ((s.touch.leaveL1.updRing g (fun r => r.withCtrl v)).updRing g Ring.enabled).ring h = s.ring h := fun h hh => by
      rw [ring_updRing, if_neg hh, ring_updRing, if_neg hh, hring]
    have hhif : s.touch.hif = s.hif := by rw [s.touch_eq_pwr]
    refine ⟨_, hgo, ?_, hother, ?_⟩
    · rw [← hhif]
      rfl
    · rw [hg]
      exact ⟨rfl, rfl, rfl, rfl, rfl, rfl, rfl, rfl, rfl, rfl, rfl, rfl, rfl, bitAt_toNat v 13, rfl, rfl⟩
  · have hring : ∀ h, s.touch.leaveL1.ring h = s.ring h := touch_ring s
    have hbase := fun v => exec_descriptorWrite hr hd hp hf v tlp
    refine ⟨fun v hact hen hv hlog2 heng hcls hprio h6 h4 => ?_, fun v hact => ⟨?_, ?_⟩, fun v hact hne => ?_, fun v => ?_, fun v hbad => ?_⟩
    · have hgo := (exec_ringWrite hr hd hp hf v tlp).2
      rw [ringCtrlWrite_disables (s := s.touch.leaveL1) tlp (by rw [hring]; exact hact) (by rw [hring]; exact hen) hv (by rw [hring]; exact hlog2)
        (by rw [hring]; exact heng) (by rw [hring]; exact hcls) (by rw [hring]; exact hprio) (by rw [hring]; exact h6)
        (by rw [hring]; exact h4)] at hgo
      obtain ⟨hen', hpl, hli, hfe, hled, hconf⟩ := disableRing_spec (s.touch.leaveL1.updRing g (fun r => { r with irqEn := bitAt v.toNat 13 })) g
      refine ⟨_, hgo, hen', hpl, hli, hfe, hled.trans rfl, fun h hh => (hconf h hh).trans ?_⟩
      rw [ring_updRing, if_neg hh, hring]
    · obtain ⟨hg, hother⟩ := ringBaseWrite_spec s.touch.leaveL1 f.val g false v tlp (by rw [hring]; exact hact)
      refine ⟨_, (hbase v).1, ?_, fun h hh => (hother h hh).trans (hring h), ?_⟩
      · rw [hg]
        rfl
      · rw [hg, hring]
        rfl
    · obtain ⟨hg, hother⟩ := ringBaseWrite_spec s.touch.leaveL1 f.val g true v tlp (by rw [hring]; exact hact)
      refine ⟨_, (hbase v).2.1, ?_, fun h hh => (hother h hh).trans (hring h), ?_⟩
      · rw [hg]
        rfl
      · rw [hg, hring]
        rfl
    · refine ⟨_, (hbase v).1, ?_⟩
      have hlog : s.touch.leaveL1.ringBaseWrite f.val g false false true v tlp = s.touch.leaveL1.vlogTlp 0x0E 0 f.val g tlp := by
        unfold State.ringBaseWrite
        rw [hring]
        exact (if_neg hne).trans (if_pos hact)
      rw [hlog]
      exact touched_vlogTlp s 0x0E 0 f.val g tlp
    · have hval : (v.setWidth 32 : Word).toNat = v.toNat % 2 ^ 32 := by simp
      refine ⟨_, (hbase v).2.2, ?_, fun h hh => ((ring_updRing _ g h _).trans (if_neg hh)).trans (hring h), ?_⟩
      · refine ((ring_updRing _ g g _).trans (if_pos rfl)).trans ?_
        rw [hring, hval]
        have h8 : bitsAt (v.toNat % 2 ^ 32) 0 8 = v.toNat % 256 := by unfold bitsAt; omega
        have h16 : bitsAt (v.toNat % 2 ^ 32) 16 16 = v.toNat / 65536 % 65536 := by unfold bitsAt; omega
        rw [h8, h16]
      · have hhif : s.touch.hif = s.hif := by rw [s.touch_eq_pwr]
        rw [← hhif]
        rfl
    · refine ⟨_, (exec_ringWrite hr hd hp hf v tlp).1, ?_⟩
      have hlog : s.touch.leaveL1.ringCtrlWrite f.val g v tlp = s.touch.leaveL1.vlogTlp 0x0E 0 f.val g tlp := if_pos hbad
      rw [hlog]
      exact touched_vlogTlp s 0x0E 0 f.val g tlp

end Sys2Proof.Machine
end

section
/-! PROOFS. Fetches that return or fail, and the moderation timer. -/

namespace Sys2Proof.Machine

set_option Elab.async false

variable {s t u : State} {g : Nat}

/-- A list fetch leaves every ring's packets and the life cycle. -/
theorem fetchList_places (s : State) (k : Nat) : ((s.fetchList k).ring g).places = (s.ring g).places ∧ (s.fetchList k).lcs = s.lcs := by
  have hset : ∀ (l : List ListCtx) (f n : Nat) (a : DWord),
      (((s.updRing k (fun r => { r with lists := l })).issueRead f a n).ring g).places = (s.ring g).places ∧
      ((s.updRing k (fun r => { r with lists := l })).issueRead f a n).lcs = s.lcs := fun l f n a => by
    have hr := issueRead_queue (g := g) (s.updRing k (fun r => { r with lists := l })) f a n
    refine ⟨(congrArg (fun v => v.2.2.2.2.1) hr.view).trans ?_, hr.lcs⟩
    show ((s.updRing k _).ring g).places = _
    rw [ring_updRing]
    split
    · next h => rw [h]
    · rfl
  unfold State.fetchList
  split
  · exact ⟨rfl, rfl⟩
  · split
    · exact ⟨rfl, rfl⟩
    · exact hset _ _ _ _

/-- Fetches leave every ring's packets and the life cycle. -/
theorem fetchWork_places (s : State) : (s.fetchWork.ring g).places = (s.ring g).places ∧ s.fetchWork.lcs = s.lcs := by
  have hlists : ∀ (l : List (Nat × Ring)) (v : State), ((l.foldl (fun t e => t.fetchList e.1) v).ring g).places = (v.ring g).places ∧
      (l.foldl (fun t e => t.fetchList e.1) v).lcs = v.lcs := by
    intro l
    induction l with
    | nil => exact fun _ => ⟨rfl, rfl⟩
    | cons e l ih => exact fun v => ⟨(ih _).1.trans (fetchList_places v e.1).1, (ih _).2.trans (fetchList_places (g := g) v e.1).2⟩
  have hall : ∀ (fuel : Nat) (v : State), ((State.fetchAll fuel v).ring g).places = (v.ring g).places ∧ (State.fetchAll fuel v).lcs = v.lcs := by
    intro fuel
    induction fuel with
    | zero => exact fun v => ⟨rfl, rfl⟩
    | succ n ih =>
      intro v
      unfold State.fetchAll
      split
      · exact ⟨rfl, rfl⟩
      · next k _ =>
        obtain ⟨hp, -, hc⟩ := fetchRing_holds (g := g) v k
        exact ⟨(ih _).1.trans hp, (ih _).2.trans hc⟩
  exact ⟨(hall _ _).1.trans (hlists _ _).1, (hall _ _).2.trans (hlists _ _).2⟩

/-- A ring whose head packet is not refused settles with its packets as they are, and its lists once their read is issued. -/
theorem settle_of_unrefused (h : s.rejectHead g = none) : ((s.settle g).ring g).places = (s.ring g).places ∧
    ((∀ c ∈ (s.ring g).lists.head?, c.issued = true) → ((s.settle g).ring g).lists = (s.ring g).lists) := by
  have hloop : State.settleLoop ((s.ring g).held + 1) s g = s := by
    unfold State.settleLoop
    rw [h]
  have hclose := closeLists_queue (g := g) 3 s
  have hlists : ((State.closeLists 3 s).ring g).lists = (s.ring g).lists := congrArg (fun v => v.2.2.2.2.2.1) hclose.view
  unfold State.settle
  rw [hloop]
  exact ⟨(fetchWork_places _).1.trans (congrArg (fun v => v.2.2.2.2.1) hclose.view),
    fun hc => ((fetchWork_holds _ (by rw [hlists]; exact hc)).2.1).trans hlists⟩

/-- A LIFECYCLE_ADVANCE that its own parameters fail stays noted while further head packets are refused. -/
def LcsNoted (s : State) : Prop := s.lcs.lastStatus = stBadParam ∧ s.lcs.lastCheck = 1

theorem rejectPacket_lcs (s : State) (g : Nat) (p : List Byte) (d n : Nat) (e : End) : (s.rejectPacket g p d n e).lcs = (s.noteLifecycle p e).lcs :=
  (writeRecord_queue (g := g) _ _ _ _ _ _ _ _ _ _ _ _).lcs.trans rfl

theorem LcsNoted.note (h : LcsNoted s) (p : List Byte) (e : End) : LcsNoted (s.noteLifecycle p e) := by
  unfold State.noteLifecycle
  split
  · exact ⟨rfl, rfl⟩
  · exact h

theorem LcsNoted.settleLoop (fuel : Nat) (h : LcsNoted s) : LcsNoted (State.settleLoop fuel s g) := by
  induction fuel generalizing s with
  | zero => exact h
  | succ n ih =>
    unfold State.settleLoop
    split
    · exact h
    · next s' hs =>
      refine ih ?_
      unfold State.rejectHead at hs
      split at hs
      · cases hs
      · next p d _ =>
        dsimp only at hs
        split at hs
        · obtain ⟨e, -, rfl⟩ := Option.map_eq_some_iff.mp hs
          have := h.note p e
          unfold LcsNoted at this ⊢
          rw [rejectPacket_lcs]
          exact this
        · cases hs

/-- The head packet that fails a check before admission ends with its record; what follows sends no less. -/
theorem settle_of_refused {p : List Byte} {depth : Nat} {e : End} (hh : (s.ring g).headPacket = some (p, depth)) (hdec : s.decodersRun = true)
    (hcov : (s.ring g).covered (pktEntries p) = true) (hfree : 1 ≤ (s.ring g).freeSlots) (hwait : s.ringWaits g = false)
    (hf : s.headFault g p = some e) :
    (∀ x, (s.rejectPacket g p depth (pktEntries p) e).sends x → (s.settle g).sends x) ∧
    (pktOp p = 0x52 → [0x10, 0x18, 0x20].any (fun o => e == endParam o) = true → LcsNoted (s.settle g)) := by
  have hrej : s.rejectHead g = some (s.rejectPacket g p depth (pktEntries p) e) := by
    unfold State.rejectHead
    rw [hh]
    dsimp only
    rw [if_pos (by simp [hdec, hcov, hfree, hwait]), hf]
    rfl
  have hloop : State.settleLoop ((s.ring g).held + 1) s g = State.settleLoop (s.ring g).held (s.rejectPacket g p depth (pktEntries p) e) g := by
    rw [State.settleLoop, hrej]
  refine ⟨fun x hx => ?_, fun hop hany => ?_⟩
  · unfold State.settle
    rw [hloop]
    exact fetchWork_sends (closeLists_sends 3 (settleLoop_sends _ _ hx))
  · have hnote : LcsNoted (s.rejectPacket g p depth (pktEntries p) e) := by
      unfold LcsNoted
      rw [rejectPacket_lcs, State.noteLifecycle, if_pos ⟨hop, hany⟩]
      exact ⟨rfl, rfl⟩
    have hend := hnote.settleLoop (g := g) (s.ring g).held
    unfold State.settle
    rw [hloop]
    unfold LcsNoted at hend ⊢
    rw [(fetchWork_places (g := g) _).2, (closeLists_queue (g := g) 3 _).lcs]
    exact hend

/-- What is sent stays sent as a ring halts. -/
theorem haltRing_out (s : State) (g cause : Nat) (a : DWord) : s.out ⊆ (s.haltRing g cause a).out := by
  have hdrop : ∀ v : State, v.out ⊆ (v.dropRing g).fetchWork.out := fun v => by
    unfold State.dropRing
    refine List.Subset.trans ?_ (((closeLists_books 3 _).trans (ringIdle_books _ g)).trans (fetchWork_books _)).out
    exact List.Subset.refl v.out
  unfold State.haltRing
  refine List.Subset.trans ?_ (hdrop _)
  refine List.Subset.trans ?_ (devVec_books _ 4).out
  refine List.Subset.trans ?_ ((signalRing_books _ g).ite (.refl _)).out
  exact List.Subset.refl s.out

/-- A fetch that fails halts its ring, and signals the AER error that its log kind has. -/
theorem fetchFailed_spec (s : State) (g kind cause : Nat) (addr : DWord) : Halted s (s.fetchFailed g kind cause addr) g cause addr ∧
    (kind ≠ 0x0B → Emit.aer kind ∈ (s.fetchFailed g kind cause addr).out) := by
  have hrep : ReportOnly s ((if kind = 0x0B then s else s.emit (.aer kind)).vlog kind 4 (s.hif.rid.toNat + s.ringFunc g) (s.ringFunc g) g 0) := by
    have h1 : ReportOnly s (if kind = 0x0B then s else s.emit (.aer kind)) := by
      split
      · rfl
      · exact emit_report s _
    exact Eq.trans (vlog_report _ _ _ _ _ _ _) h1
  unfold State.fetchFailed
  dsimp only
  obtain ⟨hled, hrest⟩ := haltRing_halted ((if kind = 0x0B then s else s.emit (.aer kind)).vlog kind 4 (s.hif.rid.toNat + s.ringFunc g) (s.ringFunc g) g 0)
    g cause addr
  refine ⟨⟨hrep.ledger.trans hled, hrest⟩, fun hk => haltRing_out _ _ _ _ (vlog_out _ _ _ _ _ _ ?_)⟩
  rw [if_neg hk]
  exact List.mem_cons_self

/-- A ring filled by a fetch reads as before but for its packets. -/
theorem fill_ledger (s : State) (g : Nat) {f : Ring → Ring} (hf : ∀ r, (f r).config = r.config) : LedgerOnly s ((s.updRing g f).settle g) :=
  (updRing_ledger s g f hf).trans (settle_ledger _ _)

/-- Every way in which a ring's fetch ends. -/
theorem ringFetch_yields (s : State) (g : Fin 1024) (hfe : (s.ring g.val).fetching ≠ 0) :
    (∀ bytes, exec (.ringFetchCompletion g (.data bytes)) s =
      .next ((s.updRing g.val (fun r => { r with places := r.places ++ packetsOf r.fetching bytes, fetching := 0 })).settle g.val)) ∧
    (∀ r kind cause, failCode r = some (kind, cause) → exec (.ringFetchCompletion g r) s =
      .next (s.fetchFailed g.val kind cause (s.ring g.val).fetchAddr)) := by
  refine ⟨fun bytes => congrArg Host.Outcome.next (if_neg hfe), fun r kind cause hr => ?_⟩
  refine congrArg Host.Outcome.next ((if_neg hfe).trans ?_)
  rw [hr]
  cases r with
  | data bytes => cases hr
  | ur => rfl
  | ca => rfl
  | poisoned => rfl
  | timeout => rfl

/-- Every way in which the read of a ring's innermost list ends. -/
theorem listFetch_yields (s : State) (g : Fin 1024) {c : ListCtx} {cs : List ListCtx} (hl : (s.ring g.val).lists = c :: cs)
    (hi : c.issued = true) (hf : c.fetched = false) :
    (∀ bytes, exec (.listFetchCompletion g (.data bytes)) s = .next ((s.updRing g.val (fun r => { r with
      lists := { c with fetched := true, rest := packetsOf c.entries bytes } :: cs })).settle g.val)) ∧
    (∀ r kind cause, failCode r = some (kind, cause) → exec (.listFetchCompletion g r) s = .next (s.fetchFailed g.val kind cause c.addr)) := by
  have he : ∀ r, exec (.listFetchCompletion g r) s = .next (match (s.ring g.val).lists with
    | [] => s
    | c :: cs =>
      if c.fetched || !c.issued then s
      else match r, failCode r with
        | .data bytes, _ =>
          (s.updRing g.val (fun r => { r with lists := { c with fetched := true, rest := packetsOf c.entries bytes } :: cs })).settle g.val
        | _, some (kind, cause) => s.fetchFailed g.val kind cause c.addr
        | _, none => s) := fun _ => rfl
  rw [hl] at he
  have hgo := fun r => (he r).trans (congrArg Host.Outcome.next (if_neg (by simp [hi, hf])))
  refine ⟨fun bytes => hgo _, fun r kind cause hr => (hgo r).trans ?_⟩
  rw [hr]
  cases r with
  | data bytes => cases hr
  | ur => rfl
  | ca => rfl
  | poisoned => rfl
  | timeout => rfl

/-- Every end of a ring's fetch. -/
theorem ringFetch_completes (s : State) (g : Fin 1024) (hfe : (s.ring g.val).fetching ≠ 0) :
    (∀ bytes, (s.updRing g.val (fun r => { r with places := r.places ++ packetsOf r.fetching bytes, fetching := 0 })).rejectHead
        g.val = none →
      Yields (.ringFetchCompletion g (.data bytes)) s (fun t => LedgerOnly s t ∧
        (t.ring g.val).places = (s.ring g.val).places ++ packetsOf (s.ring g.val).fetching bytes)) ∧
    (∀ bytes p depth e, Reporting s g.val →
      let u := s.updRing g.val (fun r => { r with places := r.places ++ packetsOf r.fetching bytes, fetching := 0 })
      (u.ring g.val).headPacket = some (p, depth) → u.decodersRun = true → (u.ring g.val).covered (pktEntries p) = true →
      1 ≤ (u.ring g.val).freeSlots → u.ringWaits g.val = false → u.headFault g.val p = some e →
      Yields (.ringFetchCompletion g (.data bytes)) s (fun t => LedgerOnly s t ∧
        Recorded s t g.val (pktTag p) (pktOp p) (decide (0 < depth)) e ∧
        (pktOp p = 0x52 → [0x10, 0x18, 0x20].any (fun o => e == endParam o) = true →
          t.lcs.lastStatus = stBadParam ∧ t.lcs.lastCheck = 1))) ∧
    Yields (.ringFetchCompletion g .ur) s (fun t => Halted s t g.val 2 (s.ring g.val).fetchAddr) ∧
    Yields (.ringFetchCompletion g .ca) s (fun t => Halted s t g.val 3 (s.ring g.val).fetchAddr) ∧
    Yields (.ringFetchCompletion g .poisoned) s (fun t => Halted s t g.val 4 (s.ring g.val).fetchAddr ∧
      Emit.aer 0x0C ∈ t.out) ∧
    (s.hif.toDisable = false → Yields (.completionTimeout (.ring g)) s (fun t =>
      Halted s t g.val 1 (s.ring g.val).fetchAddr ∧ Emit.aer 0x0A ∈ t.out)) := by
  obtain ⟨hdata, hfail⟩ := ringFetch_yields s g hfe
  have hspec := fun kind cause => fetchFailed_spec s g.val kind cause (s.ring g.val).fetchAddr
  refine ⟨fun bytes h => ⟨_, hdata bytes, fill_ledger s g.val fun _ => rfl, ?_⟩, fun bytes p depth e hm => ?_,
    ⟨_, hfail .ur _ _ rfl, (hspec _ _).1⟩, ⟨_, hfail .ca _ _ rfl, (hspec _ _).1⟩,
    ⟨_, hfail .poisoned _ _ rfl, (hspec _ _).1, (hspec _ _).2 (by decide)⟩, fun hto => ?_⟩
  · refine (settle_of_unrefused h).1.trans ?_
    rw [ring_updRing, if_pos rfl]
  · intro u hh hdec hcov hfree hwait hf
    obtain ⟨hsends, hnoted⟩ := settle_of_refused hh hdec hcov hfree hwait hf
    have hview : ∀ k, (u.ring k).recordView = (s.ring k).recordView := fun k => by
      rw [ring_updRing]
      split
      · next hk => rw [hk]; rfl
      · rfl
    have hsame : SameRecords s u := ⟨hview, rfl, rfl⟩
    have hhalt : (u.ring g.val).halted = false := by
      unfold Ring.headPacket at hh
      split at hh
      · cases hh
      · next hc => exact (by simpa using hc : _ ∧ _).2
    have hrec := rejectPacket_recorded u g.val p depth (pktEntries p) e hhalt hm.2.1 hm.1
    exact ⟨_, hdata bytes, fill_ledger s g.val fun _ => rfl, (hrec.mono hsends).of_same hsame, hnoted⟩
  · have he : exec (.completionTimeout (.ring g)) s = .next (s.fetchFailed g.val 0x0A 1 (s.ring g.val).fetchAddr) :=
      congrArg Host.Outcome.next ((if_neg (by simp [hto])).trans (if_neg hfe))
    exact ⟨_, he, (hspec _ _).1, (hspec _ _).2 (by decide)⟩

/-- Every end of a list's read. -/
theorem listFetch_completes (s : State) (g : Fin 1024) {c : ListCtx} {cs : List ListCtx} (hl : (s.ring g.val).lists = c :: cs)
    (hi : c.issued = true) (hf : c.fetched = false) :
    (∀ bytes, (s.updRing g.val (fun r => { r with
          lists := { c with fetched := true, rest := packetsOf c.entries bytes } :: cs })).rejectHead g.val = none →
      Yields (.listFetchCompletion g (.data bytes)) s (fun t => LedgerOnly s t ∧
        (t.ring g.val).lists = { c with fetched := true, rest := packetsOf c.entries bytes } :: cs)) ∧
    Yields (.listFetchCompletion g .ur) s (fun t => Halted s t g.val 2 c.addr) ∧
    Yields (.listFetchCompletion g .ca) s (fun t => Halted s t g.val 3 c.addr) ∧
    Yields (.listFetchCompletion g .poisoned) s (fun t => Halted s t g.val 4 c.addr) ∧
    (s.hif.toDisable = false → Yields (.completionTimeout (.list g)) s (fun t => Halted s t g.val 1 c.addr)) := by
  obtain ⟨hdata, hfail⟩ := listFetch_yields s g hl hi hf
  have hspec := fun kind cause => (fetchFailed_spec s g.val kind cause c.addr).1
  refine ⟨fun bytes h => ⟨_, hdata bytes, fill_ledger s g.val fun _ => rfl, ?_⟩, ⟨_, hfail .ur _ _ rfl, hspec _ _⟩,
    ⟨_, hfail .ca _ _ rfl, hspec _ _⟩, ⟨_, hfail .poisoned _ _ rfl, hspec _ _⟩, fun hto => ?_⟩
  · have hset : ((s.updRing g.val (fun r => { r with
          lists := { c with fetched := true, rest := packetsOf c.entries bytes } :: cs })).ring g.val).lists =
        { c with fetched := true, rest := packetsOf c.entries bytes } :: cs := by
      rw [ring_updRing, if_pos rfl]
    refine ((settle_of_unrefused h).2 ?_).trans hset
    rw [hset]
    intro d hd
    rw [← Option.some.inj hd]
    exact hi
  · have he : exec (.completionTimeout (.list g)) s = .next (if s.hif.toDisable then s else match (s.ring g.val).lists with
      | c :: _ => if c.issued && !c.fetched then s.fetchFailed g.val 0x0A 1 c.addr else s
      | [] => s) := rfl
    rw [hl] at he
    exact ⟨_, he.trans (congrArg Host.Outcome.next ((if_neg (by simp [hto])).trans (if_pos (by simp [hi, hf])))), hspec _ _⟩

/-- An entry that is set pending reads as pending. -/
theorem msixEntry_setMsixPending (s : State) (f e : Nat) : ((s.setMsixPending f e true).msixEntry f e).pending = true := by
  simp [State.setMsixPending, State.msixEntry]

/-- A signal of an enabled function goes out, or waits where its entry is masked. -/
theorem signal_spec (s : State) {f e : Nat} (hen : s.hif.msixEn.getD f false = true) :
    ((s.msixEntry f e).masked = false → s.hif.msixFm.getD f false = false → s.mayMaster f = true → (s.signal f e).sends (.msi f e)) ∧
    ((s.msixEntry f e).masked = true → ((s.signal f e).msixEntry f e).pending = true) := by
  have hgo : s.signal f e = if (s.msixEntry f e).masked || s.hif.msixFm.getD f false || !s.mayMaster f then s.setMsixPending f e true
      else s.post (.msi f e) none none := if_neg (by rw [hen]; decide)
  rw [hgo]
  refine ⟨fun hmask hfm hmay => ?_, fun hmask => ?_⟩
  · rw [if_neg (by rw [hmask, hfm, hmay]; decide)]
    exact post_sent _ _ _ _
  · rw [if_pos (by rw [hmask]; rfl)]
    exact msixEntry_setMsixPending s f e

/-- The moderation timer signals the ring's vector and starts its count again. -/
theorem ringModTimer_signals (s : State) (g : Nat) :
    ((s.signalRing g).ring g).unsig = 0 ∧ ((s.signalRing g).ring g).unsigAt = none ∧ LedgerOnly s (s.signalRing g) ∧
      (∀ h, h ≠ g → (s.signalRing g).ring h = s.ring h) ∧
      (s.hif.msixEn.getD (s.ringFunc g) false = true →
        ((s.msixEntry (s.ringFunc g) (s.ringEntry g)).masked = false → s.hif.msixFm.getD (s.ringFunc g) false = false →
          s.mayMaster (s.ringFunc g) = true → (s.signalRing g).sends (.msi (s.ringFunc g) (s.ringEntry g))) ∧
        ((s.msixEntry (s.ringFunc g) (s.ringEntry g)).masked = true →
          ((s.signalRing g).msixEntry (s.ringFunc g) (s.ringEntry g)).pending = true)) := by
  let u := s.updRing g (fun r => { r with unsig := 0, unsigAt := none })
  have hring : ∀ h, (s.signalRing g).ring h = u.ring h := fun h => by
    exact congrArg (fun rs => Tab.getD rs h Ring.initial) (signal_report u (s.ringFunc g) (s.ringEntry g)).rings_eq
  have hg : (s.signalRing g).ring g = { s.ring g with unsig := 0, unsigAt := none } :=
    (hring g).trans ((ring_updRing s g g _).trans (if_pos rfl))
  refine ⟨by rw [hg], by rw [hg], signalRing_ledger s g, fun h hh => (hring h).trans ((ring_updRing s g h _).trans (if_neg hh)),
    fun hen => signal_spec u hen⟩

/-- Settles O22: each fetch by how it ends, and the moderation timer by the vector it signals. -/
theorem fetchesComplete : Obligations.FetchesComplete := by
  refine ⟨fun s g => ⟨ringFetch_completes s g, fun c cs hl hi hf => listFetch_completes s g hl hi hf, fun src hto => ?_⟩,
    fun s g at_ hat hirq htimer hdue => ?_⟩
  · exact congrArg Host.Outcome.next (if_pos hto)
  · have he : exec (.ringModTimer g) s = .next (match (s.ring g.val).unsigAt with
      | none => s
      | some t => if (s.ring g.val).irqEn && decide ((s.ring g.val).modTimer ≠ 0) && decide (t + (s.ring g.val).modTimer ≤ s.tmr.uptime)
          then s.signalRing g.val else s) := rfl
    rw [hat] at he
    exact ⟨_, he.trans (congrArg Host.Outcome.next (if_pos (by simp [hirq, htimer, hdue]))), ringModTimer_signals s g.val⟩

end Sys2Proof.Machine
end

section
/-! PROOFS. Commands that stand while their ring settles. -/

namespace Sys2Proof.Machine

set_option Elab.async false

variable {s t u : State} {g : Nat}

/-! Records, refusals and fetches leave the commands. -/

theorem signalRing_cmds (s : State) (k : Nat) : (s.signalRing k).cmds = s.cmds := (signal_report _ _ _).cmds_eq

theorem ite_signal_cmds (b : Bool) (s : State) (k : Nat) : (if b then s.signalRing k else s).cmds = s.cmds := by
  split
  · exact signalRing_cmds s k
  · rfl

theorem dropResults_cmds (s : State) (c : Option Nat) (k : Nat) : (s.dropResults c k).cmds = s.cmds := by
  unfold State.dropResults
  dsimp only
  split
  · exact (vlog_report _ _ _ _ _ _ _).cmds_eq
  · split
    · rfl
    · exact (vlog_report _ _ _ _ _ _ _).cmds_eq

theorem writeRecord_cmds (s : State) (k tag op : Nat) (inList irqNow detached : Bool) (cid : Option Nat) (start evals skipped : Nat)
    (e : End) : (s.writeRecord k tag op inList irqNow detached cid start evals skipped e).cmds = s.cmds := by
  unfold State.writeRecord
  dsimp only
  split
  · rfl
  · split
    · exact dropResults_cmds s _ _
    · refine (ite_signal_cmds _ _ k).trans ?_
      exact (post_report s _ none _).cmds_eq

theorem ringIdle_cmds (s : State) (k : Nat) : (s.ringIdle k).cmds = s.cmds := by
  unfold State.ringIdle
  dsimp only
  split
  · rfl
  · rfl

theorem weightEvent_cmds (s : State) (x : Cmd) : (s.weightEvent x).cmds = s.cmds := by
  unfold State.weightEvent
  split
  · exact (devVec_report s 7).cmds_eq
  · rfl

theorem fetchRing_cmds (s : State) (k : Nat) : (s.fetchRing k).cmds = s.cmds := (issueRead_report _ _ _ _).cmds_eq

theorem fetchList_cmds (s : State) (k : Nat) : (s.fetchList k).cmds = s.cmds := by
  unfold State.fetchList
  split
  · rfl
  · split
    · rfl
    · exact (issueRead_report _ _ _ _).cmds_eq

theorem fetchAll_cmds (fuel : Nat) (s : State) : (State.fetchAll fuel s).cmds = s.cmds := by
  induction fuel generalizing s with
  | zero => rfl
  | succ n ih =>
    unfold State.fetchAll
    split
    · rfl
    · exact (ih _).trans (fetchRing_cmds s _)

theorem fetchWork_cmds (s : State) : s.fetchWork.cmds = s.cmds := by
  have hlists : ∀ (l : List (Nat × Ring)) (v : State), (l.foldl (fun t e => t.fetchList e.1) v).cmds = v.cmds := by
    intro l
    induction l with
    | nil => exact fun _ => rfl
    | cons e l ih => exact fun v => (ih _).trans (fetchList_cmds v e.1)
  exact (fetchAll_cmds _ _).trans (hlists _ _)

theorem rejectPacket_cmds (s : State) (g : Nat) (p : List Byte) (d n : Nat) (e : End) : (s.rejectPacket g p d n e).cmds = s.cmds := by
  have hnote : (s.noteLifecycle p e).cmds = s.cmds := by
    unfold State.noteLifecycle
    split <;> rfl
  exact (writeRecord_cmds _ _ _ _ _ _ _ _ _ _ _ _).trans hnote

theorem rejectHead_cmds {s' : State} (h : s.rejectHead g = some s') : s'.cmds = s.cmds := by
  unfold State.rejectHead at h
  split at h
  · cases h
  · dsimp only at h
    split at h
    · obtain ⟨e, -, rfl⟩ := Option.map_eq_some_iff.mp h
      exact rejectPacket_cmds s _ _ _ _ _
    · cases h

theorem settleLoop_cmds (fuel : Nat) (s : State) (g : Nat) : (State.settleLoop fuel s g).cmds = s.cmds := by
  induction fuel generalizing s with
  | zero => rfl
  | succ n ih =>
    unfold State.settleLoop
    split
    · rfl
    · next h => exact (ih _).trans (rejectHead_cmds h)

/-- The end of a command leaves the others, takes it out, or holds its record. -/
theorem endCmd_cmds (s : State) (c : Nat) (e : End) :
    (∃ x, s.cmd? c = some x ∧ s.mirrorHolds x = true ∧ (s.endCmd c e).cmds = s.cmds.map (fun y => if y.cid == c then { y with held := some e } else y)) ∨
    (∃ x, s.cmd? c = some x ∧ s.mirrorHolds x = false ∧ (s.endCmd c e).cmds = s.cmds.filter (fun y => y.cid != c)) ∨
    (s.cmd? c = none ∧ s.endCmd c e = s) := by
  unfold State.endCmd
  split
  · next h => exact .inr (.inr ⟨h, rfl⟩)
  · next x h =>
    by_cases hm : s.mirrorHolds x = true
    · rw [if_pos hm]
      exact .inl ⟨x, h, hm, rfl⟩
    · rw [if_neg hm]
      exact .inr (.inl ⟨x, h, by simpa using hm, (weightEvent_cmds _ _).trans ((ringIdle_cmds _ _).trans (writeRecord_cmds _ _ _ _ _ _ _ _ _ _ _ _))⟩)

/-- Another command is left as it is. -/
theorem mem_endCmd_of_ne {c : Nat} {x : Cmd} (hne : x.cid ≠ c) (e : End) : x ∈ (s.endCmd c e).cmds ↔ x ∈ s.cmds := by
  rcases endCmd_cmds s c e with ⟨y, -, -, h⟩ | ⟨y, -, -, h⟩ | ⟨-, h⟩
  · rw [h, List.mem_map]
    constructor
    · rintro ⟨z, hz, rfl⟩
      by_cases hzc : (z.cid == c) = true
      · rw [if_pos hzc] at hne
        exact absurd (by simpa using hzc) hne
      · rw [if_neg hzc]
        exact hz
    · exact fun hx => ⟨x, hx, if_neg (by simpa using hne)⟩
  · rw [h, List.mem_filter]
    exact ⟨fun hx => hx.1, fun hx => ⟨hx, by simpa using hne⟩⟩
  · rw [h]

/-- A command stands: it is the only one of its number, and is no LIST_CALL, or one whose list its ring still holds. -/
structure Stands (c : Cmd) (s : State) : Prop where
  mem : c ∈ s.cmds
  only : ∀ x ∈ s.cmds, x.cid = c.cid → x = c
  open_ : (∀ n k, c.body ≠ .listCall n k) ∨ (s.ring c.ring).lists.any (fun l => l.cid == c.cid) = true

/-- A command that stands is not ended as a list. -/
theorem Stands.not_listEnded {c : Cmd} (h : Stands c s) : s.listEnded c = false := by
  unfold State.listEnded
  split
  · next n k hb =>
    rcases h.open_ with ho | ho
    · exact absurd hb (ho n k)
    · rw [ho]
      rfl
  · rfl

/-- Lists that close leave a command that stands. -/
theorem Stands.closeLists {c : Cmd} (fuel : Nat) (h : Stands c s) : Stands c (State.closeLists fuel s) := by
  induction fuel generalizing s with
  | zero => exact h
  | succ n ih =>
    unfold State.closeLists
    split
    · exact h
    · next x hx =>
      have hne : x.cid ≠ c.cid := fun he => by
        have hended : s.listEnded x = true := List.find?_some (p := fun x => s.listEnded x) hx
        rw [h.only x (List.mem_of_find?_eq_some hx) he, h.not_listEnded] at hended
        cases hended
      have hlists : ∀ e, ((s.endCmd x.cid e).ring c.ring).lists = (s.ring c.ring).lists := fun e =>
        congrArg (fun v => v.2.2.2.2.2.1) (endCmd_queue (g := c.ring) s x.cid e).view
      refine ih ⟨(mem_endCmd_of_ne (Ne.symm hne) _).mpr h.mem, fun y hy he => ?_, h.open_.imp_right fun ho => ?_⟩
      · exact h.only y ((mem_endCmd_of_ne (fun hyx => hne (hyx.symm.trans he)) _).mp hy) he
      · rw [hlists]
        exact ho

/-- A command that is no LIST_CALL stands while a ring settles. -/
theorem Stands.settle {c : Cmd} (h : Stands c s) (hb : ∀ n k, c.body ≠ .listCall n k) (g : Nat) : c ∈ (s.settle g).cmds := by
  have hloop : Stands c (State.settleLoop ((s.ring g).held + 1) s g) := by
    refine ⟨?_, ?_, .inl hb⟩
    · rw [settleLoop_cmds]
      exact h.mem
    · rw [settleLoop_cmds]
      exact h.only
  unfold State.settle
  rw [fetchWork_cmds]
  exact (hloop.closeLists 3).mem

/-- The command just admitted stands. -/
theorem accept_stands (h : CidsFresh s) (g : Nat) (p : List Byte) (b : Body) (d : Option Nat) (w : Nat) (hb : ∀ n k, b ≠ .listCall n k) :
    Stands (s.headCmd g p b d w) (s.accept g p b d w) := by
  refine ⟨List.mem_append_right _ (List.mem_singleton.mpr rfl), fun x hx he => ?_, .inl hb⟩
  rcases List.mem_append.mp hx with hx | hx
  · have := h x hx
    have he' : x.cid = s.nextCid := he
    omega
  · exact List.mem_singleton.mp hx

/-- A number that no command has stays without one. -/
theorem endCmd_gone {c : Nat} (h : ∀ x ∈ s.cmds, x.cid ≠ c) (k : Nat) (e : End) : ∀ x ∈ (s.endCmd k e).cmds, x.cid ≠ c := by
  intro x hx hc
  by_cases hk : x.cid = k
  · rcases endCmd_cmds s k e with ⟨y, -, -, he⟩ | ⟨y, -, -, he⟩ | ⟨-, he⟩
    · rw [he] at hx
      obtain ⟨z, hz, rfl⟩ := List.mem_map.mp hx
      refine h z hz ?_
      split at hc
      · exact hc
      · exact hc
    · rw [he] at hx
      exact absurd hk (by simpa using (List.mem_filter.mp hx).2)
    · rw [he] at hx
      exact h x hx hc
  · exact h x ((mem_endCmd_of_ne hk e).mp hx) hc

theorem closeLists_gone {c : Nat} (fuel : Nat) (h : ∀ x ∈ s.cmds, x.cid ≠ c) : ∀ x ∈ (State.closeLists fuel s).cmds, x.cid ≠ c := by
  induction fuel generalizing s with
  | zero => exact h
  | succ n ih =>
    unfold State.closeLists
    split
    · exact h
    · exact ih (endCmd_gone h _ _)

theorem closeSessions_gone {c : Nat} (fuel : Nat) (h : ∀ x ∈ s.cmds, x.cid ≠ c) : ∀ x ∈ (State.closeSessions fuel s).cmds, x.cid ≠ c := by
  induction fuel generalizing s with
  | zero => exact h
  | succ n ih =>
    have hidle : ∀ v : State, v.wpeIdle.cmds = v.cmds := fun v => by
      unfold State.wpeIdle
      split <;> rfl
    unfold State.closeSessions
    split
    · exact h
    · next y _ =>
      refine ih ?_
      rw [hidle]
      exact endCmd_gone (s := { s with wpe := { s.wpe with sessions := s.wpe.sessions.filter (fun z => z.num != y.num) } }) h _ _

/-- A command that no pair mirrors is gone once it has ended. -/
theorem finish_gone {x : Cmd} (hx : s.cmd? x.cid = some x) (hmir : x.mir = []) (e : End) : (s.finish x.cid e).cmd? x.cid = none := by
  have hend : ∀ y ∈ (s.endCmd x.cid e).cmds, y.cid ≠ x.cid := by
    rcases endCmd_cmds s x.cid e with ⟨z, hz, hm, -⟩ | ⟨z, -, -, hc⟩ | ⟨hn, -⟩
    · rw [hx] at hz
      rw [← Option.some.inj hz, State.mirrorHolds, hmir] at hm
      cases hm
    · rw [hc]
      exact fun y hy => by simpa using (List.mem_filter.mp hy).2
    · rw [hx] at hn
      cases hn
  refine List.find?_eq_none.mpr fun y hy => ?_
  unfold State.finish at hy
  rw [hx] at hy
  unfold State.settle at hy
  rw [fetchWork_cmds] at hy
  have hloop : ∀ y ∈ (State.settleLoop (((State.closeSessions 4 ((s.endCmd x.cid e).closeLists 3)).ring x.ring).held + 1)
      (State.closeSessions 4 ((s.endCmd x.cid e).closeLists 3)) x.ring).cmds, y.cid ≠ x.cid := by
    rw [settleLoop_cmds]
    exact closeSessions_gone 4 (closeLists_gone 3 hend)
  simpa using closeLists_gone 3 hloop y hy

end Sys2Proof.Machine
end

section
/-! PROOFS. WAIT_FLAG, LIST_CALL, and the flags and mailbox of every agent. -/

namespace Sys2Proof.Machine

set_option Elab.async false

variable {s t u : State} {g : Nat}

/-- Where a packet is ready the device runs, and so do its decoders. -/
theorem running_of_ready {op : Nat} {b : Bool} {p : List Byte} (h : s.ready g op b = some p) :
    s.mainLive = true ∧ (s.pwr.dev = .run ∨ s.pwr.dev = .economy) := by
  obtain ⟨-, -, -, hfault, hrun, -⟩ := ready_head h
  have hdry : s.pwr.dev ≠ .dry := fun hd => by
    unfold State.headFault at hfault
    split at hfault
    · cases hfault
    · split at hfault
      · cases hfault
      · cases hfault
  unfold State.enginesRun at hrun
  obtain ⟨hlive, hdev⟩ := (Bool.and_eq_true _ _).mp hrun
  refine ⟨hlive, ?_⟩
  cases hs : s.pwr.dev with
  | run => exact .inl rfl
  | economy => exact .inr rfl
  | dry => exact absurd hs hdry
  | off | sentry | doze | fault =>
    rw [hs] at hdev
    cases hdev

theorem decodersRun_of_ready {op : Nat} {b : Bool} {p : List Byte} (h : s.ready g op b = some p) : s.decodersRun = true := by
  obtain ⟨hlive, hdev⟩ := running_of_ready h
  unfold State.decodersRun
  rcases hdev with hd | hd
  · rw [hlive, hd]
    rfl
  · rw [hlive, hd]
    rfl

/-- WAIT_FLAG as it is admitted. -/
theorem waitFlag_yields {g : Fin 1024} {p : List Byte} (h : s.ready g.val 0x03 false = some p) (hm : Reporting s g.val) :
    ((s.flags.getLsbD (par p 0x10 1) = (par p 0x11 1 == 1)) →
      Yields (.waitFlag g) s (fun t => LedgerOnly s t ∧ HeadRecorded s t g.val p endDone)) ∧
    (s.flags.getLsbD (par p 0x10 1) ≠ (par p 0x11 1 == 1) → pktDeadline p = 0 →
      Yields (.waitFlag g) s (fun t => LedgerOnly s t ∧ ∃ c ∈ t.cmds, c.cid = s.nextCid ∧ c.ring = g.val ∧
        c.tag = pktTag p ∧ c.body = .waitFlag (par p 0x10 1) (par p 0x11 1 == 1) 0)) := by
  obtain ⟨hmay, hrole, hfresh⟩ := hm
  let b : Body := .waitFlag (par p 0x10 1) (par p 0x11 1 == 1) (pktDeadline p)
  have he : exec (.waitFlag g) s = .next (if s.flags.getLsbD (par p 0x10 1) == (par p 0x11 1 == 1) then (s.accept g.val p b none 0).finish s.nextCid endDone
      else if pktDeadline p ≠ 0 ∧ 0 < past48 s.now48 (pktDeadline p) then (s.accept g.val p b none 0).finish s.nextCid (s.waitGiveUp (pktDeadline p))
      else (s.accept g.val p b none 0).settle g.val) := congrArg Host.Outcome.next (onHead_some _ h)
  refine ⟨fun heq => ?_, fun hne hd => ?_⟩
  · refine ⟨_, he.trans (congrArg Host.Outcome.next (if_pos (by simpa using heq))),
      (accept_ledger s g.val p b none 0).trans (finish_ledger _ _ _), ?_⟩
    have hrec := headRecorded_of_finish (u := s.accept g.val p b none 0) endDone h (accept_same s g.val p b none 0)
      ⟨hmay, hrole, accept_fresh hfresh g.val p b none 0⟩ (accept_cmd? hfresh g.val p b none 0) rfl rfl rfl rfl rfl rfl rfl
    rwa [lateEnd_none _ _ _ rfl] at hrec
  · refine ⟨_, he.trans (congrArg Host.Outcome.next ((if_neg (by simpa using hne)).trans (if_neg fun hc => hc.1 hd))),
      (accept_ledger s g.val p b none 0).trans (settle_ledger _ _), s.headCmd g.val p b none 0,
      (accept_stands hfresh g.val p b none 0 fun _ _ hb => nomatch hb).settle (fun _ _ hb => nomatch hb) g.val, rfl, rfl, rfl, ?_⟩
    show Body.waitFlag _ _ (pktDeadline p) = _
    rw [hd]

/-- A WAIT_FLAG that waits ends by its flag or by its deadline. -/
theorem waiting_yields {g : Fin 1024} {x : Cmd} {f d : Nat} {v : Bool} (hw : s.waiting g.val = some (x.cid, f, v, d)) (hx : s.cmd? x.cid = some x)
    (hmir : x.mir = []) (hrun : s.enginesRun = true) (hm : Reporting s x.ring) (hh : (s.ring x.ring).halted = false) (hdet : x.detached = false) :
    (s.flags.getLsbD f = v → Yields (.waitFlagSatisfied g) s (fun t => LedgerOnly s t ∧ t.cmd? x.cid = none ∧
      Recorded s t x.ring x.tag x.opcode x.parent.isSome (s.lateEnd x endDone))) ∧
    (s.flags.getLsbD f ≠ v → d ≠ 0 → 0 < past48 s.now48 d →
      Yields (.waitFlagDeadline g) s (fun t => LedgerOnly s t ∧ t.cmd? x.cid = none ∧
        Recorded s t x.ring x.tag x.opcode x.parent.isSome { endOf stDeadline 0 with late := past48 s.now48 d })) := by
  have hsat : exec (.waitFlagSatisfied g) s = .next (match s.waiting g.val with
    | some (cid, f, v, _) => if s.enginesRun && s.flags.getLsbD f == v then s.finish cid endDone else s
    | none => s) := rfl
  have hdead : exec (.waitFlagDeadline g) s = .next (match s.waiting g.val with
    | some (cid, f, v, d) =>
      if s.enginesRun && s.flags.getLsbD f != v && decide (d ≠ 0) && decide (0 < past48 s.now48 d)
      then s.finish cid (s.waitGiveUp d) else s
    | none => s) := rfl
  rw [hw] at hsat hdead
  have hend := fun e => finish_recorded s x e hx hmir hdet hh hm
  refine ⟨fun hf => ?_, fun hf hd hp => ?_⟩
  · exact ⟨_, hsat.trans (congrArg Host.Outcome.next (if_pos (by simp [hrun, hf]))), finish_ledger _ _ _, finish_gone hx hmir _, hend _⟩
  · refine ⟨_, hdead.trans (congrArg Host.Outcome.next (if_pos (by simp [hrun, hf, hd, hp]))), finish_ledger _ _ _, finish_gone hx hmir _, ?_⟩
    have hlate : s.lateEnd x (s.waitGiveUp d) = s.waitGiveUp d := by
      unfold State.lateEnd
      split
      · rfl
      · exact if_pos (.inl rfl)
    have hrec := hend (s.waitGiveUp d)
    rwa [hlate] at hrec

/-- Fetches leave the lists of every ring whose read is issued. -/
theorem fetchAll_lists (fuel : Nat) (s : State) : ((State.fetchAll fuel s).ring g).lists = (s.ring g).lists := by
  induction fuel generalizing s with
  | zero => rfl
  | succ n ih =>
    unfold State.fetchAll
    split
    · rfl
    · exact (ih _).trans (fetchRing_holds s _).2.1

/-- Among the list fetches is that of a ring whose list waits for its read. -/
theorem fetchLists_issue {c : ListCtx} {cs : List ListCtx} (l : List (Nat × Ring)) (hmem : ∃ e ∈ l, e.1 = g) (hl : (s.ring g).lists = c :: cs)
    (hi : c.issued = false) (hmay : s.mayMaster (s.ringFunc g) = true) (hdec : s.decodersRun = true) :
    ((l.foldl (fun t e => t.fetchList e.1) s).ring g).lists = { c with issued := true } :: cs ∧
      ReadIssued s (l.foldl (fun t e => t.fetchList e.1) s) (s.ringFunc g) c.addr (64 * c.entries) := by
  have hout : ∀ (l : List (Nat × Ring)) (v : State), v.out ⊆ (l.foldl (fun t e => t.fetchList e.1) v).out := fun l v =>
    ((Books.refl v).foldl (l := l) fun u e => fetchList_books u e.1).out
  induction l generalizing s with
  | nil => obtain ⟨e, he, -⟩ := hmem; cases he
  | cons e l ih =>
    by_cases heg : e.1 = g
    · have hgo : s.fetchList e.1 = (s.updRing g (fun r => { r with lists := { c with issued := true } :: cs })).issueRead (s.ringFunc g) c.addr
          (64 * c.entries) := by
        rw [heg]
        unfold State.fetchList
        rw [hl]
        exact if_neg (by rw [hi, hmay, hdec]; decide)
      have hlists : ((s.fetchList e.1).ring g).lists = { c with issued := true } :: cs := by
        rw [hgo]
        refine (congrArg (fun v => v.2.2.2.2.2.1) (issueRead_queue (g := g) _ _ _ _).view).trans ?_
        show ((s.updRing g _).ring g).lists = _
        rw [ring_updRing, if_pos rfl]
      have hrest := fetchLists_queue (g := g) (s.fetchList e.1) (by rw [hlists]; exact fun d hd => Option.some.inj hd ▸ rfl) l
      have hissued : ReadIssued s (s.fetchList e.1) (s.ringFunc g) c.addr (64 * c.entries) := by
        rw [hgo]
        exact issueRead_issued (s.updRing g (fun r => { r with lists := { c with issued := true } :: cs })) (s.ringFunc g) c.addr (64 * c.entries)
      exact ⟨(congrArg (fun v => v.2.2.2.2.2.1) hrest.view).trans hlists, fun r hr => hout l _ (hissued r hr)⟩
    · have hb := fetchList_books s e.1
      have hother : ((s.fetchList e.1).ring g).lists = (s.ring g).lists := by
        have : QueueKept g s (s.fetchList e.1) := by
          unfold State.fetchList
          split
          · exact .refl s
          · exact (QueueKept.refl s).ite (QueueKept.trans (updRing_other s (Ne.symm heg) _) (issueRead_queue _ _ _ _))
        exact congrArg (fun v => v.2.2.2.2.2.1) this.view
      have hfunc : (s.fetchList e.1).ringFunc g = s.ringFunc g := hb.view (view := fun u => u.ringFunc g)
      have hmaster : (s.fetchList e.1).mayMaster (s.ringFunc g) = s.mayMaster (s.ringFunc g) := hb.view (view := fun u => u.mayMaster (s.ringFunc g))
      have hdecode : (s.fetchList e.1).decodersRun = s.decodersRun := hb.view (view := fun u => u.decodersRun)
      have hmrrs : (s.fetchList e.1).hif.mrrs = s.hif.mrrs := hb.view (view := fun u => u.hif.mrrs)
      obtain ⟨x, hx, hxg⟩ := hmem
      have hxl : x ∈ l := (List.mem_cons.mp hx).resolve_left fun he => heg (he ▸ hxg)
      obtain ⟨il, ir⟩ := ih (s := s.fetchList e.1) ⟨x, hxl, hxg⟩ (hother.trans hl) (by rw [hfunc, hmaster]; exact hmay) (hdecode.trans hdec)
      refine ⟨il, fun r hr => ?_⟩
      rw [hfunc] at ir
      exact ir r (by rw [hmrrs]; exact hr)

/-- A ring that holds a list is written in the table. -/
theorem mem_rings_of_lists {c : ListCtx} {cs : List ListCtx} (h : (s.ring g).lists = c :: cs) : ∃ e ∈ s.rings, e.1 = g := by
  unfold State.ring Tab.getD Tab.get? at h
  cases hf : s.rings.find? (fun e => e.1 == g) with
  | none =>
    rw [hf] at h
    cases h
  | some e => exact ⟨e, List.mem_of_find?_eq_some hf, by simpa using List.find?_some hf⟩

/-- LIST_CALL is admitted with its list, whose read is issued. -/
theorem listCall_yields {g : Fin 1024} {p : List Byte} (h : s.ready g.val 0x05 false = some p) (hm : Reporting s g.val) :
    ∃ t, exec (.listCall g) s = .next t ∧ ∃ c cs, LedgerOnly s t ∧ (t.ring g.val).lists = c :: cs ∧ c.cid = s.nextCid ∧
      c.addr = BitVec.ofNat 64 (par p 0x10 8) ∧ c.entries = par p 0x18 4 ∧ c.issued = true ∧ c.fetched = false ∧
      (∃ x ∈ t.cmds, x.cid = s.nextCid ∧ x.ring = g.val ∧ x.tag = pktTag p) ∧
      ReadIssued s t (s.ringFunc g.val) c.addr (64 * c.entries) := by
  obtain ⟨hmay, hrole, hfresh⟩ := hm
  let c : ListCtx := { cid := s.nextCid, addr := BitVec.ofNat 64 (par p 0x10 8), entries := par p 0x18 4, issued := false
                       fetched := false, rest := [], consumed := 0 }
  let a := s.accept g.val p (.listCall (par p 0x18 4) none) none 0
  let u := a.updRing g.val (fun r => { r with lists := c :: r.lists })
  have he : exec (.listCall g) s = .next (u.settle g.val) := congrArg Host.Outcome.next (onHead_some _ h)
  have hul : (u.ring g.val).lists = c :: (a.ring g.val).lists := by
    show ((a.updRing g.val _).ring g.val).lists = _
    rw [ring_updRing, if_pos rfl]
  have hrej : u.rejectHead g.val = none := by
    have hnone : (u.ring g.val).headPacket = none := by
      unfold Ring.headPacket
      rw [hul]
      split
      · rfl
      · rfl
    unfold State.rejectHead
    rw [hnone]
  have hloop : State.settleLoop ((u.ring g.val).held + 1) u g.val = u := by
    unfold State.settleLoop
    rw [hrej]
  have hstands : Stands (s.headCmd g.val p (.listCall (par p 0x18 4) none) none 0) u := by
    refine ⟨List.mem_append_right _ (List.mem_singleton.mpr rfl), fun x hx hxc => ?_, .inr ?_⟩
    · rcases List.mem_append.mp hx with hx | hx
      · have := hfresh x hx
        have hxc' : x.cid = s.nextCid := hxc
        omega
      · exact List.mem_singleton.mp hx
    · show (u.ring g.val).lists.any (fun l => l.cid == s.nextCid) = true
      rw [hul, List.any_cons]
      exact (Bool.or_eq_true _ _).mpr (.inl (beq_self_eq_true s.nextCid))
  have hq := closeLists_queue (g := g.val) 3 u
  have hvl : ((State.closeLists 3 u).ring g.val).lists = c :: (a.ring g.val).lists := (congrArg (fun v => v.2.2.2.2.2.1) hq.view).trans hul
  have hbooks := closeLists_books 3 u
  have hfunc : (State.closeLists 3 u).ringFunc g.val = s.ringFunc g.val := hbooks.view (view := fun u => u.ringFunc g.val)
  have hmaster : (State.closeLists 3 u).mayMaster (s.ringFunc g.val) = u.mayMaster (s.ringFunc g.val) :=
    hbooks.view (view := fun u => u.mayMaster (s.ringFunc g.val))
  have hdec : (State.closeLists 3 u).decodersRun = u.decodersRun := hbooks.view (view := fun u => u.decodersRun)
  have hmrrs : (State.closeLists 3 u).hif.mrrs = s.hif.mrrs := hbooks.view (view := fun u => u.hif.mrrs)
  obtain ⟨hlists, hread⟩ := fetchLists_issue (s := State.closeLists 3 u) _ (mem_rings_of_lists hvl) hvl rfl (by rw [hfunc, hmaster]; exact hmay)
    (hdec.trans (decodersRun_of_ready (s := s) h))
  have hsettle : u.settle g.val = (State.closeLists 3 u).fetchWork := by
    unfold State.settle
    rw [hloop]
  refine ⟨_, he, { c with issued := true }, (a.ring g.val).lists, ?_, ?_, rfl, rfl, rfl, rfl, rfl, ⟨s.headCmd g.val p (.listCall (par p 0x18 4) none) none 0,
    ?_, rfl, rfl, rfl⟩, ?_⟩
  · exact ((accept_ledger s g.val p _ none 0).trans (updRing_ledger a g.val (fun r => { r with lists := c :: r.lists }) fun _ => rfl)).trans (settle_ledger u g.val)
  · rw [hsettle]
    exact (fetchAll_lists 1024 _).trans hlists
  · rw [hsettle, fetchWork_cmds]
    exact (hstands.closeLists 3).mem
  · rw [hsettle]
    intro r hr
    rw [hfunc] at hread
    exact (fetchAll_books 1024 _).out (hread r (by rw [hmrrs]; exact hr))

/-! Flags -/

/-- A word's flags, bit by bit. -/
theorem getLsbD_wordFlags (w : Fin 8) (v : Word) {i : Nat} (hi : i < 256) :
    (wordFlags w.val v).getLsbD i = (decide (i / 32 = w.val) && v.getLsbD (i % 32)) := by
  unfold wordFlags
  rw [BitVec.getLsbD_shiftLeft, BitVec.getLsbD_setWidth, decide_eq_true hi, Bool.true_and]
  by_cases hw : i / 32 = w.val
  · have hlt : ¬ i < 32 * w.val := by omega
    have hsub : i - 32 * w.val = i % 32 := by omega
    have hin : i % 32 < 256 := by omega
    rw [decide_eq_false hlt, hsub, decide_eq_true hin, decide_eq_true hw]
    rfl
  · rw [decide_eq_false hw, Bool.false_and]
    by_cases hlt : i < 32 * w.val
    · rw [decide_eq_true hlt]
      rfl
    · have hge : 32 ≤ i - 32 * w.val := by omega
      rw [BitVec.getLsbD_of_ge v _ hge, Bool.and_false, Bool.and_false]

theorem getLsbD_hostFlags (w : Fin 8) (v : Word) {i : Nat} (hi : i < 256) :
    (hostFlags w.val v).getLsbD i = (decide (w.val ≠ 0 ∧ i / 32 = w.val) && v.getLsbD (i % 32)) := by
  unfold hostFlags
  by_cases h0 : w.val = 0
  · rw [if_pos h0, decide_eq_false fun hc => hc.1 h0]
    simp
  · rw [if_neg h0]
    refine (getLsbD_wordFlags w v hi).trans ?_
    simp [h0]

/-- The host's writes of the flag block. -/
theorem kflag_yields (s : State) (w : Fin 8) (v : Word) (hr : s.reaches 0 = true) (hd : s.pwr.dev = .run ∨ s.pwr.dev = .economy) :
    Yields (.kflagSetWrite w v) s (fun t =>
      (∀ i, i < 256 → t.flags.getLsbD i = (s.flags.getLsbD i || (decide (w.val ≠ 0 ∧ i / 32 = w.val) && v.getLsbD (i % 32)))) ∧
      t = { s.touch with flags := t.flags, hif := { s.hif with inL1 := false, inL11 := false, inL12 := false } }) ∧
    Yields (.kflagClrWrite w v) s (fun t =>
      (∀ i, i < 256 → t.flags.getLsbD i = (s.flags.getLsbD i && !(decide (w.val ≠ 0 ∧ i / 32 = w.val) && v.getLsbD (i % 32)))) ∧
      t = { s.touch with flags := t.flags, hif := { s.hif with inL1 := false, inL11 := false, inL12 := false } }) := by
  have hhif : s.touch.hif = s.hif := by rw [s.touch_eq_pwr]
  have hflags : s.touch.flags = s.flags := by rw [s.touch_eq_pwr]
  refine ⟨⟨_, congrArg Host.Outcome.next (hostAccess_running hr hd (b := .engine) (by decide) none _), fun i hi => ?_, by rw [← hhif]; rfl⟩,
    ⟨_, congrArg Host.Outcome.next (hostAccess_running hr hd (b := .engine) (by decide) none _), fun i hi => ?_, by rw [← hhif]; rfl⟩⟩
  · show (s.touch.flags ||| hostFlags w.val v).getLsbD i = _
    rw [BitVec.getLsbD_or, getLsbD_hostFlags w v hi, hflags]
  · show (s.touch.flags &&& ~~~hostFlags w.val v).getLsbD i = _
    rw [BitVec.getLsbD_and, BitVec.getLsbD_not, getLsbD_hostFlags w v hi, hflags, decide_eq_true hi, Bool.true_and]

/-- The flag accesses of one cycle act in their places, whatever the order they are given in. -/
theorem flagCycle_of_perm (s : State) (tlp : Tlp) {g : Fin 1024} {h a b : FlagOp} {l : List FlagAccess}
    (hl : l.Perm [.engine g, .host h, .hk 0 a, .hk 1 b]) : s.flagCycle l tlp =
      (((s.setFlagHead g.val).flagAccess tlp (.host h)).flagAccess tlp (.hk 0 a)).flagAccess tlp (.hk 1 b) := by
  have hfilter : ∀ (k : Nat) (x : FlagAccess), [FlagAccess.engine g, .host h, .hk 0 a, .hk 1 b].filter (fun a => flagPlace a == k) = [x] →
      l.filter (fun a => flagPlace a == k) = [x] := fun k x hx => List.perm_singleton.mp (hx ▸ hl.filter _)
  unfold State.flagCycle
  rw [show List.range 4 = [0, 1, 2, 3] from rfl]
  simp only [List.flatMap_cons, List.flatMap_nil, List.append_nil]
  rw [hfilter 0 (.engine g) rfl, hfilter 1 (.host h) rfl, hfilter 2 (.hk 0 a) rfl, hfilter 3 (.hk 1 b) rfl]
  rfl

/-- A flag access of an HK core drains its stores first. -/
theorem flagAccess_hk (s : State) (tlp : Tlp) (c : Fin 2) (op : FlagOp) (hrun : s.hkRuns c.val = true) :
    s.flagAccess tlp (.hk c op) = match flagValue op s.flags with
      | some bs => ({ s.kfence c.val with flags := flagApply op wordFlags s.flags } : State).emit (.hk c.val bs)
      | none => { s.kfence c.val with flags := flagApply op wordFlags s.flags } :=
  if_neg (by rw [hrun]; decide)

/-- The flag accesses of an HK core, alone in their cycle. -/
theorem hkFlag_yields (s : State) (f : Fin 16) (off : Nat) (wide : Bool) (tlp : Tlp) (c : Fin 2) (w : Fin 8) (v : Word) (hrun : s.hkRuns c.val = true) :
    (∃ t, exec (.registerWrite f off (.flags [.hk c (.set w v)]) wide tlp) s = .next t ∧ t = { s.kfence c.val with flags := t.flags } ∧
      ∀ i, i < 256 → t.flags.getLsbD i = (s.flags.getLsbD i || (decide (i / 32 = w.val) && v.getLsbD (i % 32)))) ∧
    (∃ t, exec (.registerWrite f off (.flags [.hk c (.clear w v)]) wide tlp) s = .next t ∧ t = { s.kfence c.val with flags := t.flags } ∧
      ∀ i, i < 256 → t.flags.getLsbD i = (s.flags.getLsbD i && !(decide (i / 32 = w.val) && v.getLsbD (i % 32)))) ∧
    exec (.registerWrite f off (.flags [.hk c (.read w)]) wide tlp) s = .next { s.kfence c.val with
      out := .hk c.val (leBytes 4 ((s.flags >>> (32 * w.val)).setWidth 32 : Word).toNat) :: s.out } := by
  have hone : ∀ op, exec (.registerWrite f off (.flags [.hk c op]) wide tlp) s = .next (s.flagAccess tlp (.hk c op)) := fun op => by
    have hcycle : s.flagCycle [.hk c op] tlp = s.flagAccess tlp (.hk c op) := by
      unfold State.flagCycle
      rw [show List.range 4 = [0, 1, 2, 3] from rfl]
      rcases c with ⟨_ | _ | n, hc⟩
      · rfl
      · rfl
      · omega
    exact congrArg Host.Outcome.next hcycle
  refine ⟨⟨_, (hone _).trans (congrArg _ (flagAccess_hk s tlp c _ hrun)), rfl, fun i hi => ?_⟩,
    ⟨_, (hone _).trans (congrArg _ (flagAccess_hk s tlp c _ hrun)), rfl, fun i hi => ?_⟩,
    (hone _).trans (congrArg _ (flagAccess_hk s tlp c _ hrun))⟩
  · show (s.flags ||| wordFlags w.val v).getLsbD i = _
    rw [BitVec.getLsbD_or, getLsbD_wordFlags w v hi]
  · show (s.flags &&& ~~~wordFlags w.val v).getLsbD i = _
    rw [BitVec.getLsbD_and, BitVec.getLsbD_not, getLsbD_wordFlags w v hi, decide_eq_true hi, Bool.true_and]

/-! The mailbox -/

/-- A core's stores, after one of it. -/
theorem hkPending_set (s : State) (hlen : s.hkStores.length = 2) (c d : Fin 2) (l : List (Nat × List Byte)) :
    ({ s with hkStores := s.hkStores.set c.val l } : State).hkPending d.val = if d = c then l else s.hkPending d.val := by
  unfold State.hkPending
  rw [List.getD_eq_getElem?_getD, List.getD_eq_getElem?_getD]
  by_cases h : d = c
  · subst h
    rw [if_pos rfl, List.getElem?_set_self (by omega)]
    rfl
  · rw [if_neg h, List.getElem?_set_ne fun he => h (Fin.ext he.symm)]

/-- A core reads back its own latest store. -/
theorem hkByte_of_last (s : State) (c a i : Nat) {l : List (Nat × List Byte)} {bs : List Byte} (h : s.hkPending c = l ++ [(a, bs)]) (hi : i < bs.length) :
    s.hkByte c (a + i) = bs.getD i 0 := by
  unfold State.hkByte
  rw [h, List.reverse_append, List.reverse_singleton, List.singleton_append, List.find?_cons_of_pos (by simp [hi])]
  show bs.getD (a + i - a) 0 = _
  rw [Nat.add_sub_cancel_left]

/-- Four bytes, one by one. -/
theorem range_getD_four {bs : List Byte} (h : bs.length = 4) : (List.range 4).map (fun i => bs.getD i 0) = bs := by
  refine List.ext_getElem (by simp [h]) fun i hi hj => ?_
  simp [List.getD_eq_getElem?_getD, hj]

/-- A naturally aligned access of four bytes is one. -/
theorem hkParts_four {a : Nat} (h : a % 4 = 0) : hkParts a 4 = [(a, 4)] := if_pos ⟨.inr (.inr rfl), h⟩

/-- A store of an HK core, and what each agent then sees of it. -/
theorem hkMem_yields (s : State) (f : Fin 16) (off : Nat) (wide : Bool) (tlp : Tlp) (c d : Fin 2) (a : BitVec 16) (bs : List Byte)
    (hlen : s.hkStores.length = 2) (hrun : s.hkRuns c.val = true) (hne : d ≠ c) (ha : a.toNat % 4 = 0) (hbs : bs.length = 4) :
    ∃ t, exec (.registerWrite f off (.hkMem c (.store a bs)) wide tlp) s = .next t ∧
      t = { s with hkStores := s.hkStores.set c.val (s.hkPending c.val ++ [(a.toNat, bs)]) } ∧
      exec (.registerWrite f off (.hkMem c (.load a 4)) wide tlp) t = .next { t with out := .hk c.val bs :: s.out } ∧
      (s.hkRuns d.val = true → s.hkPending d.val = [] → exec (.registerWrite f off (.hkMem d (.load a 4)) wide tlp) t =
        .next { t with out := .hk d.val (Memory.readN s.kmbx a.toNat 4) :: s.out }) ∧
      (s.hkPending c.val = [] → exec (.registerWrite f off (.hkMem c .drain) wide tlp) t =
        .next { s with kmbx := Memory.writeN s.kmbx a.toNat bs, hkStores := s.hkStores.set c.val [] }) ∧
      exec (.registerWrite f off (.hkMem c .fence) wide tlp) t = .next { s with
        hkStores := s.hkStores.set c.val []
        kmbx := Memory.writeN ((s.hkPending c.val).foldl (fun m x => Memory.writeN m x.1 x.2) s.kmbx) a.toNat bs } := by
  let t : State := { s with hkStores := s.hkStores.set c.val (s.hkPending c.val ++ [(a.toNat, bs)]) }
  have hpend : ∀ d : Fin 2, t.hkPending d.val = if d = c then s.hkPending c.val ++ [(a.toNat, bs)] else s.hkPending d.val :=
    fun d => hkPending_set s hlen c d _
  have hmine : t.hkPending c.val = s.hkPending c.val ++ [(a.toNat, bs)] := (hpend c).trans (if_pos rfl)
  have hstore : s.hkMem c.val (.store a bs) = t := by
    refine (if_neg (by rw [hrun]; decide)).trans ?_
    have hparts : (hkParts a.toNat bs.length).zipIdx.map (fun x => (x.1.1, sliceAt bs (x.2 * x.1.2) x.1.2)) = [(a.toNat, bs)] := by
      rw [hbs, hkParts_four ha]
      show [(a.toNat, (bs.drop 0).take 4)] = _
      rw [List.drop_zero, List.take_of_length_le (by omega)]
    exact congrArg (fun l => ({ s with hkStores := s.hkStores.set c.val (s.hkPending c.val ++ l) } : State)) hparts
  have hload : ∀ e : Fin 2, s.hkRuns e.val = true → t.hkMem e.val (.load a 4) =
      t.emit (.hk e.val ((List.range 4).map (fun i => t.hkByte e.val (a.toNat + i)))) := fun e he => by
    refine (if_neg (by rw [show t.hkRuns e.val = true from he]; decide)).trans ?_
    have hone : (hkParts a.toNat 4).flatMap (fun x => (List.range x.2).map (fun i => t.hkByte e.val (x.1 + i))) =
        (List.range 4).map (fun i => t.hkByte e.val (a.toNat + i)) := by
      rw [hkParts_four ha, List.flatMap_singleton]
    exact congrArg (fun l => t.emit (.hk e.val l)) hone
  have hset : ∀ l, t.hkStores.set c.val l = s.hkStores.set c.val l := fun l => List.set_set _
  refine ⟨t, congrArg Host.Outcome.next hstore, rfl, congrArg Host.Outcome.next ((hload c hrun).trans ?_), fun hd hp => congrArg Host.Outcome.next ((hload d hd).trans ?_),
    fun hp => congrArg Host.Outcome.next ?_, congrArg Host.Outcome.next ?_⟩
  · have hbytes : (List.range 4).map (fun i => t.hkByte c.val (a.toNat + i)) = bs := by
      refine (List.map_congr_left fun i hi => ?_).trans (range_getD_four hbs)
      exact hkByte_of_last t c.val a.toNat i hmine (by rw [hbs]; exact List.mem_range.mp hi)
    rw [hbytes]
    rfl
  · have hbyte : ∀ x, t.hkByte d.val x = Memory.read s.kmbx x := fun x => by
      unfold State.hkByte
      rw [hpend d, if_neg hne, hp]
      rfl
    simp only [hbyte]
    rfl
  · refine (if_neg (by rw [show t.hkRuns c.val = true from hrun]; decide)).trans ?_
    show t.hkDrain c.val = _
    unfold State.hkDrain
    rw [hmine, hp]
    show ({ t with kmbx := Memory.writeN t.kmbx a.toNat bs, hkStores := t.hkStores.set c.val [] } : State) = _
    rw [hset]
  · refine (if_neg (by rw [show t.hkRuns c.val = true from hrun]; decide)).trans ?_
    show t.kfence c.val = _
    unfold State.kfence
    rw [hmine, List.foldl_append, hset]
    rfl

/-- Settles O24: waits and lists by their admission and their end, flags bit by bit, and the mailbox by what each agent sees. -/
theorem flagsAndLists : Obligations.FlagsAndLists :=
  ⟨fun _ _ => ⟨fun _ h hm => waitFlag_yields h hm, fun _ _ _ _ hw hx hmir hrun hm hh hdet => waiting_yields hw hx hmir hrun hm hh hdet⟩,
    fun _ _ _ h hm => listCall_yields h hm, kflag_yields,
    fun s _ _ _ tlp _ _ _ _ _ hl => ⟨_, _, _, _, rfl, rfl, rfl, rfl, congrArg Host.Outcome.next (flagCycle_of_perm s tlp hl)⟩,
    hkFlag_yields, hkMem_yields⟩

end Sys2Proof.Machine
end

section
/-! PROOFS. Writes and reads of the PF's registers. -/

namespace Sys2Proof.Machine

set_option Elab.async false

variable {s t u : State}

/-- A write of the PF to a block of the main domain acts with the link awake and after the DOZE trigger. -/
theorem exec_write_running {off : Nat} (hr : s.reaches 0 = true) (hd : s.pwr.dev = .run ∨ s.pwr.dev = .economy) (hoff : off < 0x2000000)
    (hal : off % 4 = 0) (hg : groupOf off ≠ .island) (v : DWord) (tlp : Tlp) :
    exec (.registerWrite 0 off (.write v) false tlp) s = .next (s.leaveL1.touch.pfWrite off v false tlp) := by
  refine congrArg Host.Outcome.next ((if_neg (fun h => h hal)).trans ((if_neg (Nat.not_le.mpr hoff)).trans ?_))
  refine (hostAccess_running hr hd (b := groupOf off) hg (some tlp) _).trans ?_
  rw [← touch_leaveL1]
  rfl

/-- A write of the PF to a block of the island acts in every state. -/
theorem exec_write_island {off : Nat} (hr : s.reaches 0 = true) (hoff : off < 0x2000000) (wide : Bool)
    (hal : off % (if wide then 8 else 4) = 0) (hg : groupOf off = .island) (v : DWord) (tlp : Tlp) :
    exec (.registerWrite 0 off (.write v) wide tlp) s = .next (s.leaveL1.pfWrite off v wide tlp) := by
  refine congrArg Host.Outcome.next ((if_neg (fun h => h hal)).trans ((if_neg (Nat.not_le.mpr hoff)).trans ?_))
  show s.hostAccess 0 (some tlp) (groupOf off) _ = _
  rw [hg]
  exact hostAccess_island hr (some tlp) _

/-- A read of the PF acts like a write, and returns what stood before it. -/
theorem hostRead_running {f : Nat} {b : BlockGroup} (hr : s.reaches f = true) (hd : s.pwr.dev = .run ∨ s.pwr.dev = .economy)
    (tlp : Option Tlp) (len : Nat) (k : State → State) (data : State → List Byte) :
    s.hostRead f tlp b len k data = (k (if b = .island then s.leaveL1 else s.leaveL1.touch)).emit (.data (data s)) := by
  obtain ⟨hup, hdec⟩ : s.hostUp = true ∧ s.decodes f = true := (Bool.and_eq_true _ _).mp hr
  have hans : ∀ v : State, v.pwr.dev = s.pwr.dev → v.answers b = true := fun v hv => by
    unfold State.answers
    rw [hv]
    rcases hd with h | h
    · rw [h]
    · rw [h]
  refine (if_neg (by simp [hup])).trans ((if_neg (by simp [hdec])).trans ((if_neg (by rw [hans s rfl]; decide)).trans ?_))
  exact State.access_of_answers (hans s.leaveL1 rfl) _

/-- A read of the island acts in every state. -/
theorem hostRead_island {f : Nat} (hr : s.reaches f = true) (tlp : Option Tlp) (len : Nat) (k : State → State) (data : State → List Byte) :
    s.hostRead f tlp .island len k data = (k s.leaveL1).emit (.data (data s)) := by
  obtain ⟨hup, hdec⟩ : s.hostUp = true ∧ s.decodes f = true := (Bool.and_eq_true _ _).mp hr
  have hans := island_answers_of_reaches hr
  refine (if_neg (by simp [hup])).trans ((if_neg (by simp [hdec])).trans ((if_neg (by simp [hans])).trans ?_))
  exact State.access_of_answers (b := .island) (s := s.leaveL1) hans _

/-- The fields that a bit of a W1C register leaves. -/
theorem getLsbD_w1c {n : Nat} (x : BitVec n) (v : DWord) {i : Nat} (hi : i < n) (h32 : i < 32) :
    (w1c x (v.setWidth 32) 0).getLsbD i = (x.getLsbD i && !v.getLsbD i) := by
  unfold w1c
  rw [BitVec.getLsbD_and, BitVec.getLsbD_not, BitVec.getLsbD_setWidth, BitVec.getLsbD_ushiftRight, BitVec.getLsbD_setWidth]
  simp [hi, h32]

/-- The low half of a value. -/
theorem setWidth_toNat (v : DWord) : (v.setWidth 32 : Word).toNat = v.toNat % 2 ^ 32 := BitVec.toNat_setWidth ..

/-- A register of the PF below the terraces is returned as it stands. -/
theorem exec_read_running (hr : s.reaches 0 = true) (hd : s.pwr.dev = .run ∨ s.pwr.dev = .economy) {off : Nat} (hal : off % 4 = 0)
    (hoff : off < 0x1000000) (h1 : off ≠ 0x20000) (h2 : off ≠ 0x50008) (tlp : Tlp) :
    exec (.registerWrite 0 off .read false tlp) s = .next { (if groupOf off = .island then s.leaveL1 else s.leaveL1.touch) with
      out := .data (leBytes 4 (s.readReg off).toNat) :: s.out } := by
  have hlatch : ∀ v : State, v.latchRead off = v := fun v => (if_neg h1).trans (if_neg h2)
  have hbytes : s.regBytes 0 off false = leBytes 4 (s.readReg off).toNat := by
    unfold State.regBytes
    show leBytes 4 ((s.latchRead off).readReg off).toNat ++ [] = _
    rw [hlatch, List.append_nil]
  have hout : (if groupOf off = .island then s.leaveL1 else s.leaveL1.touch).out = s.out := by
    split
    · rfl
    · rw [s.leaveL1.touch_eq_pwr]
      rfl
  have hgo : s.regRead 0 off false tlp = (s.hostRead 0 (some tlp) (groupOf off) 4 (fun t => t.latchRead off) (fun t => t.regBytes 0 off false)) :=
    (if_neg (show ¬ 0x2000000 ≤ off by omega)).trans (if_neg (by omega))
  refine congrArg Host.Outcome.next ((if_neg (fun h => h hal)).trans (hgo.trans ((hostRead_running hr hd _ _ _ _).trans ?_)))
  rw [hlatch, hbytes]
  unfold State.emit
  rw [hout]

/-- A doorbell page returns the tail and the head of its ring. -/
theorem exec_doorbellRead {page : Fin 1024} {g : Nat} (hr : s.reaches 0 = true) (hd : s.pwr.dev = .run ∨ s.pwr.dev = .economy)
    (hp : s.pageRing 0 page.val = some g) (wide : Bool) (tlp : Tlp) :
    exec (.registerWrite 0 0 (.doorbellRead page 4) wide tlp) s = .next { s.leaveL1.touch with out := .data (leBytes 4 (s.ring g).sqTail) :: s.out } ∧
    exec (.registerWrite 0 8 (.doorbellRead page 4) wide tlp) s = .next { s.leaveL1.touch with out := .data (leBytes 4 (s.ring g).cqHead) :: s.out } ∧
    exec (.registerWrite 0 16 (.doorbellRead page 4) wide tlp) s = .next { s.leaveL1.touch with out := .data [0, 0, 0, 0] :: s.out } := by
  have hout : s.leaveL1.touch.out = s.out := by
    rw [s.leaveL1.touch_eq_pwr]
    rfl
  have hgo : ∀ off : Nat, s.doorbellRead 0 page.val off 4 tlp = { s.leaveL1.touch with
      out := .data (if (4 == 4 || 4 == 8) && (off == 0 || off == 8) then leBytes 4 (if off = 0 then (s.ring g).sqTail else (s.ring g).cqHead)
        else List.replicate 4 0) :: s.out } := fun off => by
    unfold State.doorbellRead
    dsimp only
    rw [hostRead_running hr hd, hp, ← hout]
    rfl
  exact ⟨congrArg _ (hgo 0), congrArg _ (hgo 8), congrArg _ (hgo 16)⟩

/-- Writes and reads of the PF while the device runs. -/
theorem registers_running (s : State) (v : DWord) (tlp : Tlp) (hr : s.reaches 0 = true) (hd : s.pwr.dev = .run ∨ s.pwr.dev = .economy) :
    let u := s.leaveL1.touch
    exec (.registerWrite 0 0x20 (.write v) false tlp) s = .next { u with sys := { u.sys with scratch := v.setWidth 32 } } ∧
    exec (.registerWrite 0 0x30080 (.write v) false tlp) s = .next { u with hif := { u.hif with devEn := v.setWidth 16 } } ∧
    (∃ t, exec (.registerWrite 0 0x30084 (.write v) false tlp) s = .next t ∧ t = { u with hif := { u.hif with devStat := t.hif.devStat } } ∧
      ∀ i, i < 16 → t.hif.devStat.getLsbD i = (s.hif.devStat.getLsbD i && !v.getLsbD i)) ∧
    (∃ t, exec (.registerWrite 0 0x1001C (.write v) false tlp) s = .next t ∧
      t = { s.leaveL1 with pwr := { s.pwr with fault := t.pwr.fault } } ∧
      ∀ i, i < 7 → t.pwr.fault.getLsbD i = (s.pwr.fault.getLsbD i && !v.getLsbD i)) ∧
    exec (.registerWrite 0 0x10008 (.write v) false tlp) s =
      .next { s.leaveL1 with pwr := { s.pwr with idleUs := max 1 (v.toNat % 2 ^ 24) } } ∧
    exec (.registerWrite 0 0x10010 (.write v) false tlp) s =
      .next { s.leaveL1 with pwr := { s.pwr with budget := max 2000 (min 42000 (v.toNat % 65536)) } } ∧
    exec (.registerWrite 0 0x50000 (.write v) false tlp) s = .next { u with slc := { u.slc with
      share := if s.sys.lock then s.slc.share else max 50 (min 90 (v.toNat % 128)), xallow := v.toNat / 65536 % 65536 } } ∧
    exec (.registerWrite 0 0x24 (.write v) false tlp) s = .next u := by
  have hwrite : ∀ off : Nat, off < 0x2000000 → off % 4 = 0 → groupOf off ≠ .island →
      exec (.registerWrite 0 off (.write v) false tlp) s = .next (s.leaveL1.touch.pfWrite off v false tlp) :=
    fun off ho ha hg => exec_write_running hr hd ho ha hg v tlp
  have hisland : ∀ off : Nat, off < 0x2000000 → off % 4 = 0 → groupOf off = .island →
      exec (.registerWrite 0 off (.write v) false tlp) s = .next (s.leaveL1.pfWrite off v false tlp) :=
    fun off ho ha hg => exec_write_island hr ho false ha hg v tlp
  have hsys : s.leaveL1.touch.sys = s.sys := by rw [s.leaveL1.touch_eq_pwr]; rfl
  have hslc : s.leaveL1.touch.slc = s.slc := by rw [s.leaveL1.touch_eq_pwr]; rfl
  have hstat : s.leaveL1.touch.hif.devStat = s.hif.devStat := by rw [s.leaveL1.touch_eq_pwr]; rfl
  have h16 : ((v.setWidth 32 : Word).setWidth 16 : BitVec 16) = v.setWidth 16 := by
    rw [BitVec.setWidth_setWidth_of_le v (by decide)]
  refine ⟨hwrite 0x20 (by decide) rfl (by decide), (hwrite 0x30080 (by decide) rfl (by decide)).trans ?_,
    ⟨_, hwrite 0x30084 (by decide) rfl (by decide), rfl, fun i hi => ?_⟩, ⟨_, hisland 0x1001C (by decide) rfl rfl, rfl, fun i hi => ?_⟩,
    (hisland 0x10008 (by decide) rfl rfl).trans ?_, (hisland 0x10010 (by decide) rfl rfl).trans ?_,
    (hwrite 0x50000 (by decide) rfl (by decide)).trans ?_, hwrite 0x24 (by decide) rfl (by decide)⟩
  · rw [← h16]
    rfl
  · rw [← hstat]
    exact getLsbD_w1c _ v hi (by omega)
  · exact getLsbD_w1c _ v hi (by omega)
  · have hidle : bitsAt (v.setWidth 32 : Word).toNat 0 24 = v.toNat % 2 ^ 24 := by
      rw [setWidth_toNat]
      unfold bitsAt
      omega
    rw [← hidle]
    rfl
  · have hbudget : bitsAt (v.setWidth 32 : Word).toNat 0 16 = v.toNat % 65536 := by
      rw [setWidth_toNat]
      unfold bitsAt
      omega
    rw [← hbudget]
    rfl
  · have hshare : bitsAt (v.setWidth 32 : Word).toNat 0 7 = v.toNat % 128 := by
      rw [setWidth_toNat]
      unfold bitsAt
      omega
    have hallow : bitsAt (v.setWidth 32 : Word).toNat 16 16 = v.toNat / 65536 % 65536 := by
      rw [setWidth_toNat]
      unfold bitsAt
      omega
    rw [← hshare, ← hallow, ← hslc, ← hsys]
    rfl

/-- A 4-byte write of the mailbox writes those four bytes. -/
theorem mailbox_yields (hr : s.reaches 0 = true) (hd : s.pwr.dev = .run ∨ s.pwr.dev = .economy) (v : DWord) (tlp : Tlp) (b : BitVec 12)
    (hb : b.toNat % 4 = 0) (hwf : Memory.wf s.kmbx = true) : Yields (.registerWrite 0 (0xF0000 + b.toNat) (.write v) false tlp) s (fun t =>
      t = { s.leaveL1.touch with kmbx := t.kmbx } ∧ Memory.readN t.kmbx b.toNat 4 = leBytes 4 (v.toNat % 2 ^ 32) ∧
      ∀ a, (a < b.toNat ∨ b.toNat + 4 ≤ a) → Memory.read t.kmbx a = Memory.read s.kmbx a) := by
  have hlt : b.toNat < 4096 := b.isLt
  have hq : (0xF0000 + b.toNat) / 0x10000 = 0xF := by omega
  have hm : (0xF0000 + b.toNat) % 0x10000 = b.toNat := by omega
  have hg : groupOf (0xF0000 + b.toNat) ≠ .island := by
    unfold groupOf
    rw [hq]
    simp only
    split <;> decide
  have hkmbx : s.leaveL1.touch.kmbx = s.kmbx := by rw [s.leaveL1.touch_eq_pwr]; rfl
  have hset : s.leaveL1.touch.pfWrite (0xF0000 + b.toNat) v false tlp =
      { s.leaveL1.touch with kmbx := Memory.writeN s.kmbx b.toNat (leBytes 4 (v.toNat % 2 ^ 32)) } := by
    have hreg : s.leaveL1.touch.writeReg (0xF0000 + b.toNat) (v.setWidth 32) tlp =
        { s.leaveL1.touch with kmbx := Memory.writeN s.kmbx b.toNat (leBytes 4 (v.toNat % 2 ^ 32)) } := by
      unfold State.writeReg
      rw [hq, hm, ← setWidth_toNat, ← hkmbx]
      rfl
    refine (if_neg (by omega)).trans ((if_neg (by omega)).trans ((if_neg (by simp)).trans hreg))
  have hlen : (leBytes 4 (v.toNat % 2 ^ 32)).length = 4 := by simp [leBytes]
  refine ⟨_, (exec_write_running hr hd (by omega) (by omega) hg v tlp).trans (congrArg _ hset), rfl, ?_, fun a ha => ?_⟩
  · have hback := Memory.readN_writeN s.kmbx b.toNat (leBytes 4 (v.toNat % 2 ^ 32)) hwf
    rwa [hlen] at hback
  · refine (Memory.read_writeN s.kmbx b.toNat a _ hwf).trans (if_neg ?_)
    rw [hlen]
    omega

/-- The anchor, by its high half and whole. -/
theorem anchor_yields (s : State) (v : DWord) (tlp : Tlp) (hr : s.reaches 0 = true) :
    exec (.tmrAnchorHiWrite (v.setWidth 32)) s = .next { s.leaveL1 with tmr := { s.tmr with
      anchor := (s.tmr.anchor &&& 0xFFFFFFFF#64) ||| ((v.setWidth 32 : Word).setWidth 64 <<< 32)
      anchorAt := s.tmr.uptime, anchorValid := true } } ∧
    exec (.registerWrite 0 0x20010 (.write v) true tlp) s = .next { s.leaveL1 with tmr := { s.tmr with
      anchor := v, anchorAt := s.tmr.uptime, anchorValid := true } } := by
  refine ⟨congrArg Host.Outcome.next (hostAccess_island hr none _), (exec_write_island hr (by decide) true rfl rfl v tlp).trans (congrArg _ ?_)⟩
  have hval : ((((s.tmr.anchor &&& 0xFFFFFFFF00000000#64) ||| (v.setWidth 32 : Word).setWidth 64) &&& 0xFFFFFFFF#64) |||
      (((v >>> 32).setWidth 32 : Word).setWidth 64 <<< 32) : DWord) = v := by
    have hlow : ∀ i : Fin 64, (0xFFFFFFFF#64).getLsbD i.val = decide (i.val < 32) := by decide
    have hhigh : ∀ i : Fin 64, (0xFFFFFFFF00000000#64).getLsbD i.val = decide (32 ≤ i.val) := by decide
    refine BitVec.eq_of_getLsbD_eq fun i hi => ?_
    have hl := hlow ⟨i, hi⟩
    have hh := hhigh ⟨i, hi⟩
    simp only [BitVec.getLsbD_or, BitVec.getLsbD_and, BitVec.getLsbD_shiftLeft, BitVec.getLsbD_setWidth, BitVec.getLsbD_ushiftRight, hl, hh]
    by_cases h32 : i < 32
    · simp [h32, hi, Nat.not_le.mpr h32]
    · have hge : 32 ≤ i := by omega
      have hsub : i - 32 < 32 := by omega
      simp [h32, hi, hsub, Nat.add_sub_cancel' hge]
      omega
  refine Eq.trans ?_ (congrArg (fun a => ({ s.leaveL1 with tmr := { s.tmr with anchor := a, anchorAt := s.tmr.uptime, anchorValid := true } } : State)) hval)
  rfl

/-- Settles O25: each register by the access that reaches it. -/
theorem registersWritten : Obligations.RegistersWritten := by
  refine ⟨fun s v tlp hr hd => ?_, anchor_yields, fun s wide hr => ⟨?_, fun hans => ?_⟩, fun s v hr hans => ⟨?_, ?_⟩⟩
  · obtain ⟨h1, h2, h3, h4, h5, h6, h7, h8⟩ := registers_running s v tlp hr hd
    refine ⟨h1, h2, h3, h4, h5, h6, h7, h8, fun b hb hwf => mailbox_yields hr hd v tlp b hb hwf,
      fun off hal hoff n1 n2 => exec_read_running hr hd hal hoff n1 n2 tlp, fun off hoff hal => ?_,
      fun page g wide hp => exec_doorbellRead hr hd hp wide tlp⟩
    obtain ⟨hup, -⟩ : s.hostUp = true ∧ s.decodes 0 = true := (Bool.and_eq_true _ _).mp hr
    exact congrArg Host.Outcome.next ((if_neg (fun h => h hal)).trans ((if_pos (show 0x2000000 ≤ off from hoff)).trans (if_pos hup)))
  · refine (congrArg Host.Outcome.next (hostRead_island hr none (if wide then 8 else 4) (fun t => t.latchRead 0x20000)
      (fun t => leBytes (if wide then 8 else 4) t.tmr.uptime))).trans (congrArg _ ?_)
    have hmod : BitVec.ofNat 32 (s.tmr.uptime / 2 ^ 32 % 2 ^ 32) = halfWord s.tmr.uptime true := by
      refine BitVec.eq_of_toNat_eq ?_
      simp [halfWord]
    rw [hmod]
    rfl
  · obtain ⟨hup, hdec⟩ : s.hostUp = true ∧ s.decodes 0 = true := (Bool.and_eq_true _ _).mp hr
    have hslc : s.leaveL1.touch.slc = s.slc := by rw [s.leaveL1.touch_eq_pwr]; rfl
    have hout : s.leaveL1.touch.out = s.out := by rw [s.leaveL1.touch_eq_pwr]; rfl
    refine congrArg Host.Outcome.next ((if_neg (by simp [hup])).trans ((if_neg (by simp [hdec])).trans ((if_neg (by simp [hans])).trans
      ((State.access_of_answers (b := .engine) (s := s.leaveL1) hans _).trans ?_))))
    have hlatched : ∀ w : State, w.slc = s.slc → w.out = s.out → (w.latchRead 0x50008).emit (.data (leBytes (if wide then 8 else 4) (s.slc.frame.getD 0))) =
        { w with slc := { s.slc with idxHi := s.slc.frame.getD 0 / 2 ^ 32 % 65536 }
                 out := .data (leBytes (if wide then 8 else 4) (s.slc.frame.getD 0)) :: s.out } := fun w hw ho => by
      rw [← hw, ← ho]
      rfl
    exact hlatched _ hslc hout
  · have hhif : s.leaveL1.touch.hif = s.leaveL1.hif := by rw [s.leaveL1.touch_eq_pwr]
    have hrd : (s.leaveL1.touch.vlogRdWrite v).hif.vlogRd = consumed s.hif.vlogRd s.hif.vlogWr (v.setWidth 16) := by
      show consumed s.leaveL1.touch.hif.vlogRd s.leaveL1.touch.hif.vlogWr _ = _
      rw [hhif]
      rfl
    refine ⟨_, congrArg Host.Outcome.next (State.hostAccess_host_of_answers hr hans none _), fun h => hrd.trans (consumed_of_le h),
      fun h => hrd.trans (consumed_of_lt h), ?_⟩
    rw [← hhif]
    rfl
  · have hsnt : s.leaveL1.touch.snt = s.snt := by rw [s.leaveL1.touch_eq_pwr]; rfl
    have hlevel : ∀ x, (if bitsAt v.toNat 0 7 = 0 ∨ 64 < bitsAt v.toNat 0 7 then x else bitsAt v.toNat 0 7) =
        if 1 ≤ v.toNat % 128 ∧ v.toNat % 128 ≤ 64 then v.toNat % 128 else x := fun x => by
      have hbits : bitsAt v.toNat 0 7 = v.toNat % 128 := by
        unfold bitsAt
        omega
      rw [hbits]
      by_cases hin : 1 ≤ v.toNat % 128 ∧ v.toNat % 128 ≤ 64
      · rw [if_neg (by omega), if_pos hin]
      · rw [if_pos (by omega), if_neg hin]
    refine ⟨_, congrArg Host.Outcome.next (State.hostAccess_host_of_answers hr hans none _), fun h => if_pos h,
      fun h => (if_neg (by rw [h]; decide)).trans (congrArg Snt.lost hsnt), (hlevel _).trans ?_, ?_⟩
    · rw [hsnt]
    · rw [← hsnt]
      rfl

end Sys2Proof.Machine
end

section
/-! PROOFS. Misbehaviour of the host, and frame starts. -/

namespace Sys2Proof.Machine

set_option Elab.async false

variable {s t u : State}

/-- Settles O49: each violation by the one entry and the AER error that it leaves. -/
theorem hostMisbehaves : Obligations.HostMisbehaves := by
  intro s tlp hup
  have hmis := fun kind action func => State.misbehave_of_hostUp hup kind action func tlp
  have hno := fun f isRead => State.noBar_of_hostUp hup f isRead tlp
  refine ⟨⟨_, rfl, (hmis 0x01 0 0).1, (hmis 0x01 0 0).2.2⟩, fun hc => ⟨_, congrArg Host.Outcome.next (if_pos hc), (hmis 0x03 0 0).1, (hmis 0x03 0 0).2.2⟩,
    fun hc => congrArg Host.Outcome.next (if_neg (by simp [hc])), ⟨_, rfl, (hmis 0x09 0 0).1, (hmis 0x09 0 0).2.2⟩, fun f => ?_, fun hdec v => ?_⟩
  · refine ⟨⟨_, congrArg Host.Outcome.next (if_neg (by simp [hup])), hno f.val true⟩, fun hdec => ⟨?_, ?_, ?_⟩, fun hdec => ⟨?_, fun isRead => ?_⟩⟩
    · exact ⟨_, congrArg Host.Outcome.next (if_neg (by simp [hdec])), (hmis 0x02 0 f.val).1, (hmis 0x02 0 f.val).2.2⟩
    · obtain ⟨hlog, hout, haer⟩ := State.misbehave_of_hostUp (s := s.emit .ca) hup 0x05 2 f.val tlp
      exact ⟨_, congrArg Host.Outcome.next ((if_neg (by simp [hup])).trans (if_neg (by simp [hdec]))), hlog.of_emit, haer,
        hout _ (List.mem_cons_self ..)⟩
    · exact ⟨_, congrArg Host.Outcome.next ((if_neg (by simp [hup])).trans (if_neg (by simp [hdec]))), (hmis 0x05 2 f.val).1, (hmis 0x05 2 f.val).2.2⟩
    · exact ⟨_, congrArg Host.Outcome.next (if_pos ⟨hup, by simp [hdec]⟩), hno f.val false⟩
    · exact ⟨_, congrArg Host.Outcome.next ((if_neg (by simp [hup])).trans (if_pos (by simp [hdec]))), hno f.val isRead⟩
  · obtain ⟨hlog, -, haer⟩ := State.misbehave_of_hostUp (s := { s with free := s.free + 2 }) hup 0x04 1 0
      { rid := BitVec.ofInt 16 (Config.freeInt s.free), hdr := BitVec.ofInt 128 (Config.freeInt (s.free + 1)) }
    exact ⟨_, congrArg Host.Outcome.next ((if_neg (by simp [hup])).trans (if_pos (by simp [hdec]))), hlog, haer⟩

/-- A write of the host to a block that answers acts with the link awake and after the DOZE trigger. -/
theorem hostAccess_answers {f : Nat} {b : BlockGroup} (hr : s.reaches f = true) (ha : s.answers b = true) (hb : b ≠ .island)
    (tlp : Option Tlp) (k : State → State) : s.hostAccess f tlp b k = k s.leaveL1.touch := by
  rw [State.hostAccess_of_reaches hr, State.access_of_answers (s := s.leaveL1) ha, if_neg hb]

/-- A frame that starts. -/
structure FrameStarted (s t : State) : Prop where
  frame : t.slc.frame = some (match s.slc.frame with
    | none => 0
    | some k => min (2 ^ 48 - 1) (k + 1))
  frameAt : t.slc.frameAt = s.tmr.uptime
  fired : t.slc.fired = []
  released : t.slc.released = []
  curSrc : t.slc.curSrc = s.slc.src
  curPeriod : t.slc.curPeriod = s.slc.period
  rest : t = { s with slc := t.slc, cmds := t.cmds }

theorem startFrame_started (s : State) : FrameStarted s s.startFrame := ⟨rfl, rfl, rfl, rfl, rfl, rfl, rfl⟩

/-- A count below its limit is counted on. -/
theorem satInc_of_lt {limit n : Nat} (h : n < limit) : satInc limit n = n + 1 := by
  unfold satInc
  exact if_pos h

/-- SLC_FRAME_CFG by its source field. -/
theorem frameCfgWrite_spec (s : State) (v : Word) :
    let period := max 4170 (min 33300 (v.toNat / 65536))
    (v.toNat % 4 = 3 → s.slc.curSrc ≠ 0 → s.frameCfgWrite v = { s with slc := { s.slc with period := period } }) ∧
    (v.toNat % 4 ≠ 3 → s.slc.curSrc ≠ 0 → s.frameCfgWrite v = { s with slc := { s.slc with
      src := v.toNat % 4, period := period, early := 0, missed := 0 } }) ∧
    (s.slc.curSrc = 0 → v.toNat % 4 ≠ 3 → s.frameCfgWrite v =
      let u : State := { s with slc := { s.slc with src := v.toNat % 4, period := period, early := 0, missed := 0, curSrc := v.toNat % 4
                                                    curPeriod := period, firstEdge := decide (v.toNat % 4 = 1) } }
      if v.toNat % 4 = 2 then u.startFrame else u) := by
  have hsrc : bitsAt v.toNat 0 2 = v.toNat % 4 := by
    unfold bitsAt
    omega
  have hper : bitsAt v.toNat 16 16 = v.toNat / 65536 := by
    have := v.isLt
    unfold bitsAt
    omega
  have hbad : v.toNat % 4 ≠ 3 → (v.toNat % 4 == 3) = false := fun h => beq_eq_false_iff_ne.mpr h
  intro period
  unfold State.frameCfgWrite
  dsimp only
  rw [hsrc, hper]
  refine ⟨fun h3 hc => ?_, fun h3 hc => ?_, fun hc h3 => ?_⟩
  · rw [h3]
    exact if_pos hc
  · rw [hbad h3]
    exact if_pos hc
  · rw [hbad h3]
    exact if_neg fun h => h hc

/-- Settles O45: each source of a frame start by its test, and SLC_FRAME_CFG by its source field. -/
theorem framesStart : Obligations.FramesStart := by
  refine ⟨fun s => ⟨fun hsrc hdue => ?_, fun hsrc hfirst hearly hlt => ?_, fun hsrc hdue => ?_, fun hsrc hfirst hdue hlt => ?_⟩,
    fun s v hr hans => ?_⟩
  · obtain ⟨h1, h2, h3, h4, h5, h6, h7⟩ := startFrame_started s
    exact ⟨_, congrArg Host.Outcome.next ((if_neg fun h => h hsrc).trans (if_pos hdue)), h1, h2, h3, h4, h5, h6, h7⟩
  · refine congrArg Host.Outcome.next ((if_neg fun h => h hsrc).trans ((if_neg ?_).trans ?_))
    · rintro (h | h)
      · rw [hfirst] at h
        cases h
      · omega
    · rw [satInc_of_lt hlt]
  · obtain ⟨h1, h2, h3, h4, h5, h6, h7⟩ := startFrame_started s
    exact ⟨_, congrArg Host.Outcome.next (if_pos ⟨hsrc, hdue⟩), h1, h2, h3, h4, h5, h6, h7⟩
  · exact ⟨_, congrArg Host.Outcome.next (if_pos ⟨hsrc, by simp [hfirst], hdue⟩), ⟨rfl, rfl, rfl, rfl, rfl, rfl, rfl⟩, satInc_of_lt hlt⟩
  · have hgo := hostAccess_answers hr hans (by decide) none (fun s => s.frameCfgWrite v)
    have hslc : s.leaveL1.touch.slc = s.slc := by rw [s.leaveL1.touch_eq_pwr]; rfl
    have htmr : s.leaveL1.touch.tmr = s.tmr := by rw [s.leaveL1.touch_eq_pwr]; rfl
    obtain ⟨hbad, hset, hnew⟩ := frameCfgWrite_spec s.leaveL1.touch v
    rw [hslc] at hbad hset hnew
    refine ⟨fun h3 hc => congrArg Host.Outcome.next (hgo.trans (hbad h3 hc)), fun h2 hc => ?_,
      fun h3 hc => congrArg Host.Outcome.next (hgo.trans (hset h3 hc)), fun hc h2 => ?_⟩
    · have he := hgo.trans ((hnew hc (by omega)).trans (if_pos h2))
      refine ⟨_, congrArg Host.Outcome.next he, h2, rfl, h2, rfl, congrArg Time.uptime htmr, rfl, rfl⟩
    · exact congrArg Host.Outcome.next (hgo.trans ((hnew hc (by omega)).trans (if_neg (by omega))))

end Sys2Proof.Machine
end

section
/-! PROOFS. Bus mastering, the power states of the functions and of the link, messages that waited, and credit. -/

namespace Sys2Proof.Machine

set_option Elab.async false

variable {s t u : State}

/-! ### Messages that waited (R309, R315) -/

/-- What decides whether a function's messages go out: its controls, and whether it may master. -/
def State.msixGates (s : State) : List Bool × List Bool × List Bool × Bool :=
  (s.hif.msixEn, s.hif.msixFm, s.hif.bme, s.hif.d3hot)

theorem mayMaster_of_gates (h : Agrees State.msixGates s t) (f : Nat) : t.mayMaster f = s.mayMaster f :=
  congrArg (fun x : List Bool × List Bool × List Bool × Bool => x.2.2.1.getD f false && !x.2.2.2) h

/-- A posted message moves no table entry and no gate. -/
theorem post_msix (s : State) (e : Emit) (credit src : Option (Nat × Nat)) :
    (s.post e credit src).hif.msix = s.hif.msix ∧ (s.post e credit src).msixGates = s.msixGates := by
  unfold State.post
  dsimp only
  split
  · exact ⟨rfl, rfl⟩
  · exact ⟨rfl, rfl⟩
  · split <;> exact ⟨rfl, rfl⟩

/-- A pending message of the function sent. -/
def State.sendPending (s : State) (f e : Nat) : State := (s.setMsixPending f e false).post (.msi f e) none none

theorem sendPending_gates (s : State) (f e : Nat) : (s.sendPending f e).msixGates = s.msixGates := (post_msix _ _ _ _).2

theorem sendPending_entry (s : State) (f e k : Nat) :
    (s.sendPending f e).msixEntry f k = if k = e then { s.msixEntry f e with pending := false } else s.msixEntry f k := by
  have hm : (s.sendPending f e).hif.msix = (s.setMsixPending f e false).hif.msix := (post_msix _ _ _ _).1
  have hkey : (msixKey f k = msixKey f e) = (k = e) := by
    unfold msixKey
    exact propext ⟨fun h => by omega, fun h => by rw [h]⟩
  unfold State.msixEntry
  rw [hm]
  simp only [State.setMsixPending, Tab.getD_set, hkey, State.msixEntry]

/-- Whether the flush of a function sends an entry of the table. -/
def State.flushes (s : State) (f : Nat) (x : Nat × Msix) : Bool :=
  x.1 / 2048 == f && x.2.pending && !x.2.masked && s.hif.msixEn.getD f false && !s.hif.msixFm.getD f false && s.mayMaster f

theorem flushes_of_gates (h : Agrees State.msixGates s t) (f : Nat) (x : Nat × Msix) : t.flushes f x = s.flushes f x := by
  have h1 : t.hif.msixEn = s.hif.msixEn := congrArg Prod.fst h
  have h2 : t.hif.msixFm = s.hif.msixFm := congrArg (fun x : List Bool × List Bool × List Bool × Bool => x.2.1) h
  unfold State.flushes
  rw [mayMaster_of_gates h, h1, h2]

/-- Entries of the table sent in turn. -/
def State.flushEntries (s : State) (f : Nat) (l : List (Nat × Msix)) : State :=
  l.foldl (fun t x => if t.flushes f x then t.sendPending f (x.1 % 2048) else t) s

theorem flushMsix_eq (s : State) (f : Nat) : s.flushMsix f = s.flushEntries f s.hif.msix := rfl

theorem flushEntries_report (s : State) (f : Nat) (l : List (Nat × Msix)) : ReportOnly s (s.flushEntries f l) := by
  refine foldl_report _ _ (fun v x => ?_) s
  split
  · exact (setMsixPending_report v f _ false).trans (post_report _ _ _ _)
  · exact .refl v

theorem flushMsix_report (s : State) (f : Nat) : ReportOnly s (s.flushMsix f) := flushEntries_report s f _

theorem flushEntries_out {x : Emit} (f : Nat) (l : List (Nat × Msix)) (h : x ∈ s.out) : x ∈ (s.flushEntries f l).out := by
  induction l generalizing s with
  | nil => exact h
  | cons y l ih =>
    refine ih ?_
    dsimp only
    split
    · exact post_out _ _ _ h
    · exact h

theorem flushAllMsix_report (s : State) : ReportOnly s s.flushAllMsix := foldl_report _ _ flushMsix_report s

theorem flushAllMsix_out {x : Emit} (h : x ∈ s.out) : x ∈ s.flushAllMsix.out := by
  unfold State.flushAllMsix
  generalize List.range 16 = l
  induction l generalizing s with
  | nil => exact h
  | cons f l ih => exact ih (flushEntries_out f _ h)

/-- A flush leaves every mask, and what is no longer pending stays so. -/
theorem flushEntries_entry (s : State) (f e : Nat) (l : List (Nat × Msix)) :
    ((s.flushEntries f l).msixEntry f e).masked = (s.msixEntry f e).masked ∧
    ((s.msixEntry f e).pending = false → ((s.flushEntries f l).msixEntry f e).pending = false) := by
  induction l generalizing s with
  | nil => exact ⟨rfl, id⟩
  | cons x l ih =>
    show ((State.flushEntries (if s.flushes f x then s.sendPending f (x.1 % 2048) else s) f l).msixEntry f e).masked = _ ∧
      (_ → ((State.flushEntries (if s.flushes f x then s.sendPending f (x.1 % 2048) else s) f l).msixEntry f e).pending = false)
    split
    · obtain ⟨hm, hp⟩ := ih (s.sendPending f (x.1 % 2048))
      rw [sendPending_entry] at hm hp
      by_cases he : e = x.1 % 2048
      · rw [if_pos he] at hm hp
        exact ⟨by rw [hm, he], fun _ => hp rfl⟩
      · rw [if_neg he] at hm hp
        exact ⟨hm, hp⟩
    · exact ih s

/-- An entry of the list that may go is sent, and its message is pending no more. -/
theorem flushEntries_sent {f e : Nat} {x : Msix} (he : e < 2048) {l : List (Nat × Msix)} (hx : (msixKey f e, x) ∈ l)
    (hgo : s.flushes f (msixKey f e, x) = true) :
    (s.flushEntries f l).sends (.msi f e) ∧ ((s.flushEntries f l).msixEntry f e).pending = false := by
  have hmod : msixKey f e % 2048 = e := by
    unfold msixKey
    omega
  induction l generalizing s with
  | nil => exact absurd hx List.not_mem_nil
  | cons y l ih =>
    show (State.flushEntries (if s.flushes f y then s.sendPending f (y.1 % 2048) else s) f l).sends _ ∧
      ((State.flushEntries (if s.flushes f y then s.sendPending f (y.1 % 2048) else s) f l).msixEntry f e).pending = false
    rcases List.mem_cons.mp hx with rfl | hx
    · rw [if_pos hgo]
      dsimp only
      rw [hmod]
      refine ⟨?_, (flushEntries_entry (s.sendPending f e) f e l).2 (by rw [sendPending_entry, if_pos rfl])⟩
      refine foldl_sends l _ (fun v z hv => ?_) (post_sent (s.setMsixPending f e false) _ _ _)
      split
      · exact post_sends _ _ _ hv
      · exact hv
    · split
      · exact ih hx ((flushes_of_gates (sendPending_gates s f _) f _).trans hgo)
      · exact ih hx hgo

/-- A pending message of an entry that is not masked goes out in its function's flush. -/
theorem flushMsix_sent {f e : Nat} (he : e < 2048) (hp : (s.msixEntry f e).pending = true) (hm : (s.msixEntry f e).masked = false)
    (hen : s.hif.msixEn.getD f false = true) (hfm : s.hif.msixFm.getD f false = false) (hmay : s.mayMaster f = true) :
    (s.flushMsix f).sends (.msi f e) ∧ ((s.flushMsix f).msixEntry f e).pending = false := by
  have hkey : (msixKey f e / 2048 == f) = true := by
    unfold msixKey
    exact beq_iff_eq.mpr (by omega)
  cases hfind : s.hif.msix.find? (fun y => y.1 == msixKey f e) with
  | none =>
    simp [State.msixEntry, Tab.getD, Tab.get?, hfind, Msix.initial] at hp
  | some y =>
    obtain ⟨k, x⟩ := y
    have hk : k = msixKey f e := beq_iff_eq.mp (List.find?_some (p := fun y : Nat × Msix => y.1 == msixKey f e) hfind)
    have hent : s.msixEntry f e = x := by simp [State.msixEntry, Tab.getD, Tab.get?, hfind]
    subst hk
    rw [hent] at hp hm
    rw [flushMsix_eq]
    exact flushEntries_sent he (List.mem_of_find?_eq_some hfind) (by
      simp only [State.flushes]
      rw [hkey, hp, hm, hen, hfm, hmay]
      rfl)

/-! ### Reads that waited (R315) -/

theorem issueRead_out {x : Emit} (f : Nat) (addr : DWord) (len : Nat) (h : x ∈ s.out) : x ∈ (s.issueRead f addr len).out := by
  unfold State.issueRead
  generalize requestsOf s.hif.mrrs len = l
  induction l generalizing s with
  | nil => exact h
  | cons a l ih => exact ih (s := s.leaveL1.emit _) (List.mem_cons_of_mem _ h)

/-- Reads issued in turn are all issued. -/
theorem issueReads_issued (l : List (Nat × DWord × Nat)) (s : State) :
    ReportOnly s (l.foldl (fun t r => t.issueRead r.1 r.2.1 r.2.2) s) ∧
    s.out ⊆ (l.foldl (fun t r => t.issueRead r.1 r.2.1 r.2.2) s).out ∧
    ∀ q ∈ l, ReadIssued s (l.foldl (fun t r => t.issueRead r.1 r.2.1 r.2.2) s) q.1 q.2.1 q.2.2 := by
  induction l generalizing s with
  | nil => exact ⟨.refl s, fun _ h => h, fun q h => absurd h List.not_mem_nil⟩
  | cons a l ih =>
    obtain ⟨hrep, hout, hall⟩ := ih (s.issueRead a.1 a.2.1 a.2.2)
    have hstep := issueRead_report s a.1 a.2.1 a.2.2
    have hmrrs : (s.issueRead a.1 a.2.1 a.2.2).hif.mrrs = s.hif.mrrs := by
      have e := congrArg (fun x : State => x.hif.mrrs) hstep
      simpa only [State.sansReport] using e
    refine ⟨hstep.trans hrep, fun x hx => hout (issueRead_out _ _ _ hx), fun q hq => ?_⟩
    rcases List.mem_cons.mp hq with rfl | hq
    · exact fun r hr => hout (issueRead_issued s _ _ _ r hr)
    · have h := hall q hq
      unfold ReadIssued at h ⊢
      rw [hmrrs] at h
      exact h

/-- Where bus mastering is possible again: the reads that waited go out, and nothing else but the ledger follows. -/
theorem resumeMaster_spec (s : State) :
    LedgerOnly { s with readQ := s.resumeMaster.readQ } s.resumeMaster ∧
    (∀ q ∈ s.resumeMaster.readQ, s.resumeMaster.mayMaster q.1 = false) ∧
    ∀ q ∈ s.readQ, s.resumeMaster.mayMaster q.1 = true → ReadIssued s s.resumeMaster q.1 q.2.1 q.2.2 := by
  obtain ⟨u, hu⟩ : ∃ u, u = s.fetchWork := ⟨_, rfl⟩
  have hled : LedgerOnly s u := hu ▸ fetchWork_ledger s
  obtain ⟨v, hv⟩ : ∃ v : State, v = { u with readQ := u.readQ.filter (fun r => !u.mayMaster r.1) } := ⟨_, rfl⟩
  obtain ⟨hrep, hout, hiss⟩ := issueReads_issued (u.readQ.filter (fun r => u.mayMaster r.1)) v
  have hrel : u.releaseReads = (u.readQ.filter (fun r => u.mayMaster r.1)).foldl (fun t r => t.issueRead r.1 r.2.1 r.2.2) v := by
    rw [hv]
    rfl
  have hgo : s.resumeMaster = u.releaseReads.flushAllMsix := by rw [hu]; rfl
  rw [hgo]
  rw [← hrel] at hrep hout hiss
  have hflush := flushAllMsix_report u.releaseReads
  have hall : ReportOnly v u.releaseReads.flushAllMsix := hrep.trans hflush
  have hhif : ∀ {a b : State}, a.sansLedger = b.sansLedger → a.hif.mrrs = b.hif.mrrs ∧ a.hif.bme = b.hif.bme ∧ a.hif.d3hot = b.hif.d3hot := by
    intro a b h
    have e := congrArg (fun x : State => (x.hif.mrrs, x.hif.bme, x.hif.d3hot)) h
    simpa only [State.sansLedger, Prod.mk.injEq] using e
  obtain ⟨hm1, hb1, hd1⟩ := hhif hled.1
  obtain ⟨hm2, hb2, hd2⟩ := hhif hall.sansLedger
  have hvu : v.hif = u.hif := by rw [hv]
  have hq : u.readQ = s.readQ := by
    have e := congrArg State.readQ hled.1
    simpa only [State.sansLedger] using e
  have hmay : ∀ f, u.releaseReads.flushAllMsix.mayMaster f = u.mayMaster f := fun f => by
    unfold State.mayMaster
    rw [hb2, hd2, hvu]
  refine ⟨?_, fun q hmem => ?_, fun q hmem hm => ?_⟩
  · have hled' : LedgerOnly { s with readQ := u.releaseReads.flushAllMsix.readQ } v := by
      rw [hall.readQ_eq, hv]
      refine ⟨?_, fun g => hled.2 g⟩
      have e := hled.1
      exact congrArg (fun x : State => { x with readQ := u.readQ.filter (fun r => !u.mayMaster r.1) }) e
    exact hled'.trans hall.ledger
  · rw [hall.readQ_eq, hv] at hmem
    rw [hmay]
    simpa using (List.mem_filter.mp hmem).2
  · rw [hmay] at hm
    have h := hiss q (List.mem_filter.mpr ⟨hq ▸ hmem, hm⟩)
    unfold ReadIssued at h ⊢
    rw [hvu, hm1] at h
    exact fun r hr => flushAllMsix_out (h r hr)

/-! ### Credit that returns (R314, R386) -/

/-- What posted writes that go out change. -/
def PostsGone (s t : State) : Prop :=
  t = { s with
    postQ := t.postQ, fc := t.fc, out := t.out
    hif := { s.hif with inL1 := t.hif.inL1, inL11 := t.hif.inL11, inL12 := t.hif.inL12 } }

/-- With credit for none, or no write that waits, nothing goes. -/
theorem drainPosts_stop (fuel : Nat) (h : s.fc = some 0 ∨ s.postQ = []) : s.drainPosts fuel = s := by
  cases fuel with
  | zero => rfl
  | succ n =>
    unfold State.drainPosts
    split
    · rfl
    · rfl
    · next hq hz =>
      rcases h with h | h
      · exact absurd h hz
      · rw [h] at hq
        exact absurd hq (by simp)

/-- A write at the head of those that wait goes out for one credit. -/
theorem drainPosts_go {m n : Nat} {p : Posted} {l : List Posted} (hfc : s.fc = some (m + 1)) (hq : s.postQ = p :: l)
    (hcr : p.credit = none) (hmay : ∀ f, p.e.func? = some f → s.mayMaster f = true) :
    s.drainPosts (n + 1) = (({ s with postQ := l, fc := some m } : State).leaveL1.emit p.e).drainPosts n := by
  have hno : ¬ (p.e.func?.any (fun f => !s.mayMaster f)) = true := by
    cases hf : p.e.func? with
    | none => simp
    | some f => simp [hmay f hf]
  rw [State.drainPosts, hfc, hq]
  simp only
  rw [if_neg hno]
  simp only [State.postDone, hcr, Option.map_some, Nat.add_sub_cancel]

/-- Writes of functions that may master go out oldest first, as many as there is credit. -/
theorem drainPosts_spec (l : List Posted) : ∀ {s : State} {m fuel : Nat}, s.postQ = l → s.fc = some m → l.length < fuel →
    (∀ q ∈ l, q.credit = none) → (∀ q ∈ l, ∀ f, q.e.func? = some f → s.mayMaster f = true) →
    (s.drainPosts fuel).postQ = l.drop m ∧ (s.drainPosts fuel).fc = some (m - min m l.length) ∧
    (∀ q ∈ l.take m, q.e ∈ (s.drainPosts fuel).out) ∧ s.out ⊆ (s.drainPosts fuel).out ∧ PostsGone s (s.drainPosts fuel) := by
  induction l with
  | nil =>
    intro s m fuel hq hfc _ _ _
    rw [drainPosts_stop fuel (.inr hq)]
    exact ⟨by simp [hq], by simp [hfc], by simp, fun _ h => h, rfl⟩
  | cons p l ih =>
    intro s m fuel hq hfc hfuel hcr hmay
    cases m with
    | zero =>
      rw [drainPosts_stop fuel (.inl hfc)]
      exact ⟨hq, by simp [hfc], by simp, fun _ h => h, rfl⟩
    | succ m =>
      obtain ⟨n, rfl⟩ : ∃ n, fuel = n + 1 := ⟨fuel - 1, by omega⟩
      rw [drainPosts_go hfc hq (hcr p List.mem_cons_self) (hmay p List.mem_cons_self)]
      obtain ⟨hpost, hf, htake, hout, hgone⟩ := ih (s := (({ s with postQ := l, fc := some m } : State).leaveL1.emit p.e)) (m := m)
        (fuel := n) rfl rfl (by simpa using hfuel) (fun q h => hcr q (List.mem_cons_of_mem _ h))
        (fun q h => hmay q (List.mem_cons_of_mem _ h))
      refine ⟨hpost, by rw [hf]; congr 1; simp only [List.length_cons]; omega, fun q h => ?_, fun x h => hout (List.mem_cons_of_mem _ h), ?_⟩
      · rw [List.take_succ_cons] at h
        rcases List.mem_cons.mp h with rfl | h
        · exact hout List.mem_cons_self
        · exact htake q h
      · unfold PostsGone at hgone ⊢
        exact hgone

/-- The link goes to L1, with the substate asked for where the device is in DOZE (R312). -/
def State.enterL1 (s : State) (sub : Fin 3) : State :=
  let doze := s.pwr.dev == .doze
  let l12 := doze && sub.val == 2
  ({ s with hif := { s.hif with inL1 := true, inL11 := doze && sub.val == 1, inL12 := l12
                                l12 := if l12 then satInc 0xFFFF s.hif.l12 else s.hif.l12 } } : State).emit .l1Request

/-- A link that has trained. -/
def State.trained (s : State) (speed width : Nat) (credits : Option Nat) : State :=
  let h := s.hif
  { s with
    hif := { h with speed := speed, width := width, up := true, inL1 := false, inL11 := false, inL12 := false
                    recovery := if h.up && s.pwr.start.isNone then satInc 0xFFFF h.recovery else h.recovery }
    fc := if h.up then s.fc else credits }

/-- Settles O51. -/
theorem hostPower : Obligations.HostPower := by
  refine ⟨fun s hup => ?_, fun s speed width credits hlegal hrole hlive hq => ?_, fun s n k hfc hcr hmay => ?_⟩
  · intro resumed
    have hthere : ∀ f : Fin 16, f.val = 0 ∨ s.hif.vfEn = true → ¬ ((!s.hostUp) = true ∨ (f.val ≠ 0 ∧ (!s.hif.vfEn) = true)) := by
      rintro f (h | h) (h1 | ⟨h1, h2⟩)
      · simp [hup] at h1
      · exact h1 h
      · simp [hup] at h1
      · simp [h] at h2
    refine ⟨fun f hf hv on => congrArg Host.Outcome.next (if_pos (.inr ⟨hf, by simp [hv]⟩)),
      fun f hf => ⟨congrArg Host.Outcome.next ((if_neg (hthere f hf)).trans (if_neg Bool.false_ne_true)), ?_⟩,
      congrArg Host.Outcome.next (if_pos hup), ?_, fun sub ha hlink hl1 hlt => ⟨fun hdev => ?_, fun hdry => ?_⟩, fun f e hfe => ?_⟩
    · exact ⟨_, congrArg Host.Outcome.next ((if_neg (hthere f hf)).trans (if_pos rfl)), resumeMaster_spec _⟩
    · exact ⟨_, congrArg Host.Outcome.next (if_pos hup), resumeMaster_spec _⟩
    · have hdev' : (s.pwr.dev == .run || s.pwr.dev == .economy || s.pwr.dev == .doze) = true := by
        rcases hdev with h | h | h <;> rw [h] <;> rfl
      have hgo : exec (.aspmL1Idle sub) s = .next (s.enterL1 sub) :=
        congrArg Host.Outcome.next (if_neg (by simp [hup, ha, hlink, hl1, hdev']))
      refine ⟨_, hgo, rfl, rfl, rfl, ?_, fun hsub => ?_, fun hsub => ?_⟩
      · show (s.pwr.dev == .doze && sub.val == 1) = true ↔ _
        rw [Bool.and_eq_true, beq_iff_eq, beq_iff_eq, and_comm]
      · have h12 : (s.pwr.dev == .doze && sub.val == 2) = true := by rw [hsub.1, hsub.2]; rfl
        exact ⟨h12, (if_pos h12).trans (satInc_of_lt hlt)⟩
      · have h12 : ¬ (s.pwr.dev == .doze && sub.val == 2) = true := by
          rw [Bool.and_eq_true, beq_iff_eq, beq_iff_eq, and_comm]
          exact hsub
        exact ⟨Bool.eq_false_iff.mpr h12, if_neg h12⟩
    · exact congrArg Host.Outcome.next (if_pos (by simp [hdry]))
    · have he : e.val < 2048 := by omega
      obtain ⟨u, hu⟩ : ∃ u : State, u = { s with hif := { s.hif with
        msix := Tab.set s.hif.msix (msixKey f.val e.val) { s.msixEntry f.val e.val with masked := false } } } := ⟨_, rfl⟩
      have hent : u.msixEntry f.val e.val = { s.msixEntry f.val e.val with masked := false } := by
        rw [hu]
        simp [State.msixEntry]
      have hrep : ReportOnly s u := by rw [hu]; rfl
      have hmay : u.mayMaster f.val = s.mayMaster f.val := by rw [hu]; rfl
      have hen : u.hif.msixEn = s.hif.msixEn ∧ u.hif.msixFm = s.hif.msixFm := by rw [hu]; exact ⟨rfl, rfl⟩
      refine ⟨u.flushMsix f.val, congrArg Host.Outcome.next ((if_neg (by simp [hup])).trans ((if_neg ?_).trans (by rw [hu]))),
        hrep.trans (flushMsix_report u f.val), ?_, fun hp hon hfm hm => ?_⟩
      · rintro ⟨h0, h960⟩
        rcases hfe with h | h
        · exact h0 h
        · omega
      · rw [flushMsix_eq, (flushEntries_entry u f.val e.val _).1, hent]
      · exact flushMsix_sent he (by rw [hent]; exact hp) (by rw [hent]) (by rw [hen.1]; exact hon) (by rw [hen.2]; exact hfm)
          (by rw [hmay]; exact hm)
  · have hno : ¬ ((!linkLegal speed width) = true ∨ s.pins.role = .member ∨ ((!s.hostUp) = true ∧ s.pwr.start.isNone = true)) := by
      rintro (h | h | ⟨h1, h2⟩)
      · simp [hlegal] at h
      · exact hrole h
      · rcases hlive with h | h
        · simp [h] at h1
        · rw [← Option.not_isSome, h] at h2
          exact absurd h2 (by decide)
    have hgo : exec (.linkUp speed width credits) s = .next (s.trained speed width credits) :=
      congrArg Host.Outcome.next ((if_neg hno).trans (drainPosts_stop _ (.inr hq)))
    refine ⟨_, hgo, rfl, rfl, rfl, rfl, rfl, rfl, fun hdown => ⟨if_neg (by simp [hdown]), if_neg (by simp [hdown])⟩, fun hlink => if_pos hlink⟩
  · have h := drainPosts_spec s.postQ (s := { s with fc := some (k + n) }) (m := k + n) (fuel := s.postQ.length + 1) rfl rfl
      (Nat.lt_succ_self _) hcr hmay
    obtain ⟨hpost, hf, htake, -, hgone⟩ := h
    have he : exec (.flowControlCreditReturn n) s = .next (match s.fc with
      | none => s
      | some k => ({ s with fc := some (k + n) } : State).drainPosts (s.postQ.length + 1)) := rfl
    rw [hfc] at he
    exact ⟨_, he, hpost, hf, htake, hgone⟩

end Sys2Proof.Machine
end

section
/-! PROOFS. A setting stored, where two commands have one number: what fails, and where. -/

namespace Sys2Proof.Machine

set_option Elab.async false

/-- A run in flight. -/
def plainRun : Run :=
  { handle := 1, runSeq := 0, start := 0, bound := 0, window := none, theta := [], exact := false, bufs := [], feeds := [], notBefore := 0
    begun := false, doneP := [], doneT := [], fault := none, damaged := none, underrun := none, readPorts := [], lateCause := 0
    faultRing := none, behind := none, parts := [] }

/-- Its command, number 3 of ring 1. -/
def plainRunCmd : Cmd :=
  { cid := 3, ring := 1, tag := 0, opcode := 0x12, irqNow := false, parent := none, start := 0, deadline := none, evals := 0, skipped := 0
    power := 0, detached := false, mir := [], held := none, body := .run plainRun }

/-- A graph of no placement, with handle 1. -/
def plainGraph : Graph :=
  { handle := 1, owner := 0, raw := []
    cgd := { devices := 1, wcRun := 0, wcEco := 0, energy := 0, imageId := 0, places := [], edges := [], slots := [], ports := [] }
    phys := [], slots := [], score := [], credit := [], theta := [], exact := false, nextSeq := 0, unload := none, frame := none, loadRing := 0
    bound := false, ports := [] }

/-- EXACT_MODE of graph 1. -/
def exactPacket : List Byte := [0x17, 0, 0, 0, 1, 0, 0, 0, 0, 0, 0, 0, 0, 0, 0, 0, 1, 0, 1] ++ List.replicate 45 0

/-- EXACT_MODE at the head of ring 0, while a run and a LIST_CALL whose list is consumed are in flight under one number. -/
def twiceNumbered : State :=
  { State.reset with
    hif := { State.reset.hif with bme := List.replicate 16 true }
    rings := [(0, { Ring.initial with en := true, active := true, phase := true, log2 := 6, engine := 1, cls := 2
                                      places := [exactPacket], sqHead := 1, sqTail := 1 })]
    graphs := [plainGraph]
    cmds := [plainRunCmd, { plainRunCmd with opcode := 5, body := .listCall 0 none }]
    nextCid := 4 }

theorem twiceNumbered_reporting : Reporting twiceNumbered 0 := by
  refine ⟨by decide, by decide, fun c hc => ?_⟩
  rcases List.mem_cons.mp hc with rfl | hc
  · decide
  · rw [List.mem_singleton.mp hc]
    decide

/-- Refutes O39: as EXACT_MODE ends, the LIST_CALL whose list is consumed ends too, and with its number the run goes. The statement
has command numbers below the next one only, and not that no two commands share one. -/
theorem not_settingsStored : ¬ Obligations.SettingsStored := by
  intro h
  obtain ⟨t, he, -, -, -, hruns⟩ := (h twiceNumbered 0 exactPacket plainGraph twiceNumbered_reporting (by decide) (by decide)).2 (by decide)
  have hmem := hruns plainRunCmd List.mem_cons_self plainRun rfl
  have hnone : (match exec (.exactMode 0) twiceNumbered with | .next t => t.cmds | _ => []) = [] := by decide
  rw [he] at hnone
  rw [show t.cmds = [] from hnone] at hmem
  exact List.not_mem_nil hmem

end Sys2Proof.Machine
end

section
/-! PROOFS. Runs that wait at the sluice, and the decision that books them. -/

namespace Sys2Proof.Machine

set_option Elab.async false

variable {s t u : State} {g : Graph} {r : Nat} {p : List Byte}

/-! ### Admission (R346, R361) -/

theorem Agrees.foldl_fst {α β γ : Type} {view : State → γ} {l : List α} {f : State × β → α → State × β} {acc : State × β}
    (h : Agrees view s acc.1) (hf : ∀ x a, Agrees view x.1 (f x a).1) : Agrees view s (l.foldl f acc).1 := by
  induction l generalizing acc with
  | nil => exact h
  | cons a l ih => exact ih (h.trans (hf acc a))

/-- The commands in flight, the number of the next one, and what waits at the sluice. -/
def State.booksView (s : State) : List Cmd × Nat × List Nat := (s.cmds, s.nextCid, s.slc.waiting)

theorem takeStaged_booksView (s : State) (g : Graph) : (s.takeStaged g).1.booksView = s.booksView := by
  refine Agrees.foldl_fst (view := State.booksView) (.refl s) fun acc i => ?_
  repeat' split
  all_goals exact .refl _

theorem takeFrames_booksView (s : State) (h : Nat) : (s.takeFrames h).1.booksView = s.booksView := by
  refine Agrees.foldl_fst (view := State.booksView) (.refl s) fun acc i => ?_
  dsimp only
  split
  · exact .refl _
  · rfl

theorem readInputs_booksView (s : State) (g : Graph) (f : Nat) (bufs : List (Nat × Option DWord)) :
    (s.readInputs g f bufs).booksView = s.booksView := by
  refine Agrees.foldl (view := State.booksView) (.refl s) fun u b _ => ?_
  have hread : ∀ a n, Agrees State.booksView u (u.dmaRead f a n) := fun a n => by
    unfold State.dmaRead
    split
    · exact (issueRead_report u f a n).agrees
    · rfl
  split
  · split
    · exact hread _ _
    · exact .refl u
  · exact .refl u

theorem needTerraces_booksView (s : State) (ts : List Nat) : (s.needTerraces ts).booksView = s.booksView := by
  rw [s.needTerraces_eq_pwr]
  rfl

/-- A run as it is admitted: booked from `start` to `bound`, with the settings of its graph. -/
structure Admitted (g : Graph) (start bound : Nat) (window : Option (Nat × Nat)) (run : Run) : Prop where
  handle : run.handle = g.handle
  start : run.start = start
  bound : run.bound = bound
  window : run.window = window
  theta : run.theta = g.theta
  exact_ : run.exact = g.exact
  begun : run.begun = false

/-- Admission puts one command in flight, which is the run, and takes its ring from those that wait. -/
theorem admitRun_spec (s : State) (r : Nat) (p : List Byte) (g : Graph) (start bound : Nat) (window : Option (Nat × Nat))
    (notBefore : Nat) (deadline : Option Nat) :
    ∃ c run, (s.admitRun r p g start bound window notBefore deadline).booksView =
        (s.cmds ++ [c], s.nextCid + 1, s.slc.waiting.filter (fun x => x != r)) ∧
      c.cid = s.nextCid ∧ c.ring = r ∧ c.tag = pktTag p ∧ c.body = .run run ∧ Admitted g start bound window run := by
  unfold State.admitRun
  dsimp only
  generalize hst : s.takeStaged g = st
  generalize hfr : st.1.takeFrames g.handle = fr
  have hview : fr.1.booksView = s.booksView := by
    rw [← hfr, takeFrames_booksView, ← hst, takeStaged_booksView]
  simp only [State.booksView, Prod.mk.injEq] at hview
  obtain ⟨hcmds, hcid, hwait⟩ := hview
  generalize hrun : Run.mk .. = run
  generalize hacc : State.accept .. = a
  have haccv : a.booksView = (s.cmds ++ [fr.1.headCmd r p (.run run) deadline (if g.frame.isSome then 0 else s.graphPower g)], s.nextCid + 1,
      s.slc.waiting) := by
    rw [← hacc, ← hcmds, ← hcid, ← hwait]
    rfl
  generalize hv : (State.needTerraces _ _).notePeak = v
  have hvv : v.booksView = a.booksView := by
    rw [← hv]
    exact (needTerraces_booksView _ _).trans (readInputs_booksView _ _ _ _)
  rw [haccv] at hvv
  simp only [State.booksView, Prod.mk.injEq] at hvv
  obtain ⟨hc, hn, hw⟩ := hvv
  refine ⟨fr.1.headCmd r p (.run run) deadline (if g.frame.isSome then 0 else s.graphPower g), run, ?_, hcid, rfl, rfl, rfl, ?_⟩
  · simp only [State.booksView]
    rw [hc, hn, hw]
  · rw [← hrun]
    exact ⟨rfl, rfl, rfl, rfl, rfl, rfl, rfl⟩

/-- A run that is admitted is in flight when its ring has settled, and its ring waits no more. -/
theorem admitRun_settled (hfresh : CidsFresh s) (r : Nat) (p : List Byte) (g : Graph) (start bound : Nat) (window : Option (Nat × Nat))
    (notBefore : Nat) (deadline : Option Nat) :
    r ∉ ((s.admitRun r p g start bound window notBefore deadline).settle r).slc.waiting ∧
    ∃ c ∈ ((s.admitRun r p g start bound window notBefore deadline).settle r).cmds, ∃ run, c.cid = s.nextCid ∧ c.ring = r ∧
      c.tag = pktTag p ∧ c.body = .run run ∧ Admitted g start bound window run := by
  obtain ⟨c, run, hview, hcid, hring, htag, hbody, hrun⟩ := admitRun_spec s r p g start bound window notBefore deadline
  generalize s.admitRun r p g start bound window notBefore deadline = a at hview ⊢
  simp only [State.booksView, Prod.mk.injEq] at hview
  obtain ⟨hcmds, -, hwait⟩ := hview
  have hno : ∀ n k, c.body ≠ .listCall n k := fun n k => by
    rw [hbody]
    exact Body.noConfusion
  have hstands : Stands c a := by
    refine ⟨?_, fun x hx he => ?_, .inl hno⟩
    · rw [hcmds]
      exact List.mem_append_right _ (List.mem_singleton.mpr rfl)
    · rw [hcmds] at hx
      rcases List.mem_append.mp hx with hx | hx
      · have := hfresh x hx
        omega
      · exact List.mem_singleton.mp hx
  have hsettle : (a.settle r).slc.waiting = a.slc.waiting := (settle_books a r).view (view := fun u => u.slc.waiting)
  refine ⟨?_, c, hstands.settle hno r, run, hcid, hring, htag, hbody, hrun⟩
  rw [hsettle, hwait]
  simp

/-! ### The decision (R369, R372 to R375) -/

/-- One ring waits: the sluice decides its head. -/
theorem exec_sluiceDecision_one (hw : s.slc.waiting = [r]) (hgo : s.enginesRun = true) (hdev : s.pwr.dev ≠ .dry) :
    exec .sluiceDecision s = .next (s.decide1 r) := by
  have hcons : s.considered = [r] := by
    unfold State.considered
    rw [hw]
    rfl
  have hcond : (s.enginesRun && s.pwr.dev != .dry) = true := by
    rw [hgo]
    simpa using hdev
  have he : exec .sluiceDecision s = .next (s.considered.foldl State.decide1 s) := congrArg Host.Outcome.next (if_pos hcond)
  rw [hcons] at he
  exact he

theorem decide1_run (h : s.ready r 0x12 false = some p) : s.decide1 r = s.decideRun r p := by
  obtain ⟨-, -, hop, -, -, d, hhead⟩ := ready_head h
  unfold State.decide1
  rw [hhead]
  exact (if_pos hop).trans (onHead_some _ h)

theorem decide1_frame (h : s.ready r 0x13 false = some p) : s.decide1 r = s.decideFrame r p := by
  obtain ⟨-, -, hop, -, -, d, hhead⟩ := ready_head h
  unfold State.decide1
  rw [hhead]
  exact (if_neg (by rw [hop]; decide)).trans ((if_pos hop).trans (onHead_some _ h))

/-- A verdict that books has its bound from its start. -/
theorem runVerdict_booked {cls start bound : Nat} {d : Int} (h : s.runVerdict g cls d = .booked start bound) :
    bound = start + s.runNeed g := by
  unfold State.runVerdict at h
  split at h
  · cases h
  · dsimp only at h
    split at h
    · cases h
    · split at h
      · cases h
      · unfold State.bookVerdict at h
        dsimp only at h
        split at h
        · split at h <;> cases h
        · split at h
          · split at h <;> cases h
          · split at h
            · cases h
            · cases h
              rfl

/-- Settles O41. -/
theorem runsBooked : Obligations.RunsBooked := by
  intro s r p g hg
  have hwait : r.val ∉ s.slc.waiting → s.toSluice r.val = { s with slc := { s.slc with waiting := s.slc.waiting ++ [r.val] } } := fun h =>
    if_neg (by simpa using h)
  refine ⟨fun h hlost hun hno => ?_, fun h hlost hwin hno => ?_, fun hw hdev hstop hfresh => ⟨fun start bound h hun hver => ?_,
    fun k f h hwin hk hlt hfull hrun => ?_⟩⟩
  · have hok : s.runRefusal p false = none := by
      unfold State.runRefusal
      rw [hg]
      simp [hlost, hun]
    refine congrArg Host.Outcome.next ((onHead_some _ h).trans ?_)
    dsimp only
    rw [hok]
    exact hwait hno
  · have hok : s.runRefusal p true = none := by
      unfold State.runRefusal
      rw [hg]
      cases hg' : g.window with
      | none => simp [hg'] at hwin
      | some w => simp [hlost, hg']
    refine congrArg Host.Outcome.next ((onHead_some _ h).trans ?_)
    dsimp only
    rw [hok]
    exact hwait hno
  · have hgo : s.decideRun r.val p = (s.admitRun r.val p g start bound none (s.heldUntil g start)
        (if pktDeadline p = 0 then none else some (pktDeadline p))).settle r.val := by
      unfold State.decideRun
      rw [hg]
      dsimp only
      rw [hun]
      dsimp only
      rw [if_neg (by simp [hstop]), hver]
    have he := exec_sluiceDecision_one hw (ready_head h).2.2.2.2.1 hdev
    rw [decide1_run h, hgo] at he
    obtain ⟨hout, c, hc, run, hcid, hring, htag, hbody, hadm⟩ := admitRun_settled hfresh r.val p g start bound none (s.heldUntil g start)
      (if pktDeadline p = 0 then none else some (pktDeadline p))
    refine ⟨_, he, hout, c, hc, run, hcid, hring, htag, hbody, hadm.handle, hadm.start, hadm.bound, ?_, hadm.theta, hadm.exact_, hadm.begun⟩
    rw [runVerdict_booked hver, State.runNeed]
    omega
  · intro fire hle
    have hgo : s.decideFrame r.val p = (s.admitRun r.val p g fire (fire + s.runNeed g) (some (pktDeadline p, fire + 1000 * f.2)) fire
        (some (s.slc.frameAt + (pktDeadline p - k) * s.slc.curPeriod + f.1 + f.2))).settle r.val := by
      unfold State.decideFrame
      rw [hg]
      dsimp only
      rw [hwin]
      dsimp only
      rw [if_neg (by simp [hstop]), hfull]
      dsimp only
      rw [hk]
      dsimp only
      rw [if_neg (by omega), if_neg (by omega), if_neg (by omega), hrun]
      rfl
    have he := exec_sluiceDecision_one hw (ready_head h).2.2.2.2.1 hdev
    rw [decide1_frame h, hgo] at he
    obtain ⟨hout, c, hc, run, hcid, -, -, hbody, hadm⟩ := admitRun_settled hfresh r.val p g fire (fire + s.runNeed g)
      (some (pktDeadline p, fire + 1000 * f.2)) fire (some (s.slc.frameAt + (pktDeadline p - k) * s.slc.curPeriod + f.1 + f.2))
    exact ⟨_, he, hout, c, hc, run, hcid, hbody, hadm.handle, hadm.start, hadm.window, hadm.begun⟩

end Sys2Proof.Machine
end

section
/-! PROOFS. The rill: what a packet that waits, leaves, or is lost changes, and who is served first at a port. -/

namespace Sys2Proof.Machine

set_option Elab.async false

variable {s t u : State} {p q : Packet}

/-! ### Packets that leave -/

theorem ter_updTer (s : State) (i k : Nat) (f : Terrace → Terrace) :
    (s.updTer i f).ter k = if i = k ∧ k < s.ters.length then f (s.ter k) else s.ter k := by
  unfold State.updTer State.ter
  rw [List.getD_eq_getElem?_getD, List.getD_eq_getElem?_getD, List.getElem?_modify]
  by_cases hk : k < s.ters.length
  · rw [List.getElem?_eq_getElem hk]
    by_cases hik : i = k <;> simp [hik, hk]
  · rw [List.getElem?_eq_none (by omega)]
    simp [hk]

/-- What a packet's way changes of the rill: the flits counted, and the turns of the ports. -/
structure Crossed (s u : State) : Prop where
  frame : u = { s with ters := u.ters, rillVc := u.rillVc, rillIn := u.rillIn }
  length : u.ters.length = s.ters.length
  ters : ∀ k, u.ter k = { s.ter k with flits := (u.ter k).flits }

theorem crossHop_crossed (s : State) (p : Packet) (h : Hop) : Crossed s (s.crossHop p h) := by
  refine ⟨rfl, List.length_modify _ _ _, fun k => ?_⟩
  have hter : (s.crossHop p h).ter k = if h.ter = k ∧ k < s.ters.length then
      { s.ter k with flits := (s.ter k).flits.modify h.out (fun v => v + BitVec.ofNat 32 (1 + p.flits)) } else s.ter k := ter_updTer s _ _ _
  rw [hter]
  split <;> rfl

theorem Crossed.trans (h : Crossed s t) (k : Crossed t u) : Crossed s u := by
  refine ⟨?_, k.length.trans h.length, fun n => ?_⟩
  · have := k.frame
    rw [h.frame] at this
    exact this
  · have h1 := k.ters n
    rw [h.ters n] at h1
    exact h1

/-- A packet that leaves takes itself from the rill; the routers on its way count it and take their turns. -/
theorem leaveRill_crossed (s : State) (p : Packet) : Crossed { s with rill := s.rillLess p } (s.leaveRill p) := by
  unfold State.leaveRill
  generalize s.way p = l
  generalize ({ s with rill := s.rillLess p } : State) = v
  induction l generalizing v with
  | nil => exact ⟨rfl, rfl, fun _ => rfl⟩
  | cons h l ih => exact (crossHop_crossed v p h).trans (ih _)

theorem leaveRill_frame (s : State) (p : Packet) : s.leaveRill p = { s with
    rill := s.rillLess p, ters := (s.leaveRill p).ters, rillVc := (s.leaveRill p).rillVc, rillIn := (s.leaveRill p).rillIn } :=
  (leaveRill_crossed s p).frame

@[simp] theorem leaveRill_rill (s : State) (p : Packet) : (s.leaveRill p).rill = s.rillLess p := by
  rw [leaveRill_frame]

@[simp] theorem leaveRill_cistern (s : State) (p : Packet) : (s.leaveRill p).cistern = s.cistern := by
  rw [leaveRill_frame]

@[simp] theorem leaveRill_graphs (s : State) (p : Packet) : (s.leaveRill p).graphs = s.graphs := by
  rw [leaveRill_frame]

@[simp] theorem leaveRill_kmbx (s : State) (p : Packet) : (s.leaveRill p).kmbx = s.kmbx := by
  rw [leaveRill_frame]

@[simp] theorem leaveRill_casc (s : State) (p : Packet) : (s.leaveRill p).casc = s.casc := by
  rw [leaveRill_frame]

@[simp] theorem leaveRill_evals (s : State) (p : Packet) : (s.leaveRill p).evals = s.evals := by
  rw [leaveRill_frame]

@[simp] theorem leaveRill_pwr (s : State) (p : Packet) : (s.leaveRill p).pwr = s.pwr := by
  rw [leaveRill_frame]

@[simp] theorem leaveRill_out (s : State) (p : Packet) : (s.leaveRill p).out = s.out := by
  rw [leaveRill_frame]

@[simp] theorem leaveRill_readSpace (s : State) (p : Packet) : (s.leaveRill p).readSpace = s.readSpace := by
  rw [leaveRill_frame]

@[simp] theorem leaveRill_maintOut (s : State) (p : Packet) : (s.leaveRill p).maintOut = s.maintOut := by
  rw [leaveRill_frame]

@[simp] theorem leaveRill_maintQ (s : State) (p : Packet) : (s.leaveRill p).maintQ = s.maintQ := by
  rw [leaveRill_frame]

@[simp] theorem leaveRill_lcs (s : State) (p : Packet) : (s.leaveRill p).lcs = s.lcs := by
  rw [leaveRill_frame]

@[simp] theorem leaveRill_cmds (s : State) (p : Packet) : (s.leaveRill p).cmds = s.cmds := by
  rw [leaveRill_frame]

@[simp] theorem leaveRill_fwds (s : State) (p : Packet) : (s.leaveRill p).fwds = s.fwds := by
  rw [leaveRill_frame]

/-! ### Runs that are marked -/

theorem failRun_eq_cmds (s : State) (h seq k : Nat) : s.failRun h seq k = { s with cmds := (s.failRun h seq k).cmds } := by
  unfold State.failRun
  split <;> rfl

theorem noteBehind_eq_cmds (s : State) (p : Packet) : s.noteBehind p = { s with cmds := (s.noteBehind p).cmds } := by
  unfold State.noteBehind
  dsimp only
  split <;> rfl

theorem holdRoute_eq_cmds (s : State) (h seq k : Nat) : s.holdRoute h seq k = { s with cmds := (s.holdRoute h seq k).cmds } := by
  unfold State.holdRoute
  split <;> rfl

/-- A malformed packet marks its terrace, and the run it was of. -/
theorem badPacket_eq (s : State) (p : Packet) (k : Nat) :
    s.badPacket p k = { s.updTer k (fun x => { x with badPkt := true }) with cmds := (s.badPacket p k).cmds } :=
  failRun_eq_cmds _ _ _ _

/-! ### Arrival (R96, R245, R251, R253) -/

/-- What the routers on the way are asked for. -/
def State.wayTers (s : State) (p : Packet) : List Nat := (s.way p).map (fun h => h.ter)

theorem moated_of_wayClear (h : s.wayClear p = true) : s.moated p = false := by
  unfold State.wayClear at h
  simp only [Bool.and_eq_true, Bool.not_eq_true'] at h
  exact h.1

theorem arrive_of_moated (h : s.moated p = true) (k : State → State) : s.arrive p k = s := if_pos h

theorem arrive_of_unpowered (h : s.moated p = false) (hw : s.wayClear p = false) (k : State → State) :
    s.arrive p k = s.needTerraces (s.wayTers p) := (if_neg (by simp [h])).trans (if_pos (by simp [hw]))

theorem arrive_of_behind (hw : s.wayClear p = true) (ht : s.rillTurn p = false) (k : State → State) :
    s.arrive p k = { s.noteBehind p with free := s.free + 1 } :=
  (if_neg (by simp [moated_of_wayClear hw])).trans ((if_neg (by simp [hw])).trans (if_pos (by simp [ht])))

theorem arrive_of_unsound (hw : s.wayClear p = true) (ht : s.rillTurn p = true) (hs : packetSound p = false) (k : State → State) :
    s.arrive p k = (s.leaveRill p).badPacket p (packetStart p s.isMe) :=
  (if_neg (by simp [moated_of_wayClear hw])).trans ((if_neg (by simp [hw])).trans ((if_neg (by simp [ht])).trans (if_pos (by simp [hs]))))

/-- In its turn, a sound packet leaves the rill, and its damage is seen. -/
theorem arrive_of_turn (hw : s.wayClear p = true) (ht : s.rillTurn p = true) (hs : packetSound p = true) (k : State → State) :
    s.arrive p k =
      let d := (s.leaveRill p).transit p
      let t := if p.damage = .header ∨ p.damage = .payload then d.1.holdRoute p.graph p.runSeq p.errTer.val else d.1
      if d.2 then k t else t :=
  (if_neg (by simp [moated_of_wayClear hw])).trans ((if_neg (by simp [hw])).trans ((if_neg (by simp [ht])).trans (if_neg (by simp [hs]))))

/-- A packet that arrives is taken in as it was sent. -/
theorem arrive_of_arrives (h : Arrives s p) (k : State → State) : s.arrive p k = k (s.leaveRill p) := by
  obtain ⟨hw, ht, hd, hs⟩ := h
  rw [arrive_of_turn hw ht hs]
  simp [State.transit, hd]

theorem ReportOnly.withCmds (h : ReportOnly s t) (cs : List Cmd) : ReportOnly { s with cmds := cs } { t with cmds := cs } := by
  have e := congrArg (fun x : State => ({ x with cmds := cs } : State)) (show t.sansReport = s.sansReport from h)
  exact e

/-- A packet whose header no router can read is lost, with its run and the runs that its handling delays marked. -/
theorem arrive_of_header (hw : s.wayClear p = true) (ht : s.rillTurn p = true) (hs : packetSound p = true) (hd : p.damage = .header)
    (k : State → State) : ∃ b cs, ReportOnly { (s.leaveRill p).updTer p.errTer.val (fun x => { x with uncorrRill := true, errPort := p.errPort.val })
      with bist := b, cmds := cs } (s.arrive p k) := by
  rw [arrive_of_turn hw ht hs]
  simp only [State.transit, hd, true_or, if_true, State.uncorrectable, Bool.false_eq_true, if_false]
  generalize ((s.leaveRill p).updTer p.errTer.val _) = v
  obtain ⟨b, hb⟩ := dlog_report v 4 1 (BitVec.ofNat 32 p.errTer.val) (BitVec.ofNat 64 (v.ter p.errTer.val).err)
  generalize v.dlog 4 1 _ _ = w at hb ⊢
  rw [holdRoute_eq_cmds, failRun_eq_cmds]
  exact ⟨b, _, hb.withCmds _⟩

/-- No router is on the way of an unsound packet, which so finds its way clear. -/
theorem wayClear_of_unsound (s : State) (h : packetSound p = false) : s.wayClear p = true := by
  have hway : s.way p = [] := if_pos (by simp [h])
  simp [State.wayClear, State.moated, hway]

/-! ### Terraces that are needed are no longer off -/

theorem setTerPower_awake {k : Nat} (h : s.terPower k ≠ .off) (j : Nat) {w : TerPower} (hw : w ≠ .off) :
    (s.setTerPower j w).terPower k ≠ .off := by
  by_cases hj : k = j
  · subst hj
    have hlt : k < s.pwr.terraces.length := by
      by_contra hge
      refine h ?_
      rw [State.terPower, List.getD_eq_getElem?_getD, List.getElem?_eq_none (by omega)]
      rfl
    rw [terPower_setTerPower_self s hlt]
    exact hw
  · rw [terPower_setTerPower_of_ne s hj]
    exact h

theorem stageMore_awake {k : Nat} (fuel : Nat) (h : s.terPower k ≠ .off) : (s.stageMore fuel).terPower k ≠ .off := by
  induction fuel generalizing s with
  | zero => exact h
  | succ n ih =>
    unfold State.stageMore
    split
    · exact h
    · split
      · exact ih (setTerPower_awake (s := { s with pwr := { s.pwr with stageQ := _ } }) h _ (by simp))
      · exact h

theorem stageMore_length (fuel : Nat) (s : State) : (s.stageMore fuel).pwr.terraces.length = s.pwr.terraces.length := by
  induction fuel generalizing s with
  | zero => rfl
  | succ n ih =>
    unfold State.stageMore
    split
    · rfl
    · split
      · exact (ih _).trans (List.length_set ..)
      · rfl

theorem needTerrace_length (s : State) (j : Nat) : (s.needTerrace j).pwr.terraces.length = s.pwr.terraces.length := by
  unfold State.needTerrace
  split
  · exact (stageMore_length _ _).trans (List.length_set ..)
  · rfl

theorem needTerrace_awake {k : Nat} (h : s.terPower k ≠ .off) (j : Nat) : (s.needTerrace j).terPower k ≠ .off := by
  unfold State.needTerrace
  split
  · exact stageMore_awake _ (setTerPower_awake (s := { s with pwr := { s.pwr with stageQ := _ } }) h _ (by simp))
  · exact h

theorem needTerrace_self {k : Nat} (hk : k < 64) (hlen : s.pwr.terraces.length = 64) : (s.needTerrace k).terPower k ≠ .off := by
  unfold State.needTerrace
  split
  · refine stageMore_awake _ ?_
    rw [terPower_setTerPower_self _ (by show k < s.pwr.terraces.length; omega)]
    exact TerPower.noConfusion
  · next h => exact fun hoff => h ⟨hoff, hk⟩

/-- Every terrace of a list that is needed is staged or better. -/
theorem needTerraces_awake {k : Nat} {l : List Nat} (hk : k < 64) (hlen : s.pwr.terraces.length = 64) (hmem : k ∈ l) :
    (s.needTerraces l).terPower k ≠ .off := by
  show (l.foldl State.needTerrace s).terPower k ≠ .off
  have hkeep : ∀ (l : List Nat) (v : State), v.terPower k ≠ .off → (l.foldl State.needTerrace v).terPower k ≠ .off := by
    intro l
    induction l with
    | nil => exact fun _ h => h
    | cons j l ih => exact fun v h => ih _ (needTerrace_awake h j)
  induction l generalizing s with
  | nil => exact absurd hmem List.not_mem_nil
  | cons j l ih =>
    rcases List.mem_cons.mp hmem with rfl | hmem
    · exact hkeep l _ (needTerrace_self hk hlen)
    · exact ih ((needTerrace_length s j).trans hlen) hmem

/-! ### Arbitration (R245) -/

theorem servedFirst_of_high (s : State) (hq : q.vc = 1) (hp : p.vc ≠ 1) (h k : Hop) (b : Bool) :
    s.servedFirst q p k h b = true ∧ s.servedFirst p q h k b = false :=
  ⟨(if_neg (by omega)).trans (if_pos hq), (if_neg (by omega)).trans ((if_neg hp).trans (if_pos hq))⟩

/-- Between two channels other than VC1, the one that did not cross last goes first. -/
theorem servedFirst_of_turn (s : State) (hp : p.vc ≠ 1) (hq : q.vc ≠ 1) (hne : p.vc ≠ q.vc) {h k : Hop} (hport : k.port = h.port) (b : Bool) :
    (s.crossHop p h).servedFirst q p k h b = true ∧ (s.crossHop p h).servedFirst p q h k b = false := by
  have hvc : Tab.getD (s.crossHop p h).rillVc h.port 2 = p.vc := by
    have hset : (s.crossHop p h).rillVc = Tab.set s.rillVc h.port p.vc := if_neg hp
    rw [hset, Tab.getD_set, if_pos rfl]
  refine ⟨(if_neg (Ne.symm hne)).trans ((if_neg hq).trans ((if_neg hp).trans ?_)), (if_neg hne).trans ((if_neg hp).trans ((if_neg hq).trans ?_))⟩
  · rw [hvc]
    exact beq_self_eq_true _
  · rw [hport, hvc]
    exact beq_eq_false_iff_ne.mpr hne

/-- Within a channel, the input port that crossed last gives way. -/
theorem servedFirst_of_port (s : State) (hvc : p.vc = q.vc) {h k : Hop} (hh : h.inp < 5) (hk : k.inp < 5) (hne : k.inp ≠ h.inp) (b : Bool) :
    (s.crossHop p h).servedFirst q p k h b = true := by
  have hin : Tab.getD (s.crossHop p h).rillIn (3 * h.port + p.vc) 4 = h.inp := (Tab.getD_set _ _ _ _ _).trans (if_pos rfl)
  refine (if_pos hvc.symm).trans ((if_neg hne).trans ?_)
  rw [hin]
  exact decide_eq_true (by omega)

/-- Settles O34: the arrival by its branches, and arbitration by what crossing a port writes. -/
theorem packetsLost : Obligations.PacketsLost := by
  refine ⟨fun s p c hc => ?_, fun s p => ⟨leaveRill_frame s p, (leaveRill_crossed s p).ters⟩, fun s p q h k b hport => ?_⟩
  · obtain ⟨act, he⟩ : ∃ act, exec c s = .next (s.arrive p act) := by
      simp only [List.mem_cons, List.not_mem_nil, or_false] at hc
      rcases hc with rfl | rfl | rfl | rfl | rfl | rfl | rfl | rfl | rfl | rfl <;> exact ⟨_, rfl⟩
    rw [he]
    refine ⟨fun h => congrArg _ (arrive_of_moated h act), fun h hw => ⟨_, he, ?_⟩, fun hw ht => ⟨_, he, ?_⟩,
      fun hw ht hs hd hlen => ⟨_, he, ?_⟩, fun ht hs hlen hstart => ⟨_, he, ?_⟩⟩
    · rw [arrive_of_unpowered h hw]
      refine ⟨s.needTerraces_eq_pwr _, fun hop hmem hlt _ hlen => needTerraces_awake hlt hlen (List.mem_map.mpr ⟨hop, hmem, rfl⟩)⟩
    · rw [arrive_of_behind hw ht, noteBehind_eq_cmds]
    · obtain ⟨b, cs, hrep⟩ := arrive_of_header hw ht hs hd act
      generalize s.arrive p act = v at hrep ⊢
      have hter : v.ter p.errTer.val = { (s.leaveRill p).ter p.errTer.val with uncorrRill := true, errPort := p.errPort.val } := by
        have h1 : v.ters = ((s.leaveRill p).updTer p.errTer.val (fun x => { x with uncorrRill := true, errPort := p.errPort.val })).ters := hrep.ters_eq
        rw [State.ter, h1]
        refine (ter_updTer _ _ _ _).trans (if_pos ⟨rfl, ?_⟩)
        rw [(leaveRill_crossed s p).length, hlen]
        exact p.errTer.isLt
      exact ⟨hrep.rill_eq.trans (leaveRill_rill s p), by rw [hter], by rw [hter], hrep.cistern_eq.trans (leaveRill_cistern s p),
        hrep.graphs_eq.trans (leaveRill_graphs s p), hrep.kmbx_eq.trans (leaveRill_kmbx s p)⟩
    · rw [arrive_of_unsound (wayClear_of_unsound s hs) ht hs, badPacket_eq]
      refine ⟨leaveRill_rill s p, ?_, leaveRill_cistern s p, leaveRill_graphs s p⟩
      have hter := ter_updTer (s.leaveRill p) (packetStart p s.isMe) (packetStart p s.isMe) (fun x => { x with badPkt := true })
      rw [if_pos ⟨rfl, by rw [(leaveRill_crossed s p).length, hlen]; exact hstart⟩] at hter
      exact congrArg Terrace.badPkt hter
  · refine ⟨fun hq hp => servedFirst_of_high s hq hp h k b, fun hp hq => servedFirst_of_turn s (by omega) (by omega) (by omega) hport b,
      fun hp hq => servedFirst_of_turn s (by omega) (by omega) (by omega) hport b, fun hvc hh hk hne => servedFirst_of_port s hvc hh hk hne b,
      fun hvc hinp => (if_pos hvc.symm).trans (if_pos hinp)⟩

end Sys2Proof.Machine
end

section
/-! PROOFS. Data in the rill: buffers written, read out, and the space for what is read. -/

namespace Sys2Proof.Machine

set_option Elab.async false

variable {s t u : State} {p q : Packet}

theorem leaveRill_slotAt (s : State) (p : Packet) (k num : Nat) : (s.leaveRill p).slotAt k num = s.slotAt k num := by
  rw [leaveRill_frame]
  rfl

theorem leaveRill_readPlace? (s : State) (p q : Packet) : (s.leaveRill p).readPlace? q = s.readPlace? q := by
  rw [leaveRill_frame]
  rfl

theorem leaveRill_isMe (s : State) (p : Packet) (d : Nat) : (s.leaveRill p).isMe d = s.isMe d := by
  rw [leaveRill_frame]
  rfl

/-- Data for an input slot is written where the packet says. -/
theorem writeSlot_of_slot {g : Graph} {i : Nat} {x : Slot} {pl : Placement} (hslot : s.slotAt p.dstTer p.slot = some (g, i))
    (hx : g.slots[i]? = some x) (hin : x.isOut = false) (hbuf : p.buf < x.bufs.length) (hlen : p.offset + p.flits ≤ 2 * x.lines)
    (hpl : (g.consumer i).bind (fun k => g.cgd.places[k]?) = some pl) :
    ∃ graphs, s.writeSlot p = { s with cistern := Memory.writeN s.cistern (x.addr p.buf + 32 * p.offset) p.data, graphs := graphs } := by
  unfold State.writeSlot
  rw [hslot]
  dsimp only
  rw [hx]
  dsimp only
  rw [if_neg (by simp [hin]; omega)]
  unfold State.writeBuffer
  rw [hx, hpl]
  exact ⟨_, rfl⟩

/-- What a packet for an input slot of this device does. -/
theorem exec_data_of_slot (h : Arrives s p) (heng : p.dstEngine = false) (htyp : p.typ = 0x01 ∨ p.typ = 0x02) :
    exec (if p.typ = 0x01 then .actData p else .tensorData p) s = .next ((s.leaveRill p).writeSlot p) := by
  rcases htyp with ht | ht
  · rw [if_pos ht]
    refine congrArg Host.Outcome.next ((arrive_of_arrives h _).trans ((if_neg (by simp [ht])).trans (if_neg (by simp [heng]))))
  · rw [if_neg (by omega)]
    refine congrArg Host.Outcome.next ((arrive_of_arrives h _).trans (if_neg (by simp [ht, heng])))

/-- The READ_DATA that answers a READ_REQ, the k-th of them. -/
def State.readAnswer (s : State) (p : Packet) (bs : List Byte) (k : Nat) : Packet :=
  { s.bare 0x12 1 with flits := (sliceAt bs (512 * k) 512).length / 32, dstDev := p.srcDev, dstEngine := true, srcDev := p.dstDev
                       srcTer := p.dstTer, slot := p.slot, buf := p.buf, offset := 16 * k, runSeq := p.runSeq
                       graph := p.graph, data := sliceAt bs (512 * k) 512 }

/-- Packets sent one after another to this device are in the rill behind what was there. -/
theorem foldl_send_of_isMe {α : Type} (f : α → Packet) (l : List α) (s : State) (h : ∀ a ∈ l, s.isMe (f a).dstDev = true) :
    l.foldl (fun t a => t.send (f a)) s = { s with pwr := (l.foldl (fun t a => t.send (f a)) s).pwr, rill := s.rill ++ l.map f } := by
  induction l generalizing s with
  | nil => simp
  | cons a l ih =>
    have hstep := State.send_of_isMe (h a List.mem_cons_self)
    rw [List.foldl_cons, ih (s.send (f a)) fun b hb => ?_]
    · rw [hstep]
      simp
    · rw [hstep]
      exact h b (List.mem_cons_of_mem _ hb)

/-- A READ_REQ of this device is answered out of its buffer, with space reserved for what its engine port asked for. -/
theorem exec_readReq_of_slot {g : Graph} {i : Nat} {x : Slot} (h : Arrives s p) (htyp : p.typ = 0x03) (hsrc : s.isMe p.srcDev = true)
    (hslot : s.slotAt p.dstTer p.slot = some (g, i)) (hx : g.slots[i]? = some x) (hbuf : p.buf < x.bufs.length) :
    let bs := Memory.readN s.cistern (x.addr p.buf) (64 * x.lines)
    let n := ceilDiv (64 * x.lines) 512
    ∃ pwr, exec (.readReq p) s = .next { s.leaveRill p with
      readSpace := if p.srcEngine then s.readSpace ++ readPlaces p n else s.readSpace
      pwr := pwr, rill := s.rillLess p ++ (List.range n).map ((s.leaveRill p).readAnswer p bs) } := by
  intro bs n
  have hlen : (Memory.readN s.cistern (x.addr p.buf) (64 * x.lines)).length = 64 * x.lines := by simp [Memory.readN]
  obtain ⟨v, hv⟩ : ∃ v : State, v = { s.leaveRill p with readSpace := if p.srcEngine then s.readSpace ++ readPlaces p n else s.readSpace } := ⟨_, rfl⟩
  have he : exec (.readReq p) s = .next ((List.range n).foldl (fun t i => t.send ((s.leaveRill p).readAnswer p bs i)) v) := by
    refine congrArg Host.Outcome.next ((arrive_of_arrives h _).trans ((if_neg (by simp [htyp])).trans ?_))
    simp only [leaveRill_slotAt, hslot, Option.bind_some, hx]
    rw [if_neg (by omega)]
    simp only [State.bufferBytes, leaveRill_cistern, leaveRill_isMe, hsrc, Bool.and_true, leaveRill_readSpace]
    rw [hv, hlen]
    simp only [leaveRill_cistern]
    rfl
  have hme : v.isMe p.srcDev = true := by
    rw [hv]
    exact (leaveRill_isMe s p _).trans hsrc
  rw [he, foldl_send_of_isMe _ _ v fun _ _ => hme, hv]
  exact ⟨_, by simp only [leaveRill_rill]; rfl⟩

/-- Settles O35. -/
theorem dataMoved : Obligations.DataMoved := by
  refine ⟨fun s p g i x pl hwf harr heng hslot hx hin hbuf hlen hpl => ?_, fun s p harr => ⟨fun g i x htyp heng hsrc hslot hx hbuf => ?_,
    fun x htyp heng hplace => ?_, fun htyp heng hplace hters => ?_⟩⟩
  · intro c lo htyp
    obtain ⟨graphs, hw⟩ := writeSlot_of_slot (s := s.leaveRill p) ((leaveRill_slotAt s p _ _).trans hslot) hx hin hbuf hlen hpl
    refine ⟨_, exec_data_of_slot harr heng htyp, ?_⟩
    rw [hw, leaveRill_cistern]
    refine ⟨Memory.readN_writeN _ _ _ hwf, fun a ha => ?_, rfl⟩
    rw [Memory.read_writeN _ _ _ _ hwf, if_neg (by omega)]
  · intro bs n
    obtain ⟨pwr, he⟩ := exec_readReq_of_slot harr htyp hsrc hslot hx hbuf
    refine ⟨_, he, leaveRill_cistern s p, leaveRill_graphs s p, ?_, fun k hk => ?_⟩
    · split <;> simp [readPlaces, n]
    · exact ⟨(s.leaveRill p).readAnswer p bs k, List.mem_append_right _ (List.mem_map.mpr ⟨k, List.mem_range.mpr hk, rfl⟩), rfl, rfl, rfl, rfl, rfl, rfl⟩
  · refine congrArg Host.Outcome.next ((arrive_of_arrives harr _).trans ((if_neg (by simp [htyp, heng])).trans ?_))
    simp only [leaveRill_readPlace?, hplace, leaveRill_readSpace, State.emit, leaveRill_out]
  · have he : exec (.readData p) s = .next ((s.leaveRill p).badPacket p 24) := by
      refine congrArg Host.Outcome.next ((arrive_of_arrives harr _).trans ((if_neg (by simp [htyp, heng])).trans ?_))
      simp only [leaveRill_readPlace?, hplace]
    refine ⟨_, he, ?_⟩
    rw [badPacket_eq]
    have hter := ter_updTer (s.leaveRill p) 24 24 (fun x => { x with badPkt := true })
    rw [if_pos ⟨rfl, by rw [(leaveRill_crossed s p).length, hters]; decide⟩] at hter
    exact ⟨congrArg Terrace.badPkt hter, leaveRill_out s p, leaveRill_readSpace s p⟩

end Sys2Proof.Machine
end

section
/-! PROOFS. Credits, wake tokens, moats, maintenance, and forwarding. -/

namespace Sys2Proof.Machine

set_option Elab.async false

variable {s t u : State} {p q : Packet}

/-- A graph changed but for its handle is found under it. -/
theorem graph?_updGraph {h : Nat} {f : Graph → Graph} (hf : ∀ g, (f g).handle = g.handle) :
    (s.updGraph h f).graph? h = (s.graph? h).map f := by
  have hsame : ((fun g : Graph => g.handle == h) ∘ fun g => if g.handle == h then f g else g) = fun g => g.handle == h := by
    funext g
    simp only [Function.comp]
    split
    · rw [hf]
    · rfl
  unfold State.graph? State.updGraph
  rw [List.find?_map, hsame]
  cases hg : s.graphs.find? (fun g => g.handle == h) with
  | none => rfl
  | some g => exact congrArg some (if_pos (List.find?_some (p := fun g : Graph => g.handle == h) hg))

theorem leaveRill_graph? (s : State) (p : Packet) (h : Nat) : (s.leaveRill p).graph? h = s.graph? h := by
  rw [leaveRill_frame]
  rfl

/-- With no tensor that waits, none is sent. -/
theorem deliverPorts_of_none {h : Nat} {g : Graph} (hg : s.graph? h = some g) (hp : g.ports = []) (n : Nat) : s.deliverPorts n h = s := by
  cases n with
  | zero => rfl
  | succ n =>
    unfold State.deliverPorts
    rw [hg]
    dsimp only
    rw [hp]
    rfl

/-! ### Peripheries that wake (R99, R250) -/

/-- A periphery that a token reaches. -/
def wakened (x : Option Periph) : Periph :=
  match x with
  | some (.good _) => .good true
  | _ => .waking

theorem wakened_wakened (x : Option Periph) : wakened (some (wakened x)) = wakened x := by
  rcases x with _ | x
  · rfl
  · cases x <;> rfl

theorem wakePeriph_frame (s : State) (n : Nat) : s.wakePeriph n = { s with pwr := { s.pwr with periph := (s.wakePeriph n).pwr.periph } } := by
  unfold State.wakePeriph
  split <;> rfl

theorem wakePeriph_get (s : State) (n k : Nat) : Tab.get? (s.wakePeriph n).pwr.periph k =
    if k = n ∧ s.basinBusy n = false then some (wakened (Tab.get? s.pwr.periph n)) else Tab.get? s.pwr.periph k := by
  have hgo : s.wakePeriph n = if s.basinBusy n then s
      else { s with pwr := { s.pwr with periph := Tab.set s.pwr.periph n (wakened (Tab.get? s.pwr.periph n)) } } := rfl
  rw [hgo]
  cases hb : s.basinBusy n with
  | true => simp
  | false =>
    simp only [Bool.false_eq_true, if_false, and_true]
    exact Tab.get?_set _ _ _ _

/-- Tokens change peripheries alone: those of the list whose basins are not busy. -/
theorem wakeAll_spec (l : List Nat) (s : State) :
    l.foldl State.wakePeriph s = { s with pwr := { s.pwr with periph := (l.foldl State.wakePeriph s).pwr.periph } } ∧
    ∀ k, Tab.get? (l.foldl State.wakePeriph s).pwr.periph k =
      if k ∈ l ∧ s.basinBusy k = false then some (wakened (Tab.get? s.pwr.periph k)) else Tab.get? s.pwr.periph k := by
  induction l generalizing s with
  | nil => exact ⟨rfl, fun k => by simp⟩
  | cons n l ih =>
    obtain ⟨hfr, hget⟩ := ih (s.wakePeriph n)
    have hbusy : ∀ k, (s.wakePeriph n).basinBusy k = s.basinBusy k := fun k => by
      rw [wakePeriph_frame]
      rfl
    refine ⟨?_, fun k => ?_⟩
    · rw [List.foldl_cons, hfr, wakePeriph_frame s n]
    · rw [List.foldl_cons, hget k, hbusy, wakePeriph_get]
      by_cases hb : s.basinBusy k = false
      · by_cases hk : k = n
        · subst hk
          by_cases hl : k ∈ l <;> simp [hb, hl, wakened_wakened]
        · by_cases hl : k ∈ l <;> simp [hb, hl, hk]
      · by_cases hk : k = n
        · subst hk
          simp [hb]
        · simp [hb, hk]

theorem leaveRill_wakeTargets (s : State) (p : Packet) (k num : Nat) : (s.leaveRill p).wakeTargets k num = s.wakeTargets k num := by
  rw [leaveRill_frame]
  rfl

theorem leaveRill_basinBusy (s : State) (p : Packet) (k : Nat) : (s.leaveRill p).basinBusy k = s.basinBusy k := by
  rw [leaveRill_frame]
  rfl

/-- With every packet in transit for this device, none leaves through the bridge. -/
theorem flushBridge_of_own (h : ∀ q ∈ s.rill, s.isMe q.dstDev = true) : s.flushBridge = s := by
  have hout : s.rill.filter (fun p => !s.isMe p.dstDev && s.wayClear p) = [] := by
    refine List.filter_eq_nil_iff.mpr fun q hq => ?_
    simp [h q hq]
  unfold State.flushBridge
  simp only [hout, List.filter_nil]
  rfl

/-! ### The packets that act -/

theorem exec_credit_acts (h : Arrives s p) {g : Graph} (htyp : p.typ = 0x10) (hg : s.graph? p.graph = some g) (hp : g.ports = []) :
    exec (.credit p) s = .next ((s.leaveRill p).updGraph p.graph (fun g => { g with credit := g.credit.modify p.arg (fun c => c + 1) })) := by
  refine congrArg Host.Outcome.next ((arrive_of_arrives h _).trans ((if_neg (by simp [htyp])).trans (deliverPorts_of_none
    (g := { g with credit := g.credit.modify p.arg (fun c => c + 1) }) ?_ hp 64)))
  exact (graph?_updGraph (by intro _; rfl)).trans (by rw [leaveRill_graph?, hg]; rfl)

theorem exec_prewake_acts (h : Arrives s p) (htyp : p.typ = 0x11) :
    exec (.prewake p) s = .next ((s.wakeTargets p.dstTer p.arg).foldl State.wakePeriph (s.leaveRill p)) := by
  refine congrArg Host.Outcome.next ((arrive_of_arrives h _).trans ((if_neg (by simp [htyp])).trans ?_))
  rw [leaveRill_wakeTargets]

/-- Ports of a terrace moated or freed. -/
def Terrace.moat (x : Terrace) (arg : Nat) : Terrace :=
  let on := bitAt arg 8
  let mask : BitVec 4 := BitVec.ofNat 4 (arg % 16)
  { x with moatPorts := if on then x.moatPorts ||| mask else x.moatPorts &&& ~~~mask
           moatLocal := if bitAt arg 4 then on else x.moatLocal }

theorem moat_moatPorts (x : Terrace) (arg : Nat) {i : Nat} (hi : i < 4) :
    (x.moat arg).moatPorts.getLsbD i = if bitAt arg i then bitAt arg 8 else x.moatPorts.getLsbD i := by
  have hbit : (BitVec.ofNat 4 (arg % 16)).getLsbD i = bitAt arg i := by
    rw [BitVec.getLsbD_ofNat, decide_eq_true hi, Bool.true_and, bitAt, show (16 : Nat) = 2 ^ 4 from rfl, Nat.testBit_mod_two_pow,
      decide_eq_true hi, Bool.true_and, Nat.testBit_eq_decide_div_mod_eq]
    rfl
  unfold Terrace.moat
  dsimp only
  cases hon : bitAt arg 8 with
  | true =>
    rw [if_pos rfl, BitVec.getLsbD_or, hbit]
    cases bitAt arg i <;> simp
  | false =>
    rw [if_neg Bool.false_ne_true, BitVec.getLsbD_and, BitVec.getLsbD_not, hbit, decide_eq_true hi]
    cases bitAt arg i <;> simp

theorem exec_moatSet_acts (h : Arrives s p) (htyp : p.typ = 0x23) (hown : ∀ q ∈ s.rillLess p, s.isMe q.dstDev = true) :
    exec (.moatSet p) s = .next ((s.leaveRill p).updTer p.dstTer (fun x => x.moat p.arg)) := by
  refine congrArg Host.Outcome.next ((arrive_of_arrives h _).trans ((if_neg (by simp [htyp])).trans (flushBridge_of_own fun q hq => ?_)))
  have hq' : q ∈ (s.leaveRill p).rill := hq
  rw [leaveRill_rill] at hq'
  exact (leaveRill_isMe s p _).trans (hown q hq')

theorem leaveRill_cisOpen (s : State) (p : Packet) (k half : Nat) : (s.leaveRill p).cisOpen k half = s.cisOpen k half := by
  have hter := congrArg Terrace.withdrawn ((leaveRill_crossed s p).ters k)
  unfold State.cisOpen State.debugOpen
  rw [hter, leaveRill_lcs]
  rfl

theorem leaveRill_bankReserved (s : State) (p : Packet) (k bank : Nat) : (s.leaveRill p).bankReserved k bank = s.bankReserved k bank := by
  rw [leaveRill_frame]
  rfl

theorem exec_maintWr_cistern (h : Arrives s p) (htyp : p.typ = 0x20) (hg : p.graph = 1) (hter : p.dstTer < 64)
    (hopen : s.cisOpen p.dstTer p.runSeq = true) :
    exec (.maintWr p) s = .next (if s.bankReserved p.dstTer (halfBank p.runSeq) then
        { s.leaveRill p with cistern := Memory.writeN s.cistern (p.dstTer * 0x100000 + p.runSeq * 32 + p.offset) (p.data.take (4 * 2 ^ p.buf)) }
      else s.leaveRill p) := by
  refine congrArg Host.Outcome.next ((arrive_of_arrives h _).trans ((if_neg (by simp [htyp])).trans ((if_pos hg).trans ?_)))
  rw [Nat.mod_eq_of_lt hter, leaveRill_cisOpen, leaveRill_bankReserved, hopen, Bool.true_and, leaveRill_cistern]
  rfl

theorem exec_maintRd_answers (h : Arrives s p) (htyp : p.typ = 0x21) (hsrc : s.isMe p.srcDev = true) :
    let q : Packet := { (s.leaveRill p).bare 0x22 2 with
      flits := 1, dstDev := p.srcDev, dstEngine := true, srcTer := p.dstTer, slot := p.slot
      buf := p.buf, offset := p.offset, runSeq := p.runSeq, graph := p.graph, data := padFlits ((s.leaveRill p).maintData p) }
    ∃ pwr, exec (.maintRd p) s = .next { s.leaveRill p with pwr := pwr, rill := s.rillLess p ++ [q] } := by
  intro q
  have he : exec (.maintRd p) s = .next ((s.leaveRill p).send q) :=
    congrArg Host.Outcome.next ((arrive_of_arrives h _).trans (if_neg (by simp [htyp])))
  have hsend := State.send_of_isMe (s := s.leaveRill p) (p := q) ((leaveRill_isMe s p _).trans hsrc)
  rw [leaveRill_rill] at hsend
  exact ⟨_, he.trans (congrArg Host.Outcome.next hsend)⟩

/-- The data of a sound packet of one flit fills it. -/
theorem data_length_of_arrives (h : Arrives s p) (hf : p.flits = 1) : p.data.length = 32 := by
  obtain ⟨-, -, -, hs⟩ := h
  unfold packetSound at hs
  split at hs
  · cases hs
  · simp only [Bool.and_eq_true, beq_iff_eq, hf] at hs
    omega

/-! ### Forwarding (R238 to R240, R253) -/

/-- What reading a line that was corrected or uncorrectable changes beside the packet. -/
def State.lineRead (s : State) (pl : Placement) (f : Forward) (h : Nat) (cis : Fin 3) : State :=
  match cis.val with
  | 1 => s.updTer pl.ter (fun x => { x with corrected := satInc 0xFFF x.corrected })
  | 2 => ((s.uncorrectable pl.ter (fun x => { x with uncorrCis := true })).failRun h f.runSeq pl.ter).holdRoute h f.runSeq pl.ter
  | _ => s

theorem lineRead_spec (s : State) (pl : Placement) (f : Forward) (h : Nat) (cis : Fin 3) :
    (∃ b cs, ReportOnly { s with ters := (s.lineRead pl f h cis).ters, bist := b, cmds := cs } (s.lineRead pl f h cis)) ∧
    (cis.val = 2 → pl.ter < s.ters.length → ((s.lineRead pl f h cis).ter pl.ter).uncorrCis = true) := by
  have hcases : cis.val = 0 ∨ cis.val = 1 ∨ cis.val = 2 := by omega
  rcases hcases with hc | hc | hc
  · have hgo : s.lineRead pl f h cis = s := by
      unfold State.lineRead
      rw [hc]
      rfl
    rw [hgo]
    exact ⟨⟨s.bist, s.cmds, .refl s⟩, fun h2 => by omega⟩
  · have hgo : s.lineRead pl f h cis = s.updTer pl.ter (fun x => { x with corrected := satInc 0xFFF x.corrected }) := by
      unfold State.lineRead
      rw [hc]
      rfl
    rw [hgo]
    exact ⟨⟨s.bist, s.cmds, .refl _⟩, fun h2 => by omega⟩
  · obtain ⟨b, hb⟩ := dlog_report (s.updTer pl.ter (fun x => { x with uncorrCis := true })) 4 1 (BitVec.ofNat 32 pl.ter)
      (BitVec.ofNat 64 ((s.updTer pl.ter (fun x => { x with uncorrCis := true })).ter pl.ter).err)
    have hgo : s.lineRead pl f h cis = ((s.uncorrectable pl.ter (fun x => { x with uncorrCis := true })).failRun h f.runSeq pl.ter).holdRoute h f.runSeq pl.ter := by
      unfold State.lineRead
      rw [hc]
      rfl
    have hters : (s.lineRead pl f h cis).ters = (s.updTer pl.ter (fun x => { x with uncorrCis := true })).ters := by
      rw [hgo, holdRoute_eq_cmds, failRun_eq_cmds]
      exact hb.ters_eq
    refine ⟨?_, fun _ hlt => ?_⟩
    · rw [hters, hgo, holdRoute_eq_cmds, failRun_eq_cmds]
      exact ⟨b, _, hb.withCmds _⟩
    · unfold State.ter
      rw [hters]
      have hter := ter_updTer s pl.ter pl.ter (fun x => { x with uncorrCis := true })
      rw [if_pos ⟨rfl, hlt⟩] at hter
      exact congrArg Terrace.uncorrCis hter

/-- The bookkeeping of a graph as one edge of a forwarded buffer is served. -/
def Graph.edgeServed (g : Graph) (f : Forward) (place edge : Nat) : Graph :=
  { g with credit := g.credit.modify edge (fun c => c - 1)
           score := if (f.edges.erase edge).isEmpty then g.score.modify place (fun z => { z with outCredits := z.outCredits + 1 }) else g.score }

/-- One edge of a forwarded buffer served. -/
def State.edgeServed (s : State) (f : Forward) (h place edge : Nat) : State :=
  ({ s with fwds := if (f.edges.erase edge).isEmpty then s.fwds.erase f
                    else s.fwds.map (fun x => if x == f then { f with edges := f.edges.erase edge } else x) } : State).updGraph h
    (fun g => g.edgeServed f place edge)

theorem exec_forwardPacket_sends {h place edge : Nat} {g : Graph} {pl : Placement} {e : EdgeRec} {f : Forward} {q : Packet} {cis : Fin 3}
    (hg : s.graph? h = some g) (hpl : g.cgd.places[place]? = some pl) (he : g.cgd.edges[edge]? = some e)
    (hnext : s.nextForward pl.ter = some (f, edge)) (hfh : f.handle = h) (hfp : f.place = place) (hgood : s.terPower pl.ter = .good)
    (hq : s.edgePacket g pl f e (cis.val == 2) = some q) :
    exec (.forwardPacket h place edge cis) s = .next (((s.lineRead pl f h cis).edgeServed f h place edge).send q) := by
  have hgo : exec (.forwardPacket h place edge cis) s = execForwardPacket h place edge cis s := rfl
  rw [hgo]
  unfold execForwardPacket
  rw [hg]
  dsimp only
  rw [hpl, he]
  dsimp only
  rw [hnext]
  dsimp only
  rw [if_neg (by simp [hfh, hfp, hgood]), hq]
  rfl

theorem edgePacket_poisoned {g : Graph} {pl : Placement} {f : Forward} {e : EdgeRec} (h : s.edgePacket g pl f e true = some q) :
    q.damage = .poisoned := by
  unfold State.edgePacket at h
  split at h
  · cases h
  · dsimp only at h
    split at h
    · cases h
      rfl
    · split at h <;> cases h
      rfl

theorem modify_pred_eq_set {l : List Nat} {k : Nat} (h : k < l.length) : l.modify k (fun c => c - 1) = l.set k (l.getD k 0 - 1) := by
  refine List.ext_getElem? fun i => ?_
  rw [List.getElem?_modify, List.getElem?_set]
  by_cases hi : k = i
  · subst hi
    simp [h]
  · simp [hi]

/-- Settles O36: each packet by what it does once it has left the rill. -/
theorem packetsActed : Obligations.PacketsActed := by
  refine ⟨fun s p harr => ⟨fun g htyp hg hp harg => ?_, fun htyp _ => ?_, fun htyp _ hter hown => ?_⟩,
    fun s p harr => ⟨fun htyp _ hter hg hbuf hf hoff hopen hwf => ?_, fun htyp _ hsrc hter hg hbuf => ?_,
      fun htyp heng hout hq hslot => ?_⟩,
    fun s h place edge g pl e f q cis hg hpl he hnext hfh hfp hgood hq hme hedge => ?_⟩
  · refine ⟨_, exec_credit_acts harr htyp hg hp, rfl, { g with credit := g.credit.modify p.arg (fun c => c + 1) },
      (graph?_updGraph (by intro _; rfl)).trans (by rw [leaveRill_graph?, hg]; rfl), fun k => ?_, rfl⟩
    show (g.credit.modify p.arg (fun c => c + 1)).getD k 0 = _
    rw [List.getD_eq_getElem?_getD, List.getD_eq_getElem?_getD, List.getElem?_modify]
    by_cases hk : k = p.arg
    · subst hk
      simp [harg]
    · simp [hk, Ne.symm hk]
  · obtain ⟨hfr, hget⟩ := wakeAll_spec (s.wakeTargets p.dstTer p.arg) (s.leaveRill p)
    refine ⟨_, exec_prewake_acts harr htyp, ?_, fun n hn => ⟨fun hb => ?_, fun hb => ?_⟩, fun n hn => ?_⟩
    · rw [leaveRill_pwr] at hfr
      exact hfr
    · rw [hget n, leaveRill_basinBusy, leaveRill_pwr]
      exact if_neg (by simp [hb])
    · rw [hget n, leaveRill_basinBusy, leaveRill_pwr]
      exact if_pos ⟨hn, hb⟩
    · rw [hget n, leaveRill_pwr]
      exact if_neg (by simp [hn])
  · have hlen : p.dstTer < (s.leaveRill p).ters.length := by
      rw [(leaveRill_crossed s p).length]
      exact hter
    have hself := (ter_updTer (s.leaveRill p) p.dstTer p.dstTer (fun x => x.moat p.arg)).trans (if_pos ⟨rfl, hlen⟩)
    have hters := (leaveRill_crossed s p).ters p.dstTer
    refine ⟨_, exec_moatSet_acts harr htyp hown, rfl, fun k hk => (ter_updTer _ _ _ _).trans (if_neg (by simp [Ne.symm hk])), fun i hi => ?_, ?_⟩
    · rw [hself, moat_moatPorts _ _ hi, hters]
      rfl
    · rw [hself, hters]
      rfl
  · have hgo := exec_maintWr_cistern harr htyp hg hter hopen
    have hdata : (p.data.take (4 * 2 ^ p.buf)).length = 4 * 2 ^ p.buf := by
      rw [List.length_take, data_length_of_arrives harr hf]
      omega
    refine ⟨fun hres => ?_, fun hres => ?_⟩
    · rw [hres] at hgo
      exact hgo
    · rw [hres] at hgo
      intro lo
      refine ⟨_, hgo, rfl, ?_, fun a ha => ?_⟩
      · have := Memory.readN_writeN s.cistern lo (p.data.take (4 * 2 ^ p.buf)) hwf
        rwa [hdata] at this
      · refine (Memory.read_writeN _ _ _ _ hwf).trans (if_neg ?_)
        rw [hdata]
        omega
  · obtain ⟨pwr, hgo⟩ := exec_maintRd_answers harr htyp hsrc
    refine ⟨_, hgo, leaveRill_cistern s p, leaveRill_maintOut s p, _, rfl, rfl, rfl, rfl, ?_⟩
    have hdata : (s.leaveRill p).maintData p = leBytes 4 ((s.leaveRill p).readWindow p.dstTer (4 * p.runSeq)).toNat := by
      simp [State.maintData, hg, hbuf, Nat.mod_eq_of_lt hter]
    show (padFlits ((s.leaveRill p).maintData p)).take 4 = _
    rw [hdata]
    exact take_padFlits (by simp [leBytes])
  · refine congrArg Host.Outcome.next ((arrive_of_arrives harr _).trans ((if_neg (by simp [htyp, heng])).trans ((if_neg (by simp [hout])).trans ?_)))
    have hq' : (({ s.leaveRill p with maintOut := (s.leaveRill p).maintOut - 1 } : State).maintAnswer p.slot (p.data.take (4 * 2 ^ p.buf))).maintQ = [] := by
      rw [hslot]
      exact (leaveRill_maintQ s p).trans hq
    simp only [hq']
    rw [hslot]
    simp only [State.maintAnswer, State.emit, State.leaveL1, leaveRill_maintOut, leaveRill_out]
  · obtain ⟨⟨b, cs, hrep⟩, hunc⟩ := lineRead_spec s pl f h cis
    have hgo := exec_forwardPacket_sends hg hpl he hnext hfh hfp hgood hq
    generalize s.lineRead pl f h cis = v at hrep hunc hgo
    have hsend := State.send_of_isMe (s := v.edgeServed f h place edge) (p := q) (by
      have hcasc : (v.edgeServed f h place edge).casc = s.casc := hrep.casc_eq
      unfold State.isMe
      rw [hcasc]
      exact hme)
    rw [hsend] at hgo
    have hgraph : (v.edgeServed f h place edge).graph? h = some (g.edgeServed f place edge) := by
      refine (graph?_updGraph (by intro _; rfl)).trans ?_
      have hgraphs : v.graphs = s.graphs := hrep.graphs_eq
      have hv : v.graph? h = some g := by
        rw [State.graph?, hgraphs]
        exact hg
      exact congrArg (Option.map _) hv
    have hfwds : v.fwds = s.fwds := hrep.fwds_eq
    have hlast : f.edges = [edge] → (f.edges.erase edge).isEmpty = true := fun hone => by rw [hone]; simp
    have hmore' : f.edges.erase edge ≠ [] → ¬ (f.edges.erase edge).isEmpty = true := fun hm he => hm (List.isEmpty_iff.mp he)
    refine ⟨_, hgo, congrArg (· ++ [q]) hrep.rill_eq, hrep.cistern_eq, fun hc => ⟨?_, fun hlt => hunc hc hlt⟩,
      ⟨g.edgeServed f place edge, hgraph, modify_pred_eq_set hedge, fun hone => ?_, fun hmore => ?_⟩, fun hone => ?_, fun hmore => ?_⟩
    · rw [hc] at hq
      exact edgePacket_poisoned hq
    · exact if_pos (hlast hone)
    · exact if_neg (hmore' hmore)
    · refine (if_pos (hlast hone)).trans ?_
      rw [hfwds]
    · refine (if_neg (hmore' hmore)).trans ?_
      rw [hfwds]
      refine List.map_congr_left fun x _ => ?_
      by_cases hx : x = f
      · rw [if_pos (beq_iff_eq.mpr hx), if_pos hx]
      · rw [if_neg (by simpa using hx), if_neg hx]

end Sys2Proof.Machine
end

section
/-! PROOFS. Settings of the analogue front end and of the sentinels, as commands give them. -/

namespace Sys2Proof.Machine

set_option Elab.async false

variable {s t u : State} {g : Nat} {p : List Byte}

/-- A command just admitted is in flight once its ring has settled, whatever else its admission did. -/
theorem headCmd_mem_settle (hf : CidsFresh s) {b : Body} {d : Option Nat} {w : Nat} (hb : ∀ n k, b ≠ .listCall n k)
    (hu : u.cmds = (s.accept g p b d w).cmds) (k : Nat) : s.headCmd g p b d w ∈ (u.settle k).cmds := by
  have h := accept_stands hf g p b d w hb
  have hstands : Stands (s.headCmd g p b d w) u := ⟨by rw [hu]; exact h.mem, by rw [hu]; exact h.only, .inl hb⟩
  exact hstands.settle hb k

theorem settle_afe (s : State) (g : Nat) : (s.settle g).afe = s.afe := (settle_books s g).view (view := State.afe)

theorem settle_snt (s : State) (g : Nat) : (s.settle g).snt = s.snt := (settle_books s g).view (view := State.snt)

theorem chan_updChan (s : State) (i n : Nat) (f : AfeChan → AfeChan) :
    (s.updChan i f).chan n = if i = n ∧ n < s.afe.chans.length then f (s.chan n) else s.chan n := by
  unfold State.updChan State.chan
  rw [List.getD_eq_getElem?_getD, List.getD_eq_getElem?_getD, List.getElem?_modify]
  by_cases hn : n < s.afe.chans.length
  · rw [List.getElem?_eq_getElem hn]
    by_cases hi : i = n <;> simp [hi, hn]
  · rw [List.getElem?_eq_none (by omega)]
    simp [hn]

/-- Channels powered. -/
def State.powerChans (s : State) (l : List Nat) : State := l.foldl (fun t n => t.updChan n (fun x => { x with powered := true })) s

theorem powerChans_spec (l : List Nat) (s : State) :
    s.powerChans l = { s with afe := { s.afe with chans := (s.powerChans l).afe.chans } } ∧
    (s.powerChans l).afe.chans.length = s.afe.chans.length ∧
    ∀ n, (s.powerChans l).chan n = if n ∈ l ∧ n < s.afe.chans.length then { s.chan n with powered := true } else s.chan n := by
  induction l generalizing s with
  | nil => exact ⟨rfl, rfl, fun n => by simp [State.powerChans]⟩
  | cons i l ih =>
    obtain ⟨hfr, hlen, hch⟩ := ih (s.updChan i (fun x => { x with powered := true }))
    have hlen1 : (s.updChan i (fun x => { x with powered := true })).afe.chans.length = s.afe.chans.length := List.length_modify _ _ _
    refine ⟨hfr, hlen.trans hlen1, fun n => ?_⟩
    refine (hch n).trans ?_
    rw [hlen1, chan_updChan]
    by_cases hn : n < s.afe.chans.length
    · by_cases hi : i = n
      · subst hi
        by_cases hl : i ∈ l <;> simp [hn, hl]
      · by_cases hl : n ∈ l <;> simp [hn, hl, hi, Ne.symm hi]
    · simp [hn]

theorem LedgerOnly.withAfe (h : LedgerOnly s t) (a : Afe) : LedgerOnly { s with afe := a } { t with afe := a } :=
  ⟨congrArg (fun x : State => { x with afe := a }) h.1, h.2⟩

theorem LedgerOnly.withSnt (h : LedgerOnly s t) (a : Snt) : LedgerOnly { s with snt := a } { t with snt := a } :=
  ⟨congrArg (fun x : State => { x with snt := a }) h.1, h.2⟩

/-- An AFE_CONFIG that may take effect waits, its newly enabled channels powered. -/
theorem afeConfig_waits {r : Fin 1024} (hf : CidsFresh s) (h : s.ready r.val 0x20 false = some p) (hok : s.afeRefused (afeOf p) = false) :
    Yields (.afeConfig r) s (fun t => LedgerOnly { s with afe := t.afe } t ∧ t.afe.hop = s.afe.hop ∧
      t.afe.pend = s.afe.pend ++ [({ cfg := afeOf p, cid := s.nextCid, notBefore := s.tmr.uptime +
        (if (List.range 16).any (s.newlyEnabled (afeOf p)) then 2000 else 0) } : AfePend)] ∧
      (∀ n, t.chan n = if s.newlyEnabled (afeOf p) n = true ∧ n < s.afe.chans.length
        then { s.chan n with powered := true } else s.chan n) ∧
      ∃ c ∈ t.cmds, c.cid = s.nextCid ∧ c.ring = r.val ∧ c.body = .afe) := by
  obtain ⟨a, ha⟩ : ∃ a, a = s.accept r.val p .afe none 0 := ⟨_, rfl⟩
  obtain ⟨l, hl⟩ : ∃ l, l = (List.range 16).filter (s.newlyEnabled (afeOf p)) := ⟨_, rfl⟩
  obtain ⟨hfr, -, hch⟩ := powerChans_spec l a
  obtain ⟨v, hv⟩ : ∃ v : State, v = { a.powerChans l with afe := { (a.powerChans l).afe with
    pend := (a.powerChans l).afe.pend ++ [({ cfg := afeOf p, cid := s.nextCid, notBefore := s.tmr.uptime + (if l.isEmpty then 0 else 2000) } : AfePend)] } } := ⟨_, rfl⟩
  have he : exec (.afeConfig r) s = .next (v.settle r.val) := by
    rw [hv, hl, ha]
    exact congrArg Host.Outcome.next ((onHead_some _ h).trans (if_neg (by simp [hok])))
  have hva : v = { a with afe := v.afe } := by
    rw [hv, hfr]
  have haled : LedgerOnly s a := ha ▸ accept_ledger s r.val p .afe none 0
  have hafe : a.afe = s.afe := by rw [ha]; rfl
  have hvafe := settle_afe v r.val
  have hvpend : v.afe.pend = s.afe.pend ++ [({ cfg := afeOf p, cid := s.nextCid, notBefore := s.tmr.uptime + (if l.isEmpty then 0 else 2000) } : AfePend)] ∧
      v.afe.hop = s.afe.hop ∧ v.afe.chans = (a.powerChans l).afe.chans := by
    rw [hv, hfr]
    simp only [hafe]
    exact ⟨trivial, trivial, trivial⟩
  obtain ⟨hpend, hhop, hchans⟩ := hvpend
  have hempty : (if l.isEmpty then 0 else 2000) = if (List.range 16).any (s.newlyEnabled (afeOf p)) then 2000 else 0 := by
    cases hany : (List.range 16).any (s.newlyEnabled (afeOf p)) with
    | true =>
      obtain ⟨x, hx, hn⟩ := List.any_eq_true.mp hany
      have hne : l ≠ [] := List.ne_nil_of_mem (hl ▸ List.mem_filter.mpr ⟨hx, hn⟩)
      simp [hne]
    | false =>
      have hnil : l = [] := by
        rw [hl, List.filter_eq_nil_iff]
        exact fun x hx hn => absurd (List.any_eq_true.mpr ⟨x, hx, hn⟩) (by simp [hany])
      simp [hnil]
  have hmem : ∀ n, n ∈ l ↔ s.newlyEnabled (afeOf p) n = true := fun n => by
    rw [hl, List.mem_filter, List.mem_range]
    refine ⟨And.right, fun hn => ⟨?_, hn⟩⟩
    by_contra hge
    simp only [State.newlyEnabled, Bool.and_eq_true] at hn
    rw [BitVec.getLsbD_of_ge _ _ (by omega)] at hn
    exact absurd hn.1.1 (by decide)
  refine ⟨_, he, ?_, by rw [hvafe, hhop], by rw [hvafe, hpend, hempty], fun n => ?_, s.headCmd r.val p .afe none 0, ?_, rfl, rfl, rfl⟩
  · rw [hvafe]
    have h1 := (haled.withAfe v.afe)
    rw [← hva] at h1
    exact h1.trans (settle_ledger v r.val)
  · have h1 := hch n
    simp only [hmem, hafe] at h1
    have h2 : ∀ x : State, x.chan n = x.afe.chans.getD n AfeChan.initial := fun _ => rfl
    rw [h2, hvafe, hchans, ← h2, h1]
    rw [h2 a, hafe]
    rfl
  · refine headCmd_mem_settle hf (fun _ _ => Body.noConfusion) ?_ _
    rw [hva, ha]

/-- A command for a sentinel waits for its boundary. -/
theorem sentinelPend_spec (hf : CidsFresh s) (r : Nat) (p : List Byte) (n : Nat) (rule : Option SntRule) :
    LedgerOnly { s with snt := (s.sentinelPend r p n rule).snt } (s.sentinelPend r p n rule) ∧
    (s.sentinelPend r p n rule).snt.pend = s.snt.pend ++ [({ chan := n, rule := rule, cid := s.nextCid } : SntPend)] ∧
    (s.sentinelPend r p n rule).snt.s = (if rule.isSome then s.snt.s.modify n (fun x => { x with powered := true }) else s.snt.s) ∧
    s.headCmd r p .sentinel none 0 ∈ (s.sentinelPend r p n rule).cmds := by
  obtain ⟨a, ha⟩ : ∃ a, a = s.accept r p .sentinel none 0 := ⟨_, rfl⟩
  have haled : LedgerOnly s a := ha ▸ accept_ledger s r p .sentinel none 0
  obtain ⟨v, hv⟩ : ∃ v : State, v = { a with snt := { s.snt with
    s := if rule.isSome then s.snt.s.modify n (fun x => { x with powered := true }) else s.snt.s
    pend := s.snt.pend ++ [({ chan := n, rule := rule, cid := s.nextCid } : SntPend)] } } := ⟨_, rfl⟩
  have hgo : s.sentinelPend r p n rule = v.settle r := by
    rw [hv, ha]
    unfold State.sentinelPend
    cases rule <;> rfl
  have hva : v = { a with snt := v.snt } := by rw [hv]
  rw [hgo, settle_snt]
  refine ⟨?_, by rw [hv], by rw [hv], headCmd_mem_settle hf (fun _ _ => Body.noConfusion) (by rw [hva, ha]) _⟩
  have h1 := haled.withSnt v.snt
  rw [← hva] at h1
  exact h1.trans (settle_ledger v r)

/-- Settles O47. -/
theorem analogueSettings : Obligations.AnalogueSettings := by
  refine ⟨fun s r p hrep => ⟨afeConfig_waits hrep.2.2, fun h href => ?_, fun h harm => ?_, fun h harmed => ?_, fun n h hphys hn hfree => ?_⟩,
    fun s hdev => ⟨fun k m hm hen => ?_, fun n hpow => ?_⟩⟩
  · exact ⟨_, congrArg Host.Outcome.next ((onHead_some _ h).trans (if_pos href)), refuse_ledger _ _ _ _, refuse_recorded endState h hrep⟩
  · obtain ⟨hled, hpend, hs, hmem⟩ := sentinelPend_spec hrep.2.2 r.val p (par p 0x10 1) (some (ruleOf p))
    refine ⟨_, congrArg Host.Outcome.next ((onHead_some _ h).trans (by simp only [harm])), hled, hpend, fun n => ?_, _, hmem, rfl, rfl, rfl⟩
    have hsent : ∀ x : State, x.sentinel n = x.snt.s.getD n Sentinel.initial := fun _ => rfl
    rw [hsent, hs, hsent]
    simp only [Option.isSome_some, if_true]
    rw [List.getD_eq_getElem?_getD, List.getD_eq_getElem?_getD, List.getElem?_modify]
    cases s.snt.s[n]? with
    | none => exact ⟨rfl, rfl⟩
    | some x => by_cases hx : par p 0x10 1 = n <;> simp [hx]
  · obtain ⟨hled, hpend, hs, -⟩ := sentinelPend_spec hrep.2.2 r.val p (par p 0x10 1) none
    exact ⟨_, congrArg Host.Outcome.next ((onHead_some _ h).trans (if_pos harmed)), hled, hs, hpend⟩
  · obtain ⟨a, ha⟩ : ∃ a : State → State, a = fun s => { s with
      afe := { s.afe with route := s.afe.route.set n (if par p 0x12 1 = 1 then some (par p 0x11 1) else none) } } := ⟨_, rfl⟩
    have he : exec (.featureRoute r) s = .next (s.completeWith r.val p a endDone) := by
      refine congrArg Host.Outcome.next ((onHead_some _ h).trans ?_)
      simp only [hphys, Option.filter_some, decide_eq_true hn, if_true, hfree, Bool.false_eq_true, if_false]
      rw [ha]
    refine ⟨_, he, completeWith_recorded a endDone h hrep ?_ ?_ ?_ ?_ ?_, ?_⟩
    · exact fun _ => by rw [ha]
    · exact fun _ _ => by rw [ha]; rfl
    · exact fun _ => by rw [ha]
    · exact fun _ => by rw [ha]
    · exact fun _ => by rw [ha]
    · refine LedgerOnly.trans ?_ (completeWith_ledger s r.val p a endDone)
      rw [ha]
      exact (accept_ledger s r.val p .plain none 0).withAfe _
  · have he : exec (.micbiasCurrentLimit k) s = .next { s with afe := { s.afe with
      mic := s.afe.mic.modify k.val (fun m => if m.en then { m with ilim := true } else m) } } := congrArg Host.Outcome.next (if_neg hdev)
    refine ⟨_, he, rfl, ?_, fun j hj => ?_⟩
    · show (s.afe.mic.modify k.val _)[k.val]? = _
      rw [List.getElem?_modify, hm]
      simp [hen]
    · show (s.afe.mic.modify k.val _)[j]? = _
      rw [List.getElem?_modify]
      simp [Ne.symm hj]
  · have he : exec (.preamplifierClip n) s = .next (({ s with afe := { s.afe with clip := setBit s.afe.clip n.val true } } : State).updChan n.val
        (fun x => { x with clipNow := true })) := congrArg Host.Outcome.next (if_neg (by simp [hdev, hpow]))
    have hlt : n.val < s.afe.chans.length := by
      by_contra hge
      rw [State.chan, List.getD_eq_getElem?_getD, List.getElem?_eq_none (by omega)] at hpow
      exact absurd hpow (by decide)
    exact ⟨_, he, rfl, (chan_updChan _ _ _ _).trans (if_pos ⟨rfl, hlt⟩), fun j hj => (chan_updChan _ _ _ _).trans (if_neg (by simp [Ne.symm hj]))⟩

end Sys2Proof.Machine
end

section
/-! PROOFS. CSI-2 frames, their ports, and the settings of intake units. -/

namespace Sys2Proof.Machine

set_option Elab.async false

variable {s t u : State} {g : Nat} {p : List Byte}

theorem csiPort_updCsi (s : State) (i k : Nat) (f : CsiPort → CsiPort) :
    (s.updCsi i f).csiPort k = if i = k ∧ k < s.csi.length then f (s.csiPort k) else s.csiPort k := by
  unfold State.updCsi State.csiPort
  rw [List.getD_eq_getElem?_getD, List.getD_eq_getElem?_getD, List.getElem?_modify]
  by_cases hk : k < s.csi.length
  · rw [List.getElem?_eq_getElem hk]
    by_cases hi : i = k <;> simp [hi, hk]
  · rw [List.getElem?_eq_none (by omega)]
    simp [hk]

theorem unit_updUnit (s : State) (i k : Nat) (f : Intake → Intake) :
    (s.updUnit i f).unit k = if i = k ∧ k < s.intake.length then f (s.unit k) else s.unit k := by
  unfold State.updUnit State.unit
  rw [List.getD_eq_getElem?_getD, List.getD_eq_getElem?_getD, List.getElem?_modify]
  by_cases hk : k < s.intake.length
  · rw [List.getElem?_eq_getElem hk]
    by_cases hi : i = k <;> simp [hi, hk]
  · rw [List.getElem?_eq_none (by omega)]
    simp [hk]

theorem satInc_eq (v : Nat) : satInc 0xFFFF v = if v < 0xFFFF then v + 1 else v := rfl

/-! ### Frames (R282, R289, R291, R293) -/

/-- A corrected header is counted on its port, and nothing else. -/
theorem countCorrected_spec (s : State) (port : Nat) (corrected : Bool) :
    s.countCorrected port corrected = { s with csi := (s.countCorrected port corrected).csi } ∧
    ∀ k : Nat, ((s.countCorrected port corrected).csiPort k).corrected =
      if corrected = true ∧ k = port ∧ k < s.csi.length ∧ (s.csiPort k).corrected < 0xFFFF then (s.csiPort k).corrected + 1
      else (s.csiPort k).corrected := by
  cases corrected with
  | false => exact ⟨rfl, fun k => by simp [State.countCorrected]⟩
  | true =>
    refine ⟨rfl, fun k => ?_⟩
    have h := csiPort_updCsi s port k (fun p => { p with corrected := satInc 0xFFFF p.corrected })
    show ((s.updCsi port (fun p => { p with corrected := satInc 0xFFFF p.corrected })).csiPort k).corrected = _
    rw [h]
    by_cases hk : port = k
    · subst hk
      by_cases hl : port < s.csi.length
      · by_cases hs : (s.csiPort port).corrected < 65535 <;> simp [hl, hs, satInc]
      · simp [hl]
    · simp [hk, Ne.symm hk]

section
variable {x : Intake} {c : IntakeCfg} {f : CamFrame} {port vc now : Nat}

theorem endFrame_of_closed (h : x.cur = none) (cut : Bool) : x.endFrame cut = x := by
  unfold Intake.endFrame
  rw [h]
  cases x.cfg <;> rfl

/-- The end of an open frame: counted, and kept as the newest unless it is damaged and DROP is set. -/
theorem endFrame_open (hcfg : x.cfg = some c) (hcur : x.cur = some f) (cut : Bool) :
    (x.endFrame cut).cur = none ∧ (x.endFrame cut).next = x.next ∧ (x.endFrame cut).cfg = x.cfg ∧
    (x.endFrame cut).complete = satInc 0xFFFF x.complete ∧
    (x.endFrame cut).damaged = (if (f.close c cut).damaged = true then satInc 0xFFFF x.damaged else x.damaged) ∧
    ((f.close c cut).damaged = true ∧ c.damage = 0 → (x.endFrame cut).newest = x.newest) ∧
    (¬ ((f.close c cut).damaged = true ∧ c.damage = 0) → (x.endFrame cut).newest = some (f.close c cut)) := by
  unfold Intake.endFrame
  rw [hcfg, hcur]
  dsimp only
  split
  · next h => exact ⟨rfl, rfl, rfl, rfl, rfl, fun _ => rfl, fun hn => absurd h hn⟩
  · next h => exact ⟨rfl, rfl, rfl, rfl, rfl, fun hn => absurd hn h, fun _ => rfl⟩

/-- Settings that wait apply at the Frame Start of their channel. -/
theorem frameStart_applies (hnext : x.next = some c) (htakes : c.takes port vc = true) (hb : c.bands ≠ []) (hcur : x.cur = none) :
    x.frameStart port vc now = { x with cfg := some c, next := none, cur := some (CamFrame.start now), newest := none, deliver := none } := by
  unfold Intake.frameStart
  simp only [endFrame_of_closed hcur, ite_self, hnext, Option.map_some, htakes, if_true]
  rw [if_neg (by simp [hb])]

theorem frameStart_opens (hnext : x.next = none) (hcfg : x.cfg = some c) (htakes : c.takes port vc = true) (hcur : x.cur = none) :
    x.frameStart port vc now = { x with cur := some (CamFrame.start now) } := by
  unfold Intake.frameStart
  simp [endFrame_of_closed hcur, hnext, hcfg, htakes]

theorem frameStart_of_none (hnext : x.next = none) (hcfg : x.cfg = none) : x.frameStart port vc now = x := by
  unfold Intake.frameStart
  simp [hnext, hcfg]

/-- A frame still open is cut short by the next. -/
theorem frameStart_cuts (hcfg : x.cfg = some c) (htakes : c.takes port vc = true) (hcur : x.cur = some f)
    (hnext : ∀ d : IntakeCfg, x.next = some d → d.takes port vc = true ∧ d.bands ≠ []) :
    (x.frameStart port vc now).cur = some (CamFrame.start now) ∧ (x.frameStart port vc now).next = none ∧
    (x.frameStart port vc now).damaged = satInc 0xFFFF x.damaged ∧ (x.frameStart port vc now).complete = satInc 0xFFFF x.complete := by
  obtain ⟨-, hn, -, hcomp, hdam, -, -⟩ := endFrame_open hcfg hcur true
  have hcut : (f.close c true).damaged = true := by simp [CamFrame.close]
  rw [if_pos hcut] at hdam
  unfold Intake.frameStart
  simp only [hcfg, Option.map_some, htakes, beq_self_eq_true, if_true, hn]
  cases hd : x.next with
  | none => simp [hdam, hcomp]
  | some d =>
    obtain ⟨hdt, hdb⟩ := hnext d hd
    simp [hdt, hdb, hdam, hcomp]

end

/-! ### Commands that wait for their lanes (R290) -/

/-- Every command of a number and a kind has its record held. -/
def AllHeld (c : Nat) (b : Body) (s : State) : Prop := ∀ x ∈ s.cmds, x.cid = c → x.body = b → x.held.isSome = true

theorem AllHeld.endCmd {c : Nat} {b : Body} (h : AllHeld c b s) (k : Nat) (e : End) : AllHeld c b (s.endCmd k e) := by
  intro x hx hc hb
  rcases endCmd_cmds s k e with ⟨y, -, -, he⟩ | ⟨y, -, -, he⟩ | ⟨-, he⟩
  · rw [he] at hx
    obtain ⟨z, hz, rfl⟩ := List.mem_map.mp hx
    by_cases hzk : (z.cid == k) = true
    · rw [if_pos hzk]
      rfl
    · rw [if_neg hzk] at hc hb ⊢
      exact h z hz hc hb
  · rw [he] at hx
    exact h x (List.mem_of_mem_filter hx) hc hb
  · rw [he] at hx
    exact h x hx hc hb

/-- A command that ends has its record held, or is gone. -/
theorem endCmd_allHeld (s : State) (c : Nat) (b : Body) (e : End) : AllHeld c b (s.endCmd c e) := by
  intro x hx hc _
  rcases endCmd_cmds s c e with ⟨y, -, -, he⟩ | ⟨y, -, -, he⟩ | ⟨hn, he⟩
  · rw [he] at hx
    obtain ⟨z, hz, rfl⟩ := List.mem_map.mp hx
    by_cases hzk : (z.cid == c) = true
    · rw [if_pos hzk]
      rfl
    · rw [if_neg hzk] at hc
      exact absurd (beq_iff_eq.mpr hc) hzk
  · rw [he] at hx
    simpa [hc] using (List.mem_filter.mp hx).2
  · rw [he] at hx
    have := List.find?_eq_none.mp hn x hx
    simp [hc] at this

theorem AllHeld.closeLists {c : Nat} {b : Body} (fuel : Nat) (h : AllHeld c b s) : AllHeld c b (State.closeLists fuel s) := by
  induction fuel generalizing s with
  | zero => exact h
  | succ n ih =>
    unfold State.closeLists
    split
    · exact h
    · exact ih (h.endCmd _ _)

theorem AllHeld.closeSessions {c : Nat} {b : Body} (fuel : Nat) (h : AllHeld c b s) : AllHeld c b (State.closeSessions fuel s) := by
  induction fuel generalizing s with
  | zero => exact h
  | succ n ih =>
    have hidle : ∀ v : State, AllHeld c b v → AllHeld c b v.wpeIdle := fun v hv => by
      unfold State.wpeIdle
      split
      · exact hv
      · exact hv
    unfold State.closeSessions
    split
    · exact h
    · next y _ =>
      exact ih (hidle _ (AllHeld.endCmd (s := { s with wpe := { s.wpe with sessions := s.wpe.sessions.filter (fun z => z.num != y.num) } }) h _ _))

theorem AllHeld.settle {c : Nat} {b : Body} (h : AllHeld c b s) (g : Nat) : AllHeld c b (s.settle g) := by
  have hloop : AllHeld c b (State.settleLoop ((s.ring g).held + 1) s g) := by
    unfold AllHeld
    rw [settleLoop_cmds]
    exact h
  unfold State.settle AllHeld
  rw [fetchWork_cmds]
  exact hloop.closeLists 3

theorem AllHeld.finish {c : Nat} {b : Body} (h : AllHeld c b s) (k : Nat) (e : End) : AllHeld c b (s.finish k e) := by
  unfold State.finish
  split
  · exact h
  · exact (((h.endCmd k e).closeLists 3).closeSessions 4).settle _

theorem finish_allHeld (s : State) (c : Nat) (b : Body) (e : End) : AllHeld c b (s.finish c e) := by
  unfold State.finish
  split
  · next hn =>
    intro x hx hc _
    have := List.find?_eq_none.mp hn x hx
    simp [hc] at this
  · exact (((endCmd_allHeld s c b e).closeLists 3).closeSessions 4).settle _

/-- Commands ended one after another: each is gone, or its record is held. -/
theorem foldl_finish_allHeld (b : Body) (e : End) (l : List Nat) : ∀ s : State, ∀ c ∈ l, AllHeld c b (l.foldl (fun t k => t.finish k e) s) := by
  have hkeep : ∀ (l : List Nat) (s : State) (c : Nat), AllHeld c b s → AllHeld c b (l.foldl (fun t k => t.finish k e) s) := by
    intro l
    induction l with
    | nil => exact fun _ _ h => h
    | cons k l ih => exact fun s c h => ih _ c (h.finish k e)
  induction l with
  | nil => exact fun _ _ h => absurd h List.not_mem_nil
  | cons k l ih =>
    intro s c hc
    rcases List.mem_cons.mp hc with rfl | hc
    · exact hkeep l _ _ (finish_allHeld s c b e)
    · exact ih _ c hc

/-- The commands that wait for the lanes of a port. -/
def State.csiWaits (s : State) (port : Nat) : List Nat :=
  s.cmds.filterMap (fun x => match x.body with
    | .csi q => if q = port then some x.cid else none
    | _ => none)

theorem mem_csiWaits {port : Nat} {x : Cmd} (hx : x ∈ s.cmds) (hb : x.body = .csi port) : x.cid ∈ s.csiWaits port := by
  refine List.mem_filterMap.mpr ⟨x, hx, ?_⟩
  rw [hb]
  exact if_pos rfl

theorem foldl_finish_books (l : List Nat) (e : End) (s : State) : Books s (l.foldl (fun t k => t.finish k e) s) :=
  (Books.refl s).foldl fun u k => finish_books u k e

/-- A line of a port, and what its checks count. -/
def State.csiLine (s : State) (port : Nat) (dt : Nat) (crcOk : Bool) : State :=
  s.updCsi port (fun p => { p with crcLines := if crcOk then p.crcLines else satInc 0xFFFF p.crcLines
                                   unsup := if dtSupported dt || dt == 0x12 then p.unsup else satInc 0xFFFF p.unsup })

theorem exec_csiLongPacket (port : Fin 2) (vc : Fin 4) (dt : Nat) (crcOk : Bool) (payload : List Byte) (hen : (s.csiPort port.val).en = true) :
    exec (.csiLongPacket port vc dt false false crcOk payload) s = .next { s.csiLine port.val dt crcOk with
      intake := if dtSupported dt then s.intake.map (fun (u : Intake) => u.takeLine port.val vc.val dt false crcOk payload) else s.intake } := by
  refine congrArg Host.Outcome.next ((if_neg (by simp [State.csiLive, hen])).trans ?_)
  cases hd : dtSupported dt <;> cases hv : (dt == 0x12) <;> cases crcOk <;> simp [State.csiLine, State.updCsi, hd, hv, bne]

/-- Settings of frames, and lines, by what each unit makes of them. -/
theorem cameras_frames (s : State) (port : Fin 2) (vc : Fin 4) (corrected : Bool) (hen : (s.csiPort port.val).en = true) :
    exec (.csiFrameStart port ⟨vc, corrected⟩) s = .next { s.countCorrected port.val corrected with
      intake := s.intake.map (fun (u : Intake) => u.frameStart port.val vc.val s.tmr.uptime) } ∧
    exec (.csiFrameEnd port ⟨vc, corrected⟩) s = .next { s.countCorrected port.val corrected with
      intake := s.intake.map (fun (u : Intake) =>
        if (u.cfg.map (fun c => c.takes port.val vc.val)) = some true then u.endFrame false else u) } :=
  ⟨congrArg Host.Outcome.next (if_pos hen), congrArg Host.Outcome.next (if_pos hen)⟩

theorem csiConfig_sets {r : Fin 1024} (hrep : Reporting s r.val) (h : s.ready r.val 0x24 false = some p) (hread : s.portRead (par p 0x10 1) = false)
    (hlen : par p 0x10 1 < s.csi.length) :
    Yields (.csiConfig r) s (fun t => t.csiPort (par p 0x10 1) =
        { CsiPort.initial with en := par p 0x11 1 == 1, lanes := par p 0x12 1, rate := par p 0x14 2 } ∧
      (∀ k, k ≠ par p 0x10 1 → t.csiPort k = s.csiPort k) ∧
      LedgerOnly { s with csi := t.csi, pwr := { s.pwr with peak := t.pwr.peak, estFormed := t.pwr.estFormed } } t ∧
      (par p 0x11 1 ≠ 1 → HeadRecorded s t r.val p endDone) ∧
      (par p 0x11 1 = 1 → ∃ x ∈ t.cmds, x.cid = s.nextCid ∧ x.body = .csi (par p 0x10 1))) := by
  obtain ⟨a, ha⟩ : ∃ a, a = s.accept r.val p (.csi (par p 0x10 1)) none 0 := ⟨_, rfl⟩
  obtain ⟨v, hv⟩ : ∃ v : State, v = (a.updCsi (par p 0x10 1) (fun _ =>
    { CsiPort.initial with en := par p 0x11 1 == 1, lanes := par p 0x12 1, rate := par p 0x14 2 })).notePeak := ⟨_, rfl⟩
  have haled : LedgerOnly s a := ha ▸ accept_ledger s r.val p _ none 0
  have hcsi : a.csi = s.csi := haled.csi_eq
  have hpwr : a.pwr = s.pwr := haled.pwr_eq
  have hva : v = { a with csi := v.csi, pwr := { s.pwr with peak := v.pwr.peak, estFormed := v.pwr.estFormed } } := by
    rw [hv, ← hpwr]
    rfl
  have hport : ∀ k, v.csiPort k = if par p 0x10 1 = k ∧ k < s.csi.length then
      { CsiPort.initial with en := par p 0x11 1 == 1, lanes := par p 0x12 1, rate := par p 0x14 2 } else s.csiPort k := fun k => by
    have h1 := csiPort_updCsi a (par p 0x10 1) k (fun _ =>
      { CsiPort.initial with en := par p 0x11 1 == 1, lanes := par p 0x12 1, rate := par p 0x14 2 })
    have h2 : a.csiPort k = s.csiPort k := congrArg (fun l : List CsiPort => l.getD k CsiPort.initial) hcsi
    rw [hcsi, h2] at h1
    rw [hv]
    exact h1
  have hframe : ∀ t, LedgerOnly v t → t.csiPort (par p 0x10 1) =
        { CsiPort.initial with en := par p 0x11 1 == 1, lanes := par p 0x12 1, rate := par p 0x14 2 } ∧
      (∀ k, k ≠ par p 0x10 1 → t.csiPort k = s.csiPort k) ∧
      LedgerOnly { s with csi := t.csi, pwr := { s.pwr with peak := t.pwr.peak, estFormed := t.pwr.estFormed } } t := fun t ht => by
    have htp : ∀ k, t.csiPort k = v.csiPort k := fun k => congrArg (fun l : List CsiPort => l.getD k CsiPort.initial) ht.csi_eq
    refine ⟨by rw [htp, hport, if_pos ⟨rfl, hlen⟩], fun k hk => by rw [htp, hport, if_neg (by simp [Ne.symm hk])], ?_⟩
    have h1 : LedgerOnly { s with csi := v.csi, pwr := { s.pwr with peak := v.pwr.peak, estFormed := v.pwr.estFormed } } v := by
      have e := congrArg (fun x : State => ({ x with csi := v.csi, pwr := { s.pwr with peak := v.pwr.peak, estFormed := v.pwr.estFormed } } : State)) haled.1
      refine ⟨?_, fun g => ?_⟩
      · rw [hva]
        exact e
      · rw [hva]
        exact haled.2 g
    rw [ht.csi_eq, ht.pwr_eq]
    exact h1.trans ht
  have he : exec (.csiConfig r) s = .next (if (par p 0x11 1 == 1) = true then v.settle r.val else v.finish s.nextCid endDone) := by
    rw [hv, ha]
    exact congrArg Host.Outcome.next ((onHead_some _ h).trans (if_neg (by simp [hread])))
  by_cases hen : par p 0x11 1 = 1
  · rw [if_pos (beq_iff_eq.mpr hen)] at he
    obtain ⟨h1, h2, h3⟩ := hframe _ (settle_ledger v r.val)
    exact ⟨_, he, h1, h2, h3, fun hne => absurd hen hne, fun _ => ⟨s.headCmd r.val p (.csi (par p 0x10 1)) none 0,
      headCmd_mem_settle hrep.2.2 (fun _ _ => Body.noConfusion) (by rw [hva, ha]) _, rfl, rfl⟩⟩
  · rw [if_neg (by simpa using hen)] at he
    obtain ⟨h1, h2, h3⟩ := hframe _ (finish_ledger v s.nextCid endDone)
    refine ⟨_, he, h1, h2, h3, fun _ => ?_, fun h1 => absurd h1 hen⟩
    have hsame : SameRecords s v := by
      rw [hva, ha]
      exact ⟨(accept_same s r.val p _ none 0).rings, rfl, rfl⟩
    have hcmds : v.cmds = (s.accept r.val p (.csi (par p 0x10 1)) none 0).cmds := by rw [hva, ha]
    have hnext : v.nextCid = (s.accept r.val p (.csi (par p 0x10 1)) none 0).nextCid := by rw [hva, ha]
    have hrep' : Reporting v r.val := by
      obtain ⟨hmay, hrole, hf⟩ := hrep
      refine ⟨by rw [hva, ha]; exact hmay, by rw [hva, ha]; exact hrole, ?_⟩
      have := accept_fresh hf r.val p (.csi (par p 0x10 1)) none 0
      unfold CidsFresh at this ⊢
      rw [hcmds, hnext]
      exact this
    have hy : v.cmd? s.nextCid = some (s.headCmd r.val p (.csi (par p 0x10 1)) none 0) := by
      rw [State.cmd?, hcmds]
      exact accept_cmd? hrep.2.2 r.val p _ none 0
    have hrec := headRecorded_of_finish endDone h hsame hrep' hy rfl rfl rfl rfl rfl rfl rfl
    rwa [lateEnd_none _ _ _ rfl] at hrec

theorem Books.ledger (h : Books s t) : LedgerOnly s t := by
  refine ⟨?_, h.config⟩
  have e := congrArg State.sansLedger (show t.sansBooks = s.sansBooks from h.agrees)
  exact e

/-- Settles O46. -/
theorem camerasTaken : Obligations.CamerasTaken := by
  refine ⟨fun s port vc corrected hen => ?_, fun s r p hrep => ⟨csiConfig_sets hrep, fun g h hg hband hport hunit => ?_⟩,
    fun s port stop hs dk hen hlen => ?_⟩
  · obtain ⟨hcount, hcor⟩ := countCorrected_spec s port.val corrected
    obtain ⟨hstart, hend⟩ := cameras_frames s port vc corrected hen
    have hmap : ∀ (f : Intake → Intake) (i : Nat) (u : Intake), s.intake[i]? = some u → (s.intake.map f)[i]? = some (f u) := fun f i u hu => by
      rw [List.getElem?_map, hu]
      rfl
    intro counted
    refine ⟨⟨_, hstart, by rw [hcount], hcor, fun i u hu => ⟨fun c hn ht hb hc => ?_, fun c hn hcfg ht hc => ?_, fun c f hcfg ht hc hd => ?_,
      fun hn hcfg => ?_⟩⟩, ⟨_, hend, by rw [hcount], hcor, fun i u c f hu hcfg hcur ht => ?_⟩, fun dt payload crcOk => ?_⟩
    · exact (hmap _ i u hu).trans (congrArg some (frameStart_applies hn ht hb hc))
    · exact (hmap _ i u hu).trans (congrArg some (frameStart_opens hn hcfg ht hc))
    · obtain ⟨h1, h2, h3, h4⟩ := frameStart_cuts (now := s.tmr.uptime) hcfg ht hc hd
      exact ⟨_, hmap _ i u hu, h1, h2, h3, h4⟩
    · exact (hmap _ i u hu).trans (congrArg some (frameStart_of_none hn hcfg))
    · obtain ⟨h1, -, -, h4, h5, h6, h7⟩ := endFrame_open hcfg hcur false
      have hgo := (hmap (fun (u : Intake) => if (u.cfg.map (fun c => c.takes port.val vc.val)) = some true then u.endFrame false else u) i u hu).trans
        (congrArg some (if_pos (by rw [hcfg]; simp [ht])))
      refine ⟨_, hgo, h1, h4, fun hd => ⟨h7 (by simp [hd]), h5.trans (if_neg (by simp [hd]))⟩, fun hd hz => h6 ⟨hd, hz⟩, fun hd hz => h7 (by simp [hz])⟩
    · refine ⟨_, exec_csiLongPacket port vc dt crcOk payload hen, rfl, fun i u c f hdt hu hcfg hcur ht hcdt => ?_, fun hdt => if_neg (by simp [hdt]),
        fun hcrc hlt hlen => ?_, fun hcrc => ?_⟩
      · show (if dtSupported dt then _ else s.intake)[i]? = _
        rw [if_pos hdt]
        refine (hmap _ i u hu).trans (congrArg some ?_)
        unfold Intake.takeLine
        rw [hcfg, hcur]
        exact if_pos (by simp [ht, hcdt])
      · refine (congrArg CsiPort.crcLines ((csiPort_updCsi s port.val port.val _).trans (if_pos ⟨rfl, hlen⟩))).trans ?_
        simp [hcrc, satInc, hlt]
      · refine (congrArg CsiPort.crcLines (csiPort_updCsi s port.val port.val _)).trans ?_
        split
        · simp
        · rfl
  · obtain ⟨k, hk⟩ : ∃ k : State → State, k = fun t => t.updUnit (par p 0x10 1) (fun u =>
      { u with next := some (intakeOf p), complete := 0, damaged := 0, repeated := 0, superseded := 0, zero := 0 }) := ⟨_, rfl⟩
    have he : exec (.intakeConfig r) s = .next (s.completeWith r.val p k endDone) := by
      refine congrArg Host.Outcome.next ((onHead_some _ h).trans ?_)
      simp only [show (intakeOf p).handle = par p 0x24 2 from rfl, hg, hband, show (intakeOf p).port = par p 0x11 1 from rfl, hport,
        Bool.not_true, Bool.false_eq_true, if_false]
      rw [hk]
    have hled := completeWith_ledger s r.val p k endDone
    have hint : (s.completeWith r.val p k endDone).intake = (k s).intake := by
      rw [hled.intake_eq, hk]
      rfl
    have hunits : ∀ j, (s.completeWith r.val p k endDone).unit j = (k s).unit j := fun j =>
      congrArg (fun l : List Intake => l.getD j Intake.initial) hint
    have hset : ∀ j, (k s).unit j = if par p 0x10 1 = j ∧ j < s.intake.length then
        { s.unit j with next := some (intakeOf p), complete := 0, damaged := 0, repeated := 0, superseded := 0, zero := 0 } else s.unit j := fun j => by
      rw [hk]
      exact unit_updUnit s _ j _
    have hself := (hunits (par p 0x10 1)).trans ((hset _).trans (if_pos ⟨rfl, hunit⟩))
    refine ⟨_, he, completeWith_recorded k endDone h hrep ?_ ?_ ?_ ?_ ?_, ?_, by rw [hself], by rw [hself], by rw [hself], by rw [hself],
      fun j hj => (hunits j).trans ((hset j).trans (if_neg (by simp [Ne.symm hj])))⟩
    · exact fun _ => by rw [hk]; rfl
    · exact fun _ _ => by rw [hk]; rfl
    · exact fun _ => by rw [hk]; rfl
    · exact fun _ => by rw [hk]; rfl
    · exact fun _ => by rw [hk]; rfl
    · refine LedgerOnly.trans ?_ hled
      rw [hint, hk]
      have hacc := accept_ledger s r.val p .plain none 0
      exact ⟨congrArg (fun x : State => ({ x with intake := s.intake.modify (par p 0x10 1) (fun u =>
        { u with next := some (intakeOf p), complete := 0, damaged := 0, repeated := 0, superseded := 0, zero := 0 }) } : State)) hacc.1, hacc.2⟩
  · obtain ⟨v, hv⟩ : ∃ v, v = s.updCsi port.val (fun p => { p with stop := stop, clkHs := hs, deskew := p.deskew || dk }) := ⟨_, rfl⟩
    have he : exec (.laneStopState port stop hs dk) s = .next (if (List.range (s.csiPort port.val).lanes).all (fun k => stop.getLsbD k) then
        (v.csiWaits port.val).foldl (fun t k => t.finish k endDone) v else v) := by
      rw [hv]
      exact congrArg Host.Outcome.next (if_neg (by simp [hen]))
    have hport := (csiPort_updCsi s port.val port.val (fun p => { p with stop := stop, clkHs := hs, deskew := p.deskew || dk })).trans
      (if_pos ⟨rfl, hlen⟩)
    rw [← hv] at hport
    have hframe : ∀ t, Books v t → (t.csiPort port.val).stop = stop ∧ (t.csiPort port.val).clkHs = hs ∧
        (t.csiPort port.val).en = true ∧ LedgerOnly { s with csi := t.csi } t := fun t ht => by
      have hcsi : t.csi = v.csi := ht.view (view := State.csi)
      have htp : t.csiPort port.val = v.csiPort port.val := congrArg (fun l : List CsiPort => l.getD port.val CsiPort.initial) hcsi
      refine ⟨by rw [htp, hport], by rw [htp, hport], by rw [htp, hport]; exact hen, ?_⟩
      rw [hcsi]
      have hvs : ({ s with csi := v.csi } : State) = v := by rw [hv]; rfl
      rw [hvs]
      exact ht.ledger
    by_cases hall : (List.range (s.csiPort port.val).lanes).all (fun k => stop.getLsbD k) = true
    · rw [if_pos hall] at he
      obtain ⟨h1, h2, h3, h4⟩ := hframe _ (foldl_finish_books (v.csiWaits port.val) endDone v)
      refine ⟨_, he, h1, h2, h3, h4, fun _ x hx hb => .inl ?_⟩
      obtain ⟨y, hy, hxy⟩ := (foldl_finish_books (v.csiWaits port.val) endDone v).cmds x hx
      have hyb : y.body = .csi port.val := by
        rw [hxy] at hb
        exact hb
      have hcid : x.cid = y.cid := by rw [hxy]
      exact foldl_finish_allHeld _ endDone _ v y.cid (mem_csiWaits hy hyb) x hx hcid hb
    · rw [if_neg hall] at he
      obtain ⟨h1, h2, h3, h4⟩ := hframe v (.refl v)
      exact ⟨_, he, h1, h2, h3, h4, fun hk => absurd (List.all_eq_true.mpr fun k hk' => hk k (List.mem_range.mp hk')) hall⟩

end Sys2Proof.Machine
end

section
/-! PROOFS. What sending into the rill leaves, and the runs that begin, take their data, and end. -/

namespace Sys2Proof.Machine

set_option Elab.async false

variable {s t u : State} {p : Packet}

/-! ### Sending into the rill, through the bridge too -/

/-- A command apart from the loss that its run may be marked with. -/
def Cmd.sansFault (c : Cmd) : Cmd :=
  { c with body := match c.body with
      | .run r => .run { r with fault := none }
      | b => b }

/-- Everything but what a packet that is sent may touch: the rill and its terraces, the cascade ports, staging, the device log, reports,
and the loss that runs are marked with. -/
def State.sansFlow (s : State) : State :=
  { s.sansReport with
    rill := [], rillVc := [], rillIn := [], ters := [], free := 0
    casc := { s.casc with portUp := CascPort.initial, portDn := CascPort.initial, noRoute := 0 }
    pwr := s.pwr.sansStage, bist := { s.bist with dlog := [], dlogNext := 0, dlogLost := 0 }
    cmds := s.cmds.map Cmd.sansFault }

/-- A packet sent, or what sending does on its way. -/
abbrev Flows (s t : State) : Prop := Agrees State.sansFlow s t

theorem Flows.of_report (h : ReportOnly s t) : Flows s t := h.agrees

theorem updRun_fault_flows (s : State) (c : Nat) (f : Run → Option Nat) : Flows s (s.updRun c (fun r => { r with fault := f r })) := by
  have hmap : (s.updRun c (fun r => { r with fault := f r })).cmds.map Cmd.sansFault = s.cmds.map Cmd.sansFault := by
    unfold State.updRun State.updCmd
    dsimp only
    rw [List.map_map]
    refine List.map_congr_left fun x _ => ?_
    simp only [Function.comp]
    split
    · obtain ⟨_, _, _, _, _, _, _, _, _, _, _, _, _, _, b⟩ := x
      cases b <;> rfl
    · rfl
  exact congrArg (fun cs => ({ s.sansFlow with cmds := cs } : State)) hmap

theorem failRun_flows (s : State) (h seq k : Nat) : Flows s (s.failRun h seq k) := by
  unfold State.failRun
  split
  · exact .refl s
  · exact updRun_fault_flows _ _ _

theorem devVec_flows (s : State) (l : List LogEntry) (n m k : Nat) :
    Flows s (({ s with bist := { s.bist with dlog := l, dlogNext := n, dlogLost := m } } : State).devVec k) :=
  Agrees.trans (t := { s with bist := { s.bist with dlog := l, dlogNext := n, dlogLost := m } }) rfl (Flows.of_report (devVec_report _ k))

theorem dlog_flows (s : State) (source event : Nat) (arg0 : Word) (arg1 : DWord) : Flows s (s.dlog source event arg0 arg1) := by
  unfold State.dlog
  exact devVec_flows s _ _ _ 3

theorem leaveRill_flows (s : State) (p : Packet) : Flows s (s.leaveRill p) := by
  rw [leaveRill_frame]
  rfl

theorem sendFrame_flows (s : State) (up : Bool) (slots : List FlitSlot) (nak : Bool) : Flows s (s.sendFrame up slots nak) := by
  cases up <;> rfl

theorem sendFlits_flows (fuel : Nat) (s : State) (up : Bool) (fs : List FlitSlot) : Flows s (s.sendFlits fuel up fs) := by
  induction fuel generalizing s fs with
  | zero => exact .refl s
  | succ n ih =>
    cases fs with
    | nil => exact .refl s
    | cons x xs => exact (sendFrame_flows s up _ false).trans (ih _ _)

theorem updPort_flows (s : State) (up : Bool) (f : CascPort → CascPort) : Flows s (s.updPort up f) := by
  cases up <;> rfl

theorem bridgeSend_flows (s : State) (up : Bool) : Flows s (s.bridgeSend up) := by
  unfold State.bridgeSend
  dsimp only
  split
  · exact .refl s
  · exact (updPort_flows _ _ _).trans (sendFlits_flows _ _ _ _)

theorem bridge_flows_casc (s : State) (a b : CascPort) (n k : Nat) :
    Flows s { s with casc := { s.casc with portUp := a, portDn := b, noRoute := n }, free := k } := rfl

theorem bridgeOn_flows (s : State) (p : Packet) : Flows s (s.bridgeOn p) := by
  unfold State.bridgeOn
  split
  · exact (bridge_flows_casc s { s.casc.portUp with queue := s.casc.portUp.queue ++ [p] } s.casc.portDn s.casc.noRoute s.free).trans
      (bridgeSend_flows _ true)
  · exact (bridge_flows_casc s s.casc.portUp { s.casc.portDn with queue := s.casc.portDn.queue ++ [p] } s.casc.noRoute s.free).trans
      (bridgeSend_flows _ false)
  · exact ((bridge_flows_casc s s.casc.portUp s.casc.portDn (satInc 0xFFFF s.casc.noRoute) (s.free + 1)).trans (dlog_flows _ 5 4 _ _)).trans
      (failRun_flows _ p.graph p.runSeq 31)

theorem flushBridge_flows (s : State) : Flows s s.flushBridge := by
  unfold State.flushBridge
  refine Agrees.foldl (.refl s) fun u q _ => ?_
  refine (leaveRill_flows u q).trans ?_
  unfold State.bridge
  split
  · exact .refl _
  · exact bridgeOn_flows _ _

theorem needTerraces_flows (s : State) (l : List Nat) : Flows s (s.needTerraces l) := by
  have h := needTerraces_sansStage s l
  rw [s.needTerraces_eq_pwr]
  exact congrArg (fun x : Power => ({ s.sansFlow with pwr := x } : State)) h

theorem send_flows (s : State) (p : Packet) : Flows s (s.send p) := by
  have henter : Flows s (s.enterRill p) := (needTerraces_flows s ((s.way p).map (fun h => h.ter))).then
  unfold State.send
  dsimp only
  split
  · exact henter
  · exact henter.trans (flushBridge_flows _)

/-! ### Tensors at the engine port (R249, R267) -/

/-- A graph apart from the tensors and the credits at its ports. -/
def Graph.sansPorts (g : Graph) : Graph := { g with ports := [], credit := [] }

/-- Everything that tensors sent from the engine port leave. -/
def State.sansPorts (s : State) : State := { s.sansFlow with graphs := s.graphs.map Graph.sansPorts }

theorem Flows.ports (h : Flows s t) : Agrees State.sansPorts s t :=
  congrArg (fun x : State => ({ x with graphs := x.graphs.map Graph.sansPorts } : State)) (show t.sansFlow = s.sansFlow from h)

theorem updGraph_ports (s : State) (h : Nat) (f : Graph → Graph) (hf : ∀ g, (f g).sansPorts = g.sansPorts) :
    Agrees State.sansPorts s (s.updGraph h f) := by
  have hmap : (s.updGraph h f).graphs.map Graph.sansPorts = s.graphs.map Graph.sansPorts := by
    unfold State.updGraph
    rw [List.map_map]
    refine List.map_congr_left fun g _ => ?_
    simp only [Function.comp]
    split
    · exact hf g
    · rfl
  exact congrArg (fun gs => ({ s.sansPorts with graphs := gs } : State)) hmap

theorem deliverPorts_ports (fuel : Nat) (s : State) (h : Nat) : Agrees State.sansPorts s (s.deliverPorts fuel h) := by
  induction fuel generalizing s with
  | zero => exact .refl s
  | succ n ih =>
    unfold State.deliverPorts
    split
    · exact .refl s
    · dsimp only
      split
      · exact .refl s
      · split
        · exact .refl s
        · refine Agrees.trans ?_ (ih _)
          refine Agrees.foldl (updGraph_ports s h _ fun _ => rfl) fun u q _ => (send_flows u q).ports

theorem portData_ports (s : State) (h port seq : Nat) (bs : List Byte) : Agrees State.sansPorts s (s.portData h port seq bs) :=
  (updGraph_ports s h (fun g => { g with ports := g.ports ++ [{ port := port, runSeq := seq, bytes := bs }] }) fun _ => rfl).trans (deliverPorts_ports _ _ _)

/-! ### What such a view shows of a run and of a graph -/

/-- A run in flight is still in flight, with at most a loss to mark it. -/
theorem run_of_ports (h : Agrees State.sansPorts s t) {x : Cmd} {r : Run} (hx : x ∈ s.cmds) (hb : x.body = .run r) :
    ∃ y ∈ t.cmds, ∃ r', y.cid = x.cid ∧ y.body = .run r' ∧ ({ r' with fault := none } : Run) = { r with fault := none } := by
  have e : t.cmds.map Cmd.sansFault = s.cmds.map Cmd.sansFault := by
    have := congrArg State.cmds (show t.sansPorts = s.sansPorts from h)
    simpa only [State.sansPorts, State.sansFlow] using this
  have hm : x.sansFault ∈ t.cmds.map Cmd.sansFault := by
    rw [e]
    exact List.mem_map.mpr ⟨x, hx, rfl⟩
  obtain ⟨y, hy, hyx⟩ := List.mem_map.mp hm
  have hbody := congrArg Cmd.body hyx
  simp only [Cmd.sansFault, hb] at hbody
  cases hyb : y.body with
  | run r' =>
    rw [hyb] at hbody
    have hc := congrArg Cmd.cid hyx
    exact ⟨y, hy, r', by simpa only [Cmd.sansFault] using hc, hyb, Body.run.inj hbody⟩
  | _ =>
    rw [hyb] at hbody
    cases hbody

/-- A loaded graph is still loaded, as it was but for its ports. -/
theorem graph_of_ports (h : Agrees State.sansPorts s t) {k : Nat} {g : Graph} (hg : s.graph? k = some g) :
    ∃ g', t.graph? k = some g' ∧ g'.sansPorts = g.sansPorts := by
  have e : t.graphs.map Graph.sansPorts = s.graphs.map Graph.sansPorts := by
    have := congrArg State.graphs (show t.sansPorts = s.sansPorts from h)
    simpa only [State.sansPorts] using this
  have hfind : ∀ l : List Graph, (l.map Graph.sansPorts).find? (fun g => g.handle == k) = (l.find? (fun g => g.handle == k)).map Graph.sansPorts := fun l => by
    rw [List.find?_map]
    rfl
  have h1 : (t.graph? k).map Graph.sansPorts = (s.graph? k).map Graph.sansPorts := by
    unfold State.graph?
    rw [← hfind, ← hfind, e]
  rw [hg] at h1
  cases ht : t.graph? k with
  | none =>
    rw [ht] at h1
    cases h1
  | some g' =>
    rw [ht] at h1
    exact ⟨g', rfl, Option.some.inj h1⟩

theorem periph_of_ports (h : Agrees State.sansPorts s t) : t.pwr.periph = s.pwr.periph := by
  have := congrArg (fun x : State => x.pwr.periph) (show t.sansPorts = s.sansPorts from h)
  simpa only [State.sansPorts, State.sansFlow, Power.sansStage] using this

end Sys2Proof.Machine
end

section
/-! PROOFS. Runs begin, take their data, and end. -/

namespace Sys2Proof.Machine

set_option Elab.async false

variable {s t u : State} {p : Packet}

theorem cmd?_mem {c : Nat} {x : Cmd} (h : s.cmd? c = some x) : x ∈ s.cmds := List.mem_of_find?_eq_some h

theorem cmd?_cid {c : Nat} {x : Cmd} (h : s.cmd? c = some x) : x.cid = c := by
  simpa using List.find?_some (p := fun x : Cmd => x.cid == c) h

theorem graph?_handle {h : Nat} {g : Graph} (hg : s.graph? h = some g) : g.handle = h := by
  simpa using List.find?_some (p := fun g : Graph => g.handle == h) hg

/-- The command of a run, with its run changed. -/
def Cmd.withRun (x : Cmd) (f : Run → Run) : Cmd :=
  match x.body with
  | .run r => { x with body := .run (f r) }
  | _ => x

theorem withRun_cid (x : Cmd) (f : Run → Run) : (x.withRun f).cid = x.cid := by
  unfold Cmd.withRun
  split <;> rfl

theorem withRun_body {x : Cmd} {r : Run} (hb : x.body = .run r) (f : Run → Run) : x.withRun f = { x with body := .run (f r) } := by
  unfold Cmd.withRun
  rw [hb]

theorem updRun_cmd? {c : Nat} {x : Cmd} {r : Run} (hx : s.cmd? c = some x) (hb : x.body = .run r) (f : Run → Run) :
    (s.updRun c f).cmd? c = some { x with body := .run (f r) } := by
  rw [← withRun_body hb f]
  exact cmd?_updCmd (f := fun x => x.withRun f) (fun x => withRun_cid x f) hx

/-- Tensors of a source are handed over by a begun run, and nothing but the rill and the ports knows. -/
theorem feedPorts_begun {c source : Nat} {x : Cmd} {r : Run} (hx : s.cmd? c = some x) (hb : x.body = .run r) (hbegun : r.begun = true) :
    Agrees State.sansPorts (s.updRun c (fun r => { r with feeds := r.feeds.filter (fun f => f.1 != source) })) (s.feedPorts c source) := by
  unfold State.feedPorts
  rw [hx]
  dsimp only
  rw [hb]
  dsimp only
  rw [if_neg (by simp [hbegun])]
  exact Agrees.foldl (.refl _) fun u f _ => portData_ports u _ _ _ _

theorem feedPorts_waiting {c source : Nat} {x : Cmd} {r : Run} (hx : s.cmd? c = some x) (hb : x.body = .run r) (hbegun : r.begun = false) :
    s.feedPorts c source = s := by
  unfold State.feedPorts
  rw [hx]
  dsimp only
  rw [hb]
  exact if_pos (by simp [hbegun])

theorem tellMembers_report (s : State) (c : Nat) (g : Graph) (w : Work) : ReportOnly s (s.tellMembers c g w) := by
  unfold State.tellMembers
  split
  · exact .refl s
  · split
    · exact foldl_report _ _ (fun u d => emit_report u _) s
    · exact .refl s

/-- Whether a basin evaluates depends on the evaluations and on the basins of their graphs. -/
theorem basinBusy_congr (he : t.evals = s.evals) (hg : ∀ h, (t.graph? h).map (fun g => g.phys) = (s.graph? h).map (fun g => g.phys)) (n : Nat) :
    t.basinBusy n = s.basinBusy n := by
  unfold State.basinBusy
  rw [he]
  congr 1
  funext e
  have hbind : (t.graph? e.handle).bind (fun g => g.phys[e.place]?) = (s.graph? e.handle).bind (fun g => g.phys[e.place]?) := by
    have h := congrArg (fun o : Option (List (List Nat)) => o.bind (fun l => l[e.place]?)) (hg e.handle)
    simp only [Option.bind_map] at h
    exact h
  rw [hbind]

theorem updGraph_phys (s : State) (h : Nat) (f : Graph → Graph) (hf : ∀ g, (f g).handle = g.handle ∧ (f g).phys = g.phys) (k : Nat) :
    ((s.updGraph h f).graph? k).map (fun g => g.phys) = (s.graph? k).map (fun g => g.phys) := by
  have hsame : ((fun g : Graph => g.handle == k) ∘ fun g => if g.handle == h then f g else g) = fun g => g.handle == k := by
    funext g
    simp only [Function.comp]
    split
    · rw [(hf g).1]
    · rfl
  unfold State.graph? State.updGraph
  rw [List.find?_map, hsame]
  cases s.graphs.find? (fun g => g.handle == k) with
  | none => rfl
  | some g =>
    simp only [Option.map_some]
    split
    · rw [(hf g).2]
    · rfl

/-- A run begins: it takes the graph's next number, and the peripheries of the first layer that do not evaluate wake. -/
theorem beginRun_spec {x : Cmd} {run : Run} {g : Graph} (hx : s.cmd? x.cid = some x) (hb : x.body = .run run) (hg : s.graph? run.handle = some g) :
    (∃ y ∈ (s.beginRun x.cid).cmds, ∃ r', y.cid = x.cid ∧ y.body = .run r' ∧ r'.begun = true ∧ r'.runSeq = g.nextSeq) ∧
    (∃ g', (s.beginRun x.cid).graph? run.handle = some g' ∧ g'.nextSeq = (g.nextSeq + 1) % 65536) ∧
    ∀ n ∈ g.cgd.firstLayer.flatMap (fun i => g.phys.getD i []),
      Tab.get? (s.beginRun x.cid).pwr.periph n =
        if s.basinBusy n = false then some (wakened (Tab.get? s.pwr.periph n)) else Tab.get? s.pwr.periph n := by
  have hh := graph?_handle hg
  obtain ⟨a, ha⟩ : ∃ a, a = (s.updRun x.cid (fun r => { r with begun := true, runSeq := g.nextSeq })).updGraph g.handle
    (fun g => { g with nextSeq := (g.nextSeq + 1) % 65536 }) := ⟨_, rfl⟩
  obtain ⟨b, hb'⟩ : ∃ b, b = (a.headWake g).tellMembers x.cid g (.run g.handle g.nextSeq run.exact run.theta) := ⟨_, rfl⟩
  have hgo : s.beginRun x.cid = b.feedPorts x.cid 2 := by
    unfold State.beginRun
    rw [hx]
    dsimp only [Option.bind_some]
    rw [hb]
    dsimp only
    rw [hg, hb', ha]
  obtain ⟨hwfr, hwake⟩ := wakeAll_spec (g.cgd.firstLayer.flatMap (fun i => g.phys.getD i [])) a
  have hwfr' : a.headWake g = { a with pwr := { a.pwr with periph := (a.headWake g).pwr.periph } } := hwfr
  have hrep : ReportOnly (a.headWake g) b := hb' ▸ tellMembers_report _ _ _ _
  have hacmd : a.cmd? x.cid = some { x with body := .run { run with begun := true, runSeq := g.nextSeq } } := by
    rw [ha]
    exact updRun_cmd? hx hb _
  have hbcmd : b.cmd? x.cid = some { x with body := .run { run with begun := true, runSeq := g.nextSeq } } := by
    rw [State.cmd?, hrep.cmds_eq, hwfr']
    exact hacmd
  have hview := feedPorts_begun (source := 2) hbcmd rfl rfl
  rw [← hgo] at hview
  have hbusy : ∀ n, a.basinBusy n = s.basinBusy n := fun n => by
    have hphys := updGraph_phys (s.updRun x.cid (fun r => { r with begun := true, runSeq := g.nextSeq })) g.handle
      (fun g => { g with nextSeq := (g.nextSeq + 1) % 65536 }) (fun _ => ⟨rfl, rfl⟩)
    rw [← ha] at hphys
    exact basinBusy_congr (t := a) (by rw [ha]; rfl) hphys n
  refine ⟨?_, ?_, fun n hn => ?_⟩
  · obtain ⟨y, hy, r', hcid, hbody, hr⟩ := run_of_ports hview (cmd?_mem (updRun_cmd? hbcmd rfl _)) rfl
    exact ⟨y, hy, r', hcid, hbody, (congrArg Run.begun hr).trans rfl, (congrArg Run.runSeq hr).trans rfl⟩
  · have hgraph : b.graph? run.handle = some { g with nextSeq := (g.nextSeq + 1) % 65536 } := by
      rw [State.graph?, hrep.graphs_eq, hwfr']
      have h1 : a.graph? run.handle = (s.graph? run.handle).map (fun g => { g with nextSeq := (g.nextSeq + 1) % 65536 }) := by
        rw [ha, hh]
        exact graph?_updGraph (s := s.updRun _ _) (by intro _; rfl)
      rw [hg] at h1
      exact h1
    obtain ⟨g', hg', hs⟩ := graph_of_ports hview (k := run.handle) hgraph
    exact ⟨g', hg', (congrArg Graph.nextSeq hs).trans rfl⟩
  · have h1 : (s.beginRun x.cid).pwr.periph = (a.headWake g).pwr.periph := (periph_of_ports hview).trans (congrArg Power.periph hrep.pwr_eq)
    have h2 : a.pwr = s.pwr := by rw [ha]; rfl
    rw [h1]
    refine (hwake n).trans ?_
    rw [hbusy, h2]
    simp only [hn, true_and]

/-- A run that is done ends DONE or late, with its record, where no pair mirrors its graph. -/
theorem runComplete_ends {x : Cmd} {run : Run} {g : Graph} (hx : s.cmd? x.cid = some x) (hb : x.body = .run run)
    (hg : s.graph? run.handle = some g) (hheld : x.held = none) (hbegun : run.begun = true) (hfault : run.fault = none)
    (hdone : s.runDone g run = true) (hpairs : s.pairsFor g.devs = []) (hmir : x.mir = []) (hdet : x.detached = false)
    (hhalt : (s.ring x.ring).halted = false) (hrep : Reporting s x.ring) :
    Yields (.runComplete x.cid) s (fun t => LedgerOnly { s with free := s.free + 1 } t ∧ t.cmd? x.cid = none ∧
      Recorded s t x.ring x.tag x.opcode x.parent.isSome (({ s with free := s.free + 1 } : State).lateEnd x run.ended)) := by
  have hpart : s.reportPart x.cid g run = s := by
    unfold State.reportPart
    rw [hx]
    exact if_neg hrep.2.1
  have hmirror : ∀ parts, s.mirrorCmd x.cid g.devs g.handle run.runSeq parts true true = s := fun parts => by
    unfold State.mirrorCmd
    rw [hx]
    dsimp only
    rw [hpairs]
    rfl
  have hend : s.endRun x.cid g run false run.ended = ({ s with free := s.free + 1 } : State).finish x.cid run.ended := by
    unfold State.endRun
    dsimp only
    rw [if_neg Bool.false_ne_true, hpart, hmirror]
  have he : exec (.runComplete x.cid) s = .next (({ s with free := s.free + 1 } : State).finish x.cid run.ended) := by
    have hgo : exec (.runComplete x.cid) s = execRunComplete x.cid s := rfl
    rw [hgo]
    unfold execRunComplete
    rw [hx]
    dsimp only
    rw [hb]
    dsimp only
    rw [hg]
    dsimp only
    rw [if_neg (by simp [hbegun, hheld, hdone]), hfault]
    exact congrArg Host.Outcome.next hend
  refine ⟨_, he, finish_ledger _ _ _, finish_gone (s := { s with free := s.free + 1 }) hx hmir _, ?_⟩
  exact (finish_recorded { s with free := s.free + 1 } x run.ended hx hmir hdet hhalt hrep).of_same (u := { s with free := s.free + 1 })
    ⟨fun _ => rfl, rfl, rfl⟩

/-- The data of a host read that returns before the run begins is held for its port. -/
theorem dataRead_held {x : Cmd} {run : Run} {g : Graph} {port : Nat} {o : PortRec} (hx : s.cmd? x.cid = some x) (hb : x.body = .run run)
    (hg : s.graph? run.handle = some g) (hheld : x.held = none) (hbegun : run.begun = false) (hport : unreadPort g run run.readPorts = some port)
    (ho : g.cgd.ports[port]? = some o) (bytes : List Byte) :
    Yields (.dataReadCompletion x.cid (.data bytes)) s (fun t => t = { s with cmds := t.cmds } ∧
      ∃ y ∈ t.cmds, ∃ r', y.cid = x.cid ∧ y.body = .run r' ∧ r'.readPorts = run.readPorts ++ [port] ∧
        r'.feeds = run.feeds ++ [(2, port, readBytes o.bytes bytes)]) := by
  obtain ⟨f, hf⟩ : ∃ f : Run → Run, f = fun r => { r with
    feeds := r.feeds ++ [(2, port, readBytes o.bytes bytes)], readPorts := r.readPorts ++ [port]
    lateCause := if r.begun then 0 else r.lateCause } := ⟨_, rfl⟩
  have hcmd := updRun_cmd? hx hb f
  have hwait := feedPorts_waiting (source := 2) hcmd rfl (by rw [hf]; exact hbegun)
  have he : exec (.dataReadCompletion x.cid (.data bytes)) s = .next (s.updRun x.cid f) := by
    have hgo : exec (.dataReadCompletion x.cid (.data bytes)) s = execDataReadCompletion x.cid (.data bytes) s := rfl
    rw [hgo]
    unfold execDataReadCompletion
    rw [hx]
    dsimp only
    rw [if_neg (by simp [hheld]), hb]
    dsimp only
    unfold State.inputRead
    rw [hg]
    dsimp only
    rw [hport]
    dsimp only
    rw [ho]
    simp only [Option.map_some, Option.getD_some]
    rw [← hf, hwait]
  exact ⟨_, he, rfl, _, cmd?_mem hcmd, f run, rfl, rfl, by rw [hf], by rw [hf]⟩

/-- Settles O42. -/
theorem runsGoOn : Obligations.RunsGoOn := by
  refine ⟨⟨fun s h k g f hg hk hf hno hdue hrun => ?_, fun s x run g hx hb hg heng hbegun => ?_⟩, fun s x run g hx hb hg hheld =>
    ⟨runComplete_ends hx hb hg hheld, fun port o bytes hbegun hport ho => dataRead_held hx hb hg hheld hbegun hport ho bytes, fun u hbegun => ?_⟩⟩
  · have hgo : exec (.fireInstant h) s = execFireInstant h s := rfl
    rw [hgo]
    unfold execFireInstant
    rw [hg, hk]
    dsimp only
    rw [hf]
    dsimp only
    rw [if_neg (by simp [hno]; omega), hrun]
  · have hwoken : ∀ y, some (wakened y) = some Periph.waking ∨ some (wakened y) = some (.good true) := fun y => by
      rcases y with _ | y
      · exact .inl rfl
      · cases y
        · exact .inl rfl
        · exact .inr rfl
    intro begins
    have hbegins : ∀ z : Sluice, begins (({ s with slc := z } : State).beginRun x.cid) := fun z => by
      obtain ⟨hrun, hgraph, hper⟩ := beginRun_spec (s := { s with slc := z }) hx hb hg
      refine ⟨hrun, hgraph, fun i hi n hn => ?_⟩
      have h := hper n (List.mem_flatMap.mpr ⟨i, hi, hn⟩)
      refine ⟨fun hbusy => ?_, fun hbusy => ?_⟩
      · rw [h, if_pos (show ({ s with slc := z } : State).basinBusy n = false from hbusy)]
        exact hwoken _
      · exact h.trans (if_neg (show ¬ ({ s with slc := z } : State).basinBusy n = false from by rw [show ({ s with slc := z } : State).basinBusy n = s.basinBusy n from rfl, hbusy]; decide))
    refine ⟨fun hwin hgood hnot hturn => ⟨s.beginRun x.cid, ?_, hbegins s.slc⟩, fun k f hk hf hno hdue hrun' =>
      ⟨({ s with slc := { s.slc with fired := s.slc.fired ++ [run.handle] } } : State).beginRun x.cid, ?_, hbegins _⟩⟩
    · have hgo : exec (.runHeadWake x.cid) s = execRunHeadWake x.cid s := rfl
      rw [hgo]
      unfold execRunHeadWake
      rw [hx]
      dsimp only [Option.bind_some]
      rw [hb]
      dsimp only
      rw [hg]
      dsimp only
      rw [if_neg (by simp [hbegun, hwin, heng, hgood, hturn]; omega)]
    · have hgo : exec (.fireInstant run.handle) s = execFireInstant run.handle s := rfl
      rw [hgo]
      unfold execFireInstant
      rw [hg, hk]
      dsimp only
      rw [hf]
      dsimp only
      rw [if_neg (by simp [hno]; omega), hrun']
      exact congrArg Host.Outcome.next (if_pos heng)
  · have he : exec (.intakeDelivery x.cid u) s = .next ((s.feedPorts x.cid u.val).updUnit u.val (fun u => { u with deliver := none })) := rfl
    have hview := feedPorts_begun (source := u.val) hx hb hbegun
    have hcsi : (s.feedPorts x.cid u.val).csi = s.csi := by
      have e := congrArg State.csi hview
      simp only [State.sansPorts, State.sansFlow, State.sansReport] at e
      exact e
    have hint : (s.feedPorts x.cid u.val).intake = s.intake := by
      have e := congrArg State.intake hview
      simp only [State.sansPorts, State.sansFlow, State.sansReport] at e
      exact e
    obtain ⟨y, hy, r', hcid, hbody, hr⟩ := run_of_ports hview (cmd?_mem (updRun_cmd? hx hb _)) rfl
    have hunit : ∀ k, (s.feedPorts x.cid u.val).unit k = s.unit k := fun k => congrArg (fun l : List Intake => l.getD k Intake.initial) hint
    generalize s.feedPorts x.cid u.val = v at he hview hcsi hint hy hunit
    refine ⟨_, he, ?_, hcsi, ⟨y, hy, r', hcid, hbody, fun f hf => ?_⟩, fun k hk => (unit_updUnit _ _ _ _).trans ((if_neg (by simp [Ne.symm hk])).trans (hunit k))⟩
    · rw [unit_updUnit]
      by_cases hlt : u.val < v.intake.length
      · rw [if_pos ⟨rfl, hlt⟩]
      · rw [if_neg (by simp [hlt]), State.unit, List.getD_eq_getElem?_getD, List.getElem?_eq_none (by omega)]
        rfl
    · have hfeeds : r'.feeds = run.feeds.filter (fun f => f.1 != u.val) := congrArg Run.feeds hr
      rw [hfeeds] at hf
      simpa using (List.mem_filter.mp hf).2

end Sys2Proof.Machine
end

section
/-! PROOFS. Tracking of a basin whose terrace is not staged, where PWR lists no terrace. -/

namespace Sys2Proof.Machine

set_option Elab.async false

/-- A basin in VALID, in a state whose PWR lists no terrace. -/
def unlisted : State :=
  { State.reset with
    pwr := { State.reset.pwr with terraces := [] }
    basins := [(0, { Basin.initial 0 with wstate := .valid })] }

/-- Tracking of basin 0. -/
def trackZero : TrackRead := { basin := 0, rc := List.replicate 8 0 }

/-- Refutes O44: the tracking evaluation asks for its terrace, but a state whose PWR lists fewer than 64 terraces has no place to
stage it in, so it still reads as off. The statement does not have the number of terraces, which O6 keeps. -/
theorem not_evaluationsRun : ¬ Obligations.EvaluationsRun := by
  rintro ⟨-, htrack, -⟩
  obtain ⟨t, he, -, hoff⟩ := (htrack unlisted trackZero rfl (.inl rfl) rfl rfl rfl rfl).1 (by decide)
  have hexec : (match exec (.trackingEvaluation trackZero) unlisted with | .next t => t.terPower 0 | _ => .good) = .off := by decide
  rw [he] at hexec
  exact hoff hexec

end Sys2Proof.Machine
end

section
/-! PROOFS. Graphs loaded and unloaded. -/

namespace Sys2Proof.Machine

set_option Elab.async false

variable {s t u : State}

/-! ### What a message to a standby leaves -/

/-- Everything but the pairs, the commands that wait for them and what is sent. -/
def State.sansMirror (s : State) : State := { s.sansReport with cmds := [], casc := { s.casc with pairs := [] } }

theorem mirrorPump_agrees (fuel : Nat) (s : State) (k : Nat) : Agrees State.sansMirror s (s.mirrorPump fuel k) := by
  induction fuel generalizing s with
  | zero => exact .refl s
  | succ n ih =>
    unfold State.mirrorPump
    dsimp only
    split
    · exact .refl s
    · rename_i m q _
      refine .ite (Agrees.trans ?_ (ih _)) (.refl s)
      exact .ite (Agrees.trans (t := s.updPair k (fun p =>
        { p with queue := q, window := p.window ++ [{ m with uptime := s.tmr.uptime }], emitted := m.seq + 1 })) rfl rfl) rfl

theorem mirrorPush_agrees (s : State) (k ring tag opcode handle runSeq : Nat) (parts : List (Nat × List Byte × Option (Nat × Nat)))
    (first last : Bool) : Agrees State.sansMirror s (s.mirrorPush k ring tag opcode handle runSeq parts first last) := by
  unfold State.mirrorPush
  exact Agrees.trans (t := s.updPair k _) rfl (mirrorPump_agrees 128 _ k)

theorem mirrorCmd_agrees (s : State) (c : Nat) (devs : List Nat) (handle runSeq : Nat)
    (parts : Nat → List (Nat × List Byte × Option (Nat × Nat))) (first last : Bool) :
    Agrees State.sansMirror s (s.mirrorCmd c devs handle runSeq parts first last) := by
  unfold State.mirrorCmd
  split
  · exact .refl s
  refine Agrees.foldl (.refl s) fun u k _ => ?_
  have hpush := mirrorPush_agrees u k
  exact .ite ((hpush ..).trans rfl) (hpush ..)

/-- With no pair concerned nothing is mirrored. -/
theorem mirrorCmd_of_none {devs : List Nat} (h : s.pairsFor devs = []) (c handle runSeq : Nat)
    (parts : Nat → List (Nat × List Byte × Option (Nat × Nat))) (first last : Bool) :
    s.mirrorCmd c devs handle runSeq parts first last = s := by
  unfold State.mirrorCmd
  split
  · rfl
  · rw [h]
    rfl

/-- With no pair concerned no standby is told of a graph's slots. -/
theorem numberShadows_of_none {g : Graph} (h : s.pairsFor g.devs = []) (c : Cmd) : s.numberShadows c g = s := by
  unfold State.numberShadows
  rw [h]
  exact ite_self _

/-! ### The choice of a handle -/

/-- Fewer than 65,535 numbers in use leave one that is not. -/
theorem exists_unused {l : List Nat} (h : l.length < 65535) : ∃ k, k < 65536 ∧ k ≠ 0 ∧ k ∉ l := by
  have hcard : (insert 0 l.toFinset).card < (Finset.range 65536).card := by
    have h1 := Finset.card_insert_le 0 l.toFinset
    have h2 := l.toFinset_card_le
    rw [Finset.card_range]
    omega
  obtain ⟨k, hk, hnot⟩ := Finset.exists_mem_notMem_of_card_lt_card hcard
  rw [Finset.mem_insert, List.mem_toFinset, not_or] at hnot
  exact ⟨k, Finset.mem_range.mp hk, hnot.1, hnot.2⟩

/-! ### Placing and installing a graph -/

theorem placeSlot_free (s : State) (first : Bool) (c : Cgd) (taken : List Slot) (i : Nat) (x : SlotRec) :
    ∃ n, (s.placeSlot first c taken i x).2 = { s with free := n } := by
  have hpick : ∀ (u : State) (n : Nat) (ok : Nat → Bool), (∃ k, u = { s with free := k }) →
      ∃ k, (u.pickOr first n ok).2 = { s with free := k } := by
    rintro u n ok ⟨k, rfl⟩
    unfold State.pickOr
    split
    · exact ⟨k, rfl⟩
    · exact ⟨k + 1, rfl⟩
  unfold State.placeSlot
  dsimp only
  have h1 := hpick s 16 (fun k => (x.bank == 0xFF || x.bank == k) && s.bankTakes taken x k) ⟨_, rfl⟩
  split
  · exact h1
  · split <;> exact hpick _ _ _ (hpick _ _ _ h1)

theorem placeFrom_free (first : Bool) (c : Cgd) (recs : List SlotRec) (s : State) (taken : List Slot) (i : Nat) :
    ∃ n, (s.placeFrom first c taken i recs).2 = { s with free := n } := by
  induction recs generalizing s taken i with
  | nil => exact ⟨s.free, rfl⟩
  | cons x xs ih =>
    unfold State.placeFrom
    obtain ⟨n, hn⟩ := placeSlot_free s first c taken i x
    generalize s.placeSlot first c taken i x = y at hn
    obtain ⟨y, v⟩ := y
    obtain rfl : v = _ := hn
    cases y with
    | none => exact ⟨n, rfl⟩
    | some y =>
      dsimp only
      obtain ⟨k, hk⟩ := ih { s with free := n } (taken ++ [y]) (i + 1)
      split
      · rename_i h
        rw [h] at hk
        exact ⟨k, hk⟩
      · rename_i h
        rw [h] at hk
        exact ⟨k, hk⟩

/-- The search for room draws free values alone. -/
theorem placeSlots_free (s : State) (c : Cgd) (taken : List Slot) (recs : List SlotRec) :
    ∃ n, (s.placeSlots c taken recs).2 = { s with free := n } := by
  unfold State.placeSlots
  have h1 := placeFrom_free false c recs s taken 0
  split
  · rename_i h
    rw [h] at h1
    exact h1
  · rename_i h
    rw [h] at h1
    obtain ⟨n, hn⟩ := h1
    obtain rfl : _ = _ := hn
    exact placeFrom_free true c recs _ taken 0

/-- A graph apart from its slots' buffers. -/
def Graph.sansSlots (g : Graph) : Graph := { g with slots := [] }

/-- Everything that entering a graph in its terraces' tables leaves. -/
def State.sansInstall (s : State) : State :=
  { s.sansReport with graphs := s.graphs.map Graph.sansSlots, cistern := [], pwr := s.pwr.sansStage, free := 0 }

theorem writeBuffer_install (s : State) (g : Graph) (slot buf half seq : Nat) (bs : List Byte) (poison : Bool) :
    Agrees State.sansInstall s (s.writeBuffer g slot buf half seq bs poison) := by
  have hmap : ∀ (v : State) (h : Nat) (x : Slot), Agrees State.sansInstall v (v.updGraph h (fun g => { g with slots := g.slots.set slot x })) := by
    intro v h x
    have hg : (v.updGraph h (fun g => { g with slots := g.slots.set slot x })).graphs.map Graph.sansSlots = v.graphs.map Graph.sansSlots := by
      unfold State.updGraph
      rw [List.map_map]
      refine List.map_congr_left fun y _ => ?_
      simp only [Function.comp]
      split
      · rfl
      · rfl
    exact congrArg (fun gs => ({ v.sansInstall with graphs := gs } : State)) hg
  unfold State.writeBuffer
  split
  · exact Agrees.trans (t := { s with cistern := _ }) rfl (hmap _ _ _)
  · exact .refl s

theorem presetDelay_install (s : State) (h seq : Nat) : Agrees State.sansInstall s (s.presetDelay h seq) := by
  unfold State.presetDelay
  split
  · exact .refl s
  refine Agrees.foldl (.refl s) fun v e _ => .ite (.refl v) ?_
  split
  · exact .refl v
  split
  · exact .ite (writeBuffer_install ..) (.refl v)
  · exact .refl v

theorem needTerraces_install (s : State) (ts : List Nat) : Agrees State.sansInstall s (s.needTerraces ts) := by
  have h := needTerraces_sansStage s ts
  rw [s.needTerraces_eq_pwr]
  exact congrArg (fun x : Power => ({ s.sansInstall with pwr := x } : State)) h

/-- A graph that is installed stands behind the others. -/
theorem install_agrees (s : State) (g : Graph) : Agrees State.sansInstall { s with graphs := s.graphs ++ [g] } (s.install g) := by
  unfold State.install
  exact ((presetDelay_install _ _ _).trans (needTerraces_install _ _)).then

/-! ### GRAPH_LOAD -/

/-- A handle that no graph and no shadow has. -/
def State.handleFree (s : State) (h : Nat) : Bool := h != 0 && !(s.graphs ++ s.casc.shadows).any (fun g => g.handle == h)

theorem handleFree_spec {h : Nat} (hf : s.handleFree h = true) : h ≠ 0 ∧ ∀ y ∈ s.graphs, y.handle ≠ h := by
  simp only [State.handleFree, List.any_append, Bool.and_eq_true, bne_iff_ne, Bool.not_eq_true', Bool.or_eq_false_iff, List.any_eq_false,
    beq_iff_eq] at hf
  exact ⟨hf.1, hf.2.1⟩

/-- Fewer than 256 graphs and 256 shadows leave a handle. -/
theorem pick_handle (hg : s.graphs.length < 256) (hsh : s.casc.shadows.length < 256) :
    ∃ h, s.pick 65536 s.handleFree = (some h, { s with free := s.free + 1 }) ∧ h < 65536 ∧ h ≠ 0 ∧ ∀ y ∈ s.graphs, y.handle ≠ h := by
  have hlen : ((s.graphs ++ s.casc.shadows).map (fun g => g.handle)).length < 65535 := by
    rw [List.length_map, List.length_append]
    omega
  obtain ⟨k, hk, h0, hnot⟩ := exists_unused hlen
  have hfree : s.handleFree k = true := by
    have hany : (s.graphs ++ s.casc.shadows).any (fun g => g.handle == k) = false := by
      rw [List.any_eq_false]
      intro y hy
      rw [beq_iff_eq]
      exact fun he => hnot (he ▸ List.mem_map_of_mem hy)
    rw [State.handleFree, hany, bne_iff_ne.mpr h0]
    rfl
  obtain ⟨h, he, hlt, hok⟩ := pick_ok s 65536 s.handleFree ⟨k, hk, hfree⟩
  obtain ⟨hne, hfresh⟩ := handleFree_spec hok
  exact ⟨h, he, hlt, hne, hfresh⟩

/-- The graphs after one is installed behind them: the others, and it, apart from their slots' buffers. -/
theorem graph_of_installed {l m : List Graph} {g0 : Graph} (h : m.map Graph.sansSlots = (l ++ [g0]).map Graph.sansSlots)
    (hnew : ∀ y ∈ l, y.handle ≠ g0.handle) : ∃ g, m.find? (fun y => y.handle == g0.handle) = some g ∧ g.sansSlots = g0.sansSlots ∧
      m.map (fun y => y.handle) = l.map (fun y => y.handle) ++ [g0.handle] := by
  rw [List.map_append] at h
  obtain ⟨m1, m2, rfl, h1, h2⟩ := List.map_eq_append_iff.mp h
  have hhandles : m1.map (fun y => y.handle) = l.map (fun y => y.handle) := by
    have e := congrArg (List.map (fun y : Graph => y.handle)) h1
    rwa [List.map_map, List.map_map] at e
  obtain ⟨g, rfl, hg⟩ : ∃ g, m2 = [g] ∧ g.sansSlots = g0.sansSlots := by
    obtain ⟨g, rest, rfl, hg, hr⟩ := List.map_eq_cons_iff.mp h2
    exact ⟨g, by rw [List.map_eq_nil_iff.mp hr], hg⟩
  have hh : g.sansSlots.handle = g0.sansSlots.handle := by rw [hg]
  change g.handle = g0.handle at hh
  have hnone : m1.find? (fun y => y.handle == g0.handle) = none := by
    rw [List.find?_eq_none]
    intro y hy he
    have hmem : y.handle ∈ l.map (fun y => y.handle) := hhandles ▸ List.mem_map_of_mem hy
    obtain ⟨z, hz, hzy⟩ := List.mem_map.mp hmem
    exact hnew z hz (hzy.trans (beq_iff_eq.mp he))
  refine ⟨g, ?_, hg, ?_⟩
  · rw [List.find?_append, hnone, Option.none_or, List.find?_cons_of_pos (by rw [hh]; exact beq_self_eq_true _)]
  · rw [List.map_append, hhandles, List.map_cons, List.map_nil, hh]

/-- A command that reads its CGD ends with what it is due. -/
theorem finish_load {x : Cmd} (e : End) (hx : s.cmd? x.cid = some x) (hmir : x.mir = []) (hdet : x.detached = false)
    (hhalt : (s.ring x.ring).halted = false) (hrep : Reporting s x.ring) :
    LedgerOnly s (s.finish x.cid e) ∧ (s.finish x.cid e).cmd? x.cid = none ∧
      Recorded s (s.finish x.cid e) x.ring x.tag x.opcode x.parent.isSome (s.lateEnd x e) :=
  ⟨finish_ledger _ _ _, finish_gone hx hmir e, finish_recorded s x e hx hmir hdet hhalt hrep⟩

theorem readFailed_report (s : State) (g kind : Nat) : ReportOnly s (s.readFailed g kind) := by
  unfold State.readFailed
  dsimp only
  split
  · exact vlog_report _ _ _ _ _ _ _
  · exact (emit_report s _).trans (vlog_report _ _ _ _ _ _ _)

/-- A read that failed ends its command, and leaves all but the ledger. -/
theorem readFailed_ends {x : Cmd} (kind : Nat) (e : End) (hx : s.cmd? x.cid = some x) (hmir : x.mir = []) :
    LedgerOnly s ((s.readFailed x.ring kind).finish x.cid e) ∧ ((s.readFailed x.ring kind).finish x.cid e).cmd? x.cid = none := by
  have hrep := readFailed_report s x.ring kind
  have hx' : (s.readFailed x.ring kind).cmd? x.cid = some x := (congrArg (List.find? (fun c : Cmd => c.cid == x.cid)) hrep.cmds_eq).trans hx
  exact ⟨hrep.ledger.trans (finish_ledger _ _ _), finish_gone hx' hmir e⟩

/-- What a graph that is installed leaves of what records and commands need. -/
theorem Agrees.load_same (h : Agrees State.sansInstall s t) : SameRecords s t ∧ t.cmds = s.cmds ∧ t.nextCid = s.nextCid ∧ t.pins = s.pins ∧
    t.casc = s.casc ∧ (∀ g, t.mayMaster g = s.mayMaster g) ∧ (∀ g, t.ring g = s.ring g) ∧ t.graphs.map Graph.sansSlots = s.graphs.map Graph.sansSlots := by
  have hrings : t.rings = s.rings := h.eq State.rings
  have hring : ∀ k, t.ring k = s.ring k := fun k => congrArg (fun rs => Tab.getD rs k Ring.initial) hrings
  have howner : t.hif.owner = s.hif.owner := h.eq fun w => w.hif.owner
  have hnow : t.now48 = s.now48 := h.eq fun w => w.tmr.copy % 2 ^ 48
  have hm : ∀ g, t.mayMaster g = s.mayMaster g := fun g => h.eq fun w => w.mayMaster g
  exact ⟨⟨fun k => congrArg Ring.recordView (hring k), howner, hnow⟩, h.eq State.cmds, h.eq State.nextCid, h.eq State.pins, h.eq State.casc, hm, hring,
    h.eq State.graphs⟩

/-- The state in which a GRAPH_LOAD that has found room ends its command. -/
def State.loadedWith (s : State) (n : Nat) (c : Cmd) (b : List Byte) (g : Graph) (bind : Bool) : State :=
  (({ s with free := n } : State).install g).tellMembers c.cid g (.load g.handle b g.numbers bind)

/-- A CGD that passes its checks and finds room on a device with no pair concerned gives one more graph. -/
theorem loadGraph_room {c : Cmd} {b : List Byte} {len off win : Nat} {slots : List Slot} {v : State} (hbist : s.bistRunning = false)
    (hchecks : s.loadChecks c.cid b len = none)
    (hplace : s.placeSlots (parseCgd b) s.reservedSlots (parseCgd b).slots = (.ok slots, v)) (hlen : s.graphs.length < 256)
    (hshadows : s.casc.shadows.length < 256) (hpairs : s.pairsFor ((parseCgd b).places.map (fun q => q.dev)).eraseDups = [])
    (hdet : c.detached = false) :
    ∃ n h, h < 65536 ∧ h ≠ 0 ∧ (∀ y ∈ s.graphs, y.handle ≠ h) ∧
      s.loadGraph c b len false off win = (s.loadedWith n c b
        (newGraph b (parseCgd b) h (s.ringFunc c.ring) c.ring (s.bindAll (parseCgd b)) slots none) false).finish c.cid (endOf stDone h) := by
  obtain ⟨n, hn⟩ := placeSlots_free s (parseCgd b) s.reservedSlots (parseCgd b).slots
  obtain rfl : v = { s with free := n } := (congrArg Prod.snd hplace).symm.trans hn
  obtain ⟨h, hpick, hlt, h0, hfresh⟩ := pick_handle (s := { s with free := n }) hlen hshadows
  refine ⟨n + 1, h, hlt, h0, hfresh, ?_⟩
  unfold State.loadGraph
  rw [if_neg (by rw [hbist]; decide), hchecks]
  dsimp only
  rw [hplace]
  dsimp only
  rw [if_neg (by omega), if_neg Bool.false_ne_true]
  dsimp only
  rw [show ({ s with free := n } : State).pick 65536 (fun h => h != 0 && !(s.graphs ++ s.casc.shadows).any (fun g => g.handle == h)) = _ from hpick]
  dsimp only [Option.getD_some]
  rw [hdet, if_neg Bool.false_ne_true, if_neg Bool.false_ne_true]
  generalize hg : newGraph b (parseCgd b) h (s.ringFunc c.ring) c.ring (s.bindAll (parseCgd b)) slots none = g
  have hdevs : g.devs = ((parseCgd b).places.map (fun q => q.dev)).eraseDups := by rw [← hg]; rfl
  have hhandle : g.handle = h := by rw [← hg]; rfl
  have hnone : (s.loadedWith (n + 1) c b g false).pairsFor g.devs = [] := by
    have hcasc : (s.loadedWith (n + 1) c b g false).casc = s.casc :=
      (tellMembers_report _ _ _ _).casc_eq.trans (install_agrees { s with free := n + 1 } g).load_same.2.2.2.2.1
    rw [hdevs, ← hpairs]
    exact congrArg (fun ps : List Pair => (List.range 3).filter (fun k => ((ps.getD k Pair.initial).state == 2 || (ps.getD k Pair.initial).state == 3) &&
      ((parseCgd b).places.map (fun q => q.dev)).eraseDups.contains (ps.getD k Pair.initial).active)) (congrArg Casc.pairs hcasc)
  rw [← hhandle]
  change State.finish (State.mirrorCmd (State.numberShadows (s.loadedWith (n + 1) c b g false) c g) _ _ _ _ _ _ _) _ _ = _
  rw [numberShadows_of_none hnone, mirrorCmd_of_none hnone]

/-- A graph that has just been installed, and the record of its command. -/
theorem loadedWith_finish {x : Cmd} {n h : Nat} {b : List Byte} {g0 : Graph} (e : End) (hx : s.cmd? x.cid = some x)
    (hbody : ∀ r, x.body ≠ .run r) (hmir : x.mir = []) (hdet : x.detached = false) (hhalt : (s.ring x.ring).halted = false)
    (hrep : Reporting s x.ring) (hh : g0.handle = h) (hnew : ∀ y ∈ s.graphs, y.handle ≠ h) :
    (∃ g, ((s.loadedWith n x b g0 false).finish x.cid e).graph? h = some g ∧ g.sansSlots = g0.sansSlots ∧
      ((s.loadedWith n x b g0 false).finish x.cid e).graphs.map (fun y => y.handle) = s.graphs.map (fun y => y.handle) ++ [h]) ∧
    Recorded s ((s.loadedWith n x b g0 false).finish x.cid e) x.ring x.tag x.opcode x.parent.isSome (s.lateEnd x e) := by
  have htell := tellMembers_report (({ s with free := n } : State).install g0) x.cid g0 (.load g0.handle b g0.numbers false)
  have hinst := install_agrees { s with free := n } g0
  obtain ⟨hsame, hcmds, hnext, hpins, -, hmaster, hring, hgraphs⟩ := (hinst.trans (htell.agrees (view := State.sansInstall))).load_same
  rw [show (({ s with free := n } : State).install g0).tellMembers x.cid g0 (.load g0.handle b g0.numbers false) = s.loadedWith n x b g0 false from rfl]
    at hsame hcmds hnext hpins hmaster hring hgraphs
  generalize s.loadedWith n x b g0 false = w at hsame hcmds hnext hpins hmaster hring hgraphs ⊢
  subst hh
  have hx' : w.cmd? x.cid = some x := (congrArg (List.find? (fun c : Cmd => c.cid == x.cid)) hcmds).trans hx
  have hrep' : Reporting w x.ring := by
    refine ⟨?_, ?_, ?_⟩
    · rw [hmaster, show w.ringFunc x.ring = s.ringFunc x.ring from congrArg (fun o : List Nat => if x.ring < 64 then 0 else o.getD (x.ring / 64) 0) hsame.owner]
      exact hrep.1
    · rw [hpins]
      exact hrep.2.1
    · unfold CidsFresh
      rw [hcmds, hnext]
      exact hrep.2.2
  have hhalt' : (w.ring x.ring).halted = false := by rw [hring]; exact hhalt
  obtain ⟨g, hg, hsans, hmap⟩ := graph_of_installed hgraphs hnew
  have hkeep := (finish_ledger w x.cid e).graphs_eq
  obtain ⟨-, -, hrec⟩ := finish_load e hx' hmir hdet hhalt' hrep'
  have hlate : w.lateEnd x e = s.lateEnd x e := by
    have hblame : ∀ u : State, u.lateBlame x = (0, none) := fun u => by
      unfold State.lateBlame
      split
      · rename_i r hr
        exact absurd hr (hbody r)
      · rfl
    have hnow : w.now48 = s.now48 := hsame.now
    unfold State.lateEnd
    rw [hnow, hblame w, hblame s]
  rw [hlate] at hrec
  refine ⟨⟨g, ?_, hsans, ?_⟩, hrec.of_same ?_⟩
  · rw [State.graph?, hkeep]
    exact hg
  · rw [hkeep, hmap]
  · exact ⟨hsame.rings, hsame.owner, hsame.now⟩

theorem cgdRead_loads {x : Cmd} {addr : DWord} {len off win : Nat} {bytes : List Byte} (hx : s.cmd? x.cid = some x)
    (hb : x.body = .graphLoad addr len false off win) (hmir : x.mir = []) (hdet : x.detached = false)
    (hhalt : (s.ring x.ring).halted = false) (hrep : Reporting s x.ring) (hbist : s.bistRunning = false) {slots : List Slot} {u : State}
    (hchecks : s.loadChecks x.cid (readBytes len bytes) len = none)
    (hplace : s.placeSlots (parseCgd (readBytes len bytes)) s.reservedSlots (parseCgd (readBytes len bytes)).slots = (.ok slots, u))
    (hlen : s.graphs.length < 256) (hshadows : s.casc.shadows.length < 256)
    (hpairs : s.pairsFor ((parseCgd (readBytes len bytes)).places.map (fun q => q.dev)).eraseDups = []) :
    Yields (.cgdReadComplete x.cid (.data bytes)) s (fun t => ∃ g, t.graph? g.handle = some g ∧ g.handle ≠ 0 ∧
      g.handle < 65536 ∧ (∀ y ∈ s.graphs, y.handle ≠ g.handle) ∧ g.cgd = parseCgd (readBytes len bytes) ∧ g.nextSeq = 0 ∧
      (∀ z ∈ g.score, z.runSeq = 0) ∧ g.owner = s.ringFunc x.ring ∧ g.unload = none ∧
      t.graphs.map (fun y => y.handle) = s.graphs.map (fun y => y.handle) ++ [g.handle] ∧
      Recorded s t x.ring x.tag x.opcode x.parent.isSome (s.lateEnd x (endOf stDone g.handle))) := by
  obtain ⟨n, h, hlt, h0, hnew, hload⟩ := loadGraph_room (off := off) (win := win) hbist hchecks hplace hlen hshadows hpairs hdet
  obtain ⟨⟨g, hg, hsans, hmap⟩, hrec⟩ := loadedWith_finish (n := n) (b := readBytes len bytes)
    (g0 := newGraph (readBytes len bytes) (parseCgd (readBytes len bytes)) h (s.ringFunc x.ring) x.ring (s.bindAll (parseCgd (readBytes len bytes))) slots none)
    (endOf stDone h) hx (fun r => by rw [hb]; exact Body.noConfusion) hmir hdet hhalt hrep rfl hnew
  have hgo : exec (.cgdReadComplete x.cid (.data bytes)) s = .next (s.loadGraph x (readBytes len bytes) len false off win) := by
    have hgo : exec (.cgdReadComplete x.cid (.data bytes)) s = execCgdReadComplete x.cid (.data bytes) s := rfl
    rw [hgo]
    unfold execCgdReadComplete
    rw [hx]
    dsimp only
    rw [hb]
  rw [hload] at hgo
  have hgh : g.handle = h := congrArg (fun y : Graph => y.handle) hsans
  have hscore : g.score = (parseCgd (readBytes len bytes)).places.map _ := congrArg (fun y : Graph => y.score) hsans
  refine ⟨_, hgo, g, by rw [hgh]; exact hg, by rw [hgh]; exact h0, by rw [hgh]; exact hlt, by rw [hgh]; exact hnew,
    congrArg (fun y : Graph => y.cgd) hsans, congrArg (fun y : Graph => y.nextSeq) hsans, ?_, congrArg (fun y : Graph => y.owner) hsans,
    congrArg (fun y : Graph => y.unload) hsans, by rw [hgh]; exact hmap, by rw [hgh]; exact hrec⟩
  intro z hz
  rw [hscore] at hz
  obtain ⟨p, -, rfl⟩ := List.mem_map.mp hz
  rfl

/-- A GRAPH_LOAD at the head of its ring is admitted, and its CGD is read. -/
theorem graphLoad_admitted {g : Fin 1024} {p : List Byte} (h : s.ready g.val 0x10 false = some p) (hrep : Reporting s g.val)
    (hpairs : (s.casc.pairs.any (fun k => k.failCid.isSome)) = false) :
    Yields (.graphLoad g) s (fun t => LedgerOnly s t ∧
      ReadIssued s t (s.ringFunc g.val) (BitVec.ofNat 64 (par p 0x10 8)) (par p 0x18 4) ∧
      ∃ x ∈ t.cmds, x.cid = s.nextCid ∧ x.ring = g.val ∧ x.tag = pktTag p ∧ x.body =
        .graphLoad (BitVec.ofNat 64 (par p 0x10 8)) (par p 0x18 4) (par p 0x1C 1 == 1) (par p 0x20 4) (par p 0x24 4)) := by
  obtain ⟨body, hbody⟩ : ∃ body, body = Body.graphLoad (BitVec.ofNat 64 (par p 0x10 8)) (par p 0x18 4) (par p 0x1C 1 == 1) (par p 0x20 4) (par p 0x24 4) :=
    ⟨_, rfl⟩
  have hnot : ∀ n k, body ≠ .listCall n k := fun n k => by rw [hbody]; exact Body.noConfusion
  have hstands := accept_stands hrep.2.2 g.val p body none 0 hnot
  have hledger := accept_ledger s g.val p body none 0
  have hissue := issueRead_issued (s.accept g.val p body none 0) (s.ringFunc g.val) (BitVec.ofNat 64 (par p 0x10 8)) (par p 0x18 4)
  have hreport := issueRead_report (s.accept g.val p body none 0) (s.ringFunc g.val) (BitVec.ofNat 64 (par p 0x10 8)) (par p 0x18 4)
  have he : exec (.graphLoad g) s = .next
      (((s.accept g.val p body none 0).issueRead (s.ringFunc g.val) (BitVec.ofNat 64 (par p 0x10 8)) (par p 0x18 4)).settle g.val) := by
    rw [hbody]
    refine congrArg Host.Outcome.next ((onHead_some _ h).trans ((if_neg (by rw [hpairs]; decide)).trans ?_))
    exact congrArg (fun w : State => w.settle g.val) (if_pos hrep.1)
  generalize (s.accept g.val p body none 0).issueRead (s.ringFunc g.val) (BitVec.ofNat 64 (par p 0x10 8)) (par p 0x18 4) = v at he hissue hreport
  have hst : Stands (s.headCmd g.val p body none 0) v :=
    ⟨hreport.cmds_eq ▸ hstands.mem, fun y hy => hstands.only y (hreport.cmds_eq ▸ hy), .inl hnot⟩
  refine ⟨_, he, (hledger.trans hreport.ledger).trans (settle_ledger _ _), fun r hr => (settle_books v g.val).out (hissue r hr), _, hst.settle hnot g.val, rfl, rfl,
    rfl, hbody⟩

theorem graphUnload_accepted {g : Fin 1024} {p : List Byte} (h : s.ready g.val 0x11 false = some p) (hrep : Reporting s g.val) :
    (∀ x, s.liveGraph (par p 0x10 2) = some x → s.mirrorStopped x.devs = false →
      Yields (.graphUnload g) s (fun t => LedgerOnly { s with graphs := t.graphs } t ∧
        t.graphs = s.graphs.map (fun y => if y.handle = par p 0x10 2 then { y with unload := some s.nextCid } else y))) ∧
    (s.liveGraph (par p 0x10 2) = none →
      Yields (.graphUnload g) s (fun t => LedgerOnly s t ∧ HeadRecorded s t g.val p (endParam 0x10))) := by
  have hgo : exec (.graphUnload g) s = execGraphUnload g s := rfl
  refine ⟨fun x hx hstop => ?_, fun hx => ?_⟩
  · have hset := settle_ledger ((s.accept g.val p (.graphUnload (par p 0x10 2)) none 0).updGraph (par p 0x10 2)
      (fun x => { x with unload := some s.nextCid })) g.val
    have hacc := accept_ledger s g.val p (.graphUnload (par p 0x10 2)) none 0
    have hgraphs : (s.accept g.val p (.graphUnload (par p 0x10 2)) none 0).graphs = s.graphs := hacc.graphs_eq
    obtain ⟨gs, hgs⟩ : ∃ gs, gs = s.graphs.map (fun y => if y.handle == par p 0x10 2 then { y with unload := some s.nextCid } else y) := ⟨_, rfl⟩
    have hupd : (s.accept g.val p (.graphUnload (par p 0x10 2)) none 0).updGraph (par p 0x10 2) (fun x => { x with unload := some s.nextCid }) =
        { s.accept g.val p (.graphUnload (par p 0x10 2)) none 0 with graphs := gs } := by
      rw [hgs]
      unfold State.updGraph
      rw [hgraphs]
    rw [hupd] at hset
    refine ⟨({ s.accept g.val p (.graphUnload (par p 0x10 2)) none 0 with graphs := gs } : State).settle g.val, ?_, ?_, ?_⟩
    · rw [hgo, ← hupd]
      unfold execGraphUnload
      dsimp only
      rw [onHead_some _ h, hx]
      dsimp only
      rw [if_neg (by rw [hstop]; decide)]
    · rw [hset.graphs_eq]
      exact LedgerOnly.trans (t := { s.accept g.val p (.graphUnload (par p 0x10 2)) none 0 with graphs := gs })
        ⟨congrArg (fun w : State => ({ w with graphs := gs } : State)) hacc.1, hacc.2⟩ hset
    · rw [hset.graphs_eq, hgs]
      exact List.map_congr_left fun y _ => by simp only [beq_iff_eq]
  · refine ⟨s.refuse g.val p (endParam 0x10), ?_, refuse_ledger _ _ _ _, refuse_recorded _ h hrep⟩
    rw [hgo]
    unfold execGraphUnload
    dsimp only
    rw [onHead_some _ h, hx]

/-! ### GRAPH_RELEASE -/

/-- What a graph's release does not touch beside the graph's own. -/
def State.releaseView (s : State) : List Graph × List Staged × List Eval × List Forward × Memory × Memory :=
  (s.graphs, s.staged, s.evals, s.fwds, s.weights, s.kmbx)

theorem dropBanks_agrees (s : State) (ts : List Nat) : Agrees State.releaseView s (s.dropBanks ts) := by
  unfold State.dropBanks
  exact Agrees.foldl (.refl s) fun u k _ => Agrees.foldl (.refl u) fun v j _ => .ite (.refl v) rfl

theorem graphRelease_yields {h c : Nat} {x : Graph} (hx : s.graph? h = some x) (hun : x.unload = some c) (hruns : s.runsOf h = []) :
    Yields (.graphRelease h) s (fun t => t.graph? h = none ∧ t.graphs = s.graphs.filter (fun y => y.handle != h) ∧
      t.staged = s.staged.filter (fun y => y.handle != h) ∧ t.evals = s.evals.filter (fun y => y.handle != h) ∧
      t.fwds = s.fwds.filter (fun y => y.handle != h) ∧ t.weights = s.weights ∧ t.kmbx = s.kmbx) := by
  have hh : x.handle = h := graph?_handle hx
  obtain ⟨v, hv⟩ : ∃ v, v = (s.tellMembers c x (.unload h)).mirrorCmd c x.devs h 0 (fun _ => [(0x11, [], none)]) true true := ⟨_, rfl⟩
  have he : exec (.graphRelease h) s = .next ((v.releaseGraph x).finish c endDone) := by
    have hgo : exec (.graphRelease h) s = execGraphRelease h s := rfl
    rw [hgo, hv]
    unfold execGraphRelease
    rw [hx]
    dsimp only
    rw [hun]
    dsimp only
    rw [if_neg (by rw [hruns]; decide)]
  have hkeep : v.releaseView = s.releaseView := by
    have hm : Agrees State.releaseView (s.tellMembers c x (.unload h)) v := by
      rw [hv]
      exact (mirrorCmd_agrees _ _ _ _ _ _ _ _).of ⟨State.releaseView, fun _ => rfl⟩
    exact ((tellMembers_report s c x (.unload h)).agrees (view := State.releaseView)).trans hm
  have hfin : ((v.releaseGraph x).finish c endDone).releaseView = (v.releaseGraph x).releaseView :=
    (finish_ledger _ _ _).agrees (view := State.releaseView)
  have hrel : (v.releaseGraph x).releaseView = (v.graphs.filter (fun y => y.handle != h), v.staged.filter (fun y => y.handle != h),
      v.evals.filter (fun y => y.handle != h), v.fwds.filter (fun y => y.handle != h), v.weights, v.kmbx) := by
    unfold State.releaseGraph
    dsimp only
    rw [hh]
    exact dropBanks_agrees _ _
  have hall := hfin.trans hrel
  simp only [State.releaseView, Prod.mk.injEq] at hall hkeep
  obtain ⟨k1, k2, k3, k4, k5, k6⟩ := hkeep
  rw [k1, k2, k3, k4, k5, k6] at hall
  obtain ⟨h1, h2, h3, h4, h5, h6⟩ := hall
  refine ⟨_, he, ?_, h1, h2, h3, h4, h5, h6⟩
  rw [State.graph?, h1, List.find?_eq_none]
  intro y hy
  simpa using (List.mem_filter.mp hy).2

/-- Settles O37. -/
theorem graphsLoaded : Obligations.GraphsLoaded := by
  refine ⟨⟨fun s g p h hrep hpairs => graphLoad_admitted h hrep hpairs,
    fun s x addr len off win bytes hx hb hmir hdet hhalt hrep hbist =>
      ⟨fun slots u hchecks hplace hlen hshadows hpairs => cgdRead_loads hx hb hmir hdet hhalt hrep hbist hchecks hplace hlen hshadows hpairs,
        fun f hf => ?_, ?_, fun hto => ?_⟩⟩,
    fun s g p h hrep => graphUnload_accepted h hrep, fun s h c x hx hun hruns => graphRelease_yields hx hun hruns⟩
  · refine ⟨s.finish x.cid f.toEnd, ?_, finish_load f.toEnd hx hmir hdet hhalt hrep⟩
    have hgo : exec (.cgdReadComplete x.cid (.data bytes)) s = execCgdReadComplete x.cid (.data bytes) s := rfl
    rw [hgo]
    unfold execCgdReadComplete State.loadGraph
    rw [hx]
    dsimp only
    rw [hb]
    dsimp only
    rw [if_neg (by rw [hbist]; decide), hf]
  · refine ⟨_, ?_, readFailed_ends 0x0B endRead hx hmir⟩
    have hgo : exec (.cgdReadComplete x.cid .ca) s = execCgdReadComplete x.cid .ca s := rfl
    rw [hgo]
    unfold execCgdReadComplete
    rw [hx]
    dsimp only
    rw [hb]
    rfl
  · have hgo : exec (.completionTimeout (.cmd x.cid)) s = .next (s.commandReadFailed x 0x0A) := by
      have hgo : exec (.completionTimeout (.cmd x.cid)) s = execCompletionTimeout (.cmd x.cid) s := rfl
      rw [hgo]
      unfold execCompletionTimeout
      rw [if_neg (by rw [hto]; decide)]
      dsimp only
      rw [hx]
    refine ⟨_, hgo, fun hheld => ?_⟩
    unfold State.commandReadFailed
    rw [if_neg (by rw [hheld]; decide), hb]
    exact readFailed_ends 0x0A endRead hx hmir

end Sys2Proof.Machine
end

section
/-! PROOFS. A hop boundary: what the channels hear and form, the settings that take effect, and the sentinels that evaluate. -/

namespace Sys2Proof.Machine

set_option Elab.async false

variable {s t u : State}

/-! ### Lists whose members are named by a number -/

/-- An entry of a list under its number, with none of that number before it or after it. -/
theorem mapIdx_split {α : Type} {l : List α} {n : Nat} {x : α} (h : l[n]? = some x) :
    ∃ a b, l.mapIdx (fun n h => (n, h)) = a ++ (n, x) :: b ∧ (∀ p ∈ a, p.1 ≠ n) ∧ ∀ p ∈ b, p.1 ≠ n := by
  have hkeys : ∀ (k : Nat), l[k]? = (l.mapIdx (fun n h => (n, h)))[k]?.map Prod.snd := fun k => by
    rw [List.getElem?_mapIdx]
    cases l[k]? <;> rfl
  have hidx : ∀ (k : Nat) p, (l.mapIdx (fun n h => (n, h)))[k]? = some p → p.1 = k := fun k p hp => by
    rw [List.getElem?_mapIdx] at hp
    cases hl : l[k]? with
    | none =>
      rw [hl] at hp
      exact nomatch hp
    | some y =>
      rw [hl] at hp
      cases hp
      rfl
  generalize hm : l.mapIdx (fun n h => (n, h)) = m at hkeys hidx ⊢
  have hn : m[n]? = some (n, x) := by
    rw [← hm, List.getElem?_mapIdx, h]
    rfl
  have hlt : n < m.length := (List.getElem?_eq_some_iff.mp hn).1
  refine ⟨m.take n, m.drop (n + 1), ?_, fun p hp => ?_, fun p hp => ?_⟩
  · have hcons := List.drop_eq_getElem_cons hlt
    rw [(List.getElem?_eq_some_iff.mp hn).2] at hcons
    rw [← hcons, List.take_append_drop]
  · obtain ⟨k, hk⟩ := List.mem_iff_getElem?.mp hp
    rw [List.getElem?_take] at hk
    split at hk
    · rw [hidx k p hk]
      omega
    · exact nomatch hk
  · obtain ⟨k, hk⟩ := List.mem_iff_getElem?.mp hp
    rw [List.getElem?_drop] at hk
    rw [hidx _ p hk]
    omega

/-! ### Channels -/

/-- What the sentinels' evaluation of a hop, and the ends of accepted arms, leave. -/
def State.hopView (s : State) : Afe × Memory × Memory × List Graph × List Eval × Time :=
  (s.afe, s.weights, s.cistern, s.graphs, s.evals, s.tmr)

theorem listen_frame (ch : Nat) (ps : List MicPiece) (x : AfeChan) (draw : Nat) :
    (x.listen ch ps draw).en = x.en ∧ (x.listen ch ps draw).settle = x.settle ∧ (x.listen ch ps draw).rejoin = x.rejoin ∧
    (x.listen ch ps draw).firstValid = x.firstValid ∧ (x.listen ch ps draw).gain = x.gain ∧ (x.listen ch ps draw).lane = x.lane := by
  induction ps generalizing x draw with
  | nil => exact ⟨rfl, rfl, rfl, rfl, rfl, rfl⟩
  | cons p ps ih => exact ih _ _

/-- Hearing a hop leaves a channel's settings. -/
theorem hear_frame (x : AfeChan) (ch period : Nat) (ps : List MicPiece) (draw : Nat) :
    (x.hear ch period ps draw).en = x.en ∧ (x.hear ch period ps draw).settle = x.settle ∧ (x.hear ch period ps draw).rejoin = x.rejoin ∧
    (x.hear ch period ps draw).firstValid = x.firstValid ∧ (x.hear ch period ps draw).gain = x.gain ∧ (x.hear ch period ps draw).lane = x.lane := by
  unfold AfeChan.hear
  split
  · exact listen_frame _ _ _ _
  · exact ⟨rfl, rfl, rfl, rfl, rfl, rfl⟩

theorem tickSettle_frame (x : AfeChan) (hop : Nat) : (x.tickSettle hop).en = x.en ∧ (x.tickSettle hop).gain = x.gain ∧ (x.tickSettle hop).lane = x.lane := by
  unfold AfeChan.tickSettle
  split
  · exact ⟨rfl, rfl, rfl⟩
  · split <;> exact ⟨rfl, rfl, rfl⟩

theorem hop_frame (x : AfeChan) (ch : Nat) (undef : Bool) (draw : Nat) :
    (x.hop ch undef draw).en = x.en ∧ (x.hop ch undef draw).gain = x.gain ∧ (x.hop ch undef draw).lane = x.lane := by
  unfold AfeChan.hop
  dsimp only
  split
  · split <;> exact ⟨rfl, rfl, rfl⟩
  · exact ⟨rfl, rfl, rfl⟩

/-- A channel that stays enabled and settled, or whose settling runs out, gives the features of what it heard. -/
theorem hop_feat_of_settled {x : AfeChan} (hrejoin : x.rejoin = false) (hen : x.en = true) (hsettle : x.settle ≤ 1) (hop ch draw : Nat) :
    ((x.tickSettle hop).hop ch false draw).feat = x.features ch (x.firstValid || decide (x.settle = 1)) draw := by
  rcases Nat.eq_zero_or_pos x.settle with h0 | hpos
  · have htick : x.tickSettle hop = x := by
      unfold AfeChan.tickSettle
      rw [if_neg (by rw [hrejoin]; decide), if_neg (by omega)]
    have hdec : decide (x.settle = 1) = false := by rw [h0]; rfl
    rw [htick, hdec, Bool.or_false]
    unfold AfeChan.hop
    dsimp only
    rw [if_pos ⟨hen, h0⟩, if_neg Bool.false_ne_true]
  · have h1 : x.settle = 1 := by omega
    have htick : x.tickSettle hop = { x with settle := 0, firstValid := true } := by
      unfold AfeChan.tickSettle
      rw [if_neg (by rw [hrejoin]; decide), if_pos ⟨hen, by omega⟩, h1]
      rfl
    have hdec : decide (x.settle = 1) = true := by rw [h1]; rfl
    rw [htick, hdec, Bool.or_true]
    unfold AfeChan.hop
    dsimp only
    rw [if_pos ⟨hen, rfl⟩, if_neg Bool.false_ne_true]
    rfl

/-- A channel that rejoins, is disabled or goes on settling gives 0. -/
theorem hop_feat_of_unsettled {x : AfeChan} (h : x.rejoin = true ∨ x.en = false ∨ 2 ≤ x.settle) (hop ch draw : Nat) (undef : Bool) :
    ((x.tickSettle hop).hop ch undef draw).feat = List.replicate 82 0 := by
  have hnot : ¬ ((x.tickSettle hop).en = true ∧ (x.tickSettle hop).settle = 0) := by
    rintro ⟨hen, hzero⟩
    rw [(tickSettle_frame x hop).1] at hen
    unfold AfeChan.tickSettle at hzero
    split at hzero
    · dsimp only at hzero
      rw [settleHops] at hzero
      omega
    · rename_i hr
      have h2 : 2 ≤ x.settle := by
        rcases h with h | h | h
        · exact absurd h hr
        · exact absurd hen (by rw [h]; decide)
        · exact h
      split at hzero
      · dsimp only at hzero
        omega
      · omega
  unfold AfeChan.hop
  dsimp only
  exact congrArg AfeChan.feat (if_neg hnot)

theorem laneBusy_congr (hg : t.graphs = s.graphs) (he : t.evals = s.evals) (n : Nat) : t.laneBusy n = s.laneBusy n := by
  unfold State.laneBusy State.graph?
  rw [hg, he]

theorem switchLane_chan (s : State) (k n : Nat) : (s.switchLane k).chan n =
    if k = n ∧ n < s.afe.chans.length then (if s.laneBusy k then { s.chan n with switchWait := true }
      else { s.chan n with lane := (s.chan n).feat, switchWait := false }) else s.chan n := by
  unfold State.switchLane
  split
  · exact chan_updChan _ _ _ _
  · exact chan_updChan _ _ _ _

theorem switchLane_frame (s : State) (k : Nat) : s.switchLane k = { s with afe := { s.afe with chans := (s.switchLane k).afe.chans } } ∧
    (s.switchLane k).afe.chans.length = s.afe.chans.length := by
  unfold State.switchLane
  split <;> exact ⟨rfl, List.length_modify ..⟩

/-- The lanes of a list of channels switched: each of them once, the others not. -/
theorem switchLanes_spec {l : List Nat} (hl : l.Nodup) (s : State) :
    (∃ cs, l.foldl State.switchLane s = { s with afe := { s.afe with chans := cs } } ∧ cs.length = s.afe.chans.length) ∧
    ∀ n, (l.foldl State.switchLane s).chan n = if n ∈ l ∧ n < s.afe.chans.length then (if s.laneBusy n then { s.chan n with switchWait := true }
      else { s.chan n with lane := (s.chan n).feat, switchWait := false }) else s.chan n := by
  induction l generalizing s with
  | nil => exact ⟨⟨s.afe.chans, rfl, rfl⟩, fun n => (if_neg (by simp)).symm⟩
  | cons k l ih =>
    obtain ⟨hk, hl⟩ := List.nodup_cons.mp hl
    obtain ⟨hframe, hlen⟩ := switchLane_frame s k
    obtain ⟨⟨cs, hcs, hclen⟩, hchan⟩ := ih hl (s.switchLane k)
    have hbusy : ∀ n, (s.switchLane k).laneBusy n = s.laneBusy n := laneBusy_congr (by rw [hframe]) (by rw [hframe])
    refine ⟨⟨cs, ?_, hclen.trans hlen⟩, fun n => ?_⟩
    · rw [List.foldl_cons, hcs, hframe]
    · rw [List.foldl_cons, hchan, hlen, hbusy, switchLane_chan]
      by_cases hnk : k = n
      · subst hnk
        simp [hk]
      · simp [hnk, Ne.symm hnk]

/-! ### Sentinels -/

theorem sentinel_updSentinel (s : State) (k n : Nat) (f : Sentinel → Sentinel) :
    (s.updSentinel k f).sentinel n = if k = n ∧ n < s.snt.s.length then f (s.sentinel n) else s.sentinel n := by
  unfold State.updSentinel State.sentinel
  rw [List.getD_eq_getElem?_getD, List.getD_eq_getElem?_getD, List.getElem?_modify]
  by_cases hn : n < s.snt.s.length
  · rw [List.getElem?_eq_getElem hn]
    by_cases hk : k = n
    · simp [hk, hn]
    · simp [hk]
  · rw [List.getElem?_eq_none (by omega)]
    simp [hn]

theorem sentinelIrq_hop (s : State) : Agrees State.hopView s s.sentinelIrq :=
  Agrees.ite ((devVec_report s 1).agrees (view := State.hopView)) rfl

theorem sentinelIrq_snt (s : State) : s.sentinelIrq.snt = { s.snt with irqWait := s.sentinelIrq.snt.irqWait } := by
  unfold State.sentinelIrq
  split
  · rw [(devVec_report s 1).snt_eq]
  · rfl

/-- The report ring with one report more. -/
def Snt.withReport (z : Snt) (r : BitVec 128) : Snt :=
  { z with rpt := z.rpt.set (z.wr.toNat % 64) r, wr := z.wr + 1
           rd := if decide (64 ≤ (z.wr - z.rd).toNat) then z.rd + 1 else z.rd
           lost := if decide (64 ≤ (z.wr - z.rd).toNat) then satInc 0xFFFF z.lost else z.lost }

/-- A report stands in the ring, and may interrupt. -/
theorem putReport_cases (s : State) (r : BitVec 128) : s.putReport r = { s with snt := s.snt.withReport r } ∨
    s.putReport r = ({ s with snt := s.snt.withReport r } : State).sentinelIrq := by
  unfold State.putReport
  exact (ite_eq_or_eq _ _ _).symm

theorem putReport_hop (s : State) (r : BitVec 128) : Agrees State.hopView s (s.putReport r) := by
  rcases putReport_cases s r with h | h
  · rw [h]
    rfl
  · rw [h]
    exact Agrees.trans (t := { s with snt := s.snt.withReport r }) rfl (sentinelIrq_hop _)

theorem putReport_snt (s : State) (r : BitVec 128) : ∃ irq, (s.putReport r).snt = { s.snt.withReport r with irqWait := irq } := by
  rcases putReport_cases s r with h | h
  · exact ⟨s.snt.irqWait, by rw [h]; rfl⟩
  · exact ⟨_, by rw [h]; exact sentinelIrq_snt _⟩

/-- The entry bit of sentinel n set, with the report that woke. -/
def Snt.withEntry (z : Snt) (n : Nat) (r : BitVec 128) : Snt :=
  { z with entry := setBit z.entry n true, s := z.s.modify n (fun x => { x with wakeRpt := r }) }

/-- An entry edge changes SNT, and it may wake the host or the device. -/
theorem entryEdge_cases (s : State) (n : Nat) (r : BitVec 128) :
    ∃ pins pwr, s.entryEdge n r = ({ s with snt := s.snt.withEntry n r, pins := pins, pwr := pwr } : State).sentinelIrq := by
  obtain ⟨v, hv⟩ : ∃ v : State, v = { s with snt := s.snt.withEntry n r } := ⟨_, rfl⟩
  have hwake : ∀ (c : Prop) [Decidable c], ∃ pins, (if c then ({ v with pins := { v.pins with wakeLow := true } } : State) else v) = { v with pins := pins } := by
    intro c _
    split
    · exact ⟨_, rfl⟩
    · exact ⟨v.pins, rfl⟩
  have hedge : s.entryEdge n r = (if s.mainLive ∧ (s.pwr.dev = .doze ∨ s.pwr.dozeEntering) ∧ (s.sentinel n).rule.wakeDev then
      (if s.pwr.dev = .sentry ∧ s.pwr.start.isNone ∧ (s.sentinel n).rule.wakeHost then ({ v with pins := { v.pins with wakeLow := true } } : State) else v).touch
      else (if s.pwr.dev = .sentry ∧ s.pwr.start.isNone ∧ (s.sentinel n).rule.wakeHost then ({ v with pins := { v.pins with wakeLow := true } } : State) else v)
      : State).sentinelIrq := by
    rw [hv]
    rfl
  obtain ⟨pins, hp⟩ := hwake (s.pwr.dev = .sentry ∧ s.pwr.start.isNone ∧ (s.sentinel n).rule.wakeHost)
  rw [hp] at hedge
  rw [hedge]
  split
  · refine ⟨pins, ({ v with pins := pins } : State).touch.pwr, ?_⟩
    rw [State.touch_eq_pwr, hv]
  · exact ⟨pins, s.pwr, by rw [hv]⟩

theorem entryEdge_hop (s : State) (n : Nat) (r : BitVec 128) : Agrees State.hopView s (s.entryEdge n r) := by
  obtain ⟨pins, pwr, h⟩ := entryEdge_cases s n r
  rw [h]
  exact Agrees.trans (t := { s with snt := s.snt.withEntry n r, pins := pins, pwr := pwr }) rfl (sentinelIrq_hop _)

theorem entryEdge_snt (s : State) (n : Nat) (r : BitVec 128) : ∃ irq, (s.entryEdge n r).snt = { s.snt.withEntry n r with irqWait := irq } := by
  obtain ⟨pins, pwr, h⟩ := entryEdge_cases s n r
  exact ⟨_, by rw [h]; exact sentinelIrq_snt _⟩

/-- What an armed sentinel makes of a hop. -/
def State.sentinelOut (s : State) (n : Nat) (refs : List Int) : SntOut :=
  (s.sentinel n).evaluate (s.sntRead n (s.sentinel n) (s.chan n).feat (s.free + 1)) refs (decide ((s.chan n).settle ≠ 0)) s.free

/-- The sentinel that an evaluation leaves, but for the report of its last entry edge. -/
def SntOut.next (o : SntOut) : Sentinel := { o.st with seq := if o.reports then (o.st.seq + 1) % 256 else o.st.seq }

theorem sentinelHop_of_disarmed {n : Nat} (h : (s.sentinel n).armed = false) (refs : List Int) : s.sentinelHop n refs = s := by
  unfold State.sentinelHop
  dsimp only
  exact if_pos (by rw [h]; rfl)

/-- The report of the hop. -/
def State.hopReport (s : State) (n : Nat) (refs : List Int) : BitVec 128 :=
  (s.sentinelOut n refs).report n s.afe.hopCnt (s.tmr.uptime + 250)

/-- Sentinel n as its evaluation leaves it, before the report and the actions. -/
def State.evaluated (s : State) (n : Nat) (refs : List Int) : State :=
  ({ s with free := s.free + 512 } : State).updSentinel n (fun _ => (s.sentinelOut n refs).next)

theorem sentinelHop_of_armed {n : Nat} (h : (s.sentinel n).armed = true) (refs : List Int) : s.sentinelHop n refs =
    (let s2 := if (s.sentinelOut n refs).reports then (s.evaluated n refs).putReport (s.hopReport n refs) else s.evaluated n refs
     if (s.sentinelOut n refs).entry then s2.entryEdge n (s.hopReport n refs) else s2) := by
  unfold State.sentinelHop
  dsimp only
  rw [if_neg (by rw [h]; decide)]
  rfl

theorem sentinelHop_hop (s : State) (n : Nat) (refs : List Int) : Agrees State.hopView s (s.sentinelHop n refs) := by
  cases h : (s.sentinel n).armed with
  | false =>
    rw [sentinelHop_of_disarmed h]
    exact .refl s
  | true =>
    rw [sentinelHop_of_armed h]
    have hput : Agrees State.hopView s (if (s.sentinelOut n refs).reports then (s.evaluated n refs).putReport (s.hopReport n refs)
        else s.evaluated n refs) := .ite (Agrees.trans (t := s.evaluated n refs) rfl (putReport_hop _ _)) rfl
    exact .ite (hput.trans (entryEdge_hop _ _ _)) hput

/-- SNT after an armed sentinel has evaluated: its own state, the entry bits and the report ring. -/
theorem sentinelHop_snt {n : Nat} (h : (s.sentinel n).armed = true) (refs : List Int) :
    ∃ wake irq, (s.sentinelHop n refs).snt = { (if (s.sentinelOut n refs).reports then s.snt.withReport (s.hopReport n refs) else s.snt) with
      s := s.snt.s.modify n (fun _ => { (s.sentinelOut n refs).next with wakeRpt := wake })
      entry := if (s.sentinelOut n refs).entry then setBit s.snt.entry n true else s.snt.entry
      irqWait := irq } := by
  rw [sentinelHop_of_armed h]
  dsimp only
  obtain ⟨v, hv⟩ : ∃ v, v = (if (s.sentinelOut n refs).reports then (s.evaluated n refs).putReport (s.hopReport n refs) else s.evaluated n refs) := ⟨_, rfl⟩
  have hsnt : ∃ irq, v.snt = { (if (s.sentinelOut n refs).reports then s.snt.withReport (s.hopReport n refs) else s.snt) with
      s := s.snt.s.modify n (fun _ => (s.sentinelOut n refs).next), irqWait := irq } := by
    rw [hv]
    split
    · obtain ⟨irq, hi⟩ := putReport_snt (s.evaluated n refs) (s.hopReport n refs)
      exact ⟨irq, hi⟩
    · exact ⟨s.snt.irqWait, rfl⟩
  obtain ⟨irq, hsnt⟩ := hsnt
  rw [← hv]
  have hentry : ∀ z : Snt, (if (s.sentinelOut n refs).reports then z.withReport (s.hopReport n refs) else z).entry = z.entry := fun z => by
    split <;> rfl
  split
  · obtain ⟨irq', hi⟩ := entryEdge_snt v n (s.hopReport n refs)
    refine ⟨s.hopReport n refs, irq', ?_⟩
    rw [hi, hsnt]
    unfold Snt.withEntry
    dsimp only
    rw [hentry, List.modify_modify_eq]
    rfl
  · refine ⟨(s.sentinelOut n refs).next.wakeRpt, irq, ?_⟩
    rw [hsnt]
    refine congrArg (fun e => ({ (if (s.sentinelOut n refs).reports then s.snt.withReport (s.hopReport n refs) else s.snt) with
      s := s.snt.s.modify n (fun _ => (s.sentinelOut n refs).next), entry := e, irqWait := irq } : Snt)) ?_
    exact hentry s.snt

/-- The evaluation of one sentinel leaves the others. -/
theorem sentinelHop_other {k n : Nat} (hkn : k ≠ n) (hn : n < 16) (refs : List Int) :
    (s.sentinelHop k refs).sentinel n = s.sentinel n ∧ (s.sentinelHop k refs).snt.entry.getLsbD n = s.snt.entry.getLsbD n := by
  cases h : (s.sentinel k).armed with
  | false => exact ⟨by rw [sentinelHop_of_disarmed h], by rw [sentinelHop_of_disarmed h]⟩
  | true =>
    obtain ⟨wake, irq, hs⟩ := sentinelHop_snt h refs
    refine ⟨?_, ?_⟩
    · rw [State.sentinel, hs]
      have hupd := sentinel_updSentinel s k n (fun _ => { (s.sentinelOut k refs).next with wakeRpt := wake })
      rw [if_neg (fun hh => hkn hh.1)] at hupd
      exact hupd
    · rw [hs]
      dsimp only
      split
      · rw [getLsbD_setBit _ _ _ hn, if_neg (Ne.symm hkn)]
      · rfl

theorem sentinelHops_hop (l : List (Nat × List Int)) (s : State) : Agrees State.hopView s (l.foldl (fun t x => t.sentinelHop x.1 x.2) s) :=
  Agrees.foldl (.refl s) fun u x _ => sentinelHop_hop u x.1 x.2

/-- Hops of other sentinels leave one. -/
theorem sentinelHops_others {n : Nat} (hn : n < 16) {l : List (Nat × List Int)} (hl : ∀ p ∈ l, p.1 ≠ n) (s : State) :
    (l.foldl (fun t x => t.sentinelHop x.1 x.2) s).sentinel n = s.sentinel n ∧
    (l.foldl (fun t x => t.sentinelHop x.1 x.2) s).snt.entry.getLsbD n = s.snt.entry.getLsbD n := by
  induction l generalizing s with
  | nil => exact ⟨rfl, rfl⟩
  | cons p l ih =>
    obtain ⟨h1, h2⟩ := sentinelHop_other (s := s) (hl p (List.mem_cons_self ..)) hn p.2
    obtain ⟨k1, k2⟩ := ih (fun q hq => hl q (List.mem_cons_of_mem _ hq)) (s.sentinelHop p.1 p.2)
    exact ⟨k1.trans h1, k2.trans h2⟩

/-- Sentinels that are not armed do nothing in a hop. -/
theorem sentinelHops_disarmed {l : List (Nat × List Int)} (hl : ∀ p ∈ l, (s.sentinel p.1).armed = false) :
    l.foldl (fun t x => t.sentinelHop x.1 x.2) s = s := by
  induction l with
  | nil => rfl
  | cons p l ih =>
    rw [List.foldl_cons, sentinelHop_of_disarmed (hl p (List.mem_cons_self ..))]
    exact ih fun q hq => hl q (List.mem_cons_of_mem _ hq)

/-- All sentinels' hops, as one of them sees them. -/
theorem sentinelHops_spec {refs : List (List Int)} {n : Nat} {h : List Int} (hn : n < 16) (href : refs[n]? = some h) (s : State) :
    ∃ u, u.hopView = s.hopView ∧ u.sentinel n = s.sentinel n ∧ u.snt.entry.getLsbD n = s.snt.entry.getLsbD n ∧
      (((refs.mapIdx (fun n h => (n, h))).foldl (fun t x => t.sentinelHop x.1 x.2) s).sentinel n = (u.sentinelHop n h).sentinel n ∧
        ((refs.mapIdx (fun n h => (n, h))).foldl (fun t x => t.sentinelHop x.1 x.2) s).snt.entry.getLsbD n = (u.sentinelHop n h).snt.entry.getLsbD n) ∧
      ((∀ k, k ≠ n → (s.sentinel k).armed = false) → u = s ∧
        (refs.mapIdx (fun n h => (n, h))).foldl (fun t x => t.sentinelHop x.1 x.2) s = u.sentinelHop n h) := by
  obtain ⟨a, b, hab, ha, hb⟩ := mapIdx_split href
  rw [hab, List.foldl_append, List.foldl_cons]
  obtain ⟨u, hu⟩ : ∃ u, u = a.foldl (fun t x => State.sentinelHop t x.1 x.2) s := ⟨_, rfl⟩
  have hview : u.hopView = s.hopView := hu ▸ sentinelHops_hop a s
  obtain ⟨h1, h2⟩ := hu ▸ sentinelHops_others hn ha s
  rw [← hu]
  refine ⟨u, hview, h1, h2, sentinelHops_others hn hb _, fun hall => ?_⟩
  have hus : u = s := hu.trans (sentinelHops_disarmed fun p hp => hall p.1 (ha p hp))
  refine ⟨hus, sentinelHops_disarmed fun p hp => ?_⟩
  have hsnt : (u.sentinelHop n h).sentinel p.1 = u.sentinel p.1 := by
    cases harm : (u.sentinel n).armed with
    | false => rw [sentinelHop_of_disarmed harm]
    | true =>
      obtain ⟨wake, irq, hs⟩ := sentinelHop_snt harm h
      rw [State.sentinel, hs]
      have hupd := sentinel_updSentinel u n p.1 (fun _ => { (u.sentinelOut n h).next with wakeRpt := wake })
      rw [if_neg (fun hh => hb p hp hh.1.symm)] at hupd
      exact hupd
  rw [hsnt, hus]
  exact hall p.1 (hb p hp)

/-! ### The boundary -/

/-- The hop that ends has been heard, and each channel's settling has run one hop further. -/
def State.heard (s : State) (chans : List (List MicPiece)) : State :=
  let s0 := s.hearHop chans
  { s0 with afe := { s0.afe with hopAt := some s.tmr.uptime, chans := s0.afe.chans.map (fun x => x.tickSettle s0.afe.hop) } }

/-- The settings that are due have taken effect, and the features have formed and entered their lanes. -/
def State.hopFormed (s : State) (chans : List (List MicPiece)) : State :=
  (List.range 16).foldl State.switchLane ((s.heard chans).applyAfe.applySentinels.formFeatures s.afe.period chans)

theorem exec_hopBoundary_of_due {chans : List (List MicPiece)} {refs : List (List Int)} (hwf : hopWf chans refs = true) (hdue : s.hopDue = true) :
    exec (.hopBoundary chans refs) s =
      .next ((refs.mapIdx (fun n h => (n, h))).foldl (fun t x => t.sentinelHop x.1 x.2) (s.hopFormed chans)) := by
  have hgo : exec (.hopBoundary chans refs) s = execHopBoundary chans refs s := rfl
  rw [hgo]
  unfold execHopBoundary
  rw [if_neg (by rw [hwf]; decide), if_neg (by rw [hdue]; decide)]
  rfl

theorem exec_hopBoundary_of_not_due {chans : List (List MicPiece)} {refs : List (List Int)} (hwf : hopWf chans refs = true) (hdue : s.hopDue = false) :
    exec (.hopBoundary chans refs) s = .next s := by
  have hgo : exec (.hopBoundary chans refs) s = execHopBoundary chans refs s := rfl
  rw [hgo]
  unfold execHopBoundary
  rw [if_neg (by rw [hwf]; decide), if_pos (by rw [hdue]; rfl)]

/-- Everything but the ledger and the sentinels. -/
def State.sansSnt (s : State) : State := { s.sansLedger with snt := Snt.initial }

theorem applySentinels_agrees (s : State) : Agrees State.sansSnt s s.applySentinels := by
  unfold State.applySentinels
  refine Agrees.foldl (.refl s) fun u n _ => ?_
  split
  · exact .refl u
  · rename_i p _
    exact Agrees.trans (t := ({ u with snt := { u.snt with pend := u.snt.pend.erase p } } : State).updSentinel n (fun x => x.apply p.rule)) rfl
      ((finish_ledger _ _ _).agrees (view := State.sansSnt))

/-- With no arming or disarming that waits, the sentinels stay. -/
theorem applySentinels_of_none (h : s.snt.pend = []) : s.applySentinels = s := by
  unfold State.applySentinels
  have hstep : ∀ l : List Nat, l.foldl (fun (t : State) n => match t.snt.pend.find? (fun p => p.chan == n) with
      | none => t
      | some p => ((({ t with snt := { t.snt with pend := t.snt.pend.erase p } }).updSentinel n (fun x => x.apply p.rule)).finish p.cid endDone)) s = s := by
    intro l
    induction l with
    | nil => rfl
    | cons k l ih =>
      rw [List.foldl_cons, h]
      exact ih
  exact hstep _

/-- With no AFE_CONFIG that waits, the settings stay. -/
theorem applyAfe_of_none (h : s.afe.pend = []) : s.applyAfe = s := by
  unfold State.applyAfe
  rw [h, List.filter_nil, List.filter_nil, List.foldl_nil, ← h]

/-- A command that is gone stays gone as others end. -/
theorem gone_of_books {c : Nat} (h : Books s t) (hs : ∀ x ∈ s.cmds, x.cid ≠ c) : ∀ x ∈ t.cmds, x.cid ≠ c := by
  intro y hy
  obtain ⟨x, hx, hxy⟩ := h.cmds y hy
  rw [hxy]
  exact hs x hx

theorem cmd?_eq_none_iff {c : Nat} : s.cmd? c = none ↔ ∀ x ∈ s.cmds, x.cid ≠ c := by
  rw [State.cmd?, List.find?_eq_none]
  simp

theorem applySentinels_gone {c : Nat} (h : ∀ x ∈ s.cmds, x.cid ≠ c) : ∀ x ∈ s.applySentinels.cmds, x.cid ≠ c := by
  unfold State.applySentinels
  generalize List.range 16 = l
  induction l generalizing s with
  | nil => exact h
  | cons k l ih =>
    rw [List.foldl_cons]
    refine ih ?_
    split
    · exact h
    · exact gone_of_books (finish_books _ _ _) h

theorem sentinelHop_cmds (s : State) (n : Nat) (refs : List Int) : (s.sentinelHop n refs).cmds = s.cmds := by
  have hirq : ∀ v : State, v.sentinelIrq.cmds = v.cmds := fun v => by
    unfold State.sentinelIrq
    split
    · exact (devVec_report v 1).cmds_eq
    · rfl
  have hput : ∀ (v : State) r, (v.putReport r).cmds = v.cmds := fun v r => by
    rcases putReport_cases v r with h | h
    · rw [h]
    · rw [h, hirq]
  have hedge : ∀ (v : State) r, (v.entryEdge n r).cmds = v.cmds := fun v r => by
    obtain ⟨pins, pwr, h⟩ := entryEdge_cases v n r
    rw [h, hirq]
  cases h : (s.sentinel n).armed with
  | false => rw [sentinelHop_of_disarmed h]
  | true =>
    rw [sentinelHop_of_armed h]
    have hbase : (if (s.sentinelOut n refs).reports then (s.evaluated n refs).putReport (s.hopReport n refs) else s.evaluated n refs).cmds = s.cmds := by
      split
      · rw [hput]
        rfl
      · rfl
    dsimp only
    split
    · rw [hedge, hbase]
    · exact hbase

theorem sentinelHops_cmds (l : List (Nat × List Int)) (s : State) : (l.foldl (fun t x => t.sentinelHop x.1 x.2) s).cmds = s.cmds := by
  induction l generalizing s with
  | nil => rfl
  | cons p l ih => exact (ih _).trans (sentinelHop_cmds s p.1 p.2)

/-- Channel n when it has heard the hop. -/
theorem heard_chan {chans : List (List MicPiece)} {n : Nat} {x : AfeChan} {ps : List MicPiece} (hx : s.afe.chans[n]? = some x) (hps : chans[n]? = some ps) :
    (s.heard chans).afe.chans[n]? = some ((x.hear n s.afe.period ps (s.free + n * hopDraws chans)).tickSettle s.afe.hop) := by
  have hzip : (List.zip s.afe.chans chans)[n]? = some (x, ps) := List.getElem?_zip_eq_some.mpr ⟨hx, hps⟩
  unfold State.heard State.hearHop
  simp only [List.getElem?_map, List.getElem?_mapIdx, hzip, Option.map_some]

/-- A channel as its lane takes its features, or waits to. -/
def AfeChan.switched (y : AfeChan) (busy : Bool) : AfeChan :=
  if busy then { y with switchWait := true } else { y with lane := y.feat, switchWait := false }

/-- The boundary after its settings have taken effect: the hop is counted, and each channel forms its features. -/
theorem hopFormed_spec {chans : List (List MicPiece)} {w : State} (hw : (s.heard chans).applyAfe.applySentinels = w) :
    (∃ cs, s.hopFormed chans = { w with afe := { w.afe with hopCnt := w.afe.hopCnt + 1, chans := cs }, free := w.free + 2048 }) ∧
    ∀ n y ps, n < 16 → w.afe.chans[n]? = some y → chans[n]? = some ps →
      (s.hopFormed chans).chan n = (y.hop n (undefinedAt s.afe.period ps) (w.free + 128 * n)).switched (w.laneBusy n) := by
  obtain ⟨v, hv⟩ : ∃ v, v = w.formFeatures s.afe.period chans := ⟨_, rfl⟩
  have hform : s.hopFormed chans = (List.range 16).foldl State.switchLane v := by
    unfold State.hopFormed
    rw [hw, hv]
  obtain ⟨⟨cs, hcs, -⟩, hchan⟩ := switchLanes_spec (List.nodup_range (n := 16)) v
  rw [← hform] at hcs hchan
  refine ⟨⟨cs, ?_⟩, fun n y ps hn hy hps => ?_⟩
  · rw [hcs, hv]
    rfl
  · have hzip : (List.zip w.afe.chans chans)[n]? = some (y, ps) := List.getElem?_zip_eq_some.mpr ⟨hy, hps⟩
    have hvn : v.afe.chans[n]? = some (y.hop n (undefinedAt s.afe.period ps) (w.free + 128 * n)) := by
      rw [hv]
      unfold State.formFeatures
      simp only [List.getElem?_mapIdx, hzip, Option.map_some]
    have hget : v.chan n = y.hop n (undefinedAt s.afe.period ps) (w.free + 128 * n) := by
      rw [State.chan, List.getD_eq_getElem?_getD, hvn]
      rfl
    have hbusy : v.laneBusy n = w.laneBusy n := laneBusy_congr (by rw [hv]; rfl) (by rw [hv]; rfl) n
    rw [hchan, if_pos ⟨List.mem_range.mpr hn, (List.getElem?_eq_some_iff.mp hvn).1⟩, hget, hbusy]
    rfl

/-- What the sentinels leave at the end of the boundary. -/
theorem boundary_hopView {chans : List (List MicPiece)} {w : State} (hw : (s.heard chans).applyAfe.applySentinels = w) (refs : List (List Int))
    (ht : t = (refs.mapIdx (fun n h => (n, h))).foldl (fun t x => t.sentinelHop x.1 x.2) (s.hopFormed chans)) :
    (∃ cs, t.afe = { w.afe with hopCnt := w.afe.hopCnt + 1, chans := cs }) ∧ t.weights = w.weights ∧ t.cistern = w.cistern ∧ t.graphs = w.graphs ∧
      t.tmr = w.tmr ∧ t.cmds = w.cmds ∧ (∀ n, t.chan n = (s.hopFormed chans).chan n) := by
  obtain ⟨⟨cs, hcs⟩, -⟩ := hopFormed_spec hw
  have hview := sentinelHops_hop (refs.mapIdx (fun n h => (n, h))) (s.hopFormed chans)
  have hcmds := sentinelHops_cmds (refs.mapIdx (fun n h => (n, h))) (s.hopFormed chans)
  rw [← ht] at hview hcmds
  generalize s.hopFormed chans = f at hcs hview hcmds ⊢
  simp only [Agrees, State.hopView, Prod.mk.injEq] at hview
  obtain ⟨h0, h1, h2, h3, -, h5⟩ := hview
  refine ⟨⟨cs, ?_⟩, ?_, ?_, ?_, ?_, ?_, fun n => congrArg (fun a : Afe => a.chans.getD n AfeChan.initial) h0⟩
  · rw [h0, hcs]
  · rw [h1, hcs]
  · rw [h2, hcs]
  · rw [h3, hcs]
  · rw [h5, hcs]
  · rw [hcmds, hcs]

theorem applySentinels_hopView (s : State) : s.applySentinels.hopView = s.hopView :=
  (applySentinels_agrees s).of (g := State.hopView) ⟨State.hopView, fun _ => rfl⟩

theorem applySentinels_afe (s : State) : s.applySentinels.afe = s.afe := by
  have h := applySentinels_hopView s
  simp only [State.hopView, Prod.mk.injEq] at h
  exact h.1

/-- A boundary with no AFE_CONFIG that waits. -/
theorem hopBoundary_plain {chans : List (List MicPiece)} {refs : List (List Int)} (hwf : hopWf chans refs = true) (hdue : s.hopDue = true)
    (hpend : s.afe.pend = []) :
    Yields (.hopBoundary chans refs) s (fun t => t.afe.hopCnt = s.afe.hopCnt + 1 ∧
      t.afe.hop = s.afe.hop ∧ t.afe.gridAt = s.afe.gridAt ∧ t.hopDue = false ∧ t.weights = s.weights ∧ t.cistern = s.cistern ∧
      t.graphs = s.graphs ∧
      ∀ (n : Nat) (x : AfeChan) (ps : List MicPiece), s.afe.chans[n]? = some x → chans[n]? = some ps →
        (x.rejoin = false → x.en = true → x.settle ≤ 1 → undefinedAt s.afe.period ps = false →
          ∃ draw, (t.chan n).feat = (x.hear n s.afe.period ps (s.free + n * hopDraws chans)).features n
            (x.firstValid || decide (x.settle = 1)) draw) ∧
        (x.rejoin = true ∨ x.en = false ∨ 2 ≤ x.settle → (t.chan n).feat = List.replicate 82 0) ∧
        (s.laneBusy n = false → (t.chan n).lane = (t.chan n).feat ∧ (t.chan n).switchWait = false) ∧
        (s.laneBusy n = true → (t.chan n).lane = x.lane ∧ (t.chan n).switchWait = true)) := by
  have happly : (s.heard chans).applyAfe = s.heard chans := applyAfe_of_none hpend
  obtain ⟨w, hw⟩ : ∃ w, (s.heard chans).applyAfe.applySentinels = w := ⟨_, rfl⟩
  have hview : w.hopView = (s.heard chans).hopView := by
    rw [← hw, happly]
    exact applySentinels_hopView _
  simp only [State.hopView, Prod.mk.injEq] at hview
  obtain ⟨hafe, hweights, hcistern, hgraphs, hevals, htmr⟩ := hview
  obtain ⟨t, ht⟩ : ∃ t, t = (refs.mapIdx (fun n h => (n, h))).foldl (fun t x => t.sentinelHop x.1 x.2) (s.hopFormed chans) := ⟨_, rfl⟩
  obtain ⟨⟨cs, htafe⟩, h1, h2, h3, h4, -, hchan⟩ := boundary_hopView hw refs ht
  refine ⟨t, (exec_hopBoundary_of_due hwf hdue).trans (congrArg Host.Outcome.next ht.symm), ?_, ?_, ?_, ?_, h1.trans hweights, h2.trans hcistern,
    h3.trans hgraphs, fun n x ps hx hps => ?_⟩
  · rw [htafe, hafe]
    rfl
  · rw [htafe, hafe]
    rfl
  · rw [htafe, hafe]
    rfl
  · unfold State.hopDue
    rw [htafe, hafe, h4, htmr]
    simp [State.heard, State.hearHop]
  · have hn : n < 16 := by
      have hlen : chans.length = 16 := by
        simp only [hopWf, Bool.and_eq_true, beq_iff_eq] at hwf
        exact hwf.1.1
      rw [← hlen]
      exact (List.getElem?_eq_some_iff.mp hps).1
    have hbusy : w.laneBusy n = s.laneBusy n := laneBusy_congr hgraphs hevals n
    have hformed := (hopFormed_spec hw).2 n _ ps hn (by rw [hafe]; exact heard_chan hx hps) hps
    obtain ⟨hen, hsettle, hrejoin, hfirst, -, hlane⟩ := hear_frame x n s.afe.period ps (s.free + n * hopDraws chans)
    generalize x.hear n s.afe.period ps (s.free + n * hopDraws chans) = y at hformed hen hsettle hrejoin hfirst hlane ⊢
    rw [hbusy] at hformed
    have hfeat : (t.chan n).feat = ((y.tickSettle s.afe.hop).hop n (undefinedAt s.afe.period ps) (w.free + 128 * n)).feat := by
      rw [hchan, hformed, AfeChan.switched]
      split <;> rfl
    refine ⟨fun h1 h2 h3 h4 => ⟨w.free + 128 * n, ?_⟩, fun h => ?_, fun h => ?_, fun h => ?_⟩
    · rw [hfeat, h4, ← hfirst, ← hsettle]
      exact hop_feat_of_settled (hrejoin.trans h1) (hen.trans h2) (hsettle ▸ h3) _ _ _
    · rw [hfeat]
      exact hop_feat_of_unsettled (by rw [hrejoin, hen, hsettle]; exact h) _ _ _ _
    · rw [hfeat, hchan, hformed, h]
      exact ⟨rfl, rfl⟩
    · rw [hchan, hformed, h]
      refine ⟨?_, rfl⟩
      exact ((hop_frame _ _ _ _).2.2.trans (tickSettle_frame _ _).2.2).trans hlane

/-- A boundary with one AFE_CONFIG that is due. -/
theorem hopBoundary_due {chans : List (List MicPiece)} {refs : List (List Int)} (hwf : hopWf chans refs = true) (hdue : s.hopDue = true)
    {q : AfePend} {c : Cmd} (hpend : s.afe.pend = [q]) (hc : s.cmd? q.cid = some c) (hmir : c.mir = []) (hq : q.notBefore ≤ s.tmr.uptime) :
    Yields (.hopBoundary chans refs) s (fun t => t.afe.pend = [] ∧ t.cmd? q.cid = none ∧
      t.afe.hop = (if q.cfg.hopValid = true then q.cfg.hop else s.afe.hop) ∧
      t.afe.gridAt = (if t.afe.hop = s.afe.hop then s.afe.gridAt else s.tmr.uptime) ∧
      ∀ (n : Nat) (x : AfeChan), s.afe.chans[n]? = some x → n < 16 →
        (t.chan n).en = (if q.cfg.chMask.getLsbD n = true then q.cfg.chEn.getLsbD n else x.en) ∧
        (t.chan n).gain = (if q.cfg.chMask.getLsbD n = true then q.cfg.gain.getD n 0 else x.gain)) := by
  obtain ⟨v, hv⟩ : ∃ v : State, v = { s.heard chans with afe := ({ (s.heard chans).afe with pend := [] } : Afe).apply q.cfg s.tmr.uptime } := ⟨_, rfl⟩
  have happly : (s.heard chans).applyAfe = v.finish q.cid endDone := by
    unfold State.applyAfe
    have h1 : (s.heard chans).afe.pend.filter (fun p => decide (p.notBefore ≤ (s.heard chans).tmr.uptime)) = [q] := by
      rw [show (s.heard chans).afe.pend = [q] from hpend, show (s.heard chans).tmr.uptime = s.tmr.uptime from rfl]
      exact List.filter_cons_of_pos (decide_eq_true hq)
    have h2 : (s.heard chans).afe.pend.filter (fun p => decide ((s.heard chans).tmr.uptime < p.notBefore)) = [] := by
      rw [show (s.heard chans).afe.pend = [q] from hpend, show (s.heard chans).tmr.uptime = s.tmr.uptime from rfl]
      exact List.filter_cons_of_neg (by simpa using hq)
    rw [h1, h2, hv]
    rfl
  have hgone : ∀ x ∈ (v.finish q.cid endDone).cmds, x.cid ≠ q.cid := by
    have hcid : c.cid = q.cid := cmd?_cid hc
    rw [← hcid] at hc ⊢
    exact cmd?_eq_none_iff.mp (finish_gone (s := v) (by rw [hv]; exact hc) hmir endDone)
  obtain ⟨w, hw⟩ : ∃ w, (s.heard chans).applyAfe.applySentinels = w := ⟨_, rfl⟩
  have hafe : w.afe = v.afe := by
    rw [← hw, applySentinels_afe, happly]
    exact (finish_ledger _ _ _).afe_eq
  obtain ⟨t, ht⟩ : ∃ t, t = (refs.mapIdx (fun n h => (n, h))).foldl (fun t x => t.sentinelHop x.1 x.2) (s.hopFormed chans) := ⟨_, rfl⟩
  obtain ⟨⟨cs, htafe⟩, -, -, -, -, hcmds, hchan⟩ := boundary_hopView hw refs ht
  have hhop : t.afe.hop = if q.cfg.hopValid = true then q.cfg.hop else s.afe.hop := by
    rw [htafe, hafe, hv]
    rfl
  refine ⟨t, (exec_hopBoundary_of_due hwf hdue).trans (congrArg Host.Outcome.next ht.symm), ?_, ?_, hhop, ?_, fun n x hx hn => ?_⟩
  · rw [htafe, hafe, hv]
    rfl
  · rw [cmd?_eq_none_iff, hcmds, ← hw, happly]
    exact applySentinels_gone hgone
  · rw [hhop, htafe, hafe, hv]
    rfl
  · have hlen : chans.length = 16 := by
      simp only [hopWf, Bool.and_eq_true, beq_iff_eq] at hwf
      exact hwf.1.1
    obtain ⟨ps, hps⟩ : ∃ ps, chans[n]? = some ps := ⟨_, List.getElem?_eq_getElem (by omega)⟩
    obtain ⟨hen, -, -, -, hgain, -⟩ := hear_frame x n s.afe.period ps (s.free + n * hopDraws chans)
    have hheard := heard_chan hx hps
    generalize x.hear n s.afe.period ps (s.free + n * hopDraws chans) = y at hheard hen hgain
    obtain ⟨ten, tgain, -⟩ := tickSettle_frame y s.afe.hop
    have hwn : w.afe.chans[n]? = some (q.cfg.applyChan (if q.cfg.hopValid then q.cfg.hop else s.afe.hop) n (y.tickSettle s.afe.hop)) := by
      rw [hafe, hv]
      unfold Afe.apply
      simp only [List.getElem?_mapIdx, hheard, Option.map_some]
      rfl
    have hformed := (hopFormed_spec hw).2 n _ ps hn hwn hps
    have happ : ∀ hop, (q.cfg.applyChan hop n (y.tickSettle s.afe.hop)).en = (if q.cfg.chMask.getLsbD n = true then q.cfg.chEn.getLsbD n else x.en) ∧
        (q.cfg.applyChan hop n (y.tickSettle s.afe.hop)).gain = (if q.cfg.chMask.getLsbD n = true then q.cfg.gain.getD n 0 else x.gain) := fun hop => by
      unfold AfeCfg.applyChan
      cases q.cfg.chMask.getLsbD n with
      | false => exact ⟨ten.trans hen, tgain.trans hgain⟩
      | true => exact ⟨rfl, rfl⟩
    have hsw : ∀ (z : AfeChan) b, (z.switched b).en = z.en ∧ (z.switched b).gain = z.gain := fun z b => by cases b <;> exact ⟨rfl, rfl⟩
    rw [hchan, hformed, (hsw _ _).1, (hsw _ _).2, (hop_frame _ _ _ _).1, (hop_frame _ _ _ _).2.1]
    exact happ _

theorem hopBoundary_early {chans : List (List MicPiece)} {refs : List (List Int)} (hwf : hopWf chans refs = true) (hdue : s.hopDue = true)
    {q : AfePend} (hpend : s.afe.pend = [q]) (hq : s.tmr.uptime < q.notBefore) :
    Yields (.hopBoundary chans refs) s (fun t => t.afe.pend = [q] ∧ t.afe.hop = s.afe.hop) := by
  have happly : (s.heard chans).applyAfe = s.heard chans := by
    unfold State.applyAfe
    have h1 : (s.heard chans).afe.pend.filter (fun p => decide (p.notBefore ≤ (s.heard chans).tmr.uptime)) = [] := by
      rw [show (s.heard chans).afe.pend = [q] from hpend, show (s.heard chans).tmr.uptime = s.tmr.uptime from rfl]
      exact List.filter_cons_of_neg (by simpa using hq)
    have h2 : (s.heard chans).afe.pend.filter (fun p => decide ((s.heard chans).tmr.uptime < p.notBefore)) = (s.heard chans).afe.pend := by
      rw [show (s.heard chans).afe.pend = [q] from hpend, show (s.heard chans).tmr.uptime = s.tmr.uptime from rfl]
      exact List.filter_cons_of_pos (decide_eq_true hq)
    rw [h1, h2]
    rfl
  obtain ⟨w, hw⟩ : ∃ w, (s.heard chans).applyAfe.applySentinels = w := ⟨_, rfl⟩
  have hafe : w.afe = (s.heard chans).afe := by
    rw [← hw, happly, applySentinels_afe]
  obtain ⟨t, ht⟩ : ∃ t, t = (refs.mapIdx (fun n h => (n, h))).foldl (fun t x => t.sentinelHop x.1 x.2) (s.hopFormed chans) := ⟨_, rfl⟩
  obtain ⟨⟨cs, htafe⟩, -⟩ := boundary_hopView hw refs ht
  refine ⟨t, (exec_hopBoundary_of_due hwf hdue).trans (congrArg Host.Outcome.next ht.symm), ?_, ?_⟩
  · rw [htafe, hafe]
    exact hpend
  · rw [htafe, hafe]
    rfl

end Sys2Proof.Machine
end

section
/-! PROOFS. The sentinels at a hop boundary, and the obligation about it. -/

namespace Sys2Proof.Machine

set_option Elab.async false

variable {s t u : State} {chans : List (List MicPiece)} {refs : List (List Int)} {n : Nat}

theorem lt_of_armed (h : (s.sentinel n).armed = true) : n < s.snt.s.length := by
  by_contra hn
  rw [State.sentinel, List.getD_eq_getElem?_getD, List.getElem?_eq_none (by omega)] at h
  exact absurd h (by decide)

/-- An armed sentinel after its hop. -/
theorem sentinelHop_self (h : (s.sentinel n).armed = true) (hn : n < 16) (x : List Int) :
    (∃ wake, (s.sentinelHop n x).sentinel n = { (s.sentinelOut n x).next with wakeRpt := wake }) ∧
    (s.sentinelHop n x).snt.entry.getLsbD n = (s.snt.entry.getLsbD n || (s.sentinelOut n x).entry) := by
  obtain ⟨wake, irq, hs⟩ := sentinelHop_snt h x
  refine ⟨⟨wake, ?_⟩, ?_⟩
  · rw [State.sentinel, hs]
    have hupd := sentinel_updSentinel s n n (fun _ => { (s.sentinelOut n x).next with wakeRpt := wake })
    rw [if_pos ⟨rfl, lt_of_armed h⟩] at hupd
    exact hupd
  · rw [hs]
    dsimp only
    cases (s.sentinelOut n x).entry with
    | false => rw [if_neg Bool.false_ne_true, Bool.or_false]
    | true => rw [if_pos rfl, getLsbD_setBit_self _ _ hn, Bool.or_true]

theorem wake_frame (x : Sentinel) (b : Bool) (e f : BitVec 16) : (x.wake b e f).1.armed = x.armed ∧ (x.wake b e f).1.rule = x.rule ∧
    (x.wake b e f).1.calib = x.calib ∧ (x.wake b e f).1.seq = x.seq := by
  unfold Sentinel.wake
  dsimp only
  generalize (if b = true then 0 else if e &&& x.rule.mask ≠ 0 then x.count + 1 else 0) = c
  generalize (if f &&& x.rule.mask ≠ 0 then 0 else x.count + 1) = d
  split
  · split <;> exact ⟨rfl, rfl, rfl, rfl⟩
  · split <;> exact ⟨rfl, rfl, rfl, rfl⟩

theorem track_frame (x : Sentinel) (r : List Int) : (x.track r).armed = x.armed ∧ (x.track r).rule = x.rule ∧ (x.track r).calib = x.calib ∧
    (x.track r).seq = x.seq := by
  unfold Sentinel.track
  dsimp only
  generalize (if driftSide r x.trim = 0 then 0 else if driftSide r x.trim * x.drift < 0 then driftSide r x.trim else x.drift + driftSide r x.trim) = d
  split <;> exact ⟨rfl, rfl, rfl, rfl⟩

/-- An evaluation keeps a sentinel armed under its rule. -/
theorem evaluate_frame (x : Sentinel) (r : SntRead) (refs : List Int) (b : Bool) (draw : Nat) :
    (x.evaluate r refs b draw).st.armed = x.armed ∧ (x.evaluate r refs b draw).st.rule = x.rule ∧ (x.evaluate r refs b draw).st.seq = x.seq := by
  unfold Sentinel.evaluate
  dsimp only
  split
  · exact ⟨rfl, rfl, rfl⟩
  · obtain ⟨h1, h2, -, h4⟩ := wake_frame (x.track refs) b r.enter r.exit
    obtain ⟨k1, k2, -, k4⟩ := track_frame x refs
    exact ⟨h1.trans k1, h2.trans k2, h4.trans k4⟩

/-- The hop after arming calibrates, and no more. -/
theorem evaluate_of_calib {x : Sentinel} (h : x.calib = true) (r : SntRead) (refs : List Int) (b : Bool) (draw : Nat) :
    (x.evaluate r refs b draw).st.calib = false ∧ (x.evaluate r refs b draw).st.trim.natAbs ≤ 32 ∧
    (x.evaluate r refs b draw).st.active = x.active ∧ (x.evaluate r refs b draw).st.count = x.count := by
  unfold Sentinel.evaluate
  dsimp only
  rw [if_pos h]
  refine ⟨rfl, ?_, rfl, rfl⟩
  simp only [Sentinel.calibrate, clampInt]
  omega

/-- A counting hop draws nothing for the trim. -/
theorem evaluate_of_counting {x : Sentinel} (h : x.calib = false) (r : SntRead) (refs : List Int) (b : Bool) (draw draw' : Nat) :
    x.evaluate r refs b draw = x.evaluate r refs b draw' := by
  unfold Sentinel.evaluate
  dsimp only
  rw [if_neg (by rw [h]; decide), if_neg (by rw [h]; decide)]

/-- A sentinel reads the weights. -/
theorem sntRead_congr (h : t.weights = s.weights) (n : Nat) (x : Sentinel) (feat : List Int) (draw : Nat) :
    t.sntRead n x feat draw = s.sntRead n x feat draw := by
  have hweight : ∀ b r c, t.weight b r c = s.weight b r c := fun b r c => congrArg (fun m => byteInt (Memory.read m (weightKey b r c))) h
  have hcharge : t.sntCharge = s.sntCharge := by
    funext n rows j
    exact congrArg List.sum (List.map_congr_left fun p _ => by rw [hweight])
  unfold State.sntRead
  rw [hcharge]

/-- A channel that is not there is not there at the boundary either. -/
theorem hopFormed_chan_none {w : State} (hw : (s.heard chans).applyAfe.applySentinels = w) (h : w.afe.chans.length ≤ n) :
    (s.hopFormed chans).chan n = AfeChan.initial := by
  obtain ⟨v, hv⟩ : ∃ v, v = w.formFeatures s.afe.period chans := ⟨_, rfl⟩
  have hform : s.hopFormed chans = (List.range 16).foldl State.switchLane v := by
    unfold State.hopFormed
    rw [hw, hv]
  have hlen : v.afe.chans.length ≤ n := by
    rw [hv]
    unfold State.formFeatures
    simp only [List.length_mapIdx, List.length_zip]
    omega
  rw [hform, (switchLanes_spec (List.nodup_range (n := 16)) v).2, if_neg (by omega), State.chan, List.getD_eq_getElem?_getD, List.getElem?_eq_none hlen]
  rfl

/-- With nothing waiting, a settled channel stays settled through the boundary. -/
theorem hopFormed_settle (hlen : chans.length = 16) (hn : n < 16) (hafe : s.afe.pend = []) (hsnt : s.snt.pend = [])
    (hsettle : (s.chan n).settle = 0) (hrejoin : (s.chan n).rejoin = false) : ((s.hopFormed chans).chan n).settle = 0 := by
  have hw : (s.heard chans).applyAfe.applySentinels = s.heard chans := by
    rw [applyAfe_of_none (show (s.heard chans).afe.pend = [] from hafe)]
    exact applySentinels_of_none hsnt
  by_cases hlt : n < s.afe.chans.length
  · obtain ⟨x, hx⟩ : ∃ x, s.afe.chans[n]? = some x := ⟨_, List.getElem?_eq_getElem hlt⟩
    obtain ⟨ps, hps⟩ : ∃ ps, chans[n]? = some ps := ⟨_, List.getElem?_eq_getElem (by omega)⟩
    have hxn : s.chan n = x := by rw [State.chan, List.getD_eq_getElem?_getD, hx]; rfl
    rw [hxn] at hsettle hrejoin
    obtain ⟨-, h2, h3, -, -, -⟩ := hear_frame x n s.afe.period ps (s.free + n * hopDraws chans)
    have hsw : ∀ (z : AfeChan) b, (z.switched b).settle = z.settle := fun z b => by cases b <;> rfl
    have hhop : ∀ (z : AfeChan) ch b d, (z.hop ch b d).settle = z.settle := fun z ch b d => by
      unfold AfeChan.hop
      dsimp only
      split
      · split <;> rfl
      · rfl
    rw [(hopFormed_spec hw).2 n _ ps hn (heard_chan hx hps) hps, hsw, hhop]
    unfold AfeChan.tickSettle
    rw [if_neg (by rw [h3, hrejoin]; decide), if_neg (by omega), h2, hsettle]
  · rw [hopFormed_chan_none hw]
    · rfl
    · unfold State.heard State.hearHop
      simp only [List.length_map, List.length_mapIdx, List.length_zip]
      omega

/-- What the sentinels find at a boundary at which nothing waits. -/
theorem hopFormed_plain (hafe : s.afe.pend = []) (hsnt : s.snt.pend = []) : ∃ a k, s.hopFormed chans = { s with afe := a, free := k } ∧
    a.hopCnt = s.afe.hopCnt + 1 := by
  have hw : (s.heard chans).applyAfe.applySentinels = s.heard chans := by
    rw [applyAfe_of_none (show (s.heard chans).afe.pend = [] from hafe)]
    exact applySentinels_of_none hsnt
  obtain ⟨⟨cs, hcs⟩, -⟩ := hopFormed_spec hw
  exact ⟨{ (s.heard chans).afe with hopCnt := s.afe.hopCnt + 1, chans := cs }, (s.heard chans).free + 2048, hcs, rfl⟩

/-- A sentinel at a boundary at which nothing waits. -/
theorem hopBoundary_sentinel (hwf : hopWf chans refs = true) (hdue : s.hopDue = true) (hafe : s.afe.pend = []) (hsnt : s.snt.pend = [])
    {x : Sentinel} {h : List Int} (hx : s.snt.s[n]? = some x) (hh : refs[n]? = some h) :
    (x.armed = false → Yields (.hopBoundary chans refs) s (fun t => t.sentinel n = x ∧ t.snt.entry.getLsbD n = s.snt.entry.getLsbD n)) ∧
    (x.armed = true → x.calib = true → Yields (.hopBoundary chans refs) s (fun t => (t.sentinel n).calib = false ∧
      (t.sentinel n).trim.natAbs ≤ 32 ∧ (t.sentinel n).active = x.active ∧ (t.sentinel n).count = x.count)) ∧
    (x.armed = true → x.calib = false → (s.chan n).settle = 0 → (s.chan n).rejoin = false →
      Yields (.hopBoundary chans refs) s (fun t => ∃ draw,
        let r := s.sntRead n x (t.chan n).feat draw
        let o := x.evaluate r h false 0
        (t.sentinel n).active = o.st.active ∧ (t.sentinel n).count = o.st.count ∧ (t.sentinel n).trim = o.st.trim ∧
        (t.sentinel n).enterLast = r.enter ∧ (t.sentinel n).latches = r.latches ∧ (t.sentinel n).rule = x.rule ∧
        t.snt.entry.getLsbD n = (s.snt.entry.getLsbD n || o.entry) ∧
        (s.snt.rpt.length = 64 → (∀ k, k ≠ n → (s.sentinel k).armed = false) →
          (o.reports = false → t.snt.wr = s.snt.wr ∧ t.snt.rpt = s.snt.rpt ∧ (t.sentinel n).seq = x.seq) ∧
          (o.reports = true → t.snt.wr = s.snt.wr + 1 ∧
            t.snt.rpt[s.snt.wr.toNat % 64]? = some (o.report n (s.afe.hopCnt + 1) (s.tmr.uptime + 250)) ∧
            (t.sentinel n).seq = (x.seq + 1) % 256 ∧
            ((s.snt.wr - s.snt.rd).toNat < 64 → t.snt.rd = s.snt.rd ∧ t.snt.lost = s.snt.lost) ∧
            (64 ≤ (s.snt.wr - s.snt.rd).toNat → t.snt.rd = s.snt.rd + 1 ∧
              t.snt.lost = (if s.snt.lost < 0xFFFF then s.snt.lost + 1 else s.snt.lost)))))) := by
  have hlens : chans.length = 16 ∧ refs.length = 16 := by
    simp only [hopWf, Bool.and_eq_true, beq_iff_eq] at hwf
    exact hwf.1
  have hn : n < 16 := hlens.2 ▸ (List.getElem?_eq_some_iff.mp hh).1
  have hexec := exec_hopBoundary_of_due (refs := refs) hwf hdue
  have hsettled := hopFormed_settle (s := s) hlens.1 hn hafe hsnt
  obtain ⟨a, k, hf, hcnt⟩ := hopFormed_plain (chans := chans) hafe hsnt
  generalize s.hopFormed chans = f at hexec hsettled hf
  obtain ⟨u, hview, hself, hentry, ⟨hs, he⟩, halone⟩ := sentinelHops_spec hn hh f
  have htview := sentinelHops_hop (refs.mapIdx (fun n h => (n, h))) f
  generalize (refs.mapIdx (fun n h => (n, h))).foldl (fun t x => t.sentinelHop x.1 x.2) f = t at hexec hs he halone htview
  have hfx : f.sentinel n = x := by rw [hf, State.sentinel, List.getD_eq_getElem?_getD, hx]; rfl
  have hfe : f.snt = s.snt := by rw [hf]
  have hux := hself.trans hfx
  rw [hfe] at hentry
  refine ⟨fun harm => ⟨t, hexec, ?_, ?_⟩, fun harm hcal => ⟨t, hexec, ?_⟩, fun harm hcal hsettle hrejoin => ⟨t, hexec, u.free + 1, ?_⟩⟩
  · rw [hs, sentinelHop_of_disarmed (by rw [hux]; exact harm), hux]
  · rw [he, sentinelHop_of_disarmed (by rw [hux]; exact harm), hentry]
  · obtain ⟨⟨wake, hw⟩, -⟩ := sentinelHop_self (s := u) (by rw [hux]; exact harm) hn h
    rw [hs, hw]
    unfold State.sentinelOut
    rw [hux]
    exact evaluate_of_calib hcal _ _ _ _
  · intro r o
    have huweights : u.weights = s.weights := by
      have e := congrArg (fun v : Afe × Memory × Memory × List Graph × List Eval × Time => v.2.1) hview
      exact (show u.weights = f.weights from e).trans (by rw [hf])
    have huchan : u.chan n = f.chan n := congrArg (fun v : Afe × Memory × Memory × List Graph × List Eval × Time => v.1.chans.getD n AfeChan.initial) hview
    have htchan : t.chan n = f.chan n := congrArg (fun v : Afe × Memory × Memory × List Graph × List Eval × Time => v.1.chans.getD n AfeChan.initial) htview
    have hout : u.sentinelOut n h = o := by
      unfold State.sentinelOut
      rw [hux, sntRead_congr huweights, huchan, ← htchan, htchan, hsettled hsettle hrejoin, ← htchan]
      exact evaluate_of_counting hcal _ _ _ _ _
    obtain ⟨⟨wake, hw⟩, hent⟩ := sentinelHop_self (s := u) (by rw [hux]; exact harm) hn h
    rw [hout] at hw hent
    have hst : o.st.enterLast = r.enter ∧ o.st.latches = r.latches := by
      show (x.evaluate r h false 0).st.enterLast = r.enter ∧ (x.evaluate r h false 0).st.latches = r.latches
      unfold Sentinel.evaluate
      dsimp only
      rw [if_neg (by rw [hcal]; decide)]
      exact ⟨rfl, rfl⟩
    obtain ⟨-, hrule, hseq⟩ := evaluate_frame x r h false 0
    have hts : t.sentinel n = { o.next with wakeRpt := wake } := hs.trans hw
    refine ⟨by rw [hts]; rfl, by rw [hts]; rfl, by rw [hts]; rfl, by rw [hts]; exact hst.1, by rw [hts]; exact hst.2, by rw [hts]; exact hrule,
      by rw [he, hent, hentry], fun hrpt hall => ?_⟩
    obtain ⟨huf, htf⟩ := halone fun j hj => by
      rw [State.sentinel, hfe]
      exact hall j hj
    obtain ⟨wake', irq, hsn⟩ := sentinelHop_snt (s := u) (n := n) (by rw [hux]; exact harm) h
    rw [← htf, hout, show u.snt = s.snt by rw [huf, hfe]] at hsn
    have hreport : u.hopReport n h = o.report n (s.afe.hopCnt + 1) (s.tmr.uptime + 250) := by
      unfold State.hopReport
      rw [hout, huf, hf, hcnt]
    refine ⟨fun hr => ⟨?_, ?_, ?_⟩, fun hr => ⟨?_, ?_, ?_, fun hfew => ⟨?_, ?_⟩, fun hfull => ⟨?_, ?_⟩⟩⟩
    · rw [hsn, hr]
      rfl
    · rw [hsn, hr]
      rfl
    · rw [hts]
      show (if o.reports then (o.st.seq + 1) % 256 else o.st.seq) = x.seq
      rw [hr]
      exact hseq
    · rw [hsn, hr]
      rfl
    · rw [hsn, hr, ← hreport]
      show (s.snt.rpt.set (s.snt.wr.toNat % 64) (u.hopReport n h))[s.snt.wr.toNat % 64]? = _
      exact List.getElem?_set_self (by omega)
    · rw [hts]
      show (if o.reports then (o.st.seq + 1) % 256 else o.st.seq) = (x.seq + 1) % 256
      rw [hr, if_pos rfl]
      exact congrArg (fun k => (k + 1) % 256) hseq
    · rw [hsn, hr]
      show (if decide (64 ≤ (s.snt.wr - s.snt.rd).toNat) then s.snt.rd + 1 else s.snt.rd) = s.snt.rd
      rw [if_neg (by simpa using hfew)]
    · rw [hsn, hr]
      show (if decide (64 ≤ (s.snt.wr - s.snt.rd).toNat) then satInc 0xFFFF s.snt.lost else s.snt.lost) = s.snt.lost
      rw [if_neg (by simpa using hfew)]
    · rw [hsn, hr]
      show (if decide (64 ≤ (s.snt.wr - s.snt.rd).toNat) then s.snt.rd + 1 else s.snt.rd) = s.snt.rd + 1
      rw [if_pos (by simpa using hfull)]
    · rw [hsn, hr]
      show (if decide (64 ≤ (s.snt.wr - s.snt.rd).toNat) then satInc 0xFFFF s.snt.lost else s.snt.lost) = _
      rw [if_pos (by simpa using hfull)]
      rfl

/-- One arming or disarming that waits takes effect. -/
theorem applySentinels_one {q : SntPend} (hq : s.snt.pend = [q]) (hlt : q.chan < 16) :
    s.applySentinels = (({ s with snt := { s.snt with pend := [] } } : State).updSentinel q.chan (fun x => x.apply q.rule)).finish q.cid endDone := by
  obtain ⟨f, hf⟩ : ∃ f : State → Nat → State, f = fun t n => match t.snt.pend.find? (fun p => p.chan == n) with
      | none => t
      | some p => ((({ t with snt := { t.snt with pend := t.snt.pend.erase p } }).updSentinel n (fun x => x.apply p.rule)).finish p.cid endDone) :=
    ⟨_, rfl⟩
  have hgo : s.applySentinels = (List.range 16).foldl f s := by
    rw [hf]
    rfl
  have hnone : ∀ (t : State) n, t.snt.pend.find? (fun p => p.chan == n) = none → f t n = t := fun t n h => by
    rw [hf]
    dsimp only
    rw [h]
  have hskip : ∀ (t : State) (l : List Nat), (∀ n ∈ l, t.snt.pend.find? (fun p => p.chan == n) = none) → l.foldl f t = t := fun t l h => by
    induction l with
    | nil => rfl
    | cons k l ih =>
      rw [List.foldl_cons, hnone t k (h k (List.mem_cons_self ..))]
      exact ih fun j hj => h j (List.mem_cons_of_mem _ hj)
  obtain ⟨a, b, hab⟩ := List.append_of_mem (List.mem_range.mpr hlt)
  have hnodup : (a ++ q.chan :: b).Nodup := hab ▸ List.nodup_range (n := 16)
  have ha : q.chan ∉ a := fun h => (List.nodup_append.mp hnodup).2.2 _ h _ (List.mem_cons_self ..) rfl
  rw [hgo, hab, List.foldl_append, List.foldl_cons, hskip s a]
  · have hone : f s q.chan = (({ s with snt := { s.snt with pend := [] } } : State).updSentinel q.chan (fun x => x.apply q.rule)).finish q.cid endDone := by
      rw [hf]
      dsimp only
      rw [hq, List.find?_cons_of_pos (by simp)]
      dsimp only
      rw [List.erase_cons_head]
    have hsnt : (f s q.chan).snt.pend = [] := by
      rw [hone]
      exact congrArg Snt.pend ((finish_books (({ s with snt := { s.snt with pend := [] } } : State).updSentinel q.chan (fun x => x.apply q.rule))
        q.cid endDone).view (view := State.snt))
    rw [hskip _ b, hone]
    intro j _
    rw [hsnt]
    rfl
  · intro j hj
    have hne : q.chan ≠ j := fun h => ha (h ▸ hj)
    rw [hq, List.find?_cons_of_neg (by simpa using hne)]
    rfl

theorem sentinelHop_pend (s : State) (n : Nat) (x : List Int) : (s.sentinelHop n x).snt.pend = s.snt.pend := by
  cases h : (s.sentinel n).armed with
  | false => rw [sentinelHop_of_disarmed h]
  | true =>
    obtain ⟨wake, irq, hs⟩ := sentinelHop_snt h x
    rw [hs]
    dsimp only
    split <;> rfl

/-- An arming or disarming that waits takes effect at the boundary, and its command ends. -/
theorem hopBoundary_arm (hwf : hopWf chans refs = true) (hdue : s.hopDue = true) (hafe : s.afe.pend = []) {q : SntPend} {c : Cmd}
    (hq : s.snt.pend = [q]) (hlt : q.chan < 16) (hlen : q.chan < s.snt.s.length) (hc : s.cmd? q.cid = some c) (hmir : c.mir = []) :
    Yields (.hopBoundary chans refs) s (fun t => t.snt.pend = [] ∧ t.cmd? q.cid = none ∧
      (t.sentinel q.chan).armed = q.rule.isSome ∧ ∀ w, q.rule = some w → (t.sentinel q.chan).rule = w) := by
  have hrefs : refs.length = 16 := by
    simp only [hopWf, Bool.and_eq_true, beq_iff_eq] at hwf
    exact hwf.1.2
  obtain ⟨h, hh⟩ : ∃ h, refs[q.chan]? = some h := ⟨_, List.getElem?_eq_getElem (by omega)⟩
  obtain ⟨v, hv⟩ : ∃ v : State, v = ({ s.heard chans with snt := { s.snt with pend := [] } } : State).updSentinel q.chan (fun x => x.apply q.rule) := ⟨_, rfl⟩
  have hw : (s.heard chans).applyAfe.applySentinels = v.finish q.cid endDone := by
    rw [applyAfe_of_none (show (s.heard chans).afe.pend = [] from hafe), applySentinels_one (s := s.heard chans) hq hlt, hv]
    rfl
  have hexec := exec_hopBoundary_of_due (refs := refs) hwf hdue
  obtain ⟨t, ht⟩ : ∃ t, t = (refs.mapIdx (fun n h => (n, h))).foldl (fun t x => t.sentinelHop x.1 x.2) (s.hopFormed chans) := ⟨_, rfl⟩
  obtain ⟨-, -, -, -, -, hcmds, -⟩ := boundary_hopView hw refs ht
  obtain ⟨⟨cs, hcs⟩, -⟩ := hopFormed_spec hw
  have hfsnt : (s.hopFormed chans).snt = v.snt := by
    rw [hcs]
    exact (finish_books v q.cid endDone).view (view := State.snt)
  rw [← ht] at hexec
  generalize s.hopFormed chans = f at ht hfsnt
  have hpend : t.snt.pend = [] := by
    have hfold : ∀ (l : List (Nat × List Int)) (u : State), (l.foldl (fun t x => t.sentinelHop x.1 x.2) u).snt.pend = u.snt.pend := fun l => by
      induction l with
      | nil => exact fun _ => rfl
      | cons p l ih => exact fun u => (ih _).trans (sentinelHop_pend u p.1 p.2)
    rw [ht, hfold, hfsnt, hv]
    rfl
  have hfq : f.sentinel q.chan = (s.sentinel q.chan).apply q.rule := by
    rw [State.sentinel, hfsnt, hv]
    have hupd := sentinel_updSentinel ({ s.heard chans with snt := { s.snt with pend := [] } } : State) q.chan q.chan (fun x => x.apply q.rule)
    rw [if_pos ⟨rfl, hlen⟩] at hupd
    exact hupd
  obtain ⟨u, -, hself, -, ⟨hs, -⟩, -⟩ := sentinelHops_spec hlt hh f
  rw [← ht] at hs
  have huq := hself.trans hfq
  refine ⟨t, hexec, hpend, ?_, ?_⟩
  · have hcid : c.cid = q.cid := cmd?_cid hc
    rw [cmd?_eq_none_iff, hcmds]
    rw [← hcid] at hc ⊢
    exact cmd?_eq_none_iff.mp (finish_gone (s := v) (by rw [hv]; exact hc) hmir endDone)
  · rw [hs]
    cases hr : q.rule with
    | none =>
      rw [hr] at huq
      rw [sentinelHop_of_disarmed (by rw [huq]; rfl), huq]
      exact ⟨rfl, nofun⟩
    | some w =>
      rw [hr] at huq
      obtain ⟨⟨wake, hwk⟩, -⟩ := sentinelHop_self (s := u) (n := q.chan) (by rw [huq]; rfl) hlt h
      rw [hwk]
      unfold State.sentinelOut
      rw [huq]
      obtain ⟨h1, h2, -⟩ := evaluate_frame ((s.sentinel q.chan).apply (some w)) (u.sntRead q.chan ((s.sentinel q.chan).apply (some w)) (u.chan q.chan).feat (u.free + 1))
        h (decide ((u.chan q.chan).settle ≠ 0)) u.free
      exact ⟨h1, fun w' hw' => by cases hw'; exact h2⟩

/-- A bank switch that waits happens to its lane alone. -/
theorem featureBankSwitch_yields (n : Fin 16) {x : AfeChan} (hx : s.afe.chans[n.val]? = some x) :
    Yields (.featureBankSwitch n) s (fun t => t = { s with afe := t.afe } ∧ (∀ k, k ≠ n.val → t.chan k = s.chan k) ∧
      (x.switchWait = true → t.chan n.val = { x with lane := x.feat, switchWait := false }) ∧ (x.switchWait = false → t = s)) := by
  have hxn : s.chan n.val = x := by rw [State.chan, List.getD_eq_getElem?_getD, hx]; rfl
  have hlt : n.val < s.afe.chans.length := (List.getElem?_eq_some_iff.mp hx).1
  refine ⟨s.updChan n.val (fun x => if x.switchWait then { x with lane := x.feat, switchWait := false } else x), rfl, rfl, fun k hk => ?_, fun h => ?_, fun h => ?_⟩
  · rw [chan_updChan, if_neg (fun hh => hk hh.1.symm)]
  · rw [chan_updChan, if_pos ⟨rfl, hlt⟩, hxn, if_pos h]
  · have hsame : s.afe.chans.modify n.val (fun x => if x.switchWait then { x with lane := x.feat, switchWait := false } else x) = s.afe.chans := by
      refine List.ext_getElem? fun k => ?_
      rw [List.getElem?_modify]
      by_cases hk : n.val = k
      · subst hk
        simp [hx, h]
      · simp [hk]
    unfold State.updChan
    rw [hsame]

/-- Settles O48. -/
theorem hopBoundary : Obligations.HopBoundary :=
  ⟨⟨fun _ _ _ hwf => ⟨exec_hopBoundary_of_not_due hwf, fun hdue => ⟨hopBoundary_plain hwf hdue, fun _ _ hpend hc hmir =>
      ⟨hopBoundary_due hwf hdue hpend hc hmir, hopBoundary_early hwf hdue hpend⟩⟩⟩,
    fun _ n _ hx => featureBankSwitch_yields n hx⟩,
  fun _ _ _ hwf hdue hafe => ⟨fun hsnt _ _ _ hx hh => hopBoundary_sentinel hwf hdue hafe hsnt hx hh,
    fun _ _ hq hlt hlen hc hmir => hopBoundary_arm hwf hdue hafe hq hlt hlen hc hmir⟩⟩

end Sys2Proof.Machine
end

section
/-! PROOFS. Resets that the host asks for: FLR, Hot Reset and DL_Down. -/

namespace Sys2Proof.Machine

set_option Elab.async false

variable {s t u : State} {f g : Nat}

/-! ### What a reset's steps leave -/

/-- The host interface apart from what reports may touch. -/
def Hif.sansReport (h : Hif) : Hif :=
  { h with inL1 := false, inL11 := false, inL12 := false, vlog := [], vlogWr := 0, vlogRd := 0, vlogLost := 0, devStat := 0, msix := [], pmeStatus := false }

/-- What the steps of a reset leave: the host interface's settings, the basins, the weights and the time. -/
def State.resetView (s : State) : Hif × Tab Basin × Memory × Time := (s.hif.sansReport, s.basins, s.weights, s.tmr)

theorem ringFunc_of_view (h : Agrees State.resetView s t) (g : Nat) : t.ringFunc g = s.ringFunc g :=
  congrArg (fun v : Hif × Tab Basin × Memory × Time => if g < 64 then 0 else v.1.owner.getD (g / 64) 0) h

theorem StreamOnly.resetView (h : StreamOnly s t) : Agrees State.resetView s t := h.agrees.of ⟨State.resetView, fun _ => rfl⟩

theorem dropRing_ringFixed (s : State) {g k : Nat} (hk : k ≠ g) : ((s.disableRing g).ring k).config = (s.ring k).config :=
  (disableRing_spec s g).2.2.2.2.2 k hk

/-- The enabled rings of a function disabled: rings of other functions keep their configuration. -/
theorem disableRings_spec (l : List Nat) (s : State) :
    Agrees State.resetView s (l.foldl (fun u g => if u.ringFunc g == f && (u.ring g).en then u.disableRing g else u) s) ∧
    ∀ k, s.ringFunc k ≠ f →
      ((l.foldl (fun u g => if u.ringFunc g == f && (u.ring g).en then u.disableRing g else u) s).ring k).config = (s.ring k).config := by
  induction l generalizing s with
  | nil => exact ⟨rfl, fun _ _ => rfl⟩
  | cons g l ih =>
    rw [List.foldl_cons]
    obtain ⟨v, hv⟩ : ∃ v, v = (if s.ringFunc g == f && (s.ring g).en then s.disableRing g else s) := ⟨_, rfl⟩
    have hview : Agrees State.resetView s v := by
      rw [hv]
      have hdis : Agrees State.resetView s (s.disableRing g) :=
        Agrees.of (view := State.sansLedger) (disableRing_spec s g).2.2.2.2.1 ⟨State.resetView, fun _ => rfl⟩
      exact .ite hdis (.refl s)
    have hconf : ∀ k, s.ringFunc k ≠ f → (v.ring k).config = (s.ring k).config := fun k hk => by
      rw [hv]
      split
      · rename_i hg
        refine dropRing_ringFixed s fun hkg => hk ?_
        rw [hkg]
        exact beq_iff_eq.mp (Bool.and_eq_true .. ▸ hg).1
      · rfl
    obtain ⟨h1, h2⟩ := ih v
    rw [← hv]
    exact ⟨hview.trans h1, fun k hk => (h2 k (by rw [ringFunc_of_view hview]; exact hk)).trans (hconf k hk)⟩

theorem sendCredit_flows (s : State) (g : Graph) (idx fromTer : Nat) (fromEngine : Bool) (seq : Nat) :
    Flows s (s.sendCredit g idx fromTer fromEngine seq) := by
  unfold State.sendCredit
  dsimp only
  split
  · split
    · exact send_flows _ _
    · exact .refl s
  · exact send_flows _ _

/-- What a posted write that is issued or dropped leaves. -/
def State.postView (s : State) : (Hif × Tab Basin × Memory × Time) × Tab Ring := (s.resetView, s.rings)

theorem Flows.postView (h : Flows s t) : Agrees State.postView s t := Agrees.of h ⟨State.postView, fun _ => rfl⟩

theorem postDone_view (s : State) (p : Posted) : Agrees State.postView s (s.postDone p) := by
  unfold State.postDone
  split
  · exact .refl s
  rename_i h e _
  dsimp only
  have hsrc : Agrees State.postView s (match p.src.map (fun x => x.1) with
      | some c => s.updRun c (fun r => r.portDone e)
      | none => s) := by
    split <;> rfl
  split
  · exact hsrc.trans (sendCredit_flows _ _ _ _ _ _).postView
  · exact hsrc

theorem dropPost_view (s : State) (p : Posted) : Agrees State.postView s (s.dropPost p) := by
  have hsrc : Agrees State.postView s (match p.e with
      | .msi f e => s.setMsixPending f e true
      | _ => match p.src with
        | some (c, g) => s.dropResults (some c) g
        | none => s) := by
    split
    · rfl
    · split
      · unfold State.dropResults
        dsimp only
        refine .ite (.refl s) ?_
        exact Agrees.trans (t := { s with dropped := _ }) rfl ((vlog_report _ _ _ _ _ _ _).agrees (view := State.postView))
      · exact .refl s
  exact hsrc.trans (postDone_view _ _)

theorem dropPosts_view (l : List Posted) (s : State) : Agrees State.postView s (l.foldl State.dropPost s) :=
  Agrees.foldl (.refl s) fun u p _ => dropPost_view u p

/-- The rings of a function at their initial descriptors, the others as they were. -/
theorem ring_of_flr {rs : Tab Ring} {p : Nat → Prop} [DecidablePred p] (k : Nat) :
    (Tab.getD (rs.map (fun e => if p e.1 then (e.1, e.2.flr) else e)) k Ring.initial).fixed =
      if p k then Ring.initial.fixed else (Tab.getD rs k Ring.initial).fixed := by
  unfold Tab.getD Tab.get?
  induction rs with
  | nil => split <;> rfl
  | cons e rs ih =>
    rw [List.map_cons]
    have hkey : (if p e.1 then (e.1, e.2.flr) else e).1 = e.1 := by split <;> rfl
    by_cases hk : e.1 = k
    · rw [List.find?_cons_of_pos (by rw [hkey]; simpa using hk), List.find?_cons_of_pos (by simpa using hk)]
      subst hk
      split
      · rfl
      · rfl
    · rw [List.find?_cons_of_neg (by rw [hkey]; simpa using hk), List.find?_cons_of_neg (by simpa using hk)]
      exact ih

/-- The host interface after FLR of a function, apart from reports; `d` is what the reset takes. -/
def Hif.flr (h : Hif) (f : Nat) (done : Nat) : Hif :=
  { h with coal := h.coal.set f 0, msixEn := h.msixEn.set f false, msixFm := h.msixFm.set f false, bme := h.bme.set f false
           flrEnd := h.flrEnd.set f done }

/-- What FLR of a function gives. -/
structure FlrOf (f : Nat) (s t : State) : Prop where
  view : ∃ d, d ≤ 100000 ∧ t.resetView = ((s.hif.flr f (s.tmr.uptime + d)).sansReport, s.basins, s.weights, s.tmr)
  rings : ∀ k, s.ringFunc k = f → (t.ring k).fixed = Ring.initial.fixed
  others : ∀ k, s.ringFunc k ≠ f → (t.ring k).config = (s.ring k).config
  cmds : ∀ c ∈ t.cmds, s.ringFunc c.ring = f → c.detached = true
  graphs : ∀ x ∈ t.graphs, x.owner = f → x.unload.isSome = true
  sessions : ∀ x ∈ t.wpe.sessions, x.func = f → x.closing.isSome = true

theorem FlrOf.stream (h : FlrOf f s t) (k : StreamOnly t u) : FlrOf f s u where
  view := by
    obtain ⟨d, hd, hv⟩ := h.view
    exact ⟨d, hd, Eq.trans k.resetView hv⟩
  rings := fun g hg => (k.fixed g).trans (h.rings g hg)
  others := fun g hg => (congrArg Prod.fst (k.fixed g)).trans (h.others g hg)
  cmds := fun c hc hr => by
    obtain ⟨x, hx, hcx⟩ := k.cmds c hc
    rw [hcx] at hr ⊢
    exact h.cmds x hx hr
  graphs := by
    rw [show u.graphs = t.graphs from k.agrees.eq State.graphs]
    exact h.graphs
  sessions := fun x hx => h.sessions x (k.sessions hx)

/-- FLR of one function (R318). -/
theorem flrFunction_spec (s : State) (f : Nat) : FlrOf f s (s.flrFunction f) := by
  unfold State.flrFunction
  obtain ⟨hview, hconf⟩ := disableRings_spec (f := f) (List.range 1024) s
  obtain ⟨u, hu⟩ : ∃ u, (List.range 1024).foldl (fun u g => if u.ringFunc g == f && (u.ring g).en then u.disableRing g else u) s = u := ⟨_, rfl⟩
  rw [hu] at hview hconf ⊢
  have hpost := dropPosts_view (u.postQ.filter (fun p => p.e.func? == some f)) { u with postQ := u.postQ.filter (fun p => p.e.func? != some f) }
  obtain ⟨v, hv⟩ : ∃ v, (u.postQ.filter (fun p => p.e.func? == some f)).foldl State.dropPost
    { u with postQ := u.postQ.filter (fun p => p.e.func? != some f) } = v := ⟨_, rfl⟩
  dsimp only
  rw [hv] at hpost ⊢
  have hview' : Agrees State.resetView s v := hview.trans (congrArg Prod.fst hpost)
  have hrings : v.rings = u.rings := congrArg Prod.snd hpost
  have hfunc := ringFunc_of_view hview'
  have hflr : ∀ k, (Tab.getD (v.rings.map (fun e => if v.ringFunc e.1 = f then (e.1, e.2.flr) else e)) k Ring.initial).fixed =
      if v.ringFunc k = f then Ring.initial.fixed else (v.ring k).fixed := fun k => ring_of_flr (p := fun n => v.ringFunc n = f) k
  generalize hd : Config.flrTime v.free % 100001 = d
  have hle : d ≤ 100000 := hd ▸ Nat.le_of_lt_succ (Nat.mod_lt _ (Nat.succ_pos 100000))
  refine FlrOf.stream ?_ (((finishes_stream _ _ (fun c => c) (fun _ => endOf stCancelled 0)).trans (stopStreams_stream _ _)).trans
    (closeSessions_books 5 _).stream)
  refine ⟨⟨d, hle, ?_⟩, fun k hk => ?_, fun k hk => ?_, fun c hc hr => ?_, fun x hx ho => ?_, fun x hx ho => ?_⟩
  · exact congrArg (fun w : Hif × Tab Basin × Memory × Time =>
      ((w.1.flr f (w.2.2.2.uptime + d)).sansReport, w.2.1, w.2.2.1, w.2.2.2)) hview'
  · exact (hflr k).trans (if_pos ((hfunc k).trans hk))
  · refine (congrArg Prod.fst ((hflr k).trans (if_neg (by rw [hfunc]; exact hk)))).trans (Eq.trans ?_ (hconf k hk))
    exact congrArg (fun rs => (Tab.getD rs k Ring.initial).config) hrings
  · obtain ⟨y, hy, rfl⟩ := List.mem_map.mp hc
    have hring : (if v.ringFunc y.ring = f then { y with detached := true } else y).ring = y.ring := by split <;> rfl
    have hr' : v.ringFunc y.ring = f := by
      rw [hfunc, ← hring]
      exact hr
    exact congrArg Cmd.detached (if_pos hr')
  · obtain ⟨y, hy, rfl⟩ := List.mem_map.mp hx
    by_cases hy : y.owner = f ∧ y.unload.isNone
    · rw [if_pos hy]
      rfl
    · rw [if_neg hy] at ho ⊢
      cases hun : y.unload with
      | none => exact absurd ⟨ho, by rw [hun]; rfl⟩ hy
      | some _ => rfl
  · obtain ⟨y, hy, rfl⟩ := List.mem_map.mp hx
    by_cases hy : y.func = f ∧ y.closing.isNone
    · rw [if_pos hy]
      rfl
    · rw [if_neg hy] at ho ⊢
      cases hun : y.closing with
      | none => exact absurd ⟨ho, by rw [hun]; rfl⟩ hy
      | some _ => rfl

end Sys2Proof.Machine
end

section
/-! PROOFS. The resets of every function and of the link, and the obligation about them. -/

namespace Sys2Proof.Machine

set_option Elab.async false

variable {s t u : State} {f g : Nat}

/-! ### The link's credit while none is counted -/

/-- No posted credit is counted, and no posted write waits. -/
def Unposted (s : State) : Prop := s.fc = none ∧ s.postQ = []

theorem Unposted.of_eq (h : Unposted s) (k : (t.fc, t.postQ) = (s.fc, s.postQ)) : Unposted t := by
  obtain ⟨h1, h2⟩ := h
  simp only [Prod.mk.injEq] at k
  exact ⟨k.1.trans h1, k.2.trans h2⟩

theorem Unposted.post (h : Unposted s) (e : Emit) (c src : Option (Nat × Nat)) : Unposted (s.post e c src) := by
  unfold State.post
  dsimp only
  rw [show s.leaveL1.fc = none from h.1]
  exact h

theorem Unposted.signal (h : Unposted s) (f e : Nat) : Unposted (s.signal f e) := by
  unfold State.signal
  split
  · exact h
  · split
    · exact h
    · exact h.post _ _ _

theorem Unposted.devVec (h : Unposted s) (k : Nat) : Unposted (s.devVec k) := by
  unfold State.devVec
  split
  · exact h
  dsimp only
  split
  · exact h
  · split
    · exact h
    · exact Unposted.signal (s := { s with hif := { s.hif with devStat := setBit s.hif.devStat k true } }) h 0 k

theorem Unposted.dlog (h : Unposted s) (source event : Nat) (arg0 : Word) (arg1 : DWord) : Unposted (s.dlog source event arg0 arg1) := by
  unfold State.dlog
  refine Unposted.devVec ?_ 3
  exact h

theorem Unposted.updRun (h : Unposted s) (c : Nat) (f : Run → Run) : Unposted (s.updRun c f) := h

theorem Unposted.failRun (h : Unposted s) (g seq k : Nat) : Unposted (s.failRun g seq k) := by
  unfold State.failRun
  split <;> exact h

theorem sendFrame_credit (s : State) (up : Bool) (slots : List FlitSlot) (nak : Bool) :
    ((s.sendFrame up slots nak).fc, (s.sendFrame up slots nak).postQ) = (s.fc, s.postQ) := by
  cases up <;> rfl

theorem Unposted.sendFlits (fuel : Nat) (h : Unposted s) (up : Bool) (fs : List FlitSlot) : Unposted (s.sendFlits fuel up fs) := by
  induction fuel generalizing s fs with
  | zero => exact h
  | succ n ih =>
    cases fs with
    | nil => exact h
    | cons x xs => exact ih (h.of_eq (sendFrame_credit s up _ false)) _

theorem Unposted.bridgeSend (h : Unposted s) (up : Bool) : Unposted (s.bridgeSend up) := by
  unfold State.bridgeSend
  dsimp only
  split
  · exact h
  · refine Unposted.sendFlits _ (h.of_eq ?_) _ _
    cases up <;> rfl

theorem Unposted.bridgeOn (h : Unposted s) (p : Packet) : Unposted (s.bridgeOn p) := by
  unfold State.bridgeOn
  split
  · exact Unposted.bridgeSend (s := { s with casc := { s.casc with portUp := { s.casc.portUp with queue := s.casc.portUp.queue ++ [p] } } }) h true
  · exact Unposted.bridgeSend (s := { s with casc := { s.casc with portDn := { s.casc.portDn with queue := s.casc.portDn.queue ++ [p] } } }) h false
  · exact (Unposted.dlog (s := { s with casc := { s.casc with noRoute := satInc 0xFFFF s.casc.noRoute }, free := s.free + 1 }) h 5 4 _ _).failRun _ _ _

theorem Unposted.flushBridge (h : Unposted s) : Unposted s.flushBridge := by
  unfold State.flushBridge
  dsimp only
  have hone : ∀ (u : State) p, Unposted u → Unposted ((u.leaveRill p).bridge p) := fun u p hu => by
    have hleave : Unposted (u.leaveRill p) := by
      rw [leaveRill_frame]
      exact hu
    unfold State.bridge
    split
    · exact hleave
    · exact hleave.bridgeOn p
  exact List.foldlRecOn _ _ h fun u hu p _ => hone u p hu

theorem Unposted.send (h : Unposted s) (p : Packet) : Unposted (s.send p) := by
  have henter : Unposted (s.enterRill p) := by
    unfold State.enterRill
    rw [State.needTerraces_eq_pwr]
    exact h
  unfold State.send
  dsimp only
  split
  · exact henter
  · exact henter.flushBridge

theorem Unposted.postDone (h : Unposted s) (p : Posted) : Unposted (s.postDone p) := by
  unfold State.postDone
  split
  · exact h
  rename_i k e _
  dsimp only
  have hsrc : Unposted (match p.src.map (fun x => x.1) with
      | some c => s.updRun c (fun r => r.portDone e)
      | none => s) := by
    split <;> exact h
  split
  · unfold State.sendCredit
    dsimp only
    split
    · split
      · exact hsrc.send _
      · exact hsrc
    · exact hsrc.send _
  · exact hsrc

/-- With the link's reset no posted write waits, and the rest of the host interface stays. -/
theorem dropPosts_spec (s : State) : Unposted s.dropPosts ∧ Agrees State.postView s s.dropPosts := by
  have hstep : ∀ (l : List Posted) (u : State), Unposted u → Unposted (l.foldl State.postDone u) ∧ Agrees State.postView u (l.foldl State.postDone u) := by
    intro l
    induction l with
    | nil => exact fun u h => ⟨h, .refl u⟩
    | cons p l ih =>
      intro u h
      obtain ⟨h1, h2⟩ := ih _ (h.postDone p)
      exact ⟨h1, (postDone_view u p).trans h2⟩
  obtain ⟨h1, h2⟩ := hstep s.postQ { s with postQ := [], fc := none } ⟨rfl, rfl⟩
  exact ⟨h1, Agrees.trans (t := { s with postQ := [], fc := none }) rfl h2⟩

/-! ### Every function -/

/-- The host interface apart from reports and from what FLR of a function sets. -/
def Hif.sansFlr (h : Hif) : Hif := { h.sansReport with coal := [], msixEn := [], msixFm := [], bme := [], flrEnd := [] }

/-- What FLR of any functions leaves. -/
def State.flrView (s : State) : Hif × Tab Basin × Memory × Time := (s.hif.sansFlr, s.basins, s.weights, s.tmr)

theorem FlrOf.flrView (h : FlrOf f s t) : Agrees State.flrView s t := by
  obtain ⟨d, -, hv⟩ := h.view
  exact congrArg (fun w : Hif × Tab Basin × Memory × Time => (w.1.sansFlr, w.2.1, w.2.2.1, w.2.2.2)) hv

theorem ringFunc_of_flr (h : Agrees State.flrView s t) (g : Nat) : t.ringFunc g = s.ringFunc g :=
  congrArg (fun v : Hif × Tab Basin × Memory × Time => if g < 64 then 0 else v.1.owner.getD (g / 64) 0) h

theorem config_of_fixed {r q : Ring} (h : r.fixed = q.fixed) : r.config = q.config := congrArg Prod.fst h

/-- FLR of several functions: their rings are at their initial configuration, the others' as before. -/
theorem flrEach_spec (l : List Nat) (s : State) : Agrees State.flrView s (l.foldl State.flrFunction s) ∧
    ∀ k, ((l.foldl State.flrFunction s).ring k).config = if s.ringFunc k ∈ l then Ring.initial.config else (s.ring k).config := by
  induction l generalizing s with
  | nil => exact ⟨.refl s, fun k => (if_neg (by simp)).symm⟩
  | cons f l ih =>
    have hone := flrFunction_spec s f
    obtain ⟨h1, h2⟩ := ih (s.flrFunction f)
    rw [List.foldl_cons]
    refine ⟨hone.flrView.trans h1, fun k => ?_⟩
    rw [h2, ringFunc_of_flr hone.flrView]
    by_cases hl : s.ringFunc k ∈ l
    · rw [if_pos hl, if_pos (List.mem_cons_of_mem _ hl)]
    · rw [if_neg hl]
      by_cases hf : s.ringFunc k = f
      · rw [if_pos (by rw [hf]; exact List.mem_cons_self ..)]
        exact config_of_fixed (hone.rings k hf)
      · rw [if_neg (by simp [hf, hl])]
        exact hone.others k hf

/-- What a reset of every function leaves of the host interface: its settings at reset, the rest as before. -/
def Hif.cleaned (h : Hif) : Hif :=
  { h.sansFlr with
    vfEn := false, vfMse := false, devEn := 0, ltrFrame := 0x14, ltrRun := 0x64, ltrDoze := 0x3E8, l1Idle := 0x14, d3hot := false, mse := false
    bars := List.replicate 5 0, mrrs := 512, relaxed := true, ecrcGen := false, ecrcCheck := false, toRange := 0, toDisable := false }

/-- HIF after a reset of every function, from what it was after the functions' own (R319). -/
def Hif.reset (h : Hif) : Hif :=
  { h with devEn := 0, devStat := 0, ltrFrame := 0x14, ltrRun := 0x64, ltrDoze := 0x3E8, l1Idle := 0x14
           d3hot := false, mse := false, bars := List.replicate 5 0, mrrs := 512, relaxed := true
           ecrcGen := false, ecrcCheck := false, toRange := 0, toDisable := false }

/-- VF Enable cleared. -/
def Hif.vfsOff (h : Hif) : Hif := { h with vfEn := false, vfMse := false }

/-- The VFs reset, and VF Enable cleared (R319). -/
theorem flrVfs_spec (s : State) : s.flrVfs.flrView = (s.hif.sansFlr.vfsOff, s.basins, s.weights, s.tmr) ∧
    (∀ k, s.flrVfs.ringFunc k = s.ringFunc k) ∧
    ∀ k, (s.flrVfs.ring k).config = if s.ringFunc k ∈ (List.range 15).map (fun i => i + 1) then Ring.initial.config else (s.ring k).config := by
  obtain ⟨hview, hring⟩ := flrEach_spec ((List.range 15).map (fun i => i + 1)) s
  unfold State.flrVfs
  obtain ⟨u, hu⟩ := exists_eq' (a' := ((List.range 15).map (fun i => i + 1)).foldl State.flrFunction s)
  rw [hu] at hview hring ⊢
  exact ⟨congrArg (fun w : Hif × Tab Basin × Memory × Time => (w.1.vfsOff, w.2.1, w.2.2.1, w.2.2.2)) hview, ringFunc_of_flr (t := u) hview, hring⟩

/-- A reset's last step: the PF's own FLR after those of the VFs. -/
theorem cleaned_of_flr {v : State} (hzero : FlrOf 0 s.flrVfs v) : v.hif.reset.sansFlr = s.hif.cleaned ∧ v.basins = s.basins ∧ v.weights = s.weights ∧
    ∀ k, s.ringFunc k < 16 → (v.ring k).en = false := by
  obtain ⟨hview, hfunc, hring⟩ := flrVfs_spec s
  have hvv := Eq.trans hzero.flrView hview
  simp only [State.flrView, Prod.mk.injEq] at hvv
  obtain ⟨hhif, hbasins, hweights, -⟩ := hvv
  refine ⟨?_, hbasins, hweights, fun k hk => ?_⟩
  · exact congrArg (fun w : Hif => w.reset.sansFlr) hhif
  · have hconf : (v.ring k).config = Ring.initial.config := by
      by_cases h0 : s.ringFunc k = 0
      · exact config_of_fixed (hzero.rings k ((hfunc k).trans h0))
      · refine (hzero.others k (fun h => h0 ((hfunc k).symm.trans h))).trans ((hring k).trans (if_pos ?_))
        exact List.mem_map.mpr ⟨s.ringFunc k - 1, List.mem_range.mpr (by omega), by omega⟩
    exact congrArg RingConfig.en hconf

/-- Every function reset, and the host interface's settings (R319). -/
theorem hifReset_spec (s : State) : s.hifReset.hif.sansFlr = s.hif.cleaned ∧ s.hifReset.basins = s.basins ∧ s.hifReset.weights = s.weights ∧
    ∀ k, s.ringFunc k < 16 → (s.hifReset.ring k).en = false := by
  have h := flrFunction_spec s.flrVfs 0
  unfold State.hifReset
  obtain ⟨v, hv⟩ := exists_eq' (a' := s.flrVfs.flrFunction 0)
  rw [hv] at h ⊢
  exact cleaned_of_flr h

/-- What every reset of all functions gives. -/
structure Cleaned (s t : State) : Prop where
  hif : t.hif.sansFlr = { s.hif.cleaned with mps := t.hif.mps, aspmL1 := t.hif.aspmL1, l23 := t.hif.l23, up := t.hif.up }
  basins : t.basins = s.basins
  weights : t.weights = s.weights
  rings : ∀ k, s.ringFunc k < 16 → (t.ring k).en = false

theorem cleaned_of_hif (h : t.hif.sansFlr = s.hif.cleaned) (hb : t.basins = s.basins) (hw : t.weights = s.weights)
    (hr : ∀ k, s.ringFunc k < 16 → (t.ring k).en = false) : Cleaned s t ∧ t.hif.up = s.hif.up := by
  have hmps : t.hif.mps = s.hif.mps := (congrArg Hif.mps h :)
  have haspm : t.hif.aspmL1 = s.hif.aspmL1 := (congrArg Hif.aspmL1 h :)
  have hl23 : t.hif.l23 = s.hif.l23 := (congrArg Hif.l23 h :)
  have hup : t.hif.up = s.hif.up := (congrArg Hif.up h :)
  refine ⟨⟨h.trans ?_, hb, hw, hr⟩, hup⟩
  rw [hmps, haspm, hl23, hup]
  rfl

theorem hifReset_cleaned (s : State) : Cleaned s s.hifReset ∧ s.hifReset.hif.up = s.hif.up := by
  obtain ⟨h, hb, hw, hr⟩ := hifReset_spec s
  exact cleaned_of_hif h hb hw hr

/-- HIF after a reset of the link. -/
def Hif.linkReset (h : Hif) : Hif :=
  { h with inL1 := false, inL11 := false, inL12 := false, l23 := false, mps := 128, aspmL1 := false, pmeStatus := false }

/-- What Hot Reset and DL_Down share (R320). -/
theorem linkReset_spec (s : State) : Cleaned s s.linkReset ∧ s.linkReset.hif.mps = 128 ∧ s.linkReset.postQ = [] ∧ s.linkReset.fc = none ∧
    s.linkReset.hif.aspmL1 = false ∧ s.linkReset.hif.up = s.hif.up := by
  obtain ⟨hreset, hup0⟩ := hifReset_cleaned s
  unfold State.linkReset
  obtain ⟨v, hv⟩ := exists_eq' (a' := s.hifReset)
  rw [hv] at hreset hup0 ⊢
  obtain ⟨⟨hfc, hpost⟩, hview⟩ := dropPosts_spec v
  obtain ⟨w, hw⟩ := exists_eq' (a' := v.dropPosts)
  rw [hw] at hfc hpost hview ⊢
  have hhif : w.hif.sansReport = v.hif.sansReport := hview.eq fun x => x.1.1
  have hup : w.hif.up = v.hif.up := (congrArg Hif.up hhif :)
  refine ⟨⟨?_, (hview.eq fun x => x.1.2.1).trans hreset.basins, (hview.eq fun x => x.1.2.2.1).trans hreset.weights, fun k hk => ?_⟩,
    rfl, hpost, hfc, rfl, hup.trans hup0⟩
  · have e1 := congrArg (fun h : Hif => h.linkReset.sansFlr) hhif
    have e2 := congrArg (fun h : Hif => h.linkReset) hreset.hif
    have e3 : w.hif.linkReset.sansFlr = ({ s.hif.cleaned with mps := v.hif.mps, aspmL1 := v.hif.aspmL1, l23 := v.hif.l23, up := v.hif.up } : Hif).linkReset :=
      Eq.trans e1 e2
    refine Eq.trans (b := w.hif.linkReset.sansFlr) rfl (e3.trans ?_)
    rw [← hup]
    rfl
  · exact (congrArg (fun rs => (Tab.getD rs k Ring.initial).en) (hview.eq fun x => x.2)).trans (hreset.rings k hk)

/-- Settles O50. -/
theorem hostResets : Obligations.HostResets := by
  intro s hup
  refine ⟨fun f hf hvf => ?_, ?_⟩
  · have h := flrFunction_spec s f.val
    have he : exec (.flr f) s = .next (s.flrFunction f.val) := by
      refine congrArg Host.Outcome.next ((if_neg (by rw [hup]; decide)).trans ((if_neg hf).trans (if_pos hvf)))
    obtain ⟨t, ht⟩ := exists_eq' (a' := s.flrFunction f.val)
    rw [ht] at h he
    obtain ⟨d, hd, hview⟩ := h.view
    simp only [State.resetView, Prod.mk.injEq] at hview
    obtain ⟨hhif, hbasins, hweights, -⟩ := hview
    have hbme : t.hif.bme = s.hif.bme.set f.val false := congrArg Hif.bme hhif
    have hend : t.hif.flrEnd = s.hif.flrEnd.set f.val (s.tmr.uptime + d) := congrArg Hif.flrEnd hhif
    refine ⟨t, he, ?_, fun hlen => ?_, fun g _ hg => ⟨config_of_fixed (h.rings g hg), congrArg Prod.snd (h.rings g hg)⟩, h.others, h.cmds,
      h.graphs, h.sessions, hbasins, hweights⟩
    · rw [hbme, List.getD_eq_getElem?_getD, List.getElem?_set]
      split
      · split <;> rfl
      · rename_i hne
        exact absurd rfl hne
    · have hget : t.hif.flrEnd.getD f.val 0 = s.tmr.uptime + d := by
        rw [hend, List.getD_eq_getElem?_getD, List.getElem?_set_self (by omega)]
        rfl
      rw [hget]
      omega
  · intro clean
    have hclean : ∀ t, Cleaned s t → clean t := fun t h =>
      ⟨fun g _ hg => h.rings g hg, congrArg Hif.vfEn h.hif, congrArg Hif.vfMse h.hif, congrArg Hif.mse h.hif, congrArg Hif.bars h.hif,
        congrArg Hif.mrrs h.hif, congrArg Hif.ecrcCheck h.hif, congrArg Hif.devEn h.hif, congrArg Hif.l1Idle h.hif, congrArg Hif.ltrFrame h.hif,
        congrArg Hif.ltrRun h.hif, congrArg Hif.ltrDoze h.hif, congrArg Hif.d3hot h.hif, h.basins, h.weights⟩
    have hlink := linkReset_spec s
    have hhot : exec .hotReset s = .next s.linkReset := congrArg Host.Outcome.next (if_pos hup)
    have hdown : exec .dlDown s = .next { s.linkReset with hif := { s.linkReset.hif with up := false } } := by
      have hgo : exec .dlDown s = execDlDown s := rfl
      rw [hgo]
      unfold execDlDown
      rw [if_pos hup]
    have hflr : exec (.flr 0) s = .next s.hifReset := congrArg Host.Outcome.next ((if_neg (by rw [hup]; decide)).trans (if_pos rfl))
    have hpf := (hifReset_cleaned s).1
    obtain ⟨t, ht⟩ := exists_eq' (a' := s.hifReset)
    obtain ⟨u, hu⟩ := exists_eq' (a' := s.linkReset)
    rw [ht] at hpf hflr
    rw [hu] at hlink hhot hdown
    obtain ⟨hc, hmps, hpost, hfc, haspm, hlup⟩ := hlink
    refine ⟨⟨t, hflr, hclean t hpf⟩, ⟨u, hhot, hclean u hc, hmps, hpost, hfc, haspm, hlup⟩, ⟨_, hdown, hclean _ ?_, hpost, hfc, haspm, rfl⟩⟩
    exact ⟨congrArg (fun h : Hif => ({ h with up := false } : Hif)) hc.hif, hc.basins, hc.weights, hc.rings⟩

end Sys2Proof.Machine
end

section
/-! PROOFS. Cell operations on a terrace, where PWR lists no terrace: what fails, and where. -/

namespace Sys2Proof.Machine

set_option Elab.async false

/-- A session that is open to the PF, with one record, of basin 0. -/
def oneSession : Session :=
  { num := 1, func := 0, addr := 0, len := 0, imageId := 0, recs := [{ ter := 0, slot := 0, rows := 1, cols := 1, tag := 0, off := 0 }]
    hdr := [], key := [], closing := none }

/-- A packet at the head of a Weight Engine ring, in a state whose PWR lists no terrace: basin 0 is VALID. -/
def unlistedHead (p : List Byte) : State :=
  { State.reset with
    hif := { State.reset.hif with bme := List.replicate 16 true }
    pwr := { State.reset.pwr with terraces := [] }
    wpe := { State.reset.wpe with sessions := [oneSession] }
    rings := [(0, { Ring.initial with en := true, active := true, phase := true, log2 := 6, engine := 2, cls := 2
                                      places := [p], sqHead := 1, sqTail := 1 })]
    basins := [(0, { Basin.initial 0 with wstate := .valid })] }

theorem unlistedHead_reporting (p : List Byte) : Reporting (unlistedHead p) 0 :=
  ⟨rfl, show State.reset.pins.role ≠ .member by decide, fun _ h => nomatch h⟩

/-- ERASE_BASIN of basin 0. -/
def erasePacket : List Byte := [0x33, 0, 0, 0, 1] ++ List.replicate 59 0

/-- VERIFY of record 0 of session 1. -/
def verifyPacket : List Byte := [0x32, 0, 0, 0, 1, 0, 0, 0, 0, 0, 0, 0, 0, 0, 0, 0, 1] ++ List.replicate 47 0

/-- Refutes O52: ERASE_BASIN asks for its terrace, but a state whose PWR lists fewer than 64 terraces has no place to stage it in, so it
still reads as off. The statement does not have the number of terraces, which O6 keeps. -/
theorem not_weightSessions : ¬ Obligations.WeightSessions := by
  rintro ⟨-, ⟨herase, -⟩, -⟩
  obtain ⟨t, he, -, hter, -⟩ := (herase (unlistedHead erasePacket) 0 erasePacket 0 (by decide) (unlistedHead_reporting _) rfl rfl (by decide)).2
    (by decide) (by decide)
  have hexec : (match exec (.eraseBasin 0) (unlistedHead erasePacket) with | .next t => t.terPower 0 | _ => .good) = .off := by decide
  rw [he] at hexec
  exact hter (by decide) hexec

/-- Refutes O53: VERIFY asks for the terrace of its record, which a state whose PWR lists fewer than 64 terraces has no place to stage,
so it still reads as off. The statement does not have the number of terraces, which O6 keeps. -/
theorem not_rowsProgrammed : ¬ Obligations.RowsProgrammed := by
  rintro ⟨-, hverify, -⟩
  obtain ⟨t, he, -, -, hter, -⟩ := hverify (unlistedHead verifyPacket) 0 verifyPacket oneSession
    { ter := 0, slot := 0, rows := 1, cols := 1, tag := 0, off := 0 } 0 (by decide) (unlistedHead_reporting _) rfl (by decide)
  have hexec : (match exec (.verify 0) (unlistedHead verifyPacket) with | .next t => t.terPower 0 | _ => .good) = .off := by decide
  rw [he] at hexec
  exact hter (by decide) hexec

end Sys2Proof.Machine
end

section
/-! PROOFS. A shadow and a loaded graph under one handle: what fails as the standby takes over, and where. -/

namespace Sys2Proof.Machine

set_option Elab.async false

/-- A placement of device 0 that takes slot 0. -/
def delayedPlace : Placement :=
  { layer := 0, signedIn := false, feature := false, offIn := false, offOut := false, dev := 0, ter := 0, gang := 1, lane := 0
    slots := [0], fanin := 32, cols := 32, colBase := 0, group := 1, p := 0, q := 0, scale := 0, thetaZ := 0, biasRows := 0
    step := 0, inSlot := 0, outSlot := 0, edgeFirst := 0, edgeCount := 1, rf := 0, laneB := 0
    wCycles := 0, doneRun := 0, doneEco := 0, tags := [0] }

/-- A loaded graph with handle 1 and one delay edge, into a slot of device 0 whose buffer serves run 0. -/
def delayedGraph : Graph :=
  { plainGraph with
    cgd := { plainGraph.cgd with
      places := [delayedPlace]
      edges := [{ src := 0, colFirst := 0, colCount := 32, toPort := false, delay := true, dst := 0, halfOff := 0, hops := 0, allow := 0 }] }
    slots := [{ num := 0, dev := 0, ter := 0, isOut := false, bank := 0, line0 := 0, lines := 1
                bufs := [{ mask := [], zmap := [], complete := false, poisoned := false, runSeq := 0 }] }] }

/-- A standby with that graph, and a shadow without edges under the same handle whose next run is run 5. -/
def twiceHandled : State :=
  { State.reset with
    pins := { State.reset.pins with role := .member }
    graphs := [delayedGraph]
    casc := { State.reset.casc with shadows := [{ plainGraph with nextSeq := 5 }] } }

/-- Refutes O60: as the standby takes over, the shadow's delay edges are looked up by its handle, and where a loaded graph has the
same handle they are that graph's: its buffer is made to serve run 5, although no edge of a shadow is a delay edge. The statement
does not have handles apart. -/
theorem not_membersWork : ¬ Obligations.MembersWork := by
  rintro ⟨-, hroute, -⟩
  obtain ⟨-, htake, -⟩ := hroute twiceHandled [0] rfl rfl
  obtain ⟨t, he, -, hkept, -⟩ := htake 5 (by decide) rfl
  obtain ⟨hgraphs, -⟩ := hkept (by decide)
  have hserved : (match exec (.routingTableWrite [0] (some 5)) twiceHandled with
      | .next t => t.graphs.flatMap (fun g => g.slots.flatMap (fun x => x.bufs.map (fun b => b.runSeq)))
      | _ => []) = [5] := by decide
  rw [he] at hserved
  dsimp only at hserved
  rw [hgraphs] at hserved
  exact absurd hserved (by decide)

end Sys2Proof.Machine
end

section
/-! PROOFS. Pairs, and what the end of a command does to the list of commands. -/

namespace Sys2Proof.Machine

set_option Elab.async false

variable {s t u : State}

/-! ### One pair changed -/

theorem pair_updPair (s : State) (k : Nat) (f : Pair → Pair) (j : Nat) :
    (s.updPair k f).pair j = if j = k ∧ k < s.casc.pairs.length then f (s.pair k) else s.pair j := by
  unfold State.pair State.updPair
  dsimp only
  rw [List.getD_eq_getElem?_getD, List.getD_eq_getElem?_getD, List.getD_eq_getElem?_getD, List.getElem?_modify]
  by_cases hj : j = k
  · subst hj
    by_cases hl : j < s.casc.pairs.length
    · simp [hl]
    · simp [hl]
  · rw [if_neg fun h => hj h.1]
    cases s.casc.pairs[j]? <;> simp [Ne.symm hj]

theorem pair_updPair_ne {j k : Nat} (h : j ≠ k) (f : Pair → Pair) : (s.updPair k f).pair j = s.pair j := by
  rw [pair_updPair, if_neg fun e => h e.1]

/-- A pair that is in some state has its place among the pairs. -/
theorem pair_lt {k : Nat} (h : (s.pair k).state ≠ 0) : k < s.casc.pairs.length := by
  by_contra hk
  refine h ?_
  unfold State.pair
  rw [List.getD_eq_default _ _ (Nat.le_of_not_lt hk)]
  rfl

theorem pair_updPair_self {k : Nat} (h : k < s.casc.pairs.length) (f : Pair → Pair) : (s.updPair k f).pair k = f (s.pair k) := by
  rw [pair_updPair, if_pos ⟨rfl, h⟩]

theorem pair_of_casc (h : t.casc = s.casc) (k : Nat) : t.pair k = s.pair k := congrArg (fun x : Casc => x.pairs.getD k Pair.initial) h

/-! ### Records put into a queue and emitted (R469, R475) -/

/-- Everything but the pairs and what is sent. -/
def State.sansPairs (s : State) : State := { s.sansReport with casc := { s.casc with pairs := [] } }

/-- From `s` to `t` pair k emits and queues records, and nothing else follows but what is sent. -/
structure Pumps (k : Nat) (s t : State) : Prop where
  pair : t.pair k = { s.pair k with window := (t.pair k).window, queue := (t.pair k).queue, emitted := (t.pair k).emitted }
  window : ∃ new, (t.pair k).window = (s.pair k).window ++ new
  others : ∀ j, j ≠ k → t.pair j = s.pair j
  agrees : Agrees State.sansPairs s t

theorem Pumps.refl (k : Nat) (s : State) : Pumps k s s := ⟨rfl, ⟨[], (List.append_nil _).symm⟩, fun _ _ => rfl, rfl⟩

theorem Pumps.trans {k : Nat} (h : Pumps k s t) (g : Pumps k t u) : Pumps k s u := by
  obtain ⟨a, ha⟩ := h.window
  obtain ⟨b, hb⟩ := g.window
  refine ⟨g.pair.trans ?_, ⟨a ++ b, by rw [hb, ha, List.append_assoc]⟩, fun j hj => (g.others j hj).trans (h.others j hj),
    h.agrees.trans g.agrees⟩
  rw [h.pair]

theorem Pumps.foldl {α : Type} {k : Nat} {l : List α} {f : State → α → State} (h : Pumps k s t) (hf : ∀ u a, Pumps k u (f u a)) :
    Pumps k s (l.foldl f t) := by
  induction l generalizing t with
  | nil => exact h
  | cons a l ih => exact ih (h.trans (hf t a))

theorem emit_pumps (k : Nat) (s : State) (e : Emit) : Pumps k s (s.emit e) := ⟨rfl, ⟨[], (List.append_nil _).symm⟩, fun _ _ => rfl, rfl⟩

/-- Pair k is changed in its window, its queue and its count of records alone. -/
theorem updPair_pumps (k : Nat) (s : State) (f : Pair → Pair)
    (hf : ∀ p, f p = { p with window := (f p).window, queue := (f p).queue, emitted := (f p).emitted })
    (hw : ∀ p, ∃ new, (f p).window = p.window ++ new) : Pumps k s (s.updPair k f) := by
  refine ⟨?_, ?_, fun j hj => pair_updPair_ne hj f, rfl⟩
  · rw [pair_updPair]
    split
    · exact hf _
    · rfl
  · rw [pair_updPair]
    split
    · exact hw _
    · exact ⟨[], (List.append_nil _).symm⟩

theorem mirrorPump_pumps (fuel : Nat) (s : State) (k : Nat) : Pumps k s (s.mirrorPump fuel k) := by
  induction fuel generalizing s with
  | zero => exact .refl k s
  | succ n ih =>
    unfold State.mirrorPump
    dsimp only
    split
    · exact .refl k s
    · next m q _ =>
      split
      · refine Pumps.trans ?_ (ih _)
        have hupd := updPair_pumps k s (fun p =>
          { p with queue := q, window := p.window ++ [{ m with uptime := s.tmr.uptime }], emitted := m.seq + 1 })
          (fun _ => rfl) (fun _ => ⟨_, rfl⟩)
        split
        · exact hupd.trans (emit_pumps k _ _)
        · exact hupd
      · exact .refl k s

theorem mirrorPush_pumps (s : State) (k ring tag opcode handle runSeq : Nat) (parts : List (Nat × List Byte × Option (Nat × Nat)))
    (first last : Bool) : Pumps k s (s.mirrorPush k ring tag opcode handle runSeq parts first last) := by
  unfold State.mirrorPush
  refine Pumps.trans (updPair_pumps k s _ (fun _ => ?_) fun _ => ?_) (mirrorPump_pumps 128 _ k)
  · rfl
  · exact ⟨[], (List.append_nil _).symm⟩

/-- A snapshot is records put into the queue. -/
theorem snapshot_pumps (s : State) (k ring tag : Nat) : Pumps k s (s.snapshot k ring tag) := by
  have hone := fun (v : State) (h seq : Nat) (parts : List (Nat × List Byte × Option (Nat × Nat))) =>
    mirrorPush_pumps v k ring tag 0x54 h seq parts true true
  unfold State.snapshot
  dsimp only
  refine (Pumps.foldl (hone ..) fun v g => ?_).trans (hone ..)
  exact (Pumps.foldl (hone ..) fun w p => hone ..).trans (hone ..)

theorem tell_pumps (k : Nat) (s : State) (d : Nat) (m : LinkMsg) : Pumps k s (s.tell d m) := by
  unfold State.tell
  split
  · exact .refl k s
  · exact emit_pumps k s _

theorem Pumps.cmds {k : Nat} (h : Pumps k s t) : t.cmds = s.cmds := h.agrees.eq fun w => w.cmds

theorem Pumps.pendAct {k : Nat} (h : Pumps k s t) : t.casc.pendAct = s.casc.pendAct := h.agrees.eq fun w => w.casc.pendAct

/-! ### The list of commands as one of them ends -/

/-- What the removal of a number's commands, and the holding of their records, keep of the list of commands, an end keeps. -/
structure Lasting (P : List Cmd → Prop) : Prop where
  removed : ∀ l (k : Nat), P l → P (l.filter (fun y => y.cid != k))
  held : ∀ l (k : Nat) (e : End), P l → P (l.map (fun y => if y.cid == k then { y with held := some e } else y))

variable {P : List Cmd → Prop}

theorem Lasting.endCmd (hP : Lasting P) (c : Nat) (e : End) (h : P s.cmds) : P (s.endCmd c e).cmds := by
  rcases endCmd_cmds s c e with ⟨y, -, -, he⟩ | ⟨y, -, -, he⟩ | ⟨-, he⟩
  · rw [he]
    exact hP.held _ _ _ h
  · rw [he]
    exact hP.removed _ _ h
  · rw [he]
    exact h

theorem Lasting.closeLists (hP : Lasting P) (fuel : Nat) (h : P s.cmds) : P (State.closeLists fuel s).cmds := by
  induction fuel generalizing s with
  | zero => exact h
  | succ n ih =>
    unfold State.closeLists
    split
    · exact h
    · exact ih (hP.endCmd _ _ h)

theorem Lasting.closeSessions (hP : Lasting P) (fuel : Nat) (h : P s.cmds) : P (State.closeSessions fuel s).cmds := by
  have hidle : ∀ v : State, v.wpeIdle.cmds = v.cmds := fun v => by
    unfold State.wpeIdle
    split <;> rfl
  induction fuel generalizing s with
  | zero => exact h
  | succ n ih =>
    unfold State.closeSessions
    split
    · exact h
    · next y _ =>
      refine ih ?_
      rw [hidle]
      exact hP.endCmd (s := { s with wpe := { s.wpe with sessions := s.wpe.sessions.filter (fun z => z.num != y.num) } }) _ _ h

theorem Lasting.settle (hP : Lasting P) (g : Nat) (h : P s.cmds) : P (s.settle g).cmds := by
  unfold State.settle
  rw [fetchWork_cmds]
  refine hP.closeLists 3 ?_
  rw [settleLoop_cmds]
  exact h

theorem Lasting.finish (hP : Lasting P) (c : Nat) (e : End) (h : P s.cmds) : P (s.finish c e).cmds := by
  unfold State.finish
  split
  · exact h
  · exact hP.settle _ (hP.closeSessions 4 (hP.closeLists 3 (hP.endCmd c e h)))

/-- The command found under a number waits for no pair. -/
def Unmirrored (c : Nat) (l : List Cmd) : Prop := ∀ x, l.find? (fun y => y.cid == c) = some x → x.mir = []

theorem Unmirrored.map {c : Nat} {l : List Cmd} {f : Cmd → Cmd} (hcid : ∀ x, (f x).cid = x.cid) (hmir : ∀ x, x.mir = [] → (f x).mir = [])
    (h : Unmirrored c l) : Unmirrored c (l.map f) := by
  intro x hx
  have hcomp : ((fun y : Cmd => y.cid == c) ∘ f) = fun y => y.cid == c := by
    funext y
    simp only [Function.comp, hcid]
  rw [List.find?_map, hcomp] at hx
  obtain ⟨z, hz, rfl⟩ := Option.map_eq_some_iff.mp hx
  exact hmir z (h z hz)

theorem Unmirrored.lasting (c : Nat) : Lasting (Unmirrored c) where
  removed l k h := by
    intro x hx
    have hxc : (x.cid == c) = true := List.find?_some (p := fun y : Cmd => y.cid == c) hx
    have hxk : (x.cid != k) = true := (List.mem_filter.mp (List.mem_of_find?_eq_some hx)).2
    rw [List.find?_filter] at hx
    refine h x ?_
    rw [← hx]
    congr 1
    funext y
    by_cases hy : (y.cid == c) = true
    · rw [hy, show (y.cid != k) = true by rw [eq_of_beq hy, ← eq_of_beq hxc]; exact hxk]
      rfl
    · rw [Bool.eq_false_iff.mpr hy]
      simp
  held l k e h := by
    refine h.map (fun x => ?_) fun x hx => ?_
    · split <;> rfl
    · split <;> exact hx

/-- A command that no pair mirrors is gone once it has ended, whether or not it was there. -/
theorem Unmirrored.finish_gone {c : Nat} (h : Unmirrored c s.cmds) (e : End) : (s.finish c e).cmd? c = none := by
  cases hx : s.cmd? c with
  | none =>
    unfold State.finish
    rw [hx]
    exact hx
  | some x =>
    have hcid := cmd?_cid hx
    subst hcid
    exact Machine.finish_gone hx (h x hx) e

theorem Unmirrored.releaseHeld {c : Nat} (fuel : Nat) (h : Unmirrored c s.cmds) : Unmirrored c (s.releaseHeld fuel).cmds := by
  induction fuel generalizing s with
  | zero => exact h
  | succ n ih =>
    unfold State.releaseHeld
    split
    · exact h
    · refine ih ((Unmirrored.lasting c).finish _ _ (h.map (fun x => ?_) fun x hx => ?_))
      · split <;> rfl
      · split
        · rfl
        · exact hx

/-! ### Commands that end -/

/-- From `s` to `t` commands end: the rings' bookkeeping, and what commands wait for. -/
structure Ends (s t : State) : Prop where
  agrees : Agrees State.sansBooks s t
  devStat : ∀ k, s.hif.devStat.getLsbD k = true → t.hif.devStat.getLsbD k = true

theorem Ends.refl (s : State) : Ends s s := ⟨rfl, fun _ => id⟩

theorem Ends.trans (h : Ends s t) (k : Ends t u) : Ends s u := ⟨h.agrees.trans k.agrees, fun i => k.devStat i ∘ h.devStat i⟩

theorem Books.ends (h : Books s t) : Ends s t := ⟨h.agrees, h.devStat⟩

theorem Ends.foldl {α : Type} {l : List α} {f : State → α → State} (h : Ends s t) (hf : ∀ u a, Ends u (f u a)) : Ends s (l.foldl f t) := by
  induction l generalizing t with
  | nil => exact h
  | cons a l ih => exact ih (h.trans (hf t a))

theorem updCmd_ends (s : State) (c : Nat) (f : Cmd → Cmd) : Ends s (s.updCmd c f) := ⟨rfl, fun _ => id⟩

theorem releaseHeld_ends (fuel : Nat) (s : State) : Ends s (s.releaseHeld fuel) := by
  induction fuel generalizing s with
  | zero => exact .refl s
  | succ n ih =>
    unfold State.releaseHeld
    split
    · exact .refl s
    · exact ((updCmd_ends s _ _).trans (finish_books _ _ _).ends).trans (ih _)

/-- With no record held nothing is released. -/
theorem releaseHeld_of_none (fuel : Nat) (h : ∀ c ∈ s.cmds, c.held = none) : s.releaseHeld fuel = s := by
  cases fuel with
  | zero => rfl
  | succ n =>
    unfold State.releaseHeld
    rw [List.find?_eq_none.mpr fun c hc => by simp [h c hc]]

theorem Ends.casc (h : Ends s t) : t.casc = s.casc := h.agrees.eq fun w => w.casc

theorem Ends.bist (h : Ends s t) : t.bist = s.bist := h.agrees.eq fun w => w.bist

theorem Ends.pair (h : Ends s t) (k : Nat) : t.pair k = s.pair k := pair_of_casc h.casc k

end Sys2Proof.Machine
end

section
/-! PROOFS. Pairs of devices: MIRROR_CONTROL, acknowledgements, suspension and resending (R470 to R479). -/

namespace Sys2Proof.Machine

set_option Elab.async false

variable {s t u : State}

/-! ### Conditions and the device log -/

theorem dlog_next (s : State) (source event : Nat) (arg0 : Word) (arg1 : DWord) :
    (s.dlog source event arg0 arg1).bist.dlogNext = s.bist.dlogNext + 1 := by
  unfold State.dlog
  exact (devVec_report _ 3).agrees (view := fun w => w.bist.dlogNext)

theorem dlog_casc (s : State) (source event : Nat) (arg0 : Word) (arg1 : DWord) : (s.dlog source event arg0 arg1).casc = s.casc := by
  unfold State.dlog
  exact (devVec_report _ 3).casc_eq

/-! ### Head packets that act on the chain (R472) -/

theorem LedgerOnly.withCasc (h : LedgerOnly s t) (a : Casc) : LedgerOnly { s with casc := a } { t with casc := a } :=
  ⟨congrArg (fun x : State => { x with casc := a }) h.1, h.2⟩

/-- A head packet that sets the chain's block and is done. -/
theorem completeWith_casc {g op : Nat} {b : Bool} {p : List Byte} {k : State → State} {x : Casc} (h : s.ready g op b = some p)
    (hm : Reporting s g) (hk : k (s.accept g p .plain none 0) = { s.accept g p .plain none 0 with casc := x }) (e : End) :
    HeadRecorded s (s.completeWith g p k e) g p e ∧ (s.completeWith g p k e).casc = x ∧
      LedgerOnly { s with casc := x } (s.completeWith g p k e) := by
  unfold State.completeWith
  rw [hk]
  obtain ⟨hmast, hrole, hfresh⟩ := hm
  refine ⟨headRecorded_of_finish (y := s.headCmd g p .plain none 0) e h ?_ ⟨hmast, hrole, accept_fresh hfresh g p _ _ _⟩
    (accept_cmd? hfresh g p _ _ _) rfl rfl rfl rfl rfl rfl rfl, ?_, ?_⟩
  · exact (accept_same s g p .plain none 0).trans ⟨fun _ => rfl, rfl, rfl⟩
  · exact (finish_books _ _ _).ends.casc
  · exact ((accept_ledger s g p .plain none 0).withCasc x).trans (finish_ledger _ _ _)

/-! ### MIRROR_CONTROL (R472, R473, R479) -/

section
variable {g : Fin 1024} {p : List Byte}

/-- A MIRROR_CONTROL that is refused leaves the ledger and its record. -/
def MirrorRefused (s : State) (g : Fin 1024) (p : List Byte) : Prop :=
  Yields (.mirrorControl g) s (fun t => LedgerOnly s t ∧ HeadRecorded s t g.val p endState)

theorem mirrorRefused_of (h : s.ready g.val 0x54 false = some p) (hm : Reporting s g.val)
    (hx : exec (.mirrorControl g) s = .next (s.refuse g.val p endState)) : MirrorRefused s g p :=
  ⟨_, hx, refuse_ledger _ _ _ _, refuse_recorded _ h hm⟩

/-- OP 0 of a device in no pair is refused. -/
theorem mirrorOff_refused (h : s.ready g.val 0x54 false = some p) (hm : Reporting s g.val) (hop : par p 0x10 1 = 0)
    (hpair : s.pairIdx (par p 0x12 1) true = none) : MirrorRefused s g p := by
  refine mirrorRefused_of h hm (congrArg Host.Outcome.next ((onHead_some _ h).trans ?_))
  simp only [hop, hpair]

/-- OP 1 or 2 of a device that may not join is refused. -/
theorem mirrorOn_refused (h : s.ready g.val 0x54 false = some p) (hm : Reporting s g.val) (hop : par p 0x10 1 = 1 ∨ par p 0x10 1 = 2)
    (hmay : s.mayPair (par p 0x12 1) = false) : MirrorRefused s g p := by
  refine mirrorRefused_of h hm (congrArg Host.Outcome.next ((onHead_some _ h).trans ?_))
  rcases hop with hop | hop <;> simp [hop, hmay]

/-- OP 3 of a device that is active in no pair is refused. -/
theorem mirrorFail_refused (h : s.ready g.val 0x54 false = some p) (hm : Reporting s g.val) (hop : par p 0x10 1 = 3)
    (hno : ∀ k, k < 3 → ¬((s.pair k).state = 3 ∧ (s.pair k).active = par p 0x12 1)) : MirrorRefused s g p := by
  have hnone : (List.range 3).find? (fun k => (s.pair k).state == 3 && (s.pair k).active == par p 0x12 1) = none :=
    List.find?_eq_none.mpr fun k hk => by simpa using hno k (List.mem_range.mp hk)
  refine mirrorRefused_of h hm (congrArg Host.Outcome.next ((onHead_some _ h).trans ?_))
  simp only [hop, hnone]

/-- A pending pair taken back. -/
def State.unpend (k : Nat) (t : State) : State :=
  let u := (({ t with casc := { t.casc with pendAct := none } } : State).endWaits k).updPair k (fun _ => Pair.initial)
  u.releaseHeld (u.cmds.length + 1)

/-- The chain's block with a pending pair taken back. -/
def Casc.unpend (x : Casc) (k : Nat) : Casc :=
  { x with
    pendAct := none
    pairs := (x.pairs.modify k (fun q => { q with snapCid := none, failCid := none })).modify k (fun _ => Pair.initial) }

/-- Where no command waits, nothing else follows. -/
theorem unpend_eq {k : Nat} (hsnap : (t.pair k).snapCid = none) (hfail : (t.pair k).failCid = none) (hheld : ∀ c ∈ t.cmds, c.held = none) :
    State.unpend k t = { t with casc := t.casc.unpend k } := by
  have hends : ∀ v : State, (v.pair k).snapCid = none → (v.pair k).failCid = none →
      v.endWaits k = v.updPair k (fun q => { q with snapCid := none, failCid := none }) := fun v hs hf => by
    unfold State.endWaits
    dsimp only
    rw [hs, hf]
    rfl
  unfold State.unpend
  dsimp only
  rw [hends { t with casc := { t.casc with pendAct := none } } hsnap hfail, releaseHeld_of_none]
  · rfl
  · exact hheld

/-- A pending pair taken back is as it was at first, and every other as it is. -/
theorem pair_unpend (h : t.casc = s.casc.unpend k) : t.pair k = Pair.initial ∧ ∀ j, j ≠ k → t.pair j = s.pair j := by
  have hpair : ∀ j, t.pair j = ((s.updPair k (fun q => { q with snapCid := none, failCid := none })).updPair k (fun _ => Pair.initial)).pair j :=
    fun j => (congrArg (fun x : Casc => x.pairs.getD j Pair.initial) h :)
  refine ⟨?_, fun j hj => ?_⟩
  · rw [hpair]
    by_cases hk : k < s.casc.pairs.length
    · exact pair_updPair_self (by simpa [State.updPair] using hk) _
    · unfold State.pair State.updPair
      rw [List.getD_eq_default]
      simpa using hk
  · rw [hpair, pair_updPair_ne hj, pair_updPair_ne hj]

/-- OP 0 takes a pending pair back. -/
theorem mirrorOff_pending {k : Nat} (h : s.ready g.val 0x54 false = some p) (hm : Reporting s g.val) (hop : par p 0x10 1 = 0)
    (hpair : s.pairIdx (par p 0x12 1) true = some k) (hst : (s.pair k).state = 1) (hsnap : (s.pair k).snapCid = none)
    (hfail : (s.pair k).failCid = none) (hheld : ∀ c ∈ s.cmds, c.held = none) :
    Yields (.mirrorControl g) s (fun t => HeadRecorded s t g.val p endDone ∧ t.casc.pendAct = none ∧
      t.pair k = Pair.initial ∧ (∀ j, j ≠ k → t.pair j = s.pair j) ∧
      LedgerOnly { s with casc := { s.casc with pendAct := none, pairs := t.casc.pairs } } t) := by
  have hnone : ∀ c ∈ (s.accept g.val p .plain none 0).cmds, c.held = none := fun c hc => by
    rcases List.mem_append.mp hc with hc | hc
    · exact hheld c hc
    · rw [List.mem_singleton.mp hc]
  have hx : exec (.mirrorControl g) s = .next (s.completeWith g.val p (State.unpend k) endDone) := by
    refine congrArg Host.Outcome.next ((onHead_some _ h).trans ?_)
    simp only [hop, hpair, hst, if_true]
    rfl
  obtain ⟨hrec, hcasc, hledger⟩ := completeWith_casc h hm
    (unpend_eq (t := s.accept g.val p .plain none 0) hsnap hfail hnone) endDone
  obtain ⟨hself, hothers⟩ := pair_unpend (s := s) hcasc
  refine ⟨_, hx, hrec, (congrArg Casc.pendAct hcasc :), hself, hothers, ?_⟩
  rw [hcasc]
  exact hledger

/-- The pairs as OP 1 leaves them: the pending one given up, the new one in the first free place. -/
def pendPairs (l : List Pair) (np : Pair) : List Pair :=
  let clean := l.map (fun (x : Pair) => if x.state = 1 then Pair.initial else x)
  match clean.findIdx? (fun x => x.state == 0) with
  | some k => clean.set k np
  | none => clean

/-- Where some pair is free or pending, the new one has its place. -/
theorem pendPairs_place {l : List Pair} {k : Nat} (hk : k < l.length) (hfree : (l.getD k Pair.initial).state < 2) (np : Pair) :
    ∃ j, (pendPairs l np).getD j Pair.initial = np := by
  have hmem : ∃ x ∈ l.map (fun (x : Pair) => if x.state = 1 then Pair.initial else x), (x.state == 0) = true := by
    refine ⟨_, List.mem_map.mpr ⟨l[k], List.getElem_mem hk, rfl⟩, ?_⟩
    rw [List.getD_eq_getElem _ _ hk] at hfree
    split
    · rfl
    · next h1 => simpa using (by omega : l[k].state = 0)
  obtain ⟨j, hj⟩ : ∃ j, (l.map (fun (x : Pair) => if x.state = 1 then Pair.initial else x)).findIdx? (fun x => x.state == 0) = some j := by
    cases hf : (l.map (fun (x : Pair) => if x.state = 1 then Pair.initial else x)).findIdx? (fun x => x.state == 0) with
    | none =>
      obtain ⟨x, hx, hx0⟩ := hmem
      rw [List.findIdx?_eq_none_iff.mp hf x hx] at hx0
      cases hx0
    | some j => exact ⟨j, rfl⟩
  obtain ⟨hlt, -⟩ := List.findIdx?_eq_some_iff_getElem.mp hj
  refine ⟨j, ?_⟩
  unfold pendPairs
  dsimp only
  rw [hj]
  dsimp only
  rw [List.getD_eq_getElem _ _ (by simpa using hlt), List.getElem_set_self]

/-- The chain's block with a device pending. -/
def Casc.pend (x : Casc) (peer : Nat) (async : Bool) : Casc :=
  { x with
    pendAct := some (peer, async)
    pairs := pendPairs x.pairs { Pair.initial with active := peer, async := async, state := 1 } }

/-- OP 1 notes the active device. -/
theorem mirrorPending_yields (h : s.ready g.val 0x54 false = some p) (hm : Reporting s g.val) (hop : par p 0x10 1 = 1)
    (hmay : s.mayPair (par p 0x12 1) = true) : Yields (.mirrorControl g) s (fun t => HeadRecorded s t g.val p endDone ∧
      t.casc.pendAct = some (par p 0x12 1, par p 0x11 1 == 1) ∧
      LedgerOnly { s with casc := { s.casc with pendAct := some (par p 0x12 1, par p 0x11 1 == 1), pairs := t.casc.pairs } } t ∧
      ((∃ k, k < 3 ∧ k < s.casc.pairs.length ∧ (s.pair k).state < 2) →
        ∃ k, (t.pair k).state = 1 ∧ (t.pair k).active = par p 0x12 1 ∧ (t.pair k).async = (par p 0x11 1 == 1))) := by
  have hx : exec (.mirrorControl g) s = .next (s.completeWith g.val p
      (fun t => { t with casc := t.casc.pend (par p 0x12 1) (par p 0x11 1 == 1) }) endDone) := by
    refine congrArg Host.Outcome.next ((onHead_some _ h).trans ?_)
    simp only [hop, hmay, Bool.not_true, Bool.false_eq_true, if_false]
    rfl
  obtain ⟨hrec, hcasc, hledger⟩ := completeWith_casc (x := s.casc.pend (par p 0x12 1) (par p 0x11 1 == 1))
    (k := fun t => { t with casc := t.casc.pend (par p 0x12 1) (par p 0x11 1 == 1) }) h hm rfl endDone
  refine ⟨_, hx, hrec, (congrArg Casc.pendAct hcasc :), ?_, fun hfree => ?_⟩
  · rw [hcasc]
    exact hledger
  · obtain ⟨k, -, hk, hst⟩ := hfree
    obtain ⟨j, hj⟩ := pendPairs_place hk hst { Pair.initial with active := par p 0x12 1, async := par p 0x11 1 == 1, state := 1 }
    refine ⟨j, ?_⟩
    unfold State.pair
    rw [hcasc, Casc.pend, hj]
    exact ⟨rfl, rfl, rfl⟩

/-- A pair that has records to acknowledge does not fail over. -/
theorem drainFailover_of_window {k : Nat} (h : (t.pair k).window ≠ []) : t.drainFailover k = t := by
  unfold State.drainFailover
  dsimp only
  split
  · rfl
  · rw [if_neg]
    rintro ⟨-, hw, -⟩
    exact h (List.isEmpty_iff.mp hw)

/-- A pair that no OP 3 waits for does not fail over. -/
theorem drainFailover_of_none {k : Nat} (h : (t.pair k).failCid = none) : t.drainFailover k = t := by
  unfold State.drainFailover
  dsimp only
  rw [h]

theorem Stands.updPair {c : Cmd} (h : Stands c s) (k : Nat) (f : Pair → Pair) : Stands c (s.updPair k f) := ⟨h.mem, h.only, h.open_⟩

/-- A command that stands for a pair with records to acknowledge waits while its ring settles. -/
theorem failWait_spec {c : Cmd} {k : Nat} (h : Stands c s) (hb : ∀ n k, c.body ≠ .listCall n k) (hst : (s.pair k).state = 3)
    (hwin : (s.pair k).window ≠ []) (n g : Nat) :
    (((s.updPair k (fun q => { q with failCid := some n })).drainFailover k).settle g).pair k = { s.pair k with failCid := some n } ∧
    c ∈ (((s.updPair k (fun q => { q with failCid := some n })).drainFailover k).settle g).cmds := by
  have hself := pair_updPair_self (pair_lt (s := s) (k := k) (by rw [hst]; decide)) (fun q => { q with failCid := some n })
  rw [drainFailover_of_window (by rw [hself]; exact hwin), (settle_books _ _).ends.pair, hself]
  exact ⟨rfl, (h.updPair k _).settle hb g⟩

/-- OP 3 of an active device waits for its pair to drain. -/
theorem mirrorFail_waits {k : Nat} (h : s.ready g.val 0x54 false = some p) (hm : Reporting s g.val) (hop : par p 0x10 1 = 3)
    (hfind : (List.range 3).find? (fun j => (s.pair j).state == 3 && (s.pair j).active == par p 0x12 1) = some k)
    (hwin : (s.pair k).window ≠ []) : Yields (.mirrorControl g) s (fun t => (t.pair k).failCid = some s.nextCid ∧
      (t.pair k).state = 3 ∧ (t.pair k).window = (s.pair k).window ∧ ∃ c ∈ t.cmds, c.cid = s.nextCid) := by
  have hst : (s.pair k).state = 3 := by
    have := List.find?_some hfind
    simp only [Bool.and_eq_true, beq_iff_eq] at this
    exact this.1
  have hx : exec (.mirrorControl g) s = .next ((((s.accept g.val p (.mirror 3 0 (par p 0x12 1)) none 0).updPair k
      (fun q => { q with failCid := some s.nextCid })).drainFailover k).settle g.val) := by
    refine congrArg Host.Outcome.next ((onHead_some _ h).trans ?_)
    simp only [hop, hfind]
  obtain ⟨-, -, hfresh⟩ := hm
  obtain ⟨hself, hmem⟩ := failWait_spec (accept_stands hfresh g.val p (.mirror 3 0 (par p 0x12 1)) none 0 (fun _ _ => by simp))
    (fun _ _ => by simp [State.headCmd]) hst hwin s.nextCid g.val
  exact ⟨_, hx, (congrArg Pair.failCid hself :), (congrArg Pair.state hself).trans hst, (congrArg Pair.window hself :), _, hmem, rfl⟩

/-- The pair that OP 2 forms. -/
def formedPair (s : State) (cid a peer : Nat) (async : Bool) : Pair :=
  { Pair.initial with
    active := a, standby := peer, async := async, state := 2
    key := some (Config.pairKey (s.member a).uid.toNat (s.member peer).uid.toNat s.free), snapCid := some cid }

/-- What OP 2 leaves of a pair it forms, of the chain's block and of the commands. -/
structure Formed (s t : State) (k cid a peer : Nat) (async : Bool) : Prop where
  pair : t.pair k = { formedPair s cid a peer async with
    window := (t.pair k).window, queue := (t.pair k).queue, emitted := (t.pair k).emitted }
  pendAct : t.casc.pendAct = none
  cmds : t.cmds = s.cmds
  rings : t.rings = s.rings

theorem formPair_spec {k : Nat} (hk : k < s.casc.pairs.length) (cid ring tag a peer : Nat) (async : Bool) :
    Formed s (s.formPair k cid ring tag a peer async) k cid a peer async := by
  have hbegun : (({ s with casc := { s.casc with pendAct := none } } : State).updPair k (fun _ => formedPair s cid a peer async)).pair k =
      formedPair s cid a peer async := pair_updPair_self (s := { s with casc := { s.casc with pendAct := none } }) hk _
  unfold State.formPair
  dsimp only
  obtain ⟨v, hv⟩ := exists_eq' (a' := ({ s with casc := { s.casc with pendAct := none } } : State).updPair k
    (fun _ => formedPair s cid a peer async))
  have hpend : v.casc.pendAct = none := by rw [← hv]; rfl
  have hcmds : v.cmds = s.cmds := by rw [← hv]; rfl
  have hrings : v.rings = s.rings := by rw [← hv]; rfl
  rw [hv] at hbegun
  unfold formedPair at hv
  rw [hv]
  have htold := (tell_pumps k v peer (.work peer ring tag 0x54 (.pair k a peer async (s.member a).uid (s.member peer).uid s.free))).trans
    (tell_pumps k _ a (.work a ring tag 0x54 (.pair k a peer async (s.member a).uid (s.member peer).uid s.free)))
  obtain ⟨w, hw⟩ := exists_eq' (a' := (s.graphs.filter (fun g => g.devs.contains a)).foldl (fun t g =>
    t.tell peer (.work peer ring tag 0x54 (.load g.handle [] g.numbers g.frame.isSome)))
    ((v.tell peer (.work peer ring tag 0x54 (.pair k a peer async (s.member a).uid (s.member peer).uid s.free))).tell a
      (.work a ring tag 0x54 (.pair k a peer async (s.member a).uid (s.member peer).uid s.free))))
  have hall : Pumps k v w := by
    rw [← hw]
    exact htold.foldl fun u x => tell_pumps k u _ _
  rw [hw]
  have hsnap := snapshot_pumps { w with free := w.free + 1 } k ring tag
  refine ⟨?_, ?_, ?_, ?_⟩
  · have hfirst : w.pair k = { formedPair s cid a peer async with
        window := (w.pair k).window, queue := (w.pair k).queue, emitted := (w.pair k).emitted } := by
      rw [← hbegun]
      exact hall.pair
    refine hsnap.pair.trans ?_
    rw [show ({ w with free := w.free + 1 } : State).pair k = w.pair k from rfl, hfirst]
  · exact hsnap.pendAct.trans (hall.pendAct.trans hpend)
  · exact hsnap.cmds.trans (hall.cmds.trans hcmds)
  · exact (hsnap.agrees.eq fun u => u.rings).trans ((hall.agrees.eq fun u => u.rings).trans hrings)

/-- A free value drawn beside a refusal shows in its count alone. -/
theorem refuse_drawn {op : Nat} {b : Bool} {r : Nat} {p : List Byte} (h : s.ready r op b = some p) (hm : Reporting s r) (n : Nat) (e : End) :
    HeadRecorded s (({ s with free := n } : State).refuse r p e) r p e ∧
    LedgerOnly { s with free := (({ s with free := n } : State).refuse r p e).free } (({ s with free := n } : State).refuse r p e) := by
  have hready : ({ s with free := n } : State).ready r op b = some p := h
  have hledger := refuse_ledger { s with free := n } r p e
  refine ⟨refuse_recorded (s := { s with free := n }) e hready hm, ?_⟩
  rw [hledger.free_eq]
  exact hledger

/-- The pair that OP 2 forms, and the command that waits for its snapshot, stand while the ring settles. -/
theorem formed_settle {c : Cmd} {k cid a peer : Nat} {async : Bool} (h : Formed s t k cid a peer async) (hc : Stands c s)
    (hb : ∀ n k, c.body ≠ .listCall n k) (g : Nat) :
    ((t.settle g).pair k).active = a ∧ ((t.settle g).pair k).standby = peer ∧ ((t.settle g).pair k).async = async ∧
    ((t.settle g).pair k).state = 2 ∧ ((t.settle g).pair k).snapCid = some cid ∧ (t.settle g).casc.pendAct = none ∧
    c ∈ (t.settle g).cmds := by
  have hends := (settle_books t g).ends
  have hstands : Stands c t := by
    obtain ⟨hmem, honly, hopen⟩ := hc
    refine ⟨?_, ?_, .inl hb⟩
    · rw [h.cmds]
      exact hmem
    · rw [h.cmds]
      exact honly
  rw [hends.pair k, hends.casc, h.pair]
  exact ⟨rfl, rfl, rfl, rfl, rfl, h.pendAct, hstands.settle hb g⟩

/-- OP 2 is refused where the pair cannot be formed, and else forms it. -/
theorem mirrorForm_yields (h : s.ready g.val 0x54 false = some p) (hm : Reporting s g.val) (hop : par p 0x10 1 = 2)
    (hmay : s.mayPair (par p 0x12 1) = true) : Yields (.mirrorControl g) s (fun t =>
      match s.pairRefusal (par p 0x12 1) with
      | some e => HeadRecorded s t g.val p e ∧ LedgerOnly { s with free := t.free } t
      | none => ∀ a m k, s.casc.pendAct = some (a, m) → s.casc.pairs.findIdx? (fun x => x.state == 1) = some k →
          (t.pair k).active = a ∧ (t.pair k).standby = par p 0x12 1 ∧ (t.pair k).async = m ∧ (t.pair k).state = 2 ∧
          (t.pair k).snapCid = some s.nextCid ∧ t.casc.pendAct = none ∧ ∃ c ∈ t.cmds, c.cid = s.nextCid) := by
  cases href : s.pairRefusal (par p 0x12 1) with
  | some e =>
    have hx : exec (.mirrorControl g) s = .next (({ s with free := s.free + 1 +
        (s.mirroredCells ((s.casc.pendAct.map (fun (x : Nat × Bool) => x.1)).getD 0)).length } : State).refuse g.val p e) := by
      refine congrArg Host.Outcome.next ((onHead_some _ h).trans ?_)
      simp only [hop, hmay, href, Bool.not_true, Bool.false_eq_true, if_false]
    exact ⟨_, hx, refuse_drawn h hm _ e⟩
  | none =>
    cases hpend : s.casc.pendAct with
    | none =>
      unfold State.pairRefusal at href
      rw [hpend] at href
      cases href
    | some x =>
      obtain ⟨a, m⟩ := x
      have hx : exec (.mirrorControl g) s = .next (((({ s with free := s.free + (1 + (s.mirroredCells a).length) } : State).accept g.val p
          (.mirror 2 (b2n m) (par p 0x12 1)) none 0).formPair ((s.casc.pairs.findIdx? (fun x => x.state == 1)).getD 0) s.nextCid g.val
          (pktTag p) a (par p 0x12 1) m).settle g.val) := by
        refine congrArg Host.Outcome.next ((onHead_some _ h).trans ?_)
        simp only [hop, hmay, href, hpend, Bool.not_true, Bool.false_eq_true, if_false]
      refine ⟨_, hx, fun a' m' k hpend' hk => ?_⟩
      cases hpend'
      obtain ⟨hlt, -⟩ := List.findIdx?_eq_some_iff_getElem.mp hk
      obtain ⟨-, -, hfresh⟩ := hm
      rw [hk]
      obtain ⟨hact, hstand, hasync, hst, hsnap, hnone, hmem⟩ := formed_settle (g := g.val)
        (formPair_spec (s := ({ s with free := s.free + (1 + (s.mirroredCells a).length) } : State).accept g.val p
          (.mirror 2 (b2n m) (par p 0x12 1)) none 0) (k := k) hlt s.nextCid g.val (pktTag p) a (par p 0x12 1) m)
        (accept_stands (s := { s with free := s.free + (1 + (s.mirroredCells a).length) }) hfresh g.val p _ none 0 (fun _ _ => by simp))
        (fun _ _ => by simp [State.headCmd])
      exact ⟨hact, hstand, hasync, hst, hsnap, hnone, _, hmem, rfl⟩

end

end Sys2Proof.Machine
end

section
/-! PROOFS. Acknowledgements, suspension and resending of mirror records (R470, R473, R475, R476). -/

namespace Sys2Proof.Machine

set_option Elab.async false

variable {s t u : State}

/-- What an acknowledgement leaves of the pairs. -/
structure Acked (s t : State) (k seq : Nat) : Prop where
  acked : (t.pair k).acked = seq + 1
  state : (t.pair k).state = (s.pair k).state
  failCid : (t.pair k).failCid = (s.pair k).failCid
  window : ∃ new, (t.pair k).window = (s.pair k).window.filter (fun m => decide (seq < m.seq)) ++ new
  others : ∀ j, j ≠ k → t.pair j = s.pair j
  unmirrored : ∀ c, Unmirrored c s.cmds → Unmirrored c t.cmds

/-- Records acknowledged through a number in range: the window advances. -/
theorem ackPair_spec {k seq : Nat} (hst : (s.pair k).state = 2 ∨ (s.pair k).state = 3) (hfail : (s.pair k).failCid = none)
    (hlow : (s.pair k).acked ≤ seq) (hhigh : seq < (s.pair k).emitted) : Acked s (s.ackPair k seq) k seq := by
  have hlt := pair_lt (s := s) (k := k) (by rcases hst with h | h <;> rw [h] <;> decide)
  have hself := pair_updPair_self hlt (fun p => { p with acked := seq + 1, window := p.window.filter (fun m => decide (seq < m.seq)) })
  have hothers : ∀ j, j ≠ k → (s.updPair k (fun p =>
      { p with acked := seq + 1, window := p.window.filter (fun m => decide (seq < m.seq)) })).pair j = s.pair j :=
    fun j hj => pair_updPair_ne hj _
  unfold State.ackPair
  dsimp only
  rw [if_pos ⟨hst, hlow, hhigh⟩]
  obtain ⟨v, hv⟩ := exists_eq' (a' := s.updPair k (fun p =>
    { p with acked := seq + 1, window := p.window.filter (fun m => decide (seq < m.seq)) }))
  have hcmds : v.cmds = s.cmds := by rw [← hv]; rfl
  rw [hv] at hself hothers ⊢
  have hpump := mirrorPump_pumps 128 v k
  have hends := releaseHeld_ends ((v.mirrorPump 128 k).cmds.length + 1) (v.mirrorPump 128 k)
  have hpair : ((v.mirrorPump 128 k).releaseHeld ((v.mirrorPump 128 k).cmds.length + 1)).pair k = { v.pair k with
      window := ((v.mirrorPump 128 k).pair k).window, queue := ((v.mirrorPump 128 k).pair k).queue
      emitted := ((v.mirrorPump 128 k).pair k).emitted } := (hends.pair k).trans hpump.pair
  rw [hself] at hpair
  rw [drainFailover_of_none (by rw [hpair]; exact hfail)]
  obtain ⟨new, hnew⟩ := hpump.window
  rw [hself] at hnew
  refine ⟨(congrArg Pair.acked hpair :), (congrArg Pair.state hpair :), (congrArg Pair.failCid hpair :), ⟨new, ?_⟩, fun j hj => ?_, fun c hc => ?_⟩
  · rw [hpair]
    exact hnew
  · exact (hends.pair j).trans ((hpump.others j hj).trans (hothers j hj))
  · refine Unmirrored.releaseHeld _ ?_
    rw [hpump.cmds, hcmds]
    exact hc

/-- An acknowledgement out of range changes nothing. -/
theorem ackPair_of_stale {k seq : Nat} (h : seq < (s.pair k).acked ∨ (s.pair k).emitted ≤ seq) : s.ackPair k seq = s := by
  unfold State.ackPair
  dsimp only
  rw [if_neg fun hc => by omega]

/-- The acknowledgement of a snapshot's end makes the pair MIRRORING and ends OP 2. -/
theorem snapshotEnd_yields {k : Fin 3} {m : MirOut} {c : Nat} {x : Cmd} (hst : (s.pair k.val).state = 2) (hfail : (s.pair k.val).failCid = none)
    (hm : (s.pair k.val).window.find? (fun y => y.typ == 0x02) = some m) (hlow : (s.pair k.val).acked ≤ m.seq)
    (hhigh : m.seq < (s.pair k.val).emitted) (hsnap : (s.pair k.val).snapCid = some c) (hx : s.cmd? c = some x) (hmir : x.mir = []) :
    Yields (.snapshotEndAck k) s (fun t => (t.pair k.val).state = 3 ∧ (t.pair k.val).snapCid = none ∧
      (t.pair k.val).acked = m.seq + 1 ∧ t.cmd? c = none) := by
  have hack := ackPair_spec (.inl hst) hfail hlow hhigh
  have hexec : exec (.snapshotEndAck k) s =
      .next (((s.ackPair k.val m.seq).updPair k.val (fun p => { p with state := 3, snapCid := none })).finish c endDone) := by
    have hgo : exec (.snapshotEndAck k) s = execSnapshotEndAck k s := rfl
    rw [hgo]
    unfold execSnapshotEndAck
    dsimp only
    rw [hm]
    dsimp only
    rw [if_neg (by simp [hst]), hsnap]
  have hself := pair_updPair_self (s := s.ackPair k.val m.seq) (k := k.val) (pair_lt (by rw [hack.state, hst]; decide))
    (fun p => { p with state := 3, snapCid := none })
  have hgone : Unmirrored c s.cmds := fun y hy => by
    rw [show s.cmds.find? (fun y => y.cid == c) = some x from hx] at hy
    rw [← Option.some.inj hy]
    exact hmir
  refine ⟨_, hexec, ?_⟩
  dsimp only
  rw [(finish_books _ c endDone).ends.pair, hself]
  exact ⟨rfl, rfl, hack.acked, Unmirrored.finish_gone (s := (s.ackPair k.val m.seq).updPair k.val _) (hack.unmirrored c hgone) endDone⟩

theorem devVec_ends (s : State) (k : Nat) : Ends s (s.devVec k) := (devVec_books s k).ends

/-- Pair k suspended: its records are given up, and the commands that wait for it end. -/
theorem suspend_spec (s : State) {k : Nat} (hk : k < s.casc.pairs.length) :
    ((s.suspend k).pair k).state = 4 ∧ ((s.suspend k).pair k).window = [] ∧ ((s.suspend k).pair k).queue = [] ∧
    (s.suspend k).hif.devStat.getLsbD 5 = true ∧ (s.suspend k).bist.dlogNext = s.bist.dlogNext + 1 ∧
    ∀ j, j ≠ k → (s.suspend k).pair j = s.pair j := by
  have hself := pair_updPair_self hk (fun p => { p with state := 4, window := [], queue := [] })
  have hothers : ∀ j, j ≠ k → (s.updPair k (fun p => { p with state := 4, window := [], queue := [] })).pair j = s.pair j :=
    fun j hj => pair_updPair_ne hj _
  unfold State.suspend
  dsimp only
  obtain ⟨v, hv⟩ := exists_eq' (a' := (s.updPair k (fun p => { p with state := 4, window := [], queue := [] })).dlog 6 1
    (BitVec.ofNat 32 k) (BitVec.ofNat 64 ((s.pair k).acked - 1)))
  have hcasc : v.casc = (s.updPair k (fun p => { p with state := 4, window := [], queue := [] })).casc := by
    rw [← hv]
    exact dlog_casc _ _ _ _ _
  have hnext : v.bist.dlogNext = s.bist.dlogNext + 1 := by
    rw [← hv]
    exact dlog_next _ _ _ _ _
  rw [hv]
  have hv5 := devVec_ends v 5
  have hset := devVec_devStat v (k := 5) (by decide)
  obtain ⟨w, hw⟩ := exists_eq' (a' := v.devVec 5)
  rw [hw] at hv5 hset ⊢
  have hwpair : ∀ j, w.pair j = (s.updPair k (fun p => { p with state := 4, window := [], queue := [] })).pair j :=
    fun j => (hv5.pair j).trans (pair_of_casc hcasc j)
  have hwlen : k < w.casc.pairs.length := pair_lt (by rw [hwpair, hself]; exact (by decide : (4 : Nat) ≠ 0))
  have hfree := pair_updPair_self hwlen (fun p => { p with snapCid := none, failCid := none })
  have hwaits : Ends (w.updPair k (fun p => { p with snapCid := none, failCid := none })) ((w.endWaits k).releaseHeld (w.cmds.length + 1)) := by
    unfold State.endWaits
    dsimp only
    exact ((Ends.refl _).foldl fun u c => (finish_books u c _).ends).trans (releaseHeld_ends _ _)
  refine ⟨?_, ?_, ?_, ?_, ?_, fun j hj => ?_⟩
  · rw [hwaits.pair, hfree, hwpair, hself]
  · rw [hwaits.pair, hfree, hwpair, hself]
  · rw [hwaits.pair, hfree, hwpair, hself]
  · exact hwaits.devStat 5 hset
  · rw [hwaits.bist]
    exact (congrArg Bist.dlogNext hv5.bist).trans hnext
  · rw [hwaits.pair, pair_updPair_ne hj, hwpair, hothers j hj]

/-- Messages sent one after another are all sent, and nothing else is done. -/
theorem foldl_emit {α : Type} (f : α → Emit) (l : List α) (s : State) :
    l.foldl (fun t a => t.emit (f a)) s = { s with out := (l.foldl (fun t a => t.emit (f a)) s).out } ∧
    (∀ a ∈ l, f a ∈ (l.foldl (fun t a => t.emit (f a)) s).out) ∧ s.out ⊆ (l.foldl (fun t a => t.emit (f a)) s).out := by
  induction l generalizing s with
  | nil => exact ⟨rfl, fun _ h => absurd h List.not_mem_nil, List.Subset.refl _⟩
  | cons a l ih =>
    obtain ⟨hsame, hsent, hkept⟩ := ih (s.emit (f a))
    refine ⟨hsame, fun b hb => ?_, fun x hx => hkept (List.mem_cons_of_mem _ hx)⟩
    rcases List.mem_cons.mp hb with rfl | hb
    · exact hkept List.mem_cons_self
    · exact hsent b hb

/-- A request to resend is answered with every record from its number on. -/
theorem resend_yields {k : Fin 3} {seq : Nat} (hme : s.me = (s.pair k.val).active) (hrole : s.pins.role = .member)
    (hst : (s.pair k.val).state = 2 ∨ (s.pair k.val).state = 3) (hfence : s.casc.fenced = false) :
    Yields (.mirrorResendRequest k seq) s (fun t => t = { s with out := t.out } ∧
      ∀ m ∈ (s.pair k.val).window, seq ≤ m.seq →
        Emit.link (s.routesUp (s.pair k.val).standby) (.mirror (m.bytes k.val ((s.pair k.val).key.getD []))) ∈ t.out) := by
  have hsame : ∀ (l : List MirOut) (v : State), v.casc = s.casc →
      l.foldl (fun t m => t.emit (.link (t.routesUp (s.pair k.val).standby) (.mirror (m.bytes k.val ((s.pair k.val).key.getD []))))) v =
      l.foldl (fun t m => t.emit (.link (s.routesUp (s.pair k.val).standby) (.mirror (m.bytes k.val ((s.pair k.val).key.getD []))))) v := by
    intro l
    induction l with
    | nil => exact fun _ _ => rfl
    | cons m l ih =>
      intro v hv
      rw [List.foldl_cons, List.foldl_cons, show v.routesUp = s.routesUp by unfold State.routesUp; rw [hv]]
      exact ih _ hv
  obtain ⟨hout, hsent, -⟩ := foldl_emit (fun m : MirOut =>
    Emit.link (s.routesUp (s.pair k.val).standby) (.mirror (m.bytes k.val ((s.pair k.val).key.getD []))))
    ((s.pair k.val).window.filter (fun m => decide (seq ≤ m.seq))) s
  refine ⟨_, congrArg Host.Outcome.next ((if_pos ⟨hme, hrole, hst, by simp [hfence]⟩).trans (hsame _ s rfl)), hout, fun m hm hle => ?_⟩
  exact hsent m (List.mem_filter.mpr ⟨hm, decide_eq_true hle⟩)

/-- Settles O59: a head packet is refused, or sets the chain's block and ends, or waits as a command that stands while its ring
settles; records are put into a pair's queue and emitted without anything else; what is acknowledged or suspended ends commands,
which leaves the pairs. -/
theorem pairsMirror : Obligations.PairsMirror := by
  refine ⟨fun s g p h hm => ⟨mirrorOff_refused h hm, fun k => mirrorOff_pending h hm, mirrorOn_refused h hm, mirrorPending_yields h hm,
    mirrorForm_yields h hm, mirrorFail_refused h hm, fun k => mirrorFail_waits h hm⟩, fun s k => ⟨fun seq hst hfail => ⟨fun hlow hhigh => ?_, ?_⟩,
    fun m c x hst hfail hm hlow hhigh hsnap hx hmir => snapshotEnd_yields hst hfail hm hlow hhigh hsnap hx hmir, fun hst hwin => ?_,
    fun seq hme hrole hst hfence => resend_yields hme hrole hst hfence⟩⟩
  · have hack := ackPair_spec hst hfail hlow hhigh
    exact ⟨_, rfl, hack.acked, hack.state, hack.window, hack.others⟩
  · exact fun hstale => congrArg Host.Outcome.next (ackPair_of_stale hstale)
  · refine ⟨_, congrArg Host.Outcome.next (if_pos ⟨hst, by simpa using hwin⟩), suspend_spec s ?_⟩
    exact pair_lt (by rcases hst with h | h <;> rw [h] <;> decide)

end Sys2Proof.Machine
end

section
/-! PROOFS. What the loss of a run, of a pair and of a member leaves of the chain: the ports, the conditions and the chain's block. -/

namespace Sys2Proof.Machine

set_option Elab.async false

variable {s t u : State}

/-- The chain's block apart from what its ports hold. -/
def Casc.sansPorts (x : Casc) : Casc := { x with portUp := CascPort.initial, portDn := CascPort.initial, noRoute := 0 }

/-- The state of both ports, and everything that neither traffic nor the end of a run touches. -/
def State.chainView (s : State) : PortState × PortState × Casc × Memory × Pins :=
  (s.casc.portUp.state, s.casc.portDn.state, s.casc.sansPorts, s.weights, s.pins)

/-- From `s` to `t` an observation shows the same, and the conditions that were noted are noted. -/
structure Noting {α : Type} (view : State → α) (s t : State) : Prop where
  agrees : Agrees view s t := by exact rfl
  devStat : ∀ k, s.hif.devStat.getLsbD k = true → t.hif.devStat.getLsbD k = true := by exact fun _ h => h

section
variable {α β : Type} {view : State → α}

theorem Noting.refl (s : State) : Noting view s s := {}

theorem Noting.trans (h : Noting view s t) (k : Noting view t u) : Noting view s u :=
  ⟨h.agrees.trans k.agrees, fun i => k.devStat i ∘ h.devStat i⟩

theorem Noting.ite {c : Prop} [Decidable c] (h : Noting view s t) (k : Noting view s u) : Noting view s (if c then t else u) := by
  split
  · exact h
  · exact k

theorem Noting.foldl {l : List β} {f : State → β → State} (h : Noting view s t) (hf : ∀ u a, Noting view u (f u a)) :
    Noting view s (l.foldl f t) := by
  induction l generalizing t with
  | nil => exact h
  | cons a l ih => exact ih (h.trans (hf t a))

theorem Noting.of {view' : State → β} (h : Noting view s t) (hg : ∃ f : α → β, ∀ u, view' u = f (view u)) : Noting view' s t :=
  ⟨h.agrees.of hg, h.devStat⟩

end

/-- Traffic and the ends of runs. -/
abbrev Chained (s t : State) : Prop := Noting State.chainView s t

theorem Books.chained (h : Books s t) : Chained s t := ⟨h.view, h.devStat⟩

theorem Ends.chained (h : Ends s t) : Chained s t := ⟨h.agrees.of ⟨State.chainView, fun _ => rfl⟩, h.devStat⟩

theorem dlog_chained (s : State) (source event : Nat) (arg0 : Word) (arg1 : DWord) : Chained s (s.dlog source event arg0 arg1) := by
  unfold State.dlog
  exact Noting.trans (t := { s with bist := _ }) {} (devVec_books _ 3).chained

theorem failRun_chained (s : State) (h seq k : Nat) : Chained s (s.failRun h seq k) := by
  unfold State.failRun
  split
  · exact .refl s
  · exact {}

theorem sendFrame_chained (s : State) (up : Bool) (slots : List FlitSlot) (nak : Bool) : Chained s (s.sendFrame up slots nak) := by
  cases up <;> exact {}

theorem sendFlits_chained (fuel : Nat) (s : State) (up : Bool) (fs : List FlitSlot) : Chained s (s.sendFlits fuel up fs) := by
  induction fuel generalizing s fs with
  | zero => exact .refl s
  | succ n ih =>
    cases fs with
    | nil => exact .refl s
    | cons x xs => exact (sendFrame_chained s up _ false).trans (ih _ _)

theorem updPort_chained (s : State) (up : Bool) (f : CascPort → CascPort) (hf : ∀ p, (f p).state = p.state) :
    Chained s (s.updPort up f) := by
  cases up
  · exact ⟨by simp [Agrees, State.chainView, State.updPort, Casc.sansPorts, hf], fun _ => id⟩
  · exact ⟨by simp [Agrees, State.chainView, State.updPort, Casc.sansPorts, hf], fun _ => id⟩

theorem bridgeSend_chained (s : State) (up : Bool) : Chained s (s.bridgeSend up) := by
  unfold State.bridgeSend
  dsimp only
  split
  · exact .refl s
  · exact (updPort_chained _ _ _ fun _ => by rfl).trans (sendFlits_chained _ _ _ _)

theorem bridgeOn_chained (s : State) (p : Packet) : Chained s (s.bridgeOn p) := by
  unfold State.bridgeOn
  split
  · exact Noting.trans (t := { s with casc := _ }) {} (bridgeSend_chained _ true)
  · exact Noting.trans (t := { s with casc := _ }) {} (bridgeSend_chained _ false)
  · exact (Noting.trans (t := { s with casc := _, free := s.free + 1 }) {} (dlog_chained _ 5 4 _ _)).trans (failRun_chained _ p.graph p.runSeq 31)

theorem flushBridge_chained (s : State) : Chained s s.flushBridge := by
  unfold State.flushBridge
  refine Noting.foldl (.refl s) fun u q => ?_
  have hleave : Chained u (u.leaveRill q) := by
    rw [leaveRill_frame]
    exact {}
  refine hleave.trans ?_
  unfold State.bridge
  split
  · exact .refl _
  · exact bridgeOn_chained _ _

theorem needTerraces_chained (s : State) (l : List Nat) : Chained s (s.needTerraces l) := by
  rw [s.needTerraces_eq_pwr]
  exact {}

theorem enterRill_chained (s : State) (p : Packet) : Chained s (s.enterRill p) := by
  unfold State.enterRill
  exact (needTerraces_chained s _).trans {}

theorem send_chained (s : State) (p : Packet) : Chained s (s.send p) := by
  unfold State.send
  exact .ite (enterRill_chained s p) ((enterRill_chained s p).trans (flushBridge_chained _))

theorem sendCredit_chained (s : State) (g : Graph) (idx fromTer : Nat) (fromEngine : Bool) (seq : Nat) :
    Chained s (s.sendCredit g idx fromTer fromEngine seq) := by
  unfold State.sendCredit
  dsimp only
  split
  · split
    · exact send_chained _ _
    · exact .refl s
  · exact send_chained _ _

theorem writeBuffer_chained (s : State) (g : Graph) (slot buf half seq : Nat) (bs : List Byte) (poison : Bool) :
    Chained s (s.writeBuffer g slot buf half seq bs poison) := by
  unfold State.writeBuffer
  split
  · exact {}
  · exact .refl s

theorem presetDelay_chained (s : State) (h seq : Nat) : Chained s (s.presetDelay h seq) := by
  unfold State.presetDelay
  split
  · exact .refl s
  refine Noting.foldl (.refl s) fun u e => .ite (.refl u) ?_
  split
  · exact .refl u
  · split
    · exact .ite (writeBuffer_chained ..) (.refl u)
    · exact .refl u

theorem fillDelay_chained (s : State) (h seq src : Nat) : Chained s (s.fillDelay h seq src) := by
  unfold State.fillDelay
  split
  · exact .refl s
  refine Noting.foldl (.refl s) fun u e => .ite (.refl u) ?_
  split
  · exact .refl u
  · exact .ite (writeBuffer_chained ..) (.refl u)

theorem clearRun_chained (s : State) (h seq : Nat) (zero : Bool) : Chained s (s.clearRun h seq zero) := by
  unfold State.clearRun
  split
  · exact .refl s
  · next g _ =>
    dsimp only
    refine Noting.trans ?_ (.ite (presetDelay_chained _ _ _) (fillDelay_chained _ _ _ _))
    refine Noting.foldl ?_ fun u e => sendCredit_chained ..
    exact {}

theorem tellMembers_chained (s : State) (c : Nat) (g : Graph) (w : Work) : Chained s (s.tellMembers c g w) := by
  unfold State.tellMembers
  split
  · exact .refl s
  · exact .ite (Noting.foldl (.refl s) fun u d => {}) (.refl s)

theorem reportPart_chained (s : State) (c : Nat) (g : Graph) (r : Run) : Chained s (s.reportPart c g r) := by
  unfold State.reportPart
  split
  · exact .refl s
  · exact .ite {} (.refl s)

end Sys2Proof.Machine
end

section
/-! PROOFS. Lost members (R459, R460, R476, R477): what the loss of one leaves, and what it ends. -/

namespace Sys2Proof.Machine

set_option Elab.async false

variable {s t u : State}

/-- The state of both ports. -/
def State.portView (s : State) : PortState × PortState := (s.casc.portUp.state, s.casc.portDn.state)

theorem Noting.ports (h : Chained s t) : Noting State.portView s t := h.of ⟨fun v => (v.1, v.2.1), fun _ => rfl⟩

theorem mirrorPump_ports (fuel : Nat) (s : State) (k : Nat) : Noting State.portView s (s.mirrorPump fuel k) := by
  induction fuel generalizing s with
  | zero => exact .refl s
  | succ n ih =>
    unfold State.mirrorPump
    dsimp only
    split
    · exact .refl s
    · exact .ite (Noting.trans (.ite {} {}) (ih _)) (.refl s)

theorem mirrorPush_ports (s : State) (k ring tag opcode handle runSeq : Nat) (parts : List (Nat × List Byte × Option (Nat × Nat)))
    (first last : Bool) : Noting State.portView s (s.mirrorPush k ring tag opcode handle runSeq parts first last) := by
  unfold State.mirrorPush
  exact Noting.trans (t := s.updPair k _) {} (mirrorPump_ports 128 _ k)

theorem mirrorCmd_ports (s : State) (c : Nat) (devs : List Nat) (handle runSeq : Nat)
    (parts : Nat → List (Nat × List Byte × Option (Nat × Nat))) (first last : Bool) :
    Noting State.portView s (s.mirrorCmd c devs handle runSeq parts first last) := by
  unfold State.mirrorCmd
  split
  · exact .refl s
  · exact Noting.foldl (.refl s) fun u k => .ite (Noting.trans (mirrorPush_ports u k _ _ _ _ _ _ _ _) {}) (mirrorPush_ports u k _ _ _ _ _ _ _ _)

/-- A run that ends, up to its records for a pair. -/
def State.runCut (s : State) (cid : Nat) (g : Graph) (r : Run) (zero : Bool) : State :=
  (((s.clearRun g.handle r.runSeq zero).delayRuns (((s.cmd? cid).map (fun c => c.ring)).getD 0) (fun x => x.handle == r.handle && zero)).tellMembers
    cid g (.cut g.handle r.runSeq zero)).reportPart cid g r

theorem runCut_chained (s : State) (cid : Nat) (g : Graph) (r : Run) (zero : Bool) : Chained s (s.runCut cid g r zero) :=
  (((clearRun_chained s _ _ _).trans {}).trans (tellMembers_chained _ _ _ _)).trans (reportPart_chained _ _ _ _)

theorem endRun_cleared (s : State) (cid : Nat) (g : Graph) (r : Run) (e : End) :
    s.endRun cid g r true e = ({ (s.runCut cid g r (e.status == stFault)).mirrorCmd cid g.devs g.handle r.runSeq
        (fun _ => (s.runCut cid g r (e.status == stFault)).runRecords g r.runSeq) true true with
      free := ((s.runCut cid g r (e.status == stFault)).mirrorCmd cid g.devs g.handle r.runSeq
        (fun _ => (s.runCut cid g r (e.status == stFault)).runRecords g r.runSeq) true true).free + 1 } : State).finish cid e := rfl

theorem endRun_ports (s : State) (cid : Nat) (g : Graph) (r : Run) (e : End) : Noting State.portView s (s.endRun cid g r true e) := by
  rw [endRun_cleared]
  exact ((runCut_chained s _ _ _ _).ports.trans ((mirrorCmd_ports _ _ _ _ _ _ _ _).trans {})).trans (finish_books _ _ _).chained.ports

theorem abortCmd_ports (s : State) (c : Cmd) (e : End) : Noting State.portView s (s.abortCmd c e) := by
  have hfin : ∀ v : State, Noting State.portView v (v.finish c.cid e) := fun v => (finish_books v _ _).chained.ports
  have hupd : Noting State.portView s (s.updCmd c.cid (fun y => { y with mir := [], held := none })) := {}
  unfold State.abortCmd
  dsimp only
  split
  · split
    · exact .ite (hupd.trans (endRun_ports ..)) (hupd.trans (hfin _))
    · exact hupd.trans (hfin _)
  · exact (hupd.trans (t := s.updCmd c.cid (fun y => { y with mir := [], held := none })) {}).trans (hfin _)
  · exact hupd.trans (hfin _)

theorem writeRoutes_ports (s : State) : Noting State.portView s s.writeRoutes := by
  unfold State.writeRoutes
  exact Noting.foldl {} fun u x => .ite (.refl u) {}

theorem failover_ports (s : State) (k cause : Nat) : Noting State.portView s (s.failover k cause) := by
  unfold State.failover
  dsimp only
  refine Noting.trans (Noting.trans ?_ (dlog_chained _ 6 2 _ _).ports) (devVec_ends _ 5).chained.ports
  have hroutes : Noting State.portView s (((s.updPair k (fun p => { p with state := 5, window := [], queue := [], key := none, failCid := none })).updMember
      (s.pair k).active (fun m => { m with state := 5, alias_ := (s.pair k).standby })).writeRoutes) := Noting.trans {} (writeRoutes_ports _)
  exact (hroutes.foldl fun u c => abortCmd_ports u c (endOf stUncertain 0)).trans {}

theorem endWaits_ports (s : State) (k : Nat) : Noting State.portView s (s.endWaits k) := by
  unfold State.endWaits
  exact Noting.foldl {} fun u c => (finish_books u c _).chained.ports

theorem suspend_ports (s : State) (k : Nat) : Noting State.portView s (s.suspend k) := by
  unfold State.suspend
  dsimp only
  refine Noting.trans (Noting.trans (Noting.trans (Noting.trans ?_ (dlog_chained _ 6 1 _ _).ports) (devVec_ends _ 5).chained.ports)
    (endWaits_ports _ k)) (releaseHeld_ends _ _).chained.ports
  exact {}

theorem loseMember_ports (s : State) (d : Nat) : Noting State.portView s (s.loseMember d) := by
  unfold State.loseMember
  dsimp only
  refine Noting.trans (Noting.foldl ?_ fun u c => abortCmd_ports u c _) (devVec_ends _ 6).chained.ports
  exact {}

theorem declareLost_ports (s : State) (d : Nat) : Noting State.portView s (s.declareLost d) := by
  unfold State.declareLost
  refine .ite (.refl s) ?_
  split
  · exact loseMember_ports s d
  · exact .ite ((endWaits_ports s _).trans (failover_ports _ _ _)) (.ite ((suspend_ports s _).trans (loseMember_ports _ d)) (loseMember_ports s d))

/-! ### A member lost with its runs (R460) -/

theorem pairsFor_of_none (h : ∀ k, (s.pair k).state = 0) (devs : List Nat) : s.pairsFor devs = [] := by
  unfold State.pairsFor
  refine List.filter_eq_nil_iff.mpr fun k _ => ?_
  rw [h k]
  simp

theorem Noting.pair (h : Chained s t) (k : Nat) : t.pair k = s.pair k :=
  h.agrees.eq fun v => v.2.2.1.pairs.getD k Pair.initial

/-- The numbers of the commands, and the pairs they wait for. -/
def State.mirView (s : State) : List (Nat × List (Nat × Nat)) := s.cmds.map (fun x => (x.cid, x.mir))

theorem Agrees.unmirrored {c : Nat} (h : Agrees State.mirView s t) (hs : Unmirrored c s.cmds) : Unmirrored c t.cmds := by
  have hfind : ∀ l : List Cmd, (l.map (fun x => (x.cid, x.mir))).find? (fun v => v.1 == c) =
      (l.find? (fun x => x.cid == c)).map (fun x => (x.cid, x.mir)) := fun l => List.find?_map ..
  intro x hx
  have ht := hfind t.cmds
  rw [show t.cmds.map (fun x => (x.cid, x.mir)) = s.cmds.map (fun x => (x.cid, x.mir)) from h, hfind, hx] at ht
  obtain ⟨y, hy, hyx⟩ := Option.map_eq_some_iff.mp ht
  exact (congrArg Prod.snd hyx).symm.trans (hs y hy)

theorem Flows.mirView (h : Flows s t) : Agrees State.mirView s t := by
  have hcmds : t.cmds.map Cmd.sansFault = s.cmds.map Cmd.sansFault := h.eq fun w => w.cmds
  have hview : ∀ l : List Cmd, l.map (fun x => (x.cid, x.mir)) = (l.map Cmd.sansFault).map (fun x => (x.cid, x.mir)) := fun l => by
    rw [List.map_map]
    rfl
  unfold Agrees State.mirView
  rw [hview t.cmds, hview s.cmds, hcmds]

theorem writeBuffer_mirView (s : State) (g : Graph) (slot buf half seq : Nat) (bs : List Byte) (poison : Bool) :
    Agrees State.mirView s (s.writeBuffer g slot buf half seq bs poison) := by
  unfold State.writeBuffer
  split <;> rfl

theorem presetDelay_mirView (s : State) (h seq : Nat) : Agrees State.mirView s (s.presetDelay h seq) := by
  unfold State.presetDelay
  split
  · exact .refl s
  refine Agrees.foldl (.refl s) fun u e _ => .ite (.refl u) ?_
  split
  · exact .refl u
  · split
    · exact .ite (writeBuffer_mirView ..) (.refl u)
    · exact .refl u

theorem fillDelay_mirView (s : State) (h seq src : Nat) : Agrees State.mirView s (s.fillDelay h seq src) := by
  unfold State.fillDelay
  split
  · exact .refl s
  refine Agrees.foldl (.refl s) fun u e _ => .ite (.refl u) ?_
  split
  · exact .refl u
  · exact .ite (writeBuffer_mirView ..) (.refl u)

theorem clearRun_mirView (s : State) (h seq : Nat) (zero : Bool) : Agrees State.mirView s (s.clearRun h seq zero) := by
  unfold State.clearRun
  split
  · exact .refl s
  · dsimp only
    refine Agrees.trans ?_ (.ite (presetDelay_mirView _ _ _) (fillDelay_mirView _ _ _ _))
    exact Agrees.foldl rfl fun u e _ => (sendCredit_flows ..).mirView

theorem delayRuns_mirView (s : State) (g : Nat) (which : Run → Bool) : Agrees State.mirView s (s.delayRuns g which) := by
  unfold Agrees State.mirView State.delayRuns
  dsimp only
  rw [List.map_map]
  refine List.map_congr_left fun x _ => ?_
  simp only [Function.comp]
  split
  · split <;> rfl
  · rfl

theorem runCut_mirView (s : State) (cid : Nat) (g : Graph) (r : Run) (zero : Bool) : Agrees State.mirView s (s.runCut cid g r zero) := by
  have hreport : ∀ v : State, Agrees State.mirView v (v.reportPart cid g r) := fun v => by
    unfold State.reportPart
    split
    · exact .refl v
    · exact .ite rfl rfl
  exact (((clearRun_mirView s _ _ _).trans (delayRuns_mirView _ _ _)).trans
    (tellMembers_report _ _ _ _).agrees).trans (hreport _)

/-- A command changed so that it waits for no pair is unmirrored. -/
theorem updCmd_unmirrored (s : State) (c : Nat) : Unmirrored c (s.updCmd c (fun y => { y with mir := [], held := none })).cmds := by
  intro x hx
  have hxc : (x.cid == c) = true := List.find?_some (p := fun y : Cmd => y.cid == c) hx
  obtain ⟨z, -, rfl⟩ := List.mem_map.mp (List.mem_of_find?_eq_some hx)
  by_cases hz : (z.cid == c) = true
  · rw [if_pos hz]
  · rw [if_neg hz] at hxc
    exact absurd hxc hz

/-- With no pair formed, a command that is given up leaves the chain, and its number is gone. -/
theorem abortCmd_spec (h : ∀ k, (s.pair k).state = 0) (c : Cmd) (e : End) :
    Chained s (s.abortCmd c e) ∧ (s.abortCmd c e).cmd? c.cid = none := by
  have hupd : Chained s (s.updCmd c.cid (fun y => { y with mir := [], held := none })) := {}
  have hmir := updCmd_unmirrored s c.cid
  have hfin : ∀ v : State, Chained s v → Unmirrored c.cid v.cmds → Chained s (v.finish c.cid e) ∧ (v.finish c.cid e).cmd? c.cid = none :=
    fun v hv hc => ⟨hv.trans (finish_books v _ _).chained, hc.finish_gone e⟩
  unfold State.abortCmd
  dsimp only
  obtain ⟨v, hv⟩ := exists_eq' (a' := s.updCmd c.cid (fun y => { y with mir := [], held := none }))
  rw [hv] at hupd hmir ⊢
  split
  · next r _ =>
    split
    · next g _ =>
      split
      · rw [endRun_cleared]
        have hcut := hupd.trans (runCut_chained v c.cid g r (e.status == stFault))
        rw [mirrorCmd_of_none (pairsFor_of_none (fun k => by rw [hcut.pair k]; exact h k) _)]
        exact hfin _ (hcut.trans {}) ((runCut_mirView v c.cid g r _).unmirrored hmir)
      · exact hfin v hupd hmir
    · exact hfin v hupd hmir
  · exact hfin _ (hupd.trans {}) hmir
  · exact hfin v hupd hmir

/-- No command has the number. -/
def Gone (c : Nat) (l : List Cmd) : Prop := ∀ x ∈ l, x.cid ≠ c

theorem Gone.lasting (c : Nat) : Lasting (Gone c) where
  removed _ _ h x hx := h x (List.mem_of_mem_filter hx)
  held l k e h x hx := by
    obtain ⟨z, hz, rfl⟩ := List.mem_map.mp hx
    split
    · exact h z hz
    · exact h z hz

theorem gone_iff {c : Nat} : Gone c s.cmds ↔ s.cmd? c = none := by
  unfold State.cmd? Gone
  rw [List.find?_eq_none]
  exact forall₂_congr fun x _ => by simp

theorem Agrees.gone {c : Nat} (h : Agrees State.mirView s t) (hs : Gone c s.cmds) : Gone c t.cmds := by
  intro x hx
  have hmem : (x.cid, x.mir) ∈ s.mirView := by
    rw [← show t.mirView = s.mirView from h]
    exact List.mem_map.mpr ⟨x, hx, rfl⟩
  obtain ⟨z, hz, he⟩ := List.mem_map.mp hmem
  rw [← show z.cid = x.cid from congrArg Prod.fst he]
  exact hs z hz

/-- A number that is gone stays gone while a command is given up. -/
theorem Gone.abortCmd {k : Nat} (h : Gone k s.cmds) (hp : ∀ k, (s.pair k).state = 0) (c : Cmd) (e : End) :
    Gone k (s.abortCmd c e).cmds := by
  have hupd : Gone k (s.updCmd c.cid (fun y => { y with mir := [], held := none })).cmds := fun x hx => by
    obtain ⟨z, hz, rfl⟩ := List.mem_map.mp hx
    split
    · exact h z hz
    · exact h z hz
  have hpairs : ∀ j, ((s.updCmd c.cid (fun y => { y with mir := [], held := none })).pair j).state = 0 := hp
  have hfin : ∀ v : State, Gone k v.cmds → Gone k (v.finish c.cid e).cmds := fun v hv => (Gone.lasting k).finish _ _ hv
  unfold State.abortCmd
  dsimp only
  obtain ⟨v, hv⟩ := exists_eq' (a' := s.updCmd c.cid (fun y => { y with mir := [], held := none }))
  rw [hv] at hupd hpairs ⊢
  split
  · next r _ =>
    split
    · next g _ =>
      split
      · rw [endRun_cleared, mirrorCmd_of_none (pairsFor_of_none (fun j => by rw [(runCut_chained v c.cid g r _).pair j]; exact hpairs j) _)]
        exact hfin _ ((runCut_mirView v c.cid g r _).gone hupd)
      · exact hfin v hupd
    · exact hfin v hupd
  · exact hfin _ hupd
  · exact hfin v hupd

/-- Commands given up one after another are all gone. -/
theorem abortCmds_spec (e : End) (l : List Cmd) (h : ∀ k, (s.pair k).state = 0) :
    Chained s (l.foldl (fun t c => t.abortCmd c e) s) ∧ (∀ c ∈ l, Gone c.cid (l.foldl (fun t c => t.abortCmd c e) s).cmds) ∧
    ∀ k, Gone k s.cmds → Gone k (l.foldl (fun t c => t.abortCmd c e) s).cmds := by
  induction l generalizing s with
  | nil => exact ⟨.refl s, fun _ hc => absurd hc List.not_mem_nil, fun _ hk => hk⟩
  | cons c l ih =>
    obtain ⟨hfirst, hgone⟩ := abortCmd_spec h c e
    obtain ⟨hrest, hall, hkeep⟩ := ih (s := s.abortCmd c e) fun k => by rw [hfirst.pair k]; exact h k
    refine ⟨hfirst.trans hrest, fun x hx => ?_, fun k hk => hkeep k (hk.abortCmd h c e)⟩
    rcases List.mem_cons.mp hx with rfl | hx
    · exact hkeep _ (gone_iff.mpr hgone)
    · exact hall x hx

/-- The master's view once a member is lost: its entry, and no way to it. -/
def State.unrouted (s : State) (d : Nat) : State :=
  { s.updMember d (fun m => { m with state := 3 }) with
    casc := { (s.updMember d (fun m => { m with state := 3 })).casc with route := s.casc.route.set d 3 }
    free := s.free + 1 }

/-- The commands whose run has a placement on a device. -/
def State.runsOn (s : State) (d : Nat) : List Cmd :=
  s.cmds.filter (fun c => match c.body with
    | .run r => (s.graph? r.handle).any (fun g => g.devs.contains d)
    | _ => false)

theorem loseMember_eq (s : State) (d : Nat) : s.loseMember d =
    (((s.unrouted d).runsOn d).foldl (fun t c => t.abortCmd c (endOf stFault (s.lostWord d))) (s.unrouted d)).devVec 6 := rfl

theorem mem_runsOn {d : Nat} {c : Cmd} {r : Run} {g : Graph} (hc : c ∈ s.cmds) (hb : c.body = .run r) (hg : s.graph? r.handle = some g)
    (hd : d ∈ g.devs) : c ∈ s.runsOn d := by
  refine List.mem_filter.mpr ⟨hc, ?_⟩
  rw [hb]
  dsimp only
  rw [hg]
  simpa using hd

/-- A member that is lost is routed to none, and every run placed on it ends. -/
theorem loseMember_spec {d : Nat} (hpairs : ∀ k, (s.pair k).state = 0) (hchain : d < s.casc.chain.length)
    (hroute : d < s.casc.route.length) :
    ((s.loseMember d).member d).state = 3 ∧ (s.loseMember d).casc.route.getD d 0 = 3 ∧ (s.loseMember d).hif.devStat.getLsbD 6 = true ∧
    (s.loseMember d).weights = s.weights ∧ ∀ c ∈ s.runsOn d, (s.loseMember d).cmd? c.cid = none := by
  have hmember : ((s.unrouted d).member d).state = 3 := by
    simp [State.member, State.unrouted, State.updMember, List.getD_eq_getElem?_getD, hchain]
  have hdir : (s.unrouted d).casc.route.getD d 0 = 3 := by
    simp [State.unrouted, List.getD_eq_getElem?_getD, hroute]
  have hruns : (s.unrouted d).runsOn d = s.runsOn d := rfl
  have hweights : (s.unrouted d).weights = s.weights := rfl
  rw [loseMember_eq, hruns]
  obtain ⟨v, hv⟩ := exists_eq' (a' := s.unrouted d)
  have hvpairs : ∀ k, (v.pair k).state = 0 := by rw [← hv]; exact hpairs
  rw [hv] at hmember hdir hweights ⊢
  obtain ⟨hchained, hgone, -⟩ := abortCmds_spec (endOf stFault (s.lostWord d)) (s.runsOn d) hvpairs
  obtain ⟨w, hw⟩ := exists_eq' (a' := (s.runsOn d).foldl (fun t c => t.abortCmd c (endOf stFault (s.lostWord d))) v)
  rw [hw] at hchained hgone ⊢
  have hlast := devVec_report w 6
  refine ⟨?_, ?_, devVec_devStat w (by decide), ?_, fun c hc => ?_⟩
  · have hw : w.member d = v.member d := hchained.agrees.eq fun x => x.2.2.1.chain.getD d (Member.absent d)
    have hlastm : (w.devVec 6).member d = w.member d := congrArg (fun x : Casc => x.chain.getD d (Member.absent d)) hlast.casc_eq
    rw [hlastm, hw, hmember]
  · exact (congrArg (fun x : Casc => x.route.getD d 0) hlast.casc_eq).trans ((hchained.agrees.eq fun x => x.2.2.1.route.getD d 0).trans hdir)
  · exact hlast.weights_eq.trans ((hchained.agrees.eq fun x => x.2.2.2.1).trans hweights)
  · rw [← gone_iff, hlast.cmds_eq]
    exact hgone c hc

theorem memberLost_yields {d : Fin 8} (hrole : s.pins.role = .master) (hd : d.val ≠ 0) (hst : (s.member d.val).state = 1 ∨ (s.member d.val).state = 2)
    (hpairs : ∀ k, (s.pair k).state = 0) (hchain : d.val < s.casc.chain.length) (hroute : d.val < s.casc.route.length) :
    Yields (.memberLost d) s (fun t => (t.member d.val).state = 3 ∧ t.casc.route.getD d.val 0 = 3 ∧
      t.hif.devStat.getLsbD 6 = true ∧ t.weights = s.weights ∧
      ∀ c run g, c ∈ s.cmds → c.body = .run run → s.graph? run.handle = some g → d.val ∈ g.devs → t.cmd? c.cid = none) := by
  have hidx : s.pairIdx d.val false = none := List.find?_eq_none.mpr fun k _ => by simp [hpairs k]
  have hexec : exec (.memberLost d) s = .next (s.loseMember d.val) := by
    refine congrArg Host.Outcome.next ?_
    unfold State.declareLost
    rw [if_neg (by simp [hrole, hd, hst]), hidx]
  obtain ⟨hstate, hdir, hnoted, hweights, hgone⟩ := loseMember_spec hpairs hchain hroute
  exact ⟨_, hexec, hstate, hdir, hnoted, hweights, fun c run g hc hb hg hdev => hgone c (mem_runsOn hc hb hg hdev)⟩

end Sys2Proof.Machine
end

section
/-! PROOFS. Cascade ports: training, and the frames that come in (R449 to R453). -/

namespace Sys2Proof.Machine

set_option Elab.async false

variable {s t u : State} {up : Bool}

/-! ### Ports -/

theorem port_updPort (s : State) (up : Bool) (f : CascPort → CascPort) : (s.updPort up f).port up = f (s.port up) := by
  cases up <;> rfl

theorem port_updPort_other (s : State) (up : Bool) (f : CascPort → CascPort) : (s.updPort up f).port (!up) = s.port (!up) := by
  cases up <;> rfl

theorem port_of_casc (h : t.casc = s.casc) (up : Bool) : t.port up = s.port up := by
  cases up
  · exact congrArg Casc.portDn h
  · exact congrArg Casc.portUp h

theorem portLog_casc (s : State) (up : Bool) (event : Nat) : (s.portLog up event).casc = s.casc := dlog_casc _ _ _ _ _

theorem devVec_casc (s : State) (k : Nat) : (s.devVec k).casc = s.casc := (devVec_report s k).casc_eq

theorem Noting.port (h : Noting State.portView s t) (up : Bool) : (t.port up).state = (s.port up).state := by
  cases up
  · exact h.agrees.eq Prod.snd
  · exact h.agrees.eq Prod.fst

/-! ### Training (R451) -/

/-- A third failed training takes the port down. -/
theorem portDown_spec (s : State) (up : Bool) : ((s.portDown up).port up).state = .down ∧ (s.portDown up).hif.devStat.getLsbD 6 = true ∧
    (up = true → (s.portDown up).port false = s.port false) := by
  unfold State.portDown
  dsimp only
  obtain ⟨v, hv⟩ := exists_eq' (a' := ((s.updPort up (fun p => { p with state := .down, degraded := false })).portLog up 3))
  have hcasc : (v.devVec 6).casc = (s.updPort up (fun p => { p with state := .down, degraded := false })).casc := by
    rw [devVec_casc, ← hv, portLog_casc]
  have hnoted := devVec_devStat v (k := 6) (by decide)
  rw [hv]
  obtain ⟨w, hw⟩ := exists_eq' (a' := v.devVec 6)
  rw [hw] at hcasc hnoted ⊢
  have hdown : (w.port up).state = .down := by rw [port_of_casc hcasc, port_updPort]
  cases up with
  | true => exact ⟨hdown, hnoted, fun _ => by rw [if_pos rfl, port_of_casc hcasc]; rfl⟩
  | false =>
    rw [if_neg Bool.false_ne_true]
    have hlost : Noting State.portView w ((List.range 8).foldl (fun t d => t.declareLost d) w) :=
      Noting.foldl (.refl w) fun u d => declareLost_ports u d
    exact ⟨(hlost.port false).trans hdown, hlost.devStat 6 hnoted, fun h => absurd h Bool.false_ne_true⟩

/-- What a port that sends keeps: its state and what training has set, the other port, and the self-test's block. -/
def State.lanesView (up : Bool) (s : State) : PortState × Nat × Nat × Bool × BitVec 4 × CascPort × Bist :=
  ((s.port up).state, (s.port up).fails, (s.port up).bad, (s.port up).degraded, (s.port up).lanesOk, s.port (!up), s.bist)

theorem sendFrame_lanes (s : State) (up : Bool) (slots : List FlitSlot) (nak : Bool) :
    Agrees (State.lanesView up) s (s.sendFrame up slots nak) := by
  cases up <;> rfl

theorem sendFlits_lanes (fuel : Nat) (s : State) (up : Bool) (fs : List FlitSlot) : Agrees (State.lanesView up) s (s.sendFlits fuel up fs) := by
  induction fuel generalizing s fs with
  | zero => exact .refl s
  | succ n ih =>
    cases fs with
    | nil => exact .refl s
    | cons x xs => exact (sendFrame_lanes s up _ false).trans (ih _ _)

theorem bridgeSend_lanes (s : State) (up : Bool) : Agrees (State.lanesView up) s (s.bridgeSend up) := by
  unfold State.bridgeSend
  dsimp only
  split
  · exact .refl s
  · refine Agrees.trans (t := s.updPort up _) ?_ (sendFlits_lanes _ _ _ _)
    cases up <;> rfl

theorem portLogFree_casc (s : State) (up : Bool) : (s.portLogFree up).casc = s.casc := portLog_casc _ _ _

/-- A port is up at the lanes that are left. -/
theorem portUpAt_spec (s : State) (up : Bool) (lanes : BitVec 4) :
    ((s.portUpAt up lanes).port up).state = .up ∧ ((s.portUpAt up lanes).port up).fails = 0 ∧ ((s.portUpAt up lanes).port up).bad = 0 ∧
    ((s.portUpAt up lanes).port up).degraded = (lanes != 0xF) ∧ ((s.portUpAt up lanes).port up).lanesOk = lanes ∧
    (s.portUpAt up lanes).port (!up) = s.port (!up) ∧ (lanes = 0xF → (s.portUpAt up lanes).bist = s.bist) := by
  unfold State.portUpAt
  dsimp only
  have hsent := bridgeSend_lanes (s.updPort up (fun p => { p with state := .up, degraded := lanes != 0xF, lanesOk := lanes, fails := 0, bad := 0 })) up
  obtain ⟨w, hw⟩ := exists_eq' (a' := (s.updPort up (fun p =>
    { p with state := .up, degraded := lanes != 0xF, lanesOk := lanes, fails := 0, bad := 0 })).bridgeSend up)
  rw [hw] at hsent ⊢
  unfold Agrees State.lanesView at hsent
  rw [port_updPort, port_updPort_other] at hsent
  obtain ⟨hst, hfails, hbad, hdeg, hlanes, hother, hbist⟩ : _ ∧ _ ∧ _ ∧ _ ∧ _ ∧ _ ∧ _ := by
    simpa only [Prod.mk.injEq] using hsent
  obtain ⟨x, hx⟩ := exists_eq' (a' := if lanes = 0xF then w else w.portLogFree up)
  have hcasc : x.casc = w.casc := by
    rw [← hx]
    split
    · rfl
    · exact portLogFree_casc w up
  have hpass : ∀ v : State, v.passNumber.casc = v.casc ∧ v.passNumber.bist = v.bist := fun v => by
    unfold State.passNumber
    split <;> exact ⟨rfl, rfl⟩
  obtain ⟨y, hy⟩ := exists_eq' (a' := if (((s.port up).state == PortState.training) && !up) = true then x.passNumber else x)
  have hycasc : y.casc = w.casc := by
    rw [← hy]
    split
    · exact (hpass x).1.trans hcasc
    · exact hcasc
  rw [hx, hy, port_of_casc hycasc, port_of_casc hycasc]
  refine ⟨hst, hfails, hbad, hdeg, hlanes, hother, fun hfull => ?_⟩
  rw [if_pos hfull] at hx
  have hybist : y.bist = x.bist := by
    rw [← hy]
    split
    · exact (hpass x).2
    · rfl
  rw [hybist, ← hx, hbist]
  cases up <;> rfl

/-- What training leaves of a port (R451). -/
theorem training_spec (lanes : BitVec 4) (ok : Bool) (hst : (s.port up).state = .training ∨ (s.port up).state = .retraining) :
    (lanes &&& 3 ≠ 3 → (s.port up).fails + 1 < 3 → exec (.cascadeTrainingDone up lanes ok) s =
      .next (s.updPort up (fun q => { q with lanesOk := lanes, fails := (s.port up).fails + 1 }))) ∧
    (lanes &&& 3 ≠ 3 → 3 ≤ (s.port up).fails + 1 → Yields (.cascadeTrainingDone up lanes ok) s (fun t =>
      (t.port up).state = .down ∧ t.hif.devStat.getLsbD 6 = true ∧ (up = true → t.port false = s.port false))) ∧
    (lanes &&& 3 = 3 → ok = false → Yields (.cascadeTrainingDone up lanes ok) s (fun t => (t.port up).state = .off ∧
      t.bist.dlogNext = s.bist.dlogNext + 1 ∧ t.port (!up) = s.port (!up))) ∧
    (lanes &&& 3 = 3 → ok = true → Yields (.cascadeTrainingDone up lanes ok) s (fun t => (t.port up).state = .up ∧
      (t.port up).fails = 0 ∧ (t.port up).bad = 0 ∧ (t.port up).degraded = (lanes != 0xF) ∧
      (t.port up).lanesOk = (if lanes = 0xF then 0xF else 3) ∧ t.port (!up) = s.port (!up) ∧ (lanes = 0xF → t.bist = s.bist))) := by
  have hnot : ¬((!decide ((s.port up).state = .training ∨ (s.port up).state = .retraining)) = true) := by simp [hst]
  refine ⟨fun hl hf => ?_, fun hl hf => ?_, fun hl hok => ?_, fun hl hok => ?_⟩
  · refine congrArg Host.Outcome.next ((if_neg hnot).trans ((if_pos hl).trans ((if_neg (by omega)).trans ?_)))
    cases up <;> rfl
  · refine ⟨_, congrArg Host.Outcome.next ((if_neg hnot).trans ((if_pos hl).trans (if_pos hf))), ?_⟩
    obtain ⟨hdown, hnoted, hother⟩ := portDown_spec (s.updPort up (fun p => { p with lanesOk := lanes, fails := p.fails + 1 })) up
    exact ⟨hdown, hnoted, fun h => (hother h).trans (by subst h; rfl)⟩
  · refine ⟨_, congrArg Host.Outcome.next ((if_neg hnot).trans ((if_neg (not_not_intro hl)).trans (if_pos (by simp [hok])))), ?_, ?_, ?_⟩
    · rw [port_of_casc (portLogFree_casc _ up), port_updPort]
    · exact dlog_next _ _ _ _ _
    · rw [port_of_casc (portLogFree_casc _ up), port_updPort_other]
  · refine ⟨_, congrArg Host.Outcome.next ((if_neg hnot).trans ((if_neg (not_not_intro hl)).trans (if_neg (by simp [hok])))), ?_⟩
    obtain ⟨hup, hfails, hbad, hdeg, hlanes, hother, hbist⟩ := portUpAt_spec s up (if lanes = 0xF then 0xF else 3)
    refine ⟨hup, hfails, hbad, hdeg.trans ?_, hlanes, hother, fun h => hbist (if_pos h)⟩
    split
    · next h => rw [h]
    · next h => exact ((bne_iff_ne ..).mpr h).symm ▸ rfl

end Sys2Proof.Machine
end

section
/-! PROOFS. Frames that come in over a cascade port: acknowledged, taken, discarded (R449, R450, R452, R453). -/

namespace Sys2Proof.Machine

set_option Elab.async false

variable {s t u : State} {up : Bool}

/-- What a port has received, and whether it is up. -/
def State.rxView (up : Bool) (s : State) : Nat × Nat × Nat × PortState :=
  ((s.port up).rxSeq, (s.port up).ackSeq, (s.port up).bad, (s.port up).state)

/-- From `s` to `t` a port takes flits and sends: what it has received stays, nothing sent is taken back, no packet is lost. -/
structure Receives (up : Bool) (s t : State) : Prop where
  agrees : Agrees (State.rxView up) s t := by exact rfl
  out : s.out ⊆ t.out := by exact fun _ h => h
  rill : s.rill ⊆ t.rill := by exact fun _ h => h

theorem Receives.refl (s : State) : Receives up s s := {}

theorem Receives.trans (h : Receives up s t) (k : Receives up t u) : Receives up s u :=
  ⟨h.agrees.trans k.agrees, List.Subset.trans h.out k.out, List.Subset.trans h.rill k.rill⟩

theorem Receives.ite {c : Prop} [Decidable c] (h : Receives up s t) (k : Receives up s u) : Receives up s (if c then t else u) := by
  split
  · exact h
  · exact k

theorem Receives.foldl {α : Type} {l : List α} {f : State → α → State} (h : Receives up s t) (hf : ∀ u a, Receives up u (f u a)) :
    Receives up s (l.foldl f t) := by
  induction l generalizing t with
  | nil => exact h
  | cons a l ih => exact ih (h.trans (hf t a))

theorem rxView_of_casc (h : t.casc = s.casc) : Agrees (State.rxView up) s t := by
  unfold Agrees State.rxView
  rw [port_of_casc h]

/-- A change of one port that leaves what it has received. -/
theorem updPort_receives (s : State) (b : Bool) (f : CascPort → CascPort)
    (hf : ∀ p, ((f p).rxSeq, (f p).ackSeq, (f p).bad, (f p).state) = (p.rxSeq, p.ackSeq, p.bad, p.state)) :
    Receives up s (s.updPort b f) := by
  refine ⟨?_, by cases b <;> exact fun _ h => h, by cases b <;> exact fun _ h => h⟩
  cases b <;> cases up
  · exact hf _
  · rfl
  · rfl
  · exact hf _

theorem sendFrame_receives (s : State) (b : Bool) (slots : List FlitSlot) (nak : Bool) : Receives up s (s.sendFrame b slots nak) := by
  have hemit : ∀ (v : State) (e : Emit), Receives up v (v.emit e) := fun v e =>
    ⟨by cases up <;> rfl, fun _ h => List.mem_cons_of_mem _ h, fun _ h => h⟩
  unfold State.sendFrame
  exact (updPort_receives s b _ fun _ => by rfl).trans (hemit _ _)

theorem sendFlits_receives (fuel : Nat) (s : State) (b : Bool) (fs : List FlitSlot) : Receives up s (s.sendFlits fuel b fs) := by
  induction fuel generalizing s fs with
  | zero => exact .refl s
  | succ n ih =>
    cases fs with
    | nil => exact .refl s
    | cons x xs => exact (sendFrame_receives s b _ false).trans (ih _ _)

theorem bridgeSend_receives (s : State) (b : Bool) : Receives up s (s.bridgeSend b) := by
  unfold State.bridgeSend
  dsimp only
  split
  · exact .refl s
  · exact (updPort_receives s b _ fun _ => by rfl).trans (sendFlits_receives _ _ _ _)

theorem dlog_receives (s : State) (source event : Nat) (arg0 : Word) (arg1 : DWord) : Receives up s (s.dlog source event arg0 arg1) := by
  refine ⟨rxView_of_casc (dlog_casc _ _ _ _ _), ?_, ?_⟩
  · unfold State.dlog
    exact fun x hx => devVec_out (s := { s with bist := _ }) 3 hx
  · unfold State.dlog
    rw [(devVec_report _ 3).rill_eq]
    exact fun _ h => h

theorem failRun_receives (s : State) (h seq k : Nat) : Receives up s (s.failRun h seq k) := by
  unfold State.failRun
  split
  · exact .refl s
  · cases up <;> exact {}

theorem bridgeOn_receives (s : State) (p : Packet) : Receives up s (s.bridgeOn p) := by
  unfold State.bridgeOn
  split
  · exact (updPort_receives s true (fun q => { q with queue := q.queue ++ [p] }) fun _ => by rfl).trans (bridgeSend_receives _ true)
  · exact (updPort_receives s false (fun q => { q with queue := q.queue ++ [p] }) fun _ => by rfl).trans (bridgeSend_receives _ false)
  · refine Receives.trans (Receives.trans (t := { s with casc := { s.casc with noRoute := satInc 0xFFFF s.casc.noRoute }, free := s.free + 1 })
      ?_ (dlog_receives _ 5 4 _ _)) (failRun_receives _ p.graph p.runSeq 31)
    cases up <;> exact {}

theorem enterRill_receives (s : State) (p : Packet) : Receives up s (s.enterRill p) := by
  unfold State.enterRill
  rw [s.needTerraces_eq_pwr]
  exact ⟨by cases up <;> rfl, fun _ h => h, fun _ h => List.mem_append_left _ h⟩

theorem fromLink_receives (s : State) (p : Packet) : Receives up s (s.fromLink p) := by
  unfold State.fromLink
  exact .ite (bridgeOn_receives s p) (.ite (enterRill_receives s p) (.refl s))

theorem takeFlit_receives (b : Bool) (s : State) (x : FlitSlot) : Receives up s (State.takeFlit b s x) := by
  unfold State.takeFlit
  dsimp only
  split
  · exact updPort_receives s b _ fun _ => by rfl
  · split
    · exact .ite ((updPort_receives s b _ fun _ => by rfl).trans (fromLink_receives _ _)) (updPort_receives s b _ fun _ => by rfl)
    · exact .refl s

theorem mgmtBad_receives (s : State) (b : Bool) : Receives up s (s.mgmtBad b) := by
  unfold State.mgmtBad State.portLog
  refine Receives.trans ?_ (dlog_receives _ _ _ _ _)
  cases up <;> exact {}

theorem takeCredits_receives (s : State) (b : Bool) (cr : List Nat) : Receives up s (s.takeCredits b cr) := by
  unfold State.takeCredits
  dsimp only
  exact .ite ((updPort_receives s b _ fun _ => by rfl).trans (mgmtBad_receives _ b)) (updPort_receives s b _ fun _ => by rfl)

/-! ### A frame sent in answer -/

/-- A frame's CRC does not cover the CRC itself. -/
theorem frameCrc_crc (f : LinkFrame) (c : Word) : frameCrc { f with crc := c } = frameCrc f := by
  unfold frameCrc frameData frameControl
  rfl

theorem frameIntact_crc {f : LinkFrame} (h : f.sync = true) : frameIntact { f with crc := frameCrc f } = true := by
  show (f.sync && frameCrc f == frameCrc { f with crc := frameCrc f }) = true
  rw [frameCrc_crc f (frameCrc f), beq_self_eq_true, Bool.and_true, h]

/-- The frame that a port sends next passes its receiver's checks. -/
theorem nextFrame_intact (p : CascPort) (slots : List FlitSlot) (nak : Bool) : frameIntact (p.nextFrame slots nak) = true := by
  unfold CascPort.nextFrame
  exact frameIntact_crc rfl

theorem sendFrame_sent (s : State) (up : Bool) (slots : List FlitSlot) (nak : Bool) :
    Emit.link up (.frame ((s.port up).nextFrame slots nak)) ∈ (s.sendFrame up slots nak).out := List.mem_cons_self

/-! ### A packet taken from the link -/

theorem updPort_isMe (s : State) (b : Bool) (f : CascPort → CascPort) (d : Nat) : (s.updPort b f).isMe d = s.isMe d := by
  cases b <;> rfl

theorem updPort_enginesRun (s : State) (b : Bool) (f : CascPort → CascPort) : (s.updPort b f).enginesRun = s.enginesRun := by
  cases b <;> rfl

/-- A packet for this device enters the rill. -/
theorem fromLink_rill {p : Packet} (hme : s.isMe p.dstDev = true) (hrun : s.enginesRun = true) : p ∈ (s.fromLink p).rill := by
  unfold State.fromLink
  rw [if_neg (by simp [hme]), if_pos hrun]
  exact List.mem_append_right _ (List.mem_singleton.mpr rfl)

/-- The last flits of a packet for this device put it into the rill. -/
theorem takeFlits_rill {ch : Fin 4} {h : BitVec 256} (hch : ch ≠ 3) : ∀ (rest done : List (BitVec 256)) (v : State),
    (v.port up).rxPart[ch.val]? = some (h :: done) → rest ≠ [] →
    (done ++ rest).length = bitsAt h.toNat 10 5 → v.isMe (packetOf h (done ++ rest)).dstDev = true → v.enginesRun = true →
    packetOf h (done ++ rest) ∈ ((rest.map (fun x => ({ chan := ch, flit := x } : FlitSlot))).foldl (State.takeFlit up) v).rill := by
  intro rest
  induction rest with
  | nil => exact fun _ _ _ hne => absurd rfl hne
  | cons x rest ih =>
    intro done v hpart _ hlen hme hrun
    have hget : (v.port up).rxPart.getD ch.val [] = h :: done := by rw [List.getD_eq_getElem?_getD, hpart, Option.getD_some]
    have happ : done ++ x :: rest = (done ++ [x]) ++ rest := by simp
    rw [List.map_cons, List.foldl_cons]
    by_cases hdone : (done ++ [x]).length = bitsAt h.toNat 10 5
    · have hrest : rest = [] := by
        rw [happ, List.length_append] at hlen
        exact List.length_eq_zero_iff.mp (by omega)
      subst hrest
      have hstep : State.takeFlit up v { chan := ch, flit := x } = (v.updPort up (fun p =>
          { p with rxPart := p.rxPart.set ch.val [], owed := p.owed.modify ch.val (fun m => m + (h :: (done ++ [x])).length) })).fromLink
            (packetOf h (done ++ [x])) := by
        unfold State.takeFlit
        dsimp only
        rw [if_neg hch, hget]
        exact if_pos hdone
      rw [hstep, List.map_nil, List.foldl_nil]
      exact fromLink_rill ((updPort_isMe _ _ _ _).trans hme) ((updPort_enginesRun _ _ _).trans hrun)
    · have hstep : State.takeFlit up v { chan := ch, flit := x } =
          v.updPort up (fun p => { p with rxPart := p.rxPart.set ch.val (h :: (done ++ [x])) }) := by
        unfold State.takeFlit
        dsimp only
        rw [if_neg hch, hget]
        exact if_neg hdone
      rw [hstep, happ]
      refine ih (done ++ [x]) _ ?_ (fun hnil => ?_) (happ ▸ hlen) ?_ ?_
      · rw [port_updPort]
        dsimp only
        obtain ⟨hlt, -⟩ := List.getElem?_eq_some_iff.mp hpart
        rw [List.getElem?_set_self hlt]
      · rw [hnil] at hlen
        exact hdone hlen
      · rw [updPort_isMe, ← happ]
        exact hme
      · exact (updPort_enginesRun _ _ _).trans hrun

/-- The flits of a packet for this device, taken one after another, put it into the rill. -/
theorem takeFlits_whole {ch : Fin 4} {h : BitVec 256} {pay : List (BitVec 256)} (hch : ch ≠ 3) (hpart : (s.port up).rxPart[ch.val]? = some [])
    (hlen : pay.length = bitsAt h.toNat 10 5) (hme : s.isMe (packetOf h pay).dstDev = true) (hrun : s.enginesRun = true) :
    packetOf h pay ∈ (((h :: pay).map (fun x => ({ chan := ch, flit := x } : FlitSlot))).foldl (State.takeFlit up) s).rill := by
  have hget : (s.port up).rxPart.getD ch.val [] = [] := by rw [List.getD_eq_getElem?_getD, hpart, Option.getD_some]
  rw [List.map_cons, List.foldl_cons]
  cases pay with
  | nil =>
    have hstep : State.takeFlit up s { chan := ch, flit := h } = (s.updPort up (fun p =>
        { p with rxPart := p.rxPart.set ch.val [], owed := p.owed.modify ch.val (fun m => m + 1) })).fromLink (packetOf h []) := by
      unfold State.takeFlit
      dsimp only
      rw [if_neg hch, hget]
      exact if_pos hlen
    rw [hstep]
    exact fromLink_rill ((updPort_isMe _ _ _ _).trans hme) ((updPort_enginesRun _ _ _).trans hrun)
  | cons y pay =>
    have hstep : State.takeFlit up s { chan := ch, flit := h } = s.updPort up (fun p => { p with rxPart := p.rxPart.set ch.val [h] }) := by
      unfold State.takeFlit
      dsimp only
      rw [if_neg hch, hget]
      refine if_neg ?_
      rw [← hlen]
      simp
    rw [hstep]
    refine takeFlits_rill hch (y :: pay) [] _ ?_ (by simp) hlen ((updPort_isMe _ _ _ _).trans hme) ((updPort_enginesRun _ _ _).trans hrun)
    rw [port_updPort]
    dsimp only
    obtain ⟨hlt, -⟩ := List.getElem?_eq_some_iff.mp hpart
    rw [List.getElem?_set_self hlt]

/-! ### Frames in and out of order (R450, R453) -/

theorem replayFrames_eq (s : State) (up : Bool) : s.replayFrames up = { s with out := (s.replayFrames up).out } ∧
    (∀ x ∈ (s.port up).replay, Emit.link up (.frame x) ∈ (s.replayFrames up).out) ∧ s.out ⊆ (s.replayFrames up).out :=
  foldl_emit (fun f => Emit.link up (.frame f)) (s.port up).replay s

/-- A port as an intact frame in order leaves it, before its flits are taken. -/
def State.takeFrame (s : State) (up : Bool) (f : LinkFrame) (acked : Nat) : State :=
  s.updPort up (fun p => { p with rxSeq := f.seq, ackSeq := f.ack % 4096, bad := 0, replay := p.replay.drop acked })

/-- The port once an intact frame in order is acknowledged, and replayed for where it asks. -/
def State.answered (s : State) (up : Bool) (f : LinkFrame) (acked : Nat) : State :=
  if f.nak then (s.takeFrame up f acked).replayFrames up else s.takeFrame up f acked

theorem answered_spec (s : State) (up : Bool) (f : LinkFrame) (acked : Nat) :
    (s.answered up f acked).port up =
      { s.port up with rxSeq := f.seq, ackSeq := f.ack % 4096, bad := 0, replay := (s.port up).replay.drop acked } ∧
    (∀ d, (s.answered up f acked).isMe d = s.isMe d) ∧ (s.answered up f acked).enginesRun = s.enginesRun ∧
    (f.nak = true → ∀ x ∈ (s.port up).replay.drop acked, Emit.link up (.frame x) ∈ (s.answered up f acked).out) := by
  have hport : (s.takeFrame up f acked).port up =
      { s.port up with rxSeq := f.seq, ackSeq := f.ack % 4096, bad := 0, replay := (s.port up).replay.drop acked } := port_updPort s up _
  have hme : ∀ d, (s.takeFrame up f acked).isMe d = s.isMe d := updPort_isMe s up _
  have hrun : (s.takeFrame up f acked).enginesRun = s.enginesRun := updPort_enginesRun s up _
  have hout : ∀ (v : State) (o : List Emit), ({ v with out := o } : State).port up = v.port up := fun v o => by cases up <;> rfl
  obtain ⟨heq, hsent, -⟩ := replayFrames_eq (s.takeFrame up f acked) up
  unfold State.answered
  cases f.nak with
  | false => exact ⟨hport, hme, hrun, fun h => absurd h Bool.false_ne_true⟩
  | true =>
    rw [if_pos rfl]
    refine ⟨?_, fun d => ?_, ?_, fun _ x hx => hsent x (by rw [hport]; exact hx)⟩
    · rw [heq, hout, hport]
    · rw [heq]
      exact hme d
    · rw [heq]
      exact hrun

/-- An intact frame in order. -/
theorem frame_taken {f : LinkFrame} (hup : (s.port up).state = .up) (hgood : s.pwr.mainGood = true) (hint : frameIntact f = true)
    (hack : (f.ack + 4096 - (s.port up).ackSeq) % 4096 ≤ (s.port up).replay.length) (hseq : f.seq = ((s.port up).rxSeq + 1) % 4096) :
    Yields (.cascadeFrameRx up f) s (fun t => (t.port up).rxSeq = f.seq ∧ (t.port up).ackSeq = f.ack % 4096 ∧
      (t.port up).bad = 0 ∧ (t.port up).state = .up ∧
      (∃ a, Emit.link up (.frame a) ∈ t.out ∧ a.ack = f.seq ∧ a.nak = false ∧ frameIntact a = true ∧ ∀ x ∈ a.slots, x = none) ∧
      (f.nak = true → ∀ x ∈ (s.port up).replay.drop ((f.ack + 4096 - (s.port up).ackSeq) % 4096), Emit.link up (.frame x) ∈ t.out) ∧
      ∀ (ch : Fin 4) (h : BitVec 256) (pay : List (BitVec 256)),
        f.slots.filterMap id = (h :: pay).map (fun x => ({ chan := ch, flit := x } : FlitSlot)) → ch ≠ 3 →
        (s.port up).rxPart[ch.val]? = some [] → pay.length = bitsAt h.toNat 10 5 → s.isMe (packetOf h pay).dstDev = true →
        s.enginesRun = true → packetOf h pay ∈ t.rill) := by
  have hexec : exec (.cascadeFrameRx up f) s = .next ((((((f.slots.filterMap id).foldl (State.takeFlit up)
      (s.answered up f ((f.ack + 4096 - (s.port up).ackSeq) % 4096))).sendFrame up [] false).takeCredits up f.credits).bridgeSend up)) := by
    refine congrArg Host.Outcome.next ((if_neg (by simp [hup, hgood])).trans ((if_neg ?_).trans (if_neg (not_not_intro hseq))))
    simp [hint, hack]
  refine ⟨_, hexec, ?_⟩
  obtain ⟨hport, hme', hrun', hnak⟩ := answered_spec s up f ((f.ack + 4096 - (s.port up).ackSeq) % 4096)
  obtain ⟨v, hv⟩ := exists_eq' (a' := s.answered up f ((f.ack + 4096 - (s.port up).ackSeq) % 4096))
  rw [hv] at hport hme' hrun' hnak ⊢
  obtain ⟨w, hw⟩ := exists_eq' (a' := (f.slots.filterMap id).foldl (State.takeFlit up) v)
  have htaken : Receives up v w := by
    rw [← hw]
    exact Receives.foldl (.refl v) fun u x => takeFlit_receives up u x
  have hrest : Receives up (w.sendFrame up [] false) (((w.sendFrame up [] false).takeCredits up f.credits).bridgeSend up) :=
    (takeCredits_receives _ up _).trans (bridgeSend_receives _ up)
  have hsend : Receives up w (w.sendFrame up [] false) := sendFrame_receives w up [] false
  have hsent := sendFrame_sent w up [] false
  rw [hw]
  obtain ⟨x, hx⟩ := exists_eq' (a' := w.sendFrame up [] false)
  rw [hx] at hrest hsend hsent ⊢
  obtain ⟨y, hy⟩ := exists_eq' (a' := (x.takeCredits up f.credits).bridgeSend up)
  rw [hy] at hrest ⊢
  have hall := (htaken.trans hsend).trans hrest
  have hview := hall.agrees
  unfold Agrees State.rxView at hview
  rw [hport] at hview
  obtain ⟨hrx, hackSeq, hbad, hst⟩ : _ ∧ _ ∧ _ ∧ _ := by simpa only [Prod.mk.injEq] using hview
  have hwrx : (w.port up).rxSeq = f.seq := by
    have := htaken.agrees
    unfold Agrees State.rxView at this
    rw [hport] at this
    exact congrArg Prod.fst this
  refine ⟨hrx, hackSeq, hbad, hst.trans hup, ⟨_, hrest.out hsent, hwrx, rfl, nextFrame_intact _ _ _, ?_⟩, fun h z hz => hall.out (hnak h z hz),
    fun ch h pay hslots hch hpart hlen hme hrun => ?_⟩
  · intro z hz
    obtain ⟨i, -, rfl⟩ := List.mem_map.mp hz
    rfl
  · refine hrest.rill (hsend.rill ?_)
    rw [← hw, hslots]
    refine takeFlits_whole hch ?_ hlen ?_ ?_
    · rw [hport]
      exact hpart
    · exact (hme' _).trans hme
    · exact hrun'.trans hrun

/-- A frame that is damaged, or acknowledges what was not sent. -/
theorem frame_discarded {f : LinkFrame} (hup : (s.port up).state = .up) (hgood : s.pwr.mainGood = true)
    (hbad : frameIntact f = false ∨ (s.port up).replay.length < (f.ack + 4096 - (s.port up).ackSeq) % 4096) :
    Yields (.cascadeFrameRx up f) s (fun t => t.rill = s.rill ∧
      (t.port up).rxSeq = (s.port up).rxSeq ∧ (t.port up).ackSeq = (s.port up).ackSeq ∧
      (t.port up).frameErr = (if (s.port up).frameErr < 0xFFFF then (s.port up).frameErr + 1 else (s.port up).frameErr) ∧
      ((s.port up).bad + 1 < 10 → (t.port up).state = .up ∧ (t.port up).bad = (s.port up).bad + 1 ∧
        ∃ a, Emit.link up (.frame a) ∈ t.out ∧ a.nak = true ∧ a.ack = (s.port up).rxSeq ∧ frameIntact a = true) ∧
      (10 ≤ (s.port up).bad + 1 → (t.port up).state = .retraining ∧ (t.port up).bad = 0)) := by
  have hexec : exec (.cascadeFrameRx up f) s = .next (s.discardFrame up) := by
    refine congrArg Host.Outcome.next ((if_neg (by simp [hup, hgood])).trans (if_pos ?_))
    rcases hbad with h | h
    · exact .inl (by simp [h])
    · exact .inr h
  refine ⟨_, hexec, ?_⟩
  unfold State.discardFrame
  dsimp only
  have hcasc := portLog_casc (s.updPort up (fun p => { p with bad := p.bad + 1, frameErr := satInc 0xFFFF p.frameErr })) up 1
  have hrill : ∀ (v : State) (n : Nat), (v.portLog up n).rill = v.rill := fun v n => by
    unfold State.portLog State.dlog
    exact (devVec_report _ 3).rill_eq
  have hrill1 := hrill (s.updPort up (fun p => { p with bad := p.bad + 1, frameErr := satInc 0xFFFF p.frameErr })) 1
  obtain ⟨v, hv⟩ := exists_eq' (a' := (s.updPort up (fun p => { p with bad := p.bad + 1, frameErr := satInc 0xFFFF p.frameErr })).portLog up 1)
  rw [hv] at hcasc hrill1 ⊢
  have hport : v.port up = { s.port up with bad := (s.port up).bad + 1, frameErr := satInc 0xFFFF (s.port up).frameErr } := by
    rw [port_of_casc hcasc, port_updPort]
  have hupd : (s.updPort up (fun p => { p with bad := p.bad + 1, frameErr := satInc 0xFFFF p.frameErr })).rill = s.rill := by cases up <;> rfl
  by_cases hten : 10 ≤ (s.port up).bad + 1
  · rw [if_pos (by rw [hport]; exact hten)]
    have hport2 : (((v.updPort up (fun p => { p with state := .retraining, bad := 0, retrains := satInc 0xFFFF p.retrains })).portLog up 2).port up) =
        { v.port up with state := .retraining, bad := 0, retrains := satInc 0xFFFF (v.port up).retrains } := by
      rw [port_of_casc (portLog_casc _ up 2), port_updPort]
    rw [hport2, hport]
    refine ⟨?_, rfl, rfl, satInc_eq _, fun h => absurd h (by omega), fun _ => ⟨rfl, rfl⟩⟩
    rw [hrill]
    refine Eq.trans ?_ (hrill1.trans hupd)
    cases up <;> rfl
  · rw [if_neg (by rw [hport]; exact hten)]
    have hsent := sendFrame_sent v up [] true
    have hport2 : ((v.sendFrame up [] true).port up) = { v.port up with
        txSeq := ((v.port up).txSeq + 1) % 4096, owed := (v.port up).owed.map (fun n => n - 63)
        replay := ((v.port up).replay ++ [(v.port up).nextFrame [] true]).drop ((v.port up).replay.length + 1 - 64) } := by
      cases up <;> rfl
    rw [hport2, hport]
    refine ⟨?_, rfl, rfl, satInc_eq _, fun _ => ⟨hup, rfl, _, hsent, rfl, ?_, nextFrame_intact _ _ _⟩, fun h => absurd h hten⟩
    · refine Eq.trans ?_ (hrill1.trans hupd)
      cases up <;> rfl
    · show (v.port up).rxSeq = _
      rw [hport]

end Sys2Proof.Machine
end

section
/-! PROOFS. The chain: numbering, release reports and heartbeats (R454 to R459). -/

namespace Sys2Proof.Machine

set_option Elab.async false

variable {s t u : State}

theorem member_updMember (s : State) (d : Nat) (f : Member → Member) (k : Nat) :
    (s.updMember d f).member k = if k = d ∧ d < s.casc.chain.length then f (s.member d) else s.member k := by
  unfold State.member State.updMember
  dsimp only
  rw [List.getD_eq_getElem?_getD, List.getD_eq_getElem?_getD, List.getD_eq_getElem?_getD, List.getElem?_modify]
  by_cases hk : k = d
  · subst hk
    by_cases hl : k < s.casc.chain.length <;> simp [hl]
  · rw [if_neg fun h => hk h.1]
    cases s.casc.chain[k]? <;> simp [Ne.symm hk]

theorem passNumber_spec (s : State) : s.passNumber = { s with out := s.passNumber.out } ∧ s.out ⊆ s.passNumber.out := by
  unfold State.passNumber
  split
  · exact ⟨rfl, fun _ h => List.mem_cons_of_mem _ h⟩
  · exact ⟨rfl, fun _ h => h⟩

/-- A member takes the number it is given and answers. -/
theorem enumeration_taken {n : Nat} (hrole : s.pins.role = .member) (hlow : 1 ≤ n) (hhigh : n ≤ 7) (hup : s.casc.portUp.state = .up)
    (hnum : s.casc.numbered = false) : Yields (.enumerationMessage n none) s (fun t =>
      t.casc = { s.casc with device := n, numbered := true, length := n + 1 } ∧
      Emit.link true (.enumReply n s.lcs.uid 2) ∈ t.out ∧ t = { s with casc := t.casc, out := t.out }) := by
  obtain ⟨hpass, hout⟩ := passNumber_spec (({ s with casc := { s.casc with device := n, numbered := true, length := n + 1 } } : State).emit
    (.link true (.enumReply n s.lcs.uid 2)))
  have hexec : exec (.enumerationMessage n none) s = .next
      (({ s with casc := { s.casc with device := n, numbered := true, length := n + 1 } } : State).emit
        (.link true (.enumReply n s.lcs.uid 2))).passNumber := by
    have hgo : exec (.enumerationMessage n none) s = execEnumerationMessage n none s := rfl
    rw [hgo]
    unfold execEnumerationMessage
    rw [hrole]
    exact congrArg Host.Outcome.next (if_neg (by simp [hup, hnum]; omega))
  refine ⟨_, hexec, ?_, hout List.mem_cons_self, ?_⟩
  · rw [hpass]
    rfl
  · rw [hpass]
    rfl

/-- A member passes another's answer on. -/
theorem enumeration_relayed (n strap : Nat) (uid : DWord) (hrole : s.pins.role = .member) (hup : s.casc.portDn.state = .up) :
    exec (.enumerationMessage n (some (uid, strap))) s = .next (s.emit (.link true (.enumReply n uid strap))) := by
  have hgo : exec (.enumerationMessage n (some (uid, strap))) s = execEnumerationMessage n (some (uid, strap)) s := rfl
  rw [hgo]
  unfold execEnumerationMessage
  rw [hrole]
  exact congrArg Host.Outcome.next (if_pos hup)

/-- Routes written leave everything but the table and what is sent. -/
theorem writeRoutes_spec (s : State) : s.writeRoutes = { s with
    casc := { s.casc with route := s.writeRoutes.casc.route }, out := s.writeRoutes.out } := by
  have hfold : ∀ (l : List Nat) (v : State) (f : Nat → Emit),
      l.foldl (fun u x => if x = 0 then u else u.emit (f x)) v = { v with out := (l.foldl (fun u x => if x = 0 then u else u.emit (f x)) v).out } := by
    intro l
    induction l with
    | nil => exact fun _ _ => rfl
    | cons a l ih =>
      intro v f
      rw [List.foldl_cons, ih]
      split <;> rfl
  unfold State.writeRoutes
  dsimp only
  rw [hfold _ _ (fun x => .link false (.route x (routeTable s.casc.length x s.servedBy)
    ((List.range s.casc.length).find? (fun d => d != x && s.servedBy d == x))))]

/-- The master learns of a member. -/
theorem enumerated_spec {n : Nat} (hn : n < s.casc.chain.length) (uid : DWord) (strap : Nat) :
    ((s.enumerated n uid strap).member n).uid = uid ∧ ((s.enumerated n uid strap).member n).role = strap ∧
    ((s.enumerated n uid strap).member n).state = (if (s.member n).state = 0 then 1 else (s.member n).state) ∧
    (s.enumerated n uid strap).casc.length = max s.casc.length (n + 1) ∧
    s.enumerated n uid strap = { s with casc := (s.enumerated n uid strap).casc, out := (s.enumerated n uid strap).out } := by
  have hself : (s.updMember n (fun m => { m with state := if m.state = 0 then 1 else m.state, role := strap, uid := uid })).member n =
      { s.member n with state := if (s.member n).state = 0 then 1 else (s.member n).state, role := strap, uid := uid } := by
    rw [member_updMember, if_pos ⟨rfl, hn⟩]
  unfold State.enumerated
  dsimp only
  obtain ⟨v, hv⟩ := exists_eq' (a' := s.updMember n (fun m => { m with state := if m.state = 0 then 1 else m.state, role := strap, uid := uid }))
  have hframe : v = { s with casc := v.casc } := by rw [← hv]; rfl
  have hlen : n < v.casc.chain.length := by rw [← hv]; simpa [State.updMember] using hn
  rw [hv] at hself ⊢
  obtain ⟨f, hf⟩ := exists_eq' (a' := fun (d : Nat) (m : Member) => if 1 ≤ d ∧ d < max s.casc.length (n + 1) then
    { m with links := memberLinks d (max s.casc.length (n + 1)) } else m)
  have hfields : ∀ d m, (f d m).uid = m.uid ∧ (f d m).role = m.role ∧ (f d m).state = m.state := fun d m => by
    rw [← hf]
    dsimp only
    split <;> exact ⟨rfl, rfl, rfl⟩
  rw [hf]
  obtain ⟨w, hw⟩ := exists_eq' (a' := ({ v with casc := { v.casc with length := max s.casc.length (n + 1), chain := v.casc.chain.mapIdx f } } : State))
  have hroutes := writeRoutes_spec w
  have hmember : w.writeRoutes.member n = f n (v.member n) := by
    rw [hroutes]
    show (w.casc.chain.getD n (Member.absent n)) = _
    rw [← hw]
    unfold State.member
    dsimp only
    rw [List.getD_eq_getElem?_getD, List.getD_eq_getElem?_getD, List.getElem?_mapIdx, List.getElem?_eq_getElem hlen]
    rfl
  rw [hw, hmember]
  obtain ⟨huid, hrole, hstate⟩ := hfields n (v.member n)
  refine ⟨huid.trans (congrArg Member.uid hself), hrole.trans (congrArg Member.role hself), hstate.trans (congrArg Member.state hself), ?_, ?_⟩
  · rw [hroutes, ← hw]
  · have hsame : ∀ (c : Casc) (o : List Emit), ({ w with casc := c, out := o } : State) = { s with casc := c, out := o } := fun c o => by
      rw [← hw, hframe]
    have hwrite : w.writeRoutes = { w with casc := w.writeRoutes.casc, out := w.writeRoutes.out } := by rw [hroutes]
    exact hwrite.trans (hsame _ _)

theorem enumeration_noted {n : Nat} (strap : Nat) (uid : DWord) (hrole : s.pins.role = .master) (hlow : 1 ≤ n) (hhigh : n ≤ 7)
    (hup : s.casc.portDn.state = .up) (hn : n < s.casc.chain.length) : Yields (.enumerationMessage n (some (uid, strap))) s (fun t =>
      (t.member n).uid = uid ∧ (t.member n).role = strap ∧
      (t.member n).state = (if (s.member n).state = 0 then 1 else (s.member n).state) ∧
      t.casc.length = max s.casc.length (n + 1) ∧ t = { s with casc := t.casc, out := t.out }) := by
  have hexec : exec (.enumerationMessage n (some (uid, strap))) s = .next (s.enumerated n uid strap) := by
    have hgo : exec (.enumerationMessage n (some (uid, strap))) s = execEnumerationMessage n (some (uid, strap)) s := rfl
    rw [hgo]
    unfold execEnumerationMessage
    rw [hrole]
    exact congrArg Host.Outcome.next (if_neg (by simp [hup]; omega))
  exact ⟨_, hexec, enumerated_spec hn uid strap⟩

/-- A member serves from its release on; a report of one that does not wait for it is discarded. -/
theorem release_spec {d : Fin 8} (uid : DWord) (fw epoch : Word) (hrole : s.pins.role = .master) :
    ((s.member d.val).state = 1 → d.val < s.casc.chain.length → Yields (.memberReleaseReport d uid fw epoch) s (fun t =>
      t.member d.val = { s.member d.val with state := 2, uid := uid, fw := fw, epoch := epoch } ∧
      (∀ k, k ≠ d.val → t.member k = s.member k) ∧ t.hif.devStat.getLsbD 6 = true)) ∧
    ((s.member d.val).state ≠ 1 → Yields (.memberReleaseReport d uid fw epoch) s (fun t =>
      t.casc = { s.casc with mgmtBad := if s.casc.mgmtBad < 0xFFFF then s.casc.mgmtBad + 1 else s.casc.mgmtBad })) := by
  have hnot : ¬s.pins.role ≠ .master := not_not_intro hrole
  refine ⟨fun hst hd => ?_, fun hst => ?_⟩
  · refine ⟨_, congrArg Host.Outcome.next ((if_neg hnot).trans (if_neg (not_not_intro hst))), ?_⟩
    have hmember : ∀ (v : State) k, (v.devVec 6).member k = v.member k := fun v k =>
      congrArg (fun x : Casc => x.chain.getD k (Member.absent k)) (devVec_casc v 6)
    dsimp only
    refine ⟨?_, fun k hk => ?_, devVec_devStat _ (by decide)⟩
    · rw [hmember, member_updMember, if_pos ⟨rfl, hd⟩]
    · rw [hmember, member_updMember, if_neg fun h => hk h.1]
  · refine ⟨_, congrArg Host.Outcome.next ((if_neg hnot).trans (if_pos hst)), ?_⟩
    exact portLog_casc _ _ _

/-- A heartbeat that the master keeps. -/
theorem heartbeat_kept {d : Fin 8} {seq : Nat} (hrole : s.pins.role = .master) (hd : d.val ≠ 0) (hlow : 1 ≤ (s.member d.val).state)
    (hhigh : (s.member d.val).state < 4) (hpairs : ∀ k, (s.pair k).failCid = none) (hchain : d.val < s.casc.chain.length) :
    Yields (.heartbeatReceive d seq) s (fun t => t = { s with casc := { s.casc with chain := t.casc.chain } } ∧
      t.member d.val = { s.member d.val with mirSeq := seq % 2 ^ 48 } ∧ ∀ k, k ≠ d.val → t.member k = s.member k) := by
  have hdrain : ∀ (l : List Nat) (v : State), (∀ k, (v.pair k).failCid = none) → l.foldl (fun t k => t.drainFailover k) v = v := by
    intro l
    induction l with
    | nil => exact fun _ _ => rfl
    | cons a l ih =>
      intro v hv
      rw [List.foldl_cons, drainFailover_of_none (hv a)]
      exact ih v hv
  refine ⟨_, congrArg Host.Outcome.next ((if_neg (not_not_intro hrole)).trans ((if_neg (by omega)).trans (hdrain _ _ hpairs))), rfl, ?_, fun k hk => ?_⟩
  · rw [member_updMember, if_pos ⟨rfl, hchain⟩]
  · rw [member_updMember, if_neg fun h => hk h.1]

/-- A member in service sends its heartbeat. -/
theorem heartbeat_sent (hrole : s.pins.role = .member) (hnum : s.casc.numbered = true) (hfence : s.casc.fenced = false)
    (hlive : s.mainLive = true) (hdev : s.pwr.dev = .run ∨ s.pwr.dev = .economy ∨ s.pwr.dev = .doze ∨ s.pwr.dev = .dry)
    (hhalt : s.sys.hkHalt.getLsbD 1 = false) :
    exec .heartbeatSend s = .next (s.emit (.link true (.heartbeat s.casc.device s.pwr.dev s.heartSeq))) := by
  have hnot : s.pwr.dev ≠ .fault ∧ s.pwr.dev ≠ .sentry ∧ s.pwr.dev ≠ .off := by
    rcases hdev with h | h | h | h <;> rw [h] <;> decide
  obtain ⟨hfault, hsentry, hoff⟩ := hnot
  exact congrArg Host.Outcome.next (if_pos ⟨hrole, hnum, by rw [hfence]; rfl, hlive, hfault, hsentry, hoff, by rw [hhalt]; rfl⟩)

/-- Settles O58: what a port has received, its state and what training has set are told apart from what it sends; the loss of a
member gives up runs, which leaves the chain's block and takes their numbers away. -/
theorem chainLinks : Obligations.ChainLinks := by
  refine ⟨⟨fun s up lanes ok hst => training_spec lanes ok hst, fun s hst => ?_⟩, fun s up f hup hgood => ?_, ?_⟩
  · exact congrArg Host.Outcome.next (if_pos hst)
  · refine ⟨frame_taken hup hgood, fun hint hack hseq => ?_, frame_discarded hup hgood⟩
    refine congrArg Host.Outcome.next ((if_neg (by simp [hup, hgood])).trans ((if_neg ?_).trans (if_pos hseq)))
    simp [hint, hack]
  · exact ⟨fun s n => enumeration_taken, fun s n strap uid => enumeration_relayed n strap uid,
      fun s n strap uid => enumeration_noted strap uid, fun s d uid fw epoch => release_spec uid fw epoch, fun s => heartbeat_sent,
      fun s d seq => heartbeat_kept, fun s d => memberLost_yields⟩

end Sys2Proof.Machine
end

section
/-! PROOFS. One stream at a time: what the Stream Engine's work on it leaves of the others (R424). -/

namespace Sys2Proof.Machine

set_option Elab.async false

variable {s t u : State} {i : Nat}

/-- The TDM port, and every stream but one. -/
def State.otherStreams (i : Nat) (s : State) : Streams × List Stream := ({ s.str with s := [] }, s.str.s.set i Stream.initial)

/-- From `s` to `t` stream i alone has changed among the streams and the TDM port. -/
abbrev Aside (i : Nat) (s t : State) : Prop := Noting (State.otherStreams i) s t

theorem stream_updStream (s : State) (i : Nat) (f : Stream → Stream) (k : Nat) :
    (s.updStream i f).stream k = if k = i ∧ i < s.str.s.length then f (s.stream i) else s.stream k := by
  unfold State.stream State.updStream
  dsimp only
  rw [List.getD_eq_getElem?_getD, List.getD_eq_getElem?_getD, List.getD_eq_getElem?_getD, List.getElem?_modify]
  by_cases hk : k = i
  · subst hk
    by_cases hl : k < s.str.s.length <;> simp [hl]
  · rw [if_neg fun h => hk h.1]
    cases s.str.s[k]? <;> simp [Ne.symm hk]

theorem stream_updStream_self (h : i < s.str.s.length) (f : Stream → Stream) : (s.updStream i f).stream i = f (s.stream i) := by
  rw [stream_updStream, if_pos ⟨rfl, h⟩]

/-- A started stream has its place. -/
theorem stream_lt (h : (s.stream i).started = true) : i < s.str.s.length := by
  by_contra hi
  unfold State.stream at h
  rw [List.getD_eq_default _ _ (Nat.le_of_not_lt hi)] at h
  exact absurd h (by decide)

theorem Noting.stream (h : Aside i s t) {k : Nat} (hk : k ≠ i) : t.stream k = s.stream k := by
  have hview : ∀ u : State, u.stream k = (u.otherStreams i).2.getD k Stream.initial := fun u => by
    unfold State.stream State.otherStreams
    rw [List.getD_eq_getElem?_getD, List.getD_eq_getElem?_getD, List.getElem?_set_ne (Ne.symm hk)]
  rw [hview, hview, show t.otherStreams i = s.otherStreams i from h.agrees]

theorem Noting.streams_length (h : Aside i s t) : t.str.s.length = s.str.s.length := by
  have := h.agrees.eq fun v => v.2.length
  simpa [State.otherStreams] using this

theorem Noting.port' (h : Aside i s t) : { t.str with s := [] } = { s.str with s := [] } := h.agrees.eq Prod.fst

theorem Books.aside (h : Books s t) : Aside i s t := ⟨h.view, h.devStat⟩

theorem updStream_aside (s : State) (i : Nat) (f : Stream → Stream) : Aside i s (s.updStream i f) := by
  refine ⟨?_, fun _ => id⟩
  unfold Agrees State.otherStreams State.updStream
  dsimp only
  refine congrArg (Prod.mk _) (List.ext_getElem? fun k => ?_)
  by_cases hk : k = i
  · subst hk
    by_cases hl : k < s.str.s.length <;> simp [hl]
  · rw [List.getElem?_set_ne (Ne.symm hk), List.getElem?_set_ne (Ne.symm hk), List.getElem?_modify]
    cases s.str.s[k]? <;> simp [Ne.symm hk]

theorem dmaRead_aside (s : State) (f : Nat) (a : DWord) (n : Nat) : Aside i s (s.dmaRead f a n) := by
  unfold State.dmaRead
  exact .ite (issueRead_books s f a n).aside {}

theorem closeSegment_aside (s : State) (i : Nat) (cut : Bool) : Aside i s (s.closeSegment i cut) := by
  unfold State.closeSegment
  split
  · exact .refl s
  · exact (updStream_aside s i _).trans (finish_books _ _ _).aside

theorem advanceStream_aside (fuel : Nat) (s : State) (i : Nat) : Aside i s (s.advanceStream fuel i) := by
  induction fuel generalizing s with
  | zero => exact .refl s
  | succ n ih =>
    unfold State.advanceStream
    dsimp only
    split
    · exact updStream_aside s i _
    · exact .ite ((updStream_aside s i _).trans (ih _)) (.ite ((closeSegment_aside s i false).trans (ih _)) (.refl s))

theorem prefetch_aside (s : State) (i : Nat) : Aside i s (s.prefetch i) := by
  unfold State.prefetch
  dsimp only
  split
  · exact .refl s
  · split
    · exact .refl s
    · exact (updStream_aside s i _).trans (dmaRead_aside _ _ _ _)

theorem cutSegments_aside (s : State) (i k : Nat) : Aside i s (s.cutSegments i k) := by
  unfold State.cutSegments
  exact Noting.foldl (.refl s) fun u _ => closeSegment_aside u i true

theorem finishes_aside {β : Type} (s : State) (l : List β) (c : β → Nat) (e : β → End) :
    Aside i s (l.foldl (fun t a => t.finish (c a) (e a)) s) := Noting.foldl (.refl s) fun u _ => (finish_books u _ _).aside

theorem detachStream_aside (s : State) (i : Nat) : Aside i s (s.detachStream i) := by
  unfold State.detachStream
  exact (updStream_aside s i _).trans (finishes_aside _ _ (fun (g : Segment) => g.cid) (fun g => g.outcome true))

theorem doStop_aside (s : State) (i cid : Nat) : Aside i s (s.doStop i cid) := by
  unfold State.doStop
  exact ((cutSegments_aside s i _).trans (updStream_aside _ i _)).trans (finish_books _ _ _).aside

theorem doJump_aside (s : State) (i cid target : Nat) (atEnd : Bool) : Aside i s (s.doJump i cid target atEnd) := by
  unfold State.doJump
  dsimp only
  split
  · exact (updStream_aside s i _).trans (finish_books _ _ _).aside
  · exact ((((updStream_aside s i _).trans (cutSegments_aside _ i _)).trans (updStream_aside _ i _)).trans (updStream_aside _ i _)).trans
      (finish_books _ _ _).aside

theorem boundary_aside (s : State) (i : Nat) : Aside i s (s.boundary i) := by
  unfold State.boundary
  dsimp only
  split
  · have hend : Aside i s (if ((s.stream i).cur && (s.stream i).segs.head?.any Segment.over) = true then s.closeSegment i false else s) :=
      .ite (closeSegment_aside s i false) (.refl s)
    have hdet := hend.trans (.ite (c := (s.stream i).detach = true) (detachStream_aside _ i) (.refl _))
    split
    · exact hdet.trans (doStop_aside _ i _)
    · exact (hdet.trans (doJump_aside _ i _ _ _)).trans (advanceStream_aside _ _ i)
    · exact hdet.trans (advanceStream_aside _ _ i)
  · exact advanceStream_aside _ s i

theorem takeUnit_aside (s : State) (i : Nat) : Aside i s (s.takeUnit i).1 := by
  unfold State.takeUnit
  dsimp only
  split
  · exact .refl s
  · split
    · exact (updStream_aside s i _).trans (dmaWrite_books _ _ _ _ _).aside
    · exact updStream_aside s i _

theorem pumpLoop_aside (fuel : Nat) (s : State) (i : Nat) : Aside i s (s.pumpLoop fuel i) := by
  induction fuel generalizing s with
  | zero => exact .refl s
  | succ n ih =>
    unfold State.pumpLoop
    dsimp only
    split
    · exact .ite (((takeUnit_aside s i).trans (advanceStream_aside _ _ i)).trans (ih _)) (.refl s)
    · exact .refl s

theorem pump_aside (s : State) (i : Nat) : Aside i s (s.pump i) := by
  unfold State.pump
  dsimp only
  refine .ite (.refl s) (Noting.trans ?_ (prefetch_aside _ i))
  exact .ite (.refl s) ((boundary_aside s i).trans (pumpLoop_aside _ _ i))

/-! ### Reading ahead (R431) -/

/-- A segment apart from the read ahead that is outstanding. -/
def Segment.sansAsked (g : Segment) : Segment := { g with asked := 0 }

/-- A stream apart from the reads ahead that are outstanding. -/
def Stream.sansAsked (x : Stream) : Stream := { x with segs := x.segs.map Segment.sansAsked }

/-- What reading ahead leaves: the stream but for what is asked for, the commands, and, where the owner may master, all but the ledger. -/
structure ReadsAhead (i : Nat) (s t : State) : Prop where
  stream : (t.stream i).sansAsked = (s.stream i).sansAsked
  cmds : t.cmds = s.cmds
  rings : t.rings = s.rings
  only : StreamOnly s t
  aside : Aside i s t
  ledger : s.mayMaster (s.stream i).owner = true → ReportOnly { s with str := t.str } t

theorem dmaRead_keeps (s : State) (f : Nat) (a : DWord) (n : Nat) : (s.dmaRead f a n).str = s.str ∧ (s.dmaRead f a n).cmds = s.cmds ∧
    (s.dmaRead f a n).rings = s.rings := by
  have h := issueRead_report s f a n
  unfold State.dmaRead
  split
  · exact ⟨h.str_eq, h.cmds_eq, h.rings_eq⟩
  · exact ⟨rfl, rfl, rfl⟩

theorem stream_of_str (h : t.str = s.str) (i : Nat) : t.stream i = s.stream i := congrArg (fun x : Streams => x.s.getD i Stream.initial) h

theorem prefetch_reads (s : State) (i : Nat) : ReadsAhead i s (s.prefetch i) := by
  have hrefl : ReadsAhead i s s := ⟨rfl, rfl, rfl, .refl s, .refl s, fun _ => ReportOnly.refl s⟩
  have haside := prefetch_aside s i
  have honly := prefetch_stream s i
  unfold State.prefetch at haside honly ⊢
  dsimp only at haside honly ⊢
  split
  · exact hrefl
  next hstart =>
    rw [if_neg hstart] at haside honly
    split
    · exact hrefl
    next g n hread =>
      rw [hread] at haside honly
      dsimp only at haside honly
      obtain ⟨hstr, hcmds, hrings⟩ := dmaRead_keeps (s.updSegment i g.cid (fun g => { g with asked := n })) (s.stream i).owner
        (g.addr + BitVec.ofNat 64 ((s.stream i).unitB * (g.done + g.fetched.length))) ((s.stream i).unitB * n)
      refine ⟨?_, hcmds, hrings, honly, haside, fun hm => ?_⟩
      · rw [stream_of_str hstr i]
        refine Eq.trans (congrArg Stream.sansAsked (stream_updStream s i _ i)) ?_
        split
        · refine congrArg (fun l => ({ s.stream i with segs := l } : Stream)) ?_
          rw [List.map_map]
          refine List.map_congr_left fun y _ => ?_
          simp only [Function.comp]
          split <;> rfl
        · rfl
      · have hissue := issueRead_report (s.updSegment i g.cid (fun g => { g with asked := n })) (s.stream i).owner
          (g.addr + BitVec.ofNat 64 ((s.stream i).unitB * (g.done + g.fetched.length))) ((s.stream i).unitB * n)
        rw [hstr]
        unfold State.dmaRead
        rw [if_pos (show (s.updSegment i g.cid (fun g => { g with asked := n })).mayMaster (s.stream i).owner = true from hm)]
        exact hissue

/-- Reading ahead changes of a segment only what is asked for. -/
theorem ReadsAhead.segs {α : Type} (h : ReadsAhead i s t) (f : Segment → α) (hf : ∀ y : Segment, f y.sansAsked = f y := by intro y; rfl) :
    (t.stream i).segs.map f = (s.stream i).segs.map f := by
  have hall : ∀ l : List Segment, (l.map Segment.sansAsked).map f = l.map f := fun l => by
    rw [List.map_map]
    exact List.map_congr_left fun y _ => hf y
  rw [← hall (t.stream i).segs, ← hall (s.stream i).segs]
  exact congrArg (fun x : Stream => x.segs.map f) h.stream

/-- A stream that plays to TDM only reads ahead (log 22). -/
theorem pump_framed (hst : (s.stream i).started = true) (hfr : (s.stream i).framed = true) : s.pump i = s.prefetch i := by
  unfold State.pump
  dsimp only
  rw [if_neg (by simp [hst]), if_pos hfr]

end Sys2Proof.Machine
end

section
/-! PROOFS. The segment that SEGMENT_QUEUE adds: it is in its stream's queue, or its command has ended (R430 to R441). -/

namespace Sys2Proof.Machine

set_option Elab.async false

variable {s t u : State} {i n d : Nat}

/-- A segment of stream i has the command n and the number d, or no command has the number n any more. -/
def Booked (i n d : Nat) (s : State) : Prop :=
  Gone n s.cmds ∨ (Unmirrored n s.cmds ∧ ∃ y ∈ (s.stream i).segs, y.cid = n ∧ y.segId = d)

theorem Booked.lasting (h : Booked i n d s) (hstr : t.str = s.str) (hcmds : ∀ {P : List Cmd → Prop}, Lasting P → P s.cmds → P t.cmds) :
    Booked i n d t := by
  rcases h with hgone | ⟨hmir, hseg⟩
  · exact .inl (hcmds (Gone.lasting n) hgone)
  · refine .inr ⟨hcmds (Unmirrored.lasting n) hmir, ?_⟩
    rw [stream_of_str hstr]
    exact hseg

theorem Books.str (h : Books s t) : t.str = s.str := h.ends.agrees.eq fun w => w.str

theorem Booked.finish (h : Booked i n d s) (k : Nat) (e : End) : Booked i n d (s.finish k e) :=
  h.lasting (finish_books s k e).str fun hP => hP.finish k e

theorem Booked.settle (h : Booked i n d s) (g : Nat) : Booked i n d (s.settle g) :=
  h.lasting (settle_books s g).str fun hP => hP.settle g

/-- The end of the segment's own command. -/
theorem Booked.ended (h : Booked i n d s) (e : End) : Gone n (s.finish n e).cmds := by
  rcases h with hgone | ⟨hmir, -⟩
  · exact (Gone.lasting n).finish n e hgone
  · exact gone_iff.mpr (hmir.finish_gone e)

/-- A change of the stream that keeps its segments' commands and numbers. -/
theorem Booked.updStream (h : Booked i n d s) (f : Stream → Stream)
    (hf : (f (s.stream i)).segs.map (fun y => (y.cid, y.segId)) = (s.stream i).segs.map (fun y => (y.cid, y.segId))) :
    Booked i n d (s.updStream i f) := by
  refine h.imp id fun ⟨hmir, y, hy, hcid, hseg⟩ => ⟨hmir, ?_⟩
  have hmem : (n, d) ∈ (((s.updStream i f).stream i).segs.map (fun y => (y.cid, y.segId))) := by
    have hx : (n, d) ∈ (s.stream i).segs.map (fun y => (y.cid, y.segId)) := List.mem_map.mpr ⟨y, hy, by rw [hcid, hseg]⟩
    rw [stream_updStream]
    split
    · rw [hf]
      exact hx
    · exact hx
  obtain ⟨z, hz, he⟩ := List.mem_map.mp hmem
  exact ⟨z, hz, congrArg Prod.fst he, congrArg Prod.snd he⟩

theorem makeCurrent_segs (x : Stream) : x.makeCurrent.segs = x.segs := by
  unfold Stream.makeCurrent
  split
  · rfl
  · rfl

theorem Booked.makeCurrent (h : Booked i n d s) : Booked i n d (s.updStream i Stream.makeCurrent) :=
  h.updStream _ (by rw [makeCurrent_segs])

theorem closeSegment_segs (s : State) (i : Nat) (cut : Bool) : ((s.closeSegment i cut).stream i).segs = (s.stream i).segs.tail := by
  unfold State.closeSegment
  split
  · next h => rw [h, List.tail_nil]
  · next g rest h =>
    rw [stream_of_str (finish_books _ _ _).str, stream_updStream, h]
    split
    · rfl
    · next hi =>
      have : ¬i < s.str.s.length := fun hlt => hi ⟨rfl, hlt⟩
      unfold State.stream at h
      rw [List.getD_eq_default _ _ (Nat.le_of_not_lt this)] at h
      cases h

theorem Booked.closeSegment (h : Booked i n d s) (cut : Bool) : Booked i n d (s.closeSegment i cut) := by
  have htail := closeSegment_segs s i cut
  unfold State.closeSegment at htail ⊢
  split
  · exact h
  next g rest hsegs =>
    rw [hsegs] at htail
    dsimp only at htail
    rcases h with hgone | ⟨hmir, y, hy, hcid, hseg⟩
    · exact .inl ((Gone.lasting n).finish (s := s.updStream i _) _ _ hgone)
    · by_cases hg : g.cid = n
      · refine .inl ?_
        rw [hg]
        exact gone_iff.mpr (Unmirrored.finish_gone (s := s.updStream i _) hmir _)
      · refine .inr ⟨(Unmirrored.lasting n).finish (s := s.updStream i _) _ _ hmir, y, ?_, hcid, hseg⟩
        rw [htail]
        rw [hsegs] at hy
        rcases List.mem_cons.mp hy with rfl | hy
        · exact absurd hcid hg
        · exact hy

theorem Booked.advanceStream (fuel : Nat) (h : Booked i n d s) : Booked i n d (s.advanceStream fuel i) := by
  induction fuel generalizing s with
  | zero => exact h
  | succ k ih =>
    unfold State.advanceStream
    dsimp only
    split
    · exact h.updStream _ (by rfl)
    · split
      · exact ih h.makeCurrent
      · split
        · exact ih (h.closeSegment false)
        · exact h

theorem Booked.foldl {α : Type} {l : List α} {f : State → α → State} (h : Booked i n d s) (hf : ∀ u a, Booked i n d u → Booked i n d (f u a)) :
    Booked i n d (l.foldl f s) := by
  induction l generalizing s with
  | nil => exact h
  | cons a l ih => exact ih (hf s a h)

theorem Booked.cutSegments (h : Booked i n d s) (k : Nat) : Booked i n d (s.cutSegments i k) := by
  unfold State.cutSegments
  exact h.foldl fun u _ hu => hu.closeSegment true

theorem cutSegments_segs (s : State) (i k : Nat) : ((s.cutSegments i k).stream i).segs = (s.stream i).segs.drop k := by
  unfold State.cutSegments
  have hfold : ∀ (l : List Nat) (v : State), ((l.foldl (fun t _ => t.closeSegment i true) v).stream i).segs = (v.stream i).segs.drop l.length := by
    intro l
    induction l with
    | nil => exact fun v => rfl
    | cons a l ih =>
      intro v
      rw [List.foldl_cons, ih, closeSegment_segs, List.length_cons, List.drop_tail]
  rw [hfold, List.length_range]

/-- Every segment queued ends, and the segment's command with it. -/
theorem Booked.cutAll (h : Booked i n d s) : Gone n (s.cutSegments i (s.stream i).segs.length).cmds := by
  rcases h.cutSegments (s.stream i).segs.length with hgone | ⟨-, y, hy, -⟩
  · exact hgone
  · rw [cutSegments_segs, List.drop_length] at hy
    cases hy

theorem Booked.doStop (h : Booked i n d s) (c : Nat) : Booked i n d (s.doStop i c) := by
  unfold State.doStop
  exact .inl ((Gone.lasting n).finish (s := (s.cutSegments i _).updStream i _) _ _ h.cutAll)

theorem foldl_finish_gone {β : Type} {l : List β} (c : β → Nat) (e : β → End) (h : Gone n s.cmds) :
    Gone n (l.foldl (fun t a => t.finish (c a) (e a)) s).cmds := by
  induction l generalizing s with
  | nil => exact h
  | cons a l ih => exact ih ((Gone.lasting n).finish _ _ h)

/-- Ends one after another, the number's own among them. -/
theorem foldl_finish_own {β : Type} {l : List β} (c : β → Nat) (e : β → End) (h : Unmirrored n s.cmds) {a : β} (ha : a ∈ l) (hc : c a = n) :
    Gone n (l.foldl (fun t a => t.finish (c a) (e a)) s).cmds := by
  induction l generalizing s with
  | nil => cases ha
  | cons b l ih =>
    rw [List.foldl_cons]
    rcases List.mem_cons.mp ha with rfl | ha
    · refine foldl_finish_gone c e ?_
      rw [hc]
      exact gone_iff.mpr (h.finish_gone _)
    · exact ih ((Unmirrored.lasting n).finish _ _ h) ha

theorem foldl_finish_unmirrored {β : Type} {l : List β} (c : β → Nat) (e : β → End) (h : Unmirrored n s.cmds) :
    Unmirrored n (l.foldl (fun t a => t.finish (c a) (e a)) s).cmds := by
  induction l generalizing s with
  | nil => exact h
  | cons a l ih => exact ih ((Unmirrored.lasting n).finish _ _ h)

theorem foldl_finish_str {β : Type} (l : List β) (c : β → Nat) (e : β → End) (s : State) :
    (l.foldl (fun t a => t.finish (c a) (e a)) s).str = s.str := by
  induction l generalizing s with
  | nil => rfl
  | cons a l ih => exact (ih _).trans (finish_books _ _ _).str

/-- A stream detached: its segments from the port end, the others stay. -/
theorem Booked.detachStream (h : Booked i n d s) : Booked i n d (s.detachStream i) := by
  unfold State.detachStream
  dsimp only
  have hstr := foldl_finish_str ((s.stream i).segs.filter (fun g => g.fromPort)) (fun g => g.cid) (fun g => g.outcome true)
    (s.updStream i (fun x => { x with
      segs := x.segs.filter (fun g => !g.fromPort), detach := false
      cur := x.cur && !((s.stream i).cur && (s.stream i).segs.head?.any (fun g => g.fromPort))
      succ := x.succ && !((s.stream i).cur && (s.stream i).segs.head?.any (fun g => g.fromPort)) }))
  rcases h with hgone | ⟨hmir, y, hy, hcid, hseg⟩
  · exact .inl (foldl_finish_gone (s := s.updStream i _) (fun (g : Segment) => g.cid) _ hgone)
  · by_cases hport : y.fromPort = true
    · exact .inl (foldl_finish_own (s := s.updStream i _) (fun (g : Segment) => g.cid) _ hmir (List.mem_filter.mpr ⟨hy, hport⟩) hcid)
    · refine .inr ⟨foldl_finish_unmirrored (s := s.updStream i _) (fun (g : Segment) => g.cid) _ hmir, y, ?_, hcid, hseg⟩
      rw [stream_of_str hstr, stream_updStream]
      split
      · exact List.mem_filter.mpr ⟨hy, by simp [hport]⟩
      · exact hy

theorem Booked.doJump (h : Booked i n d s) (c target : Nat) (atEnd : Bool) : Booked i n d (s.doJump i c target atEnd) := by
  have h0 : Booked i n d (s.updStream i (fun x => { x with jump := none })) := h.updStream _ (by rfl)
  unfold State.doJump
  dsimp only
  split
  · exact h0.finish _ _
  · exact (((h0.cutSegments _).makeCurrent).updStream _ (by rfl)).finish _ _

theorem Booked.boundary (h : Booked i n d s) : Booked i n d (s.boundary i) := by
  unfold State.boundary
  dsimp only
  split
  · have hend : Booked i n d (if ((s.stream i).cur && (s.stream i).segs.head?.any Segment.over) = true then s.closeSegment i false else s) := by
      split
      · exact h.closeSegment false
      · exact h
    obtain ⟨v, hv⟩ := exists_eq' (a' := if ((s.stream i).cur && (s.stream i).segs.head?.any Segment.over) = true then s.closeSegment i false else s)
    rw [hv] at hend ⊢
    have hdet : Booked i n d (if (s.stream i).detach = true then v.detachStream i else v) := by
      split
      · exact hend.detachStream
      · exact hend
    split
    · exact hdet.doStop _
    · exact (hdet.doJump _ _ _).advanceStream 66
    · exact hdet.advanceStream 66
  · exact h.advanceStream 66

theorem dmaWrite_cmds (s : State) (c : Nat) (a : DWord) (b : List Byte) (r : Bool) : (s.dmaWrite c a b r).cmds = s.cmds := by
  unfold State.dmaWrite
  split
  · rfl
  · split
    · exact dropResults_cmds _ _ _
    · exact (postWrite_report _ _ _ _ _ _ _).cmds_eq

theorem Booked.takeUnit (h : Booked i n d s) : Booked i n d (s.takeUnit i).1 := by
  unfold State.takeUnit
  dsimp only
  split
  · exact h
  next g rest hsegs =>
    have htaken : Booked i n d (s.updStream i (fun x => { x with
        segs := { g with done := g.done + 1, fetched := if g.fromPort then g.fetched else g.fetched.drop 1 } :: rest
        fifo := if g.fromPort then x.fifo.drop 1 else x.fifo, total := x.total + 1, succ := false })) :=
      h.updStream _ (by rw [hsegs]; rfl)
    split
    · refine htaken.lasting (dmaWrite_books _ _ _ _ _).str fun hP hs => ?_
      rw [dmaWrite_cmds]
      exact hs
    · exact htaken

theorem Booked.pumpLoop (fuel : Nat) (h : Booked i n d s) : Booked i n d (s.pumpLoop fuel i) := by
  induction fuel generalizing s with
  | zero => exact h
  | succ k ih =>
    unfold State.pumpLoop
    dsimp only
    split
    · split
      · exact ih (h.takeUnit.advanceStream 66)
      · exact h
    · exact h

theorem Booked.prefetch (h : Booked i n d s) : Booked i n d (s.prefetch i) := by
  have hread := prefetch_reads s i
  have hids := hread.segs fun y => (y.cid, y.segId)
  rw [Booked, hread.cmds]
  refine h.imp id fun ⟨hmir, y, hy, hcid, hseg⟩ => ⟨hmir, ?_⟩
  have hmem : (n, d) ∈ ((s.prefetch i).stream i).segs.map (fun y => (y.cid, y.segId)) := by
    rw [hids]
    exact List.mem_map.mpr ⟨y, hy, by rw [hcid, hseg]⟩
  obtain ⟨z, hz, he⟩ := List.mem_map.mp hmem
  exact ⟨z, hz, congrArg Prod.fst he, congrArg Prod.snd he⟩

theorem Booked.pump (h : Booked i n d s) : Booked i n d (s.pump i) := by
  unfold State.pump
  dsimp only
  split
  · exact h
  · refine Booked.prefetch ?_
    split
    · exact h
    · exact h.boundary.pumpLoop _

end Sys2Proof.Machine
end

section
/-! PROOFS. The commands of the Stream Engine (R424 to R442). -/

namespace Sys2Proof.Machine

set_option Elab.async false

variable {s t u : State} {i : Nat} {p : List Byte}

theorem LedgerOnly.withStr (h : LedgerOnly s t) (x : Streams) : LedgerOnly { s with str := x } { t with str := x } :=
  ⟨congrArg (fun v : State => { v with str := x }) h.1, h.2⟩

/-- A head packet that sets the Stream Engine's block and is done. -/
theorem completeWith_str {g op : Nat} {b : Bool} {k : State → State} {x : Streams} (h : s.ready g op b = some p)
    (hm : Reporting s g) (hk : k (s.accept g p .plain none 0) = { s.accept g p .plain none 0 with str := x }) (e : End) :
    HeadRecorded s (s.completeWith g p k e) g p e ∧ (s.completeWith g p k e).str = x ∧
      LedgerOnly { s with str := x } (s.completeWith g p k e) := by
  unfold State.completeWith
  rw [hk]
  obtain ⟨hmast, hrole, hfresh⟩ := hm
  refine ⟨headRecorded_of_finish (y := s.headCmd g p .plain none 0) e h ?_ ⟨hmast, hrole, accept_fresh hfresh g p _ _ _⟩
    (accept_cmd? hfresh g p _ _ _) rfl rfl rfl rfl rfl rfl rfl, ?_, ?_⟩
  · exact (accept_same s g p .plain none 0).trans ⟨fun _ => rfl, rfl, rfl⟩
  · exact (finish_books _ _ _).str
  · exact ((accept_ledger s g p .plain none 0).withStr x).trans (finish_ledger _ _ _)

/-- A stream as STREAM_START leaves it (R426). -/
def startedStream (s : State) (g : Nat) (p : List Byte) (x : Stream) : Stream :=
  { Stream.initial with
    started := true, owner := s.ringFunc g, kind := par p 0x11 1, dest := par p 0x15 1, slots := BitVec.ofNat 8 (par p 0x16 1)
    port := par p 0x14 1, handle := par p 0x12 2
    unitB := unitSize (par p 0x11 1) (par p 0x16 1)
      ((((s.graph? (par p 0x12 2)).bind (fun x => x.cgd.ports[par p 0x14 1]?)).map (fun o => o.bytes)).getD 0)
    keep := x.keep }

theorem streamStart_starts {g : Fin 1024} (hm : Reporting s g.val) (h : s.ready g.val 0x42 false = some p)
    (hok : s.streamStartRefusal p = none) (hi : par p 0x10 1 < s.str.s.length) :
    Yields (.streamStart g) s (fun t => LedgerOnly { s with str := { s.str with s := t.str.s } } t ∧
      HeadRecorded s t g.val p endDone ∧ (∀ k, k ≠ par p 0x10 1 → t.stream k = s.stream k) ∧
      t.stream (par p 0x10 1) = startedStream s g.val p (s.stream (par p 0x10 1))) := by
  have hexec : exec (.streamStart g) s = .next (s.completeWith g.val p
      (fun t => t.updStream (par p 0x10 1) (startedStream s g.val p)) endDone) := by
    refine congrArg Host.Outcome.next ((onHead_some _ h).trans ?_)
    rw [hok]
    rfl
  obtain ⟨hrec, hstr, hledger⟩ := completeWith_str (x := (s.updStream (par p 0x10 1) (startedStream s g.val p)).str)
    (k := fun t => t.updStream (par p 0x10 1) (startedStream s g.val p)) h hm rfl endDone
  refine ⟨_, hexec, ?_, hrec, fun k hk => ?_, ?_⟩
  · rw [hstr]
    exact hledger
  · rw [stream_of_str (s := s.updStream (par p 0x10 1) (startedStream s g.val p)) hstr, stream_updStream, if_neg fun e => hk e.1]
  · rw [stream_of_str (s := s.updStream (par p 0x10 1) (startedStream s g.val p)) hstr, stream_updStream_self hi]

theorem tdmConfig_sets {g : Fin 1024} (hm : Reporting s g.val) (h : s.ready g.val 0x44 false = some p) (hf : s.ringFunc g.val = 0)
    (hno : (s.str.s.any (fun x => x.started && x.framed)) = false) :
    Yields (.tdmConfig g) s (fun t => HeadRecorded s t g.val p endDone ∧ LedgerOnly { s with
      str := { s.str with conf := true, master := par p 0x10 1 == 1, nslots := par p 0x11 1
                          lines := BitVec.ofNat 2 (par p 0x12 1), pol := BitVec.ofNat 2 (par p 0x13 1)
                          locked := par p 0x10 1 == 1, resync := 0, fsDue := false, zeroNext := false
                          frame := List.replicate 8 0 } } t) := by
  refine ⟨_, congrArg Host.Outcome.next ((onHead_some _ h).trans ((if_neg (not_not_intro hf)).trans (if_neg (by simp [hno])))), ?_⟩
  obtain ⟨hrec, -, hledger⟩ := completeWith_str (x := { s.str with
    conf := true, master := par p 0x10 1 == 1, nslots := par p 0x11 1, lines := BitVec.ofNat 2 (par p 0x12 1)
    pol := BitVec.ofNat 2 (par p 0x13 1), locked := par p 0x10 1 == 1, resync := 0, fsDue := false, zeroNext := false
    frame := List.replicate 8 0 }) (k := fun t => { t with str := { t.str with
      conf := true, master := par p 0x10 1 == 1, nslots := par p 0x11 1, lines := BitVec.ofNat 2 (par p 0x12 1)
      pol := BitVec.ofNat 2 (par p 0x13 1), locked := par p 0x10 1 == 1, resync := 0, fsDue := false, zeroNext := false
      frame := List.replicate 8 0 } }) h hm rfl endDone
  exact ⟨hrec, hledger⟩

/-! ### Commands on a started stream of the function -/

theorem streamRefusal_none {g : Nat} (h : s.streamRefusal g i = none) : (s.stream i).started = true ∧ (s.stream i).owner = s.ringFunc g := by
  unfold State.streamRefusal at h
  dsimp only at h
  split at h
  · cases h
  · next hst =>
    split at h
    · cases h
    · next how => exact ⟨by simpa using hst, not_not.mp how⟩

/-- What follows a change of a stream that plays to TDM, and its ring settling: reads ahead and the ledger. -/
theorem readsAhead_ledger {c : State} (hc : LedgerOnly { s with str := c.str } c) (haside : Aside i s c)
    (hm : c.mayMaster (c.stream i).owner = true) (g : Nat) :
    LedgerOnly { s with str := { s.str with s := ((c.prefetch i).settle g).str.s } } ((c.prefetch i).settle g) := by
  have hread := prefetch_reads c i
  have hstr : ((c.prefetch i).settle g).str = (c.prefetch i).str := (settle_books _ _).str
  have hport : (c.prefetch i).str = { s.str with s := (c.prefetch i).str.s } := by
    have := congrArg (fun x : Streams => { x with s := (c.prefetch i).str.s }) (haside.trans hread.aside).port'
    exact this
  rw [hstr, ← hport]
  exact ((hc.withStr (c.prefetch i).str).trans (hread.ledger hm).ledger).trans (settle_ledger _ _)

theorem accept_aside (s : State) (g : Nat) (q : List Byte) (b : Body) (d : Option Nat) (w : Nat) : Aside i s (s.accept g q b d w) := {}

/-- SEGMENT_QUEUE's segment. -/
def queuedSegment (s : State) (p : List Byte) : Segment :=
  { cid := s.nextCid, segId := par p 0x12 2, fromPort := par p 0x11 1 == 1, units := par p 0x14 4
    addr := BitVec.ofNat 64 (par p 0x18 8), done := 0, zeros := 0, fetched := [], asked := 0, readFail := false }

/-- The segment at the end of its stream's queue, which it begins where nothing is current. -/
def State.queueSegment (s : State) (g i : Nat) (p : List Byte) : State :=
  let t := (s.accept g p .segment none 0).updStream i (fun x => { x with segs := x.segs ++ [queuedSegment s p] })
  if (t.stream i).cur then t else t.updStream i Stream.makeCurrent

theorem queueSegment_spec {g : Nat} (hst : (s.stream i).started = true) :
    ((s.queueSegment g i p).stream i).segs = (s.stream i).segs ++ [queuedSegment s p] ∧
    ((s.queueSegment g i p).stream i).started = true ∧ ((s.queueSegment g i p).stream i).dest = (s.stream i).dest ∧
    ((s.queueSegment g i p).stream i).owner = (s.stream i).owner ∧ Aside i s (s.queueSegment g i p) ∧
    (s.queueSegment g i p).cmds = (s.accept g p .segment none 0).cmds ∧
    LedgerOnly { s with str := (s.queueSegment g i p).str } (s.queueSegment g i p) := by
  have hlt := stream_lt hst
  have hmake : ∀ x : Stream, x.makeCurrent.started = x.started ∧ x.makeCurrent.dest = x.dest ∧ x.makeCurrent.owner = x.owner := fun x => by
    unfold Stream.makeCurrent
    split <;> exact ⟨rfl, rfl, rfl⟩
  obtain ⟨v, hv⟩ := exists_eq' (a' := (s.accept g p .segment none 0).updStream i (fun x => { x with segs := x.segs ++ [queuedSegment s p] }))
  have hself : v.stream i = { s.stream i with segs := (s.stream i).segs ++ [queuedSegment s p] } := by
    rw [← hv]
    exact stream_updStream_self (s := s.accept g p .segment none 0) hlt _
  have haside : Aside i s v := by
    rw [← hv]
    exact (accept_aside s g p .segment none 0).trans (updStream_aside _ i _)
  have hcmds : v.cmds = (s.accept g p .segment none 0).cmds := by rw [← hv]; rfl
  have hledger : ∀ x, LedgerOnly { s with str := x } { v with str := x } := fun x => by
    rw [← hv]
    exact (accept_ledger s g p .segment none 0).withStr x
  have hlen : i < v.str.s.length := by
    rw [haside.streams_length]
    exact hlt
  have hqueue : s.queueSegment g i p = if (v.stream i).cur then v else v.updStream i Stream.makeCurrent := by
    rw [← hv]
    rfl
  rw [hqueue]
  split
  · rw [hself]
    exact ⟨rfl, hst, rfl, rfl, haside, hcmds, hledger v.str⟩
  · rw [stream_updStream_self hlen, makeCurrent_segs]
    obtain ⟨hs, hd, ho⟩ := hmake (v.stream i)
    rw [hs, hd, ho, hself]
    exact ⟨rfl, hst, rfl, rfl, haside.trans (updStream_aside _ i _), hcmds, hledger _⟩

theorem map_eq_append_singleton {α β : Type} {f : α → β} {l : List α} {m : List β} {b : β} (h : l.map f = m ++ [b]) :
    ∃ a, l.getLast? = some a ∧ f a = b := by
  have hlast := congrArg List.getLast? h
  rw [List.getLast?_map, List.getLast?_append, List.getLast?_singleton] at hlast
  exact Option.map_eq_some_iff.mp hlast

theorem segmentQueue_queues {g : Fin 1024} (hm : Reporting s g.val) (hok : s.streamRefusal g.val (par p 0x10 1) = none)
    (h : s.ready g.val 0x40 false = some p) (hseg : segmentRefusal (s.stream (par p 0x10 1)) p = none) :
    Yields (.segmentQueue g) s (fun t => (∀ k, k ≠ par p 0x10 1 → t.stream k = s.stream k) ∧
      (t.cmd? s.nextCid = none ∨ ∃ y ∈ (t.stream (par p 0x10 1)).segs, y.cid = s.nextCid ∧ y.segId = par p 0x12 2) ∧
      ((s.stream (par p 0x10 1)).framed = true → LedgerOnly { s with str := { s.str with s := t.str.s } } t ∧
        (t.stream (par p 0x10 1)).segs.map (fun y => y.segId) =
          (s.stream (par p 0x10 1)).segs.map (fun y => y.segId) ++ [par p 0x12 2] ∧
        ∃ y, (t.stream (par p 0x10 1)).segs.getLast? = some y ∧ y.cid = s.nextCid ∧ y.fromPort = (par p 0x11 1 == 1) ∧
          y.units = par p 0x14 4 ∧ y.addr = BitVec.ofNat 64 (par p 0x18 8) ∧ y.done = 0 ∧ y.fetched = [])) := by
  obtain ⟨hst, howner⟩ := streamRefusal_none hok
  obtain ⟨hmast, -, hfresh⟩ := hm
  obtain ⟨hsegs, hstarted, hdest, hown, haside, hcmds, hledger⟩ := queueSegment_spec (g := g.val) (p := p) hst
  have hexec : exec (.segmentQueue g) s = .next (((s.queueSegment g.val (par p 0x10 1) p).pump (par p 0x10 1)).settle g.val) := by
    refine congrArg Host.Outcome.next ((onHead_some _ h).trans ?_)
    dsimp only
    rw [hok, hseg]
    rfl
  obtain ⟨v, hv⟩ := exists_eq' (a' := s.queueSegment g.val (par p 0x10 1) p)
  rw [hv] at hsegs hstarted hdest hown haside hcmds hledger hexec
  refine ⟨_, hexec, fun k hk => ?_, ?_, fun hfr => ?_⟩
  · exact ((haside.trans (pump_aside v _)).trans (settle_books _ _).aside).stream hk
  · have hbook : Booked (par p 0x10 1) s.nextCid (par p 0x12 2) v := by
      refine .inr ⟨fun x hx => ?_, queuedSegment s p, ?_, rfl, rfl⟩
      · rw [hcmds] at hx
        have hhead : (s.accept g.val p .segment none 0).cmd? s.nextCid = some x := hx
        rw [accept_cmd? hfresh] at hhead
        rw [← Option.some.inj hhead]
        rfl
      · rw [hsegs]
        exact List.mem_append_right _ (List.mem_singleton.mpr rfl)
    exact (hbook.pump.settle g.val).imp gone_iff.mp And.right
  · have hframed : (v.stream (par p 0x10 1)).framed = true := by
      unfold Stream.framed at hfr ⊢
      rw [hdest]
      exact hfr
    rw [pump_framed hstarted hframed]
    have hread := prefetch_reads v (par p 0x10 1)
    have hstream : ((v.prefetch (par p 0x10 1)).settle g.val).stream (par p 0x10 1) = (v.prefetch (par p 0x10 1)).stream (par p 0x10 1) :=
      stream_of_str (settle_books _ _).str _
    have hmay : v.mayMaster (v.stream (par p 0x10 1)).owner = true := by
      rw [hown, howner]
      exact Eq.trans (hledger.agrees (view := fun w => w.mayMaster (s.ringFunc g.val))) hmast
    refine ⟨readsAhead_ledger hledger haside hmay g.val, ?_, ?_⟩
    · rw [hstream, hread.segs (fun y => y.segId), hsegs, List.map_append]
      rfl
    · have hall := hread.segs Segment.sansAsked
      rw [hsegs, List.map_append, List.map_singleton] at hall
      obtain ⟨y, hy, he⟩ := map_eq_append_singleton hall
      rw [hstream]
      exact ⟨y, hy, (congrArg Segment.cid he :), (congrArg Segment.fromPort he :), (congrArg Segment.units he :), (congrArg Segment.addr he :),
        (congrArg Segment.done he :), (congrArg Segment.fetched he :)⟩

end Sys2Proof.Machine
end

section
/-! PROOFS. JUMP and STREAM_STOP (R436 to R441). -/

namespace Sys2Proof.Machine

set_option Elab.async false

variable {s t u : State} {i : Nat} {p : List Byte}

/-- A jump that is latched in place of another, whose command ends. -/
def State.latchJump (s : State) (i n target : Nat) (t : State) : State :=
  ((s.stream i).jump.toList.foldl (fun t j => t.finish j.1 (endOf stCancelled 0)) t).updStream i (fun x => { x with jump := some (n, target) })

theorem latchJump_spec (hst : (s.stream i).started = true) (n target : Nat) (hstr : t.str = s.str) (hledger : LedgerOnly s t) :
    (s.latchJump i n target t).stream i = { s.stream i with jump := some (n, target) } ∧ Aside i t (s.latchJump i n target t) ∧
    LedgerOnly { s with str := (s.latchJump i n target t).str } (s.latchJump i n target t) ∧
    ∀ c d, (s.stream i).jump = some (c, d) → Unmirrored c t.cmds → Gone c (s.latchJump i n target t).cmds := by
  have hfold : Books t ((s.stream i).jump.toList.foldl (fun t j => t.finish j.1 (endOf stCancelled 0)) t) :=
    (Books.refl t).foldl fun u j => finish_books u _ _
  have hgone : ∀ c d, (s.stream i).jump = some (c, d) → Unmirrored c t.cmds →
      Gone c ((s.stream i).jump.toList.foldl (fun t j => t.finish j.1 (endOf stCancelled 0)) t).cmds := fun c d hj hc =>
    foldl_finish_own (fun j : Nat × Nat => j.1) (fun _ => endOf stCancelled 0) hc (a := (c, d)) (by simp [hj]) rfl
  unfold State.latchJump
  obtain ⟨v, hv⟩ := exists_eq' (a' := (s.stream i).jump.toList.foldl (fun t j => t.finish j.1 (endOf stCancelled 0)) t)
  rw [hv] at hfold hgone ⊢
  have hsame : v.stream i = s.stream i := stream_of_str (hfold.str.trans hstr) i
  refine ⟨?_, hfold.aside.trans (updStream_aside v i _), ?_, fun c d hj hc => hgone c d hj hc⟩
  · rw [stream_updStream_self (stream_lt (by rw [hsame]; exact hst)), hsame]
  · exact (hledger.trans hfold.ledger).withStr _

/-- The target of a JUMP is queued behind the current segment. -/
theorem jump_targets {y : Segment} (hy : y ∈ (if (s.stream i).cur = true then (s.stream i).segs.drop 1 else (s.stream i).segs))
    (hid : y.segId = par p 0x12 2) :
    (!(if (s.stream i).cur = true then (s.stream i).segs.drop 1 else (s.stream i).segs).any (fun y => y.segId == par p 0x12 2)) = false := by
  rw [Bool.not_eq_false']
  exact List.any_eq_true.mpr ⟨y, hy, by simp [hid]⟩

theorem framed_of_dest {x y : Stream} (h : y.dest = x.dest) : y.framed = x.framed := by
  unfold Stream.framed
  rw [h]

theorem jump_latches {g : Fin 1024} {y : Segment} (hm : Reporting s g.val) (hok : s.streamRefusal g.val (par p 0x10 1) = none)
    (hy : y ∈ (if (s.stream (par p 0x10 1)).cur = true then (s.stream (par p 0x10 1)).segs.drop 1 else (s.stream (par p 0x10 1)).segs))
    (h : s.ready g.val 0x41 false = some p) (hid : y.segId = par p 0x12 2) (hstop : (s.stream (par p 0x10 1)).stop = none)
    (hfr : (s.stream (par p 0x10 1)).framed = true) : Yields (.jump g) s (fun t =>
      LedgerOnly { s with str := { s.str with s := t.str.s } } t ∧ (∀ k, k ≠ par p 0x10 1 → t.stream k = s.stream k) ∧
      (t.stream (par p 0x10 1)).jump = some (s.nextCid, par p 0x12 2) ∧
      (t.stream (par p 0x10 1)).fifo = (s.stream (par p 0x10 1)).fifo ∧
      (t.stream (par p 0x10 1)).segs.map (fun z => z.segId) = (s.stream (par p 0x10 1)).segs.map (fun z => z.segId) ∧
      ∀ c d, (s.stream (par p 0x10 1)).jump = some (c, d) → ∀ z, s.cmd? c = some z → z.mir = [] → t.cmd? c = none) := by
  obtain ⟨hst, howner⟩ := streamRefusal_none hok
  obtain ⟨hmast, -, -⟩ := hm
  obtain ⟨hself, haside, hledger, hgone⟩ := latchJump_spec hst s.nextCid (par p 0x12 2) (t := s.accept g.val p .segment none 0) rfl
    (accept_ledger s g.val p .segment none 0)
  have hexec : exec (.jump g) s = .next (((s.latchJump (par p 0x10 1) s.nextCid (par p 0x12 2) (s.accept g.val p .segment none 0)).pump
      (par p 0x10 1)).settle g.val) := by
    refine congrArg Host.Outcome.next ((onHead_some _ h).trans ?_)
    dsimp only
    rw [hok]
    dsimp only
    rw [jump_targets hy hid, hstop]
    rfl
  obtain ⟨v, hv⟩ := exists_eq' (a' := s.latchJump (par p 0x10 1) s.nextCid (par p 0x12 2) (s.accept g.val p .segment none 0))
  rw [hv] at hself haside hledger hgone hexec
  have haside' : Aside (par p 0x10 1) s v := (accept_aside s g.val p .segment none 0).trans haside
  have hread := prefetch_reads v (par p 0x10 1)
  have hstream : ((v.prefetch (par p 0x10 1)).settle g.val).stream (par p 0x10 1) = (v.prefetch (par p 0x10 1)).stream (par p 0x10 1) :=
    stream_of_str (settle_books _ _).str _
  rw [pump_framed (by rw [hself]; exact hst) (by rw [hself]; exact hfr)] at hexec
  have hmay : v.mayMaster (v.stream (par p 0x10 1)).owner = true := by
    rw [hself]
    dsimp only
    rw [howner]
    exact Eq.trans (hledger.agrees (view := fun w => w.mayMaster (s.ringFunc g.val))) hmast
  have hsame := hread.stream
  rw [hself] at hsame
  refine ⟨_, hexec, readsAhead_ledger hledger haside' hmay g.val, fun k hk => ?_, ?_, ?_, ?_, fun c d hj z hz hmir => ?_⟩
  · exact ((haside'.trans hread.aside).trans (settle_books _ _).aside).stream hk
  · rw [hstream]
    exact (congrArg Stream.jump hsame :)
  · rw [hstream]
    exact (congrArg Stream.fifo hsame :)
  · rw [hstream, hread.segs (fun z => z.segId), hself]
  · refine gone_iff.mp ((Gone.lasting c).settle g.val ?_)
    rw [hread.cmds]
    refine hgone c d hj fun x hx => ?_
    have hfound : (s.accept g.val p .segment none 0).cmds.find? (fun y => y.cid == c) = some z := by
      show (s.cmds ++ [s.headCmd g.val p .segment none 0]).find? (fun y => y.cid == c) = some z
      rw [List.find?_append, show s.cmds.find? (fun y => y.cid == c) = some z from hz, Option.some_or]
    rw [hfound] at hx
    rw [← Option.some.inj hx]
    exact hmir

/-- A JUMP behind a latched stop ends CANCELLED. -/
theorem jump_cancelled {g : Fin 1024} {y : Segment} (hm : Reporting s g.val) (hok : s.streamRefusal g.val (par p 0x10 1) = none)
    (hy : y ∈ (if (s.stream (par p 0x10 1)).cur = true then (s.stream (par p 0x10 1)).segs.drop 1 else (s.stream (par p 0x10 1)).segs))
    (h : s.ready g.val 0x41 false = some p) (hid : y.segId = par p 0x12 2) (hstop : (s.stream (par p 0x10 1)).stop.isSome = true)
    (hfr : (s.stream (par p 0x10 1)).framed = true) : Yields (.jump g) s (fun t =>
      (t.stream (par p 0x10 1)).jump = (s.stream (par p 0x10 1)).jump ∧ HeadRecorded s t g.val p (endOf stCancelled 0)) := by
  obtain ⟨hst, -⟩ := streamRefusal_none hok
  obtain ⟨hmast, hrole, hfresh⟩ := hm
  have hrec := headRecorded_of_finish (u := s.accept g.val p .segment none 0) (y := s.headCmd g.val p .segment none 0) (endOf stCancelled 0) h
    (accept_same s g.val p .segment none 0) ⟨hmast, hrole, accept_fresh hfresh g.val p _ _ _⟩ (accept_cmd? hfresh g.val p _ _ _)
    rfl rfl rfl rfl rfl rfl rfl
  have hstr := (finish_books (s.accept g.val p .segment none 0) s.nextCid (endOf stCancelled 0)).str
  have hexec : exec (.jump g) s = .next ((((s.accept g.val p .segment none 0).finish s.nextCid (endOf stCancelled 0)).pump
      (par p 0x10 1)).settle g.val) := by
    refine congrArg Host.Outcome.next ((onHead_some _ h).trans ?_)
    dsimp only
    rw [hok]
    dsimp only
    rw [jump_targets hy hid, hstop]
    rfl
  obtain ⟨v, hv⟩ := exists_eq' (a' := (s.accept g.val p .segment none 0).finish s.nextCid (endOf stCancelled 0))
  rw [hv] at hrec hstr hexec
  have hself : v.stream (par p 0x10 1) = s.stream (par p 0x10 1) := stream_of_str (s := s) hstr _
  rw [pump_framed (by rw [hself]; exact hst) (by rw [hself]; exact hfr)] at hexec
  have hread := prefetch_reads v (par p 0x10 1)
  refine ⟨_, hexec, ?_, hrec.mono fun x hx => (settle_books _ _).sends (hread.only.sends hx)⟩
  rw [stream_of_str (settle_books _ _).str]
  have hsame := hread.stream
  rw [hself] at hsame
  exact (congrArg Stream.jump hsame :)

/-! ### STREAM_STOP (R441) -/

/-- A stop latched on a stream that has none: a latched jump ends CANCELLED. -/
def State.stopStream (s : State) (i n : Nat) (t : State) : State :=
  ((s.stream i).jump.map (fun j => j.1)).toList.foldl (fun t c => t.finish c (endOf stCancelled 0))
    (t.updStream i (fun x => { x with jump := none, stop := some n }))

theorem latchStop_eq (hst : (s.stream i).started = true) (hstop : (s.stream i).stop = none) (n : Nat) (hstr : t.str = s.str) :
    t.latchStop i n = (s.stopStream i n t).pump i := by
  have hsame : t.stream i = s.stream i := stream_of_str hstr i
  unfold State.latchStop State.stopStream
  dsimp only
  rw [hsame, if_neg (by simp [hst]), hstop]
  simp

theorem stopStream_spec (hst : (s.stream i).started = true) (n : Nat) (hstr : t.str = s.str) (hledger : LedgerOnly s t) :
    (s.stopStream i n t).stream i = { s.stream i with jump := none, stop := some n } ∧ Aside i t (s.stopStream i n t) ∧
    LedgerOnly { s with str := (s.stopStream i n t).str } (s.stopStream i n t) ∧
    (Unmirrored n t.cmds → Unmirrored n (s.stopStream i n t).cmds) ∧
    ((s.stream i).jump = none → s.stopStream i n t = { t with str := (s.stopStream i n t).str }) := by
  have hlt : i < t.str.s.length := by rw [hstr]; exact stream_lt hst
  have hself := stream_updStream_self hlt (fun x => { x with jump := none, stop := some n })
  rw [stream_of_str hstr] at hself
  have hfold : Books (t.updStream i (fun x => { x with jump := none, stop := some n })) (s.stopStream i n t) := by
    unfold State.stopStream
    exact (Books.refl _).foldl fun u c => finish_books u _ _
  refine ⟨(stream_of_str hfold.str i).trans hself, (updStream_aside t i _).trans hfold.aside, ?_, fun hn => ?_, fun hj => ?_⟩
  · have hupd : LedgerOnly { s with str := (s.stopStream i n t).str } { t with str := (s.stopStream i n t).str } := hledger.withStr _
    have hbooks := hfold.ledger.withStr (s.stopStream i n t).str
    exact hupd.trans hbooks
  · unfold State.stopStream
    exact foldl_finish_unmirrored (s := t.updStream i _) (fun c => c) (fun _ => endOf stCancelled 0) hn
  · unfold State.stopStream
    rw [hj]
    rfl

theorem streamStop_latches {g : Fin 1024} (hm : Reporting s g.val) (hok : s.streamRefusal g.val (par p 0x10 1) = none)
    (h : s.ready g.val 0x43 false = some p) (hstop : (s.stream (par p 0x10 1)).stop = none)
    (hfr : (s.stream (par p 0x10 1)).framed = true) : Yields (.streamStop g) s (fun t =>
      LedgerOnly { s with str := { s.str with s := t.str.s } } t ∧ (t.stream (par p 0x10 1)).stop = some s.nextCid ∧
      (t.stream (par p 0x10 1)).jump = none ∧ (t.stream (par p 0x10 1)).started = true ∧
      ∀ k, k ≠ par p 0x10 1 → t.stream k = s.stream k) := by
  obtain ⟨hst, howner⟩ := streamRefusal_none hok
  obtain ⟨hmast, -, -⟩ := hm
  obtain ⟨hself, haside, hledger, -, -⟩ := stopStream_spec hst s.nextCid (t := s.accept g.val p .segment none 0) rfl
    (accept_ledger s g.val p .segment none 0)
  have hexec : exec (.streamStop g) s = .next (((s.stopStream (par p 0x10 1) s.nextCid (s.accept g.val p .segment none 0)).pump
      (par p 0x10 1)).settle g.val) := by
    refine congrArg Host.Outcome.next ((onHead_some _ h).trans ?_)
    have heq : (s.accept g.val p .segment none 0).latchStop (par p 0x10 1) s.nextCid = _ := latchStop_eq hst hstop s.nextCid rfl
    dsimp only
    rw [hok]
    dsimp only
    rw [heq]
  obtain ⟨v, hv⟩ := exists_eq' (a' := s.stopStream (par p 0x10 1) s.nextCid (s.accept g.val p .segment none 0))
  rw [hv] at hself haside hledger hexec
  have haside' : Aside (par p 0x10 1) s v := (accept_aside s g.val p .segment none 0).trans haside
  have hread := prefetch_reads v (par p 0x10 1)
  rw [pump_framed (by rw [hself]; exact hst) (by rw [hself]; exact hfr)] at hexec
  have hmay : v.mayMaster (v.stream (par p 0x10 1)).owner = true := by
    rw [hself]
    dsimp only
    rw [howner]
    exact Eq.trans (hledger.agrees (view := fun w => w.mayMaster (s.ringFunc g.val))) hmast
  have hsame := hread.stream
  rw [hself] at hsame
  have hstream : ((v.prefetch (par p 0x10 1)).settle g.val).stream (par p 0x10 1) = (v.prefetch (par p 0x10 1)).stream (par p 0x10 1) :=
    stream_of_str (settle_books _ _).str _
  refine ⟨_, hexec, readsAhead_ledger hledger haside' hmay g.val, ?_, ?_, ?_, fun k hk => ?_⟩
  · rw [hstream]
    exact (congrArg Stream.stop hsame :)
  · rw [hstream]
    exact (congrArg Stream.jump hsame :)
  · rw [hstream]
    exact (congrArg Stream.started hsame).trans hst
  exact ((haside'.trans hread.aside).trans (settle_books _ _).aside).stream hk

end Sys2Proof.Machine
end

section
/-! PROOFS. A stop of a stream that does not play to TDM, and the commands of the Stream Engine together. -/

namespace Sys2Proof.Machine

set_option Elab.async false

variable {s t u : State} {i n : Nat} {p : List Byte}

theorem Unmirrored.closeSegment (h : Unmirrored n s.cmds) (cut : Bool) : Unmirrored n (s.closeSegment i cut).cmds := by
  unfold State.closeSegment
  split
  · exact h
  · exact (Unmirrored.lasting n).finish (s := s.updStream i _) _ _ h

theorem Unmirrored.cutSegments (h : Unmirrored n s.cmds) (k : Nat) : Unmirrored n (s.cutSegments i k).cmds := by
  have hfold : ∀ (l : List Nat) (v : State), Unmirrored n v.cmds → Unmirrored n (l.foldl (fun t _ => t.closeSegment i true) v).cmds := by
    intro l
    induction l with
    | nil => exact fun _ h => h
    | cons a l ih => exact fun v hv => ih _ (hv.closeSegment true)
  unfold State.cutSegments
  exact hfold _ s h

theorem Unmirrored.detachStream (h : Unmirrored n s.cmds) : Unmirrored n (s.detachStream i).cmds := by
  unfold State.detachStream
  exact foldl_finish_unmirrored (s := s.updStream i _) (fun (g : Segment) => g.cid) (fun g => g.outcome true) h

/-- A stop takes effect: the stream holds nothing, and the command has ended. -/
theorem doStop_spec (hi : i < s.str.s.length) (hn : Unmirrored n s.cmds) :
    ((s.doStop i n).stream i).started = false ∧ ((s.doStop i n).stream i).segs = [] ∧ ((s.doStop i n).stream i).fifo = [] ∧
    (s.doStop i n).cmd? n = none := by
  have hlt : i < (s.cutSegments i (s.stream i).segs.length).str.s.length := by
    rw [(cutSegments_aside s i _).streams_length]
    exact hi
  unfold State.doStop
  rw [stream_of_str (finish_books _ _ _).str, stream_updStream_self hlt]
  exact ⟨rfl, rfl, rfl, Unmirrored.finish_gone (s := (s.cutSegments i _).updStream i _) (hn.cutSegments _) endDone⟩

/-- A stream with no segment has none to cut and none to detach. -/
theorem cutSegments_zero (s : State) (i : Nat) : s.cutSegments i 0 = s := rfl

theorem detachStream_of_nil (h : (s.stream i).segs = []) :
    s.detachStream i = { s with str := (s.detachStream i).str } ∧ ((s.detachStream i).stream i).segs = [] := by
  unfold State.detachStream
  dsimp only
  rw [h]
  refine ⟨rfl, ?_⟩
  rw [List.filter_nil, List.foldl_nil, stream_updStream]
  split
  · exact congrArg (List.filter _) h
  · exact h

/-- At a boundary a latched stop takes effect, behind what has ended and what is detached. -/
theorem boundary_stops (hstop : (s.stream i).stop = some n) : ∃ v, s.boundary i = v.doStop i n ∧ Aside i s v ∧
    (Unmirrored n s.cmds → Unmirrored n v.cmds) ∧
    ((s.stream i).segs = [] → v = { s with str := v.str } ∧ (v.stream i).segs = []) := by
  unfold State.boundary
  dsimp only
  rw [hstop, if_pos (by simp)]
  dsimp only
  refine ⟨_, rfl, ?_, fun hn => ?_, fun hnil => ?_⟩
  · refine Noting.trans ?_ (.ite (detachStream_aside _ i) (.refl _))
    exact .ite (closeSegment_aside s i false) (.refl s)
  · have hend : Unmirrored n (if ((s.stream i).cur && (s.stream i).segs.head?.any Segment.over) = true then s.closeSegment i false else s).cmds := by
      split
      · exact hn.closeSegment false
      · exact hn
    split
    · exact hend.detachStream
    · exact hend
  · have hend : (if ((s.stream i).cur && (s.stream i).segs.head?.any Segment.over) = true then s.closeSegment i false else s) = s :=
      if_neg (by simp [hnil])
    rw [hend]
    split
    · exact detachStream_of_nil hnil
    · exact ⟨rfl, hnil⟩

theorem pumpLoop_of_nil (fuel : Nat) (h : (s.stream i).segs = []) : s.pumpLoop fuel i = s := by
  cases fuel with
  | zero => rfl
  | succ k =>
    unfold State.pumpLoop
    dsimp only
    rw [h]

theorem prefetch_of_stopped (h : (s.stream i).started = false) : s.prefetch i = s := by
  unfold State.prefetch
  dsimp only
  rw [if_pos (by simp [h])]

/-- A stop of a stream that does not play to TDM takes effect at once. -/
theorem pump_stops (hst : (s.stream i).started = true) (hfr : (s.stream i).framed = false) (hstop : (s.stream i).stop = some n)
    (hn : Unmirrored n s.cmds) : ∃ v, s.pump i = v.doStop i n ∧ Aside i s v ∧ i < v.str.s.length ∧ Unmirrored n v.cmds ∧
    ((s.stream i).segs = [] → v = { s with str := v.str } ∧ (v.stream i).segs = []) := by
  obtain ⟨v, hv, haside, hmir, hnil⟩ := boundary_stops hstop
  have hlt : i < v.str.s.length := by
    rw [haside.streams_length]
    exact stream_lt hst
  obtain ⟨hstarted, hsegs, -, -⟩ := doStop_spec hlt (hmir hn)
  refine ⟨v, ?_, haside, hlt, hmir hn, hnil⟩
  unfold State.pump
  dsimp only
  rw [if_neg (by simp [hst]), if_neg (by simp [hfr]), hv, pumpLoop_of_nil _ hsegs, prefetch_of_stopped hstarted]

theorem streamStop_stops {g : Fin 1024} (hm : Reporting s g.val) (hok : s.streamRefusal g.val (par p 0x10 1) = none)
    (h : s.ready g.val 0x43 false = some p) (hstop : (s.stream (par p 0x10 1)).stop = none)
    (hfr : (s.stream (par p 0x10 1)).framed = false) : Yields (.streamStop g) s (fun t =>
      (t.stream (par p 0x10 1)).started = false ∧ (t.stream (par p 0x10 1)).segs = [] ∧
      (t.stream (par p 0x10 1)).fifo = [] ∧ t.cmd? s.nextCid = none ∧ (∀ k, k ≠ par p 0x10 1 → t.stream k = s.stream k) ∧
      ((s.stream (par p 0x10 1)).segs = [] → (s.stream (par p 0x10 1)).jump = none → HeadRecorded s t g.val p endDone)) := by
  obtain ⟨hst, -⟩ := streamRefusal_none hok
  obtain ⟨hmast, hrole, hfresh⟩ := hm
  have hcmd := accept_cmd? hfresh g.val p .segment none 0
  obtain ⟨hself, haside, -, hmir, hframe⟩ := stopStream_spec hst s.nextCid (t := s.accept g.val p .segment none 0) rfl
    (accept_ledger s g.val p .segment none 0)
  have hexec : exec (.streamStop g) s = .next (((s.stopStream (par p 0x10 1) s.nextCid (s.accept g.val p .segment none 0)).pump
      (par p 0x10 1)).settle g.val) := by
    refine congrArg Host.Outcome.next ((onHead_some _ h).trans ?_)
    have heq : (s.accept g.val p .segment none 0).latchStop (par p 0x10 1) s.nextCid = _ := latchStop_eq hst hstop s.nextCid rfl
    dsimp only
    rw [hok]
    dsimp only
    rw [heq]
  obtain ⟨v, hv⟩ := exists_eq' (a' := s.stopStream (par p 0x10 1) s.nextCid (s.accept g.val p .segment none 0))
  rw [hv] at hself haside hmir hframe hexec
  have hn : Unmirrored s.nextCid v.cmds := hmir fun x hx => by
    rw [show (s.accept g.val p .segment none 0).cmds.find? (fun y => y.cid == s.nextCid) = some _ from hcmd] at hx
    rw [← Option.some.inj hx]
    rfl
  obtain ⟨w, hw, hwaside, hwlt, hwmir, hwnil⟩ := pump_stops (i := par p 0x10 1) (n := s.nextCid) (by rw [hself]; exact hst)
    (by rw [hself]; exact hfr) (by rw [hself]) hn
  rw [hw] at hexec
  obtain ⟨hstarted, hsegs, hfifo, hgone⟩ := doStop_spec hwlt hwmir
  have hstream : ∀ k, ((w.doStop (par p 0x10 1) s.nextCid).settle g.val).stream k = (w.doStop (par p 0x10 1) s.nextCid).stream k :=
    fun k => stream_of_str (settle_books _ _).str k
  refine ⟨_, hexec, ?_, ?_, ?_, ?_, fun k hk => ?_, fun hnil hj => ?_⟩
  · rw [hstream]
    exact hstarted
  · rw [hstream]
    exact hsegs
  · rw [hstream]
    exact hfifo
  · exact gone_iff.mp ((Gone.lasting s.nextCid).settle g.val (gone_iff.mpr hgone))
  · rw [hstream, (doStop_aside w _ _).stream hk, hwaside.stream hk, haside.stream hk, (accept_aside s g.val p .segment none 0).stream hk]
  · obtain ⟨hwframe, hwsegs⟩ := hwnil (by rw [hself]; exact hnil)
    have hfull : w = { s.accept g.val p .segment none 0 with str := w.str } := by
      rw [hframe hj] at hwframe
      exact hwframe
    have hdone : w.doStop (par p 0x10 1) s.nextCid = (w.updStream (par p 0x10 1) Stream.stopped).finish s.nextCid endDone := by
      unfold State.doStop
      rw [hwsegs, List.length_nil, cutSegments_zero]
    obtain ⟨x, hx⟩ : ∃ x, w.updStream (par p 0x10 1) Stream.stopped = { s.accept g.val p .segment none 0 with str := x } := by
      rw [hfull]
      exact ⟨_, rfl⟩
    have hrec := headRecorded_of_finish (u := { s.accept g.val p .segment none 0 with str := x }) (y := s.headCmd g.val p .segment none 0)
      endDone h ((accept_same s g.val p .segment none 0).trans ⟨fun _ => rfl, rfl, rfl⟩) ⟨hmast, hrole, accept_fresh hfresh g.val p _ _ _⟩
      hcmd rfl rfl rfl rfl rfl rfl rfl
    rw [hdone, hx]
    exact hrec.mono fun y hy => (settle_books _ _).sends hy

/-- Settles O54: a command on a stream changes that stream alone; one that plays to TDM then only reads ahead; and a segment that is
queued stays in its queue until its command ends. -/
theorem streamsCommanded : Obligations.StreamsCommanded := by
  refine ⟨fun s g p hm => ⟨fun h hok hi => ?_, fun e h href => ?_, tdmConfig_sets hm⟩, fun s g p hm hok =>
    ⟨segmentQueue_queues hm hok, fun y hy h hid => ⟨fun hstop hfr => jump_latches hm hok hy h hid hstop hfr,
      fun hstop hfr => jump_cancelled hm hok hy h hid hstop hfr⟩, fun h hstop => ⟨streamStop_latches hm hok h hstop, streamStop_stops hm hok h hstop⟩⟩⟩
  · obtain ⟨t, hx, hledger, hrec, hothers, hself⟩ := streamStart_starts hm h hok hi
    refine ⟨t, hx, hledger, hrec, hothers, ?_⟩
    dsimp only
    rw [hself]
    exact ⟨rfl, rfl, rfl, rfl, rfl, rfl, rfl, rfl, rfl, rfl, rfl, rfl, rfl⟩
  · refine ⟨s.refuse g.val p e, congrArg Host.Outcome.next ((onHead_some _ h).trans ?_), refuse_ledger _ _ _ _, refuse_recorded _ h hm⟩
    rw [href]

end Sys2Proof.Machine
end

section
/-! PROOFS. TDM frames and their synchronisation (R432, R434, R444, R446). -/

namespace Sys2Proof.Machine

set_option Elab.async false

variable {s t u : State} {i : Nat}

/-! ### Frame syncs (R446) -/

/-- What a resynchronisation leaves. -/
def Resynced (s t : State) : Prop :=
  t.str.locked = false ∧ t.str.zeroNext = true ∧ t.str.resync = (if s.str.resync < 0xFFFF then s.str.resync + 1 else s.str.resync) ∧
  t.bist.dlogNext = s.bist.dlogNext + 1 ∧ t.hif.devStat.getLsbD 8 = true ∧ t.str.s = s.str.s

theorem dlog_str (s : State) (source event : Nat) (arg0 : Word) (arg1 : DWord) : (s.dlog source event arg0 arg1).str = s.str := by
  unfold State.dlog
  exact (devVec_report _ 3).str_eq

theorem resync_spec (s : State) : Resynced s s.resync ∧
    s.resync.str = { s.str with locked := false, zeroNext := true, resync := satInc 0xFFFF s.str.resync } := by
  have hstr : s.resync.str = { s.str with locked := false, zeroNext := true, resync := satInc 0xFFFF s.str.resync } := by
    unfold State.resync
    exact (devVec_report _ 8).str_eq.trans (dlog_str _ _ _ _ _)
  refine ⟨⟨?_, ?_, ?_, ?_, ?_, ?_⟩, hstr⟩
  · rw [hstr]
  · rw [hstr]
  · rw [hstr]
    exact satInc_eq _
  · unfold State.resync
    rw [(devVec_report _ 8).bist_eq, dlog_next]
  · exact devVec_devStat _ (by decide)
  · rw [hstr]

theorem slave_spec (hslave : s.tdmSlave = true) :
    (∀ k : Nat, (s.str.fsDue = false ∨ 32 * s.str.nslots ≤ k + 2 ∧ k ≤ 32 * s.str.nslots + 2 →
        exec (.tdmFsEdge k) s = .next { s with str := { s.str with locked := true, fsDue := true } }) ∧
      (s.str.fsDue = true → (k + 2 < 32 * s.str.nslots ∨ 32 * s.str.nslots + 2 < k) → Yields (.tdmFsEdge k) s (Resynced s))) ∧
    (s.str.fsDue = true → Yields .tdmFsMissing s (fun t => Resynced s t ∧ t.str.fsDue = false)) ∧
    Yields .tdmSckLost s (fun t => t.str = { s.str with sckLost := true } ∧ t.bist.dlogNext = s.bist.dlogNext + 1) := by
  have hnot : ¬(!s.tdmSlave) = true := by simp [hslave]
  refine ⟨fun k => ⟨fun h => ?_, fun hdue hout => ?_⟩, fun hdue => ?_, ?_⟩
  · refine congrArg Host.Outcome.next ((if_neg hnot).trans (if_pos ?_))
    rcases h with h | ⟨h1, h2⟩
    · simp [h]
    · simp [h1, h2]
  · refine ⟨_, congrArg Host.Outcome.next ((if_neg hnot).trans (if_neg ?_)), (resync_spec s).1⟩
    simp only [hdue, Bool.not_true, Bool.false_or, Bool.and_eq_true, decide_eq_true_eq]
    omega
  · refine ⟨_, congrArg Host.Outcome.next (if_pos (by simp [hslave, hdue])), ?_⟩
    obtain ⟨hagain, hstr⟩ := resync_spec { s with str := { s.str with fsDue := false } }
    exact ⟨hagain, congrArg Streams.fsDue hstr⟩
  · exact ⟨_, congrArg Host.Outcome.next (if_neg hnot), dlog_str _ _ _ _ _, dlog_next _ _ _ _ _⟩

/-! ### Frames (R432, R434, R444) -/

/-- A frame after a resynchronisation carries 0 in every slot. -/
theorem tdmFrame_zero (hconf : s.str.conf = true) (hrun : s.enginesRun = true) (hzero : s.str.zeroNext = true) :
    Yields .tdmFrame s (fun t => t = { s with
      str := { s.str with zeroNext := false, frame := List.replicate 8 0 }, out := t.out } ∧
      t.out = .tdm ((List.replicate 8 0).take s.str.addresses) :: s.out) := by
  have hexec : exec .tdmFrame s = .next (({ s with str := { s.str with zeroNext := false, frame := List.replicate 8 0 } } : State).emit
      (.tdm ((List.replicate 8 0).take s.str.addresses))) := by
    refine congrArg Host.Outcome.next ((if_neg (by simp [hconf, hrun])).trans ?_)
    rw [hzero]
    rfl
  exact ⟨_, hexec, rfl, rfl⟩

/-- A stream whose current segment goes on meets its boundary with nothing to do. -/
theorem boundary_of_going {y : Segment} {rest : List Segment} (hcur : (s.stream i).cur = true) (hdet : (s.stream i).detach = false)
    (hjump : (s.stream i).jump = none) (hstop : (s.stream i).stop = none) (hsegs : (s.stream i).segs = y :: rest) (hover : y.over = false) :
    s.boundary i = s := by
  unfold State.boundary
  dsimp only
  rw [if_neg (by simp [hdet, hjump, hstop])]
  unfold State.advanceStream
  dsimp only
  rw [hsegs]
  dsimp only
  rw [if_neg (by simp [hcur]), if_neg (by simp [hover])]

/-- A stream that does not play to TDM takes no part in a frame. -/
theorem tdmStream_of_idle {acc : State × List Word} (h : (acc.1.stream i).started = false ∨ (acc.1.stream i).framed = false) :
    State.tdmStream acc i = acc := by
  unfold State.tdmStream
  dsimp only
  rw [if_pos]
  rcases h with h | h <;> simp [h]

/-- One stream plays: the frame is that stream's. -/
theorem foldl_tdmStream (hidle : ∀ k, k ≠ i → (s.stream k).started = false ∨ (s.stream k).framed = false) (f : List Word)
    (haside : Aside i s (State.tdmStream (s, f) i).1) : ∀ l : List Nat, l.Nodup → i ∈ l →
    l.foldl State.tdmStream (s, f) = State.tdmStream (s, f) i := by
  have hrest : ∀ (l : List Nat) (acc : State × List Word), Aside i s acc.1 → i ∉ l → l.foldl State.tdmStream acc = acc := by
    intro l
    induction l with
    | nil => exact fun _ _ _ => rfl
    | cons k l ih =>
      intro acc hacc hi
      have hk : k ≠ i := fun e => hi (e ▸ List.mem_cons_self)
      rw [List.foldl_cons, tdmStream_of_idle (by rw [hacc.stream hk]; exact hidle k hk)]
      exact ih acc hacc fun h => hi (List.mem_cons_of_mem _ h)
  intro l
  induction l with
  | nil => exact fun _ h => absurd h List.not_mem_nil
  | cons k l ih =>
    intro hnd hi
    obtain ⟨hk, hnd⟩ := List.nodup_cons.mp hnd
    rw [List.foldl_cons]
    rcases List.mem_cons.mp hi with rfl | hi
    · exact hrest l _ haside hk
    · rw [tdmStream_of_idle (hidle k fun e => hk (e ▸ hi))]
      exact ih hnd hi

theorem fieldAt_nil (a n : Nat) : fieldAt [] a n = 0 := by simp [fieldAt, leNat]

/-- An empty unit leaves a frame of zeros. -/
theorem placeUnit_nil (mask : BitVec 8) : placeUnit mask [] (List.replicate 8 0) = List.replicate 8 0 := by
  unfold placeUnit
  refine List.ext_getElem? fun k => ?_
  rw [List.getElem?_mapIdx, List.getElem?_replicate]
  by_cases hk : k < 8
  · rw [if_pos hk, Option.map_some, fieldAt_nil]
    exact congrArg some (ite_self _)
  · rw [if_neg hk]
    rfl

/-- What a stream's unit leaves, and the frame it is placed on. -/
structure Played (i : Nat) (s t : State) (x : Stream) (f : List Word) : Prop where
  stream : (t.stream i).sansAsked = x.sansAsked
  frame : t.str.frame = f
  sent : Emit.tdm (f.take s.str.addresses) ∈ t.out
  others : ∀ k, k ≠ i → t.stream k = s.stream k

/-- The frame that one stream alone plays. -/
theorem tdmFrame_of_unit {v : State} {u : List Byte} {x : Stream} (hconf : s.str.conf = true) (hrun : s.enginesRun = true)
    (hzero : s.str.zeroNext = false) (hi : i < 32) (hidle : ∀ k, k ≠ i → (s.stream k).started = false ∨ (s.stream k).framed = false)
    (hst : (s.stream i).started = true) (hfr : (s.stream i).framed = true) (hbound : s.boundary i = s)
    (hunit : s.tdmUnit i = (v, u)) (hv : v.stream i = x) (haside : Aside i s v) :
    Yields .tdmFrame s (fun t => Played i s t x (placeUnit (s.stream i).slots u (List.replicate 8 0))) := by
  have hframe : (if u.isEmpty = true then List.replicate 8 0 else placeUnit (s.stream i).slots u (List.replicate 8 0)) =
      placeUnit (s.stream i).slots u (List.replicate 8 0) := by
    split
    · next h => rw [List.isEmpty_iff.mp h, placeUnit_nil]
    · rfl
  have hone : State.tdmStream (s, List.replicate 8 0) i = (v.prefetch i, placeUnit (s.stream i).slots u (List.replicate 8 0)) := by
    unfold State.tdmStream
    dsimp only
    rw [if_neg (by simp [hst, hfr]), hbound, if_neg (by simp [hst]), hunit]
    exact congrArg (Prod.mk _) hframe
  have hread := prefetch_reads v i
  have hall : Aside i s (v.prefetch i) := haside.trans hread.aside
  have hfold := foldl_tdmStream hidle (List.replicate 8 0) (by rw [hone]; exact hall) (List.range 32) List.nodup_range (List.mem_range.mpr hi)
  have hexec : exec .tdmFrame s = .next ((({ v.prefetch i with
      str := { (v.prefetch i).str with frame := placeUnit (s.stream i).slots u (List.replicate 8 0) } } : State)).emit
        (.tdm ((placeUnit (s.stream i).slots u (List.replicate 8 0)).take (v.prefetch i).str.addresses))) := by
    refine congrArg Host.Outcome.next ((if_neg (by simp [hconf, hrun])).trans ?_)
    dsimp only
    rw [hzero, if_neg Bool.false_ne_true, hfold, hone]
  have haddr : (v.prefetch i).str.addresses = s.str.addresses :=
    (congrArg (fun x : Streams => x.nslots * slotCount x.lines.toNat) hall.port' :)
  rw [haddr] at hexec
  refine ⟨_, hexec, ?_, rfl, List.mem_cons_self, fun k hk => hall.stream hk⟩
  exact hread.stream.trans (congrArg Stream.sansAsked hv)

/-- The stream that plays has a unit ready. -/
theorem tdmUnit_ready {y : Segment} {rest : List Segment} {w : List Byte} {ws : List (List Byte)} (hst : (s.stream i).started = true)
    (hcur : (s.stream i).cur = true) (hsegs : (s.stream i).segs = y :: rest) (hport : y.fromPort = true)
    (hdest : bitAt (s.stream i).dest 1 = false) (hfifo : (s.stream i).fifo = w :: ws) :
    ∃ v, s.tdmUnit i = (v, w) ∧ Aside i s v ∧ v.stream i = { s.stream i with
      begun := true, segs := { y with done := y.done + 1 } :: rest, fifo := ws, total := (s.stream i).total + 1, succ := false } := by
  have hlt := stream_lt hst
  have hready : ((s.stream i).cur && (s.stream i).segs.head?.any (s.stream i).unitReady) = true := by
    simp [hcur, hsegs, Stream.unitReady, hport, hfifo]
  have hself := stream_updStream_self hlt (fun x => { x with begun := true })
  refine ⟨(s.updStream i (fun x => { x with begun := true })).updStream i (fun x => { x with
    segs := { y with done := y.done + 1, fetched := if y.fromPort then y.fetched else y.fetched.drop 1 } :: rest
    fifo := if y.fromPort then x.fifo.drop 1 else x.fifo, total := x.total + 1, succ := false }), ?_,
    (updStream_aside s i _).trans (updStream_aside _ i _), ?_⟩
  · unfold State.tdmUnit
    dsimp only
    rw [hready, if_neg (by simp), if_pos rfl]
    unfold State.takeUnit
    dsimp only
    rw [hself]
    dsimp only
    rw [hsegs]
    dsimp only
    rw [hdest, hfifo, hport]
    rfl
  · rw [stream_updStream_self (by rw [(updStream_aside s i _).streams_length]; exact hlt), hself, hport, hfifo]
    rfl

/-- The stream that plays has begun and has nothing ready. -/
theorem tdmUnit_empty {y : Segment} {rest : List Segment} (hst : (s.stream i).started = true) (hcur : (s.stream i).cur = true)
    (hsegs : (s.stream i).segs = y :: rest) (hport : y.fromPort = true) (hfifo : (s.stream i).fifo = []) (hbegun : (s.stream i).begun = true) :
    ∃ v, s.tdmUnit i = (v, []) ∧ Aside i s v ∧ v.stream i = { s.stream i with
      begun := true, zeros := (s.stream i).zeros + 1, segs := { y with zeros := y.zeros + 1 } :: rest } := by
  have hlt := stream_lt hst
  have hready : ((s.stream i).cur && (s.stream i).segs.head?.any (s.stream i).unitReady) = false := by
    simp [hsegs, Stream.unitReady, hport, hfifo]
  refine ⟨(s.updStream i (fun x => { x with begun := true })).updStream i (fun x => { x with
    zeros := x.zeros + 1, afterPort := x.cur && x.afterPort
    segs := if x.cur then x.segs.mapIdx (fun k (g : Segment) => if k = 0 then { g with zeros := g.zeros + 1 } else g) else x.segs }), ?_,
    (updStream_aside s i _).trans (updStream_aside _ i _), ?_⟩
  · unfold State.tdmUnit
    dsimp only
    rw [hready, hbegun]
    rfl
  · rw [stream_updStream_self (by rw [(updStream_aside s i _).streams_length]; exact hlt), stream_updStream_self hlt]
    dsimp only
    rw [hcur, if_pos rfl, hsegs, Bool.true_and]
    have hmap : (y :: rest).mapIdx (fun k (g : Segment) => if k = 0 then { g with zeros := g.zeros + 1 } else g) =
        { y with zeros := y.zeros + 1 } :: rest := by
      rw [List.mapIdx_cons]
      refine congrArg (List.cons _) (List.ext_getElem? fun k => ?_)
      rw [List.getElem?_mapIdx]
      cases rest[k]? <;> rfl
    rw [hmap]

end Sys2Proof.Machine
end

section
/-! PROOFS. Units and reads that arrive (R427, R431, R433), and what streams play. -/

namespace Sys2Proof.Machine

set_option Elab.async false

variable {s t u : State} {i : Nat}

/-- What follows a change of a stream that plays to TDM, or has nothing queued and nothing latched, leaves its FIFO. -/
theorem pump_fifo (h : (s.stream i).framed = true ∨ ((s.stream i).segs = [] ∧ (s.stream i).jump = none ∧ (s.stream i).stop = none ∧
    (s.stream i).detach = false)) : ((s.pump i).stream i).fifo = (s.stream i).fifo ∧ ((s.pump i).stream i).drop = (s.stream i).drop := by
  have hread : ∀ v : State, ((v.prefetch i).stream i).fifo = (v.stream i).fifo ∧ ((v.prefetch i).stream i).drop = (v.stream i).drop :=
    fun v => ⟨(congrArg Stream.fifo (prefetch_reads v i).stream :), (congrArg Stream.drop (prefetch_reads v i).stream :)⟩
  unfold State.pump
  dsimp only
  split
  · exact ⟨rfl, rfl⟩
  rcases h with hfr | ⟨hsegs, hjump, hstop, hdet⟩
  · rw [if_pos hfr]
    exact hread s
  · split
    · exact hread s
    · have hbound : s.boundary i = s.updStream i (fun x => { x with cur := false, afterPort := false, succ := false }) := by
        unfold State.boundary
        dsimp only
        rw [if_neg (by simp [hjump, hstop, hdet])]
        unfold State.advanceStream
        dsimp only
        rw [hsegs]
      have hself : ∀ k, (s.updStream i (fun x => { x with cur := false, afterPort := false, succ := false })).stream i = k →
          k.segs = [] ∧ k.fifo = (s.stream i).fifo ∧ k.drop = (s.stream i).drop := by
        rintro k rfl
        rw [stream_updStream]
        split <;> exact ⟨hsegs, rfl, rfl⟩
      obtain ⟨hnil, hfifo, hdrop⟩ := hself _ rfl
      rw [hbound, pumpLoop_of_nil _ hnil, (hread _).1, (hread _).2]
      exact ⟨hfifo, hdrop⟩

/-- A unit that finds room. -/
theorem appendUnit_room (hB : 0 < (s.stream i).unitB) (h : (s.stream i).fifo.length < 16384 / (s.stream i).unitB)
    (w : List Byte) : s.appendUnit i w = s.updStream i (fun x => { x with fifo := x.fifo ++ [w], drop := min 0xFFFF x.drop }) := by
  have hlost : (s.stream i).fifo.length + 1 - 16384 / max 1 (s.stream i).unitB = 0 := by
    rw [Nat.max_eq_right hB]
    omega
  unfold State.appendUnit
  dsimp only
  rw [hlost, if_pos rfl]
  rfl

/-- A unit that finds none: the oldest goes. -/
theorem appendUnit_full (hi : i < s.str.s.length) (hB : 0 < (s.stream i).unitB) (h : (s.stream i).fifo.length = 16384 / (s.stream i).unitB)
    (w : List Byte) : (s.appendUnit i w).stream i =
      { s.stream i with fifo := (s.stream i).fifo.drop 1 ++ [w], drop := min 0xFFFF ((s.stream i).drop + 1) } ∧
    (s.appendUnit i w).str.event = setBit s.str.event i true ∧ (s.appendUnit i w).hif.devStat.getLsbD 8 = true := by
  have hlost : (s.stream i).fifo.length + 1 - 16384 / max 1 (s.stream i).unitB = 1 := by
    rw [Nat.max_eq_right hB]
    omega
  have hself := stream_updStream_self hi (fun x => { x with fifo := x.fifo.drop 1 ++ [w], drop := min 0xFFFF (x.drop + 1) })
  unfold State.appendUnit
  dsimp only
  rw [hlost, if_neg (by decide)]
  obtain ⟨v, hv⟩ := exists_eq' (a' := s.updStream i (fun x => { x with fifo := x.fifo.drop 1 ++ [w], drop := min 0xFFFF (x.drop + 1) }))
  have hevent : v.str.event = s.str.event := by rw [← hv]; rfl
  rw [hv] at hself ⊢
  have hstr := (devVec_report { v with str := { v.str with event := setBit v.str.event i true } } 8).str_eq
  refine ⟨?_, ?_, devVec_devStat _ (by decide)⟩
  · rw [stream_of_str hstr]
    exact hself
  · rw [hstr]
    dsimp only
    rw [hevent]

/-- A unit arrives where no data waits at the port. -/
theorem exec_unitArrival {i : Fin 32} {bytes : List Byte} {g : Graph} {o : PortRec} (hrun : s.enginesRun = true)
    (hg : s.graph? (s.stream i.val).handle = some g) (ho : g.cgd.ports[(s.stream i.val).port]? = some o)
    (hnone : s.portUnits g (s.stream i.val).port = none) (hst : (s.stream i.val).started = true) (hport : (s.stream i.val).port ≠ 0xFF)
    (hhandle : (s.stream i.val).handle ≠ 0) : exec (.streamUnitArrival i bytes) s = .next ((s.appendUnit i.val (convertUnit (s.stream i.val).kind
      (readBytes (portUnit (s.stream i.val).kind (s.stream i.val).slots.toNat o.bytes) bytes))).pump i.val) := by
  have harr : s.arrivedUnit i.val bytes = (s, bytes) := by
    unfold State.arrivedUnit
    dsimp only
    rw [hg]
    dsimp only
    rw [hnone]
  refine congrArg Host.Outcome.next ((if_neg (by simp [hst, hport, hhandle, hrun])).trans ?_)
  rw [harr, hg, Option.bind_some, ho]
  rfl

theorem arrival_spec {i : Fin 32} {bytes : List Byte} {g : Graph} {o : PortRec} (hrun : s.enginesRun = true)
    (hg : s.graph? (s.stream i.val).handle = some g) (ho : g.cgd.ports[(s.stream i.val).port]? = some o)
    (hnone : s.portUnits g (s.stream i.val).port = none) (hst : (s.stream i.val).started = true)
    (hplays : (s.stream i.val).framed = true ∨ ((s.stream i.val).segs = [] ∧ (s.stream i.val).jump = none ∧
      (s.stream i.val).stop = none ∧ (s.stream i.val).detach = false)) (hport : (s.stream i.val).port ≠ 0xFF)
    (hhandle : (s.stream i.val).handle ≠ 0) (hB : 0 < (s.stream i.val).unitB) {w : List Byte}
    (hw : w = convertUnit (s.stream i.val).kind (readBytes (portUnit (s.stream i.val).kind (s.stream i.val).slots.toNat o.bytes) bytes)) :
    ((s.stream i.val).fifo.length < 16384 / (s.stream i.val).unitB → Yields (.streamUnitArrival i bytes) s (fun t =>
      (t.stream i.val).fifo = (s.stream i.val).fifo ++ [w] ∧ (t.stream i.val).drop = min 0xFFFF (s.stream i.val).drop ∧
      ∀ k, k ≠ i.val → t.stream k = s.stream k)) ∧
    ((s.stream i.val).fifo.length = 16384 / (s.stream i.val).unitB → (s.stream i.val).unitB ≤ 16384 →
      Yields (.streamUnitArrival i bytes) s (fun t =>
        (t.stream i.val).fifo = (s.stream i.val).fifo.drop 1 ++ [w] ∧ (t.stream i.val).drop = min 0xFFFF ((s.stream i.val).drop + 1) ∧
        t.str.event.getLsbD i.val = true ∧ t.hif.devStat.getLsbD 8 = true)) := by
  have hexec := exec_unitArrival (bytes := bytes) hrun hg ho hnone hst hport hhandle
  have hlt := stream_lt hst
  rw [← hw] at hexec
  refine ⟨fun hroom => ⟨_, hexec, ?_⟩, fun hfull _ => ⟨_, hexec, ?_⟩⟩
  · rw [appendUnit_room hB hroom]
    have hself := stream_updStream_self hlt (fun x => { x with fifo := x.fifo ++ [w], drop := min 0xFFFF x.drop })
    have haside := updStream_aside s i.val (fun x => { x with fifo := x.fifo ++ [w], drop := min 0xFFFF x.drop })
    obtain ⟨v, hv⟩ := exists_eq' (a' := s.updStream i.val (fun x => { x with fifo := x.fifo ++ [w], drop := min 0xFFFF x.drop }))
    rw [hv] at hself haside ⊢
    obtain ⟨hfifo, hdrop⟩ := pump_fifo (s := v) (i := i.val) (by rw [hself]; exact hplays)
    rw [hself] at hfifo hdrop
    exact ⟨hfifo, hdrop, fun k hk => (haside.trans (pump_aside v _)).stream hk⟩
  · obtain ⟨hself, hevent, hnoted⟩ := appendUnit_full hlt hB hfull w
    obtain ⟨v, hv⟩ := exists_eq' (a' := s.appendUnit i.val w)
    rw [hv] at hself hevent hnoted ⊢
    obtain ⟨hfifo, hdrop⟩ := pump_fifo (s := v) (i := i.val) (by rw [hself]; exact hplays)
    rw [hself] at hfifo hdrop
    have hpump := pump_aside v i.val
    refine ⟨hfifo, hdrop, ?_, hpump.devStat 8 hnoted⟩
    have hev : (v.pump i.val).str.event = v.str.event := (congrArg (fun x : Streams => x.event) hpump.port' :)
    rw [hev, hevent]
    exact (getLsbD_setBit s.str.event i.val true i.isLt).trans (if_pos rfl)

/-! ### Reads ahead that return (R431, R433) -/

/-- What a segment's change leaves of the stream. -/
theorem updSegment_stream_self (hi : i < s.str.s.length) (cid : Nat) (f : Segment → Segment) : (s.updSegment i cid f).stream i =
    { s.stream i with segs := (s.stream i).segs.map (fun g => if g.cid = cid then f g else g) } :=
  stream_updStream_self hi _

/-- A segment's change, and what follows on a stream that plays to TDM. -/
theorem updSegment_pump {v : State} {y : Segment} (f : Segment → Segment) (hstr : v.str = s.str) (hst : (s.stream i).started = true)
    (hy : y ∈ (s.stream i).segs) :
    ((s.stream i).framed = true →
      (∃ z ∈ (((v.updSegment i y.cid f).pump i).stream i).segs, z.sansAsked = (f y).sansAsked) ∧
      (((v.updSegment i y.cid f).pump i).stream i).fifo = (s.stream i).fifo) ∧
    ∀ k, k ≠ i → ((v.updSegment i y.cid f).pump i).stream k = s.stream k := by
  have hlt : i < v.str.s.length := by rw [hstr]; exact stream_lt hst
  have hself := updSegment_stream_self hlt y.cid f
  have hupd : Aside i v (v.updSegment i y.cid f) := updStream_aside v i _
  rw [stream_of_str hstr] at hself
  obtain ⟨w, hw⟩ := exists_eq' (a' := v.updSegment i y.cid f)
  rw [hw] at hself hupd ⊢
  refine ⟨fun hfr => ?_, fun k hk => ((hupd.trans (pump_aside w i)).stream hk).trans (stream_of_str hstr k)⟩
  have hread := prefetch_reads w i
  rw [pump_framed (by rw [hself]; exact hst) (by rw [hself]; exact hfr)]
  refine ⟨?_, ?_⟩
  · have hmem : (f y).sansAsked ∈ ((w.prefetch i).stream i).segs.map Segment.sansAsked := by
      rw [hread.segs Segment.sansAsked, hself]
      exact List.mem_map.mpr ⟨f y, List.mem_map.mpr ⟨y, hy, if_pos rfl⟩, rfl⟩
    obtain ⟨z, hz, he⟩ := List.mem_map.mp hmem
    exact ⟨z, hz, he⟩
  · have hsame := hread.stream
    rw [hself] at hsame
    exact (congrArg Stream.fifo hsame :)

theorem readAhead_returns {i : Fin 32} {y : Segment} (hst : (s.stream i.val).started = true)
    (hfind : (s.stream i.val).segs.find? (fun z => decide (0 < z.asked)) = some y) (bytes : List Byte) :
    Yields (.prefetchCompletion i (.data bytes)) s (fun t =>
      ((s.stream i.val).framed = true →
        (∃ z ∈ (t.stream i.val).segs, z.cid = y.cid ∧ z.fetched = y.fetched ++ (List.range y.asked).map (fun k =>
          readBytes (s.stream i.val).unitB (sliceAt bytes ((s.stream i.val).unitB * k) (s.stream i.val).unitB))) ∧
        (t.stream i.val).fifo = (s.stream i.val).fifo) ∧ ∀ k, k ≠ i.val → t.stream k = s.stream k) := by
  have hexec : exec (.prefetchCompletion i (.data bytes)) s = .next ((s.updSegment i.val y.cid (fun z => { z with
      fetched := z.fetched ++ (List.range y.asked).map (fun k =>
        readBytes (s.stream i.val).unitB (sliceAt bytes ((s.stream i.val).unitB * k) (s.stream i.val).unitB))
      asked := 0 })).pump i.val) := by
    have hgo : exec (.prefetchCompletion i (.data bytes)) s = execPrefetchCompletion i (.data bytes) s := rfl
    rw [hgo]
    unfold execPrefetchCompletion
    dsimp only
    rw [hfind]
  obtain ⟨hself, hothers⟩ := updSegment_pump (v := s) (f := fun z => { z with
      fetched := z.fetched ++ (List.range y.asked).map (fun k =>
        readBytes (s.stream i.val).unitB (sliceAt bytes ((s.stream i.val).unitB * k) (s.stream i.val).unitB))
      asked := 0 }) rfl hst (List.mem_of_find?_eq_some hfind)
  refine ⟨_, hexec, fun hfr => ?_, hothers⟩
  obtain ⟨⟨z, hz, he⟩, hfifo⟩ := hself hfr
  exact ⟨⟨z, hz, (congrArg Segment.cid he :), (congrArg Segment.fetched he :)⟩, hfifo⟩

theorem readAhead_fails {i : Fin 32} {y : Segment} (hst : (s.stream i.val).started = true)
    (hfind : (s.stream i.val).segs.find? (fun z => decide (0 < z.asked)) = some y) {bad : ReadResult} (hbad : ∀ b, bad ≠ .data b) :
    Yields (.prefetchCompletion i bad) s (fun t =>
      ((s.stream i.val).framed = true →
        ∃ z ∈ (t.stream i.val).segs, z.cid = y.cid ∧ z.readFail = true ∧ z.fetched = y.fetched) ∧
      ∀ k, k ≠ i.val → t.stream k = s.stream k) := by
  obtain ⟨kind, code, hcode⟩ : ∃ kind code, failCode bad = some (kind, code) := by
    cases bad with
    | data b => exact absurd rfl (hbad b)
    | _ => exact ⟨_, _, rfl⟩
  have hexec : exec (.prefetchCompletion i bad) s = .next (((((s.cmd? y.cid).map (fun c => s.readFailed c.ring kind)).getD s).updSegment i.val
      y.cid (fun z => { z with asked := 0, readFail := true })).pump i.val) := by
    have hgo : exec (.prefetchCompletion i bad) s = execPrefetchCompletion i bad s := rfl
    rw [hgo]
    unfold execPrefetchCompletion
    dsimp only
    rw [hfind]
    dsimp only
    rw [hcode]
    cases bad with
    | data b => exact absurd rfl (hbad b)
    | _ => rfl
  have hstr : (((s.cmd? y.cid).map (fun c => s.readFailed c.ring kind)).getD s).str = s.str := by
    cases s.cmd? y.cid with
    | none => rfl
    | some c => exact (readFailed_report s c.ring kind).str_eq
  obtain ⟨hself, hothers⟩ := updSegment_pump (f := fun z => { z with asked := 0, readFail := true }) hstr hst
    (List.mem_of_find?_eq_some hfind)
  refine ⟨_, hexec, fun hfr => ?_, hothers⟩
  obtain ⟨⟨z, hz, he⟩, -⟩ := hself hfr
  exact ⟨z, hz, (congrArg Segment.cid he :), (congrArg Segment.readFail he :), (congrArg Segment.fetched he :)⟩

/-- Settles O55: in a frame only the stream that plays meets its boundary, with nothing to do there, and its unit is placed; what
arrives changes its stream, and what follows only reads ahead. -/
theorem streamsPlay : Obligations.StreamsPlay := by
  refine ⟨fun s hconf hrun => ⟨tdmFrame_zero hconf hrun, fun i y rest hzero hi hidle hst hfr hcur hdet hjump hstop hsegs hport hover hdest =>
    ⟨fun w ws hfifo => ?_, fun hfifo hbegun => ?_⟩⟩, fun s hslave => slave_spec hslave,
    fun s i bytes g o hrun hg ho hnone hst hplays hport hhandle hB => arrival_spec hrun hg ho hnone hst hplays hport hhandle hB rfl,
    fun s i y hst hfind => ⟨readAhead_returns hst hfind, fun bad hbad => readAhead_fails hst hfind hbad⟩⟩
  · obtain ⟨v, hunit, haside, hv⟩ := tdmUnit_ready hst hcur hsegs hport hdest hfifo
    obtain ⟨t, hx, hplay⟩ := tdmFrame_of_unit hconf hrun hzero hi hidle hst hfr (boundary_of_going hcur hdet hjump hstop hsegs hover) hunit hv haside
    obtain ⟨hstream, hframe, hsent, hothers⟩ := hplay
    have hhead := congrArg (fun x : Stream => x.segs.head?.map (fun z => z.done)) hstream
    refine ⟨t, hx, (congrArg Stream.fifo hstream :), (congrArg Stream.total hstream :), (congrArg Stream.zeros hstream :),
      (congrArg Stream.begun hstream :), ?_, hframe, ?_, hothers⟩
    · simpa [Stream.sansAsked, Segment.sansAsked] using hhead
    · rw [hframe]
      exact hsent
  · obtain ⟨v, hunit, haside, hv⟩ := tdmUnit_empty hst hcur hsegs hport hfifo hbegun
    obtain ⟨t, hx, hplay⟩ := tdmFrame_of_unit hconf hrun hzero hi hidle hst hfr (boundary_of_going hcur hdet hjump hstop hsegs hover) hunit hv haside
    obtain ⟨hstream, hframe, -, -⟩ := hplay
    have hdone := congrArg (fun x : Stream => x.segs.head?.map (fun z => z.done)) hstream
    have hzeros := congrArg (fun x : Stream => x.segs.head?.map (fun z => z.zeros)) hstream
    refine ⟨t, hx, (congrArg Stream.zeros hstream :), (congrArg Stream.total hstream :), ?_, ?_, hframe.trans (placeUnit_nil _)⟩
    · simpa [Stream.sansAsked, Segment.sansAsked] using hdone
    · simpa [Stream.sansAsked, Segment.sansAsked] using hzeros

end Sys2Proof.Machine
end

section
/-! PROOFS. What the maintenance opcodes read out (R457, R501, R507, R508), and the admission of BIST_RUN (R502). -/

namespace Sys2Proof.Machine

set_option Elab.async false

variable {s t u : State} {g : Nat} {p : List Byte}

/-- The write of a packet just admitted goes out. -/
theorem dmaWrite_accepted (hm : Reporting s g) (b : Body) (d : Option Nat) (w : Nat) (addr : DWord) (bytes : List Byte) (relaxed : Bool) :
    (s.accept g p b d w).dmaWrite s.nextCid addr bytes relaxed =
      (s.accept g p b d w).postWrite (s.ringFunc g) addr bytes relaxed none (some (s.nextCid, g)) := by
  have hmay : (s.accept g p b d w).mayMaster (s.ringFunc g) = true := hm.1
  unfold State.dmaWrite
  rw [accept_cmd? hm.2.2]
  exact if_neg (by
    simp only [State.headCmd, Bool.false_or, Bool.not_eq_true', Bool.not_eq_false]
    exact hmay)

/-- A packet that writes what it reads out, and ends. -/
theorem completeWith_written {op : Nat} {b : Bool} (h : s.ready g op b = some p) (hm : Reporting s g) (addr : DWord) (bytes : List Byte)
    (e : End) : LedgerOnly s (s.completeWith g p (fun t => t.dmaWrite s.nextCid addr bytes false) e) ∧
    HeadRecorded s (s.completeWith g p (fun t => t.dmaWrite s.nextCid addr bytes false) e) g p e ∧
    WriteIssued s (s.completeWith g p (fun t => t.dmaWrite s.nextCid addr bytes false) e) (s.ringFunc g) addr bytes false := by
  have hwrite := dmaWrite_accepted (p := p) hm .plain none 0 addr bytes false
  refine ⟨((accept_ledger s g p .plain none 0).trans (dmaWrite_ledger _ _ _ _ _)).trans (completeWith_ledger s g p _ e),
    completeWith_headRecorded e h hm ?_, fun x hx => finish_sends _ _ ?_⟩
  · rw [hwrite]
    exact postWrite_report _ _ _ _ _ _ _
  · have hsent : ((s.accept g p .plain none 0).dmaWrite s.nextCid addr bytes false).sends x := by
      rw [hwrite]
      exact postWrite_issued _ _ _ _ _ _ _ x hx
    exact hsent

theorem mapoutRead_yields {g : Fin 1024} (hm : Reporting s g.val) (h : s.ready g.val 0x51 false = some p) :
    Yields (.mapoutRead g) s (fun t => LedgerOnly s t ∧ HeadRecorded s t g.val p endDone ∧
      WriteIssued s t (s.ringFunc g.val) (BitVec.ofNat 64 (par p 0x10 8)) s.mapOut false) :=
  ⟨_, congrArg Host.Outcome.next (onHead_some _ h), completeWith_written h hm _ _ _⟩

theorem cascadeEnum_yields {g : Fin 1024} (hm : Reporting s g.val) (h : s.ready g.val 0x55 false = some p) :
    Yields (.cascadeEnum g) s (fun t => LedgerOnly s t ∧ HeadRecorded s t g.val p endDone ∧
      WriteIssued s t (s.ringFunc g.val) (BitVec.ofNat 64 (par p 0x10 8)) ((List.range 8).flatMap s.chainEntry) false) :=
  ⟨_, congrArg Host.Outcome.next (onHead_some _ h), completeWith_written h hm _ _ _⟩

theorem logRead_yields {g : Fin 1024} (hm : Reporting s g.val) (h : s.ready g.val 0x53 false = some p) {out : List (List Byte)}
    (hout : out = (s.logBytes (par p 0x10 1 == 1) (par p 0x14 4)).take (par p 0x20 4 / 32)) :
    Yields (.logRead g) s (fun t => LedgerOnly s t ∧ HeadRecorded s t g.val p (endOf stDone (out.length % 65536)) ∧
      (out ≠ [] → WriteIssued s t (s.ringFunc g.val) (BitVec.ofNat 64 (par p 0x18 8)) out.flatten false)) := by
  have he : exec (.logRead g) s = .next (s.completeWith g.val p (fun t => if out.isEmpty then t
      else t.dmaWrite s.nextCid (BitVec.ofNat 64 (par p 0x18 8)) out.flatten false) (endOf stDone (out.length % 65536))) := by
    rw [hout]
    exact congrArg Host.Outcome.next (onHead_some _ h)
  refine ⟨_, he, ?_⟩
  by_cases hempty : out.isEmpty = true
  · simp only [if_pos hempty]
    exact ⟨(accept_ledger s g.val p .plain none 0).trans (completeWith_ledger s g.val p (fun t => t) _),
      completeWith_headRecorded _ h hm (.refl _), fun hne => absurd (List.isEmpty_iff.mp hempty) hne⟩
  · simp only [if_neg hempty]
    obtain ⟨hled, hrec, hissued⟩ := completeWith_written h hm (BitVec.ofNat 64 (par p 0x18 8)) out.flatten (endOf stDone (out.length % 65536))
    exact ⟨hled, hrec, fun _ => hissued⟩

theorem drydownInvalidate_yields {g : Fin 1024} (hm : Reporting s g.val) (h : s.ready g.val 0x56 false = some p) :
    Yields (.drydownInvalidate g) s (fun t => HeadRecorded s t g.val p endDone ∧
      LedgerOnly { s with bist := { s.bist with invPending := true } } t) := by
  refine ⟨_, congrArg Host.Outcome.next (onHead_some _ h), completeWith_recorded _ _ h hm (fun _ => rfl) (fun _ _ => rfl) (fun _ => rfl)
    (fun _ => rfl) (fun _ => rfl), ?_⟩
  exact (accept_ledger { s with bist := { s.bist with invPending := true } } g.val p .plain none 0).trans
    (completeWith_ledger s g.val p (fun s => { s with bist := { s.bist with invPending := true } }) endDone)

/-! ### The moats of a self-test (R252) -/

/-- The moats of a self-test are all that setting them changes. -/
theorem testMoats_eq (s : State) (scope ter tests : Nat) (on : Bool) :
    s.testMoats scope ter tests on = { s with ters := (s.testMoats scope ter tests on).ters } := by
  have hall : ∀ (f : Terrace → Terrace) (l : List Nat) (v : State),
      l.foldl (fun t k => t.updTer k f) v = { v with ters := (l.foldl (fun t k => t.updTer k f) v).ters } := by
    intro f l
    induction l with
    | nil => exact fun _ => rfl
    | cons k l ih => exact fun v => ih (v.updTer k f)
  unfold State.testMoats
  split
  · rfl
  · exact hall _ _ _

/-- What a change of listed terraces sets, and keeps once set, stands in each of them. -/
theorem foldl_updTer_holds {P : Terrace → Prop} {f : Terrace → Terrace} (hf : ∀ x, P (f x)) {k : Nat} (l : List Nat) :
    ∀ v : State, k < v.ters.length → (k ∈ l ∨ P (v.ter k)) → P ((l.foldl (fun t n => t.updTer n f) v).ter k) := by
  induction l with
  | nil => exact fun v _ h => h.resolve_left List.not_mem_nil
  | cons n l ih =>
    intro v hk h
    refine ih (v.updTer n f) (by simpa [State.updTer] using hk) ?_
    rw [ter_updTer]
    by_cases hn : n = k
    · rw [if_pos ⟨hn, hk⟩]
      exact .inr (hf _)
    · rw [if_neg (fun hc => hn hc.1)]
      exact h.imp_left fun hmem => (List.mem_cons.mp hmem).resolve_left (Ne.symm hn)

/-- Terraces whose basins or cisterns are tested have their local ports moated. -/
theorem testMoats_local {scope ter tests k : Nat} (hscope : scope ≠ 4) (htests : bitsAt tests 3 7 ≠ 0) (hmem : k ∈ bistTerraces scope ter)
    (hk : k < s.ters.length) : ((s.testMoats scope ter tests true).ter k).moatLocal = true := by
  unfold State.testMoats
  rw [if_neg hscope]
  exact foldl_updTer_holds (P := fun x => x.moatLocal = true) (fun _ => if_pos htests) _ s hk (.inl hmem)

/-! ### BIST_RUN -/

/-- A BIST_RUN that something loaded or armed stands against. -/
theorem bistRun_refused {g : Fin 1024} (h : s.ready g.val 0x50 false = some p) (hm : Reporting s g.val) (hahead : s.decideAhead g.val = s)
    {armed : Bool} (harmed : armed = ((par p 0x10 1 == 0 && s.anyArmed) || (par p 0x10 1 == 4 && (s.sentinel (par p 0x12 1)).armed)))
    (hagainst : s.graphs ≠ [] ∨ s.casc.shadows ≠ [] ∨ armed = true) :
    Yields (.bistRun g) s (fun t => LedgerOnly s t ∧ HeadRecorded s t g.val p endState) := by
  have hcond : (!s.graphs.isEmpty || !s.casc.shadows.isEmpty || (par p 0x10 1 == 0 && s.anyArmed) ||
      (par p 0x10 1 == 4 && (s.sentinel (par p 0x12 1)).armed)) = true := by
    rw [Bool.or_assoc, ← harmed]
    simpa [or_assoc] using hagainst
  refine ⟨s.refuse g.val p endState, congrArg Host.Outcome.next ((onHead_some _ h).trans ?_), refuse_ledger _ _ _ _, refuse_recorded _ h hm⟩
  dsimp only
  rw [hahead]
  exact if_pos hcond

/-- A BIST_RUN that is admitted. -/
theorem bistRun_admitted {g : Fin 1024} (h : s.ready g.val 0x50 false = some p) (hm : Reporting s g.val) (hahead : s.decideAhead g.val = s)
    {armed : Bool} (harmed : armed = ((par p 0x10 1 == 0 && s.anyArmed) || (par p 0x10 1 == 4 && (s.sentinel (par p 0x12 1)).armed)))
    (hgraphs : s.graphs = []) (hshadows : s.casc.shadows = []) (hdis : armed = false) (hpow : s.powerRefusal 18000 = none) :
    Yields (.bistRun g) s (fun t =>
      LedgerOnly { s with pwr := t.pwr, ters := t.ters, afe := { s.afe with loopback := t.afe.loopback } } t ∧
      t.pwr.dev = s.pwr.dev ∧ (par p 0x10 1 ≠ 4 → bitsAt (par p 0x14 4) 3 7 ≠ 0 →
        ∀ k, k ∈ bistTerraces (par p 0x10 1) (par p 0x11 1) → k < s.ters.length → (t.ter k).moatLocal = true) ∧
      ∃ c ∈ t.cmds, c.cid = s.nextCid ∧ c.body = .bist (par p 0x10 1) (par p 0x11 1) (par p 0x12 1) (par p 0x14 4)
        (BitVec.ofNat 64 (par p 0x18 8)) (par p 0x20 4)) := by
  have hcond : ¬ (!s.graphs.isEmpty || !s.casc.shadows.isEmpty || (par p 0x10 1 == 0 && s.anyArmed) ||
      (par p 0x10 1 == 4 && (s.sentinel (par p 0x12 1)).armed)) = true := by
    rw [Bool.or_assoc, ← harmed, hgraphs, hshadows, hdis]
    decide
  obtain ⟨b, hb⟩ : ∃ b : Body, b = .bist (par p 0x10 1) (par p 0x11 1) (par p 0x12 1) (par p 0x14 4)
      (BitVec.ofNat 64 (par p 0x18 8)) (par p 0x20 4) := ⟨_, rfl⟩
  obtain ⟨ters, hters⟩ : ∃ l, l = (s.testMoats (par p 0x10 1) (par p 0x11 1) (par p 0x14 4) true).ters := ⟨_, rfl⟩
  obtain ⟨lb, hlb⟩ : ∃ x, x = (bitsAt (par p 0x14 4) 11 3 != 0 && (par p 0x10 1 == 0 || par p 0x10 1 == 4)) := ⟨_, rfl⟩
  obtain ⟨s1, hs1⟩ : ∃ v : State, v = { s with ters := ters, afe := { s.afe with loopback := lb } } := ⟨_, rfl⟩
  obtain ⟨w, hw⟩ : ∃ v, v = (s1.accept g.val p b none 18000).needTerraces (bistTerraces (par p 0x10 1) (par p 0x11 1)) := ⟨_, rfl⟩
  have hexec : exec (.bistRun g) s = .next (w.settle g.val) := by
    refine congrArg Host.Outcome.next ((onHead_some _ h).trans ?_)
    dsimp only
    rw [hahead, if_neg hcond, hpow]
    dsimp only
    rw [hw, hs1, hb, hlb, hters, testMoats_eq]
  have hpwr : w = { s1.accept g.val p b none 18000 with pwr := w.pwr } := by
    rw [hw]
    exact State.needTerraces_eq_pwr _ _
  have hacc := accept_ledger s1 g.val p b none 18000
  have hled : LedgerOnly { s1 with pwr := w.pwr } (w.settle g.val) := by
    refine LedgerOnly.trans ?_ (settle_ledger w g.val)
    rw [hpwr]
    exact ⟨congrArg (fun x : State => ({ x with pwr := w.pwr } : State)) hacc.1, hacc.2⟩
  have hstands : Stands (s1.headCmd g.val p b none 18000) w := by
    have hfresh : CidsFresh s1 := by
      rw [hs1]
      exact hm.2.2
    have ha := accept_stands hfresh g.val p b none 18000 (by
      rw [hb]
      exact fun _ _ hc => nomatch hc)
    rw [hpwr]
    exact { mem := ha.mem, only := ha.only, open_ := ha.open_ }
  refine ⟨_, hexec, ?_, ?_, fun hscope htests k hmem hk => ?_, _, hstands.settle (by
    rw [show (s1.headCmd g.val p b none 18000).body = b from rfl, hb]
    exact fun _ _ hc => nomatch hc) g.val, by rw [hs1]; rfl, hb⟩
  · have hsame : ({ s with pwr := (w.settle g.val).pwr, ters := (w.settle g.val).ters
                           afe := { s.afe with loopback := (w.settle g.val).afe.loopback } } : State) = { s1 with pwr := w.pwr } := by
      rw [hled.pwr_eq, hled.ters_eq, hled.afe_eq, hs1]
    rw [hsame]
    exact hled
  · have hstage := needTerraces_sansStage (s1.accept g.val p b none 18000) (bistTerraces (par p 0x10 1) (par p 0x11 1))
    rw [← hw] at hstage
    have hdev : w.pwr.dev = s1.pwr.dev := (congrArg Power.dev hstage :)
    rw [hled.pwr_eq]
    exact hdev.trans (by rw [hs1])
  · have hmoat := testMoats_local hscope htests hmem hk
    have hlist : (w.settle g.val).ters = ters := by
      rw [hled.ters_eq, hs1]
    unfold State.ter at hmoat ⊢
    rw [hlist, hters]
    exact hmoat

end Sys2Proof.Machine
end

section
/-! PROOFS. A self-test's result: what it finds and what it leaves (R484, R497, R499), and the end of BIST_RUN (R504). -/

namespace Sys2Proof.Machine

set_option Elab.async false

variable {s t u : State} {f : Finding}

/-! ### The failure log and the channels out of use -/

/-- The loop-back, and the log of failures. -/
def State.testLog (s : State) : Bool × List FailRec × Nat := (s.afe.loopback, s.bist.flog, s.bist.flogNext)

/-- The loop-back, and what BIST keeps. -/
def State.testKept (s : State) : Bool × Bist := (s.afe.loopback, s.bist)

theorem testBegin_log (s : State) (j : TestJob) : Agrees State.testLog s (s.testBegin j) := by
  have h1 : Agrees State.testLog s (if bitAt j.tests 1 ∧ j.scope = 0 then { s with bist := { s.bist with supply := 0 } } else s) :=
    .ite rfl rfl
  have h2 : Agrees State.testLog s ((List.range 16).foldl (fun t n => if s.loopBack j n then
      { t with bist := { t.bist with afeFailed := setBit t.bist.afeFailed n false } } else t) _) :=
    h1.foldl fun _ _ _ => .ite rfl rfl
  have h3 {c : Prop} [Decidable c] := Agrees.ite (c := c) (h2.foldl (l := List.range 16) (f := fun t n =>
      if (s.sentinel n).armed ∨ !(s.basin (4096 + n)).snFailed then t
      else t.updBasin (4096 + n) (fun b => { b with snFailed := false })) fun _ _ _ => .ite rfl rfl) h2
  unfold State.testBegin
  exact .ite h3 (h3.trans rfl)

theorem rederive_log (s : State) (j : TestJob) (reads : List TrackRead) : Agrees State.testLog s (s.rederive j reads) := by
  unfold State.rederive
  exact .ite (.refl s) (Agrees.foldl (.ite rfl (.refl s)) fun _ _ _ => rfl)

theorem loopResults_kept (s : State) (j : TestJob) : Agrees State.testKept s (s.loopResults j) := by
  unfold State.loopResults
  exact Agrees.foldl (.refl s) fun _ _ _ => .ite rfl (.ite rfl rfl)

theorem mapOutBasin_kept (s : State) (fs : List Finding) (n : Nat) : Agrees State.testKept s (s.mapOutBasin fs n).1 := by
  unfold State.mapOutBasin
  dsimp only
  split
  · exact rfl
  · split <;> exact rfl

theorem failBasin_kept (s : State) (fs : List Finding) (repair : Bool) (n : Nat) : Agrees State.testKept s (s.failBasin fs repair n).1 := by
  unfold State.failBasin
  dsimp only
  split
  · split
    · exact mapOutBasin_kept s fs n
    · split
      · exact .refl s
      · split
        · exact Agrees.trans rfl (mapOutBasin_kept _ fs n)
        · exact rfl
  · exact mapOutBasin_kept s fs n

theorem consequence_log (s : State) (fs : List Finding) (repair : Bool) (seen : List (Nat × Nat)) (f : Finding) :
    Agrees State.testLog s (s.consequence fs repair seen f).1 := by
  unfold State.consequence
  dsimp only
  split
  · split <;> exact rfl
  · exact Agrees.foldl rfl fun _ _ _ => rfl
  · exact rfl
  · exact rfl
  · exact rfl
  · exact rfl
  · split
    · split
      · exact rfl
      · split
        · exact .refl s
        · exact (failBasin_kept s fs repair _).of ⟨fun x => (x.1, x.2.flog, x.2.flogNext), fun _ => rfl⟩
    · exact .refl s

/-- A failure record: the last of the log, with the next number. -/
theorem failRecord_spec (s : State) (kind outcome : Nat) (f : Finding) :
    (s.failRecord kind outcome f).afe = s.afe ∧ (s.failRecord kind outcome f).bist.afeFailed = s.bist.afeFailed ∧
    ((s.failRecord kind outcome f).bist.flog.getLast?).map (fun r => (r.finding, r.kind, r.outcome, r.seq)) =
      some (f, kind, outcome, s.bist.flogNext) := by
  obtain ⟨r, hr⟩ : ∃ r : FailRec, r = { uptime := s.now48, seq := s.bist.flogNext, kind := kind, finding := f, device := s.me
                                        outcome := outcome } := ⟨_, rfl⟩
  have hlast : ((s.bist.flog ++ [r]).drop (s.bist.flog.length + 1 - 256)).getLast? = some r := by
    rw [List.drop_append_of_le_length (by omega), List.getLast?_append]
    rfl
  unfold State.failRecord State.dlog
  refine ⟨(devVec_report _ 3).afe_eq, (congrArg Bist.afeFailed (devVec_report _ 3).bist_eq :), ?_⟩
  rw [(devVec_report _ 3).bist_eq]
  dsimp only
  rw [← hr, hlast, hr]
  rfl

theorem judge_loopback (s : State) (all : List Finding) (kind : Nat) (repair : Bool) (seen : List (Nat × Nat)) (past fs : List Finding) :
    (s.judge all kind repair seen past fs).1.afe.loopback = s.afe.loopback := by
  induction fs generalizing s seen past with
  | nil => rfl
  | cons f fs ih =>
    have hr : (s.consequence all repair seen f).1.afe.loopback = s.afe.loopback :=
      (consequence_log s all repair seen f).eq (fun x => x.1)
    unfold State.judge
    dsimp only
    split
    · exact (ih _ _ _).trans ((congrArg Afe.loopback (failRecord_spec _ _ _ _).1).trans hr)
    · exact (ih _ _ _).trans hr

/-- One finding, of an AFE channel. -/
theorem judge_channel (all : List Finding) (kind : Nat) (repair : Bool) (hblock : f.block = 8) (hidx : f.index < 16) :
    (s.judge all kind repair [] [] [f]).1.bist.afeFailed.getLsbD f.index = true ∧
    ((s.judge all kind repair [] [] [f]).1.bist.flog.getLast?).map (fun r => (r.finding, r.kind, r.outcome, r.seq)) =
      some (f, kind, 1, s.bist.flogNext) := by
  have hcons : s.consequence all repair [] f =
      ({ s with bist := { s.bist with afeFailed := setBit s.bist.afeFailed f.index true } }, 1, []) := by
    unfold State.consequence
    rw [hblock]
    rfl
  have hjudge : (s.judge all kind repair [] [] [f]).1 =
      ({ s with bist := { s.bist with afeFailed := setBit s.bist.afeFailed f.index true } } : State).failRecord kind 1 f := by
    unfold State.judge
    rw [hcons]
    rfl
  obtain ⟨-, hset, hlast⟩ :=
    failRecord_spec { s with bist := { s.bist with afeFailed := setBit s.bist.afeFailed f.index true } } kind 1 f
  rw [hjudge]
  refine ⟨?_, hlast⟩
  rw [hset]
  exact (getLsbD_setBit s.bist.afeFailed f.index true hidx).trans (if_pos rfl)

/-- A finding of an AFE channel names one that there is. -/
theorem findings_channel {j : TestJob} {x : TestIn} (h : s.findings j x = [f]) (hblock : f.block = 8) : f.index < 16 := by
  have hmem : f ∈ s.findings j x := by
    rw [h]
    exact List.mem_singleton.mpr rfl
  have hjudged : ∀ y, findingJudged y = f → s.testRuns j y = true → f.index < 16 := by
    rintro y rfl hruns
    have hsame : (findingJudged y).block = y.block ∧ (findingJudged y).index = y.index := by
      unfold findingJudged
      split <;> exact ⟨rfl, rfl⟩
    rw [hsame.1] at hblock
    rw [hsame.2]
    unfold State.testRuns at hruns
    rw [hblock] at hruns
    simp only [Bool.and_eq_true, decide_eq_true_eq] at hruns
    exact hruns.1
  have hmade : f ∈ (x.findings.filter (fun f => f.test != 5 && bitAt j.tests f.test && (testBlocks f.test).contains f.block && j.inScope f &&
      s.testRuns j f && findingFails f)).map findingJudged → f.index < 16 := by
    intro hm
    obtain ⟨y, hy, he⟩ := List.mem_map.mp hm
    simp only [List.mem_filter, Bool.and_eq_true] at hy
    exact hjudged y he hy.2.1.2
  unfold State.findings at hmem
  simp only [List.mem_append, List.mem_filter] at hmem
  rcases hmem with (⟨hm, -⟩ | href) | ⟨hm, -⟩
  · exact hmade hm
  · unfold State.refFindings at href
    split at href
    · exact absurd href List.not_mem_nil
    · obtain ⟨n, -, rfl⟩ := List.mem_map.mp (List.mem_filter.mp href).1
      simp only [refFinding] at hblock
      split at hblock <;> exact absurd hblock (by decide)
  · exact hmade hm

/-! ### A self-test run whole -/

/-- What a self-test leaves, with the records it made. -/
structure Tested (s : State) (j : TestJob) (x : TestIn) (r : State × List FailRec) : Prop where
  only : TestOnly s r.1
  loopback : r.1.afe.loopback = s.afe.loopback
  kind : r.1.bist.lastKind = j.kind
  fails : r.1.bist.fails = min 0xFFFF (s.findings j x).length
  clean : s.findings j x = [] → r.1.bist.flog = s.bist.flog ∧ r.2 = []
  channel : ∀ f, s.findings j x = [f] → f.block = 8 → r.1.bist.afeFailed.getLsbD f.index = true ∧
    (r.1.bist.flog.getLast?).map (fun y => (y.finding, y.kind, y.outcome, y.seq)) = some (f, j.kind, 1, s.bist.flogNext)

theorem selfTest_spec (s : State) (j : TestJob) (x : TestIn) (repair : Bool) : Tested s j x (s.selfTest j x repair) := by
  have hbegin : Agrees State.testLog s ((s.testBegin j).rederive j x.reads) := (testBegin_log s j).trans (rederive_log _ j x.reads)
  obtain ⟨fs, hfs⟩ : ∃ l, l = s.findings j x := ⟨_, rfl⟩
  obtain ⟨s1, hs1⟩ : ∃ v, v = (s.testBegin j).rederive j x.reads := ⟨_, rfl⟩
  obtain ⟨r, hr⟩ : ∃ r, r = s1.judge fs j.kind repair [] [] fs := ⟨_, rfl⟩
  obtain ⟨s2, hs2⟩ : ∃ v, v = r.1.loopResults j := ⟨_, rfl⟩
  rw [← hs1] at hbegin
  have hloop : Agrees State.testKept r.1 s2 := hs2 ▸ loopResults_kept r.1 j
  have hbist : s2.bist = r.1.bist := hloop.eq (fun x => x.2)
  have hlog : s1.bist.flog = s.bist.flog := hbegin.eq (fun x => x.2.1)
  have hnext : s1.bist.flogNext = s.bist.flogNext := hbegin.eq (fun x => x.2.2)
  have hself : s.selfTest j x repair = (if ({ s2 with bist := { s2.bist with lastKind := j.kind, fails := min 0xFFFF fs.length } } : State).mapBody =
      s.mapBody then { s2 with bist := { s2.bist with lastKind := j.kind, fails := min 0xFFFF fs.length } }
      else { s2 with bist := { s2.bist with lastKind := j.kind, fails := min 0xFFFF fs.length, mapGen := s2.bist.mapGen + 1 } }, r.2) := by
    unfold State.selfTest
    dsimp only
    rw [← hfs, ← hs1, ← hr, ← hs2]
  obtain ⟨gen, hgen⟩ : ∃ gen, s.selfTest j x repair =
      ({ s2 with bist := { s2.bist with lastKind := j.kind, fails := min 0xFFFF fs.length, mapGen := gen } }, r.2) := by
    rw [hself]
    split
    · exact ⟨s2.bist.mapGen, rfl⟩
    · exact ⟨_, rfl⟩
  have honly := selfTest_testOnly s j x repair
  rw [hgen] at honly ⊢
  refine ⟨honly, ?_, rfl, by rw [hfs], fun hnil => ?_, fun f hone hblock => ?_⟩
  · have hjudge := judge_loopback s1 fs j.kind repair [] [] fs
    rw [← hr] at hjudge
    exact (hloop.eq (fun x => x.1)).trans (hjudge.trans (hbegin.eq (fun x => x.1)))
  · rw [← hfs] at hnil
    rw [hnil] at hr
    have hr' : r = (s1, []) := hr
    rw [hbist, hr']
    exact ⟨hlog, rfl⟩
  · have hidx := findings_channel hone hblock
    rw [← hfs] at hone
    obtain ⟨hset, hlast⟩ := judge_channel (s := s1) fs j.kind repair hblock hidx
    rw [hone] at hr hset hlast
    rw [← hr] at hset hlast
    rw [hbist]
    dsimp only
    rw [← hnext]
    exact ⟨hset, hlast⟩

/-! ### BIST_RUN_DONE -/

theorem TestOnly.cmds (h : TestOnly s t) : t.cmds = s.cmds := Agrees.eq h State.cmds

theorem TestOnly.weights (h : TestOnly s t) : t.weights = s.weights := Agrees.eq h State.weights

theorem TestOnly.rings (h : TestOnly s t) : t.rings = s.rings := Agrees.eq h State.rings

theorem TestOnly.halted (h : TestOnly s t) (k : Nat) : (t.ring k).halted = (s.ring k).halted :=
  congrArg (fun r => (Tab.getD r k Ring.initial).halted) h.rings

theorem TestOnly.reporting {k : Nat} (h : TestOnly s t) (hm : Reporting s k) : Reporting t k := by
  obtain ⟨hmay, hrole, hfresh⟩ := hm
  have hfunc : t.ringFunc k = s.ringFunc k := Agrees.eq h (fun x => x.ringFunc k)
  have hlive : t.mayMaster (s.ringFunc k) = s.mayMaster (s.ringFunc k) := Agrees.eq h (fun x => x.mayMaster (s.ringFunc k))
  have hnext : t.nextCid = s.nextCid := Agrees.eq h State.nextCid
  refine ⟨by rw [hfunc, hlive, hmay], by rwa [h.pins], ?_⟩
  unfold CidsFresh
  rwa [h.cmds, hnext]

/-- A self-test leaves what records read. -/
theorem TestOnly.same (h : TestOnly s t) : SameRecords s t :=
  ⟨fun k => (congrArg (fun r => Ring.recordView (Tab.getD r k Ring.initial)) h.rings :),
    Agrees.eq h (fun x => x.hif.owner), congrArg (fun x => x.copy % 2 ^ 48) h.tmr⟩

/-- The ledger holds of LCS only the result of the last command. -/
theorem LedgerOnly.lcs_fixed (h : LedgerOnly s t) :
    t.lcs = { s.lcs with lastStatus := t.lcs.lastStatus, lastCheck := t.lcs.lastCheck } :=
  (congrArg (fun x : State => ({ x.lcs with lastStatus := t.lcs.lastStatus, lastCheck := t.lcs.lastCheck } : Lcs)) h.1 :)

/-- The command that a search finds is the one of a search for its data. -/
theorem findSome?_of_find? {α β : Type} {q : α → Bool} {f : α → Option β} {l : List α} {c : α} (h : l.find? q = some c)
    (hq : ∀ x, q x = (f x).isSome) : l.findSome? f = f c := by
  induction l with
  | nil => cases h
  | cons x l ih =>
    have hx := hq x
    cases hf : f x with
    | none =>
      rw [hf] at hx
      rw [List.findSome?_cons, hf]
      exact ih ((List.find?_cons_of_neg (by simp [hx])).symm.trans h)
    | some y =>
      rw [hf] at hx
      have hc : x = c := Option.some.inj ((List.find?_cons_of_pos hx).symm.trans h)
      rw [List.findSome?_cons, hf, ← hc, hf]

/-- Nothing but a run is blamed for lateness. -/
theorem lateEnd_plain (s : State) {c : Cmd} (hc : s.lateBlame c = (0, none)) (hrun : u.lateBlame c = (0, none)) (hnow : u.now48 = s.now48)
    (e : End) : u.lateEnd c e = s.lateEnd c e := by
  unfold State.lateEnd
  rw [hc, hrun, hnow]

/-- What the tests of a BIST_RUN have run into, and the end of the command. -/
theorem bistRunDone_spec {c : Cmd} (test : TestIn) (scope ter index tests bytes : Nat) (addr : DWord)
    (hfind : (s.cmds.find? (fun y => match y.body with
      | .bist _ _ _ _ _ _ => true
      | _ => false)) = some c) (hbody : c.body = .bist scope ter index tests addr bytes) (hcmd : s.cmd? c.cid = some c) (hmir : c.mir = [])
    (hdet : c.detached = false) (hhalt : (s.ring c.ring).halted = false) (hm : Reporting s c.ring) {job : TestJob}
    (hjob : job = { kind := 4, tests := tests % 2 ^ 31, scope := scope, ter := ter, index := index })
    (hu : u = ({ s with afe := { s.afe with loopback := false } } : State).testMoats scope ter tests false) :
    Yields (.bistRunDone test) s (fun t => t.cmd? c.cid = none ∧ t.bist.lastKind = 4 ∧ t.afe.loopback = false ∧
      t.bist.fails = min 0xFFFF (u.findings job test).length ∧ t.weights = s.weights ∧
      t.lcs = { s.lcs with lastStatus := t.lcs.lastStatus, lastCheck := t.lcs.lastCheck } ∧
      (u.findings job test = [] → t.bist.flog = s.bist.flog ∧
        Recorded s t c.ring c.tag c.opcode c.parent.isSome (s.lateEnd c endDone)) ∧
      ∀ f, u.findings job test = [f] → f.block = 8 → t.bist.afeFailed.getLsbD f.index = true ∧
        (t.bist.flog.getLast?).map (fun r => (r.finding, r.kind, r.outcome, r.seq)) = some (f, 4, 1, s.bist.flogNext)) := by
  have hq := findSome?_of_find? (f := fun c : Cmd => match c.body with
      | .bist scope ter index tests addr bytes => some (c, scope, ter, index, tests, addr, bytes)
      | _ => none) hfind (fun x => by cases x.body <;> rfl)
  have hsome : s.cmds.findSome? (fun c => match c.body with
      | .bist scope ter index tests addr bytes => some (c, scope, ter, index, tests, addr, bytes)
      | _ => none) = some (c, scope, ter, index, tests, addr, bytes) := by
    rw [hq, hbody]
  obtain ⟨r, hr⟩ : ∃ r, r = u.selfTest job test (bitAt tests 31) := ⟨_, rfl⟩
  obtain ⟨out, hout⟩ : ∃ l, l = r.2.take (bytes / 32) := ⟨_, rfl⟩
  obtain ⟨s1, hs1⟩ : ∃ v, v = if out.isEmpty then r.1 else r.1.dmaWrite c.cid addr (out.flatMap FailRec.bytes) false := ⟨_, rfl⟩
  have hexec : exec (.bistRunDone test) s = .next (s1.finish c.cid (endOf stDone (out.length % 65536 + 65536 * r.1.bist.fails))) := by
    have hgo : exec (.bistRunDone test) s = execBistRunDone test s := rfl
    rw [hgo]
    unfold execBistRunDone
    split
    · next hnone => exact nomatch hnone.symm.trans hsome
    · next hdata =>
      cases hdata.symm.trans hsome
      dsimp only
      rw [← hjob, ← hu, ← hr, ← hout, ← hs1]
  obtain ⟨honly, hloop, hkind, hfails, hclean, hchannel⟩ := selfTest_spec u job test (bitAt tests 31)
  rw [← hr] at honly hloop hkind hfails hclean hchannel
  have hstart : TestOnly s u := by
    rw [hu, testMoats_eq]
    exact rfl
  have huafe : u.afe.loopback = false ∧ u.bist = s.bist := by
    rw [hu, testMoats_eq]
    exact ⟨rfl, rfl⟩
  have hall := hstart.trans honly
  have hwritten : LedgerOnly r.1 s1 := by
    rw [hs1]
    split
    · exact .refl _
    · exact dmaWrite_ledger _ _ _ _ _
  have hled := hwritten.trans (finish_ledger s1 c.cid (endOf stDone (out.length % 65536 + 65536 * r.1.bist.fails)))
  have hcmds : s1.cmds = s.cmds := by
    rw [hs1, ← hall.cmds]
    split
    · rfl
    · exact dmaWrite_cmds _ _ _ _ _
  have hcmd1 : s1.cmd? c.cid = some c := Eq.trans (congrArg (fun l : List Cmd => l.find? (fun y : Cmd => y.cid == c.cid)) hcmds) hcmd
  refine ⟨_, hexec, finish_gone hcmd1 hmir _, ?_, ?_, ?_, ?_, ?_, fun hnil => ⟨?_, ?_⟩, fun f hone hblock => ?_⟩
  · rw [hled.bist_eq, hkind, hjob]
  · rw [hled.afe_eq, hloop, huafe.1]
  · rw [hled.bist_eq, hfails]
  · rw [hled.weights_eq, hall.weights]
  · rw [← hall.lcs]
    exact hled.lcs_fixed
  · rw [hled.bist_eq, (hclean hnil).1, huafe.2]
  · have hnone : out = [] := by rw [hout, (hclean hnil).2, List.take_nil]
    have hs1r : s1 = r.1 := hs1.trans (if_pos (by rw [hnone]; rfl))
    have hend : endOf stDone (out.length % 65536 + 65536 * r.1.bist.fails) = endDone := by
      rw [hnone, hfails, hnil]
      rfl
    have hblame : ∀ v : State, v.lateBlame c = (0, none) := fun v => by
      unfold State.lateBlame
      rw [hbody]
    have hsame := hall.same
    rw [hend, hs1r]
    rw [← lateEnd_plain s (hblame s) (hblame r.1) hsame.now]
    exact Recorded.of_same hsame (finish_recorded r.1 c endDone (hs1r ▸ hcmd1) hmir hdet ((hall.halted _).trans hhalt) (hall.reporting hm))
  · rw [hled.bist_eq, ← huafe.2]
    have := hchannel f hone hblock
    rwa [hjob] at this

/-- Settles O56: what is read out is written to ADDR; a BIST_RUN moats before it stages, and its tests leave all but the blocks they
judge. -/
theorem maintenanceReads : Obligations.MaintenanceReads :=
  ⟨fun _ _ _ hm => ⟨mapoutRead_yields hm, fun h => logRead_yields hm h rfl, cascadeEnum_yields hm, drydownInvalidate_yields hm⟩,
    fun _ _ _ h hm hahead => ⟨bistRun_refused h hm hahead rfl, bistRun_admitted h hm hahead rfl⟩,
    fun _ _ test scope ter index tests bytes addr hfind hbody hcmd hmir hdet hhalt hm =>
      bistRunDone_spec test scope ter index tests bytes addr hfind hbody hcmd hmir hdet hhalt hm rfl rfl⟩

end Sys2Proof.Machine
end

section
/-! PROOFS. LIFECYCLE_ADVANCE: the checks on its token and what a token that passes begins (R512, R514, R515, R524). -/

namespace Sys2Proof.Machine

set_option Elab.async false

variable {s t u : State} {g : Nat} {p b : List Byte}

/-! ### LCS_LAST while head packets are refused -/

theorem noteLifecycle_lcs (s : State) (p : List Byte) (e : End) : (s.noteLifecycle p e).lcs = s.lcs ∨ LcsNoted (s.noteLifecycle p e) := by
  unfold State.noteLifecycle
  split
  · exact .inr ⟨rfl, rfl⟩
  · exact .inl rfl

theorem settleLoop_lcs (fuel : Nat) (s : State) (g : Nat) : (State.settleLoop fuel s g).lcs = s.lcs ∨ LcsNoted (State.settleLoop fuel s g) := by
  induction fuel generalizing s with
  | zero => exact .inl rfl
  | succ n ih =>
    unfold State.settleLoop
    split
    · exact .inl rfl
    · next s' hs =>
      unfold State.rejectHead at hs
      split at hs
      · cases hs
      · next p d _ =>
        dsimp only at hs
        split at hs
        · obtain ⟨e, -, rfl⟩ := Option.map_eq_some_iff.mp hs
          have hlcs := rejectPacket_lcs s g p d (pktEntries p) e
          rcases noteLifecycle_lcs s p e with hsame | hnoted
          · exact (ih _).imp_left fun h => h.trans (hlcs.trans hsame)
          · refine .inr (LcsNoted.settleLoop n ?_)
            unfold LcsNoted at hnoted ⊢
            rwa [hlcs]
        · cases hs

/-- What follows a change of a ring notes in LCS_LAST at most a packet that its own parameters fail. -/
theorem settle_lcs (s : State) (g : Nat) : (s.settle g).lcs = s.lcs ∨ LcsNoted (s.settle g) := by
  have hrest : (s.settle g).lcs = (State.settleLoop ((s.ring g).held + 1) s g).lcs :=
    (fetchWork_places (g := g) _).2.trans (closeLists_queue (g := g) 3 _).lcs
  unfold LcsNoted
  rw [hrest]
  exact settleLoop_lcs _ s g

theorem lcsLast_books (s : State) (status check : Nat) : Books s (s.lcsLast status check) := (BookStep.noted s status check).books

/-! ### The token -/

/-- A change of the command that stands. -/
theorem Stands.updCmd {c : Cmd} {f : Cmd → Cmd} (h : Stands c s) (hcid : ∀ x, (f x).cid = x.cid) (hb : ∀ n k, (f c).body ≠ .listCall n k) :
    Stands (f c) (s.updCmd c.cid f) := by
  refine ⟨List.mem_map.mpr ⟨c, h.mem, if_pos (beq_self_eq_true _)⟩, fun x hx hxc => ?_, .inl hb⟩
  obtain ⟨y, hy, rfl⟩ := List.mem_map.mp hx
  by_cases hyc : y.cid = c.cid
  · rw [h.only y hy hyc]
    exact if_pos (beq_self_eq_true _)
  · rw [if_neg (by simpa using hyc), hcid] at hxc
    exact absurd hxc hyc

/-- The packet admitted and its token's read issued. -/
def State.tokenAsked (s : State) (g : Nat) (p : List Byte) : State :=
  (s.accept g p (.lifecycle (par p 0x10 1) [] none) none 0).dmaRead (s.ringFunc g) (BitVec.ofNat 64 (par p 0x18 8)) (par p 0x20 4)

/-- A packet admitted whose token is on its way. -/
structure Asked (s : State) (g : Nat) (p : List Byte) (t : State) : Prop where
  ledger : LedgerOnly s t
  issued : ReadIssued s t (s.ringFunc g) (BitVec.ofNat 64 (par p 0x18 8)) (par p 0x20 4)
  stands : Stands (s.headCmd g p (.lifecycle (par p 0x10 1) [] none) none 0) t
  cmd : t.cmd? s.nextCid = some (s.headCmd g p (.lifecycle (par p 0x10 1) [] none) none 0)
  same : SameRecords s t
  reporting : Reporting t g
  checks : ∀ target b, t.tokenChecks target b = s.tokenChecks target b

theorem tokenAsked_spec (h : s.ready g 0x52 false = some p) (hm : Reporting s g) : Asked s g p (s.tokenAsked g p) := by
  obtain ⟨hmay, hrole, hfresh⟩ := hm
  obtain ⟨a, ha⟩ : ∃ a, a = s.accept g p (.lifecycle (par p 0x10 1) [] none) none 0 := ⟨_, rfl⟩
  obtain ⟨t, ht⟩ : ∃ t, t = a.issueRead (s.ringFunc g) (BitVec.ofNat 64 (par p 0x18 8)) (par p 0x20 4) := ⟨_, rfl⟩
  have hamay : a.mayMaster (s.ringFunc g) = true := by
    rw [ha]
    exact hmay
  have hasked : s.tokenAsked g p = t := by
    unfold State.tokenAsked State.dmaRead
    rw [← ha, if_pos hamay, ← ht]
  have hrep : ReportOnly a t := ht ▸ issueRead_report _ _ _ _
  have hcmds : t.cmds = a.cmds := hrep.cmds_eq
  have hstands : Stands (s.headCmd g p (.lifecycle (par p 0x10 1) [] none) none 0) a := ha ▸ accept_stands hfresh g p _ none 0
    (fun _ _ hc => nomatch hc)
  have hbusy : a.cellBusy = s.cellBusy := by
    rw [ha]
    show (s.cmds ++ [s.headCmd g p (.lifecycle (par p 0x10 1) [] none) none 0]).any Cmd.isCellOp = s.cmds.any Cmd.isCellOp
    rw [List.any_append, List.any_cons, List.any_nil, Bool.or_false, Bool.or_eq_left_iff_imp]
    unfold Cmd.isCellOp
    rw [show (s.headCmd g p (.lifecycle (par p 0x10 1) [] none) none 0).opcode = 0x52 from (ready_head h).2.2.1]
    exact fun hc => absurd hc (by decide)
  have hchecks : ∀ target b, a.tokenChecks target b = s.tokenChecks target b := by
    intro target b
    have hfree : a.transitionFree target = s.transitionFree target := by
      unfold State.transitionFree
      rw [hbusy, ha]
      rfl
    unfold State.tokenChecks
    rw [hfree, ha]
    rfl
  rw [hasked]
  refine ⟨(ha ▸ accept_ledger s g p _ none 0 : LedgerOnly s a).trans hrep.ledger, ?_, ⟨?_, ?_, ?_⟩, ?_, ?_, ?_, fun target b => ?_⟩
  · have hissued := issueRead_issued a (s.ringFunc g) (BitVec.ofNat 64 (par p 0x18 8)) (par p 0x20 4)
    rw [← ht] at hissued
    have hmrrs : a.hif.mrrs = s.hif.mrrs := by
      rw [ha]
      rfl
    unfold ReadIssued at hissued ⊢
    rwa [hmrrs] at hissued
  · rw [hcmds]
    exact hstands.mem
  · rw [hcmds]
    exact hstands.only
  · exact .inl fun _ _ hc => nomatch hc
  · unfold State.cmd?
    rw [hcmds, ha]
    exact accept_cmd? hfresh g p _ none 0
  · exact (ha ▸ accept_same s g p _ none 0 : SameRecords s a).trans hrep.same
  · have hfunc : a.ringFunc g = s.ringFunc g := by
      rw [ha]
      rfl
    refine ⟨?_, ?_, ?_⟩
    · rw [show t.ringFunc g = a.ringFunc g from hrep.agrees (view := fun u => u.ringFunc g), hfunc,
        show t.mayMaster (s.ringFunc g) = a.mayMaster (s.ringFunc g) from hrep.agrees (view := fun u => u.mayMaster (s.ringFunc g)), hamay]
    · rw [hrep.pins_eq, ha]
      exact hrole
    · have hnext : t.nextCid = a.nextCid := hrep.agrees
      unfold CidsFresh
      rw [hcmds, hnext, ha]
      exact accept_fresh hfresh g p _ none 0
  · exact Eq.trans (hrep.agrees (view := fun u => u.tokenChecks target b)) (hchecks target b)

/-- Where a LIFECYCLE_ADVANCE is admitted and its token read. -/
theorem exec_lifecycleAdvance {g : Fin 1024} {bytes : List Byte} (h : s.ready g.val 0x52 false = some p) (hm : Reporting s g.val)
    (hone : (s.cmds.any (fun c => c.opcode == 0x52)) = false) (hb : b = readBytes (par p 0x20 4) bytes) {v : State}
    (hv : v = match s.tokenChecks (par p 0x10 1) b with
      | some (k, e) => ((s.tokenAsked g.val p).finish s.nextCid e).lcsLast e.status k
      | none => (s.tokenAsked g.val p).tokenEnergy s.nextCid (par p 0x10 1) (sliceAt b 64 (tokenPayloadLen b))) :
    exec (.lifecycleAdvance g (.data bytes)) s = .next (v.settle g.val) := by
  have hchecks := (tokenAsked_spec h hm).checks (par p 0x10 1) b
  refine congrArg Host.Outcome.next ((onHead_some _ h).trans ?_)
  dsimp only
  rw [if_neg (by simp [hone, hm.1])]
  unfold State.tokenAsked at hv hchecks
  rw [← hb, hchecks]
  exact congrArg (fun u : State => u.settle g.val) hv.symm

/-- A token that fails a check. -/
theorem token_refused {g : Fin 1024} {bytes : List Byte} (h : s.ready g.val 0x52 false = some p) (hm : Reporting s g.val)
    (hone : (s.cmds.any (fun c => c.opcode == 0x52)) = false) (hb : b = readBytes (par p 0x20 4) bytes) {k : Nat} {e : End}
    (hfail : s.tokenChecks (par p 0x10 1) b = some (k, e)) :
    Yields (.lifecycleAdvance g (.data bytes)) s (fun t =>
      ReadIssued s t (s.ringFunc g.val) (BitVec.ofNat 64 (par p 0x18 8)) (par p 0x20 4) ∧ t.weights = s.weights ∧
      HeadRecorded s t g.val p e ∧ LedgerOnly s t ∧
      ((t.lcs.lastStatus = e.status ∧ t.lcs.lastCheck = k) ∨ (t.lcs.lastStatus = stBadParam ∧ t.lcs.lastCheck = 1))) := by
  obtain ⟨hled, hissued, -, hcmd, hsame, hrep, -⟩ := tokenAsked_spec h hm
  have hexec := exec_lifecycleAdvance h hm hone hb (v := ((s.tokenAsked g.val p).finish s.nextCid e).lcsLast e.status k) (by rw [hfail])
  obtain ⟨a, ha⟩ : ∃ a, a = s.tokenAsked g.val p := ⟨_, rfl⟩
  rw [← ha] at hled hissued hcmd hsame hrep hexec
  have hrec := headRecorded_of_finish e h hsame hrep hcmd rfl rfl rfl rfl rfl rfl rfl
  rw [lateEnd_none _ _ _ rfl] at hrec
  obtain ⟨v, hv⟩ : ∃ v, v = (a.finish s.nextCid e).lcsLast e.status k := ⟨_, rfl⟩
  rw [← hv] at hexec
  have hbooks : Books a (v.settle g.val) := by
    rw [hv]
    exact ((finish_books a _ e).trans (lcsLast_books _ _ _)).trans (settle_books _ _)
  have hall := hled.trans hbooks.ledger
  refine ⟨_, hexec, fun r hr => hbooks.out (hissued r hr), hall.weights_eq, ?_, hall, ?_⟩
  · refine Recorded.mono hrec fun x hx => settle_sends _ ?_
    rw [hv]
    exact hx
  · rcases settle_lcs v g.val with hlcs | hnoted
    · rw [hlcs, hv]
      exact .inl ⟨rfl, rfl⟩
    · exact .inr hnoted

end Sys2Proof.Machine
end

section
/-! PROOFS. A token that passes its checks: the transition that begins, or waits for the tank (R512, R515, R524), and the transition that
is stored (R516). -/

namespace Sys2Proof.Machine

set_option Elab.async false

variable {s t u : State} {p b pay : List Byte} {target : Nat} {w : Option Nat}

/-- The command of a packet whose token has been read. -/
def State.tokenHeld (s : State) (c target : Nat) (pay : List Byte) (w : Option Nat) : State :=
  s.updCmd c (fun x => { x with body := .lifecycle target pay w })

/-- The command stands with its payload, and nothing else has changed. -/
theorem tokenHeld_stands {c : Cmd} (h : Stands c s) :
    Stands { c with body := .lifecycle target pay w } (s.tokenHeld c.cid target pay w) :=
  h.updCmd (f := fun x => { x with body := .lifecycle target pay w }) (fun _ => rfl) fun _ _ hc => nomatch hc

theorem tokenHeld_ledger (c : Nat) : LedgerOnly s (s.tokenHeld c target pay w) := updCmd_ledger s c _

theorem tokenEnergy_begins (hcov : s.tankCovers4 (transitionNeed pay.length) = true) (htar : target ≠ 4) (c : Nat) :
    s.tokenEnergy c target pay = s.tokenHeld c target pay none := by
  unfold State.tokenEnergy
  dsimp only
  rw [if_pos hcov, if_neg htar]
  rfl

theorem tokenEnergy_retires (hcov : s.tankCovers4 (transitionNeed pay.length) = true) (c : Nat) :
    s.tokenEnergy c 4 pay = (s.tokenHeld c 4 pay none).retire c := by
  unfold State.tokenEnergy
  dsimp only
  rw [if_pos hcov, if_pos rfl]
  rfl

theorem tokenEnergy_waits (hcov : s.tankCovers4 (transitionNeed pay.length) = false) (hcould : s.tankCould4 (transitionNeed pay.length) = true)
    {c : Cmd} {n : Nat} (hcmd : s.cmd? n = some c) (hbody : c.body = .lifecycle target [] none) :
    s.tokenEnergy n target pay = s.tokenHeld n target pay (some s.tmr.uptime) := by
  unfold State.tokenEnergy
  dsimp only
  rw [if_neg (by simp [hcov]), if_pos hcould, hcmd, Option.map_some, hbody]
  rfl

theorem tokenEnergy_never (hcov : s.tankCovers4 (transitionNeed pay.length) = false) (hcould : s.tankCould4 (transitionNeed pay.length) = false)
    (c : Nat) : (s.tokenEnergy c target pay).weights = s.weights ∧ s.out ⊆ (s.tokenEnergy c target pay).out := by
  obtain ⟨v, hv⟩ : ∃ v : State, v = { s with wpe := { s.wpe with holdups := satInc 0xFFFF s.wpe.holdups }, free := s.free + 1 } := ⟨_, rfl⟩
  have hend : s.tokenEnergy c target pay =
      (v.finish c (s.endHoldup (transitionNeed pay.length))).lcsLast stHoldup 6 := by
    unfold State.tokenEnergy State.holdupEnd
    dsimp only
    rw [if_neg (by simp [hcov]), if_neg (by simp [hcould]), hv]
  have hbooks : Books v ((v.finish c (s.endHoldup (transitionNeed pay.length))).lcsLast stHoldup 6) :=
    (finish_books _ _ _).trans (lcsLast_books _ _ _)
  have hout := hbooks.out
  have hweights := hbooks.ledger.weights_eq
  rw [← hend] at hout hweights
  rw [hv] at hout hweights
  exact ⟨hweights, hout⟩

/-- What RETIRED drops at once (R512, R524). -/
structure Retired (s t : State) : Prop where
  active : t.lcs.active = .retired
  fuse : t.lcs.fRet = true
  wrap : t.lcs.wrap = List.replicate 4 none
  sign : t.lcs.sign = List.replicate 4 none
  retiring : t.lcs.retiring = true
  retireAt : t.lcs.retireAt = 0
  sessions : t.wpe.sessions = []
  basins : t.basins = s.basins
  weights : t.weights = s.weights

theorem retire_spec (s : State) (c : Nat) : Retired s (s.retire c) := ⟨rfl, rfl, rfl, rfl, rfl, rfl, rfl, rfl, rfl⟩

theorem retire_stands {c : Cmd} (h : Stands c s) (hb : ∀ n k, c.body ≠ .listCall n k) (k : Nat) : Stands c (s.retire k) :=
  ⟨h.mem, h.only, .inl hb⟩

theorem retire_out (s : State) (c : Nat) : (s.retire c).out = s.out := rfl

theorem Retired.books (h : Retired s t) (k : Books t u) : Retired s u := by
  have hlcs := k.ledger.lcs_fixed
  exact ⟨(congrArg Lcs.active hlcs).trans h.active, (congrArg Lcs.fRet hlcs).trans h.fuse, (congrArg Lcs.wrap hlcs).trans h.wrap,
    (congrArg Lcs.sign hlcs).trans h.sign, (congrArg Lcs.retiring hlcs).trans h.retiring, (congrArg Lcs.retireAt hlcs).trans h.retireAt,
    List.subset_nil.mp (h.sessions ▸ k.sessions), k.ledger.basins_eq.trans h.basins, k.ledger.weights_eq.trans h.weights⟩

/-- The command is in flight with its target, its payload and the time it has waited from. -/
def TokenHeld (s t : State) (target : Nat) (pay : List Byte) (w : Option Nat) : Prop :=
  ∃ c ∈ t.cmds, c.cid = s.nextCid ∧ c.body = .lifecycle target pay w

/-- A token that passes its checks. -/
theorem token_passes {g : Fin 1024} {bytes : List Byte} (h : s.ready g.val 0x52 false = some p) (hm : Reporting s g.val)
    (hone : (s.cmds.any (fun c => c.opcode == 0x52)) = false) (hb : b = readBytes (par p 0x20 4) bytes)
    (htarget : target = par p 0x10 1) (hpay : pay = sliceAt b 64 (tokenPayloadLen b))
    (hpass : s.tokenChecks (par p 0x10 1) b = none) :
    Yields (.lifecycleAdvance g (.data bytes)) s (fun t =>
      ReadIssued s t (s.ringFunc g.val) (BitVec.ofNat 64 (par p 0x18 8)) (par p 0x20 4) ∧ t.weights = s.weights ∧
      (target ≠ 4 → s.tankCovers4 (transitionNeed pay.length) = true → TokenHeld s t target pay none ∧ LedgerOnly s t) ∧
      (s.tankCovers4 (transitionNeed pay.length) = false → s.tankCould4 (transitionNeed pay.length) = true →
        TokenHeld s t target pay (some s.tmr.uptime) ∧ LedgerOnly s t) ∧
      (target = 4 → s.tankCovers4 (transitionNeed pay.length) = true → TokenHeld s t target pay none ∧ Retired s t)) := by
  obtain ⟨hled, hissued, hstands, hcmd, -, -, -⟩ := tokenAsked_spec h hm
  have hexec := exec_lifecycleAdvance h hm hone hb (v := (s.tokenAsked g.val p).tokenEnergy s.nextCid target pay)
    (by rw [hpass, htarget, hpay])
  obtain ⟨a, ha⟩ : ∃ a, a = s.tokenAsked g.val p := ⟨_, rfl⟩
  rw [← ha] at hled hissued hstands hcmd hexec
  rw [← htarget] at hstands hcmd
  have hcovers : a.tankCovers4 (transitionNeed pay.length) = s.tankCovers4 (transitionNeed pay.length) :=
    hled.agrees (view := fun u => u.tankCovers4 (transitionNeed pay.length))
  have hcould : a.tankCould4 (transitionNeed pay.length) = s.tankCould4 (transitionNeed pay.length) :=
    hled.agrees (view := fun u => u.tankCould4 (transitionNeed pay.length))
  have hheld : ∀ w, Stands { s.headCmd g.val p (.lifecycle target [] none) none 0 with body := .lifecycle target pay w }
      (a.tokenHeld s.nextCid target pay w) := fun w => tokenHeld_stands hstands
  have hadmit : ∀ w {v : State}, Stands { s.headCmd g.val p (.lifecycle target [] none) none 0 with body := .lifecycle target pay w } v →
      TokenHeld s (v.settle g.val) target pay w := fun w v hv => ⟨_, hv.settle (fun _ _ hc => nomatch hc) g.val, rfl, rfl⟩
  have hplain : ∀ w, LedgerOnly s ((a.tokenHeld s.nextCid target pay w).settle g.val) := fun w =>
    (hled.trans (tokenHeld_ledger _)).trans (settle_ledger _ _)
  have hread : ∀ {v : State}, a.out ⊆ v.out →
      ReadIssued s (v.settle g.val) (s.ringFunc g.val) (BitVec.ofNat 64 (par p 0x18 8)) (par p 0x20 4) :=
    fun hv r hr => (settle_books _ _).out (hv (hissued r hr))
  refine ⟨_, hexec, ?_⟩
  cases hc : s.tankCovers4 (transitionNeed pay.length) with
  | true =>
    rw [hc] at hcovers
    by_cases htar : target = 4
    · subst htar
      rw [tokenEnergy_retires hcovers]
      have hst := hheld none
      have hx : LedgerOnly a (a.tokenHeld s.nextCid 4 pay none) := tokenHeld_ledger _
      have hxout : (a.tokenHeld s.nextCid 4 pay none).out = a.out := rfl
      obtain ⟨x, hxe⟩ : ∃ x, x = a.tokenHeld s.nextCid 4 pay none := ⟨_, rfl⟩
      rw [← hxe] at hst hx hxout ⊢
      have hall := (retire_spec x s.nextCid).books (settle_books _ g.val)
      have hout := retire_out x s.nextCid
      rw [hxout] at hout
      exact ⟨hread (hout ▸ List.Subset.refl _), hall.weights.trans (hx.weights_eq.trans hled.weights_eq), fun hne => absurd rfl hne,
        fun hc => absurd hc (by decide), fun _ _ => ⟨hadmit none (retire_stands hst (fun _ _ hc => nomatch hc) _),
          { hall with basins := hall.basins.trans (hx.basins_eq.trans hled.basins_eq)
                      weights := hall.weights.trans (hx.weights_eq.trans hled.weights_eq) }⟩⟩
    · rw [tokenEnergy_begins hcovers htar]
      exact ⟨hread (List.Subset.refl _), (hplain none).weights_eq, fun _ _ => ⟨hadmit none (hheld none), hplain none⟩, fun hc => absurd hc (by decide),
        fun h4 => absurd h4 htar⟩
  | false =>
    rw [hc] at hcovers
    cases hd : s.tankCould4 (transitionNeed pay.length) with
    | true =>
      rw [hd] at hcould
      rw [tokenEnergy_waits hcovers hcould hcmd rfl, show a.tmr.uptime = s.tmr.uptime by rw [hled.tmr_eq]]
      exact ⟨hread (List.Subset.refl _), (hplain _).weights_eq, fun _ hc => absurd hc (by decide), fun _ _ => ⟨hadmit _ (hheld _), hplain _⟩,
        fun _ hc => absurd hc (by decide)⟩
    | false =>
      rw [hd] at hcould
      obtain ⟨hweights, hout⟩ := tokenEnergy_never (target := target) hcovers hcould s.nextCid
      exact ⟨hread hout, (settle_ledger _ _).weights_eq.trans (hweights.trans hled.weights_eq), fun _ hc => absurd hc (by decide),
        fun _ hc => absurd hc (by decide), fun _ hc => absurd hc (by decide)⟩

/-! ### A transition that is stored (R516) -/

/-- The fuses and keys that a transition leaves. -/
theorem transition_spec (l : Lcs) (target : Nat) (pay idPub : List Byte) :
    (l.active = .manufacture → target = 1 → (l.transition target pay idPub).fProv = true ∧ (l.transition target pay idPub).testKeys = false) ∧
    (l.active = .provisioned → target = 2 → (l.transition target pay idPub).fDepl = true ∧ (l.transition target pay idPub).cert = some pay) ∧
    (l.active = .deployed → target = 3 → (l.transition target pay idPub).svcIn = l.svcIn + 1) ∧
    (l.active = .service → target = 2 → (l.transition target pay idPub).svcOut = l.svcOut + 1) := by
  unfold Lcs.transition Lcs.store Lcs.burn
  refine ⟨fun ha ht => ?_, fun ha ht => ?_, fun ha ht => ?_, fun ha ht => ?_⟩
  · simp [ha, ht]
  · simp [ha, ht]
  · simp [ha, ht]
  · simp [ha, ht]

theorem transitionDone_spec {c : Cmd} (target : Nat) (pay idPub : List Byte)
    (hfind : (s.cmds.find? (fun y => match y.body with
      | .lifecycle x _ none => decide (x ≠ 4)
      | _ => false)) = some c) (hbody : c.body = .lifecycle target pay none) (hcmd : s.cmd? c.cid = some c) (hmir : c.mir = [])
    (hdet : c.detached = false) (hhalt : (s.ring c.ring).halted = false) (hm : Reporting s c.ring) (hrun : s.enginesRun = true) :
    Yields (.lifecycleTransitionDone idPub) s (fun t => t.cmd? c.cid = none ∧
      Recorded s t c.ring c.tag c.opcode c.parent.isSome (s.lateEnd c endDone) ∧ LedgerOnly { s with lcs := t.lcs } t ∧
      t.lcs = { s.lcs.transition target pay idPub with lastStatus := stDone, lastCheck := 0 }) := by
  have hq := findSome?_of_find? (f := fun c : Cmd => match c.body with
      | .lifecycle target pay none => if target = 4 then none else some (c.cid, target, pay)
      | _ => none) hfind (fun x => by
        obtain ⟨_, _, _, _, _, _, _, _, _, _, _, _, _, _, y⟩ := x
        cases y with
        | lifecycle n q w =>
          cases w with
          | none => by_cases hn : n = 4 <;> simp [hn]
          | some v => rfl
        | _ => rfl)
  have htar : target ≠ 4 := by
    have := List.find?_some hfind
    simpa [hbody] using this
  have hsome : s.cmds.findSome? (fun c => match c.body with
      | .lifecycle target pay none => if target = 4 then none else some (c.cid, target, pay)
      | _ => none) = some (c.cid, target, pay) := by
    rw [hq, hbody]
    exact if_neg htar
  obtain ⟨v, hv⟩ : ∃ v : State, v = { s with lcs := s.lcs.transition target pay idPub } := ⟨_, rfl⟩
  have hexec : exec (.lifecycleTransitionDone idPub) s = .next ((v.finish c.cid endDone).lcsLast stDone 0) := by
    have hgo : exec (.lifecycleTransitionDone idPub) s = execLifecycleTransitionDone idPub s := rfl
    rw [hgo]
    unfold execLifecycleTransitionDone
    split
    · next hnone => exact nomatch hnone.symm.trans hsome
    · next hdata =>
      cases hdata.symm.trans hsome
      rw [if_neg (by simp [hrun]), hv]
  have hvcmd : v.cmd? c.cid = some c := by rw [hv]; exact hcmd
  have hled := finish_ledger v c.cid endDone
  have hgone := finish_gone hvcmd hmir endDone
  have hrec := finish_recorded v c endDone hvcmd hmir hdet (by rw [hv]; exact hhalt) (by rw [hv]; exact hm)
  have hlate : v.lateEnd c endDone = s.lateEnd c endDone := by
    have hblame : ∀ x : State, x.lateBlame c = (0, none) := fun x => by
      unfold State.lateBlame
      rw [hbody]
    exact lateEnd_plain s (hblame s) (hblame v) (by rw [hv]; rfl) endDone
  have hsame : SameRecords s v := by
    rw [hv]
    exact ⟨fun _ => rfl, rfl, rfl⟩
  rw [hlate] at hrec
  have hlcs := hled.lcs_fixed
  obtain ⟨f, hf⟩ : ∃ f, f = v.finish c.cid endDone := ⟨_, rfl⟩
  rw [← hf] at hexec hled hgone hrec hlcs
  refine ⟨_, hexec, hgone, (hrec.of_same hsame).mono fun _ hx => hx, ?_, ?_⟩
  · have hstep : LedgerOnly v (f.lcsLast stDone 0) := hled.trans (lcsLast_books f stDone 0).ledger
    exact ⟨by
      have := congrArg (fun x : State => ({ x with lcs := ({ (f.lcsLast stDone 0).lcs with lastStatus := 0, lastCheck := 0 } : Lcs) } : State)) hstep.1
      rw [hv] at this
      exact this, fun g => (hstep.2 g).trans (by rw [hv]; rfl)⟩
  · show ({ f.lcs with lastStatus := stDone, lastCheck := 0 } : Lcs) = _
    rw [hlcs, hv]

end Sys2Proof.Machine
end

section
/-! PROOFS. A retirement: the basins erased in order, and the end of its command (R524, R525). -/

namespace Sys2Proof.Machine

set_option Elab.async false

variable {s t u : State} {n : Nat}

/-- A cell after a range of basins' cells is cleared from the first of one basin to the first of the next. -/
theorem weight_cleared {m row col : Nat} (hrow : row < 1024) (hcol : col < 512)
    (h : t.weights = Memory.clear s.weights (weightKey n 0 0) (weightKey (n + 1) 0 0)) :
    t.weight m row col = if m = n then 0 else s.weight m row col := by
  unfold State.weight
  rw [h, Memory.read_clear]
  by_cases hm : m = n
  · rw [if_pos hm, if_pos (by unfold weightKey; omega)]
    rfl
  · rw [if_neg hm, if_neg (by unfold weightKey; omega)]

/-- One basin erased for good. -/
structure BasinRetired (n : Nat) (s t : State) : Prop where
  weights : t.weights = Memory.clear s.weights (weightKey n 0 0) (weightKey (n + 1) 0 0)
  tag : (t.basin n).tag = 0
  wstate : (t.basin n).wstate = if (s.basin n).wstate = .failed then .failed else .erased
  others : ∀ m, m ≠ n → t.basin m = s.basin m
  lcs : t.lcs = s.lcs
  cmds : t.cmds = s.cmds

/-- The wear counted, in the log too where the basin is worn. -/
theorem countWear_report (s : State) (n ter slot : Nat) :
    ∃ b, ReportOnly { s.updBasin n (fun b => { b with wear := satInc 0xFFFF b.wear }) with bist := b } (s.countWear n ter slot) := by
  unfold State.countWear
  dsimp only
  split
  · obtain ⟨b, hb⟩ := dlog_report (s.updBasin n (fun b => { b with wear := satInc 0xFFFF b.wear })) 3 3 (BitVec.ofNat 32 (s.slotWord ter slot))
      (BitVec.ofNat 64 (satInc 0xFFFF (s.basin n).wear + 65536))
    exact ⟨b, hb⟩
  · exact ⟨s.bist, .refl _⟩

theorem basin_of_basins (h : t.basins = s.basins) (m : Nat) : t.basin m = s.basin m :=
  congrArg (fun l => Tab.getD l m (Basin.initial m)) h

/-- The journal entry and the wear of one erasure. -/
def State.erasureOpened (s : State) (n : Nat) : State :=
  (s.journalOpen { erase := true, ter := basinTer n, slot := (s.slotOf n).getD 63, basin := n, firstRow := 0, count := 1
                   done := 0, sound := true }).countWear n (basinTer n) ((s.slotOf n).getD 63)

theorem erasureOpened_spec (s : State) (n : Nat) : (s.erasureOpened n).weights = s.weights ∧ (s.erasureOpened n).lcs = s.lcs ∧
    (s.erasureOpened n).cmds = s.cmds ∧ ((s.erasureOpened n).basin n).wstate = (s.basin n).wstate ∧
    ∀ m, m ≠ n → (s.erasureOpened n).basin m = s.basin m := by
  have hopen : ∀ e : JEntry, s.journalOpen e = { s with wpe := (s.journalOpen e).wpe } := fun e => by
    unfold State.journalOpen State.journalRoom
    split <;> rfl
  unfold State.erasureOpened
  rw [hopen]
  obtain ⟨v, hv⟩ : ∃ v : State, v = { s with wpe := (s.journalOpen { erase := true, ter := basinTer n, slot := (s.slotOf n).getD 63
                                                                     basin := n, firstRow := 0, count := 1, done := 0, sound := true }).wpe } :=
    ⟨_, rfl⟩
  rw [← hv]
  obtain ⟨b, hrep⟩ := countWear_report v n (basinTer n) ((s.slotOf n).getD 63)
  have hbasin : ∀ m, (v.countWear n (basinTer n) ((s.slotOf n).getD 63)).basin m =
      (v.updBasin n (fun b => { b with wear := satInc 0xFFFF b.wear })).basin m := basin_of_basins hrep.basins_eq
  have hs : ∀ m, v.basin m = s.basin m := fun m => by
    rw [hv]
    rfl
  refine ⟨?_, ?_, ?_, ?_, fun m hm => ?_⟩
  · rw [hrep.weights_eq, hv]
    rfl
  · rw [hrep.lcs_eq, hv]
    rfl
  · rw [hrep.cmds_eq, hv]
    rfl
  · rw [hbasin, basin_updBasin, if_pos rfl, ← hs]
  · rw [hbasin, basin_updBasin, if_neg hm, hs]

theorem retireBasin_spec (s : State) (n : Nat) : BasinRetired n s (s.retireBasin n) := by
  obtain ⟨hweights, hlcs, hcmds, hstate, hothers⟩ := erasureOpened_spec s n
  have hretire : s.retireBasin n = (if (s.basin n).wstate == .failed then
      ((s.erasureOpened n).tunnel n).updBasin n (fun b => { b with wstate := .failed }) else (s.erasureOpened n).tunnel n).journalClose := rfl
  obtain ⟨v, hv⟩ : ∃ v, v = s.erasureOpened n := ⟨_, rfl⟩
  rw [← hv] at hweights hlcs hcmds hstate hothers hretire
  have hself : ((v.tunnel n).basin n).tag = 0 ∧ ((v.tunnel n).basin n).wstate = .erased := by
    unfold State.tunnel
    rw [basin_updBasin, if_pos rfl]
    exact ⟨rfl, rfl⟩
  have hother : ∀ m, m ≠ n → (v.tunnel n).basin m = s.basin m := fun m hm => by
    unfold State.tunnel
    rw [basin_updBasin, if_neg hm]
    exact hothers m hm
  have hcells : (v.tunnel n).weights = Memory.clear s.weights (weightKey n 0 0) (weightKey (n + 1) 0 0) := by
    rw [← hweights]
    rfl
  have hlcs' : (v.tunnel n).lcs = s.lcs := hlcs
  have hcmds' : (v.tunnel n).cmds = s.cmds := hcmds
  obtain ⟨x, hx⟩ : ∃ x, x = v.tunnel n := ⟨_, rfl⟩
  rw [← hx] at hself hother hcells hlcs' hcmds' hretire
  rw [hretire]
  by_cases hf : (s.basin n).wstate = .failed
  · rw [if_pos (by simp [hf])]
    have hb : ∀ m, ((x.updBasin n (fun b => { b with wstate := .failed })).journalClose).basin m =
        if m = n then { x.basin n with wstate := .failed } else x.basin m := fun m =>
      basin_updBasin x n m (fun b => { b with wstate := .failed })
    exact ⟨hcells, by rw [hb, if_pos rfl]; exact hself.1, by rw [hb, if_pos rfl, if_pos hf], fun m hm => by rw [hb, if_neg hm, hother m hm],
      hlcs', hcmds'⟩
  · rw [if_neg (by simp [hf])]
    exact ⟨hcells, hself.1, by rw [if_neg hf]; exact hself.2, hother, hlcs', hcmds'⟩

/-! ### The loop -/

/-- Basins retired from the first that was left. -/
structure Retiring (k : Nat) (s t : State) : Prop where
  at_ : t.lcs.retireAt = min 4112 (s.lcs.retireAt + k)
  cells : ∀ m row col, row < 1024 → col < 512 →
    t.weight m row col = if s.lcs.retireAt ≤ m ∧ m < t.lcs.retireAt then 0 else s.weight m row col
  erased : ∀ m, s.lcs.retireAt ≤ m → m < t.lcs.retireAt → (t.basin m).tag = 0 ∧
    (t.basin m).wstate = if (s.basin m).wstate = .failed then .failed else .erased
  others : ∀ m, m < s.lcs.retireAt ∨ t.lcs.retireAt ≤ m → t.basin m = s.basin m
  next : t.lcs.retireAt = 4112 → t.lcs.retireNext = if s.lcs.retireAt < 4112 then 4112 else s.lcs.retireNext
  retiring : t.lcs.retiring = s.lcs.retiring
  cid : t.lcs.retireCid = s.lcs.retireCid
  cmds : t.cmds = s.cmds

/-- One basin retired and counted. -/
def State.retireStep (s : State) : State :=
  let t := s.retireBasin s.lcs.retireAt
  { t with lcs := { t.lcs with retireAt := s.lcs.retireAt + 1
                               retireNext := if (s.lcs.retireAt + 1) % 64 = 0 ∨ s.lcs.retireAt + 1 = 4112 then s.lcs.retireAt + 1
                                             else t.lcs.retireNext } }

theorem retireLoop_spec (k : Nat) (s : State) (h : s.lcs.retireAt ≤ 4112) : Retiring k s (s.retireLoop k) := by
  induction k generalizing s with
  | zero =>
    have hnone : ∀ m, ¬ (s.lcs.retireAt ≤ m ∧ m < s.lcs.retireAt) := fun m hm => by omega
    exact ⟨by show s.lcs.retireAt = _; omega, fun m row col _ _ => (if_neg (hnone m)).symm, fun m h1 h2 => absurd ⟨h1, h2⟩ (hnone m),
      fun _ _ => rfl, fun hl => (if_neg (by show ¬ s.lcs.retireAt < 4112; exact fun hc => absurd hl (Nat.ne_of_lt hc))).symm, rfl, rfl, rfl⟩
  | succ k ih =>
    by_cases hdone : 4112 ≤ s.lcs.retireAt
    · have hstop : s.retireLoop (k + 1) = s := if_pos hdone
      rw [hstop]
      have hnone : ∀ m, ¬ (s.lcs.retireAt ≤ m ∧ m < s.lcs.retireAt) := fun m hm => by omega
      exact ⟨by omega, fun m row col _ _ => (if_neg (hnone m)).symm, fun m h1 h2 => absurd ⟨h1, h2⟩ (hnone m), fun _ _ => rfl,
        fun _ => (if_neg (by omega)).symm, rfl, rfl, rfl⟩
    · have hgo : s.retireLoop (k + 1) = s.retireStep.retireLoop k := if_neg hdone
      obtain ⟨hcells, htag, hstate, hothers, hlcs, hcmds⟩ := retireBasin_spec s s.lcs.retireAt
      have hcell : ∀ m row col, row < 1024 → col < 512 →
          s.retireStep.weight m row col = if m = s.lcs.retireAt then 0 else s.weight m row col := fun m row col hr hc => weight_cleared hr hc hcells
      have hat : s.retireStep.lcs.retireAt = s.lcs.retireAt + 1 := rfl
      have hnext : s.lcs.retireAt + 1 = 4112 → s.retireStep.lcs.retireNext = 4112 := fun hl => (if_pos (.inr hl)).trans hl
      have hret : s.retireStep.lcs.retiring = s.lcs.retiring := (congrArg Lcs.retiring hlcs :)
      have hcid : s.retireStep.lcs.retireCid = s.lcs.retireCid := (congrArg Lcs.retireCid hlcs :)
      have hbasin : ∀ m, s.retireStep.basin m = (s.retireBasin s.lcs.retireAt).basin m := fun _ => rfl
      have hcmds' : s.retireStep.cmds = s.cmds := hcmds
      obtain ⟨v, hv⟩ : ∃ v, v = s.retireStep := ⟨_, rfl⟩
      rw [hgo]
      rw [← hv] at hcell hat hnext hret hcid hbasin hcmds' ⊢
      obtain ⟨iat, icells, ierased, iothers, inext, iret, icid, icmds⟩ := ih v (by omega)
      refine ⟨by omega, fun m row col hr hc => ?_, fun m hlo hhi => ?_, fun m hm => ?_, fun hl => ?_, iret.trans hret, icid.trans hcid,
        icmds.trans hcmds'⟩
      · rw [icells m row col hr hc, hcell m row col hr hc]
        by_cases hm : m = s.lcs.retireAt
        · rw [if_pos hm, ite_self, if_pos ⟨by omega, by omega⟩]
        · rw [if_neg hm]
          by_cases hin : v.lcs.retireAt ≤ m ∧ m < (v.retireLoop k).lcs.retireAt
          · rw [if_pos hin, if_pos ⟨by omega, hin.2⟩]
          · rw [if_neg hin, if_neg (by omega)]
      · by_cases hm : m = s.lcs.retireAt
        · subst hm
          rw [iothers _ (.inl (by omega)), hbasin]
          exact ⟨htag, hstate⟩
        · obtain ⟨h1, h2⟩ := ierased m (by omega) hhi
          rw [hbasin, hothers m hm] at h2
          exact ⟨h1, h2⟩
      · rw [iothers m (by omega), hbasin, hothers m (by omega)]
      · rw [if_pos (by omega), inext hl]
        split
        · rfl
        · exact hnext (by omega)

/-- The next basins of a retirement erased; after the last its command ends. -/
theorem retirementResume_spec (n : Nat) (hret : s.lcs.retiring = true) (hrun : s.enginesRun = true) (hle : s.lcs.retireAt ≤ 4112) :
    Yields (.retirementResume n) s (fun t => t.lcs.retireAt = min 4112 (s.lcs.retireAt + n) ∧
      (∀ m row col, s.lcs.retireAt ≤ m → m < t.lcs.retireAt → row < 1024 → col < 512 → t.weight m row col = 0) ∧
      (∀ m, s.lcs.retireAt ≤ m → m < t.lcs.retireAt → (t.basin m).tag = 0 ∧
        (t.basin m).wstate = (if (s.basin m).wstate = .failed then .failed else .erased)) ∧
      (∀ m row col, (m < s.lcs.retireAt ∨ t.lcs.retireAt ≤ m) → row < 1024 → col < 512 →
        t.weight m row col = s.weight m row col ∧ t.basin m = s.basin m) ∧
      (t.lcs.retireAt < 4112 → t.lcs.retiring = true ∧ t.lcs.retireCid = s.lcs.retireCid) ∧
      (t.lcs.retireAt = 4112 → t.lcs.retiring = false ∧ t.lcs.retireNext = (if s.lcs.retireAt < 4112 then 4112 else s.lcs.retireNext) ∧
        ∀ c x, s.lcs.retireCid = some c → s.cmd? c = some x → x.mir = [] → t.cmd? c = none)) := by
  obtain ⟨v, hv⟩ : ∃ v, v = s.retireLoop (min n 4112) := ⟨_, rfl⟩
  obtain ⟨hat, hcells, herased, hothers, hnext, hretiring, hcid, hcmds⟩ := retireLoop_spec (min n 4112) s hle
  rw [← hv] at hat hcells herased hothers hnext hretiring hcid hcmds
  obtain ⟨u, hu⟩ : ∃ u : State, u = { v with lcs := { v.lcs with retiring := false, retireCid := none } } := ⟨_, rfl⟩
  obtain ⟨t, ht⟩ : ∃ t : State, t = if v.lcs.retireAt < 4112 then v else match s.lcs.retireCid with
    | some c => (u.finish c endDone).lcsLast stDone 0
    | none => u := ⟨_, rfl⟩
  have hexec : exec (.retirementResume n) s = .next t := by
    refine congrArg Host.Outcome.next ((if_neg (by simp [hret, hrun])).trans ?_)
    dsimp only
    rw [← hv, ← hu, hcid]
    exact ht.symm
  have hkept : t.lcs.retireAt = v.lcs.retireAt ∧ t.weights = v.weights ∧ t.basins = v.basins ∧
      (v.lcs.retireAt < 4112 → t = v) ∧ (v.lcs.retireAt = 4112 → t.lcs.retiring = false ∧ t.lcs.retireNext = v.lcs.retireNext ∧
        ∀ c x, s.lcs.retireCid = some c → v.cmd? c = some x → x.mir = [] → t.cmd? c = none) := by
    by_cases hlast : v.lcs.retireAt < 4112
    · rw [ht, if_pos hlast]
      exact ⟨rfl, rfl, rfl, fun _ => rfl, fun hl => absurd hlast (by omega)⟩
    · rw [ht, if_neg hlast]
      have hulcs : u.lcs.retireAt = v.lcs.retireAt ∧ u.lcs.retiring = false ∧ u.lcs.retireNext = v.lcs.retireNext ∧ u.weights = v.weights ∧
          u.basins = v.basins ∧ ∀ c, u.cmd? c = v.cmd? c := by
        rw [hu]
        exact ⟨rfl, rfl, rfl, rfl, rfl, fun _ => rfl⟩
      obtain ⟨huat, huret, hunext, huw, hub, hucmd⟩ := hulcs
      cases hc : s.lcs.retireCid with
      | none => exact ⟨huat, huw, hub, fun h => absurd h hlast, fun _ => ⟨huret, hunext, fun _ _ h => nomatch h⟩⟩
      | some c =>
        have hled := finish_ledger u c endDone
        have hlcs := hled.lcs_fixed
        refine ⟨(congrArg Lcs.retireAt hlcs).trans huat, hled.weights_eq.trans huw, hled.basins_eq.trans hub, fun h => absurd h hlast,
          fun _ => ⟨(congrArg Lcs.retiring hlcs).trans huret, (congrArg Lcs.retireNext hlcs).trans hunext, fun d x hd hx hmir => ?_⟩⟩
        cases hd
        rw [← hucmd] at hx
        have hxc := cmd?_cid hx
        subst hxc
        exact finish_gone hx hmir endDone
  obtain ⟨hkat, hkw, hkb, hkgo, hkend⟩ := hkept
  have hweight : ∀ m row col, t.weight m row col = v.weight m row col := fun m row col =>
    congrArg (fun w => byteInt (Memory.read w (weightKey m row col))) hkw
  have hbasin := basin_of_basins hkb
  rw [← hkat] at hat hcells herased hothers hnext hkgo hkend
  refine ⟨t, hexec, by omega, fun m row col hlo hhi hr hc => ?_, fun m hlo hhi => ?_, fun m row col hm hr hc => ?_, fun hlt => ?_, fun hl => ?_⟩
  · rw [hweight, hcells m row col hr hc, if_pos ⟨hlo, hhi⟩]
  · rw [hbasin]
    exact herased m hlo hhi
  · rw [hweight, hcells m row col hr hc, if_neg (by omega), hbasin, hothers m hm]
    exact ⟨rfl, rfl⟩
  · rw [hkgo hlt]
    exact ⟨hretiring.trans hret, hcid⟩
  · obtain ⟨hoff, hnx, hgone⟩ := hkend hl
    refine ⟨hoff, hnx.trans (hnext hl), fun c x hc hx => hgone c x hc ?_⟩
    rw [show v.cmd? c = s.cmd? c from congrArg (fun l : List Cmd => l.find? (fun y : Cmd => y.cid == c)) hcmds]
    exact hx

/-- Settles O57: the token is checked in the state that has admitted its packet, which the checks do not see; what is stored is the fuses and
keys of its transition; and a retirement clears each basin's own cells. -/
theorem lifecycleMoves : Obligations.LifecycleMoves := by
  refine ⟨fun s g p bytes h hm hone => ?_, fun s c target pay idPub hfind hbody hcmd hmir hdet hhalt hm hrun => ?_,
    fun s n => retirementResume_spec n⟩
  · dsimp only
    cases hcheck : s.tokenChecks (par p 0x10 1) (readBytes (par p 0x20 4) bytes) with
    | some x => exact token_refused h hm hone rfl hcheck
    | none =>
      obtain ⟨t, hx, hissued, hweights, hbegin, hwait, hretire⟩ := token_passes h hm hone rfl rfl rfl hcheck
      refine ⟨t, hx, hissued, hweights, hbegin, hwait, fun h4 hcov => ?_⟩
      obtain ⟨hheld, hgone⟩ := hretire h4 hcov
      exact ⟨hheld, hgone.active, hgone.fuse, hgone.wrap, hgone.sign, hgone.retiring, hgone.retireAt, hgone.sessions, hgone.basins⟩
  · obtain ⟨t, hx, hended, hrec, hled, hlcs⟩ := transitionDone_spec target pay idPub hfind hbody hcmd hmir hdet hhalt hm hrun
    obtain ⟨hprov, hdepl, hin, hout⟩ := transition_spec s.lcs target pay idPub
    refine ⟨t, hx, hended, hrec, hled, hlcs, ?_⟩
    rw [hlcs]
    exact ⟨hprov, hdepl, hin, hout⟩

end Sys2Proof.Machine
end
